-- ==== Sys2Proof/Word.lean ====
section
/-! DEFINITION. The words of the register space and the master identity (R15, R34). -/

namespace Sys2Proof

/-- One 32-bit register word (R34). -/
abbrev Word := BitVec 32

/-- One byte of memory or flash. -/
abbrev Byte := BitVec 8

/-- A 16-bit master identity: class in bits [15:12], index in bits [11:0] (R15). -/
abbrev Mid := BitVec 16

end Sys2Proof
end

