-- ==== Sys2Proof/Syntax.lean ====
section
/-! DEFINITION. The commands of the block: one constructor of `Instr` for each row of spec/opcode_table.json, with the data that
comes from outside the block, and the records those data are. -/

namespace Sys2Proof

/-- A clock monitor (R106). -/
inductive ClkMon where
  | sysclk | refclk | fabC | fabN | fabI | cpu | sdl | ddr | xtal
  /-- The word clock of a port. -/
  | port (m : Fin 16)
deriving DecidableEq, Repr

/-- A PLL (R80, R111). -/
inductive Pll where
  | fabC | fabN | fabI | cpu | sdl | ddr
  /-- The lane PLL of a port. -/
  | lane (m : Fin 16)
deriving DecidableEq, Repr

/-- A rail with a monitor, in the order of R620's table (R624). -/
inductive Rail where
  | cpu | fab | net | sds | sds12 | ddq | vpp | io18 | io33 | orn
deriving DecidableEq, Repr

/-- A crossing group (R659). -/
inductive XGroup where
  | grt | orn | token
  /-- The group of a port instance. -/
  | port (m : Fin 16)
deriving DecidableEq, Repr

/-- An event channel of class C (R92). -/
inductive EvChannel where
  | grte | token
deriving DecidableEq, Repr


/-- The header of a Footbridge message from the partner (R428), with the link it came on. -/
structure FtbHead where
  /-- It came on FB1, not FB0. -/
  fb1 : Bool
  seq : Word
  /-- HOLDER of the sender. -/
  holder : Bool
  /-- STATE of the sender. -/
  st : Fin 16
  /-- The tick in progress at sending. -/
  tick : BitVec 64
deriving DecidableEq, Repr

/-- An armed alarm of join data (R460): its number and its words D0 to D6 as SDL_ALM_ARM takes them. -/
structure JoinAlarm where
  k : Fin 256
  words : List Word
deriving DecidableEq, Repr

/-- A RUNNING publication slot of join data (R460); the due instant in units of 2^-32 ns of PTP time. -/
structure JoinSlot where
  k : Fin 4096
  stNum : Word
  sqNum : Word
  active : Bool
  due : Nat
deriving DecidableEq, Repr

/-- A force of join data (R460). -/
structure JoinForce where
  pav : Fin 1024
  sym : BitVec 64
  value : BitVec 64
  quality : Word
deriving DecidableEq, Repr

/-- A section of the join data (R460, R461). -/
inductive JoinData where
  /-- The data of the system tick: integer part of the tracker's position, EPOCH, the tracker's EPOCH, alarms, slots and forces. -/
  | system (count : BitVec 64) (epoch : Word) (angEpoch : Byte) (alarms : List JoinAlarm) (slots : List JoinSlot) (forces : List JoinForce)
  /-- The data of a pavilion: GEN, retain shadow, records of its point range, event lists and queues in the form of R420. -/
  | pavilion (p : Fin 1024) (gen : Byte) (shadow points lists queues : List Byte)
deriving DecidableEq, Repr

/-- What a transaction on the mesh asks (R20, R33): a read or an instruction fetch of so many bytes, or a write of bytes. -/
inductive MeshOp where
  | read (n : Nat)
  | fetch (n : Nat)
  | write (bytes : List Byte)
deriving DecidableEq, Repr

/-- Wrong symbols found in a DRAM line that a transaction reads (R595): the line from the first one read, the index of its subchannel and
rank, and the symbol positions in each codeword. -/
structure BadLine where
  line : Nat
  j : Fin 32
  errs : List (List (Fin 20))
deriving DecidableEq, Repr

/-- An event as its producer hands it over (R331, R332); the event time in ns of PTP time. -/
structure PostedEvent where
  type : Byte
  queue : BitVec 13
  flow : Word
  src : BitVec 16
  ns : BitVec 96
  w5 : Word
  w6 : Word
  w7 : Word
deriving DecidableEq, Repr

/-- A producer and the unit for which it holds a refused event (R338). -/
inductive HeldBy where
  | state (stream : Fin 2048)
  | release (group : Fin 256)
  | meas (group : Fin 256)
  | din (pin : Fin 32)
  /-- The alarms' producer, which offers one held event in turn (R173). -/
  | alarm
  | capture (group : Fin 16)
  /-- The FRAME events of SV ingest. -/
  | frame
  /-- The GOOSE frame that waits at the subscriber. -/
  | goose
  | expiry (sub : Fin 4096)
deriving DecidableEq, Repr

/-- The request or answer of a CONTROL message (R428). -/
structure FtbCtl where
  epoch : Word
  req : Fin 8
  confirm : Bool
  health : Byte
  /-- K of a token request or answer. -/
  k : BitVec 64
  /-- CFGDIG of the sender. -/
  cfg : BitVec 128
deriving DecidableEq, Repr

/-- One record of a SAMPLE message (R428): stream, count, ingress time-stamp in ns, and value and quality of each channel. -/
structure FtbSampleRec where
  stream : Fin 2048
  cnt : BitVec 16
  ns : BitVec 96
  vals : List (Word × Word)
deriving DecidableEq, Repr

/-- A result of the Cascade or the Lantern whose two lanes, or the two copies of whose state, differ (R310). -/
inductive LaneResult where
  /-- The output of a stage of a channel, the first stage being 0. -/
  | stage (c : Fin 16384) (k : Fin 3)
  | average (c : Fin 16384)
  | phasor (c : Fin 16384)
  | rms (c : Fin 16384)
  /-- A sequence component of a triplet: positive, negative, zero. -/
  | component (t : Fin 8192) (i : Fin 3)
  | frequency (g : Fin 256)
  | rate (g : Fin 256)
deriving DecidableEq, Repr

/-- What a scrub finds in an item (R599). -/
inductive FoundState where
  | clean | corrected | uncorrectable
deriving DecidableEq, Repr

/-- The engines that run as two copies in lockstep (R602). -/
inductive LockEngine where
  | ingest | bandstand | goose | footbridge | sequencer | transactions | dout | sundial | gatehouse
deriving DecidableEq, Repr

/-- How the copies of registers come to be compared (R600, R601): at a use by hardware, or by the sweep, which checks the ROMs as well. -/
inductive CopyCheck where
  | atUse
  | sweep (romOk : Bool)
deriving DecidableEq, Repr

/-- What differs, or is found wrong, under lockstep (R310, R355, R356, R602). -/
inductive LockUnit where
  /-- The retirement compare of a pair. -/
  | pair (k : Fin 48)
  /-- A read of a pair's L1 or L2 finds an error. -/
  | cache (k : Fin 48) (f : FoundState)
  /-- An output of an engine. -/
  | engine (e : LockEngine)
  /-- Results of the next released set, of which the two lanes of the Cascade or the Lantern will differ. -/
  | lanes (differ : List LaneResult)
deriving DecidableEq, Repr

/-- How a word of the tap reaches the Orangery (R90): whole, with a wrong CRC, or not at all. -/
inductive TapWord where
  | good | badCrc | lost
deriving DecidableEq, Repr

/-- A command from outside the block, in the order of the table; each docstring gives the row's rule. -/
inductive Instr where
  /-- A write to a register field that has no row of its own takes effect according to the field's access code, after the lock, claim and privilege checks. (R46) -/
  | registerWrite (mid : Mid) (off : BitVec 26) (data : Word)
  /-- A change of PG_CTRL.EN starts or stops the block's function on the page, with the effect that the block's chapter gives. (R39) -/
  | pageEnable (mid : Mid) (page : BitVec 16) (on : Bool)
  /-- PG_CTRL.SRST returns the block's working state to its power-on values and leaves its configuration and counters unchanged. (R40) -/
  | blockSoftReset (mid : Mid) (page : BitVec 16)
  /-- A write of PG_LOCK.LOCK = 1 locks the configuration of the page, unless the page is claimed by an open transaction. (R43) -/
  | pageLock (mid : Mid) (page : BitVec 16)
  /-- A write of PG_LOCK.UNLOCK = 1 from master class 0x0 or 0x5 clears LOCK; from any other master it is ignored and counted. (R43) -/
  | pageUnlock (mid : Mid) (page : BitVec 16)
  /-- A write to a ctr field subtracts the written value from the count, with a floor of zero. (R50) -/
  | counterAcknowledge (mid : Mid) (off : BitVec 26) (seen : Word)
  /-- A write to a wbf field stores the clamped value as pending and updates PG_PEND. (R59) -/
  | bufferedWrite (mid : Mid) (off : BitVec 26) (data : Word)
  /-- A write of _ACK bit 0 = 1 while BUSY is 0 clears VALID and changes nothing else. (R54) -/
  | mailboxAck (mid : Mid) (mbx : BitVec 22)
  /-- A write of SYS_STROBE schedules the named strobe groups for application 32 fabric clocks later. (R61) -/
  | sysStrobe (mid : Mid) (groups : BitVec 16)
  /-- The pending values of every page of the strobe group become active at one fabric clock edge on every die. (R60) -/
  | strobeApply
  /-- A write of SYS_STROBE_TICK arms the named groups for the first tick edge at least 1 µs later. (R61) -/
  | sysStrobeTick (mid : Mid) (groups : BitVec 16)
  /-- A slower destination domain acknowledges a strobe, its value is active there and PG_PEND falls. (R63) -/
  | strbAcknowledge (off : BitVec 26)
  /-- A memory or register transaction on the Ozius mesh is checked against its master's window and decoded, then performed or refused. (R20) -/
  | meshTransaction (mid : Mid) (addr : BitVec 48) (op : MeshOp) (bad : List BadLine)
  /-- BEGIN makes an IDLE transaction slot OPEN, records its owner and clears its staging and claims. (R67) -/
  | txBegin (mid : Mid) (n : Fin 4)
  /-- A write of SYS_TXn_CLAIM claims a page for the slot or is refused with the reason in ERR. (R68) -/
  | txClaim (mid : Mid) (n : Fin 4) (page : BitVec 16)
  /-- An owner's write to a claimed page goes to staging, replacing an earlier entry for the same register. (R69) -/
  | txStagedWrite (mid : Mid) (off : BitVec 26) (data : Word)
  /-- COMMIT arms the slot for the first tick edge at least 1 µs away, or fails it at once on staging overflow. (R72) -/
  | txCommit (mid : Mid) (n : Fin 4)
  /-- COMMIT_AT arms the slot for the tick named in SYS_TXn_AT, or fails it with LATE or STOPPED. (R72) -/
  | txCommitAt (mid : Mid) (n : Fin 4) (tick : Word)
  /-- ROLLBACK discards staging and releases the claims of an OPEN slot, or of an ARMED slot at least 1 µs before its edge. (R74) -/
  | txRollback (mid : Mid) (n : Fin 4)
  /-- A COMMIT accepted while the tick generator is stopped applies the staged writes 32 fabric clocks after acceptance. (R72) -/
  | txStoppedApply
  /-- A clock monitor's measurement window ends, and its status bit rises or falls on the last two windows. (R107) -/
  | clkmonWindow (m : ClkMon) (out : Bool)
  /-- A monitored clock shows no edge for the stop-detection time and its monitor status bit rises. (R106) -/
  | clockStop (m : ClkMon)
  /-- A PLL loses lock, which shows in CRU_PLL_STAT at once and starts the measurement of the monitors it drives. (R109) -/
  | pllLockLoss (p : Pll)
  /-- A port's lane PLL locks, ending its port reset status and letting its crossing group become ready. (R659) -/
  | lanePllLock (m : Fin 16)
  /-- PWR_GOOD rises and the PLLs start, beginning the start-up sequence. (R626) -/
  | powerGoodRise
  /-- PWR_GOOD falls and the reset of RD_SYS and every RD_PORTm begins within 100 ns. (R623) -/
  | powerGoodFall
  /-- PORST_N low holds RD_SYS and every RD_PORTm in reset. (R627) -/
  | porstNLow
  /-- PORST_N rises and the start-up sequence runs as after PWR_GOOD, without a power-cycle increment. (R626) -/
  | porstNRise
  /-- RD_SYS is released 1 ms after the rise; the raw and fabric counts start at 0, PCYC increments and the cores enter the boot ROM. (R626) -/
  | rdSysRelease
  /-- A write of CRU_RST_CMD.SYSRST with the correct key schedules a system reset 32 fabric clocks later. (R112) -/
  | cruSysrst (mid : Mid) (key : BitVec 16)
  /-- A reset of RD_SYS and every RD_PORTm begins, resetting the crossing groups and failing transactions of the reset pages. (R99) -/
  | systemResetStart
  /-- The system watchdog expires TIMEOUT ms after its last restart and resets RD_SYS. (R113) -/
  | systemWatchdogExpire
  /-- A write of CRU_WDT_KICK.KICK = 1 restarts the system watchdog. (R113) -/
  | watchdogKick (mid : Mid)
  /-- A write of CRU_PORT_RST bit m resets RD_PORTm for 1 µs and discards the frames inside the port. (R99) -/
  | cruPortRst (mid : Mid) (ports : BitVec 16)
  /-- The link partner comes up after the lane PLL has relocked, and the port's link goes up. (R180) -/
  | linkUp (m : Fin 16)
  /-- A debug reset from the unlocked debug port resets RD_SYS and every RD_PORTm. (R99) -/
  | debugReset
  /-- A rail stays out of its range for 2 µs, its monitor trips, class SUPPLY counts, and the rail's effects apply. (R624) -/
  | supplyTrip (r : Rail) (absent : Bool)
  /-- ORN_RST_N low resets RD_ORN. (R99) -/
  | ornRstNLow
  /-- The Orangery's own watchdog resets RD_ORN when its firmware stops running. (R502) -/
  | orangeryWatchdogExpire
  /-- A reset of RD_GRT zeroes the calendar, counters and scratch and sets the tamper latch with GRTRST. (R636) -/
  | grottoReset
  /-- TRST_N low or the Test-Logic-Reset state resets the test access port. (R648) -/
  | tapReset
  /-- Both endpoints of a crossing group are out of reset, its initialising transfer refreshes its shadows and its ready bit rises. (R659) -/
  | crossingGroupReady (g : XGroup)
  /-- An idle event channel with a non-zero pending count raises a request that carries the count. (R93) -/
  | eventChannelRequest (c : EvChannel)
  /-- The destination takes an event channel request and adds its count to the counter it feeds. (R93) -/
  | eventChannelDeliver (c : EvChannel)
  /-- The acknowledge of an event channel request completes and the source may raise the next request. (R93) -/
  | eventChannelAckComplete (c : EvChannel)
  /-- A DOUT command enters the DOUT channel, merging into the pending command while the channel is busy. (R95) -/
  | doutChannelCommand (levels : Word) (mask : Word)
  /-- The DOUT latches apply a whole DOUT request at one Sundial clock edge. (R95) -/
  | doutLatchApply
  /-- NOW returns PTP time, raw count, increment and tick from one Sundial clock. (R115) -/
  | sdlTimeNow (mid : Mid)
  /-- PPSIN returns the most recent PPS_IN capture, or CODE NONE. (R133) -/
  | sdlTimePpsin (mid : Mid)
  /-- A SET request is checked and held pending to set B to the value given at raw count c_A. (R118) -/
  | sdlAdjSet (mid : Mid) (arg : BitVec 16) (d : List Word)
  /-- A STEP request is checked and held pending to move PTP time by D at raw count c_A. (R118) -/
  | sdlAdjStep (mid : Mid) (arg : BitVec 16) (d : List Word)
  /-- An INCR request is checked and held pending to set a clamped increment J at raw count c_A. (R123) -/
  | sdlAdjIncr (mid : Mid) (arg : BitVec 16) (d : List Word)
  /-- At raw count c_A the pending adjustment is tested again and applied in one Sundial clock, or refused. (R119) -/
  | adjustApply
  /-- A write of TICK_RUN = 1 with page 0 enabled starts the generator, fixing its first second and tick number. (R125) -/
  | tickGeneratorStart (mid : Mid)
  /-- A stopping write ends tick edges; alignment releases its pending sets and transactions and the sequencer wait. (R128) -/
  | tickGeneratorStop (mid : Mid)
  /-- The running generator produces the edge of N_next at the first raw count at which T(c) reaches its instant. (R126) -/
  | sundialTickEdge
  /-- At the fabric tick edge the sequencer applies commits and strobes, marks overruns, commits lists, copies shadows, exchanges, latches and releases. (R364) -/
  | fabricTickEdge (times : List (Fin 1024 × BitVec 20))
  /-- A requested base rate takes effect at the next tick-0 edge, renumbering ticks and failing transactions armed for later ticks. (R130) -/
  | baseRateChange
  /-- PPS_OUT rises at the first raw count at which T(c) reaches a whole second not yet marked. (R131) -/
  | ppsOutRise
  /-- PPS_OUT falls when T has advanced SDL_PPS_WIDTH µs beyond the rise. (R131) -/
  | ppsOutFall
  /-- TICK_OUT falls WIDTH × 100 ns after its rise. (R132) -/
  | tickOutFall
  /-- A rising edge on PPS_IN is registered, its raw count and time captured and SDL_PPSIN_EVT incremented. (R133) -/
  | ppsInEdge
  /-- POP of SDL_TSRm returns and removes the oldest egress time-stamp entry, or ends with EMPTY. (R144) -/
  | timestampRingPop (mid : Mid) (m : Fin 16)
  /-- A launch-time frame whose window [L, L + LATE) closes without an opportunity is dropped and counted in SDL_Pm_LTLATE. (R146) -/
  | launchLateDrop (m : Fin 16) (c : Fin 8)
  /-- A LOCKED tracker that has received no update for 5 ms passes to HOLDOVER. (R161) -/
  | trackerUpdateTimeout
  /-- A tracker in HOLDOVER passes to ACQUIRE once HOLD_MS has passed without a deciding update. (R661) -/
  | holdoverTimeout
  /-- SDL_ANG_NOW returns the published angle, count, frequency, rate and state from one Sundial clock. (R160) -/
  | sdlAngNow (mid : Mid)
  /-- An ARM from the mailbox or the sequencer's port is tested for owner, enable, lock, timing and distance and arms the alarm. (R165) -/
  | alarmArm (mid : Mid) (k : Fin 256) (d : List Word)
  /-- A CANCEL makes an ARMED alarm CANCELLED, or ends with ALREADY_FIRED. (R168) -/
  | alarmCancel (mid : Mid) (k : Fin 256)
  /-- READ returns an alarm's settings, state, flags and firing time. (R178) -/
  | alarmRead (mid : Mid) (k : Fin 256)
  /-- An armed alarm fires once at the first raw count with T(c) ≥ t_f, records its firing time and performs its action. (R166) -/
  | alarmFire (k : Fin 256)
  /-- At the end of a PULSE the alarm's pin is cleared unless another command or alarm has driven it since. (R171) -/
  | alarmPulseEnd (k : Fin 256)
  /-- A whole frame is received, time-stamped and checked for length, FCS, address and duplicates, then handed to the Trellis. (R183) -/
  | frameReceive (m : Fin 16) (bytes : List Byte) (fcsOk : Bool) (age : BitVec 20)
  /-- The pause time runs out and the transmitter resumes. (R190) -/
  | pauseExpire (m : Fin 16)
  /-- A duplicate-table entry is freed after FORGET ms without a frame from its source. (R199) -/
  | dupEntryForget (m : Fin 16) (src : BitVec 48)
  /-- At a transmit opportunity the MAC sends the head frame of the highest eligible open class, with padding, tags and FCS. (R193) -/
  | frameTransmit (m : Fin 16)
  /-- A gate control list entry begins and sets the gate states at the first raw count at its instant. (R195) -/
  | gateChange (m : Fin 16)
  /-- A request to switch the operational gate control list is taken, or refused with FAR. (R196) -/
  | macGclSw (mid : Mid) (m : Fin 16) (d : List Word)
  /-- The other list becomes operational at the first cycle start under the new settings, cutting the old cycle. (R196) -/
  | gclSwitch (m : Fin 16)
  /-- MAC_EXACT OP 0x01 writes an exact address entry. (R225) -/
  | macExactWrite (mid : Mid) (m : Fin 16) (entry : Fin 64) (d : List Word)
  /-- MAC_EXACT OP 0x02 reads an exact address entry. (R225) -/
  | macExactRead (mid : Mid) (m : Fin 16) (entry : Fin 64)
  /-- START makes a STOPPED slot RUNNING with stNum 1 and sends its first transmission at once. (R208) -/
  | gpbStart (mid : Mid) (k : Fin 4096)
  /-- STOP makes a RUNNING slot STOPPED after any transmission in progress. (R208) -/
  | gpbStop (mid : Mid) (k : Fin 4096)
  /-- PUBLISH makes the inactive buffer active as a new state, increments stNum and transmits at once. (R209) -/
  | gpbPublish (mid : Mid) (k : Fin 4096)
  /-- READ returns a slot's stNum, sqNum, buffer, state and state instant. (R229) -/
  | gpbRead (mid : Mid) (k : Fin 4096)
  /-- A RUNNING slot's next transmission falls due on the retransmission curve and is sent or muted. (R210) -/
  | gooseRetransmit (k : Fin 4096)
  /-- The GOOSE subscriber takes a frame from port 18 and checks, matches and authenticates it, then applies the state test. (R214) -/
  | gooseSubFrame
  /-- A LIVE subscription becomes EXPIRED when its timeAllowedToLive runs out, posting an expiry event. (R220) -/
  | gooseExpire (n : Fin 4096)
  /-- WRITE makes a subscription valid, or is refused with DUPKEY or INUSE. (R215) -/
  | gsbSubWrite (mid : Mid) (n : Fin 4096) (d : List Word)
  /-- READ returns a subscription. (R223) -/
  | gsbSubRead (mid : Mid) (n : Fin 4096)
  /-- DISABLE makes a subscription invalid. (R223) -/
  | gsbSubDisable (mid : Mid) (n : Fin 4096)
  /-- GSB_STATE returns a subscription's last accepted stNum, sqNum, time-stamp, state and TTL. (R223) -/
  | gsbStateRead (mid : Mid) (n : Fin 4096)
  /-- A learned entry not refreshed for TRL_AGE seconds is removed. (R239) -/
  | fdbAgeOut (e : Fin 16384)
  /-- A queue holding fewer than 64 cells on chip reads back its DRAM part in order. (R245) -/
  | spillReadback (k : Fin 3200)
  /-- A resequencer missing a predecessor for 20 slots discards the incomplete frames of that input and resynchronises; `unit` is what the fault record names. (R235) -/
  | resequenceTimeout (input : Fin 20) (output : Fin 20) (unit : Word)
  /-- The host DMA reads the next frame of a non-empty transmit ring, hands it to the Trellis and advances HEAD. (R253) -/
  | hostTxFrame
  /-- A frame of class c is written into receive ring c with its descriptor, DONE last, and HEAD advances. (R254) -/
  | hostRxDeliver (c : Fin 8)
  /-- A write of a ring's SIZE register sets HEAD and TAIL to 0 and clears its halt. (R252) -/
  | ringSizeWrite (mid : Mid) (tx : Bool) (r : Fin 8) (data : Word)
  /-- WRITE installs a static entry for a key. (R259) -/
  | trlFdbWrite (mid : Mid) (d : List Word)
  /-- READ returns the entry at an index. (R259) -/
  | trlFdbRead (mid : Mid) (e : BitVec 16)
  /-- DELETE removes the entry of a key, or ends with NOTFOUND. (R259) -/
  | trlFdbDelete (mid : Mid) (d : List Word)
  /-- FLUSH removes every learned entry. (R259) -/
  | trlFdbFlush (mid : Mid)
  /-- SV ingest takes a frame from port 16, classifies and checks it and places its ASDUs in the alignment buffer. (R266) -/
  | svFrameIngest
  /-- A stream with no placement for TMO ms becomes lost. (R279) -/
  | streamLostTimeout (k : Fin 2048)
  /-- A group's set of tick n is released H after the fabric edge of tick n + 1 and sent to the taps. (R280) -/
  | alignmentRelease (g : Fin 256)
  /-- WRITE of a stream descriptor is tested for INUSE, DUPKEY, OVERLAP and LIMIT and held until the next fabric tick edge. (R290) -/
  | sviDescWrite (mid : Mid) (k : Fin 2048) (d : List Word)
  /-- READ returns a stream descriptor. (R293) -/
  | sviDescRead (mid : Mid) (k : Fin 2048)
  /-- DISABLE makes a stream descriptor invalid at the next fabric tick edge. (R289) -/
  | sviDescDisable (mid : Mid) (k : Fin 2048)
  /-- READ returns a stream's counts and state. (R293) -/
  | sviScntRead (mid : Mid) (k : Fin 2048)
  /-- SUB subtracts written counts from a stream's counts with a floor of zero. (R293) -/
  | sviScntSub (mid : Mid) (k : Fin 2048) (d : List Word)
  /-- The Cascade filters and decimates a released set, and the Lantern forms results and points for the outputs due. (R297) -/
  | cascadeProcessSet
  /-- A write of CAS_SYNC.GO takes a sync request for the selected groups, with an optional SYNC_OUT pulse. (R301) -/
  | casSyncGo (mid : Mid) (out : Bool)
  /-- A rising edge on SYNC_IN with PINEN = 1 takes a sync request. (R301) -/
  | syncInEdge
  /-- COEF returns 24 coefficients of a ROM response. (R324) -/
  | casRespCoef (mid : Mid) (r : Fin 32) (minPhase : Bool) (part : Fin 4)
  /-- INFO returns taps, factor, group delay and attenuation of a ROM response. (R324) -/
  | casRespInfo (mid : Mid) (r : Fin 32) (minPhase : Bool)
  /-- WRITE makes a triplet valid at the next fabric tick edge. (R328) -/
  | ltnTripWrite (mid : Mid) (t : Fin 8192) (d : List Word)
  /-- READ returns a triplet. (R328) -/
  | ltnTripRead (mid : Mid) (t : Fin 8192)
  /-- DISABLE makes a triplet invalid at the next fabric tick edge. (R328) -/
  | ltnTripDisable (mid : Mid) (t : Fin 8192)
  /-- A producer's post is discarded, refused or admitted at the tail of its queue. (R335) -/
  | eventPost (e : PostedEvent)
  /-- A producer offers a held event again until the Bandstand admits it. (R338) -/
  | heldEventRetry (h : HeldBy)
  /-- BND_POST posts a SOFT event from a privileged master, or ends with FULL or NOQ. (R335) -/
  | bndPost (mid : Mid) (q : BitVec 13) (d : List Word)
  /-- A free slot entry of a pair is filled from the eligible queues by priority, affinity and ordering class. (R341) -/
  | slotFill (k : Fin 48)
  /-- A read of BND_TAKE completes the held event and returns the oldest slot entry, or waits. (R343) -/
  | bndTake (mid : Mid) (k : Fin 48)
  /-- A waiting TAKE with no entry by a + TMO returns VALID = 0. (R343) -/
  | takeTimeout (k : Fin 48)
  /-- A write of BND_DONE.DONE = 1 completes the taken event and releases its holds. (R344) -/
  | bndDone (mid : Mid) (k : Fin 48)
  /-- A pavilion posts a SOFT event through its PAV_POST mailbox. (R406) -/
  | pavPost (mid : Mid) (p : Fin 1024) (q : BitVec 13) (d : List Word)
  /-- A retirement compare mismatch halts both cores of a pair, reports the fault and withdraws the pair; `u` may also be a cache of the pair or an engine. (R355) -/
  | lockstepMismatch (u : LockUnit)
  /-- CYC_PRk_CTRL.RST restarts pair k at the boot ROM after writing back or discarding its dirty lines. (R358) -/
  | cycPairReset (mid : Mid) (k : Fin 48)
  /-- A read of CYC_PRk_NEXT returns the first released instance for the pair and makes it RUNNING. (R368) -/
  | cycNext (mid : Mid) (k : Fin 48)
  /-- A write of CYC_PRk_DONE makes a RUNNING instance DONE before its end boundary. (R369) -/
  | cycDone (mid : Mid) (k : Fin 48) (c : Fin 16) (p : Fin 1024)
  /-- The checkpoint is programmed into its boot-flash slot and its valid mark written last. (R383) -/
  | checkpointComplete
  /-- EXCHANGE names a new image and a target tick E, or is refused. (R385) -/
  | cycPvcmdExchange (mid : Mid) (p : Fin 1024) (d : List Word)
  /-- RESTART schedules a warm or cold restart of a pavilion at a named tick. (R382) -/
  | cycPvcmdRestart (mid : Mid) (p : Fin 1024) (d : List Word)
  /-- SET schedules a force of an INPUT or OUTPUT symbol at a named tick. (R388) -/
  | cycForceSet (mid : Mid) (p : Fin 1024) (d : List Word)
  /-- CLEAR schedules the removal of a force at a named tick. (R388) -/
  | cycForceClear (mid : Mid) (p : Fin 1024) (d : List Word)
  /-- READ returns a force entry's value and quality. (R392) -/
  | cycForceRead (mid : Mid) (p : Fin 1024) (d : List Word)
  /-- PAV_CMD.RESET increments GEN, fences the pavilion and notifies its cores. (R410) -/
  | pavReset (mid : Mid) (p : Fin 1024)
  /-- A pavilion reset completes within 10 µs and STATE becomes WAIT. (R413) -/
  | pavilionResetComplete (p : Fin 1024)
  /-- A pavilion's core time in a tick reaches its SHARE, counting PAV_SHAREX, notifying and fencing if HARD. (R403) -/
  | shareExhausted (p : Fin 1024)
  /-- The pavilion watchdog expires after TICKS tick edges and counts a WDT error. (R409) -/
  | pavWdtExpire (p : Fin 1024)
  /-- A write of PAV_KICK.KICK = 1 restarts the pavilion watchdog. (R409) -/
  | pavKick (mid : Mid) (p : Fin 1024)
  /-- FREEZE names a bounding tick F at which the pavilion will be frozen, or is refused. (R417) -/
  | pavMigFreeze (mid : Mid) (p : Fin 1024) (d : List Word)
  /-- SAVE of a FROZEN pavilion names a buffer for its image. (R418) -/
  | pavMigSave (mid : Mid) (p : Fin 1024) (d : List Word)
  /-- RESTORE names an image and a tick R, and is accepted only if the image and configuration match. (R421) -/
  | pavMigRestore (mid : Mid) (p : Fin 1024) (d : List Word)
  /-- THAW schedules a FROZEN pavilion's warm restart at a named tick. (R422) -/
  | pavMigThaw (mid : Mid) (p : Fin 1024) (d : List Word)
  /-- DISCARD makes a FROZEN pavilion OFF, increments GEN and lifts the fence. (R422) -/
  | pavMigDiscard (mid : Mid) (p : Fin 1024) (d : List Word)
  /-- The image is written and STATE returns to FROZEN. (R418) -/
  | saveComplete (p : Fin 1024)
  /-- A CONTROL message from the partner is received, carrying state, health, token requests and answers. (R428) -/
  | ftbControl (h : FtbHead) (c : FtbCtl)
  /-- A partner DIGEST is received and its OUT compared with the module's own. (R442) -/
  | ftbDigest (h : FtbHead) (n : BitVec 64) (out : BitVec 128) (inp : BitVec 128)
  /-- A SAMPLE message from the partner places mirrored ASDU copies in the alignment buffer. (R433) -/
  | ftbSample (h : FtbHead) (recs : List FtbSampleRec)
  /-- An EVENT message from the partner joins its batch and is merged with the local copy. (R437) -/
  | ftbEvent (h : FtbHead) (e : PostedEvent) (key : BitVec 64) (entry : List Byte)
  /-- A JOIN message carries a section of join data from the donor to the joiner. (R461) -/
  | ftbJoinData (h : FtbHead) (d : JoinData)
  /-- A CONTROL is sent on a link after 10 µs without any message of the module's own on it. (R428) -/
  | controlKeepalive
  /-- A SAMPLE message is sent when it holds 8000 bytes of records or 1 µs after its first record. (R428) -/
  | sampleBatchSend
  /-- PAIR_HB_OUT toggles every 10 µs. (R429) -/
  | pairHbToggle
  /-- An edge on PAIR_HB_IN shows the partner alive and restarts the heartbeat loss time. (R429) -/
  | pairHbInEdge
  /-- No edge on PAIR_HB_IN for HB_US declares heartbeat loss. (R429) -/
  | heartbeatLoss
  /-- No valid message on both links for FB_US declares Footbridge loss. (R429) -/
  | footbridgeLoss
  /-- The heartbeat GOOSE is sent every PER_US. (R430) -/
  | heartbeatGooseSend
  /-- The partner's heartbeat GOOSE is received, showing its side, holder and epoch. (R430) -/
  | partnerHeartbeatGoose (m : Fin 16) (bytes : List Byte) (fcsOk : Bool) (age : BitVec 20)
  /-- No partner heartbeat GOOSE for N × PER_US declares heartbeat-GOOSE loss. (R430) -/
  | heartbeatGooseLoss
  /-- A partner DIGEST not received within DIGWAIT is missing, counted and starts a diagnosis. (R442) -/
  | digestMissing
  /-- At the edge of N + 2 a diagnosis compares fault states and decides the outcome, writing a DIAG record. (R443) -/
  | diagnosisEnd
  /-- At the cut of batch N its merged events are admitted to the Bandstand in order, one per clock. (R438) -/
  | batchCut
  /-- HANDOVER makes the holder OFFER the token at tick K. (R450) -/
  | ftbTokenHandover (mid : Mid) (d : List Word)
  /-- CLAIM makes an INSTEP standby ask for the token at tick K. (R450) -/
  | ftbTokenClaim (mid : Mid) (d : List Word)
  /-- Two ticks after a freeze with no takeover the freeze ends and the module drives as a FAULTY holder. (R448) -/
  | freezeTimeout
  /-- The PRIMARY module, in step for REVERT_HOLD seconds, claims the token back. (R455) -/
  | revert
  /-- After 1 s of listening at enable the module becomes DIVERGED or ALONE as the partner's state gives. (R456) -/
  | pairListenEnd
  /-- A JOIN request is checked and makes the module JOINING with a system tick J₀. (R460) -/
  | ftbJoin (mid : Mid)
  /-- Join data not arrived within 100 µs leave the pavilion unjoined for a retry. (R461) -/
  | joinDataTimeout
  /-- LAST returns the last own and partner digests. (R464) -/
  | ftbDigLast (mid : Mid)
  /-- LASTMIS returns the digests of the last mismatched or missing tick. (R464) -/
  | ftbDigLastmis (mid : Mid)
  /-- LASTMIS_IN returns the IN digests of that tick. (R464) -/
  | ftbDigLastmisIn (mid : Mid)
  /-- A word arrives on the class D tap and is checked for CRC and sequence. (R90) -/
  | tapWordReceive (w : TapWord)
  /-- The Orangery computes a metering interval once it holds the sets that cover it, corrects and accumulates. (R476) -/
  | intervalCompute
  /-- An accepted CIRCUIT, CORR, PULSE or PARAM request takes effect at the next interval boundary. (R477) -/
  | intervalBoundaryApply
  /-- A due pulse is emitted on ORN_PULSEk, spread over the 100 ms after the interval. (R490) -/
  | pulseEmit (k : Fin 4)
  /-- CIRCUIT defines a circuit's connection and elements, or is refused with SEALED or LIMIT. (R470) -/
  | ornCircuit (mid : Mid) (arg : BitVec 16) (d : List Word)
  /-- CORR_CH sets a channel slot's gain and phase correction. (R477) -/
  | ornCorrCh (mid : Mid) (arg : BitVec 16) (d : List Word)
  /-- CORR_Q sets a circuit's per-quantity gains and offsets. (R477) -/
  | ornCorrQ (mid : Mid) (arg : BitVec 16) (d : List Word)
  /-- PULSE assigns a pulse output to a circuit and accumulator. (R490) -/
  | ornPulseAssign (mid : Mid) (arg : BitVec 16) (d : List Word)
  /-- PARAM sets the save period, seal timeout and role. (R484) -/
  | ornParam (mid : Mid) (arg : BitVec 16) (d : List Word)
  /-- OPEN verifies an HMAC tag over the nonce and opens the seal, or fails. (R493) -/
  | ornOpen (mid : Mid) (arg : BitVec 16) (d : List Word)
  /-- CLOSE closes the seal. (R492) -/
  | ornClose (mid : Mid)
  /-- FWLOAD writes a 32-byte chunk of firmware into the inactive bank. (R500) -/
  | ornFwload (mid : Mid) (arg : BitVec 16) (d : List Word)
  /-- FWACT checks the loaded image, saves, audits and restarts RD_ORN on the new bank. (R500) -/
  | ornFwact (mid : Mid) (arg : BitVec 16) (d : List Word)
  /-- KEYLOAD from the Gatehouse stores the metrology key under the seal condition. (R495) -/
  | ornKeyload (mid : Mid) (arg : BitVec 16) (d : List Word)
  /-- SAVE saves the accumulators at once after the interval being computed. (R484) -/
  | ornSave (mid : Mid)
  /-- DIAGCLR clears the diagnostics of one or all circuits. (R473) -/
  | ornDiagclr (mid : Mid) (arg : BitVec 16)
  /-- ENERGY_A returns the active and apparent accumulators after one interval. (R482) -/
  | ornEnergyA (mid : Mid) (second : Bool) (arg : BitVec 16)
  /-- ENERGY_R returns the reactive accumulators after one interval. (R482) -/
  | ornEnergyR (mid : Mid) (second : Bool) (arg : BitVec 16)
  /-- INSTANT returns a circuit's corrected powers of the last interval. (R478) -/
  | ornInstant (mid : Mid) (second : Bool) (arg : BitVec 16)
  /-- ID returns the firmware digest, version, MEVT and role. (R499) -/
  | ornId (mid : Mid) (second : Bool)
  /-- CHALLENGE returns a new 16-byte nonce. (R493) -/
  | ornChallenge (mid : Mid) (second : Bool)
  /-- CIRCUIT read returns a circuit as written. (R506) -/
  | ornCircuitRead (mid : Mid) (second : Bool) (arg : BitVec 16)
  /-- CORR read returns a slot's or circuit's corrections. (R506) -/
  | ornCorrRead (mid : Mid) (second : Bool) (ofCircuit : Bool) (arg : BitVec 16)
  /-- PULSE read returns a pin's assignment and pulses due. (R506) -/
  | ornPulseRead (mid : Mid) (second : Bool) (arg : BitVec 16)
  /-- PARAM read returns the parameters as written. (R506) -/
  | ornParamRead (mid : Mid) (second : Bool)
  /-- AUDIT returns one audit record. (R498) -/
  | ornAudit (mid : Mid) (second : Bool) (arg : BitVec 16)
  /-- LOSSHDR returns the header of a loss record. (R486) -/
  | ornLosshdr (mid : Mid) (second : Bool) (arg : BitVec 16)
  /-- LOSSCIR returns a circuit's bounds in a loss record. (R486) -/
  | ornLosscir (mid : Mid) (second : Bool) (arg : BitVec 16)
  /-- DIAG returns a circuit's diagnostic counts. (R473) -/
  | ornDiag (mid : Mid) (second : Bool) (arg : BitVec 16)
  /-- At a start of RD_ORN the Orangery checks its firmware bank, loads its newest valid save and resumes metering. (R501) -/
  | orangeryStart (bankOk : Bool)
  /-- ORN_SEAL_N changes, debounced over 10 ms, and a rise closes the seal. (R492) -/
  | sealPinChange (low : Bool)
  /-- SEAL_TMO after the OPEN the seal closes and an audit record is written. (R492) -/
  | sealTimeout
  /-- 600 s after the lockout began, OPEN is accepted again. (R494) -/
  | lockoutEnd
  /-- Once per second the Orangery trims its oscillator against the divided reference. (R502) -/
  | oscillatorTrim (refOk : Bool)
  /-- A TIMEOUT unit fires when T0 has passed since its last transition, sample or frame. (R510) -/
  | triggerTimeout (u : Fin 64)
  /-- A frame reaching Trellis port 19 is taken as a FRAME source sample. (R507) -/
  | mirrorFrameRecord
  /-- A capture closes after its last set, its header is written COMPLETE last and the group moves on. (R515) -/
  | captureClose (g : Fin 16)
  /-- A command trigger triggers the group at the time of its taking. (R514) -/
  | blvCgTrig (mid : Mid) (g : Fin 16)
  /-- A write of REL releases a held slot. (R517) -/
  | blvCgRel (mid : Mid) (g : Fin 16) (slots : BitVec 16)
  /-- A mask table copied from DRAM comes into use from the next mains cycle. (R521) -/
  | maskTableLoad (m : Fin 64)
  /-- With the write buffer at 1.5 MiB or more, one group's DIV is doubled. (R522) -/
  | rateHalvingStep
  /-- After 1 ms below 512 KiB, one group's DIV is halved. (R523) -/
  | rateRestoreStep
  /-- WRITE sets a source entry at the next fabric tick edge. (R531) -/
  | blvSrcWrite (mid : Mid) (e : Fin 1024) (d : List Word)
  /-- READ returns a source entry. (R531) -/
  | blvSrcRead (mid : Mid) (e : Fin 1024)
  /-- DISABLE invalidates a source entry, or ends with INUSE. (R531) -/
  | blvSrcDisable (mid : Mid) (e : Fin 1024)
  /-- An event is accepted into staging as a record, counted as a repeat, or lost. (R547) -/
  | herbariumEvent (type : BitVec 16) (src : BitVec 16) (args : List Word)
  /-- REPWIN ms after its last occurrence a record is closed and its REPEAT field programmed. (R545) -/
  | recordCloseTimeout
  /-- A flash program of a record part completes and the next part or record is written. (R536) -/
  | flashProgramDone (ok : Bool)
  /-- A sector erase completes and its SECTOR record is written. (R553) -/
  | flashEraseDone (ok : Bool)
  /-- FREEZE = 1 completes the operation in progress, suspends erase and stops writing. (R548) -/
  | hrbFreeze (mid : Mid)
  /-- FREEZE = 0 resumes erase and writes deferred closings and staged records. (R549) -/
  | hrbUnfreeze (mid : Mid)
  /-- The Herbarium scans the flash for its current sector and next page, then writes START. (R552) -/
  | herbariumScan
  /-- HRB_READ returns 48 bytes of page HRB_RDADDR. (R555) -/
  | hrbRead (mid : Mid) (part : Fin 8)
  /-- SET writes the count and first offsets of a class's snapshot selection. (R555) -/
  | hrbSnapSet (mid : Mid) (arg : BitVec 16) (d : List Word)
  /-- SETHI writes offsets 11 to 22 of a selection. (R555) -/
  | hrbSnapSethi (mid : Mid) (arg : BitVec 16) (d : List Word)
  /-- SETLAST writes offsets 23 to 29 of a selection. (R555) -/
  | hrbSnapSetlast (mid : Mid) (arg : BitVec 16) (d : List Word)
  /-- READ returns part of a class's selection and SNAPVER. (R555) -/
  | hrbSnapRead (mid : Mid) (arg : BitVec 16)
  /-- HRB_LOG submits a MANAGER or FIRMWARE record. (R555) -/
  | hrbLog (mid : Mid) (arg : BitVec 16) (d : List Word)
  /-- A root birth completes its fuse programs and writes ROOTBORN. (R558) -/
  | rootBirthComplete
  /-- An entropy health test fails, ENTERR rises and random requests end with ENTROPY. (R559) -/
  | entropyHealthFail
  /-- WRITE starts an update of a slot with a plain, wrapped or generated key. (R566) -/
  | gthKeyWrite (mid : Mid) (arg : BitVec 16) (d : List Word)
  /-- READ returns a slot's state, type, permissions and check value. (R587) -/
  | gthKeyRead (mid : Mid) (arg : BitVec 16)
  /-- REVOKE revokes a slot at once and writes a revoked record. (R574) -/
  | gthKeyRevoke (mid : Mid) (arg : BitVec 16)
  /-- ERASE makes a slot EMPTY. (R574) -/
  | gthKeyErase (mid : Mid) (arg : BitVec 16)
  /-- LIFECYCLE moves the lifecycle forward to a target state. (R561) -/
  | gthKeyLifecycle (mid : Mid) (arg : BitVec 16) (d : List Word)
  /-- METROLOAD issues KEYLOAD of slot 4095's key to the Orangery. (R580) -/
  | gthKeyMetroload (mid : Mid) (arg : BitVec 16)
  /-- FUSEKEY programs a boot-key digest row once. (R582) -/
  | gthKeyFusekey (mid : Mid) (arg : BitVec 16) (d : List Word)
  /-- FUSEREV sets the revoke bit of a row. (R582) -/
  | gthKeyFuserev (mid : Mid) (arg : BitVec 16) (d : List Word)
  /-- BOOTVER raises the anti-rollback count. (R582) -/
  | gthKeyBootver (mid : Mid) (arg : BitVec 16) (d : List Word)
  /-- The VALID program of a slot record completes and the new contents take effect in key memory. (R566) -/
  | keyStoreValid
  /-- When GTH page 0 is enabled every slot is loaded from its copies within 300 ms. (R569) -/
  | keyStoreLoad
  /-- GMAC computes a tag over a buffer with a slot key. (R579) -/
  | gthReqGmac (mid : Mid) (k : Fin 48) (arg : BitVec 16) (d : List Word)
  /-- GMACCHK checks a buffer's tag against an expected tag. (R579) -/
  | gthReqGmacchk (mid : Mid) (k : Fin 48) (arg : BitVec 16) (d : List Word)
  /-- HMAC computes an HMAC-SHA-256 tag over a buffer. (R579) -/
  | gthReqHmac (mid : Mid) (k : Fin 48) (arg : BitVec 16) (d : List Word)
  /-- VERIFY checks an ECDSA P-384 signature with a public slot. (R579) -/
  | gthReqVerify (mid : Mid) (k : Fin 48) (arg : BitVec 16) (d : List Word)
  /-- SEALTAG returns the Orangery OPEN tag for a nonce under the metrology key. (R580) -/
  | gthReqSealtag (mid : Mid) (k : Fin 48) (arg : BitVec 16) (d : List Word)
  /-- CHALLENGE returns a fresh debug challenge and the device identity. (R583) -/
  | gthDbgChallenge (mid : Mid)
  /-- UNLOCK parts deliver the key and signature; at part 3 the debug port unlocks or the attempt fails. (R583) -/
  | gthDbgUnlock (mid : Mid) (arg : BitVec 16) (d : List Word)
  /-- The patrol scrub reads a DRAM line and writes it back corrected where needed. (R606) -/
  | dramScrubStep (j : Fin 32) (errs : List (List (Fin 20)))
  /-- The on-chip scrub reads and corrects one line of an on-chip bank. (R604) -/
  | onchipScrubStep (u : Fin 16) (bank : Byte) (item : Nat) (f : FoundState)
  /-- Every 10 ms a sweep compares register copies and checks the ROM CRCs; or the copies are found wrong at a use instead. (R601) -/
  | registerSweep (fixed : List (BitVec 28)) (lost : List (BitVec 28)) (found : CopyCheck)
  /-- Every 10 ms the Gatehouse memories' two copies are compared. (R604) -/
  | gatehouseMemoryCompare (fixed : List (Fin 4096)) (lost : List (Fin 4096)) (cache : List (Fin 4096))
  /-- A background activity that misses its bound is counted in BG_LATE. (R607) -/
  | backgroundLate (n : Fin 5)
  /-- MEM_MARKSET sets or clears a device mark. (R616) -/
  | memMarkset (mid : Mid) (data : Word)
  /-- Each second the listed counters are read and sent as telemetry frames, or the second is skipped. (R613) -/
  | telemetrySend
  /-- The sub-second count wraps and the calendar seconds increment. (R633) -/
  | calendarSecond
  /-- Every 32 768 crystal edges with PWR_GOOD high OPSEC increments. (R634) -/
  | opsecIncrement
  /-- TAMPER_N low at a crystal edge sets the tamper latch, counts and sends a GRTE pulse. (R635) -/
  | tamperDetect (low : Bool)
  /-- NOW returns calendar, OPSEC and PCYC from one crystal edge. (R638) -/
  | grtTimeNow (mid : Mid)
  /-- SCRREAD returns 32 scratch bytes with parity status. (R637) -/
  | grtScrread (mid : Mid) (arg : BitVec 16)
  /-- SETCAL writes the calendar seconds and clears the sub-second count. (R633) -/
  | grtSetcal (mid : Mid) (d : List Word)
  /-- TAMPCLR clears the tamper latch and count if TAMPER_N is high, or ends with PINLOW. (R635) -/
  | grtTampclr (mid : Mid)
  /-- SCRWRITE writes 32 scratch bytes. (R638) -/
  | grtScrwrite (mid : Mid) (arg : BitVec 16) (d : List Word)
  /-- RSTCLR clears GRTRST. (R636) -/
  | grtRstclr (mid : Mid)
  /-- DEB consecutive samples of a new level change a DIN pin's debounced level and compose an event where EDGE matches. (R645) -/
  | dinLevelAccept (pin : Fin 32)
  /-- The boot ROM on pair 0 checks both images, copies the chosen payload to SRAM and enters it. (R630) -/
  | bootImageSelect (err0 : Bool) (err1 : Bool)
  /-- A write of DBG_BOOT_GO0 or GO1 starts the named waiting pairs at DBG_BOOT_ENTRY. (R631) -/
  | dbgBootGo (mid : Mid) (second : Bool) (pairs : Word)
  /-- READ returns 48 boot-flash bytes and advances DBG_BFL_ADDR. (R654) -/
  | dbgBflRead (mid : Mid) (ok : Bool)
  /-- PROGRAM writes 32 bytes to the boot flash outside the protected regions. (R654) -/
  | dbgBflProgram (mid : Mid) (d : List Word) (ok : Bool)
  /-- ERASE erases a 4 KiB boot-flash sector outside the protected regions. (R654) -/
  | dbgBflErase (mid : Mid) (ok : Bool)
  /-- DBG_DOUT sends a levels-and-mask command on the DOUT channel. (R644) -/
  | dbgDout (mid : Mid) (levels : Word) (mask : Word)
  /-- EXTEST makes the boundary cells drive and capture the pins. (R649) -/
  | tapExtest (pins : BitVec 1874) (shift : BitVec 1874)
  /-- SAMPLE/PRELOAD samples the pins and preloads the boundary register. (R649) -/
  | tapSamplePreload (pins : BitVec 1874) (shift : BitVec 1874)
  /-- IDCODE selects the identification register holding 0xB128_0CB5. (R648) -/
  | tapIdcode
  /-- CLAMP drives the pins from the boundary register with the bypass register selected. (R649) -/
  | tapClamp
  /-- HIGHZ places the outputs in high impedance. (R649) -/
  | tapHighz
  /-- EXTEST_PULSE tests the AC serdes pins under IEEE 1149.6. (R649) -/
  | tapExtestPulse (pins : BitVec 1874) (shift : BitVec 1874)
  /-- EXTEST_TRAIN tests the AC serdes pins with a pulse train under IEEE 1149.6. (R649) -/
  | tapExtestTrain (pins : BitVec 1874) (shift : BitVec 1874)
  /-- DBGACC makes a mesh access as master 0x6000, or 0x6001 while unlocked. (R649) -/
  | tapDbgacc (addr : BitVec 48) (op : MeshOp) (bad : List BadLine)
  /-- BYPASS, or any unassigned opcode, selects the one-bit bypass register. (R649) -/
  | tapBypass
  /-- A private test instruction acts only where the lifecycle opens it, and otherwise acts as BYPASS. (R650) -/
  | tapPrivate
  /-- A PLL acquires or regains lock, its CRU_PLL_STAT bit rises and its unlock cause for class CLK falls. (R109) -/
  | pllLocked (p : Pll)
  /-- A port's link partner or signal is lost and MAC_LINK.LINK falls. (R180) -/
  | linkDown (m : Fin 16)
  /-- A rail whose monitor tripped returns within its operating range and the holds and effects of its absence end. (R625) -/
  | supplyRestore (r : Rail)
  /-- VBAT falls below or returns above 2.0 V while VDD_IO18 is present, changing GRT_STAT.VBATLOW. (R625) -/
  | vbatLow (low : Bool)
  /-- The failing entropy health test passes again, ENTERR falls and random-bit requests are served again. (R559) -/
  | entropyHealthPass
  /-- The 1 µs SYNC_OUT pulse ends and the pin falls. (R301) -/
  | syncOutFall
  /-- A slower domain refreshes the rsh shadow registers of a register by a class A transfer. (R52) -/
  | shadowRefresh (off : BitVec 26)
  /-- At each raw count that is a multiple of 1000 every DIN pin is sampled, updating DBG_DIN_RAW, the debounce runs and, with EN = 0, the debounced level. (R645) -/
  | dinSample (levels : Word)
  /-- The DDR5 controllers finish training within 6 ms of the rise and MEM_SIZE becomes valid. (R626) -/
  | dramTrainingComplete (gib : BitVec 9)
deriving DecidableEq, Repr

end Sys2Proof
end

