-- ==== Sys2Proof/Decode.lean ====
section
/-! DEFINITION. The commands that words of the opcode table spell. The table gives none of its rows any bits, so no word spells one. -/

namespace Sys2Proof

/-- The command that a word spells by the table's bits: none of its rows has any (log 1). -/
def decodeTableWord (_nbits _w : Nat) : Option Instr := none

end Sys2Proof
end

