-- ==== Sys2Proof/Config.lean ====
section
/-! DEFINITION. What the spec leaves open: constants without a body, so that no proof can see a value of them. Each is named in a
row of notes/assumptions. -/

namespace Sys2Proof.Config

/-- The n-th free value that the machine draws where the spec leaves a value open (log 2). -/
opaque freeValue : Nat → Nat

/-- The `kp` bits of the register at an offset, at the n-th draw (R46: an unspecified value; log 2). -/
opaque kpBits : Nat → Nat → Nat

/-- PG_VER.MINOR of the page at an offset (R38: per page, no value given; log 12). -/
opaque pageMinor : Nat → Nat

/-- The die temperatures that DBG_TEMP reports at the n-th draw (R647, R653; log 13). -/
opaque dieTemps : Nat → Nat

/-! ### Cryptographic functions that the spec takes from NIST publications and does not state (log 36); octets, first octet first -/

/-- HMAC-SHA-256 of a message under a key, as a big-endian number of 256 bits (FIPS 198-1; R572, R579). -/
opaque hmac : List Nat → List Nat → Nat

/-- AES-GMAC of a message under a key and an IV, as a big-endian number of 128 bits (NIST SP 800-38D; R579). -/
opaque gmac : List Nat → List Nat → List Nat → Nat

/-- 256 bits of AES-256 counter-mode key stream of a key and an initial counter block (NIST SP 800-38A; R565). -/
opaque aesCtr : List Nat → List Nat → Nat

/-- AES-CMAC of a message under a key, as a big-endian number of 128 bits (NIST SP 800-38B; R565). -/
opaque cmac : List Nat → List Nat → Nat

/-- AES-256-GCM decryption: key, IV, additional data, ciphertext and tag; none where the tag fails (NIST SP 800-38D; R587). -/
opaque gcmOpen : List Nat → List Nat → List Nat → List Nat → List Nat → Option (List Nat)

/-- SHA-256 of a message, as a big-endian number (FIPS 180-4; R432, R441). -/
opaque sha256 : List Nat → Nat

/-- SHA-384 of a message, as a big-endian number (FIPS 180-4; R581). -/
opaque sha384 : List Nat → Nat

/-- ECDSA P-384 verification: public key X and Y, digest, r and s (FIPS 186-5; R579, R581). -/
opaque p384 : List Nat → Nat → List Nat → Bool

/-- The IEC 62351-6 security fields of a frame: key identifier and ALG of the slot its MAC algorithm needs, none where it carries no
tag or an algorithm that R577 does not support. -/
opaque secField : List Nat → Option (Nat × Nat)

/-- The IEC 62351-6 tag of a frame verifies under a key (R577). -/
opaque secTag : List Nat → List Nat → Bool

/-- The 64-bit identity of the device (R583). -/
opaque deviceIdentity : Nat

/-! ### The response ROM and the Lantern's functions (log 48) -/

/-- Coefficient `k` of a response, as 16 bits: form, response, index (R298, R305: the source gives no coefficients, and holds those of the device
to the properties that `romHolds` checks). -/
opaque coef : Nat → Nat → Nat → Nat

/-- The radial and the tangential deviation of a written X from that of R311, in 2^-32 of it (R312; R317 bounds it): the window's values newest
first, K in 2^-16, the frequency in 2^-32 Hz and f_o. -/
opaque phasorError : List Int → Nat → Nat → Nat → Int × Int

/-- X where the chain's gain at the frequency is 0 and R311 divides by it, in 2^-32: the same arguments. -/
opaque phasorNoGain : List Int → Nat → Nat → Nat → Int × Int

/-- The argument of a phasor of 0, in 2^-32 cycle (R312 gives none). -/
opaque angleOfZero : Nat

/-- The deviation of f_g from the mean of R314, in 2^-32 Hz (R317 bounds it): the raw values of the mean, newest first. -/
opaque frequencyError : List Nat → Int

/-- The deviation of ρ from R314, in 2^-32 Hz/s (R317 bounds it): f_g at the two outputs, and the outputs between. -/
opaque rateError : Nat → Nat → Nat → Int

/-! ### The Orangery (log 49) -/

/-- The taps of the decimation from a stream rate to its reactive rate, in 2^-30, from the middle one on (R475: the source gives none). -/
opaque meterTaps : Nat → List Int

/-- The taps 1 to 127 of the Hilbert transformer of a reactive rate, in 2^-30; tap −j is minus tap j (R475: the source gives none). -/
opaque hilbertTaps : Nat → List Int

/-- The deviation of a metered quantity from the exact computation: circuit, interval, quantity (R503 bounds it). -/
opaque meterError : Nat → Nat → Nat → Int

/-- The 64-bit identity of the Orangery die (R493). -/
opaque ornIdentity : Nat

end Sys2Proof.Config
end

