-- ==== Sys2Proof/Machine/State.lean ====
section
/-! DEFINITION. The state of the PV1280: what the spec gives the block, as plain data, one structure per chapter, and the state
right after a release of RD_SYS at the first start (R626, R631). Each field's docstring gives its rule, width and reset value;
INVENTORY.md lists them. -/

namespace Sys2Proof.Machine

/-- A table of like things by number; a number that is not listed holds the default its reader names. -/
abbrev Tbl (α : Type) := List (Nat × α)

/-! ### Register pages and transactions (02_parterre_registers.md) -/

/-- A pending value of the `wbf` fields of one register (R59, R60, R62, R63). -/
structure PendEntry where
  /-- Offset of the register in the register space. -/
  addr : Nat
  /-- The pending word, each field clamped by its own range (R12, R59). -/
  val : Nat
  /-- Fabric clock at which the last write was accepted (R62). -/
  acc : Nat
  /-- Number of the strobe that this value was sent with to its slower domain, whose acknowledge is awaited; 0 before one (R63, R96). -/
  sent : Nat := 0
deriving DecidableEq, Repr

/-- A mailbox (R53–R57, R656, R657). -/
structure Mbx where
  /-- ARG of the last accepted _CMD (R656); 16 bits; reset 0. -/
  arg : Nat := 0
  /-- OP of the last accepted _CMD (R656); 8 bits; reset 0. -/
  op : Nat := 0
  /-- WRITE of the last accepted _CMD (R656); 1 bit; reset 0. -/
  wr : Bool := false
  /-- _STAT.BUSY (R53); 1 bit; reset 0. -/
  busy : Bool := false
  /-- _STAT.VALID (R53); 1 bit; reset 0. -/
  valid : Bool := false
  /-- _STAT.SEQ (R53); 8 bits; reset 0. -/
  seq : Nat := 0
  /-- _STAT.CODE (R53); 8 bits; reset 0. -/
  code : Nat := 0
  /-- Master identity of the request in progress (R14). -/
  mid : Nat := 0
  /-- Data words _D0 to _D11, a word past the end is 0 (R53); 384 bits; reset 0 (DESIGN CHOICE, log 4). -/
  d : List Word := []
deriving DecidableEq, Repr

/-- The state of a transaction slot (R66). -/
inductive TxPhase where
  | idle | opened | armed
deriving DecidableEq, Repr

/-- What an ARMED slot waits for: a tick, the first edge from a fabric clock, or the fabric clock of the stopped generator (R72). -/
inductive TxTarget where
  /-- The first fabric clock whose tick edge applies a slot armed by COMMIT. -/
  | edge (c : Nat)
  /-- The absolute tick number whose edge applies the slot. -/
  | tick (n : Nat)
  /-- The fabric clock at which a COMMIT taken while the generator is stopped applies. -/
  | clock (c : Nat)
deriving DecidableEq, Repr

/-- One staged register write with the identity of its writer (R18, R70). -/
structure Staged where
  /-- Offset of the register (R70); 26 bits. -/
  addr : Nat
  /-- The word as written (R70); 32 bits. -/
  val : Nat
  /-- Master identity of the writer (R14); 16 bits. -/
  mid : Nat
deriving DecidableEq, Repr

/-- One slot of the transaction unit (R65–R76). -/
structure TxSlot where
  /-- SYS_TXn_STAT.STATE (R66); 4 bits; reset IDLE. -/
  phase : TxPhase := .idle
  /-- SYS_TXn_STAT.LAST (R73, R75); 2 bits; reset 0b00. -/
  last : Nat := 0
  /-- SYS_TXn_STAT.ERR (R68, R70, R75); 4 bits; reset 0. -/
  err : Nat := 0
  /-- SYS_TXn_STAT.NSTAGED as last held (R70); 13 bits; reset 0. -/
  nstaged : Nat := 0
  /-- SYS_TXn_OWNER (R65, R67); 16 bits; reset 0. -/
  owner : Nat := 0
  /-- SYS_TXn_DONE (R73); 32 bits; reset 0. -/
  done : Nat := 0
  /-- Claimed page numbers, at most 512 (R68); reset none. -/
  claims : List Nat := []
  /-- Staged writes, one per register, at most 4096 (R70); reset none. -/
  staging : List Staged := []
  /-- A write needed entry 4097 (R70); 1 bit; reset 0. -/
  overflow : Bool := false
  /-- What the armed slot waits for (R72); reset none. -/
  target : TxTarget := .tick 0
deriving DecidableEq, Repr

/-- The response of the last bus transaction: an error response (R20, R23, R33), a wait (R343), or data. -/
structure Resp where
  /-- The access was answered with an error response. -/
  err : Bool := false
  /-- The read is waiting (a BND_TAKE with no entry, R343). -/
  wait : Bool := false
  /-- Data of a read, low word first. -/
  data : List Word := []
deriving DecidableEq, Repr

/-- The register pages (02_parterre_registers.md). -/
structure Parterre where
  /-- Stored `rw`, active `wbf` and `ctr` fields by 32 × offset + low bit; a field not listed holds its reset value (R46). -/
  fields : Tbl Nat := []
  /-- Pending `wbf` values (R59); reset none. -/
  pend : List PendEntry := []
  /-- Mailboxes by offset; one not listed is at reset (R53). -/
  mbx : Tbl Mbx := []
  /-- Shadows of `rsh` registers by offset, as last refreshed (R52); one not listed reads the register's reset value (R101). -/
  shadow : Tbl Nat := []
  /-- Per shadow last refreshed: the fabric clock of the refresh and the word before it, which a read in that clock returns (R77); 64
  and 32 bits; reset none. -/
  shadowOld : Tbl (Nat × Nat) := []
  /-- Fabric clock of the moves listed in `ctrNow` (R51, R77); 64 bits; reset 0. -/
  ctrClk : Nat := 0
  /-- `ctr` fields that moved in that clock: the count before it, the increments and the amounts subtracted (R51, R77); reset none. -/
  ctrNow : Tbl (Nat × Nat × Nat) := []
  /-- `wsc` sets of the last clocks: register, bits set and fabric clock (R46, R77); reset none. -/
  wscSet : List (Nat × Nat × Nat) := []
  /-- Pages with a soft reset and the fabric clock in which it runs (R40, PG_STAT.SRST_BUSY); reset none. -/
  srst : Tbl Nat := []
  /-- Fabric clock of the applications listed in `applied` (R64); 64 bits; reset 0. -/
  applClk : Nat := 0
  /-- Registers whose `wbf` fields a strobe or a commit applied in that clock (R64); reset none. -/
  applied : List Nat := []
  /-- Number of strobes that crossed to slower domains (R63, R96; the model's own field); reset 0. -/
  strbNo : Nat := 0
  /-- SYS_DECERR_MID (R23); 16 bits; reset 0. -/
  decMid : Nat := 0
  /-- Strobes under way: group and the fabric clock of their application (R61); reset none. -/
  strobes : List (Nat × Nat) := []
  /-- SYS_STROBE_ARMED: armed groups with the first fabric clock whose tick edge may apply them (R61); 16 bits; reset none. -/
  armed : List (Nat × Nat) := []
  /-- The four transaction slots (R65). -/
  tx : Tbl TxSlot := []
  /-- Response of the last bus transaction; reset none (the model's own field, log 5). -/
  resp : Resp := {}
  /-- Number of free values drawn so far (the model's own field, log 2); reset 0, DESIGN CHOICE. -/
  draws : Nat := 0
deriving DecidableEq, Repr

/-! ### Clocks, resets, crossings and power (03_clocks_resets_crossings.md, 19_power_boot_pins_test.md) -/

/-- An event channel of class C: GRTE or TOKEN (R92–R94). -/
structure EventChannel where
  /-- Pending count in the source domain (R93); 8 bits; reset 0. -/
  pending : Nat := 0
  /-- A pulse was lost at a count of 255, so the next request carries the overflow flag (R94); 1 bit; reset 0. -/
  lost : Bool := false
  /-- The request in flight, count and overflow flag, not yet taken (R93); reset none. -/
  flight : Option (Nat × Bool) := none
  /-- A request has been raised and its acknowledge is not complete (R93); 1 bit; reset 0. -/
  busy : Bool := false
deriving DecidableEq, Repr

/-- The DOUT channel, a merging command channel (R95). -/
structure DoutChannel where
  /-- The pending merged levels, mask and merge count (R95); 32, 32 and 8 bits; reset none. -/
  pending : Option (Nat × Nat × Nat) := none
  /-- A merge met the count of 255 (R95); 1 bit; reset 0. -/
  lost : Bool := false
  /-- The request in flight: levels, mask, overflow flag (R95); reset none. -/
  flight : Option (Nat × Nat × Bool) := none
  /-- Fabric clock at which the acknowledge of the last request that was taken completes; the channel is busy until then (R91, R95); 64
  bits; reset 0. -/
  free : Nat := 0
deriving DecidableEq, Repr

/-- Clock, reset and crossing unit. -/
structure Cru where
  /-- PWR_GOOD pin (R622); 1 bit; reset high, since RD_SYS has just been released. -/
  pwrGood : Bool := true
  /-- PORST_N pin (R627); 1 bit; reset high. -/
  porstN : Bool := true
  /-- RD_SYS is in reset (R98); 1 bit; reset 0. -/
  inReset : Bool := false
  /-- Nanoseconds since the rise that began the start-up (R626); reset 0. -/
  startNs : Nat := 0
  /-- The next release follows a rise of PWR_GOOD, so PCYC increments (R626, R634); 1 bit; reset 0. -/
  powerCycle : Bool := false
  /-- Causes active during the present reset (R105); 6 bits; reset 0. -/
  causeNow : Nat := 0
  /-- CRU_RST_CAUSE (R105); 6 bits; reset POR. -/
  cause : Nat := 1
  /-- Fabric clock at which an accepted SYSRST begins (R112); reset none. -/
  sysRst : Option Nat := none
  /-- CRU_PLL_STAT (R111); 32 bits; PLLs of the device locked at release by R626 row 2, lane PLLs not. -/
  pll : Nat := 0xFC
  /-- CRU_CLKMON_STAT (R107); 32 bits; reset 0. -/
  mon : Nat := 0
  /-- Monitors whose last window was out of limit (R107); 32 bits; reset 0. -/
  monOut : Nat := 0
  /-- Monitors whose last window was within the limit after one out of it (R107); 32 bits; reset 0. -/
  monIn : Nat := 0
  /-- Monitors whose clock is stopped (R106); 32 bits; reset 0. -/
  stopped : Nat := 0
  /-- Port domains whose lane PLL has yet to relock (CRU_PORT_RSTSTAT, R111); 16 bits; reset 0xFFFF (R626 row 5). -/
  portStat : Nat := 0xFFFF
  /-- End of the 1 µs pulse of a port reset by fabric clock (R99, CRU_PORT_RST); reset none. -/
  portPulse : Tbl Nat := []
  /-- CRU_XC_STAT (R102); 32 bits; reset 0. -/
  xcReady : Nat := 0
  /-- Fabric clock until which a crossing group is held in reset, by its number (R100); reset none. -/
  xcHold : Tbl Nat := []
  /-- GRTE channel (R92). -/
  grte : EventChannel := {}
  /-- TOKEN channel (R92). -/
  token : EventChannel := {}
  /-- DOUT channel (R92). -/
  dout : DoutChannel := {}
  /-- Fabric clock of the last restart of the system watchdog (R113); reset 0. -/
  wdtAt : Nat := 0
  /-- Rails absent or tripped, bit per rail in the order of R620's table (R624, R625); 11 bits; reset 0. -/
  rails : Nat := 0
deriving DecidableEq, Repr

/-! ### The Grotto (19_power_boot_pins_test.md) -/

/-- The Grotto domain, which RD_SYS does not reset (R98, R632–R638). -/
structure Grotto where
  /-- Calendar seconds (R633); 64 bits; reset 0 (R636). -/
  sec : Nat := 0
  /-- Calendar sub-second count (R633); 15 bits, above 32,767 while a wrap is due (log 53); reset 0 (R636). -/
  sub : Nat := 0
  /-- OPSEC (R634); 40 bits; reset 0 (R636). -/
  opsec : Nat := 0
  /-- Crystal edges counted towards the next OPSEC increment (R634); 15 bits; reset 0 (DESIGN CHOICE, log 6). -/
  opsub : Nat := 0
  /-- Part of a crystal period that has passed, in 10^-9 of a period (the model's own field, log 19); reset 0 (DESIGN CHOICE, log 6). -/
  phase : Nat := 0
  /-- Frequency of the crystal in Hz, which the spec relates to no other clock (R633; the model's own field, log 19); reset 32,768
  (DESIGN CHOICE, log 19). -/
  hz : Nat := 32768
  /-- OPSEC as the last transfer of the crossing group brought it, the shadow of R52 and R538; 40 bits; reset 0 (R101). -/
  opShadow : Nat := 0
  /-- PCYC (R634); 32 bits; reset 1, the release after the rise of PWR_GOOD that follows R636 (R626). -/
  pcyc : Nat := 1
  /-- Tamper latch (R635, R636); 1 bit; reset set. -/
  tamper : Bool := true
  /-- GRT_STAT.TCAUSE (R636, R638); 2 bits; reset 0b10. -/
  tcause : Nat := 2
  /-- GRTRST (R636); 1 bit; reset 1. -/
  grtrst : Bool := true
  /-- TAMPER_N pin is low (R635); 1 bit; reset 0. -/
  pinLow : Bool := false
  /-- TAMPER_N was low at the last crystal edge, GRT_STAT.PIN (R638); 1 bit; reset 0. -/
  pinAtEdge : Bool := false
  /-- GRT_STAT.VBATLOW (R638, R625); 1 bit; reset 0. -/
  vbatLow : Bool := false
  /-- GRT_STAT.ONBAT (R638, R632); 1 bit; reset 0. -/
  onBat : Bool := false
  /-- GRT_TAMPCNT in the Grotto (R635); 16 bits; reset 0 (R636). -/
  tampCnt : Nat := 0
  /-- Scratch bytes by index, an unlisted byte is 0 (R636, R637); 256 bytes; reset 0. -/
  scratch : Tbl Nat := []
  /-- Scratch bytes whose parity fails (R637); reset none. -/
  badParity : List Nat := []
deriving DecidableEq, Repr

/-! ### Boot, process I/O, debug port and test access port (19_power_boot_pins_test.md) -/

/-- The debounce run of one DIN pin (R645). -/
structure DinRun where
  /-- Consecutive samples of the new level (R645). -/
  n : Nat := 0
  /-- Raw count of the first sample of the run (R645). -/
  first : Nat := 0
  /-- EN at the last sample, so that a rise of EN restarts the run (R645). -/
  wasEn : Bool := false
deriving DecidableEq, Repr

/-- The instruction of the test access port in force (R648–R650). -/
inductive TapInstr where
  | idcode | bypass | extest | samplePreload | clamp | highz | extestPulse | extestTrain | dbgacc
deriving DecidableEq, Repr

/-- The test access port, reset in RD_TAP (R648–R651). -/
structure Tap where
  /-- Instruction in force (R648, R649); 8 bits; reset IDCODE. -/
  ir : TapInstr := .idcode
  /-- Update stage of the boundary register, which drives the pins under EXTEST and CLAMP (R651); 1874 bits; reset 0 (DESIGN CHOICE, log 7). -/
  boundary : Nat := 0
  /-- Capture stage of the boundary register (R651); 1874 bits; reset 0 (DESIGN CHOICE, log 7). -/
  captured : Nat := 0
  /-- The scan cells drive the pins in place of the device (R651); 1 bit; reset 0. -/
  drives : Bool := false
  /-- Outputs in high impedance under HIGHZ (R649); 1 bit; reset 0. -/
  highz : Bool := false
  /-- The AC pins carry an EXTEST_PULSE pulse or EXTEST_TRAIN train (R649, R651); 2 bits; reset 0. -/
  acTest : Nat := 0
deriving DecidableEq, Repr

/-- Boot, DOUT, DIN and the debug pages. -/
structure Dbg where
  /-- DBG_BOOT_STAT.STAGE (R653); 4 bits; reset 0. -/
  stage : Nat := 0
  /-- DBG_BOOT_STAT.IMAGE (R653); 1 bit; reset 0. -/
  image : Nat := 0
  /-- DBG_BOOT_STAT.RES0 (R653); 8 bits; reset 0. -/
  res0 : Nat := 0
  /-- DBG_BOOT_STAT.RES1 (R653); 8 bits; reset 0. -/
  res1 : Nat := 0
  /-- Pairs that have left the boot ROM, with the address they were started at (R630, R631); reset none. -/
  started : Tbl Nat := []
  /-- DOUT latches (R644); 32 bits; reset 0. -/
  dout : Nat := 0
  /-- Sequence number of the last writer of each DOUT pin, so that a pulse's end can tell whether it was driven since (R171); reset 0. -/
  doutSeq : Tbl Nat := []
  /-- Drives of DOUT pins so far, the source of `doutSeq` (the model's own field); reset 0. -/
  drives : Nat := 0
  /-- Levels at the DIN pins (R645); 32 bits; reset 0 (DESIGN CHOICE, log 6). -/
  dinPin : Nat := 0
  /-- DBG_DIN_RAW source: last samples (R655); 32 bits; reset 0. -/
  dinRaw : Nat := 0
  /-- DBG_DIN_LVL source: debounced levels (R655); 32 bits; reset 0. -/
  dinLvl : Nat := 0
  /-- Debounce runs by pin (R645); reset none. -/
  dinRun : Tbl DinRun := []
  /-- Pins whose level is re-accepted without an event after SRST (R652); 32 bits; reset 0. -/
  dinQuiet : Nat := 0
  /-- Boot flash bytes by offset; an unlisted byte is erased, 0xFF (R628); DESIGN CHOICE, log 8. -/
  flash : Tbl Nat := []
deriving DecidableEq, Repr

/-! ### The Sundial (04_sundial_time.md) -/

/-- The tick generator (R125, R658). -/
inductive TickGen where
  | stopped | starting | running
deriving DecidableEq, Repr

/-- A pending adjustment of SDL_ADJ (R118, R122). -/
structure Adjust where
  /-- OP of the request: 0x10 SET, 0x11 STEP, 0x12 INCR. -/
  op : Nat
  /-- Raw count c_A at which it applies (R121). -/
  at_ : Nat
  /-- D0 as written. -/
  d0 : Nat
  /-- D1 as written. -/
  d1 : Nat
  /-- D2 as written. -/
  d2 : Nat
  /-- D3 as written. -/
  d3 : Nat
deriving DecidableEq, Repr

/-- One entry of a transmit time-stamp ring (R142–R144, R154). -/
structure TsEntry where
  /-- An entry before this one was discarded (R143). -/
  gap : Bool
  /-- The frame was dropped before transmission (R142). -/
  dropped : Bool
  /-- Tag from the transmit descriptor; 16 bits. -/
  tag : Nat
  /-- Egress time-stamp in whole nanoseconds of PTP time, zero when dropped. -/
  ns : Nat
deriving DecidableEq, Repr

/-- Sundial: raw count, PTP time, tick generator, pins and time-stamp rings. PTP times are in units of 2^-32 ns. -/
structure Sundial where
  /-- Raw counter (R114); 64 bits; reset 0. -/
  raw : Nat := 0
  /-- Periods of REFCLK_SDS's 1 GHz multiple in one fabric clock, 32.32 fixed point: the spec relates the two clocks in no way (R81; the
  model's own field, log 1); reset 2^32, a ratio of one (DESIGN CHOICE, log 1). -/
  refRate : Nat := 2 ^ 32
  /-- Part of a raw count that has passed, in 2^-32 (the model's own field, log 1); reset 0 (DESIGN CHOICE, log 1). -/
  refPart : Nat := 0
  /-- Fabric cycle count (R84); 64 bits; reset 0. -/
  fab : Nat := 0
  /-- Time base B (R115, R117); reset 0. -/
  base : Nat := 0
  /-- Raw base c_B (R115, R117); 64 bits; reset 0. -/
  rawBase : Nat := 0
  /-- Increment I, 32.32 fixed point (R115, R117); 64 bits; reset 2^32. -/
  inc : Nat := 2 ^ 32
  /-- B, c_B and I before each adjustment, newest first, by which counts before it are timed (R119); reset none. -/
  past : List (Nat × Nat × Nat) := []
  /-- Pending adjustment (R122); reset none. -/
  adj : Option Adjust := none
  /-- Tick generator (R117, R125, R658); reset stopped. -/
  gen : TickGen := .stopped
  /-- First second S of a start (R125); reset 0. -/
  startSec : Nat := 0
  /-- RATE code that the start took from RATE_REQ (R125); 2 bits; reset 0b01. -/
  startRate : Nat := 1
  /-- Absolute tick number N_next of the next edge (R126); 64 bits; reset 0. -/
  next : Nat := 0
  /-- Second and tick number within the second of the next edge (R5); reset 0. -/
  nextSec : Nat := 0
  /-- Tick number within the second of the next edge (R5); reset 0. -/
  nextN : Nat := 0
  /-- Absolute tick number of the last edge produced (R150); reset none. -/
  last : Option Nat := none
  /-- Tick number within the second of the tick in progress (R5); 14 bits; reset 0. -/
  curN : Nat := 0
  /-- SDL_BASE.RATE_ACT (R130, R152); 2 bits; reset 0b01. -/
  rateAct : Nat := 1
  /-- PTP time of the last change of RATE_REQ (R130); reset none. -/
  rateAt : Option Nat := none
  /-- Sundial edges whose fabric tick edge is due: tick, fabric clock of the Sundial edge, first edge of a start (R85, R128); reset none. -/
  fabDue : List (Nat × Nat × Bool) := []
  /-- The generator has stopped, and what the blocks do at its last fabric edge is still to come (R128); 1 bit; reset 0. -/
  stopDue : Bool := false
  /-- Absolute tick number whose fabric tick edge came last (R85); reset none. -/
  fabLast : Option Nat := none
  /-- PPS_OUT pin (R131); 1 bit; reset low. -/
  pps : Bool := false
  /-- Last whole second marked by PPS_OUT (R131); reset none. -/
  ppsMarked : Option Nat := none
  /-- PTP time of the PPS_OUT rise (R131); reset 0. -/
  ppsRise : Nat := 0
  /-- TICK_OUT pin (R132); 1 bit; reset low. -/
  tickOut : Bool := false
  /-- PTP time of the TICK_OUT rise (R120, R132), in 2^-32 ns; reset 0. -/
  tickOutAt : Nat := 0
  /-- PPS_IN capture: raw count and T (R133); reset none. -/
  ppsIn : Option (Nat × Nat) := none
  /-- PPS_IN capture sequence (R133); 32 bits; reset 0. -/
  ppsSeq : Nat := 0
  /-- Transmit time-stamp rings by port, oldest first, at most 256 entries (R142); reset empty. -/
  rings : Tbl (List TsEntry) := []
  /-- Ports whose next entry carries GAP (R143); 16 bits; reset 0. -/
  gaps : Nat := 0
deriving DecidableEq, Repr

/-! ### The angle timebase (05_angle_timebase.md) -/

/-- Tracker states (R161). -/
inductive TrackState where
  | off | acquire | locked | holdover
deriving DecidableEq, Repr

/-- One reference update (R155): phase in 2^-32 cycle, frequency in 2^-32 Hz, rate of change in 2^-32 Hz/s, RMS in the
channel's Lantern units, validity, and the reference instant in 2^-32 ns. -/
structure RefUpdate where
  /-- Phase in 2^-32 cycle (R155); 32 bits. -/
  phase : Nat
  /-- Frequency in 2^-32 Hz (R155). -/
  freq : Nat
  /-- Rate of change in 2^-32 Hz/s (R155). -/
  rho : Int
  /-- RMS (R155). -/
  rms : Nat
  /-- Validity is good (R155); 1 bit. -/
  valid : Bool
  /-- Reference instant in 2^-32 ns (R155). -/
  tr : Nat
deriving DecidableEq, Repr

/-- The update in force (R156): position in 2^-32 cycle, frequency, rate of change and reference instant. -/
structure Estimate where
  /-- Position in 2^-32 cycle, below 0 where t_r lies before the edge of a first acquisition (R156, R158, R662); reset 0. -/
  pr : Int := 0
  /-- Frequency in 2^-32 Hz (R156); reset 0. -/
  freq : Nat := 0
  /-- Rate of change in 2^-32 Hz/s (R156); reset 0. -/
  rho : Int := 0
  /-- Reference instant in 2^-32 ns (R156); reset 0. -/
  tr : Nat := 0
deriving DecidableEq, Repr

/-- Alarm states (R178). -/
inductive AlarmState where
  | idle | armed | fired | cancelled | aborted
deriving DecidableEq, Repr

/-- One angle alarm (R163–R173, R178). -/
structure Alarm where
  /-- STATE (R178); 3 bits; reset IDLE. -/
  st : AlarmState := .idle
  /-- OWNER (R163); 10 bits; reset 0. -/
  owner : Nat := 0
  /-- HOLD flag (R167); 1 bit; reset 0. -/
  hold : Bool := false
  /-- LATE flag (R166); 1 bit; reset 0. -/
  late : Bool := false
  /-- Target angle A (R164); 32 bits; reset 0. -/
  a : Nat := 0
  /-- Target cycle count K (R164); 64 bits; reset 0. -/
  k : Nat := 0
  /-- LEAD in ns (R164, R165); 30 bits; reset 0. -/
  lead : Nat := 0
  /-- KIND (R169); 2 bits; reset 0. -/
  kind : Nat := 0
  /-- ONLOSS (R167); 1 bit; reset 0. -/
  onloss : Bool := false
  /-- PIN (R169); 5 bits; reset 0. -/
  pin : Nat := 0
  /-- DOP (R169); 2 bits; reset 0. -/
  dop : Nat := 0
  /-- D5: WIDTH or QUEUE (R178); 32 bits; reset 0. -/
  d5 : Nat := 0
  /-- Event payload (R169); 32 bits; reset 0. -/
  payload : Nat := 0
  /-- Fire instant t_f in whole ns of PTP time, which may lie before the epoch (R164). -/
  tf : Int := 0
  /-- Firing time T(c), in 2^-32 ns (R166); reset 0. -/
  firedAt : Nat := 0
deriving DecidableEq, Repr

/-- The mains-angle tracker and the angle alarms. -/
structure Angle where
  /-- Tracker STATE (R161); 2 bits; reset OFF. -/
  st : TrackState := .off
  /-- EPOCH (R161, R177); 8 bits; reset 0. -/
  epoch : Nat := 0
  /-- Update in force (R156, R159). -/
  est : Estimate := {}
  /-- Published position P_pub of the raw counts below `pubAt`, in 2^-32 cycle (R160, R662); 96 bits; reset 0. -/
  pub : Nat := 0
  /-- First raw count whose estimate `pub` does not hold yet (R160); 64 bits; reset 0. -/
  pubAt : Nat := 0
  /-- Updates received since the previous Sundial tick edge, oldest first (R159, R661); reset none. -/
  updates : List RefUpdate := []
  /-- Run of good updates in ACQUIRE (R661); reset 0. -/
  run : Nat := 0
  /-- Consecutive updates not good in LOCKED (R661); reset 0. -/
  misses : Nat := 0
  /-- The estimate in force in ACQUIRE comes from a good update, not from R662; 1 bit; reset 0. -/
  acqGood : Bool := false
  /-- Raw count of the last update received (R161); reset 0. -/
  lastRecv : Nat := 0
  /-- Raw count at which HOLDOVER was entered (R161); reset 0. -/
  holdAt : Nat := 0
  /-- Angle alarms by number, 0 to 255 (R163); reset IDLE. -/
  alarms : Tbl Alarm := []
  /-- Pulses in progress: alarm, raw count of the end, drive number of the rise, pin (R169, R171); reset none. -/
  pulses : List (Nat × Nat × Nat × Nat) := []
  /-- Alarm last offered by the alarms' producer (R173); reset 255. -/
  turn : Nat := 255
  /-- Fabric clock in which the alarms' producer last offered an event (R173); reset none. -/
  offerAt : Option Nat := none
  /-- Last DOUT command at the latches: raw count and mask (R170); reset none. -/
  lastCmd : Option (Nat × Nat) := none
  /-- Alarms that drove a pin at a raw count: raw count, alarm, pin (R170); reset none. -/
  lastAlarms : List (Nat × Nat × Nat) := []
deriving DecidableEq, Repr

/-! ### The Bandstand (10_bandstand_dispatch.md) -/

/-- An event (R331). -/
structure Ev where
  /-- TYPE (R332); 8 bits. -/
  type : Nat
  /-- QUEUE; 13 bits. -/
  queue : Nat
  /-- GEN of the owner at posting; 8 bits. -/
  gen : Nat := 0
  /-- FLOW key; 32 bits. -/
  flow : Nat := 0
  /-- MISSED; 8 bits. -/
  missed : Nat := 0
  /-- SRC; 16 bits. -/
  src : Nat := 0
  /-- Event time in whole ns of PTP time (TNS, TSEC). -/
  ns : Nat := 0
  /-- W5; 32 bits. -/
  w5 : Nat := 0
  /-- W6; 32 bits. -/
  w6 : Nat := 0
  /-- W7; 32 bits. -/
  w7 : Nat := 0
deriving DecidableEq, Repr

/-- An admitted event with what was stamped into it at admission (R333). -/
structure QEv where
  /-- The event as posted (R331); 8 words. -/
  ev : Ev
  /-- Admission order. -/
  seq : Nat
  /-- Stamped OWNER. -/
  owner : Nat
  /-- Stamped CLASS. -/
  cls : Nat
  /-- Stamped DEADLINE in µs. -/
  deadline : Nat
  /-- Fabric clock of its post and rank of its producer in the order of R336; none for an event of a batch (R438). -/
  post : Option (Nat × Nat) := none
deriving DecidableEq, Repr

/-- The Bandstand (R330–R353). -/
structure Bandstand where
  /-- Queues by number, oldest event first (R334); 8192 queues; reset empty. -/
  queues : Tbl (List QEv) := []
  /-- Slot entries by pair, oldest first, at most 2 (R341); reset empty. -/
  slots : Tbl (List QEv) := []
  /-- Taken event by pair (R343); reset none. -/
  taken : Tbl QEv := []
  /-- BND_EV words by pair (R353); 8 × 32 bits; reset 0. -/
  words : Tbl (List Word) := []
  /-- Waiting TAKE by pair: clock of acceptance a, TMO and PTP time of acceptance (R343, R345); reset none. -/
  waiting : Tbl (Nat × Nat × Nat) := []
  /-- Affinity of flows: queue, flow, pair, most recent first, at most 16,384 entries (R342); reset empty. -/
  flowMem : List (Nat × Nat × Nat) := []
  /-- Affinity of ATOMIC owners: pair by pavilion (R342); reset none. -/
  ownerMem : Tbl Nat := []
  /-- Queue served last, by priority (R341); reset none. -/
  lastServed : Tbl Nat := []
  /-- Events admitted so far, the source of admission order; reset 0. -/
  seq : Nat := 0
  /-- Held events by producer and unit, oldest first: more than one for an angle alarm only (R173, R338); reset none. -/
  held : Tbl (List Ev) := []
  /-- Fabric clock of a producer's last admitted post, by its rank in the order of R336; reset none. -/
  posted : Tbl Nat := []
  /-- Post mailboxes whose request waits for the next fabric clock (R336); reset none. -/
  waits : List Nat := []
deriving DecidableEq, Repr

/-! ### The cycle sequencer (11_conservatory_cycle.md) -/

/-- Class states (R361). -/
inductive ClassState where
  | stopped | running | draining
deriving DecidableEq, Repr

/-- A task class (R361–R363). -/
structure ClassRun where
  /-- CYC_CLSc_STAT.STATE (R361); 2 bits; reset STOPPED. -/
  st : ClassState := .stopped
  /-- Tick at which the period in progress began and tick of its end boundary (R7); reset none. -/
  period : Option (Nat × Nat) := none
deriving DecidableEq, Repr

/-- Where an instance stands (R363–R369). -/
inductive InstState where
  /-- Created; its latch failed or was refused, so it is not released (R366, R663). -/
  | unreleased
  /-- Released to a pair and not yet returned by NEXT. -/
  | ready
  /-- RUNNING on its pair (R368). -/
  | running
  /-- DONE before its end boundary (R369). -/
  | done
  /-- In progress, but it will commit nothing (R382, R391). -/
  | abandoned
deriving DecidableEq, Repr

/-- A task instance (R361, R363). -/
structure Inst where
  /-- Pavilion (R363); 10 bits. -/
  pav : Nat
  /-- Task class (R361); 4 bits. -/
  cls : Nat
  /-- Absolute tick of its start. -/
  start : Nat
  /-- Absolute tick of its end boundary. -/
  fin : Nat
  /-- Half of its output list (R361, R370). -/
  half : Nat
  /-- Home pair. -/
  pair : Nat
  /-- Where it stands (R363–R369). -/
  st : InstState
  /-- Its output list as it stood at DONE (R369, R370); 4 KiB. -/
  list : List Nat := []
deriving DecidableEq, Repr

/-- The program image of a pavilion that is active (R382, R385); its addresses stand in the CYC_PVp registers. -/
structure Program where
  /-- CLASSES of the active image (R394); 16 bits. -/
  classes : Nat := 0
  /-- IMAGE_ID of the active image; 64 bits. -/
  imageId : Nat := 0
  /-- Image check of the active image (R432); 32 bits. -/
  check : Nat := 0
  /-- EN was in force at the last fabric tick edge (R377, R382). -/
  enabled : Bool := false
deriving DecidableEq, Repr

/-- A force (R388). -/
structure Force where
  /-- Pavilion (R388); 10 bits. -/
  pav : Nat
  /-- Symbol identity; 64 bits. -/
  sym : Nat
  /-- Value; 64 bits. -/
  value : Nat
  /-- Quality; 32 bits. -/
  quality : Nat
  /-- The symbol is an OUTPUT. -/
  output : Bool
  /-- Its point, or its offset in the input area. -/
  place : Nat
  /-- Its point has been written once since the force took effect (R388). -/
  written : Bool := false
deriving DecidableEq, Repr

/-- A request of CYC_PVCMD or CYC_FORCE that waits for its tick (R382, R385, R388). -/
structure SeqReq where
  /-- OP of the request. -/
  op : Nat
  /-- Pavilion of ARG. -/
  pav : Nat
  /-- Absolute target tick (R129). -/
  tick : Nat
  /-- D0 to D4 as written. -/
  d : List Nat
deriving DecidableEq, Repr

/-- A checkpoint in progress (R383): its SEQ and the bytes of its slot. -/
structure Ckpt where
  /-- SEQ of the checkpoint (R383, R392); 31 bits. -/
  seq : Nat
  /-- Its bytes (R383). -/
  bytes : List Nat
deriving DecidableEq, Repr

/-- The Conservatory's sequencer and pairs. -/
structure Cycle where
  /-- Task classes by number (R361); 16 classes; reset STOPPED. -/
  classes : Tbl ClassRun := []
  /-- Instances in progress (R363); reset none. -/
  insts : List Inst := []
  /-- Programs in force by pavilion (R385); reset none. -/
  progs : Tbl Program := []
  /-- Force table, at most 4096 entries (R388); reset empty. -/
  forces : List Force := []
  /-- CYC_PVCMD request waiting for its tick (R382, R385); reset none. -/
  pvcmd : Option SeqReq := none
  /-- CYC_FORCE request waiting for its tick (R388); reset none. -/
  force : Option SeqReq := none
  /-- CYC_PRk_NTICK by pair (R368); 48 × 32 bits; reset 0. -/
  ntick : Tbl Nat := []
  /-- Pairs halted on a mismatch (R355, R356); 48 bits; reset none. -/
  halted : List Nat := []
  /-- CYC_CKPT_STAT.SEQ (R392); 31 bits; reset 0. -/
  ckptSeq : Nat := 0
  /-- Checkpoint in progress (R383); reset none. -/
  ckpt : Option Ckpt := none
  /-- Identities written to supervisor interrupt files: core and identity, newest last (R368, R403, R410); reset none. -/
  msis : List (Nat × Nat) := []
  /-- Steps 2 to 6 of a fabric tick edge are in progress (R411; the model's own field); reset 0. -/
  inCommit : Bool := false
  /-- RATE code of the last fabric tick edge (R380); 2 bits; reset 0b01. -/
  rate : Nat := 1
deriving DecidableEq, Repr

/-! ### Pavilions (12_pavilions.md) -/

/-- STATE of a pavilion apart from OFF and RUN, which follow EN in force (R423). -/
inductive PavPhase where
  | normal | reset | wait | frozen | saving | restoring
deriving DecidableEq, Repr

/-- A migration request in progress (R417–R422): OP, absolute target tick, and D0 to D5 as written; a SAVE waits for the first
edge at least 1 µs after its acceptance, kept in `tick` as a fabric clock. -/
structure MigReq where
  /-- OP of the request (R417); 8 bits. -/
  op : Nat
  /-- Absolute target tick, or the fabric clock of a SAVE (R417, R418); 64 bits. -/
  tick : Nat
  /-- D0 to D5 as written (R417); 32 bits each. -/
  d : List Nat
  /-- The image read at a RESTORE, or taken at T_s for a SAVE (R418, R421). -/
  img : List Nat := []
  /-- A SAVE has been taken at T_s (R418). -/
  taken : Bool := false
  /-- The target pavilion was FROZEN, not OFF, at the acceptance of a RESTORE (R129). -/
  wasFrozen : Bool := false
deriving DecidableEq, Repr

/-- A pavilion (R402–R425). -/
structure Pav where
  /-- PAV_STAT.GEN (R410); 8 bits; reset 0. -/
  gen : Nat := 0
  /-- PAV_STAT.STATE (R423); 3 bits; reset OFF. -/
  phase : PavPhase := .normal
  /-- Tick M in which the reset began (R414); reset none. -/
  resetTick : Option Nat := none
  /-- Fabric clock at which the reset began (R413); reset 0. -/
  resetAt : Nat := 0
  /-- A reset that waits for step 6 of the edge in progress (R411); reset 0. -/
  resetDue : Bool := false
  /-- PAV_USED (R402); 20 bits; reset 0. -/
  used : Nat := 0
  /-- SHARE in force this tick (R405); 20 bits; reset 0. -/
  share : Nat := 0
  /-- HARD in force this tick (R405); 1 bit; reset 0. -/
  hard : Bool := false
  /-- The share has been reached this tick (R403); 1 bit; reset 0. -/
  exhausted : Bool := false
  /-- Fabric tick edges since the watchdog's last restart (R409); 16 bits; reset 0. -/
  wdt : Nat := 0
  /-- The watchdog has expired since its last restart (R409; DEDUCED, log 24); 1 bit; reset 0. -/
  wdtDone : Bool := false
  /-- PAV_ERRINFO.VALID (R407); 1 bit; reset 0. -/
  errValid : Bool := false
  /-- PAV_ERRINFO.KIND (R407); 3 bits; reset 0. -/
  errKind : Nat := 0
  /-- PAV_ERRINFO.MID (R407); 16 bits; reset 0. -/
  errMid : Nat := 0
  /-- PAV_ERRPAGE (R407); 32 bits; reset 0. -/
  errPage : Nat := 0
  /-- Migration request in progress (R417–R422); reset none. -/
  mig : Option MigReq := none
  /-- Tick F of the last FREEZE (R419); 64 bits; reset 0. -/
  frozenAt : Nat := 0
deriving DecidableEq, Repr

/-- The pavilions. -/
structure Pavilions where
  /-- Pavilions by number, 0 to 1023. -/
  tbl : Tbl Pav := []
  /-- IOMMU contexts by 1024 × device + process, the engine number and the pavilion (R19, R357, R400): the physical 4 KiB page by page
  of the address presented; a context not listed passes addresses as they are (log 57); reset none. -/
  ctx : Tbl (Tbl Nat) := []
deriving DecidableEq, Repr


/-! ### Ports, frames and the GOOSE publisher and subscriber (06_ports_and_macs.md) -/

/-- What a frame waits for at the head of its queue (R145, R146, R172). -/
inductive Launch where
  | none
  /-- A launch time of a descriptor, seconds (low 32 bits) and ns, not yet read at the head of the queue (R145). -/
  | time (sec ns : Nat)
  /-- An angle hold for an alarm, not yet tested at the head of the queue (R172). -/
  | angle (k : Nat)
  /-- At the head of its queue, sent at the first opportunity from the PTP time `l` (R146). -/
  | due (l : Nat)
  /-- At the head of its queue, waiting for alarm `k` to fire (R172). -/
  | waits (k : Nat)
deriving DecidableEq, Repr

/-- A segmentation request of a transmit descriptor (R202, R203). -/
structure Seg where
  /-- SEGMODE; 2 bits. -/
  mode : Nat
  /-- MSS; 14 bits. -/
  mss : Nat
  /-- HDRLEN; 8 bits. -/
  hdr : Nat
deriving DecidableEq, Repr

/-- A frame in the Trellis or in a MAC. -/
structure Frame where
  /-- Octets without the FCS, first transmitted first. -/
  bytes : List Nat
  /-- The FCS that it arrived with (R186); 32 bits; none for a frame that has no FCS yet or whose octets the MAC changed. -/
  fcs : Option Nat := none
  /-- Trellis port that handed it in (R230). -/
  src : Nat
  /-- Traffic class (R192); 3 bits. -/
  tc : Nat
  /-- Priority (R192); 3 bits. -/
  prio : Nat := 0
  /-- Ingress time-stamp in 2^-32 ns of PTP time (R136). -/
  ts : Nat := 0
  /-- OVERSIZE of its receive descriptor (R184). -/
  oversize : Bool := false
  /-- FCS_BAD of its receive descriptor (R184). -/
  fcsBad : Bool := false
  /-- HASHED of its receive descriptor (R205). -/
  hashed : Bool := false
  /-- LANB of its receive descriptor (R205). -/
  lanb : Bool := false
  /-- RED of its receive descriptor (R205). -/
  red : Bool := false
  /-- SEQ of its receive descriptor (R205). -/
  seq : Nat := 0
  /-- The frame was handed in by the host DMA or the publisher, so the MAC appends its FCS and applies TAG, LT and TSREQ. -/
  host : Bool := false
  /-- A ring frame forwarded as it came (R200), or a host frame with NODUP (R201): nothing is added. -/
  asIs : Bool := false
  /-- Redundancy to add on egress: mode of the pair and sequence number (R201). -/
  rct : Option (Nat × Nat) := none
  /-- TSREQ (R203). -/
  tsreq : Bool := false
  /-- TAG (R203); 16 bits. -/
  tag : Nat := 0
  /-- What it waits for at the head of its queue (R145, R146, R172). -/
  launch : Launch := .none
  /-- Discarded at its launch opportunity while the module mutes (R446). -/
  mutes : Bool := false
  /-- Segmentation requested (R202). -/
  seg : Option Seg := none
  /-- Order in which the Trellis took the frame. -/
  order : Nat := 0
  /-- The frame is in the overflow region in DRAM (R245). -/
  dram : Bool := false
  /-- The cells of the overflow region that hold it, counted from the region's base (R245; log 102). -/
  dcells : List Nat := []
  /-- Order in which an output queued the frame (R214, R234). -/
  queued : Nat := 0
deriving DecidableEq, Repr

/-- A frame copy on its way from an input to an output in cells (R231–R234). -/
structure Moving where
  /-- The frame copy. -/
  frame : Frame
  /-- Cells that the input has sent (R233). -/
  sent : Nat := 0
  /-- Cells that the output's resequencer has released (R234). -/
  got : Nat := 0
  /-- An uncorrectable buffer error has lost the frame (R235). -/
  lost : Bool := false
deriving DecidableEq, Repr

/-- A cell on its way (R231, R234). -/
structure Cell where
  /-- Input that sent it (R233). -/
  input : Nat
  /-- Traffic class of its frame (R233); 3 bits. -/
  tc : Nat
  /-- Sequence number for its pair of input and output (R234); 16 bits. -/
  seq : Nat
deriving DecidableEq, Repr

/-- The reorder window of a resequencer for one input (R234, R235). -/
structure Reseq where
  /-- Sequence number of the next cell to release (R234); 16 bits; reset 0. -/
  next : Nat := 0
  /-- Cells held, each with the slot in which it arrived (R234); reset none. -/
  held : List (Cell × Nat) := []
deriving DecidableEq, Repr

/-- The settings of a gate cycle (R195, R227). -/
structure GclSet where
  /-- TICK mode. -/
  tick : Bool := false
  /-- Entries, 1 to 256 (R227); 9 bits; reset 1. -/
  len : Nat := 1
  /-- C in ns, or D; reset 1000 (DESIGN CHOICE, log 27: the spec gives the list in force at reset no cycle). -/
  cycle : Nat := 1000
  /-- B in 2^-32 ns of PTP time; reset 0 (DESIGN CHOICE, log 27). -/
  base : Nat := 0
deriving DecidableEq, Repr

/-- The gate control of a port (R194–R196). -/
structure Gcl where
  /-- OPLIST (R227); 1 bit; reset A. -/
  listB : Bool := false
  /-- Settings of the operational list. -/
  set_ : GclSet := {}
  /-- PTP time at which the cycle in progress began; none while every gate stays open until the next cycle start (R196); reset none. -/
  start : Option Nat := none
  /-- Entry in force (MAC_GATES.ENTRY, R227); 8 bits; reset 0. -/
  entry : Nat := 0
  /-- PTP time of the next gate change; reset none while page 2 is disabled. -/
  next : Option Nat := none
  /-- Switch that is pending: settings and instant (R196, R227); reset none. -/
  pend : Option (GclSet × Nat) := none
deriving DecidableEq, Repr

/-- A frame on the wire (R193). -/
structure Sending where
  /-- Raw count at which its transmission ends. -/
  until_ : Nat
  /-- Its egress time-stamp in 2^-32 ns. -/
  ts : Nat
  /-- It requested a time-stamp. -/
  tsreq : Bool
  /-- TAG. -/
  tag : Nat
deriving DecidableEq, Repr

/-- One external port (R179–R193). -/
structure Port where
  /-- Exact address entries by number: address and VALID (R225); 64 × 49 bits; reset 0 and not valid (DESIGN CHOICE, log 27). -/
  exact : Tbl (Nat × Bool) := []
  /-- Link up (R180); 1 bit; reset 0. -/
  link : Bool := false
  /-- Raw count at which a pause ends (R190); reset none. -/
  paused : Option Nat := none
  /-- Frame being transmitted (R193); reset none. -/
  sending : Option Sending := none
  /-- Gate control (R194). -/
  gcl : Gcl := {}
deriving DecidableEq, Repr

/-- An entry of a duplicate table (R199). -/
structure DupEntry where
  /-- Source address; 48 bits. -/
  src : Nat
  /-- Highest sequence number seen; 16 bits. -/
  h : Nat
  /-- Window, bit i for h − i; 128 bits. -/
  win : Nat
  /-- Raw count of the last frame. -/
  at_ : Nat
deriving DecidableEq, Repr

/-- The redundancy state of a pair of ports, by its lower port (R199–R201). -/
structure RedPair where
  /-- Duplicate table, at most 4096 entries (R199); reset empty. -/
  dup : List DupEntry := []
  /-- Sequence counter of the node's own addresses (R201); 16 bits; reset 0 (DESIGN CHOICE, log 27). -/
  seq : Nat := 0
  /-- Source addresses that this node has sent from on the pair (R200; DEDUCED, log 28); reset none. -/
  own : List Nat := []
  /-- Proxied nodes with their sequence counters, at most 512 (R201); reset none. -/
  proxy : Tbl Nat := []
deriving DecidableEq, Repr

/-- A publication slot (R206–R212). -/
structure GpbSlot where
  /-- RUNNING (R208); 1 bit; reset 0. -/
  running : Bool := false
  /-- stNum (R208, R209); 32 bits; reset 0. -/
  stNum : Nat := 0
  /-- sqNum of the last transmission (R210); 32 bits; reset 0. -/
  sqNum : Nat := 0
  /-- ACTIVE buffer (R209); 1 bit; reset 0. -/
  active : Nat := 0
  /-- Instant of the state in 2^-32 ns (R211); reset 0. -/
  at_ : Nat := 0
  /-- Bytes 0x000 to 0x27F of the slot as read at START (R206); reset none. -/
  head : List Nat := []
  /-- Due instant of the next transmission in 2^-32 ns (R210); reset 0. -/
  due : Nat := 0
deriving DecidableEq, Repr

/-- State of a subscription (R217). -/
inductive SubState where
  | waiting | live | expired
deriving DecidableEq, Repr

/-- A GOOSE subscription (R215, R217, R223). -/
structure GsbSub where
  /-- Words D0 to D8 as written. -/
  d : List Nat
  /-- The subscription is valid (R223); 1 bit. -/
  valid : Bool := true
  /-- Its state (R217); 2 bits. -/
  st : SubState := .waiting
  /-- Last accepted stNum; 32 bits. -/
  stNum : Nat := 0
  /-- Last accepted sqNum; 32 bits. -/
  sqNum : Nat := 0
  /-- Ingress time-stamp of the last accepted frame in whole ns. -/
  ns : Nat := 0
  /-- timeAllowedToLive of the last accepted frame in ms; 32 bits. -/
  ttl : Nat := 0
  /-- ndsCom of the last accepted frame. -/
  nds : Bool := false
deriving DecidableEq, Repr

/-- A GOOSE event that holds its frame at port 18 (R219). -/
structure GooseHold where
  /-- The event (R219); 8 words. -/
  ev : Ev
  /-- The buffer entry (R218). -/
  entry : List Nat
  /-- It is a new state. -/
  fresh : Bool
  /-- The subscription before the frame (R218, R221). -/
  prev : Option GsbSub
deriving DecidableEq, Repr

/-- The GOOSE publisher and subscriber. -/
structure Goose where
  /-- Publication slots by number (R206); 4096 slots; reset STOPPED. -/
  slots : Tbl GpbSlot := []
  /-- Subscriptions by number (R223); reset invalid. -/
  subs : Tbl GsbSub := []
  /-- Held event of the frame at port 18 (R219); reset none. -/
  hold : Option GooseHold := none
  /-- Held expiry events by subscription (R219); reset none. -/
  expiry : Tbl Ev := []
deriving DecidableEq, Repr

/-- The ports. -/
structure Ports where
  /-- External ports by instance (R179). -/
  tbl : Tbl Port := []
  /-- Pairs by lower port (R197). -/
  pairs : Tbl RedPair := []
  /-- The GOOSE publisher and subscriber. -/
  goose : Goose := {}
  /-- Frames that left a port, port and octets with the FCS, newest last (the model's own record of the wire, log 29); reset none. -/
  wire : List (Nat × List Nat) := []
deriving DecidableEq, Repr

/-! ### The Trellis (07_trellis_switch.md) -/

/-- An entry of the forwarding database (R238). -/
structure FdbEntry where
  /-- Address; 48 bits. -/
  mac : Nat
  /-- VID; 12 bits. -/
  vid : Nat
  /-- MASK; 20 bits. -/
  mask : Nat
  /-- STATIC. -/
  static : Bool
  /-- Fabric clock of the last refresh of a learned entry (R239). -/
  at_ : Nat := 0
deriving DecidableEq, Repr

/-- A host DMA ring (R252). -/
structure Ring where
  /-- HEAD (R263); 14 bits; reset 0. -/
  head : Nat := 0
  /-- Halted (R255); 1 bit; reset 0. -/
  halt : Bool := false
deriving DecidableEq, Repr

/-- The Trellis. -/
structure Trellis where
  /-- TRL_STAT.FULL (R249, R257); 1 bit; reset 0. -/
  full : Bool := false
  /-- Blocked ports (R249); 20 bits; reset none. -/
  blocked : Nat := 0
  /-- Output queues, by 8 × output + class: the queues of compact mode, the egress FIFOs of full mode (R242); reset empty. -/
  out : Tbl (List Frame) := []
  /-- Virtual output queues of full mode, by 160 × input + 8 × output + class (R242); reset empty. -/
  voq : Tbl (List Frame) := []
  /-- Frame copies on their way in cells, by 160 × input + 8 × output + class, oldest first (R231–R234); reset none. -/
  stage : Tbl (List Moving) := []
  /-- Cells that the intermediates hold, by 20 × intermediate + output (R233); reset none. -/
  mid : Tbl Cell := []
  /-- Sequence number of the next cell, by 20 × input + output (R234); 16 bits; reset 0. -/
  seqTx : Tbl Nat := []
  /-- Reorder windows, by 20 × output + input (R234); reset empty. -/
  reseq : Tbl Reseq := []
  /-- Output that an input served last (R233); 5 bits; reset 19, so that output 0 comes first (DESIGN CHOICE, log 27). -/
  rr : Tbl Nat := []
  /-- Frames that outputs have queued so far, the source of their order; reset 0. -/
  queued : Nat := 0
  /-- Fabric clock of the last request of TRL_FDB that wrote entries, with their keys (R240); reset none. -/
  fdbWrites : Nat × List (Nat × Nat) := (0, [])
  /-- Frames handed in so far, the source of their order; reset 0. -/
  order : Nat := 0
  /-- Spill windows: index of the 1 µs window, bytes written and bytes read in it (R246); reset 0. -/
  spill : Nat × Nat × Nat := (0, 0, 0)
  /-- Forwarding database by index, bucket × 4 + way (R238); 16,384 entries; reset empty. -/
  fdb : Tbl FdbEntry := []
  /-- Transmit rings by number (R252). -/
  tx : Tbl Ring := []
  /-- Receive rings by number (R252). -/
  rx : Tbl Ring := []
  /-- Transmit ring served last (R253); reset 7, so that ring 0 comes first (DESIGN CHOICE, log 27). -/
  lastTx : Nat := 7
deriving DecidableEq, Repr

/-! ### SV ingest and alignment (08_sv_ingest_alignment.md) -/

/-- A stream of SV ingest (R267, R278, R279, R282, R293). -/
structure Stream where
  /-- Words D0 to D9 of its descriptor as last written, clamped (R293); reset 0. -/
  d : List Nat := []
  /-- The descriptor is valid (R289); 1 bit; reset 0. -/
  valid : Bool := false
  /-- Tick and base rate of the edge at which it became valid (R289); reset none. -/
  since : Nat × Nat := (0, 1)
  /-- Counts by the order of SVI_SCNT (R293): 0 FRAMES, 1 AUTHFAIL, 2 CONFREV, 3 FORMAT, 4 SIMREJ, 5 OOWE, 6 OOWL, 7 LATE, 8 DUP,
  9 GAP, 10 SUBST, 11 UNSYNC, 12 KEY1USE, 13 KEY0USE; reset 0. -/
  cnt : Tbl Nat := []
  /-- k_last (R278); 16 bits; reset none. -/
  kLast : Option Nat := none
  /-- Fabric clock of the last placement (R279); reset none. -/
  placedAt : Option Nat := none
  /-- Lost (R279); 1 bit; reset 1. -/
  lost : Bool := true
  /-- Ingress time-stamp of the last accepted frame in whole ns (R293); reset 0. -/
  lastNs : Nat := 0
  /-- Last good value and its sample index by channel (R282); reset none. -/
  good : Tbl (Int × Nat) := []
  /-- Last received quality by channel (R282); reset none. -/
  qual : Tbl Nat := []
  /-- Consecutive substituted samples (R285); reset 0. -/
  consec : Nat := 0
deriving DecidableEq, Repr

/-- A sample in the alignment buffer (R276, R281, R433). -/
structure Sample where
  /-- Stream number (R276); 11 bits. -/
  stream : Nat
  /-- Absolute sample index: the nominal instant is `idx` divided by the stream's rate (R274). -/
  idx : Nat
  /-- Value and received quality by channel. -/
  vals : List (Int × Nat)
  /-- Placed under SYNCPOL = 0 (R273). -/
  unsync : Bool
  /-- Ingress time-stamp in 2^-32 ns of PTP time. -/
  ts : Nat
  /-- Fabric clock of its write. -/
  at_ : Nat
  /-- The copy came from the partner (R433). -/
  peer : Bool := false
deriving DecidableEq, Repr

/-- The samples of one stream in a released set (R287). -/
structure SetStream where
  /-- Stream number (R287); 11 bits. -/
  stream : Nat
  /-- First channel slot (R267). -/
  chbase : Nat
  /-- Rate in Hz. -/
  rate : Nat
  /-- Sample index, and value and quality of R284 by channel. -/
  samples : List (Nat × List (Int × Nat))
deriving DecidableEq, Repr

/-- A released set (R287). -/
structure RelSet where
  /-- Alignment group (R287); 8 bits. -/
  group : Nat
  /-- Absolute tick number N. -/
  tick : Nat
  /-- Base rate of tick N in Hz. -/
  hz : Nat
  /-- Its streams with their samples (R287). -/
  streams : List SetStream
  /-- Substituted samples. -/
  nsub : Nat
deriving DecidableEq, Repr

/-- SV ingest and the alignment groups. -/
structure Svi where
  /-- Streams by number (R293); 2048; reset invalid. -/
  streams : Tbl Stream := []
  /-- The alignment buffer (R276); reset empty. -/
  buf : List Sample := []
  /-- Samples discarded before release, stream and index (R281); reset none. -/
  rej : List (Nat × Nat) := []
  /-- End of the last set released or passed over, by group: tick and base rate (R277, R280); reset none. -/
  done : Tbl (Nat × Nat) := []
  /-- SVI_Gg_LASTREL by group (R294); 32 bits; reset 0. -/
  last : Tbl Nat := []
  /-- Ticks that have ended: tick, base rate, fabric clock of the edge that ended it, newest last, at most 64 (R280); reset none. -/
  ended : List (Nat × Nat × Nat) := []
  /-- The tick in progress at the fabric and its base rate (R280); reset none. -/
  cur : Option (Nat × Nat) := none
  /-- The SVI_DESC request that waits for its edge: stream, words of a WRITE, fabric clock of GO (R289); reset none. -/
  pend : Option (Nat × Option (List Nat) × Nat) := none
  /-- The FRAME event that stops ingest (R288); reset none. -/
  hold : Option Ev := none
  /-- Released sets that the Cascade has not processed, oldest first (R287); reset none. -/
  toCas : List RelSet := []
  /-- Released sets that the Belvedere has not taken, oldest first (R287); reset none. -/
  toBlv : List RelSet := []
  /-- Released sets on the class D tap of the Orangery, oldest first (R86, R287); reset none. -/
  toOrn : List RelSet := []
  /-- Sequence number of the oldest word on that tap (R90); 16 bits; reset 0 (DESIGN CHOICE, log 49). -/
  tapNo : Nat := 0
  /-- Fabric clock until which the last frame occupies ingest (R264); reset 0. -/
  busy : Nat := 0
deriving DecidableEq, Repr

/-! ### The Gatehouse (17_gatehouse_keys.md) -/

/-- A root bank of one-time fuses (R557, R558). -/
inductive RootBank where
  | blank
  /-- Partly programmed, its BORN mark incomplete. -/
  | partly
  /-- Its BORN mark is complete: the root secret it wraps, and whether its tag verifies. -/
  | born (root : Nat) (tagOk : Bool)
deriving DecidableEq, Repr

/-- The contents of a key slot (R563, R564). -/
structure KeySlot where
  /-- TYPE: 1 STORED, 2 DERIVED, 3 PUBLIC. -/
  type : Nat
  /-- ALG; 8 bits. -/
  alg : Nat
  /-- VERSION; 32 bits. -/
  ver : Nat := 0
  /-- PARENT; 16 bits. -/
  parent : Nat := 0
  /-- LABEL, 1 to 64 octets. -/
  label : List Nat := []
  /-- USES; 6 bits. -/
  uses : Nat := 0
  /-- MID0 to MID3; 16 bits each. -/
  mids : List Nat := []
  /-- PAV_LO; 16 bits. -/
  pavLo : Nat := 0
  /-- PAV_HI; 16 bits. -/
  pavHi : Nat := 0
  /-- Key octets of a STORED slot, or X and Y of a PUBLIC slot. -/
  key : List Nat := []
  /-- REVOKED. -/
  revoked : Bool := false
deriving DecidableEq, Repr

/-- An update of a slot whose VALID program is awaited (R566). -/
structure KeyUpdate where
  /-- Slot number (R566); 12 bits. -/
  slot : Nat
  /-- What the slot becomes; none for ERASE. -/
  next : Option KeySlot
  /-- OP of the request. -/
  op : Nat
  /-- VERSION of the record. -/
  ver : Nat
  /-- Copy being written: 0 A, 1 B. -/
  copy : Nat
  /-- A BAD slot: copy B is still to be rewritten. -/
  again : Bool
  /-- Descendants purged by a REVOKE (R585). -/
  purged : Nat
deriving DecidableEq, Repr

/-- The Gatehouse. Its fuses survive every reset. -/
structure Gatehouse where
  /-- Lifecycle fuses (R560); 2 bits; reset BLANK, an unprogrammed device (DESIGN CHOICE, log 35). -/
  lc : Nat := 0
  /-- Lifecycle state at the last release of RD_SYS, which the boot rules use (R561). -/
  lcBoot : Nat := 0
  /-- Root bank 0 (R557); reset blank (DESIGN CHOICE, log 35). -/
  bank0 : RootBank := .blank
  /-- Root bank 1 (R557); reset blank (DESIGN CHOICE, log 35). -/
  bank1 : RootBank := .blank
  /-- Fuse rows 0 to 4 that are programmed, with their digests (R581, R582); reset none (DESIGN CHOICE, log 35). -/
  rows : Tbl (List Nat) := []
  /-- Revoke bits of the rows (R581, R582); 5 bits; reset 0 (DESIGN CHOICE, log 35). -/
  rev : Nat := 0
  /-- GTH_BOOTVER.COUNT (R582); 7 bits; reset 0 (DESIGN CHOICE, log 35). -/
  bootver : Nat := 0
  /-- GTH_LC.ROOT (R557, R587); 2 bits; reset NONE. -/
  rootSt : Nat := 0
  /-- Root secret in the root register (R556); 256 bits; reset 0. -/
  root : Nat := 0
  /-- Root birth in progress: bank and failures so far (R557, R558, R559); reset into bank 0, by R557 for blank banks. -/
  birth : Option (Nat × Nat) := some (0, 0)
  /-- GTH_LC.ENTERR (R559); 1 bit; reset 0. -/
  entErr : Bool := false
  /-- Key memory by slot (R563); 4096 slots; reset EMPTY. -/
  slots : Tbl KeySlot := []
  /-- BAD slots (R567); reset none. -/
  bad : List Nat := []
  /-- GTH_LC.LOADING (R569); 1 bit; reset 0. -/
  loading : Bool := false
  /-- Update whose VALID program is awaited (R566); reset none. -/
  update : Option KeyUpdate := none
  /-- Slots in the derived cache that are not pinned, most recent first (R573); reset none. -/
  cache : List Nat := []
  /-- Debug challenge (R583); 256 bits; reset none. -/
  challenge : Option Nat := none
  /-- Parts of an UNLOCK written so far (R583); reset none. -/
  unlockParts : Tbl (List Nat) := []
  /-- Failed unlocks since the reset of RD_SYS (R583); reset 0. -/
  fails : Nat := 0
  /-- The debug port is unlocked (R583); 1 bit; reset 0. -/
  unlocked : Bool := false
deriving DecidableEq, Repr
/-! ### The Cascade and the Lantern (09_cascade_lantern.md) -/

/-- The working state of a processed channel (R308, R309, R312, R313): values with their quality, newest first; a position that no list
holds is filled with value 0, validity invalid and SETTLE. -/
structure CasChannel where
  /-- Input histories of the stages 1 to 3, each as long as its response at most (R297, R308); reset empty. -/
  hist : List (List (Int × Nat)) := [[], [], []]
  /-- Decimated outputs under the moving average, 4097 at most (R309); reset empty. -/
  ma : List (Int × Nat) := []
  /-- Decimated outputs under the Lantern, 256 at most (R311); reset empty. -/
  out : List (Int × Nat) := []
  /-- The newest sample: its absolute index, tick, value and quality (R297); reset none. -/
  newest : Option (Nat × Nat × Int × Nat) := none
  /-- PHASE and base rate of the last set (R313); reset none. -/
  mark : Option (Nat × Nat) := none
  /-- Outputs formed since that pair last changed, 4096 at most and where it never did (R309, R313); reset 4096. -/
  nout : Nat := 4096
deriving DecidableEq, Repr

/-- A group's frequency state (R314, R315), in 2^-32 Hz. -/
structure LtnGroup where
  /-- f_g in 2^-32 Hz (R314, R315); reset none: before the first f_raw. -/
  f : Option Nat := none
  /-- ρ in 2^-32 Hz/s (R314); reset 0. -/
  rho : Int := 0
  /-- f_raw and the quality of its two phasors, newest first, 63 at most (R307, R314); reset none. -/
  raws : List (Nat × Nat) := []
  /-- f_g at each output of the reference and its quality, newest first, 256 at most (R307, R314); reset none. -/
  past : List (Nat × Nat) := []
  /-- FMODE and REF of the last reference output, its θ and its quality (R314); reset none. -/
  prev : Option (Nat × Nat × Nat) := none
  /-- PHASE and base rate of the last set (R313); reset none. -/
  mark : Option (Nat × Nat) := none
  /-- Reference outputs since that pair last changed, 4096 at most and where it never did (R313); reset 4096. -/
  nout : Nat := 4096
  /-- LTN_Gg_STAT.SETTLE (R329); 1 bit; reset 0. -/
  settle : Bool := false
deriving DecidableEq, Repr

/-- A triplet of the Lantern (R316, R328). -/
structure Triplet where
  /-- Channel slot of phase A (R316); 14 bits. -/
  a : Nat
  /-- Channel slot of phase B (R316); 14 bits. -/
  b : Nat
  /-- Channel slot of phase C (R316); 14 bits. -/
  c : Nat
  /-- VALID (R328); 1 bit. -/
  valid : Bool := true
deriving DecidableEq, Repr

/-- A sync request (R301). -/
structure SyncReq where
  /-- Taken by CAS_SYNC.GO, not by the pin (R301). -/
  go : Bool
  /-- SYNC_OUT is still to be pulsed (R301). -/
  out : Bool
  /-- The groups selected when it was taken (R301). -/
  groups : List Nat
  /-- Fabric count at the taking (R301). -/
  at_ : Nat
  /-- N_s, once it is determined (R301). -/
  ns : Option Nat
deriving DecidableEq, Repr

/-- The Cascade and the Lantern (R296–R329). -/
structure Cascade where
  /-- The channels with working state (R296, R308); 16,384; reset none. -/
  chans : Tbl CasChannel := []
  /-- Groups of the Lantern (R314); 256; reset none. -/
  groups : Tbl LtnGroup := []
  /-- Triplets (R316, R328); 8192; reset none valid. -/
  trips : Tbl Triplet := []
  /-- The triplet change that waits for the fabric edge (R328); reset none. -/
  trip : Option (Nat × Option Triplet) := none
  /-- Sync requests (R301); reset none. -/
  syncs : List SyncReq := []
  /-- Per group whose PHASE changed: oldest first, the first tick under a new PHASE, its base rate, and the PHASE before (R301, R302); reset
  none. -/
  oldPhase : Tbl (List (Nat × Nat × Nat)) := []
  /-- SYNC_OUT pin (R301); 1 bit; reset low. -/
  syncOut : Bool := false
  /-- Raw count of its rise (R301); reset 0. -/
  syncOutAt : Nat := 0
  /-- The last CRC check of the ROM failed (R310); 1 bit; reset 0. -/
  romErr : Bool := false
  /-- The results of the next released set of which the two lanes will differ (R310; log 105); reset none. -/
  differ : List LaneResult := []
deriving DecidableEq, Repr

/-! ### The Footbridge (13_footbridge_pair.md) -/

/-- A batched event copy (R437). -/
structure BatchEv where
  /-- The event (R437); 8 words. -/
  ev : Ev
  /-- Merge key: the key of R437's table as a number. -/
  key : Nat
  /-- SIDE of the module it came from. -/
  side : Nat
  /-- Batch: the tick that contains its event time. -/
  tick : Nat
  /-- The buffer entry of a GOOSE new state or retransmission (R221). -/
  entry : List Nat := []
  /-- The event is a new state, whose entry is written at admission (R221). -/
  fresh : Bool := false
  /-- The subscription as it was before an own new state, restored where the write is refused (R218). -/
  prev : Option GsbSub := none
deriving DecidableEq, Repr

/-- The digests of one tick (R441, R442). -/
structure Digest where
  /-- N. -/
  tick : Nat
  /-- Own OUT; 128 bits. -/
  out : Nat
  /-- Own IN; 128 bits. -/
  inp : Nat
  /-- Own NENT; 32 bits. -/
  nent : Nat
  /-- Fabric clock of sending. -/
  at_ : Nat
  /-- Partner's OUT and IN once received. -/
  peer : Option (Nat × Nat) := none
  /-- A missing digest has been counted (R442). -/
  missed : Bool := false
deriving DecidableEq, Repr

/-- A token request in progress (R450). -/
structure TokenReq where
  /-- The request is an OFFER; else a CLAIM. -/
  offer : Bool
  /-- It was made by this module. -/
  own : Bool
  /-- Tick K; 64 bits. -/
  k : Nat
  /-- ACCEPT has been sent or received. -/
  agreed : Bool := false
  /-- Its edge K has come and the taker waits for the giver's CONTROL of K (R450). -/
  late : Bool := false
  /-- CONFIRM has been sent (as giver) or received (as taker). -/
  confirm : Bool := false
  /-- It came from FTB_TOKEN, whose request it ends. -/
  mbx : Bool := false
  /-- It is the revert of R455. -/
  revert : Bool := false
deriving DecidableEq, Repr

/-- A message sent on both links (R427, R428; the model's own record of the links). -/
structure FtbMsg where
  /-- TYPE. -/
  type : Nat
  /-- SEQ; 32 bits. -/
  seq : Nat
  /-- STATE and HOLDER of the sender. -/
  st : Nat
  /-- HOLDER bit. -/
  holder : Bool
  /-- Tick in progress. -/
  tick : Nat
  /-- Payload words. -/
  body : List Nat
deriving DecidableEq, Repr

/-- A join in progress on the joiner, or the part of the donor (R460–R462). -/
structure JoinRun where
  /-- This module is the joiner. -/
  joiner : Bool
  /-- System tick J₀. -/
  j0 : Nat
  /-- The system data have been applied. -/
  started : Bool := false
  /-- Pavilions still to join. -/
  todo : List Nat := []
  /-- Pavilions whose data are awaited, with the fabric clock of step 6 (R461). -/
  waiting : List (Nat × Nat) := []
  /-- Pavilions joined. -/
  joined : List Nat := []
  /-- Retries so far. -/
  retries : Nat := 0
deriving DecidableEq, Repr

/-- The Footbridge. -/
structure Footbridge where
  /-- STATE while in pair operation (R445, R464); 4 bits; reset OFF. -/
  st : Nat := 0
  /-- The token is held and the outputs driven, in pair operation (R446, R464); 1 bit; reset 0. -/
  holder : Bool := false
  /-- Tick in which a freeze began (R448); reset none. -/
  frozen : Option Nat := none
  /-- FTB_EPOCH (R447); 32 bits; reset 0. -/
  epoch : Nat := 0
  /-- This module holds the request turn (R449); 1 bit; reset 0. -/
  turn : Bool := false
  /-- Token request in progress (R450); reset none. -/
  req : Option TokenReq := none
  /-- Own token request that waits for the turn (R449); reset none. -/
  want : Option TokenReq := none
  /-- Something of the partner has been heard since pair operation began (R456); 1 bit; reset 0. -/
  heard : Bool := false
  /-- A RELINQUISH has been received: fabric clock from which the token may be taken (R451); reset none. -/
  takeover : Option Nat := none
  /-- Fabric clock at which pair operation began (R429, R456); reset 0. -/
  upAt : Nat := 0
  /-- TURN has been sent and the turn is awaited (R449); 1 bit; reset 0. -/
  asked : Bool := false
  /-- Fabric clock of the last valid message on each link (R429); reset none. -/
  link0 : Option Nat := none
  /-- Fabric clock of the last valid message on FB1 (R429); reset none. -/
  link1 : Option Nat := none
  /-- FBLOST (R429, R464); 1 bit; reset 0. -/
  fbLost : Bool := false
  /-- HBLOST (R429, R464); 1 bit; reset 0. -/
  hbLost : Bool := false
  /-- GHBLOST (R430, R464); 1 bit; reset 0. -/
  ghbLost : Bool := false
  /-- Fabric clock of the last edge on PAIR_HB_IN (R429); reset 0. -/
  hbAt : Nat := 0
  /-- PAIR_HB_OUT (R429); 1 bit; reset 0. -/
  hbOut : Bool := false
  /-- Raw count of the last toggle of PAIR_HB_OUT (R429); reset 0. -/
  hbOutAt : Nat := 0
  /-- Fabric clock of the last heartbeat GOOSE of the partner (R430); reset 0. -/
  ghbAt : Nat := 0
  /-- Raw count of the last heartbeat GOOSE sent (R430); reset 0. -/
  ghbOutAt : Nat := 0
  /-- stNum of the heartbeat GOOSE (R430); 32 bits; reset 1 (DESIGN CHOICE, log 42). -/
  ghbSt : Nat := 1
  /-- sqNum of the heartbeat GOOSE (R430); 32 bits; reset 0 (DESIGN CHOICE, log 42). -/
  ghbSq : Nat := 0
  /-- HOLDER and EPOCH of the last heartbeat GOOSE sent (R430); reset none. -/
  ghbLast : Option (Bool × Nat) := none
  /-- PTP time in 2^-32 ns of the last change of HOLDER or EPOCH that the heartbeat GOOSE showed (R430); reset 0. -/
  ghbT : Nat := 0
  /-- PSTATE (R464); 4 bits; reset 0. -/
  pstate : Nat := 0
  /-- HOLDER the partner last reported (R428); 1 bit; reset 0. -/
  pholder : Bool := false
  /-- HEALTH the partner last reported (R428); 16 bits; reset 0. -/
  phealth : Nat := 0
  /-- CFGDIG the partner last reported (R432); 128 bits; reset none. -/
  pcfg : Option Nat := none
  /-- FTB_INSTEP.S (R455); 12 bits; reset 0. -/
  steps : Nat := 0
  /-- Something in the present second keeps it from counting (R455); 1 bit; reset 0. -/
  spoilt : Bool := false
  /-- Raw count at which the listening of R456 ends; reset none. -/
  listen : Option Nat := none
  /-- Digests of recent ticks, oldest first (R441, R442); reset none. -/
  digs : List Digest := []
  /-- Partner digests received before this module's own: tick, OUT, IN (R442); reset none. -/
  early : List (Nat × Nat × Nat) := []
  /-- Digests of the last tick that mismatched or was missing (R464); reset none. -/
  mis : Option Digest := none
  /-- Diagnoses in progress: tick, mismatch, missing (R442, R443); reset none. -/
  diag : List (Nat × Bool × Bool) := []
  /-- Event copies awaiting their cut (R437); reset none. -/
  batch : List BatchEv := []
  /-- Events admitted in the last batches, for suppression (R437); reset none. -/
  past : List BatchEv := []
  /-- The events of batches cut that are still to be admitted, one per fabric clock (R438); reset none. -/
  toAdmit : List BatchEv := []
  /-- Fabric clock in which the last event of a batch was admitted (R438); reset none. -/
  admitFab : Option Nat := none
  /-- Last batch cut (R438); reset none. -/
  cut : Option Nat := none
  /-- Post counts of pavilions (R437); 32 bits each; reset 0. -/
  posts : Tbl Nat := []
  /-- TYPE and SEQ pairs received lately, newest first (R427); reset none. -/
  seen : List (Nat × Nat) := []
  /-- Next SEQ by TYPE (R428); 32 bits each; reset 0. -/
  seqs : Tbl Nat := []
  /-- Raw count at which this module last sent a message (R428); reset 0. -/
  sentAt : Nat := 0
  /-- Records gathered for the next SAMPLE and the fabric clock of the first (R428); reset none. -/
  gather : List Sample := []
  /-- Fabric clock of the first gathered record (R428); reset 0. -/
  gatherAt : Nat := 0
  /-- Messages sent, newest last (the model's own record, log 29); reset none. -/
  sent : List FtbMsg := []
  /-- Join in progress (R460); reset none. -/
  join : Option JoinRun := none
  /-- Committed entries and latched records of the edge in progress, for the digests (R441); reset none. -/
  outItems : List Nat := []
  /-- Entries counted in the OUT digest of the edge in progress (R441); reset 0. -/
  nent : Nat := 0
  /-- Octets of the records latched at the edge in progress (R441); reset none. -/
  inItems : List Nat := []
deriving DecidableEq, Repr
/-! ### The Orangery (14_orangery_metering.md) -/

/-- A circuit as defined (R470, R506): D0 to D4 of CIRCUIT, clamped; reset: OFF (DESIGN CHOICE, log 49). -/
structure Circuit where
  /-- CONN: 0 off, 1 single-phase, 2 three-phase. -/
  conn : Nat := 0
  /-- REV (R470); 1 bit; reset 0. -/
  rev : Bool := false
  /-- In in mA. -/
  amps : Nat := 1
  /-- Current slot and voltage slot of the elements. -/
  elems : List (Nat × Nat) := []
deriving DecidableEq, Repr

/-- Corrections of a circuit (R477); reset: unity and 0. -/
structure CorrQ where
  /-- Gain of P in 2^-30 (R477); 32 bits. -/
  gP : Nat := 2 ^ 30
  /-- Offset of P (R477); 32 bits. -/
  oP : Int := 0
  /-- Gain of Q in 2^-30 (R477); 32 bits. -/
  gQ : Nat := 2 ^ 30
  /-- Offset of Q (R477); 32 bits. -/
  oQ : Int := 0
  /-- Gain of S in 2^-30 (R477); 32 bits. -/
  gS : Nat := 2 ^ 30
  /-- Offset of S (R477); 32 bits. -/
  oS : Int := 0
deriving DecidableEq, Repr

/-- A pulse output's assignment (R490); reset: disabled (DESIGN CHOICE, log 49). -/
structure PulseSet where
  /-- EN (R490); 1 bit. -/
  en : Bool := false
  /-- ACC, the accumulator that drives it (R490); 3 bits. -/
  acc : Nat := 0
  /-- CIRCUIT (R490). -/
  circuit : Nat := 0
  /-- C. -/
  c : Nat := 1
  /-- W in units of 0.1 ms. -/
  w : Nat := 1
deriving DecidableEq, Repr

/-- The parameters of the Orangery (R468, R477, R506). -/
structure OrnParams where
  /-- Circuits by number (R470); reset none. -/
  circuits : Tbl Circuit := []
  /-- GAIN and PHASE per channel slot. -/
  corr : Tbl (Nat × Int) := []
  /-- Corrections per circuit (R477); reset none. -/
  corrQ : Tbl CorrQ := []
  /-- Pulse assignments by output (R490); reset none. -/
  pulses : Tbl PulseSet := []
  /-- SP, 10 bits; reset 10. -/
  sp : Nat := 10
  /-- SEAL_TMO in minutes, 16 bits; reset 240. -/
  tmo : Nat := 240
  /-- ROLE; reset 0. -/
  role : Nat := 0
deriving DecidableEq, Repr

/-- An accumulator (R480): value, wrap count, and residual in 2^-32 / 36 000 unit. -/
structure Accum where
  /-- Value (R480); 64 bits; reset 0. -/
  value : Nat := 0
  /-- Wrap count (R481); 16 bits; reset 0. -/
  wraps : Nat := 0
  /-- Residual in 2^-32 / 36,000 unit (R480); reset 0. -/
  res : Nat := 0
deriving DecidableEq, Repr

/-- The metering state of a circuit (R473, R478, R480, R484). -/
structure CircuitRun where
  /-- A+, A−, R1, R2, R3, R4, SA, SV. -/
  accs : List Accum := [{}, {}, {}, {}, {}, {}, {}, {}]
  /-- INVAL, SUBST, GAP, NOLOAD, DOUBT. -/
  diag : List Nat := [0, 0, 0, 0, 0]
  /-- Tag of the last interval (R474). -/
  tag : Nat := 0
  /-- CFGERR of the circuit (R470); 1 bit; reset 0. -/
  cfgErr : Bool := false
  /-- NOLOAD in the last interval (R479); 1 bit; reset 0. -/
  noload : Bool := false
  /-- The last interval was doubtful (R474); 1 bit; reset 0. -/
  doubtful : Bool := false
  /-- P′, Q′, S_A′, S_V′ of the last interval in mW, mvar and mVA. -/
  inst : List Int := [0, 0, 0, 0]
  /-- Elements that passed the no-load test. -/
  nel : Nat := 0
  /-- Largest |P′|, |Q′| and S_A′ since the last save. -/
  peak : List Nat := [0, 0, 0]
deriving DecidableEq, Repr

/-- A save (R484, R485). -/
structure OrnSave where
  /-- Sequence of the save (R484); 32 bits. -/
  seq : Nat
  /-- Metering state of the circuits (R484). -/
  runs : Tbl CircuitRun
  /-- The interval after the saved one. -/
  until_ : Nat
  /-- Saved for a firmware activation (R489). -/
  clean : Bool
deriving DecidableEq, Repr

/-- A loss record (R486, R487); instants in tenths of a second. -/
structure LossRec where
  /-- KIND, POWER or GAP (R486, R487). -/
  kind : Nat
  /-- CAUSE (R486). -/
  cause : Nat
  /-- Group concerned (R487). -/
  group : Nat
  /-- End of the last metered interval in tenths of a second (R486). -/
  last : Nat
  /-- Begin of the next metered interval in tenths of a second (R486). -/
  next : Nat
  /-- SP in force (R486). -/
  sp : Nat
  /-- COUNT (R486). -/
  count : Nat
  /-- BOUND_P, BOUND_Q and BOUND_S per circuit. -/
  bounds : Tbl (List Nat)
deriving DecidableEq, Repr

/-- A firmware bank (R500): version, length, SHA-256 and the 32-byte chunks. -/
structure FwBank where
  /-- VERSION (R500); 32 bits; reset 0 (DESIGN CHOICE, log 49). -/
  version : Nat := 0
  /-- Length in bytes (R500); reset 0. -/
  len : Nat := 0
  /-- SHA-256 (R500); 256 bits; reset 0. -/
  sha : Nat := 0
  /-- Chunks loaded, by number (R500); reset none. -/
  chunks : Tbl (List Nat) := []
deriving DecidableEq, Repr

/-- STATE of ORN_STAT (R506). -/
inductive OrnPhase where
  | starting | metering | activating
deriving DecidableEq, Repr

/-- A pulse output at work (R490, R491). -/
structure PulseRun where
  /-- Pulses due (R491); 16 bits; reset 0. -/
  due : Nat := 0
  /-- Pulses left of the present 100 ms (R491); reset 0. -/
  left : Nat := 0
  /-- Orangery clock at which the next pulse may start (R491); reset 0. -/
  at_ : Nat := 0
  /-- Spacing of pulses in ns (R491); reset 0. -/
  gap : Nat := 0
  /-- End of the last pulse, in Orangery clock ns (R490); reset 0. -/
  high : Nat := 0
  /-- Pulses emitted (R490); reset 0. -/
  sent : Nat := 0
deriving DecidableEq, Repr

/-- The request that waits for an interval boundary (R477, R496). -/
structure OrnChange where
  /-- The parameters that will be in force (R477, R496). -/
  params : OrnParams
  /-- The audit records it writes: words D1, D2 and the old and new value. -/
  audit : List (Nat × Nat × Nat × Nat)
  /-- The pulse output assigned anew. -/
  pin : Option Nat
  /-- The interval from which it applies. -/
  from_ : Nat
deriving DecidableEq, Repr

/-- The Orangery (R466–R506). -/
structure Orangery where
  /-- STATE of ORN_STAT (R506); reset STARTING. -/
  phase : OrnPhase := .starting
  /-- ORN_RST_N is low, or VDD_ORN out of range (R98, R104); 1 bit; reset 0. -/
  held : Bool := false
  /-- CAUSE of the last reset of RD_ORN (R486); 3 bits; reset 2, VDD_ORN (DESIGN CHOICE, log 49). -/
  cause : Nat := 2
  /-- The Orangery's clock in ns since its power came (R502, R503); reset 0 (DESIGN CHOICE, log 49). -/
  clk : Nat := 0
  /-- Parameters, newest first, each with the first interval they hold for (R477); reset none, the default parameters. -/
  params : List (Nat × OrnParams) := []
  /-- The request that waits for an interval boundary (R477); reset none. -/
  change : Option OrnChange := none
  /-- Group and rate of the streams seen per channel slot, and the slot's last value (R470, R472); reset none. -/
  slots : Tbl (Nat × Nat × Int) := []
  /-- Sets received, oldest first (R472, R476); reset none. -/
  sets : List RelSet := []
  /-- Next interval of each group (R474, R476); reset none. -/
  next : Tbl Nat := []
  /-- Metering state by circuit (R480); reset none. -/
  runs : Tbl CircuitRun := []
  /-- Save 0 (R484); reset none. -/
  save0 : Option OrnSave := none
  /-- Save 1 (R484); reset none. -/
  save1 : Option OrnSave := none
  /-- Sequence of the last save (R484); 32 bits; reset 0. -/
  saveSeq : Nat := 0
  /-- The interval after the one that the loaded save ends with (R485, R486); reset 0. -/
  loaded : Nat := 0
  /-- The POWER loss record is still to be written (R486); 1 bit; reset 0. -/
  powerDue : Bool := false
  /-- The peaks that the POWER record takes its bounds from (R486); reset none. -/
  loadedPeaks : Tbl (List Nat) := []
  /-- Loss records, oldest first (R486, R487); reset none. -/
  losses : List LossRec := []
  /-- ORN_LOSSCNT (R488); 32 bits; reset 0. -/
  lossCnt : Nat := 0
  /-- Pulse outputs at work (R490); reset none. -/
  pulses : Tbl PulseRun := []
  /-- ORN_SEAL_N is low (R492); 1 bit; reset 0 (DESIGN CHOICE, log 49). -/
  pinLow : Bool := false
  /-- Orangery clock of the last change of ORN_SEAL_N (R492); reset 0. -/
  pinAt : Nat := 0
  /-- Orangery clock at the accepted OPEN that holds the seal open (R492); reset none. -/
  openAt : Option Nat := none
  /-- The challenge in force (R493); 256 bits; reset none. -/
  nonce : Option Nat := none
  /-- The challenge count (R493); 64 bits; reset 0 (DESIGN CHOICE, log 49). -/
  challenges : Nat := 0
  /-- The metrology key (R495); 256 bits; reset none. -/
  key : Option (List Nat) := none
  /-- Consecutive failures of OPEN (R494); reset 0. -/
  fails : Nat := 0
  /-- AUTHFAIL (R494, R506); 16 bits; reset 0. -/
  authFail : Nat := 0
  /-- Orangery clock at which the lockout began (R494); reset none. -/
  lockAt : Option Nat := none
  /-- TAPERR (R506); 16 bits; reset 0. -/
  tapErr : Nat := 0
  /-- Sequence number that the next word of the tap is to carry (R90); 16 bits; reset none: before the first word. -/
  tapNext : Option Nat := none
  /-- The audit log, oldest first, eight words each, at most 32,768 records (R498); reset none. -/
  audit : List (List Nat) := []
  /-- ORN_MEVT (R506); 16 bits; reset 0. -/
  mevt : Nat := 0
  /-- The active bank is bank 1 (R500); 1 bit; reset 0. -/
  active : Bool := false
  /-- Firmware bank 0 (R500). -/
  bank0 : FwBank := {}
  /-- Firmware bank 1 (R500). -/
  bank1 : FwBank := {}
  /-- FALLBACK (R501, R506); 1 bit; reset 0. -/
  fallback : Bool := false
  /-- REFLOST: REFCLK_SDS ÷ 16 is absent or out of range (R502); 1 bit; reset 0. -/
  refLost : Bool := false
  /-- Clock of the last trim (R502, R607); reset 0. -/
  trimAt : Nat := 0
deriving DecidableEq, Repr
/-! ### The Belvedere (15_belvedere_capture.md) -/

/-- The history of a trigger unit (R509–R511); times in ns of PTP time. -/
structure UnitRun where
  /-- Level of a POINT or DIN source, and the time of the transition to it where the unit has seen one (R510); reset none. -/
  level : Option (Nat × Option Nat) := none
  /-- Time of the last transition, present sample or frame, and whether TIMEOUT has fired for it. -/
  last : Option Nat := none
  /-- TIMEOUT has fired for it (R511); 1 bit; reset 0. -/
  fired : Bool := false
  /-- RUNT: the last value, and the start of the excursion with whether it has reached HI. -/
  prev : Option Int := none
  /-- Start of a RUNT excursion and whether it has reached HI (R510); reset none. -/
  exc : Option (Nat × Bool) := none
  /-- SLEW: the evaluated samples, newest first, 63 at most, and the failures in a row since the last fire. -/
  hist : List Int := []
  /-- Failures in a row since the last SLEW fire (R509, R510); reset none. -/
  quiet : Option Nat := none
deriving DecidableEq, Repr

/-- What a capture group does; ARMING and ARMED are told apart by the time it has recorded (R513). -/
inductive CapState where
  | idle | record | post | full | err
deriving DecidableEq, Repr

/-- A record in a slot (R528): offset, length, time in ns, and whether it is a MARK. -/
structure CapRec where
  /-- Offset in the slot (R528). -/
  off : Nat
  /-- Length in bytes (R528). -/
  len : Nat
  /-- Time in ns of PTP time (R528). -/
  ns : Nat
  /-- It is a MARK (R528). -/
  mark : Bool
deriving DecidableEq, Repr

/-- A capture group (R513–R526); every value resets to 0 or none. -/
structure CapGroup where
  /-- What the group does (R513); reset IDLE. -/
  st : CapState := .idle
  /-- CUR (R533); 4 bits; reset 0. -/
  cur : Nat := 0
  /-- HELD (R515, R517); 16 bits; reset 0. -/
  heldSlots : Nat := 0
  /-- SEQ (R526, R533); 32 bits; reset 0. -/
  seq : Nat := 0
  /-- PTP time in ns from which the present slot records (R513); reset 0. -/
  since : Nat := 0
  /-- Records of the slot, oldest first (R528); reset none. -/
  recs : List CapRec := []
  /-- Offset after the last record (R528); reset 2048. -/
  next : Nat := 2048
  /-- The record area has wrapped (R528); 1 bit; reset 0. -/
  wrapped : Bool := false
  /-- Records dropped in this capture (R525); reset 0. -/
  dropped : Nat := 0
  /-- Dropped records not yet told by a GAP mark (R525); reset 0. -/
  gap : Nat := 0
  /-- t_T in ns (R515); reset 0. -/
  tT : Nat := 0
  /-- End of the capture in ns (R515); reset 0. -/
  fin : Nat := 0
  /-- UNIT that triggered (R512, R526); 6 bits; reset 0. -/
  unit : Nat := 0
  /-- Mask that triggered (R520, R526); 6 bits; reset 0. -/
  mask : Nat := 0
  /-- SHORTPRE (R514, R526); 1 bit; reset 0. -/
  short : Bool := false
  /-- MASKSTOP (R520); 1 bit; reset 0. -/
  maskStop : Bool := false
  /-- SOFT (R514); 1 bit; reset 0. -/
  soft : Bool := false
  /-- EXTENDED (R516); 1 bit; reset 0. -/
  extended : Bool := false
  /-- DIV as stepped (R522, R523); 8 bits; reset 1. -/
  div : Nat := 1
  /-- DIV in force with the tick and rate from which it applies, newest first (R522, R523); reset none. -/
  divs : List (Nat × Nat × Nat) := []
  /-- Changes of DIV while recording: time in ns, DIV, DIV before; oldest first (R526); reset none. -/
  rates : List (Nat × Nat × Nat) := []
  /-- Fire time of each unit, for MODE = AND (R514); reset none. -/
  fires : Tbl Nat := []
  /-- A fabric tick edge has come after the end (R515); 1 bit; reset 0. -/
  edgeAfter : Bool := false
deriving DecidableEq, Repr

/-- A mask's tables (R521): lower and upper envelope; the new one with the cycle after which it is used. -/
structure MaskRun where
  /-- Envelope in use: lower and upper bound by point (R521); reset none. -/
  tbl : List (Int × Int) := []
  /-- The new envelope and the cycle after which it is used (R521); reset none. -/
  new : Option (List (Int × Int) × Nat) := none
  /-- A copy is due, asked for at this fabric count (R521); reset none. -/
  due : Option Nat := none
deriving DecidableEq, Repr

/-- The Belvedere (R507–R534). -/
structure Belvedere where
  /-- Source entries: D0 of BLV_SRC (R507, R531); 1024 × 32 bits; reset none valid (DESIGN CHOICE, log 50). -/
  srcs : Tbl Nat := []
  /-- The change of a source entry that waits for the fabric edge (R531); reset none. -/
  src : Option (Nat × Option Nat) := none
  /-- Trigger units by number (R509); 64; reset none. -/
  units : Tbl UnitRun := []
  /-- Capture groups by number (R513); 16; reset IDLE. -/
  groups : Tbl CapGroup := []
  /-- Mask tables by number (R521); 64; reset none. -/
  masks : Tbl MaskRun := []
  /-- Writes of points not yet taken: index, value, quality, time in 2^-32 ns (R507); reset none. -/
  points : List (Nat × Nat × Nat × Nat) := []
  /-- Releases per alignment group: tick, rate and fabric count, newest first (R508, R515); reset none. -/
  rels : Tbl (List (Nat × Nat × Nat)) := []
  /-- Bytes in the write buffer at a fabric count (R522, R525); reset 0. -/
  fill : Nat := 0
  /-- Fabric clock at which the level was taken (R522); reset 0. -/
  fillAt : Nat := 0
  /-- Fabric count from which the buffer has held less than 512 KiB (R523); reset 0. -/
  lowAt : Nat := 0
  /-- Fabric clock of the last halving step (R522); reset none. -/
  stepAt : Option Nat := none
deriving DecidableEq, Repr
/-! ### The Herbarium (16_herbarium_recorder.md) -/

/-- A composed record before it is written (R535). -/
structure Rec where
  /-- TYPE; 12 bits. -/
  type : Nat
  /-- SRC; 16 bits. -/
  src : Nat
  /-- FLAGS.PTPV (R538). -/
  ptpv : Bool
  /-- FLAGS.STAGED (R548). -/
  staged : Bool := false
  /-- SNAPVER (R541, R543). -/
  snapver : Nat
  /-- OPSEC at acceptance (R538). -/
  opsec : Nat
  /-- PCYC at acceptance (R538). -/
  pcyc : Nat
  /-- PTP time of the event in whole ns (R538). -/
  ns : Nat
  /-- A0 to A5. -/
  args : List Nat
  /-- Snapshot words, at most 30 (R541). -/
  snap : List Nat
  /-- Repeats while the record is not closed (R544). -/
  reps : Nat := 0
  /-- PTP time of the last repeat in whole ns (R544). -/
  repNs : Nat := 0
  /-- The record was closed before it was written (R545). -/
  closed : Bool := false
  /-- Fabric clock of its acceptance (R547). -/
  at_ : Nat := 0
deriving DecidableEq, Repr

/-- What the flash of the Herbarium is doing (R536, R548, R553). -/
inductive FlashOp where
  /-- The body of a record is being programmed. -/
  | body (page : Nat) (r : Rec)
  /-- The VALID word of a record is being programmed. -/
  | valid (page : Nat) (r : Rec)
  /-- The REPEAT field of a record is being programmed. -/
  | rep (page : Nat) (r : Rec)
deriving DecidableEq, Repr

/-- A snapshot selection (R541, R555). -/
structure SnapSel where
  /-- Offsets in force; at most 30. -/
  offs : List Nat := []
  /-- SNAPVER; 16 bits; reset 0 (DESIGN CHOICE, log 9). -/
  ver : Nat := 0
  /-- Selection being written: count and offsets so far; reset none. -/
  draft : Option (Nat × List Nat) := none
deriving DecidableEq, Repr

/-- The Herbarium (R535–R555). -/
structure Herbarium where
  /-- Flash bytes; an unlisted byte is erased, 0xFF (DESIGN CHOICE, log 8); 64 MiB. -/
  flash : Tbl Nat := []
  /-- Staging queue, oldest first, at most 64 (R547); reset empty. -/
  staging : List Rec := []
  /-- The last record composed, while it is not closed: its TYPE, SRC and A0 (R544); reset none. -/
  open_ : Option (Nat × Nat × Nat) := none
  /-- Fabric clock of the last occurrence of the open record (R545); reset 0. -/
  openAt : Nat := 0
  /-- The open record once written, with its page (R545); reset none. -/
  openPage : Option (Nat × Rec) := none
  /-- Closings deferred by a freeze or by an operation in progress (R545, R549); reset none. -/
  closings : List (Nat × Rec) := []
  /-- Flash operation in progress (R536); reset none. -/
  op : Option FlashOp := none
  /-- Scan in progress (R552); 1 bit; reset 1: the scan begins at the release of RD_SYS. -/
  scanning : Bool := true
  /-- HRB_STAT.FROZEN (R548); 1 bit; reset 0. -/
  frozen : Bool := false
  /-- Sector being erased, whether suspended (R548, R553); reset none. -/
  erasing : Option (Nat × Bool) := none
  /-- Sectors to erase after the present one (R553); reset none. -/
  eraseQ : List Nat := []
  /-- Sectors erased and not yet entered (R553); reset none. -/
  erased : List Nat := []
  /-- Sectors skipped for the rest of the power cycle (R553); reset none. -/
  skipped : List Nat := []
  /-- HRB_WPAGE (R555); 18 bits; reset 0. -/
  wpage : Nat := 0
  /-- Oldest sector in use (HRB_OPAGE, R555); 10 bits; reset 0. -/
  osector : Nat := 0
  /-- HRB_SEQ (R537); 32 bits; reset 0. -/
  seq : Nat := 0
  /-- Highest erase count found by the scan (R551); reset 0. -/
  maxErase : Nat := 0
  /-- Classes whose SNAPSEL has been written in the current sector with the version in force (R542); 16 bits; reset 0. -/
  selDone : Nat := 0
  /-- Snapshot selections by class (R541); reset empty. -/
  sels : Tbl SnapSel := []
  /-- Events lost since the last LOSS record: count, cause, first and last in ns (R540, R547); reset none. -/
  loss : Option (Nat × Nat × Nat × Nat) := none
  /-- Sector and erase count of the SECTOR record that must be written before anything else (R551); reset none. -/
  needSector : Option (Nat × Nat) := none
deriving DecidableEq, Repr

/-! ### Integrity (18_integrity_background.md) -/

/-- The memory controllers and integrity unit. -/
structure Integ where
  /-- ORN_STAT as last refreshed showed the Orangery started, and FALLBACK (R608 class 20); 2 × 1 bit; reset 0. -/
  ornUp : Bool × Bool := (false, false)
  /-- MEM_SIZE.GIB (R616); 9 bits; reset 0, valid after training (R626 row 6). -/
  gib : Nat := 0
  /-- Marked devices by mark index j (R596, R616); 32 × 5 bits; reset none. -/
  marks : Tbl Nat := []
  /-- Corrected codewords of this scrub pass by 16 × j + device (R596); reset none. -/
  implicated : Tbl Nat := []
  /-- Poisoned lines by line number (R598); reset none. -/
  poison : List Nat := []
  /-- MEM_PASS.PASSES (R616); 16 bits; reset 0. -/
  passes : Nat := 0
  /-- MEM_PASS.SECS (R616); 16 bits; reset 0. -/
  passSecs : Nat := 0
  /-- Next line of the patrol scrub (R604, R606); reset 0. -/
  scrubLine : Nat := 0
  /-- Fabric clock at which the present scrub pass began (R604); reset 0. -/
  scrubAt : Nat := 0
  /-- MEM_UEPAGE (R597); 32 bits; reset 0. -/
  uePage : Nat := 0
  /-- MEM_UEINFO.VALID (R597); 1 bit; reset 0. -/
  ueValid : Bool := false
  /-- MEM_UEINFO.SCRUB (R597); 1 bit; reset 0. -/
  ueScrub : Bool := false
  /-- MEM_UEINFO.LINE (R597); 6 bits; reset 0. -/
  ueLine : Nat := 0
  /-- MEM_UEINFO.MID (R597); 16 bits; reset 0. -/
  ueMid : Nat := 0
  /-- Lines of the on-chip pass done, by bank (R604, R617); reset none. -/
  ocPos : Tbl Nat := []
  /-- Fabric clock at which the on-chip pass of a bank began (R604); reset 0. -/
  ocAt : Tbl Nat := []
  /-- MEM_OCPASS.SCRUB (R617); 16 bits; reset 0. -/
  ocMs : Nat := 0
  /-- MEM_OCPASS.SWEEP (R617); 16 bits; reset 0. -/
  sweepUs : Nat := 0
  /-- Fabric clock of the last register sweep (R601); reset 0. -/
  sweepAt : Nat := 0
  /-- Fabric clock of the last Gatehouse compare (R604); reset 0. -/
  cmpAt : Nat := 0
  /-- MEM_TELE_SEQ (R619); 32 bits; reset 0. -/
  teleSeq : Nat := 0
  /-- Trellis orders of the telemetry frames of the last second sent (R613); reset none. -/
  teleSent : List Nat := []
  /-- The last telemetry instant: whether the generator ran, and the tick number or raw count (R613); reset none. -/
  teleAt : Option (Bool × Nat) := none
  /-- Background activities whose missed bound has been counted (R607); reset none. -/
  late : List Nat := []
deriving DecidableEq, Repr

/-! ### The machine -/

/-- The PV1280. -/
structure State where
  /-- Commands that wait, first in, first out (the model's own field, log 1); reset empty. -/
  pending : List Instr := []
  /-- Register pages, shadows, mailboxes and transactions. -/
  reg : Parterre := {}
  /-- Clocks, resets, crossings and power. -/
  cru : Cru := {}
  /-- Sundial. -/
  sdl : Sundial := {}
  /-- Angle timebase. -/
  ang : Angle := {}
  /-- Bandstand. -/
  bnd : Bandstand := {}
  /-- Herbarium. -/
  hrb : Herbarium := {}
  /-- Integrity unit and memory controllers. -/
  integ : Integ := {}
  /-- Grotto. -/
  grt : Grotto := {}
  /-- Boot, DOUT, DIN and debug pages. -/
  dbg : Dbg := {}
  /-- Test access port. -/
  tap : Tap := {}
  /-- Ports, GOOSE publisher and subscriber. -/
  mac : Ports := {}
  /-- Trellis. -/
  trl : Trellis := {}
  /-- SV ingest and alignment. -/
  svi : Svi := {}
  /-- Gatehouse. -/
  gth : Gatehouse := {}
  /-- Footbridge. -/
  ftb : Footbridge := {}
  /-- Cycle sequencer and pairs. -/
  cyc : Cycle := {}
  /-- Pavilions. -/
  pav : Pavilions := {}
  /-- Cascade and Lantern. -/
  cas : Cascade := {}
  /-- Orangery. -/
  orn : Orangery := {}
  /-- Belvedere. -/
  blv : Belvedere := {}
  /-- DRAM from address 0 and on-chip SRAM from 0x40_0000_0000, bytes in canonical form (R22); an unlisted byte reads 0 (DESIGN
  CHOICE, log 3). -/
  mem : List Host.Cell := []
deriving DecidableEq, Repr

/-- A stop with a fault. -/
inductive Fault where
  /-- A private test instruction that the lifecycle opens (R560, R650): the spec gives it no effect. Raised by TAP_PRIVATE; safe. -/
  | privateTestInstruction
deriving DecidableEq, Repr

/-- A refusal. -/
inductive Refusal where
  /-- A command that has no meaning yet; safe. -/
  | notModelled (mnemonic : String)
deriving DecidableEq, Repr

/-- The machine right after the release of RD_SYS that ends the first start (R626, R631): every field at the value the spec gives
for reset, or at the value the assumption log names. -/
def State.reset : State := {}

end Sys2Proof.Machine
end

