-- ==== Sys2Proof/Machine/Ops.lean ====
section
/-! DEFINITION. The named operations that every chapter shares: tables by number, bit fields, little-endian words, free values,
the register-field types and the operations on stored fields, counters, memory and flash. -/

namespace Sys2Proof.Machine

/-! ### Tables by number -/

/-- The entry of a table at `k`. -/
def tget {α : Type} : Tbl α → Nat → Option α
  | [], _ => none
  | (k', v) :: t, k => if k' = k then some v else tget t k

/-- The entry at `k`, or `d` where none is listed. -/
def tat {α : Type} (t : Tbl α) (k : Nat) (d : α) : α := (tget t k).getD d

/-- The table with `v` at `k`, kept in rising order. -/
def tset {α : Type} : Tbl α → Nat → α → Tbl α
  | [], k, v => [(k, v)]
  | (k', v') :: t, k, v =>
    if k' = k then (k, v) :: t
    else if k < k' then (k, v) :: (k', v') :: t
    else (k', v') :: tset t k v

/-- The table without an entry at `k`. -/
def tdel {α : Type} (t : Tbl α) (k : Nat) : Tbl α := t.filter (fun e => !decide (e.1 = k))

/-! ### What follows an operation that also answers -/

/-- What follows an operation that answers a value beside the state. -/
def onPair {α β γ : Type} (x : α × β) (f : α → β → γ) : γ := f x.1 x.2

/-- What follows an operation that may answer nothing: `bad` where it does, else `good`. -/
def onOpt {α β γ : Type} (x : α × Option β) (bad : α → γ) (good : α → β → γ) : γ :=
  match x.2 with
  | none => bad x.1
  | some b => good x.1 b

/-- What follows an operation that may fail: `bad` where it does, else `good`. -/
def onOk {α γ : Type} (x : α × Bool) (bad good : α → γ) : γ := if x.2 then good x.1 else bad x.1

/-! ### Bits and bytes -/

/-- Bits `[hi:lo]` of a number. -/
def bits (v hi lo : Nat) : Nat := v / 2 ^ lo % 2 ^ (hi - lo + 1)

/-- Bit `i` of a number, as a Boolean. -/
def bit (v i : Nat) : Bool := v / 2 ^ i % 2 == 1

/-- 1 for true. -/
def b2n (b : Bool) : Nat := if b then 1 else 0

/-- A Boolean placed at bit `i`. -/
def bitAt (b : Bool) (i : Nat) : Nat := if b then 2 ^ i else 0

/-- A number with bit `i` set. -/
def setBit (v i : Nat) : Nat := v ||| 2 ^ i

/-- A number with bit `i` cleared. -/
def clrBit (v i : Nat) : Nat := if bit v i then v - 2 ^ i else v

/-- A number with bit `i` set to `b`. -/
def putBit (v i : Nat) (b : Bool) : Nat := if b then setBit v i else clrBit v i

/-- The indexes below `n` whose bit is set. -/
def bitsOf (v n : Nat) : List Nat := (List.range n).filter (bit v)

/-- The number of set bits below `n`. -/
def popcount (v n : Nat) : Nat := (bitsOf v n).length

/-- A 32-bit word from a number. -/
def w32 (v : Nat) : Word := BitVec.ofNat 32 v

/-- Bytes of a number, `n` of them, least significant first (R10). -/
def leBytes : Nat → Nat → List Nat
  | 0, _ => []
  | n + 1, v => v % 256 :: leBytes n (v / 256)

/-- A number from its bytes, least significant first (R10). -/
def ofLe : List Nat → Nat
  | [] => 0
  | b :: bs => b % 256 + 256 * ofLe bs

/-- A number as 32-bit words, `n` of them, least significant first. -/
def leWords (n v : Nat) : List Word := (List.range n).map fun i => w32 (v / 2 ^ (32 * i))

/-- A number from words, least significant first. -/
def ofWords : List Word → Nat
  | [] => 0
  | w :: ws => w.toNat + 2 ^ 32 * ofWords ws

/-- Words from bytes, four to a word, least significant first. -/
def wordsOfBytes (n : Nat) (bs : List Nat) : List Word :=
  (List.range n).map fun i => w32 (ofLe ((bs.drop (4 * i)).take 4))

/-- The bytes of words, least significant first. -/
def bytesOfWords (ws : List Word) : List Nat := ws.flatMap fun w => leBytes 4 w.toNat

/-- Two's complement: the integer that `w` bits of `v` stand for. -/
def toSigned (w v : Nat) : Int :=
  if v % 2 ^ w < 2 ^ (w - 1) then (v % 2 ^ w : Nat) else ((v % 2 ^ w : Nat) : Int) - (2 ^ w : Nat)

/-- Two's complement: the low `w` bits of an integer. -/
def ofSigned (w : Nat) (i : Int) : Nat := (i % (2 ^ w : Nat)).toNat

/-- A number held between two bounds (R12). -/
def clampTo (lo hi v : Nat) : Nat := min (max v lo) (max lo hi)

/-- A count raised by `n`, saturating at the all-ones value of `w` bits (R47). -/
def satAdd (w c n : Nat) : Nat := min (c + n) (2 ^ w - 1)

/-- An integer quotient rounded to nearest, halves away from zero. -/
def roundDiv (n d : Int) : Int :=
  if n ≥ 0 then (2 * n + d) / (2 * d) else -((2 * (-n) + d) / (2 * d))

/-- Convergent rounding of the low `n` bits (R306): to nearest, halves to even. -/
def convRound (n : Nat) (v : Int) : Int :=
  let q := v / 2 ^ n
  let r := v % 2 ^ n
  if 2 * r < 2 ^ n then q else if 2 ^ n < 2 * r then q + 1 else q + q % 2

/-- A quotient rounded convergently (R283, R306). -/
def convQuot (n : Int) (d : Nat) : Int :=
  let q := n / d
  let r := n % d
  if 2 * r < d then q else if (d : Int) < 2 * r then q + 1 else q + q % 2

/-- One bit step of the reflected IEEE 802.3 CRC-32 (R189). -/
def crcBit (c : Nat) : Nat := if c % 2 = 1 then (c / 2) ^^^ 0xEDB88320 else c / 2

/-- The CRC-32 register after one byte (R189). -/
def crcByte (c b : Nat) : Nat := crcBit (crcBit (crcBit (crcBit (crcBit (crcBit (crcBit (crcBit (c ^^^ (b % 256)))))))))

/-- The IEEE 802.3 CRC-32 of bytes (R189). -/
def crc32 (bs : List Nat) : Nat := bs.foldl crcByte 0xFFFFFFFF ^^^ 0xFFFFFFFF

/-! ### Free values -/

/-- A free value of `w` bits drawn by the machine: nothing is known of it (log 2). -/
def drawn (w : Nat) (s : State) : Nat := Config.freeValue s.reg.draws % 2 ^ w

/-- The state after one free value has been drawn. -/
def drew (s : State) : State := { s with reg := { s.reg with draws := s.reg.draws + 1 } }

/-! ### The types of the register map -/

/-- A register block (R24). -/
inductive Block where
  | sys | cru | sdl | mac | trl | svi | cas | ltn | bnd | cyc | ftb | orn | blv | hrb | gth | mem | grt | dbg | pav
deriving DecidableEq, Repr

/-- The block code of PG_ID (R37). -/
def Block.code : Block → Nat
  | .sys => 1 | .cru => 2 | .sdl => 3 | .mac => 4 | .trl => 5 | .svi => 6 | .cas => 7 | .ltn => 8 | .bnd => 9 | .cyc => 10
  | .pav => 11 | .ftb => 12 | .orn => 13 | .blv => 14 | .hrb => 15 | .gth => 16 | .mem => 17 | .grt => 18 | .dbg => 19

/-- An access code (R46); `zero` is a field that reads zero. -/
inductive Acc where
  | rw | ro | rsh | wbf | wsc | ctr | mbx | zero
deriving DecidableEq, Repr

/-- Who may use a register (R49; `pair` and `pairPrv` by R347 and R358, `dbg` by R583). -/
inductive Priv where
  | all | prv | pair | pairPrv | dbg
deriving DecidableEq, Repr

/-- A legal range or reset value that is not a constant (R78), by the field that has it. -/
inductive Dep where
  | none | fmax | rxen | phy | pause | pairreg | quad | tail | ref | ovf | phase | m32 | m8 | ptn | t1 | first | fec | an
deriving DecidableEq, Repr

/-- One field of a register: bits, access code, `prv` mark, reset value, legal range (R12) and dependent clamp (R78). -/
structure FieldDesc where
  hi : Nat
  lo : Nat
  acc : Acc
  prv : Bool
  reset : Nat
  min : Nat
  max : Nat
  dep : Dep
deriving DecidableEq, Repr

/-- A stored field: register offset, low bit, width and reset value. -/
structure FieldRef where
  addr : Nat
  lo : Nat
  width : Nat
  reset : Nat
deriving DecidableEq, Repr

/-- Reset values of MAC fields that depend on the port (R179, R190): PHY, RXEN and PAUSE_EN. -/
def portReset (d : Dep) (m r : Nat) : Nat :=
  match d with
  | .phy => if m < 8 then 1 else if m < 12 then 2 else if m < 14 then 1 else if m = 14 then 3 else 2
  | .rxen => if m = 15 then 0 else 1
  | .pause => if 8 ≤ m ∧ m < 12 then 1 else 0
  | _ => r

/-! ### Stored fields and counters -/

/-- The key of a field in the store. -/
def fkey (f : FieldRef) : Nat := 32 * f.addr + f.lo

/-- The value of a stored field: its active value for `wbf` (R46, R59). -/
def fget (s : State) (f : FieldRef) : Nat := tat s.reg.fields (fkey f) f.reset

/-- A stored field read as a flag. -/
def fbit (s : State) (f : FieldRef) : Bool := fget s f == 1

/-- A stored field set; a field at its reset value is not listed, so that equal settings are equal data. -/
def fset (s : State) (f : FieldRef) (v : Nat) : State :=
  { s with reg := { s.reg with
      fields := if v = f.reset then tdel s.reg.fields (fkey f) else tset s.reg.fields (fkey f) v } }

/-- What moved a `ctr` field in this fabric clock: its count before the clock, the increments and the amounts subtracted (R51, R77). -/
def ctrMoves (s : State) (f : FieldRef) : Nat × Nat × Nat :=
  if s.reg.ctrClk = s.sdl.fab then tat s.reg.ctrNow (fkey f) (fget s f, 0, 0) else (fget s f, 0, 0)

/-- A `ctr` field raised by `h` and lowered by `d`: with the other moves of this fabric clock, all increments first with saturation,
then the subtractions with a floor of zero (R46, R47, R51, R77). -/
def ctrMove (s : State) (f : FieldRef) (h d : Nat) : State :=
  let m := ctrMoves s f
  let moved : Tbl (Nat × Nat × Nat) := tset (if s.reg.ctrClk = s.sdl.fab then s.reg.ctrNow else []) (fkey f) (m.1, m.2.1 + h, m.2.2 + d)
  fset { s with reg := { s.reg with ctrClk := s.sdl.fab, ctrNow := moved } } f (satAdd f.width m.1 (m.2.1 + h) - (m.2.2 + d))

/-- A `ctr` field raised by `n`, saturating (R46, R47). -/
def cadd (s : State) (f : FieldRef) (n : Nat) : State := ctrMove s f n 0

/-- A `ctr` field raised by one. -/
def cinc (s : State) (f : FieldRef) : State := cadd s f 1

/-- A write of `v` to a `ctr` field: subtracted with a floor of zero (R46, R50). -/
def csub (s : State) (f : FieldRef) (v : Nat) : State := ctrMove s f 0 v

/-- A `ctr` field as a read shows it: the increments of this fabric clock are not in it yet (R51, R77). -/
def ctrRead (s : State) (f : FieldRef) : Nat := (ctrMoves s f).1 - (ctrMoves s f).2.2

/-! ### Pages -/

/-- Offset of the page that holds a register-space offset. -/
def pageBase (a : Nat) : Nat := a / 0x1000 * 0x1000

/-- Offset of page `i` of a block window (R24, R25). -/
def Block.base : Block → Nat
  | .sys => 0 | .cru => 0x100000 | .sdl => 0x200000 | .mac => 0x300000 | .trl => 0x400000 | .svi => 0x500000
  | .cas => 0x600000 | .ltn => 0x700000 | .bnd => 0x800000 | .cyc => 0x900000 | .ftb => 0xA00000 | .orn => 0xB00000
  | .blv => 0xC00000 | .hrb => 0xD00000 | .gth => 0xE00000 | .mem => 0xF00000 | .grt => 0x1000000 | .dbg => 0x1100000
  | .pav => 0x4000000

/-- Offset of page `i` of a block. -/
def pageAt (b : Block) (i : Nat) : Nat := b.base + i * 0x1000

/-- Offset of page `j` of port `m` (R25). -/
def macPage (m j : Nat) : Nat := 0x300000 + m * 0x10000 + j * 0x1000

/-- EN resets to 1 on the SYS, CRU, MEM, GRT, DBG and HRB pages (R39). -/
def enReset (page : Nat) : Nat :=
  let w := page / 0x100000
  if w = 0 ∨ w = 1 ∨ w = 0xF ∨ w = 0x10 ∨ w = 0x11 ∨ w = 0xD then 1 else 0

/-- PG_CTRL.EN of a page (R36). -/
def hEn (page : Nat) : FieldRef := ⟨page + 0x0C, 0, 1, enReset page⟩
/-- PG_CTRL.VIEW (R36). -/
def hView (page : Nat) : FieldRef := ⟨page + 0x0C, 2, 1, 0⟩
/-- PG_IEN (R36). -/
def hIen (page : Nat) : FieldRef := ⟨page + 0x14, 0, 32, 0⟩
/-- PG_GRP.GROUP (R36). -/
def hGrp (page : Nat) : FieldRef := ⟨page + 0x1C, 0, 4, 0⟩
/-- PG_LOCK.LOCK (R36). -/
def hLock (page : Nat) : FieldRef := ⟨page + 0x24, 0, 1, 0⟩
/-- PG_WIGN.COUNT (R36, R45). -/
def hWign (page : Nat) : FieldRef := ⟨page + 0x28, 0, 16, 0⟩

/-- The function of a page runs (R39). -/
def enabled (s : State) (page : Nat) : Bool := fbit s (hEn page)

/-- The page's configuration is locked (R43). -/
def locked (s : State) (page : Nat) : Bool := fbit s (hLock page)

/-- An ignored write is counted on its page (R45). -/
def wign (s : State) (page : Nat) : State := cinc s (hWign page)

/-! ### Crossing groups (R100, R101) -/

/-- The shadows of the registers that `p` picks read their reset values again (R101). -/
def dropShadows (s : State) (p : Nat → Bool) : State :=
  { s with reg := { s.reg with shadow := s.reg.shadow.filter fun e => !p e.1, shadowOld := s.reg.shadowOld.filter fun e => !p e.1 } }

/-- Crossing group `g` resets: its ready bit falls, and both endpoints are held for `n` fabric clocks, four periods of the slower
clock (R100, R102). -/
def holdGroup (s : State) (g n : Nat) : State :=
  { s with cru := { s.cru with xcReady := clrBit s.cru.xcReady g, xcHold := tset s.cru.xcHold g (s.sdl.fab + n) } }

/-! ### Masters -/

/-- The class of a master identity (R15). -/
def midClass (mid : Nat) : Nat := mid / 0x1000 % 16

/-- The index of a master identity (R15). -/
def midIndex (mid : Nat) : Nat := mid % 0x1000

/-- The privileged master identities (R17). -/
def isPriv (mid : Nat) : Bool :=
  midClass mid == 0 || midClass mid == 4 || midClass mid == 5 || (midClass mid == 6 && midIndex mid == 1)

/-- The master identity of an engine (R15). -/
def engineMid (n : Nat) : Nat := 0x3000 + n

/-! ### Memory -/

/-- What a byte of DRAM or SRAM that nothing has written reads as (log 3). -/
def memDefault : Byte := 0

/-- The byte at an address. -/
def Memory.read : List Host.Cell → Nat → Byte
  | [], _ => memDefault
  | (a', b) :: m, a => if a' = a then b else Memory.read m a

/-- One byte written, the canonical form kept: addresses rise, and no entry equals what an unlisted address reads as. -/
def Memory.write : List Host.Cell → Nat → Byte → List Host.Cell
  | [], a, b => if b = memDefault then [] else [(a, b)]
  | (a', b') :: m, a, b =>
    if a' = a then (if b = memDefault then m else (a, b) :: m)
    else if a < a' then (if b = memDefault then (a', b') :: m else (a, b) :: (a', b') :: m)
    else (a', b') :: Memory.write m a b

/-- Addresses rise strictly from above `lo`, and no entry holds the default. -/
def Memory.wfFrom : Option Nat → List Host.Cell → Bool
  | _, [] => true
  | lo, (a, b) :: m => (match lo with | none => true | some l => decide (l < a)) && decide (b ≠ memDefault) && Memory.wfFrom (some a) m

/-- The memory is in its one canonical form. -/
def Memory.wf (m : List Host.Cell) : Bool := Memory.wfFrom none m

/-- One byte of memory in a state. -/
def rd8 (s : State) (a : Nat) : Nat := (Memory.read s.mem a).toNat

/-- `n` bytes of memory from `a`. -/
def rdBytes (s : State) (a : Nat) : Nat → List Nat
  | 0 => []
  | n + 1 => rd8 s a :: rdBytes s (a + 1) n

/-- The little-endian number of `n` bytes at `a` (R10). -/
def rdLe (s : State) (a n : Nat) : Nat := ofLe (rdBytes s a n)

/-- One byte written to memory. -/
def wr8 (s : State) (a v : Nat) : State := { s with mem := Memory.write s.mem a (BitVec.ofNat 8 v) }

/-- Bytes written to memory from `a`. -/
def wrBytes (s : State) (a : Nat) : List Nat → State
  | [] => s
  | b :: bs => wrBytes (wr8 s a b) (a + 1) bs

/-- A number of `n` bytes written little-endian at `a` (R10). -/
def wrLe (s : State) (a n v : Nat) : State := wrBytes s a (leBytes n v)

/-! ### Flash -/

/-- One byte of a flash; an erased byte reads 0xFF (log 8). -/
def flashGet (f : Tbl Nat) (a : Nat) : Nat := tat f a 0xFF

/-- One byte programmed: a program only clears bits (log 8). -/
def flashPut (f : Tbl Nat) (a v : Nat) : Tbl Nat :=
  let w := flashGet f a &&& (v % 256)
  if w = 0xFF then tdel f a else tset f a w

/-- Bytes programmed from `a`. -/
def flashProgram (f : Tbl Nat) (a : Nat) : List Nat → Tbl Nat
  | [] => f
  | b :: bs => flashProgram (flashPut f a b) (a + 1) bs

/-- `n` bytes read from `a`. -/
def flashRead (f : Tbl Nat) (a : Nat) : Nat → List Nat
  | 0 => []
  | n + 1 => flashGet f a :: flashRead f (a + 1) n

/-- The bytes of `[lo, hi)` erased. -/
def flashErase (f : Tbl Nat) (lo hi : Nat) : Tbl Nat := f.filter fun e => !(decide (lo ≤ e.1) && decide (e.1 < hi))

/-- The little-endian number of `n` flash bytes at `a`. -/
def flashLe (f : Tbl Nat) (a n : Nat) : Nat := ofLe (flashRead f a n)

end Sys2Proof.Machine
end

