-- ==== Sys2Proof/Machine/RegMap.lean ====
section
/-! DEFINITION. The register map: every page kind of the register space (R24, R25), every block register with its offset, copies,
privilege and fields (R34, R46), as the register tables of the block chapters give them, and a reference to each stored field. -/

namespace Sys2Proof.Machine

/-- The block registers and mailboxes of the SYS pages, in the order of the tables of 02_parterre_registers.md. -/
inductive SysReg where
  | SYS_PARTID | SYS_STROBE | SYS_STROBE_TICK | SYS_STROBE_ARMED | SYS_DECERR | SYS_DECERR_MID | SYS_SCRATCH |
  SYS_TX_CMD | SYS_TX_CLAIM | SYS_TX_AT | SYS_TX_STAT | SYS_TX_NCLAIM | SYS_TX_OWNER | SYS_TX_DONE | SYS_TX_FAIL
deriving DecidableEq, Repr

/-- The block registers and mailboxes of the CRU pages, in the order of the tables of 03_clocks_resets_crossings.md. -/
inductive CruReg where
  | CRU_PLL_STAT | CRU_CLKMON_STAT | CRU_CLKMON_EVT | CRU_RST_CAUSE | CRU_RST_CMD | CRU_PORT_RST | CRU_PORT_RSTSTAT |
  CRU_WDT_CTRL | CRU_WDT_KICK | CRU_XC_STAT | CRU_XCOVF_GRTE | CRU_XCOVF_TOKEN | CRU_XCOVF_DOUT
deriving DecidableEq, Repr

/-- The block registers and mailboxes of the SDL pages, in the order of the tables of 04_sundial_time.md and 05_angle_timebase.md. -/
inductive SdlReg where
  | SDL_CTRL | SDL_BASE | SDL_STEP_MAX | SDL_TICKN | SDL_PPS_WIDTH | SDL_TICKOUT | SDL_PPSIN_EVT | SDL_STEP_REJ |
  SDL_TIME | SDL_ADJ | SDL_P_CTRL | SDL_P_LAT | SDL_P_LINKDLY | SDL_P_LATE | SDL_P_TSCNT | SDL_P_TSLOST | SDL_P_LTLATE |
  SDL_P_LTFAR | SDL_P_CFSAT | SDL_TSR | SDL_ANG_REF | SDL_ANG_BAND | SDL_ANG_AMIN | SDL_ANG_TOL | SDL_ANG_CNT |
  SDL_ANG_STAT | SDL_ANG_REJ | SDL_ANG_HOLD | SDL_ANG_LATE | SDL_ANG_ABORT | SDL_ANG_DCOL | SDL_ANG_FRDROP | SDL_ANG_NOW
  | SDL_ALM_ARM | SDL_ALM_STAT
deriving DecidableEq, Repr

/-- The block registers and mailboxes of the MAC pages, in the order of the tables of 06_ports_and_macs.md. -/
inductive MacReg where
  | MAC_MODE | MAC_MAXLEN | MAC_RXF | MAC_PCPMAP | MAC_LINK | MAC_PAIR | MAC_EXACT | MAC_HASH | MAC_GCL_STAT | MAC_GATES
  | MAC_GCL_SW | MAC_GCLA | MAC_GCLB | MAC_RX_OK | MAC_RX_RUNT | MAC_RX_FCS | MAC_RX_OVERSIZE | MAC_RX_FILT |
  MAC_RX_PAUSE | MAC_RX_DUP | MAC_RX_OOW | MAC_RX_NOSRC | MAC_RX_ABORT | MAC_TX_OK | MAC_TX_LENERR | MAC_TX_SEG |
  MAC_TX_ABORT | MAC_TX_PAD
deriving DecidableEq, Repr

/-- The block registers and mailboxes of the TRL pages, in the order of the tables of 06_ports_and_macs.md and 07_trellis_switch.md. -/
inductive TrlReg where
  | GPB_TABLE | GPB_UTC | GPB_NRUN | GPB_OWNREJ | GPB_SIZE | GPB_LATE | GPB_SLOT | GSB_NSUB | GSB_NOMATCH | GSB_FORMAT |
  GSB_STOPPED | GSB_SIMREJ | GSB_CONFREV | GSB_AUTHFAIL | GSB_DUP | GSB_EXPIRE | GSB_BUFERR | GSB_EVHOLD | GSB_SUB |
  GSB_STATE | TRL_CFG | TRL_STAT | TRL_OVF_BASE | TRL_OVF_SIZE | TRL_FREE | TRL_OVF_FREE | TRL_RESEQ_ERR | TRL_ECC_DROP
  | TRL_SPILL_LIM | TRL_OVSPD | TRL_FLUSH | TRL_TC | TRL_FDB | TRL_AGE | TRL_FDB_NUM | TRL_LEARN_FULL | TRL_P_CTRL |
  TRL_P_UCF | TRL_P_MCF | TRL_MIR_IN | TRL_MIR_OUT | TRL_MIR_CTRL | TRL_DROP | TRL_TXR_BASE | TRL_TXR_SIZE |
  TRL_TXR_TAIL | TRL_TXR_HEAD | TRL_RXR_BASE | TRL_RXR_SIZE | TRL_RXR_TAIL | TRL_RXR_HEAD | TRL_RXC | TRL_TXC |
  TRL_DMA_DERR | TRL_DMA_TRUNC | TRL_RING_HALT
deriving DecidableEq, Repr

/-- The block registers and mailboxes of the SVI pages, in the order of the tables of 08_sv_ingest_alignment.md. -/
inductive SviReg where
  | SVI_NSTREAM | SVI_NOMATCH | SVI_FORMAT | SVI_OVERSIZE | SVI_STOPPED | SVI_AUTHFAIL | SVI_CONFREV | SVI_OOW |
  SVI_LATE | SVI_DUP | SVI_SUBST | SVI_EVHOLD | SVI_DESC | SVI_SCNT | SVI_G_CTRL | SVI_G_HOLD | SVI_G_WIN | SVI_G_STAT |
  SVI_G_SUBST | SVI_G_LATE | SVI_G_LASTREL | SVI_LOST
deriving DecidableEq, Repr

/-- The block registers and mailboxes of the CAS pages, in the order of the tables of 09_cascade_lantern.md. -/
inductive CasReg where
  | CAS_SYNC | CAS_SYNCPIN | CAS_SYNCMSK | CAS_NCH | CAS_NERR | CAS_SAT | CAS_CMPERR | CAS_SYNCEVT | CAS_RESP |
  CAS_PRF_CHAIN | CAS_PRF_MA | CAS_G_PHASE | CAS_CH_CTRL | CAS_CH_DLY
deriving DecidableEq, Repr

/-- The block registers and mailboxes of the LTN pages, in the order of the tables of 09_cascade_lantern.md. -/
inductive LtnReg where
  | LTN_NTRIP | LTN_SAT | LTN_CMPERR | LTN_FHOLD | LTN_EVHOLD | LTN_TRIP | LTN_G_CTRL | LTN_G_FREF | LTN_G_STAT
deriving DecidableEq, Repr

/-- The block registers and mailboxes of the BND pages, in the order of the tables of 10_bandstand_dispatch.md. -/
inductive BndReg where
  | BND_MIGTHR | BND_OVF_BASE | BND_OVF_SIZE | BND_FREE | BND_POSTS | BND_REFUSE | BND_NOQ | BND_LATE | BND_MIGR |
  BND_ABANDON | BND_FLUSH | BND_POST | BND_Q_CFG | BND_Q_LIM | BND_Q_STAT | BND_TAKE | BND_DONE | BND_TMO | BND_PSETS0 |
  BND_PSETS1 | BND_PSTAT | BND_PTAKE | BND_PEMPTY | BND_EV
deriving DecidableEq, Repr

/-- The block registers and mailboxes of the CYC pages, in the order of the tables of 11_conservatory_cycle.md. -/
inductive CycReg where
  | CYC_PS_BASE | CYC_FRING | CYC_CKPT | CYC_CKPT_FL | CYC_CKPT_BUF | CYC_CKPT_STAT | CYC_OVR | CYC_OUTREJ | CYC_EVSTALE
  | CYC_CKPTSKIP | CYC_LATERR | CYC_EXDROP | CYC_PVCMD | CYC_FORCE | CYC_CLS_CTRL | CYC_CLS_TIME | CYC_CLS_STAT |
  CYC_CLS_OVR | CYC_PV_CTRL | CYC_PV_IMG | CYC_PV_IN | CYC_PV_OUT | CYC_PV_EVO | CYC_PV_RET | CYC_PV_RSH | CYC_PV_RSZ |
  CYC_PV_PTB | CYC_PV_PTN | CYC_PV_DOUT | CYC_PV_STAT | CYC_PV_OVR | CYC_PV_REJ | CYC_PR_NEXT | CYC_PR_NTICK |
  CYC_PR_DONE | CYC_PR_MSI | CYC_PR_CTRL | CYC_PR_STAT
deriving DecidableEq, Repr

/-- The block registers and mailboxes of the FTB pages, in the order of the tables of 13_footbridge_pair.md. -/
inductive FtbReg where
  | FTB_CFG | FTB_LOSS | FTB_GHB | FTB_GUARD | FTB_REVERT | FTB_PGHB0 | FTB_PGHB1 | FTB_STAT | FTB_EPOCH | FTB_INSTEP |
  FTB_JOINSTAT | FTB_DIGMIS | FTB_DIGMISS | FTB_XFER | FTB_MUTED | FTB_SVLATE | FTB_SVDIFF | FTB_EVLOST | FTB_FOREIGN |
  FTB_JRETRY | FTB_TOKEN | FTB_JOIN | FTB_DIG
deriving DecidableEq, Repr

/-- The block registers and mailboxes of the ORN pages, in the order of the tables of 14_orangery_metering.md. -/
inductive OrnReg where
  | ORN_STAT | ORN_MEVT | ORN_ERRCNT | ORN_FWVER | ORN_LOSSCNT | ORN_REQ | ORN_RES0 | ORN_RES1
deriving DecidableEq, Repr

/-- The block registers and mailboxes of the BLV pages, in the order of the tables of 15_belvedere_capture.md. -/
inductive BlvReg where
  | BLV_RING_BASE | BLV_RING_SIZE | BLV_WBW | BLV_STAT | BLV_RREDUCE | BLV_DROP | BLV_MASKSUSP | BLV_EVHOLD | BLV_SRC |
  BLV_TR_CTRL | BLV_TR_P0 | BLV_TR_P1 | BLV_TR_T0 | BLV_TR_T1 | BLV_TR_FIRES | BLV_CG_CTRL | BLV_CG_TRIG0 | BLV_CG_TRIG1
  | BLV_CG_PRE | BLV_CG_POST | BLV_CG_RGN | BLV_CG_EVT | BLV_CG_STAT | BLV_CG_CMD | BLV_CG_CAPS | BLV_CG_SEQ |
  BLV_MK_CTRL | BLV_MK_TBL | BLV_MK_VIOL
deriving DecidableEq, Repr

/-- The block registers and mailboxes of the HRB pages, in the order of the tables of 16_herbarium_recorder.md. -/
inductive HrbReg where
  | HRB_CTRL | HRB_STAT | HRB_WPAGE | HRB_OPAGE | HRB_SEQ | HRB_RDADDR | HRB_LOST | HRB_SCANBAD | HRB_FLERR | HRB_RECS |
  HRB_READ | HRB_SNAP | HRB_LOG
deriving DecidableEq, Repr

/-- The block registers and mailboxes of the GTH pages, in the order of the tables of 17_gatehouse_keys.md. -/
inductive GthReg where
  | GTH_LC | GTH_CFG | GTH_STORE | GTH_SLOTS | GTH_CACHE | GTH_BOOTVER | GTH_DENY | GTH_ANCREV | GTH_LINEMISS |
  GTH_DBGFAIL | GTH_KEY | GTH_DBG | GTH_BAD | GTH_REQ
deriving DecidableEq, Repr

/-- The block registers and mailboxes of the MEM pages, in the order of the tables of 18_integrity_background.md. -/
inductive MemReg where
  | MEM_SIZE | MEM_SCRUB | MEM_MARKTHR | MEM_PASS | MEM_CE | MEM_UE | MEM_SCRUE | MEM_POISONW | MEM_UEPAGE | MEM_UEINFO
  | MEM_MARKSET | MEM_MARK | MEM_OCPASS | MEM_OCCE | MEM_OCUE | MEM_FSTAT | MEM_FEN | MEM_FXFER | MEM_FPIN | MEM_FCNT |
  MEM_TELE_CTRL | MEM_TELE_BASE | MEM_TELE_SEQ | MEM_TELE_SKIP
deriving DecidableEq, Repr

/-- The block registers and mailboxes of the GRT pages, in the order of the tables of 19_power_boot_pins_test.md. -/
inductive GrtReg where
  | GRT_STAT | GRT_PCYC | GRT_TAMPCNT | GRT_TAMPEVT | GRT_TIME | GRT_CMD
deriving DecidableEq, Repr

/-- The block registers and mailboxes of the DBG pages, in the order of the tables of 19_power_boot_pins_test.md. -/
inductive DbgReg where
  | DBG_BOOT_STAT | DBG_BOOT_ENTRY | DBG_BOOT_GO0 | DBG_BOOT_GO1 | DBG_IDCODE | DBG_PORT | DBG_TEMP | DBG_BFL_ADDR |
  DBG_BFL_ERR | DBG_BFL | DBG_DIN | DBG_DIN_LVL | DBG_DIN_RAW | DBG_DOUT_LVL | DBG_DOUT_PIN | DBG_DIN_EVT | DBG_DOUT
deriving DecidableEq, Repr

/-- The block registers and mailboxes of the PAV pages, in the order of the tables of 12_pavilions.md. -/
inductive PavReg where
  | PAV_STAT | PAV_CTRL | PAV_CMD | PAV_SHARE | PAV_USED | PAV_WDT | PAV_KICK | PAV_QUSE | PAV_ERRINFO | PAV_ERRPAGE |
  PAV_OWNED | PAV_EWIN | PAV_ELATCH | PAV_EDESC | PAV_EWDT | PAV_STALE | PAV_FENCED | PAV_SHAREX | PAV_POSTREF |
  PAV_RESETS | PAV_POST | PAV_MIG | PAV_WIN_BASE | PAV_WIN_SIZE
deriving DecidableEq, Repr

/-- A block register of any page. -/
inductive Reg where
  | sys (r : SysReg)
  | cru (r : CruReg)
  | sdl (r : SdlReg)
  | mac (r : MacReg)
  | trl (r : TrlReg)
  | svi (r : SviReg)
  | cas (r : CasReg)
  | ltn (r : LtnReg)
  | bnd (r : BndReg)
  | cyc (r : CycReg)
  | ftb (r : FtbReg)
  | orn (r : OrnReg)
  | blv (r : BlvReg)
  | hrb (r : HrbReg)
  | gth (r : GthReg)
  | mem (r : MemReg)
  | grt (r : GrtReg)
  | dbg (r : DbgReg)
  | pav (r : PavReg)
deriving DecidableEq, Repr

/-- One row of a page's register table: the offset of its first copy, the number of copies and their stride, who may use it
(R49) and its fields; bits in no field are `kp` (R46). A mailbox's row stands for its 64 bytes (R53). -/
structure RegDesc where
  off : Nat
  count : Nat
  stride : Nat
  priv : Priv
  mbx : Bool
  name : Reg
  fields : List FieldDesc
deriving DecidableEq, Repr

/-- The pages `first`..`last` of one block that share a layout, with PG_CAP.TXN (R36). -/
structure PageKind where
  blk : Block
  first : Nat
  last : Nat
  txn : Bool
  regs : List RegDesc
deriving DecidableEq, Repr

/-- The register table of SYS page 0 (02_parterre_registers.md). -/
def regsSys0 : List RegDesc :=
  [ ⟨0x040, 1, 0x4, .all, false, .sys .SYS_PARTID, [⟨31, 16, .ro, false, 4736, 0, 65535, .none⟩, ⟨15, 8, .ro, false, 176, 0, 255, .none⟩, ⟨7, 0, .zero, false, 0, 0, 255, .none⟩]⟩,
    ⟨0x044, 1, 0x4, .prv, false, .sys .SYS_STROBE, [⟨15, 0, .wsc, false, 0, 0, 65535, .none⟩]⟩,
    ⟨0x048, 1, 0x4, .prv, false, .sys .SYS_STROBE_TICK, [⟨15, 0, .wsc, false, 0, 0, 65535, .none⟩]⟩,
    ⟨0x04C, 1, 0x4, .all, false, .sys .SYS_STROBE_ARMED, [⟨31, 16, .zero, false, 0, 0, 65535, .none⟩, ⟨15, 0, .ro, false, 0, 0, 65535, .none⟩]⟩,
    ⟨0x050, 1, 0x4, .all, false, .sys .SYS_DECERR, [⟨15, 0, .ctr, false, 0, 0, 65535, .none⟩]⟩,
    ⟨0x054, 1, 0x4, .all, false, .sys .SYS_DECERR_MID, [⟨31, 16, .zero, false, 0, 0, 65535, .none⟩, ⟨15, 0, .ro, false, 0, 0, 65535, .none⟩]⟩,
    ⟨0x058, 1, 0x4, .all, false, .sys .SYS_SCRATCH, [⟨31, 0, .rw, false, 0, 0, 4294967295, .none⟩]⟩ ]

/-- The register table of SYS page 1 (02_parterre_registers.md). -/
def regsSys1 : List RegDesc :=
  [ ⟨0x040, 4, 0x20, .prv, false, .sys .SYS_TX_CMD, [⟨3, 3, .wsc, false, 0, 0, 1, .none⟩, ⟨2, 2, .wsc, false, 0, 0, 1, .none⟩, ⟨1, 1, .wsc, false, 0, 0, 1, .none⟩, ⟨0, 0, .wsc, false, 0, 0, 1, .none⟩]⟩,
    ⟨0x044, 4, 0x20, .prv, false, .sys .SYS_TX_CLAIM, [⟨15, 0, .mbx, false, 0, 0, 65535, .none⟩]⟩,
    ⟨0x048, 4, 0x20, .prv, false, .sys .SYS_TX_AT, [⟨31, 0, .rw, false, 0, 0, 4294967295, .none⟩]⟩,
    ⟨0x04C, 4, 0x20, .prv, false, .sys .SYS_TX_STAT, [⟨31, 28, .ro, false, 0, 0, 15, .none⟩, ⟨27, 26, .ro, false, 0, 0, 3, .none⟩, ⟨25, 24, .zero, false, 0, 0, 3, .none⟩, ⟨23, 20, .ro, false, 0, 0, 15, .none⟩, ⟨19, 13, .zero, false, 0, 0, 127, .none⟩, ⟨12, 0, .ro, false, 0, 0, 8191, .none⟩]⟩,
    ⟨0x050, 4, 0x20, .prv, false, .sys .SYS_TX_NCLAIM, [⟨31, 10, .zero, false, 0, 0, 4194303, .none⟩, ⟨9, 0, .ro, false, 0, 0, 1023, .none⟩]⟩,
    ⟨0x054, 4, 0x20, .prv, false, .sys .SYS_TX_OWNER, [⟨31, 16, .zero, false, 0, 0, 65535, .none⟩, ⟨15, 0, .ro, false, 0, 0, 65535, .none⟩]⟩,
    ⟨0x058, 4, 0x20, .prv, false, .sys .SYS_TX_DONE, [⟨31, 0, .ro, false, 0, 0, 4294967295, .none⟩]⟩,
    ⟨0x0C0, 1, 0x4, .prv, false, .sys .SYS_TX_FAIL, [⟨15, 0, .ctr, false, 0, 0, 65535, .none⟩]⟩ ]

/-- The register table of CRU page 0 (03_clocks_resets_crossings.md). -/
def regsCru0 : List RegDesc :=
  [ ⟨0x040, 1, 0x4, .all, false, .cru .CRU_PLL_STAT, [⟨31, 16, .ro, false, 0, 0, 65535, .none⟩, ⟨15, 8, .zero, false, 0, 0, 255, .none⟩, ⟨7, 7, .ro, false, 0, 0, 1, .none⟩, ⟨6, 6, .ro, false, 0, 0, 1, .none⟩, ⟨5, 5, .ro, false, 0, 0, 1, .none⟩, ⟨4, 4, .ro, false, 0, 0, 1, .none⟩, ⟨3, 3, .ro, false, 0, 0, 1, .none⟩, ⟨2, 2, .ro, false, 0, 0, 1, .none⟩, ⟨1, 0, .zero, false, 0, 0, 3, .none⟩]⟩,
    ⟨0x044, 1, 0x4, .all, false, .cru .CRU_CLKMON_STAT, [⟨31, 16, .ro, false, 0, 0, 65535, .none⟩, ⟨15, 9, .zero, false, 0, 0, 127, .none⟩, ⟨8, 0, .ro, false, 0, 0, 511, .none⟩]⟩,
    ⟨0x048, 1, 0x4, .all, false, .cru .CRU_CLKMON_EVT, [⟨15, 0, .ctr, false, 0, 0, 65535, .none⟩]⟩,
    ⟨0x04C, 1, 0x4, .all, false, .cru .CRU_RST_CAUSE, [⟨31, 6, .zero, false, 0, 0, 67108863, .none⟩, ⟨5, 0, .ro, false, 0, 0, 63, .none⟩]⟩,
    ⟨0x050, 1, 0x4, .prv, false, .cru .CRU_RST_CMD, [⟨31, 16, .wsc, false, 0, 0, 65535, .none⟩, ⟨0, 0, .wsc, false, 0, 0, 1, .none⟩]⟩,
    ⟨0x054, 1, 0x4, .prv, false, .cru .CRU_PORT_RST, [⟨15, 0, .wsc, false, 0, 0, 65535, .none⟩]⟩,
    ⟨0x058, 1, 0x4, .all, false, .cru .CRU_PORT_RSTSTAT, [⟨31, 16, .zero, false, 0, 0, 65535, .none⟩, ⟨15, 0, .ro, false, 0, 0, 65535, .none⟩]⟩,
    ⟨0x05C, 1, 0x4, .prv, false, .cru .CRU_WDT_CTRL, [⟨16, 16, .rw, false, 0, 0, 1, .none⟩, ⟨15, 0, .rw, false, 1000, 1, 65535, .none⟩]⟩,
    ⟨0x060, 1, 0x4, .prv, false, .cru .CRU_WDT_KICK, [⟨0, 0, .wsc, false, 0, 0, 1, .none⟩]⟩,
    ⟨0x064, 1, 0x4, .all, false, .cru .CRU_XC_STAT, [⟨31, 16, .ro, false, 0, 0, 65535, .none⟩, ⟨15, 3, .zero, false, 0, 0, 8191, .none⟩, ⟨2, 0, .ro, false, 0, 0, 7, .none⟩]⟩,
    ⟨0x068, 1, 0x4, .all, false, .cru .CRU_XCOVF_GRTE, [⟨15, 0, .ctr, false, 0, 0, 65535, .none⟩]⟩,
    ⟨0x06C, 1, 0x4, .all, false, .cru .CRU_XCOVF_TOKEN, [⟨15, 0, .ctr, false, 0, 0, 65535, .none⟩]⟩,
    ⟨0x070, 1, 0x4, .all, false, .cru .CRU_XCOVF_DOUT, [⟨15, 0, .ctr, false, 0, 0, 65535, .none⟩]⟩ ]

/-- The register table of SDL page 0 (04_sundial_time.md and 05_angle_timebase.md). -/
def regsSdl0 : List RegDesc :=
  [ ⟨0x040, 1, 0x4, .prv, false, .sdl .SDL_CTRL, [⟨2, 2, .rw, false, 0, 0, 1, .none⟩, ⟨1, 1, .rw, false, 0, 0, 1, .none⟩, ⟨0, 0, .rw, false, 0, 0, 1, .none⟩]⟩,
    ⟨0x044, 1, 0x4, .all, false, .sdl .SDL_BASE, [⟨17, 16, .ro, false, 1, 0, 3, .none⟩, ⟨1, 0, .rw, true, 1, 0, 3, .none⟩]⟩,
    ⟨0x048, 1, 0x4, .prv, false, .sdl .SDL_STEP_MAX, [⟨13, 0, .rw, false, 1000, 1, 10000, .none⟩]⟩,
    ⟨0x04C, 1, 0x4, .all, false, .sdl .SDL_TICKN, [⟨31, 31, .rsh, false, 0, 0, 1, .none⟩, ⟨30, 14, .zero, false, 0, 0, 131071, .none⟩, ⟨13, 0, .rsh, false, 0, 0, 16383, .none⟩]⟩,
    ⟨0x050, 1, 0x4, .prv, false, .sdl .SDL_PPS_WIDTH, [⟨18, 0, .rw, false, 100000, 1, 500000, .none⟩]⟩,
    ⟨0x054, 1, 0x4, .prv, false, .sdl .SDL_TICKOUT, [⟨31, 24, .rw, false, 10, 1, 255, .none⟩, ⟨15, 0, .rw, false, 1, 1, 65535, .none⟩]⟩,
    ⟨0x058, 1, 0x4, .all, false, .sdl .SDL_PPSIN_EVT, [⟨15, 0, .ctr, false, 0, 0, 65535, .none⟩]⟩,
    ⟨0x05C, 1, 0x4, .all, false, .sdl .SDL_STEP_REJ, [⟨15, 0, .ctr, false, 0, 0, 65535, .none⟩]⟩,
    ⟨0x080, 1, 0x4, .all, true, .sdl .SDL_TIME, []⟩,
    ⟨0x0C0, 1, 0x4, .prv, true, .sdl .SDL_ADJ, []⟩ ]

/-- The register table of SDL page 1 (04_sundial_time.md and 05_angle_timebase.md). -/
def regsSdl1 : List RegDesc :=
  [ ⟨0x040, 16, 0x40, .prv, false, .sdl .SDL_P_CTRL, [⟨1, 0, .rw, false, 0, 0, 2, .none⟩]⟩,
    ⟨0x044, 16, 0x40, .prv, false, .sdl .SDL_P_LAT, [⟨31, 16, .rw, false, 0, 0, 65535, .none⟩, ⟨15, 0, .rw, false, 0, 0, 65535, .none⟩]⟩,
    ⟨0x048, 16, 0x40, .prv, false, .sdl .SDL_P_LINKDLY, [⟨31, 8, .rw, false, 0, 0, 16777215, .none⟩, ⟨7, 0, .rw, false, 0, 0, 255, .none⟩]⟩,
    ⟨0x04C, 16, 0x40, .prv, false, .sdl .SDL_P_LATE, [⟨19, 0, .rw, false, 10000, 1, 1048575, .none⟩]⟩,
    ⟨0x050, 16, 0x40, .all, false, .sdl .SDL_P_TSCNT, [⟨31, 9, .zero, false, 0, 0, 8388607, .none⟩, ⟨8, 0, .ro, false, 0, 0, 511, .none⟩]⟩,
    ⟨0x054, 16, 0x40, .all, false, .sdl .SDL_P_TSLOST, [⟨15, 0, .ctr, false, 0, 0, 65535, .none⟩]⟩,
    ⟨0x058, 16, 0x40, .all, false, .sdl .SDL_P_LTLATE, [⟨15, 0, .ctr, false, 0, 0, 65535, .none⟩]⟩,
    ⟨0x05C, 16, 0x40, .all, false, .sdl .SDL_P_LTFAR, [⟨15, 0, .ctr, false, 0, 0, 65535, .none⟩]⟩,
    ⟨0x060, 16, 0x40, .all, false, .sdl .SDL_P_CFSAT, [⟨15, 0, .ctr, false, 0, 0, 65535, .none⟩]⟩ ]

/-- The register table of SDL page 2 (04_sundial_time.md and 05_angle_timebase.md). -/
def regsSdl2 : List RegDesc :=
  [ ⟨0x040, 16, 0x40, .all, true, .sdl .SDL_TSR, []⟩ ]

/-- The register table of SDL page 3 (04_sundial_time.md and 05_angle_timebase.md). -/
def regsSdl3 : List RegDesc :=
  [ ⟨0x040, 1, 0x4, .prv, false, .sdl .SDL_ANG_REF, [⟨29, 28, .wbf, false, 0, 0, 1, .none⟩, ⟨13, 0, .wbf, false, 0, 0, 16383, .none⟩]⟩,
    ⟨0x044, 1, 0x4, .prv, false, .sdl .SDL_ANG_BAND, [⟨15, 0, .wbf, false, 4000, 4000, 7000, .none⟩, ⟨31, 16, .wbf, false, 7000, 4000, 7000, .fmax⟩]⟩,
    ⟨0x048, 1, 0x4, .prv, false, .sdl .SDL_ANG_AMIN, [⟨31, 0, .wbf, false, 0, 0, 4294967295, .none⟩]⟩,
    ⟨0x04C, 1, 0x4, .prv, false, .sdl .SDL_ANG_TOL, [⟨14, 0, .wbf, false, 655, 1, 16384, .none⟩]⟩,
    ⟨0x050, 1, 0x4, .prv, false, .sdl .SDL_ANG_CNT, [⟨31, 16, .wbf, false, 100, 0, 10000, .none⟩, ⟨15, 8, .wbf, false, 4, 1, 255, .none⟩, ⟨7, 0, .wbf, false, 8, 1, 255, .none⟩]⟩,
    ⟨0x054, 1, 0x4, .all, false, .sdl .SDL_ANG_STAT, [⟨31, 24, .ro, false, 0, 0, 255, .none⟩, ⟨23, 2, .zero, false, 0, 0, 4194303, .none⟩, ⟨1, 0, .ro, false, 0, 0, 3, .none⟩]⟩,
    ⟨0x058, 1, 0x4, .all, false, .sdl .SDL_ANG_REJ, [⟨15, 0, .ctr, false, 0, 0, 65535, .none⟩]⟩,
    ⟨0x05C, 1, 0x4, .all, false, .sdl .SDL_ANG_HOLD, [⟨15, 0, .ctr, false, 0, 0, 65535, .none⟩]⟩,
    ⟨0x060, 1, 0x4, .all, false, .sdl .SDL_ANG_LATE, [⟨15, 0, .ctr, false, 0, 0, 65535, .none⟩]⟩,
    ⟨0x064, 1, 0x4, .all, false, .sdl .SDL_ANG_ABORT, [⟨15, 0, .ctr, false, 0, 0, 65535, .none⟩]⟩,
    ⟨0x068, 1, 0x4, .all, false, .sdl .SDL_ANG_DCOL, [⟨15, 0, .ctr, false, 0, 0, 65535, .none⟩]⟩,
    ⟨0x06C, 1, 0x4, .all, false, .sdl .SDL_ANG_FRDROP, [⟨15, 0, .ctr, false, 0, 0, 65535, .none⟩]⟩,
    ⟨0x080, 1, 0x4, .all, true, .sdl .SDL_ANG_NOW, []⟩ ]

/-- The register table of SDL page 4 (04_sundial_time.md and 05_angle_timebase.md). -/
def regsSdl4 : List RegDesc :=
  [ ⟨0x040, 1, 0x4, .prv, true, .sdl .SDL_ALM_ARM, []⟩,
    ⟨0x100, 256, 0x4, .all, false, .sdl .SDL_ALM_STAT, [⟨31, 26, .zero, false, 0, 0, 63, .none⟩, ⟨25, 16, .ro, false, 0, 0, 1023, .none⟩, ⟨15, 10, .zero, false, 0, 0, 63, .none⟩, ⟨9, 9, .ro, false, 0, 0, 1, .none⟩, ⟨8, 8, .ro, false, 0, 0, 1, .none⟩, ⟨7, 3, .zero, false, 0, 0, 31, .none⟩, ⟨2, 0, .ro, false, 0, 0, 7, .none⟩]⟩ ]

/-- The register table of MAC page 0 (06_ports_and_macs.md). -/
def regsMac0 : List RegDesc :=
  [ ⟨0x040, 1, 0x4, .prv, false, .mac .MAC_MODE, [⟨9, 9, .wbf, false, 1, 0, 1, .none⟩, ⟨8, 8, .wbf, false, 1, 0, 1, .rxen⟩, ⟨6, 6, .wbf, false, 0, 0, 1, .an⟩, ⟨5, 4, .wbf, false, 0, 0, 2, .fec⟩, ⟨2, 0, .wbf, false, 1, 0, 7, .phy⟩]⟩,
    ⟨0x044, 1, 0x4, .prv, false, .mac .MAC_MAXLEN, [⟨13, 0, .wbf, false, 1522, 1518, 9600, .none⟩]⟩,
    ⟨0x048, 1, 0x4, .prv, false, .mac .MAC_RXF, [⟨3, 3, .wbf, false, 0, 0, 1, .pause⟩, ⟨2, 2, .wbf, false, 0, 0, 1, .none⟩, ⟨1, 1, .wbf, false, 0, 0, 1, .none⟩, ⟨0, 0, .wbf, false, 1, 0, 1, .none⟩]⟩,
    ⟨0x04C, 1, 0x4, .prv, false, .mac .MAC_PCPMAP, [⟨26, 24, .wbf, false, 0, 0, 7, .none⟩, ⟨23, 0, .wbf, false, 16434824, 0, 16777215, .none⟩]⟩,
    ⟨0x050, 1, 0x4, .all, false, .mac .MAC_LINK, [⟨31, 8, .zero, false, 0, 0, 16777215, .none⟩, ⟨7, 7, .rsh, false, 0, 0, 1, .none⟩, ⟨6, 5, .zero, false, 0, 0, 3, .none⟩, ⟨4, 4, .rsh, false, 0, 0, 1, .none⟩, ⟨3, 3, .zero, false, 0, 0, 1, .none⟩, ⟨2, 0, .rsh, false, 0, 0, 7, .none⟩]⟩,
    ⟨0x054, 1, 0x4, .prv, false, .mac .MAC_PAIR, [⟨31, 16, .wbf, false, 400, 10, 4000, .pairreg⟩, ⟨3, 3, .wbf, false, 0, 0, 1, .quad⟩, ⟨2, 2, .wbf, false, 0, 0, 1, .pairreg⟩, ⟨1, 0, .wbf, false, 0, 0, 2, .pairreg⟩]⟩,
    ⟨0x080, 1, 0x4, .prv, true, .mac .MAC_EXACT, []⟩ ]

/-- The register table of MAC page 1 (06_ports_and_macs.md). -/
def regsMac1 : List RegDesc :=
  [ ⟨0x040, 128, 0x4, .all, false, .mac .MAC_HASH, [⟨31, 0, .rw, false, 0, 0, 4294967295, .none⟩]⟩ ]

/-- The register table of MAC page 2 (06_ports_and_macs.md). -/
def regsMac2 : List RegDesc :=
  [ ⟨0x040, 1, 0x4, .all, false, .mac .MAC_GCL_STAT, [⟨31, 31, .ro, false, 0, 0, 1, .none⟩, ⟨30, 17, .zero, false, 0, 0, 16383, .none⟩, ⟨16, 16, .ro, false, 0, 0, 1, .none⟩, ⟨15, 9, .zero, false, 0, 0, 127, .none⟩, ⟨8, 0, .ro, false, 1, 0, 511, .none⟩]⟩,
    ⟨0x044, 1, 0x4, .all, false, .mac .MAC_GATES, [⟨31, 16, .zero, false, 0, 0, 65535, .none⟩, ⟨15, 8, .rsh, false, 0, 0, 255, .none⟩, ⟨7, 0, .rsh, false, 255, 0, 255, .none⟩]⟩,
    ⟨0x080, 1, 0x4, .prv, true, .mac .MAC_GCL_SW, []⟩,
    ⟨0x400, 256, 0x4, .all, false, .mac .MAC_GCLA, [⟨31, 24, .rw, false, 255, 0, 255, .none⟩, ⟨23, 0, .rw, false, 1, 1, 16777215, .none⟩]⟩,
    ⟨0x800, 256, 0x4, .all, false, .mac .MAC_GCLB, [⟨31, 24, .rw, false, 255, 0, 255, .none⟩, ⟨23, 0, .rw, false, 1, 1, 16777215, .none⟩]⟩ ]

/-- The register table of MAC page 3 (06_ports_and_macs.md). -/
def regsMac3 : List RegDesc :=
  [ ⟨0x040, 1, 0x4, .all, false, .mac .MAC_RX_OK, [⟨31, 0, .ctr, false, 0, 0, 4294967295, .none⟩]⟩,
    ⟨0x044, 1, 0x4, .all, false, .mac .MAC_RX_RUNT, [⟨31, 0, .ctr, false, 0, 0, 4294967295, .none⟩]⟩,
    ⟨0x048, 1, 0x4, .all, false, .mac .MAC_RX_FCS, [⟨31, 0, .ctr, false, 0, 0, 4294967295, .none⟩]⟩,
    ⟨0x04C, 1, 0x4, .all, false, .mac .MAC_RX_OVERSIZE, [⟨31, 0, .ctr, false, 0, 0, 4294967295, .none⟩]⟩,
    ⟨0x050, 1, 0x4, .all, false, .mac .MAC_RX_FILT, [⟨31, 0, .ctr, false, 0, 0, 4294967295, .none⟩]⟩,
    ⟨0x054, 1, 0x4, .all, false, .mac .MAC_RX_PAUSE, [⟨31, 0, .ctr, false, 0, 0, 4294967295, .none⟩]⟩,
    ⟨0x058, 1, 0x4, .all, false, .mac .MAC_RX_DUP, [⟨31, 0, .ctr, false, 0, 0, 4294967295, .none⟩]⟩,
    ⟨0x05C, 1, 0x4, .all, false, .mac .MAC_RX_OOW, [⟨31, 0, .ctr, false, 0, 0, 4294967295, .none⟩]⟩,
    ⟨0x060, 1, 0x4, .all, false, .mac .MAC_RX_NOSRC, [⟨31, 0, .ctr, false, 0, 0, 4294967295, .none⟩]⟩,
    ⟨0x064, 1, 0x4, .all, false, .mac .MAC_RX_ABORT, [⟨31, 0, .ctr, false, 0, 0, 4294967295, .none⟩]⟩,
    ⟨0x068, 1, 0x4, .all, false, .mac .MAC_TX_OK, [⟨31, 0, .ctr, false, 0, 0, 4294967295, .none⟩]⟩,
    ⟨0x06C, 1, 0x4, .all, false, .mac .MAC_TX_LENERR, [⟨31, 0, .ctr, false, 0, 0, 4294967295, .none⟩]⟩,
    ⟨0x070, 1, 0x4, .all, false, .mac .MAC_TX_SEG, [⟨31, 0, .ctr, false, 0, 0, 4294967295, .none⟩]⟩,
    ⟨0x074, 1, 0x4, .all, false, .mac .MAC_TX_ABORT, [⟨31, 0, .ctr, false, 0, 0, 4294967295, .none⟩]⟩,
    ⟨0x078, 1, 0x4, .all, false, .mac .MAC_TX_PAD, [⟨31, 0, .ctr, false, 0, 0, 4294967295, .none⟩]⟩ ]

/-- The register table of TRL page 32 (06_ports_and_macs.md and 07_trellis_switch.md). -/
def regsTrl32 : List RegDesc :=
  [ ⟨0x040, 1, 0x4, .prv, false, .trl .GPB_TABLE, [⟨31, 12, .wbf, false, 0, 0, 1048575, .none⟩, ⟨11, 0, .zero, false, 0, 0, 4095, .none⟩]⟩,
    ⟨0x044, 1, 0x4, .prv, false, .trl .GPB_UTC, [⟨31, 24, .wbf, false, 0, 0, 255, .none⟩, ⟨15, 0, .wbf, false, 37, 0, 65535, .none⟩]⟩,
    ⟨0x048, 1, 0x4, .all, false, .trl .GPB_NRUN, [⟨31, 13, .zero, false, 0, 0, 524287, .none⟩, ⟨12, 0, .ro, false, 0, 0, 8191, .none⟩]⟩,
    ⟨0x04C, 1, 0x4, .all, false, .trl .GPB_OWNREJ, [⟨15, 0, .ctr, false, 0, 0, 65535, .none⟩]⟩,
    ⟨0x050, 1, 0x4, .all, false, .trl .GPB_SIZE, [⟨15, 0, .ctr, false, 0, 0, 65535, .none⟩]⟩,
    ⟨0x054, 1, 0x4, .all, false, .trl .GPB_LATE, [⟨15, 0, .ctr, false, 0, 0, 65535, .none⟩]⟩,
    ⟨0x080, 1, 0x4, .prv, true, .trl .GPB_SLOT, []⟩ ]

/-- The register table of TRL page 33 (06_ports_and_macs.md and 07_trellis_switch.md). -/
def regsTrl33 : List RegDesc :=
  [ ⟨0x040, 1, 0x4, .all, false, .trl .GSB_NSUB, [⟨31, 13, .zero, false, 0, 0, 524287, .none⟩, ⟨12, 0, .ro, false, 0, 0, 8191, .none⟩]⟩,
    ⟨0x044, 1, 0x4, .all, false, .trl .GSB_NOMATCH, [⟨31, 0, .ctr, false, 0, 0, 4294967295, .none⟩]⟩,
    ⟨0x048, 1, 0x4, .all, false, .trl .GSB_FORMAT, [⟨31, 0, .ctr, false, 0, 0, 4294967295, .none⟩]⟩,
    ⟨0x04C, 1, 0x4, .all, false, .trl .GSB_STOPPED, [⟨31, 0, .ctr, false, 0, 0, 4294967295, .none⟩]⟩,
    ⟨0x050, 1, 0x4, .all, false, .trl .GSB_SIMREJ, [⟨31, 0, .ctr, false, 0, 0, 4294967295, .none⟩]⟩,
    ⟨0x054, 1, 0x4, .all, false, .trl .GSB_CONFREV, [⟨31, 0, .ctr, false, 0, 0, 4294967295, .none⟩]⟩,
    ⟨0x058, 1, 0x4, .all, false, .trl .GSB_AUTHFAIL, [⟨31, 0, .ctr, false, 0, 0, 4294967295, .none⟩]⟩,
    ⟨0x05C, 1, 0x4, .all, false, .trl .GSB_DUP, [⟨31, 0, .ctr, false, 0, 0, 4294967295, .none⟩]⟩,
    ⟨0x060, 1, 0x4, .all, false, .trl .GSB_EXPIRE, [⟨31, 0, .ctr, false, 0, 0, 4294967295, .none⟩]⟩,
    ⟨0x064, 1, 0x4, .all, false, .trl .GSB_BUFERR, [⟨31, 0, .ctr, false, 0, 0, 4294967295, .none⟩]⟩,
    ⟨0x068, 1, 0x4, .all, false, .trl .GSB_EVHOLD, [⟨31, 0, .ctr, false, 0, 0, 4294967295, .none⟩]⟩,
    ⟨0x080, 1, 0x4, .prv, true, .trl .GSB_SUB, []⟩,
    ⟨0x0C0, 1, 0x4, .all, true, .trl .GSB_STATE, []⟩ ]

/-- The register table of TRL page 0 (06_ports_and_macs.md and 07_trellis_switch.md). -/
def regsTrl0 : List RegDesc :=
  [ ⟨0x040, 1, 0x4, .prv, false, .trl .TRL_CFG, [⟨0, 0, .rw, false, 1, 0, 1, .none⟩]⟩,
    ⟨0x044, 1, 0x4, .all, false, .trl .TRL_STAT, [⟨31, 31, .ro, false, 0, 0, 1, .none⟩, ⟨30, 9, .zero, false, 0, 0, 4194303, .none⟩, ⟨8, 0, .ro, false, 0, 0, 511, .none⟩]⟩,
    ⟨0x048, 1, 0x4, .prv, false, .trl .TRL_OVF_BASE, [⟨31, 12, .rw, false, 0, 0, 1048575, .none⟩, ⟨11, 0, .zero, false, 0, 0, 4095, .none⟩]⟩,
    ⟨0x04C, 1, 0x4, .prv, false, .trl .TRL_OVF_SIZE, [⟨10, 0, .rw, false, 0, 0, 1024, .none⟩]⟩,
    ⟨0x050, 1, 0x4, .all, false, .trl .TRL_FREE, [⟨31, 19, .zero, false, 0, 0, 8191, .none⟩, ⟨18, 0, .ro, false, 0, 0, 524287, .none⟩]⟩,
    ⟨0x054, 1, 0x4, .all, false, .trl .TRL_OVF_FREE, [⟨31, 25, .zero, false, 0, 0, 127, .none⟩, ⟨24, 0, .ro, false, 0, 0, 33554431, .none⟩]⟩,
    ⟨0x058, 1, 0x4, .all, false, .trl .TRL_RESEQ_ERR, [⟨15, 0, .ctr, false, 0, 0, 65535, .none⟩]⟩,
    ⟨0x05C, 1, 0x4, .all, false, .trl .TRL_ECC_DROP, [⟨15, 0, .ctr, false, 0, 0, 65535, .none⟩]⟩,
    ⟨0x060, 1, 0x4, .all, false, .trl .TRL_SPILL_LIM, [⟨15, 0, .ctr, false, 0, 0, 65535, .none⟩]⟩,
    ⟨0x064, 1, 0x4, .all, false, .trl .TRL_OVSPD, [⟨15, 0, .ctr, false, 0, 0, 65535, .none⟩]⟩,
    ⟨0x068, 1, 0x4, .all, false, .trl .TRL_FLUSH, [⟨15, 0, .ctr, false, 0, 0, 65535, .none⟩]⟩,
    ⟨0x080, 8, 0x4, .prv, false, .trl .TRL_TC, [⟨4, 4, .wbf, false, 0, 0, 1, .none⟩, ⟨2, 0, .wbf, false, 0, 0, 7, .none⟩]⟩ ]

/-- The register table of TRL page 1 (06_ports_and_macs.md and 07_trellis_switch.md). -/
def regsTrl1 : List RegDesc :=
  [ ⟨0x040, 1, 0x4, .prv, true, .trl .TRL_FDB, []⟩,
    ⟨0x080, 1, 0x4, .prv, false, .trl .TRL_AGE, [⟨19, 0, .rw, false, 300, 10, 1000000, .none⟩]⟩,
    ⟨0x084, 1, 0x4, .all, false, .trl .TRL_FDB_NUM, [⟨31, 15, .zero, false, 0, 0, 131071, .none⟩, ⟨14, 0, .ro, false, 0, 0, 32767, .none⟩]⟩,
    ⟨0x088, 1, 0x4, .all, false, .trl .TRL_LEARN_FULL, [⟨15, 0, .ctr, false, 0, 0, 65535, .none⟩]⟩ ]

/-- The register table of TRL page 2 (06_ports_and_macs.md and 07_trellis_switch.md). -/
def regsTrl2 : List RegDesc :=
  [ ⟨0x040, 20, 0x10, .prv, false, .trl .TRL_P_CTRL, [⟨31, 31, .ro, false, 0, 0, 1, .none⟩, ⟨17, 16, .rw, false, 0, 0, 2, .none⟩, ⟨15, 15, .rw, false, 0, 0, 1, .none⟩, ⟨11, 0, .rw, false, 1, 1, 4094, .none⟩]⟩,
    ⟨0x044, 20, 0x10, .prv, false, .trl .TRL_P_UCF, [⟨19, 0, .rw, false, 196607, 0, 1048575, .none⟩]⟩,
    ⟨0x048, 20, 0x10, .prv, false, .trl .TRL_P_MCF, [⟨19, 0, .rw, false, 131072, 0, 1048575, .none⟩]⟩ ]

/-- The register table of TRL page 3 (06_ports_and_macs.md and 07_trellis_switch.md). -/
def regsTrl3 : List RegDesc :=
  [ ⟨0x040, 4, 0x10, .all, false, .trl .TRL_MIR_IN, [⟨19, 0, .rw, false, 0, 0, 1048575, .none⟩]⟩,
    ⟨0x044, 4, 0x10, .all, false, .trl .TRL_MIR_OUT, [⟨19, 0, .rw, false, 0, 0, 1048575, .none⟩]⟩,
    ⟨0x048, 4, 0x10, .all, false, .trl .TRL_MIR_CTRL, [⟨4, 4, .rw, false, 0, 0, 1, .none⟩, ⟨3, 3, .rw, false, 0, 0, 1, .none⟩, ⟨2, 0, .rw, false, 0, 0, 7, .none⟩]⟩ ]

/-- The register table of TRL page 4 (06_ports_and_macs.md and 07_trellis_switch.md). -/
def regsTrl4 : List RegDesc :=
  [ ⟨0x040, 160, 0x4, .all, false, .trl .TRL_DROP, [⟨31, 0, .ctr, false, 0, 0, 4294967295, .none⟩]⟩ ]

/-- The register table of TRL page 16 (06_ports_and_macs.md and 07_trellis_switch.md). -/
def regsTrl16 : List RegDesc :=
  [ ⟨0x040, 8, 0x10, .prv, false, .trl .TRL_TXR_BASE, [⟨31, 0, .rw, false, 0, 0, 4294967295, .none⟩]⟩,
    ⟨0x044, 8, 0x10, .prv, false, .trl .TRL_TXR_SIZE, [⟨3, 0, .rw, false, 4, 4, 14, .none⟩]⟩,
    ⟨0x048, 8, 0x10, .prv, false, .trl .TRL_TXR_TAIL, [⟨13, 0, .rw, false, 0, 0, 16383, .tail⟩]⟩,
    ⟨0x04C, 8, 0x10, .all, false, .trl .TRL_TXR_HEAD, [⟨31, 14, .zero, false, 0, 0, 262143, .none⟩, ⟨13, 0, .ro, false, 0, 0, 16383, .none⟩]⟩,
    ⟨0x0C0, 8, 0x10, .prv, false, .trl .TRL_RXR_BASE, [⟨31, 0, .rw, false, 0, 0, 4294967295, .none⟩]⟩,
    ⟨0x0C4, 8, 0x10, .prv, false, .trl .TRL_RXR_SIZE, [⟨29, 16, .rw, false, 1536, 64, 16383, .none⟩, ⟨3, 0, .rw, false, 4, 4, 14, .none⟩]⟩,
    ⟨0x0C8, 8, 0x10, .prv, false, .trl .TRL_RXR_TAIL, [⟨13, 0, .rw, false, 0, 0, 16383, .tail⟩]⟩,
    ⟨0x0CC, 8, 0x10, .all, false, .trl .TRL_RXR_HEAD, [⟨31, 14, .zero, false, 0, 0, 262143, .none⟩, ⟨13, 0, .ro, false, 0, 0, 16383, .none⟩]⟩,
    ⟨0x140, 8, 0x4, .all, false, .trl .TRL_RXC, [⟨31, 0, .ctr, false, 0, 0, 4294967295, .none⟩]⟩,
    ⟨0x160, 8, 0x4, .all, false, .trl .TRL_TXC, [⟨31, 0, .ctr, false, 0, 0, 4294967295, .none⟩]⟩,
    ⟨0x180, 1, 0x4, .all, false, .trl .TRL_DMA_DERR, [⟨15, 0, .ctr, false, 0, 0, 65535, .none⟩]⟩,
    ⟨0x184, 1, 0x4, .all, false, .trl .TRL_DMA_TRUNC, [⟨15, 0, .ctr, false, 0, 0, 65535, .none⟩]⟩,
    ⟨0x188, 1, 0x4, .all, false, .trl .TRL_RING_HALT, [⟨31, 16, .zero, false, 0, 0, 65535, .none⟩, ⟨15, 8, .ro, false, 0, 0, 255, .none⟩, ⟨7, 0, .ro, false, 0, 0, 255, .none⟩]⟩ ]

/-- The register table of SVI page 0 (08_sv_ingest_alignment.md). -/
def regsSvi0 : List RegDesc :=
  [ ⟨0x040, 1, 0x4, .all, false, .svi .SVI_NSTREAM, [⟨31, 23, .zero, false, 0, 0, 511, .none⟩, ⟨22, 16, .ro, false, 0, 0, 127, .none⟩, ⟨15, 12, .zero, false, 0, 0, 15, .none⟩, ⟨11, 0, .ro, false, 0, 0, 4095, .none⟩]⟩,
    ⟨0x044, 1, 0x4, .all, false, .svi .SVI_NOMATCH, [⟨31, 0, .ctr, false, 0, 0, 4294967295, .none⟩]⟩,
    ⟨0x048, 1, 0x4, .all, false, .svi .SVI_FORMAT, [⟨31, 0, .ctr, false, 0, 0, 4294967295, .none⟩]⟩,
    ⟨0x04C, 1, 0x4, .all, false, .svi .SVI_OVERSIZE, [⟨31, 0, .ctr, false, 0, 0, 4294967295, .none⟩]⟩,
    ⟨0x050, 1, 0x4, .all, false, .svi .SVI_STOPPED, [⟨31, 0, .ctr, false, 0, 0, 4294967295, .none⟩]⟩,
    ⟨0x054, 1, 0x4, .all, false, .svi .SVI_AUTHFAIL, [⟨31, 0, .ctr, false, 0, 0, 4294967295, .none⟩]⟩,
    ⟨0x058, 1, 0x4, .all, false, .svi .SVI_CONFREV, [⟨31, 0, .ctr, false, 0, 0, 4294967295, .none⟩]⟩,
    ⟨0x05C, 1, 0x4, .all, false, .svi .SVI_OOW, [⟨31, 0, .ctr, false, 0, 0, 4294967295, .none⟩]⟩,
    ⟨0x060, 1, 0x4, .all, false, .svi .SVI_LATE, [⟨31, 0, .ctr, false, 0, 0, 4294967295, .none⟩]⟩,
    ⟨0x064, 1, 0x4, .all, false, .svi .SVI_DUP, [⟨31, 0, .ctr, false, 0, 0, 4294967295, .none⟩]⟩,
    ⟨0x068, 1, 0x4, .all, false, .svi .SVI_SUBST, [⟨31, 0, .ctr, false, 0, 0, 4294967295, .none⟩]⟩,
    ⟨0x06C, 1, 0x4, .all, false, .svi .SVI_EVHOLD, [⟨31, 0, .ctr, false, 0, 0, 4294967295, .none⟩]⟩,
    ⟨0x080, 1, 0x4, .prv, true, .svi .SVI_DESC, []⟩,
    ⟨0x0C0, 1, 0x4, .all, true, .svi .SVI_SCNT, []⟩ ]

/-- The register table of SVI pages 1 to 4 (08_sv_ingest_alignment.md). -/
def regsSvi1 : List RegDesc :=
  [ ⟨0x040, 64, 0x20, .prv, false, .svi .SVI_G_CTRL, [⟨31, 31, .wbf, false, 0, 0, 1, .none⟩, ⟨30, 30, .wbf, false, 0, 0, 1, .none⟩, ⟨29, 28, .wbf, false, 0, 0, 2, .none⟩, ⟨27, 24, .wbf, false, 2, 1, 8, .none⟩, ⟨23, 16, .wbf, false, 4, 1, 255, .none⟩, ⟨12, 0, .wbf, false, 0, 0, 8191, .none⟩]⟩,
    ⟨0x044, 64, 0x20, .prv, false, .svi .SVI_G_HOLD, [⟨10, 0, .wbf, false, 200, 0, 2000, .none⟩]⟩,
    ⟨0x048, 64, 0x20, .prv, false, .svi .SVI_G_WIN, [⟨25, 16, .wbf, false, 100, 0, 1000, .none⟩, ⟨13, 0, .wbf, false, 2000, 1, 10000, .none⟩]⟩,
    ⟨0x04C, 64, 0x20, .all, false, .svi .SVI_G_STAT, [⟨31, 28, .zero, false, 0, 0, 15, .none⟩, ⟨27, 16, .ro, false, 0, 0, 4095, .none⟩, ⟨15, 15, .ro, false, 0, 0, 1, .none⟩, ⟨14, 12, .zero, false, 0, 0, 7, .none⟩, ⟨11, 0, .ro, false, 0, 0, 4095, .none⟩]⟩,
    ⟨0x050, 64, 0x20, .all, false, .svi .SVI_G_SUBST, [⟨31, 0, .ctr, false, 0, 0, 4294967295, .none⟩]⟩,
    ⟨0x054, 64, 0x20, .all, false, .svi .SVI_G_LATE, [⟨31, 0, .ctr, false, 0, 0, 4294967295, .none⟩]⟩,
    ⟨0x058, 64, 0x20, .all, false, .svi .SVI_G_LASTREL, [⟨31, 0, .ro, false, 0, 0, 4294967295, .none⟩]⟩ ]

/-- The register table of SVI page 5 (08_sv_ingest_alignment.md). -/
def regsSvi5 : List RegDesc :=
  [ ⟨0x040, 64, 0x4, .all, false, .svi .SVI_LOST, [⟨31, 0, .ro, false, 0, 0, 4294967295, .none⟩]⟩ ]

/-- The register table of CAS page 0 (09_cascade_lantern.md). -/
def regsCas0 : List RegDesc :=
  [ ⟨0x040, 1, 0x4, .prv, false, .cas .CAS_SYNC, [⟨1, 1, .wsc, false, 0, 0, 1, .none⟩, ⟨0, 0, .wsc, false, 0, 0, 1, .none⟩]⟩,
    ⟨0x044, 1, 0x4, .prv, false, .cas .CAS_SYNCPIN, [⟨0, 0, .rw, false, 0, 0, 1, .none⟩]⟩,
    ⟨0x048, 8, 0x4, .prv, false, .cas .CAS_SYNCMSK, [⟨31, 0, .rw, false, 0, 0, 4294967295, .none⟩]⟩,
    ⟨0x068, 1, 0x4, .all, false, .cas .CAS_NCH, [⟨31, 15, .zero, false, 0, 0, 131071, .none⟩, ⟨14, 0, .ro, false, 0, 0, 32767, .none⟩]⟩,
    ⟨0x06C, 1, 0x4, .all, false, .cas .CAS_NERR, [⟨31, 15, .zero, false, 0, 0, 131071, .none⟩, ⟨14, 0, .ro, false, 0, 0, 32767, .none⟩]⟩,
    ⟨0x070, 1, 0x4, .all, false, .cas .CAS_SAT, [⟨31, 0, .ctr, false, 0, 0, 4294967295, .none⟩]⟩,
    ⟨0x074, 1, 0x4, .all, false, .cas .CAS_CMPERR, [⟨15, 0, .ctr, false, 0, 0, 65535, .none⟩]⟩,
    ⟨0x078, 1, 0x4, .all, false, .cas .CAS_SYNCEVT, [⟨15, 0, .ctr, false, 0, 0, 65535, .none⟩]⟩,
    ⟨0x080, 1, 0x4, .all, true, .cas .CAS_RESP, []⟩ ]

/-- The register table of CAS page 1 (09_cascade_lantern.md). -/
def regsCas1 : List RegDesc :=
  [ ⟨0x040, 64, 0x10, .prv, false, .cas .CAS_PRF_CHAIN, [⟨31, 29, .wbf, false, 1, 0, 4, .none⟩, ⟨28, 28, .wbf, false, 0, 0, 1, .none⟩, ⟨27, 27, .wbf, false, 0, 0, 1, .none⟩, ⟨25, 24, .wbf, false, 0, 0, 3, .none⟩, ⟨20, 16, .wbf, false, 0, 0, 23, .none⟩, ⟨12, 8, .wbf, false, 0, 0, 23, .none⟩, ⟨4, 0, .wbf, false, 0, 0, 23, .none⟩]⟩,
    ⟨0x044, 64, 0x10, .prv, false, .cas .CAS_PRF_MA, [⟨31, 31, .wbf, false, 0, 0, 1, .none⟩, ⟨30, 30, .wbf, false, 0, 0, 1, .none⟩, ⟨27, 24, .wbf, false, 1, 1, 15, .none⟩, ⟨11, 0, .wbf, false, 0, 0, 4095, .none⟩]⟩ ]

/-- The register table of CAS page 2 (09_cascade_lantern.md). -/
def regsCas2 : List RegDesc :=
  [ ⟨0x040, 256, 0x4, .prv, false, .cas .CAS_G_PHASE, [⟨9, 0, .wbf, false, 0, 0, 719, .none⟩]⟩ ]

/-- The register table of CAS pages 64 to 127 (09_cascade_lantern.md). -/
def regsCas64 : List RegDesc :=
  [ ⟨0x040, 256, 0x8, .prv, false, .cas .CAS_CH_CTRL, [⟨31, 31, .wbf, false, 0, 0, 1, .none⟩, ⟨30, 30, .ro, false, 0, 0, 1, .none⟩, ⟨5, 0, .wbf, false, 0, 0, 63, .none⟩]⟩,
    ⟨0x044, 256, 0x8, .all, false, .cas .CAS_CH_DLY, [⟨31, 0, .ro, false, 0, 0, 4294967295, .none⟩]⟩ ]

/-- The register table of LTN page 0 (09_cascade_lantern.md). -/
def regsLtn0 : List RegDesc :=
  [ ⟨0x040, 1, 0x4, .all, false, .ltn .LTN_NTRIP, [⟨31, 14, .zero, false, 0, 0, 262143, .none⟩, ⟨13, 0, .ro, false, 0, 0, 16383, .none⟩]⟩,
    ⟨0x044, 1, 0x4, .all, false, .ltn .LTN_SAT, [⟨31, 0, .ctr, false, 0, 0, 4294967295, .none⟩]⟩,
    ⟨0x048, 1, 0x4, .all, false, .ltn .LTN_CMPERR, [⟨15, 0, .ctr, false, 0, 0, 65535, .none⟩]⟩,
    ⟨0x04C, 1, 0x4, .all, false, .ltn .LTN_FHOLD, [⟨15, 0, .ctr, false, 0, 0, 65535, .none⟩]⟩,
    ⟨0x050, 1, 0x4, .all, false, .ltn .LTN_EVHOLD, [⟨15, 0, .ctr, false, 0, 0, 65535, .none⟩]⟩,
    ⟨0x080, 1, 0x4, .prv, true, .ltn .LTN_TRIP, []⟩ ]

/-- The register table of LTN pages 1 to 2 (09_cascade_lantern.md). -/
def regsLtn1 : List RegDesc :=
  [ ⟨0x040, 128, 0x10, .prv, false, .ltn .LTN_G_CTRL, [⟨31, 31, .wbf, false, 0, 0, 1, .none⟩, ⟨30, 30, .wbf, false, 0, 0, 1, .none⟩, ⟨29, 29, .wbf, false, 0, 0, 1, .none⟩, ⟨28, 28, .wbf, false, 0, 0, 1, .none⟩, ⟨27, 27, .wbf, false, 0, 0, 1, .none⟩, ⟨12, 0, .wbf, false, 0, 0, 8191, .none⟩]⟩,
    ⟨0x044, 128, 0x10, .prv, false, .ltn .LTN_G_FREF, [⟨31, 24, .wbf, false, 24, 1, 255, .none⟩, ⟨23, 18, .wbf, false, 4, 1, 63, .none⟩, ⟨13, 0, .wbf, false, 0, 0, 16383, .ref⟩]⟩,
    ⟨0x048, 128, 0x10, .all, false, .ltn .LTN_G_STAT, [⟨31, 31, .ro, false, 0, 0, 1, .none⟩, ⟨30, 30, .ro, false, 0, 0, 1, .none⟩, ⟨29, 17, .zero, false, 0, 0, 8191, .none⟩, ⟨16, 0, .ro, false, 0, 0, 131071, .none⟩]⟩ ]

/-- The register table of BND page 0 (10_bandstand_dispatch.md). -/
def regsBnd0 : List RegDesc :=
  [ ⟨0x040, 1, 0x4, .prv, false, .bnd .BND_MIGTHR, [⟨1, 0, .rw, false, 1, 0, 3, .none⟩]⟩,
    ⟨0x044, 1, 0x4, .prv, false, .bnd .BND_OVF_BASE, [⟨9, 0, .rw, false, 0, 0, 1023, .none⟩]⟩,
    ⟨0x048, 1, 0x4, .prv, false, .bnd .BND_OVF_SIZE, [⟨6, 0, .rw, false, 0, 0, 64, .ovf⟩]⟩,
    ⟨0x04C, 1, 0x4, .all, false, .bnd .BND_FREE, [⟨31, 18, .zero, false, 0, 0, 16383, .none⟩, ⟨17, 0, .ro, false, 0, 0, 262143, .none⟩]⟩,
    ⟨0x050, 1, 0x4, .all, false, .bnd .BND_POSTS, [⟨31, 0, .ctr, false, 0, 0, 4294967295, .none⟩]⟩,
    ⟨0x054, 1, 0x4, .all, false, .bnd .BND_REFUSE, [⟨31, 0, .ctr, false, 0, 0, 4294967295, .none⟩]⟩,
    ⟨0x058, 1, 0x4, .all, false, .bnd .BND_NOQ, [⟨15, 0, .ctr, false, 0, 0, 65535, .none⟩]⟩,
    ⟨0x05C, 1, 0x4, .all, false, .bnd .BND_LATE, [⟨15, 0, .ctr, false, 0, 0, 65535, .none⟩]⟩,
    ⟨0x060, 1, 0x4, .all, false, .bnd .BND_MIGR, [⟨31, 0, .ctr, false, 0, 0, 4294967295, .none⟩]⟩,
    ⟨0x064, 1, 0x4, .all, false, .bnd .BND_ABANDON, [⟨15, 0, .ctr, false, 0, 0, 65535, .none⟩]⟩,
    ⟨0x068, 1, 0x4, .all, false, .bnd .BND_FLUSH, [⟨31, 0, .ctr, false, 0, 0, 4294967295, .none⟩]⟩,
    ⟨0x080, 1, 0x4, .prv, true, .bnd .BND_POST, []⟩ ]

/-- The register table of BND pages 1 to 64 (10_bandstand_dispatch.md). -/
def regsBnd1 : List RegDesc :=
  [ ⟨0x040, 128, 0x10, .prv, false, .bnd .BND_Q_CFG, [⟨31, 31, .wbf, false, 0, 0, 1, .none⟩, ⟨30, 29, .wbf, false, 0, 0, 2, .none⟩, ⟨28, 28, .wbf, false, 0, 0, 1, .none⟩, ⟨27, 24, .wbf, false, 8, 0, 15, .none⟩, ⟨21, 16, .wbf, false, 0, 0, 63, .none⟩, ⟨9, 0, .wbf, false, 0, 0, 1023, .none⟩]⟩,
    ⟨0x044, 128, 0x10, .prv, false, .bnd .BND_Q_LIM, [⟨31, 16, .wbf, false, 0, 0, 65535, .none⟩, ⟨15, 0, .wbf, false, 256, 1, 65535, .none⟩]⟩,
    ⟨0x048, 128, 0x10, .all, false, .bnd .BND_Q_STAT, [⟨31, 31, .ro, false, 0, 0, 1, .none⟩, ⟨30, 18, .zero, false, 0, 0, 8191, .none⟩, ⟨17, 0, .ro, false, 0, 0, 262143, .none⟩]⟩ ]

/-- The register table of BND pages 128 to 175 (10_bandstand_dispatch.md). -/
def regsBnd128 : List RegDesc :=
  [ ⟨0x040, 1, 0x4, .pair, false, .bnd .BND_TAKE, [⟨31, 31, .ro, false, 0, 0, 1, .none⟩, ⟨30, 30, .ro, false, 0, 0, 1, .none⟩, ⟨29, 24, .zero, false, 0, 0, 63, .none⟩, ⟨23, 16, .ro, false, 0, 0, 255, .none⟩, ⟨15, 13, .zero, false, 0, 0, 7, .none⟩, ⟨12, 0, .ro, false, 0, 0, 8191, .none⟩]⟩,
    ⟨0x044, 1, 0x4, .pair, false, .bnd .BND_DONE, [⟨0, 0, .wsc, false, 0, 0, 1, .none⟩]⟩,
    ⟨0x048, 1, 0x4, .pairPrv, false, .bnd .BND_TMO, [⟨15, 0, .rw, false, 1000, 1, 65535, .none⟩]⟩,
    ⟨0x04C, 1, 0x4, .prv, false, .bnd .BND_PSETS0, [⟨31, 0, .rw, false, 0, 0, 4294967295, .none⟩]⟩,
    ⟨0x050, 1, 0x4, .prv, false, .bnd .BND_PSETS1, [⟨31, 0, .rw, false, 0, 0, 4294967295, .none⟩]⟩,
    ⟨0x054, 1, 0x4, .all, false, .bnd .BND_PSTAT, [⟨31, 18, .zero, false, 0, 0, 16383, .none⟩, ⟨17, 16, .ro, false, 0, 0, 3, .none⟩, ⟨15, 9, .zero, false, 0, 0, 127, .none⟩, ⟨8, 8, .ro, false, 0, 0, 1, .none⟩, ⟨7, 2, .zero, false, 0, 0, 63, .none⟩, ⟨1, 0, .ro, false, 0, 0, 3, .none⟩]⟩,
    ⟨0x058, 1, 0x4, .all, false, .bnd .BND_PTAKE, [⟨31, 0, .ctr, false, 0, 0, 4294967295, .none⟩]⟩,
    ⟨0x05C, 1, 0x4, .all, false, .bnd .BND_PEMPTY, [⟨31, 0, .ctr, false, 0, 0, 4294967295, .none⟩]⟩,
    ⟨0x080, 8, 0x4, .pair, false, .bnd .BND_EV, [⟨31, 0, .ro, false, 0, 0, 4294967295, .none⟩]⟩ ]

/-- The register table of CYC page 0 (11_conservatory_cycle.md). -/
def regsCyc0 : List RegDesc :=
  [ ⟨0x040, 1, 0x4, .prv, false, .cyc .CYC_PS_BASE, [⟨7, 0, .rw, false, 0, 0, 255, .none⟩]⟩,
    ⟨0x044, 1, 0x4, .prv, false, .cyc .CYC_FRING, [⟨2, 0, .rw, false, 7, 0, 7, .none⟩]⟩,
    ⟨0x048, 1, 0x4, .prv, false, .cyc .CYC_CKPT, [⟨31, 24, .rw, false, 16, 1, 255, .none⟩, ⟨15, 15, .rw, false, 0, 0, 1, .none⟩, ⟨11, 0, .rw, false, 600, 1, 3600, .none⟩]⟩,
    ⟨0x04C, 1, 0x4, .prv, false, .cyc .CYC_CKPT_FL, [⟨31, 16, .rw, false, 0, 0, 65535, .none⟩, ⟨15, 0, .rw, false, 0, 0, 65535, .none⟩]⟩,
    ⟨0x050, 1, 0x4, .prv, false, .cyc .CYC_CKPT_BUF, [⟨31, 0, .rw, false, 0, 0, 4294967295, .none⟩]⟩,
    ⟨0x054, 1, 0x4, .all, false, .cyc .CYC_CKPT_STAT, [⟨31, 31, .ro, false, 0, 0, 1, .none⟩, ⟨30, 0, .ro, false, 0, 0, 2147483647, .none⟩]⟩,
    ⟨0x058, 1, 0x4, .all, false, .cyc .CYC_OVR, [⟨31, 0, .ctr, false, 0, 0, 4294967295, .none⟩]⟩,
    ⟨0x05C, 1, 0x4, .all, false, .cyc .CYC_OUTREJ, [⟨31, 0, .ctr, false, 0, 0, 4294967295, .none⟩]⟩,
    ⟨0x060, 1, 0x4, .all, false, .cyc .CYC_EVSTALE, [⟨15, 0, .ctr, false, 0, 0, 65535, .none⟩]⟩,
    ⟨0x064, 1, 0x4, .all, false, .cyc .CYC_CKPTSKIP, [⟨15, 0, .ctr, false, 0, 0, 65535, .none⟩]⟩,
    ⟨0x068, 1, 0x4, .all, false, .cyc .CYC_LATERR, [⟨15, 0, .ctr, false, 0, 0, 65535, .none⟩]⟩,
    ⟨0x06C, 1, 0x4, .all, false, .cyc .CYC_EXDROP, [⟨15, 0, .ctr, false, 0, 0, 65535, .none⟩]⟩,
    ⟨0x080, 1, 0x4, .prv, true, .cyc .CYC_PVCMD, []⟩,
    ⟨0x0C0, 1, 0x4, .prv, true, .cyc .CYC_FORCE, []⟩ ]

/-- The register table of CYC page 1 (11_conservatory_cycle.md). -/
def regsCyc1 : List RegDesc :=
  [ ⟨0x040, 16, 0x10, .prv, false, .cyc .CYC_CLS_CTRL, [⟨31, 31, .wbf, false, 0, 0, 1, .none⟩, ⟨3, 0, .wbf, false, 8, 0, 15, .none⟩]⟩,
    ⟨0x044, 16, 0x10, .prv, false, .cyc .CYC_CLS_TIME, [⟨15, 0, .rw, false, 4, 1, 65535, .none⟩, ⟨31, 16, .rw, false, 0, 0, 65535, .phase⟩]⟩,
    ⟨0x048, 16, 0x10, .all, false, .cyc .CYC_CLS_STAT, [⟨31, 2, .zero, false, 0, 0, 1073741823, .none⟩, ⟨1, 0, .ro, false, 0, 0, 3, .none⟩]⟩,
    ⟨0x04C, 16, 0x10, .all, false, .cyc .CYC_CLS_OVR, [⟨31, 0, .ctr, false, 0, 0, 4294967295, .none⟩]⟩ ]

/-- The register table of CYC pages 16 to 47 (11_conservatory_cycle.md). -/
def regsCyc16 : List RegDesc :=
  [ ⟨0x040, 32, 0x40, .prv, false, .cyc .CYC_PV_CTRL, [⟨31, 31, .wbf, false, 0, 0, 1, .none⟩, ⟨30, 30, .wbf, false, 0, 0, 1, .none⟩, ⟨29, 24, .wbf, false, 0, 0, 47, .none⟩, ⟨20, 20, .wbf, false, 0, 0, 1, .none⟩, ⟨19, 16, .wbf, false, 0, 0, 15, .none⟩, ⟨2, 0, .wbf, false, 1, 1, 7, .none⟩]⟩,
    ⟨0x044, 32, 0x40, .prv, false, .cyc .CYC_PV_IMG, [⟨31, 0, .rw, false, 0, 0, 4294967295, .none⟩]⟩,
    ⟨0x048, 32, 0x40, .prv, false, .cyc .CYC_PV_IN, [⟨31, 0, .rw, false, 0, 0, 4294967295, .none⟩]⟩,
    ⟨0x04C, 32, 0x40, .prv, false, .cyc .CYC_PV_OUT, [⟨31, 0, .rw, false, 0, 0, 4294967295, .m32⟩]⟩,
    ⟨0x050, 32, 0x40, .prv, false, .cyc .CYC_PV_EVO, [⟨31, 0, .rw, false, 0, 0, 4294967295, .m8⟩]⟩,
    ⟨0x054, 32, 0x40, .prv, false, .cyc .CYC_PV_RET, [⟨31, 0, .rw, false, 0, 0, 4294967295, .none⟩]⟩,
    ⟨0x058, 32, 0x40, .prv, false, .cyc .CYC_PV_RSH, [⟨31, 0, .rw, false, 0, 0, 4294967295, .none⟩]⟩,
    ⟨0x05C, 32, 0x40, .prv, false, .cyc .CYC_PV_RSZ, [⟨6, 0, .rw, false, 0, 0, 64, .none⟩]⟩,
    ⟨0x060, 32, 0x40, .prv, false, .cyc .CYC_PV_PTB, [⟨16, 0, .rw, false, 0, 1024, 131071, .none⟩]⟩,
    ⟨0x064, 32, 0x40, .prv, false, .cyc .CYC_PV_PTN, [⟨16, 0, .rw, false, 0, 0, 131071, .ptn⟩]⟩,
    ⟨0x068, 32, 0x40, .prv, false, .cyc .CYC_PV_DOUT, [⟨31, 0, .rw, false, 0, 0, 4294967295, .none⟩]⟩,
    ⟨0x06C, 32, 0x40, .all, false, .cyc .CYC_PV_STAT, [⟨31, 31, .ro, false, 0, 0, 1, .none⟩, ⟨30, 30, .ro, false, 0, 0, 1, .none⟩, ⟨29, 29, .ro, false, 0, 0, 1, .none⟩, ⟨28, 16, .zero, false, 0, 0, 8191, .none⟩, ⟨15, 0, .ro, false, 0, 0, 65535, .none⟩]⟩,
    ⟨0x070, 32, 0x40, .all, false, .cyc .CYC_PV_OVR, [⟨15, 0, .ctr, false, 0, 0, 65535, .none⟩]⟩,
    ⟨0x074, 32, 0x40, .all, false, .cyc .CYC_PV_REJ, [⟨15, 0, .ctr, false, 0, 0, 65535, .none⟩]⟩ ]

/-- The register table of CYC pages 128 to 175 (11_conservatory_cycle.md). -/
def regsCyc128 : List RegDesc :=
  [ ⟨0x040, 1, 0x4, .pair, false, .cyc .CYC_PR_NEXT, [⟨31, 31, .ro, false, 0, 0, 1, .none⟩, ⟨30, 20, .zero, false, 0, 0, 2047, .none⟩, ⟨19, 16, .ro, false, 0, 0, 15, .none⟩, ⟨15, 10, .zero, false, 0, 0, 63, .none⟩, ⟨9, 0, .ro, false, 0, 0, 1023, .none⟩]⟩,
    ⟨0x044, 1, 0x4, .pair, false, .cyc .CYC_PR_NTICK, [⟨31, 0, .ro, false, 0, 0, 4294967295, .none⟩]⟩,
    ⟨0x048, 1, 0x4, .pair, false, .cyc .CYC_PR_DONE, [⟨19, 16, .wsc, false, 0, 0, 15, .none⟩, ⟨9, 0, .wsc, false, 0, 0, 1023, .none⟩]⟩,
    ⟨0x04C, 1, 0x4, .prv, false, .cyc .CYC_PR_MSI, [⟨31, 31, .rw, false, 0, 0, 1, .none⟩, ⟨7, 0, .rw, false, 1, 1, 255, .none⟩]⟩,
    ⟨0x050, 1, 0x4, .prv, false, .cyc .CYC_PR_CTRL, [⟨0, 0, .wsc, false, 0, 0, 1, .none⟩]⟩,
    ⟨0x054, 1, 0x4, .all, false, .cyc .CYC_PR_STAT, [⟨31, 31, .ro, false, 0, 0, 1, .none⟩, ⟨30, 27, .zero, false, 0, 0, 15, .none⟩, ⟨26, 16, .ro, false, 0, 0, 2047, .none⟩, ⟨15, 11, .zero, false, 0, 0, 31, .none⟩, ⟨10, 0, .ro, false, 0, 0, 2047, .none⟩]⟩ ]

/-- The register table of FTB page 0 (13_footbridge_pair.md). -/
def regsFtb0 : List RegDesc :=
  [ ⟨0x040, 1, 0x4, .prv, false, .ftb .FTB_CFG, [⟨31, 31, .rw, false, 0, 0, 1, .none⟩, ⟨30, 30, .rw, false, 0, 0, 1, .none⟩, ⟨29, 29, .rw, false, 0, 0, 1, .none⟩, ⟨23, 16, .rw, false, 128, 0, 255, .none⟩, ⟨11, 0, .rw, false, 0, 0, 4095, .none⟩]⟩,
    ⟨0x044, 1, 0x4, .prv, false, .ftb .FTB_LOSS, [⟨25, 16, .rw, false, 60, 20, 1000, .none⟩, ⟨9, 0, .rw, false, 60, 20, 1000, .none⟩]⟩,
    ⟨0x048, 1, 0x4, .prv, false, .ftb .FTB_GHB, [⟨31, 28, .rw, false, 3, 1, 15, .none⟩, ⟨9, 0, .rw, false, 20, 10, 1000, .none⟩]⟩,
    ⟨0x04C, 1, 0x4, .prv, false, .ftb .FTB_GUARD, [⟨25, 16, .rw, false, 100, 10, 1000, .none⟩, ⟨8, 0, .rw, false, 20, 15, 500, .none⟩]⟩,
    ⟨0x050, 1, 0x4, .prv, false, .ftb .FTB_REVERT, [⟨31, 31, .rw, false, 1, 0, 1, .none⟩, ⟨11, 0, .rw, false, 30, 1, 3600, .none⟩]⟩,
    ⟨0x054, 1, 0x4, .prv, false, .ftb .FTB_PGHB0, [⟨31, 0, .rw, false, 0, 0, 4294967295, .none⟩]⟩,
    ⟨0x058, 1, 0x4, .prv, false, .ftb .FTB_PGHB1, [⟨31, 16, .rw, false, 0, 0, 65535, .none⟩, ⟨15, 0, .rw, false, 0, 0, 65535, .none⟩]⟩,
    ⟨0x05C, 1, 0x4, .all, false, .ftb .FTB_STAT, [⟨31, 31, .ro, false, 0, 0, 1, .none⟩, ⟨30, 30, .ro, false, 0, 0, 1, .none⟩, ⟨29, 29, .ro, false, 0, 0, 1, .none⟩, ⟨28, 28, .ro, false, 0, 0, 1, .none⟩, ⟨27, 27, .ro, false, 0, 0, 1, .none⟩, ⟨26, 26, .ro, false, 0, 0, 1, .none⟩, ⟨25, 25, .ro, false, 0, 0, 1, .none⟩, ⟨24, 24, .ro, false, 0, 0, 1, .none⟩, ⟨23, 20, .zero, false, 0, 0, 15, .none⟩, ⟨19, 16, .ro, false, 0, 0, 15, .none⟩, ⟨15, 4, .zero, false, 0, 0, 4095, .none⟩, ⟨3, 0, .ro, false, 0, 0, 15, .none⟩]⟩,
    ⟨0x060, 1, 0x4, .all, false, .ftb .FTB_EPOCH, [⟨31, 0, .ro, false, 0, 0, 4294967295, .none⟩]⟩,
    ⟨0x064, 1, 0x4, .all, false, .ftb .FTB_INSTEP, [⟨31, 12, .zero, false, 0, 0, 1048575, .none⟩, ⟨11, 0, .ro, false, 0, 0, 4095, .none⟩]⟩,
    ⟨0x068, 1, 0x4, .all, false, .ftb .FTB_JOINSTAT, [⟨31, 27, .zero, false, 0, 0, 31, .none⟩, ⟨26, 16, .ro, false, 0, 0, 2047, .none⟩, ⟨15, 11, .zero, false, 0, 0, 31, .none⟩, ⟨10, 0, .ro, false, 0, 0, 2047, .none⟩]⟩,
    ⟨0x070, 1, 0x4, .all, false, .ftb .FTB_DIGMIS, [⟨15, 0, .ctr, false, 0, 0, 65535, .none⟩]⟩,
    ⟨0x074, 1, 0x4, .all, false, .ftb .FTB_DIGMISS, [⟨15, 0, .ctr, false, 0, 0, 65535, .none⟩]⟩,
    ⟨0x078, 1, 0x4, .all, false, .ftb .FTB_XFER, [⟨15, 0, .ctr, false, 0, 0, 65535, .none⟩]⟩,
    ⟨0x07C, 1, 0x4, .all, false, .ftb .FTB_MUTED, [⟨31, 0, .ctr, false, 0, 0, 4294967295, .none⟩]⟩,
    ⟨0x080, 1, 0x4, .all, false, .ftb .FTB_SVLATE, [⟨15, 0, .ctr, false, 0, 0, 65535, .none⟩]⟩,
    ⟨0x084, 1, 0x4, .all, false, .ftb .FTB_SVDIFF, [⟨15, 0, .ctr, false, 0, 0, 65535, .none⟩]⟩,
    ⟨0x088, 1, 0x4, .all, false, .ftb .FTB_EVLOST, [⟨15, 0, .ctr, false, 0, 0, 65535, .none⟩]⟩,
    ⟨0x08C, 1, 0x4, .all, false, .ftb .FTB_FOREIGN, [⟨15, 0, .ctr, false, 0, 0, 65535, .none⟩]⟩,
    ⟨0x090, 1, 0x4, .all, false, .ftb .FTB_JRETRY, [⟨15, 0, .ctr, false, 0, 0, 65535, .none⟩]⟩ ]
  ++ [ ⟨0x0C0, 1, 0x4, .prv, true, .ftb .FTB_TOKEN, []⟩,
    ⟨0x100, 1, 0x4, .prv, true, .ftb .FTB_JOIN, []⟩,
    ⟨0x140, 1, 0x4, .all, true, .ftb .FTB_DIG, []⟩ ]

/-- The register table of ORN page 0 (14_orangery_metering.md). -/
def regsOrn0 : List RegDesc :=
  [ ⟨0x040, 1, 0x4, .all, false, .orn .ORN_STAT, [⟨31, 0, .rsh, false, 0, 0, 4294967295, .none⟩]⟩,
    ⟨0x044, 1, 0x4, .all, false, .orn .ORN_MEVT, [⟨31, 0, .rsh, false, 0, 0, 4294967295, .none⟩]⟩,
    ⟨0x048, 1, 0x4, .all, false, .orn .ORN_ERRCNT, [⟨31, 0, .rsh, false, 0, 0, 4294967295, .none⟩]⟩,
    ⟨0x04C, 1, 0x4, .all, false, .orn .ORN_FWVER, [⟨31, 0, .rsh, false, 0, 0, 4294967295, .none⟩]⟩,
    ⟨0x050, 1, 0x4, .all, false, .orn .ORN_LOSSCNT, [⟨31, 0, .rsh, false, 0, 0, 4294967295, .none⟩]⟩,
    ⟨0x080, 1, 0x4, .prv, true, .orn .ORN_REQ, []⟩,
    ⟨0x0C0, 1, 0x4, .all, true, .orn .ORN_RES0, []⟩,
    ⟨0x100, 1, 0x4, .all, true, .orn .ORN_RES1, []⟩ ]

/-- The register table of BLV page 0 (15_belvedere_capture.md). -/
def regsBlv0 : List RegDesc :=
  [ ⟨0x040, 1, 0x4, .prv, false, .blv .BLV_RING_BASE, [⟨17, 0, .rw, false, 0, 0, 262143, .none⟩]⟩,
    ⟨0x044, 1, 0x4, .prv, false, .blv .BLV_RING_SIZE, [⟨8, 0, .rw, false, 0, 0, 256, .none⟩]⟩,
    ⟨0x048, 1, 0x4, .prv, false, .blv .BLV_WBW, [⟨5, 0, .rw, false, 32, 1, 63, .none⟩]⟩,
    ⟨0x04C, 1, 0x4, .all, false, .blv .BLV_STAT, [⟨31, 12, .zero, false, 0, 0, 1048575, .none⟩, ⟨11, 0, .ro, false, 0, 0, 4095, .none⟩]⟩,
    ⟨0x050, 1, 0x4, .all, false, .blv .BLV_RREDUCE, [⟨15, 0, .ctr, false, 0, 0, 65535, .none⟩]⟩,
    ⟨0x054, 1, 0x4, .all, false, .blv .BLV_DROP, [⟨31, 0, .ctr, false, 0, 0, 4294967295, .none⟩]⟩,
    ⟨0x058, 1, 0x4, .all, false, .blv .BLV_MASKSUSP, [⟨31, 0, .ctr, false, 0, 0, 4294967295, .none⟩]⟩,
    ⟨0x05C, 1, 0x4, .all, false, .blv .BLV_EVHOLD, [⟨15, 0, .ctr, false, 0, 0, 65535, .none⟩]⟩,
    ⟨0x080, 1, 0x4, .prv, true, .blv .BLV_SRC, []⟩ ]

/-- The register table of BLV page 1 (15_belvedere_capture.md). -/
def regsBlv1 : List RegDesc :=
  [ ⟨0x040, 64, 0x20, .prv, false, .blv .BLV_TR_CTRL, [⟨31, 31, .wbf, false, 0, 0, 1, .none⟩, ⟨30, 29, .wbf, false, 0, 0, 3, .none⟩, ⟨28, 28, .wbf, false, 0, 0, 1, .none⟩, ⟨27, 27, .wbf, false, 1, 0, 1, .none⟩, ⟨26, 26, .wbf, false, 0, 0, 1, .none⟩, ⟨25, 20, .wbf, false, 4, 1, 63, .none⟩, ⟨19, 19, .ro, false, 0, 0, 1, .none⟩, ⟨9, 0, .wbf, false, 0, 0, 1023, .none⟩]⟩,
    ⟨0x044, 64, 0x20, .prv, false, .blv .BLV_TR_P0, [⟨31, 0, .wbf, false, 0, 0, 4294967295, .none⟩]⟩,
    ⟨0x048, 64, 0x20, .prv, false, .blv .BLV_TR_P1, [⟨31, 0, .wbf, false, 0, 0, 4294967295, .none⟩]⟩,
    ⟨0x04C, 64, 0x20, .prv, false, .blv .BLV_TR_T0, [⟨25, 0, .wbf, false, 1, 1, 60000000, .none⟩]⟩,
    ⟨0x050, 64, 0x20, .prv, false, .blv .BLV_TR_T1, [⟨25, 0, .wbf, false, 1, 1, 60000000, .t1⟩]⟩,
    ⟨0x054, 64, 0x20, .all, false, .blv .BLV_TR_FIRES, [⟨15, 0, .ctr, false, 0, 0, 65535, .none⟩]⟩ ]

/-- The register table of BLV page 2 (15_belvedere_capture.md). -/
def regsBlv2 : List RegDesc :=
  [ ⟨0x040, 16, 0x40, .prv, false, .blv .BLV_CG_CTRL, [⟨31, 31, .wbf, false, 0, 0, 1, .none⟩, ⟨30, 30, .wbf, false, 0, 0, 1, .none⟩, ⟨29, 29, .wbf, false, 0, 0, 1, .none⟩, ⟨28, 28, .wbf, false, 0, 0, 1, .none⟩, ⟨27, 24, .wbf, false, 8, 0, 15, .none⟩, ⟨23, 20, .wbf, false, 0, 0, 15, .none⟩, ⟨15, 10, .wbf, false, 0, 0, 63, .none⟩, ⟨9, 0, .wbf, false, 0, 0, 1023, .first⟩]⟩,
    ⟨0x044, 16, 0x40, .prv, false, .blv .BLV_CG_TRIG0, [⟨31, 0, .wbf, false, 0, 0, 4294967295, .none⟩]⟩,
    ⟨0x048, 16, 0x40, .prv, false, .blv .BLV_CG_TRIG1, [⟨31, 0, .wbf, false, 0, 0, 4294967295, .none⟩]⟩,
    ⟨0x04C, 16, 0x40, .prv, false, .blv .BLV_CG_PRE, [⟨23, 0, .wbf, false, 0, 0, 10000000, .none⟩]⟩,
    ⟨0x050, 16, 0x40, .prv, false, .blv .BLV_CG_POST, [⟨24, 0, .wbf, false, 0, 1, 30000000, .none⟩]⟩,
    ⟨0x054, 16, 0x40, .prv, false, .blv .BLV_CG_RGN, [⟨24, 16, .wbf, false, 0, 0, 256, .none⟩, ⟨7, 0, .wbf, false, 0, 0, 255, .none⟩]⟩,
    ⟨0x058, 16, 0x40, .prv, false, .blv .BLV_CG_EVT, [⟨31, 16, .wbf, false, 0, 0, 65535, .none⟩, ⟨12, 0, .wbf, false, 0, 0, 8191, .none⟩]⟩,
    ⟨0x05C, 16, 0x40, .all, false, .blv .BLV_CG_STAT, [⟨31, 29, .ro, false, 0, 0, 7, .none⟩, ⟨28, 27, .zero, false, 0, 0, 3, .none⟩, ⟨26, 24, .ro, false, 0, 0, 7, .none⟩, ⟨23, 20, .zero, false, 0, 0, 15, .none⟩, ⟨19, 16, .ro, false, 0, 0, 15, .none⟩, ⟨15, 0, .ro, false, 0, 0, 65535, .none⟩]⟩,
    ⟨0x060, 16, 0x40, .prv, false, .blv .BLV_CG_CMD, [⟨31, 31, .wsc, false, 0, 0, 1, .none⟩, ⟨15, 0, .wsc, false, 0, 0, 65535, .none⟩]⟩,
    ⟨0x064, 16, 0x40, .all, false, .blv .BLV_CG_CAPS, [⟨15, 0, .ctr, false, 0, 0, 65535, .none⟩]⟩,
    ⟨0x068, 16, 0x40, .all, false, .blv .BLV_CG_SEQ, [⟨31, 0, .ro, false, 0, 0, 4294967295, .none⟩]⟩ ]

/-- The register table of BLV page 3 (15_belvedere_capture.md). -/
def regsBlv3 : List RegDesc :=
  [ ⟨0x040, 64, 0x10, .prv, false, .blv .BLV_MK_CTRL, [⟨31, 31, .wbf, false, 0, 0, 1, .none⟩, ⟨30, 30, .wbf, false, 0, 0, 1, .none⟩, ⟨27, 16, .wbf, false, 4095, 0, 4095, .none⟩, ⟨15, 12, .wbf, false, 0, 0, 15, .none⟩, ⟨9, 0, .wbf, false, 0, 0, 1023, .none⟩]⟩,
    ⟨0x044, 64, 0x10, .prv, false, .blv .BLV_MK_TBL, [⟨31, 0, .wbf, false, 0, 0, 4294967295, .none⟩]⟩,
    ⟨0x048, 64, 0x10, .all, false, .blv .BLV_MK_VIOL, [⟨31, 0, .ctr, false, 0, 0, 4294967295, .none⟩]⟩ ]

/-- The register table of HRB page 0 (16_herbarium_recorder.md). -/
def regsHrb0 : List RegDesc :=
  [ ⟨0x040, 1, 0x4, .prv, false, .hrb .HRB_CTRL, [⟨31, 31, .rw, false, 0, 0, 1, .none⟩, ⟨19, 16, .rw, false, 2, 1, 8, .none⟩, ⟨15, 0, .rw, false, 1000, 1, 60000, .none⟩]⟩,
    ⟨0x044, 1, 0x4, .all, false, .hrb .HRB_STAT, [⟨31, 31, .ro, false, 0, 0, 1, .none⟩, ⟨30, 30, .ro, false, 0, 0, 1, .none⟩, ⟨29, 29, .ro, false, 0, 0, 1, .none⟩, ⟨28, 23, .zero, false, 0, 0, 63, .none⟩, ⟨22, 16, .ro, false, 0, 0, 127, .none⟩, ⟨15, 0, .zero, false, 0, 0, 65535, .none⟩]⟩,
    ⟨0x048, 1, 0x4, .all, false, .hrb .HRB_WPAGE, [⟨31, 18, .zero, false, 0, 0, 16383, .none⟩, ⟨17, 0, .ro, false, 0, 0, 262143, .none⟩]⟩,
    ⟨0x04C, 1, 0x4, .all, false, .hrb .HRB_OPAGE, [⟨31, 18, .zero, false, 0, 0, 16383, .none⟩, ⟨17, 0, .ro, false, 0, 0, 262143, .none⟩]⟩,
    ⟨0x050, 1, 0x4, .all, false, .hrb .HRB_SEQ, [⟨31, 0, .ro, false, 0, 0, 4294967295, .none⟩]⟩,
    ⟨0x054, 1, 0x4, .all, false, .hrb .HRB_RDADDR, [⟨17, 0, .rw, false, 0, 0, 262143, .none⟩]⟩,
    ⟨0x058, 1, 0x4, .all, false, .hrb .HRB_LOST, [⟨31, 0, .ctr, false, 0, 0, 4294967295, .none⟩]⟩,
    ⟨0x05C, 1, 0x4, .all, false, .hrb .HRB_SCANBAD, [⟨15, 0, .ctr, false, 0, 0, 65535, .none⟩]⟩,
    ⟨0x060, 1, 0x4, .all, false, .hrb .HRB_FLERR, [⟨15, 0, .ctr, false, 0, 0, 65535, .none⟩]⟩,
    ⟨0x064, 1, 0x4, .all, false, .hrb .HRB_RECS, [⟨31, 0, .ctr, false, 0, 0, 4294967295, .none⟩]⟩,
    ⟨0x080, 1, 0x4, .all, true, .hrb .HRB_READ, []⟩,
    ⟨0x0C0, 1, 0x4, .prv, true, .hrb .HRB_SNAP, []⟩,
    ⟨0x100, 1, 0x4, .prv, true, .hrb .HRB_LOG, []⟩ ]

/-- The register table of GTH page 0 (17_gatehouse_keys.md). -/
def regsGth0 : List RegDesc :=
  [ ⟨0x040, 1, 0x4, .all, false, .gth .GTH_LC, [⟨31, 30, .ro, false, 0, 0, 3, .none⟩, ⟨29, 29, .ro, false, 0, 0, 1, .none⟩, ⟨28, 28, .ro, false, 0, 0, 1, .none⟩, ⟨27, 27, .ro, false, 0, 0, 1, .none⟩, ⟨26, 21, .zero, false, 0, 0, 63, .none⟩, ⟨20, 16, .ro, false, 0, 0, 31, .none⟩, ⟨15, 13, .zero, false, 0, 0, 7, .none⟩, ⟨12, 8, .ro, false, 0, 0, 31, .none⟩, ⟨7, 2, .zero, false, 0, 0, 63, .none⟩, ⟨1, 0, .ro, false, 0, 0, 3, .none⟩]⟩,
    ⟨0x044, 1, 0x4, .prv, false, .gth .GTH_CFG, [⟨1, 0, .rw, false, 1, 0, 2, .none⟩]⟩,
    ⟨0x048, 1, 0x4, .prv, false, .gth .GTH_STORE, [⟨15, 0, .rw, false, 0, 0, 65535, .none⟩]⟩,
    ⟨0x04C, 1, 0x4, .all, false, .gth .GTH_SLOTS, [⟨31, 29, .zero, false, 0, 0, 7, .none⟩, ⟨28, 16, .ro, false, 0, 0, 8191, .none⟩, ⟨15, 13, .zero, false, 0, 0, 7, .none⟩, ⟨12, 0, .ro, false, 0, 0, 8191, .none⟩]⟩,
    ⟨0x050, 1, 0x4, .all, false, .gth .GTH_CACHE, [⟨31, 31, .ro, false, 0, 0, 1, .none⟩, ⟨30, 26, .zero, false, 0, 0, 31, .none⟩, ⟨25, 16, .ro, false, 0, 0, 1023, .none⟩, ⟨15, 11, .zero, false, 0, 0, 31, .none⟩, ⟨10, 0, .ro, false, 0, 0, 2047, .none⟩]⟩,
    ⟨0x054, 1, 0x4, .all, false, .gth .GTH_BOOTVER, [⟨31, 7, .zero, false, 0, 0, 33554431, .none⟩, ⟨6, 0, .ro, false, 0, 0, 127, .none⟩]⟩,
    ⟨0x058, 1, 0x4, .all, false, .gth .GTH_DENY, [⟨15, 0, .ctr, false, 0, 0, 65535, .none⟩]⟩,
    ⟨0x05C, 1, 0x4, .all, false, .gth .GTH_ANCREV, [⟨15, 0, .ctr, false, 0, 0, 65535, .none⟩]⟩,
    ⟨0x060, 1, 0x4, .all, false, .gth .GTH_LINEMISS, [⟨31, 0, .ctr, false, 0, 0, 4294967295, .none⟩]⟩,
    ⟨0x064, 1, 0x4, .all, false, .gth .GTH_DBGFAIL, [⟨15, 0, .ctr, false, 0, 0, 65535, .none⟩]⟩,
    ⟨0x080, 1, 0x4, .prv, true, .gth .GTH_KEY, []⟩,
    ⟨0x0C0, 1, 0x4, .dbg, true, .gth .GTH_DBG, []⟩ ]

/-- The register table of GTH page 1 (17_gatehouse_keys.md). -/
def regsGth1 : List RegDesc :=
  [ ⟨0x040, 128, 0x4, .all, false, .gth .GTH_BAD, [⟨31, 0, .ro, false, 0, 0, 4294967295, .none⟩]⟩ ]

/-- The register table of GTH pages 16 to 63 (17_gatehouse_keys.md). -/
def regsGth16 : List RegDesc :=
  [ ⟨0x040, 1, 0x4, .pair, true, .gth .GTH_REQ, []⟩ ]

/-- The register table of MEM page 0 (18_integrity_background.md). -/
def regsMem0 : List RegDesc :=
  [ ⟨0x040, 1, 0x4, .all, false, .mem .MEM_SIZE, [⟨31, 9, .zero, false, 0, 0, 8388607, .none⟩, ⟨8, 0, .ro, false, 0, 0, 511, .none⟩]⟩,
    ⟨0x044, 1, 0x4, .prv, false, .mem .MEM_SCRUB, [⟨31, 31, .rw, false, 1, 0, 1, .none⟩, ⟨7, 0, .rw, false, 240, 15, 240, .none⟩]⟩,
    ⟨0x048, 1, 0x4, .prv, false, .mem .MEM_MARKTHR, [⟨7, 0, .rw, false, 16, 1, 255, .none⟩]⟩,
    ⟨0x04C, 1, 0x4, .all, false, .mem .MEM_PASS, [⟨31, 16, .ro, false, 0, 0, 65535, .none⟩, ⟨15, 0, .ro, false, 0, 0, 65535, .none⟩]⟩,
    ⟨0x050, 1, 0x4, .all, false, .mem .MEM_CE, [⟨31, 0, .ctr, false, 0, 0, 4294967295, .none⟩]⟩,
    ⟨0x054, 1, 0x4, .all, false, .mem .MEM_UE, [⟨15, 0, .ctr, false, 0, 0, 65535, .none⟩]⟩,
    ⟨0x058, 1, 0x4, .all, false, .mem .MEM_SCRUE, [⟨15, 0, .ctr, false, 0, 0, 65535, .none⟩]⟩,
    ⟨0x05C, 1, 0x4, .all, false, .mem .MEM_POISONW, [⟨15, 0, .ctr, false, 0, 0, 65535, .none⟩]⟩,
    ⟨0x060, 1, 0x4, .all, false, .mem .MEM_UEPAGE, [⟨31, 0, .ro, false, 0, 0, 4294967295, .none⟩]⟩,
    ⟨0x064, 1, 0x4, .all, false, .mem .MEM_UEINFO, [⟨31, 31, .ro, false, 0, 0, 1, .none⟩, ⟨30, 30, .ro, false, 0, 0, 1, .none⟩, ⟨29, 22, .zero, false, 0, 0, 255, .none⟩, ⟨21, 16, .ro, false, 0, 0, 63, .none⟩, ⟨15, 0, .ro, false, 0, 0, 65535, .none⟩]⟩,
    ⟨0x068, 1, 0x4, .prv, false, .mem .MEM_MARKSET, [⟨31, 31, .wsc, false, 0, 0, 1, .none⟩, ⟨30, 30, .wsc, false, 0, 0, 1, .none⟩, ⟨12, 8, .wsc, false, 0, 0, 31, .none⟩, ⟨3, 0, .wsc, false, 0, 0, 15, .none⟩]⟩,
    ⟨0x080, 32, 0x4, .all, false, .mem .MEM_MARK, [⟨31, 31, .ro, false, 0, 0, 1, .none⟩, ⟨30, 4, .zero, false, 0, 0, 134217727, .none⟩, ⟨3, 0, .ro, false, 0, 0, 15, .none⟩]⟩ ]

/-- The register table of MEM page 1 (18_integrity_background.md). -/
def regsMem1 : List RegDesc :=
  [ ⟨0x040, 1, 0x4, .all, false, .mem .MEM_OCPASS, [⟨31, 16, .ro, false, 0, 0, 65535, .none⟩, ⟨15, 0, .ro, false, 0, 0, 65535, .none⟩]⟩,
    ⟨0x080, 10, 0x8, .all, false, .mem .MEM_OCCE, [⟨15, 0, .ctr, false, 0, 0, 65535, .none⟩]⟩,
    ⟨0x084, 10, 0x8, .all, false, .mem .MEM_OCUE, [⟨15, 0, .ctr, false, 0, 0, 65535, .none⟩]⟩ ]

/-- The register table of MEM page 2 (18_integrity_background.md). -/
def regsMem2 : List RegDesc :=
  [ ⟨0x040, 1, 0x4, .all, false, .mem .MEM_FSTAT, [⟨31, 22, .zero, false, 0, 0, 1023, .none⟩, ⟨21, 1, .ro, false, 0, 0, 2097151, .none⟩, ⟨0, 0, .zero, false, 0, 0, 1, .none⟩]⟩,
    ⟨0x044, 1, 0x4, .prv, false, .mem .MEM_FEN, [⟨21, 21, .ro, false, 1, 0, 1, .none⟩, ⟨20, 16, .rw, false, 11, 0, 31, .none⟩, ⟨15, 14, .ro, false, 3, 0, 3, .none⟩, ⟨13, 1, .rw, false, 6719, 0, 8191, .none⟩]⟩,
    ⟨0x048, 1, 0x4, .prv, false, .mem .MEM_FXFER, [⟨21, 1, .rw, false, 14911, 0, 2097151, .none⟩]⟩,
    ⟨0x04C, 1, 0x4, .all, false, .mem .MEM_FPIN, [⟨31, 1, .zero, false, 0, 0, 2147483647, .none⟩, ⟨0, 0, .ro, false, 1, 0, 1, .none⟩]⟩,
    ⟨0x084, 21, 0x4, .all, false, .mem .MEM_FCNT, [⟨15, 0, .ctr, false, 0, 0, 65535, .none⟩]⟩ ]

/-- The register table of MEM page 3 (18_integrity_background.md). -/
def regsMem3 : List RegDesc :=
  [ ⟨0x040, 1, 0x4, .prv, false, .mem .MEM_TELE_CTRL, [⟨31, 31, .rw, false, 0, 0, 1, .none⟩, ⟨18, 16, .rw, false, 0, 0, 7, .none⟩, ⟨9, 0, .rw, false, 0, 0, 512, .none⟩]⟩,
    ⟨0x044, 1, 0x4, .prv, false, .mem .MEM_TELE_BASE, [⟨31, 0, .rw, false, 0, 0, 4294967295, .none⟩]⟩,
    ⟨0x048, 1, 0x4, .all, false, .mem .MEM_TELE_SEQ, [⟨31, 0, .ro, false, 0, 0, 4294967295, .none⟩]⟩,
    ⟨0x04C, 1, 0x4, .all, false, .mem .MEM_TELE_SKIP, [⟨15, 0, .ctr, false, 0, 0, 65535, .none⟩]⟩ ]

/-- The register table of GRT page 0 (19_power_boot_pins_test.md). -/
def regsGrt0 : List RegDesc :=
  [ ⟨0x040, 1, 0x4, .all, false, .grt .GRT_STAT, [⟨31, 0, .rsh, false, 2684354560, 0, 4294967295, .none⟩]⟩,
    ⟨0x044, 1, 0x4, .all, false, .grt .GRT_PCYC, [⟨31, 0, .rsh, false, 0, 0, 4294967295, .none⟩]⟩,
    ⟨0x048, 1, 0x4, .all, false, .grt .GRT_TAMPCNT, [⟨31, 16, .zero, false, 0, 0, 65535, .none⟩, ⟨15, 0, .rsh, false, 0, 0, 65535, .none⟩]⟩,
    ⟨0x04C, 1, 0x4, .all, false, .grt .GRT_TAMPEVT, [⟨15, 0, .ctr, false, 0, 0, 65535, .none⟩]⟩,
    ⟨0x080, 1, 0x4, .all, true, .grt .GRT_TIME, []⟩,
    ⟨0x0C0, 1, 0x4, .prv, true, .grt .GRT_CMD, []⟩ ]

/-- The register table of DBG page 0 (19_power_boot_pins_test.md). -/
def regsDbg0 : List RegDesc :=
  [ ⟨0x040, 1, 0x4, .all, false, .dbg .DBG_BOOT_STAT, [⟨31, 28, .ro, false, 0, 0, 15, .none⟩, ⟨27, 25, .zero, false, 0, 0, 7, .none⟩, ⟨24, 24, .ro, false, 0, 0, 1, .none⟩, ⟨23, 16, .zero, false, 0, 0, 255, .none⟩, ⟨15, 8, .ro, false, 0, 0, 255, .none⟩, ⟨7, 0, .ro, false, 0, 0, 255, .none⟩]⟩,
    ⟨0x044, 1, 0x4, .prv, false, .dbg .DBG_BOOT_ENTRY, [⟨31, 0, .rw, false, 0, 0, 4294967295, .none⟩]⟩,
    ⟨0x048, 1, 0x4, .prv, false, .dbg .DBG_BOOT_GO0, [⟨31, 0, .wsc, false, 0, 0, 4294967295, .none⟩]⟩,
    ⟨0x04C, 1, 0x4, .prv, false, .dbg .DBG_BOOT_GO1, [⟨15, 0, .wsc, false, 0, 0, 65535, .none⟩]⟩,
    ⟨0x050, 1, 0x4, .all, false, .dbg .DBG_IDCODE, [⟨31, 0, .ro, false, 2972191925, 0, 4294967295, .none⟩]⟩,
    ⟨0x054, 1, 0x4, .all, false, .dbg .DBG_PORT, [⟨31, 31, .ro, false, 0, 0, 1, .none⟩, ⟨30, 30, .ro, false, 0, 0, 1, .none⟩, ⟨29, 0, .zero, false, 0, 0, 1073741823, .none⟩]⟩,
    ⟨0x058, 1, 0x4, .all, false, .dbg .DBG_TEMP, [⟨31, 0, .rsh, false, 0, 0, 4294967295, .none⟩]⟩ ]

/-- The register table of DBG page 1 (19_power_boot_pins_test.md). -/
def regsDbg1 : List RegDesc :=
  [ ⟨0x040, 1, 0x4, .prv, false, .dbg .DBG_BFL_ADDR, [⟨27, 0, .rw, false, 0, 0, 268435455, .none⟩]⟩,
    ⟨0x044, 1, 0x4, .all, false, .dbg .DBG_BFL_ERR, [⟨15, 0, .ctr, false, 0, 0, 65535, .none⟩]⟩,
    ⟨0x080, 1, 0x4, .prv, true, .dbg .DBG_BFL, []⟩ ]

/-- The register table of DBG page 2 (19_power_boot_pins_test.md). -/
def regsDbg2 : List RegDesc :=
  [ ⟨0x040, 32, 0x4, .prv, false, .dbg .DBG_DIN, [⟨31, 31, .rw, false, 0, 0, 1, .none⟩, ⟨30, 29, .rw, false, 3, 0, 3, .none⟩, ⟨28, 16, .rw, false, 0, 0, 8191, .none⟩, ⟨15, 0, .rw, false, 1, 1, 65535, .none⟩]⟩,
    ⟨0x0C0, 1, 0x4, .all, false, .dbg .DBG_DIN_LVL, [⟨31, 0, .rsh, false, 0, 0, 4294967295, .none⟩]⟩,
    ⟨0x0C4, 1, 0x4, .all, false, .dbg .DBG_DIN_RAW, [⟨31, 0, .rsh, false, 0, 0, 4294967295, .none⟩]⟩,
    ⟨0x0C8, 1, 0x4, .all, false, .dbg .DBG_DOUT_LVL, [⟨31, 0, .rsh, false, 0, 0, 4294967295, .none⟩]⟩,
    ⟨0x0CC, 1, 0x4, .all, false, .dbg .DBG_DOUT_PIN, [⟨31, 0, .rsh, false, 0, 0, 4294967295, .none⟩]⟩,
    ⟨0x0D0, 1, 0x4, .all, false, .dbg .DBG_DIN_EVT, [⟨31, 0, .ctr, false, 0, 0, 4294967295, .none⟩]⟩,
    ⟨0x100, 1, 0x4, .prv, true, .dbg .DBG_DOUT, []⟩ ]

/-- The register table of PAV pages 0 to 1023 (12_pavilions.md). -/
def regsPav0 : List RegDesc :=
  [ ⟨0x040, 1, 0x4, .all, false, .pav .PAV_STAT, [⟨31, 24, .zero, false, 0, 0, 255, .none⟩, ⟨23, 16, .ro, false, 0, 0, 255, .none⟩, ⟨15, 10, .zero, false, 0, 0, 63, .none⟩, ⟨9, 9, .ro, false, 0, 0, 1, .none⟩, ⟨8, 8, .ro, false, 0, 0, 1, .none⟩, ⟨7, 3, .zero, false, 0, 0, 31, .none⟩, ⟨2, 0, .ro, false, 0, 0, 7, .none⟩]⟩,
    ⟨0x044, 1, 0x4, .prv, false, .pav .PAV_CTRL, [⟨19, 16, .rw, false, 0, 0, 15, .none⟩, ⟨12, 12, .rw, false, 0, 0, 1, .none⟩, ⟨7, 0, .rw, false, 2, 1, 255, .none⟩]⟩,
    ⟨0x048, 1, 0x4, .prv, false, .pav .PAV_CMD, [⟨0, 0, .wsc, false, 0, 0, 1, .none⟩]⟩,
    ⟨0x04C, 1, 0x4, .prv, false, .pav .PAV_SHARE, [⟨31, 31, .rw, false, 0, 0, 1, .none⟩, ⟨19, 0, .rw, false, 0, 0, 1048575, .none⟩]⟩,
    ⟨0x050, 1, 0x4, .all, false, .pav .PAV_USED, [⟨31, 20, .zero, false, 0, 0, 4095, .none⟩, ⟨19, 0, .ro, false, 0, 0, 1048575, .none⟩]⟩,
    ⟨0x054, 1, 0x4, .prv, false, .pav .PAV_WDT, [⟨31, 31, .rw, false, 0, 0, 1, .none⟩, ⟨15, 0, .rw, false, 2400, 1, 65535, .none⟩]⟩,
    ⟨0x058, 1, 0x4, .all, false, .pav .PAV_KICK, [⟨0, 0, .wsc, false, 0, 0, 1, .none⟩]⟩,
    ⟨0x05C, 1, 0x4, .all, false, .pav .PAV_QUSE, [⟨31, 16, .ro, false, 0, 0, 65535, .none⟩, ⟨15, 0, .ro, false, 0, 0, 65535, .none⟩]⟩,
    ⟨0x060, 1, 0x4, .all, false, .pav .PAV_ERRINFO, [⟨31, 31, .ro, false, 0, 0, 1, .none⟩, ⟨30, 28, .ro, false, 0, 0, 7, .none⟩, ⟨27, 16, .zero, false, 0, 0, 4095, .none⟩, ⟨15, 0, .ro, false, 0, 0, 65535, .none⟩]⟩,
    ⟨0x064, 1, 0x4, .all, false, .pav .PAV_ERRPAGE, [⟨31, 0, .ro, false, 0, 0, 4294967295, .none⟩]⟩,
    ⟨0x068, 1, 0x4, .all, false, .pav .PAV_OWNED, [⟨31, 30, .zero, false, 0, 0, 3, .none⟩, ⟨29, 16, .ro, false, 0, 0, 16383, .none⟩, ⟨15, 12, .zero, false, 0, 0, 15, .none⟩, ⟨11, 0, .ro, false, 0, 0, 4095, .none⟩]⟩,
    ⟨0x080, 1, 0x4, .all, false, .pav .PAV_EWIN, [⟨15, 0, .ctr, false, 0, 0, 65535, .none⟩]⟩,
    ⟨0x084, 1, 0x4, .all, false, .pav .PAV_ELATCH, [⟨15, 0, .ctr, false, 0, 0, 65535, .none⟩]⟩,
    ⟨0x088, 1, 0x4, .all, false, .pav .PAV_EDESC, [⟨15, 0, .ctr, false, 0, 0, 65535, .none⟩]⟩,
    ⟨0x08C, 1, 0x4, .all, false, .pav .PAV_EWDT, [⟨15, 0, .ctr, false, 0, 0, 65535, .none⟩]⟩,
    ⟨0x090, 1, 0x4, .all, false, .pav .PAV_STALE, [⟨15, 0, .ctr, false, 0, 0, 65535, .none⟩]⟩,
    ⟨0x094, 1, 0x4, .all, false, .pav .PAV_FENCED, [⟨15, 0, .ctr, false, 0, 0, 65535, .none⟩]⟩,
    ⟨0x098, 1, 0x4, .all, false, .pav .PAV_SHAREX, [⟨15, 0, .ctr, false, 0, 0, 65535, .none⟩]⟩,
    ⟨0x09C, 1, 0x4, .all, false, .pav .PAV_POSTREF, [⟨15, 0, .ctr, false, 0, 0, 65535, .none⟩]⟩,
    ⟨0x0A0, 1, 0x4, .all, false, .pav .PAV_RESETS, [⟨15, 0, .ctr, false, 0, 0, 65535, .none⟩]⟩ ]
  ++ [ ⟨0x0C0, 1, 0x4, .all, true, .pav .PAV_POST, []⟩,
    ⟨0x100, 1, 0x4, .prv, true, .pav .PAV_MIG, []⟩,
    ⟨0x140, 8, 0x8, .prv, false, .pav .PAV_WIN_BASE, [⟨31, 0, .rw, false, 0, 0, 4294967295, .none⟩]⟩,
    ⟨0x144, 8, 0x8, .prv, false, .pav .PAV_WIN_SIZE, [⟨31, 31, .rw, false, 0, 0, 1, .none⟩, ⟨30, 30, .rw, false, 0, 0, 1, .none⟩, ⟨29, 29, .rw, false, 0, 0, 1, .none⟩, ⟨25, 0, .rw, false, 0, 0, 67108863, .none⟩]⟩ ]

/-- Every page kind of the register space (R24, R25). -/
def pageKinds : List PageKind :=
  [ ⟨.sys, 0, 0, false, regsSys0⟩,
    ⟨.sys, 1, 1, false, regsSys1⟩,
    ⟨.cru, 0, 0, false, regsCru0⟩,
    ⟨.sdl, 0, 0, false, regsSdl0⟩,
    ⟨.sdl, 1, 1, true, regsSdl1⟩,
    ⟨.sdl, 2, 2, false, regsSdl2⟩,
    ⟨.sdl, 3, 3, true, regsSdl3⟩,
    ⟨.sdl, 4, 4, false, regsSdl4⟩,
    ⟨.mac, 0, 0, true, regsMac0⟩,
    ⟨.mac, 1, 1, false, regsMac1⟩,
    ⟨.mac, 2, 2, true, regsMac2⟩,
    ⟨.mac, 3, 3, false, regsMac3⟩,
    ⟨.trl, 32, 32, true, regsTrl32⟩,
    ⟨.trl, 33, 33, false, regsTrl33⟩,
    ⟨.trl, 0, 0, true, regsTrl0⟩,
    ⟨.trl, 1, 1, false, regsTrl1⟩,
    ⟨.trl, 2, 2, true, regsTrl2⟩,
    ⟨.trl, 3, 3, false, regsTrl3⟩,
    ⟨.trl, 4, 4, false, regsTrl4⟩,
    ⟨.trl, 16, 16, false, regsTrl16⟩,
    ⟨.svi, 0, 0, false, regsSvi0⟩,
    ⟨.svi, 1, 4, true, regsSvi1⟩,
    ⟨.svi, 5, 5, false, regsSvi5⟩,
    ⟨.cas, 0, 0, false, regsCas0⟩,
    ⟨.cas, 1, 1, true, regsCas1⟩,
    ⟨.cas, 2, 2, true, regsCas2⟩,
    ⟨.cas, 64, 127, true, regsCas64⟩ ]
  ++ [ ⟨.ltn, 0, 0, false, regsLtn0⟩,
    ⟨.ltn, 1, 2, true, regsLtn1⟩,
    ⟨.bnd, 0, 0, false, regsBnd0⟩,
    ⟨.bnd, 1, 64, true, regsBnd1⟩,
    ⟨.bnd, 128, 175, false, regsBnd128⟩,
    ⟨.cyc, 0, 0, false, regsCyc0⟩,
    ⟨.cyc, 1, 1, true, regsCyc1⟩,
    ⟨.cyc, 16, 47, true, regsCyc16⟩,
    ⟨.cyc, 128, 175, false, regsCyc128⟩,
    ⟨.ftb, 0, 0, false, regsFtb0⟩,
    ⟨.orn, 0, 0, false, regsOrn0⟩,
    ⟨.blv, 0, 0, false, regsBlv0⟩,
    ⟨.blv, 1, 1, true, regsBlv1⟩,
    ⟨.blv, 2, 2, true, regsBlv2⟩,
    ⟨.blv, 3, 3, true, regsBlv3⟩,
    ⟨.hrb, 0, 0, false, regsHrb0⟩,
    ⟨.gth, 0, 0, false, regsGth0⟩,
    ⟨.gth, 1, 1, false, regsGth1⟩,
    ⟨.gth, 16, 63, false, regsGth16⟩,
    ⟨.mem, 0, 0, false, regsMem0⟩,
    ⟨.mem, 1, 1, false, regsMem1⟩,
    ⟨.mem, 2, 2, false, regsMem2⟩,
    ⟨.mem, 3, 3, false, regsMem3⟩,
    ⟨.grt, 0, 0, false, regsGrt0⟩,
    ⟨.dbg, 0, 0, false, regsDbg0⟩,
    ⟨.dbg, 1, 1, false, regsDbg1⟩,
    ⟨.dbg, 2, 2, false, regsDbg2⟩,
    ⟨.pav, 0, 1023, true, regsPav0⟩ ]

/-! References to the stored fields: for a page or entry that is repeated, `j` counts the pages of the kind (the port for MAC,
the pavilion for PAV) and `i` the copies in the page. -/

namespace Fld

def SYS_DECERR_COUNT : FieldRef := ⟨0x50, 0, 16, 0⟩
def SYS_SCRATCH_V : FieldRef := ⟨0x58, 0, 32, 0⟩
def SYS_TX_AT_TICK (i : Nat) : FieldRef := ⟨0x1048 + i * 0x20, 0, 32, 0⟩
def SYS_TX_FAIL_COUNT : FieldRef := ⟨0x10C0, 0, 16, 0⟩
def CRU_CLKMON_EVT_COUNT : FieldRef := ⟨0x100048, 0, 16, 0⟩
def CRU_WDT_CTRL_EN : FieldRef := ⟨0x10005C, 16, 1, 0⟩
def CRU_WDT_CTRL_TIMEOUT : FieldRef := ⟨0x10005C, 0, 16, 1000⟩
def CRU_XCOVF_GRTE_COUNT : FieldRef := ⟨0x100068, 0, 16, 0⟩
def CRU_XCOVF_TOKEN_COUNT : FieldRef := ⟨0x10006C, 0, 16, 0⟩
def CRU_XCOVF_DOUT_COUNT : FieldRef := ⟨0x100070, 0, 16, 0⟩
def SDL_CTRL_PPS_OUT_EN : FieldRef := ⟨0x200040, 2, 1, 0⟩
def SDL_CTRL_TICK_OUT_EN : FieldRef := ⟨0x200040, 1, 1, 0⟩
def SDL_CTRL_TICK_RUN : FieldRef := ⟨0x200040, 0, 1, 0⟩
def SDL_BASE_RATE_REQ : FieldRef := ⟨0x200044, 0, 2, 1⟩
def SDL_STEP_MAX_NS : FieldRef := ⟨0x200048, 0, 14, 1000⟩
def SDL_PPS_WIDTH_US : FieldRef := ⟨0x200050, 0, 19, 100000⟩
def SDL_TICKOUT_WIDTH : FieldRef := ⟨0x200054, 24, 8, 10⟩
def SDL_TICKOUT_DIV : FieldRef := ⟨0x200054, 0, 16, 1⟩
def SDL_PPSIN_EVT_COUNT : FieldRef := ⟨0x200058, 0, 16, 0⟩
def SDL_STEP_REJ_COUNT : FieldRef := ⟨0x20005C, 0, 16, 0⟩
def SDL_P_CTRL_TCMODE (i : Nat) : FieldRef := ⟨0x201040 + i * 0x40, 0, 2, 0⟩
def SDL_P_LAT_TX_LAT (i : Nat) : FieldRef := ⟨0x201044 + i * 0x40, 16, 16, 0⟩
def SDL_P_LAT_RX_LAT (i : Nat) : FieldRef := ⟨0x201044 + i * 0x40, 0, 16, 0⟩
def SDL_P_LINKDLY_NS (i : Nat) : FieldRef := ⟨0x201048 + i * 0x40, 8, 24, 0⟩
def SDL_P_LINKDLY_FRAC (i : Nat) : FieldRef := ⟨0x201048 + i * 0x40, 0, 8, 0⟩
def SDL_P_LATE_LIMIT (i : Nat) : FieldRef := ⟨0x20104C + i * 0x40, 0, 20, 10000⟩
def SDL_P_TSLOST_COUNT (i : Nat) : FieldRef := ⟨0x201054 + i * 0x40, 0, 16, 0⟩
def SDL_P_LTLATE_COUNT (i : Nat) : FieldRef := ⟨0x201058 + i * 0x40, 0, 16, 0⟩
def SDL_P_LTFAR_COUNT (i : Nat) : FieldRef := ⟨0x20105C + i * 0x40, 0, 16, 0⟩
def SDL_P_CFSAT_COUNT (i : Nat) : FieldRef := ⟨0x201060 + i * 0x40, 0, 16, 0⟩
def SDL_ANG_REF_FNOM : FieldRef := ⟨0x203040, 28, 2, 0⟩
def SDL_ANG_REF_CH : FieldRef := ⟨0x203040, 0, 14, 0⟩
def SDL_ANG_BAND_FMIN : FieldRef := ⟨0x203044, 0, 16, 4000⟩
def SDL_ANG_BAND_FMAX : FieldRef := ⟨0x203044, 16, 16, 7000⟩
def SDL_ANG_AMIN_RMS : FieldRef := ⟨0x203048, 0, 32, 0⟩
def SDL_ANG_TOL_TOL : FieldRef := ⟨0x20304C, 0, 15, 655⟩
def SDL_ANG_CNT_HOLD_MS : FieldRef := ⟨0x203050, 16, 16, 100⟩
def SDL_ANG_CNT_MISSN : FieldRef := ⟨0x203050, 8, 8, 4⟩
def SDL_ANG_CNT_LOCKN : FieldRef := ⟨0x203050, 0, 8, 8⟩
def SDL_ANG_REJ_COUNT : FieldRef := ⟨0x203058, 0, 16, 0⟩
def SDL_ANG_HOLD_COUNT : FieldRef := ⟨0x20305C, 0, 16, 0⟩
def SDL_ANG_LATE_COUNT : FieldRef := ⟨0x203060, 0, 16, 0⟩
def SDL_ANG_ABORT_COUNT : FieldRef := ⟨0x203064, 0, 16, 0⟩
def SDL_ANG_DCOL_COUNT : FieldRef := ⟨0x203068, 0, 16, 0⟩
def SDL_ANG_FRDROP_COUNT : FieldRef := ⟨0x20306C, 0, 16, 0⟩
def MAC_MODE_TXEN (j : Nat) : FieldRef := ⟨0x300040 + j * 0x10000, 9, 1, 1⟩
def MAC_MODE_RXEN (j : Nat) : FieldRef := ⟨0x300040 + j * 0x10000, 8, 1, (portReset .rxen j 1)⟩
def MAC_MODE_AN (j : Nat) : FieldRef := ⟨0x300040 + j * 0x10000, 6, 1, 0⟩
def MAC_MODE_FEC (j : Nat) : FieldRef := ⟨0x300040 + j * 0x10000, 4, 2, 0⟩
def MAC_MODE_PHY (j : Nat) : FieldRef := ⟨0x300040 + j * 0x10000, 0, 3, (portReset .phy j 1)⟩
def MAC_MAXLEN_LEN (j : Nat) : FieldRef := ⟨0x300044 + j * 0x10000, 0, 14, 1522⟩
def MAC_RXF_PAUSE_EN (j : Nat) : FieldRef := ⟨0x300048 + j * 0x10000, 3, 1, (portReset .pause j 0)⟩
def MAC_RXF_ALLMC (j : Nat) : FieldRef := ⟨0x300048 + j * 0x10000, 2, 1, 0⟩
def MAC_RXF_HASH (j : Nat) : FieldRef := ⟨0x300048 + j * 0x10000, 1, 1, 0⟩
def MAC_RXF_BCAST (j : Nat) : FieldRef := ⟨0x300048 + j * 0x10000, 0, 1, 1⟩
def MAC_PCPMAP_DEFPCP (j : Nat) : FieldRef := ⟨0x30004C + j * 0x10000, 24, 3, 0⟩
def MAC_PCPMAP_MAP (j : Nat) : FieldRef := ⟨0x30004C + j * 0x10000, 0, 24, 16434824⟩
def MAC_PAIR_FORGET (j : Nat) : FieldRef := ⟨0x300054 + j * 0x10000, 16, 16, 400⟩
def MAC_PAIR_QUADBOX (j : Nat) : FieldRef := ⟨0x300054 + j * 0x10000, 3, 1, 0⟩
def MAC_PAIR_REDBOX (j : Nat) : FieldRef := ⟨0x300054 + j * 0x10000, 2, 1, 0⟩
def MAC_PAIR_MODE (j : Nat) : FieldRef := ⟨0x300054 + j * 0x10000, 0, 2, 0⟩
def MAC_HASH_BITS (j : Nat) (i : Nat) : FieldRef := ⟨0x301040 + j * 0x10000 + i * 0x4, 0, 32, 0⟩
def MAC_GCLA_GATES (j : Nat) (i : Nat) : FieldRef := ⟨0x302400 + j * 0x10000 + i * 0x4, 24, 8, 255⟩
def MAC_GCLA_INTERVAL (j : Nat) (i : Nat) : FieldRef := ⟨0x302400 + j * 0x10000 + i * 0x4, 0, 24, 1⟩
def MAC_GCLB_GATES (j : Nat) (i : Nat) : FieldRef := ⟨0x302800 + j * 0x10000 + i * 0x4, 24, 8, 255⟩
def MAC_GCLB_INTERVAL (j : Nat) (i : Nat) : FieldRef := ⟨0x302800 + j * 0x10000 + i * 0x4, 0, 24, 1⟩
def MAC_RX_OK_COUNT (j : Nat) : FieldRef := ⟨0x303040 + j * 0x10000, 0, 32, 0⟩
def MAC_RX_RUNT_COUNT (j : Nat) : FieldRef := ⟨0x303044 + j * 0x10000, 0, 32, 0⟩
def MAC_RX_FCS_COUNT (j : Nat) : FieldRef := ⟨0x303048 + j * 0x10000, 0, 32, 0⟩
def MAC_RX_OVERSIZE_COUNT (j : Nat) : FieldRef := ⟨0x30304C + j * 0x10000, 0, 32, 0⟩
def MAC_RX_FILT_COUNT (j : Nat) : FieldRef := ⟨0x303050 + j * 0x10000, 0, 32, 0⟩
def MAC_RX_PAUSE_COUNT (j : Nat) : FieldRef := ⟨0x303054 + j * 0x10000, 0, 32, 0⟩
def MAC_RX_DUP_COUNT (j : Nat) : FieldRef := ⟨0x303058 + j * 0x10000, 0, 32, 0⟩
def MAC_RX_OOW_COUNT (j : Nat) : FieldRef := ⟨0x30305C + j * 0x10000, 0, 32, 0⟩
def MAC_RX_NOSRC_COUNT (j : Nat) : FieldRef := ⟨0x303060 + j * 0x10000, 0, 32, 0⟩
def MAC_RX_ABORT_COUNT (j : Nat) : FieldRef := ⟨0x303064 + j * 0x10000, 0, 32, 0⟩
def MAC_TX_OK_COUNT (j : Nat) : FieldRef := ⟨0x303068 + j * 0x10000, 0, 32, 0⟩
def MAC_TX_LENERR_COUNT (j : Nat) : FieldRef := ⟨0x30306C + j * 0x10000, 0, 32, 0⟩
def MAC_TX_SEG_COUNT (j : Nat) : FieldRef := ⟨0x303070 + j * 0x10000, 0, 32, 0⟩
def MAC_TX_ABORT_COUNT (j : Nat) : FieldRef := ⟨0x303074 + j * 0x10000, 0, 32, 0⟩
def MAC_TX_PAD_COUNT (j : Nat) : FieldRef := ⟨0x303078 + j * 0x10000, 0, 32, 0⟩
def GPB_TABLE_BASE : FieldRef := ⟨0x420040, 12, 20, 0⟩
def GPB_UTC_TQ : FieldRef := ⟨0x420044, 24, 8, 0⟩
def GPB_UTC_OFFSET : FieldRef := ⟨0x420044, 0, 16, 37⟩
def GPB_OWNREJ_COUNT : FieldRef := ⟨0x42004C, 0, 16, 0⟩
def GPB_SIZE_COUNT : FieldRef := ⟨0x420050, 0, 16, 0⟩
def GPB_LATE_COUNT : FieldRef := ⟨0x420054, 0, 16, 0⟩
def GSB_NOMATCH_COUNT : FieldRef := ⟨0x421044, 0, 32, 0⟩
def GSB_FORMAT_COUNT : FieldRef := ⟨0x421048, 0, 32, 0⟩
def GSB_STOPPED_COUNT : FieldRef := ⟨0x42104C, 0, 32, 0⟩
def GSB_SIMREJ_COUNT : FieldRef := ⟨0x421050, 0, 32, 0⟩
def GSB_CONFREV_COUNT : FieldRef := ⟨0x421054, 0, 32, 0⟩
def GSB_AUTHFAIL_COUNT : FieldRef := ⟨0x421058, 0, 32, 0⟩
def GSB_DUP_COUNT : FieldRef := ⟨0x42105C, 0, 32, 0⟩
def GSB_EXPIRE_COUNT : FieldRef := ⟨0x421060, 0, 32, 0⟩
def GSB_BUFERR_COUNT : FieldRef := ⟨0x421064, 0, 32, 0⟩
def GSB_EVHOLD_COUNT : FieldRef := ⟨0x421068, 0, 32, 0⟩
def TRL_CFG_MODE : FieldRef := ⟨0x400040, 0, 1, 1⟩
def TRL_OVF_BASE_BASE : FieldRef := ⟨0x400048, 12, 20, 0⟩
def TRL_OVF_SIZE_MIB : FieldRef := ⟨0x40004C, 0, 11, 0⟩
def TRL_RESEQ_ERR_COUNT : FieldRef := ⟨0x400058, 0, 16, 0⟩
def TRL_ECC_DROP_COUNT : FieldRef := ⟨0x40005C, 0, 16, 0⟩
def TRL_SPILL_LIM_COUNT : FieldRef := ⟨0x400060, 0, 16, 0⟩
def TRL_OVSPD_COUNT : FieldRef := ⟨0x400064, 0, 16, 0⟩
def TRL_FLUSH_COUNT : FieldRef := ⟨0x400068, 0, 16, 0⟩
def TRL_TC_SPILL (i : Nat) : FieldRef := ⟨0x400080 + i * 0x4, 4, 1, 0⟩
def TRL_TC_K (i : Nat) : FieldRef := ⟨0x400080 + i * 0x4, 0, 3, 0⟩
def TRL_AGE_S : FieldRef := ⟨0x401080, 0, 20, 300⟩
def TRL_LEARN_FULL_COUNT : FieldRef := ⟨0x401088, 0, 16, 0⟩
def TRL_P_CTRL_TAGMODE (i : Nat) : FieldRef := ⟨0x402040 + i * 0x10, 16, 2, 0⟩
def TRL_P_CTRL_LEARN (i : Nat) : FieldRef := ⟨0x402040 + i * 0x10, 15, 1, 0⟩
def TRL_P_CTRL_PVID (i : Nat) : FieldRef := ⟨0x402040 + i * 0x10, 0, 12, 1⟩
def TRL_P_UCF_MASK (i : Nat) : FieldRef := ⟨0x402044 + i * 0x10, 0, 20, 196607⟩
def TRL_P_MCF_MASK (i : Nat) : FieldRef := ⟨0x402048 + i * 0x10, 0, 20, 131072⟩
def TRL_MIR_IN_MASK (i : Nat) : FieldRef := ⟨0x403040 + i * 0x10, 0, 20, 0⟩
def TRL_MIR_OUT_MASK (i : Nat) : FieldRef := ⟨0x403044 + i * 0x10, 0, 20, 0⟩
def TRL_MIR_CTRL_TOMX (i : Nat) : FieldRef := ⟨0x403048 + i * 0x10, 4, 1, 0⟩
def TRL_MIR_CTRL_TOBLV (i : Nat) : FieldRef := ⟨0x403048 + i * 0x10, 3, 1, 0⟩
def TRL_MIR_CTRL_TC (i : Nat) : FieldRef := ⟨0x403048 + i * 0x10, 0, 3, 0⟩
def TRL_DROP_COUNT (i : Nat) : FieldRef := ⟨0x404040 + i * 0x4, 0, 32, 0⟩
def TRL_TXR_BASE_ADDR (i : Nat) : FieldRef := ⟨0x410040 + i * 0x10, 0, 32, 0⟩
def TRL_TXR_SIZE_LOG (i : Nat) : FieldRef := ⟨0x410044 + i * 0x10, 0, 4, 4⟩
def TRL_TXR_TAIL_TAIL (i : Nat) : FieldRef := ⟨0x410048 + i * 0x10, 0, 14, 0⟩
def TRL_RXR_BASE_ADDR (i : Nat) : FieldRef := ⟨0x4100C0 + i * 0x10, 0, 32, 0⟩
def TRL_RXR_SIZE_BUFLEN (i : Nat) : FieldRef := ⟨0x4100C4 + i * 0x10, 16, 14, 1536⟩
def TRL_RXR_SIZE_LOG (i : Nat) : FieldRef := ⟨0x4100C4 + i * 0x10, 0, 4, 4⟩
def TRL_RXR_TAIL_TAIL (i : Nat) : FieldRef := ⟨0x4100C8 + i * 0x10, 0, 14, 0⟩
def TRL_RXC_COUNT (i : Nat) : FieldRef := ⟨0x410140 + i * 0x4, 0, 32, 0⟩
def TRL_TXC_COUNT (i : Nat) : FieldRef := ⟨0x410160 + i * 0x4, 0, 32, 0⟩
def TRL_DMA_DERR_COUNT : FieldRef := ⟨0x410180, 0, 16, 0⟩
def TRL_DMA_TRUNC_COUNT : FieldRef := ⟨0x410184, 0, 16, 0⟩
def SVI_NOMATCH_COUNT : FieldRef := ⟨0x500044, 0, 32, 0⟩
def SVI_FORMAT_COUNT : FieldRef := ⟨0x500048, 0, 32, 0⟩
def SVI_OVERSIZE_COUNT : FieldRef := ⟨0x50004C, 0, 32, 0⟩
def SVI_STOPPED_COUNT : FieldRef := ⟨0x500050, 0, 32, 0⟩
def SVI_AUTHFAIL_COUNT : FieldRef := ⟨0x500054, 0, 32, 0⟩
def SVI_CONFREV_COUNT : FieldRef := ⟨0x500058, 0, 32, 0⟩
def SVI_OOW_COUNT : FieldRef := ⟨0x50005C, 0, 32, 0⟩
def SVI_LATE_COUNT : FieldRef := ⟨0x500060, 0, 32, 0⟩
def SVI_DUP_COUNT : FieldRef := ⟨0x500064, 0, 32, 0⟩
def SVI_SUBST_COUNT : FieldRef := ⟨0x500068, 0, 32, 0⟩
def SVI_EVHOLD_COUNT : FieldRef := ⟨0x50006C, 0, 32, 0⟩
def SVI_G_CTRL_EN (j : Nat) (i : Nat) : FieldRef := ⟨0x501040 + j * 0x1000 + i * 0x20, 31, 1, 0⟩
def SVI_G_CTRL_EVEN (j : Nat) (i : Nat) : FieldRef := ⟨0x501040 + j * 0x1000 + i * 0x20, 30, 1, 0⟩
def SVI_G_CTRL_POLICY (j : Nat) (i : Nat) : FieldRef := ⟨0x501040 + j * 0x1000 + i * 0x20, 28, 2, 0⟩
def SVI_G_CTRL_INTMAX (j : Nat) (i : Nat) : FieldRef := ⟨0x501040 + j * 0x1000 + i * 0x20, 24, 4, 2⟩
def SVI_G_CTRL_HOLDMAX (j : Nat) (i : Nat) : FieldRef := ⟨0x501040 + j * 0x1000 + i * 0x20, 16, 8, 4⟩
def SVI_G_CTRL_EVQ (j : Nat) (i : Nat) : FieldRef := ⟨0x501040 + j * 0x1000 + i * 0x20, 0, 13, 0⟩
def SVI_G_HOLD_H (j : Nat) (i : Nat) : FieldRef := ⟨0x501044 + j * 0x1000 + i * 0x20, 0, 11, 200⟩
def SVI_G_WIN_E (j : Nat) (i : Nat) : FieldRef := ⟨0x501048 + j * 0x1000 + i * 0x20, 16, 10, 100⟩
def SVI_G_WIN_L (j : Nat) (i : Nat) : FieldRef := ⟨0x501048 + j * 0x1000 + i * 0x20, 0, 14, 2000⟩
def SVI_G_SUBST_COUNT (j : Nat) (i : Nat) : FieldRef := ⟨0x501050 + j * 0x1000 + i * 0x20, 0, 32, 0⟩
def SVI_G_LATE_COUNT (j : Nat) (i : Nat) : FieldRef := ⟨0x501054 + j * 0x1000 + i * 0x20, 0, 32, 0⟩
def CAS_SYNCPIN_PINEN : FieldRef := ⟨0x600044, 0, 1, 0⟩
def CAS_SYNCMSK_MASK (i : Nat) : FieldRef := ⟨0x600048 + i * 0x4, 0, 32, 0⟩
def CAS_SAT_COUNT : FieldRef := ⟨0x600070, 0, 32, 0⟩
def CAS_CMPERR_COUNT : FieldRef := ⟨0x600074, 0, 16, 0⟩
def CAS_SYNCEVT_COUNT : FieldRef := ⟨0x600078, 0, 16, 0⟩
def CAS_PRF_CHAIN_RATE (i : Nat) : FieldRef := ⟨0x601040 + i * 0x10, 29, 3, 1⟩
def CAS_PRF_CHAIN_LTN (i : Nat) : FieldRef := ⟨0x601040 + i * 0x10, 28, 1, 0⟩
def CAS_PRF_CHAIN_FORM (i : Nat) : FieldRef := ⟨0x601040 + i * 0x10, 27, 1, 0⟩
def CAS_PRF_CHAIN_NSTG (i : Nat) : FieldRef := ⟨0x601040 + i * 0x10, 24, 2, 0⟩
def CAS_PRF_CHAIN_RESP3 (i : Nat) : FieldRef := ⟨0x601040 + i * 0x10, 16, 5, 0⟩
def CAS_PRF_CHAIN_RESP2 (i : Nat) : FieldRef := ⟨0x601040 + i * 0x10, 8, 5, 0⟩
def CAS_PRF_CHAIN_RESP1 (i : Nat) : FieldRef := ⟨0x601040 + i * 0x10, 0, 5, 0⟩
def CAS_PRF_MA_EN (i : Nat) : FieldRef := ⟨0x601044 + i * 0x10, 31, 1, 0⟩
def CAS_PRF_MA_FOL (i : Nat) : FieldRef := ⟨0x601044 + i * 0x10, 30, 1, 0⟩
def CAS_PRF_MA_CYC (i : Nat) : FieldRef := ⟨0x601044 + i * 0x10, 24, 4, 1⟩
def CAS_PRF_MA_LEN (i : Nat) : FieldRef := ⟨0x601044 + i * 0x10, 0, 12, 0⟩
def CAS_G_PHASE_PHASE (i : Nat) : FieldRef := ⟨0x602040 + i * 0x4, 0, 10, 0⟩
def CAS_CH_CTRL_EN (j : Nat) (i : Nat) : FieldRef := ⟨0x640040 + j * 0x1000 + i * 0x8, 31, 1, 0⟩
def CAS_CH_CTRL_PROFILE (j : Nat) (i : Nat) : FieldRef := ⟨0x640040 + j * 0x1000 + i * 0x8, 0, 6, 0⟩
def LTN_SAT_COUNT : FieldRef := ⟨0x700044, 0, 32, 0⟩
def LTN_CMPERR_COUNT : FieldRef := ⟨0x700048, 0, 16, 0⟩
def LTN_FHOLD_COUNT : FieldRef := ⟨0x70004C, 0, 16, 0⟩
def LTN_EVHOLD_COUNT : FieldRef := ⟨0x700050, 0, 16, 0⟩
def LTN_G_CTRL_EN (j : Nat) (i : Nat) : FieldRef := ⟨0x701040 + j * 0x1000 + i * 0x10, 31, 1, 0⟩
def LTN_G_CTRL_EVEN (j : Nat) (i : Nat) : FieldRef := ⟨0x701040 + j * 0x1000 + i * 0x10, 30, 1, 0⟩
def LTN_G_CTRL_CYC (j : Nat) (i : Nat) : FieldRef := ⟨0x701040 + j * 0x1000 + i * 0x10, 29, 1, 0⟩
def LTN_G_CTRL_FNOM (j : Nat) (i : Nat) : FieldRef := ⟨0x701040 + j * 0x1000 + i * 0x10, 28, 1, 0⟩
def LTN_G_CTRL_FMODE (j : Nat) (i : Nat) : FieldRef := ⟨0x701040 + j * 0x1000 + i * 0x10, 27, 1, 0⟩
def LTN_G_CTRL_EVQ (j : Nat) (i : Nat) : FieldRef := ⟨0x701040 + j * 0x1000 + i * 0x10, 0, 13, 0⟩
def LTN_G_FREF_RAVG (j : Nat) (i : Nat) : FieldRef := ⟨0x701044 + j * 0x1000 + i * 0x10, 24, 8, 24⟩
def LTN_G_FREF_FAVG (j : Nat) (i : Nat) : FieldRef := ⟨0x701044 + j * 0x1000 + i * 0x10, 18, 6, 4⟩
def LTN_G_FREF_REF (j : Nat) (i : Nat) : FieldRef := ⟨0x701044 + j * 0x1000 + i * 0x10, 0, 14, 0⟩
def BND_MIGTHR_THR : FieldRef := ⟨0x800040, 0, 2, 1⟩
def BND_OVF_BASE_OFFS : FieldRef := ⟨0x800044, 0, 10, 0⟩
def BND_OVF_SIZE_SIZE : FieldRef := ⟨0x800048, 0, 7, 0⟩
def BND_POSTS_COUNT : FieldRef := ⟨0x800050, 0, 32, 0⟩
def BND_REFUSE_COUNT : FieldRef := ⟨0x800054, 0, 32, 0⟩
def BND_NOQ_COUNT : FieldRef := ⟨0x800058, 0, 16, 0⟩
def BND_LATE_COUNT : FieldRef := ⟨0x80005C, 0, 16, 0⟩
def BND_MIGR_COUNT : FieldRef := ⟨0x800060, 0, 32, 0⟩
def BND_ABANDON_COUNT : FieldRef := ⟨0x800064, 0, 16, 0⟩
def BND_FLUSH_COUNT : FieldRef := ⟨0x800068, 0, 32, 0⟩
def BND_Q_CFG_EN (j : Nat) (i : Nat) : FieldRef := ⟨0x801040 + j * 0x1000 + i * 0x10, 31, 1, 0⟩
def BND_Q_CFG_CLASS (j : Nat) (i : Nat) : FieldRef := ⟨0x801040 + j * 0x1000 + i * 0x10, 29, 2, 0⟩
def BND_Q_CFG_PUB (j : Nat) (i : Nat) : FieldRef := ⟨0x801040 + j * 0x1000 + i * 0x10, 28, 1, 0⟩
def BND_Q_CFG_PRIO (j : Nat) (i : Nat) : FieldRef := ⟨0x801040 + j * 0x1000 + i * 0x10, 24, 4, 8⟩
def BND_Q_CFG_SET (j : Nat) (i : Nat) : FieldRef := ⟨0x801040 + j * 0x1000 + i * 0x10, 16, 6, 0⟩
def BND_Q_CFG_OWNER (j : Nat) (i : Nat) : FieldRef := ⟨0x801040 + j * 0x1000 + i * 0x10, 0, 10, 0⟩
def BND_Q_LIM_DEADLINE (j : Nat) (i : Nat) : FieldRef := ⟨0x801044 + j * 0x1000 + i * 0x10, 16, 16, 0⟩
def BND_Q_LIM_LIMIT (j : Nat) (i : Nat) : FieldRef := ⟨0x801044 + j * 0x1000 + i * 0x10, 0, 16, 256⟩
def BND_TMO_NS (j : Nat) : FieldRef := ⟨0x880048 + j * 0x1000, 0, 16, 1000⟩
def BND_PSETS0_MASK (j : Nat) : FieldRef := ⟨0x88004C + j * 0x1000, 0, 32, 0⟩
def BND_PSETS1_MASK (j : Nat) : FieldRef := ⟨0x880050 + j * 0x1000, 0, 32, 0⟩
def BND_PTAKE_COUNT (j : Nat) : FieldRef := ⟨0x880058 + j * 0x1000, 0, 32, 0⟩
def BND_PEMPTY_COUNT (j : Nat) : FieldRef := ⟨0x88005C + j * 0x1000, 0, 32, 0⟩
def CYC_PS_BASE_GIB : FieldRef := ⟨0x900040, 0, 8, 0⟩
def CYC_FRING_RING : FieldRef := ⟨0x900044, 0, 3, 7⟩
def CYC_CKPT_NSLOT : FieldRef := ⟨0x900048, 24, 8, 16⟩
def CYC_CKPT_EN : FieldRef := ⟨0x900048, 15, 1, 0⟩
def CYC_CKPT_PERIOD : FieldRef := ⟨0x900048, 0, 12, 600⟩
def CYC_CKPT_FL_SIZE : FieldRef := ⟨0x90004C, 16, 16, 0⟩
def CYC_CKPT_FL_BASE : FieldRef := ⟨0x90004C, 0, 16, 0⟩
def CYC_CKPT_BUF_ADDR : FieldRef := ⟨0x900050, 0, 32, 0⟩
def CYC_OVR_COUNT : FieldRef := ⟨0x900058, 0, 32, 0⟩
def CYC_OUTREJ_COUNT : FieldRef := ⟨0x90005C, 0, 32, 0⟩
def CYC_EVSTALE_COUNT : FieldRef := ⟨0x900060, 0, 16, 0⟩
def CYC_CKPTSKIP_COUNT : FieldRef := ⟨0x900064, 0, 16, 0⟩
def CYC_LATERR_COUNT : FieldRef := ⟨0x900068, 0, 16, 0⟩
def CYC_EXDROP_COUNT : FieldRef := ⟨0x90006C, 0, 16, 0⟩
def CYC_CLS_CTRL_EN (i : Nat) : FieldRef := ⟨0x901040 + i * 0x10, 31, 1, 0⟩
def CYC_CLS_CTRL_PRIO (i : Nat) : FieldRef := ⟨0x901040 + i * 0x10, 0, 4, 8⟩
def CYC_CLS_TIME_PERIOD (i : Nat) : FieldRef := ⟨0x901044 + i * 0x10, 0, 16, 4⟩
def CYC_CLS_TIME_PHASE (i : Nat) : FieldRef := ⟨0x901044 + i * 0x10, 16, 16, 0⟩
def CYC_CLS_OVR_COUNT (i : Nat) : FieldRef := ⟨0x90104C + i * 0x10, 0, 32, 0⟩
def CYC_PV_CTRL_EN (j : Nat) (i : Nat) : FieldRef := ⟨0x910040 + j * 0x1000 + i * 0x40, 31, 1, 0⟩
def CYC_PV_CTRL_RETCK (j : Nat) (i : Nat) : FieldRef := ⟨0x910040 + j * 0x1000 + i * 0x40, 30, 1, 0⟩
def CYC_PV_CTRL_HOME (j : Nat) (i : Nat) : FieldRef := ⟨0x910040 + j * 0x1000 + i * 0x40, 24, 6, 0⟩
def CYC_PV_CTRL_WARM (j : Nat) (i : Nat) : FieldRef := ⟨0x910040 + j * 0x1000 + i * 0x40, 20, 1, 0⟩
def CYC_PV_CTRL_RCLS (j : Nat) (i : Nat) : FieldRef := ⟨0x910040 + j * 0x1000 + i * 0x40, 16, 4, 0⟩
def CYC_PV_CTRL_DELAY (j : Nat) (i : Nat) : FieldRef := ⟨0x910040 + j * 0x1000 + i * 0x40, 0, 3, 1⟩
def CYC_PV_IMG_A (j : Nat) (i : Nat) : FieldRef := ⟨0x910044 + j * 0x1000 + i * 0x40, 0, 32, 0⟩
def CYC_PV_IN_A (j : Nat) (i : Nat) : FieldRef := ⟨0x910048 + j * 0x1000 + i * 0x40, 0, 32, 0⟩
def CYC_PV_OUT_A (j : Nat) (i : Nat) : FieldRef := ⟨0x91004C + j * 0x1000 + i * 0x40, 0, 32, 0⟩
def CYC_PV_EVO_A (j : Nat) (i : Nat) : FieldRef := ⟨0x910050 + j * 0x1000 + i * 0x40, 0, 32, 0⟩
def CYC_PV_RET_A (j : Nat) (i : Nat) : FieldRef := ⟨0x910054 + j * 0x1000 + i * 0x40, 0, 32, 0⟩
def CYC_PV_RSH_A (j : Nat) (i : Nat) : FieldRef := ⟨0x910058 + j * 0x1000 + i * 0x40, 0, 32, 0⟩
def CYC_PV_RSZ_N (j : Nat) (i : Nat) : FieldRef := ⟨0x91005C + j * 0x1000 + i * 0x40, 0, 7, 0⟩
def CYC_PV_PTB_B (j : Nat) (i : Nat) : FieldRef := ⟨0x910060 + j * 0x1000 + i * 0x40, 0, 17, 0⟩
def CYC_PV_PTN_N (j : Nat) (i : Nat) : FieldRef := ⟨0x910064 + j * 0x1000 + i * 0x40, 0, 17, 0⟩
def CYC_PV_DOUT_MASK (j : Nat) (i : Nat) : FieldRef := ⟨0x910068 + j * 0x1000 + i * 0x40, 0, 32, 0⟩
def CYC_PV_OVR_COUNT (j : Nat) (i : Nat) : FieldRef := ⟨0x910070 + j * 0x1000 + i * 0x40, 0, 16, 0⟩
def CYC_PV_REJ_COUNT (j : Nat) (i : Nat) : FieldRef := ⟨0x910074 + j * 0x1000 + i * 0x40, 0, 16, 0⟩
def CYC_PR_MSI_EN (j : Nat) : FieldRef := ⟨0x98004C + j * 0x1000, 31, 1, 0⟩
def CYC_PR_MSI_EIID (j : Nat) : FieldRef := ⟨0x98004C + j * 0x1000, 0, 8, 1⟩
def FTB_CFG_PAIR : FieldRef := ⟨0xA00040, 31, 1, 0⟩
def FTB_CFG_PRIMARY : FieldRef := ⟨0xA00040, 30, 1, 0⟩
def FTB_CFG_SIDE : FieldRef := ⟨0xA00040, 29, 1, 0⟩
def FTB_CFG_MUTERING : FieldRef := ⟨0xA00040, 16, 8, 128⟩
def FTB_CFG_GHBSLOT : FieldRef := ⟨0xA00040, 0, 12, 0⟩
def FTB_LOSS_FB_US : FieldRef := ⟨0xA00044, 16, 10, 60⟩
def FTB_LOSS_HB_US : FieldRef := ⟨0xA00044, 0, 10, 60⟩
def FTB_GHB_N : FieldRef := ⟨0xA00048, 28, 4, 3⟩
def FTB_GHB_PER_US : FieldRef := ⟨0xA00048, 0, 10, 20⟩
def FTB_GUARD_DIGWAIT : FieldRef := ⟨0xA0004C, 16, 10, 100⟩
def FTB_GUARD_G : FieldRef := ⟨0xA0004C, 0, 9, 20⟩
def FTB_REVERT_EN : FieldRef := ⟨0xA00050, 31, 1, 1⟩
def FTB_REVERT_S : FieldRef := ⟨0xA00050, 0, 12, 30⟩
def FTB_PGHB0_A : FieldRef := ⟨0xA00054, 0, 32, 0⟩
def FTB_PGHB1_APPID : FieldRef := ⟨0xA00058, 16, 16, 0⟩
def FTB_PGHB1_A : FieldRef := ⟨0xA00058, 0, 16, 0⟩
def FTB_DIGMIS_COUNT : FieldRef := ⟨0xA00070, 0, 16, 0⟩
def FTB_DIGMISS_COUNT : FieldRef := ⟨0xA00074, 0, 16, 0⟩
def FTB_XFER_COUNT : FieldRef := ⟨0xA00078, 0, 16, 0⟩
def FTB_MUTED_COUNT : FieldRef := ⟨0xA0007C, 0, 32, 0⟩
def FTB_SVLATE_COUNT : FieldRef := ⟨0xA00080, 0, 16, 0⟩
def FTB_SVDIFF_COUNT : FieldRef := ⟨0xA00084, 0, 16, 0⟩
def FTB_EVLOST_COUNT : FieldRef := ⟨0xA00088, 0, 16, 0⟩
def FTB_FOREIGN_COUNT : FieldRef := ⟨0xA0008C, 0, 16, 0⟩
def FTB_JRETRY_COUNT : FieldRef := ⟨0xA00090, 0, 16, 0⟩
def BLV_RING_BASE_BASE : FieldRef := ⟨0xC00040, 0, 18, 0⟩
def BLV_RING_SIZE_UNITS : FieldRef := ⟨0xC00044, 0, 9, 0⟩
def BLV_WBW_RATE : FieldRef := ⟨0xC00048, 0, 6, 32⟩
def BLV_RREDUCE_COUNT : FieldRef := ⟨0xC00050, 0, 16, 0⟩
def BLV_DROP_COUNT : FieldRef := ⟨0xC00054, 0, 32, 0⟩
def BLV_MASKSUSP_COUNT : FieldRef := ⟨0xC00058, 0, 32, 0⟩
def BLV_EVHOLD_COUNT : FieldRef := ⟨0xC0005C, 0, 16, 0⟩
def BLV_TR_CTRL_EN (i : Nat) : FieldRef := ⟨0xC01040 + i * 0x20, 31, 1, 0⟩
def BLV_TR_CTRL_KIND (i : Nat) : FieldRef := ⟨0xC01040 + i * 0x20, 29, 2, 0⟩
def BLV_TR_CTRL_POL (i : Nat) : FieldRef := ⟨0xC01040 + i * 0x20, 28, 1, 0⟩
def BLV_TR_CTRL_LEVEL (i : Nat) : FieldRef := ⟨0xC01040 + i * 0x20, 27, 1, 1⟩
def BLV_TR_CTRL_SKIPSUB (i : Nat) : FieldRef := ⟨0xC01040 + i * 0x20, 26, 1, 0⟩
def BLV_TR_CTRL_N (i : Nat) : FieldRef := ⟨0xC01040 + i * 0x20, 20, 6, 4⟩
def BLV_TR_CTRL_SRC (i : Nat) : FieldRef := ⟨0xC01040 + i * 0x20, 0, 10, 0⟩
def BLV_TR_P0_P (i : Nat) : FieldRef := ⟨0xC01044 + i * 0x20, 0, 32, 0⟩
def BLV_TR_P1_P (i : Nat) : FieldRef := ⟨0xC01048 + i * 0x20, 0, 32, 0⟩
def BLV_TR_T0_T (i : Nat) : FieldRef := ⟨0xC0104C + i * 0x20, 0, 26, 1⟩
def BLV_TR_T1_T (i : Nat) : FieldRef := ⟨0xC01050 + i * 0x20, 0, 26, 1⟩
def BLV_TR_FIRES_COUNT (i : Nat) : FieldRef := ⟨0xC01054 + i * 0x20, 0, 16, 0⟩
def BLV_CG_CTRL_EN (i : Nat) : FieldRef := ⟨0xC02040 + i * 0x40, 31, 1, 0⟩
def BLV_CG_CTRL_MODE (i : Nat) : FieldRef := ⟨0xC02040 + i * 0x40, 30, 1, 0⟩
def BLV_CG_CTRL_EXTEND (i : Nat) : FieldRef := ⟨0xC02040 + i * 0x40, 29, 1, 0⟩
def BLV_CG_CTRL_EVEN (i : Nat) : FieldRef := ⟨0xC02040 + i * 0x40, 28, 1, 0⟩
def BLV_CG_CTRL_PRIO (i : Nat) : FieldRef := ⟨0xC02040 + i * 0x40, 24, 4, 8⟩
def BLV_CG_CTRL_NSLOT (i : Nat) : FieldRef := ⟨0xC02040 + i * 0x40, 20, 4, 0⟩
def BLV_CG_CTRL_NSRC (i : Nat) : FieldRef := ⟨0xC02040 + i * 0x40, 10, 6, 0⟩
def BLV_CG_CTRL_FIRST (i : Nat) : FieldRef := ⟨0xC02040 + i * 0x40, 0, 10, 0⟩
def BLV_CG_TRIG0_MASK (i : Nat) : FieldRef := ⟨0xC02044 + i * 0x40, 0, 32, 0⟩
def BLV_CG_TRIG1_MASK (i : Nat) : FieldRef := ⟨0xC02048 + i * 0x40, 0, 32, 0⟩
def BLV_CG_PRE_US (i : Nat) : FieldRef := ⟨0xC0204C + i * 0x40, 0, 24, 0⟩
def BLV_CG_POST_US (i : Nat) : FieldRef := ⟨0xC02050 + i * 0x40, 0, 25, 0⟩
def BLV_CG_RGN_SIZE (i : Nat) : FieldRef := ⟨0xC02054 + i * 0x40, 16, 9, 0⟩
def BLV_CG_RGN_OFF (i : Nat) : FieldRef := ⟨0xC02054 + i * 0x40, 0, 8, 0⟩
def BLV_CG_EVT_COINC (i : Nat) : FieldRef := ⟨0xC02058 + i * 0x40, 16, 16, 0⟩
def BLV_CG_EVT_EVQ (i : Nat) : FieldRef := ⟨0xC02058 + i * 0x40, 0, 13, 0⟩
def BLV_CG_CAPS_COUNT (i : Nat) : FieldRef := ⟨0xC02064 + i * 0x40, 0, 16, 0⟩
def BLV_MK_CTRL_EN (i : Nat) : FieldRef := ⟨0xC03040 + i * 0x10, 31, 1, 0⟩
def BLV_MK_CTRL_STOP (i : Nat) : FieldRef := ⟨0xC03040 + i * 0x10, 30, 1, 0⟩
def BLV_MK_CTRL_NPT (i : Nat) : FieldRef := ⟨0xC03040 + i * 0x10, 16, 12, 4095⟩
def BLV_MK_CTRL_GROUP (i : Nat) : FieldRef := ⟨0xC03040 + i * 0x10, 12, 4, 0⟩
def BLV_MK_CTRL_SRC (i : Nat) : FieldRef := ⟨0xC03040 + i * 0x10, 0, 10, 0⟩
def BLV_MK_TBL_ADDR (i : Nat) : FieldRef := ⟨0xC03044 + i * 0x10, 0, 32, 0⟩
def BLV_MK_VIOL_COUNT (i : Nat) : FieldRef := ⟨0xC03048 + i * 0x10, 0, 32, 0⟩
def HRB_CTRL_FREEZE : FieldRef := ⟨0xD00040, 31, 1, 0⟩
def HRB_CTRL_ERAHEAD : FieldRef := ⟨0xD00040, 16, 4, 2⟩
def HRB_CTRL_REPWIN : FieldRef := ⟨0xD00040, 0, 16, 1000⟩
def HRB_RDADDR_PAGE : FieldRef := ⟨0xD00054, 0, 18, 0⟩
def HRB_LOST_COUNT : FieldRef := ⟨0xD00058, 0, 32, 0⟩
def HRB_SCANBAD_COUNT : FieldRef := ⟨0xD0005C, 0, 16, 0⟩
def HRB_FLERR_COUNT : FieldRef := ⟨0xD00060, 0, 16, 0⟩
def HRB_RECS_COUNT : FieldRef := ⟨0xD00064, 0, 32, 0⟩
def GTH_CFG_TAMPACT : FieldRef := ⟨0xE00044, 0, 2, 1⟩
def GTH_STORE_BASE : FieldRef := ⟨0xE00048, 0, 16, 0⟩
def GTH_DENY_COUNT : FieldRef := ⟨0xE00058, 0, 16, 0⟩
def GTH_ANCREV_COUNT : FieldRef := ⟨0xE0005C, 0, 16, 0⟩
def GTH_LINEMISS_COUNT : FieldRef := ⟨0xE00060, 0, 32, 0⟩
def GTH_DBGFAIL_COUNT : FieldRef := ⟨0xE00064, 0, 16, 0⟩
def MEM_SCRUB_EN : FieldRef := ⟨0xF00044, 31, 1, 1⟩
def MEM_SCRUB_PERIOD : FieldRef := ⟨0xF00044, 0, 8, 240⟩
def MEM_MARKTHR_THR : FieldRef := ⟨0xF00048, 0, 8, 16⟩
def MEM_CE_COUNT : FieldRef := ⟨0xF00050, 0, 32, 0⟩
def MEM_UE_COUNT : FieldRef := ⟨0xF00054, 0, 16, 0⟩
def MEM_SCRUE_COUNT : FieldRef := ⟨0xF00058, 0, 16, 0⟩
def MEM_POISONW_COUNT : FieldRef := ⟨0xF0005C, 0, 16, 0⟩
def MEM_OCCE_COUNT (i : Nat) : FieldRef := ⟨0xF01080 + i * 0x8, 0, 16, 0⟩
def MEM_OCUE_COUNT (i : Nat) : FieldRef := ⟨0xF01084 + i * 0x8, 0, 16, 0⟩
def MEM_FEN_ENH : FieldRef := ⟨0xF02044, 16, 5, 11⟩
def MEM_FEN_ENL : FieldRef := ⟨0xF02044, 1, 13, 6719⟩
def MEM_FXFER_X : FieldRef := ⟨0xF02048, 1, 21, 14911⟩
def MEM_FCNT_COUNT (i : Nat) : FieldRef := ⟨0xF02084 + i * 0x4, 0, 16, 0⟩
def MEM_TELE_CTRL_EN : FieldRef := ⟨0xF03040, 31, 1, 0⟩
def MEM_TELE_CTRL_TC : FieldRef := ⟨0xF03040, 16, 3, 0⟩
def MEM_TELE_CTRL_COUNT : FieldRef := ⟨0xF03040, 0, 10, 0⟩
def MEM_TELE_BASE_ADDR : FieldRef := ⟨0xF03044, 0, 32, 0⟩
def MEM_TELE_SKIP_COUNT : FieldRef := ⟨0xF0304C, 0, 16, 0⟩
def GRT_TAMPEVT_COUNT : FieldRef := ⟨0x100004C, 0, 16, 0⟩
def DBG_BOOT_ENTRY_A : FieldRef := ⟨0x1100044, 0, 32, 0⟩
def DBG_BFL_ADDR_ADDR : FieldRef := ⟨0x1101040, 0, 28, 0⟩
def DBG_BFL_ERR_COUNT : FieldRef := ⟨0x1101044, 0, 16, 0⟩
def DBG_DIN_EN (i : Nat) : FieldRef := ⟨0x1102040 + i * 0x4, 31, 1, 0⟩
def DBG_DIN_EDGE (i : Nat) : FieldRef := ⟨0x1102040 + i * 0x4, 29, 2, 3⟩
def DBG_DIN_QUEUE (i : Nat) : FieldRef := ⟨0x1102040 + i * 0x4, 16, 13, 0⟩
def DBG_DIN_DEB (i : Nat) : FieldRef := ⟨0x1102040 + i * 0x4, 0, 16, 1⟩
def DBG_DIN_EVT_COUNT : FieldRef := ⟨0x11020D0, 0, 32, 0⟩
def PAV_CTRL_ERRACT (j : Nat) : FieldRef := ⟨0x4000044 + j * 0x1000, 16, 4, 0⟩
def PAV_CTRL_RCOLD (j : Nat) : FieldRef := ⟨0x4000044 + j * 0x1000, 12, 1, 0⟩
def PAV_CTRL_EIID (j : Nat) : FieldRef := ⟨0x4000044 + j * 0x1000, 0, 8, 2⟩
def PAV_SHARE_HARD (j : Nat) : FieldRef := ⟨0x400004C + j * 0x1000, 31, 1, 0⟩
def PAV_SHARE_SHARE (j : Nat) : FieldRef := ⟨0x400004C + j * 0x1000, 0, 20, 0⟩
def PAV_WDT_EN (j : Nat) : FieldRef := ⟨0x4000054 + j * 0x1000, 31, 1, 0⟩
def PAV_WDT_TICKS (j : Nat) : FieldRef := ⟨0x4000054 + j * 0x1000, 0, 16, 2400⟩
def PAV_EWIN_COUNT (j : Nat) : FieldRef := ⟨0x4000080 + j * 0x1000, 0, 16, 0⟩
def PAV_ELATCH_COUNT (j : Nat) : FieldRef := ⟨0x4000084 + j * 0x1000, 0, 16, 0⟩
def PAV_EDESC_COUNT (j : Nat) : FieldRef := ⟨0x4000088 + j * 0x1000, 0, 16, 0⟩
def PAV_EWDT_COUNT (j : Nat) : FieldRef := ⟨0x400008C + j * 0x1000, 0, 16, 0⟩
def PAV_STALE_COUNT (j : Nat) : FieldRef := ⟨0x4000090 + j * 0x1000, 0, 16, 0⟩
def PAV_FENCED_COUNT (j : Nat) : FieldRef := ⟨0x4000094 + j * 0x1000, 0, 16, 0⟩
def PAV_SHAREX_COUNT (j : Nat) : FieldRef := ⟨0x4000098 + j * 0x1000, 0, 16, 0⟩
def PAV_POSTREF_COUNT (j : Nat) : FieldRef := ⟨0x400009C + j * 0x1000, 0, 16, 0⟩
def PAV_RESETS_COUNT (j : Nat) : FieldRef := ⟨0x40000A0 + j * 0x1000, 0, 16, 0⟩
def PAV_WIN_BASE_ADDR (j : Nat) (i : Nat) : FieldRef := ⟨0x4000140 + j * 0x1000 + i * 0x8, 0, 32, 0⟩
def PAV_WIN_SIZE_R (j : Nat) (i : Nat) : FieldRef := ⟨0x4000144 + j * 0x1000 + i * 0x8, 31, 1, 0⟩
def PAV_WIN_SIZE_W (j : Nat) (i : Nat) : FieldRef := ⟨0x4000144 + j * 0x1000 + i * 0x8, 30, 1, 0⟩
def PAV_WIN_SIZE_X (j : Nat) (i : Nat) : FieldRef := ⟨0x4000144 + j * 0x1000 + i * 0x8, 29, 1, 0⟩
def PAV_WIN_SIZE_PAGES (j : Nat) (i : Nat) : FieldRef := ⟨0x4000144 + j * 0x1000 + i * 0x8, 0, 26, 0⟩

end Fld

end Sys2Proof.Machine
end

