-- ==== Sys2Proof/Machine/Clock.lean ====
section
/-! DEFINITION. Reading time: PTP time at a raw count, the instants of ticks, and the tick in progress (R3–R5, R114–R116, R658). -/

namespace Sys2Proof.Machine

/-- One nanosecond of PTP time in the units of the model, 2^-32 ns. -/
def nsUnit : Nat := 2 ^ 32

/-- One second of PTP time in the units of the model. -/
def secUnit : Nat := 1000000000 * 2 ^ 32

/-- T(c) = B + (c − c_B) × I, exact to 32 fractional bits (R115). -/
def timeAt (d : Sundial) (c : Nat) : Nat := d.base + (c + 2 ^ 64 - d.rawBase) % 2 ^ 64 * d.inc

/-- Raw count `c` is at or after the raw base `b`, the counter wrapping (R114, R115). -/
def fromBase (b c : Nat) : Bool := decide ((c + 2 ^ 64 - b) % 2 ^ 64 < 2 ^ 63)

/-- T(c) under B, c_B and I, for a count on either side of c_B; 0 before the epoch. -/
def timeUnder (e : Nat × Nat × Nat) (c : Nat) : Nat :=
  if fromBase e.2.1 c then e.1 + (c + 2 ^ 64 - e.2.1) % 2 ^ 64 * e.2.2 else e.1 - (e.2.1 + 2 ^ 64 - c) % 2 ^ 64 * e.2.2

/-- T(c) under the newest of the values that was in force at `c`, the oldest listed standing for what came before it. -/
def timeUnderAny : Nat × Nat × Nat → List (Nat × Nat × Nat) → Nat → Nat
  | e, [], c => timeUnder e c
  | e, e' :: es, c => if fromBase e.2.1 c then timeUnder e c else timeUnderAny e' es c

/-- T at a raw count that has passed: counts before an adjustment are timed by the values before it (R119). -/
def timePast (d : Sundial) (c : Nat) : Nat := timeUnderAny (d.base, d.rawBase, d.inc) d.past c

/-- PTP time now. -/
def timeNow (s : State) : Nat := timeAt s.sdl s.sdl.raw

/-- PTP time now in whole nanoseconds. -/
def nowNs (s : State) : Nat := timeNow s / nsUnit

/-- The 64-bit seconds of a PTP time (R115). -/
def secOf (t : Nat) : Nat := t / secUnit % 2 ^ 64

/-- The nanoseconds within the second of a PTP time (R115). -/
def nsOf (t : Nat) : Nat := t % secUnit / nsUnit

/-- The upper 16 of the fractional bits of a PTP time (R115). -/
def fracOf (t : Nat) : Nat := t % nsUnit / 2 ^ 16

/-- f_B of a RATE code (R152). -/
def rateHz : Nat → Nat
  | 0 => 4000 | 1 => 4800 | 2 => 12800 | _ => 14400

/-- The base rate in force. -/
def baseHz (s : State) : Nat := rateHz s.sdl.rateAct

/-- PTP time `t` is at or after the instant S + n / f (R3, R4). -/
def atOrAfter (t sec n f : Nat) : Bool := decide ((sec * f + n) * secUnit ≤ t * f)

/-- The first PTP time, in the units of the model, at or after the instant S + n / f. -/
def instantOf (sec n f : Nat) : Nat := sec * secUnit + (n * secUnit + f - 1) / f

/-- The rate at which the next edge is numbered: while starting, the rate requested (R125). -/
def nextHz (s : State) : Nat := rateHz (if s.sdl.gen = .starting then s.sdl.startRate else s.sdl.rateAct)

/-- Ticks are being produced, or will be without a further write (R124, R658). -/
def genActive (s : State) : Bool := s.sdl.gen != .stopped

/-- The tick in progress: none while stopped; N_first − 1 while starting (R658). -/
def tickInProgress (s : State) : Option Nat :=
  match s.sdl.gen with
  | .stopped => none
  | .starting => some (s.sdl.next - 1)
  | .running => s.sdl.last

/-- The raw counts from now until T reaches a PTP time, at the increment in force (R115). -/
def countsUntil (s : State) (t : Nat) : Nat :=
  if t ≤ timeNow s then 0 else (t - timeNow s + s.sdl.inc - 1) / s.sdl.inc

/-- The fabric clocks from now until the fabric tick edge of the tick `d` after the next edge, at the least offset that R85
allows (DEDUCED, log 10). -/
def clocksToEdge (s : State) (d : Nat) : Nat :=
  countsUntil s (instantOf s.sdl.nextSec (s.sdl.nextN + d) (nextHz s)) + 34

end Sys2Proof.Machine
end

