-- ==== Sys2Proof/Machine/Trig.lean ====
section
/-! DEFINITION. The numbers behind the filters and the phasors in fixed point: roots, the complex exponential, arguments, and the response of an
FIR at a frequency (R303, R311, R478). An angle is a Nat or Int in 2^-64 of a turn. -/

namespace Sys2Proof.Machine

/-- A value within a bound of the exact one (R317, R503). -/
def within (exact : Int) (bound : Nat) (e : Int) : Int := exact + max (-(bound : Int)) (min (bound : Int) e)

/-- The greatest `r` of `n` bits above `a` with r² ≤ v. -/
def sqrtBits (v : Nat) : Nat → Nat → Nat
  | 0, a => a
  | n + 1, a => sqrtBits v n (if (a + 2 ^ n) * (a + 2 ^ n) ≤ v then a + 2 ^ n else a)

/-- The integer square root of a number below 2^96. -/
def isqrt (v : Nat) : Nat := sqrtBits v 48 0

/-- 2π in 2^-80. -/
def twoPi : Int := 7595904947272677161575987

/-- √2 in 2^-64. -/
def root2 : Int := 26087635650665564425

/-- √3 in 2^-64. -/
def root3 : Int := 31950697969885030203

/-- `n` terms of the series of e^{jx} from term `k` on, of which `t` is that term; x and the sum in 2^-80. -/
def expSeries (x : Int) : Nat → Nat → Int × Int → Int × Int
  | 0, _, _ => (0, 0)
  | n + 1, k, t =>
    let d : Int := (k + 1 : Nat) * 2 ^ 80
    let r := expSeries x n (k + 1) (-(t.2 * x) / d, t.1 * x / d)
    (t.1 + r.1, t.2 + r.2)

/-- Cosine and sine of an angle, in 2^-80. -/
def cosSin (t : Int) : Int × Int := expSeries (t % 2 ^ 64 * twoPi / 2 ^ 64) 60 0 (2 ^ 80, 0)

/-- The argument of a number of the first quadrant in 2^-b turn, `n` bits above `a`. -/
def argBits (re im : Int) (b : Nat) : Nat → Nat → Nat
  | 0, a => a
  | n + 1, a =>
    let c := cosSin ((a + 2 ^ n : Nat) * 2 ^ (64 - b))
    argBits re im b n (if re * c.2 ≤ im * c.1 then a + 2 ^ n else a)

/-- The argument of a number other than 0, to the nearest 2^-b turn. -/
def argOf (b : Nat) (re im : Int) : Nat :=
  let turned : Nat × Int × Int :=
    if 0 < re ∧ 0 ≤ im then (0, re, im) else if re ≤ 0 ∧ 0 < im then (1, im, -re)
    else if re < 0 ∧ im ≤ 0 then (2, -re, -im) else (3, -im, re)
  (turned.1 * 2 ^ (b - 1) + argBits turned.2.1 turned.2.2 (b + 1) (b - 1) 0 + 1) / 2 % 2 ^ b

/-- Σ c_k e^{−jkt} of coefficients with 15 fractional bits, in 2^-64 (R303). -/
def firResponse (cs : List Int) (t : Nat) : Int × Int :=
  let sum := (cs.zip (List.range cs.length)).foldl (fun (a : Int × Int) (e : Int × Nat) =>
    let c := cosSin (-((e.2 * t : Nat) : Int))
    (a.1 + e.1 * c.1, a.2 + e.1 * c.2)) (0, 0)
  (sum.1 / 2 ^ 31, sum.2 / 2 ^ 31)

/-- The square of a response's magnitude, in 2^-128. -/
def firPower (cs : List Int) (t : Nat) : Nat :=
  let h := firResponse cs t
  h.1.natAbs ^ 2 + h.2.natAbs ^ 2

/-- The magnitude of a response, in 2^-64 (R311). -/
def firGain (cs : List Int) (t : Nat) : Nat := sqrtBits (firPower cs t) 80 0

/-- −φ at an angle in 2^-48 turn, unwrapped from 0 along 64 steps (R303). -/
def firLag (cs : List Int) (t : Nat) : Int :=
  ((List.range 64).foldl (fun (a : Int × Nat) i =>
    let h := firResponse cs (t * (i + 1) / 64)
    if h = (0, 0) then a
    else
      let now := argOf 48 h.1 (-h.2)
      (a.1 + toSigned 48 ((now + 2 ^ 48 - a.2) % 2 ^ 48), now)) (0, 0)).1

end Sys2Proof.Machine
end

