-- ==== Sys2Proof/Machine/Flags.lean ====
section
/-! DEFINITION. The status words: for every `ro` register and every `rsh` source the word the hardware shows, and the block bits
of PG_STAT of every page, each computed from the state (R36, R50). -/

namespace Sys2Proof.Machine

/-- A counter is non-zero (R50). -/
def nz (s : State) (f : FieldRef) : Bool := fget s f != 0

/-- Bits from a list of flags, bit 0 first. -/
def flagBits : List Bool → Nat
  | [] => 0
  | b :: bs => b2n b + 2 * flagBits bs

/-! ### SYS (02_parterre_registers.md) -/

/-- A transaction slot. -/
def txSlot (s : State) (n : Nat) : TxSlot := tat s.reg.tx n {}

/-- SYS_TXn_STAT.STATE (R66). -/
def TxPhase.code : TxPhase → Nat
  | .idle => 0 | .opened => 1 | .armed => 2

/-- The `ro` words of the SYS pages. -/
def sysRo (r : SysReg) (i : Nat) (s : State) : Nat :=
  match r with
  | .SYS_PARTID => 0x1280B000
  | .SYS_STROBE_ARMED => s.reg.armed.foldl (fun a e => setBit a e.1) 0
  | .SYS_DECERR_MID => if nz s Fld.SYS_DECERR_COUNT then s.reg.decMid else 0
  | .SYS_TX_STAT =>
    let t := txSlot s i
    t.phase.code * 2 ^ 28 + t.last * 2 ^ 26 + t.err * 2 ^ 20 + t.nstaged
  | .SYS_TX_NCLAIM => (txSlot s i).claims.length
  | .SYS_TX_OWNER => (txSlot s i).owner
  | .SYS_TX_DONE => (txSlot s i).done
  | _ => 0

/-- A page is claimed by an open transaction (R68: OPEN or ARMED). -/
def claimedBy (s : State) (page : Nat) : Option Nat :=
  (List.range 4).find? fun n =>
    (txSlot s n).phase != .idle && (txSlot s n).claims.contains (page / 0x1000)

/-- Registers of a page that hold a pending value (PG_PEND, R59). -/
def pendCount (s : State) (page : Nat) : Nat := ((s.reg.pend.filter fun e => pageBase e.addr == page).map (·.addr)).eraseDups.length

/-! ### CRU (03_clocks_resets_crossings.md) -/

/-- The ports whose function runs: page 0 enabled (R106, R224). -/
def portEnabled (s : State) (m : Nat) : Bool := enabled s (macPage m 0)

/-- A PLL of a powered function is unlocked (R111, DEDUCED, log 11): the six PLLs of the device, and the lane PLL of an enabled
port whose reset is not in progress, while VDD_SDS and VDD_SDS12 are in range. -/
def pllUnlocked (s : State) : Bool :=
  (bits s.cru.pll 7 2 != 0x3F) ||
  (!(bit s.cru.rails 3 || bit s.cru.rails 4) && (List.range 16).any fun m =>
    portEnabled s m && !bit s.cru.portStat m && !bit s.cru.pll (16 + m))

/-- CRU_CLKMON_STAT, a bit of a port that is not enabled reading 0 (R107, R111). -/
def clkmonStat (s : State) : Nat :=
  bits s.cru.mon 8 0 + ((List.range 16).foldl (fun a m => a + bitAt (portEnabled s m && bit s.cru.mon (16 + m)) (16 + m)) 0)

/-- The `ro` words of the CRU page (R111). -/
def cruRo (r : CruReg) (s : State) : Nat :=
  match r with
  | .CRU_PLL_STAT => s.cru.pll
  | .CRU_CLKMON_STAT => clkmonStat s
  | .CRU_RST_CAUSE => s.cru.cause
  | .CRU_PORT_RSTSTAT => s.cru.portStat
  | .CRU_XC_STAT => s.cru.xcReady
  | _ => 0

/-- Block bits of PG_STAT of the CRU page (R111). -/
def cruStat (s : State) : Nat :=
  flagBits [clkmonStat s != 0, nz s Fld.CRU_CLKMON_EVT_COUNT, pllUnlocked s, nz s Fld.CRU_XCOVF_GRTE_COUNT,
    nz s Fld.CRU_XCOVF_TOKEN_COUNT, nz s Fld.CRU_XCOVF_DOUT_COUNT]

/-! ### SDL (04_sundial_time.md, 05_angle_timebase.md) -/

/-- An angle alarm. -/
def alarm (s : State) (k : Nat) : Alarm := tat s.ang.alarms k {}

/-- STATE of SDL_ANG_STAT (R161). -/
def TrackState.code : TrackState → Nat
  | .off => 0 | .acquire => 1 | .locked => 2 | .holdover => 3

/-- STATE of SDL_ALM_STATk (R178). -/
def AlarmState.code : AlarmState → Nat
  | .idle => 0 | .armed => 1 | .fired => 2 | .cancelled => 3 | .aborted => 4

/-- The time-stamp ring of a port. -/
def tsRing (s : State) (m : Nat) : List TsEntry := tat s.sdl.rings m []

/-- The `ro` words and `rsh` sources of the SDL pages. -/
def sdlRo (r : SdlReg) (i : Nat) (s : State) : Nat :=
  match r with
  | .SDL_BASE => s.sdl.rateAct * 2 ^ 16
  | .SDL_TICKN => if s.sdl.gen = .running then 2 ^ 31 + s.sdl.curN else 0
  | .SDL_P_TSCNT => (tsRing s i).length
  | .SDL_ANG_STAT => s.ang.epoch * 2 ^ 24 + s.ang.st.code
  | .SDL_ALM_STAT =>
    let a := alarm s i
    a.owner * 2 ^ 16 + bitAt a.hold 9 + bitAt a.late 8 + a.st.code
  | _ => 0

/-- Block bits of PG_STAT of SDL page `p` (R152, R153, R154, R177, R178). -/
def sdlStat (p : Nat) (s : State) : Nat :=
  match p with
  | 0 => flagBits [s.sdl.gen == .running, s.sdl.adj.isSome, nz s Fld.SDL_PPSIN_EVT_COUNT, nz s Fld.SDL_STEP_REJ_COUNT,
      fget s Fld.SDL_BASE_RATE_REQ != s.sdl.rateAct, s.sdl.gen == .starting]
  | 1 => flagBits ((List.range 16).map fun m => nz s (Fld.SDL_P_TSLOST_COUNT m) || nz s (Fld.SDL_P_LTLATE_COUNT m) ||
      nz s (Fld.SDL_P_LTFAR_COUNT m) || nz s (Fld.SDL_P_CFSAT_COUNT m))
  | 2 => flagBits ((List.range 16).map fun m => !(tsRing s m).isEmpty)
  | 3 => flagBits [s.ang.st == .locked, s.ang.st == .holdover, nz s Fld.SDL_ANG_REJ_COUNT, nz s Fld.SDL_ANG_HOLD_COUNT,
      nz s Fld.SDL_ANG_LATE_COUNT, nz s Fld.SDL_ANG_ABORT_COUNT, nz s Fld.SDL_ANG_DCOL_COUNT, nz s Fld.SDL_ANG_FRDROP_COUNT]
  | 4 => b2n (s.ang.alarms.any fun e => e.2.st == .armed)
  | _ => 0


/-! ### MAC (06_ports_and_macs.md) -/

/-- A port. -/
def portOf (s : State) (m : Nat) : Port := tat s.mac.tbl m {}

/-- A publication slot. -/
def slotGpb (s : State) (k : Nat) : GpbSlot := tat s.mac.goose.slots k {}

/-- The active PHY value of a port (R225). -/
def phyOf (s : State) (m : Nat) : Nat := fget s (Fld.MAC_MODE_PHY m)

/-- RD_PORTm is out of reset and its lane PLL has locked (R99, R111, R224). -/
def portUp (s : State) (m : Nat) : Bool := portEnabled s m && !bit s.cru.portStat m && bit s.cru.pll (16 + m)

/-- PHY_ACT of MAC_LINK: the PHY mode in force, off while the port's domain is in reset (R225; DEDUCED, log 28). -/
def phyAct (s : State) (m : Nat) : Nat := if portUp s m then phyOf s m else 0

/-- Gb/s of a PHY mode (R179). -/
def phyRate : Nat → Nat
  | 1 => 25 | 2 => 10 | 3 => 1 | 4 => 1 | _ => 0

/-- Lower port of the pair of a port that has one (R179, R197). -/
def pairLow (m : Nat) : Option Nat := if m < 12 then some (m / 2 * 2) else none

/-- MODE of a pair in force: NONE while its ports differ in PHY_ACT (R197). -/
def pairMode (s : State) (m : Nat) : Nat :=
  match pairLow m with
  | none => 0
  | some l => if phyAct s l = phyAct s (l + 1) then fget s (Fld.MAC_PAIR_MODE l) else 0

/-- PAIR_MISMATCH (R197). -/
def pairMismatch (s : State) (m : Nat) : Bool :=
  decide (m < 12) && m % 2 == 0 && phyAct s m != phyAct s (m + 1)

/-- The interval and the gates of entry `e` of the operational list of a port (R194). -/
def gclEntry (s : State) (m : Nat) (listB : Bool) (e : Nat) : Nat × Nat :=
  if listB then (fget s (Fld.MAC_GCLB_INTERVAL m e), fget s (Fld.MAC_GCLB_GATES m e))
  else (fget s (Fld.MAC_GCLA_INTERVAL m e), fget s (Fld.MAC_GCLA_GATES m e))

/-- The gate states in force (R196): every gate is open while page 2 is disabled and until the first cycle start after. -/
def gatesNow (s : State) (m : Nat) : Nat :=
  let g := (portOf s m).gcl
  if !enabled s (macPage m 2) || g.start.isNone then 0xFF else (gclEntry s m g.listB g.entry).2

/-- The `ro` words and `rsh` sources of the MAC pages of port `m` (R225, R227). -/
def macRo (r : MacReg) (m _i : Nat) (s : State) : Nat :=
  let p := portOf s m
  match r with
  | .MAC_LINK => bitAt p.paused.isSome 7 + bitAt p.link 4 + phyAct s m
  | .MAC_GCL_STAT => bitAt p.gcl.pend.isSome 31 + bitAt p.gcl.listB 16 + p.gcl.set_.len
  | .MAC_GATES => p.gcl.entry * 2 ^ 8 + gatesNow s m
  | _ => 0

/-- Block bits of PG_STAT of MAC page `p` of port `m` (R225, R226, R227, R228). -/
def macStat (m p : Nat) (s : State) : Nat :=
  match p with
  | 0 => b2n (pairMismatch s m)
  | 2 => b2n (portOf s m).gcl.pend.isSome
  | 3 => flagBits [nz s (Fld.MAC_RX_RUNT_COUNT m), nz s (Fld.MAC_RX_FCS_COUNT m), nz s (Fld.MAC_RX_OVERSIZE_COUNT m),
      nz s (Fld.MAC_RX_OOW_COUNT m), nz s (Fld.MAC_RX_NOSRC_COUNT m), nz s (Fld.MAC_RX_ABORT_COUNT m),
      nz s (Fld.MAC_TX_LENERR_COUNT m), nz s (Fld.MAC_TX_ABORT_COUNT m)]
  | _ => 0

/-! ### TRL (07_trellis_switch.md) -/

/-- The cells of a frame with its FCS (R231). -/
def cellsOf (f : Frame) : Nat := (f.bytes.length + 4 + 63) / 64

/-- The cells of the frames of a queue that are on chip, or that are in DRAM. -/
def cellsIn (dram : Bool) (q : List Frame) : Nat := ((q.filter fun f => f.dram == dram).map cellsOf).sum

/-- The queues that admission fills: the output queues of compact mode, the virtual output queues of full mode (R242). -/
def admQueues (s : State) : Tbl (List Frame) := if s.trl.full then s.trl.voq else s.trl.out

/-- The cells of frames on their way from the inputs to an output queue, or to all of them (R231). -/
def cellsMoving (l : List Moving) : Nat := (l.map fun x => cellsOf x.frame).sum

/-- The frame copies on their way to the queue of output and class `k`, from any input. -/
def movingTo (s : State) (k : Nat) : List Moving := ((s.trl.stage.filter fun e => e.1 % 160 == k).map fun e => e.2).flatten

/-- The cells on chip of the queue that admission fills: in compact mode those on their way to the output belong to it (R242, R244). -/
def cellsOnChip (s : State) (k : Nat) : Nat :=
  cellsIn false (tat (admQueues s) k []) + (if s.trl.full then 0 else cellsMoving (movingTo s k))

/-- TRL_FREE: free cells available to queues (R242, R244). -/
def trlFree (s : State) : Nat :=
  let used := ((admQueues s).map fun e => cellsIn false e.2).sum
  if s.trl.full then 352256 - used else 393216 - (used + (s.trl.stage.map fun e => cellsMoving e.2).sum)

/-- TRL_OVF_FREE: free cells of the overflow region (R245). -/
def ovfFree (s : State) : Nat :=
  fget s Fld.TRL_OVF_SIZE_MIB * 16384 - ((admQueues s).map fun e => cellsIn true e.2).sum

/-- The speed sum in Gb/s (R249). -/
def speedSum (s : State) : Nat := ((List.range 16).map fun m => phyRate (phyOf s m)).sum

/-- A transmit ring. -/
def txRing (s : State) (r : Nat) : Ring := tat s.trl.tx r {}
/-- A receive ring. -/
def rxRing (s : State) (r : Nat) : Ring := tat s.trl.rx r {}

/-- The `ro` words of the TRL pages, the publisher's and the subscriber's among them (R223, R229, R257, R259, R260, R263). -/
def trlRo (r : TrlReg) (i : Nat) (s : State) : Nat :=
  match r with
  | .TRL_STAT => bitAt s.trl.full 31 + speedSum s
  | .TRL_FREE => trlFree s
  | .TRL_OVF_FREE => ovfFree s
  | .TRL_FDB_NUM => s.trl.fdb.length
  | .TRL_P_CTRL => bitAt (bit s.trl.blocked i) 31
  | .TRL_TXR_HEAD => (txRing s i).head
  | .TRL_RXR_HEAD => (rxRing s i).head
  | .TRL_RING_HALT =>
    (List.range 8).foldl (fun a k => a + bitAt (rxRing s k).halt (8 + k) + bitAt (txRing s k).halt k) 0
  | .GPB_NRUN => (s.mac.goose.slots.filter fun e => e.2.running).length
  | .GSB_NSUB => (s.mac.goose.subs.filter fun e => e.2.valid).length
  | _ => 0

/-- Block bits of PG_STAT of TRL page `p`. -/
def trlStat (p : Nat) (s : State) : Nat :=
  match p with
  | 0 => flagBits [s.trl.full, s.trl.blocked != 0, (admQueues s).any (fun e => decide (0 < cellsIn true e.2)),
      nz s Fld.TRL_RESEQ_ERR_COUNT, nz s Fld.TRL_ECC_DROP_COUNT, nz s Fld.TRL_SPILL_LIM_COUNT, nz s Fld.TRL_OVSPD_COUNT,
      nz s Fld.TRL_FLUSH_COUNT]
  | 1 => b2n (nz s Fld.TRL_LEARN_FULL_COUNT)
  | 2 => bits s.trl.blocked 15 0
  | 4 => flagBits ((List.range 20).map fun q => (List.range 8).any fun c => nz s (Fld.TRL_DROP_COUNT (q * 8 + c)))
  | 16 => flagBits (((List.range 8).map fun r => nz s (Fld.TRL_RXC_COUNT r)) ++ ((List.range 8).map fun r => nz s (Fld.TRL_TXC_COUNT r)) ++
      [nz s Fld.TRL_DMA_DERR_COUNT, nz s Fld.TRL_DMA_TRUNC_COUNT] ++ ((List.range 8).map fun r => (txRing s r).halt) ++
      [(List.range 8).any fun r => (rxRing s r).halt])
  | 32 => flagBits [nz s Fld.GPB_OWNREJ_COUNT, nz s Fld.GPB_SIZE_COUNT, nz s Fld.GPB_LATE_COUNT]
  | 33 => flagBits [nz s Fld.GSB_NOMATCH_COUNT, nz s Fld.GSB_FORMAT_COUNT, nz s Fld.GSB_STOPPED_COUNT, nz s Fld.GSB_SIMREJ_COUNT,
      nz s Fld.GSB_CONFREV_COUNT, nz s Fld.GSB_AUTHFAIL_COUNT, nz s Fld.GSB_DUP_COUNT, nz s Fld.GSB_EXPIRE_COUNT,
      nz s Fld.GSB_BUFERR_COUNT, nz s Fld.GSB_EVHOLD_COUNT, s.mac.goose.subs.any fun e => e.2.valid && e.2.st == .expired]
  | _ => 0

/-- The module runs as one of a pair: FTB_CFG.PAIR = 1 and FTB page 0 enabled (R426). -/
def pairOp (s : State) : Bool := fbit s Fld.FTB_CFG_PAIR && enabled s 0xA00000

/-! ### SVI (08_sv_ingest_alignment.md) -/

/-- A stream. -/
def streamOf (s : State) (k : Nat) : Stream := tat s.svi.streams k {}

/-- Word `i` of a stream's descriptor. -/
def Stream.w (x : Stream) (i : Nat) : Nat := x.d.getD i 0

/-- f_s of a RATE code (R293). -/
def svRate : Nat → Nat
  | 0 => 4000 | 1 => 4800 | 2 => 12800 | 3 => 14400 | _ => 96000

/-- f_s of a stream. -/
def Stream.hz (x : Stream) : Nat := svRate (bits (x.w 4) 30 28)
/-- NASDU. -/
def Stream.nasdu (x : Stream) : Nat := bits (x.w 4) 27 24
/-- NCH. -/
def Stream.nch (x : Stream) : Nat := bits (x.w 4) 23 19
/-- AUTH. -/
def Stream.auth (x : Stream) : Bool := bit (x.w 4) 18
/-- GROUP. -/
def Stream.group (x : Stream) : Nat := x.w 4 % 256
/-- CHBASE. -/
def Stream.chbase (x : Stream) : Nat := x.w 5 % 2 ^ 14
/-- KEY0 or KEY1. -/
def Stream.key (x : Stream) (i : Nat) : Nat := if i = 0 then x.w 6 % 4096 else bits (x.w 6) 27 16
/-- EVMODE. -/
def Stream.evmode (x : Stream) : Nat := bits (x.w 9) 31 30
/-- OWNER. -/
def Stream.owner (x : Stream) : Nat := bits (x.w 9) 25 16
/-- EVQ. -/
def Stream.evq (x : Stream) : Nat := x.w 9 % 2 ^ 13

/-- The valid streams by number. -/
def validStreams (s : State) : List (Nat × Stream) := s.svi.streams.filter fun e => e.2.valid

/-- The valid streams of a group. -/
def groupStreams (s : State) (g : Nat) : List (Nat × Stream) := (validStreams s).filter fun e => e.2.group == g

/-- A group is enabled: its EN and its page's (R292). -/
def groupOn (s : State) (g : Nat) : Bool := fbit s (Fld.SVI_G_CTRL_EN (g / 64) (g % 64)) && enabled s (0x501000 + g / 64 * 0x1000)

/-- Valid streams whose OWNER is a pavilion (R425). -/
def ownedStreams (s : State) (p : Nat) : Nat := ((validStreams s).filter fun e => e.2.owner == p).length

/-- The `ro` words of the SVI pages (R293, R294, R295). -/
def sviRo (r : SviReg) (j i : Nat) (s : State) : Nat :=
  match r with
  | .SVI_NSTREAM => ((validStreams s).filter fun e => e.2.hz == 96000).length * 2 ^ 16 + (validStreams s).length
  | .SVI_G_STAT =>
    let g := j * 64 + i
    let ss := groupStreams s g
    ss.length * 2 ^ 16 + bitAt (groupOn s g && !ss.isEmpty) 15 + (ss.filter fun e => e.2.lost).length
  | .SVI_G_LASTREL => tat s.svi.last (j * 64 + i) 0
  | .SVI_LOST => (validStreams s).foldl (fun a e => if e.1 / 32 = i ∧ e.2.lost then setBit a (e.1 % 32) else a) 0
  | _ => 0

/-- Block bits of PG_STAT of SVI page `p` (R293, R294, R295). -/
def sviStat (p : Nat) (s : State) : Nat :=
  if p = 0 then
    flagBits [nz s Fld.SVI_NOMATCH_COUNT, nz s Fld.SVI_FORMAT_COUNT, nz s Fld.SVI_OVERSIZE_COUNT, nz s Fld.SVI_STOPPED_COUNT,
      nz s Fld.SVI_AUTHFAIL_COUNT, nz s Fld.SVI_CONFREV_COUNT, nz s Fld.SVI_OOW_COUNT, nz s Fld.SVI_LATE_COUNT,
      nz s Fld.SVI_DUP_COUNT, nz s Fld.SVI_SUBST_COUNT, nz s Fld.SVI_EVHOLD_COUNT]
  else if p ≤ 4 then
    flagBits [(List.range 64).any (fun i => nz s (Fld.SVI_G_SUBST_COUNT (p - 1) i)),
      (List.range 64).any (fun i => nz s (Fld.SVI_G_LATE_COUNT (p - 1) i)),
      (validStreams s).any fun e => e.2.lost && e.2.group / 64 == p - 1 && groupOn s e.2.group]
  else b2n ((validStreams s).any fun e => e.2.lost)

/-! ### CAS and LTN (09_cascade_lantern.md) -/

/-- D, taps and stop attenuation in dB of a ROM response (R298). -/
def romRow (r : Nat) : Nat × Nat × Nat :=
  ([(3, 24, 60), (3, 36, 70), (3, 48, 80), (3, 48, 80), (4, 32, 60), (4, 48, 70), (4, 64, 80), (4, 64, 90), (4, 24, 50), (4, 40, 70),
    (10, 40, 60), (10, 56, 70), (10, 64, 75), (10, 64, 80)] ++
   [(12, 48, 60), (12, 64, 70), (12, 64, 72), (12, 64, 78), (12, 32, 50), (20, 56, 55), (20, 64, 60), (20, 64, 62), (20, 64, 65),
    (20, 40, 48)]).getD r (1, 1, 0)

/-- D of a response. -/
def romD (r : Nat) : Nat := (romRow r).1
/-- Taps of a response. -/
def romTaps (r : Nat) : Nat := (romRow r).2.1

/-- Pass edge and stop edge of a response in hundredths of the stage's output Nyquist frequency, and the group delay at DC of its minimum-phase
form in tenths of an input sample (R298). -/
def romEdges (r : Nat) : Nat × Nat × Nat :=
  ([(50, 150, 31), (70, 130, 44), (80, 120, 58), (40, 100, 66), (50, 150, 40), (70, 130, 59), (80, 120, 77), (40, 100, 86), (25, 175, 29),
    (60, 100, 54), (50, 150, 49), (70, 130, 68), (80, 120, 79), (40, 100, 89)] ++
   [(50, 150, 59), (70, 130, 78), (80, 120, 81), (40, 100, 90), (25, 175, 38), (50, 150, 69), (60, 140, 76), (70, 130, 79), (40, 100, 93),
    (25, 175, 48)]).getD r (0, 0, 0)

/-- The coefficients of the device's ROM as signed values with 15 fractional bits (R305); the linear-phase form is symmetric. -/
def romCoefs (form r : Nat) : List Int :=
  (List.range (romTaps r)).map fun k => toSigned 16 (Config.coef form r (if form = 0 then min k (romTaps r - 1 - k) else k) % 2 ^ 16)

/-- The frequencies at which a response's properties are checked: 0 to f_in / 2 in steps of f_in / 1024 (log 48). -/
def romGrid : List Nat := List.range 513

/-- The power of a response at each frequency of the grid, in 2^-128. -/
def romPowers (cs : List Int) : List (Nat × Nat) := romGrid.map fun i => (i, firPower cs (i * 2 ^ 54))

/-- A passband ripple of 0.02 dB at most, and the table's attenuation from the stop edge on (R298). -/
def romShape (r : Nat) (ps : List (Nat × Nat)) : Bool :=
  let d := romD r * 200
  let pass : List Nat := (ps.filter fun x => decide (x.1 * d ≤ 1024 * (romEdges r).1)).map fun x => x.2
  let hi : Nat := pass.foldl max 0
  let lo : Nat := pass.foldl min (2 ^ 200)
  decide ((hi ^ (500 : Nat) : Nat) ≤ 10 * lo ^ (500 : Nat)) &&
    ps.all fun x => decide (x.1 * d < 1024 * (romEdges r).2.1) || decide (x.2 ^ 10 * 10 ^ (romRow r).2.2 ≤ 2 ^ 1280)

/-- Magnitudes that differ by 0.01 dB at most (R298). -/
def romAlike (a b : Nat) : Bool := decide (a ^ 1000 ≤ 10 * b ^ 1000) && decide (b ^ 1000 ≤ 10 * a ^ 1000)

/-- What R298 says of the two forms of a response: a gain of exactly 1 at DC, the table's delay at DC of the minimum-phase form, ripple and
attenuation, and that the forms are alike. -/
def romHolds (r : Nat) (lin mini : List Int) : Bool :=
  let lag : Int := ((mini.zip (List.range mini.length)).map fun (c : Int × Nat) => c.1 * c.2).sum
  lin.sum == 2 ^ 15 && mini.sum == 2 ^ 15 && decide ((20 * lag - 2 ^ 16 * (romEdges r).2.2).natAbs ≤ 2 ^ 15) &&
    romShape r (romPowers lin) && romShape r (romPowers mini) &&
    ((romPowers lin).zip (romPowers mini)).all fun x => romAlike x.1.2 x.2.2

/-- Coefficients that stand in where the free ones do not have the properties of R298, with its gain and delays at DC (DESIGN CHOICE, log 48). -/
def plainCoefs (form r : Nat) : List Int :=
  let n := romTaps r
  let k0 := ((romEdges r).2.2 + 5) / 10
  let x : Int := (((romEdges r).2.2 : Int) - 10 * k0) * 2 ^ 15 / 10
  (List.range n).map fun k =>
    if form = 0 then (if k + 1 = n / 2 ∨ k = n / 2 then 2 ^ 14 else 0)
    else if k + 1 = k0 then 2 ^ 13 else if k = k0 then 2 ^ 14 - x else if k = k0 + 1 then 2 ^ 13 + x else 0

/-- The coefficients of a response in a form, which have the properties of R298 at DC in any case (R298, R305). -/
def coefsOf (form r : Nat) : List Int :=
  if romHolds r (romCoefs 0 r) (romCoefs 1 r) then romCoefs form r else plainCoefs form r

/-- A coefficient as a signed value with 15 fractional bits (R305). -/
def coefOf (form r k : Nat) : Int := (coefsOf form r).getD k 0

/-- The chain of a processed channel (R297, R299). -/
structure Chain where
  stream : Stream
  prof : Nat
  resps : List Nat
  form : Nat
  fs : Nat
  /-- M. -/
  m : Nat
  fo : Nat
  tout : Nat
  ltn : Bool
deriving DecidableEq, Repr

/-- The valid stream that holds a channel slot (R267). -/
def slotStream (s : State) (c : Nat) : Option Stream :=
  ((validStreams s).find? fun e => decide (e.2.chbase ≤ c) && decide (c < e.2.chbase + e.2.nch)).map fun e => e.2

/-- The stages of a profile. -/
def profResps (s : State) (p : Nat) : List Nat :=
  [fget s (Fld.CAS_PRF_CHAIN_RESP1 p), fget s (Fld.CAS_PRF_CHAIN_RESP2 p), fget s (Fld.CAS_PRF_CHAIN_RESP3 p)].take
    (fget s (Fld.CAS_PRF_CHAIN_NSTG p))

/-- The chain of a profile on a stream, where it is legal at base rate `f` (R299). -/
def legalChain (s : State) (p : Nat) (x : Stream) (f : Nat) : Option Chain :=
  let rs := profResps s p
  let m := (rs.map romD).foldl (· * ·) 1
  let hz := x.hz
  let ltn := fbit s (Fld.CAS_PRF_CHAIN_LTN p)
  let t := m * f / hz
  if fget s (Fld.CAS_PRF_CHAIN_RATE p) = bits (x.w 4) 30 28 ∧ hz % m = 0 ∧ m * f % hz = 0 ∧ 0 < t ∧ 720 % t = 0 ∧
      (ltn = true → 600 ≤ hz / m ∧ hz / m ≤ 4800) then
    some ⟨x, p, rs, fget s (Fld.CAS_PRF_CHAIN_FORM p), hz, m, hz / m, t, ltn⟩
  else none

/-- PROFILE of a channel slot. -/
def profileOf (s : State) (c : Nat) : Nat := fget s (Fld.CAS_CH_CTRL_PROFILE (c / 256) (c % 256))

/-- The chain of an enabled slot whose stream, group and profile let it be processed (R296). -/
def chainOf (s : State) (c f : Nat) : Option Chain :=
  if !fbit s (Fld.CAS_CH_CTRL_EN (c / 256) (c % 256)) then none
  else match slotStream s c with
    | none => none
    | some x => if groupOn s x.group then legalChain s (profileOf s c) x f else none

/-- A slot is processed (R296, R323). -/
def processed (s : State) (c : Nat) : Option Chain := if enabled s 0x600000 then chainOf s c (baseHz s) else none

/-- The enabled channel slots. -/
def enabledSlots (s : State) : List Nat :=
  (s.reg.fields.filter fun e => decide (0x640000 ≤ e.1 / 32) && decide (e.1 / 32 < 0x680000) && e.1 % 32 == 31 && e.2 == 1).map
    fun e => (e.1 / 32 - 0x640000) / 0x1000 * 256 + (e.1 / 32 % 0x1000 - 0x40) / 8

/-- The form, response and input rate of each stage of a chain. -/
def stagesOf (form : Nat) : Nat → List Nat → List (Nat × Nat × Nat)
  | _, [] => []
  | fin, r :: rs => (form, r, fin) :: stagesOf form (fin / romD r) rs

/-- A frequency in 2^-32 Hz as an angle per sample at a rate in Hz. -/
def turnOf (f rate : Nat) : Nat := f * 2 ^ 32 / rate

/-- τ(f) of a stage in 2^-32 ns: for the linear-phase form half its length, for the other from the argument of its response (R303). -/
def stageDelay (f : Nat) (st : Nat × Nat × Nat) : Nat :=
  if st.1 = 0 then (romTaps st.2.1 - 1) * secUnit / (2 * st.2.2)
  else (firLag (coefsOf st.1 st.2.1) (turnOf f st.2.2) * 2 ^ 16 * 1000000000 / f).toNat

/-- D(f) of a chain in 2^-32 ns (R303). -/
def chainDelay (ch : Chain) (f : Nat) : Nat := ((stagesOf ch.form ch.fs ch.resps).map (stageDelay f)).sum

/-- The gain of a chain at a frequency in 2^-64, the product of those of its stages (R303, R311). -/
def chainGain (ch : Chain) (f : Nat) : Nat :=
  (stagesOf ch.form ch.fs ch.resps).foldl (fun g st => g * firGain (coefsOf st.1 st.2.1) (turnOf f st.2.2) / 2 ^ 64) (2 ^ 64)

/-- FNOM of a group in 2^-32 Hz (R329). -/
def groupFnom (s : State) (g : Nat) : Nat := (if fbit s (Fld.LTN_G_CTRL_FNOM (g / 128) (g % 128)) then 60 else 50) * 2 ^ 32

/-- The Lantern runs for a group (R311, R323). -/
def ltnOn (s : State) (g : Nat) : Bool :=
  enabled s 0x700000 && enabled s (0x701000 + g / 128 * 0x1000) && fbit s (Fld.LTN_G_CTRL_EN (g / 128) (g % 128))

/-- The frequency state of a group. -/
def ltnGroup (s : State) (g : Nat) : LtnGroup := tat s.cas.groups g {}

/-- f_g, or FNOM before the first f_raw (R315). -/
def groupFreq (s : State) (g : Nat) : Nat := (ltnGroup s g).f.getD (groupFnom s g)

/-- The frequency in force: f_g clamped to 40 to 70 Hz (R315). -/
def freqInForce (s : State) (g : Nat) : Nat := clampTo (40 * 2 ^ 32) (70 * 2 ^ 32) (groupFreq s g)

/-- OUTRANGE of a group (R315). -/
def outRange (s : State) (g : Nat) : Bool := ltnOn s g && freqInForce s g != groupFreq s g

/-- ERR of a valid triplet: its channels are in different groups or select different profiles (R316). -/
def tripErr (s : State) (t : Triplet) : Bool :=
  let key (c : Nat) := ((slotStream s c).map (fun x => x.group), profileOf s c)
  t.valid && !(key t.a == key t.b && key t.b == key t.c)

/-- The valid triplets as octets of the configuration digest (R432). -/
def ltnTripBytes (s : State) : List Nat :=
  s.cas.trips.flatMap fun e => if e.2.valid then leBytes 2 e.1 ++ leBytes 2 e.2.a ++ leBytes 2 e.2.b ++ leBytes 2 e.2.c else []

/-- The `ro` words of the CAS pages (R304, R324, R327). -/
def casRo (r : CasReg) (j i : Nat) (s : State) : Nat :=
  match r with
  | .CAS_NCH => ((enabledSlots s).filter fun c => (processed s c).isSome).length
  | .CAS_NERR => ((enabledSlots s).filter fun c => (processed s c).isNone).length
  | .CAS_CH_CTRL =>
    let c := j * 256 + i
    bitAt (fbit s (Fld.CAS_CH_CTRL_EN j i) && (processed s c).isNone) 30
  | .CAS_CH_DLY => match processed s (j * 256 + i) with
    | some ch => (convRound 32 (chainDelay ch (groupFnom s ch.stream.group))).toNat
    | none => 0
  | _ => 0

/-- Block bits of PG_STAT of CAS page `p` (R324–R327). -/
def casStat (p : Nat) (s : State) : Nat :=
  let err (c : Nat) : Bool := (processed s c).isNone
  if p = 0 then
    flagBits [nz s Fld.CAS_SAT_COUNT, nz s Fld.CAS_CMPERR_COUNT, nz s Fld.CAS_SYNCEVT_COUNT, (enabledSlots s).any err, s.cas.romErr]
  else if 64 ≤ p then b2n ((enabledSlots s).any fun c => c / 256 + 64 == p && err c)
  else 0

/-- The `ro` words of the LTN pages (R328, R329); SETTLE and FMHZ of a group for which the Lantern does not run read 0 (log 48). -/
def ltnRo (r : LtnReg) (j i : Nat) (s : State) : Nat :=
  match r with
  | .LTN_NTRIP => (s.cas.trips.filter fun e => e.2.valid).length
  | .LTN_G_STAT =>
    let g := j * 128 + i
    if ltnOn s g then
      bitAt (outRange s g) 31 + bitAt (ltnGroup s g).settle 30 + (convRound 32 (freqInForce s g * 1000)).toNat
    else 0
  | _ => 0

/-- Block bits of PG_STAT of LTN page `p` (R328, R329). -/
def ltnStat (p : Nat) (s : State) : Nat :=
  if p = 0 then
    flagBits [nz s Fld.LTN_SAT_COUNT, nz s Fld.LTN_CMPERR_COUNT, nz s Fld.LTN_FHOLD_COUNT, nz s Fld.LTN_EVHOLD_COUNT,
      s.cas.trips.any fun e => tripErr s e.2]
  else b2n ((List.range 128).any fun i => outRange s ((p - 1) * 128 + i))
/-! ### BND (10_bandstand_dispatch.md) -/

/-- The events of a queue. -/
def queueOf (s : State) (q : Nat) : List QEv := tat s.bnd.queues q []

/-- The slot of a pair. -/
def slotOf (s : State) (k : Nat) : List QEv := tat s.bnd.slots k []

/-- The taken event of a pair. -/
def takenOf (s : State) (k : Nat) : Option QEv := tget s.bnd.taken k

/-- The backlog of a pair, 0 to 3 (R342). -/
def backlog (s : State) (k : Nat) : Nat := (slotOf s k).length + b2n (takenOf s k).isSome

/-- Entries of the pool: 16,384 internal and the overflow region's (R334). -/
def poolSize (s : State) : Nat := 16384 + fget s Fld.BND_OVF_SIZE_SIZE * 2048

/-- Entries in use: queued events and slot entries (R334). -/
def poolUsed (s : State) : Nat :=
  (s.bnd.queues.map fun e => e.2.length).sum + (s.bnd.slots.map fun e => e.2.length).sum

/-- BND_FREE (R334, R350). -/
def poolFree (s : State) : Nat := poolSize s - poolUsed s

/-- Every outstanding event: in a slot or taken (R339). -/
def outstanding (s : State) : List QEv := s.bnd.slots.flatMap (fun e => e.2) ++ s.bnd.taken.map (fun e => e.2)

/-- An event held back by an outstanding event of its flow or its ATOMIC owner (R339). -/
def heldBack (s : State) (e : QEv) : Bool :=
  match e.cls with
  | 1 => (outstanding s).any fun o => o.cls == 1 && o.ev.queue == e.ev.queue && o.ev.flow == e.ev.flow
  | 2 => (outstanding s).any fun o => o.cls == 2 && o.owner == e.owner
  | _ => false

/-- The events of a queue that may enter a slot: the head, or in a FLOW queue the first of each flow among the first 64 (R340). -/
def candidates (evs : List QEv) : List QEv :=
  match evs with
  | [] => []
  | h :: _ =>
    if h.cls = 1 then
      ((evs.take 64).takeWhile fun e => e.cls == 1).foldl
        (fun acc e => if acc.any fun a => a.ev.flow == e.ev.flow then acc else acc ++ [e]) []
    else [h]

/-- BND_Qq_STAT.BLOCKED (R340). -/
def queueBlocked (s : State) (q : Nat) : Bool :=
  let c := candidates (queueOf s q)
  !c.isEmpty && c.all (heldBack s)

/-- LIMIT of queue `q` (R337). -/
def qLimit (s : State) (q : Nat) : Nat := fget s (Fld.BND_Q_LIM_LIMIT (q / 128) (q % 128))

/-- The `ro` words of the BND pages; BND_TAKE acts in the read itself (R343). -/
def bndRo (r : BndReg) (j i : Nat) (s : State) : Nat :=
  match r with
  | .BND_FREE => poolFree s
  | .BND_Q_STAT => let q := j * 128 + i; bitAt (queueBlocked s q) 31 + (queueOf s q).length
  | .BND_PSTAT => (slotOf s j).length * 2 ^ 16 + bitAt (takenOf s j).isSome 8 + backlog s j
  | .BND_EV => ((tat s.bnd.words j []).getD i 0).toNat
  | _ => 0

/-- Block bits of PG_STAT of BND page `p` (R350, R352, R353). -/
def bndStat (p : Nat) (s : State) : Nat :=
  if p = 0 then
    flagBits [nz s Fld.BND_REFUSE_COUNT, nz s Fld.BND_NOQ_COUNT, nz s Fld.BND_LATE_COUNT, nz s Fld.BND_MIGR_COUNT,
      nz s Fld.BND_ABANDON_COUNT, nz s Fld.BND_FLUSH_COUNT, poolFree s == 0]
  else if p ≤ 64 then
    b2n (s.bnd.queues.any fun e => e.1 / 128 == p - 1 && decide (qLimit s e.1 ≤ e.2.length))
  else if 128 ≤ p then b2n (nz s (Fld.BND_PEMPTY_COUNT (p - 128))) else 0


/-! ### FTB (13_footbridge_pair.md) -/

/-- STATE of FTB_STAT: ALONE without pair operation, OFF while page 0 is disabled with PAIR = 1 (R445, R463; log 42). -/
def ftbState (s : State) : Nat :=
  if !fbit s Fld.FTB_CFG_PAIR then 1 else if !enabled s 0xA00000 then 0 else s.ftb.st

/-- The module holds the token and drives its outputs (R431, R445, R446). -/
def tokenHeld (s : State) : Bool := !s.cru.inReset && (ftbState s == 1 && !fbit s Fld.FTB_CFG_PAIR || (pairOp s && s.ftb.holder))

/-- The module mutes its outputs (R446, R458). -/
def muting (s : State) : Bool := !tokenHeld s

/-- The outputs are frozen (R448). -/
def frozen (s : State) : Bool := pairOp s && s.ftb.frozen.isSome

/-- The octets that the configuration digest is taken over (R432): the settings that differ from reset, in ascending address order,
then descriptors, triplets, images and forces. -/
def inStepPages : List (Nat × Nat) :=
  [(0x203000, 0x204000), (0x501000, 0x505000), (0x601000, 0x603000), (0x640000, 0x680000), (0x701000, 0x703000), (0x801000, 0x841000),
   (0x901000, 0x902000)]

/-- A message was received on a link within FB_US. -/
def linkUp (s : State) (l : Option Nat) : Bool :=
  match l with
  | some t => decide (s.sdl.fab < t + fget s Fld.FTB_LOSS_FB_US * 1000)
  | none => false

/-- A field by its key belongs to the in-step configuration (R432). -/
def inStepKey (k : Nat) : Bool :=
  let a := k / 32
  (inStepPages.any fun p => decide (p.1 ≤ a) && decide (a < p.2) && decide (0x40 ≤ a % 0x1000)) ||
  (decide (0x910000 ≤ a) && decide (a < 0x930000) && decide (0x40 ≤ a % 0x1000) &&
    !((List.range 1024).any fun p => k == fkey (Fld.CYC_PV_CTRL_HOME (p / 32) (p % 32)))) ||
  k == fkey Fld.SDL_BASE_RATE_REQ || a == Fld.FTB_GUARD_G.addr || k == fkey Fld.FTB_CFG_PAIR

/-- The fields of the in-step configuration (R432). -/
def inStepFields (s : State) : List (Nat × Nat) := s.reg.fields.filter fun e => inStepKey e.1

/-- A register has a field in the in-step configuration. -/
def inStepAddr (a : Nat) : Bool := (List.range 32).any fun b => inStepKey (32 * a + b)

/-- The first 16 octets of the SHA-256 of a message, as a big-endian number (R432, R441). -/
def sha16 (bs : List Nat) : Nat := Config.sha256 bs % 2 ^ 256 / 2 ^ 128

/-- A digest of 16 octets as four little-endian words. -/
def digestWords (v : Nat) : List Nat := (wordsOfBytes 4 (leBytes 16 v).reverse).map (·.toNat)

/-- CFGDIG (R432), with the function of FIPS 180-4 opaque (log 36). -/
def cfgDigest (s : State) : Nat :=
  sha16 ((inStepFields s).flatMap (fun e => leBytes 8 e.1 ++ leBytes 8 e.2) ++
    (validStreams s).flatMap (fun e => leBytes 2 e.1 ++ e.2.d.flatMap (leBytes 4)) ++ ltnTripBytes s ++
    s.cyc.progs.flatMap (fun e => if e.2.enabled then leBytes 2 e.1 ++ leBytes 8 e.2.imageId ++ leBytes 4 e.2.check else []) ++
    s.cyc.forces.flatMap (fun f => leBytes 2 f.pav ++ leBytes 8 f.sym ++ leBytes 8 f.value ++ leBytes 4 f.quality))

/-- CFGMIS (R432). -/
def cfgMis (s : State) : Bool := match s.ftb.pcfg with | some d => d != cfgDigest s | none => false

/-- The `ro` words of the FTB page (R464). -/
def ftbRo (r : FtbReg) (s : State) : Nat :=
  match r with
  | .FTB_STAT => bitAt (tokenHeld s) 31 + bitAt (frozen s) 30 + bitAt s.ftb.fbLost 29 + bitAt s.ftb.hbLost 28 + bitAt s.ftb.ghbLost 27 +
      bitAt (linkUp s s.ftb.link1) 26 + bitAt (linkUp s s.ftb.link0) 25 + bitAt (cfgMis s) 24 + s.ftb.pstate * 2 ^ 16 + ftbState s
  | .FTB_EPOCH => s.ftb.epoch
  | .FTB_INSTEP => s.ftb.steps
  | .FTB_JOINSTAT => match s.ftb.join with
    | some j => j.joined.length * 2 ^ 16 + (j.todo.length + j.waiting.length)
    | none => 0
  | _ => 0

/-- Block bits of PG_STAT of the FTB page (R464). -/
def ftbStat (s : State) : Nat :=
  flagBits [tokenHeld s, ftbState s == 3, s.ftb.fbLost, cfgMis s, frozen s, nz s Fld.FTB_DIGMIS_COUNT, nz s Fld.FTB_DIGMISS_COUNT,
    nz s Fld.FTB_XFER_COUNT, nz s Fld.FTB_SVLATE_COUNT, nz s Fld.FTB_SVDIFF_COUNT, nz s Fld.FTB_EVLOST_COUNT,
    nz s Fld.FTB_FOREIGN_COUNT, nz s Fld.FTB_JRETRY_COUNT]

/-! ### ORN (14_orangery_metering.md) -/

/-- The parameters in force. -/
def ornParams (s : State) : OrnParams := match s.orn.params with | p :: _ => p.2 | [] => {}

/-- ORN_SEAL_N has been low for 10 ms (R492). -/
def sealPin (s : State) : Bool := s.orn.pinLow && decide (s.orn.pinAt + 10000000 ≤ s.orn.clk)

/-- The seal is open (R492). -/
def sealOpen (s : State) : Bool :=
  sealPin s && (match s.orn.openAt with
    | some t => decide (s.orn.clk < t + (ornParams s).tmo * 60000000000)
    | none => false)

/-- Records that the audit log still holds room for (R498). -/
def auditFree (s : State) : Nat := 32768 - s.orn.audit.length

/-- The firmware bank in force. -/
def ornBank (s : State) : FwBank := if s.orn.active then s.orn.bank1 else s.orn.bank0

/-- The `rsh` sources of the ORN page (R506). -/
def ornRo (r : OrnReg) (s : State) : Nat :=
  let o := s.orn
  match r with
  | .ORN_STAT =>
    bitAt (sealOpen s) 31 + bitAt (sealPin s) 30 + bitAt o.key.isSome 29 + bitAt o.refLost 28 + bitAt o.fallback 27 +
    bitAt (decide (auditFree s < 2)) 26 + bitAt (o.runs.any fun e => e.2.cfgErr) 25 + bitAt o.lockAt.isSome 24 +
    (ornParams s).role * 2 ^ 20 + (match o.phase with | .starting => 0 | .metering => 1 | .activating => 2) * 2 ^ 16
  | .ORN_MEVT => o.mevt
  | .ORN_ERRCNT => o.tapErr * 2 ^ 16 + o.authFail
  | .ORN_FWVER => (ornBank s).version
  | .ORN_LOSSCNT => o.lossCnt
  | _ => 0

/-- Block bits of PG_STAT of the ORN page, from its shadows (R506). -/
def ornStat (s : State) : Nat :=
  let w := tat s.reg.shadow 0xB00040 0
  let e := tat s.reg.shadow 0xB00048 0
  flagBits [bit w 31, bit w 25, bit w 28, bit w 27, bit w 26, e / 2 ^ 16 != 0, e % 2 ^ 16 != 0, bit w 24]

/-! ### BLV (15_belvedere_capture.md) -/

/-- The KIND of a source entry, 0 where it is not valid (R507). -/
def srcKind (s : State) (e : Nat) : Nat := match tget s.blv.srcs e with | some w => w / 2 ^ 28 | none => 0

/-- The ID of a source entry. -/
def srcId (s : State) (e : Nat) : Nat := tat s.blv.srcs e 0 % 2 ^ 28

/-- A trigger unit's source is of a kind that its KIND does not allow (R510). -/
def unitErr (s : State) (u : Nat) : Bool :=
  let k := srcKind s (fget s (Fld.BLV_TR_CTRL_SRC u))
  k != 0 && (match fget s (Fld.BLV_TR_CTRL_KIND u) with
    | 0 => k != 3 && k != 4
    | 2 => false
    | _ => k != 1 && k != 2)

/-- A capture group. -/
def capOf (s : State) (g : Nat) : CapGroup := tat s.blv.groups g {}

/-- Bytes that the buffer drains in a number of fabric clocks (R522). -/
def drainedIn (s : State) (n : Nat) : Nat := n * fget s Fld.BLV_WBW_RATE * 64 / 1000

/-- Bytes in the write buffer now. -/
def bufferFill (s : State) : Nat := s.blv.fill - drainedIn s (s.sdl.fab - s.blv.fillAt)

/-- STATE of a capture group (R513). -/
def capState (s : State) (g : Nat) : Nat :=
  let x := capOf s g
  match x.st with
  | .idle => 0
  | .record => if x.since + fget s (Fld.BLV_CG_PRE_US g) * 1000 ≤ nowNs s then 2 else 1
  | .post => 3 | .full => 4 | .err => 5

/-- log2 of a DIV. -/
def divLog (d : Nat) : Nat := ((List.range 8).find? fun i => d == 2 ^ i).getD 0

/-- The `ro` words of the BLV pages (R531–R533). -/
def blvRo (r : BlvReg) (i : Nat) (s : State) : Nat :=
  match r with
  | .BLV_STAT => min (bufferFill s / 1024) 2048
  | .BLV_TR_CTRL => bitAt (unitErr s i) 19
  | .BLV_CG_STAT => let x := capOf s i; capState s i * 2 ^ 29 + divLog x.div * 2 ^ 24 + x.cur * 2 ^ 16 + x.heldSlots
  | .BLV_CG_SEQ => (capOf s i).seq
  | _ => 0

/-- Block bits of PG_STAT of BLV page `p` (R531–R534). -/
def blvStat (p : Nat) (s : State) : Nat :=
  match p with
  | 0 => flagBits [nz s Fld.BLV_RREDUCE_COUNT, nz s Fld.BLV_DROP_COUNT, nz s Fld.BLV_MASKSUSP_COUNT, nz s Fld.BLV_EVHOLD_COUNT,
      s.blv.groups.any fun e => decide (1 < e.2.div)]
  | 1 => b2n ((List.range 64).any (unitErr s))
  | 2 => flagBits ((List.range 16).map fun g => nz s (Fld.BLV_CG_CAPS_COUNT g))
  | _ => b2n ((List.range 64).any fun m => nz s (Fld.BLV_MK_VIOL_COUNT m))
/-! ### HRB (16_herbarium_recorder.md) -/

/-- The `ro` words of the HRB page (R555). -/
def hrbRo (r : HrbReg) (s : State) : Nat :=
  match r with
  | .HRB_STAT => bitAt s.hrb.scanning 31 + bitAt s.hrb.frozen 30 + bitAt s.hrb.erasing.isSome 29 + s.hrb.staging.length * 2 ^ 16
  | .HRB_WPAGE => s.hrb.wpage
  | .HRB_OPAGE => s.hrb.osector * 256
  | .HRB_SEQ => s.hrb.seq
  | _ => 0

/-- Block bits of PG_STAT of the HRB page (R555). -/
def hrbStat (s : State) : Nat :=
  flagBits [s.hrb.frozen, !s.hrb.staging.isEmpty, nz s Fld.HRB_LOST_COUNT, nz s Fld.HRB_SCANBAD_COUNT, nz s Fld.HRB_FLERR_COUNT]


/-! ### GTH (17_gatehouse_keys.md) -/

/-- A key slot is VALID (R563, R567). -/
def slotValid (s : State) (k : Nat) : Bool :=
  !s.gth.bad.contains k && (match tget s.gth.slots k with | some x => !x.revoked | none => false)

/-- Every ancestor of a slot is VALID; `fuel` bounds the depth at 7 (R571, R575). -/
def ancestorsValid (s : State) : Nat → Nat → Bool
  | 0, _ => false
  | n + 1, k => match tget s.gth.slots k with
    | none => false
    | some x => x.type != 2 || (slotValid s x.parent && ancestorsValid s n x.parent)

/-- A slot's value can be used: it and its ancestors are VALID. -/
def derivable (s : State) (k : Nat) : Bool := slotValid s k && ancestorsValid s 8 k

/-- A slot is DERIVED. -/
def slotDerived (s : State) (k : Nat) : Bool := match tget s.gth.slots k with | some x => x.type == 2 | none => false

/-- DERIVED slots that a valid SV descriptor or GOOSE subscription with authentication names (R573). -/
def pinWants (s : State) : List Nat :=
  (((validStreams s).filter fun e => e.2.auth).flatMap (fun e => [e.2.key 0, e.2.key 1]) ++
   ((s.mac.goose.subs.filter fun e => e.2.valid && bit (e.2.d.getD 4 0) 30).flatMap fun e =>
     [e.2.d.getD 6 0 % 4096, bits (e.2.d.getD 6 0) 27 16])).eraseDups.filter (slotDerived s)

/-- The pins that are honoured (R573): 768 at most, in the order of streams and subscriptions (DESIGN CHOICE, log 41). -/
def pins (s : State) : List Nat := (pinWants s).take 768

/-- The Gatehouse's function runs: page 0 enabled and loaded (R569, R586). -/
def gthUp (s : State) : Bool := enabled s 0xE00000 && !s.gth.loading

/-- Entries of the derived cache that are pinned. -/
def pinned (s : State) : List Nat := if gthUp s && s.gth.rootSt == 1 then (pins s).filter (derivable s) else []

/-- The private test instructions are open (R560). -/
def privOpen (s : State) : Bool := s.gth.lc == 0 || (s.gth.lc != 3 && s.gth.unlocked)

/-- The `ro` words of the GTH pages (R587, R588). -/
def gthRo (r : GthReg) (i : Nat) (s : State) : Nat :=
  match r with
  | .GTH_LC => s.gth.rootSt * 2 ^ 30 + bitAt s.gth.entErr 29 + bitAt s.grt.tamper 28 + bitAt s.gth.loading 27 +
      s.gth.rev * 2 ^ 16 + (s.gth.rows.foldl (fun a e => setBit a (8 + e.1)) 0) + s.gth.lc
  | .GTH_SLOTS => s.gth.bad.length * 2 ^ 16 + (s.gth.slots.filter fun e => slotValid s e.1).length
  | .GTH_CACHE =>
    let keys := if gthUp s && s.gth.rootSt == 1 then 2 else 0
    bitAt (decide (768 < (pinWants s).length)) 31 + (pinned s).length * 2 ^ 16 +
      ((pinned s).length + (s.gth.cache.filter fun k => !(pinned s).contains k).length + keys)
  | .GTH_BOOTVER => s.gth.bootver
  | .GTH_BAD => s.gth.bad.foldl (fun a k => if k / 32 = i then setBit a (k % 32) else a) 0
  | _ => 0

/-- Block bits of PG_STAT of GTH page `p` (R587, R588). -/
def gthStat (p : Nat) (s : State) : Nat :=
  match p with
  | 0 => flagBits [s.gth.rootSt != 1, s.gth.entErr, s.grt.tamper, !s.gth.bad.isEmpty, decide (768 < (pinWants s).length),
      nz s Fld.GTH_DENY_COUNT, nz s Fld.GTH_ANCREV_COUNT, nz s Fld.GTH_LINEMISS_COUNT, nz s Fld.GTH_DBGFAIL_COUNT]
  | 1 => b2n (!s.gth.bad.isEmpty)
  | _ => 0
/-! ### MEM (18_integrity_background.md) -/

/-- A class has a level cause (R609): a halted pair for class 1, a ROM error for class 5, clock monitors and unlocked PLLs for
classes 14 and 21. -/
def levelCause (c : Nat) (s : State) : Bool :=
  match c with
  | 1 => s.cyc.halted != []
  | 5 => s.cas.romErr
  | 14 => bits (clkmonStat s) 7 0 != 0 || pllUnlocked s
  | 21 => bits (clkmonStat s) 31 8 != 0
  | _ => false

/-- MEM_FSTAT bit c (R609). -/
def classActive (c : Nat) (s : State) : Bool := nz s (Fld.MEM_FCNT_COUNT (c - 1)) || levelCause c s

/-- MEM_FSTAT (R609, R618). -/
def fstat (s : State) : Nat := (List.range 21).foldl (fun a k => a + bitAt (classActive (k + 1) s) (k + 1)) 0

/-- MEM_FEN as it reads (R618). -/
def fen (s : State) : Nat :=
  2 ^ 21 + fget s Fld.MEM_FEN_ENH * 2 ^ 16 + 0xC000 + fget s Fld.MEM_FEN_ENL * 2

/-- FAULT_N is asserted (R108, R610). -/
def faultAsserted (s : State) : Bool := s.cru.inReset || (fstat s &&& fen s) != 0 || clkmonStat s != 0

/-- MEM_UEPAGE and MEM_UEINFO hold an event: MEM_UE or MEM_SCRUE is non-zero (R597). -/
def ueHeld (s : State) : Bool := nz s Fld.MEM_UE_COUNT || nz s Fld.MEM_SCRUE_COUNT

/-- The `ro` words of the MEM pages (R616–R619). -/
def memRo (r : MemReg) (i : Nat) (s : State) : Nat :=
  match r with
  | .MEM_SIZE => s.integ.gib
  | .MEM_PASS => s.integ.passes * 2 ^ 16 + s.integ.passSecs
  | .MEM_UEPAGE => if !ueHeld s then 0 else s.integ.uePage
  | .MEM_UEINFO => if !ueHeld s then 0 else bitAt s.integ.ueValid 31 + bitAt s.integ.ueScrub 30 + s.integ.ueLine * 2 ^ 16 + s.integ.ueMid
  | .MEM_MARK => match tget s.integ.marks i with
    | some d => 2 ^ 31 + d
    | none => 0
  | .MEM_OCPASS => s.integ.sweepUs * 2 ^ 16 + s.integ.ocMs
  | .MEM_FSTAT => fstat s
  | .MEM_FEN => 2 ^ 21 + 0xC000
  | .MEM_FPIN => b2n (faultAsserted s)
  | .MEM_TELE_SEQ => s.integ.teleSeq
  | _ => 0

/-- Block bits of PG_STAT of MEM page `p` (R616–R619). -/
def memStat (p : Nat) (s : State) : Nat :=
  match p with
  | 0 => flagBits [nz s Fld.MEM_CE_COUNT, nz s Fld.MEM_UE_COUNT, nz s Fld.MEM_SCRUE_COUNT, nz s Fld.MEM_POISONW_COUNT,
      !s.integ.marks.isEmpty]
  | 1 => flagBits ((List.range 10).map fun u => nz s (Fld.MEM_OCCE_COUNT u) || nz s (Fld.MEM_OCUE_COUNT u))
  | 2 => flagBits [faultAsserted s, fstat s != 0]
  | 3 => b2n (nz s Fld.MEM_TELE_SKIP_COUNT)
  | _ => 0

/-! ### GRT and DBG (19_power_boot_pins_test.md) -/

/-- The `rsh` sources of the GRT page (R638). -/
def grtRo (r : GrtReg) (s : State) : Nat :=
  match r with
  | .GRT_STAT => bitAt s.grt.tamper 31 + bitAt s.grt.pinAtEdge 30 + bitAt s.grt.grtrst 29 + bitAt s.grt.vbatLow 28 +
      bitAt s.grt.onBat 27 + s.grt.tcause
  | .GRT_PCYC => s.grt.pcyc
  | .GRT_TAMPCNT => s.grt.tampCnt
  | _ => 0

/-- The levels driven at the DOUT pins: the latches, 0 while muted (R446, R644, R655), with VDD_IO33 out of range undriven
(R625). -/
def doutPins (s : State) : Nat := if muting s || bit s.cru.rails 8 then 0 else s.dbg.dout

/-- The `ro` words and `rsh` sources of the DBG pages (R653–R655). -/
def dbgRo (r : DbgReg) (s : State) : Nat :=
  match r with
  | .DBG_BOOT_STAT => s.dbg.stage * 2 ^ 28 + s.dbg.image * 2 ^ 24 + s.dbg.res1 * 2 ^ 8 + s.dbg.res0
  | .DBG_IDCODE => 0xB1280CB5
  | .DBG_PORT => bitAt s.gth.unlocked 31 + bitAt (privOpen s) 30
  | .DBG_TEMP => Config.dieTemps s.reg.draws % 2 ^ 32
  | .DBG_DIN_LVL => s.dbg.dinLvl
  | .DBG_DIN_RAW => s.dbg.dinRaw
  | .DBG_DOUT_LVL => s.dbg.dout
  | .DBG_DOUT_PIN => doutPins s
  | _ => 0

/-- Block bits of PG_STAT of the GRT page, from the shadow of GRT_STAT (R638). -/
def grtStat (s : State) : Nat :=
  let w := tat s.reg.shadow 0x1000040 0
  flagBits [bit w 31, nz s Fld.GRT_TAMPEVT_COUNT, bit w 29, bit w 28]

/-- Block bits of PG_STAT of DBG page `p` (R653–R655). -/
def dbgStat (p : Nat) (s : State) : Nat :=
  match p with
  | 1 => b2n (nz s Fld.DBG_BFL_ERR_COUNT)
  | 2 => b2n (nz s Fld.DBG_DIN_EVT_COUNT)
  | _ => 0

/-! ### PAV (12_pavilions.md) -/

/-- A pavilion. -/
def pavOf (s : State) (p : Nat) : Pav := tat s.pav.tbl p {}

/-- The current generation number of a pavilion (R410). -/
def genOf (s : State) (p : Nat) : Nat := (pavOf s p).gen

/-- EN of a pavilion in force (R391, R394). -/
def pavEn (s : State) (p : Nat) : Bool := fbit s (Fld.CYC_PV_CTRL_EN (p / 32) (p % 32)) && enabled s (0x910000 + p / 32 * 0x1000)

/-- PAV_STAT.STATE (R423). -/
def pavState (s : State) (p : Nat) : Nat :=
  match (pavOf s p).phase with
  | .normal => b2n (pavEn s p)
  | .reset => 2 | .wait => 3 | .frozen => 4 | .saving => 5 | .restoring => 6

/-- A pavilion is fenced (R404, R663): by its STATE, or by its exhausted hard share. -/
def fenced (s : State) (p : Nat) : Bool :=
  (pavOf s p).phase != .normal || ((pavOf s p).hard && (pavOf s p).exhausted)

/-- PAV_STAT.HOLD (R416). -/
def held (s : State) (p : Nat) : Bool := (pavOf s p).phase != .normal

/-- The queues whose registers differ from reset, so that a search over queues need not visit all 8192. -/
def setQueues (s : State) : List Nat :=
  ((s.reg.fields.filter fun e => decide (0x801000 ≤ e.1 / 32) && decide (e.1 / 32 < 0x841000)).map fun e =>
    (e.1 / 32 - 0x801000) / 0x1000 * 128 + ((e.1 / 32) % 0x1000 - 0x40) / 16).eraseDups

/-- OWNER of queue `q` in force. -/
def qOwner (s : State) (q : Nat) : Nat := fget s (Fld.BND_Q_CFG_OWNER (q / 128) (q % 128))

/-- The queues with OWNER = p: for pavilion 0 every queue left at reset counts too (R425). -/
def ownedQueues (s : State) (p : Nat) : List Nat := (setQueues s).filter fun q => qOwner s q == p

/-- PAV_OWNED.NQ (R425). -/
def ownedCount (s : State) (p : Nat) : Nat :=
  (ownedQueues s p).length + (if p = 0 then 8192 - (setQueues s).length else 0)

/-- One of the four error counters of a pavilion is non-zero (R407). -/
def anyError (s : State) (p : Nat) : Bool :=
  nz s (Fld.PAV_EWIN_COUNT p) || nz s (Fld.PAV_ELATCH_COUNT p) || nz s (Fld.PAV_EDESC_COUNT p) || nz s (Fld.PAV_EWDT_COUNT p)

/-- The `ro` words of a pavilion page (R425). -/
def pavRo (r : PavReg) (p : Nat) (s : State) : Nat :=
  match r with
  | .PAV_STAT => genOf s p * 2 ^ 16 + bitAt (held s p) 9 + bitAt (fenced s p) 8 + pavState s p
  | .PAV_USED => (pavOf s p).used
  | .PAV_QUSE =>
    let qs := ownedQueues s p
    min ((s.bnd.queues.filter fun e => qOwner s e.1 == p).map fun e => e.2.length).sum 0xFFFF * 2 ^ 16 +
    min ((qs.filter fun q => fbit s (Fld.BND_Q_CFG_EN (q / 128) (q % 128))).map (qLimit s)).sum 0xFFFF
  | .PAV_ERRINFO => if !anyError s p then 0 else bitAt (pavOf s p).errValid 31 + (pavOf s p).errKind * 2 ^ 28 + (pavOf s p).errMid
  | .PAV_ERRPAGE => if !anyError s p then 0 else (pavOf s p).errPage
  | .PAV_OWNED => ownedCount s p * 2 ^ 16 + ownedStreams s p
  | _ => 0

/-- Block bits of PG_STAT of a pavilion page (R425). -/
def pavStat (p : Nat) (s : State) : Nat :=
  flagBits [nz s (Fld.PAV_EWIN_COUNT p), nz s (Fld.PAV_ELATCH_COUNT p), nz s (Fld.PAV_EDESC_COUNT p), nz s (Fld.PAV_EWDT_COUNT p),
    nz s (Fld.PAV_STALE_COUNT p), nz s (Fld.PAV_FENCED_COUNT p), nz s (Fld.PAV_SHAREX_COUNT p), nz s (Fld.PAV_POSTREF_COUNT p),
    nz s (Fld.PAV_RESETS_COUNT p), fenced s p]

/-! ### CYC (11_conservatory_cycle.md) -/

/-- A task class. -/
def classOf (s : State) (c : Nat) : ClassRun := tat s.cyc.classes c {}

/-- The program of a pavilion in force. -/
def progOf (s : State) (p : Nat) : Program := tat s.cyc.progs p {}

/-- STATE of CYC_CLSc_STAT (R361). -/
def ClassState.code : ClassState → Nat
  | .stopped => 0 | .running => 1 | .draining => 2

/-- The `ro` words of the CYC pages; CYC_PRk_NEXT acts in the read itself (R368). -/
def cycRo (r : CycReg) (j i : Nat) (s : State) : Nat :=
  match r with
  | .CYC_CKPT_STAT => bitAt s.cyc.ckpt.isSome 31 + s.cyc.ckptSeq % 2 ^ 31
  | .CYC_CLS_STAT => (classOf s i).st.code
  | .CYC_PV_STAT =>
    let p := j * 32 + i
    bitAt (pavEn s p) 31 + bitAt (match s.cyc.pvcmd with | some r => r.op == 1 && r.pav == p | none => false) 30 +
    bitAt (nz s (Fld.CYC_PV_OVR_COUNT j i)) 29 + (progOf s p).classes
  | .CYC_PR_NTICK => tat s.cyc.ntick j 0
  | .CYC_PR_STAT =>
    bitAt (s.cyc.halted.contains j) 31 + (s.cyc.insts.filter fun e => e.pair == j && e.st == .running).length * 2 ^ 16 +
    (s.cyc.insts.filter fun e => e.pair == j && e.st == .ready).length
  | _ => 0

/-- Block bits of PG_STAT of CYC page `p` (R392–R395). -/
def cycStat (p : Nat) (s : State) : Nat :=
  if p = 0 then
    flagBits [nz s Fld.CYC_OVR_COUNT, nz s Fld.CYC_OUTREJ_COUNT, nz s Fld.CYC_EVSTALE_COUNT, nz s Fld.CYC_CKPTSKIP_COUNT,
      nz s Fld.CYC_LATERR_COUNT, nz s Fld.CYC_EXDROP_COUNT, s.cyc.ckpt.isSome]
  else if p = 1 then flagBits ((List.range 16).map fun c => nz s (Fld.CYC_CLS_OVR_COUNT c))
  else if p < 48 then
    flagBits [(List.range 32).any fun i => nz s (Fld.CYC_PV_OVR_COUNT (p - 16) i),
      (List.range 32).any fun i => nz s (Fld.CYC_PV_REJ_COUNT (p - 16) i)]
  else if 128 ≤ p then b2n (s.cyc.halted.contains (p - 128)) else 0

/-! ### Dispatch by block -/

/-- The word of the `ro` fields and `rsh` sources of a register: `j` counts its page among the pages of its kind, `i` its copy. -/
def hwWord (r : Reg) (j i : Nat) (s : State) : Nat :=
  match r with
  | .sys r => sysRo r i s
  | .cru r => cruRo r s
  | .sdl r => sdlRo r i s
  | .mac r => macRo r j i s
  | .trl r => trlRo r i s
  | .svi r => sviRo r j i s
  | .cas r => casRo r j i s
  | .ltn r => ltnRo r j i s
  | .bnd r => bndRo r j i s
  | .cyc r => cycRo r j i s
  | .ftb r => ftbRo r s
  | .orn r => ornRo r s
  | .blv r => blvRo r i s
  | .hrb r => hrbRo r s
  | .gth r => gthRo r i s
  | .mem r => memRo r i s
  | .grt r => grtRo r s
  | .dbg r => dbgRo r s
  | .pav r => pavRo r j s

/-- The block bits of PG_STAT: `p` is the page index, for MAC the port and the page (R36). -/
def blockStat (b : Block) (port p : Nat) (s : State) : Nat :=
  match b with
  | .sys => 0
  | .cru => cruStat s
  | .sdl => sdlStat p s
  | .mac => macStat port p s
  | .trl => trlStat p s
  | .svi => sviStat p s
  | .cas => casStat p s
  | .ltn => ltnStat p s
  | .bnd => bndStat p s
  | .cyc => cycStat p s
  | .ftb => ftbStat s
  | .orn => ornStat s
  | .blv => blvStat p s
  | .hrb => hrbStat s
  | .gth => gthStat p s
  | .mem => memStat p s
  | .grt => grtStat s
  | .dbg => dbgStat p s
  | .pav => pavStat p s

end Sys2Proof.Machine
end

