-- ==== Sys2Proof/Machine/Read.lean ====
section
/-! DEFINITION. Reading the register space: finding the page and the register at an offset (R24–R26), the header (R36), the
fields by access code (R46), privilege (R49) and mailboxes (R53, R656). No read here acts; BND_TAKE and CYC_PRk_NEXT act in
Machine/Access.lean. -/

namespace Sys2Proof.Machine

/-- The block and page index at a register-space offset, with the port for MAC (R24, R25). -/
def blockAt (a : Nat) : Option (Block × Nat × Nat) :=
  if 0x4000000 ≤ a ∧ a < 0x4400000 then some (.pav, 0, (a - 0x4000000) / 0x1000)
  else
    let p := a % 0x100000 / 0x1000
    match a / 0x100000 with
    | 0 => some (.sys, 0, p) | 1 => some (.cru, 0, p) | 2 => some (.sdl, 0, p)
    | 3 => some (.mac, p / 16, p % 16)
    | 4 => some (.trl, 0, p) | 5 => some (.svi, 0, p) | 6 => some (.cas, 0, p) | 7 => some (.ltn, 0, p)
    | 8 => some (.bnd, 0, p) | 9 => some (.cyc, 0, p) | 10 => some (.ftb, 0, p) | 11 => some (.orn, 0, p)
    | 12 => some (.blv, 0, p) | 13 => some (.hrb, 0, p) | 14 => some (.gth, 0, p) | 15 => some (.mem, 0, p)
    | 16 => some (.grt, 0, p) | 17 => some (.dbg, 0, p) | _ => none

/-- A page that is present. -/
structure PageLoc where
  /-- Offset of the page. -/
  base : Nat
  kind : PageKind
  /-- Port instance, for MAC. -/
  port : Nat
  /-- Page index of R25; the pavilion for PAV. -/
  idx : Nat
deriving DecidableEq, Repr

/-- The number of the page among those of its kind: the port for MAC. -/
def PageLoc.j (p : PageLoc) : Nat := if p.kind.blk = .mac then p.port else p.idx - p.kind.first

/-- The page at an offset, where one is present (R26). -/
def pageAtOff (a : Nat) : Option PageLoc :=
  match blockAt a with
  | none => none
  | some (b, port, p) =>
    match pageKinds.find? fun k => decide (k.blk = b) && decide (k.first ≤ p) && decide (p ≤ k.last) with
    | none => none
    | some k => some ⟨pageBase a, k, port, p⟩

/-- A block register: its page, its row, which copy, and for a mailbox the offset in its 64 bytes. -/
structure RegLoc where
  page : PageLoc
  desc : RegDesc
  i : Nat
  sub : Nat
deriving DecidableEq, Repr

/-- Offset of the register in the register space; a mailbox's is that of its _CMD. -/
def RegLoc.addr (r : RegLoc) : Nat := r.page.base + r.desc.off + r.i * r.desc.stride

/-- The row of a page's table that holds an offset in the page. -/
def findRow : List RegDesc → Nat → Option (RegDesc × Nat × Nat)
  | [], _ => none
  | d :: ds, o =>
    let span := if d.mbx then 64 else 4
    if d.off ≤ o ∧ (o - d.off) / d.stride < d.count ∧ d.count ≠ 1 ∧ (o - d.off) % d.stride < span then
      some (d, (o - d.off) / d.stride, (o - d.off) % d.stride)
    else if d.count = 1 ∧ d.off ≤ o ∧ o - d.off < span then some (d, 0, o - d.off)
    else findRow ds o

/-- The block register at an offset in a page. -/
def regIn (p : PageLoc) (o : Nat) : Option RegLoc :=
  match findRow p.kind.regs o with
  | none => none
  | some (d, i, sub) => some ⟨p, d, i, sub⟩

/-- The register at an offset of the register space. -/
def regAt (a : Nat) : Option RegLoc :=
  match pageAtOff a with
  | none => none
  | some p => regIn p (a % 0x1000)

/-- The reset value of a field at a place (R36; the port's for PHY, RXEN and PAUSE_EN). -/
def fieldReset (l : RegLoc) (f : FieldDesc) : Nat :=
  match f.dep with
  | .phy | .rxen | .pause => portReset f.dep l.page.port f.reset
  | _ => f.reset

/-- The stored field at a place. -/
def refOf (l : RegLoc) (f : FieldDesc) : FieldRef := ⟨l.addr, f.lo, f.hi - f.lo + 1, fieldReset l f⟩

/-- The mailbox at an offset. -/
def mbxAt (s : State) (a : Nat) : Mbx := tat s.reg.mbx a {}

/-- A master's standing towards a page: its pair's core for the core-private registers (R353, R395), its pavilion for the
unqualified registers of a pavilion page (R425), its pair for the pages of GTH_REQ (R589), else its privilege. -/
def allows (p : Priv) (l : PageLoc) (mid : Nat) : Bool :=
  let own := (midClass mid == 0 || midClass mid == 1) && midIndex mid / 2 == l.j
  match p with
  | .all =>
    if l.kind.blk = .pav then isPriv mid || (midClass mid == 2 && midIndex mid == l.idx)
    else if l.kind.blk = .gth ∧ 16 ≤ l.idx then own else true
  | .prv => isPriv mid
  | .pair => own
  | .pairPrv => own || isPriv mid
  | .dbg => midClass mid == 6 || isPriv mid

/-- The pending entry of a register (R59): the value written last, before those that strobes have sent to a slower domain. -/
def pendOf (s : State) (a : Nat) : Option PendEntry := s.reg.pend.reverse.find? fun e => e.addr == a

/-- The bits of a `wsc` register as a read shows them: those set in the clock before (R46, R77). -/
def wscRead (s : State) (a : Nat) : Nat :=
  (s.reg.wscSet.filter fun e => e.1 == a && e.2.2 + 1 == s.sdl.fab).foldl (fun v e => v ||| e.2.1) 0

/-- The shadow of a register as a read shows it: in the clock of a refresh, the word before it (R52, R77). -/
def shadowRead (s : State) (a reset : Nat) : Nat :=
  match tget s.reg.shadowOld a with
  | some (c, v) => if c = s.sdl.fab then v else tat s.reg.shadow a reset
  | none => tat s.reg.shadow a reset

/-- The value of a field as a read shows it (R46); `view` is PG_CTRL.VIEW. -/
def fieldRead (s : State) (l : RegLoc) (f : FieldDesc) (view priv : Bool) : Nat :=
  if f.prv && !priv then 0 else
  match f.acc with
  | .rw => fget s (refOf l f)
  | .ctr => ctrRead s (refOf l f)
  | .wbf =>
    match (if view then pendOf s l.addr else none) with
    | some e => bits e.val f.hi f.lo
    | none => fget s (refOf l f)
  | .ro => bits (hwWord l.desc.name l.page.j l.i s) f.hi f.lo
  | .rsh => bits (shadowRead s l.addr (f.reset * 2 ^ f.lo)) f.hi f.lo
  | .wsc => bits (wscRead s l.addr) f.hi f.lo
  | .mbx | .zero => 0

/-- The bits of a word in none of the fields: `kp` (R46). -/
def kpMask (fs : List FieldDesc) : Nat :=
  (List.range 32).foldl (fun a i => a + bitAt (!fs.any fun f => decide (f.lo ≤ i) && decide (i ≤ f.hi)) i) 0

/-- The `kp` bits that a read of an offset shows, in the places of a mask. -/
def kpRead (s : State) (a mask : Nat) : Nat := Config.kpBits a s.reg.draws &&& mask

/-- _STAT of a mailbox (R53, R657). -/
def mbxStat (b : Mbx) : Nat := bitAt b.busy 31 + bitAt b.valid 30 + bitAt (b.code != 0) 29 + b.seq * 2 ^ 16 + b.code

/-- A word of a mailbox by its offset (R53, R54, R656). -/
def mbxRead (s : State) (a sub : Nat) : Nat :=
  let b := mbxAt s a
  match sub / 4 with
  | 0 => b.arg * 2 ^ 16 + b.op * 2 ^ 8 + kpRead s a 0xFC + bitAt b.wr 1
  | 1 => mbxStat b
  | 2 => kpRead s (a + 8) 0xFFFFFFFE
  | 3 => kpRead s (a + 12) 0xFFFFFFFF
  | k => (b.d.getD (k - 4) 0).toNat

/-- MAC_PAIR is present on the lower port of a pair, and QUADBOX on ports 0 and 4 only; elsewhere a write changes nothing (R225). -/
def fieldPresent (l : RegLoc) (f : FieldDesc) : Bool :=
  match f.dep with
  | .pairreg => l.page.port < 12 && l.page.port % 2 == 0
  | .quad => l.page.port == 0 || l.page.port == 4
  | _ => true

/-- MAC_PAIR reads zero where it is not present (R225). -/
def regPresent (l : RegLoc) : Bool := l.desc.fields.all fun f => f.dep != .pairreg || fieldPresent l f

/-- A block register or a word of a mailbox, as a read by a master shows it (R46, R49). -/
def regRead (s : State) (mid : Nat) (l : RegLoc) : Nat :=
  if !allows l.desc.priv l.page mid || !regPresent l then 0
  else if l.desc.mbx then mbxRead s l.addr l.sub
  else
    let view := fbit s (hView l.page.base)
    (l.desc.fields.map fun f => fieldRead s l f view (isPriv mid) * 2 ^ f.lo).sum + kpRead s l.addr (kpMask l.desc.fields)

/-- A register is qualified `prv`, alone or beside a pair's own core (R49, R347, R358, R583); a pair-private one is not (R589). -/
def Priv.qualified : Priv → Bool
  | .prv | .pairPrv | .dbg => true
  | .all | .pair => false

/-- PG_CAP of a page (R36, R38). -/
def pageCap (k : PageKind) : Nat :=
  let has (a : Acc) := k.regs.any fun r => r.fields.any fun f => f.acc == a
  let last := (k.regs.map fun r => r.off + (r.count - 1) * r.stride + (if r.mbx then 0x3C else 0)).foldl max 0
  bitAt (has .wbf) 31 + bitAt k.txn 30 + bitAt (has .rsh) 29 + bitAt (k.regs.any fun r => r.mbx) 28 +
  bitAt (k.regs.any fun r => r.priv.qualified || r.fields.any fun f => f.prv) 27 + last / 4

/-- PG_ID of a page (R36, R37). -/
def pageId (p : PageLoc) : Nat :=
  p.kind.blk.code * 2 ^ 16 + (if p.kind.blk = .pav then p.idx else p.port * 2 ^ 8 + p.idx)

/-- A soft reset of the page runs: it lasts through the fabric clock that accepts it (R40; log 5). -/
def srstBusy (s : State) (page : Nat) : Bool := tget s.reg.srst page == some s.sdl.fab

/-- PG_STAT of a page (R36, R40, R50). -/
def pageStat (s : State) (p : PageLoc) : Nat :=
  bitAt (fget s (hWign p.base) != 0) 31 + bitAt (pendCount s p.base != 0) 30 + bitAt (claimedBy s p.base).isSome 29 +
  bitAt (locked s p.base) 28 + bitAt (srstBusy s p.base) 27 + blockStat p.kind.blk p.port p.idx s % 2 ^ 27

/-- A header word by its offset (R36). -/
def headerRead (s : State) (mid : Nat) (p : PageLoc) (o : Nat) : Nat :=
  match o / 4 with
  | 0 => pageId p
  | 1 => 0x0200 + Config.pageMinor p.base % 256
  | 2 => pageCap p.kind
  | 3 => fget s (hEn p.base) + (if isPriv mid then bits (wscRead s (p.base + 0x0C)) 1 1 else 0) * 2 + fget s (hView p.base) * 4 + kpRead s (p.base + o) 0xFFFFFFF8
  | 4 => pageStat s p
  | 5 => fget s (hIen p.base)
  | 6 => pageStat s p &&& fget s (hIen p.base)
  | 7 => fget s (hGrp p.base) + kpRead s (p.base + o) 0xFFFFFFF0
  | 8 => pendCount s p.base
  | 9 => if isPriv mid then fget s (hLock p.base) + kpRead s (p.base + o) 0xFFFFFFFC else 0
  | 10 => ctrRead s (hWign p.base) + kpRead s (p.base + o) 0xFFFF0000
  | _ => kpRead s (p.base + o) 0xFFFFFFFF

/-- A 32-bit read of the register space by a master, without any effect: 0 where no page is present (R26). -/
def peek (s : State) (mid a : Nat) : Nat :=
  match pageAtOff a with
  | none => 0
  | some p =>
    if !allows .all p mid then 0
    else if a % 0x1000 < 0x40 then headerRead s mid p (a % 0x1000)
    else match regIn p (a % 0x1000) with
      | none => if p.kind.blk = .pav ∧ 0x200 ≤ a % 0x1000 then 0 else kpRead s a 0xFFFFFFFF
      | some l => regRead s mid l

end Sys2Proof.Machine
end

