-- ==== Sys2Proof/Machine/Mailbox.lean ====
section
/-! DEFINITION. Completing a mailbox request (R54–R56, R101). -/

namespace Sys2Proof.Machine

/-! ### Mailboxes -/

/-- A mailbox replaced. -/
def setMbx (s : State) (a : Nat) (b : Mbx) : State := { s with reg := { s.reg with mbx := tset s.reg.mbx a b } }

/-- A request completes with a CODE (R54, R55, R657). -/
def mbxEnd (s : State) (a code : Nat) : State :=
  let b := mbxAt s a
  setMbx s a { b with busy := false, valid := true, seq := (b.seq + 1) % 256, code := code }

/-- A read request completes with data (R54). The data words that its table does not name read 0, where the spec says nothing of them
(DESIGN CHOICE, log 4). -/
def mbxAnswer (s : State) (a : Nat) (code : Nat) (d : List Word) : State :=
  let b := mbxAt s a
  setMbx s a { b with busy := false, valid := true, seq := (b.seq + 1) % 256, code := code, d := d.take 12 }

/-- A request in progress ends with a CODE; a mailbox that is not busy is untouched. -/
def mbxEndIfBusy (s : State) (a code : Nat) : State := if (mbxAt s a).busy then mbxEnd s a code else s

/-- Data word `i` of a mailbox as a number. -/
def Mbx.w (b : Mbx) (i : Nat) : Nat := (b.d.getD i 0).toNat

/-- Two data words of a mailbox as one number, low word first. -/
def Mbx.w2 (b : Mbx) (i : Nat) : Nat := b.w i + 2 ^ 32 * b.w (i + 1)

end Sys2Proof.Machine
end

