-- ==== Sys2Proof/Machine/Record.lean ====
section
/-! DEFINITION. Event records: acceptance, floods, snapshots, staging, the writing of records and the scan of the flash
(R535–R553). Every chapter that records an event calls `record`. -/

namespace Sys2Proof.Machine

/-- HRB page 0. -/
def hrbPage : Nat := 0xD00000

/-- The bytes of a record's body, 0x000 to 0x0FB apart from REPEAT, and where REPEAT falls erased bytes (R535). -/
def recBytes (r : Rec) (seq : Nat) : List Nat :=
  let head := leBytes 2 0x4842 ++ leBytes 2 r.type ++ [r.snap.length, 0] ++ leBytes 2 (b2n r.ptpv + 2 * b2n r.staged) ++
    leBytes 4 seq ++ leBytes 2 r.src ++ leBytes 2 r.snapver ++ leBytes 8 r.opsec ++ leBytes 4 r.pcyc ++
    leBytes 4 (r.ns % 1000000000) ++ leBytes 8 (r.ns / 1000000000) ++
    (List.range 6).flatMap (fun i => leBytes 4 (r.args.getD i 0)) ++
    (List.range 30).flatMap (fun i => leBytes 4 (r.snap.getD i 0)) ++ List.replicate 36 0
  head ++ leBytes 4 (crc32 head) ++ List.replicate 16 0xFF ++ List.replicate 12 0

/-- The bytes of a record's REPEAT field (R545). -/
def repBytes (r : Rec) : List Nat :=
  let t := if r.reps = 0 then 0 else r.repNs
  let b := leBytes 2 r.reps ++ leBytes 2 0xA55A ++ leBytes 4 (t % 1000000000) ++ leBytes 4 (t / 1000000000 % 2 ^ 32)
  b ++ leBytes 4 (crc32 b)

/-- A record composed now (R538, R541): `snap` is fixed content (R543), or the class's selection is read. -/
def compose (s : State) (type src : Nat) (args : List Nat) (snap : Option (List Nat)) : Rec :=
  let sel := tat s.hrb.sels (type / 256) {}
  { type := type, src := src, ptpv := s.sdl.gen == .running, staged := fbit s Fld.HRB_CTRL_FREEZE,
    snapver := if snap.isSome then 0xFFFF else sel.ver,
    opsec := s.grt.opShadow, pcyc := tat s.reg.shadow 0x1000044 0, ns := nowNs s, args := args, at_ := s.sdl.fab,
    snap := snap.getD (sel.offs.map fun o => peek s 0x3007 o) }

/-- The last record composed is closed: its REPEAT waits to be programmed (R545, R549). -/
def closeOpen (h : Herbarium) : Herbarium :=
  match h.open_ with
  | none => h
  | some _ =>
    match h.staging.getLast?, h.op, h.openPage with
    | some r, _, _ => { h with open_ := none, staging := h.staging.dropLast ++ [{ r with closed := true }] }
    | none, some (.body p r), _ => { h with open_ := none, op := some (.body p { r with closed := true }) }
    | none, some (.valid p r), _ => { h with open_ := none, op := some (.valid p { r with closed := true }) }
    | none, _, some e => { h with open_ := none, openPage := none, closings := h.closings ++ [e] }
    | none, _, none => { h with open_ := none }

/-- A repeat is added to the last record composed (R544). -/
def addRepeat (h : Herbarium) (ns : Nat) : Herbarium :=
  let up (r : Rec) : Rec := { r with reps := min (r.reps + 1) 65535, repNs := ns }
  match h.staging.getLast?, h.op, h.openPage with
  | some r, _, _ => { h with staging := h.staging.dropLast ++ [up r] }
  | none, some (.body p r), _ => { h with op := some (.body p (up r)) }
  | none, some (.valid p r), _ => { h with op := some (.valid p (up r)) }
  | none, _, some (p, r) => { h with openPage := some (p, up r) }
  | none, _, none => h

/-- The LOSS record of the events lost so far (R540, R547). -/
def lossRec (s : State) (l : Nat × Nat × Nat × Nat) : Rec :=
  let (n, cause, a, b) := l
  compose s 0x0003 0x3007 [min n 0xFFFFFFFF, cause, a % 1000000000, a / 1000000000 % 2 ^ 32,
    b % 1000000000, b / 1000000000 % 2 ^ 32] (some [])

/-- An event is lost and counted (R547, R554). -/
def loseEvent (s : State) (cause : Nat) : State :=
  let s := cinc s Fld.HRB_LOST_COUNT
  let n := nowNs s
  { s with hrb := { s.hrb with loss := match s.hrb.loss with
    | none => some (1, cause, n, n)
    | some (k, c, a, _) => some (k + 1, c, a, n) } }

/-- A record needs the SNAPSEL of its class first (R542). -/
def needsSel (h : Herbarium) (r : Rec) : Bool := r.snapver != 0xFFFF && !bit h.selDone (r.type / 256)

/-- A new record may be written at HRB_WPAGE: the page lies in a sector whose SECTOR record stands. -/
def canWrite (h : Herbarium) : Bool := h.wpage % 256 != 0

/-- The next program operation begins where none is in progress and nothing forbids it (R536, R545, R548, R551). -/
def hrbPump (s : State) : State :=
  let h := s.hrb
  if h.op.isSome || h.scanning || h.frozen || fbit s Fld.HRB_CTRL_FREEZE || !enabled s hrbPage then s
  else match h.needSector with
  | some (k, n) =>
    let r := compose s 0x0001 0x3007 [k, n] (some [])
    { s with hrb := { h with op := some (.body (k * 256) { r with closed := true }), needSector := none } }
  | none =>
    match h.closings with
    | (p, r) :: cs => { s with hrb := { h with op := some (.rep p r), closings := cs } }
    | [] =>
      match h.staging with
      | [] => s
      | r :: rs =>
        if !canWrite h then s
        else if needsSel h r then
          let c := r.type / 256
          let sel := tat h.sels c {}
          let q := { compose s 0x0002 0x3007 [c] (some sel.offs) with snapver := sel.ver, closed := true }
          { s with hrb := { h with op := some (.body h.wpage q), selDone := setBit h.selDone c } }
        else { s with hrb := { h with op := some (.body h.wpage r), staging := rs } }

/-- How many records at the end of staging were accepted in this fabric clock from a greater SRC, and stand behind an event of `src` (R547). -/
def behind (s : State) (src : Nat) : Nat := (s.hrb.staging.reverse.takeWhile fun r => r.at_ == s.sdl.fab && decide (src < r.src)).length

/-- A record enters staging, with the LOSS record that goes before it: at the end, where it closes the last record composed, or before the later
records of this clock (R545, R547). -/
def stageRec (s : State) (pre : List Rec) (r : Rec) (excl : Bool) : Herbarium :=
  let k := behind s r.src
  if k = 0 then
    let h := closeOpen s.hrb
    { h with staging := h.staging ++ pre ++ [{ r with closed := excl }], loss := none,
             open_ := if excl then none else some (r.type, r.src, r.args.getD 0 0), openAt := s.sdl.fab }
  else
    let n := s.hrb.staging.length - k
    { s.hrb with staging := s.hrb.staging.take n ++ pre ++ [{ r with closed := true }] ++ s.hrb.staging.drop n, loss := none }

/-- An event is accepted: counted as a repeat, composed into staging, or lost (R544, R547, R554). `excl` marks a type excluded
from floods (R540, R543, R390). The second component tells whether it was not lost. -/
def acceptEvent (s : State) (type src : Nat) (args : List Nat) (excl : Bool) (snap : Option (List Nat)) : State × Bool :=
  if !enabled s hrbPage then (loseEvent s 3, false)
  else if !excl && s.hrb.open_ == some (type, src, args.getD 0 0) then
    ({ s with hrb := { addRepeat s.hrb (nowNs s) with openAt := s.sdl.fab } }, true)
  else
    let need := if s.hrb.loss.isSome then 2 else 1
    if 64 < s.hrb.staging.length + need then (loseEvent s (if fbit s Fld.HRB_CTRL_FREEZE then 2 else 1), false)
    else
      let pre := match s.hrb.loss with
        | some l => [{ lossRec s l with closed := true }]
        | none => []
      (hrbPump { s with hrb := stageRec s pre (compose s type src args snap) excl }, true)

/-- The types that floods never merge: the SYSTEM types (R540), DIAG (R543) and the PROGRAM records (R390). -/
def neverMerged (type : Nat) : Bool := type / 256 == 0 || type == 0x0201 || (decide (0x0301 ≤ type) && decide (type ≤ 0x0303))

/-- An event is recorded (R547). -/
def record (s : State) (type src : Nat) (args : List Nat) : State := (acceptEvent s type src args false none).1

/-- An event that floods never merge is recorded. -/
def recordExcl (s : State) (type src : Nat) (args : List Nat) : State := (acceptEvent s type src args true none).1

/-- An event with fixed snapshot content is recorded (R543). -/
def recordFixed (s : State) (type src : Nat) (args snap : List Nat) : State :=
  (acceptEvent s type src args true (some snap)).1

/-- The next sector after `k` that is not skipped (R551, R553). -/
def nextSector (h : Herbarium) (k : Nat) : Nat :=
  (((List.range 1024).map fun i => (k + 1 + i) % 1024).find? fun j => !h.skipped.contains j).getD ((k + 1) % 1024)

/-- The sector `n` positions ahead of `k`. -/
def sectorAhead (h : Herbarium) (k : Nat) : Nat → Nat
  | 0 => k
  | n + 1 => sectorAhead h (nextSector h k) n

/-- The erase that is queued first begins where none is in progress (R553). -/
def hrbErase (h : Herbarium) : Herbarium :=
  match h.erasing, h.eraseQ with
  | none, k :: ks => { h with erasing := some (k, h.op.isSome || h.frozen), eraseQ := ks }
  | some (k, _), _ => { h with erasing := some (k, h.op.isSome || h.frozen) }
  | none, [] => h

/-- Writing enters a sector that stands erased with its SECTOR record, and the sector ERAHEAD positions ahead is to be erased
(R553). -/
def enterSector (s : State) (k : Nat) : State :=
  let h := s.hrb
  let ahead := sectorAhead h k (fget s Fld.HRB_CTRL_ERAHEAD)
  let oldest := if ahead = h.osector then nextSector h ahead else h.osector
  let rest := h.erased.filter fun j => j != k
  { s with hrb := hrbErase { h with wpage := k * 256 + 1, erased := rest, selDone := 0, eraseQ := h.eraseQ ++ [ahead], osector := oldest } }

/-- Writing goes on after page `p` has been used (R551). -/
def advancePage (s : State) (p : Nat) : State :=
  if p % 256 = 255 then
    let k := nextSector s.hrb (p / 256)
    if s.hrb.erased.contains k then enterSector s k
    else { s with hrb := { s.hrb with wpage := k * 256 } }
  else { s with hrb := { s.hrb with wpage := p + 1 } }

/-- A sector is skipped for the rest of the power cycle, and the sector after those in hand is erased in its place (R553). -/
def skipSector (s : State) (k : Nat) : State :=
  let h := { s.hrb with skipped := s.hrb.skipped ++ [k] }
  let j := nextSector h k
  let lead := sectorAhead h (h.wpage / 256) (fget s Fld.HRB_CTRL_ERAHEAD)
  let h := hrbErase { h with eraseQ := if h.erased.contains lead || h.eraseQ.contains lead then h.eraseQ else h.eraseQ ++ [lead] }
  let s := { s with hrb := h }
  if h.wpage = k * 256 then
    if h.erased.contains j then enterSector s j else { s with hrb := { h with wpage := j * 256 } }
  else s

/-- A freeze that was asked for is reached once the operation in progress has ended (R548). -/
def freezeReached (s : State) : State := if fbit s Fld.HRB_CTRL_FREEZE then { s with hrb := { s.hrb with frozen := true } } else s

/-- A program operation has ended, as the flash reports (R536, R553). -/
def flashProgramDone (s : State) (ok : Bool) : State :=
  let h := s.hrb
  match h.op with
  | none => s
  | some (.body p r) =>
    let bytes := recBytes r ((h.seq + 1) % 2 ^ 32)
    if ok then
      { s with hrb := { h with op := some (.valid p r), flash := flashProgram h.flash (p * 256) bytes } }
    else
      let s := freezeReached (cinc { s with hrb := { h with op := none } } Fld.HRB_FLERR_COUNT)
      if r.type = 1 then hrbPump (skipSector s (p / 256))
      else
        let s := advancePage s p
        hrbPump { s with hrb := { s.hrb with
            staging := if r.type = 2 then s.hrb.staging else r :: s.hrb.staging,
            selDone := if r.type = 2 then clrBit s.hrb.selDone (r.args.getD 0 0) else s.hrb.selDone } }
  | some (.valid p r) =>
    let f := flashProgram h.flash (p * 256 + 0xFC) (leBytes 4 0x5A5AA5A5)
    let s := cinc { s with hrb := { h with op := none, flash := f, seq := (h.seq + 1) % 2 ^ 32 } } Fld.HRB_RECS_COUNT
    let s := if r.closed then { s with hrb := { s.hrb with closings := s.hrb.closings ++ [(p, r)] } }
             else { s with hrb := { s.hrb with openPage := some (p, r) } }
    let s := if r.type = 1 then
        let k := p / 256
        let s := { s with hrb := { s.hrb with erased := s.hrb.erased ++ [k] } }
        if s.hrb.wpage = k * 256 then enterSector s k else s
      else advancePage s p
    let s := freezeReached s
    hrbPump { s with hrb := hrbErase s.hrb }
  | some (.rep p r) =>
    let s := if ok then { s with hrb := { h with op := none, flash := flashProgram h.flash (p * 256 + 0xE0) (repBytes r) } }
             else cinc { s with hrb := { h with op := none } } Fld.HRB_FLERR_COUNT
    let s := freezeReached s
    hrbPump { s with hrb := hrbErase s.hrb }

/-- The bytes of a page that are programmed. -/
def pageUsed (f : Tbl Nat) (p : Nat) : Bool := f.any fun e => decide (p * 256 ≤ e.1) && decide (e.1 < p * 256 + 256)

/-- VALID of a page is written (R535). -/
def pageMarked (f : Tbl Nat) (p : Nat) : Bool := flashLe f (p * 256 + 0xFC) 4 == 0x5A5AA5A5

/-- A page holds a valid record (R552). -/
def pageValid (f : Tbl Nat) (p : Nat) : Bool :=
  pageMarked f p && flashLe f (p * 256) 2 == 0x4842 && flashLe f (p * 256 + 0xDC) 4 == crc32 (flashRead f (p * 256) 0xDC)

/-- SEQ of a record (R535). -/
def pageSeq (f : Tbl Nat) (p : Nat) : Nat := flashLe f (p * 256 + 8) 4

/-- SEQ order (R537): `a` is later than `b`. -/
def seqLater (a b : Nat) : Bool :=
  let d := (a + 2 ^ 32 - b) % 2 ^ 32
  decide (1 ≤ d) && decide (d ≤ 2 ^ 31)

/-- The sectors that hold any programmed byte; every other sector is erased throughout. -/
def usedSectors (f : Tbl Nat) : List Nat := (f.map fun e => e.1 / 65536).eraseDups

/-- The scan (R552): the current sector, the first page to write, the pages to count in HRB_SCANBAD, the valid records found, the
newest SEQ and the highest erase count. -/
def hrbScan (s : State) : State :=
  let f := s.hrb.flash
  let marked := (usedSectors f).filter fun k => pageMarked f (k * 256)
  let good := marked.filter fun k => pageValid f (k * 256) && flashLe f (k * 256 * 256 + 2) 2 == 1
  let cur := good.foldl (fun (a : Option Nat) k => match a with
    | none => some k
    | some b => if seqLater (pageSeq f (k * 256)) (pageSeq f (b * 256)) then some k else some b) none
  let maxErase := (good.map fun k => flashLe f (k * 65536 + 0x2C) 4).foldl max 0
  let pages := match cur with
    | none => []
    | some k => ((List.range 256).map fun i => k * 256 + i).takeWhile (pageUsed f)
  let recs := pages.filter (pageValid f)
  let bad := (pages.filter fun p => pageMarked f p && !pageValid f p).length + (marked.filter fun k =>
    !pageValid f (k * 256) && some k != cur).length
  let seq := recs.foldl (fun a p => if seqLater (pageSeq f p) a then pageSeq f p else a)
    (match cur with | none => 0 | some k => pageSeq f (k * 256))
  let found := recs.length + (good.filter fun k => some k != cur).length
  let s := cadd s Fld.HRB_SCANBAD_COUNT bad
  let n := fget s Fld.HRB_CTRL_ERAHEAD
  let h := { s.hrb with scanning := false, seq := seq, maxErase := maxErase, openPage := none, selDone := 0 }
  let h : Herbarium := match cur with
    | none => { h with wpage := 0, osector := 0, erased := [], eraseQ := (List.range n).map (sectorAhead h 0) }
    | some k =>
      let last := ((List.range 256).filter fun i => pageUsed f (k * 256 + i)).foldl max 0
      let ahead := (List.range n).map fun i => sectorAhead h k (i + 1)
      let clean := ahead.filter fun j => good.contains j && !((List.range 255).any fun i => pageUsed f (j * 256 + i + 1))
      let oldest := ((List.range 1024).map fun i => (k + n + 1 + i) % 1024).find? fun j => good.contains j
      { h with wpage := if last = 255 then nextSector h k * 256 else k * 256 + last + 1, osector := oldest.getD k,
               erased := clean, eraseQ := ahead.filter fun j => !clean.contains j }
  let s := { s with hrb := hrbErase h }
  let s := if h.wpage % 256 = 0 ∧ h.erased.contains (h.wpage / 256) = true then enterSector s (h.wpage / 256) else s
  recordExcl s 0x0004 0x3007 [s.cru.cause, 0x1280B000, found, seq]

/-- A sector erase has ended, as the flash reports (R551, R553); one that is suspended does not end. -/
def flashEraseDone (s : State) (ok : Bool) : State :=
  match s.hrb.erasing with
  | none | some (_, true) => s
  | some (k, false) =>
    if ok then
      let prev := if pageValid s.hrb.flash (k * 256) && flashLe s.hrb.flash (k * 65536 + 2) 2 == 1
        then flashLe s.hrb.flash (k * 65536 + 0x2C) 4 else s.hrb.maxErase
      hrbPump { s with hrb := { s.hrb with erasing := none, flash := flashErase s.hrb.flash (k * 65536) (k * 65536 + 65536),
                                           needSector := some (k, prev + 1) } }
    else
      let s := cinc s Fld.HRB_FLERR_COUNT
      skipSector { s with hrb := { s.hrb with erasing := none } } k

/-! ### The page -/

/-- What follows a change of HRB_CTRL: a freeze begins or ends (R548, R549). -/
def hrbChanged (r : HrbReg) (s : State) : State :=
  match r with
  | .HRB_CTRL =>
    if fbit s Fld.HRB_CTRL_FREEZE then
      { s with hrb := { s.hrb with frozen := s.hrb.op.isNone, erasing := s.hrb.erasing.map fun e => (e.1, true) } }
    else if s.hrb.frozen then hrbPump { s with hrb := hrbErase { s.hrb with frozen := false } }
    else s
  | _ => s

/-- What follows a change of EN of the page (R545, R552, R554). -/
def hrbEnable (on : Bool) (s : State) : State :=
  if on then { s with hrb := { s.hrb with scanning := true } }
  else { s with hrb := closeOpen s.hrb }

/-- A soft reset of the page (R554); the freeze ends with FREEZE back at 0 (DEDUCED, log 106). -/
def hrbSrst (s : State) : State :=
  let s := cadd (fset s Fld.HRB_CTRL_FREEZE 0) Fld.HRB_LOST_COUNT s.hrb.staging.length
  { s with hrb := { s.hrb with
      staging := [], open_ := none, openPage := none, closings := [], op := none, frozen := false, erasing := none, eraseQ := [],
      erased := [], needSector := none, scanning := enabled s hrbPage } }

/-- The parts that a selection of `n` offsets needs (R555). -/
def partsOf (n : Nat) : Nat := if n ≤ 11 then 1 else if n ≤ 23 then 2 else 3

/-- A part of a selection is written: CODE and selection (R555). -/
def snapWrite (sel : SnapSel) (part : Nat) (w : Nat → Nat) : SnapSel × Nat :=
  let finish (n : Nat) (offs : List Nat) : SnapSel := { offs := offs.take n, ver := (sel.ver + 1) % 65536, draft := none }
  if part = 0 then
    let n := min (w 0 % 32) 30
    let offs := (List.range 11).map fun i => w (i + 1) / 4 * 4
    if partsOf n = 1 then (finish n offs, 0) else ({ sel with draft := some (n, offs) }, 0)
  else match sel.draft with
    | none => (sel, 3)
    | some (n, offs) =>
      if offs.length ≠ (if part = 1 then 11 else 23) ∨ partsOf n ≤ part then (sel, 3)
      else
        let offs := offs ++ (List.range 12).map fun i => w i / 4 * 4
        if partsOf n = part + 1 then (finish n offs, 0) else ({ sel with draft := some (n, offs) }, 0)

/-- The words of a part of a selection (R555). -/
def snapWords (sel : SnapSel) (part : Nat) : List Word :=
  match part with
  | 0 => w32 (sel.ver * 2 ^ 16 + sel.offs.length) :: (List.range 11).map fun i => w32 (sel.offs.getD i 0)
  | 1 => (List.range 12).map fun i => w32 (sel.offs.getD (11 + i) 0)
  | 2 => (List.range 7).map fun i => w32 (sel.offs.getD (23 + i) 0)
  | _ => []

/-- The offsets that SETLAST carries are D0 to D6; a selection is at most 30 long (R555). -/
def snapSet (s : State) (a c part : Nat) : State :=
  let b := mbxAt s a
  let sel := tat s.hrb.sels c {}
  let (sel', code) := snapWrite sel part b.w
  -- a change of the selection in force asks for a new SNAPSEL record (R542); a draft is dropped by a new SET of another class
  let sels := (s.hrb.sels.map fun e => (e.1, { e.2 with draft := if e.1 = c then e.2.draft else none }))
  let s := { s with hrb := { s.hrb with
      sels := if code = 0 then tset sels c sel' else s.hrb.sels,
      selDone := if sel'.ver = sel.ver then s.hrb.selDone else clrBit s.hrb.selDone c } }
  mbxEnd s a code

/-- A request of an HRB mailbox is carried out (R555). -/
def hrbMbx (r : HrbReg) (a : Nat) (s : State) : State :=
  let b := mbxAt s a
  match r with
  | .HRB_READ =>
    if b.wr || b.op != 0x01 then mbxEnd s a 0xFF
    else
      let p := b.arg % 8
      if 5 < p then mbxEnd s a 0xFF
      else
        let n := if p = 5 then 16 else 48
        mbxAnswer s a 0 (wordsOfBytes (n / 4) (flashRead s.hrb.flash (fget s Fld.HRB_RDADDR_PAGE * 256 + 48 * p) n))
  | .HRB_SNAP =>
    let c := b.arg % 16
    match b.op, b.wr with
    | 0x01, true => snapSet s a c 0
    | 0x02, true => snapSet s a c 1
    | 0x03, true => snapSet s a c 2
    | 0x04, false => mbxAnswer s a 0 (snapWords (tat s.hrb.sels c {}) (bits b.arg 5 4))
    | _, _ => mbxEnd s a 0xFF
  | .HRB_LOG =>
    if !b.wr || b.op != 0x01 then mbxEnd s a 0xFF
    else
      let type := b.arg % 4096
      if type / 256 < 14 then mbxEnd s a 0x02
      else
        let (s, ok) := acceptEvent s type b.mid [b.w 0, b.w 1, b.w 2, b.w 3, b.w 4, b.w 5] false none
        mbxEnd s a (if ok then 0 else 1)
  | _ => s

end Sys2Proof.Machine
end

