-- ==== Sys2Proof/Machine/Post.lean ====
section
/-! DEFINITION. Reporting a fault (R608–R612), and the operations of the Bandstand: admission, held events, dispatch, TAKE,
completion and withdrawal (R335–R347). -/

namespace Sys2Proof.Machine

/-! ### Messages of the Footbridge (R428) and the freeze (R448) -/

/-- A message is sent on both links (R427, R428). -/
def ftbSend (s : State) (type : Nat) (body : List Nat) : State :=
  if !pairOp s then s
  else
    let n := tat s.ftb.seqs type 0
    { s with ftb := { s.ftb with
        seqs := tset s.ftb.seqs type ((n + 1) % 2 ^ 32), sentAt := s.sdl.raw,
        sent := s.ftb.sent ++ [⟨type, n, ftbState s, tokenHeld s, (tickInProgress s).getD 0, body⟩] } }

/-- HEALTH of this module (R428). -/
def ftbHealth (s : State) : Nat := flagBits [faultAsserted s, frozen s]

/-- A CONTROL is sent (R428). -/
def ftbControl (s : State) (req : Nat) (confirm : Bool) (k : Nat) : State :=
  ftbSend s 1 ([s.ftb.epoch, req, b2n confirm, ftbHealth s, k % 2 ^ 32, k / 2 ^ 32] ++
    digestWords (cfgDigest s) ++ [s.ftb.steps])

/-- A holder freezes its outputs and sends RELINQUISH (R448). -/
def ftbFreeze (s : State) : State :=
  if pairOp s && s.ftb.holder && s.ftb.frozen.isNone then
    ftbControl { s with ftb := { s.ftb with frozen := some ((tickInProgress s).getD 0) } } 5 false 0
  else s

/-! ### Faults -/

/-- A detection event of fault class `c`: counted, recorded, and marked for transfer (R609, R611, R612, R615). -/
def raiseFault (s : State) (c : Nat) (args : List Nat) : State :=
  let s := cinc s (Fld.MEM_FCNT_COUNT (c - 1))
  let s := if bit (fget s Fld.MEM_FXFER_X) (c - 1) then ftbFreeze s else s
  if enabled s 0xF02000 then record s (0x0100 + c) 0x300C args else s

/-- A detection event whose detail is a syndrome or a compare pattern, a free value (R612; log 52). -/
def raiseOpen (s : State) (c unit place : Nat) : State := raiseFault (drew s) c [unit, place, drawn 32 s]

/-- A flash failure that the Herbarium's flash reports (R553, R608 class 18). The unit of its record is a free value (log 52). -/
def flashFault (s : State) (failed : Bool) : State := if failed then raiseFault (drew s) 18 [drawn 32 s] else s

/-- A program operation of the Herbarium's flash whose failure counts: a body or a REPEAT (R553; log 106). -/
def programCounts (s : State) : Bool := match s.hrb.op with | some (.body _ _) | some (.rep _ _) => true | _ => false

/-- A sector erase is in progress and not suspended (R553). -/
def eraseRuns (s : State) : Bool := match s.hrb.erasing with | some (_, false) => true | _ => false

/-! ### Admission -/

/-- What became of a post (R335): `later` where its producer has had a post admitted in this fabric clock (R336). -/
inductive PostResult where
  | admitted | refused | discarded | later
deriving DecidableEq, Repr

/-- The post is still to be made: it was refused, or waits for the next clock (R336, R338). -/
def PostResult.holds (r : PostResult) : Bool := r == .refused || r == .later

/-- What follows a post: `kept` where it is still to be made, else `other` (R335, R336, R338). -/
def onPosted {γ : Type} (x : State × PostResult) (kept other : State → γ) : γ := if x.2.holds then kept x.1 else other x.1

/-- The rank of an event's producer in the order of R336: SV ingest's frame path and release path, the Lantern, the GOOSE subscriber, DIN,
the alarms, the Belvedere, BND_POST, and the pavilions by number. -/
def producerOf (e : Ev) : Nat :=
  match e.type with
  | 1 | 2 => 0 | 3 => 1 | 4 => 2 | 5 => 3 | 6 => 4 | 7 => 5 | 8 => 6
  | _ => if midClass e.src = 2 then 8 + midIndex e.src else 7

/-- A producer has had a post admitted in this fabric clock (R336). -/
def hasPosted (s : State) (p : Nat) : Bool := tget s.bnd.posted p == some s.sdl.fab

/-- An event joins the tail of a queue, among the posts of one clock in the order of R336. -/
def admitAt (x : QEv) : List QEv → List QEv
  | [] => [x]
  | y :: t => match x.post, y.post with
    | some (c, p), some (c', p') => if c' = c ∧ p < p' then x :: y :: t else y :: admitAt x t
    | _, _ => y :: admitAt x t

/-- One event was admitted before another (R336, R347). -/
def admittedBefore (a b : QEv) : Bool :=
  match a.post, b.post with
  | some (c, p), some (c', p') => if c = c' ∧ p ≠ p' then decide (p < p') else decide (a.seq < b.seq)
  | _, _ => decide (a.seq < b.seq)

/-- Page and entry of a queue's registers (R352). -/
def qPage (q : Nat) : Nat := 0x801000 + q / 128 * 0x1000

/-- The queue accepts posts: EN = 1 and its page enabled (R335, R349). -/
def qOpen (s : State) (q : Nat) : Bool := fbit s (Fld.BND_Q_CFG_EN (q / 128) (q % 128)) && enabled s (qPage q)

/-- An event enters the tail of its queue, with the owner's settings stamped into it (R333); `post` is the clock and the producer of a
direct post (R336). -/
def bndAdmit (s : State) (e : Ev) (post : Option (Nat × Nat)) : State :=
  let q := e.queue % 8192
  let owner := qOwner s q
  let qe : QEv := { ev := { e with queue := q, gen := genOf s owner }, seq := s.bnd.seq, owner := owner,
                    cls := min (fget s (Fld.BND_Q_CFG_CLASS (q / 128) (q % 128))) 2,
                    deadline := fget s (Fld.BND_Q_LIM_DEADLINE (q / 128) (q % 128)), post := post }
  cinc { s with bnd := { s.bnd with queues := tset s.bnd.queues q (admitAt qe (queueOf s q)), seq := s.bnd.seq + 1 } }
    Fld.BND_POSTS_COUNT

/-- A producer's post was admitted in this fabric clock (R336). -/
def notePost (s : State) (p : Nat) : State := { s with bnd := { s.bnd with posted := tset s.bnd.posted p s.sdl.fab } }

/-- An event is posted to its queue (R332, R333, R335, R336, R349). -/
def bndPost (s : State) (e : Ev) : State × PostResult :=
  let q := e.queue % 8192
  if !qOpen s q then (cinc s Fld.BND_NOQ_COUNT, .discarded)
  else if hasPosted s (producerOf e) then (s, .later)
  else if !enabled s 0x800000 || decide (qLimit s q ≤ (queueOf s q).length) || poolFree s == 0 then
    (cinc s Fld.BND_REFUSE_COUNT, .refused)
  else (notePost (bndAdmit s e (some (s.sdl.fab, producerOf e))) (producerOf e), .admitted)

/-- The producers that hold a refused event by unit (R338). -/
inductive Holder where
  | state | release | meas | din | alarm | capture
deriving DecidableEq, Repr

/-- The key of a held event. -/
def Holder.key (h : Holder) (unit : Nat) : Nat :=
  (match h with | .state => 0 | .release => 1 | .meas => 2 | .din => 3 | .alarm => 4 | .capture => 5) * 65536 + unit

/-- The event that a producer holds for a unit, the oldest of an alarm's. -/
def heldOf (s : State) (h : Holder) (unit : Nat) : Option Ev := (tat s.bnd.held (h.key unit) []).head?

/-- What a producer holds for a unit replaced. -/
def setHeld (s : State) (h : Holder) (unit : Nat) (l : List Ev) : State :=
  { s with bnd := { s.bnd with held := if l.isEmpty then tdel s.bnd.held (h.key unit) else tset s.bnd.held (h.key unit) l } }

/-- An event that replaces the one held: but for STATE events it adds 1 to MISSED (R288, R321, R338). -/
def replacing (h : Holder) (old e : Ev) : Ev :=
  match h with
  | .din | .capture | .release | .meas => { e with missed := min (old.missed + 1) 255 }
  | _ => e

/-- An event of a producer that holds what is refused (R338): posted, or held; a newer event replaces the held one. The Boolean tells
whether a held event was replaced. -/
def postOrHold (s : State) (h : Holder) (unit : Nat) (e : Ev) : State × Bool :=
  match heldOf s h unit with
  | some old => (setHeld s h unit [replacing h old e], true)
  | none => onPosted (bndPost s e) (fun s => (setHeld s h unit [e], false)) fun s => (s, false)

/-- As `postOrHold`, with the replacement of a held event counted. -/
def postCounted (s : State) (h : Holder) (unit : Nat) (e : Ev) (count : FieldRef) : State :=
  onOk (postOrHold s h unit e) (fun s => s) fun s => cinc s count

/-- A held event is offered again (R338). -/
def retryHeld (s : State) (h : Holder) (unit : Nat) : State :=
  match heldOf s h unit with
  | none => s
  | some e => onPosted (bndPost s e) (fun s => s) fun s => setHeld s h unit (tat s.bnd.held (h.key unit) []).tail

/-- The next alarm that holds an event, in turn after the last one offered (R173). -/
def nextHeldAlarm (s : State) : Option Nat :=
  ((List.range 256).map fun i => (s.ang.turn + 1 + i) % 256).find? fun k => (heldOf s .alarm k).isSome

/-- The alarms' producer offers one held event in a fabric clock, the next in turn (R173, R336). -/
def retryAlarm (s : State) : State :=
  match (if s.ang.offerAt = some s.sdl.fab then none else nextHeldAlarm s) with
  | none => s
  | some k => retryHeld { s with ang := { s.ang with turn := k, offerAt := some s.sdl.fab } } .alarm k

/-- An alarm's event waits behind those that the alarm holds, and the alarms' producer makes its offer of this clock (R173). -/
def alarmPost (s : State) (k : Nat) (e : Ev) : State := retryAlarm (setHeld s .alarm k (tat s.bnd.held (Holder.key .alarm k) [] ++ [e]))

/-! ### Stale events -/

/-- An event's GEN differs from its owner's current generation (R346). -/
def stale (s : State) (e : QEv) : Bool := e.ev.gen != genOf s e.owner

/-- Stale events at the head of a queue are discarded and counted in the owner's page (R346). -/
def purgeHead (s : State) (q : Nat) : State :=
  let gone := (queueOf s q).takeWhile (stale s)
  let rest := (queueOf s q).dropWhile (stale s)
  if gone.isEmpty then s
  else
    let s := { s with bnd := { s.bnd with queues := if rest.isEmpty then tdel s.bnd.queues q else tset s.bnd.queues q rest } }
    gone.foldl (fun s e => cinc s (Fld.PAV_STALE_COUNT e.owner)) s

/-- Stale events at the heads of every queue are discarded (R346). -/
def purgeAll (s : State) : State := (s.bnd.queues.map fun e => e.1).foldl purgeHead s

/-! ### Dispatch -/

/-- A pair takes part in dispatch: its page is enabled and it is not halted (R347). -/
def pairUp (s : State) (k : Nat) : Bool := enabled s (0x880000 + k * 0x1000) && !s.cyc.halted.contains k

/-- The pair serves the set (R341). -/
def serves (s : State) (k set : Nat) : Bool :=
  pairUp s k && (if set < 32 then bit (fget s (Fld.BND_PSETS0_MASK k)) set else bit (fget s (Fld.BND_PSETS1_MASK k)) (set - 32))

/-- The pair with the least backlog among some, the lowest number on a tie (R342). -/
def leastBacklog (s : State) (ks : List Nat) : Option Nat :=
  ks.foldl (fun a k => match a with
    | none => some k
    | some b => if backlog s k < backlog s b then some k else some b) none

/-- The pair that last received an event of this flow or ATOMIC owner (R342). -/
def remembered (s : State) (e : QEv) : Option Nat :=
  match e.cls with
  | 1 => (s.bnd.flowMem.find? fun m => m.1 == e.ev.queue && m.2.1 == e.ev.flow).map fun m => m.2.2
  | 2 => tget s.bnd.ownerMem e.owner
  | _ => none

/-- The pair that an event of a set goes to now, and whether that is a migration (R342). -/
def targetPair (s : State) (set : Nat) (e : QEv) : Option (Nat × Bool) :=
  let all := (List.range 48).filter fun k => serves s k set
  let roomy := all.filter fun k => decide ((slotOf s k).length < 2)
  match (remembered s e).filter fun r => serves s r set with
  | some r =>
    if backlog s r ≤ fget s Fld.BND_MIGTHR_THR then some (r, false)
    else (leastBacklog s all).map fun k => (k, k != r)
  | none => (leastBacklog s roomy).map fun k => (k, false)

/-- SET and PRIO of a queue. -/
def qSet (s : State) (q : Nat) : Nat := fget s (Fld.BND_Q_CFG_SET (q / 128) (q % 128))
/-- PRIO of a queue. -/
def qPrio (s : State) (q : Nat) : Nat := fget s (Fld.BND_Q_CFG_PRIO (q / 128) (q % 128))

/-- The oldest event of a queue that may enter a slot of pair `k` now, and whether it migrates (R339–R342). -/
def eligibleFor (s : State) (k q : Nat) : Option (QEv × Bool) :=
  (candidates (queueOf s q)).findSome? fun e =>
    if heldBack s e || held s (qOwner s q) then none
    else match targetPair s (qSet s q) e with
      | some (t, m) => if t = k then some (e, m) else none
      | none => none

/-- Queues in the order they are served: PRIO, then round-robin after the queue of that PRIO served last (R341). -/
def serveOrder (s : State) : List Nat :=
  (List.range 16).flatMap fun p =>
    let qs := (s.bnd.queues.map fun e => e.1).filter fun q => qPrio s q == p
    let last := tat s.bnd.lastServed p 8191
    qs.filter (fun q => decide (last < q)) ++ qs.filter (fun q => decide (q ≤ last))

/-- The affinity memory after pair `k` received an event (R342). -/
def rememberPair (b : Bandstand) (e : QEv) (k : Nat) : Bandstand :=
  match e.cls with
  | 1 => { b with flowMem := ((e.ev.queue, e.ev.flow, k) ::
      b.flowMem.filter fun m => !(m.1 == e.ev.queue && m.2.1 == e.ev.flow)).take 16384 }
  | 2 => { b with ownerMem := tset b.ownerMem e.owner k }
  | _ => b

/-- Queue `q` loses the event of admission order `n`. -/
def dequeue (b : Bandstand) (q n : Nat) : Bandstand :=
  let rest := (tat b.queues q []).filter fun e => e.seq != n
  { b with queues := if rest.isEmpty then tdel b.queues q else tset b.queues q rest }

/-! ### TAKE and completion -/

/-- The eight words of an event (R331). -/
def evWords (e : Ev) : List Word :=
  [w32 (e.type * 2 ^ 24 + e.gen * 2 ^ 16 + e.queue), w32 e.flow, w32 (e.missed * 2 ^ 24 + e.src), w32 (e.ns % 1000000000),
   w32 (e.ns / 1000000000), w32 e.w5, w32 e.w6, w32 e.w7]

/-- The pair's taken event is complete (R344): it is no longer outstanding. -/
def completeTaken (s : State) (k : Nat) : State := { s with bnd := { s.bnd with taken := tdel s.bnd.taken k } }

/-- The slot of a pair replaced. -/
def setSlot (s : State) (k : Nat) (es : List QEv) : State :=
  { s with bnd := { s.bnd with slots := if es.isEmpty then tdel s.bnd.slots k else tset s.bnd.slots k es } }

/-- Stale entries that a TAKE would return are discarded (R346). -/
def purgeSlot (s : State) (k : Nat) : State :=
  let gone := (slotOf s k).takeWhile (stale s)
  let s := setSlot s k ((slotOf s k).dropWhile (stale s))
  gone.foldl (fun s e => cinc s (Fld.PAV_STALE_COUNT e.owner)) s

/-- An event is late for a TAKE accepted at PTP time `t` (R345). -/
def isLate (e : QEv) (t : Nat) : Bool :=
  e.deadline != 0 && decide ((e.ev.ns + e.deadline * 1000) * nsUnit ≤ t)

/-- The oldest slot entry of a pair, if any, is returned to a TAKE accepted at PTP time `t` (R343, R345). -/
def returnEntry (s : State) (k t : Nat) : Option State :=
  match slotOf s k with
  | [] => none
  | e :: es =>
    let s := setSlot s k es
    let s := { s with bnd := { s.bnd with taken := tset s.bnd.taken k e, words := tset s.bnd.words k (evWords e.ev),
                                          waiting := tdel s.bnd.waiting k } }
    let s := cinc s (Fld.BND_PTAKE_COUNT k)
    let late := isLate e t
    let s := if late then cinc s Fld.BND_LATE_COUNT else s
    let w := 2 ^ 31 + bitAt late 30 + e.ev.type * 2 ^ 16 + e.ev.queue
    some { s with reg := { s.reg with resp := { data := [w32 w] } } }

/-- A read of BND_TAKE by a core of pair `k` (R343). -/
def takeRead (s : State) (k : Nat) : State :=
  let s := purgeSlot (completeTaken s k) k
  match (if enabled s (0x880000 + k * 0x1000) then returnEntry s k (timeNow s) else none) with
  | some s' => s'
  | none =>
    { s with bnd := { s.bnd with waiting := tset s.bnd.waiting k (s.sdl.fab, fget s (Fld.BND_TMO_NS k), timeNow s) },
             reg := { s.reg with resp := { wait := true } } }

/-- A waiting TAKE reaches its timeout without an entry (R343). -/
def takeTimeout (s : State) (k : Nat) : State :=
  match tget s.bnd.waiting k with
  | none => s
  | some (a, tmo, _) =>
    if s.sdl.fab < a + tmo then s
    else cinc { s with bnd := { s.bnd with waiting := tdel s.bnd.waiting k },
                       reg := { s.reg with resp := { data := [0] } } } (Fld.BND_PEMPTY_COUNT k)

/-- Entry `e` of queue `q` moves into slot `k`; `mig` tells whether its stream migrates (R340–R342). Stale events that so come to the head of
the queue are discarded (R346). -/
def slotServe (s : State) (k q : Nat) (e : QEv) (mig : Bool) : State :=
  let b := rememberPair (dequeue s.bnd q e.seq) e k
  let s := { s with bnd := { b with lastServed := tset b.lastServed (qPrio s q) q } }
  let s := purgeHead (setSlot s k (slotOf s k ++ [e])) q
  if mig then cinc s Fld.BND_MIGR_COUNT else s

/-- Stale heads are discarded, one free slot entry of pair `k` is filled, and a waiting TAKE returns the entry unless it is stale (R341, R343,
R346, R349). -/
def slotFill (s : State) (k : Nat) : State :=
  if !enabled s 0x800000 then s
  else
    let s := purgeAll s
    if 2 ≤ (slotOf s k).length || !pairUp s k then s
    else match (serveOrder s).findSome? fun q => (eligibleFor s k q).map fun r => (q, r) with
    | none => s
    | some (q, e, mig) =>
      let s := slotServe s k q e mig
      match tget s.bnd.waiting k with
      | none => s
      | some (a, tmo, t) =>
        if s.sdl.fab < a + tmo then
          let s := purgeSlot s k
          match returnEntry s k t with
          | some s' => s'
          | none => s
        else s

/-- A write of BND_DONE.DONE = 1 (R344). -/
def doneWrite (s : State) (k : Nat) : State :=
  if (takenOf s k).isSome then completeTaken s k else wign s (0x880000 + k * 0x1000)

/-- An event returns to the head of its queue, in admission order among those returned (R347). -/
def requeue (s : State) (e : QEv) : State :=
  { s with bnd := { s.bnd with queues := tset s.bnd.queues e.ev.queue (e :: queueOf s e.ev.queue) } }

/-- A pair is withdrawn (R347). -/
def withdraw (s : State) (k : Nat) : State :=
  let es := match slotOf s k with
    | [a, b] => if admittedBefore a b then [b, a] else [a, b]
    | es => es
  let s := setSlot (es.foldl requeue s) k []
  let s := if (takenOf s k).isSome then cinc (completeTaken s k) Fld.BND_ABANDON_COUNT else s
  { s with bnd := { s.bnd with flowMem := s.bnd.flowMem.filter (fun m => m.2.2 != k),
                               ownerMem := s.bnd.ownerMem.filter (fun m => m.2 != k) } }

/-- A soft reset of BND page 0 (R349). -/
def bndReset (s : State) : State :=
  let n := poolUsed s
  let s := cadd s Fld.BND_FLUSH_COUNT n
  { s with bnd := { s.bnd with queues := [], slots := [], taken := [], flowMem := [], ownerMem := [], lastServed := [] } }

end Sys2Proof.Machine
end

