-- ==== Sys2Proof/Machine/Parterre.lean ====
section
/-! DEFINITION. The ends of a transaction slot that apply nothing (R74, R75). -/

namespace Sys2Proof.Machine

/-! ### Ends of a transaction slot -/

/-- A slot replaced. -/
def setTx (s : State) (n : Nat) (t : TxSlot) : State := { s with reg := { s.reg with tx := tset s.reg.tx n t } }

/-- A slot returns to IDLE and releases its claims (R73–R75). -/
def closeTx (s : State) (n last : Nat) : State :=
  setTx s n { txSlot s n with phase := .idle, last := last, claims := [], staging := [], overflow := false }

/-- A commit fails and applies nothing (R75); ERR is set where one is given, and SYS_TX_FAIL counts. -/
def failTx (s : State) (n : Nat) (err : Option Nat) : State :=
  let s := match err with
    | some e => setTx s n { txSlot s n with err := e }
    | none => s
  cinc (closeTx s n 3) Fld.SYS_TX_FAIL_COUNT

end Sys2Proof.Machine
end

