-- ==== Sys2Proof/Machine/Sundial.lean ====
section
/-! DEFINITION. The Sundial: adjustments, the tick generator, the time pins, time-stamp rings, the mains-angle tracker and the angle
alarms (04_sundial_time.md, 05_angle_timebase.md). -/

namespace Sys2Proof.Machine

/-! ### DOUT latches -/

/-- One DOUT pin driven to a level (R169, R171); while frozen the latches hold (R448). -/
def drivePin (s : State) (pin : Nat) (v : Bool) : State :=
  let next : Dbg := { s.dbg with
    dout := putBit s.dbg.dout pin v, drives := s.dbg.drives + 1, doutSeq := tset s.dbg.doutSeq pin (s.dbg.drives + 1) }
  if frozen s then s else { s with dbg := next }

/-! ### The tracker -/

/-- 2 × 2^64 × 10^18, the scale at which positions are exact. -/
def posScale : Int := 2 * 2 ^ 64 * 10 ^ 18

/-- P_est(t) − P_r at the scale `posScale`, in 2^-32 cycle (R156). -/
def estDelta (e : Estimate) (t : Int) : Int :=
  let dt := t - e.tr
  2 * 2 ^ 32 * 10 ^ 9 * (e.freq : Int) * dt + e.rho * dt * dt

/-- P_est(t) in 2^-32 cycle, rounded down (R156; rounding DESIGN CHOICE, log 14). -/
def estAt (e : Estimate) (t : Int) : Int := e.pr + estDelta e t / posScale

/-- With ρ < 0, the two raw counts of `pubAt` to `c` nearest to the estimate's greatest position, which lies where its frequency has
fallen to 0 (R156, R160). -/
def peakCounts (s : State) (c : Nat) : List Nat :=
  let e := s.ang.est
  if 0 ≤ e.rho then []
  else
    let top : Int := e.tr + (e.freq : Int) * (2 ^ 32 * 10 ^ 9) / (-e.rho)
    let k := s.ang.pubAt + ((top - timeAt s.sdl s.ang.pubAt) / (s.sdl.inc : Int)).toNat
    [k, k + 1].filter fun n => decide (s.ang.pubAt ≤ n) && decide (n ≤ c)

/-- P_pub at raw count `c`: the greatest of `pub` and the estimates of the counts from `pubAt` on (R160). -/
def pubUpTo (s : State) (c : Nat) : Nat :=
  if s.ang.st = .off ∨ c < s.ang.pubAt then s.ang.pub
  else (c :: s.ang.pubAt :: peakCounts s c).foldl (fun p n => max p (estAt s.ang.est (timeAt s.sdl n)).toNat) s.ang.pub

/-- P_pub now (R160). -/
def pubNow (s : State) : Nat := pubUpTo s s.sdl.raw

/-- The published position takes the estimates of every count below `c`, before the estimate or the time computation changes at `c`
(R160). -/
def publishTo (s : State) (c : Nat) : State := { s with ang := { s.ang with pub := pubUpTo s (c - 1), pubAt := c } }

/-- The published position takes the estimate of the present count too. -/
def publish (s : State) : State := publishTo s (s.sdl.raw + 1)

/-- FNOM in 2^-32 Hz (R177). -/
def fnom (s : State) : Nat := (if fget s Fld.SDL_ANG_REF_FNOM = 0 then 50 else 60) * 2 ^ 32

/-- An update meets every condition of R157 but the last. -/
def goodApartTol (s : State) (u : RefUpdate) : Bool :=
  u.valid && decide (fget s Fld.SDL_ANG_AMIN_RMS ≤ u.rms) &&
  decide (fget s Fld.SDL_ANG_BAND_FMIN * 2 ^ 32 ≤ u.freq * 100) && decide (u.freq * 100 ≤ fget s Fld.SDL_ANG_BAND_FMAX * 2 ^ 32)

/-- e of R157 against an estimate: wrapped into [−½, ½) cycle, in 2^-32 cycle. -/
def slip (e : Estimate) (u : RefUpdate) : Int := (u.phase - estAt e u.tr + 2 ^ 31) % 2 ^ 32 - 2 ^ 31

/-- |e| ≤ TOL (R157). -/
def withinTol (s : State) (e : Estimate) (u : RefUpdate) : Bool :=
  decide ((slip e u).natAbs ≤ fget s Fld.SDL_ANG_TOL_TOL * 2 ^ 16)

/-- The estimate that an update gives, its integer part nearest to the estimate before it (R156, R158). -/
def adoptFrom (e : Estimate) (u : RefUpdate) : Estimate :=
  let k := (estAt e u.tr - u.phase + 2 ^ 31) / 2 ^ 32
  ⟨k * 2 ^ 32 + u.phase, u.freq, u.rho, u.tr⟩

/-- The latest update that passes a test. -/
def lastThat (us : List RefUpdate) (p : RefUpdate → Bool) : Option RefUpdate := (us.filter p).getLast?

/-- The tracker record (R150). -/
def trackRecord (s : State) (old : TrackState) : State :=
  if old = s.ang.st then s
  else record s 0x0505 0x300D [old.code, s.ang.st.code, s.ang.epoch, fget s Fld.SDL_ANG_REF_CH,
    pubNow s / 2 ^ 32 % 2 ^ 32, pubNow s / 2 ^ 64]

/-! ### Fire instants -/

/-- The least `x` from `b` below `b + 2^n` at which a monotone test holds. -/
def leastFrom (p : Nat → Bool) : Nat → Nat → Nat
  | 0, b => b
  | n + 1, b => if p (b + 2 ^ n - 1) then leastFrom p n b else leastFrom p n (b + 2 ^ n)

/-- t* with ρ = 0, in whole ns rounded up (R164). -/
def linearRoot (e : Estimate) (target : Nat) : Int :=
  -(-((e.tr : Int) * e.freq + ((target : Int) - e.pr) * (2 ^ 32 * 10 ^ 9)) / (e.freq * 2 ^ 32))

/-- t* in whole ns rounded up (R164): the earliest root at or after t_r within 1 s, else the linear one. -/
def rootNs (e : Estimate) (target : Nat) : Int :=
  let d : Int := ((target : Int) - e.pr) * posScale
  let n0 := (e.tr + nsUnit - 1) / nsUnit
  let g (n : Nat) : Int := estDelta e (n * nsUnit) - d
  let fin : Int := e.tr + secUnit
  if e.rho = 0 then linearRoot e target
  else if 0 ≤ d then
    let top : Int := if 0 < e.rho then fin else min fin (e.tr + e.freq * (2 ^ 32 * 10 ^ 9) / (-e.rho))
    if estDelta e top - d < 0 then linearRoot e target
    else leastFrom (fun n => decide (0 ≤ g n) || decide (top ≤ n * nsUnit)) 30 n0
  else if e.rho < 0 ∧ estDelta e fin - d ≤ 0 then leastFrom (fun n => decide (g n ≤ 0)) 30 n0
  else linearRoot e target

/-- t_f of an alarm from the estimate in force, in whole ns (R164). -/
def fireInstant (s : State) (a : Alarm) : Int := rootNs s.ang.est (a.k * 2 ^ 32 + a.a) - a.lead

/-! ### Alarms -/

/-- An alarm replaced. -/
def setAlarm (s : State) (k : Nat) (a : Alarm) : State := { s with ang := { s.ang with alarms := tset s.ang.alarms k a } }

/-- The armed alarms, by increasing number. -/
def armedAlarms (s : State) : List Nat := (s.ang.alarms.filter fun e => e.2.st == .armed).map fun e => e.1

/-- An armed alarm becomes ABORTED and is counted (R167). -/
def abortAlarm (s : State) (k : Nat) : State := cinc (setAlarm s k { alarm s k with st := .aborted }) Fld.SDL_ANG_ABORT_COUNT

/-- Every armed alarm becomes ABORTED (R167, R176). -/
def abortAll (s : State) : State := (armedAlarms s).foldl abortAlarm s

/-- The pulses in progress of alarm `k` on a pin that nothing else had driven stay so when the alarm drives the pin again: only a
command or another alarm takes away their end (R171). `old` is the last drive of the pin before. -/
def ownPulses (s : State) (k pin old : Nat) : State :=
  { s with ang := { s.ang with pulses := s.ang.pulses.map fun e =>
      if e.1 == k && e.2.2.2 == pin && e.2.2.1 == old then (e.1, e.2.1, s.dbg.drives, pin) else e } }

/-- The DOUT action of an alarm (R169, R170); not applied while the outputs are frozen (R448). -/
def alarmDout (s : State) (k : Nat) (a : Alarm) : State :=
  if frozen s then s else
  let raw := s.sdl.raw
  let hit := match s.ang.lastCmd with
    | some (r, m) => r == raw && bit m a.pin
    | none => false
  let s := if hit then cinc s Fld.SDL_ANG_DCOL_COUNT else s
  let beaten := s.ang.lastAlarms.any fun e => e.1 == raw && e.2.2 == a.pin && decide (k < e.2.1)
  let s := { s with ang := { s.ang with lastAlarms := (s.ang.lastAlarms.filter fun e => e.1 == raw) ++ [(raw, k, a.pin)] } }
  let s := if beaten then s else ownPulses (drivePin s a.pin (a.dop != 1)) k a.pin (tat s.dbg.doutSeq a.pin 0)
  if a.dop = 2 then
    { s with ang := { s.ang with
        pulses := s.ang.pulses ++ [(k, raw + clampTo 1 65535 (a.d5 % 65536) * 1000, if beaten then 0 else s.dbg.drives, a.pin)] } }
  else s

/-- An alarm fires: FIRED, its firing time recorded, its action performed (R166, R169, R173). -/
def fireAlarm (s : State) (k : Nat) : State :=
  let a := alarm s k
  let t := timeNow s
  let s := setAlarm s k { a with st := .fired, firedAt := t }
  match a.kind with
  | 0 => alarmDout s k a
  | 2 => alarmPost s k { type := 7, queue := a.d5 % 8192, flow := k, src := 0x300D, ns := if pairOp s then a.tf.toNat else t / nsUnit,
                         w5 := k, w6 := a.payload }
  | _ => s

/-- At a tick edge an armed alarm is predicted anew, and fires at once where its instant has come (R159, R166). -/
def repredict (s : State) (k : Nat) : State :=
  let a := alarm s k
  let tf := fireInstant s a
  let now : Int := timeNow s
  if tf * nsUnit ≤ now then
    let late := decide ((tf + 1000) * nsUnit < now)
    let s := setAlarm s k { a with tf := tf, late := a.late || late }
    let s := if late then cinc s Fld.SDL_ANG_LATE_COUNT else s
    fireAlarm s k
  else setAlarm s k { a with tf := tf }

/-- The alarms on entry into HOLDOVER (R167). -/
def alarmsHold (s : State) : State :=
  (armedAlarms s).foldl (fun s k =>
    let a := alarm s k
    if a.onloss then setAlarm s k { a with hold := true } else abortAlarm s k) s

/-- The tracker enters ACQUIRE (R162, R167, R662). -/
def enterAcquire (s : State) : State :=
  let old := s.ang.st
  let s := publish s
  let s := { s with ang := { s.ang with
      st := .acquire, run := 0, misses := 0, acqGood := false,
      est := ⟨s.ang.pub, fnom s, 0, timeNow s⟩ } }
  abortAll (trackRecord s old)

/-- The tracker enters ACQUIRE with nothing received: updates of what it followed before are dropped (R162, R176). -/
def trackerAfresh (s : State) : State := enterAcquire { s with ang := { s.ang with updates := [] } }

/-- The tracker goes OFF (R167, R176). -/
def trackerOff (s : State) : State :=
  let old := s.ang.st
  let s := publish s
  abortAll (trackRecord { s with ang := { s.ang with st := .off, updates := [], run := 0, misses := 0 } } old)

/-- One update in ACQUIRE (R661): the run, and the update adopted. -/
def acquireUpdate (s : State) (u : RefUpdate) : State :=
  if goodApartTol s u then
    let cont := s.ang.acqGood && s.ang.run != 0 && withinTol s s.ang.est u
    { s with ang := { s.ang with run := if cont then s.ang.run + 1 else 1, acqGood := true, est := adoptFrom s.ang.est u } }
  else cinc { s with ang := { s.ang with run := 0 } } Fld.SDL_ANG_REJ_COUNT

/-- The tracker at a Sundial tick edge (R159, R161, R661). Where a run of LOCKN good updates is complete at the very edge at which ACQUIRE is
entered, R661 does not say whether LOCKED follows there: the model locks at the next edge (DESIGN CHOICE, log 96). -/
def trackerEdge (s : State) : State :=
  if !enabled s 0x203000 then s
  else
    let us := s.ang.updates
    let s := publishTo { s with ang := { s.ang with updates := [] } } s.sdl.raw
    let good (u : RefUpdate) := goodApartTol s u && withinTol s s.ang.est u
    let rej := (us.filter fun u => !good u).length
    match s.ang.st with
    | .off => us.foldl acquireUpdate (enterAcquire s)
    | .acquire =>
      if fget s Fld.SDL_ANG_CNT_LOCKN ≤ (us.foldl acquireUpdate s).ang.run then
        let s := us.foldl acquireUpdate s
        trackRecord { s with ang := { s.ang with st := .locked, epoch := (s.ang.epoch + 1) % 256, misses := 0 } } .acquire
      else us.foldl acquireUpdate s
    | .locked =>
      let misses := us.foldl (fun n u => if good u then 0 else n + 1) s.ang.misses
      let est := match lastThat us good with
        | some u => adoptFrom s.ang.est u
        | none => s.ang.est
      let s := cadd { s with ang := { s.ang with misses := misses, est := est } } Fld.SDL_ANG_REJ_COUNT rej
      if fget s Fld.SDL_ANG_CNT_MISSN ≤ misses ∨ s.ang.lastRecv + 5000000 ≤ s.sdl.raw then
        let s := { s with ang := { s.ang with st := .holdover, holdAt := s.sdl.raw, est := { s.ang.est with rho := 0 } } }
        alarmsHold (trackRecord (cinc s Fld.SDL_ANG_HOLD_COUNT) .locked)
      else s
    | .holdover =>
      let s' := cadd s Fld.SDL_ANG_REJ_COUNT rej
      match lastThat us (goodApartTol s) with
      | some u =>
        if good u then
          trackRecord { s' with ang := { s'.ang with st := .locked, misses := 0, est := adoptFrom s.ang.est u } } .holdover
        else
          let s' := enterAcquire s'
          { s' with ang := { s'.ang with run := 1, acqGood := true, est := adoptFrom s'.ang.est u } }
      | none =>
        if s.ang.holdAt + fget s Fld.SDL_ANG_CNT_HOLD_MS * 1000000 ≤ s.sdl.raw then enterAcquire s' else s'

/-- An armed alarm is predicted anew at every tick edge. -/
def alarmsEdge (s : State) : State := (armedAlarms s).foldl (fun s k => if (alarm s k).st = .armed then repredict s k else s) s

/-- A reference update reaches the tracker (R155, R661). -/
def trackerReceive (s : State) (u : RefUpdate) : State :=
  if enabled s 0x203000 then
    { s with ang := { s.ang with updates := s.ang.updates ++ [u], lastRecv := s.sdl.raw } }
  else s

/-- The arm function (R163–R165): the CODE, and the state. An accepted ARM replaces the alarm's record; the firing time that READ returns
before the alarm fires again is then 0, which R165 leaves open (DESIGN CHOICE, log 97). `pav` is the committing pavilion for a request of the sequencer. -/
def armAlarm (s : State) (k : Nat) (a : Alarm) (pav : Option Nat) : State × Nat :=
  let cur : Alarm := alarm s k
  let foreign := match pav with
    | some p => cur.st == AlarmState.armed && cur.owner != p
    | none => false
  if foreign then (s, 0x09)
  else if !enabled s 0x204000 then (s, 0x0A)
  else if s.ang.st ≠ .locked then (s, 0x02)
  else if cur.st = .armed then (s, 0x08)
  else
    let tf := fireInstant s a
    if tf * nsUnit < timeNow s + 2000 * nsUnit then (s, 0x03)
    else if pubNow s + 65536 * 2 ^ 32 < a.k * 2 ^ 32 + a.a then (s, 0x04)
    else (setAlarm s k { a with st := .armed, tf := tf, hold := false, late := false }, 0)

/-- A CANCEL (R163, R168): the CODE, and the state. -/
def cancelAlarm (s : State) (k : Nat) (pav : Option Nat) : State × Nat :=
  let a := alarm s k
  let foreign := match pav with
    | some p => a.st == AlarmState.armed && a.owner != p
    | none => false
  if foreign then (s, 0x09)
  else match a.st with
    | .armed => if a.tf * nsUnit ≤ (timeNow s : Int) then (s, 0x07) else (setAlarm s k { a with st := .cancelled }, 0)
    | .fired => (s, 0x07)
    | _ => (s, 0)

/-- The settings of an ARM from its words (R178). -/
def alarmOfWords (w : Nat → Nat) : Alarm :=
  let d4 := w 4
  { a := w 0, k := w 1 + 2 ^ 32 * w 2, lead := min (bits (w 3) 29 0) 1000000000, kind := min (bits d4 31 30) 2,
    onloss := bit d4 29, owner := bits d4 25 16, pin := bits d4 12 8, dop := min (bits d4 7 6) 2,
    d5 := if bits d4 31 30 = 0 then w 5 / 2 ^ 16 * 2 ^ 16 + clampTo 1 65535 (w 5 % 2 ^ 16) else w 5, payload := w 6 }

/-- The words of an alarm as READ returns them (R178). -/
def wordsOfAlarm (a : Alarm) : List Word :=
  [w32 a.a, w32 a.k, w32 (a.k / 2 ^ 32), w32 a.lead,
   w32 (a.kind * 2 ^ 30 + bitAt a.onloss 29 + a.owner * 2 ^ 16 + a.pin * 2 ^ 8 + a.dop * 2 ^ 6), w32 a.d5, w32 a.payload,
   w32 (bitAt a.hold 9 + bitAt a.late 8 + a.st.code), w32 (nsOf a.firedAt), w32 (secOf a.firedAt), w32 (secOf a.firedAt / 2 ^ 32)]

/-- The end of a PULSE of alarm `k` that is due (R171). -/
def alarmPulseEnd (s : State) (k : Nat) : State :=
  match s.ang.pulses.find? fun e => e.1 == k && decide (e.2.1 ≤ s.sdl.raw) with
  | none => s
  | some (_, t, n, pin) =>
    let s := { s with ang := { s.ang with pulses := s.ang.pulses.filter fun e => !(e == (k, t, n, pin)) } }
    if tat s.dbg.doutSeq pin 0 = n ∧ frozen s = false then drivePin s pin false else s

/-! ### Adjustments -/

/-- The amount of a STEP in 2^-32 ns (R152): D0 signed whole ns, D1 [15:0] a fraction. -/
def stepAmount (d0 d1 : Nat) : Int := toSigned 32 d0 * 2 ^ 32 + (d1 % 2 ^ 16 * 2 ^ 16 : Nat)

/-- The value of a SET in 2^-32 ns (R152). -/
def setValue (d0 d1 d2 d3 : Nat) : Nat := (d2 + 2 ^ 32 * d3) * secUnit + min d0 999999999 * nsUnit + d1 % 2 ^ 16 * 2 ^ 16

/-- The test of R124, made when a request is taken and again at c_A: the CODE of a refusal. -/
def adjRefusal (s : State) (op d0 d1 : Nat) : Option Nat :=
  if !genActive s then none
  else if op = 0x10 then some 0x05
  else if op = 0x11 ∧ fget s Fld.SDL_STEP_MAX_NS * 2 ^ 32 < (stepAmount d0 d1).natAbs then some 0x02
  else none

/-- The mailbox SDL_ADJ. -/
def sdlAdjMbx : Nat := 0x2000C0

/-- An adjustment request is taken (R121, R122, R124). -/
def adjTake (s : State) : State :=
  let b := mbxAt s sdlAdjMbx
  if !b.wr || !(b.op == 0x10 || b.op == 0x11 || b.op == 0x12) then mbxEnd s sdlAdjMbx 0xFF
  else
    let now := s.sdl.raw
    let cA := if b.arg % 2 = 1 then (now + 64) % 2 ^ 64 else b.w2 4
    let gap := (cA + 2 ^ 64 - now) % 2 ^ 64
    let refuse (code : Nat) (s : State) : State :=
      mbxEnd (record s 0x0502 0x300D [b.op, code, b.w 0, now % 2 ^ 32, now / 2 ^ 32]) sdlAdjMbx code
    if gap < 64 then refuse 0x03 s
    else if 2 ^ 32 < gap then refuse 0x04 s
    else match adjRefusal s b.op (b.w 0) (b.w 1) with
      | some code => refuse code (cinc s Fld.SDL_STEP_REJ_COUNT)
      | none => { s with sdl := { s.sdl with adj := some ⟨b.op, cA, b.w 0, b.w 1, b.w 2, b.w 3⟩ } }

/-- The last whole second that a rise of PPS_OUT must not mark, once T has the value `t` (R131). -/
def secondsPast (t : Nat) : Option Nat := if t % secUnit = 0 then (if t = 0 then none else some (t / secUnit - 1)) else some (t / secUnit)

/-- At c_A the pending adjustment is tested again and applied in one Sundial clock, or refused (R118, R119, R123, R124). -/
def adjApply (s : State) : State :=
  match s.sdl.adj with
  | none => s
  | some j =>
    if (s.sdl.raw + 2 ^ 64 - j.at_) % 2 ^ 64 ≥ 2 ^ 63 then s
    else
      let told := timeAt s.sdl j.at_
      let done (s : State) : State := { s with sdl := { s.sdl with adj := none } }
      let refuse (code : Nat) : State :=
        mbxEnd (record (cinc (done s) Fld.SDL_STEP_REJ_COUNT) 0x0502 0x300D [j.op, code, j.d0, j.at_ % 2 ^ 32, j.at_ / 2 ^ 32]) sdlAdjMbx code
      match adjRefusal s j.op j.d0 j.d1 with
      | some code => refuse code
      | none =>
        if j.op = 0x11 ∧ (told : Int) + stepAmount j.d0 j.d1 < 0 then refuse 0x07
        else
          let s := done (publishTo s j.at_)
          let d := { s.sdl with rawBase := j.at_, past := (s.sdl.base, s.sdl.rawBase, s.sdl.inc) :: s.sdl.past }
          let d := match j.op with
            | 0x10 => let v := setValue j.d0 j.d1 j.d2 j.d3
              { d with base := v, ppsMarked := secondsPast v }
            | 0x11 => { d with base := ((told : Int) + stepAmount j.d0 j.d1).toNat }
            | _ => { d with base := told, inc := clampTo 0xFFBE76C9 0x100418937 (j.d0 + 2 ^ 32 * j.d1) }
          let s := { s with sdl := d }
          mbxEnd (record s 0x0501 0x300D [j.op, j.d0, j.d1, j.at_ % 2 ^ 32, j.at_ / 2 ^ 32, if j.op = 0x10 then j.d2 else 0])
            sdlAdjMbx 0

/-! ### The tick generator -/

/-- The generator starts (R125, R658). -/
def genStart (s : State) : State :=
  let sec := (timeNow s + 1000 * nsUnit + secUnit - 1) / secUnit
  let r := fget s Fld.SDL_BASE_RATE_REQ
  { s with sdl := { s.sdl with gen := .starting, startSec := sec, startRate := r, next := sec * rateHz r, nextSec := sec, nextN := 0 } }

/-- The generator stops (R128, R150). -/
def genStop (s : State) : State :=
  let n := s.sdl.last.getD 0
  record { s with sdl := { s.sdl with gen := .stopped, stopDue := true } } 0x0503 0x300D [0, n % 2 ^ 32, n / 2 ^ 32, s.sdl.rateAct]

/-- The generator follows TICK_RUN and EN of page 0 (R125, R151). R125 names a write of TICK_RUN = 1 while EN = 1 as the start; that a rise
of EN with TICK_RUN already 1 starts it too is the model's choice (DESIGN CHOICE, log 98). -/
def genFollow (s : State) : State :=
  let want := fbit s Fld.SDL_CTRL_TICK_RUN && enabled s 0x200000
  if want && s.sdl.gen == .stopped then genStart s
  else if !want && s.sdl.gen != .stopped then genStop s
  else s

/-- The pins follow their enables (R131, R132, R151). An enable leaves the seconds marked as they are, so the second in progress is marked
at once where it has not been (log 20). -/
def pinsFollow (s : State) : State :=
  let pps := fbit s Fld.SDL_CTRL_PPS_OUT_EN && enabled s 0x200000
  let tick := fbit s Fld.SDL_CTRL_TICK_OUT_EN && enabled s 0x200000
  { s with sdl := { s.sdl with pps := s.sdl.pps && pps, tickOut := s.sdl.tickOut && tick } }

/-- PPS_OUT is driven (R131). -/
def ppsDriven (s : State) : Bool := fbit s Fld.SDL_CTRL_PPS_OUT_EN && enabled s 0x200000

/-- The requested base rate takes effect at the next edge: it is a tick-0 edge of a second that starts at least 1 µs after the
write, and the generator is past its first edge (R6, R125, R130). -/
def rateChangeDue (s : State) : Bool :=
  s.sdl.gen == .running && s.sdl.nextN == 0 && fget s Fld.SDL_BASE_RATE_REQ != s.sdl.rateAct &&
  (match s.sdl.rateAt with
   | some t => decide (t + 1000 * nsUnit ≤ s.sdl.nextSec * secUnit)
   | none => true) &&
  decide (s.sdl.nextSec * secUnit ≤ timeNow s)

/-- A slot armed by COMMIT_AT for the tick-0 edge at which the rate changes keeps that edge under its new number (R73, R130). -/
def renumberSlots (s : State) (old new : Nat) : State :=
  (List.range 4).foldl (fun s k =>
    match (txSlot s k).phase, (txSlot s k).target with
    | .armed, .tick t => if t = old then setTx s k { txSlot s k with target := .tick new } else s
    | _, _ => s) s

/-- A sync for a tick from the one at which the rate changes on keeps its distance from it under the new numbers (R130, R301). -/
def renumberSyncs (s : State) (old new : Nat) : State :=
  { s with cas := { s.cas with syncs := s.cas.syncs.map fun q => { q with ns := q.ns.map fun k => if old ≤ k then k - old + new else k } } }

/-- Slots armed by COMMIT_AT for a tick after the change fail (R130). -/
def failLaterSlots (s : State) (n : Nat) : State × Nat :=
  (List.range 4).foldl (fun (a : State × Nat) k =>
    match (txSlot a.1 k).phase, (txSlot a.1 k).target with
    | .armed, .tick t => if n ≤ t then (failTx a.1 k (some 6), a.2 + 1) else a
    | _, _ => a) (s, 0)

/-- A change of base rate at its tick-0 edge (R130, R150). -/
def baseRateChange (s : State) : State :=
  if !rateChangeDue s then s
  else
    let old := s.sdl.rateAct
    let new := fget s Fld.SDL_BASE_RATE_REQ
    let oldN := s.sdl.next
    let n := s.sdl.nextSec * rateHz new
    let s := { s with sdl := { s.sdl with rateAct := new, next := n, rateAt := none } }
    let (s, k) := failLaterSlots s (oldN + 1)
    let s := renumberSyncs (renumberSlots s oldN n) oldN n
    record s 0x0504 0x300D [old, new, n % 2 ^ 32, n / 2 ^ 32, k]

/-- The Sundial edge of N_next is due (R126). -/
def tickDue (s : State) : Bool := genActive s && atOrAfter (timeNow s) s.sdl.nextSec s.sdl.nextN (nextHz s)

/-- The Sundial edge of N_next (R126, R132, R159). -/
def sundialEdge (s : State) : State :=
  if !tickDue s then s
  else
    let s := baseRateChange s
    let first := s.sdl.gen == .starting
    let hz := nextHz s
    let n := s.sdl.nextN
    let abs := s.sdl.next
    let wrap := n + 1 == hz
    let rise := fbit s Fld.SDL_CTRL_TICK_OUT_EN && n % fget s Fld.SDL_TICKOUT_DIV == 0
    let d := s.sdl
    let s := { s with sdl := { d with
        gen := .running, rateAct := if first then d.startRate else d.rateAct, last := some abs, curN := n,
        next := abs + 1, nextSec := if wrap then d.nextSec + 1 else d.nextSec, nextN := if wrap then 0 else n + 1,
        fabDue := d.fabDue ++ [(abs, d.fab, first)], tickOut := d.tickOut || rise, tickOutAt := if rise then timeNow s else d.tickOutAt } }
    let s := if first then record s 0x0503 0x300D [1, abs % 2 ^ 32, abs / 2 ^ 32, s.sdl.rateAct] else s
    alarmsEdge (trackerEdge s)

/-! ### Time-stamp rings -/

/-- An egress time-stamp is stored in a port's ring, or discarded (R142, R143, R151). -/
def storeStamp (s : State) (m tag ns : Nat) (dropped : Bool) : State :=
  let r := tsRing s m
  if !enabled s 0x202000 || 256 ≤ r.length then
    cinc { s with sdl := { s.sdl with gaps := setBit s.sdl.gaps m } } (Fld.SDL_P_TSLOST_COUNT m)
  else
    { s with sdl := { s.sdl with rings := tset s.sdl.rings m (r ++ [⟨bit s.sdl.gaps m, dropped, tag, if dropped then 0 else ns⟩]),
                                 gaps := clrBit s.sdl.gaps m } }

/-! ### The pages -/

/-- The words of NOW (R152): D8 to D10 read zero while the generator is stopped or starting (R658). -/
def timeNowWords (s : State) : List Word :=
  let t := timeNow s
  let d := s.sdl
  let n := if d.gen = .running then d.last.getD 0 else 0
  [w32 (nsOf t), w32 (fracOf t), w32 (secOf t), w32 (secOf t / 2 ^ 32), w32 d.raw, w32 (d.raw / 2 ^ 32), w32 d.inc, w32 (d.inc / 2 ^ 32),
   w32 n, w32 (n / 2 ^ 32), w32 (if d.gen = .running then 2 ^ 31 + d.curN else 0)]

/-- The words of SDL_ANG_NOW (R161, R177). -/
def angNowWords (s : State) : List Word :=
  if s.ang.st = .off then []
  else
    let p := pubNow s
    let t := timeNow s
    [w32 (p % 2 ^ 32), w32 (p / 2 ^ 32), w32 (p / 2 ^ 64), w32 (convRound 16 s.ang.est.freq).toNat,
     w32 (ofSigned 32 (convRound 16 s.ang.est.rho)), w32 (s.ang.epoch * 2 ^ 24 + s.ang.st.code), w32 (nsOf t), w32 (secOf t),
     w32 (secOf t / 2 ^ 32)]

/-- A request of an SDL mailbox at `a` is carried out (R121, R144, R152, R154, R177, R178). R154 says which requests SDL_TSR accepts and gives
no CODE for another: the model ends it with 0xFF, as SDL_TIME and SDL_ADJ do (DESIGN CHOICE, log 100). -/
def sdlMbx (r : SdlReg) (a i : Nat) (s : State) : State :=
  let b := mbxAt s a
  match r with
  | .SDL_TIME =>
    if b.wr then mbxEnd s a 0xFF
    else match b.op with
      | 0x01 => mbxAnswer s a 0 (timeNowWords s)
      | 0x02 => match s.sdl.ppsIn with
        | none => mbxEnd s a 0x01
        | some (c, t) => mbxAnswer s a 0 [w32 (nsOf t), w32 (fracOf t), w32 (secOf t), w32 (secOf t / 2 ^ 32), w32 c, w32 (c / 2 ^ 32),
            w32 s.sdl.ppsSeq]
      | _ => mbxEnd s a 0xFF
  | .SDL_ADJ => adjTake s
  | .SDL_TSR =>
    if b.wr || b.op != 0x01 then mbxEnd s a 0xFF
    else match tsRing s i with
      | [] => mbxEnd s a 0x01
      | e :: es =>
        mbxAnswer { s with sdl := { s.sdl with rings := tset s.sdl.rings i es } } a 0
          [w32 (bitAt e.gap 31 + bitAt e.dropped 30 + e.tag), w32 (e.ns % 1000000000), w32 (e.ns / 1000000000),
           w32 (e.ns / 1000000000 / 2 ^ 32)]
  | .SDL_ANG_NOW => if b.wr || b.op != 0x01 then mbxEnd s a 0xFF else mbxAnswer s a 0 (angNowWords s)
  | .SDL_ALM_ARM =>
    let k := b.arg % 256
    match b.op, b.wr with
    | 0x01, true => let (s, c) := armAlarm s k (alarmOfWords b.w) none; mbxEnd s a c
    | 0x02, true => let (s, c) := cancelAlarm s k none; mbxEnd s a c
    | 0x03, false => mbxAnswer s a 0 (wordsOfAlarm (alarm s k))
    | _, _ => mbxEnd s a 0xFF
  | _ => s

/-- What follows a write, strobe or commit that applied a value to an SDL register (R125, R130–R132, R162). -/
def sdlChanged (r : SdlReg) (old s : State) : State :=
  match r with
  | .SDL_CTRL => pinsFollow (genFollow s)
  | .SDL_BASE => if fget old Fld.SDL_BASE_RATE_REQ = fget s Fld.SDL_BASE_RATE_REQ then s
    else { s with sdl := { s.sdl with rateAt := some (timeNow s) } }
  | .SDL_ANG_REF =>
    if s.ang.st = .off || (fget old Fld.SDL_ANG_REF_CH == fget s Fld.SDL_ANG_REF_CH && fget old Fld.SDL_ANG_REF_FNOM == fget s Fld.SDL_ANG_REF_FNOM)
    then s else trackerAfresh s
  | _ => s

/-- What follows a change of EN of SDL page `p` (R151, R176). -/
def sdlEnable (p : Nat) (on : Bool) (s : State) : State :=
  match p with
  | 0 => pinsFollow (genFollow s)
  | 3 => if on then { s with ang := { s.ang with updates := [], lastRecv := s.sdl.raw } } else trackerOff s
  | 4 => if on then s else abortAll s
  | _ => s

/-- A soft reset of SDL page `p` (R151, R176). Two points are the model's choice (DESIGN CHOICE, log 99): page 2 also clears the GAP marks
that wait for a next entry, and page 3 does nothing while the tracker, though enabled, is still OFF before its first edge. The frames that alarms hold are dropped in Machine/Ports.lean. -/
def sdlSrst (p : Nat) (s : State) : State :=
  match p with
  | 0 =>
    let s := if s.sdl.adj.isSome then mbxEnd s sdlAdjMbx 0x06 else s
    { s with sdl := { s.sdl with adj := none, ppsIn := none, ppsSeq := 0 } }
  | 2 => { s with sdl := { s.sdl with rings := [], gaps := 0 } }
  | 3 => if s.ang.st = .off then s else trackerAfresh s
  | 4 => { s with ang := { s.ang with alarms := [] } }
  | _ => s

end Sys2Proof.Machine
end

