-- ==== Sys2Proof/Machine/Memory.lean ====
section
/-! DEFINITION. Memory as masters see it: the address map (R22, R23), decode errors, uncorrectable lines and poison (R597–R599),
windows and fences (R20, R397, R398, R663), errors and resets of a pavilion (R407–R411). -/

namespace Sys2Proof.Machine

/-- Base of the on-chip SRAM (R22). -/
def sramBase : Nat := 0x4000000000
/-- Base of the register space (R22). -/
def regBase : Nat := 0x8000000000
/-- Base of the boot ROM (R22). -/
def romBase : Nat := 0xC000000000

/-- `[a, a + n)` lies in DRAM or SRAM of the address map (R22). -/
def inMap (a n : Nat) : Bool := decide (a + n ≤ sramBase) || (decide (sramBase ≤ a) && decide (a + n ≤ sramBase + 0x4000000))

/-- `[a, a + n)` lies in populated DRAM or in SRAM (R22, R23). -/
def memExists (s : State) (a n : Nat) : Bool :=
  decide (a + n ≤ 2 ^ 30 * s.integ.gib) || (decide (sramBase ≤ a) && decide (a + n ≤ sramBase + 0x4000000))

/-- A refused or undecoded access is counted, and the first one's master kept (R23, R26, R33). -/
def decErr (s : State) (mid : Nat) : State :=
  let s := if nz s Fld.SYS_DECERR_COUNT then s else { s with reg := { s.reg with decMid := mid } }
  cinc s Fld.SYS_DECERR_COUNT

/-- The 64-byte lines of `[a, a + n)`. -/
def linesOf (a n : Nat) : List Nat := if n = 0 then [] else (List.range ((a + n - 1) / 64 - a / 64 + 1)).map fun i => a / 64 + i

/-- A poisoned line of `[a, a + n)` (R598). -/
def poisonedIn (s : State) (a n : Nat) : Option Nat := (linesOf a n).find? fun l => s.integ.poison.contains l

/-- An uncorrectable event is counted and the first one kept (R597, R599); the subchannel and rank of a poisoned DRAM line are a free
value (log 52). -/
def noteUE (s : State) (line mid : Nat) (scrub : Bool) : State :=
  if line * 64 < sramBase then
    let s := if ueHeld s then s else { s with integ := { s.integ with
        uePage := line / 64 % 2 ^ 32, ueValid := true, ueScrub := scrub, ueLine := line % 64, ueMid := mid } }
    let s := cinc s (if scrub then Fld.MEM_SCRUE_COUNT else Fld.MEM_UE_COUNT)
    raiseFault (drew s) 10 [drawn 5 s, line / 64 % 2 ^ 32, 0, mid]
  else raiseFault (cinc s (Fld.MEM_OCUE_COUNT 2)) 12 [2, line / 64 % 2 ^ 32, 0, mid]

/-- A read of `n` bytes by a master that no window confines (R23, R597, R598): the bytes, or an error response. -/
def physRead (s : State) (mid a n : Nat) : State × Option (List Nat) :=
  if !memExists s a n then (decErr s mid, none)
  else match poisonedIn s a n with
    | some l => (noteUE s l mid false, none)
    | none => (s, some (rdBytes s a n))

/-- The lines that a write of `n` bytes at `a` covers whole. -/
def wholeLines (a n : Nat) : List Nat := (linesOf a n).filter fun l => decide (a ≤ l * 64) && decide (l * 64 + 64 ≤ a + n)

/-- A write to lines of which some are poisoned (R598): whole lines are written and their poison cleared; a partial write to a
poisoned line is counted and changes nothing. -/
def writeLines (s : State) (a : Nat) (bs : List Nat) : State :=
  let n := bs.length
  let whole := wholeLines a n
  let partly := (linesOf a n).filter fun l => s.integ.poison.contains l && !whole.contains l
  let s := cadd s Fld.MEM_POISONW_COUNT partly.length
  let s := { s with integ := { s.integ with poison := s.integ.poison.filter fun l => !whole.contains l } }
  (bs.zip (List.range n)).foldl (fun s e => if partly.contains ((a + e.2) / 64) then s else wr8 s (a + e.2) e.1) s

/-- A write by a master that no window confines (R23, R598): whether it was performed. -/
def physWrite (s : State) (mid a : Nat) (bs : List Nat) : State × Bool :=
  if !memExists s a bs.length then (decErr s mid, false)
  else if s.integ.poison.isEmpty then (wrBytes s a bs, true)
  else (writeLines s a bs, true)

/-- The state that such a write leaves. -/
def physPut (s : State) (mid a : Nat) (bs : List Nat) : State := (physWrite s mid a bs).1

/-! ### Pavilions: errors and resets -/

/-- A pavilion replaced. -/
def setPav (s : State) (p : Nat) (v : Pav) : State := { s with pav := { s.pav with tbl := tset s.pav.tbl p v } }

/-- The home pair of a pavilion in force (R363). -/
def homeOf (s : State) (p : Nat) : Nat := fget s (Fld.CYC_PV_CTRL_HOME (p / 32) (p % 32))

/-- The pairs that run a pavilion, as the device sees it: a RUNNING instance, or a taken event of a queue it owned (R402; DEDUCED,
log 23). -/
def pairsRunning (s : State) (p : Nat) : List Nat :=
  (List.range 48).filter fun k =>
    (s.cyc.insts.any fun e => e.pair == k && e.pav == p && e.st == .running) ||
    (match takenOf s k with | some e => e.owner == p | none => false)

/-- An identity is written to the supervisor interrupt file of both cores of a pair (R368, R403, R410). -/
def notifyPair (id : Nat) (s : State) (k : Nat) : State :=
  { s with cyc := { s.cyc with msis := s.cyc.msis ++ [(2 * k, id), (2 * k + 1, id)] } }

/-- The mailbox PAV_MIG of a pavilion. -/
def migMbx (p : Nat) : Nat := 0x4000100 + p * 0x1000

/-- A migration request in progress ends with a CODE. -/
def migEnd (s : State) (p code : Nat) : State :=
  mbxEndIfBusy (setPav s p { pavOf s p with mig := none }) (migMbx p) code

/-- A pavilion reset begins (R410, R415). -/
def pavReset (s : State) (p : Nat) : State :=
  let s := if (pavOf s p).mig.isSome then migEnd s p 0xFE else s
  let s := setPav s p { pavOf s p with
    gen := (genOf s p + 1) % 256, phase := .reset, resetTick := tickInProgress s, resetAt := s.sdl.fab, resetDue := false }
  let s := cinc s (Fld.PAV_RESETS_COUNT p)
  let id := fget s (Fld.PAV_CTRL_EIID p)
  let ks := pairsRunning s p
  let ks := if ks.contains (homeOf s p) then ks else ks ++ [homeOf s p]
  ks.foldl (notifyPair id) s

/-- A pavilion reset is asked for: one that falls within steps 2 to 6 of an edge waits for the end of step 6 (R411). -/
def askReset (s : State) (p : Nat) : State :=
  if s.cyc.inCommit then setPav s p { pavOf s p with resetDue := true } else pavReset s p

/-- The counter of an error KIND (R407). -/
def errCounter (p kind : Nat) : FieldRef :=
  match kind with
  | 0 => Fld.PAV_EWIN_COUNT p
  | 1 => Fld.PAV_ELATCH_COUNT p
  | 2 => Fld.PAV_EDESC_COUNT p
  | _ => Fld.PAV_EWDT_COUNT p

/-- An error of a pavilion (R407, R408). -/
def pavError (s : State) (p kind mid addr : Nat) : State :=
  let s := if anyError s p then s else setPav s p { pavOf s p with
    errValid := true, errKind := kind, errMid := if kind = 0 then mid else 0, errPage := addr / 4096 % 2 ^ 32 }
  let s := cinc s (errCounter p kind)
  if bit (fget s (Fld.PAV_CTRL_ERRACT p)) kind then askReset s p else s

/-! ### Windows -/

/-- What an access asks of a region (R397, R398). -/
inductive Perm where
  | read | write | fetch
deriving DecidableEq, Repr

/-- The permission bit of a region. -/
def grants (s : State) (p k : Nat) (perm : Perm) : Bool :=
  match perm with
  | .read => fbit s (Fld.PAV_WIN_SIZE_R p k)
  | .write => fbit s (Fld.PAV_WIN_SIZE_W p k)
  | .fetch => fbit s (Fld.PAV_WIN_SIZE_X p k)

/-- `[a, a + n)` lies wholly in one region of a pavilion that grants the permission (R397, R398; one region: DEDUCED, log 25). -/
def inWindow (s : State) (p a n : Nat) (perm : Perm) : Bool :=
  inMap a n && (List.range 8).any fun k =>
    let base := fget s (Fld.PAV_WIN_BASE_ADDR p k) * 4096
    grants s p k perm && decide (base ≤ a) && decide (a + n ≤ base + fget s (Fld.PAV_WIN_SIZE_PAGES p k) * 4096)

/-- What becomes of a transfer of an engine for a pavilion, or of a guest access. -/
inductive Verdict where
  | fence | window | pass
deriving DecidableEq, Repr

/-- The check of a transaction with a pavilion's identity or on its behalf (R20, R398, R663). -/
def verdict (s : State) (p a n : Nat) (perm : Perm) : Verdict :=
  if fenced s p then .fence else if inWindow s p a n perm then .pass else .window

/-- A transfer refused by a fence or by the window is counted (R407, R663). -/
def refuseFor (s : State) (p mid a : Nat) : Verdict → State
  | .fence => cinc s (Fld.PAV_FENCED_COUNT p)
  | .window => pavError s p 0 mid a
  | .pass => s

/-- `[a, a + n)` cut at the 4 KiB pages, each piece with its length. -/
def pagePieces (a n : Nat) : List (Nat × Nat) :=
  (List.range ((a % 4096 + n + 4095) / 4096)).map fun i =>
    let lo := max a ((a / 4096 + i) * 4096)
    (lo, min (a + n) ((a / 4096 + i + 1) * 4096) - lo)

/-- The physical pieces of `[a, a + n)` as the IOMMU translates them for an engine that acts for a pavilion: the engine number is the
device identifier and the pavilion the process context; none where the context maps a page nowhere (R19, R400; log 57). -/
def translated (s : State) (p mid a n : Nat) : Option (List (Nat × Nat)) :=
  match tget s.pav.ctx (1024 * midIndex mid + p) with
  | none => some [(a, n)]
  | some t => (pagePieces a n).mapM fun e => (tget t (e.1 / 4096)).map fun q => (q * 4096 + e.1 % 4096, e.2)

/-- The two checks of a transfer of an engine for a pavilion, the translation and the window (R20, R398, R663): its physical pieces. -/
def engCheck (s : State) (p mid a n : Nat) (perm : Perm) : Verdict × List (Nat × Nat) :=
  match translated s p mid a n with
  | none => (if fenced s p then .fence else .window, [])
  | some ps => ((ps.map fun e => verdict s p e.1 e.2 perm).foldl (fun v w => if v = .pass then w else v) .pass, ps)

/-- Physical pieces read one after the other. -/
def readPieces (mid : Nat) : List (Nat × Nat) → State → State × Option (List Nat)
  | [], s => (s, some [])
  | e :: ps, s => onOpt (physRead s mid e.1 e.2) (fun s => (s, none)) fun s bs =>
      onOpt (readPieces mid ps s) (fun s => (s, none)) fun s more => (s, some (bs ++ more))

/-- Bytes written to physical pieces one after the other. -/
def writePieces (mid : Nat) : List (Nat × Nat) → List Nat → State → State × Bool
  | [], _, s => (s, true)
  | e :: ps, bs, s => onOk (physWrite s mid e.1 (bs.take e.2)) (fun s => (s, false)) fun s => writePieces mid ps (bs.drop e.2) s

/-- A read by an engine on behalf of a pavilion (R19, R20). -/
def engRead (s : State) (p mid a n : Nat) : State × Option (List Nat) :=
  match engCheck s p mid a n .read with
  | (.pass, ps) => readPieces mid ps s
  | (v, _) => (refuseFor s p mid a v, none)

/-- A write by an engine on behalf of a pavilion (R19, R20). -/
def engWrite (s : State) (p mid a : Nat) (bs : List Nat) : State × Bool :=
  match engCheck s p mid a bs.length .write with
  | (.pass, ps) => writePieces mid ps bs s
  | (v, _) => (refuseFor s p mid a v, false)

/-- The core time of a pavilion reaches its share (R403, R404). -/
def shareExhausted (s : State) (p : Nat) : State :=
  let v := pavOf s p
  if v.share = 0 || v.exhausted then s
  else
    let s := cinc (setPav s p { v with exhausted := true }) (Fld.PAV_SHAREX_COUNT p)
    (pairsRunning s p).foldl (notifyPair (fget s (Fld.PAV_CTRL_EIID p))) s

/-- The watchdog of a pavilion has seen TICKS edges (R409). -/
def wdtDue (s : State) (p : Nat) : Bool :=
  fbit s (Fld.PAV_WDT_EN p) && pavState s p == 1 && !(pavOf s p).wdtDone && decide (fget s (Fld.PAV_WDT_TICKS p) ≤ (pavOf s p).wdt)

/-- The watchdog of a pavilion expires (R407, R409). -/
def wdtExpire (s : State) (p : Nat) : State :=
  if wdtDue s p then pavError (setPav s p { pavOf s p with wdtDone := true }) p 3 0 0 else s

/-- The watchdog of a pavilion restarts (R409). -/
def wdtRestart (s : State) (p : Nat) : State := setPav s p { pavOf s p with wdt := 0, wdtDone := false }

/-- A pavilion reset completes (R413). -/
def pavResetDone (s : State) (p : Nat) : State :=
  if (pavOf s p).phase = .reset then setPav s p { pavOf s p with phase := .wait } else s

/-- The watchdog of a pavilion restarts, after the expiry for which the restart comes too late (R9, R409): `due`, it had expired before. -/
def wdtTouch (s : State) (p : Nat) (due : Bool) : State := wdtRestart (if due then pavError s p 3 0 0 else s) p

/-- What follows a write of a PAV register (R405, R409). -/
def pavChanged (r : PavReg) (p : Nat) (old s : State) : State :=
  match r with
  | .PAV_WDT => wdtTouch s p (wdtDue old p)
  | _ => s

/-- A `wsc` write of a PAV register (R409, R410). -/
def pavWsc (r : PavReg) (p v : Nat) (s : State) : State :=
  match r with
  | .PAV_CMD => if v % 2 = 1 then pavReset s p else s
  | .PAV_KICK => if v % 2 = 1 then wdtTouch s p (wdtDue s p) else s
  | _ => s

/-- What follows a change of EN of BND page `p` (R347, R349). -/
def bndEnable (p : Nat) (on : Bool) (s : State) : State := if 128 ≤ p ∧ !on then withdraw s (p - 128) else s

/-- A soft reset of BND page `p` (R349). -/
def bndSrst (p : Nat) (s : State) : State := if p = 0 then bndReset s else if 128 ≤ p then withdraw s (p - 128) else s

end Sys2Proof.Machine
end

