-- ==== Sys2Proof/Machine/Batch.lean ====
section
/-! DEFINITION. Batched events in pair operation (R436–R439), the entries that GOOSE events carry (R218, R221), and the SOFT posts of
PAV_POST and BND_POST (R335, R406). Outside pair operation every producer posts straight to the Bandstand (R660). -/

namespace Sys2Proof.Machine

/-! ### Batches -/

/-- Absolute number of the tick that contains an event time in whole ns (R5, R437). -/
def tickOfNs (s : State) (ns : Nat) : Nat := ns * baseHz s / 10 ^ 9

/-- The cut of batch N: the PTP instant of tick N + 1 plus G (R437). -/
def cutOf (s : State) (n : Nat) : Nat := instantOf 0 (n + 1) (baseHz s) + fget s Fld.FTB_GUARD_G * 1000 * nsUnit

/-- The merge key of R437's table, packed into one number (packing: DESIGN CHOICE, log 44). -/
def keyOfEv (e : Ev) : Nat :=
  match e.type with
  | 5 => ((e.w5 % 4096 * 2 + bits e.w5 12 12) * 2 ^ 32 + e.w6) * 2 ^ 32 + e.w7
  | 6 => e.w5 % 32 * 2 + bits e.w5 8 8
  | 8 => e.w5 % 16 * 64 + e.w6 % 64
  | _ => 0

/-- Two copies stem from one happening that both modules posted (R437). -/
def sameHappening (a b : BatchEv) : Bool :=
  a.side != b.side && a.ev.type == b.ev.type && a.key == b.key &&
  (match a.ev.type with
   | 5 => true
   | 6 | 8 => decide (a.ev.ns < b.ev.ns + 20000) && decide (b.ev.ns < a.ev.ns + 20000)
   | _ => a.ev.src == b.ev.src && midClass a.ev.src == 2)

/-- SIDE of this module. -/
def ownSide (s : State) : Nat := fget s Fld.FTB_CFG_SIDE

/-- Two copies of one happening merged: the earlier event time stands, on a tie the copy of SIDE 0 (R437). -/
def mergeCopies (own : Nat) (a b : BatchEv) : BatchEv :=
  let first := a.ev.ns < b.ev.ns ∨ (a.ev.ns = b.ev.ns ∧ a.side = 0)
  let stands := if first then a else b
  { stands with fresh := a.fresh || b.fresh, prev := if a.side = own then a.prev else b.prev }

/-- A copy joins its batch, merged with the other module's copy (R437). -/
def batchInsert (s : State) (x : BatchEv) : State :=
  let same (y : BatchEv) : Bool := y.tick == x.tick && sameHappening x y
  let b := if s.ftb.batch.any same then
      s.ftb.batch.map fun y => if same y then mergeCopies (ownSide s) y x else y
    else s.ftb.batch ++ [x]
  { s with ftb := { s.ftb with batch := b } }

/-- Octets as little-endian words. -/
def wordsOf (bs : List Nat) : List Nat := (wordsOfBytes ((bs.length + 3) / 4) bs).map (·.toNat)

/-- A producer of a batched type posts to the Footbridge (R437): the event joins its batch and is mirrored, is refused at 4096 own
events in a batch, or comes too late. -/
def batchOwn (s : State) (x : BatchEv) : State × PostResult :=
  let n := tickOfNs s x.ev.ns
  if cutOf s n < timeNow s + 8000 * nsUnit then (cinc s Fld.FTB_EVLOST_COUNT, .discarded)
  else if 4096 ≤ (s.ftb.batch.filter fun y => y.side == ownSide s && y.tick == n).length then (s, .refused)
  else
    let s := batchInsert s { x with tick := n, side := ownSide s }
    (ftbSend s 4 ((evWords x.ev).map (·.toNat) ++ [x.key % 2 ^ 32, x.key / 2 ^ 32 % 2 ^ 32] ++ wordsOf x.entry), .admitted)

/-- An event of a batched type is posted: to the Footbridge in pair operation, else to the Bandstand (R437, R660). -/
def batchPost (s : State) (e : Ev) : State × PostResult :=
  if pairOp s then batchOwn s { ev := e, key := keyOfEv e, side := 0, tick := 0 } else bndPost s e

/-- As `postOrHold`, for the producers of batched types that hold what is refused (R338, R437). -/
def batchOrHold (s : State) (h : Holder) (unit : Nat) (e : Ev) : State :=
  match heldOf s h unit with
  | some old => setHeld s h unit [replacing h old e]
  | none => onPosted (batchPost s e) (fun s => setHeld s h unit [e]) fun s => s

/-- As `retryHeld`, for the producers of batched types (R338). -/
def batchRetry (s : State) (h : Holder) (unit : Nat) : State :=
  match heldOf s h unit with
  | none => s
  | some e => onPosted (batchPost s e) (fun s => s) fun s => setHeld s h unit (tat s.bnd.held (h.key unit) []).tail

/-! ### The buffer of a GOOSE subscription (R218) -/

/-- A subscription. -/
def subOf (s : State) (n : Nat) : Option GsbSub := tget s.mac.goose.subs n

/-- A subscription replaced. -/
def setSub (s : State) (n : Nat) (x : GsbSub) : State :=
  { s with mac := { s.mac with goose := { s.mac.goose with subs := tset s.mac.goose.subs n x } } }

/-- OWNER of a subscription (R223). -/
def GsbSub.owner (x : GsbSub) : Nat := bits (x.d.getD 4 0) 25 16
/-- EVQ of a subscription. -/
def GsbSub.evq (x : GsbSub) : Nat := x.d.getD 4 0 % 8192
/-- Guest-physical address of the buffer. -/
def GsbSub.buf (x : GsbSub) : Nat := x.d.getD 5 0 * 4096

/-- The 1040 octets of a buffer entry, offsets 0x000 to 0x40F (R218). -/
def bufferEntry (stNum sqNum ns : Nat) (ndat : Nat) (data : List Nat) : List Nat :=
  leBytes 4 stNum ++ leBytes 4 sqNum ++ leBytes 4 (ns % 10 ^ 9) ++ leBytes 4 (ns / 10 ^ 9) ++
  leBytes 2 data.length ++ leBytes 2 ndat ++ data ++ List.replicate (1020 - data.length) 0

/-- The subscriber writes a new state into entry stNum mod 4 of the owner's buffer, the stNum word last (R218). A refusal counts in
GSB_BUFERR. -/
def subWrite (s : State) (x : GsbSub) (stNum : Nat) (entry : List Nat) : State × Bool :=
  let at_ := x.buf + stNum % 4 * 2048
  let whole := entry ++ List.replicate (2048 - entry.length) 0
  let failed (s : State) : State × Bool := (cinc s Fld.GSB_BUFERR_COUNT, false)
  onOk (engWrite s x.owner 0x3005 (at_ + 4) (whole.drop 4)) failed fun s =>
    onOk (engWrite s x.owner 0x3005 at_ (whole.take 4)) failed fun s => (s, true)

/-! ### Admission of a batch (R438) -/

/-- The order of R438: event time, SIDE, TYPE, FLOW, merge key. -/
def batchBefore (a b : BatchEv) : Bool :=
  if a.ev.ns ≠ b.ev.ns then decide (a.ev.ns < b.ev.ns)
  else if a.side ≠ b.side then decide (a.side < b.side)
  else if a.ev.type ≠ b.ev.type then decide (a.ev.type < b.ev.type)
  else if a.ev.flow ≠ b.ev.flow then decide (a.ev.flow < b.ev.flow)
  else decide (a.key < b.key)

/-- An element put into an ordered list, after its equals. -/
def insertBefore {α : Type} (lt : α → α → Bool) (x : α) : List α → List α
  | [] => [x]
  | y :: t => if lt x y then x :: y :: t else y :: insertBefore lt x t

/-- A list in order. -/
def sortedBy {α : Type} (lt : α → α → Bool) (l : List α) : List α := l.foldl (fun a x => insertBefore lt x a) []

/-- A subscription that still stands at a refused new state goes back to what it was before the frame (R218). -/
def subBack (s : State) (n stNum : Nat) (prev : Option GsbSub) : State :=
  match subOf s n, prev with
  | some now, some p =>
    if now.stNum = stNum then setSub s n { now with st := p.st, stNum := p.stNum, sqNum := p.sqNum, ns := p.ns, ttl := p.ttl } else s
  | _, _ => s

/-- The new state that a standing GOOSE copy carries is written (R221); a refused write discards the event and leaves the
subscription as it was before the frame (R218). -/
def batchEntry (s : State) (x : BatchEv) : State × Bool :=
  if x.ev.type ≠ 5 ∨ x.entry.isEmpty ∨ !x.fresh then (s, true)
  else
    let n := x.ev.w5 % 4096
    match subOf s n with
    | none => (s, false)
    | some sub => onOk (subWrite s sub x.ev.w6 x.entry) (fun s => (subBack s n x.ev.w6 x.prev, false)) fun s => (s, true)

/-- One event of a batch is admitted (R437, R438). -/
def batchAdmit (s : State) (x : BatchEv) : State :=
  if s.ftb.past.any (sameHappening x) then s
  else if !qOpen s (x.ev.queue % 8192) then cinc s Fld.BND_NOQ_COUNT
  else if !enabled s 0x800000 || poolFree s == 0 then cinc s Fld.FTB_EVLOST_COUNT
  else onOk (batchEntry s x) (fun s => s) fun s =>
    let t := bndAdmit s x.ev none
    { t with ftb := { t.ftb with past := s.ftb.past ++ [x] } }

/-- The oldest batch whose cut has come. -/
def dueBatch (s : State) : Option Nat :=
  (s.ftb.batch.filter fun x => decide (cutOf s x.tick ≤ timeNow s)).foldl (fun a x => match a with
    | none => some x.tick
    | some n => some (min n x.tick)) none

/-- The next event of the batches cut is admitted: one per fabric clock (R438). -/
def batchStep (s : State) : State :=
  match s.ftb.toAdmit with
  | [] => s
  | x :: xs =>
    if s.ftb.admitFab = some s.sdl.fab then s
    else batchAdmit { s with ftb := { s.ftb with toAdmit := xs, admitFab := some s.sdl.fab } } x

/-- The oldest batch whose cut has come is put in order, to be admitted from this fabric clock on (R438). -/
def batchCut (s : State) : State :=
  match (if pairOp s then dueBatch s else none) with
  | none => s
  | some n =>
    let xs := sortedBy batchBefore (s.ftb.batch.filter fun x => x.tick == n)
    batchStep { s with ftb := { s.ftb with
      toAdmit := s.ftb.toAdmit ++ xs, batch := s.ftb.batch.filter (fun x => x.tick != n),
      past := s.ftb.past.filter (fun x => decide (n ≤ x.tick + 2)), cut := some n } }

/-! ### SOFT posts -/

/-- The post count of a pavilion goes on from `n` (R437). -/
def countPost (s : State) (p n : Nat) : State := { s with ftb := { s.ftb with posts := tset s.ftb.posts p ((n + 1) % 2 ^ 32) } }

/-- A pavilion's post that the Footbridge took is counted. -/
def countTaken (p n : Nat) (x : State × PostResult) : State × PostResult :=
  if x.2 = .admitted then (countPost x.1 p n, x.2) else x

/-- A SOFT event is posted; in pair operation to the Footbridge, a pavilion's with its post count as key (R437). -/
def softPost (s : State) (pav : Option Nat) (e : Ev) : State × PostResult :=
  if !pairOp s then bndPost s e
  else match pav with
    | none => batchOwn s { ev := e, key := 0, side := 0, tick := 0 }
    | some p =>
      let n := tat s.ftb.posts p 0
      countTaken p n (batchOwn s { ev := e, key := n, side := 0, tick := 0 })

/-- The CODE of a post (R350, R406). -/
def PostResult.code : PostResult → Nat
  | .admitted => 0 | .refused | .later => 1 | .discarded => 2

/-- The request of a post mailbox waits for the next fabric clock, since its producer has had a post admitted in this one (R336). -/
def postWait (s : State) (a : Nat) : State := { s with bnd := { s.bnd with waits := s.bnd.waits ++ [a] } }

/-- A software post by a pavilion to a queue that is not its own and not public (R335). -/
def notOwner (s : State) (q p : Nat) : Bool := qOwner s q != p && !fbit s (Fld.BND_Q_CFG_PUB (q / 128) (q % 128))

/-- A PAV_POST request (R335, R406). -/
def pavPost (s : State) (a p : Nat) : State :=
  let b := mbxAt s a
  let fin (s : State) (code : Nat) : State := mbxEnd (if code = 0 then s else cinc s (Fld.PAV_POSTREF_COUNT p)) a code
  if !b.wr || b.op != 0x01 then fin s 0xFF
  else if fenced s p then fin s 0x0B
  else
    let q := b.arg % 8192
    if !qOpen s q then fin (cinc s Fld.BND_NOQ_COUNT) 0x02
    else if notOwner s q p then fin (cinc s Fld.BND_NOQ_COUNT) 0x09
    else
      let e : Ev := { type := 0x10, queue := q, flow := b.w 0, src := 0x2000 + p, ns := nowNs s, w5 := b.w 1, w6 := b.w 2, w7 := b.w 3 }
      onPair (softPost s (some p) e) fun s r => if r = .later then postWait s a else fin s r.code

/-- A BND_POST request (R335, R350). -/
def bndMbx (a : Nat) (s : State) : State :=
  let b := mbxAt s a
  if !b.wr || b.op != 0x01 then mbxEnd s a 0xFF
  else
    let e : Ev := { type := 0x10, queue := b.arg % 8192, flow := b.w 1, src := b.mid, ns := nowNs s, w5 := b.w 5, w6 := b.w 6, w7 := b.w 7 }
    if pairOp s && !qOpen s e.queue then mbxEnd (cinc s Fld.BND_NOQ_COUNT) a 0x02
    else onPair (softPost s none e) fun s r => if r = .later then postWait s a else mbxEnd s a r.code

/-- The requests of post mailboxes that waited for this fabric clock: BND_POST first, then the pavilions in increasing order (R336). -/
def postWaits (s : State) : State :=
  (sortedBy (fun a b => decide (a < b)) s.bnd.waits).foldl (fun s a =>
    if !(mbxAt s a).busy then s
    else if a < 0x4000000 then bndMbx a s
    else pavPost s a ((a - 0x4000000) / 0x1000)) { s with bnd := { s.bnd with waits := [] } }

end Sys2Proof.Machine
end

