-- ==== Sys2Proof/Machine/Frames.lean ====
section
/-! DEFINITION. Octets of frames: addresses, IEEE 802.1Q tags, redundancy trailers and tags, PTP event messages, padding,
segmentation and BER (R182–R202, R207, R216, R241). Offsets are from the first octet of the destination address. -/

namespace Sys2Proof.Machine

/-! ### Reading octets -/

/-- A big-endian number. -/
def ofBe (bs : List Nat) : Nat := bs.foldl (fun a b => a * 256 + b % 256) 0

/-- The big-endian number of `n` octets of a frame at an offset; octets past the end read 0. -/
def be (bs : List Nat) (o n : Nat) : Nat := ofBe ((List.range n).map fun i => bs.getD (o + i) 0)

/-- A number as `n` octets, most significant first. -/
def toBe (n v : Nat) : List Nat := (leBytes n v).reverse

/-- Octets replaced at an offset. -/
def patch (bs : List Nat) (o : Nat) (v : List Nat) : List Nat := bs.take o ++ v ++ bs.drop (o + v.length)

/-- Destination address, first octet most significant. -/
def dstOf (bs : List Nat) : Nat := be bs 0 6

/-- Source address. -/
def srcOf (bs : List Nat) : Nat := be bs 6 6

/-- A group address: the first octet's low bit is set. -/
def isGroup (a : Nat) : Bool := bit a 40

/-- The address of a mailbox's D0 and D1: D0 holds the first octet transmitted in its low byte (R223, R225, R259). -/
def addrOfWords (d0 d1 : Nat) : Nat := ofBe (leBytes 4 d0 ++ leBytes 2 d1)

/-- D0 of an address. -/
def addrD0 (a : Nat) : Nat := ofLe ((toBe 6 a).take 4)

/-- The low half of D1 of an address. -/
def addrD1 (a : Nat) : Nat := ofLe ((toBe 6 a).drop 4)

/-- The outermost IEEE 802.1Q tag's TCI, with TPID 0x8100 or 0x88A8 (R192). -/
def outerTag (bs : List Nat) : Option Nat :=
  if be bs 12 2 = 0x8100 ∨ be bs 12 2 = 0x88A8 then some (be bs 14 2) else none

/-- Offset of the EtherType behind up to two IEEE 802.1Q tags. -/
def typeAt (bs : List Nat) : Nat :=
  let isTag (o : Nat) : Bool := be bs o 2 == 0x8100 || be bs o 2 == 0x88A8
  if isTag 12 then (if isTag 16 then 20 else 16) else 12

/-- EtherType behind up to two IEEE 802.1Q tags. -/
def etherType (bs : List Nat) : Nat := be bs (typeAt bs) 2

/-- The bin that R189 gives an address. -/
def hashBin (a : Nat) : Nat := crc32 (toBe 6 a) / 2 ^ 20

/-- A destination of rule 1 of R188: 01-80-C2-00-00-00 to -0F. -/
def isReserved (a : Nat) : Bool := a / 16 == 0x0180C200000

/-! ### Redundancy (R187, R198, R201); the octets that IEC 62439-3 gives and the spec does not: PRESUMED, log 30 -/

/-- The valid RCT at the end of a frame that arrived on the upper port of its pair or not: its sequence number (R198). -/
def rctOf (bs : List Nat) (upper : Bool) : Option Nat :=
  let n := bs.length
  if 14 + 6 ≤ n ∧ be bs (n - 2) 2 = 0x88FB ∧ be bs (n - 4) 2 / 4096 = (if upper then 0xB else 0xA) then some (be bs (n - 6) 2) else none

/-- The frame without its RCT. -/
def dropRct (bs : List Nat) : List Nat := bs.take (bs.length - 6)

/-- Zero octets up to a length (R182). -/
def padTo (n : Nat) (bs : List Nat) : List Nat := bs ++ List.replicate (n - bs.length) 0

/-- The frame with an RCT, padded before it (R187). -/
def addRct (bs : List Nat) (upper : Bool) (seq : Nat) : List Nat :=
  let p := padTo 54 bs
  p ++ toBe 2 seq ++ toBe 2 ((if upper then 0xB000 else 0xA000) + (p.length - typeAt p - 2 + 6) % 4096) ++ [0x88, 0xFB]

/-- The sequence number of the HSR tag of a frame (R198). -/
def hsrOf (bs : List Nat) : Option Nat := if etherType bs = 0x892F then some (be bs (typeAt bs + 4) 2) else none

/-- The frame without its HSR tag. -/
def dropHsr (bs : List Nat) : List Nat := bs.take (typeAt bs) ++ bs.drop (typeAt bs + 6)

/-- The frame with an HSR tag. -/
def addHsr (bs : List Nat) (upper : Bool) (seq : Nat) : List Nat :=
  let p := padTo 54 bs
  let o := typeAt p
  p.take o ++ [0x89, 0x2F] ++ toBe 2 ((if upper then 0x1000 else 0) + (p.length - o - 2 + 6) % 4096) ++ toBe 2 seq ++ p.drop o

/-! ### Egress tags (R241) -/

/-- The outer tag of a frame handled by TAGMODE (R241): the octets and whether they changed. -/
def retag (mode pvid prio : Nat) (bs : List Nat) : List Nat :=
  match mode, outerTag bs with
  | 1, some tci => if tci % 4096 = pvid then bs.take 12 ++ bs.drop 16 else bs
  | 2, none => bs.take 12 ++ [0x81, 0x00] ++ toBe 2 (prio * 8192 + pvid) ++ bs.drop 12
  | _, _ => bs

/-! ### PTP event messages (R138–R140) -/

/-- Offset of the PTP header of a frame that carries PTP directly, behind up to two tags or an HSR tag (R138). -/
def ptpAt (bs : List Nat) : Option Nat :=
  let o := typeAt bs
  if be bs o 2 = 0x88F7 then some (o + 2)
  else if be bs 12 2 = 0x892F ∧ be bs 18 2 = 0x88F7 then some 20
  else none

/-- The message type of a PTP event message that the transparent clock corrects: Sync, Delay_Req, Pdelay_Req, Pdelay_Resp (R138). -/
def ptpEvent (bs : List Nat) : Option (Nat × Nat) :=
  match ptpAt bs with
  | none => none
  | some o => let t := bs.getD o 0 % 16; if t ≤ 3 then some (o, t) else none

/-- The correctionField after an addition of `d` units of 2^-16 ns, and whether it saturated (R138, R140). -/
def correct (bs : List Nat) (o : Nat) (d : Int) : List Nat × Bool :=
  let v := toSigned 64 (be bs (o + 8) 8) + d
  if 0x7FFFFFFFFFFFFFFF < v then (patch bs (o + 8) (toBe 8 0x7FFFFFFFFFFFFFFF), true)
  else (patch bs (o + 8) (toBe 8 (ofSigned 64 v)), false)

/-! ### Segmentation (R202) -/

/-- The ones' complement sum of the 16-bit words of octets, folded. -/
def onesSum (bs : List Nat) : Nat :=
  let rec go : List Nat → Nat
    | [] => 0
    | [a] => a * 256
    | a :: b :: t => a * 256 + b + go t
  let f (n : Nat) : Nat := n % 65536 + n / 65536
  f (f (f (go bs)))

/-- The TCP checksum field recomputed over a segment: `ip` and `tcp` are offsets, `v6` tells the pseudo-header. -/
def tcpSum (bs : List Nat) (ip tcp : Nat) (v6 : Bool) : List Nat :=
  let bs := patch bs (tcp + 16) [0, 0]
  let addrs := if v6 then (bs.drop (ip + 8)).take 32 else (bs.drop (ip + 12)).take 8
  let sum := onesSum (addrs ++ toBe 2 6 ++ toBe 2 (bs.length - tcp) ++ bs.drop tcp)
  patch bs (tcp + 16) (toBe 2 (0xFFFF - sum))

/-- The header of segment `i` handled by SEGMODE (R202): `sent` payload octets came before it, `last` marks the last segment. -/
def segHeader (mode : Nat) (bs : List Nat) (i sent : Nat) (last : Bool) : List Nat :=
  let ip := typeAt bs + 2
  let flags (tcp : Nat) (bs : List Nat) : List Nat :=
    let b := patch bs (tcp + 4) (toBe 4 ((be bs (tcp + 4) 4 + sent) % 2 ^ 32))
    let f := b.getD (tcp + 13) 0
    let f := if last then f else f &&& 0xF6
    let f := if i = 0 then f else f &&& 0x7F
    patch b (tcp + 13) [f]
  match mode with
  | 0 => bs
  | 1 =>
    let hl := bs.getD ip 0 % 16 * 4
    let b := patch bs (ip + 2) (toBe 2 (bs.length - ip))
    let b := patch b (ip + 4) (toBe 2 ((be bs (ip + 4) 2 + i) % 65536))
    let b := patch b (ip + 10) [0, 0]
    let b := patch b (ip + 10) (toBe 2 (0xFFFF - onesSum ((b.drop ip).take hl)))
    tcpSum (flags (ip + hl) b) ip (ip + hl) false
  | _ =>
    let b := patch bs (ip + 4) (toBe 2 (bs.length - ip - 40))
    tcpSum (flags (ip + 40) b) ip (ip + 40) true

/-- The payload cut in pieces of `n` octets; `fuel` bounds the pieces. -/
def pieces (n : Nat) : Nat → List Nat → List (List Nat)
  | 0, _ => []
  | k + 1, bs => if bs.length ≤ n then [bs] else bs.take n :: pieces n k (bs.drop n)

/-- The frames that a segmented send becomes on a port with MAXLEN `maxLen` (R202). -/
def segments (g : Seg) (maxLen : Nat) (bs : List Nat) : List (List Nat) :=
  let h := clampTo 14 254 g.hdr
  let mss := max 1 (min (max 1 g.mss) (maxLen - 4 - h))
  let ps := pieces mss (bs.length + 1) (bs.drop h)
  let n := ps.length
  (ps.zip (List.range n)).map fun e => segHeader (min g.mode 2) (bs.take h ++ e.1) e.2 (e.2 * mss) (e.2 + 1 == n)

/-! ### BER (R207, R216) -/

/-- A BER length in its shortest form (R207). -/
def berLen (n : Nat) : List Nat :=
  if n < 128 then [n] else if n < 256 then [0x81, n] else 0x82 :: toBe 2 n

/-- A BER element. -/
def tlv (tag : Nat) (v : List Nat) : List Nat := tag :: berLen v.length ++ v

/-- The octets of an unsigned 32-bit number as a BER integer, the shortest form. -/
def berUint (v : Nat) : List Nat :=
  let n := if v < 0x80 then 1 else if v < 0x8000 then 2 else if v < 0x800000 then 3 else if v < 0x80000000 then 4 else 5
  toBe n v

/-- One BER element at the front of octets, its length of up to three octets (R216): tag, contents and the rest. -/
def berTake : List Nat → Option (Nat × List Nat × List Nat)
  | tag :: l :: t =>
    let cut (n : Nat) (t : List Nat) : Option (Nat × List Nat × List Nat) :=
      if n ≤ t.length then some (tag, t.take n, t.drop n) else none
    if l < 0x80 then cut l t
    else match l, t with
      | 0x81, a :: t => cut a t
      | 0x82, a :: b :: t => cut (a * 256 + b) t
      | _, _ => none
  | _ => none

/-- The BER elements of octets; none where they do not parse. `fuel` bounds their number. -/
def berAll : Nat → List Nat → Option (List (Nat × List Nat))
  | _, [] => some []
  | 0, _ => none
  | k + 1, bs => match berTake bs with
    | none => none
    | some (t, v, rest) => (berAll k rest).map fun r => (t, v) :: r

end Sys2Proof.Machine
end

