-- ==== Sys2Proof/Machine/Trellis.lean ====
section
/-! DEFINITION. The Trellis (07_trellis_switch.md): the forwarding database, the cells and the two stages with their resequencers, the
destination mask, admission, spilling, mirroring, and the host DMA rings. -/

namespace Sys2Proof.Machine

/-! ### Settings -/

/-- A register of TRL page 2 in force: its reset value while the page is disabled (R256). -/
def tcfg (s : State) (f : FieldRef) : Nat := if enabled s 0x402000 then fget s f else f.reset

/-- VID of a frame at ingress port `q` (R237, R260: PVID has no effect on ports 16 to 19, so their reset value is taken). -/
def vidOf (s : State) (q : Nat) (bs : List Nat) : Nat :=
  match outerTag bs with
  | some tci => tci % 4096
  | none => if q < 16 then tcfg s (Fld.TRL_P_CTRL_PVID q) else 1

/-- The Trellis passes nothing to or from the port: it is blocked (R249), or belongs to the Footbridge (R426). -/
def trlShut (s : State) (q : Nat) : Bool := bit s.trl.blocked q || (pairOp s && (q == 12 || q == 13))

/-! ### The forwarding database -/

/-- Bucket of a key (R238). -/
def fdbBucket (mac vid : Nat) : Nat := hashBin mac ^^^ (vid % 4096)

/-- The ways of a bucket. -/
def fdbWays (b : Nat) : List Nat := [4 * b, 4 * b + 1, 4 * b + 2, 4 * b + 3]

/-- The index of a key's entry (R238). -/
def fdbFind (s : State) (mac vid : Nat) : Option Nat :=
  (fdbWays (fdbBucket mac vid)).find? fun i => match tget s.trl.fdb i with
    | some e => e.mac == mac && e.vid == vid
    | none => false

/-- The index of a free way of a bucket. -/
def fdbFree (s : State) (b : Nat) : Option Nat := (fdbWays b).find? fun i => (tget s.trl.fdb i).isNone

/-- A request of TRL_FDB wrote the entries of these keys in this fabric clock (R240). -/
def fdbNote (s : State) (keys : List (Nat × Nat)) : State :=
  let old := if s.trl.fdbWrites.1 = s.sdl.fab then s.trl.fdbWrites.2 else []
  { s with trl := { s.trl with fdbWrites := (s.sdl.fab, old ++ keys) } }

/-- A mailbox request wrote the entry of a key in this fabric clock (R240). -/
def fdbWritten (s : State) (mac vid : Nat) : Bool := s.trl.fdbWrites.1 == s.sdl.fab && s.trl.fdbWrites.2.contains (mac, vid)

/-- The database replaced. -/
def setFdb (s : State) (t : Tbl FdbEntry) : State := { s with trl := { s.trl with fdb := t } }

/-- Learning from a frame that external port `q` hands in (R239); dropped where a mailbox request wrote the entry in this clock (R240). -/
def fdbLearn (s : State) (q : Nat) (f : Frame) : State :=
  let src := srcOf f.bytes
  if !enabled s 0x401000 || 16 ≤ q || tcfg s (Fld.TRL_P_CTRL_LEARN q) == 0 || f.fcsBad || f.oversize || isGroup src then s
  else
    let vid := vidOf s q f.bytes
    let port := match pairLow q with
      | some l => if pairMode s q = 0 then q else l
      | none => q
    let e : FdbEntry := ⟨src, vid, 2 ^ port, false, s.sdl.fab⟩
    if fdbWritten s src vid then s else
    match fdbFind s src vid with
    | some i => match tget s.trl.fdb i with
      | some o => if o.static then s else setFdb s (tset s.trl.fdb i e)
      | none => s
    | none => match fdbFree s (fdbBucket src vid) with
      | some i => setFdb s (tset s.trl.fdb i e)
      | none => cinc s Fld.TRL_LEARN_FULL_COUNT

/-- The oldest learned way of a bucket (R259). -/
def fdbOldest (s : State) (b : Nat) : Option Nat :=
  (fdbWays b).foldl (fun a i => match tget s.trl.fdb i, a with
    | some e, none => if e.static then none else some i
    | some e, some j => if e.static then some j else
        (match tget s.trl.fdb j with
         | some o => if e.at_ < o.at_ then some i else some j
         | none => some i)
    | none, a => a) none

/-- A request of TRL_FDB (R259). -/
def fdbMbx (a : Nat) (s : State) : State :=
  let b := mbxAt s a
  let mac := addrOfWords (b.w 0) (b.w 1 % 2 ^ 16)
  let vid := bits (b.w 1) 27 16
  match b.op, b.wr with
  | 0x01, true =>
    let e : FdbEntry := ⟨mac, vid, b.w 2 % 2 ^ 20, true, s.sdl.fab⟩
    let place := ((fdbFind s mac vid).orElse fun _ => fdbFree s (fdbBucket mac vid)).orElse fun _ => fdbOldest s (fdbBucket mac vid)
    match place with
    | some i => mbxEnd (fdbNote (setFdb s (tset s.trl.fdb i e)) [(mac, vid)]) a 0
    | none => mbxEnd s a 0x02
  | 0x02, false => match tget s.trl.fdb (b.arg % 2 ^ 14) with
    | some e => mbxAnswer s a 0 [w32 (addrD0 e.mac), w32 (2 ^ 31 + bitAt e.static 30 + e.vid * 2 ^ 16 + addrD1 e.mac), w32 e.mask]
    | none => mbxAnswer s a 0 []
  | 0x03, true => match fdbFind s mac vid with
    | some i => mbxEnd (fdbNote (setFdb s (tdel s.trl.fdb i)) [(mac, vid)]) a 0
    | none => mbxEnd s a 0x01
  | 0x04, true =>
    let gone := (s.trl.fdb.filter fun e => !e.2.static).map fun e => (e.2.mac, e.2.vid)
    mbxEnd (fdbNote (setFdb s (s.trl.fdb.filter fun e => e.2.static)) gone) a 0
  | _, _ => mbxEnd s a 0xFF

/-- A learned entry that has not been refreshed for TRL_AGE seconds is removed (R239). -/
def fdbAge (s : State) (i : Nat) : State :=
  match tget s.trl.fdb i with
  | some e => if !e.static && decide (e.at_ + fget s Fld.TRL_AGE_S * 10 ^ 9 ≤ s.sdl.fab) then setFdb s (tdel s.trl.fdb i) else s
  | none => s

/-! ### Frames at the head of a queue (R145, R146, R149, R172) -/

/-- A frame that requested a time-stamp and is dropped stores an entry with DROPPED = 1 (R142). -/
def stampDrop (s : State) (m : Nat) (f : Frame) : State := if f.tsreq then storeStamp s m f.tag 0 true else s

/-- The instant L of a launch time nearest to T (R145). -/
def launchAt (s : State) (sec ns : Nat) : Nat :=
  let t := secOf (timeNow s)
  ((t : Int) + toSigned 32 (ofSigned 32 ((sec : Int) - t))).toNat * secUnit + ns * nsUnit

/-- A frame reaches the head of its queue at port `m`: its launch time is read, or its alarm tested; `none` drops it. -/
def headArrive (s : State) (m : Nat) (f : Frame) : State × Option Frame :=
  match f.launch with
  | .time sec ns =>
    let l := launchAt s sec ns
    if !enabled s 0x201000 then (stampDrop (cinc s (Fld.SDL_P_LTLATE_COUNT m)) m f, none)
    else if timeNow s + secUnit < l then (stampDrop (cinc s (Fld.SDL_P_LTFAR_COUNT m)) m f, none)
    else (s, some { f with launch := .due l })
  | .angle k =>
    if (alarm s k).st = .armed then (s, some { f with launch := .waits k })
    else (stampDrop (cinc s Fld.SDL_ANG_FRDROP_COUNT) m f, none)
  | _ => (s, some f)

/-- The head of a queue at port `m` is brought to rest. -/
def settleList (m : Nat) : State → List Frame → State × List Frame
  | s, [] => (s, [])
  | s, f :: t =>
    if f.dram then (s, f :: t)
    else onOpt (headArrive s m f) (fun s => settleList m s t) fun s f => (s, f :: t)

/-- An output queue replaced. -/
def setOut (s : State) (k : Nat) (q : List Frame) : State :=
  { s with trl := { s.trl with out := if q.isEmpty then tdel s.trl.out k else tset s.trl.out k q } }

/-- A virtual output queue replaced. -/
def setVoq (s : State) (k : Nat) (q : List Frame) : State :=
  { s with trl := { s.trl with voq := if q.isEmpty then tdel s.trl.voq k else tset s.trl.voq k q } }

/-- The output queue of output `o` and class `c`. -/
def outQ (s : State) (o c : Nat) : List Frame := tat s.trl.out (8 * o + c) []

/-- The head of an output queue is brought to rest; internal ports have no launch times. -/
def settleHead (s : State) (o c : Nat) : State :=
  if 16 ≤ o then s
  else
    let (s', q) := settleList o s (outQ s o c)
    setOut s' (8 * o + c) q

/-- The virtual output queues whose head frame has room in the egress FIFO of its output and class: frames on their way there have
reserved theirs (R243). -/
def voqReady (s : State) : List Nat :=
  (s.trl.voq.filter fun e => match e.2 with
    | f :: _ => !f.dram &&
      decide (cellsIn false (tat s.trl.out (e.1 % 160) []) + cellsMoving (movingTo s (e.1 % 160)) + cellsOf f ≤ 256)
    | [] => false).map fun e => e.1

/-- The frame copies on their way under one key replaced. -/
def setStage (s : State) (k : Nat) (l : List Moving) : State :=
  { s with trl := { s.trl with stage := if l.isEmpty then tdel s.trl.stage k else tset s.trl.stage k l } }

/-- A frame copy enters the first stage towards output and class `k % 160`. -/
def enterStage (s : State) (k : Nat) (f : Frame) : State := setStage s k (tat s.trl.stage k [] ++ [{ frame := f }])

/-- Head frames of virtual output queues enter the first stage while there is room (R243); which input goes first where inputs compete
for the room of one egress FIFO is left open, so it is a free value (log 2). -/
def voqPump : Nat → State → State
  | 0, s => s
  | n + 1, s =>
    match voqReady s with
    | [] => s
    | k :: ks =>
      let all := k :: ks
      let pick := all.getD (drawn 16 s % all.length) k
      match tat s.trl.voq pick [] with
      | [] => s
      | f :: t =>
        let s := if ks.isEmpty then s else drew s
        voqPump n (enterStage (setVoq s pick t) pick f)

/-- The queues move on (R243). -/
def trlPump (s : State) : State :=
  if s.trl.full then voqPump ((s.trl.voq.map fun e => e.2.length).sum) s else s

/-! ### Cells and the two stages (R231–R235) -/

/-- The slot number t, which counts from the release of RD_SYS (R232). -/
def slotNo (s : State) : Nat := s.sdl.fab / 4

/-- The reorder window of output `o` for input `q`. -/
def reseqOf (s : State) (o q : Nat) : Reseq := tat s.trl.reseq (20 * o + q) {}

/-- A reorder window replaced. -/
def setReseq (s : State) (o q : Nat) (r : Reseq) : State :=
  { s with trl := { s.trl with reseq := tset s.trl.reseq (20 * o + q) r } }

/-- Every incomplete frame from input `q` to output `o` is discarded, each counted and reported under `unit`, which the spec leaves open: the
operand of a timeout, else a free value (log 52); the resequencer resynchronises on the next first cell, which is the next that the input will send (R235, R603,
R608). -/
def resequence (s : State) (q o : Nat) (unit : Option Nat) : State :=
  let mine (k : Nat) : Bool := k / 160 == q && k % 160 / 8 == o
  let begun := ((s.trl.stage.filter fun e => mine e.1).map fun e => e.2.filter fun x => decide (0 < x.sent)).flatten
  let stage := (s.trl.stage.map fun e => if mine e.1 then (e.1, e.2.filter fun x => x.sent == 0) else e).filter fun e => !e.2.isEmpty
  let mid := s.trl.mid.filter fun e => !(e.1 % 20 == o && e.2.input == q)
  let s := setReseq { s with trl := { s.trl with stage := stage, mid := mid } } o q { next := tat s.trl.seqTx (20 * q + o) 0 }
  trlPump (begun.foldl (fun s x =>
    let s := raiseFault (drew (cinc s Fld.TRL_RESEQ_ERR_COUNT)) 13 [unit.getD (drawn 32 s)]
    if o < 16 then stampDrop s o x.frame else s) s)

/-- An output queues a whole frame: behind its frames on chip, before those in DRAM (R234, R245). -/
def outQueue (s : State) (k : Nat) (f : Frame) : State :=
  let q := tat s.trl.out k []
  let pre := q.takeWhile fun g => !g.dram
  let s := setOut s k (pre ++ { f with queued := s.trl.queued } :: q.drop pre.length)
  settleHead { s with trl := { s.trl with queued := s.trl.queued + 1 } } (k / 8) (k % 8)

/-- The resequencer releases a cell of the oldest frame under a key; with its last cell the frame is whole and the output queues it, unless
an uncorrectable error has lost it (R234, R235). -/
def cellFrame (s : State) (k : Nat) : State :=
  match tat s.trl.stage k [] with
  | [] => s
  | x :: t =>
    if x.got + 1 < cellsOf x.frame then setStage s k ({ x with got := x.got + 1 } :: t)
    else
      let s := setStage s k t
      let o := k % 160 / 8
      trlPump (if !x.lost then outQueue s (k % 160) x.frame else if o < 16 then stampDrop s o x.frame else s)

/-- Cells that follow the last one released are released in order (R234). -/
def cellRelease (q o : Nat) : Nat → State → State
  | 0, s => s
  | n + 1, s =>
    let r := reseqOf s o q
    match r.held.find? fun e => e.1.seq == r.next with
    | none => s
    | some e => cellRelease q o n (cellFrame (setReseq s o q ⟨(r.next + 1) % 65536, r.held.filter fun x => x.1.seq != r.next⟩)
        (160 * q + 8 * o + e.1.tc))

/-- A cell arrives at the resequencer of output `o`; a number already released is an error (R234, R235). -/
def cellArrive (s : State) (o : Nat) (c : Cell) : State :=
  let r := reseqOf s o c.input
  if 32768 ≤ (c.seq + 65536 - r.next) % 65536 then resequence s c.input o none
  else cellRelease c.input o (r.held.length + 1) (setReseq s o c.input { r with held := r.held ++ [(c, slotNo s)] })

/-- The head cell that input `q` sends to intermediate `j`: among the outputs for which `j` holds no cell at the start of the slot, the
highest traffic class, then round-robin among outputs (R233). -/
def inputPick (s : State) (atStart : Tbl Cell) (j q : Nat) : Option Nat :=
  let last := tat s.trl.rr q 19
  let rank (k : Nat) : Nat := k % 8 * 20 + (19 - (k % 160 / 8 + 19 - last) % 20)
  let ready := (s.trl.stage.filter fun e => e.1 / 160 == q && (tget atStart (20 * j + e.1 % 160 / 8)).isNone &&
    e.2.any fun x => decide (x.sent < cellsOf x.frame)).map fun e => e.1
  ready.foldl (fun a k => match a with
    | none => some k
    | some b => if rank b < rank k then some k else some b) none

/-- The oldest frame with cells to send has sent one more. -/
def sendOne : List Moving → List Moving
  | [] => []
  | x :: t => if x.sent < cellsOf x.frame then { x with sent := x.sent + 1 } :: t else x :: sendOne t

/-- Input `q` sends at most one cell, to intermediate (q + t) mod 20 (R232–R234). -/
def inputSend (atStart : Tbl Cell) (s : State) (q : Nat) : State :=
  let j := (q + slotNo s) % 20
  match inputPick s atStart j q with
  | none => s
  | some k =>
    let o := k % 160 / 8
    let seq := tat s.trl.seqTx (20 * q + o) 0
    setStage { s with trl := { s.trl with
      mid := tset s.trl.mid (20 * j + o) ⟨q, k % 8, seq⟩, seqTx := tset s.trl.seqTx (20 * q + o) ((seq + 1) % 65536),
      rr := tset s.trl.rr q o } } k (sendOne (tat s.trl.stage k []))

/-- Intermediate `j` delivers to output (j + t) mod 20 the cell that it held for it at the start of the slot (R232, R233). -/
def midSend (atStart : Tbl Cell) (s : State) (j : Nat) : State :=
  let o := (j + slotNo s) % 20
  match tget atStart (20 * j + o), tget s.trl.mid (20 * j + o) with
  | some _, some c => cellArrive { s with trl := { s.trl with mid := tdel s.trl.mid (20 * j + o) } } o c
  | _, _ => s

/-- A resequencer whose held cell has waited 20 slots for a predecessor (R235). -/
def reseqCheck (s : State) (e : Nat × Reseq) : State :=
  if (reseqOf s (e.1 / 20) (e.1 % 20)).held.any fun x => decide (x.2 + 20 < slotNo s) then resequence s (e.1 % 20) (e.1 / 20) none else s

/-- One cell slot of the Trellis (R232–R235). -/
def trlSlot (s : State) : State :=
  if s.trl.stage.isEmpty then s
  else
    let atStart := s.trl.mid
    let s := (List.range 20).foldl (midSend atStart) ((List.range 20).foldl (inputSend atStart) s)
    s.trl.reseq.foldl reseqCheck s

/-! ### Admission (R244–R248) -/

/-- ⌊2^K × F⌋ (R244). -/
def threshold (k f : Nat) : Nat := if k < 4 then f * 2 ^ k else f / 2 ^ (8 - k)

/-- The key of the queue that a copy for output `o` enters (R242). -/
def admKey (s : State) (f : Frame) (o : Nat) : Nat := if s.trl.full then 160 * f.src + 8 * o + f.tc else 8 * o + f.tc

/-- A queue replaced. -/
def setAdm (s : State) (k : Nat) (q : List Frame) : State := if s.trl.full then setVoq s k q else setOut s k q

/-- The bytes that the spill windows have let through in the window in progress: written and read (R246). -/
def spillUsed (s : State) : Nat × Nat := if s.trl.spill.1 = s.sdl.fab / 1000 then s.trl.spill.2 else (0, 0)

/-- A tail drop, with the time-stamp entry of a frame that requested one (R142, R247). -/
def tailDrop (s : State) (o c : Nat) (f : Frame) : State :=
  let s := if enabled s 0x404000 then cinc s (Fld.TRL_DROP_COUNT (8 * o + c)) else s
  if o < 16 then stampDrop s o f else s

/-- The host DMA's master identity, which spill transfers carry too (R15, R246). -/
def dmaMid : Nat := 0x3004

/-- Address of a cell of the overflow region (R257). -/
def ovfAddr (s : State) (i : Nat) : Nat := fget s Fld.TRL_OVF_BASE_BASE * 2 ^ 24 + 64 * i

/-- The `n` lowest free cells of the overflow region; which cells a frame takes is the model's choice (log 102). -/
def ovfCells (s : State) (n : Nat) : List Nat :=
  let used := ((admQueues s).map fun e => (e.2.map fun f => f.dcells).flatten).flatten
  ((List.range (used.length + n)).filter fun i => !used.contains i).take n

/-- A frame's octets are written to its cells of the overflow region: whether no write is refused (R246). -/
def ovfWrite : State → List Nat → List Nat → State × Bool
  | s, [], _ => (s, true)
  | s, i :: cells, bs =>
    onOk (physWrite s dmaMid (ovfAddr s i) (bs.take 64)) (fun s => (s, false)) fun s => ovfWrite s cells (bs.drop 64)

/-- The octets of a frame of `n` octets read back from its cells; none where a read answers with an error (R246, R597). -/
def ovfRead : State → List Nat → Nat → State × Option (List Nat)
  | s, [], _ => (s, some [])
  | s, i :: cells, n =>
    onOpt (physRead s dmaMid (ovfAddr s i) (min 64 n)) (fun s => (s, none)) fun s bs =>
      onOpt (ovfRead s cells (n - 64)) (fun s => (s, none)) fun s rest => (s, some (bs ++ rest))

/-- One copy of a frame is spilled or dropped (R245–R247); a copy whose write is refused is dropped (log 102). -/
def spillCopy (s : State) (f : Frame) (o : Nat) (mirror : Bool) : State × Bool :=
  let k := admKey s f o
  let q := tat (admQueues s) k []
  let n := cellsOf f
  let room := !mirror && (fbit s (Fld.TRL_TC_SPILL f.tc) || q.any fun g => g.dram) && fget s Fld.TRL_OVF_SIZE_MIB != 0 &&
    decide (cellsIn true q + n ≤ threshold (fget s (Fld.TRL_TC_K f.tc)) (ovfFree s)) && decide (n ≤ ovfFree s)
  onPair (spillUsed s) fun w r =>
  if room && decide (w + 64 * n ≤ 25000) then
    let cells := ovfCells s n
    let s := { s with trl := { s.trl with spill := (s.sdl.fab / 1000, w + 64 * n, r) } }
    onOk (ovfWrite s cells f.bytes) (fun s => (tailDrop s o f.tc f, false)) fun s =>
      (setAdm s k (q ++ [{ f with dram := true, dcells := cells }]), true)
  else (tailDrop (if room then cinc s Fld.TRL_SPILL_LIM_COUNT else s) o f.tc f, false)

/-- One copy of a frame is admitted, spilled or dropped (R244–R247), with `free` the free cells at the instant of handing; the Boolean
tells whether it was queued. A copy that no longer fits in the buffer is not admitted (DEDUCED from R242, log 103). -/
def queueCopy (s : State) (f : Frame) (o : Nat) (mirror : Bool) (free : Nat) : State × Bool :=
  let k := admKey s f o
  let q := tat (admQueues s) k []
  let n := cellsOf f
  if !(q.any fun g => g.dram) && decide (cellsOnChip s k + n ≤ threshold (fget s (Fld.TRL_TC_K f.tc)) free) && decide (n ≤ trlFree s) then
    (if s.trl.full then trlPump (setVoq s k (q ++ [f])) else enterStage s (160 * f.src + k) f, true)
  else spillCopy s f o mirror

/-- The DRAM part of a queue is read back in order while it holds fewer than 64 cells on chip, and in compact mode none on its way to the
queue; a frame whose cells cannot be read is lost (R235, R245, R246, R597; log 102). -/
def spillReadback (s : State) (k : Nat) : State :=
  let q := tat (admQueues s) k []
  onPair (spillUsed s) fun w r =>
  match q.find? fun f => f.dram with
  | none => s
  | some f =>
    if 64 ≤ cellsIn false q || 25000 < r + 64 * cellsOf f || (!s.trl.full && !(movingTo s k).isEmpty) then s
    else
      let pre := q.takeWhile fun g => !g.dram
      let rest := q.drop (pre.length + 1)
      let next (s : State) : State := if s.trl.full then trlPump s else settleHead s (k / 8) (k % 8)
      let s := { s with trl := { s.trl with spill := (s.sdl.fab / 1000, w, r + 64 * cellsOf f) } }
      onOpt (ovfRead s f.dcells f.bytes.length)
        (fun s =>
          let s := cinc (setAdm s k (pre ++ rest)) Fld.TRL_ECC_DROP_COUNT
          next (if k % 160 < 128 then stampDrop s (k % 160 / 8) f else s))
        fun s bs =>
          let back := { f with bytes := bs, dram := false, dcells := [], queued := s.trl.queued }
          next (setAdm { s with trl := { s.trl with queued := s.trl.queued + 1 } } k (pre ++ back :: rest))

/-! ### Mirroring (R251) -/

/-- The copies of a frame that the sessions matching one of `qs` make: one for each destination that the Trellis is open to (R249, R251). -/
def mirrorTo (s : State) (f : Frame) (mask : Nat → FieldRef) (qs : List Nat) (free : Nat) : State :=
  if !enabled s 0x403000 then s
  else
    let session (dest : Nat → FieldRef) : Option Nat :=
      (List.range 4).find? fun k => fbit s (dest k) && qs.any fun q => bit (fget s (mask k)) q
    let copy (s : State) (o : Nat) (k : Option Nat) : State :=
      match k with
      | none => s
      | some k => (queueCopy s { f with tc := fget s (Fld.TRL_MIR_CTRL_TC k), launch := .none, tsreq := false, mutes := false,
                                        rct := none, seg := none, asIs := true } o true free).1
    let s := if f.oversize || trlShut s 15 then s else copy s 15 (session Fld.TRL_MIR_CTRL_TOMX)
    copy s 19 (session Fld.TRL_MIR_CTRL_TOBLV)

/-! ### Forwarding (R237) -/

/-- Both ports of every active pair that the mask touches are set (R201, R237). -/
def widenPairs (s : State) (mask : Nat) : Nat :=
  [0, 2, 4, 6, 8, 10].foldl (fun a l =>
    if pairMode s l != 0 && (bit a l || bit a (l + 1)) then setBit (setBit a l) (l + 1) else a) mask

/-- The mask without the ports that the Trellis passes nothing to (R249, R426). -/
def openPorts (s : State) (mask : Nat) : Nat :=
  (List.range 20).foldl (fun a q => if trlShut s q then clrBit a q else a) mask

/-- The destination mask of a frame forwarded by table (R237). -/
def destMask (s : State) (f : Frame) : Nat :=
  let d := dstOf f.bytes
  if isReserved d then 2 ^ 17
  else
    let q := f.src
    let hit := if enabled s 0x401000 then (fdbFind s d (vidOf s q f.bytes)).bind (tget s.trl.fdb) else none
    let mask := match hit with
      | some e => e.mask
      | none =>
        if isGroup d then (if q < 16 then tcfg s (Fld.TRL_P_MCF_MASK q) else 0x20000)
        else (if q < 16 then tcfg s (Fld.TRL_P_UCF_MASK q) else 0x2FFFF)
    let mask := clrBit mask q
    let mask := match pairLow q with
      | some l => if pairMode s q = 0 then mask else clrBit (clrBit mask l) (l + 1)
      | none => mask
    let mask := widenPairs s mask
    let mask := if f.oversize then mask / 2 ^ 16 * 2 ^ 16 else mask
    openPorts s mask

/-- The redundancy state of a pair. -/
def redOf (s : State) (l : Nat) : RedPair := tat s.mac.pairs l {}

/-- The redundancy state of a pair replaced. -/
def setRed (s : State) (l : Nat) (p : RedPair) : State := { s with mac := { s.mac with pairs := tset s.mac.pairs l p } }

/-- The first of `k` sequence numbers that a pair gives the frames it sends for one frame handed to it, one to each segment (R201, R202). -/
def redSeq (s : State) (l : Nat) (f : Frame) (k : Nat) : State × Nat :=
  let p := redOf s l
  let src := srcOf f.bytes
  let proxied := fbit s (Fld.MAC_PAIR_REDBOX l) && decide (f.src < 16) &&
    ((tget p.proxy src).isSome || decide (p.proxy.length < 512))
  if proxied then
    let n := tat p.proxy src 0
    (setRed s l { p with proxy := tset p.proxy src ((n + k) % 65536) }, n)
  else
    let own := if f.src < 16 ∨ p.own.contains src then p.own else p.own ++ [src]
    (setRed s l { p with seq := (p.seq + k) % 65536, own := own }, p.seq)

/-- The frames that one frame handed to the Trellis becomes on a pair: its segments (R202). -/
def segCount (s : State) (l : Nat) (f : Frame) : Nat :=
  match f.seg with
  | none => 1
  | some g => max (segments g (fget s (Fld.MAC_MAXLEN_LEN l)) f.bytes).length (segments g (fget s (Fld.MAC_MAXLEN_LEN (l + 1))) f.bytes).length

/-- A frame passes from one pair of a QuadBox to the other, so it keeps the sequence number it came with (R201; PRESUMED from
IEC 62439-3, log 30). -/
def quadPass (s : State) (l : Nat) (f : Frame) : Bool :=
  f.red && decide (f.src < 8) && decide (l < 8) && f.src / 4 == l / 4 && fbit s (Fld.MAC_PAIR_QUADBOX (l / 4 * 4))

/-- Numbers for every active pair of a mask that the frame did not come from (R201). -/
def redNumbers (s : State) (f : Frame) (mask : Nat) : State × Tbl (Nat × Nat) :=
  [0, 2, 4, 6, 8, 10].foldl (fun (a : State × Tbl (Nat × Nat)) l =>
    let mode := pairMode s l
    if mode = 0 ∨ f.asIs ∨ !(bit mask l || bit mask (l + 1)) ∨ f.src / 2 * 2 = l then a
    else if quadPass s l f then (a.1, tset a.2 l (mode, f.seq))
    else
      onPair (redSeq a.1 l f (segCount s l f)) fun s' n => (s', tset a.2 l (mode, n))) (s, [])

/-- The copies of a frame for its outputs; the list names those that were queued. -/
def handCopies (s : State) (f : Frame) (nums : Tbl (Nat × Nat)) (outs : List Nat) (free : Nat) : State × List Nat :=
  outs.foldl (fun (a : State × List Nat) o =>
    onPair (queueCopy a.1 { f with rct := (pairLow o).bind (tget nums) } o false free) fun s ok => (s, if ok then a.2 ++ [o] else a.2)) (s, [])

/-- One form of a frame is queued for the outputs of a mask, and its egress copies are made (R201, R251). -/
def handForm (free : Nat) (s : State) (x : Frame × Nat) : State :=
  let f := { x.1 with order := s.trl.order - 1 }
  onPair (redNumbers s f x.2) fun s nums =>
  onPair (handCopies s f nums (bitsOf x.2 20) free) fun s queued => mirrorTo s f Fld.TRL_MIR_OUT_MASK queued free

/-- A host frame that requested a time-stamp and never enters the Trellis stores a DROPPED entry at every external port of a mask (R142,
R204). -/
def neverSent (s : State) (f : Frame) (mask : Nat) : State := (bitsOf mask 16).foldl (fun s m => stampDrop s m f) s

/-- A frame is handed to the Trellis for the outputs of a mask; a ring frame comes in a second form, with its tag, for the other ring port
(R200, R230, R244, R251, R256). The ingress copies are of the first form. -/
def trlHandAll (s : State) (f : Frame) (mask : Nat) (ring : List (Frame × Nat)) : State :=
  if !enabled s 0x400000 then neverSent s f mask
  else if bit s.trl.blocked f.src then cinc s Fld.TRL_OVSPD_COUNT
  else
    let s := { s with trl := { s.trl with order := s.trl.order + 1 } }
    let free := trlFree s
    let s := mirrorTo s { f with order := s.trl.order - 1 } Fld.TRL_MIR_IN_MASK [f.src] free
    ((f, mask) :: ring).foldl (handForm free) s

/-- A frame of one form is handed to the Trellis for the outputs of a mask. -/
def trlHand (s : State) (f : Frame) (mask : Nat) : State := trlHandAll s f mask []

/-- A frame is forwarded by table (R237, R239), a ring frame to the other ring port as well (R200). -/
def trlForward (s : State) (f : Frame) (ring : List (Frame × Nat)) : State :=
  let mask := destMask s f
  trlHandAll (if enabled s 0x400000 && !bit s.trl.blocked f.src then fdbLearn s f.src f else s) f mask ring

/-- The head frame of an output queue is taken, and the queues move on. -/
def takeHead (s : State) (o c : Nat) : State :=
  trlPump (settleHead (setOut s (8 * o + c) (outQ s o c).tail) o c)

/-- The head frame of an output queue that is on chip. -/
def headOf (s : State) (o c : Nat) : Option Frame := ((outQ s o c).head?).filter fun f => !f.dram

/-- The class of the frame that an internal port takes next: the one it queued first (R214, R250). -/
def nextClass (s : State) (o : Nat) : Option Nat :=
  (List.range 8).foldl (fun a c => match headOf s o c, a with
    | some f, some b => (match headOf s o b with
        | some g => if f.queued < g.queued then some c else a
        | none => some c)
    | some _, none => some c
    | none, a => a) none

/-! ### Frames that wait for an alarm (R172) -/

/-- A frame that waits for an alarm, once the alarm has fired or is no longer armed. -/
def angleFrame (m : Nat) (s : State) (f : Frame) : State × Option Frame :=
  match f.launch with
  | .waits k =>
    match (alarm s k).st with
    | .armed => (s, some f)
    | .fired => (s, some { f with launch := .due (alarm s k).firedAt })
    | _ => (stampDrop (cinc s Fld.SDL_ANG_FRDROP_COUNT) m f, none)
  | _ => (s, some f)

/-- The head of one output queue after a change of the alarms. -/
def angleHead (s : State) (k : Nat) : State :=
  match tat s.trl.out k [] with
  | [] => s
  | f :: t =>
    if 128 ≤ k || f.dram then s
    else onOpt (angleFrame (k / 8) s f) (fun s => trlPump (settleHead (setOut s k t) (k / 8) (k % 8))) fun s f => setOut s k (f :: t)

/-- Every frame that waits for an alarm is brought up to the alarms' states (R172). -/
def angleSweep (s : State) : State := (s.trl.out.map fun e => e.1).foldl angleHead s

/-! ### The pages -/

/-- The DROPPED entries of the frames under one key of a table (R142). -/
def flushStamps (s : State) (e : Nat × List Frame) : State :=
  if e.1 % 160 < 128 then e.2.foldl (fun s f => stampDrop s (e.1 % 160 / 8) f) s else s

/-- Queued and spilled frames, those on their way among them, are discarded and counted in TRL_FLUSH; the resequencers are reset (R142,
R256). -/
def trlFlush (s : State) : State :=
  let all := s.trl.out ++ s.trl.voq ++ s.trl.stage.map fun e => (e.1, e.2.map fun x => x.frame)
  let s := cadd s Fld.TRL_FLUSH_COUNT (all.map fun e => e.2.length).sum
  all.foldl flushStamps { s with trl := { s.trl with out := [], voq := [], stage := [], mid := [], seqTx := [], reseq := [] } }

/-- The mode and the blocked ports follow the PHY values that an application changed (R249). -/
def trlSpeed (old s : State) : State :=
  let changed := (List.range 16).filter fun m => phyOf old m != phyOf s m
  if changed.isEmpty then s
  else if speedSum s ≤ 200 then { s with trl := { s.trl with blocked := 0 } }
  else if s.trl.full || !enabled s 0x400000 || speedSum s ≤ speedSum old then s
  else { s with trl := { s.trl with blocked := changed.foldl setBit s.trl.blocked } }

/-- A ring's SIZE was written (R252, R255, R263). -/
def ringSize (tx : Bool) (r : Nat) (s : State) : State :=
  if tx then fset { s with trl := { s.trl with tx := tdel s.trl.tx r } } (Fld.TRL_TXR_TAIL_TAIL r) 0
  else fset { s with trl := { s.trl with rx := tdel s.trl.rx r } } (Fld.TRL_RXR_TAIL_TAIL r) 0

/-- What follows a write of a TRL register (R252). -/
def trlChanged (r : TrlReg) (i : Nat) (s : State) : State :=
  match r with
  | .TRL_TXR_SIZE => ringSize true i s
  | .TRL_RXR_SIZE => ringSize false i s
  | _ => s

/-- What follows a change of EN of TRL page `p` (R249, R256). -/
def trlEnable (p : Nat) (on : Bool) (s : State) : State :=
  match p, on with
  | 0, true => { s with trl := { s.trl with full := fbit s Fld.TRL_CFG_MODE || decide (200 < speedSum s), blocked := 0 } }
  | 0, false => trlFlush s
  | _, _ => s

/-! ### Host DMA rings (R252–R255) -/

/-- A ring halts at its descriptor (R255). -/
def haltTx (s : State) (r : Nat) : State :=
  cinc { s with trl := { s.trl with tx := tset s.trl.tx r { txRing s r with halt := true } } } Fld.TRL_DMA_DERR_COUNT

/-- A receive ring halts at its descriptor (R255). -/
def haltRx (s : State) (c : Nat) : State :=
  cinc { s with trl := { s.trl with rx := tset s.trl.rx c { rxRing s c with halt := true } } } Fld.TRL_DMA_DERR_COUNT

/-- Transmit ring `r` has a descriptor and is not halted. -/
def txReady (s : State) (r : Nat) : Bool :=
  !(txRing s r).halt && (txRing s r).head != fget s (Fld.TRL_TXR_TAIL_TAIL r)

/-- The frame of a transmit descriptor (R203), without its octets. -/
def frameOfDesc (s : State) (r : Nat) (d : List Nat) : Frame :=
  let w (i : Nat) : Nat := ofLe ((d.drop (4 * i)).take 4)
  let held := bit (w 2) 21
  let timed := bit (w 2) 20
  { bytes := [], src := 17, tc := bits (w 2) 18 16, host := true, asIs := bit (w 2) 25,
    tsreq := bit (w 2) 19, tag := w 3 % 65536,
    launch := if held then .angle (bits (w 6) 15 8) else if timed then .time (w 5) (w 4) else .none,
    mutes := held || timed || bit (fget s Fld.FTB_CFG_MUTERING) r,
    seg := if bit (w 2) 22 then some ⟨bits (w 2) 24 23, bits (w 3) 29 16, w 6 % 256⟩ else none }

/-- A host frame of fewer than 14 octets is dropped and counted at every external port it was for (R187). -/
def shortDrop (s : State) (f : Frame) (mask : Nat) : State :=
  (bitsOf mask 16).foldl (fun s m =>
    stampDrop (if enabled s (macPage m 3) then cinc s (Fld.MAC_TX_LENERR_COUNT m) else s) m f) s

/-- The host frame of a descriptor is handed to the Trellis, and the ring's HEAD moves on (R187, R201, R237, R253). -/
def txTake (s : State) (r : Nat) (ring : Ring) (d bs : List Nat) : State :=
  let f := { frameOfDesc s r d with bytes := bs }
  let f := { f with prio := match outerTag bs with | some t => t / 8192 | none => f.tc }
  let next : Ring := { ring with head := (ring.head + 1) % 2 ^ fget s (Fld.TRL_TXR_SIZE_LOG r) }
  let s := { s with trl := { s.trl with tx := tset s.trl.tx r next } }
  let s := cinc s (Fld.TRL_TXC_COUNT r)
  let dport := bits (ofLe ((d.drop 8).take 4)) 31 27
  if dport < 16 then
    let mask := if f.asIs then 2 ^ dport else widenPairs s (2 ^ dport)
    if bs.length < 14 then shortDrop s f mask
    else
      let open_ := openPorts s mask
      trlHand (neverSent s f (mask - open_)) f open_
  else
    let f := { f with asIs := false }
    if bs.length < 14 then shortDrop s f (destMask s f) else trlForward s f []

/-- The host DMA reads the next frame of a transmit ring and hands it to the Trellis (R187, R201, R237, R253, R255). -/
def hostTx (s : State) : State :=
  if !enabled s 0x410000 then s
  else match ((List.range 8).map fun i => (s.trl.lastTx + 1 + i) % 8).find? (txReady s) with
  | none => s
  | some r =>
    let s := { s with trl := { s.trl with lastTx := r } }
    let ring := txRing s r
    onOpt (physRead s dmaMid (fget s (Fld.TRL_TXR_BASE_ADDR r) * 4096 + ring.head * 32) 32) (fun s => haltTx s r) fun s d =>
      onOpt (physRead s dmaMid (ofLe (d.take 8)) (ofLe ((d.drop 8).take 2))) (fun s => haltTx s r) fun s bs => txTake s r ring d bs

/-- The words of a receive descriptor from offset 0x08 (R205). -/
def rxDesc (f : Frame) (len : Nat) : List Nat :=
  let ns := f.ts / nsUnit
  leBytes 4 (2 ^ 31 + f.src % 16 * 2 ^ 24 + f.tc * 2 ^ 21 + bitAt f.hashed 20 + bitAt f.lanb 19 + bitAt f.red 18 +
    bitAt f.fcsBad 17 + bitAt f.oversize 16 + len) ++ leBytes 4 (ns % 10 ^ 9) ++ leBytes 8 (ns / 10 ^ 9) ++
  leBytes 4 (if f.red then f.seq else 0) ++ leBytes 4 0

/-- A frame of class `c` is delivered into receive ring `c` (R250, R254, R255). -/
def hostRx (s : State) (c : Nat) : State :=
  let ring := rxRing s c
  if !enabled s 0x410000 || ring.halt || ring.head == fget s (Fld.TRL_RXR_TAIL_TAIL c) then s
  else match headOf s 17 c with
  | none => s
  | some f =>
    let at_ := fget s (Fld.TRL_RXR_BASE_ADDR c) * 4096 + ring.head * 32
    let cap := fget s (Fld.TRL_RXR_SIZE_BUFLEN c)
    let data := f.bytes.take cap
    let s := takeHead s 17 c
    onOpt (physRead s dmaMid at_ 8) (fun s => haltRx s c) fun s a =>
      onOk (physWrite s dmaMid (ofLe a) data) (fun s => haltRx s c) fun s =>
        onOk (physWrite s dmaMid (at_ + 8) (rxDesc f data.length)) (fun s => haltRx s c) fun s =>
          let s := if cap < f.bytes.length then cinc s Fld.TRL_DMA_TRUNC_COUNT else s
          let next : Ring := { ring with head := (ring.head + 1) % 2 ^ fget s (Fld.TRL_RXR_SIZE_LOG c) }
          let s := { s with trl := { s.trl with rx := tset s.trl.rx c next } }
          cinc s (Fld.TRL_RXC_COUNT c)

/-- A soft reset of TRL page `p` of 0 to 16 (R256). -/
def trlSrst (p : Nat) (s : State) : State :=
  match p with
  | 0 => trlFlush s
  | 1 => setFdb s (s.trl.fdb.filter fun e => e.2.static)
  | 16 => (List.range 8).foldl (fun s r => ringSize true r (ringSize false r s)) s
  | _ => s

end Sys2Proof.Machine
end

