-- ==== Sys2Proof/Machine/Ports.lean ====
section
/-! DEFINITION. The MACs: reception, duplicate discard, pause, gate control lists, transmission and port resets
(06_ports_and_macs.md), with the time-stamps and launch times of the Sundial (R135–R149). -/

namespace Sys2Proof.Machine

/-- A port replaced. -/
def setPort (s : State) (m : Nat) (p : Port) : State := { s with mac := { s.mac with tbl := tset s.mac.tbl m p } }

/-- A counter of MAC page 3, which counts while the page is enabled (R224). -/
def macCount (s : State) (m : Nat) (f : Nat → FieldRef) : State := if enabled s (macPage m 3) then cinc s (f m) else s

/-! ### Gate control lists (R194–R196) -/

/-- The first cycle start of a setting strictly after a PTP time (R195). -/
def cycleAfter (s : State) (g : GclSet) (t : Nat) : Nat :=
  if g.tick then
    let f := baseHz s
    let sec := t / secUnit
    let n := (t % secUnit * f / secUnit) / g.cycle * g.cycle + g.cycle
    if n < f then instantOf sec n f else instantOf (sec + 1) 0 f
  else
    let c : Int := g.cycle * nsUnit
    ((g.base : Int) + (((t : Int) - g.base) / c + 1) * c).toNat

/-- The start of entry `e` in a cycle that began at `st`. -/
def entryStart (s : State) (m : Nat) (listB : Bool) (st e : Nat) : Nat :=
  st + ((List.range e).map fun i => (gclEntry s m listB i).1 * nsUnit).sum

/-- The next gate change after entry `e` of a cycle that began at `st` (R195). -/
def gateNext (s : State) (m : Nat) (g : Gcl) (st e : Nat) : Nat :=
  let fin := cycleAfter s g.set_ st
  if e + 1 < g.set_.len then min (entryStart s m g.listB st (e + 1)) fin else fin

/-- The entries of a cycle from entry `e` that run: start and gate states. -/
def cycleEntries (s : State) (m : Nat) (listB : Bool) (g : GclSet) (st e : Nat) : List (Nat × Nat) :=
  let fin := cycleAfter s g st
  (((List.range g.len).filter fun i => decide (e ≤ i)).map fun i =>
    (entryStart s m listB st i, (gclEntry s m listB i).2)).filter fun x => decide (x.1 < fin)

/-- The instant at which the gate of class `c` next closes, if it does (R193, R195, R196). -/
def gateCloses (s : State) (m c : Nat) : Option Nat :=
  let g := (portOf s m).gcl
  if !enabled s (macPage m 2) then none
  else
    let ahead : List (Nat × Nat) := match g.start with
      | some st =>
        let nxt := cycleAfter s g.set_ st
        cycleEntries s m g.listB g.set_ st (g.entry + 1) ++ cycleEntries s m g.listB g.set_ nxt 0
      | none => match g.next with
        | some st => cycleEntries s m g.listB g.set_ st 0
        | none => []
    let ahead : List (Nat × Nat) := match g.pend with
      | some (set_, w) => ahead.filter (fun x => decide (x.1 < w)) ++ cycleEntries s m (!g.listB) set_ w 0
      | none => ahead
    (ahead.find? fun x => !bit x.2 c).map fun x => x.1

/-- A gate change that is due takes effect (R195). -/
def gateChange (s : State) (m : Nat) : State :=
  let p := portOf s m
  match p.gcl.next with
  | none => s
  | some t =>
    if !enabled s (macPage m 2) || timeNow s < t then s
    else
      let g := p.gcl
      let fresh (st : Nat) : Gcl := { g with start := some st, entry := 0, next := some (gateNext s m g st 0) }
      match g.start with
      | none => setPort s m { p with gcl := fresh t }
      | some st =>
        if t < cycleAfter s g.set_ st then
          setPort s m { p with gcl := { g with entry := g.entry + 1, next := some (gateNext s m g st (g.entry + 1)) } }
        else setPort s m { p with gcl := fresh t }

/-- MAC_GCL_SW of a port. -/
def gclMbx (m : Nat) : Nat := macPage m 2 + 0x80

/-- A request to switch the operational list is taken (R196, R227). -/
def gclRequest (m : Nat) (s : State) : State :=
  let a := gclMbx m
  let b := mbxAt s a
  if !b.wr || b.op != 0x01 then mbxEnd s a 0xFF
  else
    let tick := bit (b.w 0) 0
    let g : GclSet := {
      tick := tick, len := clampTo 1 256 (b.w 1 % 512),
      cycle := if tick then clampTo 1 255 (b.w 2 % 256) else clampTo 1000 (10 ^ 9) (b.w 2),
      base := b.w2 4 * secUnit + b.w 3 * nsUnit }
    let w := cycleAfter s g (timeNow s + 1000 * nsUnit - 1)
    if timeNow s + 2 ^ 32 * nsUnit < w then mbxEnd s a 0x04
    else
      let p := portOf s m
      setPort s m { p with gcl := { p.gcl with pend := some (g, w) } }

/-- A pending switch whose cycle start is due takes effect (R196). -/
def gclSwitch (s : State) (m : Nat) : State :=
  let p := portOf s m
  match p.gcl.pend with
  | none => s
  | some (set_, w) =>
    if timeNow s < w then s
    else
      let on := enabled s (macPage m 2)
      let g : Gcl := { p.gcl with listB := !p.gcl.listB, set_ := set_, entry := 0, pend := none,
                                  start := if on then some w else none }
      mbxEndIfBusy (setPort s m { p with gcl := { g with next := if on then some (gateNext s m g w 0) else none } }) (gclMbx m) 0

/-! ### Reception (R180–R201) -/

/-- T at the passage of the time-stamp point `age` raw counts ago, less RX_LAT (R135, R136). -/
def rxStamp (s : State) (m age : Nat) : Nat :=
  timePast s.sdl ((s.sdl.raw + 2 ^ 64 - age % 2 ^ 64) % 2 ^ 64) - fget s (Fld.SDL_P_LAT_RX_LAT m) * 2 ^ 28

/-- Priority of a received frame (R192). -/
def prioOf (s : State) (m : Nat) (bs : List Nat) : Nat :=
  match outerTag bs with
  | some tci => tci / 8192
  | none => fget s (Fld.MAC_PCPMAP_DEFPCP m)

/-- Traffic class of a priority on a port (R192). -/
def classFor (s : State) (m prio : Nat) : Nat := fget s (Fld.MAC_PCPMAP_MAP m) / 2 ^ (3 * prio) % 8

/-- An address equals a valid exact entry (R188). -/
def exactHit (s : State) (m a : Nat) : Bool := (portOf s m).exact.any fun e => e.2.2 && e.2.1 == a

/-- The hash bin of an address is set and HASH = 1 (R188, R189). -/
def hashHit (s : State) (m a : Nat) : Bool :=
  fbit s (Fld.MAC_RXF_HASH m) && bit (fget s (Fld.MAC_HASH_BITS m (hashBin a / 32))) (hashBin a % 32)

/-- Rules 2 to 4 of R188; with page 1 disabled only rules 1 and 3 pass (R224). -/
def filterPass (s : State) (m a : Nat) : Bool :=
  let on := enabled s (macPage m 1)
  if a = 0xFFFFFFFFFFFF then fbit s (Fld.MAC_RXF_BCAST m)
  else if !on then false
  else if !isGroup a then true
  else exactHit s m a || hashHit s m a || fbit s (Fld.MAC_RXF_ALLMC m)

/-- The entry of a source in a duplicate table, not yet forgotten (R199). -/
def dupFind (s : State) (l src : Nat) : Option DupEntry :=
  (redOf s l).dup.find? fun e => e.src == src && decide (s.sdl.raw < e.at_ + fget s (Fld.MAC_PAIR_FORGET l) * 10 ^ 6)

/-- An entry of a duplicate table set. -/
def dupSet (s : State) (l : Nat) (e : DupEntry) : State :=
  setRed s l { redOf s l with dup := ((redOf s l).dup.filter fun x => x.src != e.src) ++ [e] }

/-- Duplicate discard of a frame with a sequence number on port `m` of a pair (R199): whether it is accepted. -/
def dupCheck (s : State) (m l src n : Nat) : State × Bool :=
  match dupFind s l src with
  | none =>
    let p := redOf s l
    if (p.dup.filter fun x => x.src != src).length < 4096 then (dupSet s l ⟨src, n, 1, s.sdl.raw⟩, true)
    else (macCount s m Fld.MAC_RX_NOSRC_COUNT, true)
  | some e =>
    let up := (n + 65536 - e.h) % 65536
    let down := (e.h + 65536 - n) % 65536
    if 1 ≤ up ∧ up ≤ 32767 then
      (dupSet s l { e with h := n, win := (e.win * 2 ^ min up 128 + 1) % 2 ^ 128, at_ := s.sdl.raw }, true)
    else if down ≤ 127 then
      if bit e.win down then (macCount (dupSet s l { e with at_ := s.sdl.raw }) m Fld.MAC_RX_DUP_COUNT, false)
      else (dupSet s l { e with win := setBit e.win down, at_ := s.sdl.raw }, true)
    else (macCount (dupSet s l { e with at_ := s.sdl.raw }) m Fld.MAC_RX_OOW_COUNT, true)

/-- An entry of a duplicate table is freed after FORGET ms without a frame from its source (R199). -/
def dupForget (s : State) (l src : Nat) : State :=
  match (redOf s l).dup.find? fun e => e.src == src with
  | none => s
  | some e =>
    if s.sdl.raw < e.at_ + fget s (Fld.MAC_PAIR_FORGET l) * 10 ^ 6 then s
    else setRed s l { redOf s l with dup := (redOf s l).dup.filter fun x => x.src != src }

/-- Address of this node or of a proxied node on a pair (R200; DEDUCED, log 28). -/
def nodeAddr (s : State) (l a : Nat) : Bool := (redOf s l).own.contains a || (tget (redOf s l).proxy a).isSome

/-- Raw counts that `n` bit times take at a PHY mode, rounded up. -/
def bitTimes (phy n : Nat) : Nat := let r := phyRate phy; if r = 0 then 0 else (n + r - 1) / r

/-- A pause frame (R190). -/
def pauseFrame (s : State) (m : Nat) (bs : List Nat) : State :=
  let s := macCount s m Fld.MAC_RX_PAUSE_COUNT
  if !fbit s (Fld.MAC_RXF_PAUSE_EN m) then s
  else
    let q := be bs 16 2
    setPort s m { portOf s m with
      paused := if q = 0 then none else some (s.sdl.raw + bitTimes (phyOf s m) (q * 512)) }

/-- The pause time runs out (R190). -/
def pauseExpire (s : State) (m : Nat) : State :=
  match (portOf s m).paused with
  | none => s
  | some t => if s.sdl.raw < t then s else setPort s m { portOf s m with paused := none }

/-- The other form of a ring frame alone is handed to the Trellis. -/
def ringHand (s : State) (ring : List (Frame × Nat)) : State := ring.foldl (fun s x => trlHand s x.1 x.2) s

/-- A frame that passed the length and FCS checks, with its tag or trailer handled, is filtered and handed to the Trellis (R188), with the
form of a ring frame that goes on around its ring, if any (R200). -/
def rxDeliver (s : State) (m : Nat) (f : Frame) (ring : List (Frame × Nat)) : State :=
  let d := dstOf f.bytes
  if isReserved d then
    if d % 16 = 1 ∧ be f.bytes 12 2 = 0x8808 then
      if f.oversize then s
      else if be f.bytes 14 2 = 0x0001 then pauseFrame s m f.bytes
      else macCount s m Fld.MAC_RX_FILT_COUNT
    else trlForward s f []
  else if filterPass s m d then
    trlForward s { f with hashed := isGroup d && d != 0xFFFFFFFFFFFF && hashHit s m d && !exactHit s m d && !fbit s (Fld.MAC_RXF_ALLMC m) } ring
  else ringHand (macCount s m Fld.MAC_RX_FILT_COUNT) ring

/-- A frame on a PRP pair (R198, R199). -/
def rxPrp (s : State) (m l : Nat) (f : Frame) : State :=
  match rctOf f.bytes (m % 2 == 1) with
  | none => rxDeliver s m f []
  | some n =>
    let d := dstOf f.bytes
    if !isReserved d && !filterPass s m d then macCount s m Fld.MAC_RX_FILT_COUNT
    else onOk (dupCheck s m l (srcOf f.bytes) n) (fun s => s) fun s =>
      rxDeliver s m { f with bytes := dropRct f.bytes, fcs := none, red := true, seq := n } []

/-- A frame on an HSR pair (R198–R200): the ring forwards it whatever the address filter says, but for a destination of rule 1 of R188,
which is never forwarded (R141). -/
def rxHsr (s : State) (m l : Nat) (f : Frame) : State :=
  match hsrOf f.bytes with
  | none => if isReserved (dstOf f.bytes) then rxDeliver s m f [] else macCount s m Fld.MAC_RX_FILT_COUNT
  | some n =>
    let src := srcOf f.bytes
    let d := dstOf f.bytes
    if nodeAddr s l src then macCount s m Fld.MAC_RX_DUP_COUNT
    else onOk (dupCheck s m l src n) (fun s => s) fun s =>
        let other := if m = l then l + 1 else l
        let stays := isReserved d || (!isGroup d && nodeAddr s l d)
        let ring := if stays then [] else [({ f with asIs := true, red := true }, openPorts s (2 ^ other))]
        rxDeliver s m { f with bytes := dropHsr f.bytes, fcs := none, red := true, seq := n } ring

/-- A whole frame is received on a port (R135, R136, R180–R201, R426): its octets without the FCS, whether its FCS is good, and the
raw counts since its time-stamp point passed. -/
def frameReceive (s : State) (m : Nat) (bs : List Nat) (fcsOk : Bool) (age : Nat) : State :=
  if !portUp s m || !(portOf s m).link then s
  else if m = 15 then macCount s m Fld.MAC_RX_FILT_COUNT
  else if !fbit s (Fld.MAC_MODE_RXEN m) then s
  else
    let ours := pairOp s && (m == 12 || m == 13)
    let maxLen := if ours then 9600 else fget s (Fld.MAC_MAXLEN_LEN m)
    let len := bs.length + 4
    if len < 64 then macCount s m Fld.MAC_RX_RUNT_COUNT
    else if len ≤ maxLen && !fcsOk then macCount s m Fld.MAC_RX_FCS_COUNT
    else
      let long := decide (maxLen < len)
      let s := macCount s m (if long then Fld.MAC_RX_OVERSIZE_COUNT else Fld.MAC_RX_OK_COUNT)
      if ours then (if etherType bs = 0x88B5 then s else cinc s Fld.FTB_FOREIGN_COUNT)
      else
        let prio := prioOf s m bs
        let mode := pairMode s m
        let f : Frame := {
          bytes := if long then bs.take (maxLen - 4) else bs, src := m, tc := classFor s m prio, prio := prio,
          fcs := if long then none else some (crc32 bs),
          ts := rxStamp s m age, oversize := long, fcsBad := long, lanb := decide (m < 12) && m % 2 == 1 }
        match mode, pairLow m with
        | 1, some l => if long then rxDeliver s m f [] else rxPrp s m l f
        | 2, some l =>
          if !long then rxHsr s m l f
          else if (hsrOf f.bytes).isSome || isReserved (dstOf f.bytes) then rxDeliver s m f []
          else macCount s m Fld.MAC_RX_FILT_COUNT
        | _, _ => rxDeliver s m f []

/-! ### Transmission (R182–R193, R201) -/

/-- The octets of a frame with its outer tag as the port's TAGMODE has it (R241). -/
def tagged (s : State) (m : Nat) (f : Frame) : List Nat :=
  retag (tcfg s (Fld.TRL_P_CTRL_TAGMODE m)) (tcfg s (Fld.TRL_P_CTRL_PVID m)) f.prio f.bytes

/-- The octets that a frame has on the wire of port `m`, without the FCS and before padding (R201, R241). -/
def egressBytes (s : State) (m : Nat) (f : Frame) : List Nat :=
  match f.rct with
  | some (1, n) => addRct (tagged s m f) (m % 2 == 1) n
  | some (2, n) => addHsr (tagged s m f) (m % 2 == 1) n
  | _ => tagged s m f

/-- Padding is needed: in front of the RCT or HSR tag, or behind the octets (R182, R187). -/
def needsPad (s : State) (m : Nat) (f : Frame) : Bool :=
  if f.rct.isSome then decide ((tagged s m f).length < 54) else decide ((tagged s m f).length < 60)

/-- The window of a frame with a launch time has closed, or SDL page 1 is disabled (R146, R149). -/
def launchLate (s : State) (m : Nat) (f : Frame) : Bool :=
  match f.launch with
  | .due l => !enabled s 0x201000 ||
      decide (l + fget s (Fld.SDL_P_LATE_LIMIT m) * nsUnit ≤ timeNow s + fget s (Fld.SDL_P_LAT_TX_LAT m) * 2 ^ 28)
  | _ => false

/-- The late head frame of a class is dropped (R146, R149). -/
def launchDrop (s : State) (m c : Nat) : State :=
  match headOf s m c with
  | none => s
  | some f => if launchLate s m f then takeHead (stampDrop (cinc s (Fld.SDL_P_LTLATE_COUNT m)) m f) m c else s

/-- The frames that a segmented send becomes: each with its own sequence number on a pair; the launch time and the time-stamp are the
first one's (R201, R202). -/
def segFrames (f : Frame) (parts : List (List Nat)) : List Frame :=
  (parts.zip (List.range parts.length)).map fun e =>
    let g := { f with bytes := e.1, seg := none, rct := f.rct.map fun x => (x.1, (x.2 + e.2) % 65536) }
    if e.2 = 0 then g else { g with launch := .none, tsreq := false }

/-- The head frame of a class is dropped as late, cut into segments, or dropped for its length, until a frame that may be sent stands at the
head (R146, R149, R182, R185, R187, R202). -/
def headFit (m c : Nat) : Nat → State → State
  | 0, s => s
  | n + 1, s =>
    match headOf s m c with
    | none => s
    | some f =>
      let maxLen := fget s (Fld.MAC_MAXLEN_LEN m)
      let long := decide (maxLen < (egressBytes s m f).length + 4)
      if launchLate s m f then headFit m c n (launchDrop s m c)
      else match f.seg with
      | some g =>
        let s := if long then macCount s m Fld.MAC_TX_SEG_COUNT else s
        headFit m c n (setOut s (8 * m + c) (segFrames f (segments g maxLen f.bytes) ++ (outQ s m c).tail))
      | none =>
        if long then headFit m c n (takeHead (stampDrop (macCount s m Fld.MAC_TX_LENERR_COUNT) m f) m c)
        else s

/-- A bound on the frames that `headFit` drops or cuts: a frame of L octets makes at most L + 1 segments. -/
def fitBound (q : List Frame) : Nat := (q.map fun f => f.bytes.length + 3).sum + 1

/-- The transmitter may start a frame: the port runs, its transmit path is on, it is idle and not paused (R146, R190, R426). -/
def txIdle (s : State) (m : Nat) : Bool :=
  portUp s m && (portOf s m).link && fbit s (Fld.MAC_MODE_TXEN m) && (portOf s m).sending.isNone && (portOf s m).paused.isNone &&
  !(pairOp s && (m == 12 || m == 13))

/-- The head frame of class `c` may be sent now (R146, R172, R193). -/
def txMay (s : State) (m c : Nat) : Option Frame :=
  match headOf s m c with
  | none => none
  | some f =>
    let occ := bitTimes (phyOf s m) ((max 64 ((egressBytes s m f).length + 4) + 20) * 8)
    let fits := match gateCloses s m c with
      | none => true
      | some t => decide (occ ≤ countsUntil s t)
    let timed := match f.launch with
      | .none => true
      | .due l => decide (l ≤ timeNow s + fget s (Fld.SDL_P_LAT_TX_LAT m) * 2 ^ 28)
      | _ => false
    if bit (gatesNow s m) c && fits && timed then some f else none

/-- The correctionField addition of the transparent clock (R138–R140). -/
def ptpCorrect (s : State) (m : Nat) (f : Frame) (b : List Nat) (egress : Nat) : State × List Nat :=
  let mode (q : Nat) : Nat := if enabled s 0x201000 then fget s (Fld.SDL_P_CTRL_TCMODE q) else 0
  if 16 ≤ f.src || mode f.src == 0 || mode m == 0 then (s, b)
  else match ptpEvent b with
    | none => (s, b)
    | some (o, t) =>
      let stay : Int := ((egress : Int) - f.ts) / 2 ^ 16
      let link : Int := if t = 0 ∧ mode f.src = 2 then
          (fget s (Fld.SDL_P_LINKDLY_NS f.src) * 2 ^ 16 + fget s (Fld.SDL_P_LINKDLY_FRAC f.src) * 2 ^ 8 : Nat) else 0
      let (b, sat) := correct b o (stay + link)
      (if sat then cinc s (Fld.SDL_P_CFSAT_COUNT m) else s, b)

/-- The FCS of the octets that a frame has on the wire: the one that it arrived with where nothing changed them, else recomputed (R186,
R187). -/
def fcsOf (f : Frame) (b : List Nat) : Nat :=
  match f.fcs with
  | some x => if b = f.bytes then x else crc32 b
  | none => crc32 b

/-- The head frame `f` of class `c` is sent, or discarded at the MAC while the module mutes (R142, R182, R187, R193, R446). -/
def txSend (s : State) (m c : Nat) (f : Frame) : State :=
  let s := takeHead s m c
  if f.mutes && (muting s || frozen s) then stampDrop (cinc s Fld.FTB_MUTED_COUNT) m f
  else
    let egress := timeNow s + fget s (Fld.SDL_P_LAT_TX_LAT m) * 2 ^ 28
    let b := egressBytes s m f
    let s := if needsPad s m f then macCount s m Fld.MAC_TX_PAD_COUNT else s
    let (s, b) := ptpCorrect s m f (padTo 60 b) egress
    let occ := bitTimes (phyOf s m) ((b.length + 4 + 20) * 8)
    let s := setPort s m { portOf s m with sending := some ⟨s.sdl.raw + occ, egress, f.tsreq, f.tag⟩ }
    { s with mac := { s.mac with wire := s.mac.wire ++ [(m, b ++ leBytes 4 (fcsOf f b))] } }

/-- A transmit opportunity of a port (R193). -/
def frameTransmit (s : State) (m : Nat) : State :=
  if !txIdle s m then s
  else
    let s := (List.range 8).foldl (fun s c => headFit m c (fitBound (outQ s m c)) s) s
    match ([7, 6, 5, 4, 3, 2, 1, 0].filter fun c => (txMay s m c).isSome).head? with
    | none => s
    | some c => match txMay s m c with
      | some f => txSend s m c f
      | none => s

/-- A frame on the wire whose transmission has ended is counted, and its time-stamp stored (R142, R182). -/
def txSettle (s : State) (m : Nat) : State :=
  match (portOf s m).sending with
  | none => s
  | some x =>
    if s.sdl.raw < x.until_ then s
    else
      let s := setPort s m { portOf s m with sending := none }
      let s := macCount s m Fld.MAC_TX_OK_COUNT
      if x.tsreq then storeStamp s m x.tag (x.ts / nsUnit) false else s

/-! ### Port resets (R99, R103, R180, R181) -/

/-- The frames inside a port are discarded and its working state returns to its power-on values; whether a frame was partly received
is a free value (R181; log 2). -/
def portClear (s : State) (m : Nat) : State :=
  let p := portOf s m
  let s := match p.sending with
    | none => s
    | some x =>
      let s := macCount s m Fld.MAC_TX_ABORT_COUNT
      if x.tsreq then storeStamp s m x.tag 0 true else s
  let s := if p.link && fbit s (Fld.MAC_MODE_RXEN m) then
      let part := drawn 1 s
      let s := drew s
      if part = 1 then macCount s m Fld.MAC_RX_ABORT_COUNT else s
    else s
  setPort s m { portOf s m with link := false, paused := none, sending := none }

/-- The shadows of the registers of a port's crossing group return to their reset values (R101). -/
def portShadows (s : State) (m : Nat) : State :=
  dropShadows s fun a => a == macPage m 0 + 0x50 || a == macPage m 2 + 0x44

/-- The strobe requests into port `m` that it has not taken are discarded; the values stay pending, the newest of each register (R63,
R101). -/
def strbDiscard (s : State) (m : Nat) : State :=
  let mine (e : PendEntry) : Bool := decide (macPage m 0 ≤ e.addr) && decide (e.addr < macPage m 0 + 0x10000)
  let newest : List PendEntry → List PendEntry := fun l => l.foldr (fun e t => if t.any fun x => x.addr == e.addr then t else e :: t) []
  { s with reg := { s.reg with pend := (newest s.reg.pend).map fun e => if mine e then { e with sent := 0 } else e } }

/-- The TOKEN crossing group resets with either Footbridge port: its count and request are discarded, and its hold is four word-clock
periods (R100, R101; log 91). -/
def tokenReset (s : State) : State := holdGroup { s with cru := { s.cru with token := {} } } 2 11

/-- RD_PORTm enters reset (R99–R101, R109, R111): its lane PLL must relock, its crossing group and, for a Footbridge port, the TOKEN
group are reset and held. -/
def portDown (s : State) (m : Nat) : State :=
  let s := holdGroup (strbDiscard (portShadows (portClear s m) m) m) (16 + m) 32
  let s := if m = 12 ∨ m = 13 then tokenReset s else s
  { s with cru := { s.cru with
      pll := clrBit s.cru.pll (16 + m), portStat := setBit s.cru.portStat m, portPulse := tdel s.cru.portPulse m } }

/-- The monitor of a port that is disabled starts anew (R106, R107). -/
def monForget (s : State) (i : Nat) : State :=
  { s with cru := { s.cru with mon := clrBit s.cru.mon i, monOut := clrBit s.cru.monOut i, monIn := clrBit s.cru.monIn i } }

/-- RD_PORTm is reset for 1 µs (R99, R112). -/
def portPulse (s : State) (m : Nat) : State :=
  let s := portDown s m
  { s with cru := { s.cru with portPulse := tset s.cru.portPulse m (s.sdl.fab + 1000) } }

/-- A new PHY, FEC or AN value that an application made active resets its port (R180), and the Trellis follows (R249). -/
def macApplied (old s : State) : State :=
  let changed (m : Nat) : Bool := phyOf old m != phyOf s m || fget old (Fld.MAC_MODE_FEC m) != fget s (Fld.MAC_MODE_FEC m) ||
    fget old (Fld.MAC_MODE_AN m) != fget s (Fld.MAC_MODE_AN m)
  trlSpeed old (((List.range 16).filter changed).foldl portPulse s)

/-! ### The pages -/

/-- A request of a MAC mailbox of port `m` (R225, R227). -/
def macMbx (r : MacReg) (m a : Nat) (s : State) : State :=
  let b := mbxAt s a
  match r with
  | .MAC_EXACT =>
    let k := b.arg % 64
    match b.op, b.wr with
    | 0x01, true =>
      let p := portOf s m
      mbxEnd (setPort s m { p with exact := tset p.exact k (addrOfWords (b.w 0) (b.w 1 % 2 ^ 16), bit (b.w 1) 31) }) a 0
    | 0x02, false =>
      let (addr, v) := tat (portOf s m).exact k (0, false)
      mbxAnswer s a 0 [w32 (addrD0 addr), w32 (bitAt v 31 + addrD1 addr)]
    | _, _ => mbxEnd s a 0xFF
  | .MAC_GCL_SW => gclRequest m s
  | _ => s

/-- What follows a change of EN of page `p` of port `m` (R196, R224). -/
def macEnable (m p : Nat) (on : Bool) (s : State) : State :=
  let q := portOf s m
  match p with
  | 0 => if on then s else monForget (portDown s m) (16 + m)
  | 2 => setPort s m { q with gcl := { q.gcl with
      start := none, entry := 0, next := if on then some (cycleAfter s q.gcl.set_ (timeNow s)) else none } }
  | _ => s

/-- A soft reset of page `p` of port `m` (R224). -/
def macSrst (m p : Nat) (s : State) : State :=
  match p with
  | 0 => portPulse s m
  | 2 =>
    let q := portOf s m
    mbxEndIfBusy (setPort s m { q with gcl := { q.gcl with pend := none } }) (gclMbx m) 0x06
  | _ => s

end Sys2Proof.Machine
end

