-- ==== Sys2Proof/Machine/KeyStore.lean ====
section
/-! DEFINITION. Keys in the Gatehouse (17_gatehouse_keys.md): the root secret, derivation, uses and their permissions, the line path,
and the key store in the boot flash. -/

namespace Sys2Proof.Machine

/-- The Gatehouse's master identity (R15). -/
def gthMid : Nat := 0x5000

/-- A Herbarium record of the Gatehouse (R585). -/
def gthRecord (s : State) (type : Nat) (args : List Nat) : State := record s type gthMid args

/-! ### Derivation (R565, R571, R572) -/

/-- ASCII octets. -/
def ascii (t : String) : List Nat := t.toList.map Char.toNat

/-- Bits of a value of an ALG (R572). -/
def algBits (alg : Nat) : Nat := if alg = 1 then 128 else 256

/-- The value of a DERIVED slot (R572). -/
def kdf (parentKey label : List Nat) (child parent parentVer depth alg : Nat) : List Nat :=
  let l := algBits alg
  let out := Config.hmac parentKey ([0, 0, 0, 1] ++ label ++ [0] ++ ascii "GTH1" ++ toBe 2 child ++ toBe 2 parent ++ toBe 4 parentVer ++
    [depth, alg, 0, 0] ++ toBe 4 l)
  (toBe 32 out).take (l / 8)

/-- The depth of a slot (R571); `fuel` bounds it. -/
def slotDepth (s : State) : Nat → Nat → Nat
  | 0, _ => 0
  | n + 1, k => match tget s.gth.slots k with
    | some x => if x.type = 2 then slotDepth s n x.parent + 1 else 0
    | none => 0

/-- The value of a slot: the key of a STORED slot, the derived value of a DERIVED one (R572). -/
def keyValue (s : State) : Nat → Nat → List Nat
  | 0, _ => []
  | n + 1, k => match tget s.gth.slots k with
    | none => []
    | some x =>
      if x.type = 2 then
        let ver := match tget s.gth.slots x.parent with | some p => p.ver | none => 0
        kdf (keyValue s n x.parent) x.label k x.parent ver (slotDepth s 8 k) x.alg
      else x.key

/-- A key-store key (R565): derived from the root with PARENT 0xFFFF (child slot 0, depth 1, ALG 2: log 37). -/
def storeKey (s : State) (label : String) : List Nat := kdf (toBe 32 s.gth.root) (ascii label) 0 0xFFFF 0 1 2

/-- The slots that have `k` among their ancestors (R575). -/
def descendants (s : State) (k : Nat) : List Nat :=
  let rec under : Nat → Nat → Bool
    | 0, _ => false
    | n + 1, j => match tget s.gth.slots j with
      | some x => x.type == 2 && (x.parent == k || under n x.parent)
      | none => false
  (s.gth.slots.map fun e => e.1).filter fun j => under 8 j

/-- The derived cache without the descendants of a slot, and without the slot (R575). -/
def purgeCache (s : State) (k : Nat) : State :=
  let ds := descendants s k
  { s with gth := { s.gth with cache := s.gth.cache.filter fun j => j != k && !ds.contains j } }

/-! ### Uses (R559, R570, R575, R584, R586) -/

/-- TAMPACT applies (R584). -/
def tampered (s : State) (n : Nat) : Bool := s.grt.tamper && decide (n ≤ fget s Fld.GTH_CFG_TAMPACT)

/-- One of the identity conditions of R570 holds: by pavilion for a request that names one, else by master identity. -/
def identityOk (x : KeySlot) (mid : Nat) (pav : Option Nat) : Bool :=
  match pav with
  | some p => decide (x.pavLo ≤ p) && decide (p ≤ x.pavHi)
  | none => x.mids.any fun m => m == mid || (m % 0x1000 == 0xFFF && m / 0x1000 == mid / 0x1000)

/-- What stands before a use of a slot: the CODE of a refusal (R559, R567, R569, R570, R575, R584). -/
def useRefusal (s : State) (k use mid : Nat) (pav : Option Nat) : Option Nat :=
  if !gthUp s then some 0x0A
  else if tampered s 2 then some 0x05
  else if s.gth.rootSt ≠ 1 then some 0x09
  else if s.gth.bad.contains k then some 0x03
  else match tget s.gth.slots k with
    | none => some 0x04
    | some x =>
      if x.revoked then some 0x08
      else if !ancestorsValid s 8 k then some 0x07
      else if bit x.uses use && identityOk x mid pav then none
      else some 0x02

/-- A refused use is counted (R570, R575). -/
def countRefusal (s : State) (code : Nat) : State :=
  if code = 0x02 then cinc s Fld.GTH_DENY_COUNT else if code = 0x07 then cinc s Fld.GTH_ANCREV_COUNT else s

/-- A derived value enters the cache, least recently used entries leaving (R573). -/
def touchCache (s : State) (k : Nat) : State :=
  if slotDerived s k && !(pinned s).contains k then
    { s with gth := { s.gth with cache := (k :: s.gth.cache.filter fun j => j != k).take (1022 - (pinned s).length) } }
  else s

/-- A use of a slot: a refusal with its CODE, or the slot and its value. -/
def useKey (s : State) (k use mid : Nat) (pav : Option Nat) : State × Nat × List Nat :=
  match useRefusal s k use mid pav with
  | some code => (countRefusal s code, code, [])
  | none => (touchCache s k, 0, keyValue s 9 k)

/-- The line path checks the tag of a frame with slot `k` (R270, R573, R577): it never computes a value. -/
def lineCheck (s : State) (k mid alg : Nat) (bs : List Nat) : State × Bool :=
  match useRefusal s k 0 mid none with
  | some code => (countRefusal s code, false)
  | none =>
    if slotDerived s k && !(pinned s).contains k && !s.gth.cache.contains k then (cinc s Fld.GTH_LINEMISS_COUNT, false)
    else
      let fits := match tget s.gth.slots k with | some x => x.alg == alg | none => false
      (s, fits && Config.secTag (keyValue s 9 k) bs)

/-- The check of a frame on a stream or subscription with AUTH = 1: keys and their identifiers (R214, R270). The third component
tells which key verified. -/
def authCheck (s : State) (key0 key1 kid0 kid1 mid : Nat) (bs : List Nat) : State × Option Nat :=
  match Config.secField bs with
  | none => (s, none)
  | some (kid, alg) =>
    if kid = kid0 then
      onPair (lineCheck s key0 mid alg bs) fun s ok => (s, if ok then some 0 else none)
    else if kid = kid1 then
      onPair (lineCheck s key1 mid alg bs) fun s ok => (s, if ok then some 1 else none)
    else (s, none)

/-! ### The key store (R564–R567) -/

/-- Offset of a slot's copy in the boot flash (R564). -/
def copyAt (s : State) (k copy : Nat) : Nat := fget s Fld.GTH_STORE_BASE * 2 ^ 20 + copy * 2 ^ 24 + k * 4096

/-- The key of a STORED slot as its record holds it: the octets XORed with the counter-mode key stream (R565). -/
def cipherKey (s : State) (k ver : Nat) (key : List Nat) : List Nat :=
  toBe 32 (ofBe (key ++ List.replicate (32 - key.length) 0) ^^^
    Config.aesCtr (storeKey s "SLOT-ENC") (toBe 2 k ++ toBe 4 ver ++ List.replicate 10 0) % 2 ^ 256)

/-- The octets of a record from 0x00 to 0xFB (R564, R565). -/
def slotRecord (s : State) (k ver : Nat) (x : Option KeySlot) : List Nat :=
  let body := match x with
    | none => [0, 0] ++ leBytes 4 ver ++ List.replicate 180 0
    | some x =>
      let data := if x.type = 1 then cipherKey s k ver x.key ++ List.replicate 64 0
        else if x.type = 3 then x.key else List.replicate 96 0
      [x.type, x.alg] ++ leBytes 4 ver ++ leBytes 2 x.parent ++ [x.label.length, b2n x.revoked] ++ leBytes 4 x.uses ++
      x.mids.flatMap (leBytes 2) ++ leBytes 2 x.pavLo ++ leBytes 2 x.pavHi ++ x.label ++ List.replicate (64 - x.label.length) 0 ++ data
  let head := leBytes 4 0x4B534847 ++ leBytes 2 k ++ body
  let tail := List.replicate 44 0
  head ++ toBe 16 (Config.cmac (storeKey s "SLOT-MAC") (head ++ tail) % 2 ^ 128) ++ tail

/-- A copy carries a mark (R567). -/
def copyMarked (s : State) (k copy : Nat) : Bool := flashLe s.dbg.flash (copyAt s k copy + 0xFC) 4 == 0x5A5AA5A5

/-- The octets of a copy. -/
def copyBytes (s : State) (k copy : Nat) : List Nat := flashRead s.dbg.flash (copyAt s k copy) 0xFC

/-- A copy with a mark is good (R567). -/
def copyGood (s : State) (k copy : Nat) : Bool :=
  let b := copyBytes s k copy
  ofLe (b.take 4) == 0x4B534847 && ofLe ((b.drop 4).take 2) == k &&
  ofBe ((b.drop 0xC0).take 16) == Config.cmac (storeKey s "SLOT-MAC") (b.take 0xC0 ++ b.drop 0xD0) % 2 ^ 128

/-- VERSION of a copy. -/
def copyVer (s : State) (k copy : Nat) : Nat := ofLe (((copyBytes s k copy).drop 8).take 4)

/-- The slot that a copy holds; none for EMPTY. -/
def copySlot (s : State) (k copy : Nat) : Option KeySlot :=
  let b := copyBytes s k copy
  let w (o n : Nat) : Nat := ofLe ((b.drop o).take n)
  let type := w 6 1
  if type = 0 ∨ 3 < type then none
  else
    let key := if type = 1 then (cipherKey s k (w 8 4) ((b.drop 0x60).take 32)).take (algBits (w 7 1) / 8)
      else if type = 3 then (b.drop 0x60).take 96 else []
    some { type := type, alg := w 7 1, ver := w 8 4, parent := w 0xC 2, label := (b.drop 0x20).take (w 0xE 1), uses := w 0x10 4,
           mids := [w 0x14 2, w 0x16 2, w 0x18 2, w 0x1A 2], pavLo := w 0x1C 2, pavHi := w 0x1E 2, key := key,
           revoked := bit (w 0xF 1) 0 }

/-- The newer good copy of a slot (R567). -/
def newerCopy (s : State) (k : Nat) : Option Nat :=
  let good (c : Nat) : Bool := copyMarked s k c && copyGood s k c
  match good 0, good 1 with
  | true, true => if seqLater (copyVer s k 1) (copyVer s k 0) then some 1 else some 0
  | true, false => some 0
  | false, true => some 1
  | false, false => none

/-- A slot is loaded from its copies (R567). -/
def loadSlot (s : State) (k : Nat) : State :=
  let spoilt := [0, 1].any fun c => copyMarked s k c && !copyGood s k c
  if spoilt then gthRecord { s with gth := { s.gth with bad := s.gth.bad ++ [k] } } 0x0403 [k]
  else match (newerCopy s k).bind (copySlot s k) with
    | some x => { s with gth := { s.gth with slots := tset s.gth.slots k x } }
    | none => s

/-- The slots with a programmed octet in the key store, in rising order. -/
def storedSlots (s : State) : List Nat :=
  let base := fget s Fld.GTH_STORE_BASE * 2 ^ 20
  let ks := (((s.dbg.flash.filter fun e => decide (base ≤ e.1) && decide (e.1 < base + 2 ^ 25)).map fun e =>
    (e.1 - base) / 4096 % 4096).eraseDups)
  (List.range 4096).filter ks.contains

/-- Every slot is loaded from its copies, and the load ends (R559, R569). -/
def keyStoreLoad (s : State) : State :=
  if !s.gth.loading then s
  else
    let s := { s with gth := { s.gth with slots := [], bad := [], cache := [], loading := false } }
    if s.gth.rootSt ≠ 1 then s else (storedSlots s).foldl loadSlot s

/-- GTH_KEY. -/
def gthKeyMbx : Nat := 0xE00080

/-- The record of an update is programmed into its copy, without VALID (R566). -/
def programCopy (s : State) (u : KeyUpdate) : State :=
  let at_ := copyAt s u.slot u.copy
  { s with dbg := { s.dbg with flash := flashProgram (flashErase s.dbg.flash at_ (at_ + 4096)) at_ (slotRecord s u.slot u.ver u.next) },
           gth := { s.gth with update := some u } }

/-- An update of a slot begins (R566): the copy that is not the newer valid one, or both copies of a BAD slot. -/
def startUpdate (s : State) (k : Nat) (next : Option KeySlot) (op purged : Nat) : State :=
  let newer := newerCopy s k
  let ver := match newer with | some c => (copyVer s k c + 1) % 2 ^ 32 | none => 1
  let bad := s.gth.bad.contains k
  let copy := if bad then 0 else match newer with | some 0 => 1 | _ => 0
  let next := next.map fun x => { x with ver := ver }
  programCopy s ⟨k, next, op, ver, copy, bad, purged⟩

/-- The VALID program of a slot record completes (R566, R574–R576): the contents take effect in key memory, and the request ends with
the last copy. -/
def keyStoreValid (s : State) : State :=
  match s.gth.update with
  | none => s
  | some u =>
    let at_ := copyAt s u.slot u.copy
    let s := { s with dbg := { s.dbg with flash := flashProgram s.dbg.flash (at_ + 0xFC) (leBytes 4 0x5A5AA5A5) },
                      gth := { s.gth with update := none } }
    let s := if u.again || u.copy = 0 || !s.gth.bad.contains u.slot then
        let s := purgeCache s u.slot
        { s with gth := { s.gth with
            bad := s.gth.bad.filter (fun k => k != u.slot),
            slots := match u.next with | some x => tset s.gth.slots u.slot x | none => tdel s.gth.slots u.slot } }
      else s
    if u.again then programCopy s { u with copy := 1, again := false }
    else
      let s := match u.op, u.next with
        | 0x01, some x => gthRecord s 0x0408 [u.slot, u.ver, x.type * 256 + x.alg]
        | 0x03, _ => gthRecord s 0x0407 [u.slot, u.purged, u.ver]
        | _, _ => s
      mbxEndIfBusy s gthKeyMbx 0

/-! ### The root secret (R557–R559) -/

/-- A bank is programmed as a birth completes (R558). -/
def setBank (s : State) (b : Nat) (x : RootBank) : State :=
  { s with gth := if b = 0 then { s.gth with bank0 := x } else { s.gth with bank1 := x } }

/-- The root is taken from a bank, or its tag fails (R557). -/
def rootFrom (s : State) (r : Nat) (ok : Bool) : State :=
  if ok then { s with gth := { s.gth with rootSt := 1, root := r, birth := none } }
  else gthRecord { s with gth := { s.gth with rootSt := 2, root := 0, birth := none } } 0x0402 [2]

/-- At the release of RD_SYS the Gatehouse chooses its root (R557). -/
def rootChoose (s : State) : State :=
  let birth (b : Nat) : State := { s with gth := { s.gth with rootSt := 0, root := 0, birth := some (b, 0) } }
  let dead : State := { s with gth := { s.gth with rootSt := 3, root := 0, birth := none } }
  if s.gth.lc = 3 then dead
  else match s.gth.bank0, s.gth.bank1 with
    | .born r ok, _ => rootFrom s r ok
    | .blank, _ => birth 0
    | .partly, .born r ok => rootFrom s r ok
    | .partly, .blank => birth 1
    | .partly, .partly => dead

/-- A power cut during a birth leaves its bank partly programmed, with an incomplete BORN mark; while random bits are wanting nothing has been
programmed yet (R558, R559). -/
def birthCut (s : State) : State :=
  match s.gth.birth with
  | some (b, _) => if s.gth.entErr then s else setBank s b .partly
  | none => s

/-- A root birth completes its fuse programs, or meets an entropy failure and is tried again, up to three times (R558, R559). -/
def rootBirth (s : State) : State :=
  match s.gth.birth with
  | none => s
  | some (b, n) =>
    if s.gth.entErr then
      { s with gth := { s.gth with birth := if n < 3 then some (b, n + 1) else none } }
    else
      let r := drawn 256 s
      let s := setBank (drew s) b (.born r true)
      gthRecord { s with gth := { s.gth with rootSt := 1, root := r, birth := none } } 0x0401 [b]

end Sys2Proof.Machine
end

