-- ==== Sys2Proof/Machine/Goose.lean ====
section
/-! DEFINITION. The GOOSE publisher and the GOOSE subscriber, Trellis port 18 (R206–R223). -/

namespace Sys2Proof.Machine

/-! ### Publication slots (R206, R207) -/

/-- The master identity of the publisher and the subscriber (R15, R214). -/
def gooseMid : Nat := 0x3005

/-- Address of publication slot `k` (R206). -/
def slotAddr (s : State) (k : Nat) : Nat := fget s Fld.GPB_TABLE_BASE * 2 ^ 24 + k * 4096

/-- A little-endian field of a slot header. -/
def hdrLe (h : List Nat) (o n : Nat) : Nat := ofLe ((h.drop o).take n)

/-- The string field at an offset of a slot header: its length octet and its characters. -/
def hdrStr (h : List Nat) (o : Nat) : Nat × List Nat := (h.getD o 0, (h.drop (o + 1)).take (h.getD o 0))

/-- The three string lengths are 1 to 129 (R206). -/
def hdrOk (h : List Nat) : Bool := [0x40, 0x100, 0x1C0].all fun o => decide (1 ≤ h.getD o 0) && decide (h.getD o 0 ≤ 129)

/-- PORTMASK of a slot, ports 0 to 11 (R206). -/
def hdrMask (h : List Nat) : Nat := hdrLe h 0x1C 2 % 4096

/-- OWNER of a slot (R206). -/
def hdrOwner (h : List Nat) : Nat := hdrLe h 0x12 2 % 1024

/-- The interval after the transmission with sqNum = q, in µs (R210). -/
def curveUs (h : List Nat) (q : Nat) : Nat :=
  let tmax := hdrLe h 0x1A 2 * 1000
  if 32 ≤ q then tmax else min (hdrLe h 0x18 2 * 2 ^ q) tmax

/-- UtcTime of a PTP time (R211). -/
def utcTime (s : State) (t : Nat) : List Nat :=
  toBe 4 ((secOf t + 2 ^ 32 - fget s Fld.GPB_UTC_OFFSET) % 2 ^ 32) ++ toBe 3 (nsOf t * 2 ^ 24 / 10 ^ 9) ++ [fget s Fld.GPB_UTC_TQ]

/-- The octets of a GOOSE frame from a slot's header (R207); the BER tags are those of IEC 61850-8-1 (PRESUMED, log 39). -/
def gooseOctets (h : List Nat) (utc : List Nat) (ttl stNum sqNum ndat : Nat) (data : List Nat) : List Nat :=
  let flags := hdrLe h 0x0E 2
  let pdu := tlv 0x61 (tlv 0x80 (hdrStr h 0x40).2 ++ tlv 0x81 (berUint ttl) ++ tlv 0x82 (hdrStr h 0x100).2 ++
    tlv 0x83 (hdrStr h 0x1C0).2 ++ tlv 0x84 utc ++ tlv 0x85 (berUint stNum) ++ tlv 0x86 (berUint sqNum) ++
    tlv 0x87 [bits flags 1 1] ++ tlv 0x88 (berUint (hdrLe h 0x14 4)) ++ tlv 0x89 [bits flags 2 2] ++ tlv 0x8A (berUint ndat) ++
    tlv 0xAB data)
  h.take 12 ++ (if bit flags 0 then [0x81, 0x00] ++ toBe 2 (hdrLe h 0x0C 2) else []) ++ [0x88, 0xB8] ++
    toBe 2 (hdrLe h 0x10 2) ++ toBe 2 (pdu.length + 8) ++ toBe 2 (bitAt (bit flags 1) 15) ++ [0, 0] ++ pdu

/-- A GOOSE frame of port 18; `mutes` marks a publication that a muted module discards (R446). -/
def gooseFrame (h : List Nat) (bs : List Nat) (mutes : Bool) : Frame :=
  let tc := h.getD 0x1E 0 % 8
  { bytes := bs, src := 18, tc := tc, prio := match outerTag bs with | some t => t / 8192 | none => tc, host := true, mutes := mutes }

/-- The frame fits the MAXLEN of every port of PORTMASK after any tag or RCT (R212). -/
def gooseFits (s : State) (h : List Nat) (bs : List Nat) : Bool :=
  (bitsOf (widenPairs s (hdrMask h)) 16).all fun m =>
    let mode := pairMode s m
    let f := { gooseFrame h bs true with rct := if mode = 0 then none else some (mode, 0) }
    decide ((egressBytes s m f).length + 4 ≤ fget s (Fld.MAC_MAXLEN_LEN m))

/-- A data buffer of a slot as the publisher reads it: number of entries and contents; none where the read fails or the length is above
1020 (R206). -/
def readBuffer (s : State) (k b : Nat) : State × Option (Nat × List Nat) :=
  onOpt (physRead s gooseMid (slotAddr s k + 0x800 + 0x400 * b) 1024) (fun s => (s, none)) fun s bs =>
    let n := hdrLe bs 0 2
    (s, if 1020 < n then none else some (hdrLe bs 2 2, (bs.drop 4).take n))

/-! ### Transmissions (R208–R213) -/

/-- A slot replaced. -/
def setSlotGpb (s : State) (k : Nat) (x : GpbSlot) : State :=
  { s with mac := { s.mac with goose := { s.mac.goose with slots := tset s.mac.goose.slots k x } } }

/-- timeAllowedToLive of the transmission with sqNum = q, in ms (R210). -/
def ttlOf (h : List Nat) (q : Nat) : Nat := (2 * curveUs h q + 999) / 1000

/-- The octets of a slot's transmission with data from a buffer. -/
def slotOctets (s : State) (x : GpbSlot) (ndat : Nat) (data : List Nat) : List Nat :=
  gooseOctets x.head (utcTime s x.at_) (ttlOf x.head x.sqNum) x.stNum x.sqNum ndat data

/-- The transmission of a slot's present stNum and sqNum is handed to the ports, and the next one falls due (R210, R224). A buffer that
cannot be read forms no frame (DESIGN CHOICE, log 45). -/
def gooseSend (s : State) (k : Nat) : State :=
  let x := slotGpb s k
  let late := decide (x.due + 100000 * nsUnit < timeNow s)
  let s := setSlotGpb s k { x with due := x.due + curveUs x.head x.sqNum * 1000 * nsUnit }
  if !enabled s 0x420000 then s
  else
    let s := if late then cinc s Fld.GPB_LATE_COUNT else s
    onOpt (readBuffer s k x.active) (fun s => s) fun s (n, data) =>
      trlHand s (gooseFrame x.head (slotOctets s x n data) true) (openPorts s (widenPairs s (hdrMask x.head)))

/-- The successor of a stNum or sqNum (R209, R210). -/
def goNext (n : Nat) : Nat := if n = 0xFFFFFFFF then 1 else n + 1

/-- A RUNNING slot takes a new state from its inactive buffer at an instant (R209). -/
def gooseState (s : State) (k at_ : Nat) : State :=
  let x := slotGpb s k
  gooseSend (setSlotGpb s k { x with stNum := goNext x.stNum, sqNum := 0, active := 1 - x.active, at_ := at_, due := at_ }) k

/-- A retransmission that is due (R210). -/
def gooseRetransmit (s : State) (k : Nat) : State :=
  let x := slotGpb s k
  if x.running && decide (x.due ≤ timeNow s) then gooseSend (setSlotGpb s k { x with sqNum := goNext x.sqNum }) k else s

/-- A slot just started with header `h`: stNum 1, sqNum 0, due at once (R209, R212). -/
def gpbFresh (s : State) (k : Nat) (h : List Nat) : GpbSlot :=
  { running := true, stNum := 1, sqNum := 0, active := (slotGpb s k).active, at_ := timeNow s, head := h, due := timeNow s }

/-- START (R208, R211, R212, R229): the CODE, and the state. -/
def gpbStart (s : State) (k : Nat) : State × Nat :=
  if (slotGpb s k).running then (s, 0x08)
  else onOpt (physRead s gooseMid (slotAddr s k) 0x280) (fun s => (s, 0x06)) fun s h =>
      onOpt (readBuffer s k (slotGpb s k).active) (fun s => (s, 0x06)) fun s d =>
        if !hdrOk h then (s, 0x06)
        else if !gooseFits s h (slotOctets s (gpbFresh s k h) d.1 d.2) then (s, 0x05)
        else (gooseSend (setSlotGpb s k (gpbFresh s k h)) k, 0)

/-- PUBLISH (R209, R212, R229, R448): the CODE, and the state. -/
def gpbPublish (s : State) (k : Nat) : State × Nat :=
  let x := slotGpb s k
  if !x.running then (s, 0x07)
  else onOpt (readBuffer s k (1 - x.active)) (fun s => (s, 0x06)) fun s (n, data) =>
      let next : GpbSlot := { x with stNum := goNext x.stNum, sqNum := 0, at_ := timeNow s }
      if !gooseFits s x.head (slotOctets s next n data) then (s, 0x05)
      else if frozen s then (s, 0)
      else (gooseState s k (timeNow s), 0)

/-- A GOOSE output committed by pavilion `p` for a slot at an instant (R209, R211, R212, R448): `buf` is the data buffer that the
sequencer writes. The Boolean tells whether it was accepted. -/
def gooseCommit (s : State) (k p at_ ndat : Nat) (data : List Nat) : State × Bool :=
  let x := slotGpb s k
  let next : GpbSlot := { x with stNum := goNext x.stNum, sqNum := 0, at_ := at_ }
  if !x.running || hdrOwner x.head != p then (cinc s Fld.GPB_OWNREJ_COUNT, false)
  else if !gooseFits s x.head (slotOctets s next ndat data) then (cinc s Fld.GPB_SIZE_COUNT, false)
  else if frozen s then (s, true)
  else onPair (physWrite s gooseMid (slotAddr s k + 0x800 + 0x400 * (1 - x.active)) (leBytes 2 data.length ++ leBytes 2 ndat ++ data)) fun s _ =>
      (gooseState s k at_, true)

/-- A GPB_SLOT request (R208–R212, R229). -/
def gpbMbx (a : Nat) (s : State) : State :=
  let b := mbxAt s a
  let k := b.arg % 4096
  let x := slotGpb s k
  match b.op, b.wr with
  | 0x01, true => onPair (gpbStart s k) fun s c => mbxEnd s a c
  | 0x02, true => if x.running then mbxEnd (setSlotGpb s k { x with running := false }) a 0 else mbxEnd s a 0x07
  | 0x03, true => onPair (gpbPublish s k) fun s c => mbxEnd s a c
  | 0x04, false => mbxAnswer s a 0 [w32 x.stNum, w32 x.sqNum, w32 (x.active * 2 + b2n x.running), w32 (nsOf x.at_), w32 (secOf x.at_),
      w32 (secOf x.at_ / 2 ^ 32)]
  | _, _ => mbxEnd s a 0xFF

/-! ### Parsing a received PDU (R216) -/

/-- The fields of a goosePdu that the subscriber uses (R216). -/
structure GoosePdu where
  ttl : Nat
  stNum : Nat
  sqNum : Nat
  confRev : Nat
  nds : Bool
  ndat : Nat
  data : List Nat
deriving DecidableEq, Repr

/-- A string element is 1 to 129 characters long. -/
def strOk (v : List Nat) : Bool := decide (1 ≤ v.length) && decide (v.length ≤ 129)

/-- An integer element that fits 32 bits. -/
def intOk (v : List Nat) : Bool := decide (1 ≤ v.length) && decide (ofBe v < 2 ^ 32)

/-- Offset of the APPID of a GOOSE or SV frame. -/
def appAt (bs : List Nat) : Nat := typeAt bs + 2

/-- The contents of the goosePdu of a frame. -/
def gooseBody (bs : List Nat) : Option (List Nat) :=
  match berTake (bs.drop (appAt bs + 8)) with
  | some (0x61, v, _) => some v
  | _ => none

/-- The gocbRef of a frame and the rest of its PDU (R214 step 3). -/
def goosePrefix (bs : List Nat) : Option (List Nat × List Nat) :=
  if etherType bs ≠ 0x88B8 then none
  else match (gooseBody bs).bind berTake with
    | some (0x80, v, rest) => if strOk v then some (v, rest) else none
    | _ => none

/-- The fields behind datSet and an optional goID. -/
def pduTail (ttl : Nat) : List (Nat × List Nat) → Option GoosePdu
  | [(0x84, _), (0x85, st), (0x86, sq), (0x87, _), (0x88, cr), (0x89, nd), (0x8A, n), (0xAB, d)] =>
    if intOk st && intOk sq && decide (d.length ≤ 1020) then
      some ⟨ttl, ofBe st, ofBe sq, ofBe cr, nd.any (· != 0), ofBe n % 65536, d⟩
    else none
  | _ => none

/-- The rest of a goosePdu after the gocbRef (R216). -/
def pduRest (rest : List Nat) : Option GoosePdu :=
  match berAll (rest.length + 1) rest with
  | some ((0x81, t) :: (0x82, ds) :: (0x83, id) :: more) =>
    if intOk t && strOk ds && strOk id then pduTail (ofBe t) more else none
  | some ((0x81, t) :: (0x82, ds) :: more) => if intOk t && strOk ds then pduTail (ofBe t) more else none
  | _ => none

/-! ### The subscriber (R214–R222) -/

/-- Destination address of a subscription. -/
def GsbSub.addr (x : GsbSub) : Nat := addrOfWords (x.d.getD 0 0) (x.d.getD 1 0 % 2 ^ 16)
/-- The key of a subscription: address, APPID and GCBH (R215). -/
def GsbSub.key (x : GsbSub) : Nat × Nat × Nat := (x.addr, x.d.getD 1 0 / 2 ^ 16, x.d.getD 2 0)

/-- The valid subscription that a frame matches (R215). -/
def gsbMatch (s : State) (bs gocb : List Nat) : Option Nat :=
  (s.mac.goose.subs.find? fun e => e.2.valid && e.2.key == (dstOf bs, be bs (appAt bs) 2, crc32 gocb)).map (·.1)

/-- SIM accepts the frame's simulation bit (R214, R223). -/
def simOk (sim : Nat) (b : Bool) : Bool := match sim with | 0 => !b | 1 => b | _ => true

/-- A GOOSE event (R219). -/
def gooseEvent (n : Nat) (x : GsbSub) (stNum sqNum ns : Nat) (nds expired : Bool) : Ev :=
  { type := 5, queue := x.evq, flow := n, src := gooseMid, ns := ns,
    w5 := stNum % 4 * 2 ^ 14 + bitAt nds 13 + bitAt expired 12 + n, w6 := stNum, w7 := sqNum }

/-- A new-state or retransmission event is posted; where it is refused it holds its frame (R219). -/
def goosePost (s : State) (e : Ev) (entry : List Nat) (fresh : Bool) (prev : Option GsbSub) : State :=
  let r := if pairOp s then batchOwn s { ev := e, key := keyOfEv e, side := 0, tick := 0, entry := entry, fresh := fresh, prev := prev }
    else bndPost s e
  onPosted r (fun s => { s with mac := { s.mac with goose := { s.mac.goose with hold := some ⟨e, entry, fresh, prev⟩ } } }) fun s => s

/-- A frame that passed step 8, by the state test (R217–R219, R221). -/
def gooseTake (s : State) (n : Nat) (x : GsbSub) (f : Frame) (p : GoosePdu) : State :=
  let ns := f.ts / nsUnit
  let new := x.st != .live || p.stNum != x.stNum
  if !new && p.sqNum == x.sqNum then cinc s Fld.GSB_DUP_COUNT
  else
    let next : GsbSub := { x with st := .live, stNum := p.stNum, sqNum := p.sqNum, ns := ns, ttl := p.ttl, nds := p.nds }
    let e := gooseEvent n x p.stNum p.sqNum ns p.nds false
    let entry := bufferEntry p.stNum p.sqNum ns p.ndat p.data
    if !new then
      let s := setSub s n next
      if bit (x.d.getD 4 0) 27 then goosePost s e entry false none else s
    else if pairOp s then goosePost (setSub s n next) e entry true (some x)
    else onOk (subWrite s x p.stNum entry) (fun s => s) fun s =>
        goosePost (setSub s n next) e entry true none

/-- The subscriber handles a frame of port 18 (R214). -/
def gooseHandle (s : State) (f : Frame) : State :=
  if !enabled s 0x421000 then cinc s Fld.GSB_STOPPED_COUNT
  else if f.oversize || f.fcsBad then cinc s Fld.GSB_FORMAT_COUNT
  else match goosePrefix f.bytes with
    | none => cinc s Fld.GSB_FORMAT_COUNT
    | some (gocb, rest) => match gsbMatch s f.bytes gocb with
      | none => cinc s Fld.GSB_NOMATCH_COUNT
      | some n => match subOf s n with
        | none => s
        | some x =>
          let d4 := x.d.getD 4 0
          if !simOk (bits d4 29 28) (bit (be f.bytes (appAt f.bytes + 4) 2) 15) then cinc s Fld.GSB_SIMREJ_COUNT
          else match pduRest rest with
            | none => cinc s Fld.GSB_FORMAT_COUNT
            | some p =>
              if p.confRev ≠ x.d.getD 3 0 then cinc s Fld.GSB_CONFREV_COUNT
              else if bit d4 30 then
                onOpt (authCheck s (x.d.getD 6 0 % 4096) (bits (x.d.getD 6 0) 27 16) (x.d.getD 7 0) (x.d.getD 8 0) gooseMid f.bytes) (fun s => cinc s Fld.GSB_AUTHFAIL_COUNT) fun s _ =>
                  gooseTake s n x f p
              else gooseTake s n x f p

/-- The subscriber takes the next frame of port 18, unless a held event stops it (R214, R219). -/
def gooseSubFrame (s : State) : State :=
  if s.mac.goose.hold.isSome then s
  else match nextClass s 18 with
    | none => s
    | some c => match headOf s 18 c with
      | none => s
      | some f => gooseHandle (takeHead s 18 c) f

/-- The event that holds port 18 is offered again (R219, R338). -/
def gooseRetry (s : State) : State :=
  match s.mac.goose.hold with
  | none => s
  | some h => goosePost { s with mac := { s.mac with goose := { s.mac.goose with hold := none } } } h.ev h.entry h.fresh h.prev

/-- An expiry event of a subscription is offered, and held where it is refused (R219). -/
def expiryPost (s : State) (n : Nat) (e : Ev) : State :=
  match tget s.mac.goose.expiry n with
  | some _ => cinc { s with mac := { s.mac with goose := { s.mac.goose with expiry := tset s.mac.goose.expiry n e } } } Fld.GSB_EVHOLD_COUNT
  | none => onPosted (batchPost s e)
      (fun s => { s with mac := { s.mac with goose := { s.mac.goose with expiry := tset s.mac.goose.expiry n e } } }) fun s => s

/-- A held expiry event is offered again (R219, R338). -/
def expiryRetry (s : State) (n : Nat) : State :=
  match tget s.mac.goose.expiry n with
  | none => s
  | some e => onPosted (batchPost s e) (fun s => s) fun s =>
      { s with mac := { s.mac with goose := { s.mac.goose with expiry := tdel s.mac.goose.expiry n } } }

/-- A LIVE subscription whose time has run out becomes EXPIRED (R220, R222). -/
def gooseExpire (s : State) (n : Nat) : State :=
  match subOf s n with
  | none => s
  | some x =>
    let fin := x.ns + x.ttl * 10 ^ 6
    if !enabled s 0x421000 || !x.valid || x.st != .live || !bit (x.d.getD 4 0) 26 || timeNow s < fin * nsUnit then s
    else
      let s := cinc (setSub s n { x with st := .expired }) Fld.GSB_EXPIRE_COUNT
      expiryPost s n (gooseEvent n x x.stNum x.sqNum fin x.nds true)

/-! ### Mailboxes and pages -/

/-- Words of a subscription as it stores them: SIM and BUF clamped, zero bits cleared (R223). -/
def subWords (w : Nat → Nat) : List Nat :=
  let d4 := w 4
  let sim := min (bits d4 29 28) 2
  [w 0, w 1, w 2, w 3, bits d4 30 30 * 2 ^ 30 + sim * 2 ^ 28 + bits d4 27 16 * 2 ^ 16 + d4 % 8192, w 5 / 2 * 2,
   bits (w 6) 27 16 * 2 ^ 16 + w 6 % 4096, w 7, w 8]

/-- A GSB_SUB WRITE (R215, R217): the CODE, and the state. -/
def gsbWrite (s : State) (n : Nat) (w : Nat → Nat) : State × Nat :=
  let x : GsbSub := { d := subWords w }
  let old := (subOf s n).filter (·.valid)
  if (match old with | some o => o.key != x.key | none => false) then (s, 0x05)
  else if s.mac.goose.subs.any fun e => e.1 != n && e.2.valid && e.2.key == x.key then (s, 0x02)
  else match old with
    | some o => (setSub s n { o with d := x.d }, 0)
    | none => (setSub s n x, 0)

/-- The STATE code of a subscription (R223). -/
def SubState.code : SubState → Nat
  | .waiting => 0 | .live => 1 | .expired => 2

/-- A request of a mailbox of TRL page 33 (R223). -/
def gsbMbx (r : TrlReg) (a : Nat) (s : State) : State :=
  let b := mbxAt s a
  let n := b.arg % 4096
  match r with
  | .GSB_SUB => match b.op, b.wr with
    | 0x01, true => onPair (gsbWrite s n b.w) fun s c => mbxEnd s a c
    | 0x02, false => match subOf s n with
      | some x => mbxAnswer s a 0 ((List.range 9).map fun i => w32 (x.d.getD i 0 + (if i = 4 then bitAt x.valid 31 else 0)))
      | none => mbxAnswer s a 0 []
    | 0x03, true => match subOf s n with
      | some x => mbxEnd (setSub s n { x with valid := false }) a 0
      | none => mbxEnd s a 0
    | _, _ => mbxEnd s a 0xFF
  | .GSB_STATE =>
    if b.wr || b.op != 0x01 then mbxEnd s a 0xFF
    else match subOf s n with
      | some x => mbxAnswer s a 0 [w32 x.stNum, w32 x.sqNum, w32 (x.ns % 10 ^ 9), w32 (x.ns / 10 ^ 9), w32 (x.ns / 10 ^ 9 / 2 ^ 32),
          w32 (bitAt x.valid 31 + x.st.code), w32 x.ttl]
      | none => mbxAnswer s a 0 []
  | _ => s

/-- A request of a TRL mailbox (R223, R229, R259). -/
def trlMbx (r : TrlReg) (a : Nat) (s : State) : State :=
  match r with
  | .TRL_FDB => fdbMbx a s
  | .GPB_SLOT => gpbMbx a s
  | r => gsbMbx r a s

/-- A soft reset of TRL pages 32 and 33 (R222, R224). -/
def gooseSrst (p : Nat) (s : State) : State :=
  let g := s.mac.goose
  match p with
  | 32 => { s with mac := { s.mac with goose := { g with slots := g.slots.map fun e => (e.1, { e.2 with running := false }) } } }
  | 33 =>
    let clear (x : GsbSub) : GsbSub :=
      if x.valid then { x with st := .waiting, stNum := 0, sqNum := 0, ns := 0, ttl := 0, nds := false } else x
    { s with mac := { s.mac with goose := { g with
        subs := g.subs.map (fun e => (e.1, clear e.2)),
        expiry := g.expiry.filter fun e => !(match tget g.subs e.1 with | some x => x.valid | none => false) } } }
  | _ => s

end Sys2Proof.Machine
end

