-- ==== Sys2Proof/Machine/Footbridge.lean ====
section
/-! DEFINITION. The Footbridge: module states, the output token, contact and its loss, the heartbeat GOOSE, digests and diagnoses
(R426–R459, R463, R464). Joining is in Machine/Join.lean. -/

namespace Sys2Proof.Machine

/-- The mailboxes FTB_TOKEN and FTB_JOIN. -/
def ftbTokenMbx : Nat := 0xA000C0
/-- The mailbox FTB_JOIN. -/
def ftbJoinMbx : Nat := 0xA00100

/-- The Footbridge's master identity (R15). -/
def ftbMid : Nat := 0x3008

/-- The Footbridge replaced. -/
def setFtb (s : State) (f : Footbridge) : State := { s with ftb := f }

/-! ### Changes of state and of driving (R444, R445, R447) -/

/-- A STATE record (R444): STATE changed from `old`. -/
def stateRecord (s : State) (old : Nat) : State :=
  if old = ftbState s then s
  else record s 0x0203 ftbMid [old, ftbState s, s.ftb.pstate, flagBits [s.ftb.fbLost, s.ftb.hbLost, s.ftb.ghbLost]]

/-- STATE changes, which ends the count of seconds in step (R455). -/
def ftbEnter (s : State) (new : Nat) : State :=
  if s.ftb.st = new then s
  else stateRecord (setFtb s { s.ftb with st := new, steps := 0, spoilt := true }) (ftbState s)

/-- An XFER record (R444). -/
def xferRecord (s : State) (on : Bool) (path : Nat) : State :=
  let n := s.sdl.last.getD 0
  record s 0x0202 ftbMid [b2n on, path, s.ftb.epoch, n % 2 ^ 32, n / 2 ^ 32]

/-- The token is gained or given up at a new EPOCH, which counts and ends a freeze (R447, R448). -/
def ftbXfer (s : State) (on : Bool) (path epoch : Nat) : State :=
  let s := setFtb s { s.ftb with holder := on, epoch := epoch % 2 ^ 32, frozen := none, takeover := none }
  xferRecord (cinc s Fld.FTB_XFER_COUNT) on path

/-- A module is eligible for a takeover and FAULT_N is deasserted (R445, R451, R452). -/
def eligible (s : State) : Bool := (s.ftb.st == 3 || s.ftb.st == 4) && !s.ftb.holder && !faultAsserted s

/-! ### Requests for the token (R449, R450) -/

/-- This module gives up the token if the request succeeds. -/
def TokenReq.gives (r : TokenReq) : Bool := r.offer == r.own

/-- A token request ends with a CODE for FTB_TOKEN, and the turn passes to the module that did not make it (R449). -/
def reqEnd (s : State) (r : TokenReq) (code : Nat) : State :=
  let s := setFtb s { s.ftb with req := none, turn := !r.own }
  if r.mbx then mbxEndIfBusy s ftbTokenMbx code else s

/-- A request that waits for the turn is sent once this module has it (R449, R450). -/
def reqSend (s : State) : State :=
  match s.ftb.want with
  | none => s
  | some r =>
    if s.ftb.turn && s.ftb.req.isNone then
      ftbControl (setFtb s { s.ftb with want := none, asked := false, req := some r }) (if r.offer then 1 else 2) false r.k
    else if s.ftb.turn || s.ftb.asked then s
    else ftbControl (setFtb s { s.ftb with asked := true }) 6 false 0

/-- A token request of this module (R449, R450). -/
def reqMake (s : State) (r : TokenReq) : State := reqSend (setFtb s { s.ftb with want := some r })

/-- The partner's OFFER or CLAIM is answered (R449, R450). -/
def reqAnswer (s : State) (offer : Bool) (k : Nat) : State :=
  let ok := s.ftb.st == 3 && !faultAsserted s && s.ftb.holder == !offer && s.ftb.req.isNone
  let s := setFtb s { s.ftb with turn := true, req := if ok then some { offer := offer, own := false, k := k, agreed := true } else s.ftb.req }
  ftbControl s (if ok then 3 else 4) false k

/-- The partner's answer to this module's request (R449, R450). -/
def reqAnswered (s : State) (ok : Bool) : State :=
  match s.ftb.req with
  | none => s
  | some r =>
    if !r.own || r.agreed then s
    else if ok then setFtb s { s.ftb with req := some { r with agreed := true }, turn := false }
    else reqEnd s r 0x0C

/-- The taker drives (R450). -/
def reqTake (s : State) (r : TokenReq) : State :=
  reqEnd (ftbXfer s true (if r.revert then 4 else 1) (s.ftb.epoch + 1)) r 0

/-- The request at the Sundial edge of tick `n` (R450): whether CONFIRM is sent at it. -/
def reqEdge (s : State) (n : Nat) : State × Bool :=
  match s.ftb.req with
  | none => (s, false)
  | some r =>
    if n + 1 < r.k then (s, false)
    else if n < r.k then
      if r.gives && r.agreed then (setFtb s { s.ftb with req := some { r with confirm := true } }, true) else (s, false)
    else if r.late then (s, false)
    else if r.gives then
      if r.confirm then (reqEnd (ftbXfer s false 1 (s.ftb.epoch + 1)) r 0, false) else (reqEnd s r 0x0D, false)
    else if r.confirm then (reqTake s r, false)
    else if r.agreed then (setFtb s { s.ftb with req := some { r with late := true } }, false)
    else (reqEnd s r 0x0D, false)

/-- A FTB_TOKEN request (R450, R464). -/
def ftbTokenReq (s : State) : State :=
  let b := mbxAt s ftbTokenMbx
  if !b.wr || !(b.op == 1 || b.op == 2) then mbxEnd s ftbTokenMbx 0xFF
  else
    let offer := b.op == 1
    let k := b.w2 4
    if !pairOp s || s.ftb.st ≠ 3 || s.ftb.holder != offer then mbxEnd s ftbTokenMbx 0x07
    else if s.ftb.fbLost then mbxEnd s ftbTokenMbx 0x0E
    else match tickInProgress s with
      | none => mbxEnd s ftbTokenMbx 0x03
      | some n =>
        if k < n + 2 then mbxEnd s ftbTokenMbx 0x03
        else if n + 65536 < k then mbxEnd s ftbTokenMbx 0x04
        else reqMake s { offer := offer, own := true, k := k, mbx := true }

/-- The PRIMARY module claims the token back (R455), at a tick that it names: a free value (log 2). -/
def ftbRevert (s : State) : State :=
  if pairOp s && fbit s Fld.FTB_CFG_PRIMARY && fbit s Fld.FTB_REVERT_EN && s.ftb.st == 3 && !s.ftb.holder &&
      decide (fget s Fld.FTB_REVERT_S ≤ s.ftb.steps) && s.ftb.req.isNone && s.ftb.want.isNone && !s.ftb.fbLost then
    match tickInProgress s with
    | none => s
    | some n => reqMake (drew s) { offer := false, own := true, k := n + 2 + drawn 32 s % 65535, revert := true }
  else s

/-! ### Takeover (R451, R452) -/

/-- A partner that holds the token with a newer EPOCH, or with an equal one where this module is not PRIMARY, makes this module give
way (R451). -/
def giveWay (s : State) (pHolder : Bool) (pEpoch : Nat) : State :=
  let d := (pEpoch + 2 ^ 32 - s.ftb.epoch) % 2 ^ 32
  let newer := decide (1 ≤ d) && decide (d ≤ 2 ^ 31)
  if s.ftb.holder && pHolder && (newer || (d == 0 && !fbit s Fld.FTB_CFG_PRIMARY)) then
    let path := if s.ftb.frozen.isSome then 2 else 3
    let s := ftbXfer s false path pEpoch
    if s.ftb.st = 1 then ftbEnter s 5 else s
  else s

/-- The heartbeat GOOSE's allData: SIDE, HOLDER, EPOCH and the tick in progress as INT32U elements (R430). -/
def ghbData (s : State) : List Nat :=
  [fget s Fld.FTB_CFG_SIDE, b2n s.ftb.holder, s.ftb.epoch, (tickInProgress s).getD 0 % 2 ^ 32].flatMap fun v => tlv 0x86 (berUint v)

/-- A heartbeat GOOSE is sent (R430); a slot that cannot be read or whose strings are malformed sends nothing (DESIGN CHOICE, log 45). -/
def ghbSend (s : State) : State :=
  let now : Bool × Nat := (s.ftb.holder, s.ftb.epoch)
  let changed := match s.ftb.ghbLast with | some p => p != now | none => false
  let f := s.ftb
  let s := setFtb s { f with
    ghbOutAt := s.sdl.raw, ghbLast := some now, ghbSt := if changed then goNext f.ghbSt else f.ghbSt,
    ghbSq := goNext f.ghbSq, ghbT := if changed || f.ghbLast.isNone then timeNow s else f.ghbT }
  onOpt (physRead s ftbMid (slotAddr s (fget s Fld.FTB_CFG_GHBSLOT)) 0x280) (fun s => s) fun s h =>
    if !hdrOk h then s
    else
      let ttl := (2 * fget s Fld.FTB_GHB_PER_US + 999) / 1000
      let bs := gooseOctets h (utcTime s s.ftb.ghbT) ttl s.ftb.ghbSt f.ghbSq 4 (ghbData s)
      trlHand s (gooseFrame h bs false) (openPorts s (widenPairs s (hdrMask h)))

/-- The heartbeat GOOSE is due (R430). -/
def ghbTick (s : State) : State :=
  if pairOp s && decide (s.ftb.ghbOutAt + fget s Fld.FTB_GHB_PER_US * 1000 ≤ s.sdl.raw) then ghbSend s else s

/-- The three losses (R452). -/
def allLost (s : State) : Bool := s.ftb.fbLost && s.ftb.hbLost && s.ftb.ghbLost

/-- What a loss does to STATE (R452, R457): the Footbridge lost, both become ISOLATED; a holder that sees all three becomes ALONE. -/
def lossState (s : State) : State :=
  let live := s.ftb.st == 3 || s.ftb.st == 4
  if live && s.ftb.holder && allLost s then ftbEnter s 1
  else if s.ftb.st == 3 && s.ftb.fbLost then ftbEnter s 4
  else s

/-- The last valid message on a link, or the beginning of pair operation. -/
def linkAt (s : State) (l : Option Nat) : Nat := l.getD s.ftb.upAt

/-- Footbridge loss (R429). -/
def fbLoss (s : State) : State :=
  let old (l : Option Nat) : Bool := decide (linkAt s l + fget s Fld.FTB_LOSS_FB_US * 1000 ≤ s.sdl.fab)
  if pairOp s && !s.ftb.fbLost && old s.ftb.link0 && old s.ftb.link1 then lossState (setFtb s { s.ftb with fbLost := true }) else s

/-- Heartbeat loss (R429). -/
def hbLoss (s : State) : State :=
  if pairOp s && !s.ftb.hbLost && decide (s.ftb.hbAt + fget s Fld.FTB_LOSS_HB_US * 1000 ≤ s.sdl.fab) then
    lossState (setFtb s { s.ftb with hbLost := true })
  else s

/-- Heartbeat-GOOSE loss (R430). -/
def ghbLoss (s : State) : State :=
  if pairOp s && !s.ftb.ghbLost &&
      decide (s.ftb.ghbAt + fget s Fld.FTB_GHB_N * fget s Fld.FTB_GHB_PER_US * 1000 ≤ s.sdl.fab) then
    lossState (setFtb s { s.ftb with ghbLost := true })
  else s

/-- An edge on PAIR_HB_IN (R429). -/
def hbEdge (s : State) : State :=
  if pairOp s then setFtb s { s.ftb with hbAt := s.sdl.fab, hbLost := false, heard := true } else s

/-- PAIR_HB_OUT toggles (R429). -/
def hbToggle (s : State) : State :=
  if pairOp s && decide (s.ftb.hbOutAt + 10000 ≤ s.sdl.raw) then
    setFtb s { s.ftb with hbOut := !s.ftb.hbOut, hbOutAt := s.sdl.raw }
  else s

/-- HOLDER and EPOCH of a frame that is the partner's heartbeat GOOSE (R430). -/
def ghbParse (s : State) (bs : List Nat) : Option (Bool × Nat) :=
  let addr := addrOfWords (fget s Fld.FTB_PGHB0_A) (fget s Fld.FTB_PGHB1_A)
  if etherType bs ≠ 0x88B8 ∨ dstOf bs ≠ addr ∨ be bs (appAt bs) 2 ≠ fget s Fld.FTB_PGHB1_APPID then none
  else match (goosePrefix bs).bind fun p => pduRest p.2 with
    | none => none
    | some p => match berAll 8 p.data with
      | some [_, (_, h), (_, e), _] => some (ofBe h != 0, ofBe e % 2 ^ 32)
      | _ => none

/-- A frame that is the partner's heartbeat GOOSE is received (R430, R451). -/
def ghbReceive (s : State) (bs : List Nat) : State :=
  if !pairOp s then s
  else match ghbParse s bs with
    | none => s
    | some (h, e) =>
      giveWay (setFtb s { s.ftb with ghbAt := s.sdl.fab, ghbLost := false, heard := true, pholder := h }) h e

/-! ### Messages from the partner (R427, R428) -/

/-- The header of a received message (R428). -/
structure MsgHead where
  /-- It came on FB1. -/
  fb1 : Bool
  type : Nat
  seq : Nat
  holder : Bool
  st : Nat
  tick : Nat
deriving DecidableEq, Repr

/-- A valid message shows the partner on its link (R429); an ISOLATED module whose Footbridge returns is DIVERGED unless it holds the
token (R457). -/
def msgSeen (s : State) (h : MsgHead) : State :=
  let f := s.ftb
  let back := f.fbLost
  let f : Footbridge := { f with fbLost := false, heard := true, pstate := h.st, pholder := h.holder }
  let s := setFtb s (if h.fb1 then { f with link1 := some s.sdl.fab } else { f with link0 := some s.sdl.fab })
  if back && s.ftb.st == 4 && !s.ftb.holder then ftbEnter s 5 else s

/-- The first copy of a message (R427); `seen` keeps the last 1024 (DESIGN CHOICE, log 46). -/
def msgFirst (s : State) (h : MsgHead) : State × Bool :=
  if s.ftb.seen.contains (h.type, h.seq) then (s, false)
  else (setFtb s { s.ftb with seen := ((h.type, h.seq) :: s.ftb.seen).take 1024 }, true)

/-- A message is taken: none where it is a second copy, or outside pair operation. -/
def msgTake (s : State) (h : MsgHead) : State × Bool :=
  if !pairOp s then (s, false) else msgFirst (msgSeen s h) h

/-- The payload of a CONTROL (R428). -/
structure Control where
  epoch : Nat
  req : Nat
  confirm : Bool
  health : Nat
  k : Nat
  cfg : Nat
deriving DecidableEq, Repr

/-- CONFIRM, and the CONTROL of K that a taker waits for (R450). -/
def controlConfirm (s : State) (h : MsgHead) (c : Control) : State :=
  match s.ftb.req with
  | none => s
  | some r =>
    if r.gives then s
    else if r.late && decide (r.k ≤ h.tick) then (if h.holder then reqEnd s r 0x0D else reqTake s r)
    else if c.confirm && r.agreed then setFtb s { s.ftb with req := some { r with confirm := true } }
    else s

/-- The request or answer of a CONTROL (R449–R451). -/
def controlReq (s : State) (c : Control) : State :=
  match c.req with
  | 1 => reqAnswer s true c.k
  | 2 => reqAnswer s false c.k
  | 3 => reqAnswered s true
  | 4 => reqAnswered s false
  | 5 => if eligible s then setFtb s { s.ftb with takeover := some (s.sdl.fab + 1000) } else s
  | 6 => if s.ftb.turn && s.ftb.req.isNone then ftbControl (setFtb s { s.ftb with turn := false }) 0 false 0 else s
  | _ => if s.ftb.asked then setFtb s { s.ftb with turn := true } else s

/-- A CONTROL is received (R428, R432, R449–R451). -/
def controlReceive (s : State) (h : MsgHead) (c : Control) : State :=
  onOk (msgTake s h) (fun s => s) fun s =>
    let s := setFtb s { s.ftb with phealth := c.health, pcfg := some c.cfg }
    reqSend (controlReq (controlConfirm (giveWay s h.holder c.epoch) h c) c)

/-- A CONTROL goes out after 10 µs without a message (R428). -/
def keepAlive (s : State) : State :=
  if pairOp s && decide (s.ftb.sentAt + 10000 ≤ s.sdl.raw) then ftbControl s 0 false 0 else s

/-! ### The Sundial edge -/

/-- A standby takes the token at a Sundial tick edge after RELINQUISH, or without handshake after three losses (R451, R452). -/
def takeoverEdge (s : State) : State :=
  if !eligible s then s
  else if (match s.ftb.takeover with | some t => decide (t ≤ s.sdl.fab) | none => false) then ftbXfer s true 2 (s.ftb.epoch + 1)
  else if allLost s then ghbSend (ftbEnter (ftbXfer s true 3 (s.ftb.epoch + 1)) 1)
  else s

/-- What the Footbridge does at the Sundial edge of tick `n` (R428, R450–R452). -/
def ftbSundialEdge (s : State) (n : Nat) : State :=
  if !pairOp s then s
  else onPair (reqEdge s n) fun s confirm =>
      ftbControl (takeoverEdge s) 0 confirm 0

/-! ### Digests (R441–R443) -/

/-- A digest over items (R441). -/
def digestOver (n count : Nat) (items : List Nat) : Nat := sha16 (leBytes 8 n ++ leBytes 4 count ++ [0, 0, 0, 0] ++ items)

/-- Digests are compared (R445, R457). -/
def comparing (s : State) : Bool := pairOp s && s.ftb.st == 3 && !s.ftb.fbLost

/-- The count of seconds in step starts again (R455). -/
def spoil (s : State) : State := setFtb s { s.ftb with steps := 0, spoilt := true }

/-- A diagnosis of tick `n` starts (R442). -/
def diagStart (s : State) (d : Digest) (mismatch missing : Bool) : State :=
  spoil (setFtb s { s.ftb with mis := some d, diag := s.ftb.diag ++ [(d.tick, mismatch, missing)] })

/-- A digest replaced. -/
def setDig (s : State) (d : Digest) : State :=
  setFtb s { s.ftb with digs := s.ftb.digs.map fun x => if x.tick = d.tick then d else x }

/-- The partner's digest meets this module's own (R442). -/
def digestMeet (s : State) (d : Digest) (out inp : Nat) : State :=
  let d := { d with peer := some (out, inp) }
  let s := setDig s d
  if !comparing s || d.out == out then s else diagStart (cinc s Fld.FTB_DIGMIS_COUNT) d true false

/-- The digests of edge `n` are formed and sent (R428, R441). -/
def digestForm (s : State) (n : Nat) : State :=
  if !pairOp s then s
  else
    let out := digestOver n s.ftb.nent s.ftb.outItems
    let inp := digestOver n (s.ftb.inItems.length / 32) s.ftb.inItems
    let d : Digest := { tick := n, out := out, inp := inp, nent := s.ftb.nent, at_ := s.sdl.fab }
    let s := setFtb s { s.ftb with digs := (s.ftb.digs ++ [d]).drop (s.ftb.digs.length + 1 - 16) }
    let s := ftbSend s 2 ([n % 2 ^ 32, n / 2 ^ 32] ++ digestWords out ++ digestWords inp ++ [s.ftb.nent])
    match s.ftb.early.find? fun e => e.1 == n with
    | none => s
    | some (_, o, i) => digestMeet (setFtb s { s.ftb with early := s.ftb.early.filter fun e => e.1 != n }) d o i

/-- A partner DIGEST is received (R442). -/
def digestReceive (s : State) (h : MsgHead) (n out inp : Nat) : State :=
  onOk (msgTake s h) (fun s => s) fun s =>
    match s.ftb.digs.find? fun d => d.tick == n with
    | none => setFtb s { s.ftb with early := (s.ftb.early ++ [(n, out, inp)]).drop (s.ftb.early.length + 1 - 16) }
    | some d => digestMeet s d out inp

/-- A partner DIGEST is missing (R442). -/
def digestMissing (s : State) : State :=
  match s.ftb.digs.find? fun d => d.peer.isNone && !d.missed && decide (d.at_ + fget s Fld.FTB_GUARD_DIGWAIT * 1000 ≤ s.sdl.fab) with
  | none => s
  | some d =>
    let d := { d with missed := true }
    let s := setDig s d
    if !comparing s then s else diagStart (cinc s Fld.FTB_DIGMISS_COUNT) d false true

/-- The digest kept of a tick. -/
def digOf (s : State) (n : Nat) : Option Digest :=
  (s.ftb.digs.find? fun d => d.tick == n).orElse fun _ => s.ftb.mis.filter fun d => d.tick == n

/-- The DIAG record (R443, R444). -/
def diagRecord (s : State) (n outcome : Nat) (mismatch missing own : Bool) : State :=
  let d := digOf s n
  let words (v : Option Nat) : List Nat := match v with | some x => digestWords x | none => [0, 0, 0, 0]
  recordFixed s 0x0201 ftbMid
    [outcome, n % 2 ^ 32, n / 2 ^ 32, flagBits [mismatch, missing], b2n own + s.ftb.phealth * 2 ^ 16, s.ftb.epoch]
    (words (d.map (·.out)) ++ words (d.bind fun d => d.peer.map (·.1)) ++ words (d.map (·.inp)) ++ words (d.bind fun d => d.peer.map (·.2)))

/-- A diagnosis whose edge N + 2 has come ends (R443). -/
def diagEnd (s : State) : State :=
  match s.ftb.diag.find? fun e => (match s.sdl.fabLast with | some l => decide (e.1 + 2 ≤ l) | none => false) with
  | none => s
  | some (n, mismatch, missing) =>
    let s := setFtb s { s.ftb with diag := s.ftb.diag.filter fun e => e.1 != n }
    let own := faultAsserted s
    let partner := bit s.ftb.phealth 0
    let outcome := if own then (if partner then 4 else 2) else (if partner then 3 else 1)
    let s := diagRecord s n outcome mismatch missing own
    match outcome with
    | 1 => if s.ftb.holder then s else ftbEnter s 5
    | 2 => ftbFreeze (ftbEnter s 6)
    | 3 => s
    | _ => ftbEnter s 6

/-- The freeze has found no taker for two ticks (R448). -/
def freezeTimeout (s : State) : State :=
  match s.ftb.frozen, tickInProgress s with
  | some n, some k =>
    if pairOp s && decide (n + 2 ≤ k) then ftbEnter (setFtb s { s.ftb with frozen := none }) 6 else s
  | _, _ => s

/-- At each fabric edge a FAULTY module without the token whose FAULT_N is released becomes DIVERGED, which admits a join (R445, R460; log
46); in step, a fault spoils the second, and at tick 0 a whole second counts (R455). -/
def ftbFabricEdge (s : State) : State :=
  if !pairOp s then s
  else if s.ftb.st = 6 then (if s.ftb.holder || faultAsserted s then s else ftbEnter s 5)
  else if s.ftb.st ≠ 3 then s
  else
    let s := if faultAsserted s || bit s.ftb.phealth 0 then spoil s else s
    if s.sdl.curN ≠ 0 then s
    else setFtb s { s.ftb with steps := if s.ftb.spoilt then s.ftb.steps else min (s.ftb.steps + 1) 4095, spoilt := false }

/-! ### The page -/

/-- The partner's OUT digest, zero where it is missing. -/
def Digest.pOut (d : Digest) : Nat := match d.peer with | some p => p.1 | none => 0
/-- The partner's IN digest, zero where it is missing. -/
def Digest.pIn (d : Digest) : Nat := match d.peer with | some p => p.2 | none => 0

/-- The words of a digest (R464). -/
def digAnswer (d : Digest) : List Word :=
  (digestWords d.out ++ digestWords d.pOut ++
    [d.tick % 2 ^ 32, d.tick / 2 ^ 32, flagBits [d.peer.isSome && d.pOut == d.out, d.peer.isSome], d.nent]).map w32

/-- A FTB_DIG request (R464). -/
def ftbDigReq (s : State) (a : Nat) : State :=
  let b := mbxAt s a
  let give (d : Option Digest) (f : Digest → List Word) : State := match d with
    | none => mbxEnd s a 0x01
    | some d => mbxAnswer s a 0 (f d)
  match b.op, b.wr with
  | 0x01, false => give s.ftb.digs.getLast? digAnswer
  | 0x02, false => give s.ftb.mis digAnswer
  | 0x03, false => give s.ftb.mis fun (d : Digest) =>
      (digestWords d.inp ++ digestWords d.pIn ++ [d.tick % 2 ^ 32, d.tick / 2 ^ 32]).map w32
  | _, _ => mbxEnd s a 0xFF

/-- The records of a change of driving and of STATE that a register write brought (R444). -/
def ftbDriveChange (old s : State) : State :=
  let s := if tokenHeld old = tokenHeld s then s else xferRecord s (tokenHeld s) 5
  stateRecord s (ftbState old)

/-- Open requests of FTB_TOKEN and FTB_JOIN end (R463). -/
def ftbAbandon (s : State) : State :=
  let s := setFtb s { s.ftb with req := none, want := none, asked := false, takeover := none, join := none, diag := [] }
  mbxEndIfBusy (mbxEndIfBusy s ftbTokenMbx 0x0D) ftbJoinMbx 0xFE

/-- What follows a change of EN of FTB page 0 (R456, R463). -/
def ftbEnable (on : Bool) (old s : State) : State :=
  if !fbit s Fld.FTB_CFG_PAIR then s
  else
    let s := ftbAbandon s
    let f := s.ftb
    let s := setFtb s { f with
      st := 0, holder := false, frozen := none, turn := fget s Fld.FTB_CFG_SIDE == 0, link0 := none, link1 := none, fbLost := false,
      hbLost := false, ghbLost := false, hbAt := s.sdl.fab, ghbAt := s.sdl.fab, upAt := s.sdl.fab, heard := false, pstate := 0,
      pholder := false, phealth := 0, pcfg := none, steps := 0, spoilt := true, batch := [], toAdmit := [], past := [], digs := [], early := [],
      listen := if on then some (s.sdl.raw + 10 ^ 9) else none, hbOutAt := s.sdl.raw, ghbOutAt := s.sdl.raw, sentAt := s.sdl.raw }
    ftbDriveChange old s

/-- The second of listening ends (R456). -/
def listenEnd (s : State) : State :=
  match s.ftb.listen with
  | none => s
  | some t =>
    if s.sdl.raw < t || !pairOp s then s
    else
      let s := setFtb s { s.ftb with listen := none }
      let alone (s : State) : State := ftbEnter (ftbXfer s true 5 (s.ftb.epoch + 1)) 1
      if !s.ftb.heard then alone s
      else if s.ftb.pholder then ftbEnter s 5
      else if fbit s Fld.FTB_CFG_PRIMARY then alone s
      else ftbEnter s 5

/-- A soft reset of FTB page 0 (R463). -/
def ftbSrst (s : State) : State :=
  let s := ftbAbandon s
  if pairOp s then ftbEnter s (if s.ftb.holder then 1 else 5) else s

end Sys2Proof.Machine
end

