-- ==== Sys2Proof/Machine/Ingest.lean ====
section
/-! DEFINITION. SV ingest and the alignment groups (R264–R295), with the sample mirror of a pair (R433–R435). -/

namespace Sys2Proof.Machine

/-- SV ingest's master identity (R15, R270). -/
def sviMid : Nat := 0x3000

/-- A stream replaced. -/
def setStream (s : State) (k : Nat) (x : Stream) : State := { s with svi := { s.svi with streams := tset s.svi.streams k x } }

/-- A stream's count `i` raised by `n`, saturating (R47, R293). -/
def strAdd (s : State) (k i n : Nat) : State :=
  let x := streamOf s k
  setStream s k { x with cnt := tset x.cnt i (satAdd (if i = 0 then 32 else 16) (tat x.cnt i 0) n) }

/-- A stream's count raised by one. -/
def strInc (s : State) (k i : Nat) : State := strAdd s k i 1

/-! ### Groups -/

/-- E of a group in the units of PTP time (R294). -/
def groupE (s : State) (g : Nat) : Nat := fget s (Fld.SVI_G_WIN_E (g / 64) (g % 64)) * 1000 * nsUnit
/-- L of a group in the units of PTP time. -/
def groupL (s : State) (g : Nat) : Nat := fget s (Fld.SVI_G_WIN_L (g / 64) (g % 64)) * 1000 * nsUnit
/-- H of a group in fabric clocks (R280). -/
def groupH (s : State) (g : Nat) : Nat := fget s (Fld.SVI_G_HOLD_H (g / 64) (g % 64)) * 1000

/-- Counts in a counting period: f_s × P. -/
def periodOf (hz : Nat) : Nat := if hz = 96000 then 24000 else hz

/-- The absolute sample index of a count in a frame with ingress time-stamp `t`: the nominal instant is the latest of the count's not after
t + E (R274). It is negative before the epoch. -/
def indexOf (hz e t k : Nat) : Int :=
  let top : Int := (t + e) * hz / secUnit
  top - (top - k) % (periodOf hz : Nat)

/-- The set of a sample has been released, or lies before N_first (R277). -/
def released (s : State) (g hz : Nat) (a : Int) : Bool :=
  decide (a < (s.sdl.startSec * hz : Nat)) ||
  (match tget s.svi.done g with
   | some (n, f) => decide (a * (f : Int) < ((n + 1) * hz : Nat))
   | none => false)

/-- R_n − G of a sample, in the units of PTP time (R433). -/
def guardOf (s : State) (g hz a : Nat) : Nat :=
  instantOf 0 (a * baseHz s / hz + 1) (baseHz s) + groupH s g * nsUnit - fget s Fld.FTB_GUARD_G * 1000 * nsUnit

/-! ### The layout of a frame (R265); BER tags of IEC 61850-9-2 (PRESUMED, log 39) -/

/-- One ASDU. -/
structure Asdu where
  svId : List Nat
  cnt : Nat
  confRev : Nat
  synch : Nat
  rate : Option Nat
  data : List Nat
deriving DecidableEq, Repr

/-- Skips an optional element. -/
def skipTag (tag : Nat) : List (Nat × List Nat) → List (Nat × List Nat)
  | (t, v) :: r => if t = tag then r else (t, v) :: r
  | [] => []

/-- The fields of an ASDU behind confRev. -/
def asduTail (id : List Nat) (cnt conf : Nat) (es : List (Nat × List Nat)) : Option Asdu :=
  match skipTag 0x84 es with
  | (0x85, sy) :: es =>
    let rate := match es with | (0x86, v) :: _ => some (ofBe v) | _ => none
    match skipTag 0x86 es with
    | (0x87, d) :: es => if (skipTag 0x89 (skipTag 0x88 es)).isEmpty then some ⟨id, cnt, conf, ofBe sy, rate, d⟩ else none
    | _ => none
  | _ => none

/-- An ASDU from its elements. -/
def asduOf (es : List (Nat × List Nat)) : Option Asdu :=
  match es with
  | (0x80, id) :: es => match skipTag 0x81 es with
    | (0x82, c) :: (0x83, r) :: es => if c.length = 2 then asduTail id (ofBe c) (ofBe r) es else none
    | _ => none
  | _ => none

/-- noASDU and the octets of seqASDU of a frame. -/
def savBody (bs : List Nat) : Option (Nat × List Nat) :=
  if etherType bs ≠ 0x88BA then none
  else match berTake (bs.drop (appAt bs + 8)) with
    | some (0x60, v, _) => match berAll 8 v with
      | some ((0x80, n) :: es) => match skipTag 0x81 es with
        | [(0xA2, q)] => if 1 ≤ ofBe n ∧ ofBe n ≤ 8 then some (ofBe n, q) else none
        | _ => none
      | _ => none
    | _ => none

/-- The octets of seqASDU, as the layout up to it gives them (R266 step 3): what stands behind is not looked at. -/
def seqPrefix (bs : List Nat) : Option (List Nat) :=
  if etherType bs ≠ 0x88BA then none
  else match berTake (bs.drop (appAt bs + 8)) with
    | some (0x60, v, _) => match berTake v with
      | some (0x80, n, r) =>
        if ofBe n < 1 ∨ 8 < ofBe n then none
        else match berTake r with
          | some (0xA2, q, _) => some q
          | some (0x81, _, r) => match berTake r with
            | some (0xA2, q, _) => some q
            | _ => none
          | _ => none
      | _ => none
    | _ => none

/-- The first svID (R266 step 3). -/
def firstSvId (bs : List Nat) : Option (List Nat) :=
  match (seqPrefix bs).bind berTake with
  | some (0x30, v, _) => match berTake v with
    | some (0x80, id, _) => some id
    | _ => none
  | _ => none

/-- The BER elements of octets up to the first that does not parse. -/
def berSome : Nat → List Nat → List (Nat × List Nat)
  | 0, _ => []
  | k + 1, bs => match berTake bs with
    | none => []
    | some (t, v, rest) => (t, v) :: berSome k rest

/-- smpCnt of an ASDU, where the layout up to it parses. -/
def cntOf (v : List Nat) : Option Nat :=
  match berSome 16 v with
  | (0x80, _) :: es => match skipTag 0x81 es with
    | (0x82, c) :: _ => if c.length = 2 then some (ofBe c) else none
    | _ => none
  | _ => none

/-- The counts of the samples that a frame carries, as far as it parses (R281). -/
def countsOf (bs : List Nat) : List Nat :=
  match seqPrefix bs with
  | some q => ((berSome 9 q).filter fun e => e.1 == 0x30).filterMap fun e => cntOf e.2
  | none => []

/-- The ASDUs of a frame that parse. -/
def asdus (bs : List Nat) : List (Option Asdu) :=
  match (savBody bs).bind fun b => berAll 9 b.2 with
  | some es => es.map fun e => if e.1 = 0x30 then (berAll 16 e.2).bind asduOf else none
  | none => []

/-- The whole layout fits a stream (R265). -/
def layoutOk (x : Stream) (bs : List Nat) : Option (List Asdu) :=
  let as := asdus bs
  let good := as.filterMap id
  let fits (a : Asdu) : Bool := a.data.length == 8 * x.nch && some a.svId == firstSvId bs &&
    (match a.rate with | some r => r == x.hz | none => true)
  if as.length = good.length ∧ good.length = x.nasdu ∧ ((savBody bs).map fun b => b.1) = some x.nasdu ∧ good.all fits then some good else none

/-- Values and qualities of an ASDU's channels. -/
def channelsOf (n : Nat) (d : List Nat) : List (Int × Nat) :=
  (List.range n).map fun i => (toSigned 32 (be d (8 * i) 4), be d (8 * i + 4) 4)

/-! ### Events (R288) -/

/-- A STATE event of a stream whose lost state changed (R288). -/
def stateEvent (s : State) (k : Nat) : State :=
  let x := streamOf s k
  if x.evmode ≠ 2 then s
  else
    let e : Ev := { type := 2, queue := x.evq, flow := k, src := sviMid, ns := nowNs s, w5 := bitAt x.lost 31 + k }
    postCounted s .state k e Fld.SVI_EVHOLD_COUNT

/-- A FRAME event, which stops ingest where it is refused (R288). -/
def frameEvent (s : State) (e : Ev) : State :=
  onPosted (bndPost s e) (fun s => { s with svi := { s.svi with hold := some e } }) fun s => s

/-- The FRAME event that stops ingest is offered again (R338). -/
def frameRetry (s : State) : State :=
  match s.svi.hold with
  | none => s
  | some e => frameEvent { s with svi := { s.svi with hold := none } } e

/-! ### Placement (R272, R276–R279, R433) -/

/-- A sample is treated as rejected for R281. -/
def markRejected (s : State) (k : Nat) (a : Int) : State :=
  let e := (k, a.toNat)
  if a < 0 ∨ s.svi.rej.contains e then s else { s with svi := { s.svi with rej := s.svi.rej ++ [e] } }

/-- A sample of a stream with this index is held, from the same origin (R276). -/
def inBuffer (s : State) (k a : Nat) (peer : Bool) : Bool := s.svi.buf.any fun x => x.stream == k && x.idx == a && x.peer == peer

/-- The stream's placement: GAP and k_last for a local one (R278), and its lost state ends (R279). -/
def notePlaced (s : State) (k a : Nat) (peer : Bool) : State :=
  let x := streamOf s k
  let m := periodOf x.hz
  let cnt := a % m
  let s := if peer then s else match x.kLast with
    | none => setStream s k { x with kLast := some cnt }
    | some l =>
      let d := (cnt + m - l) % m
      let s := if 2 ≤ d ∧ d ≤ m / 2 - 1 then strAdd s k 9 (d - 1) else s
      if 1 ≤ d ∧ d ≤ m / 2 - 1 then setStream s k { streamOf s k with kLast := some cnt } else s
  let was := x.lost
  let s := setStream s k { streamOf s k with placedAt := some s.sdl.fab, lost := false }
  if was then stateEvent s k else s

/-- The alignment buffer of 12 MiB has room for a sample of 8 bytes per channel (R27, R287). -/
def bufRoom (s : State) (x : Sample) : Bool := decide (((x :: s.svi.buf).map fun y => 8 * y.vals.length).sum ≤ 12 * 2 ^ 20)

/-- A sample enters the alignment buffer; a local one is mirrored in pair operation (R272, R433). A sample for which the buffer has no room
is rejected, where the spec says nothing (DESIGN CHOICE, log 104). -/
def place (s : State) (x : Sample) : State :=
  if !bufRoom s x then markRejected s x.stream x.idx else
  let s := notePlaced { s with svi := { s.svi with buf := s.svi.buf ++ [x] } } x.stream x.idx x.peer
  if pairOp s && !x.peer then
    { s with ftb := { s.ftb with gather := s.ftb.gather ++ [x], gatherAt := if s.ftb.gather.isEmpty then s.sdl.fab else s.ftb.gatherAt } }
  else s

/-- The release clock of a sample's set has come: a sample written in it or later is late (R281). -/
def overdue (s : State) (g hz : Nat) (a : Int) : Bool :=
  s.svi.ended.any fun (n, f, at_) => decide (a * (f : Int) < ((n + 1) * hz : Nat)) && decide (at_ + groupH s g ≤ s.sdl.fab)

/-- An ASDU is counted as late (R277). -/
def countLate (s : State) (k g : Nat) : State :=
  cinc (strInc (cinc s Fld.SVI_LATE_COUNT) k 7) (Fld.SVI_G_LATE_COUNT (g / 64) (g % 64))

/-- One ASDU of an accepted frame (R272). -/
def asduPlace (k t : Nat) (s : State) (a : Asdu) : State :=
  let x := streamOf s k
  let g := x.group
  let hz := x.hz
  let idx := indexOf hz (groupE s g) t a.cnt
  let reject (s : State) : State := markRejected s k idx
  let age : Int := (t : Int) * hz - idx * secUnit
  let short := match bits (x.w 4) 17 16 with
    | 0 => false
    | 1 => a.synch == 0
    | _ => !(a.synch == 2 || (decide (5 ≤ a.synch) && decide (a.synch ≤ 254)))
  let drop := bit (x.w 4) 15
  if a.confRev ≠ x.w 3 then reject (strInc (cinc s Fld.SVI_CONFREV_COUNT) k 2)
  else if periodOf hz ≤ a.cnt then strInc (cinc s Fld.SVI_FORMAT_COUNT) k 3
  else
    let s := if short then strInc s k 11 else s
    if short && drop then reject s
    else if (groupL s g * hz : Nat) ≤ age then
      reject (strInc (cinc s Fld.SVI_OOW_COUNT) k (if (periodOf hz * secUnit : Nat) ≤ 2 * age then 5 else 6))
    else if inBuffer s k idx.toNat false && decide (0 ≤ idx) then strInc (cinc s Fld.SVI_DUP_COUNT) k 8
    else if released s g hz idx || overdue s g hz idx then countLate s k g
    else if pairOp s && decide (guardOf s g hz idx.toNat ≤ t) then reject (countLate s k g)
    else place s { stream := k, idx := idx.toNat, vals := channelsOf x.nch a.data, unsync := short, ts := t, at_ := s.sdl.fab }

/-! ### Frames (R264, R266) -/

/-- The valid descriptor that a frame matches (R268). -/
def sviMatch (s : State) (bs svId : List Nat) : Option Nat :=
  ((validStreams s).find? fun e => addrOfWords (e.2.w 0) (e.2.w 1 % 2 ^ 16) == dstOf bs && e.2.w 1 / 2 ^ 16 == be bs (appAt bs) 2 &&
    e.2.w 2 == crc32 svId).map (·.1)

/-- The samples that a frame carried are treated as rejected (R281). -/
def rejectFrame (s : State) (k : Nat) (f : Frame) : State :=
  let x := streamOf s k
  (countsOf f.bytes).foldl (fun s c =>
    if periodOf x.hz ≤ c then s else markRejected s k (indexOf x.hz (groupE s x.group) f.ts c)) s

/-- An accepted frame: its ASDUs, its counts and its FRAME event (R266 step 9, R271, R288). -/
def frameAccept (s : State) (k : Nat) (f : Frame) (as : List Asdu) : State :=
  let s := strInc s k 0
  let s := setStream s k { streamOf s k with lastNs := f.ts / nsUnit }
  let s := as.foldl (asduPlace k f.ts) s
  let x := streamOf s k
  if x.evmode = 1 then
    frameEvent s { type := 1, queue := x.evq, flow := k, src := sviMid, ns := f.ts / nsUnit, w5 := k, w6 := (as.head?.map (·.cnt)).getD 0 }
  else s

/-- A frame of a known stream, from step 5 of R266. -/
def frameStream (s : State) (k : Nat) (f : Frame) : State :=
  let x := streamOf s k
  if !groupOn s x.group then cinc s Fld.SVI_STOPPED_COUNT
  else if !simOk (bits (x.w 4) 14 13) (bit (be f.bytes (appAt f.bytes + 4) 2) 15) then rejectFrame (strInc s k 4) k f
  else match layoutOk x f.bytes with
    | none => rejectFrame (strInc (cinc s Fld.SVI_FORMAT_COUNT) k 3) k f
    | some as =>
      if !x.auth then frameAccept s k f as
      else onOpt (authCheck s (x.key 0) (x.key 1) (x.w 7) (x.w 8) sviMid f.bytes) (fun s => rejectFrame (strInc (cinc s Fld.SVI_AUTHFAIL_COUNT) k 1) k f) fun s i =>
          frameAccept (strInc s k (if i = 0 then 13 else 12)) k f as

/-- A frame taken from port 16 (R266). -/
def sviHandle (s : State) (f : Frame) : State :=
  let busy (n : Nat) (s : State) : State := { s with svi := { s.svi with busy := s.sdl.fab + max 16 n } }
  if f.oversize then busy 0 (cinc s Fld.SVI_OVERSIZE_COUNT)
  else if !genActive s || !enabled s 0x500000 then busy 0 (cinc s Fld.SVI_STOPPED_COUNT)
  else match firstSvId f.bytes with
    | none => busy 0 (cinc s Fld.SVI_FORMAT_COUNT)
    | some svId => match sviMatch s f.bytes svId with
      | none => busy 0 (cinc s Fld.SVI_NOMATCH_COUNT)
      | some k => busy ((streamOf s k).nasdu * (streamOf s k).nch) (frameStream s k f)

/-- SV ingest takes the next frame of port 16, unless a frame occupies it or a held event stops it (R264, R288). -/
def sviIngest (s : State) : State :=
  if s.svi.hold.isSome || s.sdl.fab < s.svi.busy then s
  else match nextClass s 16 with
    | none => s
    | some c => match headOf s 16 c with
      | none => s
      | some f => sviHandle (takeHead s 16 c) f

/-- A stream becomes lost after TMO ms without a placement (R279). -/
def streamTimeout (s : State) (k : Nat) : State :=
  let x := streamOf s k
  match x.placedAt with
  | none => s
  | some t =>
    if !x.valid || x.lost || s.sdl.fab < t + bits (x.w 5) 31 24 * 10 ^ 6 then s
    else stateEvent (setStream s k { x with lost := true }) k

/-! ### Release (R280–R287) -/

/-- The copies of a sample that count at a release now (R281, R433). -/
def copiesOf (s : State) (k g hz a : Nat) (guarded : Bool) : List Sample :=
  s.svi.buf.filter fun x => x.stream == k && x.idx == a && decide (x.at_ < s.sdl.fab) &&
    (!guarded || !pairOp s || decide (x.ts < guardOf s g hz a))

/-- Two copies differ in a value or in quality bits [13:0] (R434). -/
def copiesDiffer (a b : Sample) : Bool :=
  a.vals.map (fun v => (v.1, v.2 % 2 ^ 14)) != b.vals.map (fun v => (v.1, v.2 % 2 ^ 14))

/-- The copy that stands, and whether the copies differed (R434). -/
def standing (s : State) (xs : List Sample) : Option (Sample × Bool) :=
  match xs.find? (fun x => !x.peer), xs.find? (fun x => x.peer) with
  | some a, some b =>
    if copiesDiffer a b then some (if ownSide s = 0 then a else b, true) else some (a, false)
  | some a, none => some (a, false)
  | none, some b => some (b, false)
  | none, none => none

/-- The standard quality fields of a substitute: the channel's last received quality with validity, oldData and source replaced (R282; bit
positions of IEC 61850-9-2, PRESUMED, log 39). -/
def stdQuality (x : Stream) (ch validity : Nat) (old : Bool) : Nat :=
  let q := tat x.qual ch 0 % 2 ^ 14
  let q := setBit (q / 4 * 4 + validity) 10
  if old then setBit q 7 else q

/-- The first good value of a channel in the buffer within INTMAX samples after index `a` (R283). -/
def laterGood (s : State) (k g hz a ch : Nat) (intMax : Nat) : Option (Int × Nat) :=
  ((List.range intMax).map (a + 1 + ·)).findSome? fun b =>
    match standing s (copiesOf s k g hz b false) with
    | some (y, _) => match y.vals[ch]? with
      | some (v, q) => if q % 4 = 0 then some (v, b) else none
      | none => none
    | none => none

/-- The substitute of one channel: its value and quality word (R282–R285). -/
def substitute (s : State) (k : Nat) (x : Stream) (a ch policy cause : Nat) : Int × Nat :=
  let g := x.group
  let mark (p : Nat) : Nat := 2 ^ 31 + cause * 2 ^ 29 + p * 2 ^ 27
  match (if policy = 2 then none else tget x.good ch) with
  | none => (0, mark 2 + stdQuality x ch 1 false)
  | some (va, ia) =>
    let hold : Int × Nat := (va, mark 0 + stdQuality x ch 3 true)
    if policy = 0 then hold
    else match laterGood s k g x.hz a ch (fget s (Fld.SVI_G_CTRL_INTMAX (g / 64) (g % 64))) with
      | none => hold
      | some (vb, ib) => (convQuot (va * ((ib : Int) - ia) + (vb - va) * ((a : Int) - ia)) (ib - ia), mark 1 + stdQuality x ch 3 false)

/-- A channel's last good value and last received quality after a received sample (R282). -/
def noteGood (a : Nat) (x : Stream) : List ((Int × Nat) × Nat) → Stream
  | [] => x
  | ((v, q), ch) :: r =>
    noteGood a { x with qual := tset x.qual ch q, good := if q % 4 = 0 then tset x.good ch (v, a) else x.good } r

/-- One sample of a set: its channels with the quality of R284, and whether it was substituted. -/
def setSample (s : State) (k a : Nat) : State × List (Int × Nat) × Bool :=
  let x := streamOf s k
  let g := x.group
  match standing s (copiesOf s k g x.hz a true) with
  | some (y, diff) =>
    let s := if diff then cinc s Fld.FTB_SVDIFF_COUNT else s
    let x := noteGood a { x with consec := 0 } (y.vals.zip (List.range y.vals.length))
    (setStream s k x, y.vals.map fun v => (v.1, v.2 % 2 ^ 14 + bitAt y.unsync 26), false)
  | none =>
    let cause := if s.svi.rej.contains (k, a) then 1 else if x.lost then 2 else 0
    let policy := if fget s (Fld.SVI_G_CTRL_HOLDMAX (g / 64) (g % 64)) ≤ x.consec then 2
      else fget s (Fld.SVI_G_CTRL_POLICY (g / 64) (g % 64))
    let vals := (List.range x.nch).map fun ch => substitute s k x a ch policy cause
    let s := setStream s k { x with consec := x.consec + 1 }
    (strInc (cinc (cinc s Fld.SVI_SUBST_COUNT) (Fld.SVI_G_SUBST_COUNT (g / 64) (g % 64))) k 10, vals, true)

/-- The sample indexes of a stream in tick `n` at base rate `f` (R277). -/
def indexesIn (hz n f : Nat) : List Nat :=
  let lo := (n * hz + f - 1) / f
  let hi := ((n + 1) * hz + f - 1) / f
  (List.range (hi - lo)).map (lo + ·)

/-- The samples of one stream in a set. -/
def setStreamOf (s : State) (k n f : Nat) : State × SetStream × Nat :=
  let x := streamOf s k
  let r := (indexesIn x.hz n f).foldl (fun (acc : State × List (Nat × List (Int × Nat)) × Nat) a =>
    onPair (setSample acc.1 k a) fun s v => (s, acc.2.1 ++ [(a, v.1)], acc.2.2 + b2n v.2)) (s, [], 0)
  (r.1, ⟨k, x.chbase, x.hz, r.2.1⟩, r.2.2)

/-- The samples and rejections of a group's released ticks leave the buffer. -/
def dropReleased (s : State) (g : Nat) : State :=
  let gone (k a : Nat) : Bool := let x := streamOf s k; x.group == g && released s g x.hz a
  { s with svi := { s.svi with
      buf := s.svi.buf.filter (fun x => !gone x.stream x.idx), rej := s.svi.rej.filter fun e => !gone e.1 e.2 } }

/-- The set of a tick is passed over: its samples are discarded uncounted (R280). -/
def passSet (s : State) (g n f : Nat) : State := dropReleased { s with svi := { s.svi with done := tset s.svi.done g (n, f) } } g

/-- Whole ns of the instant of tick `n` at rate `f` (rounded down: DESIGN CHOICE, log 47). -/
def tickNs (n f : Nat) : Nat := n * 10 ^ 9 / f

/-- The set of tick `n` of a group is released to the taps (R280–R288). -/
def releaseSet (s : State) (g n f : Nat) : State :=
  let ks := ((groupStreams s g).filter fun e => decide (e.2.since.1 * f ≤ n * e.2.since.2)).map (·.1)
  let r := ks.foldl (fun (acc : State × List SetStream × Nat) k =>
    onPair (setStreamOf acc.1 k n f) fun s v => (s, acc.2.1 ++ [v.1], acc.2.2 + v.2)) (s, [], 0)
  let set_ : RelSet := { group := g, tick := n, hz := f, streams := r.2.1, nsub := r.2.2 }
  let s := passSet r.1 g n f
  let v := s.svi
  let next : Svi := { v with last := tset v.last g (n % 2 ^ 32), toCas := v.toCas ++ [set_], toBlv := v.toBlv ++ [set_], toOrn := v.toOrn ++ [set_] }
  let s := { s with svi := next }
  if fbit s (Fld.SVI_G_CTRL_EVEN (g / 64) (g % 64)) then
    let e : Ev := { type := 3, queue := fget s (Fld.SVI_G_CTRL_EVQ (g / 64) (g % 64)), flow := g, src := sviMid, ns := tickNs n f, w5 := g,
                    w6 := n % 2 ^ 32, w7 := r.2.2 }
    postCounted s .release g e Fld.SVI_EVHOLD_COUNT
  else s

/-- A tick has not been released or passed over by a group. -/
def unreleased (s : State) (g : Nat) (e : Nat × Nat) : Bool :=
  match tget s.svi.done g with
  | none => true
  | some (n, f) => decide ((n + 1) * e.2 ≤ e.1 * f)

/-- The unreleased sets of a group, that of tick `n` among them, are discarded with all their samples, uncounted (R280). -/
def passAll (s : State) (g n f : Nat) : State :=
  let e := (s.svi.ended.getLast?.map fun e => (e.1, e.2.1)).getD (n, f)
  let s := if unreleased s g e then passSet s g e.1 e.2 else passSet s g n f
  let mine (k : Nat) : Bool := (streamOf s k).group == g
  { s with svi := { s.svi with buf := s.svi.buf.filter (fun x => !mine x.stream), rej := s.svi.rej.filter fun e => !mine e.1 } }

/-- One set of a group is released; where the group or page 0 is disabled at the release clock, its unreleased sets are discarded
(R280, R292). -/
def releaseOr (s : State) (g n f : Nat) : State :=
  if groupOn s g && enabled s 0x500000 then releaseSet s g n f else passAll s g n f

/-- The oldest unreleased set of a group: tick, base rate and release clock (R280). -/
def dueSet (s : State) (g : Nat) : Option (Nat × Nat × Nat) :=
  (s.svi.ended.find? fun e => unreleased s g (e.1, e.2.1)).map fun e => (e.1, e.2.1, e.2.2 + groupH s g)

/-- The sets of a group with release clocks up to `c`, in tick order (R280). -/
def releaseTo (c : Nat) (s : State) (g : Nat) : State :=
  s.svi.ended.foldl (fun s _ => match dueSet s g with
    | some (n, f, at_) => if at_ ≤ c then releaseOr s g n f else s
    | none => s) s

/-- The oldest set of a group whose release clock has come, after those of lower-numbered groups that are due with it (R280). -/
def alignRelease (s : State) (g : Nat) : State :=
  match dueSet s g with
  | none => s
  | some (n, f, at_) => if s.sdl.fab < at_ then s else releaseOr ((List.range g).foldl (releaseTo at_) s) g n f

/-- Ticks after the last one begun for which samples came early: as far as the buffer holds samples (R280). -/
def earlyTicks (s : State) : List (Nat × Nat) :=
  match s.svi.cur with
  | none => []
  | some (n, f) =>
    let last := (s.svi.buf.map fun x => x.idx * f / (streamOf s x.stream).hz).foldl max n
    (List.range (last - n)).map fun i => (n + 1 + i, f)

/-- The tick generator has stopped and its last fabric edge has passed: every set not yet released is released at once, tick by tick and
group by group (R280; log 40), and requests that wait for an edge take effect. -/
def stopRelease (s : State) : State :=
  let ticks := s.svi.ended.map (fun e => (e.1, e.2.1)) ++ s.svi.cur.toList ++ earlyTicks s
  let s := ticks.foldl (fun s e => (List.range 256).foldl (fun s g =>
    if unreleased s g e && groupOn s g then releaseOr s g e.1 e.2 else s) s) s
  { s with svi := { s.svi with ended := [], cur := none, done := [], buf := [], rej := [] } }

/-! ### Descriptors (R289, R290) -/

/-- The lost state of a stream with the TMO in force: a change of TMO acts on the count from the last placement (R279). -/
def lostFollow (s : State) (k : Nat) : State :=
  let x := streamOf s k
  match x.placedAt with
  | none => s
  | some t =>
    let lost := decide (t + bits (x.w 5) 31 24 * 10 ^ 6 ≤ s.sdl.fab)
    if lost = x.lost then s else stateEvent (setStream s k { x with lost := lost }) k

/-- A channel that is processed no more loses its histories, so that it fills them anew when it is processed again (R296, R308). -/
def casDrop (s : State) : State :=
  { s with cas := { s.cas with chans := s.cas.chans.filter fun e => (chainOf s e.1 (baseHz s)).isSome } }

/-- A descriptor takes effect (R279, R289): words of a WRITE, or none for DISABLE. `since` is the tick and rate of the edge. -/
def descApply (s : State) (k : Nat) (d : Option (List Nat)) (since : Nat × Nat) : State :=
  let x := streamOf s k
  match d with
  | some d =>
    if x.valid then lostFollow (setStream s k { x with d := d }) k
    else setStream s k { x with d := d, valid := true, since := since, kLast := none, placedAt := none, lost := true, good := [], qual := [],
                                consec := 0 }
  | none =>
    let s := setStream s k { x with valid := false }
    { s with svi := { s.svi with buf := s.svi.buf.filter (fun y => y.stream != k), rej := s.svi.rej.filter fun e => e.1 != k } }

/-- The mailbox SVI_DESC. -/
def sviDescMbx : Nat := 0x500080

/-- The request that waits for an edge takes effect (R289). -/
def descEdge (s : State) (now : Bool) (since : Nat × Nat) : State :=
  match s.svi.pend with
  | none => s
  | some (k, d, go) =>
    if now || go + 1000 ≤ s.sdl.fab then
      mbxEndIfBusy (casDrop (descApply { s with svi := { s.svi with pend := none } } k d since)) sviDescMbx 0
    else s

/-- Words of a descriptor with every field clamped (R12, R293). -/
def descWords (w : Nat → Nat) : List Nat :=
  let d4 := w 4
  let d4' := min (bits d4 30 28) 4 * 2 ^ 28 + clampTo 1 8 (bits d4 27 24) * 2 ^ 24 + clampTo 1 24 (bits d4 23 19) * 2 ^ 19 +
    bits d4 18 18 * 2 ^ 18 + min (bits d4 17 16) 2 * 2 ^ 16 + bits d4 15 15 * 2 ^ 15 + min (bits d4 14 13) 2 * 2 ^ 13 + d4 % 256
  let d9 := w 9
  [w 0, w 1, w 2, w 3, d4', max 1 (bits (w 5) 31 24) * 2 ^ 24 + w 5 % 2 ^ 14, bits (w 6) 27 16 * 2 ^ 16 + w 6 % 4096, w 7, w 8,
   min (bits d9 31 30) 2 * 2 ^ 30 + bits d9 25 16 * 2 ^ 16 + d9 % 2 ^ 13]

/-- The test of a WRITE (R269, R290): the CODE of a refusal. -/
def descRefusal (s : State) (k : Nat) (d : List Nat) : Option Nat :=
  let x : Stream := { d := d }
  let old := streamOf s k
  let shape (y : Stream) : List Nat := [y.w 0, y.w 1, y.w 2, y.hz, y.nasdu, y.nch, y.group, y.chbase]
  let others := (validStreams s).filter fun e => e.1 != k
  if old.valid ∧ shape old ≠ shape x then some 0x05
  else if others.any fun e => e.2.w 0 == x.w 0 && e.2.w 1 == x.w 1 && e.2.w 2 == x.w 2 then some 0x02
  else if 16384 < x.chbase + x.nch ∨ (others.any fun e => decide (x.chbase < e.2.chbase + e.2.nch) && decide (e.2.chbase < x.chbase + x.nch)) then
    some 0x03
  else if x.hz = 96000 ∧ 64 ≤ (others.filter fun e => e.2.hz == 96000).length then some 0x04
  else none

/-- A change of a descriptor is held until its edge, or takes effect at once while no edge will come (R289). -/
def descTake (s : State) (k : Nat) (d : Option (List Nat)) : State :=
  let s := { s with svi := { s.svi with pend := some (k, d, s.sdl.fab) } }
  if genActive s then s else descEdge s true (0, 1)

/-- A SVI_DESC request (R289, R290, R293). -/
def sviDescReq (s : State) : State :=
  let b := mbxAt s sviDescMbx
  let k := b.arg % 2048
  match b.op, b.wr with
  | 0x01, true => match descRefusal s k (descWords b.w) with
    | some c => mbxEnd s sviDescMbx c
    | none => descTake s k (some (descWords b.w))
  | 0x02, false =>
    let x := streamOf s k
    mbxAnswer s sviDescMbx 0 ((List.range 10).map fun i => w32 (x.w i + (if i = 4 then bitAt x.valid 31 else 0)))
  | 0x03, true => descTake s k none
  | _, _ => mbxEnd s sviDescMbx 0xFF

/-- Count indexes of the words D1 to D7 of SVI_SCNT, high half then low half (R293). -/
def scntPairs : List (Nat × Nat) := [(1, 2), (3, 4), (5, 6), (7, 8), (9, 10), (11, 99), (12, 13)]

/-- A SVI_SCNT request (R77, R293). -/
def sviScntReq (s : State) (a : Nat) : State :=
  let b := mbxAt s a
  let k := b.arg % 2048
  let x := streamOf s k
  let c (i : Nat) : Nat := tat x.cnt i 0
  match b.op, b.wr with
  | 0x01, false =>
    mbxAnswer s a 0 (([c 0] ++ scntPairs.map (fun (p : Nat × Nat) => c p.1 * 2 ^ 16 + c p.2) ++
      [b2n (x.lost && x.valid) * 2 + b2n x.valid, x.kLast.getD 0, x.lastNs % 10 ^ 9]).map w32)
  | 0x02, true =>
    let sub (t : Tbl Nat) (i v : Nat) : Tbl Nat := if i = 99 then t else tset t i (tat t i 0 - v)
    let cnt := (scntPairs.zip (List.range 7)).foldl (fun t e =>
      sub (sub t e.1.1 (b.w (e.2 + 1) / 2 ^ 16)) e.1.2 (b.w (e.2 + 1) % 2 ^ 16)) (sub x.cnt 0 (b.w 0))
    mbxEnd (setStream s k { x with cnt := cnt }) a 0
  | _, _ => mbxEnd s a 0xFF

/-- A request of an SVI mailbox. -/
def sviMbx (r : SviReg) (a : Nat) (s : State) : State :=
  match r with
  | .SVI_DESC => sviDescReq s
  | .SVI_SCNT => sviScntReq s a
  | _ => s

/-! ### Edges and pages -/

/-- What SV ingest does at the fabric edge of tick `n` at base rate `f` (R280, R289); a bound of 64 on the ticks kept is the model's (log 47). -/
def sviFabricEdge (s : State) (n f : Nat) : State :=
  let v := s.svi
  let ended := match v.cur with
    | some (c, cf) => (v.ended ++ [(c, cf, s.sdl.fab)]).drop (v.ended.length + 1 - 64)
    | none => v.ended
  casDrop (descEdge { s with svi := { v with ended := ended, cur := some (n, f) } } false (n, f))

/-- A group that becomes enabled passes over the sets whose release clock has gone by (R280). -/
def groupEnabled (s : State) (g : Nat) : State :=
  match (s.svi.ended.filter fun e => decide (e.2.2 + groupH s g ≤ s.sdl.fab)).getLast? with
  | some (n, f, _) => if unreleased s g (n, f) then passSet s g n f else s
  | none => s

/-- The groups that an application enabled, and the channels that it stopped (R280, R308). -/
def sviApplied (old s : State) : State :=
  casDrop ((List.range 256).foldl (fun s g => if groupOn s g && !groupOn old g then groupEnabled s g else s) s)

/-- What follows a change of EN of SVI page `p` (R280, R292): when page 0 is enabled again, the sets whose release clock has gone by are passed
over. -/
def sviEnable (p : Nat) (on : Bool) (old s : State) : State :=
  if p = 0 then (if on then (List.range 256).foldl groupEnabled s else { s with svi := { s.svi with buf := [], rej := [] } }) else sviApplied old s

/-- Every stream becomes lost, which is a change for those that were not (R288, R292). -/
def loseAll (s : State) : State :=
  ((validStreams s).map (·.1)).foldl (fun s k =>
    let x := streamOf s k
    let s := setStream s k { x with lost := true, placedAt := none, kLast := none, good := [], qual := [], consec := 0 }
    if x.lost then s else stateEvent s k) s

/-- A soft reset of SVI page `p` (R292). -/
def sviSrst (p : Nat) (s : State) : State :=
  if p = 0 then loseAll { s with svi := { s.svi with buf := [], rej := [] } }
  else if p ≤ 4 then
    let mine (k : Nat) : Bool := (streamOf s k).group / 64 == p - 1
    let streams := s.svi.streams.map fun e => if e.2.group / 64 = p - 1 then (e.1, { e.2 with good := [], qual := [] }) else e
    let s := { s with svi := { s.svi with
        buf := s.svi.buf.filter (fun x => !mine x.stream), rej := s.svi.rej.filter (fun e => !mine e.1), streams := streams } }
    ((List.range 64).map ((p - 1) * 64 + ·)).foldl (fun s g => match s.svi.ended.getLast? with
      | some (n, f, _) => if unreleased s g (n, f) then passSet s g n f else s
      | none => s) s
  else s

/-! ### The sample mirror (R428, R433, R434) -/

/-- One record of a SAMPLE message (R428). -/
structure MirrorRec where
  stream : Nat
  cnt : Nat
  /-- Ingress time-stamp in whole ns. -/
  ns : Nat
  /-- Value and quality as placed. -/
  vals : List (Int × Nat)
deriving DecidableEq, Repr

/-- A mirrored copy joins the alignment buffer (R433, R434): it is checked only for being a duplicate. -/
def mirrorPlace (s : State) (r : MirrorRec) : State :=
  let x := streamOf s r.stream
  if !x.valid || r.vals.length != x.nch then s
  else
    let t := r.ns * nsUnit
    let idx := indexOf x.hz (groupE s x.group) t r.cnt
    let a := idx.toNat
    let inTime := decide (t < guardOf s x.group x.hz a)
    if released s x.group x.hz idx || overdue s x.group x.hz idx then (if inTime then cinc s Fld.FTB_SVLATE_COUNT else s)
    else if inBuffer s r.stream a true then s
    else place s { stream := r.stream, idx := a, vals := r.vals, unsync := r.vals.any fun v => bit v.2 26, ts := t, at_ := s.sdl.fab, peer := true }

/-- A SAMPLE message is received (R433). -/
def sampleReceive (s : State) (h : MsgHead) (rs : List MirrorRec) : State :=
  onOk (msgTake s h) (fun s => s) fun s =>
    rs.foldl mirrorPlace s

/-- Octets of the record of a sample (R428). -/
def mirrorBytes (s : State) (x : Sample) : List Nat :=
  let ns := x.ts / nsUnit
  leBytes 2 x.stream ++ leBytes 2 (x.idx % periodOf (streamOf s x.stream).hz) ++ leBytes 4 (ns % 10 ^ 9) ++ leBytes 8 (ns / 10 ^ 9) ++
  x.vals.flatMap fun v => leBytes 4 (ofSigned 32 v.1) ++ leBytes 4 (if x.unsync then setBit v.2 26 else v.2)

/-- The gathered records are sent: at 8000 bytes, or 1 µs after the first (R428). -/
def sampleSend (s : State) : State :=
  let bs := s.ftb.gather.flatMap (mirrorBytes s)
  if s.ftb.gather.isEmpty || !pairOp s || (bs.length < 8000 && decide (s.sdl.fab < s.ftb.gatherAt + 1000)) then s
  else ftbSend { s with ftb := { s.ftb with gather := [] } } 3 (s.ftb.gather.length :: wordsOf bs)

end Sys2Proof.Machine
end

