-- ==== Sys2Proof/Machine/Lantern.lean ====
section
/-! DEFINITION. The Cascade and the Lantern: filters, moving averages, phasors, frequencies, sequence components and their points (R296–R329). -/

namespace Sys2Proof.Machine

/-- The Cascade's master identity (R15). -/
def casMid : Nat := 0x3001
/-- The Lantern's master identity (R15). -/
def ltnMid : Nat := 0x3002

/-! ### Quality and narrowing (R306, R307) -/

/-- The quality of a history position that is not real signal: validity invalid, SETTLE (R308). -/
def fillQ : Nat := 1 + 2 ^ 24

/-- Validity questionable unless already invalid. -/
def questionable (q : Nat) : Nat := if q % 4 = 1 then q else q / 4 * 4 + 3

/-- The marks of an output at which a saturation occurred: SATUR, overflow and validity questionable (R306; bit positions PRESUMED,
log 39). -/
def saturQ (q : Nat) : Nat := setBit (setBit (questionable q) 2) 25

/-- The marks of a result of which the two lanes differ: validity invalid and the standard failure bit (R310; log 39). -/
def failQ (q : Nat) : Nat := setBit (q / 4 * 4 + 1) 6

/-- The quality of a result, marked where its lanes differ (R310). -/
def lanesQ (differ : List LaneResult) (r : LaneResult) (q : Nat) : Nat := if differ.contains r then failQ q else q

/-- Lanes that differ are counted in `f` and reported, class LANE_CMP, `unit` being the channel, triplet or group (R310, R608, R612). -/
def lanesFault (s : State) (f : FieldRef) (unit : Nat) : State := raiseOpen (cinc s f) 4 unit 0

/-- The result of which the lanes differ is counted where it stands in the list (R310). -/
def lanesCheck (s : State) (differ : List LaneResult) (r : LaneResult) (f : FieldRef) (unit : Nat) : State :=
  if differ.contains r then lanesFault s f unit else s

/-- SETTLE and validity questionable (R313). -/
def settleQ (q : Nat) : Nat := setBit (questionable q) 24

/-- The bits that R307 combines by OR: detailQual, source, test, operatorBlocked, derived, SETTLE, SATUR, UNSYNC and SUBST. -/
def orMask : Nat := 0x3FFC + 2 ^ 24 + 2 ^ 25 + 2 ^ 26 + 2 ^ 31

/-- The quality of an output from those of its inputs, newest first (R307). -/
def combineQ (qs : List Nat) : Nat :=
  let v := if qs.any (fun q => q % 4 == 1) then 1 else if qs.all (fun q => q % 4 == 0) then 0 else 3
  let sub := match qs.find? fun q => bit q 31 with
    | some q => bits q 30 27 * 2 ^ 27
    | none => 0
  v + (qs.foldl (fun a q => a ||| (q &&& orMask)) 0 ||| sub)

/-- A value held in `w` signed bits, and whether it saturated. -/
def satInt (w : Nat) (v : Int) : Int × Bool :=
  let hi : Int := (2 : Int) ^ (w - 1) - 1
  if v < -hi - 1 then (-hi - 1, true) else if hi < v then (hi, true) else (v, false)

/-- Position `i` of a history (R308). -/
def histAt (h : List (Int × Nat)) (i : Nat) : Int × Nat := h.getD i (0, fillQ)

/-- A saturating sum in 48 bits, in the order of the list (R305, R309). -/
def sum48 (vs : List Int) : Int × Bool :=
  vs.foldl (fun (acc : Int × Bool) v => let r := satInt 48 (acc.1 + v); (r.1, acc.2 || r.2)) (0, false)

/-! ### The Cascade (R297, R300, R305, R309) -/

/-- One output of a stage from its input history, newest first: the value, its quality, and whether it saturated (R305, R307). -/
def firOut (form r : Nat) (h : List (Int × Nat)) : Int × Nat × Bool :=
  let ks := List.range (romTaps r)
  let acc := sum48 ((coefsOf form r).zip ks |>.map fun e => e.1 * (histAt h e.2).1)
  let y := satInt 32 (convRound 15 acc.1)
  let sat := acc.2 || y.2
  let q := combineQ (ks.map fun k => (histAt h k).2)
  (y.1, if sat then saturQ q else q, sat)

/-- A sample passes through the stages but the last, whose history it joins (R297, R300). `e` is the number of samples before the new span
counted from the epoch, `m` the decimation so far, `idx` the sample's index, `bad` whether the lanes of the stage and of each later one
differ (R310); the counts are of saturated outputs and of those of which the lanes differ. -/
def feedStages (form : Nat) (e idx : Int) :
    List Nat → List Bool → Nat → List (List (Int × Nat)) → Int × Nat → List (List (Int × Nat)) × Nat × Nat
  | r :: rs, bad, m, h :: hs, x =>
    let h' := (x :: h).take (romTaps r)
    match rs with
    | [] => (h' :: hs, 0, 0)
    | _ =>
      if (idx + 1 - e) % (m * romD r : Nat) = 0 then
        let y := firOut form r h'
        let differ := bad.headD false
        let next := feedStages form e idx rs bad.tail (m * romD r) hs (y.1, if differ then failQ y.2.1 else y.2.1)
        (h' :: next.1, next.2.1 + b2n y.2.2, next.2.2 + b2n differ)
      else (h' :: hs, 0, 0)
  | _, _, _, hs, _ => (hs, 0, 0)

/-- The state of a channel. -/
def chanOf (s : State) (c : Nat) : CasChannel := tat s.cas.chans c {}

/-- The state of a channel replaced. -/
def setChan (s : State) (c : Nat) (x : CasChannel) : State := { s with cas := { s.cas with chans := tset s.cas.chans c x } }

/-- PHASE for the set of tick `n` at base rate `f`: that before the first change whose first tick comes later (R301). -/
def phaseFor (s : State) (g n f : Nat) : Nat :=
  match (tat s.cas.oldPhase g []).find? fun e => decide (n * e.2.1 < e.1 * f) with
  | some e => e.2.2
  | none => fget s (Fld.CAS_G_PHASE_PHASE g)

/-- Whether the lanes of each stage of a channel differ. -/
def stagesDiffer (differ : List LaneResult) (c : Nat) : List Bool :=
  (List.range 3).map fun k => differ.any fun r => match r with
    | .stage c' k' => c'.val == c && k'.val == k
    | _ => false

/-- A sample enters a channel's stages. -/
def feedSample (differ : List LaneResult) (ch : Chain) (ph f n idx : Nat) (v : Int × Nat) (s : State) (c : Nat) : State :=
  let x := chanOf s c
  let e : Int := (ph * ch.fs + f - 1) / f
  let r := feedStages ch.form e idx ch.resps (stagesDiffer differ c) 1 x.hist v
  let s := cadd (setChan s c { x with hist := r.1, newest := some (idx, n, v.1, v.2) }) Fld.CAS_SAT_COUNT r.2.1
  (List.range r.2.2).foldl (fun s _ => lanesFault s Fld.CAS_CMPERR_COUNT c) s

/-- The decimated output at the release of tick `n`, where one falls there (R300): its value, quality and sample index. -/
def decimated (s : State) (ch : Chain) (c n : Nat) : Option (Int × Nat × Bool × Nat) :=
  let x := chanOf s c
  match x.newest with
  | none => none
  | some (idx, t, v, q) =>
    if t + ch.tout ≤ n then none
    else match ch.resps.getLast? with
      | none => some (v, q, false, idx)
      | some r =>
        let y := firOut ch.form r (x.hist.getD (ch.resps.length - 1) [])
        some (y.1, y.2.1, y.2.2, idx)

/-- A length in outputs, `num / den`, to 16 fractional bits (R309, R311). -/
def windowK (num den : Nat) : Nat := (convQuot (num * 2 ^ 16) den).toNat

/-- Entries under a window of K (2^-16 outputs). -/
def windowLen (k : Nat) : Nat := (k + 2 ^ 16 - 1) / 2 ^ 16

/-- K of a channel's moving average at frequency `f` (R309). -/
def maK (s : State) (ch : Chain) (f : Nat) : Nat :=
  let p := ch.prof
  clampTo (2 ^ 16) (4096 * 2 ^ 16)
    (if fbit s (Fld.CAS_PRF_MA_FOL p) then windowK (fget s (Fld.CAS_PRF_MA_CYC p) * ch.fo * 2 ^ 32) f
     else (fget s (Fld.CAS_PRF_MA_LEN p) + 1) * 2 ^ 16)

/-- The moving average over a history at K: value, quality, saturated (R309). -/
def movingAverage (k : Nat) (h : List (Int × Nat)) : Int × Nat × Bool :=
  let m := k / 2 ^ 16
  let w : Nat := k % 2 ^ 16
  let a := sum48 ((List.range m).map fun i => (histAt h i).1)
  let b := satInt 64 (a.1 * 2 ^ 16 + w * (histAt h m).1)
  let total := if w = 0 then (a.1 * 2 ^ 16, a.2) else (b.1, a.2 || b.2)
  let y := satInt 32 (convQuot total.1 k)
  let q := combineQ ((List.range (windowLen k)).map fun i => (histAt h i).2)
  let sat := total.2 || y.2
  (y.1, if sat then saturQ q else q, sat)

/-! ### Points (R319, R320) -/

/-- Base of the point store (R319). -/
def pointBase (s : State) : Nat := fget s Fld.CYC_PS_BASE_GIB * 2 ^ 30

/-- A point's record, written in one transaction (R320): value as 64 bits, quality, time in 2^-32 ns, writing engine. The Belvedere sees
the write (R507). -/
def writePoint (s : State) (mid idx v q t : Nat) : State :=
  physPut { s with blv := { s.blv with points := s.blv.points ++ [(idx, v, q, t)] } } mid (pointBase s + idx * 32)
    (leBytes 8 v ++ leBytes 4 q ++ leBytes 8 (secOf t) ++ leBytes 4 (nsOf t) ++ leBytes 4 (0xFFFF0000 + mid) ++ [0, 0, 0, 0])

/-- A pair of INT32 components as a point's value (R319). -/
def complexValue (x : Int × Int) : Nat := ofSigned 32 x.1 + 2 ^ 32 * ofSigned 32 x.2

/-! ### The Lantern (R311–R318) -/

/-- A phasor formed in a set. -/
structure Phasor where
  chan : Nat
  /-- X as R311 defines it, in 2^-32. -/
  ideal : Int × Int
  /-- X as written. -/
  x : Int × Int
  q : Nat
  rms : Nat
  rmsQ : Nat
  /-- Reference instant in 2^-32 ns. -/
  tr : Nat
  fo : Nat
  k : Nat
deriving DecidableEq, Repr

/-- R of a window (R311), rounded half to even. -/
def rmsOf (k : Nat) (ys : List Int) : Nat :=
  let m := k / 2 ^ 16
  let sq (i : Nat) : Nat := (ys.getD i 0).natAbs ^ 2
  let total := ((List.range m).map sq).sum * 2 ^ 16 + k % 2 ^ 16 * sq m
  let r := isqrt (total / k)
  if (2 * r + 1) ^ 2 * k < 4 * total then r + 1
  else if (2 * r + 1) ^ 2 * k = 4 * total then r + r % 2
  else r

/-- K of the Lantern's window of a channel at frequency `f` (R311). -/
def phasorK (s : State) (ch : Chain) (g f : Nat) : Nat :=
  windowK ((if fbit s (Fld.LTN_G_CTRL_CYC (g / 128) (g % 128)) then 2 else 1) * ch.fo * 2 ^ 32) f

/-- Σ w_i y_i e^{j2πf i / f_o} of a window of K (2^-16 outputs), in 2^-96 (R311). -/
def windowSum (k f fo : Nat) (ys : List Int) : Int × Int :=
  (ys.zip (List.range ys.length)).foldl (fun (a : Int × Int) (y : Int × Nat) =>
    let w : Int := y.1 * (if y.2 < k / 2 ^ 16 then 2 ^ 16 else k % 2 ^ 16 : Nat)
    let c := cosSin (f * y.2 * 2 ^ 32 / fo : Nat)
    (a.1 + w * c.1, a.2 + w * c.2)) (0, 0)

/-- X = Z / G in 2^-32, where Z is √2 / K of the sum (R311). -/
def idealPhasor (ch : Chain) (k f : Nat) (ys : List Int) : Int × Int :=
  let z := windowSum k f ch.fo ys
  let gain := chainGain ch f
  let part (v : Int) : Int := convQuot (v * root2) (k * gain * 2 ^ 48)
  if gain = 0 then Config.phasorNoGain ys k f ch.fo else (part z.1, part z.2)

/-- X as the Lantern forms it, in 2^-32: within 0.05 % and 0.02° of R311 (R312, R317; log 48). -/
def formedPhasor (ch : Chain) (k f : Nat) (ys : List Int) : Int × Int :=
  let x := idealPhasor ch k f ys
  let e := Config.phasorError ys k f ch.fo
  let d := (within 0 2147000 e.1, within 0 1498000 e.2)
  (x.1 + (x.1 * d.1 - x.2 * d.2) / 2 ^ 32, x.2 + (x.2 * d.1 + x.1 * d.2) / 2 ^ 32)

/-- The argument of a phasor in 2^-32 cycle (R312). -/
def phaseOf (x : Int × Int) : Nat := if x = (0, 0) then Config.angleOfZero % 2 ^ 32 else argOf 32 x.1 x.2

/-- An output of a channel or a group is settling: fewer than `k` (2^-16 outputs) have been formed under the new spacing (R313). -/
def settling (nout k : Nat) : Bool := decide (nout * 2 ^ 16 < k)

/-- X and R of a channel (R311, R313), and how many of the two saturated. -/
def phasorOf (s : State) (ch : Chain) (c g f tr : Nat) : Phasor × Nat :=
  let x := chanOf s c
  let k := phasorK s ch g f
  let ps := (List.range (windowLen k)).map (histAt x.out)
  let ys := ps.map fun (p : Int × Nat) => p.1
  let z := formedPhasor ch k f ys
  let re := satInt 32 (convRound 32 z.1)
  let im := satInt 32 (convRound 32 z.2)
  let r := satInt 32 (rmsOf k ys)
  let q := combineQ (ps.map fun (p : Int × Nat) => p.2)
  let q := if settling x.nout k then settleQ q else q
  let sx := re.2 || im.2
  ({ chan := c, ideal := idealPhasor ch k f ys, x := (re.1, im.1), q := if sx then saturQ q else q, rms := r.1.toNat,
     rmsQ := if r.2 then saturQ q else q, tr := tr, fo := ch.fo, k := k }, b2n sx + b2n r.2)

/-- (A + √3 · d) / 6 rounded half to even, and narrowed (R306, R316). -/
def sixth (a d : Int) : Int × Bool :=
  let root : Int := isqrt (3 * d.natAbs ^ 2)
  satInt 32 (if d = 0 then convQuot a 6 else (a + (if 0 < d then root else -root - 1) + 3) / 6)

/-- The sequence components of a triplet, positive, negative and zero, each with whether it saturated (R316). -/
def sequenceOf (a b c : Int × Int) : List ((Int × Int) × Bool) :=
  let re := 2 * a.1 - b.1 - c.1
  let im := 2 * a.2 - b.2 - c.2
  let both (x y : Int × Bool) : (Int × Int) × Bool := ((x.1, y.1), x.2 || y.2)
  [both (sixth re (c.2 - b.2)) (sixth im (b.1 - c.1)), both (sixth re (b.2 - c.2)) (sixth im (c.1 - b.1)),
   both (satInt 32 (convQuot (a.1 + b.1 + c.1) 3)) (satInt 32 (convQuot (a.2 + b.2 + c.2) 3))]

/-- The phasors of an active triplet, which ERR does not stop (R316). -/
def tripPhasors (ps : List Phasor) (t : Triplet) : Option (Phasor × Phasor × Phasor) :=
  let find (c : Nat) := ps.find? fun p => p.chan == c
  if !t.valid then none
  else match find t.a, find t.b, find t.c with
    | some a, some b, some c => some (a, b, c)
    | _, _, _ => none

/-- The lane result of a triplet's component. -/
def componentLane (t i : Nat) : LaneResult := .component (Fin.ofNat 8192 t) (Fin.ofNat 3 i)

/-- The components of a triplet in a set, positive, negative and zero: each with its quality and whether it saturated (R306, R307, R310,
R316). -/
def components (differ : List LaneResult) (t : Nat) (a b c : Phasor) : List ((Int × Int) × Nat × Bool) :=
  let q := combineQ [a.q, b.q, c.q]
  ((sequenceOf a.x b.x c.x).zip (List.range 3)).map fun (r : ((Int × Int) × Bool) × Nat) =>
    (r.1.1, lanesQ differ (componentLane t r.2) (if r.1.2 then saturQ q else q), r.1.2)

/-- A triplet's points of a set (R316, R319). -/
def tripPoints (differ : List LaneResult) (ps : List Phasor) (s : State) (e : Nat × Triplet) : State :=
  match tripPhasors ps e.2 with
  | none => s
  | some (a, b, c) =>
    ((components differ e.1 a b c).zip (List.range 3)).foldl (fun s (r : ((Int × Int) × Nat × Bool) × Nat) =>
      let s := lanesCheck s differ (componentLane e.1 r.2) Fld.LTN_CMPERR_COUNT e.1
      let s := if r.1.2.2 then cinc s Fld.LTN_SAT_COUNT else s
      writePoint s ltnMid (131072 + 4 * e.1 + r.2) (complexValue r.1.1) r.1.2.1 a.tr) s

/-- A direction of the positive-sequence phasor, of which only the argument counts: six times it, in 2^-96 (R316). -/
def positiveOf (a b c : Int × Int) : Int × Int :=
  ((2 * a.1 - b.1 - c.1) * 2 ^ 64 + root3 * (c.2 - b.2), (2 * a.2 - b.2 - c.2) * 2 ^ 64 + root3 * (b.1 - c.1))

/-- θ, quality, reference instant, f_o and K of a group's reference in a set (R314). -/
def referenceOf (s : State) (differ : List LaneResult) (g : Nat) (ps : List Phasor) : Option (Nat × Nat × Nat × Nat × Nat) :=
  let ref := fget s (Fld.LTN_G_FREF_REF (g / 128) (g % 128))
  if fbit s (Fld.LTN_G_CTRL_FMODE (g / 128) (g % 128)) then
    match (tget s.cas.trips ref).bind (tripPhasors ps) with
    | some (a, b, c) => (components differ ref a b c).head?.map fun (x : (Int × Int) × Nat × Bool) =>
        (phaseOf (positiveOf a.ideal b.ideal c.ideal), x.2.1, a.tr, a.fo, a.k)
    | none => none
  else (ps.find? fun p => p.chan == ref).map fun (p : Phasor) => (phaseOf p.ideal, p.q, p.tr, p.fo, p.k)

/-- A group's state replaced. -/
def setLtn (s : State) (g : Nat) (x : LtnGroup) : State := { s with cas := { s.cas with groups := tset s.cas.groups g x } }

/-- Outputs under a spacing after one more: 4096 at most, and where there was none before (R313). -/
def noutNext (last : Option (Nat × Nat)) (nout : Nat) (mark : Nat × Nat) : Nat :=
  match last with
  | none => 4096
  | some m => if m = mark then min (nout + 1) 4096 else 1

/-- The quality of a group's f_g or ρ over its window, questionable where it holds its last value (R307, R314). -/
def windowQ (held : Bool) (qs : List Nat) : Nat := if held then combineQ qs / 4 * 4 + 3 else combineQ qs

/-- f_g of a mean, within 0.5 mHz of it (R314, R317; log 48). -/
def formedFrequency (raws : List Nat) : Nat :=
  (within (convQuot raws.sum raws.length) 2147483 (Config.frequencyError raws)).toNat

/-- ρ from f_g at two outputs `n` apart, within 0.02 Hz/s (R314, R317; log 48). -/
def formedRate (now before n fo : Nat) : Int :=
  within (convQuot (((now : Int) - before) * fo) n) 85899345 (Config.rateError now before n)

/-- The frequency and rate of a group at an output of its reference, θ of it, its quality, reference instant, f_o and K (R307, R310, R314, R315,
R319). -/
def frequencyOf (s : State) (differ : List LaneResult) (g : Nat) (mark : Nat × Nat) (θ q tr fo k : Nat) : State :=
  let y := ltnGroup s g
  let field (f : Nat → Nat → FieldRef) : Nat := fget s (f (g / 128) (g % 128))
  let key := field Fld.LTN_G_CTRL_FMODE * 2 ^ 14 + field Fld.LTN_G_FREF_REF
  let raw : Option (Nat × Nat) := match y.prev with
    | some (k', t, q') => if k' = key ∧ q' % 4 = 0 ∧ q % 4 = 0 then some ((θ + 2 ^ 32 - t) % 2 ^ 32 * fo, combineQ [q, q']) else none
    | none => none
  let raws := (raw.toList ++ y.raws).take 63
  let last := raws.take (field Fld.LTN_G_FREF_FAVG)
  let mean := if raw.isSome then (convQuot (last.map (·.1)).sum last.length).toNat else (y.past.head?.map (·.1)).getD (groupFnom s g)
  let fq := windowQ raw.isNone (q :: last.map (·.2))
  let past := ((mean, fq) :: y.past).take 256
  let ravg := field Fld.LTN_G_FREF_RAVG
  let before := if raw.isSome then past[ravg]? else none
  let rq := windowQ before.isNone (q :: (past.take (ravg + 1)).map (·.2))
  let nout := noutNext y.mark y.nout mark
  let settle := settling nout k
  let s := if raw.isSome then s else cinc s Fld.LTN_FHOLD_COUNT
  let s := setLtn s g { y with
    f := if raw.isSome then some (formedFrequency (last.map (·.1))) else y.f,
    rho := match before with
      | some b => formedRate mean b.1 ravg fo
      | none => y.rho,
    raws := raws, past := past, prev := some (key, θ, q), mark := some mark, nout := nout, settle := settle }
  let marked (r : LaneResult) (q : Nat) : Nat := lanesQ differ r (if settle then settleQ q else q)
  let rf := LaneResult.frequency (Fin.ofNat 256 g)
  let rr := LaneResult.rate (Fin.ofNat 256 g)
  let s := lanesCheck (lanesCheck s differ rf Fld.LTN_CMPERR_COUNT g) differ rr Fld.LTN_CMPERR_COUNT g
  let s := writePoint s ltnMid (163840 + 4 * g) (convRound 32 (freqInForce s g * 1000000)).toNat
    (marked rf (if outRange s g then setBit (questionable fq) 3 else fq)) tr
  writePoint s ltnMid (163840 + 4 * g + 1) (ofSigned 64 (convRound 32 ((ltnGroup s g).rho * 1000000))) (marked rr rq) tr

/-- A reference update for the angle tracker (R318). -/
def trackerUpdate (s : State) (g : Nat) (p : Phasor) : State :=
  trackerReceive s { phase := (phaseOf p.x + 2 ^ 30) % 2 ^ 32, freq := groupFreq s g, rho := (ltnGroup s g).rho, rms := p.rms,
                     valid := p.q % 4 == 0 && !bit p.q 24, tr := p.tr }

/-! ### A released set (R296, R300, R321) -/

/-- The samples of a set enter the stages of the processed channels. -/
def feedSet (s : State) (differ : List LaneResult) (r : RelSet) (ph : Nat) : State :=
  r.streams.foldl (fun s x =>
    let cs := enabledSlots s
    x.samples.foldl (fun s (smp : Nat × List (Int × Nat)) =>
      (smp.2.zip (List.range smp.2.length)).foldl (fun s (e : (Int × Nat) × Nat) =>
        let c := x.chbase + e.2
        if cs.contains c then match processed s c with
          | some ch => if ch.stream.group = r.group then feedSample differ ch ph r.hz r.tick smp.1 e.1 s c else s
          | none => s
        else s) s) s) s

/-- The state of a channel of which an output is formed: the output joins its histories (R309, R312, R313). -/
def pushOutput (s : State) (c : Nat) (y : Int × Nat) (mark : Nat × Nat) : State :=
  let x := chanOf s c
  setChan s c { x with ma := (y :: x.ma).take 4097, out := (y :: x.out).take 256, mark := some mark,
                       nout := noutNext x.mark x.nout mark }

/-- A channel's Cascade points of a set (R300, R309, R310, R313, R319): whether an output was formed and is invalid, and its instant. The history
takes the output without the SETTLE of R313, which marks results and no signal. -/
def casChannel (differ : List LaneResult) (r : RelSet) (ph f : Nat) (s : State) (c : Nat) : State × Option (Bool × Nat) :=
  match processed s c with
  | none => (s, none)
  | some ch =>
    let tout := ch.m * r.hz / ch.fs
    if ch.stream.group ≠ r.group ∨ tout = 0 ∨ ch.m * r.hz % ch.fs ≠ 0 ∨ (r.tick + 720 - ph + 1) % tout ≠ 0 then (s, none)
    else match decimated s { ch with tout := tout } c r.tick with
      | none => (s, none)
      | some (v, q0, sat, idx) =>
        let u0 := idx * secUnit / ch.fs
        let s := if sat then cinc s Fld.CAS_SAT_COUNT else s
        let bad := 0 < ch.resps.length && (stagesDiffer differ c).getD (ch.resps.length - 1) false
        let q := if bad then failQ q0 else q0
        let s := if bad then lanesFault s Fld.CAS_CMPERR_COUNT c else s
        let s := pushOutput s c (v, q) (ph, r.hz)
        let marked (k q : Nat) : Nat := if settling (chanOf s c).nout k then settleQ q else q
        let s := writePoint s casMid (8 * c) (ofSigned 64 v) (marked (phasorK s ch r.group f) q) u0
        let k := maK s ch f
        let a := movingAverage k (chanOf s c).ma
        let lane := LaneResult.average (Fin.ofNat 16384 c)
        let s := if fbit s (Fld.CAS_PRF_MA_EN ch.prof) then
            writePoint (lanesCheck (if a.2.2 then cinc s Fld.CAS_SAT_COUNT else s) differ lane Fld.CAS_CMPERR_COUNT c) casMid (8 * c + 1)
              (ofSigned 64 a.1) (lanesQ differ lane (marked k a.2.1)) u0
          else s
        (s, some (q % 4 == 1, u0))

/-- A channel's phasor and RMS points of a set (R310, R311, R319). -/
def ltnChannel (differ : List LaneResult) (g f : Nat) (s : State) (c u0 : Nat) : State × Option Phasor :=
  match processed s c with
  | none => (s, none)
  | some ch =>
    if !ch.ltn then (s, none)
    else
      let r := phasorOf s ch c g f (u0 - chainDelay ch f)
      let x := LaneResult.phasor (Fin.ofNat 16384 c)
      let y := LaneResult.rms (Fin.ofNat 16384 c)
      let p := { r.1 with q := lanesQ differ x r.1.q, rmsQ := lanesQ differ y r.1.rmsQ }
      let s := cadd s Fld.LTN_SAT_COUNT r.2
      let s := lanesCheck (lanesCheck s differ x Fld.LTN_CMPERR_COUNT c) differ y Fld.LTN_CMPERR_COUNT c
      let s := writePoint s ltnMid (8 * c + 2) (complexValue p.x) p.q p.tr
      (writePoint s ltnMid (8 * c + 3) p.rms p.rmsQ p.tr, some p)

/-- The MEAS event of a set (R321, R332). -/
def measEvent (s : State) (r : RelSet) (outs : List (Nat × Bool × Nat)) : State :=
  let g := r.group
  let open_ := enabled s 0x700000 && enabled s (0x701000 + g / 128 * 0x1000) && fbit s (Fld.LTN_G_CTRL_EVEN (g / 128) (g % 128))
  if !open_ || outs.isEmpty then s
  else
    let invalid := (outs.filter fun o => o.2.1).length
    let e : Ev := { type := 4, queue := fget s (Fld.LTN_G_CTRL_EVQ (g / 128) (g % 128)), flow := g, src := ltnMid,
                    ns := tickNs r.tick r.hz, w5 := g, w6 := r.tick % 2 ^ 32, w7 := outs.length * 2 ^ 16 + invalid }
    postCounted s .meas g e Fld.LTN_EVHOLD_COUNT

/-- The Lantern's part of a set (R311–R318, R321). -/
def ltnSet (s : State) (differ : List LaneResult) (r : RelSet) (ph f : Nat) (outs : List (Nat × Bool × Nat)) : State :=
  let g := r.group
  let acc := outs.foldl (fun (a : State × List Phasor) o =>
    onPair (ltnChannel differ g f a.1 o.1 o.2.2) fun s p => (s, a.2 ++ p.toList)) (s, [])
  let ps := acc.2
  let s := s.cas.trips.foldl (tripPoints differ ps) acc.1
  let s := match referenceOf s differ g ps with
    | some (θ, q, tr, fo, k) => frequencyOf s differ g (ph, r.hz) θ q tr fo k
    | none => s
  let s := if ps.isEmpty then s else writePoint s ltnMid (163840 + 4 * g + 2) r.tick 0 (instantOf 0 r.tick r.hz)
  match ps.find? fun p => p.chan == fget s Fld.SDL_ANG_REF_CH with
  | some p => trackerUpdate s g p
  | none => s

/-- The Cascade and the Lantern take a set at its release (R296–R322). -/
def casSet (s : State) (differ : List LaneResult) (r : RelSet) : State :=
  if !enabled s 0x600000 then s
  else
    let g := r.group
    let ph := phaseFor s g r.tick r.hz
    let f := freqInForce s g
    let s := feedSet s differ r ph
    let acc := (enabledSlots s).foldl (fun (a : State × List (Nat × Bool × Nat)) c =>
      onPair (casChannel differ r ph f a.1 c) fun s o => (s, a.2 ++ (o.map fun o => (c, o.1, o.2)).toList)) (s, [])
    let s := if ltnOn acc.1 g then ltnSet acc.1 differ r ph f acc.2 else acc.1
    measEvent s r acc.2

/-- The oldest set that waits for the Cascade is taken; `differ` names its results of which the lanes differ (R310). -/
def casTake (s : State) (differ : List LaneResult) : State :=
  match s.svi.toCas with
  | [] => s
  | r :: rs => casSet { s with svi := { s.svi with toCas := rs } } differ r

/-! ### Sync (R301, R302) -/

/-- The groups that CAS_SYNCMSK0 to CAS_SYNCMSK7 select. -/
def syncGroups (s : State) : List Nat :=
  (List.range 8).flatMap fun k => (bitsOf (fget s (Fld.CAS_SYNCMSK_MASK k)) 32).map (32 * k + ·)

/-- The first tick to come whose fabric edge lies at least 1 µs away (R301). -/
def firstSyncTick (s : State) : Nat :=
  s.sdl.next + ((List.range 8).find? fun d => decide (1000 ≤ clocksToEdge s d)).getD 8

/-- A sync request is taken (R301). -/
def syncTake (s : State) (go out : Bool) : State :=
  let ns := if s.sdl.gen = .running then some (firstSyncTick s + b2n go) else none
  { s with cas := { s.cas with syncs := s.cas.syncs ++ [⟨go, go && out, syncGroups s, s.sdl.fab, ns⟩] } }

/-- A rising edge on SYNC_IN (R301). -/
def syncIn (s : State) : State := if fbit s Fld.CAS_SYNCPIN_PINEN then syncTake s false false else s

/-- What the Sundial edge of tick `n` does to the sync requests: N_s of one taken while no tick was produced, and the rise of SYNC_OUT
(R301). -/
def casSundialEdge (s : State) (n : Nat) : State :=
  let syncs := s.cas.syncs.map fun q =>
    if q.ns.isNone ∧ q.at_ + 1000 ≤ s.sdl.fab + 34 then { q with ns := some (n + b2n q.go) } else q
  let rise := syncs.any fun q => q.out && q.ns == some (n + 1)
  let syncs := syncs.map fun q => if q.ns = some (n + 1) then { q with out := false } else q
  { s with cas := { s.cas with syncs := syncs, syncOut := s.cas.syncOut || rise, syncOutAt := if rise then s.sdl.raw else s.cas.syncOutAt } }

/-- The SYNC_OUT pulse ends 1 µs after its rise (R301). -/
def syncOutFall (s : State) : State :=
  if s.cas.syncOut && decide (s.cas.syncOutAt + 1000 ≤ s.sdl.raw) then { s with cas := { s.cas with syncOut := false } } else s

/-- A PHASE change by a sync, which a strobe or commit of the same clock overrides (R64, R302). -/
def syncChanges (s : State) (v g : Nat) : Bool :=
  let f := Fld.CAS_G_PHASE_PHASE g
  fget s f != v && !(s.reg.applClk == s.sdl.fab && s.reg.applied.contains f.addr)

/-- PHASE of a group set by a sync at the fabric edge of tick `n` at base rate `hz` (R301, R302). A set waits 2 ms for its release at most,
so that no change but the last 64 can lie after it. -/
def syncGroup (n hz v : Nat) (s : State) (g : Nat) : State :=
  if !syncChanges s v g then s
  else
    let past := tat s.cas.oldPhase g [] ++ [(n, hz, fget s (Fld.CAS_G_PHASE_PHASE g))]
    let s := fset s (Fld.CAS_G_PHASE_PHASE g) v
    { s with cas := { s.cas with oldPhase := tset s.cas.oldPhase g (past.drop (past.length - 64)) } }

/-- A sync acts on the groups that were selected when it was taken, and is counted where it changes a PHASE (R301, R302). -/
def syncAct (n hz : Nat) (s : State) (q : SyncReq) : State :=
  let v := q.ns.getD 0 % 720
  q.groups.foldl (syncGroup n hz v) (if q.groups.any (syncChanges s v) then cinc s Fld.CAS_SYNCEVT_COUNT else s)

/-- The sync requests due at the fabric edge of tick `n`. -/
def syncsDue (s : State) (n : Nat) : List SyncReq := s.cas.syncs.filter fun q => match q.ns with
  | some k => decide (k ≤ n)
  | none => false

/-- The syncs due at the fabric edge of tick `n` act one after the other, after the strobes and commits of the same clock, whose values they
leave (R64, R301, R302). -/
def syncEdge (s : State) (n : Nat) : State :=
  (syncsDue s n).foldl (syncAct n (baseHz s)) { s with cas := { s.cas with syncs := s.cas.syncs.filter fun q => !(syncsDue s n).contains q } }

/-! ### Triplets, pages and mailboxes -/

/-- The mailbox LTN_TRIP. -/
def ltnTripMbx : Nat := 0x700080

/-- The triplet change that waits takes effect (R328). -/
def tripEdge (s : State) : State :=
  match s.cas.trip with
  | none => s
  | some (t, x) =>
    let y := match x with
      | some y => y
      | none => { tat s.cas.trips t ⟨0, 0, 0, false⟩ with valid := false }
    mbxEndIfBusy { s with cas := { s.cas with trip := none, trips := tset s.cas.trips t y } } ltnTripMbx 0

/-- A triplet change waits for the next fabric edge, or acts at once while no edge will come (R328; log 48). -/
def tripTake (s : State) (t : Nat) (x : Option Triplet) : State :=
  let s := { s with cas := { s.cas with trip := some (t, x) } }
  if genActive s then s else tripEdge s

/-- A LTN_TRIP request (R328). -/
def ltnMbx (r : LtnReg) (a : Nat) (s : State) : State :=
  let b := mbxAt s a
  let t := b.arg % 2 ^ 13
  match r, b.op, b.wr with
  | .LTN_TRIP, 0x01, true => tripTake s t (some ⟨b.w 0 % 2 ^ 14, b.w 1 % 2 ^ 14, b.w 2 % 2 ^ 14, true⟩)
  | .LTN_TRIP, 0x02, false =>
    let x := tat s.cas.trips t ⟨0, 0, 0, false⟩
    mbxAnswer s a 0 [w32 x.a, w32 x.b, w32 x.c, w32 (bitAt x.valid 31 + b2n (tripErr s x))]
  | .LTN_TRIP, 0x03, true => tripTake s t none
  | _, _, _ => mbxEnd s a 0xFF

/-- Group delay at DC of a response in 2^-16 input sample (R298, R324): (taps − 1) / 2 for the linear-phase form, Σ k · c_k for the other,
whose coefficients sum to 2^15 (DEDUCED, log 48). -/
def dcDelay (form r : Nat) : Nat :=
  if form = 0 then (romTaps r - 1) * 2 ^ 15
  else ofSigned 32 (2 * ((List.range (romTaps r)).map fun (k : Nat) => (k : Int) * coefOf form r k).sum)

/-- A CAS_RESP request (R324). -/
def casMbx (r : CasReg) (a : Nat) (s : State) : State :=
  let b := mbxAt s a
  let h := b.arg % 32
  let form := bits b.arg 5 5
  let part := bits b.arg 7 6
  let c (i : Nat) : Nat := if i < romTaps h then ofSigned 16 (coefOf form h i) else 0
  match r with
  | .CAS_RESP =>
    if b.wr || decide (23 < h) then mbxEnd s a 0xFF
    else match b.op with
      | 0x01 => mbxAnswer s a 0 ((List.range 12).map fun i => w32 (c (24 * part + 2 * i) + 2 ^ 16 * c (24 * part + 2 * i + 1)))
      | 0x02 => mbxAnswer s a 0 ([romTaps h, romD h, dcDelay form h, (romRow h).2.2].map w32)
      | _ => mbxEnd s a 0xFF
  | _ => s

/-- A `wsc` write of a CAS register (R301). -/
def casWsc (r : CasReg) (v : Nat) (s : State) : State :=
  match r with
  | .CAS_SYNC => if bit v 0 then syncTake s true (bit v 1) else s
  | _ => s

/-- What the Cascade and the Lantern do after settings have been applied: channels that stop being processed lose their histories, groups
for which the Lantern stops running their frequency, and an applied PHASE is in force for every later release (R296, R301, R308, R315). -/
def casApplied (old s : State) : State :=
  let s := casDrop s
  { s with cas := { s.cas with
      oldPhase := s.cas.oldPhase.filter (fun e => fget old (Fld.CAS_G_PHASE_PHASE e.1) == fget s (Fld.CAS_G_PHASE_PHASE e.1)),
      groups := s.cas.groups.filter fun e => ltnOn s e.1 } }

/-- A soft reset of CAS page `p` (R323). -/
def casSrst (p : Nat) (s : State) : State :=
  if p = 0 then { s with cas := { s.cas with chans := s.cas.chans.map fun e => (e.1, { e.2 with hist := [[], [], []], ma := [] }) } } else s

/-- A held MEAS event of a group is dropped. -/
def dropMeas (s : State) (g : Nat) : State := { s with bnd := { s.bnd with held := tdel s.bnd.held (Holder.meas.key g) } }

/-- A soft reset of LTN page `p` (R323). -/
def ltnSrst (p : Nat) (s : State) : State :=
  if p = 0 then
    let s := { s with cas := { s.cas with groups := [], chans := s.cas.chans.map fun e => (e.1, { e.2 with out := [] }) } }
    (List.range 256).foldl dropMeas s
  else
    let s := { s with cas := { s.cas with groups := s.cas.groups.filter fun e => e.1 / 128 != p - 1 } }
    ((List.range 128).map ((p - 1) * 128 + ·)).foldl dropMeas s

end Sys2Proof.Machine
end

