-- ==== Sys2Proof/Machine/Orangery.lean ====
section
/-! DEFINITION. The Orangery: metering intervals, corrections, accumulators, saves, pulses, seal, audit log and requests (R466–R506). -/

namespace Sys2Proof.Machine

/-- The Orangery replaced. -/
def setOrn (s : State) (o : Orangery) : State := { s with orn := o }

/-- ORN_REQ, ORN_RES0 and ORN_RES1. -/
def ornReqMbx : Nat := 0xB00080

/-- The metering interval in progress, counted in tenths of a second of PTP time (R474). The tap and the mailbox link carry no time (R13), and the
source does not say where the Orangery has it from: the model takes the Sundial's (DESIGN CHOICE, log 49). -/
def intervalNow (s : State) : Nat := timeNow s * 10 / secUnit

/-- The parameters in force for an interval (R476). -/
def paramsFor (s : State) (k : Nat) : OrnParams :=
  match s.orn.params.find? fun e => decide (e.1 ≤ k) with
  | some e => e.2
  | none => {}

/-! ### The audit log (R497, R498) -/

/-- A record: D1, D2, the second of application, OLD and NEW. -/
def auditAdd (s : State) (d1 d2 sec old new : Nat) : State :=
  let n := (s.orn.mevt + 1) % 2 ^ 32
  let w (v i : Nat) : Nat := v / 2 ^ (32 * i) % 2 ^ 32
  setOrn s { s.orn with mevt := n, audit := s.orn.audit ++ [[n, d1, d2, sec % 2 ^ 32, w old 0, w old 1, w new 0, w new 1]] }

/-- The records of a request do not fit, with one held back (R498). -/
def logFull (s : State) (n : Nat) : Bool := decide (auditFree s < n + 1)

/-- A closing of the seal writes its record (R497). -/
def sealClosed (s : State) (kind : Nat) : State :=
  auditAdd (setOrn s { s.orn with openAt := none }) (kind * 2 ^ 24) 0 (secOf (timeNow s)) 0 0

/-! ### Saves and loss records (R484–R489) -/

/-- The newest save. -/
def newestSave (s : State) : Option OrnSave :=
  match s.orn.save0, s.orn.save1 with
  | some a, some b => if a.seq < b.seq then some b else some a
  | some a, none => some a
  | none, b => b

/-- The interval after the last one computed. -/
def lastInterval (s : State) : Nat := s.orn.next.foldl (fun a e => max a e.2) s.orn.loaded

/-- A save: the copy not written last takes it, and the peaks start anew (R484, R485). -/
def ornSave (s : State) (clean : Bool) : State :=
  let o := s.orn
  let x : OrnSave := { seq := o.saveSeq + 1, runs := o.runs, until_ := lastInterval s, clean := clean }
  let runs : Tbl CircuitRun := o.runs.map fun (e : Nat × CircuitRun) => (e.1, { e.2 with peak := [0, 0, 0] })
  let o := { o with saveSeq := x.seq, runs := runs }
  setOrn s (if x.seq % 2 = 1 then { o with save0 := some x } else { o with save1 := some x })

/-- A loss record is written: the log holds the last 8 (R488). -/
def lossAdd (s : State) (r : LossRec) : State :=
  let n := (s.orn.lossCnt + 1) % 2 ^ 32
  setOrn s { s.orn with lossCnt := n, losses := ({ r with count := n } :: s.orn.losses).take 8 }

/-- Bounds from peaks over a number of intervals, rounded up (R486, R487; rounding DESIGN CHOICE, log 49). -/
def boundsOf (peaks : List Nat) (tenths : Nat) : List Nat := peaks.map fun x => (x * tenths + 35999) / 36000

/-- The POWER record after the first interval computed since a start (R486, R489). -/
def powerRecord (s : State) (k : Nat) : State :=
  if !s.orn.powerDue then s
  else
    let sp := (paramsFor s k).sp
    lossAdd (setOrn s { s.orn with powerDue := false })
      { kind := 1, cause := s.orn.cause, group := 0, last := s.orn.loaded, next := k, sp := sp, count := 0,
        bounds := s.orn.loadedPeaks.map fun e => (e.1, boundsOf e.2 sp) }

/-- Group of a circuit: that of its first element's voltage slot (DEDUCED, log 49). -/
def circuitGroup (s : State) (c : Circuit) : Option Nat :=
  match c.elems with
  | (_, v) :: _ => (tget s.orn.slots v).map fun (e : Nat × Nat × Int) => e.1
  | [] => none

/-- The circuits of a group that are not off. -/
def groupCircuits (s : State) (p : OrnParams) (g : Nat) : Tbl Circuit :=
  p.circuits.filter fun e => e.2.conn != 0 && circuitGroup s e.2 == some g

/-- The GAP record when a group resumes at interval `k` after its last interval ended at `from_` (R487). -/
def gapRecord (s : State) (g from_ k : Nat) : State :=
  let p := paramsFor s k
  let peaks (c : Nat) : List Nat := match newestSave s with
    | some x => (tat x.runs c {}).peak
    | none => [0, 0, 0]
  lossAdd s { kind := 2, cause := 0, group := g, last := from_, next := k, sp := p.sp, count := 0,
              bounds := (groupCircuits s p g).map fun e => (e.1, boundsOf (peaks e.1) (k - from_)) }

/-! ### One element over one interval (R473, R475) -/

/-- A sample on the tap: value and quality. -/
def tapValue (sets : List RelSet) (slot idx : Nat) : Option (Int × Nat) :=
  sets.findSome? fun r => r.streams.findSome? fun x =>
    if x.chbase ≤ slot then ((x.samples.find? fun (e : Nat × List (Int × Nat)) => e.1 == idx).bind fun e => e.2[slot - x.chbase]?) else none

/-- How a sample is treated (R473): the value used, and its class: 0 used, 1 INVAL, 2 SUBST, 3 GAP. -/
def treat (prev : Int) : Option (Int × Nat) → Int × Nat
  | none => (prev, 3)
  | some (v, q) => if q % 4 = 1 ∨ bit q 11 = true then (0, 1) else if bit q 31 = true ∨ q % 4 ≠ 0 then (v, 2) else (v, 0)

/-- The samples of a slot over `n` indexes from `a`, with the value before them. -/
def slotSamples (sets : List RelSet) (slot a n : Nat) (prev : Int) : List (Int × Nat) :=
  ((List.range n).foldl (fun (acc : List (Int × Nat) × Int) i =>
    let x := treat acc.2 (tapValue sets slot (a + i))
    (x :: acc.1, x.1)) ([], prev)).1.reverse

/-- What an element gives in an interval: Σvi, Σv², Σi², Q in 2^-32 LSB product, and the counts of the three classes. -/
structure ElemSums where
  vi : Int
  vv : Nat
  ii : Nat
  q : Int
  n : Nat
  counts : List Nat
deriving DecidableEq, Repr

/-- The class of a sample of an element: the first of INVAL, SUBST and GAP on either channel (R473). -/
def pairClass (a b : Nat) : Nat :=
  if a = 1 ∨ b = 1 then 1 else if a = 2 ∨ b = 2 then 2 else if a = 3 ∨ b = 3 then 3 else 0

/-- The samples of a stream rate for one of its reactive rate: f_s / f_q (R475). -/
def reactiveStep (fs : Nat) : Nat := match fs with | 12800 => 2 | 14400 => 3 | 96000 => 20 | _ => 1

/-- The value of a list at an index on either side of 0; 0 outside it. -/
def atInt (xs : List Int) (i : Int) : Int := if i < 0 then 0 else xs.getD i.toNat 0

/-- The value at an index after decimation to the reactive rate, in 2^-30 LSB (R475). -/
def decimatedAt (fs : Nat) (xs : List Int) (i : Int) : Int :=
  if reactiveStep fs = 1 then atInt xs i * 2 ^ 30
  else
    let taps := Config.meterTaps fs
    taps.getD 0 0 * atInt xs i +
      ((taps.zip (List.range taps.length)).drop 1).foldl (fun a (c : Int × Nat) => a + c.1 * (atInt xs (i + c.2) + atInt xs (i - c.2))) 0

/-- The 255-tap antisymmetric transformer around a decimated value, in 2^-60 LSB (R475). -/
def hilbertAt (fq : Nat) (ys : List Int) (i : Int) : Int :=
  (((Config.hilbertTaps fq).take 127).zip (List.range 127)).foldl (fun a (c : Int × Nat) =>
    a + c.1 * (atInt ys (i - (c.2 + 1 : Nat)) - atInt ys (i + (c.2 + 1 : Nat)))) 0

/-- Q_e in 2^-32 of the product of one voltage and one current LSB (R475), of the samples of a stream rate, of which that at `o` is the first of the
interval. A product is that of a current value and the transformed voltage 127 values later, whose middle tap falls on the same instant. -/
def reactiveOf (fs : Nat) (vs is : List Int) (o : Nat) : Int :=
  let d := reactiveStep fs
  let nq := fs / 10 / d
  let at_ (t : Int) : Int := o + t * d
  let ys := (List.range (nq + 254)).map fun (t : Nat) => decimatedAt fs vs (at_ ((t : Int) - 127))
  let sum := (List.range nq).foldl (fun (a : Int) (t : Nat) => a + hilbertAt (fs / d) ys (t + 127 : Nat) * decimatedAt fs is (at_ t)) 0
  sum / (nq * 2 ^ 58 : Nat)

/-- The sums of an element over interval `k`; none where its circuit shows CFGERR (R472). -/
def elemSums (s : State) (g k : Nat) (rev : Bool) (e : Nat × Nat) : Option ElemSums :=
  match tget s.orn.slots e.1, tget s.orn.slots e.2 with
  | some (gi, fi, pi), some (gv, fv, pv) =>
    if gi ≠ gv ∨ fi ≠ fv then none
    else
      let n := fv / 10
      let m := fv * 32 / 1000
      let sets := s.orn.sets.filter fun r => r.group == gv
      let a := k * n
      let vs := slotSamples sets e.2 (a - m) (n + 2 * m) pv
      let is := (slotSamples sets e.1 (a - m) (n + 2 * m) pi).map fun (x : Int × Nat) => (if rev then -x.1 else x.1, x.2)
      let v := (vs.drop (a - (a - m))).take n
      let i := (is.drop (a - (a - m))).take n
      let cs := (v.zip i).map fun (x : (Int × Nat) × (Int × Nat)) => pairClass x.1.2 x.2.2
      let cnt (c : Nat) : Nat := (cs.filter fun x => x == c).length
      if gv ≠ g ∧ sets.isEmpty then none
      else some { vi := ((v.zip i).map fun (x : (Int × Nat) × (Int × Nat)) => x.1.1 * x.2.1).sum,
                  vv := (v.map fun (x : Int × Nat) => x.1.natAbs ^ 2).sum, ii := (i.map fun (x : Int × Nat) => x.1.natAbs ^ 2).sum,
                  q := reactiveOf fv (vs.map fun (x : Int × Nat) => x.1) (is.map fun (x : Int × Nat) => x.1) (a - (a - m)), n := n,
                  counts := [cnt 1, cnt 2, cnt 3] }
  | _, _ => none

/-! ### Corrections (R478, R479) -/

/-- GAIN and PHASE of a slot. -/
def corrOf (p : OrnParams) (slot : Nat) : Nat × Int := tat p.corr slot (2 ^ 30, 0)

/-- The no-load test: the corrected I_e lies below 0.0008 × In (R478, R483). -/
def noLoad (x : ElemSums) (gI amps : Nat) : Bool := decide (x.ii * gI ^ 2 * 10 ^ 8 < 64 * amps ^ 2 * x.n * 2 ^ 60)

/-- P_e, Q_e and V_e × I_e of an element after steps 1 and 3, in 2^-32 mW (R478). -/
def elemPower (p : OrnParams) (e : Nat × Nat) (x : ElemSums) : Int × Int × Int :=
  let cI := corrOf p e.1
  let cV := corrOf p e.2
  let g : Nat := cV.1 * cI.1
  let pe : Int := x.vi * g * 2 ^ 32 / (100 * x.n * 2 ^ 60 : Nat)
  let qe : Int := x.q * g / (100 * 2 ^ 60 : Nat)
  let sa : Int := sqrtBits (x.vv * x.ii * g ^ 2 * 2 ^ 64 / (100 * x.n * 2 ^ 60) ^ 2) 100 0
  let θ := cI.2 - cV.2
  if θ = 0 then (pe, qe, sa)
  else
    let c := cosSin (θ * 2 ^ 64 / 360000000)
    ((pe * c.1 + qe * c.2) / 2 ^ 80, (qe * c.1 - pe * c.2) / 2 ^ 80, sa)

/-- P′, Q′, S_A′ and S_V′ of a circuit in 2^-32 mW from the sums of its remaining elements (R478, R503). -/
def circuitPower (c k : Nat) (q : CorrQ) (sums : List (Int × Int × Int)) : List Int :=
  let p : Int := (sums.map fun (x : Int × Int × Int) => x.1).sum
  let r : Int := (sums.map fun (x : Int × Int × Int) => x.2.1).sum
  let sa : Int := (sums.map fun (x : Int × Int × Int) => x.2.2).sum
  let p' := p * q.gP / 2 ^ 30 + q.oP * 2 ^ 32
  let r' := r * q.gQ / 2 ^ 30 + q.oQ * 2 ^ 32
  let sa' := max 0 (sa * q.gS / 2 ^ 30 + q.oS * 2 ^ 32)
  let sv' := max 0 ((sqrtBits (p'.natAbs ^ 2 + r'.natAbs ^ 2) 110 0 : Int) * q.gS / 2 ^ 30 + q.oS * 2 ^ 32)
  let near (x : Int) (b : Int) (i : Nat) : Int := within x (b.natAbs / 10000) (Config.meterError c k i)
  [near p' p' 0, near r' sa' 1, near sa' sa' 2, near sv' sv' 3]

/-! ### Accumulation and pulses (R480, R481, R490, R491) -/

/-- An accumulator after a quantity in 2^-32 mW has been added over one interval. -/
def accumAdd (a : Accum) (x : Nat) : Accum :=
  let r := a.res + x
  let v := a.value + r / (36000 * 2 ^ 32)
  { value := v % 2 ^ 64, wraps := (a.wraps + v / 2 ^ 64) % 2 ^ 16, res := r % (36000 * 2 ^ 32) }

/-- The quantity that each accumulator takes (R480). -/
def quantities (xs : List Int) : List Nat :=
  let p := xs.getD 0 0
  let q := xs.getD 1 0
  let pos (c : Bool) (x : Int) : Nat := if c then x.natAbs else 0
  [pos (decide (0 ≤ p)) p, pos (decide (p < 0)) p, pos (decide (0 < q) && decide (0 ≤ p)) q, pos (decide (0 < q) && decide (p < 0)) q,
   pos (decide (q < 0) && decide (p < 0)) q, pos (decide (q < 0) && decide (0 ≤ p)) q, (xs.getD 2 0).toNat, (xs.getD 3 0).toNat]

/-- The multiples of C that an accumulator crossed (R490). -/
def crossings (c : Nat) (a b : Accum) : Nat :=
  let t (x : Accum) : Nat := x.wraps * 2 ^ 64 + x.value
  (if t b < t a then t b + 2 ^ 80 else t b) / c - t a / c

/-- A pulse output after a circuit's interval: the pulses due rise, and of them as many as can begin in the next 100 ms, each high for W and low for W
after it, are spread evenly from the end of the last one on (R490, R491; DESIGN CHOICE, log 49). -/
def pulseInterval (p : OrnParams) (c : Nat) (old new : List Accum) (s : State) (pin : Nat) : State :=
  let x := tat p.pulses pin {}
  if !x.en || x.circuit != c then s
  else
    let y := tat s.orn.pulses pin {}
    let due := min 65535 (y.due + crossings x.c (old.getD x.acc {}) (new.getD x.acc {}))
    let w := x.w * 100000
    let from_ := if y.sent = 0 then s.orn.clk else max s.orn.clk (y.high + w)
    let span := s.orn.clk + 100000000 - from_
    let n := min due ((span + 2 * w - 1) / (2 * w))
    let z := { y with due := due, left := n, at_ := from_, gap := if n = 0 then 0 else max (2 * w) (span / n) }
    setOrn s { s.orn with pulses := tset s.orn.pulses pin z }

/-- The next pulse of an output is emitted (R490, R491). -/
def pulseEmit (s : State) (pin : Nat) : State :=
  let x := tat (ornParams s).pulses pin {}
  let y := tat s.orn.pulses pin {}
  let w := x.w * 100000
  if !x.en || y.left = 0 || y.due = 0 || s.orn.clk < y.at_ || (y.sent ≠ 0 ∧ s.orn.clk < y.high + w) then s
  else
    let z := { y with due := y.due - 1, left := y.left - 1, at_ := y.at_ + y.gap, high := s.orn.clk + w, sent := y.sent + 1 }
    setOrn s { s.orn with pulses := tset s.orn.pulses pin z }

/-- The level of ORN_PULSEk. -/
def pulseLevel (s : State) (pin : Nat) : Bool :=
  (tat (ornParams s).pulses pin {}).en && (tat s.orn.pulses pin {}).sent != 0 && decide (s.orn.clk < (tat s.orn.pulses pin {}).high)

/-! ### An interval (R474, R476) -/

/-- One circuit over one interval. -/
def meterCircuit (g k tag : Nat) (p : OrnParams) (s : State) (e : Nat × Circuit) : State :=
  let c := e.1
  let es := e.2.elems.take (if e.2.conn = 1 then 1 else 3)
  let sums := es.map fun (x : Nat × Nat) => (x, elemSums s g k e.2.rev x)
  let got : List ((Nat × Nat) × ElemSums) := sums.filterMap fun (x : (Nat × Nat) × Option ElemSums) => x.2.map fun y => (x.1, y)
  let live := got.filter fun (x : (Nat × Nat) × ElemSums) => !noLoad x.2 (corrOf p x.1.1).1 e.2.amps
  let xs := if live.isEmpty then [0, 0, 0, 0]
    else circuitPower c k (tat p.corrQ c {}) (live.map fun (x : (Nat × Nat) × ElemSums) => elemPower p x.1 x.2)
  let old := tat s.orn.runs c {}
  let accs := (old.accs.zip (quantities xs)).map fun (x : Accum × Nat) => accumAdd x.1 x.2
  let count (i : Nat) : Nat := (got.map fun (x : (Nat × Nat) × ElemSums) => x.2.counts.getD i 0).sum
  let doubtful := decide (0 < count 0 + count 1 + count 2)
  let incs := [count 0, count 1, count 2, b2n live.isEmpty, b2n doubtful]
  let mw := xs.map (convRound 32)
  let run : CircuitRun :=
    { accs := accs, diag := (old.diag.zip incs).map fun (x : Nat × Nat) => satAdd 32 x.1 x.2, tag := tag,
      cfgErr := decide (got.length < es.length), noload := live.isEmpty, doubtful := doubtful, inst := mw, nel := live.length,
      peak := (old.peak.zip (mw.map fun x => x.natAbs)).map fun (x : Nat × Nat) => max x.1 x.2 }
  let s := setOrn s { s.orn with runs := tset s.orn.runs c run }
  (List.range 4).foldl (pulseInterval p c old.accs accs) s

/-- The interval that contains the start of a set's tick. -/
def setInterval (r : RelSet) : Nat := r.tick * 10 / r.hz

/-- The interval that a group is to compute next: the first that is not computed and of which a set has arrived (R476, R487). -/
def nextInterval (s : State) (g : Nat) : Option Nat :=
  let sets := s.orn.sets.filter fun r => r.group == g
  match tget s.orn.next g with
  | some k => (sets.map setInterval).find? fun i => decide (k ≤ i)
  | none => match sets with
    | r :: _ => some (if r.tick * 10 % r.hz = 0 then setInterval r else setInterval r + 1)
    | [] => none

/-- An interval can be computed: the group's newest set is that of the tick that contains the instant 32 ms after its end, or a later one
(R476). -/
def intervalReady (s : State) (g k : Nat) : Bool :=
  s.orn.sets.any fun r => r.group == g && decide (((k + 1) * 100 + 32) * r.hz / 1000 ≤ r.tick)

/-- The group of the oldest set held, among those with an interval to compute, and that interval (DESIGN CHOICE, log 49). -/
def ornDue (s : State) : Option (Nat × Nat) :=
  if s.orn.phase ≠ .metering then none
  else (s.orn.sets.map fun r => r.group).eraseDups.findSome? fun g => match nextInterval s g with
    | some k => if intervalReady s g k then some (g, k) else none
    | none => none

/-- The values that a group's slots had at the end of an interval stand for a sample that is missing at the start of the next (R473). -/
def keepLast (s : State) (g k : Nat) : State :=
  let sets := s.orn.sets.filter fun r => r.group == g
  let slots := s.orn.slots.map fun (e : Nat × Nat × Nat × Int) =>
    if e.2.1 = g then
      let n := e.2.2.1 / 10
      let xs := slotSamples sets e.1 (k * n - (e.2.2.1 * 32 / 1000)) n e.2.2.2
      (e.1, e.2.1, e.2.2.1, (match xs.getLast? with | some x => x.1 | none => e.2.2.2))
    else e
  setOrn s { s.orn with slots := slots }

/-- Every group that has sets has computed the intervals up to `k`, so that a save holds the whole of them (R484). -/
def computedTo (s : State) (k : Nat) : Bool :=
  ((s.orn.sets.map fun r => r.group).eraseDups).all fun g => match nextInterval s g with
    | some i => decide (k < i)
    | none => true

/-- The Orangery computes one interval of one group (R476, R484, R486, R487). -/
def intervalCompute (s : State) : State :=
  match ornDue s with
  | none => s
  | some (g, k) =>
    let p := paramsFor s k
    let fB := match s.orn.sets.find? fun r => r.group == g with | some r => r.hz | none => 4800
    let tag := (k + 1) * fB / 10 % 2 ^ 32
    let before := tget s.orn.next g
    let s := (groupCircuits s p g).foldl (meterCircuit g k tag p) s
    let s := keepLast s g k
    let s := match before with
      | some n => if n < k then gapRecord s g n k else s
      | none => s
    let s := powerRecord s k
    let s := setOrn s { s.orn with next := tset s.orn.next g (k + 1),
                                   sets := s.orn.sets.filter fun r => r.group != g || decide (k ≤ setInterval r) }
    if k % p.sp = p.sp - 1 ∧ computedTo s k = true then ornSave s false else s

/-- A word of the tap arrives, or is lost on it: in this model a word carries one set (DESIGN CHOICE, log 49). A word that fails its CRC, or whose
number does not follow that of the word before it, is counted and its samples are missing; a lost word shows by the number of the next
alone (R90, R473). -/
def tapReceive (s : State) (w : TapWord) : State :=
  match s.svi.toOrn with
  | [] => s
  | r :: rs =>
    let n := s.svi.tapNo
    let s := { s with svi := { s.svi with toOrn := rs, tapNo := (n + 1) % 2 ^ 16 } }
    let gap := s.orn.tapNext.any fun k => k != n
    if s.orn.phase ≠ .metering ∨ w = .lost then s
    else
      let s := setOrn s { s.orn with tapNext := some ((n + 1) % 2 ^ 16) }
      if w = .badCrc ∨ gap = true then setOrn s { s.orn with tapErr := satAdd 16 s.orn.tapErr 1 }
      else
        let slots := r.streams.foldl (fun (t : Tbl (Nat × Nat × Int)) x =>
          (List.range ((x.samples.head?.map fun (e : Nat × List (Int × Nat)) => e.2.length).getD 0)).foldl (fun t i =>
            tset t (x.chbase + i) (r.group, x.rate, (tat t (x.chbase + i) (0, 0, 0)).2.2)) t) s.orn.slots
        setOrn s { s.orn with slots := slots, sets := s.orn.sets ++ [r] }

/-! ### Reset and start (R99, R485, R500, R501) -/

/-- A reset of RD_ORN: metering stops, the crossing group resets, and requests in progress end (R99–R101). -/
def ornReset (s : State) (cause : Nat) : State :=
  let o := s.orn
  let s := setOrn s { o with phase := .starting, cause := cause, change := none, sets := [], next := [], slots := [], openAt := none,
                             nonce := none, pulses := [], tapErr := 0, tapNext := none, authFail := 0 }
  let s := dropShadows (holdGroup s 1 20) fun a => a / 0x1000 == 0xB00
  [0x80, 0xC0, 0x100].foldl (fun s m => mbxEndIfBusy s (0xB00000 + m) 0xFE) s

/-- The Orangery starts: `ok` tells whether the active bank's digest is right (R485, R501). -/
def ornStart (s : State) (ok : Bool) : State :=
  let o := s.orn
  if o.held || o.phase == .metering then s
  else
    let o := if o.phase = .activating then { o with active := !o.active, cause := 4 } else o
    let o := if ok then { o with fallback := false } else { o with active := !o.active, fallback := true }
    let x := newestSave s
    let runs := match x with | some x => x.runs | none => []
    let peaks : Tbl (List Nat) := match x with
      | some x => runs.map fun e => (e.1, if x.clean then [0, 0, 0] else e.2.peak)
      | none => []
    let s := setOrn s { o with
      phase := .metering, runs := runs.map (fun e => (e.1, { e.2 with peak := [0, 0, 0] })), powerDue := true, loadedPeaks := peaks,
      loaded := match x with | some x => x.until_ | none => 0, params := o.params.take 1 |>.map fun e => (0, e.2) }
    if ok || auditFree s == 0 then s
    else auditAdd s (0x11 * 2 ^ 24 + 0xFFFF) 0 (secOf (timeNow s)) (ornBank { s with orn := { s.orn with active := !s.orn.active } }).sha (ornBank s).sha

/-! ### Requests (R468, R492–R500, R506) -/

/-- The fields of a request's data words: word, low bit, width. -/
def ornFields (op : Nat) : List (Nat × Nat × Nat) :=
  match op with
  | 0x01 => [(0, 30, 2), (0, 29, 1), (1, 0, 32), (2, 16, 14), (2, 0, 14), (3, 16, 14), (3, 0, 14), (4, 16, 14), (4, 0, 14)]
  | 0x02 => [(0, 0, 32), (1, 0, 32)]
  | 0x03 => [(0, 0, 32), (1, 0, 32), (2, 0, 32), (3, 0, 32), (4, 0, 32), (5, 0, 32)]
  | 0x04 => [(0, 31, 1), (0, 24, 3), (0, 0, 11), (1, 0, 32), (2, 0, 16)]
  | _ => [(0, 0, 10), (1, 0, 16), (2, 0, 2)]

/-- The audit records of a change: one for each field whose value differs (R497). -/
def auditOf (op index : Nat) (old new : List Nat) : List (Nat × Nat × Nat × Nat) :=
  (ornFields op).filterMap fun (f : Nat × Nat × Nat) =>
    let v (ws : List Nat) : Nat := bits (ws.getD f.1 0) (f.2.1 + f.2.2 - 1) f.2.1
    if v old = v new then none else some (op * 2 ^ 24 + f.1 * 2 ^ 8 + f.2.1, index, v old, v new)

/-- The data words of a circuit, a slot's corrections, a circuit's corrections, a pulse output and PARAM, as written. -/
def circuitWords (c : Circuit) : List Nat :=
  [c.conn * 2 ^ 30 + bitAt c.rev 29, c.amps] ++ (List.range 3).map fun i => let e := c.elems.getD i (0, 0); e.1 * 2 ^ 16 + e.2
/-- D0 and D1 of CORR_CH. -/
def corrWords (c : Nat × Int) : List Nat := [c.1, ofSigned 32 c.2]
/-- D0 to D5 of CORR_Q. -/
def corrQWords (c : CorrQ) : List Nat := [c.gP, ofSigned 32 c.oP, c.gQ, ofSigned 32 c.oQ, c.gS, ofSigned 32 c.oS]
/-- D0 to D2 of PULSE. -/
def pulseWords (x : PulseSet) : List Nat := [bitAt x.en 31 + x.acc * 2 ^ 24 + x.circuit, x.c, x.w]
/-- D0 to D2 of PARAM. -/
def paramWords (p : OrnParams) : List Nat := [p.sp, p.tmo, p.role]

/-- A signed value between two bounds (R12). -/
def clampInt (lo hi v : Int) : Int := max lo (min hi v)
/-- GAIN clamped (R477). -/
def clampGain (v : Nat) : Nat := clampTo 0x3999999A 0x46666666 v
/-- An offset clamped (R477). -/
def clampOffset (v : Nat) : Int := clampInt (-1000000000) 1000000000 (toSigned 32 v)

/-- A circuit from its data words (R506). -/
def circuitOf (w : Nat → Nat) : Circuit :=
  { conn := min (bits (w 0) 31 30) 2, rev := bit (w 0) 29, amps := clampTo 1 100000000 (w 1),
    elems := (List.range 3).map fun i => (bits (w (i + 2)) 29 16, w (i + 2) % 2 ^ 14) }

/-- The parameters after a change, its index, and the data words of its subject before and after (R477, R506). -/
def ornChange (p : OrnParams) (op arg : Nat) (w : Nat → Nat) : OrnParams × Nat × List Nat × List Nat :=
  let c := min (arg % 2 ^ 11) 1535
  match op with
  | 0x01 =>
    let x := circuitOf w
    ({ p with circuits := tset p.circuits c x }, c, circuitWords (tat p.circuits c {}), circuitWords x)
  | 0x02 =>
    let k := arg % 2 ^ 14
    let x : Nat × Int := (clampGain (w 0), clampInt (-2000000) 2000000 (toSigned 32 (w 1)))
    ({ p with corr := tset p.corr k x }, k, corrWords (corrOf p k), corrWords x)
  | 0x03 =>
    let x : CorrQ := ⟨clampGain (w 0), clampOffset (w 1), clampGain (w 2), clampOffset (w 3), clampGain (w 4), clampOffset (w 5)⟩
    ({ p with corrQ := tset p.corrQ c x }, c, corrQWords (tat p.corrQ c {}), corrQWords x)
  | 0x04 =>
    let k := arg % 4
    let x : PulseSet := { en := bit (w 0) 31, acc := bits (w 0) 26 24, circuit := min (w 0 % 2 ^ 11) 1535, c := max 1 (w 1),
                          w := clampTo 1 2000 (w 2 % 2 ^ 16) }
    ({ p with pulses := tset p.pulses k x }, k, pulseWords (tat p.pulses k {}), pulseWords x)
  | _ =>
    let x : OrnParams := { p with sp := clampTo 1 600 (w 0 % 2 ^ 10), tmo := clampTo 1 1440 (w 1 % 2 ^ 16), role := min (w 2 % 4) 2 }
    (x, 0, paramWords p, paramWords x)

/-- The elements of the circuits that are not off (R470). -/
def elementCount (p : OrnParams) : Nat :=
  (p.circuits.map fun e => match e.2.conn with | 0 => 0 | 1 => 1 | _ => 3).sum

/-- CIRCUIT, CORR_CH, CORR_Q, PULSE and PARAM: refused, or held until the next interval boundary (R468, R470, R477, R496, R498). -/
def ornTakeChange (s : State) (b : Mbx) : State :=
  let r := ornChange (ornParams s) b.op b.arg b.w
  let audit := auditOf b.op r.2.1 r.2.2.1 r.2.2.2
  if !sealOpen s then mbxEnd s ornReqMbx 0x02
  else if b.op = 0x01 ∧ 1536 < elementCount r.1 then mbxEnd s ornReqMbx 0x04
  else if logFull s audit.length then mbxEnd s ornReqMbx 0x06
  else setOrn s { s.orn with change := some ⟨r.1, audit, if b.op = 0x04 then some (b.arg % 4) else none, intervalNow s + 1⟩ }

/-- The change that waits takes effect at its interval boundary (R477, R491, R497). -/
def boundaryApply (s : State) : State :=
  match s.orn.change with
  | none => s
  | some c =>
    if intervalNow s < c.from_ then s
    else
      let s := setOrn s { s.orn with change := none, params := ((c.from_, c.params) :: s.orn.params).take 16,
                                     pulses := match c.pin with | some k => tdel s.orn.pulses k | none => s.orn.pulses }
      let s := c.audit.foldl (fun s (a : Nat × Nat × Nat × Nat) => auditAdd s a.1 a.2.1 (c.from_ / 10) a.2.2.1 a.2.2.2) s
      mbxEndIfBusy s ornReqMbx 0

/-- The nonce bytes of a challenge (R493). -/
def nonceBytes (n : Nat) : List Nat := leBytes 8 n ++ leBytes 8 (Config.ornIdentity % 2 ^ 64)

/-- OPEN (R493, R494). -/
def ornOpen (s : State) (b : Mbx) : State :=
  let nonce := s.orn.nonce
  let s := setOrn s { s.orn with nonce := none }
  if s.orn.lockAt.isSome then mbxEnd s ornReqMbx 0x07
  else match s.orn.key with
    | none => mbxEnd s ornReqMbx 0x08
    | some key =>
      if logFull s 1 then mbxEnd s ornReqMbx 0x06
      else
        let good := match nonce with
          | some n => bytesOfWords ((List.range 8).map fun i => w32 (b.w i)) ==
              toBe 32 (Config.hmac key (nonceBytes n ++ [0x4F, 0x50, 0x45, 0x4E]))
          | none => false
        if good then
          let s := auditAdd s (0x06 * 2 ^ 24) 0 (secOf (timeNow s)) 0 0
          mbxEnd (setOrn s { s.orn with openAt := if s.orn.pinLow then some s.orn.clk else none, fails := 0 }) ornReqMbx 0
        else
          let n := s.orn.fails + 1
          mbxEnd (setOrn s { s.orn with authFail := satAdd 16 s.orn.authFail 1, fails := n,
                                        lockAt := if 16 ≤ n then some s.orn.clk else none }) ornReqMbx 0x03

/-- CLOSE (R492, R498). -/
def ornClose (s : State) : State :=
  if sealOpen s || !logFull s 1 then mbxEnd (sealClosed s 0x07) ornReqMbx 0 else mbxEnd s ornReqMbx 0x06

/-- The inactive bank replaced. -/
def setSpare (s : State) (f : FwBank) : State := setOrn s (if s.orn.active then { s.orn with bank0 := f } else { s.orn with bank1 := f })

/-- The inactive bank. -/
def spareBank (s : State) : FwBank := if s.orn.active then s.orn.bank0 else s.orn.bank1

/-- The first bytes of a bank. -/
def bankBytes (f : FwBank) (n : Nat) : List Nat :=
  ((List.range ((n + 31) / 32)).flatMap fun i => tat f.chunks i (List.replicate 32 0)).take n

/-- FWLOAD (R500). -/
def ornFwload (s : State) (b : Mbx) : State :=
  if !sealOpen s then mbxEnd s ornReqMbx 0x02
  else
    let f := spareBank s
    let bs := bytesOfWords ((List.range 8).map fun i => w32 (b.w i))
    mbxEnd (setSpare s { f with chunks := tset f.chunks (b.arg % 2 ^ 14) bs }) ornReqMbx 0

/-- FWACT (R489, R498, R500). -/
def ornFwact (s : State) (b : Mbx) : State :=
  let len := clampTo 1 524288 (b.w 9)
  let f := spareBank s
  let want := bytesOfWords ((List.range 8).map fun i => w32 (b.w i))
  if !sealOpen s then mbxEnd s ornReqMbx 0x02
  else if toBe 32 (Config.sha256 (bankBytes f len)) ≠ want then mbxEnd s ornReqMbx 0x05
  else if logFull s 1 then mbxEnd s ornReqMbx 0x06
  else
    let sha := ofLe (want.take 8)
    let old := (ornBank s).sha
    let s := ornSave s true
    let s := auditAdd s (0x09 * 2 ^ 24 + 0xFFFF) 0 (secOf (timeNow s)) old sha
    let s := setSpare s { f with version := b.w 8, len := len, sha := ofLe want }
    let s := ornReset (mbxEnd s ornReqMbx 0) 4
    setOrn s { s.orn with phase := .activating }

/-- KEYLOAD of the metrology key `key` by a master (R468, R495, R498): the CODE. The key already held changes nothing and writes no record (R497). -/
def ornKeyload (s : State) (mid : Nat) (key : List Nat) : State × Nat :=
  if mid ≠ 0x5000 ∨ !(sealOpen s || (s.orn.key.isNone && s.orn.pinLow)) then (s, 0x09)
  else if s.orn.key = some key then (s, 0)
  else if logFull s 1 then (s, 0x06)
  else
    let first (k : List Nat) : Nat := ofLe ((toBe 32 (Config.sha256 k)).take 8)
    let old := match s.orn.key with | some k => first k | none => 0
    (auditAdd (setOrn s { s.orn with key := some key }) (0x0A * 2 ^ 24 + 0xFFFE) 0 (secOf (timeNow s)) old (first key), 0)

/-- DIAGCLR (R506). -/
def ornDiagclr (s : State) (arg : Nat) : State :=
  let clr (r : CircuitRun) : CircuitRun := { r with diag := [0, 0, 0, 0, 0] }
  if bit arg 15 then
    setOrn s { s.orn with runs := s.orn.runs.map (fun e => (e.1, clr e.2)), tapErr := 0, authFail := 0 }
  else
    let c := min (arg % 2 ^ 11) 1535
    setOrn s { s.orn with runs := s.orn.runs.map fun e => if e.1 = c then (e.1, clr e.2) else e }

/-- A write request of ORN_REQ that reached the Orangery. -/
def ornWrite (s : State) (b : Mbx) : State :=
  match b.op with
  | 0x01 | 0x02 | 0x03 | 0x04 | 0x05 => ornTakeChange s b
  | 0x06 => ornOpen s b
  | 0x07 => ornClose s
  | 0x08 => ornFwload s b
  | 0x09 => ornFwact s b
  | 0x0A =>
    let r := ornKeyload s b.mid (bytesOfWords ((List.range 8).map fun i => w32 (b.w i)))
    mbxEnd (setMbx r.1 ornReqMbx { b with d := [] }) ornReqMbx r.2
  | 0x0B => mbxEnd (ornSave s false) ornReqMbx 0
  | 0x0C => mbxEnd (ornDiagclr s b.arg) ornReqMbx 0
  | _ => mbxEnd s ornReqMbx 0xFF

/-- Two words of a 64-bit value. -/
def words64 (v : Nat) : List Nat := [v % 2 ^ 32, v / 2 ^ 32 % 2 ^ 32]

/-- D10 and D11 of ENERGY_A and ENERGY_R. -/
def energyTail (r : CircuitRun) : List Nat := [r.tag, flagBits [r.cfgErr, r.noload, r.doubtful]]

/-- A read request of ORN_RES0 or ORN_RES1: the data, or a CODE (R482, R498, R499, R506). -/
def ornRead (s : State) (op arg : Nat) : Sum Nat (List Nat) :=
  let c := min (arg % 2 ^ 11) 1535
  let r := tat s.orn.runs c {}
  let p := ornParams s
  let acc (i : Nat) : Accum := r.accs.getD i {}
  let pair (a b : Nat) : Nat := (acc a).wraps * 2 ^ 16 + (acc b).wraps
  match op with
  | 0x01 => .inr ([0, 1, 6, 7].flatMap (fun i => words64 (acc i).value) ++ [pair 1 0, pair 7 6] ++ energyTail r)
  | 0x02 => .inr ([2, 3, 4, 5].flatMap (fun i => words64 (acc i).value) ++ [pair 3 2, pair 5 4] ++ energyTail r)
  | 0x03 => .inr (r.inst.flatMap (fun x => words64 (ofSigned 64 x)) ++ [r.nel, 0, r.tag])
  | 0x04 => .inr ((leWords 8 (ornBank s).sha).map (fun w => w.toNat) ++ [(ornBank s).version, s.orn.mevt, p.role])
  | 0x06 => .inr (circuitWords (tat p.circuits c {}))
  | 0x07 => .inr (if bit arg 15 then corrQWords (tat p.corrQ c {}) else corrWords (corrOf p (arg % 2 ^ 14)))
  | 0x08 => .inr (pulseWords (tat p.pulses (arg % 4) {}) ++ [(tat s.orn.pulses (arg % 4) {}).due])
  | 0x09 => .inr (paramWords p)
  | 0x0A => match s.orn.audit[arg % 2 ^ 15]? with
    | some ws => .inr (ws ++ [s.orn.audit.length])
    | none => .inl 0x01
  | 0x0B => match s.orn.losses[arg % 8]? with
    | some x =>
      let ns (t : Nat) : Nat := t % 10 * 100000000
      .inr ([x.kind * 2 ^ 24 + x.cause * 2 ^ 16 + x.group] ++ words64 (x.last / 10) ++ [ns x.last] ++ words64 (x.next / 10) ++ [ns x.next, x.sp, x.count])
    | none => .inl 0x01
  | 0x0C => match s.orn.losses[arg / 2 ^ 13 % 8]? with
    | some x => .inr ((tat x.bounds c [0, 0, 0]).flatMap words64)
    | none => .inl 0x01
  | 0x0D => .inr r.diag
  | _ => .inl 0xFF

/-- A request of a mailbox of the ORN page (R101, R102, R468, R505, R506). -/
def ornMbx (r : OrnReg) (a : Nat) (s : State) : State :=
  let b := mbxAt s a
  if !enabled s 0xB00000 then mbxEnd s a 0x0A
  else if !bit s.cru.xcReady 1 || s.orn.phase != .metering then mbxEnd s a 0xFE
  else match r, b.wr with
    | .ORN_REQ, true => ornWrite s b
    | .ORN_RES0, false | .ORN_RES1, false =>
      if b.op = 0x05 then
        let n := (s.orn.challenges + 1) % 2 ^ 64
        let s := setOrn s { s.orn with challenges := n, nonce := some n }
        mbxAnswer s a 0 (wordsOfBytes 4 (nonceBytes n))
      else match ornRead s b.op b.arg with
        | .inr ws => mbxAnswer s a 0 (ws.map w32)
        | .inl c => mbxEnd s a c
    | _, _ => mbxEnd s a 0xFF

/-! ### The seal's pin and times (R492, R494, R502) -/

/-- ORN_SEAL_N changes; a rise closes the seal (R492). -/
def sealPinChange (s : State) (low : Bool) : State :=
  if low = s.orn.pinLow then s
  else
    let s := if sealOpen s then sealClosed s 0x10 else s
    setOrn s { s.orn with pinLow := low, pinAt := s.orn.clk, openAt := none }

/-- SEAL_TMO after the OPEN the seal closes (R492). -/
def sealTimeout (s : State) : State :=
  match s.orn.openAt with
  | some t => if sealPin s && decide (t + (ornParams s).tmo * 60000000000 ≤ s.orn.clk) then sealClosed s 0x10 else s
  | none => s

/-- The lockout ends after 600 s (R494). -/
def lockoutEnd (s : State) : State :=
  match s.orn.lockAt with
  | some t => if t + 600000000000 ≤ s.orn.clk then setOrn s { s.orn with lockAt := none, fails := 0 } else s
  | none => s

/-- The oscillator is trimmed against the reference, or keeps its last trim (R502). -/
def oscillatorTrim (s : State) (refOk : Bool) : State :=
  setOrn s { s.orn with refLost := !refOk, trimAt := if refOk then s.orn.clk else s.orn.trimAt }

end Sys2Proof.Machine
end

