-- ==== Sys2Proof/Machine/Belvedere.lean ====
section
/-! DEFINITION. The Belvedere: sources, trigger units, capture groups, masks, rate reduction and the capture format (R507–R534). -/

namespace Sys2Proof.Machine

/-- The Belvedere's master identity (R15). -/
def blvMid : Nat := 0x3006

/-- The Belvedere replaced. -/
def setBlv (s : State) (b : Belvedere) : State := { s with blv := b }

/-- A capture group replaced. -/
def setCap (s : State) (g : Nat) (x : CapGroup) : State := setBlv s { s.blv with groups := tset s.blv.groups g x }

/-- The Belvedere runs (R530). -/
def blvOn (s : State) : Bool := enabled s 0xC00000

/-- EN in force of a capture group (R513, R530). -/
def capOn (s : State) (g : Nat) : Bool := blvOn s && enabled s 0xC02000 && fbit s (Fld.BLV_CG_CTRL_EN g)

/-- The source entries of a capture group, in index order (R513). -/
def capSources (s : State) (g : Nat) : List Nat :=
  (List.range (fget s (Fld.BLV_CG_CTRL_NSRC g) + 1)).map (fget s (Fld.BLV_CG_CTRL_FIRST g) + ·)

/-- NSLOT of a group. -/
def capSlots (s : State) (g : Nat) : Nat := fget s (Fld.BLV_CG_CTRL_NSLOT g) + 1

/-- Bytes of a slot (R526). -/
def slotSize (s : State) (g : Nat) : Nat := fget s (Fld.BLV_CG_RGN_SIZE g) * 2 ^ 26 / capSlots s g

/-- Address of slot `k` of a group (R526). -/
def slotBase (s : State) (g k : Nat) : Nat :=
  (fget s Fld.BLV_RING_BASE_BASE + fget s (Fld.BLV_CG_RGN_OFF g)) * 2 ^ 26 + k * slotSize s g

/-- A group's settings put it in ERR (R513). -/
def capErr (s : State) (g : Nat) : Bool :=
  decide (fget s Fld.BLV_RING_SIZE_UNITS < fget s (Fld.BLV_CG_RGN_OFF g) + fget s (Fld.BLV_CG_RGN_SIZE g)) ||
  decide (slotSize s g < 65536) || (capSources s g).any fun e => srcKind s e == 0

/-- The alignment group and rate of a DERIVED point: of the channel, the triplet's channel A, or the group's reference (R319). -/
def derivedChain (s : State) (idx : Nat) : Option Chain :=
  if idx < 131072 then processed s (idx / 8)
  else if idx < 163840 then (tget s.cas.trips ((idx - 131072) / 4)).bind fun t => processed s t.a
  else
    let g := (idx - 163840) / 4
    let ref := fget s (Fld.LTN_G_FREF_REF (g / 128) (g % 128))
    if fbit s (Fld.LTN_G_CTRL_FMODE (g / 128) (g % 128)) then (tget s.cas.trips ref).bind fun t => processed s t.a else processed s ref

/-- Nominal rate in Hz of a source entry (R510, R526). -/
def srcRate (s : State) (e : Nat) : Nat :=
  match srcKind s e with
  | 1 => match slotStream s (srcId s e % 2 ^ 14) with | some x => x.hz | none => 0
  | 2 => match derivedChain s (srcId s e % 2 ^ 18) with | some c => c.fo | none => 0
  | 3 => baseHz s
  | _ => 0

/-- Alignment group of a source entry, for ANALOG and DERIVED (R515, R526). -/
def srcGroup (s : State) (e : Nat) : Option Nat :=
  match srcKind s e with
  | 1 => (slotStream s (srcId s e % 2 ^ 14)).map fun x => x.group
  | 2 => (derivedChain s (srcId s e % 2 ^ 18)).map fun c => c.stream.group
  | _ => none

/-! ### Records (R524–R528) -/

/-- A slot is being recorded. -/
def recording (s : State) (g : Nat) : Bool :=
  capOn s g && ((capOf s g).st == .record || (capOf s g).st == .post)

/-- Seconds and nanoseconds of a time in ns. -/
def nsWords (t : Nat) : List Nat := leBytes 4 (t % 10 ^ 9) ++ leBytes 8 (t / 10 ^ 9)

/-- A record's bytes: header and payload, padded to 32 bytes (R528). -/
def recordBytes (type idx ns : Nat) (payload : List Nat) : List Nat :=
  let n := (payload.length + 16 + 31) / 32 * 32
  leBytes 2 n ++ [idx, type] ++ nsWords ns ++ payload ++ List.replicate (n - 16 - payload.length) 0

/-- A record enters the slot at its place, after a PAD record where it does not fit before the end, over the oldest records (R528). -/
def placeRecord (s : State) (g ns : Nat) (mark : Bool) (bs : List Nat) : State :=
  let x := capOf s g
  let base := slotBase s g x.cur
  let top := slotSize s g / 32 * 32
  let wraps := decide (top < x.next + bs.length)
  let s := if wraps && decide (x.next < top) then
      physPut s blvMid (base + x.next) (leBytes 2 (top - x.next) ++ [0, 0] ++ nsWords ns)
    else s
  let off := if wraps then 2048 else x.next
  let s := physPut s blvMid (base + off) bs
  let keep := x.recs.filter fun r => decide (r.off + r.len ≤ off ∨ off + bs.length ≤ r.off) && !(wraps && decide (x.next ≤ r.off))
  setCap s g { x with recs := keep ++ [⟨off, bs.length, ns, mark⟩], next := off + bs.length, wrapped := x.wrapped || wraps }

/-- Bytes join the write buffer (R522, R523). -/
def bufferAdd (s : State) (n : Nat) : State :=
  let f := bufferFill s + n
  let rate := fget s Fld.BLV_WBW_RATE * 64
  setBlv s { s.blv with fill := f, fillAt := s.sdl.fab,
                        lowAt := if 2 ^ 19 ≤ f then s.sdl.fab + (f - 2 ^ 19) * 1000 / rate + 1 else s.blv.lowAt }

/-- The payload of a MARK record (R528). -/
def markPayload (kind id div count : Nat) : List Nat := [kind, id] ++ leBytes 2 div ++ leBytes 4 count ++ List.replicate 8 0

/-- A record is stored, or dropped where the buffer is full; the first stored after a drop is preceded by a GAP mark (R525). -/
def storeRecord (s : State) (g type idx ns : Nat) (payload : List Nat) : State :=
  if !recording s g then s
  else
    let bs := recordBytes type idx ns payload
    let x := capOf s g
    if 2 ^ 21 < bufferFill s + bs.length then
      cinc (setCap s g { x with dropped := x.dropped + 1, gap := x.gap + 1 }) Fld.BLV_DROP_COUNT
    else
      let s := if x.gap = 0 then s
        else placeRecord (bufferAdd (setCap s g { x with gap := 0 }) 32) g ns true (recordBytes 6 0 ns (markPayload 3 0 0 x.gap))
      placeRecord (bufferAdd s bs.length) g ns (type == 6) bs

/-- A MARK record. -/
def storeMark (s : State) (g ns kind id div : Nat) : State := storeRecord s g 6 0 ns (markPayload kind id div 0)

/-! ### A group's life (R513–R518) -/

/-- The next slot from `k` on that is not held. -/
def freeSlot (s : State) (g k : Nat) : Option Nat :=
  let n := capSlots s g
  ((List.range n).map fun i => (k + i) % n).find? fun i => !bit (capOf s g).heldSlots i

/-- A group begins to record into a slot: ARMING (R513). -/
def capArm (s : State) (g k : Nat) : State :=
  let x := capOf s g
  setCap s g { x with st := .record, cur := k, since := nowNs s, recs := [], next := 2048, wrapped := false, dropped := 0, gap := 0,
                      short := false, maskStop := false, soft := false, extended := false, rates := [], fires := [], edgeAfter := false }

/-- A group follows its enable and its settings (R513, R530). -/
def capFollow (s : State) (g : Nat) : State :=
  let x := capOf s g
  if !capOn s g then (if x.st = .idle then s else setCap s g { x with st := .idle, recs := [] })
  else if capErr s g then setCap s g { x with st := .err, recs := [] }
  else if x.st = .idle ∨ x.st = .err then
    match freeSlot s g (x.cur % capSlots s g) with
    | some k => capArm s g k
    | none => setCap s g { x with st := .full }
  else s

/-- Every group follows. -/
def capsFollow (s : State) : State := (List.range 16).foldl capFollow s

/-- A unit is selected by a group (R514). -/
def selects (s : State) (g u : Nat) : Bool :=
  if u < 32 then bit (fget s (Fld.BLV_CG_TRIG0_MASK g)) u else bit (fget s (Fld.BLV_CG_TRIG1_MASK g)) (u - 32)

/-- The CAPTURE event of a trigger (R518, R332). -/
def captureEvent (s : State) (g : Nat) : State :=
  let x := capOf s g
  if !fbit s (Fld.BLV_CG_CTRL_EVEN g) then s
  else
    let s := if (heldOf s .capture g).isSome then cinc s Fld.BLV_EVHOLD_COUNT else s
    batchOrHold s .capture g { type := 8, queue := fget s (Fld.BLV_CG_EVT_EVQ g), flow := g, src := blvMid, ns := x.tT, w5 := g,
                               w6 := x.unit + bitAt x.maskStop 8, w7 := x.seq }

/-- A group triggers at `t` (R514, R518). -/
def capTrigger (s : State) (g t unit : Nat) (mask : Option Nat) (soft : Bool) : State :=
  let x := capOf s g
  let short := capState s g == 1
  let s := setCap s g { x with
    st := .post, seq := (x.seq + 1) % 2 ^ 32, tT := t, unit := unit, mask := mask.getD 0, maskStop := mask.isSome, soft := soft, short := short,
    fin := if mask.isSome then t + 1 else t + fget s (Fld.BLV_CG_POST_US g) * 1000, edgeAfter := false }
  captureEvent s g

/-- The record area still holds everything from t_T − PRE on, so that an extended capture fits (R516; DEDUCED, log 50). -/
def stillFits (s : State) (g : Nat) : Bool :=
  let x := capOf s g
  !x.wrapped || (match x.recs with
    | r :: _ => decide (r.ns + fget s (Fld.BLV_CG_PRE_US g) * 1000 ≤ x.tT)
    | [] => true)

/-- A group processes a fire of unit `u` at time `t` (R514, R516). -/
def groupFire (t u : Nat) (s : State) (g : Nat) : State :=
  let x := capOf s g
  if !recording s g || !selects s g u then s
  else match x.st with
    | .post =>
      let s := storeMark s g t 1 u 0
      let fin := t + fget s (Fld.BLV_CG_POST_US g) * 1000
      if fbit s (Fld.BLV_CG_CTRL_EXTEND g) && !x.maskStop && stillFits s g && decide (x.fin < fin) then
        setCap s g { capOf s g with fin := fin, extended := true, edgeAfter := false }
      else s
    | _ =>
      let s := setCap s g { x with fires := tset x.fires u t }
      let w := fget s (Fld.BLV_CG_EVT_COINC g) * 1000
      let open_ (v : Nat) : Bool := match tget x.fires v with
        | some f => decide (f ≤ t) && decide (t < f + w)
        | none => false
      let all := ((List.range 64).filter fun v => selects s g v && v != u).all open_
      let s := storeMark s g t 1 u 0
      if !fbit s (Fld.BLV_CG_CTRL_MODE g) || all then capTrigger s g t u none false else s

/-- A mask violation at `t` acts on its group (R520). -/
def groupViolation (s : State) (t m : Nat) : State :=
  let g := fget s (Fld.BLV_MK_CTRL_GROUP m)
  let s := storeMark (cinc s (Fld.BLV_MK_VIOL_COUNT m)) g t 4 m 0
  let x := capOf s g
  if !fbit s (Fld.BLV_MK_CTRL_STOP m) || !recording s g then s
  else if x.st = .post then setCap s g { x with fin := t + 1, maskStop := true, mask := m, edgeAfter := false }
  else capTrigger s g t 0 (some m) false

/-- A happening that groups process: its time, a violation before a fire, and its number. -/
def processOne (s : State) (e : Nat × Nat × Nat) : State :=
  if e.2.1 = 0 then groupViolation s e.1 e.2.2
  else (List.range 16).foldl (groupFire e.1 e.2.2) (cinc s (Fld.BLV_TR_FIRES_COUNT e.2.2))

/-- Happenings in the order of R512 and R520. -/
def happensBefore (a b : Nat × Nat × Nat) : Bool :=
  if a.1 ≠ b.1 then decide (a.1 < b.1) else if a.2.1 ≠ b.2.1 then decide (a.2.1 < b.2.1) else decide (a.2.2 < b.2.2)

/-- Happenings of one batch of samples are processed. -/
def processAll (s : State) (es : List (Nat × Nat × Nat)) : State := (sortedBy happensBefore es).foldl processOne s

/-! ### Trigger units (R509–R511) -/

/-- A unit is evaluated. -/
def unitOn (s : State) (u : Nat) : Bool :=
  blvOn s && enabled s 0xC01000 && fbit s (Fld.BLV_TR_CTRL_EN u) && !unitErr s u && srcKind s (fget s (Fld.BLV_TR_CTRL_SRC u)) != 0

/-- The units that are evaluated on a source entry of a kind and an ID. -/
def unitsOn (s : State) (kind : Nat) (id : Nat → Bool) : List Nat :=
  (List.range 64).filter fun u => let e := fget s (Fld.BLV_TR_CTRL_SRC u); unitOn s u && srcKind s e == kind && id (srcId s e)

/-- The history of a unit. -/
def unitRun (s : State) (u : Nat) : UnitRun := tat s.blv.units u {}

/-- The history of a unit replaced. -/
def setUnit (s : State) (u : Nat) (x : UnitRun) : State := setBlv s { s.blv with units := tset s.blv.units u x }

/-- A level of a POINT or DIN source at `t` reaches a unit: a transition may fire PULSE (R510). A DIN level comes with an edge; the first level
of a POINT is no transition. -/
def unitLevel (s : State) (u lvl t : Nat) (edge : Bool) : State × Bool :=
  let x := unitRun s u
  let turned : UnitRun := { x with level := some (lvl, some t), last := some t, fired := false }
  match x.level with
  | none => (setUnit s u (if edge then turned else { x with level := some (lvl, none) }), false)
  | some (old, since) =>
    if old = lvl then (s, false)
    else
      let fits (a : Nat) : Bool := decide (fget s (Fld.BLV_TR_T0_T u) * 1000 ≤ t - a) && decide (t - a < fget s (Fld.BLV_TR_T1_T u) * 1000)
      (setUnit s u turned, fget s (Fld.BLV_TR_CTRL_KIND u) == 0 && old == fget s (Fld.BLV_TR_CTRL_LEVEL u) && since.any fits)

/-- RUNT: the history after a sample, and whether it fires (R510). -/
def runtStep (pol : Bool) (lo hi : Int) (limit t : Nat) (x : UnitRun) (v : Int) : UnitRun × Bool :=
  let v' := if pol then -v else v
  let lo' := if pol then -lo else lo
  let hi' := if pol then -hi else hi
  let x' := { x with prev := some v' }
  match x.exc with
  | some (since, reached) =>
    if v' < lo' then ({ x' with exc := none }, !reached && decide (t - since < limit)) else ({ x' with exc := some (since, reached || decide (hi' ≤ v')) }, false)
  | none => match x.prev with
    | some p => if p < lo' ∧ lo' ≤ v' then ({ x' with exc := some (t, decide (hi' ≤ v')) }, false) else (x', false)
    | none => (x', false)

/-- SLEW: the history after a sample, and whether it fires (R510, R511). -/
def slewStep (n limit f : Nat) (x : UnitRun) (v : Int) : UnitRun × Bool :=
  let x' := { x with hist := (v :: x.hist).take 63 }
  match x.hist[n - 1]? with
  | none => (x', false)
  | some old =>
    let meets := decide (limit * (n * 10 ^ 9) < (v - old).natAbs * 10 ^ 6 * f)
    match x.quiet with
    | none => if meets then ({ x' with quiet := some 0 }, true) else (x', false)
    | some q =>
      if meets then (if n ≤ q then ({ x' with quiet := some 0 }, true) else ({ x' with quiet := some 0 }, false))
      else ({ x' with quiet := if n ≤ q + 1 then none else some (q + 1) }, false)

/-- A sample of an ANALOG or DERIVED source reaches a unit (R509, R510). -/
def unitSample (s : State) (u : Nat) (v : Int) (q t f : Nat) : State × Bool :=
  if q % 4 = 1 ∨ (fbit s (Fld.BLV_TR_CTRL_SKIPSUB u) && bit q 31) = true then (s, false)
  else
    let x := { unitRun s u with last := some t, fired := false }
    let p0 := fget s (Fld.BLV_TR_P0_P u)
    let r := match fget s (Fld.BLV_TR_CTRL_KIND u) with
      | 1 => runtStep (fbit s (Fld.BLV_TR_CTRL_POL u)) (toSigned 32 p0) (toSigned 32 (fget s (Fld.BLV_TR_P1_P u)))
          (fget s (Fld.BLV_TR_T0_T u) * 1000) t x v
      | 3 => slewStep (fget s (Fld.BLV_TR_CTRL_N u)) p0 f x v
      | _ => (x, false)
    (setUnit s u r.1, r.2)

/-- A TIMEOUT unit fires when T0 has passed (R510, R511). -/
def unitTimeout (s : State) (u : Nat) : State :=
  let x := unitRun s u
  match x.last with
  | none => s
  | some t =>
    let at_ := t + fget s (Fld.BLV_TR_T0_T u) * 1000
    if !unitOn s u || fget s (Fld.BLV_TR_CTRL_KIND u) != 2 || x.fired || nowNs s < at_ then s
    else processAll (setUnit s u { x with fired := true }) [(at_, 1, u)]

/-! ### Masks (R519–R521) -/

/-- The mains position at a time, from the update in force (R156). -/
def mainsAt (s : State) (t : Nat) : Nat := (estAt s.ang.est (t * nsUnit : Nat)).toNat

/-- The table that a mask uses for a sample in a mains cycle (R521). -/
def maskTable (s : State) (m cycle : Nat) : State × List (Int × Int) :=
  let x := tat s.blv.masks m {}
  match x.new with
  | some (tbl, after) => if after < cycle then (setBlv s { s.blv with masks := tset s.blv.masks m { x with tbl := tbl, new := none } }, tbl) else (s, x.tbl)
  | none => (s, x.tbl)

/-- A sample is tested by a mask: whether it violates it (R519). -/
def maskSample (s : State) (m : Nat) (v : Int) (q t : Nat) : State × Bool :=
  if q % 4 ≠ 0 ∨ bit q 31 = true then (s, false)
  else if s.ang.st ≠ .locked then (cinc s Fld.BLV_MASKSUSP_COUNT, false)
  else
    let p := mainsAt s t
    let r := maskTable s m (p / 2 ^ 32)
    match r.2[p % 2 ^ 32 * r.2.length / 2 ^ 32]? with
    | some e => (r.1, decide (v < e.1) || decide (e.2 < v))
    | none => (r.1, false)

/-- The masks that test a source entry of a kind and an ID. -/
def masksOn (s : State) (kind : Nat) (id : Nat → Bool) : List Nat :=
  if !blvOn s || !enabled s 0xC03000 then []
  else (List.range 64).filter fun m =>
    let e := fget s (Fld.BLV_MK_CTRL_SRC m)
    fbit s (Fld.BLV_MK_CTRL_EN m) && srcKind s e == kind && id (srcId s e)

/-- A mask's table is copied from DRAM (R521). -/
def maskLoad (s : State) (m : Nat) : State :=
  let x := tat s.blv.masks m {}
  match x.due with
  | none => s
  | some _ =>
    let n := fget s (Fld.BLV_MK_CTRL_NPT m) + 1
    onOpt (physRead s blvMid (fget s (Fld.BLV_MK_TBL_ADDR m) * 4096) (8 * n)) (fun s => setBlv s { s.blv with masks := tset s.blv.masks m { x with due := none } }) fun s bs =>
      let tbl := (List.range n).map fun i =>
        (toSigned 32 (ofLe ((bs.drop (8 * i)).take 4)), toSigned 32 (ofLe ((bs.drop (8 * i + 4)).take 4)))
      setBlv s { s.blv with masks := tset s.blv.masks m { x with due := none, new := some (tbl, mainsAt s (nowNs s) / 2 ^ 32) } }

/-! ### Samples (R507, R508) -/

/-- One sample of an ANALOG or DERIVED source reaches the units and masks on it; the happenings it gives are gathered. -/
def reachAll (kind : Nat) (id : Nat → Bool) (v : Int) (q t : Nat) (acc : State × List (Nat × Nat × Nat)) : State × List (Nat × Nat × Nat) :=
  let acc := (masksOn acc.1 kind id).foldl (fun (a : State × List (Nat × Nat × Nat)) m =>
    onPair (maskSample a.1 m v q t) fun s b => (s, if b then a.2 ++ [(t, 0, m)] else a.2)) acc
  (unitsOn acc.1 kind id).foldl (fun (a : State × List (Nat × Nat × Nat)) u =>
    onPair (unitSample a.1 u v q t (srcRate a.1 (fget a.1 (Fld.BLV_TR_CTRL_SRC u)))) fun s b =>
      (s, if b then a.2 ++ [(t, 1, u)] else a.2)) acc

/-- The DIV of a group for the set of a tick (R524). -/
def divFor (s : State) (g n f : Nat) : Nat :=
  match (capOf s g).divs.find? fun e => decide (e.1 * f ≤ n * e.2.1) with
  | some e => e.2.2
  | none => 1

/-- The instants of a set's samples, in ns, in order. -/
def setInstants (r : RelSet) : List Nat :=
  sortedBy (fun a b => decide (a < b)) (r.streams.flatMap fun x => x.samples.map fun (e : Nat × List (Int × Nat)) => e.1 * 10 ^ 9 / x.rate).eraseDups

/-- The value of a channel slot in a set at an instant in ns, with its sample's index within the second. -/
def slotAt (r : RelSet) (slot t : Nat) : Option ((Int × Nat) × Nat) :=
  r.streams.findSome? fun x => x.samples.findSome? fun (e : Nat × List (Int × Nat)) =>
    if e.1 * 10 ^ 9 / x.rate = t ∧ x.chbase ≤ slot then (e.2[slot - x.chbase]?).map fun v => (v, e.1 % x.rate) else none

/-- The SAMPLES record of one instant of a set for a group (R524, R528). -/
def samplesRecord (r : RelSet) (g t : Nat) (s : State) : State :=
  let d := divFor s g r.tick r.hz
  let vs := (capSources s g).filterMap fun e =>
    if srcKind s e = 1 then (slotAt r (srcId s e % 2 ^ 14) t).bind fun (v : (Int × Nat) × Nat) => if v.2 % d = 0 then some v.1 else none
    else none
  if vs.isEmpty then s
  else storeRecord s g 1 0 t (vs.flatMap fun (v : Int × Nat) => leBytes 4 (ofSigned 32 v.1) ++ leBytes 4 v.2)

/-- The releases of an alignment group that the closing of captures looks at (R515). -/
def noteRelease (s : State) (r : RelSet) : State :=
  setBlv s { s.blv with rels := tset s.blv.rels r.group (((r.tick, r.hz, s.sdl.fab) :: tat s.blv.rels r.group []).take 64) }

/-- The Belvedere takes a released set (R507, R508). -/
def blvSet (s : State) (r : RelSet) : State :=
  let s := noteRelease s r
  if !blvOn s then s
  else
    let ts := setInstants r
    let s := (List.range 16).foldl (fun s g => if recording s g then ts.foldl (fun s t => samplesRecord r g t s) s else s) s
    let acc := r.streams.foldl (fun (a : State × List (Nat × Nat × Nat)) x =>
      x.samples.foldl (fun (a : State × List (Nat × Nat × Nat)) (e : Nat × List (Int × Nat)) =>
        (e.2.zip (List.range e.2.length)).foldl (fun (a : State × List (Nat × Nat × Nat)) (c : (Int × Nat) × Nat) =>
          reachAll 1 (fun id => id % 2 ^ 14 == x.chbase + c.2) c.1.1 c.1.2 (e.1 * 10 ^ 9 / x.rate) a) a) a) (s, [])
    processAll acc.1 acc.2

/-- The sets that wait for the Belvedere are taken: it takes them within 1 µs, at the end of the command that released them (R508, log 50). -/
def blvDrain (s : State) : State :=
  let rs := s.svi.toBlv
  rs.foldl blvSet { s with svi := { s.svi with toBlv := [] } }

/-- √n to the nearest integer. -/
def roundSqrt (n : Nat) : Nat := let r := isqrt n; if r * r + r < n then r + 1 else r

/-- The value of a DERIVED point that units and masks test (R509). -/
def derivedValue (idx v : Nat) : Int :=
  if (idx < 131072 ∧ idx % 8 = 2) ∨ (131072 ≤ idx ∧ idx < 163840) then
    roundSqrt ((toSigned 32 v).natAbs ^ 2 + (toSigned 32 (v / 2 ^ 32)).natAbs ^ 2)
  else toSigned 64 v

/-- A point's write reaches the groups, units and masks (R507, R524, R528): `n` and `f` are the tick and rate of the set. -/
def blvPoint (n f : Nat) (s : State) (p : Nat × Nat × Nat × Nat) : State :=
  let idx := p.1
  let t := p.2.2.2 / nsUnit
  let s := (List.range 16).foldl (fun s g =>
    if !recording s g then s
    else ((capSources s g).zip (List.range 64)).foldl (fun s (e : Nat × Nat) =>
      if srcKind s e.1 = 2 ∧ srcId s e.1 % 2 ^ 18 = idx ∧ (n % f * srcRate s e.1 / f) % divFor s g n f = 0 then
        storeRecord s g 2 e.2 t (leBytes 8 p.2.1 ++ leBytes 4 p.2.2.1 ++ [0, 0, 0, 0])
      else s) s) s
  let acc := reachAll 2 (fun id => id % 2 ^ 18 == idx) (derivedValue idx p.2.1) p.2.2.1 t (s, [])
  processAll acc.1 acc.2

/-- The points that the Cascade and the Lantern wrote for a set are taken. -/
def blvPoints (s : State) (n f : Nat) : State :=
  let ps := s.blv.points
  let s := setBlv s { s.blv with points := [] }
  if blvOn s then ps.foldl (blvPoint n f) s else s

/-- A level of a POINT or DIN source reaches the units. -/
def reachLevels (kind : Nat) (id : Nat → Bool) (lvl t : Nat) (s : State) : State :=
  let acc := (unitsOn s kind id).foldl (fun (a : State × List (Nat × Nat × Nat)) u =>
    onPair (unitLevel a.1 u lvl t (kind == 4)) fun s b => (s, if b then a.2 ++ [(t, 1, u)] else a.2)) (s, [])
  processAll acc.1 acc.2

/-- An edge of a DIN pin: an EDGE record in the groups that name it, and the units on it (R507, R528). -/
def blvDinEdge (s : State) (pin : Nat) (lvl : Bool) (t : Nat) : State :=
  if !blvOn s then s
  else
    let s := (List.range 16).foldl (fun s g =>
      if !recording s g then s
      else ((capSources s g).zip (List.range 64)).foldl (fun s (e : Nat × Nat) =>
        if srcKind s e.1 = 4 ∧ srcId s e.1 % 32 = pin then
          storeRecord s g 4 e.2 t (leBytes 4 (pin + bitAt lvl 8) ++ List.replicate 12 0)
        else s) s) s
    reachLevels 4 (fun id => id % 32 == pin) (b2n lvl) t s

/-- A frame at Trellis port 19 (R507, R528). -/
def blvFrame (s : State) (f : Frame) (c : Nat) : State :=
  let t := f.ts / nsUnit
  let s := (List.range 16).foldl (fun s g =>
    if !recording s g then s
    else ((capSources s g).zip (List.range 64)).foldl (fun s (e : Nat × Nat) =>
      let id := srcId s e.1
      if srcKind s e.1 = 5 ∧ id % 8 = c then
        let bs := f.bytes.take (bits id 13 8 * 32)
        storeRecord s g 5 e.2 t (leBytes 2 f.bytes.length ++ leBytes 2 bs.length ++ [f.src, b2n f.oversize + 2 * b2n f.fcsBad, 0, 0] ++ bs)
      else s) s) s
  (unitsOn s 5 fun id => id % 8 == c).foldl (fun s u => setUnit s u { unitRun s u with last := some t, fired := false }) s

/-- The Belvedere takes the next frame of port 19 (R230, R507). -/
def blvMirror (s : State) : State :=
  match nextClass s 19 with
  | none => s
  | some c => match headOf s 19 c with
    | none => s
    | some f => let s := takeHead s 19 c; if blvOn s then blvFrame s f c else s

/-! ### The tick (R507, R515, R524, R528) -/

/-- The binary value of a POINT source (R507). -/
def pointValue (s : State) (e : Nat) : Nat := b2n (rdLe s (pointBase s + srcId s e % 2 ^ 25 * 32) 8 != 0)

/-- A group's changes of DIV take effect at the edge of tick `n` at rate `f` (R524). -/
def divEdge (n f t : Nat) (s : State) (g : Nat) : State :=
  let x := capOf s g
  let now := match x.divs with | e :: _ => e.2.2 | [] => 1
  if now = x.div then s
  else
    let s := setCap s g { x with divs := ((n, f, x.div) :: x.divs).take 64, rates := x.rates ++ [(t, x.div, now)] }
    storeMark s g t 2 0 x.div

/-- The STATE record of a tick (R528). -/
def stateRecord8 (t : Nat) (s : State) (g : Nat) : State :=
  if !recording s g then s
  else
    let es := (capSources s g).zip (List.range 64)
    let v := es.foldl (fun a (e : Nat × Nat) => if srcKind s e.1 = 3 then a + pointValue s e.1 * 2 ^ e.2 else a) 0
    storeRecord s g 3 0 t (leBytes 8 v ++ leBytes 4 s.dbg.dinLvl ++ [0, 0, 0, 0])

/-- The change of a source entry that waits takes effect (R531). -/
def srcEdge (s : State) : State :=
  match s.blv.src with
  | none => s
  | some (e, w) =>
    let srcs := match w with | some w => tset s.blv.srcs e w | none => tdel s.blv.srcs e
    capsFollow (mbxEndIfBusy (setBlv s { s.blv with src := none, srcs := srcs }) 0xC00080 0)

/-- What the Belvedere does at the fabric edge of tick `n` at rate `f`, after step 4 of R364. -/
def blvTick (s : State) (n f : Nat) : State :=
  let s := srcEdge s
  if !blvOn s then s
  else
    let t := tickNs n f
    let s := (List.range 16).foldl (divEdge n f t) s
    let ids := ((List.range 64).filter fun u => unitOn s u && srcKind s (fget s (Fld.BLV_TR_CTRL_SRC u)) == 3).map
      fun u => fget s (Fld.BLV_TR_CTRL_SRC u)
    let s := ids.eraseDups.foldl (fun s e => reachLevels 3 (fun id => id == srcId s e) (pointValue s e) t s) s
    let s := (List.range 16).foldl (stateRecord8 t) s
    (List.range 16).foldl (fun s g =>
      let x := capOf s g
      if x.st = .post ∧ x.fin ≤ t then setCap s g { x with edgeAfter := true } else s) s

/-! ### Closing and releasing (R515, R517, R526, R527) -/

/-- The capture of a group has reached its end (R515). -/
def closeDue (s : State) (g : Nat) : Bool :=
  let x := capOf s g
  let gs := ((capSources s g).filterMap (srcGroup s)).eraseDups
  let sampled := (capSources s g).any fun e => srcKind s e == 1 || srcKind s e == 2
  let released (a : Nat) : Bool :=
    match ((tat s.blv.rels a []).filter fun (e : Nat × Nat × Nat) => decide (x.fin * e.2.1 < (e.1 + 1) * 10 ^ 9)).getLast? with
    | some e => decide (e.2.2 + 100000 ≤ s.sdl.fab)
    | none => false
  capOn s g && x.st == .post && (if sampled then gs.all released else x.edgeAfter)

/-- The rate table of a header (R526): the first entry is the DIV in force at the start. -/
def rateTable (x : CapGroup) (start : Nat) : List (Nat × Nat × Nat) :=
  let before := (x.rates.filter fun (r : Nat × Nat × Nat) => decide (r.1 ≤ start)).getLast?
  let later := x.rates.filter fun (r : Nat × Nat × Nat) => decide (start < r.1)
  let first := match before, later with
    | some r, _ => r.2.1
    | none, r :: _ => r.2.2
    | none, [] => match x.divs with | e :: _ => e.2.2 | [] => 1
  (start, first, first) :: later

/-- The 2044 bytes of a header before its CRC (R526). -/
def capHeader (s : State) (g : Nat) (complete : Bool) : List Nat :=
  let x := capOf s g
  let le4 (v : Nat) : List Nat := leBytes 4 v
  let pre := fget s (Fld.BLV_CG_PRE_US g)
  let oldest := match x.recs with | r :: _ => r.ns | [] => 0
  let start := max (x.tT - pre * 1000) oldest
  let rates := rateTable x start
  let flags := flagBits [complete, x.short, x.maskStop, x.soft, decide (32 < rates.length), x.dropped != 0, x.extended]
  let es := capSources s g
  let head := [0x424C5631, 1, g + x.cur * 2 ^ 16, x.seq, flags, x.unit + x.mask * 2 ^ 8, x.tT % 10 ^ 9, 0].flatMap le4 ++
    leBytes 8 (x.tT / 10 ^ 9) ++ leBytes 8 (x.tT * baseHz s / 10 ^ 9) ++ le4 pre ++ le4 (fget s (Fld.BLV_CG_POST_US g)) ++
    leBytes 8 (start / 10 ^ 9) ++ le4 (start % 10 ^ 9) ++ le4 (x.fin % 10 ^ 9) ++ leBytes 8 (x.fin / 10 ^ 9) ++
    [match x.recs with | r :: _ => r.off | [] => 2048, x.next, b2n x.wrapped, x.recs.length, (x.recs.filter fun r => r.mark).length,
     min rates.length 32, es.length, x.dropped].flatMap le4 ++ List.replicate 144 0
  let table := (rates.take 32).flatMap fun (r : Nat × Nat × Nat) =>
    le4 (r.1 / 10 ^ 9) ++ le4 (r.1 % 10 ^ 9) ++ leBytes 2 r.2.1 ++ leBytes 2 r.2.2 ++ le4 0
  let srcs := es.flatMap fun e => le4 (tat s.blv.srcs e 0) ++ le4 (srcRate s e) ++ le4 ((srcGroup s e).getD 0) ++ le4 0
  let fill (n : Nat) (bs : List Nat) : List Nat := bs ++ List.replicate (n - bs.length) 0
  fill 2044 (fill 0x700 (fill 0x300 (head ++ table) ++ srcs))

/-- A slot's header is written, the word with COMPLETE last and in a separate write (R515, R527); `open_` is the header without it. -/
def capSeal (s : State) (base : Nat) (open_ body : List Nat) : State :=
  physPut (physPut s blvMid base (open_ ++ leBytes 4 (crc32 body))) blvMid (base + 0x10) ((body.drop 0x10).take 4)

/-- A capture `x` is done: its slot is held, and the next free one is armed (R515, R526, R527). -/
def capEnd (s : State) (g : Nat) (x : CapGroup) : State :=
  let s := cinc (setCap s g { x with heldSlots := setBit x.heldSlots x.cur }) (Fld.BLV_CG_CAPS_COUNT g)
  match freeSlot s g ((x.cur + 1) % capSlots s g) with
  | some k => capArm s g k
  | none => setCap s g { capOf s g with st := .full, recs := [] }

/-- A capture closes: its header is written, the word with COMPLETE last, and the group moves on (R515, R526, R527). -/
def captureClose (s : State) (g : Nat) : State :=
  if !closeDue s g then s
  else capEnd (capSeal s (slotBase s g (capOf s g).cur) (capHeader s g false) (capHeader s g true)) g (capOf s g)

/-- A held slot is released (R517). -/
def releaseSlot (g : Nat) (s : State) (k : Nat) : State :=
  let x := capOf s g
  if !bit x.heldSlots k then wign s 0xC02000
  else
    let s := setCap s g { x with heldSlots := clrBit x.heldSlots k }
    if x.st = .full then capArm s g k else s

/-- A command trigger: the group triggers at T (R514). -/
def commandTrigger (s : State) (g : Nat) : State :=
  if recording s g && (capOf s g).st == .record then capTrigger s g (nowNs s) 0 none true else s

/-! ### Rate reduction (R522, R523) -/

/-- A group takes part in rate reduction. -/
def reducible (s : State) (g : Nat) : Bool := recording s g && (capSources s g).any fun e => srcKind s e == 1 || srcKind s e == 2

/-- The first of some groups under an order. -/
def pickGroup (lt : Nat → Nat → Bool) (gs : List Nat) : Option Nat :=
  gs.foldl (fun (a : Option Nat) g => match a with | none => some g | some b => if lt g b then some g else some b) none

/-- PRIO of a group. -/
def capPrio (s : State) (g : Nat) : Nat := fget s (Fld.BLV_CG_CTRL_PRIO g)

/-- A halving step (R522). -/
def halvingStep (s : State) : State :=
  let soon := match s.blv.stepAt with | some t => decide (s.sdl.fab < t + 10000) | none => false
  if bufferFill s < 3 * 2 ^ 19 || soon || !blvOn s then s
  else
    let key (g : Nat) : Nat := (capOf s g).div * 256 + (15 - capPrio s g) * 16 + (15 - g)
    match pickGroup (fun a b => decide (key a < key b)) ((List.range 16).filter fun g => reducible s g && decide ((capOf s g).div < 128)) with
    | none => s
    | some g =>
      let x := capOf s g
      let s := setBlv s { s.blv with stepAt := some s.sdl.fab }
      cinc (setCap s g { x with div := x.div * 2 }) Fld.BLV_RREDUCE_COUNT

/-- A restore step (R523). -/
def restoreStep (s : State) : State :=
  if 2 ^ 19 ≤ bufferFill s || s.sdl.fab < s.blv.lowAt + 1000000 || !blvOn s then s
  else
    let key (g : Nat) : Nat := (128 - (capOf s g).div) * 256 + capPrio s g * 16 + g
    match pickGroup (fun a b => decide (key a < key b)) ((List.range 16).filter fun g => decide (1 < (capOf s g).div)) with
    | none => s
    | some g =>
      let x := capOf s g
      let s := setBlv s { s.blv with lowAt := s.sdl.fab }
      setCap s g { x with div := x.div / 2 }

/-! ### Pages and mailboxes (R530–R534) -/

/-- A source entry is named by an enabled unit, mask or group (R531). -/
def srcInUse (s : State) (e : Nat) : Bool :=
  ((List.range 64).any fun u => fbit s (Fld.BLV_TR_CTRL_EN u) && fget s (Fld.BLV_TR_CTRL_SRC u) == e) ||
  ((List.range 64).any fun m => fbit s (Fld.BLV_MK_CTRL_EN m) && fget s (Fld.BLV_MK_CTRL_SRC m) == e) ||
  ((List.range 16).any fun g => fbit s (Fld.BLV_CG_CTRL_EN g) && (capSources s g).contains e)

/-- A change of a source entry waits for the next fabric edge, or acts at once while none will come (R531; log 50). -/
def srcTake (s : State) (e : Nat) (w : Option Nat) : State :=
  let s := setBlv s { s.blv with src := some (e, w) }
  if genActive s then s else srcEdge s

/-- A BLV_SRC request (R507, R531). -/
def blvMbx (r : BlvReg) (a : Nat) (s : State) : State :=
  let b := mbxAt s a
  let e := b.arg % 1024
  let kind := let k := b.w 0 / 2 ^ 28; if 1 ≤ k ∧ k ≤ 5 then k else 5
  let id := b.w 0 % 2 ^ 28
  let id := if kind = 5 then id - bits id 13 8 * 256 + clampTo 2 48 (bits id 13 8) * 256 else id
  match r, b.op, b.wr with
  | .BLV_SRC, 0x01, true => if srcInUse s e then mbxEnd s a 0x05 else srcTake s e (some (kind * 2 ^ 28 + id))
  | .BLV_SRC, 0x02, false => mbxAnswer s a 0 [w32 (tat s.blv.srcs e 0), w32 (bitAt (tget s.blv.srcs e).isSome 31)]
  | .BLV_SRC, 0x03, true => if srcInUse s e then mbxEnd s a 0x05 else srcTake s e none
  | _, _, _ => mbxEnd s a 0xFF

/-- A `wsc` write of a BLV register (R514, R517). -/
def blvWsc (r : BlvReg) (g v : Nat) (s : State) : State :=
  match r with
  | .BLV_CG_CMD =>
    let s := if bit v 31 then commandTrigger s g else s
    (bitsOf v 16).foldl (releaseSlot g) s
  | _ => s

/-- The settings that decide a mask's table. -/
def maskKey (s : State) (m : Nat) : List Nat :=
  [fget s (Fld.BLV_MK_TBL_ADDR m), fget s (Fld.BLV_MK_CTRL_NPT m), fget s (Fld.BLV_MK_CTRL_EN m), fget s (Fld.BLV_MK_CTRL_STOP m),
   fget s (Fld.BLV_MK_CTRL_GROUP m), fget s (Fld.BLV_MK_CTRL_SRC m)]

/-- An application of a mask's TBL or CTRL asks for a copy of its table (R521). -/
def maskApplied (s : State) (m : Nat) : State :=
  setBlv s { s.blv with masks := tset s.blv.masks m { tat s.blv.masks m {} with due := some s.sdl.fab } }

/-- What the Belvedere does after settings have been applied (R513, R521, R530). -/
def blvApplied (old s : State) : State :=
  let s := (List.range 64).foldl (fun s m => if maskKey s m = maskKey old m then s else maskApplied s m) s
  let s := (List.range 64).foldl (fun s u => if unitOn old u && !unitOn s u then setBlv s { s.blv with units := tdel s.blv.units u } else s) s
  capsFollow s

/-- The buffer's level is settled before BLV_WBW changes (R522). -/
def blvChanged (r : BlvReg) (old s : State) : State :=
  match r with
  | .BLV_WBW => setBlv s { s.blv with fill := bufferFill old, fillAt := s.sdl.fab }
  | _ => s

/-- A soft reset of BLV page `p` (R530). -/
def blvSrst (p : Nat) (s : State) : State :=
  match p with
  | 0 => (List.range 16).foldl (fun s g =>
      let x := capOf s g
      let s := setCap s g { x with div := 1, divs := [] }
      if capOn s g && (x.st == .record || x.st == .post) then capArm s g x.cur else s) s
  | 1 => setBlv s { s.blv with units := [] }
  | _ => s

end Sys2Proof.Machine
end

