-- ==== Sys2Proof/Machine/Gatehouse.lean ====
section
/-! DEFINITION. The requests of the Gatehouse: slots, lifecycle, fuses, tags and debug unlock (R560–R563, R571, R574, R578–R584, R587). -/

namespace Sys2Proof.Machine

/-- Words of octets, filled with zeros. -/
def gthWords (bs : List Nat) : List Word := wordsOfBytes ((bs.length + 3) / 4) bs

/-! ### GTH_REQ (R578–R580) -/

/-- A buffer of a request (R578): guest-physical for a pavilion, else physical. -/
def gthBuffer (s : State) (pav : Option Nat) (a n : Nat) : State × Option (List Nat) :=
  match pav with
  | some p => engRead s p gthMid a n
  | none => physRead s gthMid a n

/-- The tag bytes that a request asks for: 8 or 16 (R78, R579). -/
def tagBytes (d0 : Nat) : Nat := if d0 / 2 ^ 24 ≤ 12 then 8 else 16

/-- What follows a use of a slot: `bad` with its CODE where it is refused, else `good` with the key (R570, R578). -/
def onKey {γ : Type} (x : State × Nat × List Nat) (bad : State → Nat → γ) (good : State → List Nat → γ) : γ :=
  if x.2.1 ≠ 0 then bad x.1 x.2.1 else good x.1 x.2.2

/-- A use of a slot by a request ends with a CODE, or goes on with the key and the buffer (R570, R578, R579). -/
def gthUse (s : State) (a use : Nat) (fixed : Option Nat) (go : State → List Nat → List Nat → State) : State :=
  let b := mbxAt s a
  let pav := if bit b.arg 15 then some (b.arg % 1024) else none
  let n := b.w 3 % 2 ^ 17
  onKey (useKey s (b.w 0 % 4096) use b.mid pav) (fun s code => mbxEnd s a code) fun s key =>
    if (match fixed with | some m => n != m | none => n == 0 || decide (65536 < n)) then mbxEnd s a 0x0F
    else onOpt (gthBuffer s pav (b.w2 1) n) (fun s => mbxEnd s a 0x12) fun s bs =>
        go s key bs

/-- The GMAC tag of a request's buffer. -/
def gmacTag (b : Mbx) (key bs : List Nat) : List Nat :=
  toBe 16 (Config.gmac key (bytesOfWords [w32 (b.w 4), w32 (b.w 5), w32 (b.w 6)]) bs % 2 ^ 128)

/-- A GTH_REQ request of pair `k`, a write request, since every operation takes data (R55, R578, R579, R586; DEDUCED, log 51); the octets of D0 to D3 behind the tag are open (log 51). -/
def gthReq (s : State) (a k : Nat) : State :=
  let b := mbxAt s a
  if !enabled s (0xE10000 + k * 0x1000) then mbxEnd s a 0x0A
  else if !b.wr then mbxEnd s a 0xFF
  else match b.op with
    | 0x01 => gthUse s a 0 none fun s key bs =>
        let n := tagBytes (b.w 0)
        mbxAnswer (drew s) a 0 (gthWords ((gmacTag b key bs).take n ++ leBytes (16 - n) (drawn 64 s)))
    | 0x02 => gthUse s a 0 none fun s key bs =>
        let n := tagBytes (b.w 0)
        let want := bytesOfWords ((List.range 4).map fun i => w32 (b.w (8 + i)))
        mbxEnd s a (if (gmacTag b key bs).take n = want.take n then 0 else 0x0B)
    | 0x03 => gthUse s a 1 none fun s key bs => mbxAnswer s a 0 (gthWords (toBe 32 (Config.hmac key bs % 2 ^ 256)))
    | 0x04 => gthUse s a 3 (some 144) fun s key bs =>
        mbxEnd s a (if Config.p384 key (ofBe (bs.take 48)) (bs.drop 48) then 0 else 0x0C)
    | 0x05 =>
      let pav := if bit b.arg 15 then some (b.arg % 1024) else none
      if tampered s 1 then mbxEnd s a 0x05
      else onKey (useKey s (b.w 0 % 4096) 4 b.mid pav) (fun s code => mbxEnd s a code) fun s key =>
        let nonce := bytesOfWords ((List.range 4).map fun i => w32 (b.w (4 + i)))
        mbxAnswer s a 0 (gthWords (toBe 32 (Config.hmac key (nonce ++ ascii "OPEN") % 2 ^ 256)))
    | _ => mbxEnd s a 0xFF

/-! ### GTH_KEY: slots (R560, R563, R566, R571, R574, R580, R587) -/

/-- The uses that an ALG admits in a slot (R563). -/
def usesFor (k alg uses : Nat) : Nat :=
  let mask := match alg with
    | 1 => 0x01 | 2 => 0x21 | 3 => if k = 4095 then 0x16 else 0x06 | _ => 0x08
  uses &&& mask

/-- A slot is among the ancestors of a slot. -/
def isAncestor (s : State) (k : Nat) : Nat → Nat → Bool
  | 0, _ => false
  | n + 1, j => match tget s.gth.slots j with
    | some x => x.type == 2 && (x.parent == k || isAncestor s k n x.parent)
    | none => false

/-- A DERIVED slot may not be written (R571). -/
def depthRefused (s : State) (k : Nat) (x : KeySlot) : Bool :=
  x.alg == 4 || !derivable s x.parent || x.parent == k || isAncestor s k 9 x.parent || decide (7 ≤ slotDepth s 8 x.parent) ||
  (match tget s.gth.slots x.parent with | some p => !bit p.uses 2 | none => true)

/-- The slot that a WRITE buffer describes, its key still empty; or a CODE (R564, R587). -/
def slotOfBuffer (k : Nat) (b : List Nat) : Sum Nat KeySlot :=
  let w (o n : Nat) : Nat := ofLe ((b.drop o).take n)
  let type := w 6 1
  let alg := w 7 1
  if w 0 4 ≠ 0x4B534847 ∨ w 4 2 ≠ k ∨ 3 < type ∨ (type = 2 ∧ (w 0xE 1 = 0 ∨ 64 < w 0xE 1 ∨ 4095 < w 0xC 2)) then .inl 0x0F
  else if type = 0 ∨ alg = 0 ∨ 4 < alg ∨ (type = 1 ∧ alg = 4) ∨ (type = 3 ∧ alg ≠ 4) ∨ (k = 4095 ∧ (type ≠ 1 ∨ alg ≠ 3)) then .inl 0x04
  else .inr { type := type, alg := alg, parent := if type = 2 then w 0xC 2 else 0,
              label := if type = 2 then (b.drop 0x20).take (w 0xE 1) else [], uses := usesFor k alg (w 0x10 4),
              mids := [w 0x14 2, w 0x16 2, w 0x18 2, w 0x1A 2], pavLo := w 0x1C 2, pavHi := w 0x1E 2,
              key := if type = 3 then (b.drop 0x60).take 96 else [] }

/-- The Orangery accepts a new key, as its shadows show (R580). -/
def metroOpen (s : State) : Bool := let w := tat s.reg.shadow 0xB00040 0; bit w 31 || !bit w 29

/-- A WRITE with its slot and mode: the key is taken, unwrapped or generated, and the update begins (R560, R566). -/
def keyWriteTake (s : State) (k : Nat) (x : KeySlot) (bs : List Nat) : State :=
  let b := mbxAt s gthKeyMbx
  let n := algBits x.alg / 8
  let mode := min (b.w 2 % 4) 2
  if x.type = 2 then (if depthRefused s k x then mbxEnd s gthKeyMbx 0x06 else startUpdate s k (some x) 0x01 0)
  else if x.type = 3 then startUpdate s k (some x) 0x01 0
  else match mode with
    | 0 => if 2 ≤ s.gth.lc then mbxEnd s gthKeyMbx 0x05 else startUpdate s k (some { x with key := (bs.drop 0x60).take n }) 0x01 0
    | 1 => onKey (useKey s (b.w 3 % 4096) 5 b.mid none) (fun s code => mbxEnd s gthKeyMbx code) fun s key =>
        let kd := bs.drop 0x60
        match Config.gcmOpen key ((kd.drop n).take 12) (bs.take 0x60) (kd.take n) ((kd.drop (n + 12)).take 16) with
        | some v => startUpdate s k (some { x with key := (v ++ List.replicate n 0).take n }) 0x01 0
        | none => mbxEnd s gthKeyMbx 0x0C
    | _ =>
      if s.gth.entErr then mbxEnd s gthKeyMbx 0x0D
      else startUpdate (drew s) k (some { x with key := leBytes n (drawn (8 * n) s) }) 0x01 0

/-- WRITE (R566, R587). -/
def keyWrite (s : State) (k : Nat) : State :=
  let b := mbxAt s gthKeyMbx
  if s.gth.rootSt ≠ 1 then mbxEnd s gthKeyMbx 0x09
  else if s.gth.lc = 3 then mbxEnd s gthKeyMbx 0x05
  else if k = 4095 ∧ !metroOpen s then mbxEnd s gthKeyMbx 0x0E
  else onOpt (physRead s gthMid (b.w2 0) 256) (fun s => mbxEnd s gthKeyMbx 0x12) fun s bs =>
      match slotOfBuffer k bs with
      | .inl c => mbxEnd s gthKeyMbx c
      | .inr x => keyWriteTake s k x bs

/-- STATE of a slot: 0 EMPTY, 1 VALID, 2 REVOKED, 3 BAD (DESIGN CHOICE, log 51). -/
def slotState (s : State) (k : Nat) : Nat :=
  if s.gth.bad.contains k then 3 else match tget s.gth.slots k with
    | none => 0
    | some x => if x.revoked then 2 else 1

/-- The check value of a slot's key (R587); 0 where the slot has no secret value. -/
def keyCheck (s : State) (k : Nat) : Nat :=
  match tget s.gth.slots k with
  | some x => if x.type = 1 ∨ (x.type = 2 ∧ ancestorsValid s 8 k) then ofLe ((toBe 32 (Config.hmac (keyValue s 9 k) (ascii "KCV") % 2 ^ 256)).take 4)
      else 0
  | none => 0

/-- READ (R587). -/
def keyRead (s : State) (k part : Nat) : State :=
  let x := (tget s.gth.slots k).getD { type := 0, alg := 0, pavLo := 0, pavHi := 0 }
  let m (i : Nat) : Nat := x.mids.getD i 0
  match part with
  | 0 => mbxAnswer s gthKeyMbx 0 ([slotState s k * 2 ^ 30 + x.type * 2 ^ 16 + x.alg * 2 ^ 8 + x.uses % 64, x.ver, m 1 * 2 ^ 16 + m 0,
      m 3 * 2 ^ 16 + m 2, x.pavHi * 2 ^ 16 + x.pavLo, (if x.type = 2 then slotDepth s 8 k else 0) * 2 ^ 16 + x.parent % 4096,
      keyCheck s k].map w32)
  | 1 | 2 => if x.type = 3 then mbxAnswer s gthKeyMbx 0 (gthWords (if part = 1 then x.key.take 48 else x.key.drop 48)) else mbxEnd s gthKeyMbx 0x04
  | _ => mbxEnd s gthKeyMbx 0x0F

/-- REVOKE takes effect at once, and its record follows (R574, R575). -/
def keyRevoke (s : State) (k : Nat) : State :=
  if s.gth.rootSt ≠ 1 then mbxEnd s gthKeyMbx 0x09
  else if s.gth.lc = 3 then mbxEnd s gthKeyMbx 0x05
  else if k = 4095 ∧ !metroOpen s then mbxEnd s gthKeyMbx 0x0E
  else if s.gth.bad.contains k then mbxEnd s gthKeyMbx 0x03
  else match tget s.gth.slots k with
    | none => mbxEnd s gthKeyMbx 0x04
    | some x =>
      let x := { x with revoked := true }
      let n := (descendants s k).length
      let s := purgeCache { s with gth := { s.gth with slots := tset s.gth.slots k x } } k
      startUpdate s k (some x) 0x03 n

/-- ERASE (R574). -/
def keyErase (s : State) (k : Nat) : State :=
  if s.gth.rootSt ≠ 1 then mbxEnd s gthKeyMbx 0x09
  else if s.gth.lc = 3 then mbxEnd s gthKeyMbx 0x05
  else if k = 4095 ∧ !metroOpen s then mbxEnd s gthKeyMbx 0x0E
  else if slotState s k = 0 then mbxEnd s gthKeyMbx 0x04
  else startUpdate s k none 0x04 0

/-! ### GTH_KEY: lifecycle, metrology and fuses (R561, R562, R580, R582) -/

/-- LIFECYCLE (R561, R562). -/
def keyLifecycle (s : State) : State :=
  let b := mbxAt s gthKeyMbx
  let t := b.w 0 % 4
  let old := s.gth.lc
  let rows := (List.range 4).any fun r => (tget s.gth.rows r).isSome && !bit s.gth.rev r
  if b.w 1 ≠ 0x4C435931 then mbxEnd s gthKeyMbx 0x0F
  else if !(t == 3 || (t == old + 1 && decide (t ≤ 2))) || (t == 1 && !rows) || decide (3 ≤ old) then mbxEnd s gthKeyMbx 0x05
  else
    let g := s.gth
    let s := { s with gth := if t = 3 then
        { g with lc := t, bank0 := .partly, bank1 := .partly, rootSt := 3, root := 0, birth := none, slots := [], bad := [], cache := [] }
      else { g with lc := t } }
    mbxEnd (gthRecord s 0x0404 [old, t, b.mid]) gthKeyMbx 0

/-- METROLOAD (R580). -/
def keyMetroload (s : State) (k : Nat) : State :=
  let b := mbxAt s gthKeyMbx
  if k ≠ 4095 then mbxEnd s gthKeyMbx 0x0F
  else onKey (useKey s 4095 4 b.mid none) (fun s code => mbxEnd s gthKeyMbx code) fun s key =>
      if (mbxAt s ornReqMbx).busy then mbxAnswer s gthKeyMbx 0x10 [0xFF]
      else
        let req : Mbx := { mbxAt s ornReqMbx with arg := 0, op := 0x0A, wr := true, busy := true, valid := false, mid := gthMid, d := gthWords key }
        let s := ornMbx .ORN_REQ ornReqMbx (setMbx s ornReqMbx req)
        let s := setMbx s ornReqMbx { mbxAt s ornReqMbx with d := [] }
        let c := (mbxAt s ornReqMbx).code
        let ver := match tget s.gth.slots 4095 with | some x => x.ver | none => 0
        mbxAnswer (gthRecord s 0x0409 [c, ver]) gthKeyMbx (if c = 0 then 0 else 0x10) [w32 c]

/-- FUSEKEY (R582). -/
def keyFusekey (s : State) : State :=
  let b := mbxAt s gthKeyMbx
  let r := b.w 0 % 8
  if 2 ≤ s.gth.lc then mbxEnd s gthKeyMbx 0x05
  else if 4 < r then mbxEnd s gthKeyMbx 0x0F
  else if (tget s.gth.rows r).isSome then mbxEnd s gthKeyMbx 0x11
  else onOpt (physRead s gthMid (b.w2 1) 48) (fun s => mbxEnd s gthKeyMbx 0x12) fun s bs =>
      mbxEnd (gthRecord { s with gth := { s.gth with rows := tset s.gth.rows r bs } } 0x040B [r, 0, 0]) gthKeyMbx 0

/-- FUSEREV (R582). -/
def keyFuserev (s : State) : State :=
  let r := (mbxAt s gthKeyMbx).w 0 % 8
  if s.gth.lc = 0 ∨ s.gth.lc = 3 then mbxEnd s gthKeyMbx 0x05
  else if 4 < r then mbxEnd s gthKeyMbx 0x0F
  else mbxEnd (gthRecord { s with gth := { s.gth with rev := setBit s.gth.rev r } } 0x040B [r, 1, 0]) gthKeyMbx 0

/-- BOOTVER (R582). -/
def keyBootver (s : State) : State :=
  let n := min ((mbxAt s gthKeyMbx).w 0 % 128) 64
  if s.gth.lc = 0 ∨ s.gth.lc = 3 then mbxEnd s gthKeyMbx 0x05
  else if n ≤ s.gth.bootver then mbxEnd s gthKeyMbx 0x11
  else mbxEnd (gthRecord { s with gth := { s.gth with bootver := n } } 0x040B [0, 2, n]) gthKeyMbx 0

/-- A GTH_KEY request (R584, R586, R587); the order of the tests is the model's (log 51). -/
def gthKeyReq (s : State) : State :=
  let b := mbxAt s gthKeyMbx
  let k := b.arg % 4096
  if b.op = 0 ∨ 9 < b.op ∨ b.wr = (b.op == 0x02) then mbxEnd s gthKeyMbx 0xFF
  else if !gthUp s then mbxEnd s gthKeyMbx 0x0A
  else if b.wr && tampered s 1 then mbxEnd s gthKeyMbx 0x05
  else match b.op with
    | 0x01 => keyWrite s k
    | 0x02 => keyRead s k (b.arg / 2 ^ 14)
    | 0x03 => keyRevoke s k
    | 0x04 => keyErase s k
    | 0x05 => keyLifecycle s
    | 0x06 => keyMetroload s k
    | 0x07 => keyFusekey s
    | 0x08 => keyFuserev s
    | _ => keyBootver s

/-! ### GTH_DBG (R583) -/

/-- CHALLENGE (R559, R583). -/
def dbgChallenge (s : State) (a : Nat) : State :=
  if s.gth.entErr then mbxEnd s a 0x0D
  else
    let c := drawn 256 s
    let s := drew s
    mbxAnswer { s with gth := { s.gth with challenge := some c } } a 0 (leWords 8 c ++ leWords 2 Config.deviceIdentity)

/-- The third part of UNLOCK is checked against row 4 and the challenge (R583). -/
def unlockGood (s : State) : Bool :=
  let part (i : Nat) : List Nat := tat s.gth.unlockParts i []
  let key := part 0 ++ part 1
  match s.gth.challenge, tget s.gth.rows 4 with
  | some c, some row =>
    !bit s.gth.rev 4 && toBe 48 (Config.sha384 key % 2 ^ 384) == row &&
    Config.p384 key (Config.sha384 (leBytes 32 c ++ leBytes 8 Config.deviceIdentity ++ ascii "UNLOCK")) (part 2 ++ part 3)
  | _, _ => false

/-- UNLOCK (R583). -/
def dbgUnlock (s : State) (a : Nat) : State :=
  let b := mbxAt s a
  let p := b.arg % 4
  if s.gth.lc = 3 ∨ 8 ≤ s.gth.fails then mbxEnd s a 0x05
  else
    let bs := bytesOfWords ((List.range 12).map fun i => w32 (b.w i))
    let s := { s with gth := { s.gth with unlockParts := tset s.gth.unlockParts p bs } }
    if p < 3 then mbxEnd s a 0
    else
      let ok := unlockGood s
      let s := { s with gth := { s.gth with challenge := none, unlockParts := [] } }
      if ok then mbxEnd (gthRecord { s with gth := { s.gth with unlocked := true } } 0x0405 []) a 0
      else mbxEnd (cinc { s with gth := { s.gth with fails := s.gth.fails + 1 } } Fld.GTH_DBGFAIL_COUNT) a 0x0C

/-- A GTH_DBG request (R583, R587). -/
def gthDbgReq (s : State) (a : Nat) : State :=
  let b := mbxAt s a
  match b.op, b.wr with
  | 0x01, false => dbgChallenge s a
  | 0x02, true => dbgUnlock s a
  | _, _ => mbxEnd s a 0xFF

/-- A request of a GTH mailbox; `j` is the pair for GTH_REQ. -/
def gthMbx (r : GthReg) (a j : Nat) (s : State) : State :=
  match r with
  | .GTH_KEY => gthKeyReq s
  | .GTH_DBG => gthDbgReq s a
  | .GTH_REQ => gthReq s a j
  | _ => s

/-! ### Pages, tamper and entropy (R559, R569, R584, R586) -/

/-- What follows a change of EN of GTH page `p` (R569, R586). -/
def gthEnable (p : Nat) (on : Bool) (s : State) : State :=
  if p ≠ 0 then s
  else { s with gth := { s.gth with slots := [], bad := [], cache := [], loading := on } }

/-- A soft reset of GTH page `p` (R586). -/
def gthSrst (p : Nat) (s : State) : State :=
  if p = 0 then { s with gth := { s.gth with cache := [], loading := enabled s 0xE00000 } }
  else if 16 ≤ p then mbxEndIfBusy s (0xE00040 + p * 0x1000) 0xFE
  else s

/-- What TAMPACT does to the derived cache while the tamper latch is set (R584). -/
def tamperPurge (s : State) : State := if tampered s 1 then { s with gth := { s.gth with cache := [] } } else s

/-- The tamper latch sets (R584). -/
def gthTamper (s : State) : State := tamperPurge (gthRecord s 0x040A [fget s Fld.GTH_CFG_TAMPACT])

/-- What follows a write of a GTH register (R584). -/
def gthChanged (r : GthReg) (s : State) : State :=
  match r with
  | .GTH_CFG => tamperPurge s
  | _ => s

end Sys2Proof.Machine
end

