-- ==== Sys2Proof/Machine/Integrity.lean ====
section
/-! DEFINITION. Integrity: bursts with wrong symbols, marks, poison and the patrol scrub (R594–R598, R604–R606), the on-chip scrub,
the register sweep and the Gatehouse compare (R599–R604), late background work (R607) and telemetry (R613, R614). What is found wrong
in a memory comes from outside, as an operand of the command. -/

namespace Sys2Proof.Machine

/-- Pages 0 to 3 of MEM. -/
def memPage (i : Nat) : Nat := 0xF00000 + i * 0x1000

/-- Master identity of the patrol scrub and of telemetry (R15, R613). -/
def scrubMid : Nat := 0x300C

/-! ### DRAM bursts (R594–R598) -/

/-- What a decoded burst is (R595). -/
inductive Burst where
  | clean
  /-- Corrected: the devices of the corrected symbols of each corrected codeword. -/
  | corrected (cw : List (List Nat))
  | uncorrectable
deriving DecidableEq, Repr

/-- The device that drives a symbol position of a codeword (R594). -/
def deviceAt (pos : Nat) : Nat := pos / 2

/-- Every element equals the first. -/
def allEqual : List Nat → Bool
  | [] => true
  | x :: xs => xs.all (· == x)

/-- The decoding of a burst whose codewords hold wrong symbols at these positions, with the mark of its subchannel and rank (R595,
R596). A codeword beyond the code's reach is uncorrectable (log 52). -/
def decodeBurst (mark : Option Nat) (errs : List (List Nat)) : Burst :=
  let cw := (errs.take 4).map fun (c : List Nat) => (c.eraseDups.map deviceAt)
  let bad := cw.filter fun (c : List Nat) => !c.isEmpty
  if bad.isEmpty then .clean
  else
    let ok := match mark with
      | none => cw.all (fun (c : List Nat) => decide (c.length ≤ 2)) &&
          (allEqual cw.flatten || cw.all fun (c : List Nat) => decide (c.length ≤ 1))
      | some d =>
        let more := cw.map fun (c : List Nat) => c.filter (· != d)
        more.all (fun (c : List Nat) => decide (c.length ≤ 1)) && allEqual more.flatten
    if ok then .corrected (bad.map fun (c : List Nat) => c.eraseDups) else .uncorrectable

/-- A device implicated in a corrected codeword: at MEM_MARKTHR it is marked, if its subchannel and rank hold no mark (R596). -/
def implicate (s : State) (j line mid d : Nat) : State :=
  let n := tat s.integ.implicated (16 * j + d) 0 + 1
  let s := { s with integ := { s.integ with implicated := tset s.integ.implicated (16 * j + d) n } }
  if fget s Fld.MEM_MARKTHR_THR ≤ n ∧ (tget s.integ.marks j).isNone then
    raiseFault { s with integ := { s.integ with marks := tset s.integ.marks j d } } 9 [j, line / 64 % 2 ^ 32, d, mid]
  else s

/-- A corrected codeword is counted (R595, R596). -/
def countCodeword (s : State) (j line mid : Nat) (ds : List Nat) : State :=
  let s := raiseFault (cinc s Fld.MEM_CE_COUNT) 8 [j, line / 64 % 2 ^ 32, ds.headD 0, mid]
  ds.foldl (fun s d => implicate s j line mid d) s

/-- A line becomes poisoned (R598). -/
def poisonLine (s : State) (line : Nat) : State :=
  if s.integ.poison.contains line then s else { s with integ := { s.integ with poison := s.integ.poison ++ [line] } }

/-- A DRAM line is read by a master or by the scrub, with these wrong symbols (R595–R598). -/
def readLine (s : State) (j line mid : Nat) (scrub : Bool) (errs : List (List Nat)) : State :=
  match decodeBurst (tget s.integ.marks j) errs with
  | .clean => s
  | .corrected cw => cw.foldl (fun s ds => countCodeword s j line mid ds) s
  | .uncorrectable =>
    let s := if ueHeld s then s else { s with integ := { s.integ with
      uePage := line / 64 % 2 ^ 32, ueValid := true, ueScrub := scrub, ueLine := line % 64, ueMid := mid } }
    let s := cinc s (if scrub then Fld.MEM_SCRUE_COUNT else Fld.MEM_UE_COUNT)
    raiseFault (poisonLine s line) 10 [j, line / 64 % 2 ^ 32, 0, mid]

/-! ### Background work (R604–R607) -/

/-- An activity has completed a pass, so its bound runs anew. -/
def bgDone (i : Integ) (n : Nat) : Integ := { i with late := i.late.filter (· != n) }

/-- Lines of the populated DRAM. -/
def dramLines (s : State) : Nat := s.integ.gib * 2 ^ 24

/-- The patrol scrub reads its next line, of subchannel and rank index `j`, with these wrong symbols (R604, R606). -/
def dramScrub (s : State) (j : Nat) (errs : List (List Nat)) : State :=
  if !enabled s (memPage 0) || !fbit s Fld.MEM_SCRUB_EN || s.integ.gib == 0 then s
  else
    let line := s.integ.scrubLine
    let s := if s.integ.poison.contains line then noteUE s line scrubMid true else readLine s j line scrubMid true errs
    let i := s.integ
    if line + 1 < dramLines s then { s with integ := { i with scrubLine := line + 1 } }
    else
      { s with integ := bgDone { i with scrubLine := 0, passes := (i.passes + 1) % 2 ^ 16, implicated := [],
                                        passSecs := min ((s.sdl.fab - i.scrubAt) / 10 ^ 9) 0xFFFF, scrubAt := s.sdl.fab } 0 }

/-- What is found wrong with an on-chip item (R599). -/
inductive OcFind where
  | clean | corrected | uncorrectable
deriving DecidableEq, Repr

/-- What an uncorrectable error does to an item of a unit: a line of L3 or SRAM is poisoned, a sample is substituted at release, a frame
is dropped, an event is discarded; the two copies of Cascade and Lantern state differ (R599). -/
def ocLose (s : State) (u bank item : Nat) : State :=
  match u with
  | 1 => poisonLine s item
  | 2 => poisonLine s (0x4000000000 / 64 + bank % 64 * 16384 + item % 16384)
  | 4 => match s.svi.buf[item]? with
    | some x => { s with svi := { s.svi with buf := s.svi.buf.eraseIdx item, rej := s.svi.rej ++ [(x.stream, x.idx)] } }
    | none => s
  | 5 =>
    let keep (q : Tbl (List Frame)) : Tbl (List Frame) :=
      (q.map fun (e : Nat × List Frame) => (e.1, e.2.filter fun f => f.order != item)).filter fun (e : Nat × List Frame) => !e.2.isEmpty
    let moving := s.trl.stage.map fun (e : Nat × List Moving) => (e.1, e.2.map fun x => { x with lost := x.lost || x.frame.order == item })
    let hit := ((s.trl.out ++ s.trl.voq).any fun (e : Nat × List Frame) => e.2.any fun f => f.order == item) || moving != s.trl.stage
    let gone := (s.trl.out ++ s.trl.voq).map fun (e : Nat × List Frame) => (e.1, e.2.filter fun f => f.order == item)
    if !hit then s
    else gone.foldl flushStamps (cinc { s with trl := { s.trl with out := keep s.trl.out, voq := keep s.trl.voq, stage := moving } }
      Fld.TRL_ECC_DROP_COUNT)
  | 6 =>
    let keep (q : Tbl (List QEv)) : Tbl (List QEv) :=
      (q.map fun (e : Nat × List QEv) => (e.1, e.2.filter fun x => x.seq != item)).filter fun (e : Nat × List QEv) => !e.2.isEmpty
    { s with bnd := { s.bnd with queues := keep s.bnd.queues, slots := keep s.bnd.slots } }
  | _ => s

/-- An item of on-chip unit `u` is found right or wrong (R599). -/
def ocFound (s : State) (u bank item : Nat) (f : OcFind) : State :=
  match f with
  | .clean => s
  | .corrected => raiseOpen (cinc s (Fld.MEM_OCCE_COUNT u)) (if u = 3 then 4 else 11) u 0
  | .uncorrectable => raiseOpen (ocLose (cinc s (Fld.MEM_OCUE_COUNT u)) u bank item) (if u = 3 then 4 else 12) u 0

/-- The on-chip scrub reads the next line of a bank of units 1 to 6 (R604). -/
def onchipScrub (s : State) (u bank item : Nat) (f : OcFind) : State :=
  if !enabled s (memPage 1) || u == 0 || 7 ≤ u then s
  else
    let key := u * 256 + bank % 256
    let n := tat s.integ.ocPos key 0
    let s := ocFound s u bank (if u = 2 then n else item) f
    let i := s.integ
    if n + 1 < 16384 then { s with integ := { i with ocPos := tset i.ocPos key (n + 1) } }
    else
      { s with integ := bgDone { i with ocPos := tset i.ocPos key 0, ocMs := min ((s.sdl.fab - tat i.ocAt key 0) / 10 ^ 6) 0xFFFF,
                                        ocAt := tset i.ocAt key s.sdl.fab } 1 }

/-- The 10 ms of a sweep or a compare have passed since the one before. -/
def tenMs (s : State) (at_ : Nat) : Bool := decide (at_ + 10000000 ≤ s.sdl.fab)

/-- Registers of which one copy is found wrong and restored, and registers whose two copies are wrong (R600, R601). -/
def copiesWrong (s : State) (fix cmp : List Nat) : State :=
  let s := fix.foldl (fun s a => raiseOpen (cinc s (Fld.MEM_OCCE_COUNT 8)) 7 (a / 4096) a) s
  cmp.foldl (fun s a => raiseOpen (cinc s (Fld.MEM_OCUE_COUNT 8)) 6 (a / 4096) a) s

/-- Registers of the in-step configuration whose copies are found wrong at a use by hardware (R600): a copy is restored and the use takes the
good one, or the use is suppressed, which is that its command does not come (log 105). -/
def copiesAtUse (s : State) (fix cmp : List Nat) : State := copiesWrong s (fix.filter inStepAddr) (cmp.filter inStepAddr)

/-- A register sweep: registers of which one copy was restored, registers whose two copies were wrong, and the check of the ROM's
CRCs (R601). Its duration is a free value (log 52). -/
def registerSweep (s : State) (fix cmp : List Nat) (romOk : Bool) : State :=
  if !enabled s (memPage 1) || !tenMs s s.integ.sweepAt then s
  else
    let s := copiesWrong s fix cmp
    let s := if romOk then { s with cas := { s.cas with romErr := false } } else
      raiseOpen (cinc { s with cas := { s.cas with romErr := true } } (Fld.MEM_OCUE_COUNT 9)) 5 1 0
    { drew s with integ := bgDone { s.integ with sweepAt := s.sdl.fab, sweepUs := drawn 16 s } 2 }

/-- The compare of the Gatehouse memories: key slots of which one copy was restored, key slots whose two copies were wrong, and cache
entries that were wrong and are recomputed (R599, R604). -/
def gthCompare (s : State) (fixed lost cache : List Nat) : State :=
  if !enabled s (memPage 1) || !tenMs s s.integ.cmpAt then s
  else
    let s := fixed.foldl (fun s k => raiseOpen (cinc s (Fld.MEM_OCCE_COUNT 7)) 17 k 0) s
    let s := lost.foldl (fun s k =>
      let s := if s.gth.bad.contains k then s else { s with gth := { s.gth with bad := s.gth.bad ++ [k] } }
      raiseOpen (cinc s (Fld.MEM_OCUE_COUNT 7)) 17 k 0) s
    let s := cache.foldl (fun s k => raiseOpen (cinc s (Fld.MEM_OCUE_COUNT 7)) 17 k 0) s
    { s with integ := bgDone { s.integ with cmpAt := s.sdl.fab } 3 }

/-- The bound of an activity has passed since its last pass: 0 DRAM scrub, 1 on-chip scrub, 2 sweep, 3 Gatehouse compare, 4 Orangery
trim (R604). A late on-chip scrub is that of the bank that is most behind. -/
def bgMissed (s : State) (n : Nat) : Bool :=
  match n with
  | 0 => s.integ.gib != 0 && decide (s.integ.scrubAt + fget s Fld.MEM_SCRUB_PERIOD * 60 * 10 ^ 9 ≤ s.sdl.fab)
  | 1 => if s.integ.ocAt.isEmpty then decide (10 ^ 9 ≤ s.sdl.fab) else s.integ.ocAt.any fun (e : Nat × Nat) => decide (e.2 + 10 ^ 9 ≤ s.sdl.fab)
  | 2 => tenMs s s.integ.sweepAt
  | 3 => tenMs s s.integ.cmpAt
  | 4 => decide (s.orn.trimAt + 10 ^ 9 ≤ s.orn.clk)
  | _ => false

/-- An activity misses its bound, counted at the first one that it misses (R607). The unit of its record is a free value (log 52). -/
def bgLate (s : State) (n : Nat) : State :=
  if !bgMissed s n || s.integ.late.contains n then s
  else raiseFault (drew { s with integ := { s.integ with late := s.integ.late ++ [n] } }) 19 [drawn 32 s]

/-- A write of MEM_MARKSET (R596, R616). -/
def markSet (s : State) (v : Nat) : State :=
  if !bit v 30 then s
  else
    let j := bits v 12 8
    let d := min (v % 16) 9
    if bit v 31 then
      if tget s.integ.marks j = some d then s else raiseFault { s with integ := { s.integ with marks := tset s.integ.marks j d } } 9 [j, 0, d]
    else { s with integ := { s.integ with marks := tdel s.integ.marks j } }

/-- What follows a strobed command write of a MEM register. -/
def memWsc (r : MemReg) (v : Nat) (s : State) : State :=
  match r with
  | .MEM_MARKSET => markSet s v
  | _ => s

/-- A soft reset of MEM page `p` (R615). -/
def memSrst (p : Nat) (s : State) : State :=
  let i := s.integ
  match p with
  | 0 => { s with integ := bgDone { i with scrubLine := 0, scrubAt := s.sdl.fab, implicated := [] } 0 }
  | 1 => { s with integ := bgDone (bgDone (bgDone { i with ocPos := [], ocAt := i.ocAt.map (fun (e : Nat × Nat) => (e.1, s.sdl.fab)),
                                                            sweepAt := s.sdl.fab, cmpAt := s.sdl.fab } 1) 2) 3 }
  | 3 => { s with integ := { i with teleSent := [] } }
  | _ => s

/-! ### Telemetry (R613, R614) -/

/-- The telemetry instant that has come: tick 0 of a second, or 10^9 raw counts after the one before while the generator is stopped. -/
def teleInstant (s : State) : Option (Bool × Nat) :=
  if s.sdl.gen = .running then
    match s.sdl.fabLast with
    | some n => if n % baseHz s = 0 ∧ s.integ.teleAt ≠ some (true, n) then some (true, n) else none
    | none => none
  else
    let from_ := match s.integ.teleAt with | some (false, c) => c | _ => 0
    if from_ + 10 ^ 9 ≤ s.sdl.raw then some (false, s.sdl.raw) else none

/-- The fields of a telemetry frame (R614). -/
def teleBody (s : State) (part seq : Nat) (vals : List Nat) : List Nat :=
  let t := timeNow s
  [1, part, 0, 0] ++ leBytes 4 seq ++ leBytes 8 (secOf t) ++ leBytes 4 (nsOf t) ++ leBytes 8 s.grt.opShadow ++ leBytes 4 (tat s.reg.shadow 0x1000044 0) ++
  leBytes 2 vals.length ++ [0, 0] ++ vals.flatMap (leBytes 4)

/-- One telemetry frame goes through Trellis port 17 to MG0 and is never muted (R613). -/
def teleFrame (s : State) (head body : List Nat) : State :=
  let n := s.trl.order
  let s := trlHand s { bytes := head ++ body, src := 17, tc := fget s Fld.MEM_TELE_CTRL_TC, host := true } (2 ^ 14)
  { s with integ := { s.integ with teleSent := s.integ.teleSent ++ [n] } }

/-- Frames of the last second sent are still queued (R613). -/
def teleQueued (s : State) : Bool :=
  ((s.trl.out ++ s.trl.voq).any fun (e : Nat × List Frame) => e.2.any fun f => s.integ.teleSent.contains f.order) ||
    s.trl.stage.any fun (e : Nat × List Moving) => e.2.any fun x => s.integ.teleSent.contains x.frame.order

/-- SEQ of a new telemetry second. -/
def teleNext (s : State) : State :=
  { s with integ := { s.integ with teleSeq := (s.integ.teleSeq + 1) % 2 ^ 32, teleSent := [] } }

/-- The frames of a second from its block: the header octets and the offsets of `n` counters (R613, R614). A header length that is
neither 14 nor 18 is a free choice (log 52). -/
def teleFrames (s : State) (b : List Nat) (n : Nat) : State :=
  let len := b.getD 0x1E 0
  let hl := if len = 14 ∨ len = 18 then len else 14 + 4 * drawn 1 s
  let vals := (List.range n).map fun i => peek (drew s) scrubMid (ofLe ((b.drop (0x20 + 4 * i)).take 4))
  let s := teleNext (drew s)
  let seq := s.integ.teleSeq
  let s := if 0 < n then teleFrame s (b.take hl) (teleBody s 0 seq (vals.take 256)) else s
  if 256 < n then teleFrame s (b.take hl) (teleBody s 1 seq (vals.drop 256)) else s

/-- What a read of the telemetry block gave is sent. -/
def teleSend (n : Nat) (x : State × Option (List Nat)) : State := onOpt x (fun s => s) fun s b => teleFrames s b n

/-- Telemetry of a second: sent, or skipped (R613). -/
def telemetry (s : State) : State :=
  if !enabled s (memPage 3) || !fbit s Fld.MEM_TELE_CTRL_EN then s
  else match teleInstant s with
  | none => s
  | some at_ =>
    let s := { s with integ := { s.integ with teleAt := some at_ } }
    let n := fget s Fld.MEM_TELE_CTRL_COUNT
    if teleQueued s then cinc s Fld.MEM_TELE_SKIP_COUNT
    else teleSend n (physRead s scrubMid (fget s Fld.MEM_TELE_BASE_ADDR * 4096) (0x20 + 4 * n))

end Sys2Proof.Machine
end

