-- ==== Sys2Proof/Machine/Reset.lean ====
section
/-! DEFINITION. Clock monitors and PLLs (R106–R110), crossing channels (R92–R95), crossing groups (R100–R102, R659), shadow
refreshes (R52), resets and their release (R98–R105, R626), supplies (R624, R625), the system watchdog (R113) and the Grotto
(R632–R638). -/

namespace Sys2Proof.Machine

/-! ### Resets of RD_SYS (R99, R105, R626) -/

/-- Bits of the causes of CRU_RST_CAUSE (R105, R111). -/
inductive RstCause where
  | por | pin | sw | wdt | clk | dbg
deriving DecidableEq, Repr

/-- The bit of a cause. -/
def RstCause.bit : RstCause → Nat
  | .por => 0 | .pin => 1 | .sw => 2 | .wdt => 3 | .clk => 4 | .dbg => 5

/-- An RD_SYS supply is out of range (R620, R625). -/
def sysSupplyOut (s : State) : Bool := [0, 1, 2, 5, 6, 7].any fun i => bit s.cru.rails i

/-- RD_SYS is held in reset: PWR_GOOD or PORST_N is low, a supply is out, or a fabric or SYSCLK monitor shows a loss (R99, R110). -/
def resetHeld (s : State) : Bool :=
  !s.cru.pwrGood || !s.cru.porstN || sysSupplyOut s || [0, 2, 3, 4].any fun i => bit s.cru.mon i

/-- The transaction slots after a reset of RD_SYS, which is the reset domain of every page (R75, R104): a slot that was OPEN or ARMED has
failed with RESET; a loss of power leaves none (log 92). -/
def slotsAfterReset (s : State) : Tbl TxSlot :=
  if bit s.cru.causeNow 0 then []
  else (s.reg.tx.filter fun e => e.2.phase != .idle).map fun e => (e.1, { last := 3, err := 7 })

/-- What a reset of RD_SYS keeps: memory, the Grotto, the Orangery's metering, fuses, flashes, the test access port, levels at pins,
monitors, and the model's own records; everything else returns to its reset value (R98, R100, R104; log 54). -/
def afterReset (s : State) : State :=
  { State.reset with
    pending := s.pending, mem := s.mem, grt := s.grt, orn := s.orn, tap := s.tap
    sdl := { refRate := s.sdl.refRate }
    reg := { draws := s.reg.draws, tx := slotsAfterReset s }
    cru := { inReset := true, pwrGood := s.cru.pwrGood, porstN := s.cru.porstN, powerCycle := s.cru.powerCycle, causeNow := s.cru.causeNow,
             cause := s.cru.cause, pll := 0, mon := s.cru.mon % 2 ^ 16, monOut := s.cru.monOut % 2 ^ 16, monIn := s.cru.monIn % 2 ^ 16, stopped := s.cru.stopped,
             rails := s.cru.rails }
    gth := { lc := s.gth.lc, bank0 := s.gth.bank0, bank1 := s.gth.bank1, rows := s.gth.rows, rev := s.gth.rev, bootver := s.gth.bootver,
             birth := none }
    dbg := { flash := s.dbg.flash, dinPin := s.dbg.dinPin }
    hrb := { flash := s.hrb.flash, skipped := if bit s.cru.causeNow 0 then [] else s.hrb.skipped }
    mac := { wire := s.mac.wire }
    ftb := { sent := s.ftb.sent }
    integ := { poison := s.integ.poison } }

/-- A reset of RD_SYS and every RD_PORTm begins, or another cause joins the one in progress (R99, R105). -/
def systemReset (s : State) (c : RstCause) : State :=
  let s := { s with cru := { s.cru with causeNow := setBit s.cru.causeNow c.bit } }
  if s.cru.inReset then { s with cru := { s.cru with startNs := 0 } } else afterReset s

/-- A scheduled reset begins: the SYSRST whose 32 fabric clocks have passed (R112). -/
def resetStart (s : State) : State :=
  match s.cru.sysRst with
  | none => s
  | some c => if s.sdl.fab < c then s else systemReset s .sw

/-- RD_SYS is released 1 ms after the start (R105, R561, R626). -/
def resetRelease (s : State) : State :=
  if !s.cru.inReset || resetHeld s || decide (s.cru.startNs < 1000000) then s
  else
    let c := s.cru
    let s := { s with
      cru := { c with inReset := false, startNs := 0, cause := c.causeNow, causeNow := 0, powerCycle := false, pll := 0xFC }
      grt := if c.powerCycle then { s.grt with pcyc := satAdd 32 s.grt.pcyc 1 } else s.grt
      gth := { s.gth with lcBoot := s.gth.lc } }
    rootChoose s

/-- PWR_GOOD rises and the PLLs start (R626). -/
def powerRise (s : State) : State :=
  if s.cru.pwrGood then s else { s with cru := { s.cru with pwrGood := true, startNs := 0, powerCycle := true } }

/-- PWR_GOOD falls (R99, R623). -/
def powerFall (s : State) : State := systemReset (birthCut { s with cru := { s.cru with pwrGood := false } }) .por

/-- PORST_N goes low (R99, R627). -/
def porstLow (s : State) : State := systemReset { s with cru := { s.cru with porstN := false } } .pin

/-- PORST_N rises (R626). -/
def porstRise (s : State) : State :=
  if s.cru.porstN then s else { s with cru := { s.cru with porstN := true, startNs := 0 } }

/-- The debug reset, from an unlocked debug port (R99, R583). -/
def debugReset (s : State) : State := if s.gth.unlocked && !s.cru.inReset then systemReset s .dbg else s

/-- The system watchdog has expired (R113). -/
def sysWdtDue (s : State) : Bool :=
  !s.cru.inReset && fbit s Fld.CRU_WDT_CTRL_EN && decide (s.cru.wdtAt + fget s Fld.CRU_WDT_CTRL_TIMEOUT * 10 ^ 6 ≤ s.sdl.fab)

/-- The system watchdog expires: class WDT counts, and RD_SYS resets (R99, R113, R608). -/
def wdtReset (s : State) : State := systemReset (raiseFault s 16 []) .wdt

/-- The system watchdog expires, if its time has come (R113). -/
def sysWdtExpire (s : State) : State := if sysWdtDue s then wdtReset s else s

/-! ### Clock monitors and PLLs (R106–R110) -/

/-- A monitor of class 14, else of class 21 (R608). -/
def monClass (i : Nat) : Nat := if i < 8 then 14 else 21

/-- A status bit rises: counted, its class counted, and for SYSCLK and the fabric clocks RD_SYS is held (R107, R108, R110). -/
def monRise (s : State) (i : Nat) : State :=
  if bit s.cru.mon i then s
  else
    let s := { s with cru := { s.cru with mon := setBit s.cru.mon i } }
    let s := if s.cru.inReset then s else raiseFault (cinc s Fld.CRU_CLKMON_EVT_COUNT) (monClass i) [i]
    if [0, 2, 3, 4].contains i then systemReset s .clk else s

/-- A status bit falls; where it was the last that held RD_SYS, the start-up begins (R107, R110). -/
def monFall (s : State) (i : Nat) : State :=
  if !bit s.cru.mon i then s
  else { s with cru := { s.cru with mon := clrBit s.cru.mon i, startNs := if [0, 2, 3, 4].contains i then 0 else s.cru.startNs } }

/-- The monitor of a port works while the port is enabled (R106). -/
def monWorks (s : State) (i : Nat) : Bool := i < 16 || portEnabled s (i - 16)

/-- A window of monitor `i` ends outside or within its limit (R107). -/
def monWindow (s : State) (i : Nat) (out : Bool) : State :=
  if !monWorks s i then s
  else
    let c := s.cru
    if out then
      let s' := { s with cru := { c with monOut := setBit c.monOut i, monIn := clrBit c.monIn i } }
      if bit c.monOut i then monRise s' i else s'
    else
      let s' := { s with cru := { c with monIn := setBit c.monIn i, monOut := clrBit c.monOut i, stopped := clrBit c.stopped i } }
      if bit c.monIn i then monFall s' i else s'

/-- The clock of monitor `i` has stopped (R106, R107). -/
def clockStop (s : State) (i : Nat) : State :=
  if !monWorks s i then s
  else monRise { s with cru := { s.cru with stopped := setBit s.cru.stopped i, monIn := clrBit s.cru.monIn i } } i

/-- The monitor of the clock that a PLL drives, which bears the PLL's number, starts its measurement (R109, R111). -/
def monRestart (s : State) (i : Nat) : State :=
  { s with cru := { s.cru with monOut := clrBit s.cru.monOut i, monIn := clrBit s.cru.monIn i } }

/-- A PLL loses lock: shown at once, the monitors it drives start their measurement, and it is counted in class CLK where its function is
powered (R109, R111, R608). The unit of its record is a free value (log 52). -/
def pllLoss (s : State) (i : Nat) : State :=
  if s.cru.inReset || !bit s.cru.pll i then s
  else
    let s' := monRestart { s with cru := { s.cru with pll := clrBit s.cru.pll i } } i
    if pllUnlocked s' && (i < 8 || portEnabled s' (i - 16)) then raiseFault (drew s') 14 [drawn 32 s'] else s'

/-- A lane PLL may lock: its rails are in range and the pulse of its port's reset has ended (R99, R625). -/
def laneMayLock (s : State) (m : Nat) : Bool :=
  !s.cru.inReset && !bit s.cru.rails 3 && !bit s.cru.rails 4 &&
  (match tget s.cru.portPulse m with | some t => decide (t ≤ s.sdl.fab) | none => true)

/-- The lane PLL of a port locks, which ends the port's reset status (R111). -/
def laneLock (s : State) (m : Nat) : State :=
  if !laneMayLock s m then s
  else { s with cru := { s.cru with pll := setBit s.cru.pll (16 + m), portStat := clrBit s.cru.portStat m, portPulse := tdel s.cru.portPulse m } }

/-- A PLL of the device acquires or regains lock (R109). -/
def pllLock (s : State) (i : Nat) : State :=
  if s.cru.inReset then s else { s with cru := { s.cru with pll := setBit s.cru.pll i } }

/-- The link partner of a port comes up after its lane PLL has relocked (R180). -/
def linkUpEvent (s : State) (m : Nat) : State := if portUp s m then setPort s m { portOf s m with link := true } else s

/-- The link partner or signal of a port is lost (R180). -/
def linkDownEvent (s : State) (m : Nat) : State := setPort s m { portOf s m with link := false }

/-! ### Shadows and crossing groups (R52, R100–R102, R659) -/

/-- The crossing group whose transfers refresh the shadow of a register: none for the Sundial's (R91, R100). -/
def groupOf (r : RegLoc) : Option Nat :=
  match r.page.kind.blk with
  | .grt => some 0
  | .orn => some 1
  | .mac => some (16 + r.page.port)
  | _ => none

/-- The register at an offset has `rsh` fields. -/
def hasShadow (r : RegLoc) : Bool := r.desc.fields.any fun f => f.acc == .rsh

/-- OPSEC as it would read with every increment that is due. -/
def opsecNow (s : State) : Nat := (s.grt.opsec + s.grt.opsub / 32768) % 2 ^ 40

/-- The shadow of OPSEC is refreshed with that of GRT_PCYC (R538). -/
def refreshOpsec (s : State) (a : Nat) : State :=
  if a = 0x1000044 then { s with grt := { s.grt with opShadow := opsecNow s } } else s

/-- The shadow of a register takes the word that its source shows now (R52). -/
def refresh (s : State) (r : RegLoc) : State :=
  let s := refreshOpsec s r.addr
  let word (f : FieldDesc) : Nat := if f.acc = .rsh then f.reset * 2 ^ f.lo else 0
  let old := shadowRead s r.addr ((r.desc.fields.map word).sum)
  { s with reg := { s.reg with
      shadow := tset s.reg.shadow r.addr (hwWord r.desc.name r.page.j r.i s % 2 ^ 32)
      shadowOld := tset s.reg.shadowOld r.addr (s.sdl.fab, old) } }

/-- A restart or a fallback of the Orangery is seen in ORN_STAT at its refresh: class ORN (R608). The unit of its record is a free value
(log 52). -/
def ornSeen (s : State) (a : Nat) : State :=
  if a ≠ 0xB00040 then s
  else
    let w := tat s.reg.shadow a 0
    let up := w / 2 ^ 16 % 4 != 0
    let old := s.integ.ornUp
    let s := { s with integ := { s.integ with ornUp := (up, bit w 27) } }
    if (old.1 && !up) || (bit w 27 && !old.2) then raiseFault (drew s) 20 [drawn 32 s] else s

/-- A class A transfer refreshes the shadow at an offset; a group that is not ready makes none (R52, R101). -/
def shadowRefresh (s : State) (a : Nat) : State :=
  match regAt a with
  | none => s
  | some r =>
    let ready := match groupOf r with | some g => bit s.cru.xcReady g | none => !s.cru.inReset
    if hasShadow r && ready then ornSeen (refresh s r) a else s

/-- The registers with `rsh` fields that a group carries (R659). -/
def shadowsOf (g : Nat) : List Nat :=
  match g with
  | 0 => [0x1000040, 0x1000044, 0x1000048]
  | 1 => [0xB00040, 0xB00044, 0xB00048, 0xB0004C, 0xB00050]
  | 2 => []
  | g => [macPage (g - 16) 0 + 0x50, macPage (g - 16) 2 + 0x44]

/-- Both endpoints of a group are out of reset (R659). -/
def endpointsUp (s : State) (g : Nat) : Bool :=
  !s.cru.inReset &&
  (match g with
   | 0 => true
   | 1 => !s.orn.held
   | 2 => bit s.cru.pll 28 || bit s.cru.pll 29
   | g => portUp s (g - 16))

/-- The hold of a group's reset has ended (R100). -/
def holdOver (s : State) (g : Nat) : Bool := decide (tat s.cru.xcHold g 0 ≤ s.sdl.fab)

/-- A group makes its initialising transfer and becomes ready (R100, R102, R659). -/
def groupReady (s : State) (g : Nat) : State :=
  if bit s.cru.xcReady g || !endpointsUp s g || !holdOver s g then s
  else (shadowsOf g).foldl shadowRefresh { s with cru := { s.cru with xcReady := setBit s.cru.xcReady g } }

/-! ### Event channels (R92–R94) -/

/-- The channel in the source domain. -/
def evChan (s : State) (tok : Bool) : EventChannel := if tok then s.cru.token else s.cru.grte

/-- A channel replaced. -/
def setEvChan (s : State) (tok : Bool) (c : EventChannel) : State :=
  { s with cru := if tok then { s.cru with token := c } else { s.cru with grte := c } }

/-- The crossing group of an event channel is held in reset (R100, R101). -/
def chanHeld (s : State) (tok : Bool) : Bool := s.cru.inReset || !holdOver s (if tok then 2 else 0)

/-- A pulse is registered; one at a count of 255 is lost (R93, R94). While the crossing group is in reset it is discarded (R101). -/
def chanPulse (s : State) (tok : Bool) : State :=
  let c := evChan s tok
  if chanHeld s tok then s
  else if c.pending = 255 then setEvChan s tok { c with lost := true } else setEvChan s tok { c with pending := c.pending + 1 }

/-- An idle channel with a non-zero count raises a request that carries it (R93, R94). -/
def chanRequest (s : State) (tok : Bool) : State :=
  let c := evChan s tok
  if chanHeld s tok || c.busy || c.pending == 0 then s
  else setEvChan s tok { pending := 0, lost := false, flight := some (c.pending, c.lost), busy := true }

/-- The destination takes a request: its count is added to the counter that the channel feeds, and the overflow flag is counted (R93,
R94). GRTE feeds GRT_TAMPEVT; the spec names no counter that TOKEN feeds (log 55). -/
def chanDeliver (s : State) (tok : Bool) : State :=
  let c := evChan s tok
  match c.flight with
  | none => s
  | some (n, ovf) =>
    let s := setEvChan s tok { c with flight := none }
    let s := if tok then s else cadd s Fld.GRT_TAMPEVT_COUNT n
    if ovf then cinc s (if tok then Fld.CRU_XCOVF_TOKEN_COUNT else Fld.CRU_XCOVF_GRTE_COUNT) else s

/-- The acknowledge of a request that was taken completes (R93). -/
def chanAck (s : State) (tok : Bool) : State :=
  let c := evChan s tok
  if c.busy && c.flight.isNone then setEvChan s tok { c with busy := false } else s

/-! ### The DOUT channel (R95, R170, R644) -/

/-- The levels of a 32-bit word with the pins of a mask replaced. -/
def maskedLevels (old new mask : Nat) : Nat := (List.range 32).foldl (fun a i => if bit mask i then putBit a i (bit new i) else a) old

/-- A channel that has become free raises the request of its pending command (R95). -/
def doutRaise (s : State) : State :=
  let c := s.cru.dout
  match c.flight, c.pending with
  | none, some (l, m, _) =>
    if c.free ≤ s.sdl.fab then { s with cru := { s.cru with dout := { c with flight := some (l, m, c.lost), pending := none, lost := false } } } else s
  | _, _ => s

/-- The channel carries a request, or the acknowledge of the last one is not complete (R92, R95). -/
def doutBusy (s : State) : Bool := s.cru.dout.flight.isSome || decide (s.sdl.fab < s.cru.dout.free)

/-- A command enters the channel: sent where the channel is idle, else merged into the pending one (R95). -/
def doutCommand (s : State) (levels mask : Nat) : State :=
  if s.cru.inReset then s
  else
    let s := doutRaise s
    let c := s.cru.dout
    let c' : DoutChannel :=
      if doutBusy s then
        match c.pending with
        | none => { c with pending := some (levels, mask, 1) }
        | some (l, m, n) => { c with pending := some (maskedLevels l levels mask, m ||| mask, min (n + 1) 255), lost := c.lost || n == 255 }
      else { c with flight := some (levels, mask, false) }
    { s with cru := { s.cru with dout := c' } }

/-- Fabric clocks from the latches' taking of a request to the completion of its acknowledge, a free value that keeps R91's round trip
of 11 ns (log 93). -/
def doutAckTime (s : State) : Nat := 2 + drawn 2 s

/-- The latches take the request in flight at one Sundial clock edge; the pending command follows once its acknowledge is complete (R95). An alarm that acts at the
same edge stands on its pin and counts a collision (R170). A frozen module applies nothing (R448). -/
def doutApply (s : State) : State :=
  let s := doutRaise s
  match s.cru.dout.flight with
  | none => s
  | some (levels, mask, ovf) =>
    let s := drew { s with cru := { s.cru with dout := { s.cru.dout with flight := none, free := s.sdl.fab + doutAckTime s } } }
    let s := if ovf then cinc s Fld.CRU_XCOVF_DOUT_COUNT else s
    if frozen s then s
    else
      let raw := s.sdl.raw
      let here := s.ang.lastAlarms.filter fun e => e.1 == raw && bit mask e.2.2
      let pins := (bitsOf mask 32).filter fun p => !here.any fun e => e.2.2 == p
      let s := pins.foldl (fun s p => drivePin s p (bit levels p)) s
      let s := cadd s Fld.SDL_ANG_DCOL_COUNT here.length
      { s with ang := { s.ang with lastCmd := some (raw, mask) } }

/-! ### The Grotto (R632–R638) -/

/-- Seconds and sub-second count of the calendar, a wrap that is due included (R633). -/
def calendar (s : State) : Nat × Nat := ((s.grt.sec + s.grt.sub / 32768) % 2 ^ 64, s.grt.sub % 32768)

/-- The sub-second count wraps and the seconds count increments (R633). -/
def calendarSecond (s : State) : State :=
  if s.grt.sub < 32768 then s
  else { s with grt := { s.grt with sub := s.grt.sub - 32768, sec := (s.grt.sec + 1) % 2 ^ 64 } }

/-- OPSEC increments (R634). -/
def opsecStep (s : State) : State :=
  if s.grt.opsub < 32768 then s
  else { s with grt := { s.grt with opsub := s.grt.opsub - 32768, opsec := (s.grt.opsec + 1) % 2 ^ 40 } }

/-- A crystal edge samples TAMPER_N: low sets the latch, counts, and sends a pulse on GRTE (R584, R635, R638). -/
def tamperEdge (s : State) (low : Bool) : State :=
  let g := { s.grt with pinLow := low, pinAtEdge := low }
  if !low then { s with grt := g }
  else
    let first := !g.tamper
    let s := { s with grt := { g with tamper := true, tcause := g.tcause ||| 1, tampCnt := satAdd 16 g.tampCnt 1 } }
    let s := chanPulse s false
    if first && !s.cru.inReset then gthTamper s else s

/-- The GRT crossing group resets (R100, R101). -/
def grtGroupReset (s : State) : State :=
  let s := { s with cru := { s.cru with grte := {} }, grt := { s.grt with opShadow := 0 } }
  let s := dropShadows (holdGroup s 0 122071) fun a => a / 0x1000 == 0x1000
  mbxEndIfBusy (mbxEndIfBusy s 0x1000080 0xFE) 0x10000C0 0xFE

/-- RD_GRT resets: VBAT fell below 1.8 V while VDD_IO18 is absent (R99, R636). -/
def grottoReset (s : State) : State :=
  if !bit s.cru.rails 7 then s
  else
    let g := s.grt
    let s := { s with grt := { g with sec := 0, sub := 0, opsec := 0, opsub := 0, pcyc := 0, tampCnt := 0, scratch := [], badParity := [],
                                      tamper := true, tcause := 2, grtrst := true } }
    grtGroupReset (if g.tamper || s.cru.inReset then s else gthTamper s)

/-- Scratch bytes of part `p` (R637). -/
def scratchPart (s : State) (p : Nat) : List Nat := (List.range 32).map fun i => tat s.grt.scratch (32 * p + i) 0

/-- Bytes of part `p` that fail parity (R637). -/
def parityPart (s : State) (p : Nat) : Nat := (List.range 32).foldl (fun a i => a + bitAt (s.grt.badParity.contains (32 * p + i)) i) 0

/-- A GRT_TIME request (R637, R638). -/
def grtTimeReq (s : State) (a : Nat) : State :=
  let b := mbxAt s a
  if b.wr then mbxEnd s a 0xFF
  else match b.op with
  | 0x01 =>
    let c := calendar s
    let o := opsecNow s
    mbxAnswer s a 0 [w32 c.2, w32 c.1, w32 (c.1 / 2 ^ 32), w32 o, w32 (o / 2 ^ 32), w32 s.grt.pcyc]
  | 0x02 =>
    let p := b.arg % 8
    let bad := parityPart s p
    mbxAnswer s a (if bad = 0 then 0 else 0x03) (wordsOfBytes 8 (scratchPart s p) ++ [w32 bad])
  | _ => mbxEnd s a 0xFF

/-- Scratch bytes of part `p` written with good parity (R637, R638). -/
def scratchWrite (s : State) (p : Nat) (bs : List Nat) : State :=
  { s with grt := { s.grt with
      scratch := (List.range 32).foldl (fun t i => if bs.getD i 0 = 0 then tdel t (32 * p + i) else tset t (32 * p + i) (bs.getD i 0)) s.grt.scratch
      badParity := s.grt.badParity.filter fun k => k / 32 != p } }

/-- A GRT_CMD request (R633, R635, R636, R638). -/
def grtCmdReq (s : State) (a : Nat) : State :=
  let b := mbxAt s a
  if !b.wr then mbxEnd s a 0xFF
  else match b.op with
  | 0x01 => mbxEnd { s with grt := { s.grt with sec := b.w2 0, sub := 0 } } a 0
  | 0x02 =>
    if s.grt.pinLow then mbxEnd s a 0x02
    else mbxEnd { s with grt := { s.grt with tamper := false, tampCnt := 0, tcause := 0 } } a 0
  | 0x03 => mbxEnd (scratchWrite s (b.arg % 8) (bytesOfWords (b.d.take 8))) a 0
  | 0x04 => mbxEnd { s with grt := { s.grt with grtrst := false } } a 0
  | _ => mbxEnd s a 0xFF

/-- A request of a GRT mailbox: refused while the page is disabled, ended while the crossing group is not ready (R101, R102, R638). -/
def grtMbx (r : GrtReg) (a : Nat) (s : State) : State :=
  if !enabled s 0x1000000 then mbxEnd s a 0x0A
  else if !bit s.cru.xcReady 0 then mbxEnd s a 0xFE
  else match r with
    | .GRT_TIME => grtTimeReq s a
    | .GRT_CMD => grtCmdReq s a
    | _ => s

/-! ### Supplies (R624, R625) -/

/-- RD_ORN resets, with its event and requests (R99–R101). -/
def ornPinReset (s : State) : State := ornReset s 1

/-- The effects of a rail that trips, by its place in R620's table (R624, R625). The unit of its record is a free value (log 52). -/
def railTrip (s : State) (i : Nat) (absent : Bool) : State :=
  if bit s.cru.rails i then s
  else
    let s := if s.cru.inReset then s else raiseFault (drew s) 15 [drawn 32 s]
    let s := { s with cru := { s.cru with rails := setBit s.cru.rails i }
                      grt := if i = 7 then { s.grt with onBat := absent } else s.grt }
    match i with
    | 3 | 4 => if s.cru.inReset then s else (List.range 16).foldl portDown s
    | 8 => { sealPinChange s false with dbg := { s.dbg with dinPin := 0 } }
    | 9 => { ornReset s 2 with orn := { (ornReset s 2).orn with held := true } }
    | _ => if sysSupplyOut s then systemReset s .por else s

/-- A rail returns within its range (R625). -/
def railRestore (s : State) (i : Nat) : State :=
  if !bit s.cru.rails i then s
  else
    let s := { s with cru := { s.cru with rails := clrBit s.cru.rails i, startNs := if s.cru.inReset then 0 else s.cru.startNs } }
    match i with
    | 7 => { s with grt := { s.grt with onBat := false } }
    | 9 => { s with orn := { s.orn with held := false } }
    | _ => s

/-- VBAT falls below or returns above 2.0 V while VDD_IO18 is present (R625, R638). -/
def vbatLevel (s : State) (low : Bool) : State := if bit s.cru.rails 7 then s else { s with grt := { s.grt with vbatLow := low } }

/-! ### The CRU page (R111–R113) -/

/-- The system watchdog restarts, unless it had expired by then: a restart at the expiry instant is too late (R113). -/
def wdtKick (old s : State) : State :=
  if sysWdtDue old then wdtReset s else { s with cru := { s.cru with wdtAt := s.sdl.fab } }

/-- A write of a `wsc` register of the CRU page. -/
def cruWsc (r : CruReg) (v : Nat) (s : State) : State :=
  match r with
  | .CRU_RST_CMD =>
    if !bit v 0 then s
    else if v / 2 ^ 16 % 2 ^ 16 ≠ 0x5A17 then wign s 0x100000
    else if s.cru.sysRst.isSome then s
    else { s with cru := { s.cru with sysRst := some (s.sdl.fab + 32) } }
  | .CRU_PORT_RST => (bitsOf v 16).foldl portPulse s
  | .CRU_WDT_KICK => if v % 2 = 1 then wdtKick s s else s
  | _ => s

/-- What follows a write of a CRU register: a write of CRU_WDT_CTRL restarts the watchdog (R113). -/
def cruChanged (r : CruReg) (old s : State) : State :=
  match r with
  | .CRU_WDT_CTRL => wdtKick old s
  | _ => s

end Sys2Proof.Machine
end

