-- ==== Sys2Proof/Machine/Boot.lean ====
section
/-! DEFINITION. Boot: the two images, the boot ROM's choice, and the start of pairs (R628–R631); the DIN pins (R645); the boot-flash and
DOUT mailboxes (R644, R654, R655); and the test access port (R648–R651). -/

namespace Sys2Proof.Machine

/-! ### Images (R581, R629, R630) -/

/-- Offset of an image in the boot flash (R628). -/
def imageAt (i : Nat) : Nat := i * 0x800000

/-- A little-endian header field of an image. -/
def imgField (s : State) (i o n : Nat) : Nat := flashLe s.dbg.flash (imageAt i + o) n

/-- VERSION of an image. -/
def imgVersion (s : State) (i : Nat) : Nat := imgField s i 8 4
/-- LENGTH of an image's payload. -/
def imgLength (s : State) (i : Nat) : Nat := imgField s i 0xC 4
/-- LOAD of an image. -/
def imgLoad (s : State) (i : Nat) : Nat := imgField s i 0x10 8

/-- An image is well formed (R629, R630). -/
def imgWellFormed (s : State) (i : Nat) : Bool :=
  imgField s i 0 4 == 0x474C4231 && imgField s i 4 4 == 1 && decide (1 ≤ imgLength s i) && decide (imgLength s i ≤ 0x7FFE00) &&
  decide (imgLoad s i + imgLength s i ≤ 0x4000000) &&
  decide (sramBase + imgLoad s i ≤ imgField s i 0x18 8) && decide (imgField s i 0x18 8 < sramBase + imgLoad s i + imgLength s i)

/-- The payload of an image. -/
def imgPayload (s : State) (i : Nat) : List Nat := flashRead s.dbg.flash (imageAt i + 0x200) (imgLength s i)

/-- The public key of an image equals a programmed row 0 to 3 that is not revoked (R581). -/
def imgKeyOk (s : State) (i : Nat) : Bool :=
  let d := toBe 48 (Config.sha384 (flashRead s.dbg.flash (imageAt i + 0x20) 96) % 2 ^ 384)
  [0, 1, 2, 3].any fun r => tget s.gth.rows r == some d && !bit s.gth.rev r

/-- The signature over the signed part verifies (R581, R629). -/
def imgSigOk (s : State) (i : Nat) : Bool :=
  let f := s.dbg.flash
  Config.p384 (flashRead f (imageAt i + 0x20) 96) (Config.sha384 (flashRead f (imageAt i) 0x80 ++ imgPayload s i))
    (flashRead f (imageAt i + 0x80) 96)

/-- The result of an image (R653). -/
def imgResult (s : State) (i : Nat) (readErr : Bool) : Nat :=
  if readErr then 5
  else if !imgWellFormed s i then 1
  else if !imgKeyOk s i then 2
  else if !imgSigOk s i then 3
  else if imgVersion s i < s.gth.bootver then 4
  else 0

/-- Of two images, those that `ok` admits, the one with the higher VERSION, image 0 on a tie (R630). -/
def imgPick (s : State) (ok : Nat → Bool) : Option Nat :=
  match ok 0, ok 1 with
  | true, true => some (if imgVersion s 0 < imgVersion s 1 then 1 else 0)
  | true, false => some 0
  | false, true => some 1
  | false, false => none

/-- The boot ROM checks both images, copies the payload of the chosen one to SRAM and enters it (R581, R630, R653). -/
def bootSelect (s : State) (err0 err1 : Bool) : State :=
  if s.cru.inReset || s.dbg.stage != 0 then s
  else
    let r0 := imgResult s 0 err0
    let r1 := imgResult s 1 err1
    let res (i : Nat) : Nat := if i = 0 then r0 else r1
    let pick := match imgPick s fun i => res i == 0 with
      | some i => some i
      | none => if s.gth.lcBoot = 0 then imgPick s (fun i => res i != 5 && res i != 1) else none
    let fail (s : State) (i : Nat) : State := if 2 ≤ res i ∧ res i ≤ 4 then gthRecord s 0x0406 [i, res i - 1] else s
    let s := fail (fail s 0) 1
    let s := { s with dbg := { s.dbg with res0 := r0, res1 := r1, stage := if pick.isSome then 1 else 0xE, image := pick.getD 0 } }
    match pick with
    | none => s
    | some i => physPut s 0x4000 (sramBase + imgLoad s i) (imgPayload s i)

/-- The named waiting pairs start at DBG_BOOT_ENTRY; pair 0 and pairs that do not wait are ignored, and counted once (R631). -/
def bootGo (s : State) (ks : List Nat) : State :=
  let waits (k : Nat) : Bool := k != 0 && decide (k < 48) && (tget s.dbg.started k).isNone
  let at_ := fget s Fld.DBG_BOOT_ENTRY_A
  let s' := { s with dbg := { s.dbg with started := (ks.filter waits).foldl (fun t k => tset t k at_) s.dbg.started } }
  if ks.all waits then s' else wign s' 0x1100000

/-! ### The DIN pins (R645) -/

/-- EN of a DIN pin. -/
def dinEn (s : State) (p : Nat) : Bool := fbit s (Fld.DBG_DIN_EN p)

/-- The pin's level after a debounced run is accepted, and its event composed where the edge matches (R645, R652). -/
def dinAccept (s : State) (p : Nat) : State :=
  let r := tat s.dbg.dinRun p {}
  let quiet := bit s.dbg.dinQuiet p
  if !dinEn s p || r.n == 0 || decide (r.n < fget s (Fld.DBG_DIN_DEB p)) then s
  else
    let lvl := if quiet then bit s.dbg.dinRaw p else !bit s.dbg.dinLvl p
    let s := { s with dbg := { s.dbg with
        dinLvl := putBit s.dbg.dinLvl p lvl, dinRun := tset s.dbg.dinRun p { r with n := 0 }, dinQuiet := clrBit s.dbg.dinQuiet p } }
    let edge := fget s (Fld.DBG_DIN_EDGE p)
    if quiet || !enabled s 0x1102000 || bit s.cru.rails 8 || !(if lvl then bit edge 0 else bit edge 1) then s
    else
      let s := cinc s Fld.DBG_DIN_EVT_COUNT
      batchOrHold s .din p { type := 6, queue := fget s (Fld.DBG_DIN_QUEUE p), flow := p, src := 0x300B,
                             ns := timePast s.sdl r.first / nsUnit, w5 := bitAt lvl 8 + p }

/-- One sample of a pin (R645, R652). -/
def dinSampleOne (s : State) (v p : Nat) : State :=
  let r := tat s.dbg.dinRun p {}
  let lvl := bit v p
  let next (n : Nat) : DinRun := { n := n, first := if n = 1 then s.sdl.raw else r.first, wasEn := dinEn s p }
  let n := if r.wasEn then r.n else 0
  if !dinEn s p then
    { s with dbg := { s.dbg with dinLvl := putBit s.dbg.dinLvl p lvl, dinRun := tset s.dbg.dinRun p (next 0), dinQuiet := clrBit s.dbg.dinQuiet p } }
  else
    let n' := if bit s.dbg.dinQuiet p then (if lvl = bit s.dbg.dinRaw p then n + 1 else 1)
      else if lvl = bit s.dbg.dinLvl p then 0 else n + 1
    { s with dbg := { s.dbg with dinRun := tset s.dbg.dinRun p (next n') } }

/-- Every pin is sampled at a raw count that is a multiple of 1000; with VDD_IO33 out of range DIN reads 0 (R625, R645). A run that has
ended is accepted first. -/
def dinSample (s : State) (v : Nat) : State :=
  if s.cru.inReset || s.sdl.raw % 1000 != 0 then s
  else
    let s := (List.range 32).foldl dinAccept s
    let v := if bit s.cru.rails 8 then 0 else v
    let s := (List.range 32).foldl (fun s p => dinSampleOne s v p) s
    { s with dbg := { s.dbg with dinPin := v, dinRaw := v } }

/-! ### The DBG pages (R652–R655) -/

/-- `[a, a + n)` of the boot flash touches the key store or the checkpoint region (R654). -/
def flashProtected (s : State) (a n : Nat) : Bool :=
  let meets (lo len : Nat) : Bool := decide (a < lo + len) && decide (lo < a + n)
  meets (fget s Fld.GTH_STORE_BASE * 2 ^ 20) (2 ^ 25) ||
  meets (fget s Fld.CYC_CKPT_FL_BASE * 2 ^ 16) ((fget s Fld.CYC_CKPT_NSLOT) * fget s Fld.CYC_CKPT_FL_SIZE * 2 ^ 16)

/-- A DBG_BFL request; `ok` tells whether the device reported success (R654). -/
def bflReq (s : State) (a : Nat) (ok : Bool) : State :=
  let b := mbxAt s a
  let at_ := fget s Fld.DBG_BFL_ADDR_ADDR
  let failed (s : State) : State := mbxEnd (cinc s Fld.DBG_BFL_ERR_COUNT) a 0x01
  if !enabled s 0x1101000 then mbxEnd s a 0x0A
  else match b.op, b.wr with
  | 0x01, false =>
    if !ok then mbxEnd s a 0x01
    else mbxAnswer (fset s Fld.DBG_BFL_ADDR_ADDR ((at_ + 48) % 2 ^ 28)) a 0 (wordsOfBytes 12 (flashRead s.dbg.flash at_ 48))
  | 0x02, true =>
    let at_ := at_ / 32 * 32
    if flashProtected s at_ 32 then mbxEnd s a 0x02
    else if !ok then failed s
    else mbxEnd { s with dbg := { s.dbg with flash := flashProgram s.dbg.flash at_ (bytesOfWords ((List.range 8).map fun i => w32 (b.w i))) } } a 0
  | 0x03, true =>
    let at_ := at_ / 4096 * 4096
    if flashProtected s at_ 4096 then mbxEnd s a 0x02
    else if !ok then failed s
    else mbxEnd { s with dbg := { s.dbg with flash := flashErase s.dbg.flash at_ (at_ + 4096) } } a 0
  | _, _ => mbxEnd s a 0xFF

/-- A request of a DBG mailbox. -/
def dbgMbx (r : DbgReg) (a : Nat) (s : State) : State :=
  let b := mbxAt s a
  match r with
  | .DBG_BFL => bflReq s a true
  | .DBG_DOUT => if b.wr && b.op == 1 then mbxEnd (doutCommand s (b.w 0) (b.w 1)) a 0 else mbxEnd s a 0xFF
  | _ => s

/-- A write of a `wsc` register of the DBG pages. -/
def dbgWsc (r : DbgReg) (v : Nat) (s : State) : State :=
  match r with
  | .DBG_BOOT_GO0 => bootGo s (bitsOf v 32)
  | .DBG_BOOT_GO1 => bootGo s ((bitsOf v 16).map (32 + ·))
  | _ => s

/-- A soft reset of DBG page `p` (R652). -/
def dbgSrst (p : Nat) (s : State) : State :=
  if p = 2 then { s with dbg := { s.dbg with dinRun := s.dbg.dinRun.map (fun (e : Nat × DinRun) => (e.1, { e.2 with n := 0 })), dinQuiet := 2 ^ 32 - 1 } }
  else s

/-! ### The test access port (R648–R651) -/

/-- The port works while VDD_IO18 is present (R648). -/
def tapUp (s : State) : Bool := !bit s.cru.rails 7

/-- The boundary register has 1874 cells (R651). -/
def boundaryCells : Nat := 1874

/-- An instruction comes into force; the scan cells drive under the test instructions (R649, R651). -/
def tapSet (s : State) (i : TapInstr) (f : Tap → Tap) : State :=
  if !tapUp s then s
  else
    let drives := match i with
      | .extest | .clamp | .highz | .extestPulse | .extestTrain => true
      | _ => false
    { s with tap := f { s.tap with ir := i, drives := drives, highz := i == .highz, acTest := 0 } }

/-- The pins are captured and a new value is shifted into the boundary register (R649, R651). -/
def tapScan (pins shift : Nat) (t : Tap) : Tap := { t with captured := pins % 2 ^ boundaryCells, boundary := shift % 2 ^ boundaryCells }

/-- The test access port resets to IDCODE (R99, R648), and an unlocked debug port locks (R583). -/
def tapReset (s : State) : State := if tapUp s then { s with tap := {}, gth := { s.gth with unlocked := false } } else s

end Sys2Proof.Machine
end

