-- ==== Sys2Proof/Machine/Image.lean ====
section
/-! DEFINITION. Program images, restarts, the online exchange and forces (R376, R377, R381–R390). -/

namespace Sys2Proof.Machine

/-- The cycle sequencer's master identity (R15). -/
def cycMid : Nat := 0x3009
/-- The mailbox CYC_PVCMD. -/
def pvcmdMbx : Nat := 0x900080
/-- The mailbox CYC_FORCE. -/
def forceMbx : Nat := 0x9000C0

/-- A field of CYC_PVp by its constructor. -/
def pvf (s : State) (f : Nat → Nat → FieldRef) (p : Nat) : Nat := fget s (f (p / 32) (p % 32))

/-- A class runs: its EN and its page's (R361, R391). -/
def classOn (s : State) (c : Nat) : Bool := fbit s (Fld.CYC_CLS_CTRL_EN c) && enabled s 0x901000

/-- PRIO of a class. -/
def classPrio (s : State) (c : Nat) : Nat := fget s (Fld.CYC_CLS_CTRL_PRIO c)

/-- A period of class `c` begins at tick `n` (R7). -/
def periodStart (s : State) (c n : Nat) : Bool :=
  let p := fget s (Fld.CYC_CLS_TIME_PERIOD c)
  decide (p ≠ 0) && (n + p - fget s (Fld.CYC_CLS_TIME_PHASE c) % p) % p == 0

/-- Half of the period of class `c` that begins at tick `n` (R361). -/
def halfAt (s : State) (c n : Nat) : Nat :=
  (n - fget s (Fld.CYC_CLS_TIME_PHASE c)) / fget s (Fld.CYC_CLS_TIME_PERIOD c) % 2

/-- A class replaced. -/
def setClass (s : State) (c : Nat) (x : ClassRun) : State := { s with cyc := { s.cyc with classes := tset s.cyc.classes c x } }

/-- A program replaced. -/
def setProg (s : State) (p : Nat) (x : Program) : State := { s with cyc := { s.cyc with progs := tset s.cyc.progs p x } }

/-- A class follows its EN (R361): a stopped class runs, a running one drains, or stops where no period is in progress. -/
def classStep (s : State) (c : Nat) : State :=
  let x := classOf s c
  match x.st, classOn s c with
  | .stopped, true => setClass s c { x with st := .running }
  | .running, false => setClass s c { x with st := if x.period.isSome then .draining else .stopped }
  | _, _ => s

/-- Every class follows its EN. -/
def classFollow (s : State) : State := (List.range 16).foldl classStep s

/-! ### Targets named by the low 32 bits of a tick (R72, R129) -/

/-- CODE and absolute target of a request that names a tick (R385): 0, 0x03 LATE or 0x04 FAR; with no tick in progress LATE (log 58). -/
def seqTarget (s : State) (low : Nat) : Nat × Nat :=
  match tickInProgress s with
  | none => (0x03, 0)
  | some n =>
    let d := (low + 2 ^ 32 - n % 2 ^ 32) % 2 ^ 32
    if d = 0 ∨ 2 ^ 31 < d ∨ (d ≤ 16 ∧ clocksToEdge s (d - 1) < 1000) then (0x03, 0)
    else if 65536 < d then (0x04, 0)
    else (0, n + d)

/-- Tick `n` is a period start of every class of a mask (R385, R417). -/
def bounds (s : State) (classes n : Nat) : Bool := (bitsOf classes 16).all fun c => periodStart s c n

/-! ### Images -/

/-- A symbol of an image. -/
structure Sym where
  id : Nat
  type : Nat
  kind : Nat
  size : Nat
  off : Nat
  point : Nat
deriving DecidableEq, Repr

/-- What the sequencer reads of an image: header and symbol table. -/
structure Image where
  /-- Address of the header. -/
  at_ : Nat
  header : List Nat
  table : List Nat
  syms : List Sym
deriving DecidableEq, Repr

/-- A little-endian field of bytes. -/
def leAt (bs : List Nat) (o n : Nat) : Nat := ofLe ((bs.drop o).take n)

/-- IMAGE_ID. -/
def Image.id (x : Image) : Nat := leAt x.header 8 8
/-- STATE_SIZE. -/
def Image.stateSize (x : Image) : Nat := leAt x.header 0x18 4
/-- CLASSES, 16 bits. -/
def Image.classes (x : Image) : Nat := leAt x.header 0x1C 4 % 2 ^ 16
/-- Address of the latch list of class `c`. -/
def Image.latchAt (x : Image) (c : Nat) : Nat := x.at_ + leAt x.header (0xA0 + 4 * c) 4
/-- Address of the initial retain image. -/
def Image.initAt (x : Image) : Nat := x.at_ + leAt x.header 0xE8 8

/-- A symbol from its 32 bytes. -/
def symOf (bs : List Nat) : Sym := ⟨leAt bs 0 8, leAt bs 8 2, leAt bs 10 1, leAt bs 12 4, leAt bs 16 4, leAt bs 20 4⟩

/-- The 32-byte pieces of a table. -/
def pieces32 (n : Nat) (bs : List Nat) : List (List Nat) := (List.range n).map fun i => (bs.drop (32 * i)).take 32

/-- The IDs rise strictly. -/
def rising : List Nat → Bool
  | a :: b :: t => decide (a < b) && rising (b :: t)
  | _ => true

/-- A header keeps its format: MAGIC, FORMAT, NSYM and the zero bytes. -/
def headerOk (h : List Nat) : Bool :=
  leAt h 0 4 == 0x47505631 && leAt h 4 4 == 1 && decide (leAt h 0x10 4 ≤ 65536) && (h.drop 0xF0).all (· == 0)

/-- A symbol keeps its format. -/
def symOk (bs : List Nat) : Bool := decide (leAt bs 10 1 ≤ 4) && leAt bs 11 1 == 0 && leAt bs 24 8 == 0

/-- The image at an address, read for a pavilion; none where a read is refused or the formats are broken (R385). -/
def readImage (s : State) (p at_ : Nat) : State × Option Image :=
  onOpt (engRead s p cycMid at_ 256) (fun s => (s, none)) fun s h =>
    if !headerOk h then (s, none)
    else
      let n := leAt h 0x10 4
      onOpt (if n = 0 then (s, some []) else engRead s p cycMid (at_ + leAt h 0x14 4) (32 * n)) (fun s => (s, none)) fun s t =>
        let ps := pieces32 n t
        let syms := ps.map symOf
        if ps.all symOk && rising (syms.map fun y => y.id) then (s, some ⟨at_, h, t, syms⟩) else (s, none)

/-- The bytes of the latch list at an address: none where a read is refused or NDS is above 64 (R365, R366). -/
def readLatchList (s : State) (p a : Nat) : State × Option (List Nat) :=
  onOpt (engRead s p cycMid a 16) (fun s => (s, none)) fun s h =>
    let n := leAt h 0 4
    if 64 < n then (s, none)
    else if n = 0 then (s, some h)
    else onOpt (engRead s p cycMid (a + 16) (16 * n)) (fun s => (s, none)) fun s ds =>
        (s, some (h ++ ds))

/-- The image check (R432): header, symbol table and every latch list; a list that cannot be read adds nothing. -/
def imageCheck (s : State) (p : Nat) (x : Image) : State × Nat :=
  let r := (bitsOf x.classes 16).foldl (fun (a : State × List Nat) c =>
    onPair (readLatchList a.1 p (x.latchAt c)) fun s l => (s, a.2 ++ l.getD [])) (s, x.header ++ x.table)
  (r.1, crc32 r.2)

/-- The image at CYC_PVp_IMG becomes active (R382, R432); one that cannot be read or breaks its format has no classes (log 59). -/
def activate (s : State) (p : Nat) : State :=
  onOpt (readImage s p (pvf s Fld.CYC_PV_IMG_A p * 4096)) (fun s => setProg s p { enabled := true }) fun s x =>
    onPair (imageCheck s p x) fun s k =>
      setProg s p { classes := x.classes, imageId := x.id, check := k, enabled := true }

/-! ### Event lists (R376, R377) -/

/-- Address of event list `j`. -/
def eventList (s : State) (p j : Nat) : Nat := (pvf s Fld.CYC_PV_EVO_A p + j) * 4096

/-- A list's header is rewritten: COUNT = 0 and TICK (R376). -/
def resetHeader (s : State) (p a tick : Nat) : State :=
  onOk (engWrite s p cycMid a [0]) (fun s => s) fun s =>
    (engWrite s p cycMid (a + 4) (leBytes 4 (tick % 2 ^ 32))).1

/-- The first tick after `n` that is `j` modulo 8 (R377). -/
def nextOf (n j : Nat) : Nat := n + 1 + (j + 8 - (n + 1) % 8) % 8

/-- Every event list is reset at the edge of tick `n` (R377). -/
def resetEvents (s : State) (p n : Nat) : State :=
  (List.range 8).foldl (fun s j => resetHeader s p (eventList s p j) (nextOf n j)) s

/-! ### Restarts (R381, R382) -/

/-- Size of the retain area in bytes. -/
def retainSize (s : State) (p : Nat) : Nat := min (pvf s Fld.CYC_PV_RSZ_N p) 64 * 4096

/-- The retain area is copied to the shadow (R381). -/
def shadowCopy (s : State) (p : Nat) : State :=
  if retainSize s p = 0 then s
  else onOpt (engRead s p cycMid (pvf s Fld.CYC_PV_RET_A p * 4096) (retainSize s p)) (fun s => s) fun s bs =>
      physPut s cycMid (pvf s Fld.CYC_PV_RSH_A p * 4096) bs

/-- The retain area is restored: warm from the shadow, cold from the initial state of the image (R382). -/
def restoreRetain (s : State) (p : Nat) (warm : Bool) : State :=
  let ret := pvf s Fld.CYC_PV_RET_A p * 4096
  if warm then
    if retainSize s p = 0 then s
    else onOpt (physRead s cycMid (pvf s Fld.CYC_PV_RSH_A p * 4096) (retainSize s p)) (fun s => s) fun s bs =>
        (engWrite s p cycMid ret bs).1
  else onOpt (readImage s p (pvf s Fld.CYC_PV_IMG_A p * 4096)) (fun s => s) fun s x =>
      if x.stateSize = 0 then s
      else onOpt (engRead s p cycMid x.initAt x.stateSize) (fun s => s) fun s bs => (engWrite s p cycMid ret bs).1

/-- The instances of a pavilion in progress will commit nothing (R382). -/
def abandonOf (s : State) (p : Nat) : State :=
  { s with cyc := { s.cyc with insts := s.cyc.insts.map fun e => if e.pav = p then { e with st := .abandoned } else e } }

/-- A restart of a pavilion at the edge of tick `n` (R382, R390). -/
def restart (s : State) (p n : Nat) (warm : Bool) (cause : Nat) : State :=
  let s := resetEvents (restoreRetain (abandonOf s p) p warm) p n
  recordExcl s 0x0303 cycMid [p, b2n warm, cause, n % 2 ^ 32, (progOf s p).imageId % 2 ^ 32, (progOf s p).imageId / 2 ^ 32]

/-- EN of a pavilion has taken effect (R377, R382): the image becomes active and the pavilion restarts. -/
def startProgram (s : State) (p n : Nat) (warm : Bool) (cause : Nat) : State := restart (activate s p) p n warm cause

/-! ### Forces (R388) -/

/-- The forces of the table are kept by pavilion and symbol. -/
def forceBefore (a b : Force) : Bool := a.pav < b.pav || (a.pav == b.pav && a.sym < b.sym)

/-- The forces without that of a pavilion's symbol. -/
def forcesWithout (fs : List Force) (p y : Nat) : List Force := fs.filter fun f => !(f.pav == p && f.sym == y)

/-- The force table replaced. -/
def setForces (s : State) (fs : List Force) : State := { s with cyc := { s.cyc with forces := fs } }

/-- The force of a pavilion's symbol. -/
def forceOf (s : State) (p y : Nat) : Option Force := s.cyc.forces.find? fun f => f.pav == p && f.sym == y

/-- A force entered. -/
def putForce (s : State) (f : Force) : State :=
  setForces s (insertBefore forceBefore f (forcesWithout s.cyc.forces f.pav f.sym))

/-- The force of a symbol with a value and a quality; only inputs and outputs can be forced. -/
def forceFor (p value quality : Nat) (y : Sym) : Option Force :=
  if y.kind = 3 then some { pav := p, sym := y.id, value := value, quality := quality, output := false, place := y.off }
  else if y.kind = 4 then some { pav := p, sym := y.id, value := value, quality := quality, output := true, place := y.point }
  else none

/-- The INPUT or OUTPUT symbol of an ID in the image at CYC_PVp_IMG. -/
def findSym (s : State) (p id : Nat) : State × Option Sym :=
  if !(progOf s p).enabled then (s, none)
  else onOpt (readImage s p (pvf s Fld.CYC_PV_IMG_A p * 4096)) (fun s => (s, none)) fun s x =>
      (s, x.syms.find? fun y => y.id == id && decide (3 ≤ y.kind))

/-- What follows the choice of a target tick: `bad` with its CODE where there is none, else `good` with the tick (R129). -/
def onTarget {γ : Type} (x : Nat × Nat) (bad : Nat → γ) (good : Nat → γ) : γ := if x.1 = 0 then good x.2 else bad x.1

/-- A CYC_FORCE request is taken (R388, R392). -/
def forceReq (s : State) : State :=
  let b := mbxAt s forceMbx
  let p := b.arg % 1024
  let id := b.w2 0
  let wait (s : State) : State := onTarget (seqTarget s (b.w 5)) (fun c => mbxEnd s forceMbx c) fun n =>
    { s with cyc := { s.cyc with force := some ⟨b.op, p, n, b.d.map (·.toNat)⟩ } }
  match b.op, b.wr with
  | 1, true => onOpt (findSym s p id) (fun s => mbxEnd s forceMbx 0x02) fun s _ =>
      if (forceOf s p id).isNone && decide (4096 ≤ s.cyc.forces.length) then mbxEnd s forceMbx 0x01 else wait s
  | 2, true => if (forceOf s p id).isNone then mbxEnd s forceMbx 0x05 else wait s
  | 3, false => match forceOf s p id with
    | some f => mbxAnswer s forceMbx 0 [b.d.getD 0 0, b.d.getD 1 0, w32 f.value, w32 (f.value / 2 ^ 32), w32 f.quality]
    | none => mbxEnd s forceMbx 0x05
  | _, _ => mbxEnd s forceMbx 0xFF

/-- A force request meets its tick (R388); one whose target has gone by ends LATE (R129). -/
def forceApply (s : State) (n : Nat) : State :=
  match s.cyc.force with
  | none => s
  | some r =>
    if n < r.tick then s
    else
      let s := { s with cyc := { s.cyc with force := none } }
      let w (i : Nat) : Nat := r.d.getD i 0
      let id := w 0 + 2 ^ 32 * w 1
      if r.tick < n then mbxEndIfBusy s forceMbx 0x03
      else if r.op = 2 then mbxEndIfBusy (setForces s (forcesWithout s.cyc.forces r.pav id)) forceMbx 0
      else onOpt (findSym s r.pav id) (fun s => mbxEndIfBusy s forceMbx 0x02) fun s y =>
          match forceFor r.pav (w 2 + 2 ^ 32 * w 3) (w 4) y with
          | some f => mbxEndIfBusy (putForce s f) forceMbx 0
          | none => mbxEndIfBusy s forceMbx 0x02

/-! ### Exchange and restart requests (R382, R385–R387, R389) -/

/-- An EXCHANGE request is tested in the order of R385's table (R385). -/
def exchangeReq (s : State) : State :=
  let b := mbxAt s pvcmdMbx
  let p := b.arg % 1024
  onOpt (readImage s p (b.w 0 * 4096)) (fun s => mbxEnd s pvcmdMbx 0x02) fun s x =>
    onTarget (seqTarget s (b.w 4)) (fun c => mbxEnd s pvcmdMbx c) fun n =>
      if !bounds s (x.classes ||| (progOf s p).classes) n then mbxEnd s pvcmdMbx 0x05
      else if min (b.w 3 % 128) 64 * 4096 < x.stateSize then mbxEnd s pvcmdMbx 0x06
      else if !pavEn s p then mbxEnd s pvcmdMbx 0x07
      else { s with cyc := { s.cyc with pvcmd := some ⟨1, p, n, b.d.map (·.toNat)⟩ } }

/-- A CYC_PVCMD request is taken (R382, R385, R392). -/
def pvcmdReq (s : State) : State :=
  let b := mbxAt s pvcmdMbx
  match b.op, b.wr with
  | 1, true => exchangeReq s
  | 2, true => onTarget (seqTarget s (b.w 4)) (fun c => mbxEnd s pvcmdMbx c) fun n =>
      { s with cyc := { s.cyc with pvcmd := some ⟨2, b.arg % 1024, n, b.d.map (·.toNat)⟩ } }
  | _, _ => mbxEnd s pvcmdMbx 0xFF

/-- Bytes of one area copied into another at the symbol's places. -/
def overlay (new old : List Nat) (y z : Sym) : List Nat :=
  let v := (old.drop y.off).take y.size
  if v.length = y.size ∧ z.off + y.size ≤ new.length then new.take z.off ++ v ++ new.drop (z.off + y.size) else new

/-- The new retain area: the initial state, and the state of every symbol kept (R386). -/
def carryOver (old new : Image) (ret init : List Nat) : List Nat :=
  new.syms.foldl (fun a z =>
    match old.syms.find? fun y => y.id == z.id with
    | some y => if y.type = z.type ∧ y.kind = z.kind ∧ y.size = z.size ∧ z.kind ≤ 2 then overlay a ret y z else a
    | none => a) init

/-- The forces of a pavilion after an exchange: kept at their new places, or dropped (R389). -/
def forcesMove (s : State) (p n : Nat) (old new : Image) : State :=
  (s.cyc.forces.filter fun f => f.pav == p).foldl (fun s f =>
    let s := setForces s (forcesWithout s.cyc.forces p f.sym)
    let kept := match old.syms.find? (fun y => y.id == f.sym), new.syms.find? (fun y => y.id == f.sym) with
      | some y, some z => if y.type = z.type ∧ y.kind = z.kind then forceFor p f.value f.quality z else none
      | _, _ => none
    match kept with
    | some g => putForce s { g with written := f.written }
    | none => recordExcl s 0x0302 cycMid [p, f.sym % 2 ^ 32, f.sym / 2 ^ 32, new.id % 2 ^ 32, new.id / 2 ^ 32, n % 2 ^ 32]) s

/-- Event lists whose TICK is after E are reset, each non-empty one counted (R387). -/
def dropEvents (s : State) (p n : Nat) : State :=
  (List.range 8).foldl (fun s j =>
    onOpt (engRead s p cycMid (eventList s p j) 8) (fun s => s) fun s h =>
      let d := (leAt h 4 4 + 2 ^ 32 - n % 2 ^ 32) % 2 ^ 32
      if d = 0 ∨ 2 ^ 31 < d then s
      else
        let s := if leAt h 0 1 = 0 then s else cinc s Fld.CYC_EXDROP_COUNT
        resetHeader s p (eventList s p j) (nextOf n j)) s

/-- The registers of a pavilion name the new image and areas (R386; DEDUCED, log 60). -/
def namesOf (s : State) (p : Nat) (w : Nat → Nat) : State :=
  let j := p / 32
  let i := p % 32
  fset (fset (fset (fset s (Fld.CYC_PV_IMG_A j i) (w 0)) (Fld.CYC_PV_RET_A j i) (w 1)) (Fld.CYC_PV_RSH_A j i) (w 2))
    (Fld.CYC_PV_RSZ_N j i) (min (w 3 % 128) 64)

/-- An exchange at the edge of tick `n`: the CODE, and the state (R386, R387, R389, R390). -/
def exchange (s : State) (p n : Nat) (w : Nat → Nat) : State × Nat :=
  onOpt (readImage s p (w 0 * 4096)) (fun s => (s, 0x02)) fun s new =>
    let oldId := (progOf s p).imageId
    onPair (readImage s p (pvf s Fld.CYC_PV_IMG_A p * 4096)) fun s oldImg =>
    let old := oldImg.getD ⟨0, [], [], []⟩
    onPair (if retainSize s p = 0 then (s, none) else engRead s p cycMid (pvf s Fld.CYC_PV_RET_A p * 4096) (retainSize s p)) fun s ret =>
    onOpt (if new.stateSize = 0 then (s, some []) else engRead s p cycMid new.initAt new.stateSize) (fun s => (s, 0x02)) fun s init =>
      let s := namesOf s p w
      let s := (engWrite s p cycMid (w 1 * 4096) (carryOver old new (ret.getD []) init)).1
      let s := shadowCopy s p
      onPair (imageCheck s p new) fun s k =>
      let s := setProg s p { classes := new.classes, imageId := new.id, check := k, enabled := true }
      let s := dropEvents (forcesMove s p n old new) p n
      (recordExcl s 0x0301 cycMid [p, new.id % 2 ^ 32, new.id / 2 ^ 32, oldId % 2 ^ 32, oldId / 2 ^ 32, n % 2 ^ 32], 0)

/-- A CYC_PVCMD request meets its tick (R382, R385, R386); one whose target has gone by ends LATE (R129). -/
def pvcmdApply (s : State) (n : Nat) : State :=
  match s.cyc.pvcmd with
  | none => s
  | some r =>
    if n < r.tick then s
    else
      let s := { s with cyc := { s.cyc with pvcmd := none } }
      let w (i : Nat) : Nat := r.d.getD i 0
      if r.tick < n then mbxEndIfBusy s pvcmdMbx 0x03
      else if r.op = 2 then mbxEndIfBusy (restart s r.pav n (w 0 % 2 == 1) 2) pvcmdMbx 0
      else onPair (exchange s r.pav n w) fun s c =>
          mbxEndIfBusy s pvcmdMbx c

end Sys2Proof.Machine
end

