-- ==== Sys2Proof/Machine/Migration.lean ====
section
/-! DEFINITION. Freezing, saving and restoring a pavilion (R417–R422). -/

namespace Sys2Proof.Machine

/-! ### The image (R419, R420) -/

/-- The stored fields of a register as its word; reserved bits are zero (log 61). -/
def wordAt (s : State) (a : Nat) : Nat :=
  match regAt a with
  | some l => (l.desc.fields.map fun f => fget s (refOf l f) * 2 ^ f.lo).sum
  | none => 0

/-- Offset of CYC_PVp_CTRL. -/
def pvAddr (p : Nat) : Nat := 0x910040 + p / 32 * 0x1000 + p % 32 * 0x40

/-- Offsets of the registers of the CONFIG section, in offset order (R420). -/
def configAddrs (p : Nat) : List Nat :=
  ((List.range 11).map fun i => pvAddr p + 4 * i) ++ [pageAt .pav p + 0x44, pageAt .pav p + 0x4C, pageAt .pav p + 0x54] ++
  ((List.range 16).map fun i => pageAt .pav p + 0x140 + 4 * i)

/-- The CONFIG section (R420). -/
def configSection (s : State) (p : Nat) : List Nat := (configAddrs p).map (wordAt s)

/-- The streams of a pavilion (R420). -/
def streamsOf (s : State) (p : Nat) : List (Nat × Stream) := (validStreams s).filter fun e => e.2.owner == p

/-- OWNER of a publication slot: of the header read at START, else of the slot table (R206). -/
def slotOwner (s : State) (k : Nat) : Nat :=
  let x := slotGpb s k
  if x.running then hdrOwner x.head else rdLe s (slotAddr s k + 0x12) 2 % 1024

/-- The channel slots of a pavilion's streams. -/
def slotsOfPav (s : State) (p : Nat) : List Nat :=
  (streamsOf s p).flatMap fun e => (List.range e.2.nch).map (e.2.chbase + ·)

/-- The groups all of whose valid streams are a pavilion's (R420). -/
def groupsOf (s : State) (p : Nat) : List Nat :=
  ((streamsOf s p).map fun e => e.2.group).eraseDups.filter fun g => (groupStreams s g).all fun e => e.2.owner == p

/-- The lengths of a channel's histories: its stages, the moving-average window, the Lantern's (R309, R312; DEDUCED, log 61). -/
def historyLengths (s : State) (c : Nat) : List Nat :=
  let r := profileOf s c
  let rs := profResps s r
  let ma := match chainOf s c (baseHz s) with
    | some ch => if fbit s (Fld.CAS_PRF_MA_EN r) then maK s ch (freqInForce s ch.stream.group) / 2 ^ 16 + 1 else 0
    | none => 0
  rs.map romTaps ++ List.replicate (3 - rs.length) 0 ++ [ma, if fbit s (Fld.CAS_PRF_CHAIN_LTN r) then 256 else 0]

/-- The five histories of a channel. -/
def histories (x : CasChannel) : List (List (Int × Nat)) :=
  [x.hist.getD 0 [], x.hist.getD 1 [], x.hist.getD 2 [], x.ma, x.out]

/-- Positions as bytes: value and quality. -/
def positionBytes (h : List (Int × Nat)) (n : Nat) : List Nat :=
  (List.range n).flatMap fun i => leBytes 4 (ofSigned 32 (histAt h i).1) ++ leBytes 4 (histAt h i).2

/-- A channel's record (R420). -/
def channelRecord (s : State) (c : Nat) : List Nat :=
  let ls := historyLengths s c
  leBytes 4 c ++ leBytes 4 (profileOf s c) ++ leBytes 4 ls.sum ++ [0, 0, 0, 0] ++
  ((histories (chanOf s c)).zip ls).flatMap fun (e : List (Int × Nat) × Nat) => positionBytes e.1 e.2

/-- A frequency in 2^-32 Hz in µHz. -/
def microHz (v : Int) : Int := convRound 32 (v * 1000000)

/-- A group's record (R420). -/
def groupRecord (s : State) (g : Nat) : List Nat :=
  let y := ltnGroup s g
  leBytes 4 g ++ leBytes 4 (fget s (Fld.CAS_G_PHASE_PHASE g)) ++ leBytes 8 (microHz (groupFreq s g)).toNat ++
  leBytes 8 (ofSigned 64 (microHz y.rho)) ++ leBytes 4 y.raws.length ++ [0, 0, 0, 0] ++
  y.raws.flatMap fun (f : Nat × Nat) => leBytes 8 (microHz f.1).toNat

/-- A queue's record (R420). -/
def queueRecord (s : State) (q : Nat) : List Nat :=
  let a := 0x801040 + q / 128 * 0x1000 + q % 128 * 0x10
  leBytes 4 q ++ leBytes 4 (wordAt s a) ++ leBytes 4 (wordAt s (a + 4)) ++ leBytes 4 (queueOf s q).length ++
  (queueOf s q).flatMap fun e => bytesOfWords (evWords e.ev)

/-- A subscription's record (R420). -/
def subRecord (n : Nat) (x : GsbSub) : List Nat :=
  leBytes 4 n ++ ((List.range 12).flatMap fun i => leBytes 4 (x.d.getD i 0 + (if i = 4 then bitAt x.valid 31 else 0))) ++
  leBytes 4 x.stNum ++ leBytes 4 x.sqNum ++ leBytes 4 (bitAt x.valid 31 + x.st.code)

/-- The sections of an image: TYPE, COUNT and bytes (R420); COUNT of an opaque section is 1 (log 61). -/
def sections (s : State) (p : Nat) (hyp : List Nat) : List (Nat × Nat × List Nat) :=
  let fs := s.cyc.forces.filter fun f => f.pav == p
  let ss := streamsOf s p
  let gs := (s.mac.goose.slots.filter fun e => e.2.running && hdrOwner e.2.head == p)
  let us := s.mac.goose.subs.filter fun e => e.2.valid && e.2.owner == p
  let cs := slotsOfPav s p
  let qs := ownedQueues s p
  [(1, 30, (configSection s p).flatMap (leBytes 4)),
   (2, 1, if retainSize s p = 0 then [] else rdBytes s (pvf s Fld.CYC_PV_RSH_A p * 4096) (retainSize s p)),
   (3, fs.length, fs.flatMap fun f => leBytes 8 f.sym ++ leBytes 8 f.value ++ leBytes 4 f.quality ++ List.replicate 12 0),
   (4, ss.length, ss.flatMap fun e => leBytes 4 e.1 ++ ((List.range 10).flatMap fun i => leBytes 4 (e.2.w i)) ++ [0, 0, 0, 0]),
   (5, gs.length, gs.flatMap fun e => leBytes 4 e.1 ++ leBytes 4 e.2.stNum ++ leBytes 4 e.2.sqNum ++
     leBytes 4 (e.2.active * 2 + b2n e.2.running) ++ List.replicate 16 0),
   (6, us.length, us.flatMap fun e => subRecord e.1 e.2),
   (7, cs.length, cs.flatMap (channelRecord s)),
   (8, (groupsOf s p).length, (groupsOf s p).flatMap (groupRecord s)),
   (9, qs.length, qs.flatMap (queueRecord s)),
   (10, 1, hyp)]

/-- Offsets at which pieces of the given lengths begin, from `o`. -/
def startsFrom : Nat → List Nat → List Nat
  | _, [] => []
  | o, n :: ns => o :: startsFrom (o + n) ns

/-- A saved image (R419): header, directory and sections. -/
def buildImage (s : State) (p f ts : Nat) (hyp : List Nat) : List Nat :=
  let secs := sections s p hyp
  let dir := 0x40 + 16 * secs.length
  let starts := startsFrom dir (secs.map fun e => e.2.2.length)
  let total := dir + (secs.map fun e => e.2.2.length).sum
  let directory := (secs.zip starts).flatMap fun (e : (Nat × Nat × List Nat) × Nat) =>
    leBytes 4 (e.1.1 * 2 ^ 24 + e.1.2.1 % 2 ^ 24) ++ leBytes 4 e.2 ++ leBytes 4 e.1.2.2.length ++ leBytes 4 (crc32 e.1.2.2)
  let head := leBytes 4 0x50415649 ++ leBytes 4 1 ++ leBytes 4 p ++ leBytes 4 (genOf s p) ++ leBytes 8 f ++ leBytes 8 ts ++
    leBytes 4 total ++ leBytes 4 secs.length ++ leBytes 8 (progOf s p).imageId
  head ++ leBytes 4 (crc32 (head ++ directory)) ++ List.replicate 12 0 ++ directory ++ secs.flatMap fun e => e.2.2

/-! ### Requests (R417, R418, R421, R422) -/

/-- The words of a request. -/
def MigReq.w (r : MigReq) (i : Nat) : Nat := r.d.getD i 0

/-- A migration request waits. -/
def migWait (s : State) (p : Nat) (ph : PavPhase) (r : MigReq) : State := setPav s p { pavOf s p with phase := ph, mig := some r }

/-- FREEZE (R417). -/
def migFreeze (s : State) (p : Nat) (d : List Nat) : State :=
  let a := migMbx p
  if pavState s p ≠ 1 then mbxEnd s a 0x07
  else onTarget (seqTarget s (d.getD 4 0)) (fun c => mbxEnd s a c) fun n =>
    if bounds s (progOf s p).classes n then migWait s p .normal { op := 1, tick := n, d := d } else mbxEnd s a 0x05

/-- The CRC-32 of the header and of every section holds, and the sections stand in their order (R419–R421). -/
def imageOk (p : Nat) (bs : List Nat) : Bool :=
  let n := leAt bs 0x24 4
  let entry (i : Nat) : List Nat := (bs.drop (0x40 + 16 * i)).take 16
  leAt bs 0 4 == 0x50415649 && leAt bs 4 4 == 1 && leAt bs 8 4 % 1024 == p && n == 10 &&
  leAt bs 0x30 4 == crc32 (bs.take 0x30 ++ (bs.drop 0x40).take (16 * n)) &&
  (List.range 10).all fun i =>
    let e := entry i
    leAt e 3 1 == i + 1 && leAt e 12 4 == crc32 ((bs.drop (leAt e 4 4)).take (leAt e 8 4))

/-- A section of an image. -/
def sectionOf (bs : List Nat) (t : Nat) : List Nat :=
  let e := (bs.drop (0x40 + 16 * (t - 1))).take 16
  (bs.drop (leAt e 4 4)).take (leAt e 8 4)

/-- Records of `k` bytes of a section. -/
def recordsOf (k : Nat) (bs : List Nat) : List (List Nat) := (List.range (bs.length / k)).map fun i => (bs.drop (k * i)).take k

/-- The CONFIG section agrees apart from the addresses of the CYC_PVp registers (R421). -/
def configAgrees (s : State) (p : Nat) (bs : List Nat) : Bool :=
  let own := configSection s p
  (sectionOf bs 1).length == 120 &&
  (List.range 30).all fun i => (decide (1 ≤ i) && decide (i ≤ 6)) || leAt (sectionOf bs 1) (4 * i) 4 == own.getD i 0

/-- Each item of the checked sections is valid on the target and owned by the pavilion (R421). -/
def itemsAgree (s : State) (p : Nat) (bs : List Nat) : Bool :=
  ((recordsOf 48 (sectionOf bs 4)).all fun r => let x := streamOf s (leAt r 0 4); x.valid && x.owner == p) &&
  ((recordsOf 32 (sectionOf bs 5)).all fun r => slotOwner s (leAt r 0 4 % 4096) == p) &&
  ((recordsOf 64 (sectionOf bs 6)).all fun r =>
    match subOf s (leAt r 0 4) with | some x => x.valid && x.owner == p | none => false)

/-- RESTORE (R421). -/
def migRestore (s : State) (p : Nat) (d : List Nat) : State :=
  let a := migMbx p
  let st := pavState s p
  if st ≠ 0 ∧ st ≠ 4 then mbxEnd s a 0x07
  else
    let at_ := d.getD 0 0 * 4096
    onOpt (physRead s cycMid at_ 0x40) (fun s => mbxEnd s a 0x02) fun s h =>
      onOpt (physRead s cycMid at_ (max 0x40 (leAt h 0x20 4))) (fun s => mbxEnd s a 0x02) fun s bs =>
        if !imageOk p bs then mbxEnd s a 0x02
        else if !configAgrees s p bs || !itemsAgree s p bs then mbxEnd s a 0x08
        else onTarget (seqTarget s (d.getD 4 0)) (fun c => mbxEnd s a c) fun n =>
          migWait s p .restoring { op := 3, tick := n, d := d, img := bs, wasFrozen := st == 4 }

/-- A request of PAV_MIG is taken (R417, R418, R421, R422, R425). -/
def migReq (s : State) (p : Nat) : State :=
  let a := migMbx p
  let b := mbxAt s a
  let d := (List.range 6).map b.w
  if !b.wr then mbxEnd s a 0xFF
  else match b.op with
    | 1 => migFreeze s p d
    | 2 => if pavState s p ≠ 4 then mbxEnd s a 0x07 else migWait s p .saving { op := 2, tick := s.sdl.fab, d := d }
    | 3 => migRestore s p d
    | 4 =>
      if pavState s p ≠ 4 then mbxEnd s a 0x07
      else onTarget (seqTarget s (d.getD 4 0)) (fun c => mbxEnd s a c) fun n => migWait s p .frozen { op := 4, tick := n, d := d }
    | 5 =>
      if pavState s p ≠ 4 then mbxEnd s a 0x07
      else mbxEnd (setPav s p { pavOf s p with phase := .normal, gen := (genOf s p + 1) % 256 }) a 0
    | _ => mbxEnd s a 0xFF

/-! ### What happens at the named tick -/

/-- The active value of EN of a pavilion (R417, R421, R422). -/
def setEn (s : State) (p v : Nat) : State := fset s (Fld.CYC_PV_CTRL_EN (p / 32) (p % 32)) v

/-- The fence lifts and the pavilion runs (R421, R422). -/
def runAgain (s : State) (p n cause : Nat) : State :=
  startProgram (wdtRestart (setPav (setEn s p 1) p { pavOf s p with phase := .normal }) p) p n true cause

/-- A force of an image is entered where its symbol is one of the target's (R421). -/
def restoreForce (p : Nat) (s : State) (r : List Nat) : State :=
  onOpt (readImage s p (pvf s Fld.CYC_PV_IMG_A p * 4096)) (fun s => s) fun s x =>
    match (x.syms.find? fun y => y.id == leAt r 0 8).bind (forceFor p (leAt r 8 8) (leAt r 16 4)) with
    | some f => putForce s f
    | none => s

/-- Positions from bytes. -/
def positionsOf (bs : List Nat) : List (Int × Nat) := (recordsOf 8 bs).map fun r => (toSigned 32 (leAt r 0 4), leAt r 4 4)

/-- A list cut into pieces of the given lengths. -/
def cutInto {α : Type} : List Nat → List α → List (List α)
  | [], _ => []
  | n :: ns, l => l.take n :: cutInto ns (l.drop n)

/-- `k` fill positions go before a history that keeps its length (R308). -/
def fillBefore (k : Nat) (h : List (Int × Nat)) : List (Int × Nat) := (List.replicate (min k h.length) (0, fillQ) ++ h).take h.length

/-- Positions missed at each stage for a gap of `k` samples before it. -/
def missedAt : List Nat → Nat → List Nat
  | [], k => [k]
  | r :: rs, k => k :: missedAt rs ((k + romD r - 1) / romD r)

/-- A channel's outputs are settled: the newest carries no SETTLE (R308, R313). -/
def settled (s : State) (ch : Chain) (c : Nat) : Bool :=
  let x := chanOf s c
  let g := ch.stream.group
  match x.out with
  | o :: _ => !bit o.2 24 && !settling x.nout (phasorK s ch g (freqInForce s g))
  | [] => false

/-- PHASE of a group in an image's GROUP section, from its records in turn. -/
def imagePhase : Nat → List Nat → Nat → Option Nat
  | 0, _, _ => none
  | k + 1, bs, g =>
    if bs.length < 32 then none
    else if leAt bs 0 4 = g then some (leAt bs 4 4)
    else imagePhase k (bs.drop (32 + 8 * leAt bs 24 4)) g

/-- The CHANNEL record of a slot is applied (R421): the state kept, or the image's positions with the gap filled. -/
def restoreChannel (s : State) (ts n : Nat) (bs groups r : List Nat) : State :=
  let c := leAt r 0 4
  let same := leAt r 4 4 == profileOf s c
  match processed s c with
  | none => s
  | some ch =>
    let g := ch.stream.group
    let phaseSame := match imagePhase 256 groups g with | some v => v == fget s (Fld.CAS_G_PHASE_PHASE g) | none => true
    let ls := historyLengths s c
    if same && phaseSame && settled s ch c || ls.sum ≠ leAt r 8 4 then s
    else
      let hs := cutInto ls (positionsOf bs)
      let gap := (n - ts) * ch.fs / baseHz s
      let miss := missedAt ch.resps gap
      let mout := miss.getLastD 0
      let k (i : Nat) : List (Int × Nat) := fillBefore (miss.getD i 0) (hs.getD i [])
      setChan s c { hist := [k 0, k 1, k 2], ma := fillBefore mout (hs.getD 3 []), out := fillBefore mout (hs.getD 4 []) }

/-- The CHANNEL section is applied, record by record. -/
def restoreChannels : Nat → State → Nat → Nat → List Nat → List Nat → State
  | 0, s, _, _, _, _ => s
  | k + 1, s, ts, n, groups, bs =>
    if bs.length < 16 then s
    else
      let len := 8 * leAt bs 8 4
      restoreChannels k (restoreChannel s ts n ((bs.drop 16).take len) groups (bs.take 16)) ts n groups (bs.drop (16 + len))

/-- The GROUP section is applied, record by record (R421). The image holds no earlier f_g, so that ρ holds until RAVG outputs have followed, and
the raw values it holds are of phasors with validity good (R314; log 61). -/
def restoreGroups : Nat → State → List Nat → State
  | 0, s, _ => s
  | k + 1, s, bs =>
    if bs.length < 32 then s
    else
      let g := leAt bs 0 4 % 256
      let nraw := leAt bs 24 4
      let y := ltnGroup s g
      let back (v : Nat) : Nat := v * 2 ^ 32 / 1000000
      let f := back (leAt bs 8 8)
      let raws := ((recordsOf 8 ((bs.drop 32).take (8 * nraw))).map fun r => (back (leAt r 0 8), 0)).take 63
      let s := if ltnOn s g && !y.settle && y.f.isSome then s
        else setLtn s g { y with f := some f, rho := toSigned 64 (leAt bs 16 8) * 2 ^ 32 / 1000000, raws := raws, past := [(f, 0)] }
      restoreGroups k s (bs.drop (32 + 8 * nraw))

/-- An event from its eight words (R331). -/
def evOfBytes (r : List Nat) : Ev :=
  let w (i : Nat) : Nat := leAt r (4 * i) 4
  { type := w 0 / 2 ^ 24, gen := bits (w 0) 23 16, queue := w 0 % 8192, flow := w 1, missed := w 2 / 2 ^ 24, src := w 2 % 65536,
    ns := w 3 + w 4 * 1000000000, w5 := w 5, w6 := w 6, w7 := w 7 }

/-- The QUEUE section with QMODE = 1: the queue's events are discarded and counted, and the image's admitted in order (R421). -/
def restoreQueues (p : Nat) : Nat → State → List Nat → State
  | 0, s, _ => s
  | k + 1, s, bs =>
    if bs.length < 16 then s
    else
      let q := leAt bs 0 4 % 8192
      let n := leAt bs 12 4
      let s := if qOwner s q ≠ p then s
        else
          let s := cadd s Fld.BND_FLUSH_COUNT (queueOf s q).length
          let s := { s with bnd := { s.bnd with queues := tdel s.bnd.queues q } }
          ((recordsOf 32 ((bs.drop 16).take (32 * n))).map evOfBytes).foldl (fun s e => bndAdmit s { e with queue := q } none) s
      restoreQueues p k s (bs.drop (16 + 32 * n))

/-- RESTORE at its tick (R421). -/
def applyRestore (s : State) (p n : Nat) (r : MigReq) : State :=
  let bs := r.img
  let g := (leAt bs 0x0C 4 + 1) % 256
  let s := setPav s p { pavOf s p with gen := if g = genOf s p then (g + 1) % 256 else g, phase := .normal, mig := none }
  let s := if sectionOf bs 2 = [] then s else physPut s cycMid (pvf s Fld.CYC_PV_RSH_A p * 4096) (sectionOf bs 2)
  let s := setForces s (s.cyc.forces.filter fun f => f.pav != p)
  let s := (recordsOf 32 (sectionOf bs 3)).foldl (restoreForce p) s
  let s := restoreChannels 16384 s (leAt bs 0x18 8) n (sectionOf bs 8) (sectionOf bs 7)
  let s := restoreGroups 256 s (sectionOf bs 8)
  let s := if r.w 5 % 2 = 1 then restoreQueues p 8192 s (sectionOf bs 9) else s
  mbxEndIfBusy (runAgain s p n 4) (migMbx p) 0

/-- A SAVE takes its contents at the first edge at least 1 µs after the request (R418). -/
def takeSave (s : State) (p n : Nat) (r : MigReq) : State :=
  if r.taken || s.sdl.fab < r.tick + 1000 then s
  else onPair (if r.w 2 = 0 then (s, some []) else physRead s cycMid (r.w 3 * 4096) (min (r.w 2) 0x100000)) fun s hyp =>
      setPav s p { pavOf s p with mig := some { r with
        taken := true, img := buildImage s p (pavOf s p).frozenAt n (hyp.getD []) } }

/-- A migration request that has not met its tick (R129): the pavilion is as it was before it. -/
def migMissed (s : State) (p : Nat) (r : MigReq) : State :=
  let s := if r.op = 3 then setPav s p { pavOf s p with phase := if r.wasFrozen then .frozen else .normal } else s
  migEnd s p 0x03

/-- The migration request of a pavilion at step 6 of the edge of tick `n` (R417–R422). -/
def migStep (n : Nat) (s : State) (p : Nat) : State :=
  match (pavOf s p).mig with
  | none => s
  | some r =>
    if r.op = 2 then takeSave s p n r
    else if n < r.tick then s
    else if r.tick < n then migMissed s p r
    else match r.op with
      | 1 => migEnd (setPav (setEn s p 0) p { pavOf s p with phase := .frozen, frozenAt := n }) p 0
      | 4 => migEnd (runAgain s p n 5) p 0
      | _ => applyRestore s p n r

/-- The image of a SAVE is written and STATE returns to FROZEN (R418). -/
def saveComplete (s : State) (p : Nat) : State :=
  match (pavOf s p).mig with
  | some r =>
    if r.op = 2 && r.taken then
      let fits := decide (r.img.length ≤ r.w 1 * 4096)
      let s := physPut s cycMid (r.w 0 * 4096) (if fits then r.img else r.img.take (min 0x40 (r.w 1 * 4096)))
      migEnd (setPav s p { pavOf s p with phase := .frozen }) p (if fits then 0 else 0x06)
    else s
  | none => s

end Sys2Proof.Machine
end

