-- ==== Sys2Proof/Machine/Sequencer.lean ====
section
/-! DEFINITION. The cycle sequencer at a fabric tick edge (R361–R384): overruns, commits, shadows, checkpoints, requests due, latches and
releases; and the pairs' side of it. -/

namespace Sys2Proof.Machine

/-- The sequencer's page 0 is enabled (R391). -/
def seqOn (s : State) : Bool := enabled s 0x900000

/-- The pavilions whose CYC registers or programs differ from reset, in increasing number. -/
def cycPavs (s : State) : List Nat :=
  let regs := (s.reg.fields.filter fun e => decide (0x910000 ≤ e.1 / 32) && decide (e.1 / 32 < 0x930000) && decide (0x40 ≤ e.1 / 32 % 0x1000)).map
    fun e => (e.1 / 32 - 0x910000) / 0x1000 * 32 + (e.1 / 32 % 0x1000 - 0x40) / 0x40
  sortedBy (fun a b => decide (a < b)) ((regs ++ s.cyc.progs.map fun e => e.1).eraseDups)

/-! ### Step 2: periods end (R361, R364, R375, R379, R380) -/

/-- An overrun is counted (R375). -/
def countOverrun (s : State) (e : Inst) : State :=
  cinc (cinc (cinc s (Fld.CYC_CLS_OVR_COUNT e.cls)) (Fld.CYC_PV_OVR_COUNT (e.pav / 32) (e.pav % 32))) Fld.CYC_OVR_COUNT

/-- A class whose period has ended: a draining one stops, and runs again while its EN is 1 (R361). -/
def endPeriod (n : Nat) (all : Bool) (s : State) (c : Nat) : State :=
  let x := classOf s c
  match x.period with
  | none => s
  | some (_, e) => if all || decide (e ≤ n) then classStep (setClass s c { st := if x.st = .draining then .stopped else x.st, period := none }) c else s

/-- The instances that end at tick `n`, and the state with the others' overruns counted: those that are DONE commit (R364, R375). -/
def endInstances (s : State) (n : Nat) (all : Bool) : State × List Inst :=
  let ending (e : Inst) : Bool := all || decide (e.fin ≤ n)
  let ended := s.cyc.insts.filter fun e => ending e && e.st != .done
  let done := s.cyc.insts.filter fun e => ending e && e.st == .done
  let s := ended.foldl countOverrun { s with cyc := { s.cyc with insts := s.cyc.insts.filter fun e => !ending e } }
  ((List.range 16).foldl (endPeriod n all) s, done)

/-! ### The lists being committed (R364, R370, R376) -/

/-- An output list being committed: its pavilion, its tag of R441, its address and its entries. -/
structure OutList where
  pav : Nat
  tag : Nat
  at_ : Nat
  entries : List (List Nat)
deriving DecidableEq, Repr

/-- Address of the list of class `c` and half `h` (R370). -/
def listAddr (s : State) (p c h : Nat) : Nat := (pvf s Fld.CYC_PV_OUT_A p + 2 * c + h) * 4096

/-- The entries that a list's COUNT names, from its 4 KiB (R370). -/
def entriesOf (bs : List Nat) : List (List Nat) := pieces32 (min (leAt bs 0 1) 127) (bs.drop 32)

/-- The list of a DONE instance: read under the window, its contents those at DONE (R370; DEDUCED, log 62). -/
def instanceList (s : State) (e : Inst) : State × Option OutList :=
  let a := listAddr s e.pav e.cls e.half
  onOpt (engRead s e.pav cycMid a (32 + 32 * min (leAt e.list 0 1) 127)) (fun s => (s, none)) fun s _ =>
    (s, some ⟨e.pav, e.cls, a, entriesOf e.list⟩)

/-- The event list due at tick `n`: committed where its TICK names the tick, else discarded and counted; in either case its header is
rewritten (R376). -/
def eventListDue (s : State) (p n : Nat) : State × Option OutList :=
  let j := n % 8
  let a := eventList s p j
  onOpt (engRead s p cycMid a 32) (fun s => (s, none)) fun s h =>
    if leAt h 4 4 ≠ n % 2 ^ 32 then (resetHeader (cinc s Fld.CYC_EVSTALE_COUNT) p a (n + 8), none)
    else
      let k := min (leAt h 0 1) 127
      let r := if k = 0 then (s, some []) else engRead s p cycMid (a + 32) (32 * k)
      (resetHeader r.1 p a (n + 8), r.2.map fun bs => ⟨p, 0x10 + j, a, pieces32 k bs⟩)

/-- The periodic lists of a pavilion in order of PRIO, then class (R364). -/
def listBefore (s : State) (a b : Inst) : Bool :=
  decide (classPrio s a.cls < classPrio s b.cls) || (classPrio s a.cls == classPrio s b.cls && decide (a.cls < b.cls))

/-- The lists of instances are read, in their order. -/
def instanceLists (es : List Inst) (a : State × List OutList) : State × List OutList :=
  es.foldl (fun (a : State × List OutList) e => onPair (instanceList a.1 e) fun s l => (s, a.2 ++ l.toList)) a

/-- The lists of a pavilion committed at tick `n` (R364): periodic lists, then its event list. -/
def pavLists (done : List Inst) (n : Nat) (a : State × List OutList) (p : Nat) : State × List OutList :=
  let own := sortedBy (listBefore a.1) (done.filter fun e => e.pav == p)
  let a := instanceLists own a
  if (progOf a.1 p).enabled && pavEn a.1 p then onPair (eventListDue a.1 p n) fun s l => (s, a.2 ++ l.toList) else a

/-- Every list committed at tick `n`, pavilion by pavilion. -/
def allLists (s : State) (done : List Inst) (n : Nat) : State × List OutList :=
  let ps := sortedBy (fun a b => decide (a < b)) ((cycPavs s ++ done.map fun e => e.pav).eraseDups)
  ps.foldl (pavLists done n) (s, [])

/-! ### Entries (R371–R373) -/

/-- An entry of a list being committed, with its place. -/
structure Entry where
  pav : Nat
  tag : Nat
  /-- Its address. -/
  at_ : Nat
  index : Nat
  bs : List Nat
deriving DecidableEq, Repr

/-- A word of an entry. -/
def Entry.w (e : Entry) (i : Nat) : Nat := leAt e.bs (4 * i) 4
/-- KIND. -/
def Entry.kind (e : Entry) : Nat := leAt e.bs 3 1

/-- The entries of the lists in commit order. -/
def entriesIn (ls : List OutList) : List Entry :=
  ls.flatMap fun l => (l.entries.zip (List.range l.entries.length)).map fun (e : List Nat × Nat) =>
    ⟨l.pav, l.tag, l.at_ + 32 + 32 * e.2, e.2, e.1⟩

/-- What the commit has done so far: results by entry, in the order of processing, and the DOUT command being built. -/
structure CommitRun where
  s : State
  results : List (Entry × Nat) := []
  levels : Nat := 0
  mask : Nat := 0
  any : Bool := false

/-- The RESULT of an entry is written and counted (R373, R407). -/
def putResult (r : CommitRun) (e : Entry) (v : Nat) : CommitRun :=
  let s := (engWrite r.s e.pav cycMid (e.at_ + 2) [v]).1
  let s := if v = 0 then s else cinc (cinc s (Fld.CYC_PV_REJ_COUNT (e.pav / 32) (e.pav % 32))) Fld.CYC_OUTREJ_COUNT
  let s := if v = 2 then pavError s e.pav 2 cycMid e.at_ else s
  { r with s := s, results := r.results ++ [(e, v)] }

/-- A DOUT entry (R372): its pins lie within the pavilion's, and it joins the edge's one command. -/
def commitDout (r : CommitRun) (e : Entry) : CommitRun :=
  let mask := e.w 2
  if mask &&& pvf r.s Fld.CYC_PV_DOUT_MASK e.pav ≠ mask then putResult r e 1
  else putResult { r with levels := maskedLevels r.levels (e.w 1) mask, mask := r.mask ||| mask, any := true } e 0

/-- An ALARM entry (R163, R172, R371, R372): an ARM whose DOUT pin is not the pavilion's is out of range; another request than ARM or CANCEL
breaks the format (DEDUCED, log 63). -/
def commitAlarm (r : CommitRun) (e : Entry) : CommitRun :=
  let k := leAt e.bs 1 1
  let a : Alarm := { alarmOfWords (fun i => e.w (i + 1)) with owner := e.pav }
  match e.w 0 % 4 with
  | 1 =>
    if a.kind = 0 ∧ bit (pvf r.s Fld.CYC_PV_DOUT_MASK e.pav) a.pin = false then putResult r e 1
    else onPair (armAlarm r.s k a (some e.pav)) fun s c =>
        putResult { r with s := s } e (if c = 0 then 0 else 0x10 + c)
  | 2 => onPair (cancelAlarm r.s k (some e.pav)) fun s c =>
      putResult { r with s := angleSweep s } e (if c = 0 then 0 else 0x10 + c)
  | _ => putResult r e 2

/-- Pass 1 (R364 step 3). -/
def pass1 (r : CommitRun) (e : Entry) : CommitRun :=
  match e.kind with
  | 3 => commitAlarm r e
  | 4 => commitDout r e
  | _ => r

/-- A GOOSE entry (R209, R371, R372): the block lies in the window and its length fits. -/
def commitGoose (at_ : Nat) (r : CommitRun) (e : Entry) : CommitRun :=
  let len := e.w 4 % 2048
  if len < 4 ∨ 1024 < len then putResult r e 2
  else onOpt (engRead r.s e.pav cycMid (e.w 2 + 2 ^ 32 * e.w 3) len) (fun s => putResult { r with s := s } e 2) fun s b =>
      let n := leAt b 0 2
      if len < n + 4 then putResult { r with s := s } e 2
      else onPair (gooseCommit s (e.w 1 % 4096) e.pav at_ (leAt b 2 2) ((b.drop 4).take n)) fun s ok =>
          putResult { r with s := s } e (if ok then 0 else 3)

/-- A descriptor is placed at the TAIL of the ring of CYC_FRING; false where the ring is full (R252, R372, R373). -/
def placeDescriptor (s : State) (d : List Nat) : State × Bool :=
  let k := fget s Fld.CYC_FRING_RING
  let size := 2 ^ fget s (Fld.TRL_TXR_SIZE_LOG k)
  let tail := fget s (Fld.TRL_TXR_TAIL_TAIL k)
  if (tail + 1) % size = (txRing s k).head then (s, false)
  else onOk (physWrite s cycMid (fget s (Fld.TRL_TXR_BASE_ADDR k) * 4096 + tail * 32) d) (fun s => (s, false)) fun s =>
      (fset s (Fld.TRL_TXR_TAIL_TAIL k) ((tail + 1) % size), true)

/-- A FRAME entry (R371–R373): descriptor and frame lie in the window, and the descriptor is placed with the frame's translated address. -/
def commitFrame (r : CommitRun) (e : Entry) : CommitRun :=
  onOpt (engRead r.s e.pav cycMid (e.w 1 + 2 ^ 32 * e.w 2) 32) (fun s => putResult { r with s := s } e 2) fun s d =>
    match engCheck s e.pav cycMid (leAt d 0 8) (leAt d 8 2) .read with
    | (.pass, (a, _) :: _) => onPair (placeDescriptor s (leBytes 8 a ++ d.drop 8)) fun s ok => putResult { r with s := s } e (if ok then 0 else 3)
    | _ => putResult { r with s := s } e 2

/-- A point lies in a pavilion's range (R372) and not in the measurement area (R319). -/
def inRange (s : State) (p idx : Nat) : Bool :=
  let b := pvf s Fld.CYC_PV_PTB_B p * 256
  decide (262144 ≤ idx) && decide (b ≤ idx) && decide (idx < b + pvf s Fld.CYC_PV_PTN_N p * 256)

/-- A point's record, written for a pavilion with its owner word (R320, R372, R378); the Belvedere sees the write (R507). -/
def commitPoint (s : State) (p idx v q t : Nat) : State :=
  let s := { s with blv := { s.blv with points := s.blv.points ++ [(idx, v, q, t)] } }
  physPut s cycMid (pointBase s + idx * 32)
    (leBytes 8 v ++ leBytes 4 q ++ leBytes 8 (secOf t) ++ leBytes 4 (nsOf t) ++ leBytes 4 (p * 2 ^ 16 + genOf s p * 2 ^ 8) ++ [0, 0, 0, 0])

/-- The force on an output point of a pavilion (R388). -/
def outputForce (s : State) (p idx : Nat) : Option Force := s.cyc.forces.find? fun f => f.pav == p && f.output && f.place == idx

/-- A POINT entry, or one of an unknown KIND (R372, R373, R388). -/
def commitRest (at_ : Nat) (r : CommitRun) (e : Entry) : CommitRun :=
  match e.kind with
  | 1 =>
    let idx := e.w 1 % 2 ^ 25
    if !inRange r.s e.pav idx then putResult r e 1
    else
      let s := match outputForce r.s e.pav idx with
        | some f => commitPoint r.s e.pav idx f.value f.quality at_
        | none => commitPoint r.s e.pav idx (e.w 2 + 2 ^ 32 * e.w 3) (e.w 4) at_
      putResult { r with s := s } e 0
  | 2 | 3 | 4 | 5 => r
  | _ => putResult r e 2

/-- A forced output point is written once at its pavilion's first commit after the force took effect (R388), as an item of R441. -/
def writeForced (at_ : Nat) (a : State × List Nat × Nat) (f : Force) : State × List Nat × Nat :=
  let s := putForce a.1 { f with written := true }
  if !inRange s f.pav f.place then (s, a.2)
  else
    let entry := [0, 0, 0, 1] ++ leBytes 4 f.place ++ leBytes 8 f.value ++ leBytes 4 f.quality ++ List.replicate 12 0
    (commitPoint s f.pav f.place f.value f.quality at_, a.2.1 ++ leBytes 2 f.pav ++ [0x20, 0] ++ leBytes 2 a.2.2 ++ [0, 0] ++ entry, a.2.2 + 1)

/-- The digest item of a committed entry (R441). -/
def digestItem (res : List (Entry × Nat)) (e : Entry) : List Nat :=
  match res.find? fun x => x.1 == e with
  | some (_, v) => leBytes 2 e.pav ++ [e.tag, 0] ++ leBytes 2 e.index ++ [0, 0] ++ e.bs.take 2 ++ [v] ++ e.bs.drop 3
  | none => []

/-- Steps 3 and 4 of the edge of tick `n` (R364, R370–R374, R388, R441). -/
def commitLists (s : State) (ls : List OutList) (n : Nat) : State :=
  let at_ := instantOf 0 n (baseHz s)
  let es := entriesIn ls
  let r := es.foldl pass1 { s := s }
  let r := { r with s := angleSweep (if r.any then doutCommand r.s r.levels r.mask else r.s) }
  let r := (es.filter fun e => e.kind == 2).foldl (commitGoose at_) r
  let r := (es.filter fun e => e.kind == 5).foldl commitFrame r
  let r := es.foldl (commitRest at_) r
  let due := r.s.cyc.forces.filter fun f => f.output && !f.written && ls.any fun l => l.pav == f.pav
  let w := due.foldl (writeForced at_) (r.s, [], 0)
  let s := w.1
  { s with ftb := { s.ftb with outItems := es.flatMap (digestItem r.results) ++ w.2.1, nent := r.results.length + w.2.2 } }

/-! ### Step 5: shadows and checkpoints (R381, R383) -/

/-- The retain shadows of the pavilions whose retain class committed (R381). -/
def shadowsAfter (s : State) (done : List Inst) : State :=
  (done.filter fun e => pvf s Fld.CYC_PV_CTRL_RCLS e.pav == e.cls).foldl (fun s e => shadowCopy s e.pav) s

/-- The pavilions of a checkpoint. -/
def ckptPavs (s : State) : List Nat := (cycPavs s).filter fun p => pvf s Fld.CYC_PV_CTRL_RETCK p == 1

/-- The bytes of a checkpoint's slot, its valid mark erased (R383). -/
def ckptBytes (s : State) (seq n : Nat) : List Nat :=
  let ds := (ckptPavs s).map fun p => (p, if retainSize s p = 0 then [] else rdBytes s (pvf s Fld.CYC_PV_RSH_A p * 4096) (retainSize s p))
  let dir := 0x20 + 16 * ds.length
  let starts := startsFrom dir (ds.map fun e => e.2.length)
  let total := dir + (ds.map fun e => e.2.length).sum
  let directory := (ds.zip starts).flatMap fun (e : (Nat × List Nat) × Nat) =>
    leBytes 4 e.1.1 ++ leBytes 4 e.1.2.length ++ leBytes 4 e.2 ++ leBytes 4 (crc32 e.1.2)
  let head := leBytes 4 0x50434B31 ++ leBytes 4 seq ++ leBytes 8 n ++ leBytes 4 ds.length ++ leBytes 4 total
  head ++ leBytes 4 (crc32 (head ++ directory)) ++ [0xFF, 0xFF, 0xFF, 0xFF] ++ directory ++ ds.flatMap fun e => e.2

/-- Flash offset of the slot of a checkpoint, and its size (R383). -/
def ckptSlot (s : State) (seq : Nat) : Nat × Nat :=
  let size := fget s Fld.CYC_CKPT_FL_SIZE * 65536
  (fget s Fld.CYC_CKPT_FL_BASE * 65536 + seq % fget s Fld.CYC_CKPT_NSLOT * size, size)

/-- A checkpoint starts at its tick-0 edge, or is skipped while the one before it has not completed (R383); one that does not fit its
slot is skipped too (log 64). -/
def ckptStart (s : State) (n : Nat) : State :=
  let hz := baseHz s
  if !fbit s Fld.CYC_CKPT_EN || n % hz ≠ 0 || n / hz % fget s Fld.CYC_CKPT_PERIOD ≠ 0 then s
  else
    let seq := (s.cyc.ckptSeq + 1) % 2 ^ 32
    let bs := ckptBytes s seq n
    let slot := ckptSlot s seq
    if s.cyc.ckpt.isSome || decide (slot.2 < bs.length) then cinc s Fld.CYC_CKPTSKIP_COUNT
    else
      let s := physPut s cycMid (fget s Fld.CYC_CKPT_BUF_ADDR * 4096) bs
      { s with dbg := { s.dbg with flash := flashErase s.dbg.flash slot.1 (slot.1 + slot.2) }, cyc := { s.cyc with ckpt := some ⟨seq, bs⟩ } }

/-- The checkpoint is programmed into its slot and its valid mark written last (R383). -/
def ckptComplete (s : State) : State :=
  match s.cyc.ckpt with
  | none => s
  | some c =>
    let a := (ckptSlot s c.seq).1
    let f := flashProgram (flashProgram s.dbg.flash a c.bytes) (a + 0x1C) (leBytes 4 0x5A5AA5A5)
    { s with dbg := { s.dbg with flash := f }, cyc := { s.cyc with ckpt := none, ckptSeq := c.seq } }

/-! ### Step 6: restarts, requests and resets (R382, R385, R388, R414, R417–R422) -/

/-- EN of a pavilion as last seen follows EN in force: a rise starts the program with the kind of CTRL.WARM (R377, R382); it waits while
the pavilion is not in its normal state. -/
def enableStep (n : Nat) (s : State) (p : Nat) : State :=
  let x := progOf s p
  match x.enabled, pavEn s p with
  | false, true => if (pavOf s p).phase = .normal then startProgram (wdtRestart s p) p n (pvf s Fld.CYC_PV_CTRL_WARM p == 1) 1 else s
  | true, false => setProg s p { x with enabled := false }
  | _, _ => s

/-- A pavilion reset restarts its pavilion at step 6 of tick M + 2 (R414); a reset that began while no tick was in progress counts from
the first edge after it (log 65). -/
def resetStep (n : Nat) (s : State) (p : Nat) : State :=
  let v := pavOf s p
  if !(v.phase = .reset ∨ v.phase = .wait) then s
  else match v.resetTick with
    | none => setPav s p { v with resetTick := some (n - 1) }
    | some m =>
      if m + 2 ≤ n ∨ n < m then
        let s := wdtRestart (setPav s p { v with phase := .normal, resetTick := none }) p
        let warm := !fbit s (Fld.PAV_CTRL_RCOLD p)
        if pavEn s p && !(progOf s p).enabled then startProgram s p n warm 3 else restart s p n warm 3
      else s

/-- The resets that waited for the end of step 6 begin (R411). -/
def dueResets (s : State) : State :=
  (s.pav.tbl.filter fun e => e.2.resetDue).foldl (fun s e => pavReset s e.1) s

/-- Step 6 but for joins. -/
def step6 (s : State) (n : Nat) : State :=
  let ps := s.pav.tbl.map fun e => e.1
  let s := (cycPavs s).foldl (enableStep n) s
  let s := ps.foldl (resetStep n) s
  let s := forceApply (pvcmdApply s n) n
  ps.foldl (migStep n) s

/-- After a change of base rate every event list of an enabled pavilion is reset without being committed (R380). -/
def rateReset (s : State) (n : Nat) : State :=
  ((cycPavs s).filter fun p => (progOf s p).enabled && pavEn s p).foldl (fun s p => resetEvents s p n) s

/-! ### Steps 7 and 8: latches and releases (R363–R368) -/

/-- What became of a latch. -/
inductive LatchEnd where
  | ok | failed | fencedOff
deriving DecidableEq, Repr

/-- The verdict on a transfer that did not take place. -/
def latchStop (s : State) (p : Nat) : LatchEnd := if fenced s p then .fencedOff else .failed

/-- Forces replace the value and the quality of records at their places (R367). -/
def forceRecord (s : State) (p off : Nat) (r : List Nat) : List Nat :=
  match s.cyc.forces.find? fun f => f.pav == p && !f.output && f.place == off with
  | some f => leBytes 8 f.value ++ leBytes 4 f.quality ++ r.drop 12
  | none => r

/-- One dataset is copied into the input area (R365–R367): the records as written are added to the digest items of the edge (R441). -/
def latchDataset (p : Nat) (a : State × LatchEnd) (d : List Nat) : State × LatchEnd :=
  if a.2 ≠ .ok then a
  else
    let s := a.1
    let pt := leAt d 0 4 % 2 ^ 25
    let cnt := leAt d 4 4
    let dest := leAt d 8 8
    if cnt = 0 ∨ 1024 < cnt ∨ 2 ^ 25 < pt + cnt ∨ dest % 32 ≠ 0 then (s, .failed)
    else onOpt (physRead s cycMid (pointBase s + pt * 32) (cnt * 32)) (fun s => (s, .failed)) fun s bs =>
        let out := ((pieces32 cnt bs).zip (List.range cnt)).flatMap fun (e : List Nat × Nat) => forceRecord s p (dest + 32 * e.2) e.1
        onOk (engWrite s p cycMid (pvf s Fld.CYC_PV_IN_A p * 4096 + dest) out) (fun s => (s, latchStop s p)) fun s =>
          ({ s with ftb := { s.ftb with inItems := s.ftb.inItems ++ out } }, .ok)

/-- Address of the latch list of class `c` of a pavilion's image; none where the header cannot be read. -/
def latchListAt (s : State) (p c : Nat) : State × Option Nat :=
  let img := pvf s Fld.CYC_PV_IMG_A p * 4096
  onOpt (engRead s p cycMid (img + 0xA0 + 4 * c) 4) (fun s => (s, none)) fun s b =>
    (s, some (img + leAt b 0 4))

/-- The latch of an instance: COUNT = 0 in its list, then its datasets (R365, R366, R370). -/
def latchOf (s : State) (e : Inst) : State × LatchEnd × Nat :=
  let p := e.pav
  onOpt (latchListAt s p e.cls) (fun s => (s, latchStop s p, pvf s Fld.CYC_PV_IMG_A p * 4096 + 0xA0 + 4 * e.cls)) fun s a =>
    onOk (engWrite s p cycMid (listAddr s p e.cls e.half) [0]) (fun s => (s, latchStop s p, a)) fun s =>
      onOpt (readLatchList s p a) (fun s => (s, latchStop s p, a)) fun s l =>
        onPair ((recordsOf 16 (l.drop 16)).foldl (latchDataset p) (s, .ok)) fun s r =>
          (s, r, a)

/-- An instance is released to its home pair (R364 step 8, R368, R391). -/
def release (s : State) (e : Inst) : State :=
  if !enabled s (0x980000 + e.pair * 0x1000) then { s with cyc := { s.cyc with insts := s.cyc.insts ++ [{ e with st := .unreleased }] } }
  else
    let s := { s with cyc := { s.cyc with insts := s.cyc.insts ++ [{ e with st := .ready }] } }
    if fbit s (Fld.CYC_PR_MSI_EN e.pair) then notifyPair (fget s (Fld.CYC_PR_MSI_EIID e.pair)) s e.pair else s

/-- An instance is latched and released, or stays unreleased (R364–R366, R663). -/
def latchRelease (s : State) (e : Inst) : State :=
  let gen := genOf s e.pav
  let keep (s : State) : State := { s with cyc := { s.cyc with insts := s.cyc.insts ++ [{ e with st := .unreleased }] } }
  onPair (latchOf s e) fun s r =>
    match r.1 with
    | .ok => if genOf s e.pav = gen then release s e else keep (cinc s (Fld.PAV_STALE_COUNT e.pav))
    | .fencedOff => keep s
    | .failed => keep (pavError (cinc s Fld.CYC_LATERR_COUNT) e.pav 1 cycMid r.2)

/-- Release order: PRIO, end boundary, class, pavilion (R368). -/
def releaseBefore (s : State) (a b : Inst) : Bool :=
  let key (e : Inst) : List Nat := [classPrio s e.cls, e.fin, e.cls, e.pav]
  decide (key a < key b)

/-- The instances that the periods beginning at tick `n` create, in release order (R7, R361, R363). -/
def newInstances (s : State) (n : Nat) : List Inst :=
  let cs := (List.range 16).filter fun c => (classOf s c).st == .running && periodStart s c n
  let ps := (cycPavs s).filter fun p => pavEn s p && (progOf s p).enabled
  sortedBy (releaseBefore s) (cs.flatMap fun c => (ps.filter fun p => bit (progOf s p).classes c).map fun p =>
    { pav := p, cls := c, start := n, fin := n + fget s (Fld.CYC_CLS_TIME_PERIOD c), half := halfAt s c n, pair := homeOf s p % 48, st := .unreleased })

/-- The periods that begin at tick `n` (R7). -/
def beginPeriods (s : State) (n : Nat) : State :=
  (List.range 16).foldl (fun s c =>
    let x := classOf s c
    if x.st = .running ∧ periodStart s c n then setClass s c { x with period := some (n, n + fget s (Fld.CYC_CLS_TIME_PERIOD c)) } else s) s

/-- Steps 7 and 8 of the edge of tick `n`; the pavilions of `wait` have their latches withheld (R461). -/
def step7 (s : State) (n : Nat) (wait : List Nat) : State :=
  if !seqOn s then s
  else
    let es := newInstances s n
    let s := beginPeriods s n
    es.foldl (fun s e =>
      if wait.contains e.pav then { s with cyc := { s.cyc with insts := s.cyc.insts ++ [{ e with st := .unreleased }] } }
      else latchRelease s e) s

/-! ### Before step 1 (R402–R405, R409, R663) -/

/-- A pavilion's accounting at a fabric tick edge: the tick's core time is taken, the share of the next tick latched, the fence of the
share lifts and the watchdog counts (R402, R404, R405, R409). -/
def pavEdge (times : List (Nat × Nat)) (s : State) (p : Nat) : State :=
  let v := pavOf s p
  let run := fbit s (Fld.PAV_WDT_EN p) && pavState s p == 1 && !v.wdtDone
  setPav s p { v with used := min (tat times p 0) 0xFFFFF, share := fget s (Fld.PAV_SHARE_SHARE p), hard := fbit s (Fld.PAV_SHARE_HARD p),
                      exhausted := false, wdt := if run then min (v.wdt + 1) 65535 else v.wdt }

/-- The pavilions that the accounting may change. -/
def livePavs (s : State) (times : List (Nat × Nat)) : List Nat :=
  let regs := (s.reg.fields.filter fun e => decide (0x4000000 ≤ e.1 / 32) && decide (e.1 / 32 < 0x4400000)).map fun e => (e.1 / 32 - 0x4000000) / 0x1000
  ((s.pav.tbl.map fun e => e.1) ++ times.map (fun (e : Nat × Nat) => e.1) ++ regs).eraseDups

/-- The accounting of every pavilion at an edge. -/
def pavsEdge (s : State) (times : List (Nat × Nat)) : State := (livePavs s times).foldl (pavEdge times) s

/-- Waiting requests whose target lies before the first edge of a start end without acting (R129). -/
def lateRequests (s : State) (n : Nat) : State :=
  let s := match s.cyc.pvcmd with
    | some r => if r.tick < n then mbxEndIfBusy { s with cyc := { s.cyc with pvcmd := none } } pvcmdMbx 0x03 else s
    | none => s
  let s := match s.cyc.force with
    | some r => if r.tick < n then mbxEndIfBusy { s with cyc := { s.cyc with force := none } } forceMbx 0x03 else s
    | none => s
  (s.pav.tbl.map fun e => e.1).foldl (fun s p => match (pavOf s p).mig with
    | some r => if r.op ≠ 2 ∧ r.tick < n then migMissed s p r else s
    | none => s) s

/-- Steps 2 to 5 of the edge of tick `n` (R364, R379, R380). -/
def steps2to5 (s : State) (n : Nat) : State :=
  let change := s.cyc.rate != s.sdl.rateAct
  let s := { s with cyc := { s.cyc with rate := s.sdl.rateAct, inCommit := true }, ftb := { s.ftb with outItems := [], nent := 0, inItems := [] } }
  let s := classFollow s
  if !seqOn s then s
  else
    onPair (endInstances s n change) fun s done =>
    let s := if change then rateReset s n else s
    let dues := if change then instanceLists done (s, []) else allLists s done n
    let s := commitLists dues.1 dues.2 n
    ckptStart (shadowsAfter s done) n

/-! ### The pairs (R355, R358, R368, R369) -/

/-- The released instance of a pair that NEXT returns (R368). -/
def nextInstance (s : State) (k : Nat) : Option Inst :=
  (sortedBy (releaseBefore s) (s.cyc.insts.filter fun e => e.pair == k && e.st == .ready)).head?

/-- A read of CYC_PRk_NEXT (R368, R391): its word. -/
def nextRead (s : State) (k : Nat) : State × Nat :=
  if !enabled s (0x980000 + k * 0x1000) then (s, 0)
  else match nextInstance s k with
    | none => (s, 0)
    | some e =>
      ({ s with cyc := { s.cyc with
          insts := s.cyc.insts.map fun x => if x = e then { x with st := .running } else x,
          ntick := tset s.cyc.ntick k (e.start % 2 ^ 32) } }, 2 ^ 31 + e.cls * 2 ^ 16 + e.pav)

/-- A write of CYC_PRk_DONE (R369): the instance named becomes DONE with its list as it stands, or the write is ignored and counted. -/
def cycDone (s : State) (k v : Nat) : State :=
  let named (e : Inst) : Bool := e.pair == k && e.st == .running && e.pav == v % 1024 && e.cls == bits v 19 16
  let finish (e : Inst) : Inst := if named e then { e with st := .done, list := rdBytes s (listAddr s e.pav e.cls e.half) 4096 } else e
  if s.cyc.insts.any named then { s with cyc := { s.cyc with insts := s.cyc.insts.map finish } }
  else wign s (0x980000 + k * 0x1000)

/-- A pair is reset (R347, R355, R358): withdrawn, no longer halted, and back in the boot ROM. -/
def pairReset (s : State) (k : Nat) : State :=
  withdraw { s with cyc := { s.cyc with halted := s.cyc.halted.filter (· != k) }, dbg := { s.dbg with started := tdel s.dbg.started k } } k

/-- A pair halts for a fault of class `c`: the fault logic is told and the pair is withdrawn (R355, R356). -/
def pairHalts (s : State) (c k : Nat) : State :=
  if s.cyc.halted.contains k then s
  else withdraw (raiseOpen { s with cyc := { s.cyc with halted := s.cyc.halted ++ [k] } } c k 0) k

/-- The number under which the fault logic names an engine (R15); the Gatehouse is none of the engines there, and takes the number after them
(DESIGN CHOICE, log 105). -/
def engineOf : LockEngine → Nat
  | .ingest => 0 | .bandstand => 3 | .goose => 5 | .footbridge => 8 | .sequencer => 9 | .transactions => 0xA | .dout => 0xB | .sundial => 0xD
  | .gatehouse => 0xE

/-- A pair halts on a mismatch, or on an uncorrectable error of its caches; a corrected one is counted; an engine's differing output is counted
and suppressed, which is that its command does not come; results whose lanes will differ are noted for the next set (R310, R355, R356, R599, R602;
log 105). -/
def lockstepMismatch (s : State) (u : LockUnit) : State :=
  match u with
  | .pair k => pairHalts s 1 k.val
  | .cache _ .clean => s
  | .cache k .corrected => raiseOpen (cinc s (Fld.MEM_OCCE_COUNT 0)) 11 k.val 0
  | .cache k .uncorrectable => pairHalts (cinc s (Fld.MEM_OCUE_COUNT 0)) 2 k.val
  | .engine e => raiseOpen s 3 (engineOf e) 0
  | .lanes d => { s with cas := { s.cas with differ := d } }

/-- A `wsc` write of a CYC register (R358, R369). -/
def cycWsc (r : CycReg) (k v : Nat) (s : State) : State :=
  match r with
  | .CYC_PR_DONE => cycDone s k v
  | .CYC_PR_CTRL => if v % 2 = 1 then pairReset s k else s
  | _ => s

/-- A request of a CYC mailbox is taken. -/
def cycMbx (r : CycReg) (s : State) : State :=
  match r with
  | .CYC_PVCMD => pvcmdReq s
  | .CYC_FORCE => forceReq s
  | _ => s

/-- A write of a CYC register that is ignored and counted (R362, R392, R394). -/
def cycIgnores (r : CycReg) (j i : Nat) (s : State) : Bool :=
  match r with
  | .CYC_CLS_TIME => (classOf s i).st != .stopped
  | .CYC_PS_BASE => (List.range 16).any fun c => (classOf s c).st != .stopped
  | .CYC_PV_IMG | .CYC_PV_IN | .CYC_PV_OUT | .CYC_PV_EVO | .CYC_PV_RET | .CYC_PV_RSH | .CYC_PV_RSZ => pavEn s (j * 32 + i)
  | _ => false

/-- A soft reset of CYC page `p` (R391). -/
def cycSrst (p : Nat) (s : State) : State :=
  if p = 0 then
    { s with cyc := { s.cyc with insts := [], classes := [], forces := [], ckpt := none } }
  else if 128 ≤ p then
    { s with cyc := { s.cyc with insts := s.cyc.insts.map fun e => if e.pair = p - 128 ∧ e.st = .running then { e with st := .abandoned } else e } }
  else s

end Sys2Proof.Machine
end

