-- ==== Sys2Proof/Machine/Join.lean ====
section
/-! DEFINITION. Joining a running partner (R460–R462), and the sequencer's whole part of a fabric tick edge. The bytes that the donor
sends are the model's own (log 66). -/

namespace Sys2Proof.Machine

/-- The header of a message as the receiver uses it. -/
def headOf' (type : Nat) (h : FtbHead) : MsgHead :=
  { fb1 := h.fb1, type := type, seq := h.seq.toNat, holder := h.holder, st := h.st.val, tick := h.tick.toNat }

/-- The join replaced. -/
def setJoin (s : State) (j : Option JoinRun) : State := setFtb s { s.ftb with join := j }

/-- The enabled pavilions, in increasing number. -/
def enabledPavs (s : State) : List Nat := (cycPavs s).filter (pavEn s)

/-- J₀ for a join that begins in tick `n`: the first tick at least 1 ms ahead (R460; DEDUCED, log 66). -/
def systemTick (s : State) (n : Nat) : Nat := n + 1 + (baseHz s + 999) / 1000

/-- The end of a join on the joiner: the CODE, and the JOIN record (R444, R460, R461). -/
def joinEnd (s : State) (j : JoinRun) (code : Nat) : State :=
  let s := record (setJoin s none) 0x0204 ftbMid [code, j.joined.length, j.retries, j.j0 % 2 ^ 32, j.j0 / 2 ^ 32]
  mbxEndIfBusy s ftbJoinMbx code

/-- A processed channel carries SETTLE (R308, R460). -/
def anySettle (s : State) : Bool := (enabledSlots s).any fun c => match processed s c with
  | some ch => !settled s ch c
  | none => false

/-- A JOIN request (R460, R464). -/
def joinReq (s : State) : State :=
  let b := mbxAt s ftbJoinMbx
  let st := s.ftb.st
  if !b.wr || b.op != 1 then mbxEnd s ftbJoinMbx 0xFF
  else if !pairOp s || !(st == 1 || st == 4 || st == 5) || s.ftb.listen.isSome then mbxEnd s ftbJoinMbx 0x07
  else if s.ftb.fbLost || !s.ftb.heard then mbxEnd s ftbJoinMbx 0x0E
  else if !(s.ftb.pstate == 3 || s.ftb.pstate == 1) || !s.ftb.pholder then mbxEnd s ftbJoinMbx 0x07
  else if cfgMis s || s.ftb.pcfg.isNone then mbxEnd s ftbJoinMbx 0x08
  else if anySettle s then mbxEnd s ftbJoinMbx 0x0F
  else match tickInProgress s with
    | none => mbxEnd s ftbJoinMbx 0x07
    | some n =>
      let s := if s.ftb.holder then ftbXfer s false 1 s.ftb.epoch else s
      let s := setJoin (ftbEnter s 2) (some { joiner := true, j0 := systemTick s n })
      ftbControl s 0 false 0

/-- The donor follows the STATE that its partner shows (R460, R462): JOINING begins its part, INSTEP puts it in step. -/
def donorFollow (s : State) (h : MsgHead) : State :=
  match s.ftb.join with
  | none =>
    if pairOp s && h.st == 2 && s.ftb.holder && (s.ftb.st == 1 || s.ftb.st == 3) then
      setJoin s (some { joiner := false, j0 := systemTick s h.tick })
    else s
  | some j =>
    if j.joiner || h.st == 2 then s
    else if h.st = 3 ∧ s.ftb.st = 1 then ftbEnter (setJoin s none) 3
    else setJoin s none

/-! ### What the donor sends (R460, R461) -/

/-- The system data as words. -/
def systemBody (s : State) : List Nat :=
  let al := s.ang.alarms.filter fun e => e.2.st == .armed
  let sl := s.mac.goose.slots.filter fun e => e.2.running
  [0, pubNow s / 2 ^ 32 % 2 ^ 32, pubNow s / 2 ^ 64, s.ftb.epoch, s.ang.epoch, al.length, sl.length, s.cyc.forces.length] ++
  (al.flatMap fun e => e.1 :: ((wordsOfAlarm e.2).take 7).map (·.toNat)) ++
  (sl.flatMap fun e => [e.1, e.2.stNum, e.2.sqNum, e.2.active, e.2.due]) ++
  s.cyc.forces.flatMap fun f => [f.pav, f.sym, f.value, f.quality]

/-- The bytes of a pavilion's point range. -/
def pointArea (s : State) (p : Nat) : Nat × Nat := (pointBase s + pvf s Fld.CYC_PV_PTB_B p * 8192, pvf s Fld.CYC_PV_PTN_N p * 8192)

/-- A pavilion's data as words and octets. -/
def pavilionBody (s : State) (p : Nat) : List Nat :=
  let a := pointArea s p
  [1, p, genOf s p, retainSize s p, a.2] ++ rdBytes s (pvf s Fld.CYC_PV_RSH_A p * 4096) (retainSize s p) ++ rdBytes s a.1 a.2 ++
  rdBytes s (pvf s Fld.CYC_PV_EVO_A p * 4096) 32768 ++ (ownedQueues s p).flatMap (queueRecord s)

/-- The pavilions joined at the edge of tick `n`: at most 8 of those whose classes all begin a period there (R461). -/
def joinable (s : State) (todo : List Nat) (n : Nat) : List Nat := (todo.filter fun p => bounds s (progOf s p).classes n).take 8

/-- The donor's part of step 6. -/
def donorStep (s : State) (j : JoinRun) (n : Nat) : State :=
  if n < j.j0 then s
  else if !j.started then setJoin (ftbSend s 5 (systemBody s)) (some { j with started := true, todo := enabledPavs s })
  else
    let ps := joinable s (j.todo ++ j.joined) n
    let s := ps.foldl (fun s p => ftbSend s 5 (pavilionBody s p)) s
    setJoin s (some { j with todo := j.todo.filter (!ps.contains ·), joined := (j.joined ++ ps).eraseDups })

/-- The joiner's part of step 6: the pavilions whose latches are withheld from now (R461). -/
def joinerStep (s : State) (j : JoinRun) (n : Nat) : State :=
  if !j.started || n ≤ j.j0 then s
  else
    let ps := joinable s j.todo n
    setJoin s (some { j with todo := j.todo.filter (!ps.contains ·), waiting := j.waiting ++ ps.map fun p => (p, s.sdl.fab) })

/-- Joins at step 6. -/
def joinStep6 (s : State) (n : Nat) : State :=
  match s.ftb.join with
  | none => s
  | some j => if j.joiner then joinerStep s j n else donorStep s j n

/-- The joiner becomes INSTEP at the edge after the last pavilion has joined (R462). -/
def joinFinish (s : State) : State :=
  match s.ftb.join with
  | some j => if j.joiner && j.started && j.todo.isEmpty && j.waiting.isEmpty then joinEnd (ftbEnter s 3) j 0 else s
  | none => s

/-! ### What the joiner applies -/

/-- Some tick of the `k` after `n` begins a period of every class. -/
def boundSoon (s : State) (classes : Nat) : Nat → Nat → Bool
  | 0, _ => false
  | k + 1, n => bounds s classes (n + 1) || boundSoon s classes k (n + 1)

/-- The angle alarms of the donor take the place of the joiner's armed ones (R460). -/
def joinAlarms (s : State) (as : List JoinAlarm) : State :=
  let s := (armedAlarms s).foldl (fun s k => setAlarm s k { alarm s k with st := .idle }) s
  as.foldl (fun s x =>
    let a := alarmOfWords fun i => (x.words.getD i 0).toNat
    setAlarm s x.k.val { a with st := .armed, tf := fireInstant s a }) s

/-- A publication slot that runs takes the donor's numbers (R460). -/
def joinSlot (s : State) (x : JoinSlot) : State :=
  let y := slotGpb s x.k.val
  if y.running then setSlotGpb s x.k.val { y with stNum := x.stNum.toNat, sqNum := x.sqNum.toNat, active := b2n x.active, due := x.due } else s

/-- The donor's forces take the place of the joiner's (R460). -/
def joinForce (s : State) (x : JoinForce) : State :=
  onOpt (findSym s x.pav.val x.sym.toNat) (fun s => s) fun s y =>
    match forceFor x.pav.val x.value.toNat x.quality.toNat y with
    | some f => putForce s { f with written := true }
    | none => s

/-- The data of the system tick are applied (R447, R460); a pavilion whose classes begin no common period within 65,536 ticks ends the
join (R461). -/
def joinSystem (s : State) (j : JoinRun) (count epoch angEpoch : Nat) (as : List JoinAlarm) (sl : List JoinSlot) (fs : List JoinForce) : State :=
  let s := publish s
  let e := s.ang.est
  let s := { s with ang := { s.ang with
      est := { e with pr := e.pr + ((count : Int) - (s.ang.pub / 2 ^ 32 : Nat)) * 2 ^ 32 }, pub := count * 2 ^ 32 + s.ang.pub % 2 ^ 32,
      epoch := angEpoch } }
  let s := sl.foldl joinSlot (angleSweep (joinAlarms s as))
  let s := fs.foldl joinForce (setForces s [])
  let s := setFtb s { s.ftb with epoch := epoch }
  let ps := enabledPavs s
  if ps.all fun p => boundSoon s (progOf s p).classes 65536 j.j0 then setJoin s (some { j with started := true, todo := ps })
  else joinEnd (ftbEnter s 5) j 0x05

/-- Octets of an operand. -/
def octets (bs : List Byte) : List Nat := bs.map (·.toNat)

/-- The queue events of a pavilion are replaced by the donor's (R461). -/
def joinQueues (s : State) (p : Nat) (bs : List Nat) : State :=
  let empty := (ownedQueues s p).foldl (fun t q => tdel t q) s.bnd.queues
  restoreQueues p 8192 { s with bnd := { s.bnd with queues := empty } } bs

/-- The latches withheld of a pavilion take place (R461). -/
def latchWithheld (s : State) (p : Nat) : State :=
  let last := s.sdl.fabLast.getD 0
  let mine (e : Inst) : Bool := e.pav == p && e.st == .unreleased && e.start == last
  let es := s.cyc.insts.filter mine
  let rest := s.cyc.insts.filter fun e => !mine e
  es.foldl latchRelease { s with cyc := { s.cyc with insts := rest } }

/-- The data of a pavilion are applied, and its latches follow (R461). -/
def joinPavilion (s : State) (j : JoinRun) (p gen : Nat) (shadow points lists queues : List Nat) : State :=
  if !(j.waiting.any fun e => e.1 == p) then s
  else
    let s := setJoin s (some { j with waiting := j.waiting.filter fun e => e.1 != p, joined := j.joined ++ [p] })
    let s := setPav s p { pavOf s p with gen := gen }
    let s := physPut s cycMid (pvf s Fld.CYC_PV_RSH_A p * 4096) (shadow.take (retainSize s p))
    let s := restoreRetain s p true
    let a := pointArea s p
    let s := physPut s cycMid a.1 (points.take a.2)
    let s := (engWrite s p cycMid (pvf s Fld.CYC_PV_EVO_A p * 4096) (lists.take 32768)).1
    latchWithheld (joinQueues s p queues) p

/-- A JOIN message from the donor (R460, R461). -/
def joinData (s : State) (h : FtbHead) (d : JoinData) : State :=
  onOk (msgTake s (headOf' 5 h)) (fun s => s) fun s =>
    match s.ftb.join with
    | none => s
    | some j =>
      if !j.joiner then s
      else match d with
        | .system count epoch angEpoch as sl fs =>
          if j.started then s else joinSystem s j count.toNat epoch.toNat angEpoch.toNat as sl fs
        | .pavilion p gen shadow points lists queues =>
          joinPavilion s j p.val gen.toNat (octets shadow) (octets points) (octets lists) (octets queues)

/-- Join data have not arrived within 100 µs (R461): the pavilions are tried again, and latch their own state (log 66). -/
def joinTimeout (s : State) : State :=
  match s.ftb.join with
  | none => s
  | some j =>
    let late := (j.waiting.filter fun e => decide (e.2 + 100000 ≤ s.sdl.fab)).map fun (e : Nat × Nat) => e.1
    let waiting := j.waiting.filter fun e => !late.contains e.1
    let s := setJoin s (some { j with waiting := waiting, todo := j.todo ++ late, retries := j.retries + late.length })
    late.foldl latchWithheld (cadd s Fld.FTB_JRETRY_COUNT late.length)

/-! ### The edge -/

/-- Steps 2 to 8 of the edge of tick `n` (R364), with the digests of the edge (R428, R441). -/
def seqEdge (s : State) (n : Nat) : State :=
  let s := joinFinish s
  let s := joinStep6 (step6 (steps2to5 s n) n) n
  let s := dueResets { s with cyc := { s.cyc with inCommit := false } }
  let wait := match s.ftb.join with
    | some j => if j.joiner then j.waiting.map (fun (e : Nat × Nat) => e.1) else []
    | none => []
  digestForm (step7 s n wait) n

end Sys2Proof.Machine
end

