-- ==== Sys2Proof/Machine/Access.lean ====
section
/-! DEFINITION. Access to the register pages (R33–R79): clamping, writes by access code, locks, claims and staging, strobes and commits,
mailboxes, the transaction unit, and transactions on the mesh (R20–R26). -/

namespace Sys2Proof.Machine

/-! ### Clamping (R12, R78) -/

/-- The multiple of `n` nearest to a value, the lower one on a tie, within 32 bits. -/
def nearMultiple (n v : Nat) : Nat :=
  let down := v / n * n
  if v - down ≤ n / 2 ∨ 2 ^ 32 ≤ down + n then down else down + n

/-- The legal value nearest to `v`, the lower one on a tie. -/
def nearest (legal : List Nat) (v : Nat) : Nat :=
  let dist (x : Nat) : Nat := (x - v) + (v - x)
  legal.foldl (fun a x => if dist x < dist a then x else a) (legal.headD 0)

/-- PHY codes of the modes of a port (R179). -/
def phyModes (m : Nat) : List Nat :=
  if m < 8 then [1, 2, 3, 4] else if m < 12 then [2, 3, 4] else if m < 14 then [1] else if m = 14 then [3, 4] else [2]

/-- A PHY code: off stays off, a mode that the port lacks becomes the nearest of the port's modes (R78, R179, R225; log 67). -/
def clampPhy (m v : Nat) : Nat := if v = 0 then 0 else nearest (phyModes m) v

/-- The highest legal FEC code of a port in a PHY mode: none on MG0 and MX0, Clause 108 at 25 Gb/s only (R179, R225). -/
def fecMax (m phy : Nat) : Nat := if 14 ≤ m then 0 else if phy = 1 then 2 else if phy = 2 then 1 else 0

/-- A field's legal range depends on another field. -/
def FieldDesc.dependent (f : FieldDesc) : Bool :=
  match f.dep with
  | .none | .rxen | .phy | .pause | .pairreg | .quad | .m32 | .m8 => false
  | _ => true

/-- A value clamped to a field's own range (R12, R78). -/
def clampOwn (l : RegLoc) (f : FieldDesc) (v : Nat) : Nat :=
  match f.dep with
  | .rxen => if l.page.port = 15 then 0 else v
  | .phy => clampPhy l.page.port v
  | .m32 => nearMultiple 32 v
  | .m8 => nearMultiple 8 v
  | _ => clampTo f.min f.max v

/-- The present value of another field of the same register page. -/
def otherField (s : State) (l : RegLoc) (off lo width reset : Nat) : Nat := fget s ⟨l.page.base + off, lo, width, reset⟩

/-- A value clamped to a range that depends on another field, at its value in force (R78). T1 is legal to 60 000 000 and at least T0 + 1:
with T0 = 60 000 000 the two bounds cross, and the model lets the lower one stand, T1 = 60 000 001 (DESIGN CHOICE, log 94). -/
def clampDep (s : State) (l : RegLoc) (f : FieldDesc) (v : Nat) : Nat :=
  match f.dep with
  | .fmax => clampTo (fget s Fld.SDL_ANG_BAND_FMIN) 7000 v
  | .tail =>
    let size (tx : Bool) : FieldRef := if tx then Fld.TRL_TXR_SIZE_LOG l.i else Fld.TRL_RXR_SIZE_LOG l.i
    min v (2 ^ fget s (size (decide (l.desc.off < 0xC0))) - 1)
  | .ref => if fbit s (Fld.LTN_G_CTRL_FMODE l.page.j l.i) then min v 8191 else v
  | .ovf => min (clampTo f.min f.max v) (1024 - fget s Fld.BND_OVF_BASE_OFFS)
  | .phase => min v (fget s (Fld.CYC_CLS_TIME_PERIOD l.i) - 1)
  | .ptn => min v (131072 - fget s (Fld.CYC_PV_PTB_B l.page.j l.i))
  | .t1 => clampTo (fget s (Fld.BLV_TR_T0_T l.i) + 1) f.max v
  | .fec => min v (fecMax l.page.port (fget s (Fld.MAC_MODE_PHY l.page.port)))
  | .an => if fget s (Fld.MAC_MODE_PHY l.page.port) = 3 then v else 0
  | .first => min v (1023 - fget s (Fld.BLV_CG_CTRL_NSRC l.i))
  | _ => clampOwn l f v

/-! ### Values that take effect: at once, by a strobe, by a commit -/

/-- The fields of a register with one of these codes that a master may write (R49). -/
def writable (l : RegLoc) (codes : List Acc) (mid : Nat) : List FieldDesc :=
  l.desc.fields.filter fun f => codes.contains f.acc && (!f.prv || isPriv mid) && fieldPresent l f

/-- A setting of a capture group that must not change while the group is and stays enabled (R531). -/
def groupFrozen (s : State) (ws : List Staged) (l : RegLoc) (v : Nat) : Bool :=
  let g := l.i
  let ctrl := (Fld.BLV_CG_CTRL_EN g).addr
  let staysOn := fbit s (Fld.BLV_CG_CTRL_EN g) &&
    (ws.find? fun w => w.addr == ctrl).all fun w => bit w.val 31
  match l.desc.name with
  | .blv .BLV_CG_CTRL =>
    staysOn && (fget s (Fld.BLV_CG_CTRL_FIRST g) != min (v % 1024) (1023 - bits v 15 10) || fget s (Fld.BLV_CG_CTRL_NSRC g) != bits v 15 10 ||
      fget s (Fld.BLV_CG_CTRL_NSLOT g) != bits v 23 20)
  | .blv .BLV_CG_RGN =>
    staysOn && l.desc.fields.any fun f => (f.acc == .wbf || f.acc == .rw) && clampOwn l f (bits v f.hi f.lo) != fget s (refOf l f)
  | _ => false

/-- A value that must not take effect in the present state: it is ignored and counted (R194, R229, R258, R351, R362, R392, R394, R399,
R465, R531, R587, R619). `ws` are the values that take effect together. -/
def ignores (s : State) (ws : List Staged) (l : RegLoc) (v : Nat) : Bool :=
  match l.desc.name with
  | .trl .TRL_CFG | .trl .TRL_OVF_BASE | .trl .TRL_OVF_SIZE => enabled s 0x400000
  | .trl .GPB_TABLE => fget s Fld.GPB_TABLE_BASE != bits v 31 12 && (s.mac.goose.slots.any fun e => e.2.running)
  | .mac .MAC_GCLA => !(portOf s l.page.port).gcl.listB
  | .mac .MAC_GCLB => (portOf s l.page.port).gcl.listB
  | .bnd .BND_OVF_BASE | .bnd .BND_OVF_SIZE => enabled s 0x800000
  | .cyc r => cycIgnores r l.page.j l.i s
  | .pav .PAV_WIN_BASE | .pav .PAV_WIN_SIZE => pavState s l.page.idx == 1
  | .blv .BLV_RING_BASE | .blv .BLV_RING_SIZE => enabled s 0xC00000
  | .blv _ => groupFrozen s ws l v
  | .gth .GTH_STORE => enabled s 0xE00000
  | .mem .MEM_TELE_BASE => enabled s 0xF03000
  | _ => false

/-- FTB_CFG keeps PAIR, SIDE and PRIMARY while page 0 is enabled (R465). -/
def ftbKeeps (s : State) (l : RegLoc) (f : FieldDesc) : Bool :=
  l.desc.name == .ftb .FTB_CFG && enabled s 0xA00000 && decide (29 ≤ f.lo)

/-- The fields with one of the codes take a value; the dependent ones in a second pass (R78). -/
def putFields (codes : List Acc) (dependent : Bool) (s : State) (w : Staged) : State :=
  match regAt w.addr with
  | none => s
  | some l => ((writable l codes w.mid).filter fun f => f.dependent == dependent && !ftbKeeps s l f).foldl (fun s f =>
      let v := bits w.val f.hi f.lo
      fset s (refOf l f) (if dependent then clampDep s l f v else clampOwn l f v)) s

/-- What follows from a register's new value in its block. -/
def changed (old : State) (s : State) (w : Staged) : State :=
  match regAt w.addr with
  | none => s
  | some l => match l.desc.name with
    | .cru r => cruChanged r old s
    | .sdl r => sdlChanged r old s
    | .trl r => trlChanged r l.i s
    | .hrb r => hrbChanged r s
    | .gth r => gthChanged r s
    | .blv r => blvChanged r old s
    | .pav r => pavChanged r l.page.idx old s
    | _ => s

/-- A value lands in a block window. -/
def lands (ws : List Staged) (b : Block) : Bool := ws.any fun w => decide (b.base ≤ w.addr) && decide (w.addr < b.base + 0x100000)

/-- Once the tick generator has stopped and its last fabric edge has passed, the pending sets are released and what waits for an edge
takes effect (R128, R280, R289, R328, R531). -/
def stopEnd (s : State) : State :=
  if !s.sdl.stopDue || !s.sdl.fabDue.isEmpty then s
  else blvDrain (srcEdge (tripEdge (descEdge (stopRelease { s with sdl := { s.sdl with stopDue := false } }) true (0, 1))))

/-- What follows in the blocks once values, or a change of EN, are in force. -/
def follow (old s : State) (touched : Block → Bool) : State :=
  let s := if touched .sdl then angleSweep (stopEnd s) else s
  let s := if touched .mac then macApplied old s else s
  let s := if touched .svi then sviApplied old s else s
  let s := if touched .cas || touched .ltn || touched .svi then casApplied old s else s
  let s := if touched .blv then blvApplied old s else s
  if touched .cyc then classFollow s else s

/-- Registers whose `wbf` fields take values in this fabric clock, which a hardware update of the clock does not override (R64). -/
def noteApplied (s : State) (as_ : List Nat) : State :=
  { s with reg := { s.reg with applClk := s.sdl.fab, applied := (if s.reg.applClk = s.sdl.fab then s.reg.applied else []) ++ as_ } }

/-- Values take effect together in one fabric clock (R60, R73, R78): what must not change is ignored and counted, independent fields come
first, then the dependent ones, then what follows in the blocks. -/
def applyBatch (s : State) (codes : List Acc) (ws : List Staged) : State :=
  let bad (w : Staged) : Bool := match regAt w.addr with
    | some l => ignores s ws l w.val
    | none => true
  let good := ws.filter fun w => !bad w
  let old := (ws.filter bad).foldl (fun s w => wign s (pageBase w.addr)) s
  let keeps (w : Staged) : Bool := match regAt w.addr with
    | some l => l.desc.fields.any fun f => ftbKeeps s l f && bits w.val f.hi f.lo != fget s (refOf l f)
    | none => false
  let old := (good.filter keeps).foldl (fun s w => wign s (pageBase w.addr)) old
  let s := good.foldl (putFields codes false) (if codes.contains .wbf then noteApplied old (good.map (·.addr)) else old)
  let s := good.foldl (putFields codes true) s
  follow old (good.foldl (changed old) s) (lands good)

/-! ### Strobes (R59–R63) -/

/-- The register's `wbf` fields belong to a slower domain (R63; log 68). -/
def slowReg (a : Nat) : Bool := decide (0x300000 ≤ a) && decide (a < 0x400000)

/-- A page belongs to strobe group `g`. -/
def inGroup (s : State) (g : Nat) (e : PendEntry) : Bool := fget s (hGrp (pageBase e.addr)) == g

/-- A pending value as a write that any field takes (R18). -/
def PendEntry.write (e : PendEntry) : Staged := ⟨e.addr, e.val, 0⟩

/-- The pending values that a strobe of groups takes: those accepted before this clock and in no earlier strobe (R60, R62, R96). -/
def strobeHits (s : State) (gs : List Nat) (e : PendEntry) : Bool :=
  gs.any (fun g => inGroup s g e) && decide (e.acc < s.sdl.fab) && e.sent == 0

/-- The pending values that a strobe of groups makes active on the fabric at once (R60). -/
def strobeNow (s : State) (gs : List Nat) : List PendEntry := s.reg.pend.filter fun e => strobeHits s gs e && !slowReg e.addr

/-- The values that a strobe takes leave the pending state, those of slower domains when their domain acknowledges them (R63, R96). -/
def sendStrobe (s : State) (hit : PendEntry → Bool) : State :=
  { s with reg := { s.reg with
      strbNo := s.reg.strbNo + 1
      pend := (s.reg.pend.filter fun e => !(hit e && !slowReg e.addr)).map fun e => if hit e then { e with sent := s.reg.strbNo + 1 } else e } }

/-- A strobe of groups: pending values accepted before this clock become active, those of slower domains are sent (R60, R62, R63). -/
def strobeGroups (s : State) (gs : List Nat) : State :=
  applyBatch (sendStrobe s (strobeHits s gs)) [.wbf] ((strobeNow s gs).map PendEntry.write)

/-- Two offsets belong to the same slower domain: the pages of one port (R63, R92). -/
def sameDomain (a b : Nat) : Bool := slowReg a && slowReg b && a / 0x10000 == b / 0x10000

/-- The strobe in flight on the STRB channel into the domain of an offset: the first that the domain has not acknowledged; later ones
wait at their source (R89, R96). -/
def strobeInFlight (s : State) (a : Nat) : Option Nat :=
  ((s.reg.pend.filter fun e => sameDomain a e.addr && e.sent != 0).map (·.sent)).min?

/-- The slower domain of an offset takes the strobe in flight into it, the whole request at one edge (R63, R97). -/
def strobeAck (s : State) (a : Nat) : State :=
  match strobeInFlight s a with
  | none => s
  | some k =>
    let taken (e : PendEntry) : Bool := sameDomain a e.addr && e.sent == k
    applyBatch { s with reg := { s.reg with pend := s.reg.pend.filter fun e => !taken e } } [.wbf] ((s.reg.pend.filter taken).map PendEntry.write)

/-- The strobes whose clock has come are applied (R61). -/
def strobesDue (s : State) : State :=
  let due := (s.reg.strobes.filter fun e => decide (e.2 ≤ s.sdl.fab)).map (·.1)
  if due.isEmpty then s
  else strobeGroups { s with reg := { s.reg with strobes := s.reg.strobes.filter fun e => !decide (e.2 ≤ s.sdl.fab) } } due

/-! ### The transaction unit (R65–R76) -/

/-- A command of slot `n` is refused: ignored, and counted on SYS page 1. -/
def txIgnored (s : State) : State := wign s 0x1000

/-- The staged values of a slot are applied and the slot returns to IDLE (R73). -/
def txClose (s : State) (n done : Nat) : State :=
  closeTx (setTx s n { txSlot s n with done := done % 2 ^ 32 }) n 1

/-- Absolute number and least distance in fabric clocks of a tick `d` ticks after the tick in progress (R72). -/
def edgeFar (s : State) (d : Nat) : Bool := decide (1000 ≤ clocksToEdge s (d - 1))

/-- COMMIT (R70, R72, R76). -/
def txCommit (s : State) (n : Nat) : State :=
  let t := txSlot s n
  if t.phase ≠ .opened then txIgnored s
  else if t.overflow then failTx s n (some 5)
  else if genActive s then setTx s n { t with phase := .armed, target := .edge (s.sdl.fab + 1000) }
  else setTx s n { t with phase := .armed, target := .clock (s.sdl.fab + 32) }

/-- COMMIT_AT (R70, R72, R76). -/
def txCommitAt (s : State) (n : Nat) : State :=
  let t := txSlot s n
  if t.phase ≠ .opened then txIgnored s
  else if t.overflow then failTx s n (some 5)
  else match tickInProgress s with
    | none => failTx s n (some 8)
    | some k =>
      let d := (fget s (Fld.SYS_TX_AT_TICK n) + 2 ^ 32 - k % 2 ^ 32) % 2 ^ 32
      if d = 0 ∨ 2 ^ 31 < d ∨ !edgeFar s d then failTx s n (some 6)
      else setTx s n { t with phase := .armed, target := .tick (k + d) }

/-- The fabric edge of an armed slot is the one that a Sundial edge has already started, at most 36 clocks from it (R74, R85). -/
def txAtEdge (s : State) : TxTarget → Bool
  | .edge c => s.sdl.fabDue.any fun e => decide (c ≤ e.2.1 + 36)
  | .tick k => s.sdl.fabDue.any fun e => e.1 == k
  | .clock _ => false

/-- The edge of an armed slot is at least 1 µs away, or none is coming (R74; log 69). -/
def txFar (s : State) : TxTarget → Bool
  | .edge c => !genActive s || decide (s.sdl.fab + clocksToEdge s 0 < c) || decide (1000 ≤ clocksToEdge s 0)
  | .tick k => match tickInProgress s with
    | none => true
    | some i => edgeFar s (k - i)
  | .clock c => decide (s.sdl.fab + 1000 ≤ c)

/-- ROLLBACK (R74). -/
def txRollback (s : State) (n : Nat) : State :=
  let t := txSlot s n
  match t.phase with
  | .idle => txIgnored s
  | .opened => closeTx s n 2
  | .armed => if txFar s t.target && !txAtEdge s t.target then closeTx s n 2 else txIgnored s

/-- BEGIN (R67). -/
def txBegin (s : State) (n mid : Nat) : State :=
  let t := txSlot s n
  if t.phase ≠ .idle then txIgnored s
  else setTx s n { t with phase := .opened, owner := mid, err := 0, nstaged := 0, claims := [], staging := [], overflow := false }

/-- A write of SYS_TXn_CMD (R65, R79). -/
def txCmd (s : State) (n mid v : Nat) : State :=
  let t := txSlot s n
  if 1 < popcount v 4 then txIgnored s
  else if bit v 0 then txBegin s n mid
  else if v % 16 = 0 then s
  else if t.phase = .idle ∨ t.owner ≠ mid then txIgnored s
  else if bit v 1 then txCommit s n
  else if bit v 2 then txCommitAt s n
  else txRollback s n

/-- Page numbers claimed by the other slots. -/
def claimedElsewhere (s : State) (n page : Nat) : Bool :=
  (List.range 4).any fun k => k != n && (txSlot s k).claims.contains page

/-- A write of SYS_TXn_CLAIM (R65, R68, R76). -/
def txClaim (s : State) (n mid page : Nat) : State :=
  let t := txSlot s n
  if t.phase ≠ .opened ∨ t.owner ≠ mid then txIgnored s
  else if t.claims.contains page then s
  else
    let no (e : Nat) : State := setTx s n { t with err := e }
    if claimedElsewhere s n page then no 1
    else if pendCount s (page * 0x1000) ≠ 0 then no 2
    else if !((pageAtOff (page * 0x1000)).any fun p => p.kind.txn) then no 3
    else if 512 ≤ t.claims.length then no 4
    else setTx s n { t with claims := t.claims ++ [page] }

/-- A write enters the staging of a slot (R70). -/
def stage (s : State) (n a v mid : Nat) : State :=
  let t := txSlot s n
  if t.staging.any fun w => w.addr == a then
    setTx s n { t with staging := t.staging.map fun w => if w.addr = a then ⟨a, v, mid⟩ else w }
  else if 4096 ≤ t.staging.length then wign (setTx s n { t with err := 5, overflow := true }) (pageBase a)
  else setTx s n { t with staging := t.staging ++ [⟨a, v, mid⟩], nstaged := t.staging.length + 1 }

/-- Slots and strobe groups whose moment has come apply in one clock (R61, R72, R73); `done` is what SYS_TXn_DONE records. -/
def commitTogether (s : State) (ns gs : List Nat) (done : Nat) : State :=
  let ws := ns.flatMap fun n => (txSlot s n).staging
  let s := applyBatch (sendStrobe s (strobeHits s gs)) [.rw, .wbf] (ws ++ (strobeNow s gs).map PendEntry.write)
  ns.foldl (fun s n => txClose s n done) s

/-- Step 1 of a fabric tick edge (R61, R72, R73, R364): what is due at the edge of tick `n` applies. -/
def edgeApply (s : State) (n : Nat) : State :=
  let slots := (List.range 4).filter fun k =>
    let t := txSlot s k
    t.phase == .armed && (match t.target with
      | .tick i => i == n
      | .edge c => decide (c ≤ s.sdl.fab)
      | .clock _ => false)
  let gs := (s.reg.armed.filter fun e => decide (e.2 ≤ s.sdl.fab)).map (·.1)
  let s := { s with reg := { s.reg with armed := s.reg.armed.filter fun e => !decide (e.2 ≤ s.sdl.fab) } }
  if slots.isEmpty ∧ gs.isEmpty then s else commitTogether s slots gs n

/-- A COMMIT taken while the generator is stopped applies 32 fabric clocks later (R72). -/
def stoppedApply (s : State) : State :=
  let slots := (List.range 4).filter fun k =>
    let t := txSlot s k
    t.phase == .armed && (match t.target with
      | .clock c => decide (c ≤ s.sdl.fab)
      | _ => false)
  if slots.isEmpty then s else commitTogether s slots [] 0xFFFFFFFF

/-- Slots whose target lies before the first edge of a start fail (R129). -/
def lateSlots (s : State) (n : Nat) : State :=
  (List.range 4).foldl (fun s k =>
    match (txSlot s k).phase, (txSlot s k).target with
    | .armed, .tick i => if i < n then failTx s k (some 6) else s
    | _, _ => s) s

/-! ### Writes -/

/-- The word of a register's `wbf` fields with a write in its writable fields, each clamped by its own range (R12, R59). -/
def pendWord (s : State) (l : RegLoc) (mid v : Nat) : Nat :=
  let w := writable l [.wbf] mid
  ((l.desc.fields.filter fun f => f.acc == .wbf).map fun f =>
    (if w.contains f then clampOwn l f (bits v f.hi f.lo) else fieldRead s l f true true) * 2 ^ f.lo).sum

/-- A write to the `wbf` fields of a register (R59, R62). -/
def bufferWrite (s : State) (l : RegLoc) (mid v : Nat) : State :=
  if (writable l [.wbf] mid).isEmpty then s
  else
    let e : PendEntry := { addr := l.addr, val := pendWord s l mid v, acc := s.sdl.fab }
    { s with reg := { s.reg with pend := (s.reg.pend.filter fun x => x.addr != l.addr || x.sent != 0) ++ [e] } }

/-- A write to the `rw` and `wbf` fields of a register: refused by a claim, staged, refused by a lock, or taken (R43, R46, R69, R71, R76). -/
def configWrite (s : State) (l : RegLoc) (mid v : Nat) : State :=
  if (writable l [.rw, .wbf] mid).isEmpty then s
  else match claimedBy s l.page.base with
    | some n =>
      if (txSlot s n).owner ≠ mid ∨ (txSlot s n).phase = .armed ∨ locked s l.page.base then wign s l.page.base
      else stage s n l.addr v mid
    | none =>
      if locked s l.page.base then wign s l.page.base
      else
        let s := if (writable l [.rw] mid).isEmpty then s else applyBatch s [.rw] [⟨l.addr, v, mid⟩]
        bufferWrite s l mid v

/-- A write to the `ctr` fields of a register (R46, R50). -/
def counterWrite (s : State) (l : RegLoc) (mid v : Nat) : State :=
  (writable l [.ctr] mid).foldl (fun s f => csub s (refOf l f) (bits v f.hi f.lo)) s

/-- A `wsc` write of a SYS register (R61, R79). -/
def sysWsc (r : SysReg) (i mid v : Nat) (s : State) : State :=
  match r with
  | .SYS_STROBE => { s with reg := { s.reg with strobes := s.reg.strobes ++ (bitsOf v 16).map fun g => (g, s.sdl.fab + 32) } }
  | .SYS_STROBE_TICK => { s with reg := { s.reg with armed := s.reg.armed ++ (bitsOf v 16).map fun g => (g, s.sdl.fab + 1000) } }
  | .SYS_TX_CMD => txCmd s i mid v
  | _ => s

/-- Bits of a `wsc` register are set; they read 1 in the next clock (R46, R77). -/
def wscNote (s : State) (a v : Nat) : State :=
  { s with reg := { s.reg with wscSet := (s.reg.wscSet.filter fun e => decide (s.sdl.fab ≤ e.2.2 + 1)) ++ [(a, v, s.sdl.fab)] } }

/-- What the `wsc` fields of a register start (R46). -/
def commandWrite (s : State) (l : RegLoc) (mid v : Nat) : State :=
  let fs := writable l [.wsc] mid
  if fs.isEmpty then s
  else
    let v := (fs.map fun f => bits v f.hi f.lo * 2 ^ f.lo).sum
    let s := if v = 0 then s else wscNote s l.addr v
    match l.desc.name with
    | .sys r => sysWsc r l.i mid v s
    | .cru r => cruWsc r v s
    | .cas r => casWsc r v s
    | .bnd .BND_DONE => if v % 2 = 1 then doneWrite s l.page.j else s
    | .cyc r => cycWsc r l.page.j v s
    | .blv r => blvWsc r l.i v s
    | .mem r => memWsc r v s
    | .dbg r => dbgWsc r v s
    | .pav r => pavWsc r l.page.idx v s
    | _ => s

/-- A request of a mailbox goes to its block; `bflOk` is what the boot flash reports to DBG_BFL (R654). -/
def mbxGo (bflOk : Bool) (l : RegLoc) (s : State) : State :=
  match l.desc.name with
  | .sdl r => angleSweep (sdlMbx r l.addr l.i s)
  | .mac r => macMbx r l.page.port l.addr s
  | .trl r => trlMbx r l.addr s
  | .svi r => sviMbx r l.addr s
  | .cas r => casMbx r l.addr s
  | .ltn r => ltnMbx r l.addr s
  | .bnd .BND_POST => bndMbx l.addr s
  | .cyc r => cycMbx r s
  | .ftb .FTB_TOKEN => ftbTokenReq s
  | .ftb .FTB_JOIN => joinReq s
  | .ftb .FTB_DIG => ftbDigReq s l.addr
  | .orn r => ornMbx r l.addr s
  | .blv r => blvMbx r l.addr s
  | .hrb r => hrbMbx r l.addr s
  | .gth r => gthMbx r l.addr l.page.j s
  | .grt r => grtMbx r l.addr s
  | .dbg .DBG_BFL => bflReq s l.addr bflOk
  | .dbg r => dbgMbx r l.addr s
  | .pav .PAV_POST => pavPost s l.addr l.page.idx
  | .pav .PAV_MIG => migReq s l.page.idx
  | _ => s

/-- A data word of a mailbox replaced. -/
def putWord (d : List Word) (i v : Nat) : List Word :=
  (List.range (max d.length (i + 1))).map fun k => if k = i then w32 v else d.getD k 0

/-- A write to a word of a mailbox (R53–R56, R656). -/
def mbxWrite (s : State) (bflOk : Bool) (l : RegLoc) (mid v : Nat) : State :=
  let b := mbxAt s l.addr
  match l.sub / 4 with
  | 0 =>
    if b.busy then wign s l.page.base
    else
      let b := { b with arg := v / 2 ^ 16 % 2 ^ 16, op := bits v 15 8, wr := bit v 1 }
      if !bit v 0 then setMbx s l.addr b
      else mbxGo bflOk l (setMbx s l.addr { b with busy := true, valid := false, code := 0, mid := mid })
  | 1 | 3 => s
  | 2 => if b.busy then wign s l.page.base else if bit v 0 then setMbx s l.addr { b with valid := false } else s
  | k => if b.busy then wign s l.page.base else setMbx s l.addr { b with d := putWord b.d (k - 4) v }

/-- A master without privilege writes a value other than zero into a `prv` field (R49). -/
def prvViolation (l : RegLoc) (mid v : Nat) : Bool :=
  !isPriv mid && l.desc.fields.any fun f => f.prv && bits v f.hi f.lo != 0

/-- A write to a block register or a mailbox word (R45, R46, R49). -/
def regWrite (s : State) (bflOk : Bool) (l : RegLoc) (mid v : Nat) : State :=
  if !allows l.desc.priv l.page mid then wign s l.page.base
  else if l.desc.mbx then mbxWrite s bflOk l mid v
  else match l.desc.name with
    | .sys .SYS_TX_CLAIM => txClaim s l.i mid (v % 2 ^ 16)
    | _ =>
      let s := if prvViolation l mid v then wign s l.page.base else s
      commandWrite (counterWrite (configWrite s l mid v) l mid v) l mid v

/-! ### The header (R36–R45) -/

/-- What follows a change of EN of a page, as the block's chapter gives it (R39). -/
def enableFollows (old s : State) (p : PageLoc) (on : Bool) : State :=
  let i := p.idx
  let s := match p.kind.blk with
    | .sdl => sdlEnable i on s
    | .mac => macEnable p.port i on s
    | .trl => trlEnable i on s
    | .svi => sviEnable i on old s
    | .bnd => bndEnable i on s
    | .ftb => ftbEnable on old s
    | .hrb => hrbEnable on s
    | .gth => gthEnable i on s
    | _ => s
  let s := if p.kind.blk = .sdl then angleSweep s else s
  follow old s fun b => b == p.kind.blk && b != .mac && b != .svi

/-- EN of a page is written (R39). -/
def setEnable (s : State) (p : PageLoc) (on : Bool) : State :=
  if enabled s p.base = on then s else enableFollows s (fset s (hEn p.base) (b2n on)) p on

/-- A soft reset of a page's block (R40). -/
def softReset (s : State) (p : PageLoc) : State :=
  let i := p.idx
  match p.kind.blk with
  | .sdl => angleSweep (sdlSrst i s)
  | .mac => macSrst p.port i s
  | .trl => if 32 ≤ i then gooseSrst i s else trlSrst i s
  | .svi => sviSrst i s
  | .cas => casSrst i s
  | .ltn => ltnSrst i s
  | .bnd => bndSrst i s
  | .cyc => cycSrst i s
  | .ftb => ftbSrst s
  | .blv => blvSrst i s
  | .hrb => hrbSrst s
  | .gth => gthSrst i s
  | .mem => memSrst i s
  | .dbg => dbgSrst i s
  | _ => s

/-- A soft reset of a page begins; it lasts through this fabric clock (R40; log 5). -/
def srstBegin (s : State) (page : Nat) : State := { s with reg := { s.reg with srst := tset s.reg.srst page s.sdl.fab } }

/-- A write of PG_CTRL (R36, R40, R43, R49). -/
def ctrlWrite (s : State) (p : PageLoc) (mid v : Nat) : State :=
  let refused := locked s p.base && enabled s p.base != bit v 0
  let s := if refused || (bit v 1 && !isPriv mid) then wign s p.base else s
  let s := fset s (hView p.base) (bits v 2 2)
  let s := if locked s p.base then s else setEnable s p (bit v 0)
  if bit v 1 && isPriv mid then softReset (wscNote (srstBegin s p.base) (p.base + 0x0C) 2) p else s

/-- A write of PG_LOCK (R43, R44, R49). -/
def lockWrite (s : State) (p : PageLoc) (mid v : Nat) : State :=
  if !isPriv mid then wign s p.base
  else if bit v 1 then
    if bit v 0 || !(midClass mid == 0 || midClass mid == 5) then wign s p.base else fset s (hLock p.base) 0
  else if bit v 0 then
    if locked s p.base then s else if (claimedBy s p.base).isSome then wign s p.base else fset s (hLock p.base) 1
  else if locked s p.base then wign s p.base else s

/-- A write of a header register (R36). -/
def headerWrite (s : State) (p : PageLoc) (mid o v : Nat) : State :=
  match o / 4 with
  | 3 => ctrlWrite s p mid v
  | 5 => fset s (hIen p.base) (v % 2 ^ 32)
  | 7 => if locked s p.base || pendCount s p.base != 0 then wign s p.base else fset s (hGrp p.base) (v % 16)
  | 9 => lockWrite s p mid v
  | 10 => csub s (hWign p.base) (v % 2 ^ 16)
  | _ => s

/-! ### 32-bit accesses of the register space -/

/-- A 32-bit write at an offset of the register space (R26, R33, R34). -/
def busWrite (s : State) (bflOk : Bool) (mid a v : Nat) : State :=
  match pageAtOff a with
  | none => decErr s mid
  | some p =>
    if !allows .all p mid then wign s p.base
    else if a % 0x1000 < 0x40 then headerWrite s p mid (a % 0x1000) v
    else match regIn p (a % 0x1000) with
      | none => s
      | some l => regWrite s bflOk l mid v

/-- A 32-bit read at an offset of the register space: its word, or none where the read waits (R26, R343, R368). -/
def busRead (s : State) (mid a : Nat) : State × Option Nat :=
  match pageAtOff a with
  | none => (decErr s mid, some 0)
  | some p =>
    let plain := (drew s, some (peek s mid a))
    match regIn p (a % 0x1000) with
    | none => plain
    | some l =>
      if a % 0x1000 < 0x40 || !allows l.desc.priv p mid then plain
      else match l.desc.name with
        | .bnd .BND_TAKE =>
          let s := takeRead s p.j
          (s, if s.reg.resp.wait then none else some (s.reg.resp.data.getD 0 0).toNat)
        | .cyc .CYC_PR_NEXT => let (s, w) := nextRead s p.j; (s, some w)
        | _ => plain

/-! ### Transactions on the mesh (R20–R26, R33) -/

/-- The response of a transaction (log 5). -/
def respond (s : State) (r : Resp) : State := { s with reg := { s.reg with resp := r } }

/-- An error response (R20, R23, R33). -/
def errorResp (s : State) : State := respond s { err := true }

/-- A refused access of the register space or of no target: counted, with an error response (R23, R33). -/
def refuse (s : State) (mid : Nat) : State := errorResp (decErr s mid)

/-- A read of the register space (R33); where no page is, `n` bytes of zero at any width and alignment (R26). -/
def regRead32s (s : State) (mid a n : Nat) : State :=
  if (pageAtOff a).isNone then respond (decErr s mid) { data := leWords ((n + 3) / 4) 0 }
  else if !(n == 4 || n == 8) || a % n != 0 then refuse s mid
  else onOpt (busRead s mid a) (fun s => respond s { wait := true }) fun s lo =>
      if n = 4 then respond s { data := [w32 lo] }
      else onOpt (busRead s mid (a + 4)) (fun s => respond s { wait := true, data := [w32 lo] }) fun s hi =>
          respond s { data := [w32 lo, w32 hi] }

/-- A write of the register space, a 64-bit one as two halves, the lower first (R33); where no page is, ignored at any width and
alignment (R26). -/
def regWrites (s : State) (mid a : Nat) (bs : List Nat) : State :=
  let n := bs.length
  if (pageAtOff a).isNone then respond (decErr s mid) {}
  else if !(n == 4 || n == 8) || a % n != 0 then refuse s mid
  else
    let s := busWrite s true mid a (ofLe (bs.take 4))
    let s := if n = 8 then busWrite s true mid (a + 4) (ofLe (bs.drop 4)) else s
    respond s {}

/-- Bytes as little-endian words of a response. -/
def respWords (bs : List Nat) : List Word := wordsOfBytes ((bs.length + 3) / 4) bs

/-- Lines that a read of DRAM finds with wrong symbols are decoded first (R595–R598). -/
def decodeLines (s : State) (mid a : Nat) (bad : List BadLine) : State :=
  bad.foldl (fun s b => readLine s b.j.val (a / 64 + b.line) mid false (b.errs.map fun c => c.map (·.val))) s

/-- A read or fetch of memory, the boot ROM or the register space by a master that no window confines (R22, R23). The ROM's contents are
free values (log 70). R22 gives the register space the access `per page and prv` and does not say what an instruction fetch from it
does: the model refuses it, with an error response and a count in SYS_DECERR (DESIGN CHOICE, log 5). -/
def plainRead (s : State) (mid a n : Nat) (fetch : Bool) (bad : List BadLine) : State :=
  if regBase ≤ a ∧ a < regBase + 0x10000000 then (if fetch then refuse s mid else regRead32s s mid (a - regBase) n)
  else if romBase ≤ a ∧ a + n ≤ romBase + 0x40000 ∧ (midClass mid = 0 ∨ midClass mid = 4) then
    respond (drew s) { data := leWords ((n + 3) / 4) (drawn (8 * n) s) }
  else
    let s := if memExists s a n ∧ a < sramBase then decodeLines s mid a (bad.filter fun b => decide (a / 64 + b.line ≤ (a + n - 1) / 64)) else s
    onOpt (physRead s mid a n) (fun s => errorResp s) fun s bs =>
      respond s { data := respWords bs }

/-- A write by a master that no window confines. R23 gives a refused read an error response and says of a refused write that it changes
nothing: that the model answers it with an error response too is its choice (DESIGN CHOICE, log 5). -/
def plainWrite (s : State) (mid a : Nat) (bs : List Nat) : State :=
  if regBase ≤ a ∧ a < regBase + 0x10000000 then regWrites s mid (a - regBase) bs
  else onOk (physWrite s mid a bs) (fun s => errorResp s) fun s =>
      respond s {}

/-- The pavilion page of `p` holds `[a, a + n)` (R398). -/
def ownPage (p a n : Nat) : Bool :=
  let base := regBase + 0x4000000 + p * 0x1000
  decide (base ≤ a) && decide (a + n ≤ base + 0x1000)

/-- The check of a guest transaction (R16, R20, R398, R663): none where it passes. -/
def guestCheck (s : State) (mid a n : Nat) (perm : Perm) : Option State :=
  let p := midIndex mid
  if 1024 ≤ p then some (errorResp s)
  else if fenced s p then some (errorResp (refuseFor s p mid a .fence))
  else if (perm != .fetch && ownPage p a n) || inWindow s p a n perm then none
  else some (errorResp (refuseFor s p mid a .window))

/-- What an operation asks of a window. -/
def opPerm : MeshOp → Perm
  | .read _ => .read
  | .fetch _ => .fetch
  | .write _ => .write

/-- The length of an operation in bytes. -/
def opLen : MeshOp → Nat
  | .read n | .fetch n => n
  | .write bs => bs.length

/-- A transaction on the mesh: the window first, then the decode, then the target (R20, R23, R26). -/
def meshAccess (s : State) (mid a : Nat) (op : MeshOp) (bad : List BadLine) : State :=
  match (if midClass mid = 2 then guestCheck s mid a (opLen op) (opPerm op) else none) with
  | some s' => s'
  | none => match op with
    | .read n => plainRead s mid a n false bad
    | .fetch n => plainRead s mid a n true bad
    | .write bs => plainWrite s mid a (octets bs)

/-! ### The operations that the commands share -/

/-- What a command answers. -/
abbrev Out := Host.Outcome State Fault Refusal

/-- A command that acts in RD_SYS does nothing while RD_SYS is in reset (R98; log 71). -/
def act (s : State) (f : State → State) : Out := .next (if s.cru.inReset then s else f s)

/-- A register write on the mesh by a master, its window checked first. -/
def meshWrite (s : State) (mid a v : Nat) : State := meshAccess s mid (regBase + a) (.write ((leBytes 4 v).map (BitVec.ofNat 8))) []

/-- A register read on the mesh by a master. -/
def meshRead (s : State) (mid a : Nat) : State := meshAccess s mid (regBase + a) (.read 4) []

/-- _CMD of a mailbox: ARG, OP, WRITE and GO (R53). -/
def cmdWord (op : Nat) (wr : Bool) (arg : Nat) : Nat := arg % 2 ^ 16 * 2 ^ 16 + op * 2 ^ 8 + bitAt wr 1 + 1

/-- The data words of a mailbox are written, from _D0 (R55). -/
def mbxData (s : State) (mid a : Nat) (d : List Word) : State :=
  ((d.take 12).zip (List.range 12)).foldl (fun s e => meshWrite s mid (a + 0x10 + 4 * e.2) e.1.toNat) s

/-- A request of the mailbox at `a`: the data words, then _CMD with GO (R53–R56). -/
def mbxRequest (s : State) (mid a op : Nat) (wr : Bool) (arg : Nat) (d : List Word) : State :=
  meshWrite (mbxData s mid a d) mid a (cmdWord op wr arg)

end Sys2Proof.Machine
end

