-- ==== Sys2Proof/Machine/BandstandCommands.lean ====
section
/-! DEFINITION. The commands of the Bandstand (R330–R353). -/

namespace Sys2Proof.Machine

/-- The master identity of the producer of a type (R15, R332): that of the poster for SOFT events. -/
def srcOf' (type poster : Nat) : Nat :=
  match type with
  | 1 | 2 | 3 => sviMid | 4 => ltnMid | 5 => gooseMid | 6 => 0x300B | 7 => 0x300D | 8 => blvMid
  | _ => poster

/-- The event of an operand (R331). -/
def rawEv (e : PostedEvent) : Ev :=
  { type := e.type.toNat, queue := e.queue.toNat, flow := e.flow.toNat, src := e.src.toNat, ns := e.ns.toNat, w5 := e.w5.toNat,
    w6 := e.w6.toNat, w7 := e.w7.toNat }

/-- The event that a producer hands over; the Bandstand writes SRC, and the event time of a SOFT event (R332). -/
def evOf (s : State) (e : PostedEvent) : Ev :=
  let v := rawEv e
  { v with src := srcOf' v.type v.src, ns := if v.type = 0x10 then nowNs s else v.ns }

/-- A SOFT event posted by software: a pavilion that is not the queue's OWNER is refused while PUB = 0 (R335, R406). -/
def postSoft (s : State) (v : Ev) : State :=
  let pav := if midClass v.src = 2 then some (midIndex v.src % 1024) else none
  if !qOpen s v.queue || pav.any fun p => notOwner s v.queue p then cinc s Fld.BND_NOQ_COUNT
  else (softPost s pav v).1

/-- A producer posts (R335, R437, R660): the hardware's producers hold what is refused (R173, R288, R338), and while SV ingest or the
subscriber holds a frame it has no other to post for; SOFT events are software's to post again. -/
def postEvent (s : State) (e : PostedEvent) : State :=
  let v := evOf s e
  match v.type with
  | 0x01 => if s.svi.hold.isSome then s else frameEvent s v
  | 0x02 => postCounted s .state (v.flow % 2048) v Fld.SVI_EVHOLD_COUNT
  | 0x03 => postCounted s .release (v.flow % 256) v Fld.SVI_EVHOLD_COUNT
  | 0x04 => postCounted s .meas (v.flow % 256) v Fld.LTN_EVHOLD_COUNT
  | 0x05 => if bit v.w5 12 then expiryPost s (v.flow % 4096) v else if s.mac.goose.hold.isSome then s else goosePost s v [] false none
  | 0x06 => batchOrHold s .din (v.flow % 32) v
  | 0x07 => alarmPost s (v.flow % 256) v
  | 0x08 => batchOrHold s .capture (v.flow % 16) v
  | 0x10 => postSoft s v
  | _ => (bndPost s v).1

/-- A producer offers what it holds (R338). -/
def retryEvent (s : State) : HeldBy → State
  | .state k => retryHeld s .state k.val
  | .release g => retryHeld s .release g.val
  | .meas g => retryHeld s .meas g.val
  | .din p => batchRetry s .din p.val
  | .alarm => retryAlarm s
  | .capture g => batchRetry s .capture g.val
  | .frame => frameRetry s
  | .goose => gooseRetry s
  | .expiry n => expiryRetry s n.val

/-! ### The commands -/

/-- EVENT_POST (R335, R437, R660). -/
def execEventPost (e : PostedEvent) (s : State) : Out := act s fun s => postEvent s e

/-- HELD_EVENT_RETRY (R338). -/
def execHeldEventRetry (h : HeldBy) (s : State) : Out := act s fun s => retryEvent s h

/-- BND_POST (R335, R350). -/
def execBndPost (mid : Mid) (q : BitVec 13) (d : List Word) (s : State) : Out :=
  act s fun s => mbxRequest s mid.toNat 0x800080 0x01 true q.toNat d

/-- SLOT_FILL (R341). -/
def execSlotFill (k : Fin 48) (s : State) : Out := act s fun s => slotFill s k.val

/-- BND_TAKE (R343). -/
def execBndTake (mid : Mid) (k : Fin 48) (s : State) : Out := act s fun s => meshRead s mid.toNat (0x880040 + 0x1000 * k.val)

/-- TAKE_TIMEOUT (R343). -/
def execTakeTimeout (k : Fin 48) (s : State) : Out := act s fun s => takeTimeout s k.val

/-- BND_DONE (R344). -/
def execBndDone (mid : Mid) (k : Fin 48) (s : State) : Out := act s fun s => meshWrite s mid.toNat (0x880044 + 0x1000 * k.val) 1

/-- PAV_POST (R335, R406). -/
def execPavPost (mid : Mid) (p : Fin 1024) (q : BitVec 13) (d : List Word) (s : State) : Out :=
  act s fun s => mbxRequest s mid.toNat (0x40000C0 + 0x1000 * p.val) 0x01 true q.toNat d

end Sys2Proof.Machine
end

