-- ==== Sys2Proof/Machine/BelvedereCommands.lean ====
section
/-! DEFINITION. The commands of the Belvedere (R507–R534). -/

namespace Sys2Proof.Machine

/-- TRIGGER_TIMEOUT (R510, R511). -/
def execTriggerTimeout (u : Fin 64) (s : State) : Out := act s fun s => unitTimeout s u.val

/-- MIRROR_FRAME_RECORD (R507, R528). -/
def execMirrorFrameRecord (s : State) : Out := act s blvMirror

/-- CAPTURE_CLOSE (R515, R526, R527). -/
def execCaptureClose (g : Fin 16) (s : State) : Out := act s fun s => captureClose s g.val

/-- BLV_CG_TRIG: BLV_CGg_CMD.TRIG = 1 is written (R514). -/
def execBlvCgTrig (mid : Mid) (g : Fin 16) (s : State) : Out := act s fun s => meshWrite s mid.toNat (0xC02060 + 0x40 * g.val) (2 ^ 31)

/-- BLV_CG_REL: BLV_CGg_CMD.REL is written (R517). -/
def execBlvCgRel (mid : Mid) (g : Fin 16) (slots : BitVec 16) (s : State) : Out :=
  act s fun s => meshWrite s mid.toNat (0xC02060 + 0x40 * g.val) slots.toNat

/-- MASK_TABLE_LOAD (R521). -/
def execMaskTableLoad (m : Fin 64) (s : State) : Out := act s fun s => maskLoad s m.val

/-- RATE_HALVING_STEP (R522). -/
def execRateHalvingStep (s : State) : Out := act s halvingStep

/-- RATE_RESTORE_STEP (R523). -/
def execRateRestoreStep (s : State) : Out := act s restoreStep

/-- BLV_SRC_WRITE (R507, R531). -/
def execBlvSrcWrite (mid : Mid) (e : Fin 1024) (d : List Word) (s : State) : Out :=
  act s fun s => mbxRequest s mid.toNat 0xC00080 0x01 true e.val d

/-- BLV_SRC_READ (R531). -/
def execBlvSrcRead (mid : Mid) (e : Fin 1024) (s : State) : Out := act s fun s => mbxRequest s mid.toNat 0xC00080 0x02 false e.val []

/-- BLV_SRC_DISABLE (R531). -/
def execBlvSrcDisable (mid : Mid) (e : Fin 1024) (s : State) : Out := act s fun s => mbxRequest s mid.toNat 0xC00080 0x03 true e.val []

end Sys2Proof.Machine
end

