-- ==== Sys2Proof/Machine/BoardCommands.lean ====
section
/-! DEFINITION. The commands of the Grotto, boot, the digital pins and the test access port (R620–R655). -/

namespace Sys2Proof.Machine

/-- A debounced run is accepted, and the Belvedere sees the edge (R507, R645; log 50). -/
def acceptReport (s : State) (p : Nat) : State :=
  let t := timePast s.sdl (tat s.dbg.dinRun p {}).first / nsUnit
  let quiet := bit s.dbg.dinQuiet p
  let s' := dinAccept s p
  let lvl := bit s'.dbg.dinLvl p
  if quiet || !enabled s 0x1102000 || lvl == bit s.dbg.dinLvl p then s' else blvDinEdge s' p lvl t

/-- Every pin is sampled; the runs that have ended are accepted first (R645). -/
def sampleAll (s : State) (v : Nat) : State :=
  if s.sdl.raw % 1000 = 0 then dinSample ((List.range 32).foldl acceptReport s) v else s

/-- A DBG_BFL request; `ok` tells what the flash reports (R654). -/
def flashRequest (s : State) (ok : Bool) (mid op : Nat) (wr : Bool) (d : List Word) : State :=
  if midClass mid = 2 then meshWrite (mbxData s mid 0x1101080 d) mid 0x1101080 (cmdWord op wr 0)
  else respond (busWrite (mbxData s mid 0x1101080 d) ok mid 0x1101080 (cmdWord op wr 0)) {}

/-- An instruction of IEEE 1149.6 comes into force (R649, R651). -/
def acSet (s : State) (i : TapInstr) (kind pins shift : Nat) : State := tapSet s i fun t => { tapScan pins shift t with acTest := kind }

/-- A mesh access from the test access port, as master 0x6001 while the debug port is unlocked (R583, R649). -/
def dbgAccess (s : State) (a : Nat) (op : MeshOp) (bad : List BadLine) : State :=
  if !tapUp s then s
  else
    let s := tapSet s .dbgacc id
    if s.cru.inReset then s else meshAccess s (if s.gth.unlocked then 0x6001 else 0x6000) a op bad

/-! ### The commands -/

/-- CALENDAR_SECOND (R633). -/
def execCalendarSecond (s : State) : Out := .next (calendarSecond s)

/-- OPSEC_INCREMENT (R634). -/
def execOpsecIncrement (s : State) : Out := .next (opsecStep s)

/-- TAMPER_DETECT: a crystal edge samples TAMPER_N (R584, R635). -/
def execTamperDetect (low : Bool) (s : State) : Out := .next (tamperEdge s low)

/-- GRT_TIME_NOW (R638). -/
def execGrtTimeNow (mid : Mid) (s : State) : Out := act s fun s => mbxRequest s mid.toNat 0x1000080 0x01 false 0 []

/-- GRT_SCRREAD (R637). -/
def execGrtScrread (mid : Mid) (arg : BitVec 16) (s : State) : Out :=
  act s fun s => mbxRequest s mid.toNat 0x1000080 0x02 false arg.toNat []

/-- GRT_SETCAL (R633). -/
def execGrtSetcal (mid : Mid) (d : List Word) (s : State) : Out := act s fun s => mbxRequest s mid.toNat 0x10000C0 0x01 true 0 d

/-- GRT_TAMPCLR (R635). -/
def execGrtTampclr (mid : Mid) (s : State) : Out := act s fun s => mbxRequest s mid.toNat 0x10000C0 0x02 true 0 []

/-- GRT_SCRWRITE (R638). -/
def execGrtScrwrite (mid : Mid) (arg : BitVec 16) (d : List Word) (s : State) : Out :=
  act s fun s => mbxRequest s mid.toNat 0x10000C0 0x03 true arg.toNat d

/-- GRT_RSTCLR (R636). -/
def execGrtRstclr (mid : Mid) (s : State) : Out := act s fun s => mbxRequest s mid.toNat 0x10000C0 0x04 true 0 []

/-- DIN_LEVEL_ACCEPT (R507, R645). -/
def execDinLevelAccept (pin : Fin 32) (s : State) : Out := act s fun s => acceptReport s pin.val

/-- DIN_SAMPLE (R645). -/
def execDinSample (levels : Word) (s : State) : Out := act s fun s => sampleAll s levels.toNat

/-- BOOT_IMAGE_SELECT (R581, R630). -/
def execBootImageSelect (err0 : Bool) (err1 : Bool) (s : State) : Out := act s fun s => bootSelect s err0 err1

/-- DBG_BOOT_GO: DBG_BOOT_GO0 or GO1 is written (R631). -/
def execDbgBootGo (mid : Mid) (second : Bool) (pairs : Word) (s : State) : Out :=
  act s fun s => meshWrite s mid.toNat (if second then 0x110004C else 0x1100048) pairs.toNat

/-- DBG_BFL_READ (R654). -/
def execDbgBflRead (mid : Mid) (ok : Bool) (s : State) : Out := act s fun s => flashRequest s ok mid.toNat 0x01 false []

/-- DBG_BFL_PROGRAM (R654). -/
def execDbgBflProgram (mid : Mid) (d : List Word) (ok : Bool) (s : State) : Out := act s fun s => flashRequest s ok mid.toNat 0x02 true d

/-- DBG_BFL_ERASE (R654). -/
def execDbgBflErase (mid : Mid) (ok : Bool) (s : State) : Out := act s fun s => flashRequest s ok mid.toNat 0x03 true []

/-- DBG_DOUT (R644, R655). -/
def execDbgDout (mid : Mid) (levels : Word) (mask : Word) (s : State) : Out :=
  act s fun s => mbxRequest s mid.toNat 0x1102100 0x01 true 0 [levels, mask]

/-- TAP_EXTEST (R649, R651). -/
def execTapExtest (pins : BitVec 1874) (shift : BitVec 1874) (s : State) : Out :=
  .next (tapSet s .extest (tapScan pins.toNat shift.toNat))

/-- TAP_SAMPLE_PRELOAD (R649, R651). -/
def execTapSamplePreload (pins : BitVec 1874) (shift : BitVec 1874) (s : State) : Out :=
  .next (tapSet s .samplePreload (tapScan pins.toNat shift.toNat))

/-- TAP_IDCODE: the identification register is read (R648, R649). -/
def execTapIdcode (s : State) : Out := .next (if tapUp s then respond (tapSet s .idcode id) { data := [0xB1280CB5] } else s)

/-- TAP_CLAMP (R649, R651). -/
def execTapClamp (s : State) : Out := .next (tapSet s .clamp id)

/-- TAP_HIGHZ (R649, R651). -/
def execTapHighz (s : State) : Out := .next (tapSet s .highz id)

/-- TAP_EXTEST_PULSE (R649, R651). -/
def execTapExtestPulse (pins : BitVec 1874) (shift : BitVec 1874) (s : State) : Out :=
  .next (acSet s .extestPulse 1 pins.toNat shift.toNat)

/-- TAP_EXTEST_TRAIN (R649, R651). -/
def execTapExtestTrain (pins : BitVec 1874) (shift : BitVec 1874) (s : State) : Out :=
  .next (acSet s .extestTrain 2 pins.toNat shift.toNat)

/-- TAP_DBGACC (R583, R649). -/
def execTapDbgacc (addr : BitVec 48) (op : MeshOp) (bad : List BadLine) (s : State) : Out := .next (dbgAccess s addr.toNat op bad)

/-- TAP_BYPASS (R649). -/
def execTapBypass (s : State) : Out := .next (tapSet s .bypass id)

/-- TAP_PRIVATE (R560, R650). -/
def execTapPrivate (s : State) : Out := if tapUp s && privOpen s then .fault .privateTestInstruction else .next (tapSet s .bypass id)

/-- DRAM_TRAINING_COMPLETE (R626). -/
def execDramTrainingComplete (gib : BitVec 9) (s : State) : Out := act s fun s => { s with integ := { s.integ with gib := gib.toNat } }

end Sys2Proof.Machine
end

