-- ==== Sys2Proof/Machine/ClockCommands.lean ====
section
/-! DEFINITION. The commands of clocks, resets, supplies and crossings (R80–R113, R620–R639, R659). -/

namespace Sys2Proof.Machine

/-- Bit of a monitor in CRU_CLKMON_STAT (R106, R111). -/
def monIndex : ClkMon → Nat
  | .sysclk => 0 | .refclk => 1 | .fabC => 2 | .fabN => 3 | .fabI => 4 | .cpu => 5 | .sdl => 6 | .ddr => 7 | .xtal => 8
  | .port m => 16 + m.val

/-- Bit of a PLL in CRU_PLL_STAT (R111). -/
def pllIndex : Pll → Nat
  | .fabC => 2 | .fabN => 3 | .fabI => 4 | .cpu => 5 | .sdl => 6 | .ddr => 7 | .lane m => 16 + m.val

/-- Place of a rail in R620's table (R624). -/
def railIndex : Rail → Nat
  | .cpu => 0 | .fab => 1 | .net => 2 | .sds => 3 | .sds12 => 4 | .ddq => 5 | .vpp => 6 | .io18 => 7 | .io33 => 8 | .orn => 9

/-- Number of a crossing group (R659). -/
def xgroupIndex : XGroup → Nat
  | .grt => 0 | .orn => 1 | .token => 2 | .port m => 16 + m.val

/-- The TOKEN channel, not GRTE (R92). -/
def isToken : EvChannel → Bool
  | .grte => false
  | .token => true

/-- CLKMON_WINDOW: a measurement window ends outside or within its limit (R107). -/
def execClkmonWindow (m : ClkMon) (out : Bool) (s : State) : Out := .next (monWindow s (monIndex m) out)

/-- CLOCK_STOP: a monitored clock shows no edge (R106). -/
def execClockStop (m : ClkMon) (s : State) : Out := .next (clockStop s (monIndex m))

/-- PLL_LOCK_LOSS (R109). -/
def execPllLockLoss (p : Pll) (s : State) : Out := .next (pllLoss s (pllIndex p))

/-- PLL_LOCKED: a PLL acquires or regains lock (R109, R111). -/
def execPllLocked (p : Pll) (s : State) : Out :=
  .next (match p with
    | .lane m => laneLock s m.val
    | p => pllLock s (pllIndex p))

/-- LANE_PLL_LOCK: a lane PLL locks after the reset of its port (R111, R659). -/
def execLanePllLock (m : Fin 16) (s : State) : Out := .next (laneLock s m.val)

/-- POWER_GOOD_RISE (R626). -/
def execPowerGoodRise (s : State) : Out := .next (powerRise s)

/-- POWER_GOOD_FALL (R99, R623). -/
def execPowerGoodFall (s : State) : Out := .next (powerFall s)

/-- PORST_N_LOW (R627). -/
def execPorstNLow (s : State) : Out := .next (porstLow s)

/-- PORST_N_RISE (R626). -/
def execPorstNRise (s : State) : Out := .next (porstRise s)

/-- RD_SYS_RELEASE: RD_SYS is released where nothing holds it and its millisecond has passed (R626). -/
def execRdSysRelease (s : State) : Out := .next (resetRelease s)

/-- CRU_SYSRST: CRU_RST_CMD is written with KEY and SYSRST = 1 (R112). -/
def execCruSysrst (mid : Mid) (key : BitVec 16) (s : State) : Out :=
  act s fun s => meshWrite s mid.toNat 0x100050 (key.toNat * 2 ^ 16 + 1)

/-- SYSTEM_RESET_START: a scheduled reset begins (R99, R112). -/
def execSystemResetStart (s : State) : Out := .next (resetStart s)

/-- SYSTEM_WATCHDOG_EXPIRE (R113). -/
def execSystemWatchdogExpire (s : State) : Out := .next (sysWdtExpire s)

/-- WATCHDOG_KICK: CRU_WDT_KICK.KICK = 1 is written (R113). -/
def execWatchdogKick (mid : Mid) (s : State) : Out := act s fun s => meshWrite s mid.toNat 0x100060 1

/-- CRU_PORT_RST is written (R112). -/
def execCruPortRst (mid : Mid) (ports : BitVec 16) (s : State) : Out :=
  act s fun s => meshWrite s mid.toNat 0x100054 ports.toNat

/-- LINK_UP (R180). -/
def execLinkUp (m : Fin 16) (s : State) : Out := act s fun s => linkUpEvent s m.val

/-- LINK_DOWN (R180). -/
def execLinkDown (m : Fin 16) (s : State) : Out := act s fun s => linkDownEvent s m.val

/-- DEBUG_RESET (R99). -/
def execDebugReset (s : State) : Out := .next (debugReset s)

/-- SUPPLY_TRIP: the monitor of a rail trips, the rail absent or out of range (R624, R625). -/
def execSupplyTrip (r : Rail) (absent : Bool) (s : State) : Out := .next (railTrip s (railIndex r) absent)

/-- SUPPLY_RESTORE: a rail returns within its range (R625). -/
def execSupplyRestore (r : Rail) (s : State) : Out := .next (railRestore s (railIndex r))

/-- VBAT_LOW: VBAT falls below or returns above its level (R625, R638). -/
def execVbatLow (low : Bool) (s : State) : Out := .next (vbatLevel s low)

/-- ORN_RST_N_LOW (R99). -/
def execOrnRstNLow (s : State) : Out := .next (ornPinReset s)

/-- ORANGERY_WATCHDOG_EXPIRE (R99, R496). -/
def execOrangeryWatchdogExpire (s : State) : Out := .next (ornReset s 3)

/-- GROTTO_RESET (R636). -/
def execGrottoReset (s : State) : Out := .next (grottoReset s)

/-- TAP_RESET (R99, R648). -/
def execTapReset (s : State) : Out := .next (tapReset s)

/-- CROSSING_GROUP_READY (R102, R659). -/
def execCrossingGroupReady (g : XGroup) (s : State) : Out := act s fun s => groupReady s (xgroupIndex g)

/-- EVENT_CHANNEL_REQUEST (R93). -/
def execEventChannelRequest (c : EvChannel) (s : State) : Out := act s fun s => chanRequest s (isToken c)

/-- EVENT_CHANNEL_DELIVER (R93, R94). -/
def execEventChannelDeliver (c : EvChannel) (s : State) : Out := act s fun s => chanDeliver s (isToken c)

/-- EVENT_CHANNEL_ACK_COMPLETE (R93). -/
def execEventChannelAckComplete (c : EvChannel) (s : State) : Out := act s fun s => chanAck s (isToken c)

/-- DOUT_CHANNEL_COMMAND (R95). -/
def execDoutChannelCommand (levels : Word) (mask : Word) (s : State) : Out := act s fun s => doutCommand s levels.toNat mask.toNat

/-- DOUT_LATCH_APPLY (R95, R170, R644). -/
def execDoutLatchApply (s : State) : Out := act s doutApply

/-- SHADOW_REFRESH: the shadow at word `off` is refreshed (R52, R91). -/
def execShadowRefresh (off : BitVec 26) (s : State) : Out := act s fun s => shadowRefresh s (4 * off.toNat)

end Sys2Proof.Machine
end

