-- ==== Sys2Proof/Machine/CycleCommands.lean ====
section
/-! DEFINITION. The commands of the cores and the cycle sequencer (R354–R395). -/

namespace Sys2Proof.Machine

/-- LOCKSTEP_MISMATCH (R355). -/
def execLockstepMismatch (u : LockUnit) (s : State) : Out := act s fun s => lockstepMismatch s u

/-- CYC_PAIR_RESET: CYC_PRk_CTRL.RST = 1 is written (R358). -/
def execCycPairReset (mid : Mid) (k : Fin 48) (s : State) : Out := act s fun s => meshWrite s mid.toNat (0x980050 + 0x1000 * k.val) 1

/-- CYC_NEXT (R368). -/
def execCycNext (mid : Mid) (k : Fin 48) (s : State) : Out := act s fun s => meshRead s mid.toNat (0x980040 + 0x1000 * k.val)

/-- CYC_DONE (R369). -/
def execCycDone (mid : Mid) (k : Fin 48) (c : Fin 16) (p : Fin 1024) (s : State) : Out :=
  act s fun s => meshWrite s mid.toNat (0x980048 + 0x1000 * k.val) (c.val * 2 ^ 16 + p.val)

/-- CHECKPOINT_COMPLETE (R383). -/
def execCheckpointComplete (s : State) : Out := act s ckptComplete

/-- CYC_PVCMD_EXCHANGE (R385, R392). -/
def execCycPvcmdExchange (mid : Mid) (p : Fin 1024) (d : List Word) (s : State) : Out :=
  act s fun s => mbxRequest s mid.toNat pvcmdMbx 0x01 true p.val d

/-- CYC_PVCMD_RESTART (R382, R392). -/
def execCycPvcmdRestart (mid : Mid) (p : Fin 1024) (d : List Word) (s : State) : Out :=
  act s fun s => mbxRequest s mid.toNat pvcmdMbx 0x02 true p.val d

/-- CYC_FORCE_SET (R388, R392). -/
def execCycForceSet (mid : Mid) (p : Fin 1024) (d : List Word) (s : State) : Out :=
  act s fun s => mbxRequest s mid.toNat forceMbx 0x01 true p.val d

/-- CYC_FORCE_CLEAR (R388, R392). -/
def execCycForceClear (mid : Mid) (p : Fin 1024) (d : List Word) (s : State) : Out :=
  act s fun s => mbxRequest s mid.toNat forceMbx 0x02 true p.val d

/-- CYC_FORCE_READ (R388, R392). -/
def execCycForceRead (mid : Mid) (p : Fin 1024) (d : List Word) (s : State) : Out :=
  act s fun s => mbxRequest s mid.toNat forceMbx 0x03 false p.val d

end Sys2Proof.Machine
end

