-- ==== Sys2Proof/Machine/PortCommands.lean ====
section
/-! DEFINITION. The commands of the ports, the GOOSE publisher and the GOOSE subscriber (R179–R229). -/

namespace Sys2Proof.Machine

/-- The port takes frames that arrive whole with a good FCS, other than the Footbridge's (R180, R426). -/
def takesFrame (s : State) (m : Nat) (bs : List Nat) (fcsOk : Bool) : Bool :=
  portUp s m && (portOf s m).link && fcsOk && m != 15 && fbit s (Fld.MAC_MODE_RXEN m) && decide (60 ≤ bs.length) &&
  decide (bs.length + 4 ≤ fget s (Fld.MAC_MAXLEN_LEN m)) && !(pairOp s && (m == 12 || m == 13))

/-- A frame is received; one that is the partner's heartbeat GOOSE is taken as such (R430). -/
def receiveFrame (s : State) (m : Nat) (bs : List Nat) (fcsOk : Bool) (age : Nat) : State :=
  let s' := frameReceive s m bs fcsOk age
  if takesFrame s m bs fcsOk then ghbReceive s' bs else s'

/-! ### The commands -/

/-- FRAME_RECEIVE: a whole frame, without its FCS, on a port (R135, R180–R201). -/
def execFrameReceive (m : Fin 16) (bytes : List Byte) (fcsOk : Bool) (age : BitVec 20) (s : State) : Out :=
  act s fun s => receiveFrame s m.val (octets bytes) fcsOk age.toNat

/-- PAUSE_EXPIRE (R190). -/
def execPauseExpire (m : Fin 16) (s : State) : Out := act s fun s => pauseExpire s m.val

/-- DUP_ENTRY_FORGET: the entry of a source on the pair of a port (R200). -/
def execDupEntryForget (m : Fin 16) (src : BitVec 48) (s : State) : Out := act s fun s => dupForget s (m.val / 2 * 2) src.toNat

/-- FRAME_TRANSMIT (R182–R193). -/
def execFrameTransmit (m : Fin 16) (s : State) : Out := act s fun s => frameTransmit s m.val

/-- GATE_CHANGE (R195). -/
def execGateChange (m : Fin 16) (s : State) : Out := act s fun s => gateChange s m.val

/-- MAC_GCL_SW (R196, R227). -/
def execMacGclSw (mid : Mid) (m : Fin 16) (d : List Word) (s : State) : Out :=
  act s fun s => mbxRequest s mid.toNat (gclMbx m.val) 0x01 true 0 d

/-- GCL_SWITCH (R196). -/
def execGclSwitch (m : Fin 16) (s : State) : Out := act s fun s => gclSwitch s m.val

/-- MAC_EXACT_WRITE (R225). -/
def execMacExactWrite (mid : Mid) (m : Fin 16) (entry : Fin 64) (d : List Word) (s : State) : Out :=
  act s fun s => mbxRequest s mid.toNat (macPage m.val 0 + 0x80) 0x01 true entry.val d

/-- MAC_EXACT_READ (R225). -/
def execMacExactRead (mid : Mid) (m : Fin 16) (entry : Fin 64) (s : State) : Out :=
  act s fun s => mbxRequest s mid.toNat (macPage m.val 0 + 0x80) 0x02 false entry.val []

/-- GPB_START (R208, R229). -/
def execGpbStart (mid : Mid) (k : Fin 4096) (s : State) : Out := act s fun s => mbxRequest s mid.toNat 0x420080 0x01 true k.val []

/-- GPB_STOP (R208, R229). -/
def execGpbStop (mid : Mid) (k : Fin 4096) (s : State) : Out := act s fun s => mbxRequest s mid.toNat 0x420080 0x02 true k.val []

/-- GPB_PUBLISH (R209, R229). -/
def execGpbPublish (mid : Mid) (k : Fin 4096) (s : State) : Out := act s fun s => mbxRequest s mid.toNat 0x420080 0x03 true k.val []

/-- GPB_READ (R229). -/
def execGpbRead (mid : Mid) (k : Fin 4096) (s : State) : Out := act s fun s => mbxRequest s mid.toNat 0x420080 0x04 false k.val []

/-- GOOSE_RETRANSMIT (R206, R207). -/
def execGooseRetransmit (k : Fin 4096) (s : State) : Out := act s fun s => gooseRetransmit s k.val

/-- GOOSE_SUB_FRAME (R214–R219). -/
def execGooseSubFrame (s : State) : Out := act s gooseSubFrame

/-- GOOSE_EXPIRE (R217, R219). -/
def execGooseExpire (n : Fin 4096) (s : State) : Out := act s fun s => gooseExpire s n.val

/-- GSB_SUB_WRITE (R215, R223). -/
def execGsbSubWrite (mid : Mid) (n : Fin 4096) (d : List Word) (s : State) : Out :=
  act s fun s => mbxRequest s mid.toNat 0x421080 0x01 true n.val d

/-- GSB_SUB_READ (R223). -/
def execGsbSubRead (mid : Mid) (n : Fin 4096) (s : State) : Out := act s fun s => mbxRequest s mid.toNat 0x421080 0x02 false n.val []

/-- GSB_SUB_DISABLE (R223). -/
def execGsbSubDisable (mid : Mid) (n : Fin 4096) (s : State) : Out := act s fun s => mbxRequest s mid.toNat 0x421080 0x03 true n.val []

/-- GSB_STATE_READ (R223). -/
def execGsbStateRead (mid : Mid) (n : Fin 4096) (s : State) : Out := act s fun s => mbxRequest s mid.toNat 0x4210C0 0x01 false n.val []

end Sys2Proof.Machine
end

