-- ==== Sys2Proof/Machine/FootbridgeCommands.lean ====
section
/-! DEFINITION. The commands of the Footbridge (R426–R465). -/

namespace Sys2Proof.Machine

/-- A message is received: its effect, and what a donor of join data sees in its header (R428, R460). -/
def seen (s : State) (type : Nat) (h : FtbHead) (f : State → MsgHead → State) : State := donorFollow (f s (headOf' type h)) (headOf' type h)

/-- A CONTROL message; a token request or answer also sends a TOKEN pulse (log 55). -/
def control (s : State) (h : FtbHead) (c : FtbCtl) : State :=
  let m := headOf' 1 h
  let k : Control := { epoch := c.epoch.toNat, req := c.req.val, confirm := c.confirm, health := c.health.toNat, k := c.k.toNat, cfg := c.cfg.toNat }
  let s' := donorFollow (controlReceive s m k) m
  if pairOp s && c.req.val ≠ 0 then chanPulse s' true else s'

/-- A record of a SAMPLE message (R428). -/
def mirrorRec (r : FtbSampleRec) : MirrorRec :=
  ⟨r.stream.val, r.cnt.toNat, r.ns.toNat, r.vals.map fun (v : Word × Word) => (v.1.toInt, v.2.toNat)⟩

/-- A GOOSE event with an entry is a new state, where the subscription here is not LIVE at its stNum (R217, R221; log 44). -/
def newState (s : State) (v : Ev) (entry : List Nat) : Bool :=
  v.type == 5 && !entry.isEmpty && (match subOf s (v.w5 % 4096) with
    | some x => !(x.st == .live && x.stNum == v.w6)
    | none => false)

/-- An EVENT message joins its batch, or comes too late (R437); a GOOSE copy with an entry is a new state where R217 sees one in it. -/
def eventReceive (s : State) (m : MsgHead) (e : PostedEvent) (key : Nat) (entry : List Nat) : State :=
  onOk (msgTake s m) (fun s => s) fun s =>
    let v := rawEv e
    let n := tickOfNs s v.ns
    if cutOf s n ≤ timeNow s then cinc s Fld.FTB_EVLOST_COUNT
    else batchInsert s { ev := v, key := key, side := 1 - ownSide s, tick := n, entry := entry, fresh := newState s v (entry) }

/-! ### The commands -/

/-- FTB_CONTROL (R428, R432, R449–R451, R460). -/
def execFtbControl (h : FtbHead) (c : FtbCtl) (s : State) : Out := act s fun s => control s h c

/-- FTB_DIGEST (R428, R442). -/
def execFtbDigest (h : FtbHead) (n : BitVec 64) (out : BitVec 128) (inp : BitVec 128) (s : State) : Out :=
  act s fun s => seen s 2 h fun s m => digestReceive s m n.toNat out.toNat inp.toNat

/-- FTB_SAMPLE (R428, R433). -/
def execFtbSample (h : FtbHead) (recs : List FtbSampleRec) (s : State) : Out :=
  act s fun s => seen s 3 h fun s m => sampleReceive s m (recs.map mirrorRec)

/-- FTB_EVENT (R221, R437). -/
def execFtbEvent (h : FtbHead) (e : PostedEvent) (key : BitVec 64) (entry : List Byte) (s : State) : Out :=
  act s fun s => seen s 4 h fun s m => eventReceive s m e key.toNat (octets entry)

/-- FTB_JOIN_DATA (R460, R461). -/
def execFtbJoinData (h : FtbHead) (d : JoinData) (s : State) : Out := act s fun s => donorFollow (joinData s h d) (headOf' 5 h)

/-- CONTROL_KEEPALIVE (R428). -/
def execControlKeepalive (s : State) : Out := act s keepAlive

/-- SAMPLE_BATCH_SEND (R428). -/
def execSampleBatchSend (s : State) : Out := act s sampleSend

/-- PAIR_HB_TOGGLE (R429). -/
def execPairHbToggle (s : State) : Out := act s hbToggle

/-- PAIR_HB_IN_EDGE (R429). -/
def execPairHbInEdge (s : State) : Out := act s hbEdge

/-- HEARTBEAT_LOSS (R429). -/
def execHeartbeatLoss (s : State) : Out := act s hbLoss

/-- FOOTBRIDGE_LOSS (R429). -/
def execFootbridgeLoss (s : State) : Out := act s fbLoss

/-- HEARTBEAT_GOOSE_SEND (R430). -/
def execHeartbeatGooseSend (s : State) : Out := act s ghbTick

/-- PARTNER_HEARTBEAT_GOOSE: the frame that carries it, on the port it came on (R430). -/
def execPartnerHeartbeatGoose (m : Fin 16) (bytes : List Byte) (fcsOk : Bool) (age : BitVec 20) (s : State) : Out :=
  act s fun s => receiveFrame s m.val (octets bytes) fcsOk age.toNat

/-- HEARTBEAT_GOOSE_LOSS (R431). -/
def execHeartbeatGooseLoss (s : State) : Out := act s ghbLoss

/-- DIGEST_MISSING (R442). -/
def execDigestMissing (s : State) : Out := act s digestMissing

/-- DIAGNOSIS_END (R443). -/
def execDiagnosisEnd (s : State) : Out := act s diagEnd

/-- BATCH_CUT (R438). -/
def execBatchCut (s : State) : Out := act s batchCut

/-- FTB_TOKEN_HANDOVER (R450, R464). -/
def execFtbTokenHandover (mid : Mid) (d : List Word) (s : State) : Out := act s fun s => mbxRequest s mid.toNat ftbTokenMbx 0x01 true 0 d

/-- FTB_TOKEN_CLAIM (R450, R464). -/
def execFtbTokenClaim (mid : Mid) (d : List Word) (s : State) : Out := act s fun s => mbxRequest s mid.toNat ftbTokenMbx 0x02 true 0 d

/-- FREEZE_TIMEOUT (R445, R448). -/
def execFreezeTimeout (s : State) : Out := act s freezeTimeout

/-- REVERT (R455). -/
def execRevert (s : State) : Out := act s ftbRevert

/-- PAIR_LISTEN_END (R456). -/
def execPairListenEnd (s : State) : Out := act s listenEnd

/-- FTB_JOIN (R460, R464). -/
def execFtbJoin (mid : Mid) (s : State) : Out := act s fun s => mbxRequest s mid.toNat ftbJoinMbx 0x01 true 0 []

/-- JOIN_DATA_TIMEOUT (R461). -/
def execJoinDataTimeout (s : State) : Out := act s joinTimeout

/-- FTB_DIG_LAST (R464). -/
def execFtbDigLast (mid : Mid) (s : State) : Out := act s fun s => mbxRequest s mid.toNat 0xA00140 0x01 false 0 []

/-- FTB_DIG_LASTMIS (R464). -/
def execFtbDigLastmis (mid : Mid) (s : State) : Out := act s fun s => mbxRequest s mid.toNat 0xA00140 0x02 false 0 []

/-- FTB_DIG_LASTMIS_IN (R464). -/
def execFtbDigLastmisIn (mid : Mid) (s : State) : Out := act s fun s => mbxRequest s mid.toNat 0xA00140 0x03 false 0 []

end Sys2Proof.Machine
end

