-- ==== Sys2Proof/Machine/GatehouseCommands.lean ====
section
/-! DEFINITION. The commands of the Gatehouse (R557–R593). -/

namespace Sys2Proof.Machine

/-- ROOT_BIRTH_COMPLETE (R558, R559). -/
def execRootBirthComplete (s : State) : Out := act s rootBirth

/-- ENTROPY_HEALTH_FAIL (R559). -/
def execEntropyHealthFail (s : State) : Out := act s fun s => { s with gth := { s.gth with entErr := true } }

/-- ENTROPY_HEALTH_PASS (R559). -/
def execEntropyHealthPass (s : State) : Out := act s fun s => { s with gth := { s.gth with entErr := false } }

/-- GTH_KEY_WRITE (R566). -/
def execGthKeyWrite (mid : Mid) (arg : BitVec 16) (d : List Word) (s : State) : Out :=
  act s fun s => mbxRequest s mid.toNat gthKeyMbx 0x01 true arg.toNat d

/-- GTH_KEY_READ (R587). -/
def execGthKeyRead (mid : Mid) (arg : BitVec 16) (s : State) : Out :=
  act s fun s => mbxRequest s mid.toNat gthKeyMbx 0x02 false arg.toNat []

/-- GTH_KEY_REVOKE (R574, R575). -/
def execGthKeyRevoke (mid : Mid) (arg : BitVec 16) (s : State) : Out :=
  act s fun s => mbxRequest s mid.toNat gthKeyMbx 0x03 true arg.toNat []

/-- GTH_KEY_ERASE (R574). -/
def execGthKeyErase (mid : Mid) (arg : BitVec 16) (s : State) : Out :=
  act s fun s => mbxRequest s mid.toNat gthKeyMbx 0x04 true arg.toNat []

/-- GTH_KEY_LIFECYCLE (R561, R562). -/
def execGthKeyLifecycle (mid : Mid) (arg : BitVec 16) (d : List Word) (s : State) : Out :=
  act s fun s => mbxRequest s mid.toNat gthKeyMbx 0x05 true arg.toNat d

/-- GTH_KEY_METROLOAD (R580). -/
def execGthKeyMetroload (mid : Mid) (arg : BitVec 16) (s : State) : Out :=
  act s fun s => mbxRequest s mid.toNat gthKeyMbx 0x06 true arg.toNat []

/-- GTH_KEY_FUSEKEY (R582). -/
def execGthKeyFusekey (mid : Mid) (arg : BitVec 16) (d : List Word) (s : State) : Out :=
  act s fun s => mbxRequest s mid.toNat gthKeyMbx 0x07 true arg.toNat d

/-- GTH_KEY_FUSEREV (R582). -/
def execGthKeyFuserev (mid : Mid) (arg : BitVec 16) (d : List Word) (s : State) : Out :=
  act s fun s => mbxRequest s mid.toNat gthKeyMbx 0x08 true arg.toNat d

/-- GTH_KEY_BOOTVER (R582). -/
def execGthKeyBootver (mid : Mid) (arg : BitVec 16) (d : List Word) (s : State) : Out :=
  act s fun s => mbxRequest s mid.toNat gthKeyMbx 0x09 true arg.toNat d

/-- KEY_STORE_VALID (R566). -/
def execKeyStoreValid (s : State) : Out := act s keyStoreValid

/-- KEY_STORE_LOAD (R569). -/
def execKeyStoreLoad (s : State) : Out := act s keyStoreLoad

/-- GTH_REQ_GMAC (R579). -/
def execGthReqGmac (mid : Mid) (k : Fin 48) (arg : BitVec 16) (d : List Word) (s : State) : Out :=
  act s fun s => mbxRequest s mid.toNat (0xE10040 + 0x1000 * k.val) 0x01 true arg.toNat d

/-- GTH_REQ_GMACCHK (R579). -/
def execGthReqGmacchk (mid : Mid) (k : Fin 48) (arg : BitVec 16) (d : List Word) (s : State) : Out :=
  act s fun s => mbxRequest s mid.toNat (0xE10040 + 0x1000 * k.val) 0x02 true arg.toNat d

/-- GTH_REQ_HMAC (R579). -/
def execGthReqHmac (mid : Mid) (k : Fin 48) (arg : BitVec 16) (d : List Word) (s : State) : Out :=
  act s fun s => mbxRequest s mid.toNat (0xE10040 + 0x1000 * k.val) 0x03 true arg.toNat d

/-- GTH_REQ_VERIFY (R579). -/
def execGthReqVerify (mid : Mid) (k : Fin 48) (arg : BitVec 16) (d : List Word) (s : State) : Out :=
  act s fun s => mbxRequest s mid.toNat (0xE10040 + 0x1000 * k.val) 0x04 true arg.toNat d

/-- GTH_REQ_SEALTAG (R580). -/
def execGthReqSealtag (mid : Mid) (k : Fin 48) (arg : BitVec 16) (d : List Word) (s : State) : Out :=
  act s fun s => mbxRequest s mid.toNat (0xE10040 + 0x1000 * k.val) 0x05 true arg.toNat d

/-- GTH_DBG_CHALLENGE (R583). -/
def execGthDbgChallenge (mid : Mid) (s : State) : Out := act s fun s => mbxRequest s mid.toNat 0xE000C0 0x01 false 0 []

/-- GTH_DBG_UNLOCK (R583). -/
def execGthDbgUnlock (mid : Mid) (arg : BitVec 16) (d : List Word) (s : State) : Out :=
  act s fun s => mbxRequest s mid.toNat 0xE000C0 0x02 true arg.toNat d

end Sys2Proof.Machine
end

