-- ==== Sys2Proof/Machine/HerbariumCommands.lean ====
section
/-! DEFINITION. The commands of the Herbarium (R535–R556). -/

namespace Sys2Proof.Machine

/-- REPWIN ms after its last occurrence the last record is closed, and its REPEAT is programmed (R545). -/
def recordClose (s : State) : State :=
  if s.hrb.open_.isNone || decide (s.sdl.fab < s.hrb.openAt + fget s Fld.HRB_CTRL_REPWIN * 1000000) then s
  else hrbPump { s with hrb := closeOpen s.hrb }

/-- HRB_CTRL with FREEZE given, its other fields as they stand. -/
def ctrlWord (s : State) (freeze : Nat) : Nat := freeze * 2 ^ 31 + fget s Fld.HRB_CTRL_ERAHEAD * 2 ^ 16 + fget s Fld.HRB_CTRL_REPWIN

/-! ### The commands -/

/-- HERBARIUM_EVENT (R540–R547). -/
def execHerbariumEvent (type : BitVec 16) (src : BitVec 16) (args : List Word) (s : State) : Out :=
  act s fun s =>
    let t := type.toNat % 4096
    if neverMerged t then recordExcl s t src.toNat (args.map fun w => w.toNat) else record s t src.toNat (args.map fun w => w.toNat)

/-- RECORD_CLOSE_TIMEOUT (R545). -/
def execRecordCloseTimeout (s : State) : Out := act s recordClose

/-- FLASH_PROGRAM_DONE (R536, R551). -/
def execFlashProgramDone (ok : Bool) (s : State) : Out := act s fun s => flashFault (flashProgramDone s ok) (!ok && programCounts s)

/-- FLASH_ERASE_DONE (R553). -/
def execFlashEraseDone (ok : Bool) (s : State) : Out := act s fun s => flashFault (flashEraseDone s ok) (!ok && eraseRuns s)

/-- HRB_FREEZE: HRB_CTRL is written with FREEZE = 1, its other fields as they stand (R548). -/
def execHrbFreeze (mid : Mid) (s : State) : Out := act s fun s => meshWrite s mid.toNat 0xD00040 (ctrlWord s 1)

/-- HRB_UNFREEZE: HRB_CTRL is written with FREEZE = 0, its other fields as they stand (R549). -/
def execHrbUnfreeze (mid : Mid) (s : State) : Out := act s fun s => meshWrite s mid.toNat 0xD00040 (ctrlWord s 0)

/-- HERBARIUM_SCAN (R552). -/
def execHerbariumScan (s : State) : Out := act s fun s => if s.hrb.scanning then hrbScan s else s

/-- HRB_READ (R555). -/
def execHrbRead (mid : Mid) (part : Fin 8) (s : State) : Out := act s fun s => mbxRequest s mid.toNat 0xD00080 0x01 false part.val []

/-- HRB_SNAP_SET (R555). -/
def execHrbSnapSet (mid : Mid) (arg : BitVec 16) (d : List Word) (s : State) : Out :=
  act s fun s => mbxRequest s mid.toNat 0xD000C0 0x01 true arg.toNat d

/-- HRB_SNAP_SETHI (R555). -/
def execHrbSnapSethi (mid : Mid) (arg : BitVec 16) (d : List Word) (s : State) : Out :=
  act s fun s => mbxRequest s mid.toNat 0xD000C0 0x02 true arg.toNat d

/-- HRB_SNAP_SETLAST (R555). -/
def execHrbSnapSetlast (mid : Mid) (arg : BitVec 16) (d : List Word) (s : State) : Out :=
  act s fun s => mbxRequest s mid.toNat 0xD000C0 0x03 true arg.toNat d

/-- HRB_SNAP_READ (R555). -/
def execHrbSnapRead (mid : Mid) (arg : BitVec 16) (s : State) : Out :=
  act s fun s => mbxRequest s mid.toNat 0xD000C0 0x04 false arg.toNat []

/-- HRB_LOG (R555). -/
def execHrbLog (mid : Mid) (arg : BitVec 16) (d : List Word) (s : State) : Out :=
  act s fun s => mbxRequest s mid.toNat 0xD00100 0x01 true arg.toNat d

end Sys2Proof.Machine
end

