-- ==== Sys2Proof/Machine/IngestCommands.lean ====
section
/-! DEFINITION. The commands of SV ingest and alignment (R264–R293). -/

namespace Sys2Proof.Machine

/-- SV_FRAME_INGEST (R266–R279). -/
def execSvFrameIngest (s : State) : Out := act s sviIngest

/-- STREAM_LOST_TIMEOUT (R279). -/
def execStreamLostTimeout (k : Fin 2048) (s : State) : Out := act s fun s => streamTimeout s k.val

/-- ALIGNMENT_RELEASE (R280–R287). -/
def execAlignmentRelease (g : Fin 256) (s : State) : Out := act s fun s => blvDrain (alignRelease s g.val)

/-- SVI_DESC_WRITE (R269, R289, R290). -/
def execSviDescWrite (mid : Mid) (k : Fin 2048) (d : List Word) (s : State) : Out :=
  act s fun s => mbxRequest s mid.toNat sviDescMbx 0x01 true k.val d

/-- SVI_DESC_READ (R289). -/
def execSviDescRead (mid : Mid) (k : Fin 2048) (s : State) : Out := act s fun s => mbxRequest s mid.toNat sviDescMbx 0x02 false k.val []

/-- SVI_DESC_DISABLE (R289, R290). -/
def execSviDescDisable (mid : Mid) (k : Fin 2048) (s : State) : Out := act s fun s => mbxRequest s mid.toNat sviDescMbx 0x03 true k.val []

/-- SVI_SCNT_READ (R289). -/
def execSviScntRead (mid : Mid) (k : Fin 2048) (s : State) : Out := act s fun s => mbxRequest s mid.toNat 0x5000C0 0x01 false k.val []

/-- SVI_SCNT_SUB (R289). -/
def execSviScntSub (mid : Mid) (k : Fin 2048) (d : List Word) (s : State) : Out :=
  act s fun s => mbxRequest s mid.toNat 0x5000C0 0x02 true k.val d

end Sys2Proof.Machine
end

