-- ==== Sys2Proof/Machine/IntegrityCommands.lean ====
section
/-! DEFINITION. The commands of memory integrity and telemetry (R594–R619). -/

namespace Sys2Proof.Machine

/-- What a scrub finds (R599). -/
def findOf : FoundState → OcFind
  | .clean => .clean
  | .corrected => .corrected
  | .uncorrectable => .uncorrectable

/-! ### The commands -/

/-- DRAM_SCRUB_STEP (R604, R606). -/
def execDramScrubStep (j : Fin 32) (errs : List (List (Fin 20))) (s : State) : Out :=
  act s fun s => dramScrub s j.val (errs.map fun c => c.map fun (p : Fin 20) => p.val)

/-- ONCHIP_SCRUB_STEP (R599, R604). -/
def execOnchipScrubStep (u : Fin 16) (bank : Byte) (item : Nat) (f : FoundState) (s : State) : Out :=
  act s fun s => onchipScrub s u.val bank.toNat item (findOf f)

/-- REGISTER_SWEEP (R600, R601). -/
def execRegisterSweep (fixed : List (BitVec 28)) (lost : List (BitVec 28)) (found : CopyCheck) (s : State) : Out :=
  act s fun s =>
    let fix := fixed.map fun a => a.toNat
    let cmp := lost.map fun a => a.toNat
    match found with
    | .atUse => copiesAtUse s fix cmp
    | .sweep romOk => registerSweep s fix cmp romOk

/-- GATEHOUSE_MEMORY_COMPARE (R604). -/
def execGatehouseMemoryCompare (fixed : List (Fin 4096)) (lost : List (Fin 4096)) (cache : List (Fin 4096)) (s : State) : Out :=
  act s fun s => gthCompare s (fixed.map fun k => k.val) (lost.map fun k => k.val) (cache.map fun k => k.val)

/-- BACKGROUND_LATE (R607). -/
def execBackgroundLate (n : Fin 5) (s : State) : Out := act s fun s => bgLate s n.val

/-- MEM_MARKSET (R596, R616). -/
def execMemMarkset (mid : Mid) (data : Word) (s : State) : Out := act s fun s => meshWrite s mid.toNat 0xF00068 data.toNat

/-- TELEMETRY_SEND (R613, R614). -/
def execTelemetrySend (s : State) : Out := act s telemetry

end Sys2Proof.Machine
end

