-- ==== Sys2Proof/Machine/LanternCommands.lean ====
section
/-! DEFINITION. The commands of the Cascade and the Lantern (R294–R329). -/

namespace Sys2Proof.Machine

/-- The Cascade takes the next released set, and the Belvedere the points it wrote (R295, R505). -/
def processSet (s : State) : State :=
  match s.svi.toCas with
  | [] => s
  | r :: _ => blvPoints (casTake { s with cas := { s.cas with differ := [] } } s.cas.differ) r.tick r.hz

/-! ### The commands -/

/-- CASCADE_PROCESS_SET: a released set is filtered and measured, its points offered to the Belvedere (R295–R322, R505). -/
def execCascadeProcessSet (s : State) : Out := act s processSet

/-- CAS_SYNC_GO: CAS_SYNC is written with GO = 1 (R301). -/
def execCasSyncGo (mid : Mid) (out : Bool) (s : State) : Out := act s fun s => meshWrite s mid.toNat 0x600040 (bitAt out 1 + 1)

/-- SYNC_IN_EDGE (R301). -/
def execSyncInEdge (s : State) : Out := act s syncIn

/-- SYNC_OUT_FALL (R301). -/
def execSyncOutFall (s : State) : Out := act s syncOutFall

/-- CAS_RESP_COEF (R324). -/
def execCasRespCoef (mid : Mid) (r : Fin 32) (minPhase : Bool) (part : Fin 4) (s : State) : Out :=
  act s fun s => mbxRequest s mid.toNat 0x600080 0x01 false (part.val * 64 + bitAt minPhase 5 + r.val) []

/-- CAS_RESP_INFO (R324). -/
def execCasRespInfo (mid : Mid) (r : Fin 32) (minPhase : Bool) (s : State) : Out :=
  act s fun s => mbxRequest s mid.toNat 0x600080 0x02 false (bitAt minPhase 5 + r.val) []

/-- LTN_TRIP_WRITE (R328). -/
def execLtnTripWrite (mid : Mid) (t : Fin 8192) (d : List Word) (s : State) : Out :=
  act s fun s => mbxRequest s mid.toNat ltnTripMbx 0x01 true t.val d

/-- LTN_TRIP_READ (R328). -/
def execLtnTripRead (mid : Mid) (t : Fin 8192) (s : State) : Out := act s fun s => mbxRequest s mid.toNat ltnTripMbx 0x02 false t.val []

/-- LTN_TRIP_DISABLE (R328). -/
def execLtnTripDisable (mid : Mid) (t : Fin 8192) (s : State) : Out := act s fun s => mbxRequest s mid.toNat ltnTripMbx 0x03 true t.val []

end Sys2Proof.Machine
end

