-- ==== Sys2Proof/Machine/OrangeryCommands.lean ====
section
/-! DEFINITION. The commands of the Orangery (R466–R506). Its own happenings do not need RD_SYS. -/

namespace Sys2Proof.Machine

/-- ORN_RES0, or ORN_RES1 for the second. -/
def resMbx (second : Bool) : Nat := if second then 0xB00100 else 0xB000C0

/-! ### The commands -/

/-- TAP_WORD_RECEIVE (R90, R473). -/
def execTapWordReceive (w : TapWord) (s : State) : Out := .next (tapReceive s w)

/-- INTERVAL_COMPUTE (R474–R489). -/
def execIntervalCompute (s : State) : Out := .next (intervalCompute s)

/-- INTERVAL_BOUNDARY_APPLY (R477, R497). -/
def execIntervalBoundaryApply (s : State) : Out := .next (boundaryApply s)

/-- PULSE_EMIT (R490, R491). -/
def execPulseEmit (k : Fin 4) (s : State) : Out := .next (pulseEmit s k.val)

/-- ORN_CIRCUIT (R470, R477, R506). -/
def execOrnCircuit (mid : Mid) (arg : BitVec 16) (d : List Word) (s : State) : Out :=
  act s fun s => mbxRequest s mid.toNat ornReqMbx 0x01 true arg.toNat d

/-- ORN_CORR_CH (R477, R506). -/
def execOrnCorrCh (mid : Mid) (arg : BitVec 16) (d : List Word) (s : State) : Out :=
  act s fun s => mbxRequest s mid.toNat ornReqMbx 0x02 true arg.toNat d

/-- ORN_CORR_Q (R477, R506). -/
def execOrnCorrQ (mid : Mid) (arg : BitVec 16) (d : List Word) (s : State) : Out :=
  act s fun s => mbxRequest s mid.toNat ornReqMbx 0x03 true arg.toNat d

/-- ORN_PULSE_ASSIGN (R490, R506). -/
def execOrnPulseAssign (mid : Mid) (arg : BitVec 16) (d : List Word) (s : State) : Out :=
  act s fun s => mbxRequest s mid.toNat ornReqMbx 0x04 true arg.toNat d

/-- ORN_PARAM (R484, R506). -/
def execOrnParam (mid : Mid) (arg : BitVec 16) (d : List Word) (s : State) : Out :=
  act s fun s => mbxRequest s mid.toNat ornReqMbx 0x05 true arg.toNat d

/-- ORN_OPEN (R493, R494). -/
def execOrnOpen (mid : Mid) (arg : BitVec 16) (d : List Word) (s : State) : Out :=
  act s fun s => mbxRequest s mid.toNat ornReqMbx 0x06 true arg.toNat d

/-- ORN_CLOSE (R492). -/
def execOrnClose (mid : Mid) (s : State) : Out := act s fun s => mbxRequest s mid.toNat ornReqMbx 0x07 true 0 []

/-- ORN_FWLOAD (R500). -/
def execOrnFwload (mid : Mid) (arg : BitVec 16) (d : List Word) (s : State) : Out :=
  act s fun s => mbxRequest s mid.toNat ornReqMbx 0x08 true arg.toNat d

/-- ORN_FWACT (R500). -/
def execOrnFwact (mid : Mid) (arg : BitVec 16) (d : List Word) (s : State) : Out :=
  act s fun s => mbxRequest s mid.toNat ornReqMbx 0x09 true arg.toNat d

/-- ORN_KEYLOAD (R468, R495). -/
def execOrnKeyload (mid : Mid) (arg : BitVec 16) (d : List Word) (s : State) : Out :=
  act s fun s => mbxRequest s mid.toNat ornReqMbx 0x0A true arg.toNat d

/-- ORN_SAVE (R484). -/
def execOrnSave (mid : Mid) (s : State) : Out := act s fun s => mbxRequest s mid.toNat ornReqMbx 0x0B true 0 []

/-- ORN_DIAGCLR (R473, R506). -/
def execOrnDiagclr (mid : Mid) (arg : BitVec 16) (s : State) : Out :=
  act s fun s => mbxRequest s mid.toNat ornReqMbx 0x0C true arg.toNat []

/-- ORN_ENERGY_A (R482). -/
def execOrnEnergyA (mid : Mid) (second : Bool) (arg : BitVec 16) (s : State) : Out :=
  act s fun s => mbxRequest s mid.toNat (resMbx second) 0x01 false arg.toNat []

/-- ORN_ENERGY_R (R482). -/
def execOrnEnergyR (mid : Mid) (second : Bool) (arg : BitVec 16) (s : State) : Out :=
  act s fun s => mbxRequest s mid.toNat (resMbx second) 0x02 false arg.toNat []

/-- ORN_INSTANT (R478). -/
def execOrnInstant (mid : Mid) (second : Bool) (arg : BitVec 16) (s : State) : Out :=
  act s fun s => mbxRequest s mid.toNat (resMbx second) 0x03 false arg.toNat []

/-- ORN_ID (R499). -/
def execOrnId (mid : Mid) (second : Bool) (s : State) : Out := act s fun s => mbxRequest s mid.toNat (resMbx second) 0x04 false 0 []

/-- ORN_CHALLENGE (R493). -/
def execOrnChallenge (mid : Mid) (second : Bool) (s : State) : Out :=
  act s fun s => mbxRequest s mid.toNat (resMbx second) 0x05 false 0 []

/-- ORN_CIRCUIT_READ (R506). -/
def execOrnCircuitRead (mid : Mid) (second : Bool) (arg : BitVec 16) (s : State) : Out :=
  act s fun s => mbxRequest s mid.toNat (resMbx second) 0x06 false arg.toNat []

/-- ORN_CORR_READ (R506). -/
def execOrnCorrRead (mid : Mid) (second : Bool) (ofCircuit : Bool) (arg : BitVec 16) (s : State) : Out :=
  act s fun s => mbxRequest s mid.toNat (resMbx second) 0x07 false (bitAt ofCircuit 15 + arg.toNat % 2 ^ 15) []

/-- ORN_PULSE_READ (R506). -/
def execOrnPulseRead (mid : Mid) (second : Bool) (arg : BitVec 16) (s : State) : Out :=
  act s fun s => mbxRequest s mid.toNat (resMbx second) 0x08 false arg.toNat []

/-- ORN_PARAM_READ (R506). -/
def execOrnParamRead (mid : Mid) (second : Bool) (s : State) : Out :=
  act s fun s => mbxRequest s mid.toNat (resMbx second) 0x09 false 0 []

/-- ORN_AUDIT (R498). -/
def execOrnAudit (mid : Mid) (second : Bool) (arg : BitVec 16) (s : State) : Out :=
  act s fun s => mbxRequest s mid.toNat (resMbx second) 0x0A false arg.toNat []

/-- ORN_LOSSHDR (R486). -/
def execOrnLosshdr (mid : Mid) (second : Bool) (arg : BitVec 16) (s : State) : Out :=
  act s fun s => mbxRequest s mid.toNat (resMbx second) 0x0B false arg.toNat []

/-- ORN_LOSSCIR (R486). -/
def execOrnLosscir (mid : Mid) (second : Bool) (arg : BitVec 16) (s : State) : Out :=
  act s fun s => mbxRequest s mid.toNat (resMbx second) 0x0C false arg.toNat []

/-- ORN_DIAG (R473, R506). -/
def execOrnDiag (mid : Mid) (second : Bool) (arg : BitVec 16) (s : State) : Out :=
  act s fun s => mbxRequest s mid.toNat (resMbx second) 0x0D false arg.toNat []

/-- ORANGERY_START (R485, R501). -/
def execOrangeryStart (bankOk : Bool) (s : State) : Out := .next (ornStart s bankOk)

/-- SEAL_PIN_CHANGE: the pin's level, which opens nothing before it has stood for 10 ms; with VDD_IO33 out of range the pin reads high (R492). -/
def execSealPinChange (low : Bool) (s : State) : Out := .next (sealPinChange s (low && !bit s.cru.rails 8))

/-- SEAL_TIMEOUT (R492). -/
def execSealTimeout (s : State) : Out := .next (sealTimeout s)

/-- LOCKOUT_END (R494). -/
def execLockoutEnd (s : State) : Out := .next (lockoutEnd s)

/-- OSCILLATOR_TRIM (R502). -/
def execOscillatorTrim (refOk : Bool) (s : State) : Out := .next (oscillatorTrim s refOk)

end Sys2Proof.Machine
end

