-- ==== Sys2Proof/Machine/ParterreCommands.lean ====
section
/-! DEFINITION. The commands of register pages, strobes, the mesh and transactions (R33–R79). -/

namespace Sys2Proof.Machine

/-- REGISTER_WRITE: a 32-bit write at word `off` of the register space (R46). -/
def execRegisterWrite (mid : Mid) (off : BitVec 26) (data : Word) (s : State) : Out :=
  act s fun s => meshWrite s mid.toNat (4 * off.toNat) data.toNat

/-- PAGE_ENABLE: PG_CTRL is written with EN, VIEW as it stands (R39). -/
def execPageEnable (mid : Mid) (page : BitVec 16) (on : Bool) (s : State) : Out :=
  act s fun s =>
    let p := page.toNat * 0x1000
    meshWrite s mid.toNat (p + 0x0C) (fget s (hView p) * 4 + b2n on)

/-- BLOCK_SOFT_RESET: PG_CTRL is written with SRST = 1, EN and VIEW as they stand (R40). -/
def execBlockSoftReset (mid : Mid) (page : BitVec 16) (s : State) : Out :=
  act s fun s =>
    let p := page.toNat * 0x1000
    meshWrite s mid.toNat (p + 0x0C) (fget s (hView p) * 4 + 2 + b2n (enabled s p))

/-- PAGE_LOCK: a write of PG_LOCK.LOCK = 1 (R43, R44). -/
def execPageLock (mid : Mid) (page : BitVec 16) (s : State) : Out :=
  act s fun s => meshWrite s mid.toNat (page.toNat * 0x1000 + 0x24) 1

/-- PAGE_UNLOCK: a write of PG_LOCK.UNLOCK = 1 (R43). -/
def execPageUnlock (mid : Mid) (page : BitVec 16) (s : State) : Out :=
  act s fun s => meshWrite s mid.toNat (page.toNat * 0x1000 + 0x24) 2

/-- COUNTER_ACKNOWLEDGE: the value read is written back to a `ctr` field (R50). -/
def execCounterAcknowledge (mid : Mid) (off : BitVec 26) (seen : Word) (s : State) : Out :=
  act s fun s => meshWrite s mid.toNat (4 * off.toNat) seen.toNat

/-- BUFFERED_WRITE: a write to the `wbf` fields of a register (R59). -/
def execBufferedWrite (mid : Mid) (off : BitVec 26) (data : Word) (s : State) : Out :=
  act s fun s => meshWrite s mid.toNat (4 * off.toNat) data.toNat

/-- MAILBOX_ACK: a write of _ACK bit 0 = 1 of the mailbox at 64 × `mbx` (R54). -/
def execMailboxAck (mid : Mid) (mbx : BitVec 22) (s : State) : Out :=
  act s fun s => meshWrite s mid.toNat (64 * mbx.toNat + 8) 1

/-- SYS_STROBE: the groups apply 32 fabric clocks later (R61). -/
def execSysStrobe (mid : Mid) (groups : BitVec 16) (s : State) : Out :=
  act s fun s => meshWrite s mid.toNat 0x44 groups.toNat

/-- STROBE_APPLY: the strobes whose clock has come are applied (R60, R61). -/
def execStrobeApply (s : State) : Out := act s strobesDue

/-- SYS_STROBE_TICK: the groups are armed for a tick edge (R61). -/
def execSysStrobeTick (mid : Mid) (groups : BitVec 16) (s : State) : Out :=
  act s fun s => meshWrite s mid.toNat 0x48 groups.toNat

/-- STRB_ACKNOWLEDGE: the slower domain of the register at word `off` has taken its value (R63). -/
def execStrbAcknowledge (off : BitVec 26) (s : State) : Out := act s fun s => strobeAck s (4 * off.toNat)

/-- MESH_TRANSACTION: a read, fetch or write by a master (R20–R26, R33). -/
def execMeshTransaction (mid : Mid) (addr : BitVec 48) (op : MeshOp) (bad : List BadLine) (s : State) : Out :=
  act s fun s => meshAccess s mid.toNat addr.toNat op bad

/-- TX_BEGIN: SYS_TXn_CMD.BEGIN (R67). -/
def execTxBegin (mid : Mid) (n : Fin 4) (s : State) : Out :=
  act s fun s => meshWrite s mid.toNat (0x1040 + 0x20 * n.val) 1

/-- TX_CLAIM: a write of SYS_TXn_CLAIM (R68). -/
def execTxClaim (mid : Mid) (n : Fin 4) (page : BitVec 16) (s : State) : Out :=
  act s fun s => meshWrite s mid.toNat (0x1044 + 0x20 * n.val) page.toNat

/-- TX_STAGED_WRITE: a write that goes to staging where the page is claimed by its master (R69, R70). -/
def execTxStagedWrite (mid : Mid) (off : BitVec 26) (data : Word) (s : State) : Out :=
  act s fun s => meshWrite s mid.toNat (4 * off.toNat) data.toNat

/-- TX_COMMIT: SYS_TXn_CMD.COMMIT (R72). -/
def execTxCommit (mid : Mid) (n : Fin 4) (s : State) : Out :=
  act s fun s => meshWrite s mid.toNat (0x1040 + 0x20 * n.val) 2

/-- TX_COMMIT_AT: SYS_TXn_AT is written, then SYS_TXn_CMD.COMMIT_AT (R72). -/
def execTxCommitAt (mid : Mid) (n : Fin 4) (tick : Word) (s : State) : Out :=
  act s fun s =>
    meshWrite (meshWrite s mid.toNat (0x1048 + 0x20 * n.val) tick.toNat) mid.toNat (0x1040 + 0x20 * n.val) 4

/-- TX_ROLLBACK: SYS_TXn_CMD.ROLLBACK (R74). -/
def execTxRollback (mid : Mid) (n : Fin 4) (s : State) : Out :=
  act s fun s => meshWrite s mid.toNat (0x1040 + 0x20 * n.val) 8

/-- TX_STOPPED_APPLY: commits taken while the generator is stopped apply (R72). -/
def execTxStoppedApply (s : State) : Out := act s stoppedApply

end Sys2Proof.Machine
end

