-- ==== Sys2Proof/Machine/PavilionCommands.lean ====
section
/-! DEFINITION. The commands of pavilions (R396–R425). -/

namespace Sys2Proof.Machine

/-- PAV_RESET: PAV_CMD.RESET = 1 is written (R410). -/
def execPavReset (mid : Mid) (p : Fin 1024) (s : State) : Out := act s fun s => meshWrite s mid.toNat (0x4000048 + 0x1000 * p.val) 1

/-- PAVILION_RESET_COMPLETE (R413). -/
def execPavilionResetComplete (p : Fin 1024) (s : State) : Out := act s fun s => pavResetDone s p.val

/-- SHARE_EXHAUSTED (R403, R404). -/
def execShareExhausted (p : Fin 1024) (s : State) : Out := act s fun s => shareExhausted s p.val

/-- PAV_WDT_EXPIRE (R407, R409). -/
def execPavWdtExpire (p : Fin 1024) (s : State) : Out := act s fun s => wdtExpire s p.val

/-- PAV_KICK: PAV_KICK.KICK = 1 is written (R409). -/
def execPavKick (mid : Mid) (p : Fin 1024) (s : State) : Out := act s fun s => meshWrite s mid.toNat (0x4000058 + 0x1000 * p.val) 1

/-- PAV_MIG_FREEZE (R417). -/
def execPavMigFreeze (mid : Mid) (p : Fin 1024) (d : List Word) (s : State) : Out :=
  act s fun s => mbxRequest s mid.toNat (migMbx p.val) 0x01 true 0 d

/-- PAV_MIG_SAVE (R418). -/
def execPavMigSave (mid : Mid) (p : Fin 1024) (d : List Word) (s : State) : Out :=
  act s fun s => mbxRequest s mid.toNat (migMbx p.val) 0x02 true 0 d

/-- PAV_MIG_RESTORE (R421). -/
def execPavMigRestore (mid : Mid) (p : Fin 1024) (d : List Word) (s : State) : Out :=
  act s fun s => mbxRequest s mid.toNat (migMbx p.val) 0x03 true 0 d

/-- PAV_MIG_THAW (R422). -/
def execPavMigThaw (mid : Mid) (p : Fin 1024) (d : List Word) (s : State) : Out :=
  act s fun s => mbxRequest s mid.toNat (migMbx p.val) 0x04 true 0 d

/-- PAV_MIG_DISCARD (R422). -/
def execPavMigDiscard (mid : Mid) (p : Fin 1024) (d : List Word) (s : State) : Out :=
  act s fun s => mbxRequest s mid.toNat (migMbx p.val) 0x05 true 0 d

/-- SAVE_COMPLETE (R418). -/
def execSaveComplete (p : Fin 1024) (s : State) : Out := act s fun s => saveComplete s p.val

end Sys2Proof.Machine
end

