-- ==== Sys2Proof/Machine/SundialCommands.lean ====
section
/-! DEFINITION. The commands of time, ticks and the angle timebase (R114–R178, R364, R658–R662). -/

namespace Sys2Proof.Machine

/-! ### Pins -/

/-- PPS_OUT rises at a whole second not yet marked (R131). -/
def ppsRise (s : State) : State :=
  let k := timeNow s / secUnit
  let fresh := match s.sdl.ppsMarked with
    | none => true
    | some m => decide (m < k)
  if ppsDriven s && fresh then { s with sdl := { s.sdl with pps := true, ppsMarked := some k, ppsRise := timeNow s } } else s

/-- PPS_OUT falls SDL_PPS_WIDTH µs after its rise (R131). -/
def ppsFall (s : State) : State :=
  if s.sdl.pps && decide (s.sdl.ppsRise + fget s Fld.SDL_PPS_WIDTH_US * 1000 * nsUnit ≤ timeNow s) then { s with sdl := { s.sdl with pps := false } } else s

/-- TICK_OUT falls WIDTH × 100 ns of PTP time after its rise (R120, R132). -/
def tickOutFall (s : State) : State :=
  if s.sdl.tickOut && decide (s.sdl.tickOutAt + fget s Fld.SDL_TICKOUT_WIDTH * 100 * nsUnit ≤ timeNow s) then { s with sdl := { s.sdl with tickOut := false } } else s

/-- A rising edge of PPS_IN is registered (R133, R151). -/
def ppsInEdge (s : State) : State :=
  if !enabled s 0x200000 then s
  else
    let c := (s.sdl.raw + 2 ^ 64 - 3) % 2 ^ 64
    cinc { s with sdl := { s.sdl with ppsIn := some (c, timePast s.sdl c), ppsSeq := (s.sdl.ppsSeq + 1) % 2 ^ 32 } } Fld.SDL_PPSIN_EVT_COUNT

/-! ### Tick edges -/

/-- Token requests whose tick lies before the first edge of a start end LATE (R129). -/
def tokenLate (s : State) (n : Nat) : State :=
  let s := match s.ftb.req with
    | some r => if r.k < n then reqEnd s r 0x03 else s
    | none => s
  match s.ftb.want with
  | some r => if r.k < n then mbxEndIfBusy (setFtb s { s.ftb with want := none }) ftbTokenMbx 0x03 else s
  | none => s

/-- The Sundial tick edge and what the blocks do at it (R126, R159, R301, R428, R450–R452). -/
def tickEdge (s : State) : State :=
  if !tickDue s then s
  else
    let first := s.sdl.gen == .starting
    let s := sundialEdge s
    let n := s.sdl.last.getD 0
    let s := if first then tokenLate s n else s
    angleSweep (casSundialEdge (ftbSundialEdge s n) n)

/-- What comes first at the fabric edge of tick `n`: the pavilions' ticks end, and at the first edge of a start what is late fails. -/
def edgeBefore (s : State) (n : Nat) (first : Bool) (times : List (Nat × Nat)) : State :=
  if first then lateSlots (lateRequests (pavsEdge s times) n) n else pavsEdge s times

/-- Then what waits for the edge is applied, the syncs act, and the sequencer. -/
def edgeCommit (s : State) (n : Nat) : State := seqEdge (syncEdge (edgeApply s n) n) n

/-- Then the ingest, the triplets, the Footbridge and the Belvedere act; `f` is the base rate. -/
def edgeAfter (s : State) (n f : Nat) : State := blvTick (ftbFabricEdge (tripEdge (sviFabricEdge s n f))) n f

/-- The fabric tick edge of tick `n` has passed. -/
def edgePassed (s : State) (n : Nat) : State := { s with sdl := { s.sdl with fabLast := some n } }

/-- The fabric tick edge of the oldest Sundial edge due, in the order of R364; `times` is the core time of pavilions in the tick that
ends, in ns (R403, R405). The edge comes at least 34 fabric clocks after the Sundial edge (R85, log 10). -/
def fabricEdge (s : State) (times : List (Nat × Nat)) : State :=
  match s.sdl.fabDue with
  | [] => s
  | (n, at_, first) :: rest =>
    if s.sdl.fab < at_ + 34 then s
    else
      let s := edgeCommit (edgeBefore { s with sdl := { s.sdl with fabDue := rest } } n first times) n
      stopEnd (edgePassed (edgeAfter s n (baseHz s)) n)

/-! ### The tracker's timeouts (R161, R661) -/

/-- A LOCKED tracker without an update for 5 ms. While the generator runs, transitions are made at its Sundial tick edges alone (R161); with
the generator stopped no edge comes, and the tracker passes by the time alone (R162; log 76). -/
def trackerTimeout (s : State) : State :=
  if s.sdl.gen ≠ .running ∧ s.ang.st = .locked ∧ enabled s 0x203000 ∧ s.ang.lastRecv + 5000000 ≤ s.sdl.raw then
    let s := publish s
    let s := { s with ang := { s.ang with st := .holdover, holdAt := s.sdl.raw, est := { s.ang.est with rho := 0 } } }
    angleSweep (alarmsEdge (alarmsHold (trackRecord (cinc s Fld.SDL_ANG_HOLD_COUNT) .locked)))
  else s

/-- HOLDOVER for HOLD_MS without a deciding update, while the generator makes no edges (R161, R162; log 76). -/
def holdoverTimeout (s : State) : State :=
  if s.sdl.gen ≠ .running ∧ s.ang.st = .holdover ∧ enabled s 0x203000 ∧ s.ang.holdAt + fget s Fld.SDL_ANG_CNT_HOLD_MS * 1000000 ≤ s.sdl.raw ∧
      (lastThat s.ang.updates (goodApartTol s)).isNone then angleSweep (enterAcquire s) else s

/-- An armed alarm is due at the first raw count with T(c) ≥ t_f (R166). -/
def alarmDue (s : State) (k : Nat) : Bool :=
  let a := alarm s k
  a.st == .armed && decide (a.tf * nsUnit ≤ timeNow s)

/-! ### The commands -/

/-- SDL_TIME_NOW (R154). -/
def execSdlTimeNow (mid : Mid) (s : State) : Out := act s fun s => mbxRequest s mid.toNat 0x200080 0x01 false 0 []

/-- SDL_TIME_PPSIN (R154). -/
def execSdlTimePpsin (mid : Mid) (s : State) : Out := act s fun s => mbxRequest s mid.toNat 0x200080 0x02 false 0 []

/-- SDL_ADJ_SET (R118, R121–R124). -/
def execSdlAdjSet (mid : Mid) (arg : BitVec 16) (d : List Word) (s : State) : Out :=
  act s fun s => mbxRequest s mid.toNat sdlAdjMbx 0x10 true arg.toNat d

/-- SDL_ADJ_STEP (R119, R121–R124). -/
def execSdlAdjStep (mid : Mid) (arg : BitVec 16) (d : List Word) (s : State) : Out :=
  act s fun s => mbxRequest s mid.toNat sdlAdjMbx 0x11 true arg.toNat d

/-- SDL_ADJ_INCR (R120–R123). -/
def execSdlAdjIncr (mid : Mid) (arg : BitVec 16) (d : List Word) (s : State) : Out :=
  act s fun s => mbxRequest s mid.toNat sdlAdjMbx 0x12 true arg.toNat d

/-- ADJUST_APPLY: at c_A the pending adjustment is applied or refused (R118, R124). -/
def execAdjustApply (s : State) : Out := act s fun s => angleSweep (adjApply s)

/-- TICK_GENERATOR_START: SDL_CTRL is written with TICK_RUN = 1, its other bits as they stand (R125). -/
def execTickGeneratorStart (mid : Mid) (s : State) : Out :=
  act s fun s => meshWrite s mid.toNat 0x200040 (fget s Fld.SDL_CTRL_PPS_OUT_EN * 4 + fget s Fld.SDL_CTRL_TICK_OUT_EN * 2 + 1)

/-- TICK_GENERATOR_STOP: SDL_CTRL is written with TICK_RUN = 0, its other bits as they stand (R128). -/
def execTickGeneratorStop (mid : Mid) (s : State) : Out :=
  act s fun s => meshWrite s mid.toNat 0x200040 (fget s Fld.SDL_CTRL_PPS_OUT_EN * 4 + fget s Fld.SDL_CTRL_TICK_OUT_EN * 2)

/-- SUNDIAL_TICK_EDGE (R126). -/
def execSundialTickEdge (s : State) : Out := act s tickEdge

/-- FABRIC_TICK_EDGE (R85, R364). -/
def execFabricTickEdge (times : List (Fin 1024 × BitVec 20)) (s : State) : Out :=
  act s fun s => fabricEdge s (times.map fun (e : Fin 1024 × BitVec 20) => (e.1.val, e.2.toNat))

/-- BASE_RATE_CHANGE (R130). -/
def execBaseRateChange (s : State) : Out := act s baseRateChange

/-- PPS_OUT_RISE (R131). -/
def execPpsOutRise (s : State) : Out := act s ppsRise

/-- PPS_OUT_FALL (R131). -/
def execPpsOutFall (s : State) : Out := act s ppsFall

/-- TICK_OUT_FALL (R132). -/
def execTickOutFall (s : State) : Out := act s tickOutFall

/-- PPS_IN_EDGE (R133). -/
def execPpsInEdge (s : State) : Out := act s ppsInEdge

/-- TIMESTAMP_RING_POP (R144, R154). -/
def execTimestampRingPop (mid : Mid) (m : Fin 16) (s : State) : Out :=
  act s fun s => mbxRequest s mid.toNat (0x202040 + 0x40 * m.val) 0x01 false 0 []

/-- LAUNCH_LATE_DROP: the head frame of a class whose launch window has closed (R146, R149). -/
def execLaunchLateDrop (m : Fin 16) (c : Fin 8) (s : State) : Out := act s fun s => launchDrop s m.val c.val

/-- TRACKER_UPDATE_TIMEOUT (R161). -/
def execTrackerUpdateTimeout (s : State) : Out := act s trackerTimeout

/-- HOLDOVER_TIMEOUT (R161). -/
def execHoldoverTimeout (s : State) : Out := act s holdoverTimeout

/-- SDL_ANG_NOW (R161, R177). -/
def execSdlAngNow (mid : Mid) (s : State) : Out := act s fun s => mbxRequest s mid.toNat 0x203080 0x01 false 0 []

/-- ALARM_ARM (R163–R167, R178). -/
def execAlarmArm (mid : Mid) (k : Fin 256) (d : List Word) (s : State) : Out :=
  act s fun s => mbxRequest s mid.toNat 0x204040 0x01 true k.val d

/-- ALARM_CANCEL (R168, R178). -/
def execAlarmCancel (mid : Mid) (k : Fin 256) (s : State) : Out :=
  act s fun s => mbxRequest s mid.toNat 0x204040 0x02 true k.val []

/-- ALARM_READ (R178). -/
def execAlarmRead (mid : Mid) (k : Fin 256) (s : State) : Out :=
  act s fun s => mbxRequest s mid.toNat 0x204040 0x03 false k.val []

/-- ALARM_FIRE (R166, R169). -/
def execAlarmFire (k : Fin 256) (s : State) : Out :=
  act s fun s => if alarmDue s k.val then angleSweep (fireAlarm s k.val) else s

/-- ALARM_PULSE_END (R171). -/
def execAlarmPulseEnd (k : Fin 256) (s : State) : Out := act s fun s => alarmPulseEnd s k.val

end Sys2Proof.Machine
end

