-- ==== Sys2Proof/Machine/TrellisCommands.lean ====
section
/-! DEFINITION. The commands of the Trellis and the host DMA (R230–R263). -/

namespace Sys2Proof.Machine

/-! ### The commands -/

/-- FDB_AGE_OUT (R239). -/
def execFdbAgeOut (i : Fin 16384) (s : State) : Out := act s fun s => fdbAge s i.val

/-- SPILL_READBACK (R245, R246). -/
def execSpillReadback (k : Fin 3200) (s : State) : Out := act s fun s => spillReadback s k.val

/-- RESEQUENCE_TIMEOUT: a fault has lost a cell of an input, and the output's resequencer misses it: the incomplete frames of that input at
that output are discarded (R235, R603, R608). -/
def execResequenceTimeout (input : Fin 20) (output : Fin 20) (unit : Word) (s : State) : Out :=
  act s fun s => if enabled s 0x400000 then resequence s input.val output.val (some unit.toNat) else s

/-- HOST_TX_FRAME (R252, R253). -/
def execHostTxFrame (s : State) : Out := act s hostTx

/-- HOST_RX_DELIVER (R254). -/
def execHostRxDeliver (c : Fin 8) (s : State) : Out := act s fun s => hostRx s c.val

/-- RING_SIZE_WRITE: TRL_TXRr_SIZE or TRL_RXRr_SIZE is written (R252). -/
def execRingSizeWrite (mid : Mid) (tx : Bool) (r : Fin 8) (data : Word) (s : State) : Out :=
  act s fun s => meshWrite s mid.toNat (0x410044 + (if tx then 0 else 0x80) + 0x10 * r.val) data.toNat

/-- TRL_FDB_WRITE (R259). -/
def execTrlFdbWrite (mid : Mid) (d : List Word) (s : State) : Out := act s fun s => mbxRequest s mid.toNat 0x401040 0x01 true 0 d

/-- TRL_FDB_READ (R259). -/
def execTrlFdbRead (mid : Mid) (i : BitVec 16) (s : State) : Out := act s fun s => mbxRequest s mid.toNat 0x401040 0x02 false i.toNat []

/-- TRL_FDB_DELETE (R259). -/
def execTrlFdbDelete (mid : Mid) (d : List Word) (s : State) : Out := act s fun s => mbxRequest s mid.toNat 0x401040 0x03 true 0 d

/-- TRL_FDB_FLUSH (R259). -/
def execTrlFdbFlush (mid : Mid) (s : State) : Out := act s fun s => mbxRequest s mid.toNat 0x401040 0x04 true 0 []

end Sys2Proof.Machine
end

