-- ==== Sys2Proof/Machine/Dispatch.lean ====
section
/-! DEFINITION. The dispatch: one arm for each command, one direct call of its meaning. -/

namespace Sys2Proof.Machine

/-- The effect of a command on everything but the queue. -/
def exec (i : Instr) (s : State) : Host.Outcome State Fault Refusal :=
  match i with
  | .registerWrite mid off data => Sys2Proof.Machine.execRegisterWrite mid off data s
  | .pageEnable mid page on => Sys2Proof.Machine.execPageEnable mid page on s
  | .blockSoftReset mid page => Sys2Proof.Machine.execBlockSoftReset mid page s
  | .pageLock mid page => Sys2Proof.Machine.execPageLock mid page s
  | .pageUnlock mid page => Sys2Proof.Machine.execPageUnlock mid page s
  | .counterAcknowledge mid off seen => Sys2Proof.Machine.execCounterAcknowledge mid off seen s
  | .bufferedWrite mid off data => Sys2Proof.Machine.execBufferedWrite mid off data s
  | .mailboxAck mid mbx => Sys2Proof.Machine.execMailboxAck mid mbx s
  | .sysStrobe mid groups => Sys2Proof.Machine.execSysStrobe mid groups s
  | .strobeApply => Sys2Proof.Machine.execStrobeApply s
  | .sysStrobeTick mid groups => Sys2Proof.Machine.execSysStrobeTick mid groups s
  | .strbAcknowledge off => Sys2Proof.Machine.execStrbAcknowledge off s
  | .meshTransaction mid addr op bad => Sys2Proof.Machine.execMeshTransaction mid addr op bad s
  | .txBegin mid n => Sys2Proof.Machine.execTxBegin mid n s
  | .txClaim mid n page => Sys2Proof.Machine.execTxClaim mid n page s
  | .txStagedWrite mid off data => Sys2Proof.Machine.execTxStagedWrite mid off data s
  | .txCommit mid n => Sys2Proof.Machine.execTxCommit mid n s
  | .txCommitAt mid n tick => Sys2Proof.Machine.execTxCommitAt mid n tick s
  | .txRollback mid n => Sys2Proof.Machine.execTxRollback mid n s
  | .txStoppedApply => Sys2Proof.Machine.execTxStoppedApply s
  | .clkmonWindow m out => Sys2Proof.Machine.execClkmonWindow m out s
  | .clockStop m => Sys2Proof.Machine.execClockStop m s
  | .pllLockLoss p => Sys2Proof.Machine.execPllLockLoss p s
  | .lanePllLock m => Sys2Proof.Machine.execLanePllLock m s
  | .powerGoodRise => Sys2Proof.Machine.execPowerGoodRise s
  | .powerGoodFall => Sys2Proof.Machine.execPowerGoodFall s
  | .porstNLow => Sys2Proof.Machine.execPorstNLow s
  | .porstNRise => Sys2Proof.Machine.execPorstNRise s
  | .rdSysRelease => Sys2Proof.Machine.execRdSysRelease s
  | .cruSysrst mid key => Sys2Proof.Machine.execCruSysrst mid key s
  | .systemResetStart => Sys2Proof.Machine.execSystemResetStart s
  | .systemWatchdogExpire => Sys2Proof.Machine.execSystemWatchdogExpire s
  | .watchdogKick mid => Sys2Proof.Machine.execWatchdogKick mid s
  | .cruPortRst mid ports => Sys2Proof.Machine.execCruPortRst mid ports s
  | .linkUp m => Sys2Proof.Machine.execLinkUp m s
  | .debugReset => Sys2Proof.Machine.execDebugReset s
  | .supplyTrip r absent => Sys2Proof.Machine.execSupplyTrip r absent s
  | .ornRstNLow => Sys2Proof.Machine.execOrnRstNLow s
  | .orangeryWatchdogExpire => Sys2Proof.Machine.execOrangeryWatchdogExpire s
  | .grottoReset => Sys2Proof.Machine.execGrottoReset s
  | .tapReset => Sys2Proof.Machine.execTapReset s
  | .crossingGroupReady g => Sys2Proof.Machine.execCrossingGroupReady g s
  | .eventChannelRequest c => Sys2Proof.Machine.execEventChannelRequest c s
  | .eventChannelDeliver c => Sys2Proof.Machine.execEventChannelDeliver c s
  | .eventChannelAckComplete c => Sys2Proof.Machine.execEventChannelAckComplete c s
  | .doutChannelCommand levels mask => Sys2Proof.Machine.execDoutChannelCommand levels mask s
  | .doutLatchApply => Sys2Proof.Machine.execDoutLatchApply s
  | .sdlTimeNow mid => Sys2Proof.Machine.execSdlTimeNow mid s
  | .sdlTimePpsin mid => Sys2Proof.Machine.execSdlTimePpsin mid s
  | .sdlAdjSet mid arg d => Sys2Proof.Machine.execSdlAdjSet mid arg d s
  | .sdlAdjStep mid arg d => Sys2Proof.Machine.execSdlAdjStep mid arg d s
  | .sdlAdjIncr mid arg d => Sys2Proof.Machine.execSdlAdjIncr mid arg d s
  | .adjustApply => Sys2Proof.Machine.execAdjustApply s
  | .tickGeneratorStart mid => Sys2Proof.Machine.execTickGeneratorStart mid s
  | .tickGeneratorStop mid => Sys2Proof.Machine.execTickGeneratorStop mid s
  | .sundialTickEdge => Sys2Proof.Machine.execSundialTickEdge s
  | .fabricTickEdge times => Sys2Proof.Machine.execFabricTickEdge times s
  | .baseRateChange => Sys2Proof.Machine.execBaseRateChange s
  | .ppsOutRise => Sys2Proof.Machine.execPpsOutRise s
  | .ppsOutFall => Sys2Proof.Machine.execPpsOutFall s
  | .tickOutFall => Sys2Proof.Machine.execTickOutFall s
  | .ppsInEdge => Sys2Proof.Machine.execPpsInEdge s
  | .timestampRingPop mid m => Sys2Proof.Machine.execTimestampRingPop mid m s
  | .launchLateDrop m c => Sys2Proof.Machine.execLaunchLateDrop m c s
  | .trackerUpdateTimeout => Sys2Proof.Machine.execTrackerUpdateTimeout s
  | .holdoverTimeout => Sys2Proof.Machine.execHoldoverTimeout s
  | .sdlAngNow mid => Sys2Proof.Machine.execSdlAngNow mid s
  | .alarmArm mid k d => Sys2Proof.Machine.execAlarmArm mid k d s
  | .alarmCancel mid k => Sys2Proof.Machine.execAlarmCancel mid k s
  | .alarmRead mid k => Sys2Proof.Machine.execAlarmRead mid k s
  | .alarmFire k => Sys2Proof.Machine.execAlarmFire k s
  | .alarmPulseEnd k => Sys2Proof.Machine.execAlarmPulseEnd k s
  | .frameReceive m bytes fcsOk age => Sys2Proof.Machine.execFrameReceive m bytes fcsOk age s
  | .pauseExpire m => Sys2Proof.Machine.execPauseExpire m s
  | .dupEntryForget m src => Sys2Proof.Machine.execDupEntryForget m src s
  | .frameTransmit m => Sys2Proof.Machine.execFrameTransmit m s
  | .gateChange m => Sys2Proof.Machine.execGateChange m s
  | .macGclSw mid m d => Sys2Proof.Machine.execMacGclSw mid m d s
  | .gclSwitch m => Sys2Proof.Machine.execGclSwitch m s
  | .macExactWrite mid m entry d => Sys2Proof.Machine.execMacExactWrite mid m entry d s
  | .macExactRead mid m entry => Sys2Proof.Machine.execMacExactRead mid m entry s
  | .gpbStart mid k => Sys2Proof.Machine.execGpbStart mid k s
  | .gpbStop mid k => Sys2Proof.Machine.execGpbStop mid k s
  | .gpbPublish mid k => Sys2Proof.Machine.execGpbPublish mid k s
  | .gpbRead mid k => Sys2Proof.Machine.execGpbRead mid k s
  | .gooseRetransmit k => Sys2Proof.Machine.execGooseRetransmit k s
  | .gooseSubFrame => Sys2Proof.Machine.execGooseSubFrame s
  | .gooseExpire n => Sys2Proof.Machine.execGooseExpire n s
  | .gsbSubWrite mid n d => Sys2Proof.Machine.execGsbSubWrite mid n d s
  | .gsbSubRead mid n => Sys2Proof.Machine.execGsbSubRead mid n s
  | .gsbSubDisable mid n => Sys2Proof.Machine.execGsbSubDisable mid n s
  | .gsbStateRead mid n => Sys2Proof.Machine.execGsbStateRead mid n s
  | .fdbAgeOut e => Sys2Proof.Machine.execFdbAgeOut e s
  | .spillReadback k => Sys2Proof.Machine.execSpillReadback k s
  | .resequenceTimeout input output unit => Sys2Proof.Machine.execResequenceTimeout input output unit s
  | .hostTxFrame => Sys2Proof.Machine.execHostTxFrame s
  | .hostRxDeliver c => Sys2Proof.Machine.execHostRxDeliver c s
  | .ringSizeWrite mid tx r data => Sys2Proof.Machine.execRingSizeWrite mid tx r data s
  | .trlFdbWrite mid d => Sys2Proof.Machine.execTrlFdbWrite mid d s
  | .trlFdbRead mid e => Sys2Proof.Machine.execTrlFdbRead mid e s
  | .trlFdbDelete mid d => Sys2Proof.Machine.execTrlFdbDelete mid d s
  | .trlFdbFlush mid => Sys2Proof.Machine.execTrlFdbFlush mid s
  | .svFrameIngest => Sys2Proof.Machine.execSvFrameIngest s
  | .streamLostTimeout k => Sys2Proof.Machine.execStreamLostTimeout k s
  | .alignmentRelease g => Sys2Proof.Machine.execAlignmentRelease g s
  | .sviDescWrite mid k d => Sys2Proof.Machine.execSviDescWrite mid k d s
  | .sviDescRead mid k => Sys2Proof.Machine.execSviDescRead mid k s
  | .sviDescDisable mid k => Sys2Proof.Machine.execSviDescDisable mid k s
  | .sviScntRead mid k => Sys2Proof.Machine.execSviScntRead mid k s
  | .sviScntSub mid k d => Sys2Proof.Machine.execSviScntSub mid k d s
  | .cascadeProcessSet => Sys2Proof.Machine.execCascadeProcessSet s
  | .casSyncGo mid out => Sys2Proof.Machine.execCasSyncGo mid out s
  | .syncInEdge => Sys2Proof.Machine.execSyncInEdge s
  | .casRespCoef mid r minPhase part => Sys2Proof.Machine.execCasRespCoef mid r minPhase part s
  | .casRespInfo mid r minPhase => Sys2Proof.Machine.execCasRespInfo mid r minPhase s
  | .ltnTripWrite mid t d => Sys2Proof.Machine.execLtnTripWrite mid t d s
  | .ltnTripRead mid t => Sys2Proof.Machine.execLtnTripRead mid t s
  | .ltnTripDisable mid t => Sys2Proof.Machine.execLtnTripDisable mid t s
  | .eventPost e => Sys2Proof.Machine.execEventPost e s
  | .heldEventRetry h => Sys2Proof.Machine.execHeldEventRetry h s
  | .bndPost mid q d => Sys2Proof.Machine.execBndPost mid q d s
  | .slotFill k => Sys2Proof.Machine.execSlotFill k s
  | .bndTake mid k => Sys2Proof.Machine.execBndTake mid k s
  | .takeTimeout k => Sys2Proof.Machine.execTakeTimeout k s
  | .bndDone mid k => Sys2Proof.Machine.execBndDone mid k s
  | .pavPost mid p q d => Sys2Proof.Machine.execPavPost mid p q d s
  | .lockstepMismatch u => Sys2Proof.Machine.execLockstepMismatch u s
  | .cycPairReset mid k => Sys2Proof.Machine.execCycPairReset mid k s
  | .cycNext mid k => Sys2Proof.Machine.execCycNext mid k s
  | .cycDone mid k c p => Sys2Proof.Machine.execCycDone mid k c p s
  | .checkpointComplete => Sys2Proof.Machine.execCheckpointComplete s
  | .cycPvcmdExchange mid p d => Sys2Proof.Machine.execCycPvcmdExchange mid p d s
  | .cycPvcmdRestart mid p d => Sys2Proof.Machine.execCycPvcmdRestart mid p d s
  | .cycForceSet mid p d => Sys2Proof.Machine.execCycForceSet mid p d s
  | .cycForceClear mid p d => Sys2Proof.Machine.execCycForceClear mid p d s
  | .cycForceRead mid p d => Sys2Proof.Machine.execCycForceRead mid p d s
  | .pavReset mid p => Sys2Proof.Machine.execPavReset mid p s
  | .pavilionResetComplete p => Sys2Proof.Machine.execPavilionResetComplete p s
  | .shareExhausted p => Sys2Proof.Machine.execShareExhausted p s
  | .pavWdtExpire p => Sys2Proof.Machine.execPavWdtExpire p s
  | .pavKick mid p => Sys2Proof.Machine.execPavKick mid p s
  | .pavMigFreeze mid p d => Sys2Proof.Machine.execPavMigFreeze mid p d s
  | .pavMigSave mid p d => Sys2Proof.Machine.execPavMigSave mid p d s
  | .pavMigRestore mid p d => Sys2Proof.Machine.execPavMigRestore mid p d s
  | .pavMigThaw mid p d => Sys2Proof.Machine.execPavMigThaw mid p d s
  | .pavMigDiscard mid p d => Sys2Proof.Machine.execPavMigDiscard mid p d s
  | .saveComplete p => Sys2Proof.Machine.execSaveComplete p s
  | .ftbControl h c => Sys2Proof.Machine.execFtbControl h c s
  | .ftbDigest h n out inp => Sys2Proof.Machine.execFtbDigest h n out inp s
  | .ftbSample h recs => Sys2Proof.Machine.execFtbSample h recs s
  | .ftbEvent h e key entry => Sys2Proof.Machine.execFtbEvent h e key entry s
  | .ftbJoinData h d => Sys2Proof.Machine.execFtbJoinData h d s
  | .controlKeepalive => Sys2Proof.Machine.execControlKeepalive s
  | .sampleBatchSend => Sys2Proof.Machine.execSampleBatchSend s
  | .pairHbToggle => Sys2Proof.Machine.execPairHbToggle s
  | .pairHbInEdge => Sys2Proof.Machine.execPairHbInEdge s
  | .heartbeatLoss => Sys2Proof.Machine.execHeartbeatLoss s
  | .footbridgeLoss => Sys2Proof.Machine.execFootbridgeLoss s
  | .heartbeatGooseSend => Sys2Proof.Machine.execHeartbeatGooseSend s
  | .partnerHeartbeatGoose m bytes fcsOk age => Sys2Proof.Machine.execPartnerHeartbeatGoose m bytes fcsOk age s
  | .heartbeatGooseLoss => Sys2Proof.Machine.execHeartbeatGooseLoss s
  | .digestMissing => Sys2Proof.Machine.execDigestMissing s
  | .diagnosisEnd => Sys2Proof.Machine.execDiagnosisEnd s
  | .batchCut => Sys2Proof.Machine.execBatchCut s
  | .ftbTokenHandover mid d => Sys2Proof.Machine.execFtbTokenHandover mid d s
  | .ftbTokenClaim mid d => Sys2Proof.Machine.execFtbTokenClaim mid d s
  | .freezeTimeout => Sys2Proof.Machine.execFreezeTimeout s
  | .revert => Sys2Proof.Machine.execRevert s
  | .pairListenEnd => Sys2Proof.Machine.execPairListenEnd s
  | .ftbJoin mid => Sys2Proof.Machine.execFtbJoin mid s
  | .joinDataTimeout => Sys2Proof.Machine.execJoinDataTimeout s
  | .ftbDigLast mid => Sys2Proof.Machine.execFtbDigLast mid s
  | .ftbDigLastmis mid => Sys2Proof.Machine.execFtbDigLastmis mid s
  | .ftbDigLastmisIn mid => Sys2Proof.Machine.execFtbDigLastmisIn mid s
  | .tapWordReceive w => Sys2Proof.Machine.execTapWordReceive w s
  | .intervalCompute => Sys2Proof.Machine.execIntervalCompute s
  | .intervalBoundaryApply => Sys2Proof.Machine.execIntervalBoundaryApply s
  | .pulseEmit k => Sys2Proof.Machine.execPulseEmit k s
  | .ornCircuit mid arg d => Sys2Proof.Machine.execOrnCircuit mid arg d s
  | .ornCorrCh mid arg d => Sys2Proof.Machine.execOrnCorrCh mid arg d s
  | .ornCorrQ mid arg d => Sys2Proof.Machine.execOrnCorrQ mid arg d s
  | .ornPulseAssign mid arg d => Sys2Proof.Machine.execOrnPulseAssign mid arg d s
  | .ornParam mid arg d => Sys2Proof.Machine.execOrnParam mid arg d s
  | .ornOpen mid arg d => Sys2Proof.Machine.execOrnOpen mid arg d s
  | .ornClose mid => Sys2Proof.Machine.execOrnClose mid s
  | .ornFwload mid arg d => Sys2Proof.Machine.execOrnFwload mid arg d s
  | .ornFwact mid arg d => Sys2Proof.Machine.execOrnFwact mid arg d s
  | .ornKeyload mid arg d => Sys2Proof.Machine.execOrnKeyload mid arg d s
  | .ornSave mid => Sys2Proof.Machine.execOrnSave mid s
  | .ornDiagclr mid arg => Sys2Proof.Machine.execOrnDiagclr mid arg s
  | .ornEnergyA mid second arg => Sys2Proof.Machine.execOrnEnergyA mid second arg s
  | .ornEnergyR mid second arg => Sys2Proof.Machine.execOrnEnergyR mid second arg s
  | .ornInstant mid second arg => Sys2Proof.Machine.execOrnInstant mid second arg s
  | .ornId mid second => Sys2Proof.Machine.execOrnId mid second s
  | .ornChallenge mid second => Sys2Proof.Machine.execOrnChallenge mid second s
  | .ornCircuitRead mid second arg => Sys2Proof.Machine.execOrnCircuitRead mid second arg s
  | .ornCorrRead mid second ofCircuit arg => Sys2Proof.Machine.execOrnCorrRead mid second ofCircuit arg s
  | .ornPulseRead mid second arg => Sys2Proof.Machine.execOrnPulseRead mid second arg s
  | .ornParamRead mid second => Sys2Proof.Machine.execOrnParamRead mid second s
  | .ornAudit mid second arg => Sys2Proof.Machine.execOrnAudit mid second arg s
  | .ornLosshdr mid second arg => Sys2Proof.Machine.execOrnLosshdr mid second arg s
  | .ornLosscir mid second arg => Sys2Proof.Machine.execOrnLosscir mid second arg s
  | .ornDiag mid second arg => Sys2Proof.Machine.execOrnDiag mid second arg s
  | .orangeryStart bankOk => Sys2Proof.Machine.execOrangeryStart bankOk s
  | .sealPinChange low => Sys2Proof.Machine.execSealPinChange low s
  | .sealTimeout => Sys2Proof.Machine.execSealTimeout s
  | .lockoutEnd => Sys2Proof.Machine.execLockoutEnd s
  | .oscillatorTrim refOk => Sys2Proof.Machine.execOscillatorTrim refOk s
  | .triggerTimeout u => Sys2Proof.Machine.execTriggerTimeout u s
  | .mirrorFrameRecord => Sys2Proof.Machine.execMirrorFrameRecord s
  | .captureClose g => Sys2Proof.Machine.execCaptureClose g s
  | .blvCgTrig mid g => Sys2Proof.Machine.execBlvCgTrig mid g s
  | .blvCgRel mid g slots => Sys2Proof.Machine.execBlvCgRel mid g slots s
  | .maskTableLoad m => Sys2Proof.Machine.execMaskTableLoad m s
  | .rateHalvingStep => Sys2Proof.Machine.execRateHalvingStep s
  | .rateRestoreStep => Sys2Proof.Machine.execRateRestoreStep s
  | .blvSrcWrite mid e d => Sys2Proof.Machine.execBlvSrcWrite mid e d s
  | .blvSrcRead mid e => Sys2Proof.Machine.execBlvSrcRead mid e s
  | .blvSrcDisable mid e => Sys2Proof.Machine.execBlvSrcDisable mid e s
  | .herbariumEvent type src args => Sys2Proof.Machine.execHerbariumEvent type src args s
  | .recordCloseTimeout => Sys2Proof.Machine.execRecordCloseTimeout s
  | .flashProgramDone ok => Sys2Proof.Machine.execFlashProgramDone ok s
  | .flashEraseDone ok => Sys2Proof.Machine.execFlashEraseDone ok s
  | .hrbFreeze mid => Sys2Proof.Machine.execHrbFreeze mid s
  | .hrbUnfreeze mid => Sys2Proof.Machine.execHrbUnfreeze mid s
  | .herbariumScan => Sys2Proof.Machine.execHerbariumScan s
  | .hrbRead mid part => Sys2Proof.Machine.execHrbRead mid part s
  | .hrbSnapSet mid arg d => Sys2Proof.Machine.execHrbSnapSet mid arg d s
  | .hrbSnapSethi mid arg d => Sys2Proof.Machine.execHrbSnapSethi mid arg d s
  | .hrbSnapSetlast mid arg d => Sys2Proof.Machine.execHrbSnapSetlast mid arg d s
  | .hrbSnapRead mid arg => Sys2Proof.Machine.execHrbSnapRead mid arg s
  | .hrbLog mid arg d => Sys2Proof.Machine.execHrbLog mid arg d s
  | .rootBirthComplete => Sys2Proof.Machine.execRootBirthComplete s
  | .entropyHealthFail => Sys2Proof.Machine.execEntropyHealthFail s
  | .gthKeyWrite mid arg d => Sys2Proof.Machine.execGthKeyWrite mid arg d s
  | .gthKeyRead mid arg => Sys2Proof.Machine.execGthKeyRead mid arg s
  | .gthKeyRevoke mid arg => Sys2Proof.Machine.execGthKeyRevoke mid arg s
  | .gthKeyErase mid arg => Sys2Proof.Machine.execGthKeyErase mid arg s
  | .gthKeyLifecycle mid arg d => Sys2Proof.Machine.execGthKeyLifecycle mid arg d s
  | .gthKeyMetroload mid arg => Sys2Proof.Machine.execGthKeyMetroload mid arg s
  | .gthKeyFusekey mid arg d => Sys2Proof.Machine.execGthKeyFusekey mid arg d s
  | .gthKeyFuserev mid arg d => Sys2Proof.Machine.execGthKeyFuserev mid arg d s
  | .gthKeyBootver mid arg d => Sys2Proof.Machine.execGthKeyBootver mid arg d s
  | .keyStoreValid => Sys2Proof.Machine.execKeyStoreValid s
  | .keyStoreLoad => Sys2Proof.Machine.execKeyStoreLoad s
  | .gthReqGmac mid k arg d => Sys2Proof.Machine.execGthReqGmac mid k arg d s
  | .gthReqGmacchk mid k arg d => Sys2Proof.Machine.execGthReqGmacchk mid k arg d s
  | .gthReqHmac mid k arg d => Sys2Proof.Machine.execGthReqHmac mid k arg d s
  | .gthReqVerify mid k arg d => Sys2Proof.Machine.execGthReqVerify mid k arg d s
  | .gthReqSealtag mid k arg d => Sys2Proof.Machine.execGthReqSealtag mid k arg d s
  | .gthDbgChallenge mid => Sys2Proof.Machine.execGthDbgChallenge mid s
  | .gthDbgUnlock mid arg d => Sys2Proof.Machine.execGthDbgUnlock mid arg d s
  | .dramScrubStep j errs => Sys2Proof.Machine.execDramScrubStep j errs s
  | .onchipScrubStep u bank item f => Sys2Proof.Machine.execOnchipScrubStep u bank item f s
  | .registerSweep fixed lost found => Sys2Proof.Machine.execRegisterSweep fixed lost found s
  | .gatehouseMemoryCompare fixed lost cache => Sys2Proof.Machine.execGatehouseMemoryCompare fixed lost cache s
  | .backgroundLate n => Sys2Proof.Machine.execBackgroundLate n s
  | .memMarkset mid data => Sys2Proof.Machine.execMemMarkset mid data s
  | .telemetrySend => Sys2Proof.Machine.execTelemetrySend s
  | .calendarSecond => Sys2Proof.Machine.execCalendarSecond s
  | .opsecIncrement => Sys2Proof.Machine.execOpsecIncrement s
  | .tamperDetect low => Sys2Proof.Machine.execTamperDetect low s
  | .grtTimeNow mid => Sys2Proof.Machine.execGrtTimeNow mid s
  | .grtScrread mid arg => Sys2Proof.Machine.execGrtScrread mid arg s
  | .grtSetcal mid d => Sys2Proof.Machine.execGrtSetcal mid d s
  | .grtTampclr mid => Sys2Proof.Machine.execGrtTampclr mid s
  | .grtScrwrite mid arg d => Sys2Proof.Machine.execGrtScrwrite mid arg d s
  | .grtRstclr mid => Sys2Proof.Machine.execGrtRstclr mid s
  | .dinLevelAccept pin => Sys2Proof.Machine.execDinLevelAccept pin s
  | .bootImageSelect err0 err1 => Sys2Proof.Machine.execBootImageSelect err0 err1 s
  | .dbgBootGo mid second pairs => Sys2Proof.Machine.execDbgBootGo mid second pairs s
  | .dbgBflRead mid ok => Sys2Proof.Machine.execDbgBflRead mid ok s
  | .dbgBflProgram mid d ok => Sys2Proof.Machine.execDbgBflProgram mid d ok s
  | .dbgBflErase mid ok => Sys2Proof.Machine.execDbgBflErase mid ok s
  | .dbgDout mid levels mask => Sys2Proof.Machine.execDbgDout mid levels mask s
  | .tapExtest pins shift => Sys2Proof.Machine.execTapExtest pins shift s
  | .tapSamplePreload pins shift => Sys2Proof.Machine.execTapSamplePreload pins shift s
  | .tapIdcode => Sys2Proof.Machine.execTapIdcode s
  | .tapClamp => Sys2Proof.Machine.execTapClamp s
  | .tapHighz => Sys2Proof.Machine.execTapHighz s
  | .tapExtestPulse pins shift => Sys2Proof.Machine.execTapExtestPulse pins shift s
  | .tapExtestTrain pins shift => Sys2Proof.Machine.execTapExtestTrain pins shift s
  | .tapDbgacc addr op bad => Sys2Proof.Machine.execTapDbgacc addr op bad s
  | .tapBypass => Sys2Proof.Machine.execTapBypass s
  | .tapPrivate => Sys2Proof.Machine.execTapPrivate s
  | .pllLocked p => Sys2Proof.Machine.execPllLocked p s
  | .linkDown m => Sys2Proof.Machine.execLinkDown m s
  | .supplyRestore r => Sys2Proof.Machine.execSupplyRestore r s
  | .vbatLow low => Sys2Proof.Machine.execVbatLow low s
  | .entropyHealthPass => Sys2Proof.Machine.execEntropyHealthPass s
  | .syncOutFall => Sys2Proof.Machine.execSyncOutFall s
  | .shadowRefresh off => Sys2Proof.Machine.execShadowRefresh off s
  | .dinSample levels => Sys2Proof.Machine.execDinSample levels s
  | .dramTrainingComplete gib => Sys2Proof.Machine.execDramTrainingComplete gib s

end Sys2Proof.Machine
end

