-- ==== Sys2Proof/Machine/Idle.lean ====
section
/-! DEFINITION. What the block does while no command waits: one nanosecond passes on its clocks (log 1). -/

namespace Sys2Proof.Machine

/-- The crystal over one nanosecond: at each of its edges the calendar's sub-second count rises, and with PWR_GOOD high the count towards
OPSEC (R633, R634; log 19). -/
def crystal (s : State) : State :=
  let g := s.grt
  if bit s.cru.stopped 8 then s
  else if g.phase + g.hz < 1000000000 then { s with grt := { g with phase := g.phase + g.hz } }
  else { s with grt := { g with phase := g.phase + g.hz - 1000000000, sub := g.sub + 1, opsub := g.opsub + b2n s.cru.pwrGood } }

/-- The Orangery's own clock runs while VDD_ORN is in range (log 49). -/
def ornClock (s : State) : State := if bit s.cru.rails 9 then s else { s with orn := { s.orn with clk := s.orn.clk + 1 } }

/-- The raw counter over one fabric clock: it follows REFCLK_SDS alone, whose rate is no other clock's (R81, R114; log 1). -/
def rawClock (d : Sundial) : Sundial :=
  let t := d.refPart + d.refRate
  { d with raw := (d.raw + t / 2 ^ 32) % 2 ^ 64, refPart := t % 2 ^ 32 }

/-- The clocks of RD_SYS: the raw counter and the fabric count, every fourth of which is a cell slot of the Trellis (R232), the post mailboxes whose
request waited for this clock (R336), the next event of a batch (R438), and frames whose last octet has left. In reset only the time of the
start-up passes (R84, R114, R626). -/
def sysClock (s : State) : State :=
  if s.cru.inReset then { s with cru := { s.cru with startNs := s.cru.startNs + 1 } }
  else
    let d := if bit s.cru.stopped 6 then s.sdl else rawClock s.sdl
    let s := { s with sdl := { d with fab := (s.sdl.fab + 1) % 2 ^ 64 } }
    (List.range 16).foldl txSettle (batchStep (postWaits (if s.sdl.fab % 4 = 0 then trlSlot s else s)))

/-- One nanosecond with no command. -/
def idle (s : State) : State := sysClock (ornClock (crystal s))

end Sys2Proof.Machine
end

