-- ==== Sys2Proof/Safety.lean ====
section
/-! DEFINITION. What counts as safe for the block, in the terms that the statements use. -/

namespace Sys2Proof.Machine

/-- What holds of every state that the block reaches: memory is in its one canonical form. -/
def State.Inv (s : State) : Prop := Memory.wf s.mem = true

/-- From `g` to `h` the one-time fuses have only been programmed further: the lifecycle moves forward (R560), a programmed row of boot keys
keeps its digest and a revoke bit stays set (R582), and the anti-rollback count does not fall (R582). -/
def fusesGrow (g h : Gatehouse) : Prop :=
  g.lc ≤ h.lc ∧ g.bootver ≤ h.bootver ∧ (∀ r, bit g.rev r = true → bit h.rev r = true) ∧
    ∀ r bs, tget g.rows r = some bs → tget h.rows r = some bs

/-- A `ctr` field after `n` more increments, with what moved it before in this fabric clock: all increments first, with saturation, then the
amounts that were written to it (R46, R47, R51, R77). -/
def counted (s : State) (f : FieldRef) (n : Nat) : Nat :=
  min ((ctrMoves s f).1 + ((ctrMoves s f).2.1 + n)) (2 ^ f.width - 1) - (ctrMoves s f).2.2

/-- The block goes on: the outcome is a next state. -/
def Goes (o : Host.Outcome State Fault Refusal) : Prop := ∃ t, o = .next t

/-- From `s` to `t`, RD_SYS has entered its reset by cause `c`: every stored field of a page is at its reset value; memory, flashes, fuses, the
Grotto, the Orangery and the test access port keep theirs; the Sundial starts anew, whatever the rate of its reference (R99, R100, R105). -/
def resetOf (s t : State) (c : RstCause) : Prop :=
  t.cru.inReset = true ∧ bit t.cru.causeNow c.bit = true ∧ (∀ f, fget t f = f.reset) ∧ t.mem = s.mem ∧ t.grt = s.grt ∧ t.orn = s.orn ∧
    t.tap = s.tap ∧ t.pending = s.pending ∧ t.dbg.flash = s.dbg.flash ∧ t.hrb.flash = s.hrb.flash ∧ t.gth.lc = s.gth.lc ∧
    t.gth.rows = s.gth.rows ∧ t.gth.rev = s.gth.rev ∧ t.gth.bootver = s.gth.bootver ∧ t.sdl = { refRate := s.sdl.refRate }

/-! ### Requests of mailboxes -/

/-- No window stops a 32-bit write by a master at an offset of the register space (R20, R398). -/
def unconfined (s : State) (mid o : Nat) : Bool := midClass mid != 2 || (guestCheck s mid (regBase + o) 4 .write).isNone

/-- A master may make requests of the mailbox at `a` (R16, R17, R49, R398). -/
def mayAsk (s : State) (mid a : Nat) : Bool :=
  match regAt a with
  | some l => allows .all l.page mid && allows l.desc.priv l.page mid && (List.range 16).all fun k => unconfined s mid (a + 4 * k)
  | none => false

/-- A master may write the block register at offset `o`, all its fields among them (R16, R17, R49, R398). -/
def mayWrite (s : State) (mid o : Nat) : Bool :=
  match regAt o with
  | some l => allows .all l.page mid && allows l.desc.priv l.page mid && unconfined s mid o && (isPriv mid || l.desc.fields.all fun f => !f.prv)
  | none => false

/-- A master may read the block register at offset `o` (R16, R17, R398). -/
def mayRead (s : State) (mid o : Nat) : Bool :=
  match regAt o with
  | some l => allows .all l.page mid && allows l.desc.priv l.page mid &&
      (midClass mid != 2 || (guestCheck s mid (regBase + o) 4 .read).isNone)
  | none => false

/-- A master may write the header of the page at `b` (R16, R398). -/
def mayHead (s : State) (mid b : Nat) : Bool :=
  match pageAtOff b with
  | some p => allows .all p mid && (List.range 16).all fun k => unconfined s mid (b + 4 * k)
  | none => false

/-- RD_SYS is out of reset, the master may make requests of the mailbox at `a`, and none is in progress (R53, R98). -/
def Free (s : State) (mid a : Nat) : Prop := s.cru.inReset = false ∧ mayAsk s mid a = true ∧ (mbxAt s a).busy = false

/-- The data words of a mailbox once a request has written `d` from _D0 (R55). -/
def dataAfter (old d : List Word) : List Word := ((d.take 12).zip (List.range 12)).foldl (fun o e => putWord o e.2 e.1.toNat) old

/-- The mailbox at `a` holds a request: ARG, OP and WRITE of _CMD, the data words, and the master; BUSY is 1, VALID and CODE are 0 (R53, R656). -/
def asks (s : State) (mid a op : Nat) (wr : Bool) (arg : Nat) (d : List Word) : State :=
  setMbx s a { mbxAt s a with arg := arg % 2 ^ 16, op := op, wr := wr, busy := true, valid := false, code := 0, mid := mid,
                              d := dataAfter (mbxAt s a).d d }

/-- What a request starts from: data words written first leave an empty response (R53, R55). -/
def written (s : State) (d : List Word) : State := if d = [] then s else respond s {}

/-- A read request, once it has completed with its data words: CODE 0, VALID 1, BUSY 0 (R54, R55). -/
def answered (s : State) (mid a op arg : Nat) (out : List Word) : State := respond (mbxAnswer (asks s mid a op false arg []) a 0 out) {}

/-- The state after a request that has had its effect, giving `u`, completes with a CODE (R54, R657). -/
def ended (u : State) (a code : Nat) : State := respond (mbxEnd u a code) {}

/-- Data word `i` of a request: of the words that it writes, else what the mailbox held. -/
def word (s : State) (a : Nat) (d : List Word) (i : Nat) : Nat := (if i < d.length then d.getD i 0 else (mbxAt s a).d.getD i 0).toNat

end Sys2Proof.Machine
end

