-- ==== Sys2Proof/WellFormed.lean ====
section
/-! DEFINITION. Well-formed commands: what a sender of the command can send, by the sizes that the spec gives to the data. -/

namespace Sys2Proof

/-- The data words of a mailbox are _D0 to _D11 (R53). -/
def dataOk (d : List Word) : Bool := decide (d.length ≤ 12)

/-- No element stands twice in a list. -/
def noTwice {α : Type} [DecidableEq α] : List α → Bool
  | [] => true
  | x :: l => !l.contains x && noTwice l

/-- A transaction moves at least one byte and stays below 2^48 (R20, R22). -/
def meshOk (a : Nat) : MeshOp → Bool
  | .read n => decide (1 ≤ n) && decide (a + n ≤ 2 ^ 48)
  | .fetch n => decide (1 ≤ n) && decide (a + n ≤ 2 ^ 48)
  | .write bytes => decide (1 ≤ bytes.length) && decide (a + bytes.length ≤ 2 ^ 48)

/-- A line is four codewords of 20 symbols, and a symbol is wrong once (R595). -/
def errsOk (errs : List (List (Fin 20))) : Bool := decide (errs.length ≤ 4) && errs.all noTwice

/-- The wrong symbols of one line. -/
def badOk (b : BadLine) : Bool := errsOk b.errs

/-- Join data name no alarm, slot twice, and an alarm by its seven words (R162, R460). -/
def joinOk : JoinData → Bool
  | .system _ _ _ alarms slots _ =>
    noTwice (alarms.map fun a => a.k) && (alarms.all fun a => decide (a.words.length ≤ 7)) && noTwice (slots.map fun x => x.k)
  | .pavilion _ _ _ _ _ _ => true

/-- The command is well formed: mailbox data by R53, a batch of samples by NREC and a buffer entry by R428, a record's arguments by R540. -/
def Instr.wf : Instr → Bool
  | .registerWrite _ _ _ => true
  | .pageEnable _ _ _ => true
  | .blockSoftReset _ _ => true
  | .pageLock _ _ => true
  | .pageUnlock _ _ => true
  | .counterAcknowledge _ _ _ => true
  | .bufferedWrite _ _ _ => true
  | .mailboxAck _ _ => true
  | .sysStrobe _ _ => true
  | .strobeApply => true
  | .sysStrobeTick _ _ => true
  | .strbAcknowledge _ => true
  | .meshTransaction _ addr op bad => meshOk addr.toNat op && bad.all badOk
  | .txBegin _ _ => true
  | .txClaim _ _ _ => true
  | .txStagedWrite _ _ _ => true
  | .txCommit _ _ => true
  | .txCommitAt _ _ _ => true
  | .txRollback _ _ => true
  | .txStoppedApply => true
  | .clkmonWindow _ _ => true
  | .clockStop _ => true
  | .pllLockLoss _ => true
  | .lanePllLock _ => true
  | .powerGoodRise => true
  | .powerGoodFall => true
  | .porstNLow => true
  | .porstNRise => true
  | .rdSysRelease => true
  | .cruSysrst _ _ => true
  | .systemResetStart => true
  | .systemWatchdogExpire => true
  | .watchdogKick _ => true
  | .cruPortRst _ _ => true
  | .linkUp _ => true
  | .debugReset => true
  | .supplyTrip _ _ => true
  | .ornRstNLow => true
  | .orangeryWatchdogExpire => true
  | .grottoReset => true
  | .tapReset => true
  | .crossingGroupReady _ => true
  | .eventChannelRequest _ => true
  | .eventChannelDeliver _ => true
  | .eventChannelAckComplete _ => true
  | .doutChannelCommand _ _ => true
  | .doutLatchApply => true
  | .sdlTimeNow _ => true
  | .sdlTimePpsin _ => true
  | .sdlAdjSet _ _ d => dataOk d
  | .sdlAdjStep _ _ d => dataOk d
  | .sdlAdjIncr _ _ d => dataOk d
  | .adjustApply => true
  | .tickGeneratorStart _ => true
  | .tickGeneratorStop _ => true
  | .sundialTickEdge => true
  | .fabricTickEdge times => noTwice (times.map fun e => e.1)
  | .baseRateChange => true
  | .ppsOutRise => true
  | .ppsOutFall => true
  | .tickOutFall => true
  | .ppsInEdge => true
  | .timestampRingPop _ _ => true
  | .launchLateDrop _ _ => true
  | .trackerUpdateTimeout => true
  | .holdoverTimeout => true
  | .sdlAngNow _ => true
  | .alarmArm _ _ d => dataOk d
  | .alarmCancel _ _ => true
  | .alarmRead _ _ => true
  | .alarmFire _ => true
  | .alarmPulseEnd _ => true
  | .frameReceive _ bytes _ _ => decide (1 ≤ bytes.length)
  | .pauseExpire _ => true
  | .dupEntryForget _ _ => true
  | .frameTransmit _ => true
  | .gateChange _ => true
  | .macGclSw _ _ d => dataOk d
  | .gclSwitch _ => true
  | .macExactWrite _ _ _ d => dataOk d
  | .macExactRead _ _ _ => true
  | .gpbStart _ _ => true
  | .gpbStop _ _ => true
  | .gpbPublish _ _ => true
  | .gpbRead _ _ => true
  | .gooseRetransmit _ => true
  | .gooseSubFrame => true
  | .gooseExpire _ => true
  | .gsbSubWrite _ _ d => dataOk d
  | .gsbSubRead _ _ => true
  | .gsbSubDisable _ _ => true
  | .gsbStateRead _ _ => true
  | .fdbAgeOut _ => true
  | .spillReadback _ => true
  | .resequenceTimeout _ _ _ => true
  | .hostTxFrame => true
  | .hostRxDeliver _ => true
  | .ringSizeWrite _ _ _ _ => true
  | .trlFdbWrite _ d => dataOk d
  | .trlFdbRead _ _ => true
  | .trlFdbDelete _ d => dataOk d
  | .trlFdbFlush _ => true
  | .svFrameIngest => true
  | .streamLostTimeout _ => true
  | .alignmentRelease _ => true
  | .sviDescWrite _ _ d => dataOk d
  | .sviDescRead _ _ => true
  | .sviDescDisable _ _ => true
  | .sviScntRead _ _ => true
  | .sviScntSub _ _ d => dataOk d
  | .cascadeProcessSet => true
  | .casSyncGo _ _ => true
  | .syncInEdge => true
  | .casRespCoef _ _ _ _ => true
  | .casRespInfo _ _ _ => true
  | .ltnTripWrite _ _ d => dataOk d
  | .ltnTripRead _ _ => true
  | .ltnTripDisable _ _ => true
  | .eventPost _ => true
  | .heldEventRetry _ => true
  | .bndPost _ _ d => dataOk d
  | .slotFill _ => true
  | .bndTake _ _ => true
  | .takeTimeout _ => true
  | .bndDone _ _ => true
  | .pavPost _ _ _ d => dataOk d
  | .lockstepMismatch u => match u with | .lanes differ => noTwice differ | _ => true
  | .cycPairReset _ _ => true
  | .cycNext _ _ => true
  | .cycDone _ _ _ _ => true
  | .checkpointComplete => true
  | .cycPvcmdExchange _ _ d => dataOk d
  | .cycPvcmdRestart _ _ d => dataOk d
  | .cycForceSet _ _ d => dataOk d
  | .cycForceClear _ _ d => dataOk d
  | .cycForceRead _ _ d => dataOk d
  | .pavReset _ _ => true
  | .pavilionResetComplete _ => true
  | .shareExhausted _ => true
  | .pavWdtExpire _ => true
  | .pavKick _ _ => true
  | .pavMigFreeze _ _ d => dataOk d
  | .pavMigSave _ _ d => dataOk d
  | .pavMigRestore _ _ d => dataOk d
  | .pavMigThaw _ _ d => dataOk d
  | .pavMigDiscard _ _ d => dataOk d
  | .saveComplete _ => true
  | .ftbControl _ _ => true
  | .ftbDigest _ _ _ _ => true
  | .ftbSample _ recs => decide (recs.length < 2 ^ 16)
  | .ftbEvent _ _ _ entry => decide (entry.length = 0 ∨ entry.length = 1040)
  | .ftbJoinData _ d => joinOk d
  | .controlKeepalive => true
  | .sampleBatchSend => true
  | .pairHbToggle => true
  | .pairHbInEdge => true
  | .heartbeatLoss => true
  | .footbridgeLoss => true
  | .heartbeatGooseSend => true
  | .partnerHeartbeatGoose _ bytes _ _ => decide (1 ≤ bytes.length)
  | .heartbeatGooseLoss => true
  | .digestMissing => true
  | .diagnosisEnd => true
  | .batchCut => true
  | .ftbTokenHandover _ d => dataOk d
  | .ftbTokenClaim _ d => dataOk d
  | .freezeTimeout => true
  | .revert => true
  | .pairListenEnd => true
  | .ftbJoin _ => true
  | .joinDataTimeout => true
  | .ftbDigLast _ => true
  | .ftbDigLastmis _ => true
  | .ftbDigLastmisIn _ => true
  | .tapWordReceive _ => true
  | .intervalCompute => true
  | .intervalBoundaryApply => true
  | .pulseEmit _ => true
  | .ornCircuit _ _ d => dataOk d
  | .ornCorrCh _ _ d => dataOk d
  | .ornCorrQ _ _ d => dataOk d
  | .ornPulseAssign _ _ d => dataOk d
  | .ornParam _ _ d => dataOk d
  | .ornOpen _ _ d => dataOk d
  | .ornClose _ => true
  | .ornFwload _ _ d => dataOk d
  | .ornFwact _ _ d => dataOk d
  | .ornKeyload _ _ d => dataOk d
  | .ornSave _ => true
  | .ornDiagclr _ _ => true
  | .ornEnergyA _ _ _ => true
  | .ornEnergyR _ _ _ => true
  | .ornInstant _ _ _ => true
  | .ornId _ _ => true
  | .ornChallenge _ _ => true
  | .ornCircuitRead _ _ _ => true
  | .ornCorrRead _ _ _ _ => true
  | .ornPulseRead _ _ _ => true
  | .ornParamRead _ _ => true
  | .ornAudit _ _ _ => true
  | .ornLosshdr _ _ _ => true
  | .ornLosscir _ _ _ => true
  | .ornDiag _ _ _ => true
  | .orangeryStart _ => true
  | .sealPinChange _ => true
  | .sealTimeout => true
  | .lockoutEnd => true
  | .oscillatorTrim _ => true
  | .triggerTimeout _ => true
  | .mirrorFrameRecord => true
  | .captureClose _ => true
  | .blvCgTrig _ _ => true
  | .blvCgRel _ _ _ => true
  | .maskTableLoad _ => true
  | .rateHalvingStep => true
  | .rateRestoreStep => true
  | .blvSrcWrite _ _ d => dataOk d
  | .blvSrcRead _ _ => true
  | .blvSrcDisable _ _ => true
  | .herbariumEvent type _ args => decide (args.length ≤ 6) && decide (type.toNat < 4096)
  | .recordCloseTimeout => true
  | .flashProgramDone _ => true
  | .flashEraseDone _ => true
  | .hrbFreeze _ => true
  | .hrbUnfreeze _ => true
  | .herbariumScan => true
  | .hrbRead _ _ => true
  | .hrbSnapSet _ _ d => dataOk d
  | .hrbSnapSethi _ _ d => dataOk d
  | .hrbSnapSetlast _ _ d => dataOk d
  | .hrbSnapRead _ _ => true
  | .hrbLog _ _ d => dataOk d
  | .rootBirthComplete => true
  | .entropyHealthFail => true
  | .gthKeyWrite _ _ d => dataOk d
  | .gthKeyRead _ _ => true
  | .gthKeyRevoke _ _ => true
  | .gthKeyErase _ _ => true
  | .gthKeyLifecycle _ _ d => dataOk d
  | .gthKeyMetroload _ _ => true
  | .gthKeyFusekey _ _ d => dataOk d
  | .gthKeyFuserev _ _ d => dataOk d
  | .gthKeyBootver _ _ d => dataOk d
  | .keyStoreValid => true
  | .keyStoreLoad => true
  | .gthReqGmac _ _ _ d => dataOk d
  | .gthReqGmacchk _ _ _ d => dataOk d
  | .gthReqHmac _ _ _ d => dataOk d
  | .gthReqVerify _ _ _ d => dataOk d
  | .gthReqSealtag _ _ _ d => dataOk d
  | .gthDbgChallenge _ => true
  | .gthDbgUnlock _ _ d => dataOk d
  | .dramScrubStep _ errs => errsOk errs
  | .onchipScrubStep _ _ _ _ => true
  | .registerSweep fixed lost _ => noTwice fixed && noTwice lost
  | .gatehouseMemoryCompare fixed lost cache => noTwice fixed && noTwice lost && noTwice cache
  | .backgroundLate _ => true
  | .memMarkset _ _ => true
  | .telemetrySend => true
  | .calendarSecond => true
  | .opsecIncrement => true
  | .tamperDetect _ => true
  | .grtTimeNow _ => true
  | .grtScrread _ _ => true
  | .grtSetcal _ d => dataOk d
  | .grtTampclr _ => true
  | .grtScrwrite _ _ d => dataOk d
  | .grtRstclr _ => true
  | .dinLevelAccept _ => true
  | .bootImageSelect _ _ => true
  | .dbgBootGo _ _ _ => true
  | .dbgBflRead _ _ => true
  | .dbgBflProgram _ d _ => dataOk d
  | .dbgBflErase _ _ => true
  | .dbgDout _ _ _ => true
  | .tapExtest _ _ => true
  | .tapSamplePreload _ _ => true
  | .tapIdcode => true
  | .tapClamp => true
  | .tapHighz => true
  | .tapExtestPulse _ _ => true
  | .tapExtestTrain _ _ => true
  | .tapDbgacc addr op bad => meshOk addr.toNat op && bad.all badOk
  | .tapBypass => true
  | .tapPrivate => true
  | .pllLocked _ => true
  | .linkDown _ => true
  | .supplyRestore _ => true
  | .vbatLow _ => true
  | .entropyHealthPass => true
  | .syncOutFall => true
  | .shadowRefresh _ => true
  | .dinSample _ => true
  | .dramTrainingComplete _ => true

end Sys2Proof
end

