-- ==== Sys2Proof/Certificates/Slice0/Obligations.lean ====
section
/-! DEFINITION. The statements about the block, each from rules of the spec. -/

open Sys2Proof Sys2Proof.Machine

/-! ### The machine as a whole -/

/-- The state after reset: RD_SYS is released from its first start (R626), every stored field is at its reset value (R46), no mailbox is busy
or valid (R53, R656), every transaction slot is IDLE (R66), the counts of R626 are 0, PCYC is 1, and no command waits. -/
def Obligations.ResetState : Prop :=
  (∀ f, fget State.reset f = f.reset) ∧ (∀ a, (mbxAt State.reset a).busy = false ∧ (mbxAt State.reset a).valid = false ∧
    (mbxAt State.reset a).op = 0 ∧ (mbxAt State.reset a).arg = 0 ∧ (mbxAt State.reset a).wr = false) ∧
  (∀ n, (txSlot State.reset n).phase = .idle) ∧ State.reset.cru.inReset = false ∧ State.reset.sdl.raw = 0 ∧ State.reset.sdl.fab = 0 ∧
  State.reset.sdl.gen = .stopped ∧ State.reset.grt.pcyc = 1 ∧ State.reset.pending = [] ∧
  (∀ page, enabled State.reset page = true ↔ page / 0x100000 ∈ [0, 1, 0xD, 0xF, 0x10, 0x11])

/-- The invariant holds of the state after reset. -/
def Obligations.ResetInvariant : Prop := State.reset.Inv

/-- A step carries out the command at the front of the queue on the state with the rest of the queue. -/
def Obligations.StepRunsFront : Prop := ∀ (c : Instr) (rest : List Instr) (s : State), step { s with pending := c :: rest } = exec c { s with pending := rest }

/-- With no command waiting and RD_SYS out of reset, one nanosecond passes (log 1): the fabric count rises by 1 and the raw count, unless its
clock is stopped, by the whole cycles of REFCLK_SDS that its rate gives, the fraction being kept (R81, R114). With no frame on the wire, no post
held for this clock (R336), no batch event waiting for its admission (R438) and no cell in the Trellis (R232) nothing else changes but the Grotto's and the
Orangery's clocks. -/
def Obligations.IdleStep : Prop :=
  ∀ s : State, s.pending = [] → s.cru.inReset = false → (∀ m < 16, (portOf s m).sending = none) →
    s.bnd.waits = [] → s.ftb.toAdmit = [] → s.trl.stage = [] →
    ∃ t, step s = .next t ∧ t = { s with sdl := t.sdl, grt := t.grt, orn := t.orn } ∧
      t.sdl = { s.sdl with
        raw := if bit s.cru.stopped 6 then s.sdl.raw else (s.sdl.raw + (s.sdl.refPart + s.sdl.refRate) / 2 ^ 32) % 2 ^ 64
        refPart := if bit s.cru.stopped 6 then s.sdl.refPart else (s.sdl.refPart + s.sdl.refRate) % 2 ^ 32
        fab := (s.sdl.fab + 1) % 2 ^ 64 } ∧
      t.orn.clk = (if bit s.cru.rails 9 then s.orn.clk else s.orn.clk + 1) ∧ t.grt.sec = s.grt.sec

/-- Whatever the command, memory that is in its canonical form stays in it. -/
def Obligations.MemoryStaysCanonical : Prop := ∀ s t : State, s.Inv → step s = .next t → t.Inv

/-- Whatever the command, the fuses only go forward: the lifecycle (R560), a programmed row of boot keys, a revoke bit and the anti-rollback
count (R582). -/
def Obligations.FusesOnlyGrow : Prop := ∀ s t : State, step s = .next t → fusesGrow s.gth t.gth

/-- A step takes at most the command at the front of the queue and adds none. -/
def Obligations.QueueShrinks : Prop := ∀ s t : State, step s = .next t → t.pending = s.pending.tail

/-- While RD_SYS is in reset, a write of a register and a request of a mailbox change nothing (R98, log 71). -/
def Obligations.HeldInReset : Prop :=
  ∀ (s : State) (mid : Mid) (off : BitVec 26) (page arg : BitVec 16) (v : Word) (addr : BitVec 48) (op : MeshOp) (bad : List BadLine) (d : List Word),
    s.cru.inReset = true → ∀ c ∈ [Instr.registerWrite mid off v, .meshTransaction mid addr op bad, .pageLock mid page, .bufferedWrite mid off v,
      .sdlTimeNow mid, .sdlAdjSet mid arg d, .gthKeyWrite mid arg d, .ornOpen mid arg d, .grtSetcal mid d], exec c s = .next s

/-- While BUSY of a mailbox is 1, writes to its _CMD, its _ACK and its data words are ignored and counted in PG_WIGN. A GO issued while VALID is 1
clears VALID and starts the new request: _CMD holds its ARG, OP and WRITE, BUSY is 1, and the request runs from there (R56). -/
def Obligations.BusyMailbox : Prop :=
  ∀ (s : State) (mid : Mid) (off : BitVec 26) (v : Word) (l : RegLoc), s.cru.inReset = false → mayWrite s mid.toNat (4 * off.toNat) = true →
    regAt (4 * off.toNat) = some l → l.desc.mbx = true →
    ((mbxAt s l.addr).busy = true → l.sub ≠ 4 → l.sub ≠ 12 → exec (.registerWrite mid off v) s = .next (respond (wign s l.page.base) {})) ∧
    ((mbxAt s l.addr).busy = false → (mbxAt s l.addr).valid = true → l.sub = 0 → bit v.toNat 0 = true →
      exec (.registerWrite mid off v) s = .next (respond (mbxGo true l (setMbx s l.addr { mbxAt s l.addr with
        arg := v.toNat / 2 ^ 16, op := bits v.toNat 15 8, wr := bit v.toNat 1, busy := true, valid := false, code := 0, mid := mid.toNat })) {}))

/-- A write by an unprivileged master to a register qualified `prv` is ignored and counted in PG_WIGN (R49). -/
def Obligations.UnprivilegedWrite : Prop :=
  ∀ (s : State) (mid : Mid) (off : BitVec 26) (v : Word) (l : RegLoc), s.cru.inReset = false → regAt (4 * off.toNat) = some l →
    l.desc.priv = .prv → isPriv mid.toNat = false → allows .all l.page mid.toNat = true → unconfined s mid.toNat (4 * off.toNat) = true →
    exec (.registerWrite mid off v) s = .next (respond (wign s l.page.base) {})

/-! ### Register pages, strobes, the mesh and transactions -/
/-! ### Register pages, strobes, the mesh and transactions -/

/-- Header commands (R36, R39, R40, R43, R44, R49). A write of EN puts it in force on an unlocked page, and is ignored and counted where a locked
page holds another value; VIEW stands. SRST from a privileged master runs the block's soft reset, from another it is ignored and counted. LOCK and
UNLOCK set and clear the lock for the masters that may; a LOCK of a claimed page, and either from a master that may not, is ignored and counted.
PG_IEN takes the word written and nothing else changes. -/
def Obligations.PageHeaderCommands : Prop :=
  ∀ (s : State) (mid : Mid) (page : BitVec 16) (p : PageLoc), pageAtOff (page.toNat * 0x1000) = some p → s.cru.inReset = false →
    mayHead s mid.toNat (page.toNat * 0x1000) = true →
    (∀ on : Bool, locked s p.base = false →
      exec (.pageEnable mid page on) s = .next (respond (setEnable (fset s (hView p.base) (fget s (hView p.base) % 2)) p on) {})) ∧
    (∀ on : Bool, p.kind.blk ∈ [Block.sys, .cru, .orn, .mem, .grt, .dbg, .pav] →
      enabled (setEnable (fset s (hView p.base) (fget s (hView p.base) % 2)) p on) p.base = on) ∧
    (∀ on : Bool, locked s p.base = true → exec (.pageEnable mid page on) s =
      .next (respond (fset (if enabled s p.base = on then s else wign s p.base) (hView p.base) (fget s (hView p.base) % 2)) {})) ∧
    (isPriv mid.toNat = true → exec (.blockSoftReset mid page) s = .next (respond (softReset (wscNote (srstBegin
      (fset s (hView p.base) (fget s (hView p.base) % 2)) p.base) (p.base + 0x0C) 2) p) {})) ∧
    (isPriv mid.toNat = false → exec (.blockSoftReset mid page) s =
      .next (respond (fset (wign s p.base) (hView p.base) (fget s (hView p.base) % 2)) {})) ∧
    exec (.pageLock mid page) s = .next (respond (if isPriv mid.toNat = false then wign s p.base else if locked s p.base = true then s else
      if (claimedBy s p.base).isSome then wign s p.base else fset s (hLock p.base) 1) {}) ∧
    exec (.pageUnlock mid page) s = .next (respond (if midClass mid.toNat = 0 ∨ midClass mid.toNat = 5 then fset s (hLock p.base) 0
      else wign s p.base) {}) ∧
    (∀ (off : BitVec 26) (data : Word), 4 * off.toNat = page.toNat * 0x1000 + 0x14 →
      exec (.registerWrite mid off data) s = .next (respond (fset s (hIen p.base) data.toNat) {}))


/-- Writes of block registers (R43, R46, R50, R54, R56, R59, R77). A `rw` field takes its value; on a locked page the write is ignored and counted. A
`ctr` field comes to its increments of the clock first, with saturation, then what is written comes off with a floor of zero, and no other field
moves. A `wbf` field keeps its active value, and the word pends in place of an unsent one; on a locked page it is ignored and counted. An
acknowledge of an idle mailbox clears VALID; one of a busy mailbox is ignored and counted. -/
def Obligations.FieldWrites : Prop :=
  ∀ (s : State) (mid : Mid), s.cru.inReset = false →
    (∀ (off : BitVec 26) (v : Word), 4 * off.toNat = Fld.SYS_SCRATCH_V.addr → mayWrite s mid.toNat (4 * off.toNat) = true →
      claimedBy s 0 = none → exec (.registerWrite mid off v) s =
        .next (respond (if locked s 0 = true then wign s 0 else fset s Fld.SYS_SCRATCH_V v.toNat) {})) ∧
    (∀ (off : BitVec 26) (v : Word) (l : RegLoc) (f : FieldDesc), mayWrite s mid.toNat (4 * off.toNat) = true → regAt (4 * off.toNat) = some l →
      l.desc.fields = [f] → f.acc = .ctr →
      exec (.counterAcknowledge mid off v) s = .next (respond (csub s (refOf l f) (bits v.toNat f.hi f.lo)) {}) ∧
      (fget (csub s (refOf l f) (bits v.toNat f.hi f.lo)) (refOf l f) = satAdd (refOf l f).width (ctrMoves s (refOf l f)).1 (ctrMoves s (refOf l f)).2.1 -
        ((ctrMoves s (refOf l f)).2.2 + bits v.toNat f.hi f.lo)) ∧
      (∀ g, fkey g ≠ fkey (refOf l f) → fget (csub s (refOf l f) (bits v.toNat f.hi f.lo)) g = fget s g)) ∧
    (∀ (off : BitVec 26) (v : Word) (l : RegLoc), mayWrite s mid.toNat (4 * off.toNat) = true → regAt (4 * off.toNat) = some l →
      writable l [.wbf] mid.toNat ≠ [] → writable l [.rw, .wsc, .ctr] mid.toNat = [] →
      claimedBy s l.page.base = none → exec (.bufferedWrite mid off v) s = .next (respond (if locked s l.page.base = true then wign s l.page.base else
        { s with reg := { s.reg with pend := (s.reg.pend.filter fun x => x.addr != l.addr || x.sent != 0) ++
          [{ addr := l.addr, val := pendWord s l mid.toNat v.toNat, acc := s.sdl.fab }] } }) {})) ∧
    (∀ (a : BitVec 22) (l : RegLoc), mayAsk s mid.toNat (64 * a.toNat) = true → regAt (64 * a.toNat) = some l → l.desc.mbx = true →
      exec (.mailboxAck mid a) s = .next (respond (if (mbxAt s (64 * a.toNat)).busy = true then wign s l.page.base else
        setMbx s (64 * a.toNat) { mbxAt s (64 * a.toNat) with valid := false }) {}))

/-- Strobes (R46, R60 to R64, R92, R96, R97). SYS_STROBE and SYS_STROBE_TICK schedule each group written. When the clock of a strobe has come, the values
that pend on pages of its groups, accepted before this clock and in no earlier strobe, become active together and pend no longer; those of slower
domains are sent together, and stay pending; every other value stays as it is. Each field of a Bandstand queue so takes its clamped value. A
slower domain takes the strobe in flight into it, the first that it has not acknowledged, whole: its values become active and pend no longer. -/
def Obligations.Strobes : Prop :=
  ∀ (s : State), s.cru.inReset = false →
    (∀ (mid : Mid) (gs : BitVec 16), mayWrite s mid.toNat 0x44 = true → exec (.sysStrobe mid gs) s = .next (respond { s with reg := {
      (if gs.toNat = 0 then s else wscNote s 0x44 gs.toNat).reg with
        strobes := s.reg.strobes ++ (bitsOf gs.toNat 16).map fun g => (g, s.sdl.fab + 32) } } {})) ∧
    (∀ (mid : Mid) (gs : BitVec 16), mayWrite s mid.toNat 0x48 = true → exec (.sysStrobeTick mid gs) s = .next (respond { s with reg := {
      (if gs.toNat = 0 then s else wscNote s 0x48 gs.toNat).reg with
        armed := s.reg.armed ++ (bitsOf gs.toNat 16).map fun g => (g, s.sdl.fab + 1000) } } {})) ∧
    ((s.reg.strobes.filter fun e => decide (e.2 ≤ s.sdl.fab)) = [] → exec .strobeApply s = .next s) ∧
    (∀ gs : List Nat, gs = (s.reg.strobes.filter fun e => decide (e.2 ≤ s.sdl.fab)).map (·.1) → gs ≠ [] → exec .strobeApply s = .next (
      let hit (e : PendEntry) : Bool := gs.any (fun g => fget s (hGrp (pageBase e.addr)) == g) && decide (e.acc < s.sdl.fab) && e.sent == 0
      applyBatch { s with reg := { s.reg with
          strobes := s.reg.strobes.filter fun e => !decide (e.2 ≤ s.sdl.fab)
          strbNo := s.reg.strbNo + 1
          pend := (s.reg.pend.filter fun e => !(hit e && !slowReg e.addr)).map fun e => if hit e then { e with sent := s.reg.strbNo + 1 } else e } }
        [.wbf] ((s.reg.pend.filter fun e => hit e && !slowReg e.addr).map PendEntry.write))) ∧
    (∀ (t : State) (e : PendEntry) (l : RegLoc), regAt e.addr = some l → l.desc.name ∈ [Reg.bnd .BND_Q_CFG, .bnd .BND_Q_LIM] →
      applyBatch t [.wbf] [e.write] = l.desc.fields.foldl (fun t f => fset t (refOf l f) (clampTo f.min f.max (bits e.val f.hi f.lo)))
        (noteApplied t [e.addr])) ∧
    (∀ off : BitVec 26, strobeInFlight s (4 * off.toNat) = none → exec (.strbAcknowledge off) s = .next s) ∧
    (∀ (off : BitVec 26) (k : Nat), strobeInFlight s (4 * off.toNat) = some k → exec (.strbAcknowledge off) s = .next (
      let taken (e : PendEntry) : Bool := sameDomain (4 * off.toNat) e.addr && e.sent == k
      applyBatch { s with reg := { s.reg with pend := s.reg.pend.filter fun e => !taken e } } [.wbf] ((s.reg.pend.filter taken).map PendEntry.write))) ∧
    (∀ (t : State) (m : Fin 16) (e : PendEntry), e.addr = (Fld.MAC_MAXLEN_LEN m.val).addr → applyBatch t [.wbf] [e.write] =
      fset (noteApplied t [e.addr]) (Fld.MAC_MAXLEN_LEN m.val) (clampTo 1518 9600 (bits e.val 13 0)))

/-- BEGIN (R46, R67): the command bit is noted as set; an IDLE slot becomes OPEN, owned by the master, without staging or claims; on a slot that is not IDLE, BEGIN is ignored and
counted. -/
def Obligations.BeginOpensSlot : Prop :=
  ∀ (s : State) (mid : Mid) (n : Fin 4), s.cru.inReset = false → mayWrite s mid.toNat (0x1040 + 0x20 * n.val) = true →
    ((txSlot s n.val).phase = .idle → exec (.txBegin mid n) s = .next (respond (setTx (wscNote s (0x1040 + 0x20 * n.val) 1) n.val { txSlot s n.val with
      phase := .opened, owner := mid.toNat, err := 0, nstaged := 0, claims := [], staging := [], overflow := false }) {})) ∧
    ((txSlot s n.val).phase ≠ .idle → exec (.txBegin mid n) s = .next (respond (wign (wscNote s (0x1040 + 0x20 * n.val) 1) 0x1000) {}))

/-- The owner's commands to an OPEN slot (R68 to R75): a claim enters the slot, a write to a claimed page enters staging in place of an earlier
one to the register, COMMIT and COMMIT_AT arm the slot or fail it, ROLLBACK closes it. -/
def Obligations.TransactionCommands : Prop :=
  ∀ (s : State) (mid : Mid) (n : Fin 4), s.cru.inReset = false → (txSlot s n.val).phase = .opened → (txSlot s n.val).owner = mid.toNat →
    (∀ (page : BitVec 16) (p : PageLoc), mayWrite s mid.toNat (0x1044 + 0x20 * n.val) = true → pageAtOff (page.toNat * 0x1000) = some p →
      p.kind.txn = true → claimedElsewhere s n.val page.toNat = false → pendCount s (page.toNat * 0x1000) = 0 →
      page.toNat ∉ (txSlot s n.val).claims → (txSlot s n.val).claims.length < 512 → exec (.txClaim mid n page) s =
        .next (respond (setTx s n.val { txSlot s n.val with claims := (txSlot s n.val).claims ++ [page.toNat] }) {})) ∧
    (∀ (off : BitVec 26) (v : Word) (l : RegLoc), mayWrite s mid.toNat (4 * off.toNat) = true → regAt (4 * off.toNat) = some l →
      l.page.kind.txn = true → claimedBy s l.page.base = some n.val → locked s l.page.base = false →
      writable l [.rw, .wbf] mid.toNat ≠ [] → writable l [.wsc, .ctr] mid.toNat = [] →
      ((∀ w ∈ (txSlot s n.val).staging, w.addr ≠ l.addr) → (txSlot s n.val).staging.length < 4096 → exec (.txStagedWrite mid off v) s =
        .next (respond (setTx s n.val { txSlot s n.val with
          staging := (txSlot s n.val).staging ++ [⟨l.addr, v.toNat, mid.toNat⟩], nstaged := (txSlot s n.val).staging.length + 1 }) {})) ∧
      ((∃ w ∈ (txSlot s n.val).staging, w.addr = l.addr) → exec (.txStagedWrite mid off v) s = .next (respond (setTx s n.val { txSlot s n.val with
        staging := (txSlot s n.val).staging.map fun w => if w.addr = l.addr then ⟨l.addr, v.toNat, mid.toNat⟩ else w }) {}))) ∧
    (mayWrite s mid.toNat (0x1040 + 0x20 * n.val) = true →
      exec (.txCommit mid n) s = .next (respond (
        if (txSlot s n.val).overflow then failTx (wscNote s (0x1040 + 0x20 * n.val) 2) n.val (some 5)
        else setTx (wscNote s (0x1040 + 0x20 * n.val) 2) n.val { txSlot s n.val with
          phase := .armed, target := if genActive s then .edge (s.sdl.fab + 1000) else .clock (s.sdl.fab + 32) }) {}) ∧
      exec (.txRollback mid n) s = .next (respond (closeTx (wscNote s (0x1040 + 0x20 * n.val) 8) n.val 2) {})) ∧
    (∀ (tick : Word), mayWrite s mid.toNat (0x1040 + 0x20 * n.val) = true → mayWrite s mid.toNat (0x1048 + 0x20 * n.val) = true →
      locked s 0x1000 = false → claimedBy s 0x1000 = none → (txSlot s n.val).overflow = false →
      exec (.txCommitAt mid n tick) s = .next (respond (
        let held := wscNote (fset s (Fld.SYS_TX_AT_TICK n.val) tick.toNat) (0x1040 + 0x20 * n.val) 4
        match tickInProgress s with
        | none => failTx held n.val (some 8)
        | some k =>
          let d := (tick.toNat + 2 ^ 32 - k % 2 ^ 32) % 2 ^ 32
          if d = 0 ∨ 2 ^ 31 < d ∨ clocksToEdge s (d - 1) < 1000 then failTx held n.val (some 6)
          else setTx held n.val { txSlot s n.val with phase := .armed, target := .tick (k + d) }) {})) 

/-- A COMMIT taken while the generator is stopped (R72, R73): at its clock the staged writes take effect, each field clamped, and the slot is
IDLE without claims, LAST COMMITTED and DONE all ones. -/
def Obligations.StoppedCommitApplies : Prop :=
  ∀ (s : State) (n : Fin 4) (c : Nat) (w : Staged) (l : RegLoc), s.cru.inReset = false →
    (∀ k < 4, k ≠ n.val → (txSlot s k).phase ≠ .armed) → (txSlot s n.val).phase = .armed → (txSlot s n.val).target = .clock c →
    c ≤ s.sdl.fab → (txSlot s n.val).staging = [w] → regAt w.addr = some l →
    l.desc.name ∈ [Reg.bnd .BND_Q_CFG, .bnd .BND_Q_LIM] →
    exec .txStoppedApply s = .next (setTx (l.desc.fields.foldl (fun t f => fset t (refOf l f) (clampTo f.min f.max (bits w.val f.hi f.lo)))
        (noteApplied { s with reg := { s.reg with strbNo := s.reg.strbNo + 1 } } [w.addr])) n.val
      { txSlot s n.val with phase := .idle, last := 1, claims := [], staging := [], overflow := false, done := 2 ^ 32 - 1 })

/-- Transactions by a master that no window confines (R20 to R23, R26, R33, R598). A write of DRAM or SRAM stores its bytes where they lie and
nothing else; with a poisoned line anywhere it clears the poison of the lines it covers whole and counts each it covers in part. A read or fetch
first decodes the DRAM lines that the operand gives wrong symbols; it then answers the bytes stored, or, with a poisoned line among them, an error.
An access that nothing decodes is counted and answers an error (of a write too, the model's choice, log 5). In the register space an
aligned word or pair of words reads as its registers show, each field by its access code (R46, R51, R52), a write of an aligned word is that of the
register commands, other widths are refused, a fetch is refused (the model's choice, log 5), and where no
page is a read answers zeros and a write is ignored, both counted. The boot ROM answers free words to the masters that may read it (log 70). -/
def Obligations.MemoryTransactions : Prop :=
  ∀ (s : State) (mid : Mid) (addr : BitVec 48) (bad : List BadLine), s.cru.inReset = false → midClass mid.toNat ≠ 2 → s.Inv →
    (∀ bs : List Byte, memExists s addr.toNat bs.length = true → addr.toNat + bs.length < regBase → s.integ.poison = [] →
      ∃ t, exec (.meshTransaction mid addr (.write bs) bad) s = .next t ∧ t = { s with mem := t.mem, reg := { s.reg with resp := {} } } ∧
        ∀ a, Memory.read t.mem a = if addr.toNat ≤ a ∧ a < addr.toNat + bs.length then bs.getD (a - addr.toNat) 0 else Memory.read s.mem a) ∧
    (∀ bs : List Byte, memExists s addr.toNat bs.length = true → addr.toNat + bs.length < regBase → s.integ.poison ≠ [] →
      ∃ t, exec (.meshTransaction mid addr (.write bs) bad) s = .next (respond t {}) ∧
        t.integ.poison = s.integ.poison.filter (fun l => !(wholeLines addr.toNat bs.length).contains l) ∧
        (∀ a, Memory.read t.mem a = if addr.toNat ≤ a ∧ a < addr.toNat + bs.length ∧
            ¬ (a / 64 ∈ s.integ.poison ∧ a / 64 ∉ wholeLines addr.toNat bs.length) then bs.getD (a - addr.toNat) 0 else Memory.read s.mem a) ∧
        t.reg = (cadd s Fld.MEM_POISONW_COUNT ((linesOf addr.toNat bs.length).filter fun l =>
          s.integ.poison.contains l && !(wholeLines addr.toNat bs.length).contains l).length).reg) ∧
    (∀ n, memExists s addr.toNat n = true → addr.toNat + n < regBase → ∀ op ∈ [MeshOp.read n, .fetch n], ∀ t,
      t = (if addr.toNat < sramBase then decodeLines s mid.toNat addr.toNat (bad.filter fun b => decide (addr.toNat / 64 + b.line ≤ (addr.toNat + n - 1) / 64))
        else s) →
      (poisonedIn t addr.toNat n = none → exec (.meshTransaction mid addr op bad) s = .next (respond t { data := respWords (rdBytes s addr.toNat n) })) ∧
      (∀ l, poisonedIn t addr.toNat n = some l → exec (.meshTransaction mid addr op bad) s = .next (errorResp (noteUE t l mid.toNat false)))) ∧
    (∀ op : MeshOp, memExists s addr.toNat (opLen op) = false → ¬ (regBase ≤ addr.toNat ∧ addr.toNat < regBase + 0x10000000) →
      ¬ (romBase ≤ addr.toNat ∧ addr.toNat + opLen op ≤ romBase + 0x40000) →
      exec (.meshTransaction mid addr op bad) s = .next (errorResp (decErr s mid.toNat))) ∧
    (∀ off : Nat, addr.toNat = regBase + off → off < 0x10000000 →
      (∀ n, exec (.meshTransaction mid addr (.fetch n) bad) s = .next (errorResp (decErr s mid.toNat))) ∧
      (pageAtOff off = none → (∀ n, exec (.meshTransaction mid addr (.read n) bad) s =
          .next (respond (decErr s mid.toNat) { data := leWords ((n + 3) / 4) 0 })) ∧
        ∀ bs : List Byte, exec (.meshTransaction mid addr (.write bs) bad) s = .next (respond (decErr s mid.toNat) {})) ∧
      (pageAtOff off ≠ none → ∀ op : MeshOp, ¬ ((opLen op = 4 ∨ opLen op = 8) ∧ off % opLen op = 0) →
        exec (.meshTransaction mid addr op bad) s = .next (errorResp (decErr s mid.toNat))) ∧
      (pageAtOff off ≠ none → off % 4 = 0 → (∀ l, regAt off = some l → l.desc.name ∉ [Reg.bnd .BND_TAKE, .cyc .CYC_PR_NEXT]) →
        exec (.meshTransaction mid addr (.read 4) bad) s = .next (respond (drew s) { data := [w32 (peek s mid.toNat off)] }) ∧
        (off % 8 = 0 → (∀ l, regAt (off + 4) = some l → l.desc.name ∉ [Reg.bnd .BND_TAKE, .cyc .CYC_PR_NEXT]) →
          exec (.meshTransaction mid addr (.read 8) bad) s =
            .next (respond (drew (drew s)) { data := [w32 (peek s mid.toNat off), w32 (peek (drew s) mid.toNat (off + 4))] }))) ∧
      (∀ (l : RegLoc) (f : FieldDesc), regAt off = some l → off % 4 = 0 → 0x40 ≤ off % 0x1000 → l.desc.mbx = false → l.desc.fields = [f] → f.prv = false →
        allows .all l.page mid.toNat = true → allows l.desc.priv l.page mid.toNat = true → regPresent l = true → fget s (hView l.page.base) = 0 →
        peek s mid.toNat off = kpRead s off (kpMask [f]) + 2 ^ f.lo * (match f.acc with
          | .rw | .wbf => fget s (refOf l f)
          | .ctr => (ctrMoves s (refOf l f)).1 - (ctrMoves s (refOf l f)).2.2
          | .ro => bits (hwWord l.desc.name l.page.j l.i s) f.hi f.lo
          | .rsh => bits (shadowRead s off (f.reset * 2 ^ f.lo)) f.hi f.lo
          | .wsc => bits (wscRead s off) f.hi f.lo
          | .mbx | .zero => 0)) ∧
      (∀ (r : BitVec 26) (v : Word), off = 4 * r.toNat →
        exec (.meshTransaction mid addr (.write ((leBytes 4 v.toNat).map (BitVec.ofNat 8))) bad) s = exec (.registerWrite mid r v) s)) ∧
    (∀ n, romBase ≤ addr.toNat → addr.toNat + n ≤ romBase + 0x40000 → midClass mid.toNat = 0 ∨ midClass mid.toNat = 4 →
      ∀ op ∈ [MeshOp.read n, .fetch n], exec (.meshTransaction mid addr op bad) s =
        .next (respond (drew s) { data := leWords ((n + 3) / 4) (drawn (8 * n) s) }))

/-- A guest transaction outside its pavilion's windows and page is not performed, answers an error and is the pavilion's error; while the
pavilion is fenced it is counted in PAV_FENCED (R20, R398, R663). -/
def Obligations.GuestConfinement : Prop :=
  ∀ (s : State) (mid : Mid) (addr : BitVec 48) (op : MeshOp) (bad : List BadLine), s.cru.inReset = false → midClass mid.toNat = 2 →
    midIndex mid.toNat < 1024 →
    (fenced s (midIndex mid.toNat) = true →
      exec (.meshTransaction mid addr op bad) s = .next (errorResp (cinc s (Fld.PAV_FENCED_COUNT (midIndex mid.toNat))))) ∧
    (fenced s (midIndex mid.toNat) = false → inWindow s (midIndex mid.toNat) addr.toNat (opLen op) (opPerm op) = false →
      opPerm op = .fetch ∨ ownPage (midIndex mid.toNat) addr.toNat (opLen op) = false →
      exec (.meshTransaction mid addr op bad) s = .next (errorResp (pavError s (midIndex mid.toNat) 0 mid.toNat addr.toNat)))

/-! ### Clocks, resets, supplies and crossings -/

/-- Clock monitors and PLLs (R106 to R111): the second window in a row outside the limit, or a stop, raises the monitor's bit, which counts in
CRU_CLKMON_EVT and in its fault class, and holds RD_SYS in reset for SYSCLK and the fabric clocks; the second window in a row within the limit
clears it; a loss of lock shows at once and starts the measurement of the clock that the PLL drives, and a lock shows at once. -/
def Obligations.ClockMonitors : Prop :=
  ∀ (s : State) (m : ClkMon), monWorks s (monIndex m) = true → s.cru.inReset = false →
    (bit s.cru.monOut (monIndex m) = true → bit s.cru.mon (monIndex m) = false →
      ∃ t, exec (.clkmonWindow m true) s = .next t ∧
        (monIndex m ∈ [0, 2, 3, 4] → t.cru.inReset = true ∧ bit t.cru.mon (monIndex m) = true) ∧
        (monIndex m ∉ [0, 2, 3, 4] → t = raiseFault (cinc { s with cru := { s.cru with
          monOut := setBit s.cru.monOut (monIndex m), monIn := clrBit s.cru.monIn (monIndex m), mon := setBit s.cru.mon (monIndex m) } } Fld.CRU_CLKMON_EVT_COUNT) (monClass (monIndex m))
          [monIndex m])) ∧
    (bit s.cru.monIn (monIndex m) = true → bit s.cru.mon (monIndex m) = true → exec (.clkmonWindow m false) s =
      .next { s with cru := { s.cru with
        monIn := setBit s.cru.monIn (monIndex m), monOut := clrBit s.cru.monOut (monIndex m),
        stopped := clrBit s.cru.stopped (monIndex m), mon := clrBit s.cru.mon (monIndex m),
        startNs := if monIndex m ∈ [0, 2, 3, 4] then 0 else s.cru.startNs } }) ∧
    (bit s.cru.mon (monIndex m) = false →
      ∃ t, exec (.clockStop m) s = .next t ∧ bit t.cru.stopped (monIndex m) = true ∧ bit t.cru.mon (monIndex m) = true ∧
        (t.cru.inReset = true ↔ monIndex m ∈ [0, 2, 3, 4])) ∧
    (∀ p : Pll, bit s.cru.pll (pllIndex p) = true → ∃ t, exec (.pllLockLoss p) s = .next t ∧ bit t.cru.pll (pllIndex p) = false ∧
      t.mem = s.mem ∧
      t.cru = { s.cru with
        pll := clrBit s.cru.pll (pllIndex p), monOut := clrBit s.cru.monOut (pllIndex p), monIn := clrBit s.cru.monIn (pllIndex p) }) ∧
    (∀ p : Pll, pllIndex p < 16 → exec (.pllLocked p) s = .next { s with cru := { s.cru with pll := setBit s.cru.pll (pllIndex p) } }) ∧
    (∀ k : Fin 16, laneMayLock s k.val = true → ∀ c ∈ [Instr.lanePllLock k, .pllLocked (.lane k)], exec c s = .next { s with cru := { s.cru with
      pll := setBit s.cru.pll (16 + k.val), portStat := clrBit s.cru.portStat k.val, portPulse := tdel s.cru.portPulse k.val } })

/-- A reset of RD_SYS by each of its sources (R99, R100, R105, R112, R113): RD_SYS is in reset with the cause recorded, every stored field of a
register page is at its reset value, and memory, the flashes, the fuses, the Grotto, the Orangery and the test access port keep theirs. -/
def Obligations.SystemResets : Prop :=
  ∀ s : State, s.cru.inReset = false →
    (∃ t, exec .powerGoodFall s = .next t ∧ t.cru.pwrGood = false ∧ resetOf s t .por) ∧
    (∃ t, exec .porstNLow s = .next t ∧ t.cru.porstN = false ∧ resetOf s t .pin) ∧
    (∀ c, s.cru.sysRst = some c → c ≤ s.sdl.fab → ∃ t, exec .systemResetStart s = .next t ∧ resetOf s t .sw) ∧
    (s.gth.unlocked = true → ∃ t, exec .debugReset s = .next t ∧ resetOf s t .dbg) ∧
    (fbit s Fld.CRU_WDT_CTRL_EN = true → s.cru.wdtAt + fget s Fld.CRU_WDT_CTRL_TIMEOUT * 10 ^ 6 ≤ s.sdl.fab →
      ∃ t, exec .systemWatchdogExpire s = .next t ∧ resetOf s t .wdt)

/-- Start-up and the commands of the CRU page (R112, R113, R626): each rise starts the sequence anew; 1 ms later RD_SYS is released with the
causes of the reset, and PCYC counts after a rise of PWR_GOOD only; SYSRST with the right KEY is taken for 32 fabric clocks later, with another
it is ignored and counted; a kick restarts the watchdog, unless its time-out has passed:
then it is too late, and RD_SYS resets. -/
def Obligations.StartAndWatchdog : Prop :=
  ∀ s : State,
    (s.cru.pwrGood = false → exec .powerGoodRise s = .next { s with cru := { s.cru with pwrGood := true, startNs := 0, powerCycle := true } }) ∧
    (s.cru.porstN = false → exec .porstNRise s = .next { s with cru := { s.cru with porstN := true, startNs := 0 } }) ∧
    (s.cru.inReset = true → resetHeld s = false → 1000000 ≤ s.cru.startNs → ∃ t, exec .rdSysRelease s = .next t ∧
      t.cru.inReset = false ∧ t.cru.cause = s.cru.causeNow ∧ t.cru.causeNow = 0 ∧ t.sdl = s.sdl ∧
      t.grt = (if s.cru.powerCycle then { s.grt with pcyc := min (s.grt.pcyc + 1) (2 ^ 32 - 1) } else s.grt)) ∧
    (∀ (mid : Mid) (key : BitVec 16), s.cru.inReset = false → s.cru.sysRst = none → mayWrite s mid.toNat 0x100050 = true →
      exec (.cruSysrst mid key) s = .next (respond (if key = 0x5A17 then
          { wscNote s 0x100050 (key.toNat * 2 ^ 16 + 1) with cru := { s.cru with sysRst := some (s.sdl.fab + 32) } }
        else wign (wscNote s 0x100050 (key.toNat * 2 ^ 16 + 1)) 0x100000) {})) ∧
    (∀ mid : Mid, s.cru.inReset = false → mayWrite s mid.toNat 0x100060 = true →
      (sysWdtDue s = false → exec (.watchdogKick mid) s = .next (respond { wscNote s 0x100060 1 with cru := { s.cru with wdtAt := s.sdl.fab } } {})) ∧
      (sysWdtDue s = true → ∃ t, exec (.watchdogKick mid) s = .next t ∧ resetOf s t .wdt))

/-- Ports and crossing groups (R52, R99 to R102, R112, R180, R659): a write of CRU_PORT_RST resets each named port for 1 µs, its link down, its lane
unlocked and its crossing group held; a link rises once the lane has relocked and falls with its partner; a group whose endpoints are up and whose hold has
ended refreshes its shadows and is ready, and one that is held is not; a refreshed shadow takes its source's word, OPSEC's with GRT_PCYC's. -/
def Obligations.PortsAndGroups : Prop :=
  ∀ s : State, s.cru.inReset = false →
    (∀ (mid : Mid) (ports : BitVec 16), mayWrite s mid.toNat 0x100054 = true →
      ∃ t, exec (.cruPortRst mid ports) s = .next t ∧ ∀ m < 16, bit ports.toNat m = true → (portOf t m).link = false ∧ (portOf t m).sending = none ∧
        bit t.cru.portStat m = true ∧ bit t.cru.pll (16 + m) = false ∧ tget t.cru.portPulse m = some (s.sdl.fab + 1000) ∧
        bit t.cru.xcReady (16 + m) = false ∧ tget t.cru.xcHold (16 + m) = some (s.sdl.fab + 32) ∧ (m = 12 ∨ m = 13 → t.cru.token = {})) ∧
    (∀ m : Fin 16, portUp s m.val = true → exec (.linkUp m) s = .next (setPort s m.val { portOf s m.val with link := true })) ∧
    (∀ m : Fin 16, exec (.linkDown m) s = .next (setPort s m.val { portOf s m.val with link := false })) ∧
    (∀ g : XGroup, bit s.cru.xcReady (xgroupIndex g) = false → endpointsUp s (xgroupIndex g) = true → holdOver s (xgroupIndex g) = true →
      ∃ t, exec (.crossingGroupReady g) s = .next t ∧ t.cru = { s.cru with xcReady := setBit s.cru.xcReady (xgroupIndex g) } ∧
        (∀ a ∈ shadowsOf (xgroupIndex g), ∀ l, regAt a = some l → tget t.reg.shadow a = some (hwWord l.desc.name l.page.j l.i t % 2 ^ 32)) ∧
        (xgroupIndex g ≠ 1 → t = { s with
          cru := t.cru, reg := { s.reg with shadow := t.reg.shadow, shadowOld := t.reg.shadowOld }, grt := { s.grt with opShadow := t.grt.opShadow } })) ∧
    (∀ g : XGroup, holdOver s (xgroupIndex g) = false → exec (.crossingGroupReady g) s = .next s) ∧
    (∀ (off : BitVec 26) (l : RegLoc), regAt (4 * off.toNat) = some l → hasShadow l = true →
      (match groupOf l with | some g => bit s.cru.xcReady g | none => true) = true →
      (l.addr ≠ 0x1000044 → 4 * off.toNat ≠ 0xB00040 → exec (.shadowRefresh off) s = .next { s with reg := { s.reg with
        shadow := tset s.reg.shadow l.addr (hwWord l.desc.name l.page.j l.i s % 2 ^ 32),
        shadowOld := tset s.reg.shadowOld l.addr (s.sdl.fab, shadowRead s l.addr
          ((l.desc.fields.map fun f => if f.acc = .rsh then f.reset * 2 ^ f.lo else 0).sum)) } }) ∧
      ∃ t, exec (.shadowRefresh off) s = .next t ∧ t.mem = s.mem ∧ t.cru = s.cru ∧
        tget t.reg.shadow l.addr = some (hwWord l.desc.name l.page.j l.i (refreshOpsec s l.addr) % 2 ^ 32) ∧
        t.grt = (if l.addr = 0x1000044 then { s.grt with opShadow := opsecNow s } else s.grt))

/-- Supplies and the reset domains outside RD_SYS (R99, R101, R624, R625, R636, R648): a trip of a rail of RD_SYS resets it with cause POR;
a return ends what the rail held; VBATLOW follows VBAT; a reset of RD_ORN, RD_GRT or RD_TAP leaves that domain as the spec gives it. -/
def Obligations.SuppliesAndDomains : Prop :=
  ∀ s : State,
    (∀ (r : Rail) (absent : Bool), bit s.cru.rails (railIndex r) = false → s.cru.inReset = false → railIndex r ∈ [0, 1, 2, 5, 6, 7] →
      ∃ t, exec (.supplyTrip r absent) s = .next t ∧ t.cru.inReset = true ∧ bit t.cru.causeNow 0 = true ∧ bit t.cru.rails (railIndex r) = true ∧
        t.mem = s.mem ∧ ∀ f, fget t f = f.reset) ∧
    (∀ r : Rail, bit s.cru.rails (railIndex r) = true → ∃ t, exec (.supplyRestore r) s = .next t ∧
      t = { s with
        cru := { s.cru with rails := clrBit s.cru.rails (railIndex r), startNs := if s.cru.inReset then 0 else s.cru.startNs },
        grt := { s.grt with onBat := if r = .io18 then false else s.grt.onBat }, orn := { s.orn with held := if r = .orn then false else s.orn.held } }) ∧
    (∀ low : Bool, bit s.cru.rails 7 = false → exec (.vbatLow low) s = .next { s with grt := { s.grt with vbatLow := low } }) ∧
    (∃ t, exec .ornRstNLow s = .next t ∧ t.orn.phase = .starting ∧ t.orn.cause = 1 ∧ t.orn.openAt = none ∧ bit t.cru.xcReady 1 = false ∧
      t.mem = s.mem ∧ t.grt = s.grt ∧ ∀ f, fget t f = fget s f) ∧
    (∃ t, exec .orangeryWatchdogExpire s = .next t ∧ t.orn.phase = .starting ∧ t.orn.cause = 3 ∧ t.orn.openAt = none ∧ bit t.cru.xcReady 1 = false ∧
      t.mem = s.mem ∧ t.grt = s.grt ∧ ∀ f, fget t f = fget s f) ∧
    (bit s.cru.rails 7 = true → ∃ t, exec .grottoReset s = .next t ∧ t.grt.sec = 0 ∧ t.grt.sub = 0 ∧ t.grt.opsec = 0 ∧ t.grt.pcyc = 0 ∧
      t.grt.tampCnt = 0 ∧ t.grt.scratch = [] ∧ t.grt.tamper = true ∧ t.grt.tcause = 2 ∧ t.grt.grtrst = true ∧ bit t.cru.xcReady 0 = false) ∧
    (tapUp s = true → exec .tapReset s = .next { s with tap := {}, gth := { s.gth with unlocked := false } })

/-- Event channels (R93, R94, R101): an idle channel with a count whose crossing group is not held in reset raises a request that carries it, and the count returns to 0; a delivery of GRTE
adds the count to GRT_TAMPEVT, and an overflow flag to the channel's overflow counter; the acknowledge lets the next request rise. -/
def Obligations.EventChannels : Prop :=
  ∀ (s : State) (c : EvChannel), s.cru.inReset = false →
    (chanHeld s (isToken c) = true → exec (.eventChannelRequest c) s = .next s) ∧
    (chanHeld s (isToken c) = false → (evChan s (isToken c)).busy = false → (evChan s (isToken c)).pending ≠ 0 → exec (.eventChannelRequest c) s =
      .next (setEvChan s (isToken c) { pending := 0, lost := false, flight := some ((evChan s (isToken c)).pending, (evChan s (isToken c)).lost), busy := true })) ∧
    (∀ n ovf, (evChan s (isToken c)).flight = some (n, ovf) → ∃ t, exec (.eventChannelDeliver c) s = .next t ∧
      (evChan t (isToken c)) = { evChan s (isToken c) with flight := none } ∧
      fget t Fld.GRT_TAMPEVT_COUNT = (if isToken c then fget s Fld.GRT_TAMPEVT_COUNT else counted s Fld.GRT_TAMPEVT_COUNT n) ∧
      fget t Fld.CRU_XCOVF_TOKEN_COUNT = (if isToken c && ovf then counted s Fld.CRU_XCOVF_TOKEN_COUNT 1 else fget s Fld.CRU_XCOVF_TOKEN_COUNT) ∧
      fget t Fld.CRU_XCOVF_GRTE_COUNT = (if !isToken c && ovf then counted s Fld.CRU_XCOVF_GRTE_COUNT 1 else fget s Fld.CRU_XCOVF_GRTE_COUNT)) ∧
    ((evChan s (isToken c)).busy = true → (evChan s (isToken c)).flight = none →
      exec (.eventChannelAckComplete c) s = .next (setEvChan s (isToken c) { evChan s (isToken c) with busy := false }))

/-- The DOUT channel (R95, R170, R448): a command to an idle channel is sent, one to a busy channel pends, and a further one merges into the pending
command pin by pin, with the count of merges held at 255; the channel is busy until the acknowledge completes, and then raises the pending
command; the latches take the request in flight at one edge, but for a pin on which an alarm acted at that edge, which counts a collision; a frozen
module keeps its levels. How long the acknowledge takes is the model's free value (log 93). -/
def Obligations.DoutChannel : Prop :=
  ∀ s : State, s.cru.inReset = false →
    (∀ (levels mask : Word), exec (.doutChannelCommand levels mask) s = .next { s with cru := { s.cru with dout :=
      match (doutBusy s), s.cru.dout.pending with
      | false, none => { s.cru.dout with flight := some (levels.toNat, mask.toNat, false) }
      | false, some (l, m, _) => { s.cru.dout with flight := some (l, m, s.cru.dout.lost), pending := some (levels.toNat, mask.toNat, 1), lost := false }
      | true, none => { s.cru.dout with pending := some (levels.toNat, mask.toNat, 1) }
      | true, some (l, m, n) => { s.cru.dout with
          pending := some (maskedLevels l levels.toNat mask.toNat, m ||| mask.toNat, min (n + 1) 255), lost := s.cru.dout.lost || n == 255 } } }) ∧
    (∀ l m ovf, (doutRaise s).cru.dout.flight = some (l, m, ovf) → ∃ t, exec .doutLatchApply s = .next t ∧
      t.cru.dout = { (doutRaise s).cru.dout with flight := none, free := s.sdl.fab + doutAckTime s } ∧
      fget t Fld.CRU_XCOVF_DOUT_COUNT = (if ovf then counted s Fld.CRU_XCOVF_DOUT_COUNT 1 else fget s Fld.CRU_XCOVF_DOUT_COUNT) ∧
      (frozen s = true → t.dbg = s.dbg ∧ t.ang = s.ang) ∧
      (frozen s = false →
        (∀ i < 32, bit t.dbg.dout i =
          if bit m i && !(s.ang.lastAlarms.any fun e => e.1 == s.sdl.raw && e.2.2 == i) then bit l i else bit s.dbg.dout i) ∧
        fget t Fld.SDL_ANG_DCOL_COUNT = counted s Fld.SDL_ANG_DCOL_COUNT
          (s.ang.lastAlarms.filter fun e => e.1 == s.sdl.raw && bit m e.2.2).length ∧ t.ang = { s.ang with lastCmd := some (s.sdl.raw, m) }) ∧
      t = { s with
        cru := { s.cru with dout := t.cru.dout }, dbg := { s.dbg with dout := t.dbg.dout, drives := t.dbg.drives, doutSeq := t.dbg.doutSeq },
        ang := t.ang, reg := t.reg } ∧
      ∀ f, fkey f ≠ fkey Fld.SDL_ANG_DCOL_COUNT → fkey f ≠ fkey Fld.CRU_XCOVF_DOUT_COUNT → fget t f = fget s f)

/-- Time reads (R152, R154, R161, R144): SDL_TIME NOW returns T, the raw counter, the increment and the tick in progress; PPSIN the last
captured edge, or CODE 0x01; ANG_NOW the published position, or no words while the tracker is OFF; a ring its oldest entry, which it gives up,
or CODE 0x01. A frame that waits at a queue's head follows its alarm in the same clock (R172). -/
def Obligations.TimeReads : Prop :=
  ∀ (s : State) (mid : Mid), (Free s mid.toNat 0x200080 →
      exec (.sdlTimeNow mid) s = .next (respond (angleSweep (mbxAnswer (asks s mid.toNat 0x200080 1 false 0 []) 0x200080 0
        [w32 (nsOf (timeNow s)), w32 (fracOf (timeNow s)), w32 (secOf (timeNow s)), w32 (secOf (timeNow s) / 2 ^ 32),
         w32 s.sdl.raw, w32 (s.sdl.raw / 2 ^ 32), w32 s.sdl.inc, w32 (s.sdl.inc / 2 ^ 32),
         w32 (if s.sdl.gen = .running then s.sdl.last.getD 0 else 0), w32 ((if s.sdl.gen = .running then s.sdl.last.getD 0 else 0) / 2 ^ 32),
         w32 (if s.sdl.gen = .running then 2 ^ 31 + s.sdl.curN else 0)])) {}) ∧
      (s.sdl.ppsIn = none → exec (.sdlTimePpsin mid) s = .next (respond (angleSweep (mbxEnd (asks s mid.toNat 0x200080 2 false 0 []) 0x200080 1)) {})) ∧
      (∀ c t, s.sdl.ppsIn = some (c, t) → exec (.sdlTimePpsin mid) s = .next (respond (angleSweep (mbxAnswer (asks s mid.toNat 0x200080 2 false 0 []) 0x200080 0
        [w32 (nsOf t), w32 (fracOf t), w32 (secOf t), w32 (secOf t / 2 ^ 32), w32 c, w32 (c / 2 ^ 32), w32 s.sdl.ppsSeq])) {}))) ∧
    (Free s mid.toNat 0x203080 →
      (s.ang.st = .off → exec (.sdlAngNow mid) s = .next (respond (angleSweep (mbxAnswer (asks s mid.toNat 0x203080 1 false 0 []) 0x203080 0 [])) {})) ∧
      (s.ang.st ≠ .off → exec (.sdlAngNow mid) s = .next (respond (angleSweep (mbxAnswer (asks s mid.toNat 0x203080 1 false 0 []) 0x203080 0
        [w32 (pubNow s % 2 ^ 32), w32 (pubNow s / 2 ^ 32), w32 (pubNow s / 2 ^ 64), w32 (convRound 16 s.ang.est.freq).toNat,
         w32 (ofSigned 32 (convRound 16 s.ang.est.rho)), w32 (s.ang.epoch * 2 ^ 24 + s.ang.st.code), w32 (nsOf (timeNow s)),
         w32 (secOf (timeNow s)), w32 (secOf (timeNow s) / 2 ^ 32)])) {}))) ∧
    (∀ m : Fin 16, Free s mid.toNat (0x202040 + 0x40 * m.val) →
      (tsRing s m.val = [] → exec (.timestampRingPop mid m) s =
        .next (respond (angleSweep (mbxEnd (asks s mid.toNat (0x202040 + 0x40 * m.val) 1 false 0 []) (0x202040 + 0x40 * m.val) 1)) {})) ∧
      (∀ e es, tsRing s m.val = e :: es → exec (.timestampRingPop mid m) s = .next (respond (angleSweep (mbxAnswer
        (asks { s with sdl := { s.sdl with rings := tset s.sdl.rings m.val es } } mid.toNat (0x202040 + 0x40 * m.val) 1 false 0 []) (0x202040 + 0x40 * m.val) 0
        [w32 (bitAt e.gap 31 + bitAt e.dropped 30 + e.tag), w32 (e.ns % 1000000000), w32 (e.ns / 1000000000), w32 (e.ns / 1000000000 / 2 ^ 32)])) {})))

/-- Adjustments requested (R118 to R124): one is held until c_A; an application count less than 64 ahead, or more than 2^32, is refused with
0x03 or 0x04; while ticks are produced a SET is refused with 0x05 and a STEP beyond SDL_STEP_MAX with 0x02. A refusal is recorded. -/
def Obligations.AdjustmentsTaken : Prop :=
  ∀ (s : State) (mid : Mid) (arg : BitVec 16) (d : List Word) (c : Instr) (op : Nat), Free s mid.toNat 0x2000C0 → d.length ≤ 12 →
    (c, op) ∈ [(.sdlAdjSet mid arg d, 0x10), (.sdlAdjStep mid arg d, 0x11), (.sdlAdjIncr mid arg d, 0x12)] →
    ∀ (at_ gap : Nat) (q : State), at_ = (if arg.toNat % 2 = 1 then (s.sdl.raw + 64) % 2 ^ 64 else word s 0x2000C0 d 4 + 2 ^ 32 * word s 0x2000C0 d 5) →
      gap = (at_ + 2 ^ 64 - s.sdl.raw) % 2 ^ 64 → q = asks (written s d) mid.toNat 0x2000C0 op true arg.toNat d →
      (64 ≤ gap → gap ≤ 2 ^ 32 → (s.sdl.gen = .stopped ∨ op = 0x12 ∨
          op = 0x11 ∧ (stepAmount (word s 0x2000C0 d 0) (word s 0x2000C0 d 1)).natAbs ≤ fget s Fld.SDL_STEP_MAX_NS * 2 ^ 32) →
        exec c s = .next (respond (angleSweep { q with sdl := { s.sdl with adj := some ⟨op, at_,
           word s 0x2000C0 d 0, word s 0x2000C0 d 1, word s 0x2000C0 d 2, word s 0x2000C0 d 3⟩ } }) {})) ∧
      (∀ code, (gap < 64 ∧ code = 0x03) ∨ (2 ^ 32 < gap ∧ code = 0x04) → exec c s = .next (respond (angleSweep (mbxEnd
        (record q 0x0502 0x300D [op, code, word s 0x2000C0 d 0, s.sdl.raw % 2 ^ 32, s.sdl.raw / 2 ^ 32]) 0x2000C0 code)) {})) ∧
      (∀ code, 64 ≤ gap → gap ≤ 2 ^ 32 → s.sdl.gen ≠ .stopped → (op = 0x10 ∧ code = 0x05) ∨
          (op = 0x11 ∧ fget s Fld.SDL_STEP_MAX_NS * 2 ^ 32 < (stepAmount (word s 0x2000C0 d 0) (word s 0x2000C0 d 1)).natAbs ∧ code = 0x02) →
        exec c s = .next (respond (angleSweep (mbxEnd (record (cinc q Fld.SDL_STEP_REJ_COUNT) 0x0502 0x300D
          [op, code, word s 0x2000C0 d 0, s.sdl.raw % 2 ^ 32, s.sdl.raw / 2 ^ 32]) 0x2000C0 code)) {}))

/-- Adjustments applied (R118 to R120, R123, R124, R131): at c_A a SET makes T its value, a STEP adds its amount, an INCR sets the increment
within its bounds, T continuing at c_A, and the time computation before c_A is kept for the counts before it; the application is recorded and the request
ends with 0x00. One that the test refuses at c_A is counted, recorded and changes nothing; so is a STEP that would make
T(c_A) less than zero, with CODE 0x07. -/
def Obligations.AdjustmentsApplied : Prop :=
  ∀ (s : State) (j : Adjust), s.cru.inReset = false → s.sdl.adj = some j → (s.sdl.raw + 2 ^ 64 - j.at_) % 2 ^ 64 < 2 ^ 63 →
    (adjRefusal s j.op j.d0 j.d1 = none → (j.op = 0x11 → 0 ≤ (timeAt s.sdl j.at_ : Int) + stepAmount j.d0 j.d1) →
      exec .adjustApply s = .next (angleSweep (mbxEnd (record { publishTo s j.at_ with sdl :=
        if j.op = 0x10 then { s.sdl with
          adj := none, rawBase := j.at_, past := (s.sdl.base, s.sdl.rawBase, s.sdl.inc) :: s.sdl.past, base := setValue j.d0 j.d1 j.d2 j.d3,
          ppsMarked := secondsPast (setValue j.d0 j.d1 j.d2 j.d3) }
        else if j.op = 0x11 then { s.sdl with
          adj := none, rawBase := j.at_, past := (s.sdl.base, s.sdl.rawBase, s.sdl.inc) :: s.sdl.past,
          base := ((timeAt s.sdl j.at_ : Int) + stepAmount j.d0 j.d1).toNat }
        else { s.sdl with
          adj := none, rawBase := j.at_, past := (s.sdl.base, s.sdl.rawBase, s.sdl.inc) :: s.sdl.past, base := timeAt s.sdl j.at_,
          inc := clampTo 0xFFBE76C9 0x100418937 (j.d0 + 2 ^ 32 * j.d1) } }
        0x0501 0x300D [j.op, j.d0, j.d1, j.at_ % 2 ^ 32, j.at_ / 2 ^ 32, if j.op = 0x10 then j.d2 else 0]) 0x2000C0 0))) ∧
    (∀ code, adjRefusal s j.op j.d0 j.d1 = some code ∨ (adjRefusal s j.op j.d0 j.d1 = none ∧ j.op = 0x11 ∧
        (timeAt s.sdl j.at_ : Int) + stepAmount j.d0 j.d1 < 0 ∧ code = 0x07) → exec .adjustApply s = .next (angleSweep (mbxEnd
      (record (cinc { s with sdl := { s.sdl with adj := none } } Fld.SDL_STEP_REJ_COUNT) 0x0502 0x300D
        [j.op, code, j.d0, j.at_ % 2 ^ 32, j.at_ / 2 ^ 32]) 0x2000C0 code)))

/-- The tick generator (R125, R128, R658): TICK_RUN set starts it at the first second at least 1 µs ahead, at the rate requested; TICK_RUN
cleared stops it with its record; once the last fabric edge of a run has passed, what waits for an edge takes effect. -/
def Obligations.TickGenerator : Prop :=
  ∀ (s : State) (mid : Mid), s.cru.inReset = false → mayWrite s mid.toNat 0x200040 = true → locked s 0x200000 = false →
    claimedBy s 0x200000 = none →
    (s.sdl.gen = .stopped → enabled s 0x200000 = true → ∃ t sec, exec (.tickGeneratorStart mid) s = .next (respond (angleSweep (stopEnd t)) {}) ∧
      sec = (timeNow s + 1000 * nsUnit + secUnit - 1) / secUnit ∧ fget t Fld.SDL_CTRL_TICK_RUN = 1 ∧
      t.sdl = { s.sdl with
        gen := .starting, startSec := sec, startRate := fget s Fld.SDL_BASE_RATE_REQ, next := sec * rateHz (fget s Fld.SDL_BASE_RATE_REQ)
        nextSec := sec, nextN := 0, pps := s.sdl.pps && (fget t Fld.SDL_CTRL_PPS_OUT_EN == 1), tickOut := s.sdl.tickOut && (fget t Fld.SDL_CTRL_TICK_OUT_EN == 1) } ∧
      (fget s Fld.SDL_CTRL_PPS_OUT_EN ≤ 1 → fget s Fld.SDL_CTRL_TICK_OUT_EN ≤ 1 →
        fget t Fld.SDL_CTRL_PPS_OUT_EN = fget s Fld.SDL_CTRL_PPS_OUT_EN ∧ fget t Fld.SDL_CTRL_TICK_OUT_EN = fget s Fld.SDL_CTRL_TICK_OUT_EN) ∧
      t = { s with sdl := t.sdl, reg := { s.reg with fields := t.reg.fields } } ∧
      (∀ f, fkey f ∉ [fkey Fld.SDL_CTRL_TICK_RUN, fkey Fld.SDL_CTRL_PPS_OUT_EN, fkey Fld.SDL_CTRL_TICK_OUT_EN] → fget t f = fget s f)) ∧
    (s.sdl.gen ≠ .stopped → ∃ u r, exec (.tickGeneratorStop mid) s = .next (respond (angleSweep (stopEnd u)) {}) ∧ fget r Fld.SDL_CTRL_TICK_RUN = 0 ∧
      r = { s with sdl := { s.sdl with gen := .stopped, stopDue := true }, reg := { s.reg with fields := r.reg.fields } } ∧
      (∀ f, fkey f ∉ [fkey Fld.SDL_CTRL_TICK_RUN, fkey Fld.SDL_CTRL_PPS_OUT_EN, fkey Fld.SDL_CTRL_TICK_OUT_EN] → fget r f = fget s f) ∧
      u = { record r 0x0503 0x300D [0, s.sdl.last.getD 0 % 2 ^ 32, s.sdl.last.getD 0 / 2 ^ 32, s.sdl.rateAct] with
        sdl := { r.sdl with pps := u.sdl.pps, tickOut := u.sdl.tickOut } })

/-- Tick edges (R61, R85, R126, R129, R130, R132, R159, R301, R364, R428): the Sundial edge of N_next, when due, makes it the tick in progress and
its fabric edge due, TICK_OUT rises where DIV divides, and the alarms are predicted anew after the tracker; the first edge of a start also puts
the requested rate in force, with its record, and ends late token requests. The fabric edge follows, its parts in the order of R364. A change of
the base rate renumbers N_next and the slots and syncs due then, fails later slots and is recorded. -/
def Obligations.TickEdges : Prop :=
  ∀ s : State, s.cru.inReset = false →
    (∀ (rise : Bool) (hz : Nat) (e : State), s.sdl.gen ≠ .stopped → tickDue s = true → rateChangeDue s = false → hz = nextHz s →
      rise = (fbit s Fld.SDL_CTRL_TICK_OUT_EN && s.sdl.nextN % fget s Fld.SDL_TICKOUT_DIV == 0) →
      e = { s with sdl := { s.sdl with
        gen := .running, rateAct := if s.sdl.gen = .starting then s.sdl.startRate else s.sdl.rateAct
        last := some s.sdl.next, curN := s.sdl.nextN, next := s.sdl.next + 1
        nextSec := if s.sdl.nextN + 1 = hz then s.sdl.nextSec + 1 else s.sdl.nextSec
        nextN := if s.sdl.nextN + 1 = hz then 0 else s.sdl.nextN + 1
        fabDue := s.sdl.fabDue ++ [(s.sdl.next, s.sdl.fab, s.sdl.gen == .starting)]
        tickOut := s.sdl.tickOut || rise, tickOutAt := if rise then timeNow s else s.sdl.tickOutAt } } →
      (s.sdl.gen = .running →
        exec .sundialTickEdge s = .next (angleSweep (casSundialEdge (ftbSundialEdge (alarmsEdge (trackerEdge e)) s.sdl.next) s.sdl.next))) ∧
      (s.sdl.gen = .starting →
        exec .sundialTickEdge s = .next (angleSweep (casSundialEdge (ftbSundialEdge (tokenLate (alarmsEdge (trackerEdge (record e 0x0503 0x300D
          [1, s.sdl.next % 2 ^ 32, s.sdl.next / 2 ^ 32, s.sdl.startRate]))) s.sdl.next) s.sdl.next) s.sdl.next)))) ∧
    (∀ (times : List (Fin 1024 × BitVec 20)) (n c : Nat) (first : Bool) (rest : List (Nat × Nat × Bool)) (u v w : State),
      s.sdl.fabDue = (n, c, first) :: rest → c + 34 ≤ s.sdl.fab →
      u = pavsEdge { s with sdl := { s.sdl with fabDue := rest } } (times.map fun e => (e.1.val, e.2.toNat)) →
      v = (if first then lateSlots (lateRequests u n) n else u) → w = seqEdge (syncEdge (edgeApply v n) n) n →
      ∃ t, t = blvTick (ftbFabricEdge (tripEdge (sviFabricEdge w n (baseHz w)))) n (baseHz w) ∧
        exec (.fabricTickEdge times) s = .next (stopEnd { t with sdl := { t.sdl with fabLast := some n } })) ∧
    (rateChangeDue s = true → ∃ n u k, n = s.sdl.nextSec * rateHz (fget s Fld.SDL_BASE_RATE_REQ) ∧ (u, k) = failLaterSlots { s with sdl := { s.sdl with
        rateAct := fget s Fld.SDL_BASE_RATE_REQ, next := n, rateAt := none } } (s.sdl.next + 1) ∧
      exec .baseRateChange s = .next (record (renumberSyncs (renumberSlots u s.sdl.next n) s.sdl.next n) 0x0504 0x300D
        [s.sdl.rateAct, fget s Fld.SDL_BASE_RATE_REQ, n % 2 ^ 32, n / 2 ^ 32, k]))

/-- The time pins and launches (R119, R120, R131 to R133, R146, R149, R151): PPS_OUT marks each whole second, for SDL_PPS_WIDTH; TICK_OUT falls
after its width of PTP time; an edge of PPS_IN captures the raw count three clocks back, its time as it was then and a sequence number, and is
counted; the head frame whose window has closed, or which finds SDL page 1 disabled, is dropped and counted. -/
def Obligations.TimePins : Prop :=
  ∀ s : State, s.cru.inReset = false →
    (ppsDriven s = true → (∀ m, s.sdl.ppsMarked = some m → m < timeNow s / secUnit) → exec .ppsOutRise s = .next { s with sdl := { s.sdl with
      pps := true, ppsMarked := some (timeNow s / secUnit), ppsRise := timeNow s } }) ∧
    (s.sdl.pps = true → s.sdl.ppsRise + fget s Fld.SDL_PPS_WIDTH_US * 1000 * nsUnit ≤ timeNow s →
      exec .ppsOutFall s = .next { s with sdl := { s.sdl with pps := false } }) ∧
    (s.sdl.tickOut = true → s.sdl.tickOutAt + fget s Fld.SDL_TICKOUT_WIDTH * 100 * nsUnit ≤ timeNow s →
      exec .tickOutFall s = .next { s with sdl := { s.sdl with tickOut := false } }) ∧
    (enabled s 0x200000 = true → exec .ppsInEdge s = .next (cinc { s with sdl := { s.sdl with
      ppsIn := some ((s.sdl.raw + 2 ^ 64 - 3) % 2 ^ 64, timePast s.sdl ((s.sdl.raw + 2 ^ 64 - 3) % 2 ^ 64)), ppsSeq := (s.sdl.ppsSeq + 1) % 2 ^ 32 } }
      Fld.SDL_PPSIN_EVT_COUNT)) ∧
    (∀ c, fromBase s.sdl.rawBase c = true → timePast s.sdl c = timeAt s.sdl c) ∧
    (∀ (c : Nat) (e : Nat × Nat × Nat) (es : List (Nat × Nat × Nat)), fromBase s.sdl.rawBase c = false → s.sdl.past = e :: es →
      fromBase e.2.1 c = true → timePast s.sdl c = e.1 + (c + 2 ^ 64 - e.2.1) % 2 ^ 64 * e.2.2) ∧
    (∀ (m : Fin 16) (c : Fin 8) (f : Frame) (l : Nat), headOf s m.val c.val = some f → f.launch = .due l →
      enabled s 0x201000 = false ∨ l + fget s (Fld.SDL_P_LATE_LIMIT m.val) * nsUnit ≤ timeNow s + fget s (Fld.SDL_P_LAT_TX_LAT m.val) * 2 ^ 28 →
      exec (.launchLateDrop m c) s = .next (takeHead (stampDrop (cinc s (Fld.SDL_P_LTLATE_COUNT m.val)) m.val f) m.val c.val))

/-- The tracker's timeouts while the generator makes no edges, which is when they act apart from an edge (log 76; R161, R162, R167, R661, R662): LOCKED without an update for 5 ms becomes HOLDOVER, ρ set to 0, counted and recorded,
its alarms held or aborted, and those held predicted anew; HOLDOVER for HOLD_MS without a deciding update becomes ACQUIRE, the estimate begun anew at FNOM, every armed alarm
aborted. -/
def Obligations.TrackerTimeouts : Prop :=
  ∀ s : State, s.cru.inReset = false → enabled s 0x203000 = true → s.sdl.gen ≠ .running →
    (s.ang.st = .locked → s.ang.lastRecv + 5000000 ≤ s.sdl.raw → exec .trackerUpdateTimeout s = .next (angleSweep (alarmsEdge (alarmsHold (trackRecord
      (cinc { s with ang := { s.ang with
        pub := pubNow s, pubAt := s.sdl.raw + 1, st := .holdover, holdAt := s.sdl.raw, est := { s.ang.est with rho := 0 } } }
        Fld.SDL_ANG_HOLD_COUNT) .locked))))) ∧
    (s.ang.st = .holdover → s.ang.holdAt + fget s Fld.SDL_ANG_CNT_HOLD_MS * 1000000 ≤ s.sdl.raw → (∀ u ∈ s.ang.updates, goodApartTol s u = false) →
      exec .holdoverTimeout s = .next (angleSweep (abortAll (trackRecord { s with ang := { s.ang with
        pub := pubNow s, pubAt := s.sdl.raw + 1, st := .acquire, run := 0, misses := 0, acqGood := false, est := ⟨pubNow s, fnom s, 0, timeNow s⟩ } } .holdover))))

/-- Requests about alarms (R163 to R168, R178): ARM arms alarm k with the settings of its words where the tracker is LOCKED, the alarm is not
armed and its instant is at least 2 µs ahead and within 65536 cycles, else a CODE says why not; CANCEL cancels an armed alarm that is not yet
due; READ returns the settings and the state. -/
def Obligations.AlarmRequests : Prop :=
  ∀ (s : State) (mid : Mid) (k : Fin 256) (d : List Word) (w : Nat → Nat) (x a : Alarm) (q : State), Free s mid.toNat 0x204040 → d.length ≤ 12 →
    w = word s 0x204040 d → a = alarm s k.val →
    x = {
          a := w 0, k := w 1 + 2 ^ 32 * w 2, lead := min (bits (w 3) 29 0) 1000000000, kind := min (bits (w 4) 31 30) 2, onloss := bit (w 4) 29,
          owner := bits (w 4) 25 16, pin := bits (w 4) 12 8, dop := min (bits (w 4) 7 6) 2,
          d5 := if bits (w 4) 31 30 = 0 then w 5 / 2 ^ 16 * 2 ^ 16 + clampTo 1 65535 (w 5 % 2 ^ 16) else w 5, payload := w 6 } →
    q = asks (written s d) mid.toNat 0x204040 1 true k.val d →
    (enabled s 0x204000 = true → s.ang.st = .locked → a.st ≠ .armed → timeNow s + 2000 * nsUnit ≤ fireInstant s x * nsUnit →
      x.k * 2 ^ 32 + x.a ≤ pubNow s + 65536 * 2 ^ 32 → exec (.alarmArm mid k d) s = .next (respond (angleSweep (mbxEnd
        (setAlarm q k.val { x with st := .armed, tf := fireInstant s x, hold := false, late := false }) 0x204040 0)) {})) ∧
    (∀ code, (enabled s 0x204000 = false ∧ code = 0x0A ∨ enabled s 0x204000 = true ∧ (s.ang.st ≠ .locked ∧ code = 0x02 ∨ s.ang.st = .locked ∧
        (a.st = .armed ∧ code = 0x08 ∨ a.st ≠ .armed ∧ (fireInstant s x * nsUnit < timeNow s + 2000 * nsUnit ∧ code = 0x03 ∨
          (timeNow s + 2000 * nsUnit ≤ fireInstant s x * nsUnit ∧ pubNow s + 65536 * 2 ^ 32 < x.k * 2 ^ 32 + x.a) ∧ code = 0x04)))) →
      exec (.alarmArm mid k d) s = .next (respond (angleSweep (mbxEnd q 0x204040 code)) {})) ∧
    (a.st = .armed → timeNow s < a.tf * nsUnit → exec (.alarmCancel mid k) s = .next (respond (angleSweep (mbxEnd
      (setAlarm (asks s mid.toNat 0x204040 2 true k.val []) k.val { a with st := .cancelled }) 0x204040 0)) {})) ∧
    (∀ code, (a.st = .armed ∧ a.tf * nsUnit ≤ timeNow s ∨ a.st = .fired) ∧ code = 0x07 ∨ (a.st ≠ .armed ∧ a.st ≠ .fired) ∧ code = 0 →
      exec (.alarmCancel mid k) s = .next (respond (angleSweep (mbxEnd (asks s mid.toNat 0x204040 2 true k.val []) 0x204040 code)) {})) ∧
    exec (.alarmRead mid k) s = .next (respond (angleSweep (mbxAnswer (asks s mid.toNat 0x204040 3 false k.val []) 0x204040 0
      [w32 a.a, w32 a.k, w32 (a.k / 2 ^ 32), w32 a.lead, w32 (a.kind * 2 ^ 30 + bitAt a.onloss 29 + a.owner * 2 ^ 16 + a.pin * 2 ^ 8 + a.dop * 2 ^ 6),
       w32 a.d5, w32 a.payload, w32 (bitAt a.hold 9 + bitAt a.late 8 + a.st.code), w32 (nsOf a.firedAt), w32 (secOf a.firedAt),
       w32 (secOf a.firedAt / 2 ^ 32)])) {})

/-- Alarms fire (R166, R169, R170, R171, R173, R448): an armed alarm that is due becomes FIRED and keeps its firing time; KIND 0 drives its DOUT
pin, unless a higher alarm acts on the pin at the same edge or the outputs are frozen, and a command's act there counts a collision; a PULSE ends
later unless a command or another alarm has driven the pin since; KIND 2 posts its event after those it holds; KIND 1 lets the frames go that wait
for it. -/
def Obligations.AlarmsFire : Prop :=
  ∀ (s : State) (k : Fin 256) (a : Alarm) (q : State), s.cru.inReset = false → a = alarm s k.val →
    q = setAlarm s k.val { a with st := .fired, firedAt := timeNow s } →
    (a.st = .armed → a.tf * nsUnit ≤ timeNow s →
      (a.kind = 1 → exec (.alarmFire k) s = .next (angleSweep q)) ∧
      (a.kind = 2 → exec (.alarmFire k) s = .next (angleSweep (alarmPost q k.val {
        type := 7, queue := a.d5 % 8192, flow := k.val, src := 0x300D,
        ns := if pairOp s then a.tf.toNat else timeNow s / nsUnit, w5 := k.val, w6 := a.payload }))) ∧
      (a.kind = 0 → frozen s = true → exec (.alarmFire k) s = .next (angleSweep q)) ∧
      (a.kind = 0 → frozen s = false → ∀ (hit beaten : Bool) (u : State),
        hit = (match s.ang.lastCmd with | some (r, m) => r == s.sdl.raw && bit m a.pin | none => false) →
        beaten = (s.ang.lastAlarms.any fun e => e.1 == s.sdl.raw && e.2.2 == a.pin && decide (k.val < e.2.1)) →
        u = (if hit then cinc q Fld.SDL_ANG_DCOL_COUNT else q) → exec (.alarmFire k) s = .next (angleSweep { u with
          ang := { u.ang with
            lastAlarms := (s.ang.lastAlarms.filter fun e => e.1 == s.sdl.raw) ++ [(s.sdl.raw, k.val, a.pin)],
            pulses := (if beaten then s.ang.pulses else s.ang.pulses.map fun e =>
                if e.1 == k.val && e.2.2.2 == a.pin && e.2.2.1 == tat s.dbg.doutSeq a.pin 0 then (e.1, e.2.1, s.dbg.drives + 1, a.pin) else e) ++
              (if a.dop = 2 then [(k.val, s.sdl.raw + clampTo 1 65535 (a.d5 % 65536) * 1000, if beaten then 0 else s.dbg.drives + 1, a.pin)] else []) },
          dbg := if beaten then s.dbg else { s.dbg with
            dout := putBit s.dbg.dout a.pin (a.dop != 1), drives := s.dbg.drives + 1,
            doutSeq := tset s.dbg.doutSeq a.pin (s.dbg.drives + 1) } }))) ∧
    (∀ t n pin, (s.ang.pulses.find? fun e => e.1 == k.val && decide (e.2.1 ≤ s.sdl.raw)) = some (k.val, t, n, pin) →
      exec (.alarmPulseEnd k) s = .next { s with
        ang := { s.ang with pulses := s.ang.pulses.filter fun e => !(e == (k.val, t, n, pin)) },
        dbg := if tat s.dbg.doutSeq pin 0 = n ∧ frozen s = false then { s.dbg with
          dout := putBit s.dbg.dout pin false, drives := s.dbg.drives + 1, doutSeq := tset s.dbg.doutSeq pin (s.dbg.drives + 1) } else s.dbg })

/-- Frames received (R135, R180, R182 to R192, R199, R200, R224, R430): a port that runs, in no redundant pair, counts and drops a
frame shorter than 64 octets or with a bad FCS; MX0 takes none, and the Footbridge ports of a pair in operation only the pair's own; it stamps and counts a whole one, and hands it to the switch where its address passes the filter, else counts it; a pause ends
when its time is up, and a duplicate entry that no frame refreshed for FORGET ms is freed. -/
def Obligations.FramesReceived : Prop :=
  ∀ (s : State) (m : Fin 16), s.cru.inReset = false →
    (∀ (bytes : List Byte) (ok : Bool) (age : BitVec 20),
      (portUp s m.val = false ∨ (portOf s m.val).link = false → exec (.frameReceive m bytes ok age) s = .next s) ∧
      (portUp s m.val = true → (portOf s m.val).link = true →
        (m.val = 15 → exec (.frameReceive m bytes ok age) s = .next (macCount s m.val Fld.MAC_RX_FILT_COUNT)) ∧
        (m.val ≠ 15 → fbit s (Fld.MAC_MODE_RXEN m.val) = false → exec (.frameReceive m bytes ok age) s = .next s) ∧
        (fbit s (Fld.MAC_MODE_RXEN m.val) = true → pairOp s = true → m.val = 12 ∨ m.val = 13 → ok = true →
          60 ≤ (octets bytes).length → (octets bytes).length + 4 ≤ 9600 → exec (.frameReceive m bytes ok age) s = .next
            (if etherType (octets bytes) = 0x88B5 then macCount s m.val Fld.MAC_RX_OK_COUNT
             else cinc (macCount s m.val Fld.MAC_RX_OK_COUNT) Fld.FTB_FOREIGN_COUNT)))) ∧
    (∀ (bytes : List Byte) (ok : Bool) (age : BitVec 20) (bs : List Nat), m.val ≠ 15 → portUp s m.val = true → (portOf s m.val).link = true →
      fbit s (Fld.MAC_MODE_RXEN m.val) = true → pairOp s = false → bs = octets bytes →
      (bs.length + 4 < 64 → exec (.frameReceive m bytes ok age) s = .next (macCount s m.val Fld.MAC_RX_RUNT_COUNT)) ∧
      (64 ≤ bs.length + 4 → bs.length + 4 ≤ fget s (Fld.MAC_MAXLEN_LEN m.val) → ok = false →
        exec (.frameReceive m bytes ok age) s = .next (macCount s m.val Fld.MAC_RX_FCS_COUNT)) ∧
      (∀ (f : Frame) (q : State), 64 ≤ bs.length + 4 → bs.length + 4 ≤ fget s (Fld.MAC_MAXLEN_LEN m.val) → ok = true → pairMode s m.val = 0 →
        q = macCount s m.val Fld.MAC_RX_OK_COUNT → isReserved (dstOf bs) = false → f = {
          bytes := bs, src := m.val, tc := classFor q m.val (prioOf q m.val bs), prio := prioOf q m.val bs, ts := rxStamp q m.val age.toNat,
          fcs := some (crc32 bs), lanb := decide (m.val < 12) && m.val % 2 == 1, hashed := isGroup (dstOf bs) && dstOf bs != 0xFFFFFFFFFFFF && hashHit q m.val (dstOf bs) && !exactHit q m.val (dstOf bs) &&
            !fbit q (Fld.MAC_RXF_ALLMC m.val) } →
        (filterPass q m.val (dstOf bs) = true → exec (.frameReceive m bytes ok age) s = .next (ghbReceive (trlForward q f []) bs)) ∧
        (filterPass q m.val (dstOf bs) = false →
          exec (.frameReceive m bytes ok age) s = .next (ghbReceive (macCount q m.val Fld.MAC_RX_FILT_COUNT) bs)))) ∧
    (∀ t, (portOf s m.val).paused = some t → t ≤ s.sdl.raw →
      exec (.pauseExpire m) s = .next (setPort s m.val { portOf s m.val with paused := none })) ∧
    (∀ (src : BitVec 48) (e : DupEntry), ((redOf s (m.val / 2 * 2)).dup.find? fun e => e.src == src.toNat) = some e →
      e.at_ + fget s (Fld.MAC_PAIR_FORGET (m.val / 2 * 2)) * 10 ^ 6 ≤ s.sdl.raw → exec (.dupEntryForget m src) s =
        .next (setRed s (m.val / 2 * 2) { redOf s (m.val / 2 * 2) with dup := (redOf s (m.val / 2 * 2)).dup.filter fun x => x.src != src.toNat }))

/-- Frames sent and gates (R142, R182, R186, R187, R193 to R196, R225, R227): an idle port sends its head frame, padded, its
correctionField made good, with its FCS behind it, and keeps its egress time; a frame that mutes goes nowhere while the module mutes; gates change at the instants of their list; a list switch is held until its cycle start and then takes effect; exact-match entries are
written and read. -/
def Obligations.FramesSent : Prop :=
  ∀ (s : State) (m : Fin 16), s.cru.inReset = false →
    (∀ (c : Fin 8) (f : Frame) (u : State) (b : List Nat) (egress : Nat), txIdle s m.val = true → (∀ k < 8, k ≠ c.val → headOf s m.val k = none) →
      txMay s m.val c.val = some f → f.launch = .none → f.seg = none → (egressBytes s m.val f).length + 4 ≤ fget s (Fld.MAC_MAXLEN_LEN m.val) →
      u = takeHead s m.val c.val → b = egressBytes u m.val f → egress = timeNow u + fget u (Fld.SDL_P_LAT_TX_LAT m.val) * 2 ^ 28 →
      (f.mutes = true → (muting u || frozen u) = true → exec (.frameTransmit m) s = .next (stampDrop (cinc u Fld.FTB_MUTED_COUNT) m.val f)) ∧
      ((f.mutes && (muting u || frozen u)) = false → ∀ (v : State) (w : List Nat),
        (v, w) = ptpCorrect (if needsPad u m.val f then macCount u m.val Fld.MAC_TX_PAD_COUNT else u) m.val f (padTo 60 b) egress →
        exec (.frameTransmit m) s = .next { v with mac := { v.mac with
          tbl := tset v.mac.tbl m.val { portOf v m.val with
            sending := some ⟨v.sdl.raw + bitTimes (phyOf v m.val) ((w.length + 4 + 20) * 8), egress, f.tsreq, f.tag⟩ }
          wire := v.mac.wire ++ [(m.val, w ++ leBytes 4 (fcsOf f w))] } })) ∧
    (∀ (t : Nat) (g : Gcl), enabled s (macPage m.val 2) = true → g = (portOf s m.val).gcl → g.next = some t → t ≤ timeNow s →
      (g.start = none → exec (.gateChange m) s = .next (setPort s m.val { portOf s m.val with
        gcl := { g with start := some t, entry := 0, next := some (gateNext s m.val g t 0) } })) ∧
      (∀ st, g.start = some st → t < cycleAfter s g.set_ st → exec (.gateChange m) s = .next (setPort s m.val { portOf s m.val with
        gcl := { g with entry := g.entry + 1, next := some (gateNext s m.val g st (g.entry + 1)) } })) ∧
      (∀ st, g.start = some st → cycleAfter s g.set_ st ≤ t → exec (.gateChange m) s = .next (setPort s m.val { portOf s m.val with
        gcl := { g with start := some t, entry := 0, next := some (gateNext s m.val g t 0) } }))) ∧
    (∀ (mid : Mid) (d : List Word) (g : GclSet) (w : Nat) (x : Nat → Nat) (q : State), Free s mid.toNat (gclMbx m.val) → d.length ≤ 12 →
      x = word s (gclMbx m.val) d → g = {
        tick := bit (x 0) 0, len := clampTo 1 256 (x 1 % 512), cycle := if bit (x 0) 0 then clampTo 1 255 (x 2 % 256) else clampTo 1000 (10 ^ 9) (x 2),
        base := (x 4 + 2 ^ 32 * x 5) * secUnit + x 3 * nsUnit } →
      w = cycleAfter s g (timeNow s + 1000 * nsUnit - 1) → q = asks (written s d) mid.toNat (gclMbx m.val) 1 true 0 d → exec (.macGclSw mid m d) s =
        .next (respond (if timeNow s + 2 ^ 32 * nsUnit < w then mbxEnd q (gclMbx m.val) 0x04
          else setPort q m.val { portOf s m.val with gcl := { (portOf s m.val).gcl with pend := some (g, w) } }) {})) ∧
    (∀ (x : GclSet) (w : Nat) (g : Gcl), enabled s (macPage m.val 2) = true → (portOf s m.val).gcl.pend = some (x, w) → w ≤ timeNow s →
      g = { (portOf s m.val).gcl with listB := !(portOf s m.val).gcl.listB, set_ := x, entry := 0, pend := none, start := some w } →
      exec (.gclSwitch m) s = .next (mbxEndIfBusy (setPort s m.val { portOf s m.val with
        gcl := { g with next := some (gateNext s m.val g w 0) } }) (gclMbx m.val) 0)) ∧
    (∀ (mid : Mid) (k : Fin 64) (a : Nat), a = macPage m.val 0 + 0x80 → Free s mid.toNat a →
      (∀ (d : List Word), d.length ≤ 12 → exec (.macExactWrite mid m k d) s = .next (ended (setPort (asks (written s d) mid.toNat a 1 true k.val d) m.val
        { portOf s m.val with exact := tset (portOf s m.val).exact k.val (addrOfWords (word s a d 0) (word s a d 1 % 2 ^ 16), bit (word s a d 1) 31) }) a 0)) ∧
      (∀ (adr : Nat) (v : Bool), tat (portOf s m.val).exact k.val (0, false) = (adr, v) → exec (.macExactRead mid m k) s =
        .next (answered s mid.toNat a 2 k.val [w32 (addrD0 adr), w32 (bitAt v 31 + addrD1 adr)])))

/-- Publication slots (R206 to R212, R229): START reads the header and the active buffer, and begins at stNum 1; PUBLISH takes a new state from
the other buffer; STOP ends; READ answers; a retransmission that is due advances sqNum; what cannot be read, or would not fit, is refused. -/
def Obligations.GoosePublisher : Prop :=
  ∀ (s : State) (mid : Mid) (k : Fin 4096) (x : GpbSlot), s.cru.inReset = false → x = slotGpb s k.val →
    (x.running = true → x.due ≤ timeNow s → exec (.gooseRetransmit k) s = .next (gooseSend (setSlotGpb s k.val { x with sqNum := goNext x.sqNum }) k.val)) ∧
    (Free s mid.toNat 0x420080 →
      (x.running = true → exec (.gpbStart mid k) s = .next (ended (asks s mid.toNat 0x420080 1 true k.val []) 0x420080 0x08)) ∧
      (∀ u h, x.running = false → physRead (asks s mid.toNat 0x420080 1 true k.val []) gooseMid (slotAddr s k.val) 0x280 = (u, h) →
        (h = none → exec (.gpbStart mid k) s = .next (ended u 0x420080 0x06)) ∧
        (∀ v h' n data y, h = some h' → readBuffer u k.val (slotGpb u k.val).active = (v, some (n, data)) → y = gpbFresh v k.val h' →
          (hdrOk h' = false → exec (.gpbStart mid k) s = .next (ended v 0x420080 0x06)) ∧
          (hdrOk h' = true → gooseFits v h' (slotOctets v y n data) = false → exec (.gpbStart mid k) s = .next (ended v 0x420080 0x05)) ∧
          (hdrOk h' = true → gooseFits v h' (slotOctets v y n data) = true →
            exec (.gpbStart mid k) s = .next (ended (gooseSend (setSlotGpb v k.val y) k.val) 0x420080 0)))) ∧
      (exec (.gpbStop mid k) s = .next (if x.running
        then ended (setSlotGpb (asks s mid.toNat 0x420080 2 true k.val []) k.val { x with running := false }) 0x420080 0
        else ended (asks s mid.toNat 0x420080 2 true k.val []) 0x420080 0x07)) ∧
      (x.running = false → exec (.gpbPublish mid k) s = .next (ended (asks s mid.toNat 0x420080 3 true k.val []) 0x420080 0x07)) ∧
      (∀ u d, x.running = true → readBuffer (asks s mid.toNat 0x420080 3 true k.val []) k.val (1 - x.active) = (u, d) →
        (d = none → exec (.gpbPublish mid k) s = .next (ended u 0x420080 0x06)) ∧
        (∀ n data, d = some (n, data) → gooseFits u x.head (slotOctets u { x with stNum := goNext x.stNum, sqNum := 0, at_ := timeNow u } n data) = true →
          frozen u = false → slotGpb u k.val = x → exec (.gpbPublish mid k) s = .next (ended (gooseSend (setSlotGpb u k.val
            { x with stNum := goNext x.stNum, sqNum := 0, active := 1 - x.active, at_ := timeNow u, due := timeNow u }) k.val) 0x420080 0))) ∧
      exec (.gpbRead mid k) s = .next (answered s mid.toNat 0x420080 4 k.val [w32 x.stNum, w32 x.sqNum, w32 (x.active * 2 + b2n x.running),
        w32 (nsOf x.at_), w32 (secOf x.at_), w32 (secOf x.at_ / 2 ^ 32)]))

/-- GOOSE subscriptions (R214 to R223): frames that a step of R214 turns away are counted; one in a new state writes its buffer entry, and its
event is posted; a LIVE subscription whose time has run out expires with an event; WRITE, READ, DISABLE and STATE act on a subscription. -/
def Obligations.GooseSubscriber : Prop :=
  ∀ (s : State) (mid : Mid) (n : Fin 4096), s.cru.inReset = false →
    (∀ c f q, s.mac.goose.hold = none → nextClass s 18 = some c → headOf s 18 c = some f → q = takeHead s 18 c →
      (enabled q 0x421000 = false → exec .gooseSubFrame s = .next (cinc q Fld.GSB_STOPPED_COUNT)) ∧
      (enabled q 0x421000 = true → (f.oversize || f.fcsBad) = true ∨ goosePrefix f.bytes = none → exec .gooseSubFrame s = .next (cinc q Fld.GSB_FORMAT_COUNT)) ∧
      (∀ gocb rest, enabled q 0x421000 = true → (f.oversize || f.fcsBad) = false → goosePrefix f.bytes = some (gocb, rest) →
        (gsbMatch q f.bytes gocb = none → exec .gooseSubFrame s = .next (cinc q Fld.GSB_NOMATCH_COUNT)) ∧
        (∀ (k : Nat) (x : GsbSub) (p : GoosePdu) (u : State), gsbMatch q f.bytes gocb = some k → subOf q k = some x →
          simOk (bits (x.d.getD 4 0) 29 28) (bit (be f.bytes (appAt f.bytes + 4) 2) 15) = true → pduRest rest = some p → p.confRev = x.d.getD 3 0 →
          bit (x.d.getD 4 0) 30 = false → (x.st ≠ .live ∨ p.stNum ≠ x.stNum) → pairOp q = false →
          subWrite q x p.stNum (bufferEntry p.stNum p.sqNum (f.ts / nsUnit) p.ndat p.data) = (u, true) → exec .gooseSubFrame s = .next (goosePost
            (setSub u k { x with st := .live, stNum := p.stNum, sqNum := p.sqNum, ns := f.ts / nsUnit, ttl := p.ttl, nds := p.nds })
            (gooseEvent k x p.stNum p.sqNum (f.ts / nsUnit) p.nds false) (bufferEntry p.stNum p.sqNum (f.ts / nsUnit) p.ndat p.data) true none)))) ∧
    (∀ x, subOf s n.val = some x → enabled s 0x421000 = true → x.valid = true → x.st = .live → bit (x.d.getD 4 0) 26 = true →
      (x.ns + x.ttl * 10 ^ 6) * nsUnit ≤ timeNow s → exec (.gooseExpire n) s = .next (expiryPost (cinc (setSub s n.val { x with st := .expired })
        Fld.GSB_EXPIRE_COUNT) n.val (gooseEvent n.val x x.stNum x.sqNum (x.ns + x.ttl * 10 ^ 6) x.nds true))) ∧
    (Free s mid.toNat 0x421080 →
      (∀ (d : List Word) (x : GsbSub) (q : State), d.length ≤ 12 → x = { d := subWords (word s 0x421080 d) } →
        q = asks (written s d) mid.toNat 0x421080 1 true n.val d →
        (∀ o, subOf s n.val = some o → o.valid = true → o.key ≠ x.key → exec (.gsbSubWrite mid n d) s = .next (ended q 0x421080 0x05)) ∧
        ((∀ o, subOf s n.val = some o → o.valid = true → o.key = x.key) →
          ((s.mac.goose.subs.any fun e => e.1 != n.val && e.2.valid && e.2.key == x.key) = true →
            exec (.gsbSubWrite mid n d) s = .next (ended q 0x421080 0x02)) ∧
          ((s.mac.goose.subs.any fun e => e.1 != n.val && e.2.valid && e.2.key == x.key) = false →
            (∀ o, subOf s n.val = some o → o.valid = true →
              exec (.gsbSubWrite mid n d) s = .next (ended (setSub q n.val { o with d := x.d }) 0x421080 0)) ∧
            ((∀ o, subOf s n.val = some o → o.valid = false) → exec (.gsbSubWrite mid n d) s = .next (ended (setSub q n.val x) 0x421080 0))))) ∧
      (∀ x, subOf s n.val = some x →
        exec (.gsbSubRead mid n) s = .next (answered s mid.toNat 0x421080 2 n.val
          ((List.range 9).map fun i => w32 (x.d.getD i 0 + (if i = 4 then bitAt x.valid 31 else 0)))) ∧
        exec (.gsbSubDisable mid n) s = .next (ended (setSub (asks s mid.toNat 0x421080 3 true n.val []) n.val { x with valid := false }) 0x421080 0))) ∧
    (∀ x, Free s mid.toNat 0x4210C0 → subOf s n.val = some x → exec (.gsbStateRead mid n) s = .next (answered s mid.toNat 0x4210C0 1 n.val
      [w32 x.stNum, w32 x.sqNum, w32 (x.ns % 10 ^ 9), w32 (x.ns / 10 ^ 9), w32 (x.ns / 10 ^ 9 / 2 ^ 32), w32 (bitAt x.valid 31 + x.st.code), w32 x.ttl]))

/-- The forwarding database (R238, R239, R259): a learned entry ages out; WRITE stores a static entry over its key, a free way or the oldest
learned one, else ends with 0x02; READ returns an entry; DELETE removes one or ends with 0x01; FLUSH removes what was learned; the keys that a request changes are noted for its clock, so that no
learning update of the clock brings them back (R240). -/
def Obligations.ForwardingDatabase : Prop :=
  ∀ (s : State) (mid : Mid), s.cru.inReset = false →
    (∀ (i : Fin 16384) (e : FdbEntry), tget s.trl.fdb i.val = some e → e.static = false → e.at_ + fget s Fld.TRL_AGE_S * 10 ^ 9 ≤ s.sdl.fab →
      exec (.fdbAgeOut i) s = .next { s with trl := { s.trl with fdb := tdel s.trl.fdb i.val } }) ∧
    (∀ (i : Fin 16384) (e : FdbEntry), tget s.trl.fdb i.val = some e → e.static = true ∨ s.sdl.fab < e.at_ + fget s Fld.TRL_AGE_S * 10 ^ 9 →
      exec (.fdbAgeOut i) s = .next s) ∧
    (Free s mid.toNat 0x401040 →
      (∀ (d : List Word) (mac vid : Nat) (q : Nat → State), d.length ≤ 12 → q = (fun op => asks (written s d) mid.toNat 0x401040 op true 0 d) →
        mac = addrOfWords (word s 0x401040 d 0) (word s 0x401040 d 1 % 2 ^ 16) → vid = bits (word s 0x401040 d 1) 27 16 →
        (exec (.trlFdbWrite mid d) s = .next (
          match ((fdbFind s mac vid).orElse fun _ => fdbFree s (fdbBucket mac vid)).orElse fun _ => fdbOldest s (fdbBucket mac vid) with
          | some i => ended (fdbNote (setFdb (q 1) (tset s.trl.fdb i ⟨mac, vid, word s 0x401040 d 2 % 2 ^ 20, true, s.sdl.fab⟩)) [(mac, vid)]) 0x401040 0
          | none => ended (q 1) 0x401040 0x02)) ∧
        (exec (.trlFdbDelete mid d) s = .next (match fdbFind s mac vid with
          | some i => ended (fdbNote (setFdb (q 3) (tdel s.trl.fdb i)) [(mac, vid)]) 0x401040 0
          | none => ended (q 3) 0x401040 0x01))) ∧
      (∀ (i : BitVec 16), exec (.trlFdbRead mid i) s = .next (answered s mid.toNat 0x401040 2 i.toNat (match tget s.trl.fdb (i.toNat % 2 ^ 14) with
        | some e => [w32 (addrD0 e.mac), w32 (2 ^ 31 + bitAt e.static 30 + e.vid * 2 ^ 16 + addrD1 e.mac), w32 e.mask]
        | none => []))) ∧
      exec (.trlFdbFlush mid) s =
        .next (ended (fdbNote (setFdb (asks s mid.toNat 0x401040 4 true 0 []) (s.trl.fdb.filter fun e => e.2.static))
          ((s.trl.fdb.filter fun e => !e.2.static).map fun e => (e.2.mac, e.2.vid))) 0x401040 0))

/-- Queues and host rings (R205, R235, R245, R246, R250, R252 to R255, R603, R608): a spilled frame is read back from its cells in DRAM while its
queue holds fewer than 64 cells on chip, or is lost where a read fails; a resequencer that times out discards, counts and reports each frame of
its input that has begun and waits for the next number; the DMA takes a descriptor and its frame from a transmit ring,
and delivers a frame into a receive ring; a ring halts where memory fails; a write of SIZE empties the ring. -/
def Obligations.HostRings : Prop :=
  ∀ (s : State), s.cru.inReset = false →
    (∀ (k : Fin 3200) (q pre post : List Frame) (f : Frame) (v u : State) (b : Option (List Nat)) (next : State → State),
      tat (admQueues s) k.val [] = q → q = pre ++ f :: post → (∀ g ∈ pre, g.dram = false) → f.dram = true → cellsIn false q < 64 →
      (spillUsed s).2 + 64 * cellsOf f ≤ 25000 → s.trl.full = true ∨ movingTo s k.val = [] →
      next = (fun w => if s.trl.full then trlPump w else settleHead w (k.val / 8) (k.val % 8)) →
      v = { s with trl := { s.trl with spill := (s.sdl.fab / 1000, (spillUsed s).1, (spillUsed s).2 + 64 * cellsOf f) } } →
      ovfRead v f.dcells f.bytes.length = (u, b) → u.trl.full = s.trl.full →
      (∀ bs, b = some bs → exec (.spillReadback k) s = .next (next (setAdm { u with trl := { u.trl with queued := u.trl.queued + 1 } } k.val
        (pre ++ { f with bytes := bs, dram := false, dcells := [], queued := u.trl.queued } :: post)))) ∧
      (b = none → exec (.spillReadback k) s = .next (next (if k.val % 160 < 128 then
        stampDrop (cinc (setAdm u k.val (pre ++ post)) Fld.TRL_ECC_DROP_COUNT) (k.val % 160 / 8) f
        else cinc (setAdm u k.val (pre ++ post)) Fld.TRL_ECC_DROP_COUNT)))) ∧
    (∀ (i o : Fin 20) (unit : Word) (mine : Nat → Bool) (begun : List Moving) (r : State), enabled s 0x400000 = true →
      mine = (fun k => k / 160 == i.val && k % 160 / 8 == o.val) →
      begun = ((s.trl.stage.filter fun e => mine e.1).map fun e => e.2.filter fun x => decide (0 < x.sent)).flatten →
      r = { s with trl := { s.trl with
        stage := (s.trl.stage.map fun e => if mine e.1 then (e.1, e.2.filter fun x => x.sent == 0) else e).filter fun e => !e.2.isEmpty
        mid := s.trl.mid.filter fun e => !(e.1 % 20 == o.val && e.2.input == i.val)
        reseq := tset s.trl.reseq (20 * o.val + i.val) { next := tat s.trl.seqTx (20 * i.val + o.val) 0 } } } →
      exec (.resequenceTimeout i o unit) s = .next (trlPump (begun.foldl (fun u x =>
        if o.val < 16 then stampDrop (raiseFault (drew (cinc u Fld.TRL_RESEQ_ERR_COUNT)) 13 [unit.toNat]) o.val x.frame
        else raiseFault (drew (cinc u Fld.TRL_RESEQ_ERR_COUNT)) 13 [unit.toNat]) r))) ∧
    (∀ (r : Nat) (q u : State) (b : Option (List Nat)), enabled s 0x410000 = true →
      (((List.range 8).map fun i => (s.trl.lastTx + 1 + i) % 8).find? (txReady s)) = some r → q = { s with trl := { s.trl with lastTx := r } } →
      physRead q dmaMid (fget s (Fld.TRL_TXR_BASE_ADDR r) * 4096 + (txRing s r).head * 32) 32 = (u, b) →
      (b = none → exec .hostTxFrame s = .next (haltTx u r)) ∧
      (∀ d v b', b = some d → physRead u dmaMid (ofLe (d.take 8)) (ofLe ((d.drop 8).take 2)) = (v, b') →
        (b' = none → exec .hostTxFrame s = .next (haltTx v r)) ∧
        (∀ bs w f, b' = some bs → 14 ≤ bs.length → w = cinc { v with trl := { v.trl with
            tx := tset v.trl.tx r { txRing s r with head := ((txRing s r).head + 1) % 2 ^ fget v (Fld.TRL_TXR_SIZE_LOG r) } } } (Fld.TRL_TXC_COUNT r) →
          f = { frameOfDesc v r d with
            bytes := bs, prio := match outerTag bs with | some t => t / 8192 | none => (frameOfDesc v r d).tc } →
          (16 ≤ bits (ofLe ((d.drop 8).take 4)) 31 27 → exec .hostTxFrame s = .next (trlForward w { f with asIs := false } [])) ∧
          (∀ mask, mask = (if f.asIs then 2 ^ bits (ofLe ((d.drop 8).take 4)) 31 27 else widenPairs w (2 ^ bits (ofLe ((d.drop 8).take 4)) 31 27)) →
            bits (ofLe ((d.drop 8).take 4)) 31 27 < 16 →
            exec .hostTxFrame s = .next (trlHand (neverSent w f (mask - openPorts w mask)) f (openPorts w mask)))))) ∧
    (∀ (c : Fin 8) (g : Ring) (f : Frame) (at_ cap : Nat) (u : State) (b : Option (List Nat)), enabled s 0x410000 = true → g = rxRing s c.val →
      g.halt = false → g.head ≠ fget s (Fld.TRL_RXR_TAIL_TAIL c.val) → headOf s 17 c.val = some f →
      at_ = fget s (Fld.TRL_RXR_BASE_ADDR c.val) * 4096 + g.head * 32 → cap = fget s (Fld.TRL_RXR_SIZE_BUFLEN c.val) →
      physRead (takeHead s 17 c.val) dmaMid at_ 8 = (u, b) →
      (b = none → exec (.hostRxDeliver c) s = .next (haltRx u c.val)) ∧
      (∀ a v w x, b = some a → physWrite u dmaMid (ofLe a) (f.bytes.take cap) = (v, true) →
        physWrite v dmaMid (at_ + 8) (rxDesc f (f.bytes.take cap).length) = (w, true) →
        x = (if cap < f.bytes.length then cinc w Fld.TRL_DMA_TRUNC_COUNT else w) → exec (.hostRxDeliver c) s = .next (cinc { x with trl := { x.trl with
          rx := tset x.trl.rx c.val { g with head := (g.head + 1) % 2 ^ fget x (Fld.TRL_RXR_SIZE_LOG c.val) } } } (Fld.TRL_RXC_COUNT c.val)))) ∧
    (∀ (mid : Mid) (r : Fin 8) (v : Word), locked s 0x410000 = false → claimedBy s 0x410000 = none →
      (mayWrite s mid.toNat (0x410044 + 0x10 * r.val) = true → ∃ t, exec (.ringSizeWrite mid true r v) s = .next t ∧
        fget t (Fld.TRL_TXR_SIZE_LOG r.val) = clampTo 4 14 (bits v.toNat 3 0) ∧ fget t (Fld.TRL_TXR_TAIL_TAIL r.val) = 0 ∧ txRing t r.val = {} ∧
        (∀ f, fkey f ≠ fkey (Fld.TRL_TXR_SIZE_LOG r.val) → fkey f ≠ fkey (Fld.TRL_TXR_TAIL_TAIL r.val) → fget t f = fget s f) ∧
        t = { s with trl := { s.trl with tx := tdel s.trl.tx r.val }, reg := { s.reg with fields := t.reg.fields, resp := {} } }) ∧
      (mayWrite s mid.toNat (0x4100C4 + 0x10 * r.val) = true → ∃ t, exec (.ringSizeWrite mid false r v) s = .next t ∧
        fget t (Fld.TRL_RXR_SIZE_LOG r.val) = clampTo 4 14 (bits v.toNat 3 0) ∧ fget t (Fld.TRL_RXR_SIZE_BUFLEN r.val) = clampTo 64 16383 (bits v.toNat 29 16) ∧
        fget t (Fld.TRL_RXR_TAIL_TAIL r.val) = 0 ∧ rxRing t r.val = {} ∧
        t = { s with trl := { s.trl with rx := tdel s.trl.rx r.val }, reg := { s.reg with fields := t.reg.fields, resp := {} } }))

/-! ### From the sampled values to the cycle -/

/-- Frames and sets of SV ingest (R264, R266 to R268, R271, R279, R280, R288): a frame is counted by the first step of R266 that turns it away,
an accepted one places its ASDUs and raises its event; a stream without a placement for TMO becomes lost; a set whose release clock has come is
released to the taps, after the sets of lower-numbered groups that are due by then, or passed over with every unreleased set of its group where the
group or page 0 is off. -/
def Obligations.SampledValues : Prop :=
  ∀ s : State, s.cru.inReset = false →
    (∀ (c : Nat) (f : Frame) (q : State) (busy : Nat → State → State), s.svi.hold = none → s.svi.busy ≤ s.sdl.fab → nextClass s 16 = some c →
      headOf s 16 c = some f → q = takeHead s 16 c → busy = (fun n u => { u with svi := { u.svi with busy := u.sdl.fab + max 16 n } }) →
      (f.oversize = true → exec .svFrameIngest s = .next (busy 0 (cinc q Fld.SVI_OVERSIZE_COUNT))) ∧
      (f.oversize = false → genActive q = false ∨ enabled q 0x500000 = false → exec .svFrameIngest s = .next (busy 0 (cinc q Fld.SVI_STOPPED_COUNT))) ∧
      (f.oversize = false → genActive q = true → enabled q 0x500000 = true →
        (firstSvId f.bytes = none → exec .svFrameIngest s = .next (busy 0 (cinc q Fld.SVI_FORMAT_COUNT))) ∧
        (∀ id, firstSvId f.bytes = some id →
          (sviMatch q f.bytes id = none → exec .svFrameIngest s = .next (busy 0 (cinc q Fld.SVI_NOMATCH_COUNT))) ∧
          (∀ k x sim n, sviMatch q f.bytes id = some k → x = streamOf q k → n = x.nasdu * x.nch →
            sim = simOk (bits (x.w 4) 14 13) (bit (be f.bytes (appAt f.bytes + 4) 2) 15) →
            (groupOn q x.group = false → exec .svFrameIngest s = .next (busy n (cinc q Fld.SVI_STOPPED_COUNT))) ∧
            (groupOn q x.group = true → sim = false → exec .svFrameIngest s = .next (busy n (rejectFrame (strInc q k 4) k f))) ∧
            (groupOn q x.group = true → sim = true → layoutOk x f.bytes = none →
              exec .svFrameIngest s = .next (busy n (rejectFrame (strInc (cinc q Fld.SVI_FORMAT_COUNT) k 3) k f))) ∧
            (∀ as u, groupOn q x.group = true → sim = true → layoutOk x f.bytes = some as → x.auth = false →
              u = as.foldl (asduPlace k f.ts) (setStream (strInc q k 0) k { streamOf (strInc q k 0) k with lastNs := f.ts / nsUnit }) →
              exec .svFrameIngest s = .next (busy n (if (streamOf u k).evmode = 1 then frameEvent u {
                type := 1, queue := (streamOf u k).evq, flow := k, src := 0x3000, ns := f.ts / nsUnit, w5 := k, w6 := (as.head?.map (·.cnt)).getD 0 } else u))))))) ∧
    (∀ (k : Fin 2048) (t : Nat) (x : Stream), x = streamOf s k.val → x.placedAt = some t → x.valid = true → x.lost = false →
      t + bits (x.w 5) 31 24 * 10 ^ 6 ≤ s.sdl.fab → exec (.streamLostTimeout k) s = .next (stateEvent (setStream s k.val { x with lost := true }) k.val)) ∧
    (∀ (g : Fin 256) (n f c : Nat), s.svi.ended.find? (fun e => unreleased s g.val (e.1, e.2.1)) = some (n, f, c) →
      (s.sdl.fab < c + groupH s g.val → exec (.alignmentRelease g) s = .next (blvDrain s)) ∧
      (c + groupH s g.val ≤ s.sdl.fab → ∀ u, u = (List.range g.val).foldl (releaseTo (c + groupH s g.val)) s → exec (.alignmentRelease g) s =
        .next (blvDrain (if groupOn u g.val && enabled u 0x500000 then releaseSet u g.val n f else passAll u g.val n f)))) ∧
    (∀ g : Fin 256, s.svi.ended.find? (fun e => unreleased s g.val (e.1, e.2.1)) = none → exec (.alignmentRelease g) s = .next (blvDrain s))

/-- The mailboxes of SV ingest (R269, R289, R290, R293): a WRITE or a DISABLE of a descriptor waits for an edge while ticks are produced, else
acts at once, a change of TMO with its effect on the lost state, and channels no longer processed lose their histories; READ answers the descriptor; the counts are read, and lose what SUB says with a floor of zero. -/
def Obligations.StreamDescriptors : Prop :=
  ∀ (s : State) (mid : Mid) (k : Fin 2048) (x : Stream), x = streamOf s k.val →
    (Free s mid.toNat 0x500080 →
      (∀ (d : List Word) (ds : List Nat) (q : State), d.length ≤ 12 → ds = descWords (word s 0x500080 d) →
        q = asks (written s d) mid.toNat 0x500080 1 true k.val d →
        (∀ c, descRefusal s k.val ds = some c → exec (.sviDescWrite mid k d) s = .next (ended q 0x500080 c)) ∧
        (descRefusal s k.val ds = none → genActive s = true →
          exec (.sviDescWrite mid k d) s = .next (respond { q with svi := { s.svi with pend := some (k.val, some ds, s.sdl.fab) } } {})) ∧
        (descRefusal s k.val ds = none → genActive s = false → exec (.sviDescWrite mid k d) s =
          .next (respond (mbxEndIfBusy (casDrop (if x.valid then lostFollow (setStream { q with svi := { s.svi with pend := none } } k.val { x with d := ds }) k.val
            else setStream { q with svi := { s.svi with pend := none } } k.val { x with
              d := ds, valid := true, since := (0, 1), kLast := none, placedAt := none, lost := true, good := [], qual := [], consec := 0 })) 0x500080 0) {}))) ∧
      exec (.sviDescRead mid k) s = .next (answered s mid.toNat 0x500080 2 k.val
        ((List.range 10).map fun i => w32 (x.w i + (if i = 4 then bitAt x.valid 31 else 0)))) ∧
      (∀ q, q = asks s mid.toNat 0x500080 3 true k.val [] →
        (genActive s = true →
          exec (.sviDescDisable mid k) s = .next (respond { q with svi := { s.svi with pend := some (k.val, none, s.sdl.fab) } } {})) ∧
        (genActive s = false → exec (.sviDescDisable mid k) s = .next (ended (casDrop { q with svi := { s.svi with
          pend := none, streams := tset s.svi.streams k.val { x with valid := false }
          buf := s.svi.buf.filter (fun y => y.stream != k.val), rej := s.svi.rej.filter fun e => e.1 != k.val } }) 0x500080 0)))) ∧
    (Free s mid.toNat 0x5000C0 →
      (∀ c : Nat → Nat, c = (fun i => tat x.cnt i 0) → exec (.sviScntRead mid k) s = .next (answered s mid.toNat 0x5000C0 1 k.val
        ([c 0, c 1 * 2 ^ 16 + c 2, c 3 * 2 ^ 16 + c 4, c 5 * 2 ^ 16 + c 6, c 7 * 2 ^ 16 + c 8, c 9 * 2 ^ 16 + c 10, c 11 * 2 ^ 16 + c 99,
          c 12 * 2 ^ 16 + c 13, b2n (x.lost && x.valid) * 2 + b2n x.valid, x.kLast.getD 0, x.lastNs % 10 ^ 9].map w32))) ∧
      (∀ (d : List Word) (w : Nat → Nat), d.length ≤ 12 → w = word s 0x5000C0 d → ∃ cnt, exec (.sviScntSub mid k d) s =
          .next (ended (setStream (asks (written s d) mid.toNat 0x5000C0 2 true k.val d) k.val { x with cnt := cnt }) 0x5000C0 0) ∧
        ∀ e ∈ [(0, w 0), (1, w 1 / 2 ^ 16), (2, w 1 % 2 ^ 16), (3, w 2 / 2 ^ 16), (4, w 2 % 2 ^ 16), (5, w 3 / 2 ^ 16), (6, w 3 % 2 ^ 16),
            (7, w 4 / 2 ^ 16), (8, w 4 % 2 ^ 16), (9, w 5 / 2 ^ 16), (10, w 5 % 2 ^ 16), (11, w 6 / 2 ^ 16), (12, w 7 / 2 ^ 16), (13, w 7 % 2 ^ 16)],
          tat cnt e.1 0 = tat x.cnt e.1 0 - e.2))

/-- The Cascade and the Lantern (R295, R301, R324, R328): the oldest released set is filtered and its points offered to the Belvedere; a sync by
GO or by the pin is taken with its groups and N_s; SYNC_OUT falls 1 µs after its rise; CAS_RESP answers a part of a response or its figures;
LTN_TRIP changes a triplet at the next edge, or at once while no edge will come, and reads one. -/
def Obligations.FiltersAndPhasors : Prop :=
  ∀ (s : State) (mid : Mid), s.cru.inReset = false →
    (∀ r rs v, s.svi.toCas = r :: rs → v = { s with svi := { s.svi with toCas := rs }, cas := { s.cas with differ := [] } } →
      exec .cascadeProcessSet s = .next (blvPoints (if enabled s 0x600000 then casSet v s.cas.differ r else v) r.tick r.hz)) ∧
    (∀ out, mayWrite s mid.toNat 0x600040 = true → exec (.casSyncGo mid out) s = .next (respond { wscNote s 0x600040 (b2n out * 2 + 1) with cas := { s.cas with
      syncs := s.cas.syncs ++ [⟨true, out, syncGroups s, s.sdl.fab, if s.sdl.gen = .running then some (firstSyncTick s + 1) else none⟩] } } {})) ∧
    (fbit s Fld.CAS_SYNCPIN_PINEN = true → exec .syncInEdge s = .next { s with cas := { s.cas with
      syncs := s.cas.syncs ++ [⟨false, false, syncGroups s, s.sdl.fab, if s.sdl.gen = .running then some (firstSyncTick s) else none⟩] } }) ∧
    (fbit s Fld.CAS_SYNCPIN_PINEN = false → exec .syncInEdge s = .next s) ∧
    (s.cas.syncOut = true → s.cas.syncOutAt + 1000 ≤ s.sdl.raw → exec .syncOutFall s = .next { s with cas := { s.cas with syncOut := false } }) ∧
    (∀ (r : Fin 32) (mp : Bool), Free s mid.toNat 0x600080 →
      (r.val ≤ 23 → (∀ (part : Fin 4) (c : Nat → Nat), c = (fun i => if i < romTaps r.val then ofSigned 16 (coefOf (b2n mp) r.val i) else 0) →
          exec (.casRespCoef mid r mp part) s = .next (answered s mid.toNat 0x600080 1 (part.val * 64 + bitAt mp 5 + r.val)
            ((List.range 12).map fun i => w32 (c (24 * part.val + 2 * i) + 2 ^ 16 * c (24 * part.val + 2 * i + 1))))) ∧
        exec (.casRespInfo mid r mp) s = .next (answered s mid.toNat 0x600080 2 (bitAt mp 5 + r.val)
          ([romTaps r.val, romD r.val, dcDelay (b2n mp) r.val, (romRow r.val).2.2].map w32))) ∧
      (23 < r.val → exec (.casRespInfo mid r mp) s = .next (ended (asks s mid.toNat 0x600080 2 false (bitAt mp 5 + r.val) []) 0x600080 0xFF))) ∧
    (∀ t : Fin 8192, Free s mid.toNat 0x700080 →
      (∀ (d : List Word) (w : Nat → Nat) (y : Triplet) (q : State), d.length ≤ 12 → w = word s 0x700080 d → y = ⟨w 0 % 2 ^ 14, w 1 % 2 ^ 14, w 2 % 2 ^ 14, true⟩ →
        q = asks (written s d) mid.toNat 0x700080 1 true t.val d →
        (genActive s = true → exec (.ltnTripWrite mid t d) s = .next (respond { q with cas := { s.cas with trip := some (t.val, some y) } } {})) ∧
        (genActive s = false → exec (.ltnTripWrite mid t d) s =
          .next (ended { q with cas := { s.cas with trip := none, trips := tset s.cas.trips t.val y } } 0x700080 0))) ∧
      (∀ x q, x = tat s.cas.trips t.val ⟨0, 0, 0, false⟩ → q = asks s mid.toNat 0x700080 3 true t.val [] →
        exec (.ltnTripRead mid t) s = .next (answered s mid.toNat 0x700080 2 t.val [w32 x.a, w32 x.b, w32 x.c, w32 (bitAt x.valid 31 + b2n (tripErr s x))]) ∧
        (genActive s = true → exec (.ltnTripDisable mid t) s = .next (respond { q with cas := { s.cas with trip := some (t.val, none) } } {})) ∧
        (genActive s = false → exec (.ltnTripDisable mid t) s =
          .next (ended { q with cas := { s.cas with trip := none, trips := tset s.cas.trips t.val { x with valid := false } } } 0x700080 0))))

/-! ### The Bandstand, the cycle and the pavilions -/

/-- Posts (R332, R333, R335, R336, R338, R350, R406, R437): a post to a closed queue is discarded; one of a producer that has had a post admitted
in this clock waits; one to a full queue or pool is refused, else the event joins the tail of its queue, the posts of one clock in the order of
their producers. The Bandstand writes SRC, and the event time of a SOFT event. The hardware's producers hold what is still to be made, a newer
event replacing a held one, and offer it again; in pair operation batched and SOFT events go to the Footbridge. The mailboxes answer 0, 1, 2, 9 or
0x0B, or wait for the next clock. -/
def Obligations.EventPosts : Prop :=
  ∀ (s : State), s.cru.inReset = false →
    (∀ (e : Ev) (q : Nat), q = e.queue % 8192 →
      (qOpen s q = false → bndPost s e = (cinc s Fld.BND_NOQ_COUNT, .discarded)) ∧
      (qOpen s q = true → hasPosted s (producerOf e) = true → bndPost s e = (s, .later)) ∧
      (qOpen s q = true → hasPosted s (producerOf e) = false → enabled s 0x800000 = false ∨ qLimit s q ≤ (queueOf s q).length ∨ poolFree s = 0 →
        bndPost s e = (cinc s Fld.BND_REFUSE_COUNT, .refused)) ∧
      (qOpen s q = true → hasPosted s (producerOf e) = false → enabled s 0x800000 = true → (queueOf s q).length < qLimit s q → poolFree s ≠ 0 →
        ∃ x : QEv, ∃ l, x = { ev := { e with queue := q, gen := genOf s (qOwner s q) }, seq := s.bnd.seq, owner := qOwner s q
                              cls := min (fget s (Fld.BND_Q_CFG_CLASS (q / 128) (q % 128))) 2
                              deadline := fget s (Fld.BND_Q_LIM_DEADLINE (q / 128) (q % 128)), post := some (s.sdl.fab, producerOf e) } ∧
          l.Perm (x :: queueOf s q) ∧
          ((∀ y ∈ queueOf s q, ∀ n, y.post = some (s.sdl.fab, n) → n ≤ producerOf e) → l = queueOf s q ++ [x]) ∧
          bndPost s e = (notePost (cinc { s with bnd := { s.bnd with queues := tset s.bnd.queues q l, seq := s.bnd.seq + 1 } } Fld.BND_POSTS_COUNT)
            (producerOf e), .admitted))) ∧
    (∀ (p : PostedEvent) (e : Ev), e = evOf s p →
      (e.type = p.type.toNat ∧ e.queue = p.queue.toNat ∧ e.flow = p.flow.toNat ∧ e.ns = (if e.type = 0x10 then nowNs s else p.ns.toNat) ∧
        e.src = (if e.type ∈ [1, 2, 3] then 0x3000 else if e.type = 4 then 0x3002 else if e.type = 5 then 0x3005 else if e.type = 6 then 0x300B
          else if e.type = 7 then 0x300D else if e.type = 8 then 0x3006 else p.src.toNat)) ∧
      (e.type = 1 → exec (.eventPost p) s = .next (if s.svi.hold.isSome then s else frameEvent s e)) ∧
      (∀ u r, bndPost s e = (u, r) → e.type = 1 → s.svi.hold = none →
        exec (.eventPost p) s = .next (if r.holds then { u with svi := { u.svi with hold := some e } } else u)) ∧
      (∀ h n c, (e.type, h, n, c) ∈ [(2, Holder.state, e.flow % 2048, Fld.SVI_EVHOLD_COUNT), (3, .release, e.flow % 256, Fld.SVI_EVHOLD_COUNT),
          (4, .meas, e.flow % 256, Fld.LTN_EVHOLD_COUNT)] →
        (∀ old, heldOf s h n = some old → exec (.eventPost p) s = .next (cinc (setHeld s h n [if h = .state then e else
          { e with missed := min (old.missed + 1) 255 }]) c)) ∧
        (∀ u r, bndPost s e = (u, r) → heldOf s h n = none → exec (.eventPost p) s = .next (if r.holds then setHeld u h n [e] else u))) ∧
      (∀ h n, (e.type, h, n) ∈ [(6, Holder.din, e.flow % 32), (8, .capture, e.flow % 16)] →
        (∀ old, heldOf s h n = some old → exec (.eventPost p) s = .next (setHeld s h n [{ e with missed := min (old.missed + 1) 255 }])) ∧
        (∀ u r, batchPost s e = (u, r) → heldOf s h n = none → exec (.eventPost p) s = .next (if r.holds then setHeld u h n [e] else u))) ∧
      (e.type = 5 → bit e.w5 12 = true → exec (.eventPost p) s = .next (expiryPost s (e.flow % 4096) e)) ∧
      (e.type = 5 → bit e.w5 12 = false → exec (.eventPost p) s = .next (if s.mac.goose.hold.isSome then s else goosePost s e [] false none)) ∧
      (e.type = 7 → exec (.eventPost p) s =
        .next (retryAlarm (setHeld s .alarm (e.flow % 256) (tat s.bnd.held (Holder.alarm.key (e.flow % 256)) [] ++ [e])))) ∧
      (e.type = 0x10 → qOpen s e.queue = false ∨ (midClass e.src = 2 ∧ qOwner s e.queue ≠ midIndex e.src % 1024 ∧
          fbit s (Fld.BND_Q_CFG_PUB (e.queue / 128) (e.queue % 128)) = false) → exec (.eventPost p) s = .next (cinc s Fld.BND_NOQ_COUNT)) ∧
      (e.type = 0x10 → qOpen s e.queue = true → midClass e.src ≠ 2 ∨ qOwner s e.queue = midIndex e.src % 1024 ∨
          fbit s (Fld.BND_Q_CFG_PUB (e.queue / 128) (e.queue % 128)) = true →
        (pairOp s = false → exec (.eventPost p) s = .next (bndPost s e).1) ∧
        (pairOp s = true → midClass e.src ≠ 2 → exec (.eventPost p) s = .next (batchOwn s { ev := e, key := 0, side := 0, tick := 0 }).1) ∧
        (∀ k n, pairOp s = true → midClass e.src = 2 → k = midIndex e.src % 1024 → n = tat s.ftb.posts k 0 →
          exec (.eventPost p) s = .next (countTaken k n (batchOwn s { ev := e, key := n, side := 0, tick := 0 })).1)) ∧
      (e.type ∉ [1, 2, 3, 4, 5, 6, 7, 8, 0x10] → exec (.eventPost p) s = .next (bndPost s e).1)) ∧
    (∀ (h : HeldBy) (x : Holder) (n : Nat) (e : Ev) (u : State) (r : PostResult),
      (h, x, n, u, r) ∈ ((List.finRange 2048).map fun k => (HeldBy.state k, Holder.state, k.val, bndPost s e)) ++
        ((List.finRange 256).map fun g => (HeldBy.release g, Holder.release, g.val, bndPost s e)) ++
        ((List.finRange 256).map fun g => (HeldBy.meas g, Holder.meas, g.val, bndPost s e)) ++
        ((List.finRange 32).map fun p => (HeldBy.din p, Holder.din, p.val, batchPost s e)) ++
        ((List.finRange 16).map fun g => (HeldBy.capture g, Holder.capture, g.val, batchPost s e)) → heldOf s x n = some e →
      exec (.heldEventRetry h) s = .next (if r.holds then u else setHeld u x n (tat u.bnd.held (x.key n) []).tail)) ∧
    (s.ang.offerAt = some s.sdl.fab ∨ nextHeldAlarm s = none → exec (.heldEventRetry .alarm) s = .next s) ∧
    (∀ k e u r, s.ang.offerAt ≠ some s.sdl.fab → nextHeldAlarm s = some k → heldOf s .alarm k = some e →
      bndPost { s with ang := { s.ang with turn := k, offerAt := some s.sdl.fab } } e = (u, r) →
      exec (.heldEventRetry .alarm) s = .next (if r.holds then u else setHeld u .alarm k (tat u.bnd.held (Holder.alarm.key k) []).tail)) ∧
    (∀ e u r, s.svi.hold = some e → bndPost { s with svi := { s.svi with hold := none } } e = (u, r) →
      exec (.heldEventRetry .frame) s = .next (if r.holds then { u with svi := { u.svi with hold := some e } } else u)) ∧
    (∀ h, s.mac.goose.hold = some h → exec (.heldEventRetry .goose) s =
      .next (goosePost { s with mac := { s.mac with goose := { s.mac.goose with hold := none } } } h.ev h.entry h.fresh h.prev)) ∧
    (∀ (n : Fin 4096) e u r, tget s.mac.goose.expiry n.val = some e → batchPost s e = (u, r) → exec (.heldEventRetry (.expiry n)) s =
      .next (if r.holds then u else { u with mac := { u.mac with goose := { u.mac.goose with expiry := tdel u.mac.goose.expiry n.val } } })) ∧
    (∀ (mid : Mid) (q : BitVec 13) (d : List Word) (w : Nat → Nat) (a : State) (e : Ev), Free s mid.toNat 0x800080 → d.length ≤ 12 →
      w = word s 0x800080 d → a = asks (written s d) mid.toNat 0x800080 1 true q.toNat d →
      e = { type := 0x10, queue := q.toNat, flow := w 1, src := mid.toNat, ns := nowNs s, w5 := w 5, w6 := w 6, w7 := w 7 } →
      (pairOp s = false → ∀ u r, bndPost a e = (u, r) → exec (.bndPost mid q d) s = .next (if r = .later
        then respond { u with bnd := { u.bnd with waits := u.bnd.waits ++ [0x800080] } } {} else ended u 0x800080 r.code)) ∧
      (pairOp s = true → qOpen s q.toNat = false → exec (.bndPost mid q d) s = .next (ended (cinc a Fld.BND_NOQ_COUNT) 0x800080 2)) ∧
      (pairOp s = true → qOpen s q.toNat = true → ∀ u r, batchOwn a { ev := e, key := 0, side := 0, tick := 0 } = (u, r) →
        exec (.bndPost mid q d) s = .next (if r = .later then respond { u with bnd := { u.bnd with waits := u.bnd.waits ++ [0x800080] } } {}
          else ended u 0x800080 r.code))) ∧
    (∀ (mid : Mid) (p : Fin 1024) (q : BitVec 13) (d : List Word) (o : Nat) (w : Nat → Nat) (a : State) (e : Ev) (own : Bool),
      o = 0x40000C0 + 0x1000 * p.val → Free s mid.toNat o → d.length ≤ 12 → w = word s o d → a = asks (written s d) mid.toNat o 1 true q.toNat d →
      e = { type := 0x10, queue := q.toNat, flow := w 0, src := 0x2000 + p.val, ns := nowNs s, w5 := w 1, w6 := w 2, w7 := w 3 } →
      own = (qOwner s q.toNat == p.val || fbit s (Fld.BND_Q_CFG_PUB (q.toNat / 128) (q.toNat % 128))) →
      (fenced s p.val = true → exec (.pavPost mid p q d) s = .next (ended (cinc a (Fld.PAV_POSTREF_COUNT p.val)) o 0x0B)) ∧
      (∀ code, fenced s p.val = false → qOpen s q.toNat = false ∧ code = 2 ∨ qOpen s q.toNat = true ∧ own = false ∧ code = 9 →
        exec (.pavPost mid p q d) s = .next (ended (cinc (cinc a Fld.BND_NOQ_COUNT) (Fld.PAV_POSTREF_COUNT p.val)) o code)) ∧
      (fenced s p.val = false → qOpen s q.toNat = true → own = true → pairOp s = false → ∀ u r, bndPost a e = (u, r) →
        exec (.pavPost mid p q d) s = .next (if r = .later then respond { u with bnd := { u.bnd with waits := u.bnd.waits ++ [o] } } {}
          else ended (if r.code = 0 then u else cinc u (Fld.PAV_POSTREF_COUNT p.val)) o r.code)))

/-- Dispatch (R340 to R345): the next event in service order moves into a pair's free slot entry, and answers a waiting TAKE that has not timed
out; TAKE completes the event taken before and returns the oldest entry, late where its deadline has passed, or waits; a TAKE that times out
answers 0 and is counted; DONE completes the taken event, or is ignored and counted. -/
def Obligations.EventDispatch : Prop :=
  ∀ (s : State) (mid : Mid) (k : Fin 48), s.cru.inReset = false →
    (enabled s 0x800000 = true → 2 ≤ (slotOf s k.val).length ∨ pairUp s k.val = false → exec (.slotFill k) s = .next (purgeAll s)) ∧
    (∀ (u v w : State) (q : Nat) (e : QEv) (mig : Bool), enabled s 0x800000 = true → (slotOf s k.val).length < 2 → pairUp s k.val = true →
      u = purgeAll s → (serveOrder u).findSome? (fun q => (eligibleFor u k.val q).map fun r => (q, r)) = some (q, e, mig) →
      v = purgeHead { u with bnd := { rememberPair (dequeue u.bnd q e.seq) e k.val with
        lastServed := tset u.bnd.lastServed (qPrio u q) q, slots := tset u.bnd.slots k.val (slotOf u k.val ++ [e]) } } q →
      w = (if mig then cinc v Fld.BND_MIGR_COUNT else v) →
      (tget s.bnd.waiting k.val = none → exec (.slotFill k) s = .next w) ∧
      (∀ a tmo t, tget s.bnd.waiting k.val = some (a, tmo, t) →
        (a + tmo ≤ s.sdl.fab → exec (.slotFill k) s = .next w) ∧
        (s.sdl.fab < a + tmo → exec (.slotFill k) s = .next ((returnEntry (purgeSlot w k.val) k.val t).getD (purgeSlot w k.val))))) ∧
    (∀ q, mayRead s mid.toNat (0x880040 + 0x1000 * k.val) = true → q = purgeSlot (completeTaken s k.val) k.val →
      (∀ e es late v, enabled s (0x880000 + 0x1000 * k.val) = true → slotOf q k.val = e :: es → late = isLate e (timeNow q) →
        v = setSlot q k.val es → exec (.bndTake mid k) s = .next (respond (
          let x := cinc { v with bnd := { v.bnd with
            taken := tset v.bnd.taken k.val e, words := tset v.bnd.words k.val (evWords e.ev), waiting := tdel v.bnd.waiting k.val } } (Fld.BND_PTAKE_COUNT k.val)
          if late then cinc x Fld.BND_LATE_COUNT else x) { data := [w32 (2 ^ 31 + bitAt late 30 + e.ev.type * 2 ^ 16 + e.ev.queue)] })) ∧
      (enabled s (0x880000 + 0x1000 * k.val) = false ∨ slotOf q k.val = [] → exec (.bndTake mid k) s = .next (respond { q with bnd := { q.bnd with
        waiting := tset q.bnd.waiting k.val (q.sdl.fab, fget q (Fld.BND_TMO_NS k.val), timeNow q) } } { wait := true }))) ∧
    (∀ a tmo t, tget s.bnd.waiting k.val = some (a, tmo, t) → a + tmo ≤ s.sdl.fab → exec (.takeTimeout k) s =
      .next (cinc (respond { s with bnd := { s.bnd with waiting := tdel s.bnd.waiting k.val } } { data := [0] }) (Fld.BND_PEMPTY_COUNT k.val))) ∧
    (mayWrite s mid.toNat (0x880044 + 0x1000 * k.val) = true → ∀ b, b = wscNote s (0x880044 + 0x1000 * k.val) 1 →
      exec (.bndDone mid k) s = .next (respond (match takenOf s k.val with
        | some _ => { b with bnd := { s.bnd with taken := tdel s.bnd.taken k.val } }
        | none => wign b (0x880000 + 0x1000 * k.val)) {}))

/-- Pairs, instances and the requests of the cycle page (R310, R355, R356, R358, R368, R369, R382, R383, R385, R388, R392, R599, R602): a mismatch, or
an uncorrectable error of its caches, halts and withdraws a pair, and its reset returns it; a corrected error and an engine's differing output
are counted and reported, and results whose lanes differ are noted for the next set; NEXT takes the first released instance and DONE ends it with its list; a checkpoint completes with its valid
mark; EXCHANGE, RESTART and the forces wait for their tick or are refused with their CODE. -/
def Obligations.CycleSequencer : Prop :=
  ∀ (s : State) (mid : Mid), s.cru.inReset = false →
    (∀ k : Fin 48,
      (k.val ∈ s.cyc.halted → exec (.lockstepMismatch (.pair k)) s = .next s) ∧
      (k.val ∉ s.cyc.halted → exec (.lockstepMismatch (.pair k)) s =
        .next (withdraw (raiseOpen { s with cyc := { s.cyc with halted := s.cyc.halted ++ [k.val] } } 1 k.val 0) k.val)) ∧
      (∀ f, exec (.lockstepMismatch (.cache k f)) s = .next (match f with
        | .clean => s
        | .corrected => raiseOpen (cinc s (Fld.MEM_OCCE_COUNT 0)) 11 k.val 0
        | .uncorrectable => pairHalts (cinc s (Fld.MEM_OCUE_COUNT 0)) 2 k.val)) ∧
      (∀ e, exec (.lockstepMismatch (.engine e)) s = .next (raiseOpen s 3 (engineOf e) 0)) ∧
      (∀ d, exec (.lockstepMismatch (.lanes d)) s = .next { s with cas := { s.cas with differ := d } }) ∧
      (mayWrite s mid.toNat (0x980050 + 0x1000 * k.val) = true → exec (.cycPairReset mid k) s = .next (respond (withdraw { wscNote s (0x980050 + 0x1000 * k.val) 1 with
        cyc := { s.cyc with halted := s.cyc.halted.filter (· != k.val) }, dbg := { s.dbg with started := tdel s.dbg.started k.val } } k.val) {})) ∧
      (mayRead s mid.toNat (0x980040 + 0x1000 * k.val) = true →
        (∀ e, enabled s (0x980000 + 0x1000 * k.val) = true → nextInstance s k.val = some e → exec (.cycNext mid k) s =
          .next (respond { s with cyc := { s.cyc with
            insts := s.cyc.insts.map fun x => if x = e then { x with st := .running } else x
            ntick := tset s.cyc.ntick k.val (e.start % 2 ^ 32) } } { data := [w32 (2 ^ 31 + e.cls * 2 ^ 16 + e.pav)] })) ∧
        (enabled s (0x980000 + 0x1000 * k.val) = false ∨ nextInstance s k.val = none →
          exec (.cycNext mid k) s = .next (respond s { data := [0] }))) ∧
      (∀ (c : Fin 16) (p : Fin 1024) (named : Inst → Bool), mayWrite s mid.toNat (0x980048 + 0x1000 * k.val) = true →
        named = (fun e => e.pair == k.val && e.st == .running && e.pav == p.val && e.cls == c.val) →
        ∀ b, b = (if c.val * 2 ^ 16 + p.val = 0 then s else wscNote s (0x980048 + 0x1000 * k.val) (c.val * 2 ^ 16 + p.val)) →
        exec (.cycDone mid k c p) s = .next (respond (
          if s.cyc.insts.any named then { b with cyc := { s.cyc with
            insts := s.cyc.insts.map fun e => if named e then { e with st := .done, list := rdBytes s (listAddr s e.pav e.cls e.half) 4096 } else e } }
          else wign b (0x980000 + 0x1000 * k.val)) {}))) ∧
    (∀ c, s.cyc.ckpt = some c → exec .checkpointComplete s = .next { s with
      dbg := { s.dbg with flash := flashProgram (flashProgram s.dbg.flash (ckptSlot s c.seq).1 c.bytes) ((ckptSlot s c.seq).1 + 0x1C) (leBytes 4 0x5A5AA5A5) }
      cyc := { s.cyc with ckpt := none, ckptSeq := c.seq } }) ∧
    (∀ (p : Fin 1024) (d : List Word) (w : Nat → Nat) (q : Nat → Bool → State), d.length ≤ 12 →
      (Free s mid.toNat 0x900080 → w = word s 0x900080 d → q = (fun op wr => asks (written s d) mid.toNat 0x900080 op wr p.val d) →
        (∀ u x, readImage (q 1 true) p.val (w 0 * 4096) = (u, x) →
          (x = none → exec (.cycPvcmdExchange mid p d) s = .next (ended u 0x900080 2)) ∧
          (∀ y c n, x = some y → seqTarget u (w 4) = (c, n) →
            (c ≠ 0 → exec (.cycPvcmdExchange mid p d) s = .next (ended u 0x900080 c)) ∧
            (c = 0 → ∀ code, (bounds u (y.classes ||| (progOf u p.val).classes) n = false ∧ code = 5 ∨
                bounds u (y.classes ||| (progOf u p.val).classes) n = true ∧ (min (w 3 % 128) 64 * 4096 < y.stateSize ∧ code = 6 ∨
                  y.stateSize ≤ min (w 3 % 128) 64 * 4096 ∧ pavEn u p.val = false ∧ code = 7)) →
              exec (.cycPvcmdExchange mid p d) s = .next (ended u 0x900080 code)) ∧
            (c = 0 → bounds u (y.classes ||| (progOf u p.val).classes) n = true → y.stateSize ≤ min (w 3 % 128) 64 * 4096 → pavEn u p.val = true →
              exec (.cycPvcmdExchange mid p d) s = .next (respond { u with cyc := { u.cyc with
                pvcmd := some ⟨1, p.val, n, (mbxAt (q 1 true) 0x900080).d.map (·.toNat)⟩ } } {})))) ∧
        (∀ c n, seqTarget s (w 4) = (c, n) → exec (.cycPvcmdRestart mid p d) s = .next (if c = 0
          then respond { q 2 true with cyc := { s.cyc with pvcmd := some ⟨2, p.val, n, (mbxAt (q 2 true) 0x900080).d.map (·.toNat)⟩ } } {}
          else ended (q 2 true) 0x900080 c))) ∧
      (Free s mid.toNat 0x9000C0 → w = word s 0x9000C0 d → q = (fun op wr => asks (written s d) mid.toNat 0x9000C0 op wr p.val d) →
        (∀ u x, findSym (q 1 true) p.val (w 0 + 2 ^ 32 * w 1) = (u, x) →
          (x = none → exec (.cycForceSet mid p d) s = .next (ended u 0x9000C0 2)) ∧
          (∀ y, x = some y →
            (forceOf u p.val (w 0 + 2 ^ 32 * w 1) = none → 4096 ≤ u.cyc.forces.length → exec (.cycForceSet mid p d) s = .next (ended u 0x9000C0 1)) ∧
            (∀ c n, forceOf u p.val (w 0 + 2 ^ 32 * w 1) ≠ none ∨ u.cyc.forces.length < 4096 → seqTarget u (w 5) = (c, n) →
              exec (.cycForceSet mid p d) s = .next (if c = 0
                then respond { u with cyc := { u.cyc with force := some ⟨1, p.val, n, (mbxAt (q 1 true) 0x9000C0).d.map (·.toNat)⟩ } } {}
                else ended u 0x9000C0 c)))) ∧
        (forceOf s p.val (w 0 + 2 ^ 32 * w 1) = none → exec (.cycForceClear mid p d) s = .next (ended (q 2 true) 0x9000C0 5) ∧
          exec (.cycForceRead mid p d) s = .next (ended (q 3 false) 0x9000C0 5)) ∧
        (∀ f, forceOf s p.val (w 0 + 2 ^ 32 * w 1) = some f →
          (∀ c n, seqTarget s (w 5) = (c, n) → exec (.cycForceClear mid p d) s = .next (if c = 0
            then respond { q 2 true with cyc := { s.cyc with force := some ⟨2, p.val, n, (mbxAt (q 2 true) 0x9000C0).d.map (·.toNat)⟩ } } {}
            else ended (q 2 true) 0x9000C0 c)) ∧
          exec (.cycForceRead mid p d) s = .next (respond (mbxAnswer (q 3 false) 0x9000C0 0
            [w32 (w 0), w32 (w 1), w32 f.value, w32 (f.value / 2 ^ 32), w32 f.quality]) {}))))

/-- Resets, shares and watchdogs of a pavilion (R403, R404, R407, R409, R410, R413): RESET raises GEN, begins the reset and notifies its pairs; it
completes; a share that is used up is counted and notified; a watchdog that is due is the pavilion's error of KIND 3, and its reset where ERRACT has it; a kick
restarts it, one that comes when it is due after that error. -/
def Obligations.PavilionLife : Prop :=
  ∀ (s : State) (mid : Mid) (p : Fin 1024), s.cru.inReset = false →
    (∀ (b v u : State) (ks : List Nat), mayWrite s mid.toNat (0x4000048 + 0x1000 * p.val) = true → b = wscNote s (0x4000048 + 0x1000 * p.val) 1 →
      v = (if (pavOf s p.val).mig.isSome then migEnd b p.val 0xFE else b) →
      u = cinc (setPav v p.val { pavOf v p.val with
        gen := (genOf v p.val + 1) % 256, phase := .reset, resetTick := tickInProgress v, resetAt := v.sdl.fab, resetDue := false }) (Fld.PAV_RESETS_COUNT p.val) →
      ks = (if (pairsRunning u p.val).contains (homeOf u p.val) then pairsRunning u p.val else pairsRunning u p.val ++ [homeOf u p.val]) →
      exec (.pavReset mid p) s = .next (respond (ks.foldl (notifyPair (fget v (Fld.PAV_CTRL_EIID p.val))) u) {})) ∧
    ((pavOf s p.val).phase = .reset → exec (.pavilionResetComplete p) s = .next (setPav s p.val { pavOf s p.val with phase := .wait })) ∧
    (∀ u, (pavOf s p.val).share ≠ 0 → (pavOf s p.val).exhausted = false →
      u = cinc (setPav s p.val { pavOf s p.val with exhausted := true }) (Fld.PAV_SHAREX_COUNT p.val) →
      exec (.shareExhausted p) s = .next ((pairsRunning u p.val).foldl (notifyPair (fget s (Fld.PAV_CTRL_EIID p.val))) u)) ∧
    (∀ u x, fbit s (Fld.PAV_WDT_EN p.val) = true → pavState s p.val = 1 → (pavOf s p.val).wdtDone = false →
      fget s (Fld.PAV_WDT_TICKS p.val) ≤ (pavOf s p.val).wdt →
      u = (if anyError s p.val = true then { pavOf s p.val with wdtDone := true } else
        { pavOf s p.val with wdtDone := true, errValid := true, errKind := 3, errMid := 0, errPage := 0 }) →
      x = cinc (setPav s p.val u) (Fld.PAV_EWDT_COUNT p.val) →
      exec (.pavWdtExpire p) s = .next (if bit (fget s (Fld.PAV_CTRL_ERRACT p.val)) 3 = true then askReset x p.val else x)) ∧
    (mayWrite s mid.toNat (0x4000058 + 0x1000 * p.val) = true → ∀ b, b = wscNote s (0x4000058 + 0x1000 * p.val) 1 →
      (wdtDue s p.val = false →
        exec (.pavKick mid p) s = .next (respond (setPav b p.val { pavOf s p.val with wdt := 0, wdtDone := false }) {})) ∧
      (wdtDue s p.val = true → exec (.pavKick mid p) s = .next (respond (wdtRestart (pavError b p.val 3 0 0) p.val) {})))

/-- Migration of a pavilion (R129, R417 to R422): FREEZE of a running one and THAW of a frozen one wait for their tick, SAVE of a frozen one
takes its contents, DISCARD lets it go with GEN raised, RESTORE waits with an image that agrees; each is refused with its CODE elsewhere. A SAVE
taken writes its image, or the part that fits, and the pavilion is frozen again. -/
def Obligations.PavilionMigration : Prop :=
  ∀ (s : State) (mid : Mid) (p : Fin 1024), s.cru.inReset = false →
    (∀ (a : Nat) (d : List Word) (ds : List Nat) (q : Nat → State) (waits : State → PavPhase → MigReq → State), a = migMbx p.val → Free s mid.toNat a →
      d.length ≤ 12 → ds = (List.range 6).map (word s a d) → q = (fun op => asks (written s d) mid.toNat a op true 0 d) →
      waits = (fun u ph r => respond (setPav u p.val { pavOf u p.val with phase := ph, mig := some r }) {}) →
      (pavState s p.val ≠ 1 → exec (.pavMigFreeze mid p d) s = .next (ended (q 1) a 7)) ∧
      (pavState s p.val = 1 → ∀ c n, seqTarget s (word s a d 4) = (c, n) → exec (.pavMigFreeze mid p d) s = .next (
        if c ≠ 0 then ended (q 1) a c else if bounds s (progOf s p.val).classes n then waits (q 1) .normal { op := 1, tick := n, d := ds }
        else ended (q 1) a 5)) ∧
      (pavState s p.val ≠ 4 → exec (.pavMigSave mid p d) s = .next (ended (q 2) a 7) ∧ exec (.pavMigThaw mid p d) s = .next (ended (q 4) a 7) ∧
        exec (.pavMigDiscard mid p d) s = .next (ended (q 5) a 7)) ∧
      (pavState s p.val = 4 → exec (.pavMigSave mid p d) s = .next (waits (q 2) .saving { op := 2, tick := s.sdl.fab, d := ds }) ∧
        (∀ c n, seqTarget s (word s a d 4) = (c, n) → exec (.pavMigThaw mid p d) s = .next (
          if c ≠ 0 then ended (q 4) a c else waits (q 4) .frozen { op := 4, tick := n, d := ds })) ∧
        exec (.pavMigDiscard mid p d) s = .next (ended (setPav (q 5) p.val { pavOf s p.val with phase := .normal, gen := (genOf s p.val + 1) % 256 }) a 0)) ∧
      (pavState s p.val ≠ 0 → pavState s p.val ≠ 4 → exec (.pavMigRestore mid p d) s = .next (ended (q 3) a 7)) ∧
      (pavState s p.val = 0 ∨ pavState s p.val = 4 → ∀ u h, physRead (q 3) cycMid (word s a d 0 * 4096) 0x40 = (u, h) →
        (h = none → exec (.pavMigRestore mid p d) s = .next (ended u a 2)) ∧
        (∀ hd v bs, h = some hd → physRead u cycMid (word s a d 0 * 4096) (max 0x40 (leAt hd 0x20 4)) = (v, bs) →
          (bs = none ∨ (∃ b, bs = some b ∧ imageOk p.val b = false) → exec (.pavMigRestore mid p d) s = .next (ended v a 2)) ∧
          (∀ b, bs = some b → imageOk p.val b = true →
            (configAgrees v p.val b = false ∨ itemsAgree v p.val b = false → exec (.pavMigRestore mid p d) s = .next (ended v a 8)) ∧
            (configAgrees v p.val b = true → itemsAgree v p.val b = true → ∀ c n, seqTarget v (word s a d 4) = (c, n) →
              exec (.pavMigRestore mid p d) s = .next (if c ≠ 0 then ended v a c else
                waits v .restoring { op := 3, tick := n, d := ds, img := b, wasFrozen := pavState s p.val == 4 })))))) ∧
    (∀ (r : MigReq) (size : Nat) (v : State), (pavOf s p.val).mig = some r → r.op = 2 → r.taken = true → size = r.d.getD 1 0 * 4096 →
      v = physPut s cycMid (r.d.getD 0 0 * 4096) (if r.img.length ≤ size then r.img else r.img.take (min 0x40 size)) →
      exec (.saveComplete p) s = .next (migEnd (setPav v p.val { pavOf v p.val with phase := .frozen }) p.val (if r.img.length ≤ size then 0 else 6)))

/-! ### The Footbridge -/

/-- Messages of a pair (R221, R427, R428, R430, R433, R437, R438, R442, R449 to R451, R460): the first copy of a message shows the partner and
has its effect, a second copy only shows it; a CONTROL goes out after 10 µs of silence, gathered samples go out at 8000 bytes or 1 µs, a batch is
admitted in order from its cut, one event in a fabric clock, and the partner's heartbeat GOOSE shows its holder and EPOCH. -/
def Obligations.PairMessages : Prop :=
  ∀ s : State, s.cru.inReset = false → pairOp s = true →
    (∀ (h : FtbHead) (first : Nat → State), first = (fun ty => setFtb (msgSeen s (headOf' ty h)) { (msgSeen s (headOf' ty h)).ftb with
        seen := ((ty, h.seq.toNat) :: (msgSeen s (headOf' ty h)).ftb.seen).take 1024 }) →
      (∀ (x : FtbCtl) (v : State), (msgSeen s (headOf' 1 h)).ftb.seen.contains (1, h.seq.toNat) = true →
        v = donorFollow (msgSeen s (headOf' 1 h)) (headOf' 1 h) → exec (.ftbControl h x) s = .next (if x.req.val ≠ 0 then chanPulse v true else v)) ∧
      (∀ (x : FtbCtl) (k : Control) (u v : State), (msgSeen s (headOf' 1 h)).ftb.seen.contains (1, h.seq.toNat) = false →
        k = { epoch := x.epoch.toNat, req := x.req.val, confirm := x.confirm, health := x.health.toNat, k := x.k.toNat, cfg := x.cfg.toNat } →
        u = setFtb (first 1) { (first 1).ftb with phealth := k.health, pcfg := some k.cfg } →
        v = donorFollow (reqSend (controlReq (controlConfirm (giveWay u h.holder k.epoch) (headOf' 1 h) k) k)) (headOf' 1 h) →
        exec (.ftbControl h x) s = .next (if k.req ≠ 0 then chanPulse v true else v)) ∧
      (∀ (n : BitVec 64) (out inp : BitVec 128),
        ((msgSeen s (headOf' 2 h)).ftb.seen.contains (2, h.seq.toNat) = true →
          exec (.ftbDigest h n out inp) s = .next (donorFollow (msgSeen s (headOf' 2 h)) (headOf' 2 h))) ∧
        ((msgSeen s (headOf' 2 h)).ftb.seen.contains (2, h.seq.toNat) = false →
          (∀ d, ((first 2).ftb.digs.find? fun d => d.tick == n.toNat) = some d →
            exec (.ftbDigest h n out inp) s = .next (donorFollow (digestMeet (first 2) d out.toNat inp.toNat) (headOf' 2 h))) ∧
          (((first 2).ftb.digs.find? fun d => d.tick == n.toNat) = none → exec (.ftbDigest h n out inp) s = .next (donorFollow (setFtb (first 2)
            { (first 2).ftb with early := ((first 2).ftb.early ++ [(n.toNat, out.toNat, inp.toNat)]).drop ((first 2).ftb.early.length + 1 - 16) })
            (headOf' 2 h))))) ∧
      (∀ rs : List FtbSampleRec, exec (.ftbSample h rs) s = .next (donorFollow (
        if (msgSeen s (headOf' 3 h)).ftb.seen.contains (3, h.seq.toNat) then msgSeen s (headOf' 3 h)
        else (rs.map mirrorRec).foldl mirrorPlace (first 3)) (headOf' 3 h))) ∧
      (∀ (e : PostedEvent) (key : BitVec 64) (entry : List Byte) (q : State), q = first 4 → exec (.ftbEvent h e key entry) s = .next (donorFollow (
        if (msgSeen s (headOf' 4 h)).ftb.seen.contains (4, h.seq.toNat) then msgSeen s (headOf' 4 h)
        else if cutOf q (tickOfNs q e.ns.toNat) ≤ timeNow q then cinc q Fld.FTB_EVLOST_COUNT
        else batchInsert q { ev := rawEv e, key := key.toNat, side := 1 - ownSide q, tick := tickOfNs q e.ns.toNat, entry := octets entry,
                             fresh := newState q (rawEv e) (octets entry) }) (headOf' 4 h))) ∧
      (∀ (d : JoinData) (q : State), q = first 5 → exec (.ftbJoinData h d) s = .next (donorFollow (
        if (msgSeen s (headOf' 5 h)).ftb.seen.contains (5, h.seq.toNat) then msgSeen s (headOf' 5 h)
        else match q.ftb.join, d with
          | none, _ => q
          | some j, .system count epoch ang as sl fs =>
            if j.joiner && !j.started then joinSystem q j count.toNat epoch.toNat ang.toNat as sl fs else q
          | some j, .pavilion p gen sh pts ls qs =>
            if j.joiner then joinPavilion q j p.val gen.toNat (octets sh) (octets pts) (octets ls) (octets qs) else q) (headOf' 5 h)))) ∧
    (∀ n, s.ftb.sentAt + 10000 ≤ s.sdl.raw → n = tat s.ftb.seqs 1 0 → exec .controlKeepalive s = .next { s with ftb := { s.ftb with
      seqs := tset s.ftb.seqs 1 ((n + 1) % 2 ^ 32), sentAt := s.sdl.raw
      sent := s.ftb.sent ++ [⟨1, n, ftbState s, tokenHeld s, (tickInProgress s).getD 0,
        [s.ftb.epoch, 0, 0, ftbHealth s, 0, 0] ++ digestWords (cfgDigest s) ++ [s.ftb.steps]⟩] } }) ∧
    (∀ bs, bs = s.ftb.gather.flatMap (mirrorBytes s) → s.ftb.gather ≠ [] → 8000 ≤ bs.length ∨ s.ftb.gatherAt + 1000 ≤ s.sdl.fab →
      exec .sampleBatchSend s = .next (ftbSend { s with ftb := { s.ftb with gather := [] } } 3 (s.ftb.gather.length :: wordsOf bs))) ∧
    (∀ n xs f, dueBatch s = some n → xs = s.ftb.toAdmit ++ sortedBy batchBefore (s.ftb.batch.filter fun x => x.tick == n) →
      f = (fun l c => { s with ftb := { s.ftb with toAdmit := l, admitFab := c, batch := s.ftb.batch.filter (fun x => x.tick != n)
                                                   past := s.ftb.past.filter (fun x => decide (n ≤ x.tick + 2)), cut := some n } }) →
      (xs = [] ∨ s.ftb.admitFab = some s.sdl.fab → exec .batchCut s = .next (f xs s.ftb.admitFab)) ∧
      (∀ x t, xs = x :: t → s.ftb.admitFab ≠ some s.sdl.fab → exec .batchCut s = .next (batchAdmit (f t (some s.sdl.fab)) x))) ∧
    (∀ (m : Fin 16) (bytes : List Byte) (age : BitVec 20) (q : State) (hold : Bool) (e : Nat), takesFrame s m.val (octets bytes) true = true →
      q = frameReceive s m.val (octets bytes) true age.toNat → pairOp q = true → ghbParse q (octets bytes) = some (hold, e) →
      exec (.partnerHeartbeatGoose m bytes true age) s = .next (giveWay (setFtb q { q.ftb with
        ghbAt := q.sdl.fab, ghbLost := false, heard := true, pholder := hold }) hold e))

/-- Contact of a pair and what follows its loss (R429 to R431, R442, R443, R448, R452, R455 to R457): PAIR_HB_OUT toggles every 10 µs and an edge
of PAIR_HB_IN shows the partner; each loss is noted, and a holder that sees all three is ALONE, a module in step without the Footbridge
ISOLATED; the heartbeat GOOSE is sent; a missing digest starts a diagnosis and its end decides STATE; a freeze without a taker faults. -/
def Obligations.PairContact : Prop :=
  ∀ (s : State) (lossState : State → State), s.cru.inReset = false → pairOp s = true →
    lossState = (fun u => if (u.ftb.st = 3 ∨ u.ftb.st = 4) ∧ u.ftb.holder ∧ u.ftb.fbLost ∧ u.ftb.hbLost ∧ u.ftb.ghbLost then ftbEnter u 1
      else if u.ftb.st = 3 ∧ u.ftb.fbLost then ftbEnter u 4 else u) →
    (s.ftb.hbOutAt + 10000 ≤ s.sdl.raw →
      exec .pairHbToggle s = .next { s with ftb := { s.ftb with hbOut := !s.ftb.hbOut, hbOutAt := s.sdl.raw } }) ∧
    exec .pairHbInEdge s = .next { s with ftb := { s.ftb with hbAt := s.sdl.fab, hbLost := false, heard := true } } ∧
    (s.ftb.hbLost = false → s.ftb.hbAt + fget s Fld.FTB_LOSS_HB_US * 1000 ≤ s.sdl.fab →
      exec .heartbeatLoss s = .next (lossState { s with ftb := { s.ftb with hbLost := true } })) ∧
    (s.ftb.fbLost = false → s.ftb.link0.getD s.ftb.upAt + fget s Fld.FTB_LOSS_FB_US * 1000 ≤ s.sdl.fab →
      s.ftb.link1.getD s.ftb.upAt + fget s Fld.FTB_LOSS_FB_US * 1000 ≤ s.sdl.fab →
      exec .footbridgeLoss s = .next (lossState { s with ftb := { s.ftb with fbLost := true } })) ∧
    (s.ftb.ghbLost = false → s.ftb.ghbAt + fget s Fld.FTB_GHB_N * fget s Fld.FTB_GHB_PER_US * 1000 ≤ s.sdl.fab →
      exec .heartbeatGooseLoss s = .next (lossState { s with ftb := { s.ftb with ghbLost := true } })) ∧
    (∀ (changed : Bool) (u v : State) (h : Option (List Nat)), s.ftb.ghbOutAt + fget s Fld.FTB_GHB_PER_US * 1000 ≤ s.sdl.raw →
      changed = (match s.ftb.ghbLast with | some p => p != (s.ftb.holder, s.ftb.epoch) | none => false) →
      u = { s with ftb := { s.ftb with
        ghbOutAt := s.sdl.raw, ghbLast := some (s.ftb.holder, s.ftb.epoch), ghbSt := if changed then goNext s.ftb.ghbSt else s.ftb.ghbSt
        ghbSq := goNext s.ftb.ghbSq, ghbT := if changed || s.ftb.ghbLast.isNone then timeNow s else s.ftb.ghbT } } →
      physRead u ftbMid (slotAddr u (fget u Fld.FTB_CFG_GHBSLOT)) 0x280 = (v, h) →
      (h = none → exec .heartbeatGooseSend s = .next v) ∧
      (∀ x, h = some x → exec .heartbeatGooseSend s = .next (if hdrOk x = false then v else trlHand v (gooseFrame x (gooseOctets x
        (utcTime v v.ftb.ghbT) ((2 * fget v Fld.FTB_GHB_PER_US + 999) / 1000) v.ftb.ghbSt s.ftb.ghbSq 4 (ghbData v)) false)
        (openPorts v (widenPairs v (hdrMask x)))))) ∧
    (∀ d u, (s.ftb.digs.find? fun d => d.peer.isNone && !d.missed && decide (d.at_ + fget s Fld.FTB_GUARD_DIGWAIT * 1000 ≤ s.sdl.fab)) = some d →
      u = { s with ftb := { s.ftb with digs := s.ftb.digs.map fun x => if x.tick = d.tick then { d with missed := true } else x } } →
      (s.ftb.st ≠ 3 ∨ s.ftb.fbLost = true → exec .digestMissing s = .next u) ∧
      (s.ftb.st = 3 → s.ftb.fbLost = false → exec .digestMissing s = .next { cinc u Fld.FTB_DIGMISS_COUNT with
        ftb := { u.ftb with mis := some { d with missed := true }, diag := u.ftb.diag ++ [(d.tick, false, true)], steps := 0, spoilt := true } })) ∧
    (∀ n mm ms u own outcome r, (s.ftb.diag.find? fun e => (match s.sdl.fabLast with | some l => decide (e.1 + 2 ≤ l) | none => false)) = some (n, mm, ms) →
      u = { s with ftb := { s.ftb with diag := s.ftb.diag.filter fun e => e.1 != n } } → own = faultAsserted u →
      outcome = (if own then (if bit s.ftb.phealth 0 then 4 else 2) else if bit s.ftb.phealth 0 then 3 else 1) →
      r = diagRecord u n outcome mm ms own → exec .diagnosisEnd s = .next (
        if outcome = 1 then (if r.ftb.holder then r else ftbEnter r 5) else if outcome = 2 then ftbFreeze (ftbEnter r 6)
        else if outcome = 3 then r else ftbEnter r 6)) ∧
    (∀ n k, s.ftb.frozen = some n → tickInProgress s = some k → n + 2 ≤ k →
      exec .freezeTimeout s = .next (ftbEnter { s with ftb := { s.ftb with frozen := none } } 6)) ∧
    (∀ t u, s.ftb.listen = some t → t ≤ s.sdl.raw → u = { s with ftb := { s.ftb with listen := none } } → exec .pairListenEnd s = .next (
      if s.ftb.heard = false ∨ s.ftb.pholder = false ∧ fbit s Fld.FTB_CFG_PRIMARY then ftbEnter (ftbXfer u true 5 (s.ftb.epoch + 1)) 1 else ftbEnter u 5))

/-- Requests of a pair (R449, R450, R455, R460, R461, R464): HANDOVER and CLAIM are refused with 0x07, 0x0E, 0x03 or 0x04, else sent with the turn
or once it comes; the PRIMARY module claims the token back; JOIN is refused with its CODE or begins, giving up the token; join data that are late
are tried again; the digests are read. -/
def Obligations.PairRequests : Prop :=
  ∀ (s : State) (mid : Mid), s.cru.inReset = false →
    (∀ (d : List Word) (offer : Bool) (c : Instr) (q : State) (k : Nat), Free s mid.toNat 0xA000C0 → d.length ≤ 12 →
      c = (if offer then .ftbTokenHandover mid d else .ftbTokenClaim mid d) →
      q = asks (written s d) mid.toNat 0xA000C0 (if offer then 1 else 2) true 0 d → k = word s 0xA000C0 d 4 + 2 ^ 32 * word s 0xA000C0 d 5 →
      (pairOp s = false ∨ s.ftb.st ≠ 3 ∨ s.ftb.holder ≠ offer → exec c s = .next (ended q 0xA000C0 7)) ∧
      (pairOp s = true → s.ftb.st = 3 → s.ftb.holder = offer → (s.ftb.fbLost = true → exec c s = .next (ended q 0xA000C0 0x0E)) ∧
        (s.ftb.fbLost = false → (tickInProgress s = none → exec c s = .next (ended q 0xA000C0 3)) ∧
          (∀ n, tickInProgress s = some n → (k < n + 2 → exec c s = .next (ended q 0xA000C0 3)) ∧
            (n + 65536 < k → exec c s = .next (ended q 0xA000C0 4)) ∧
            (∀ r : TokenReq, n + 2 ≤ k → k ≤ n + 65536 → r = { offer := offer, own := true, k := k, mbx := true } →
              (s.ftb.turn = true → s.ftb.req = none → exec c s = .next (respond (ftbControl { q with ftb := { s.ftb with
                want := none, asked := false, req := some r } } (if offer then 1 else 2) false k) {})) ∧
              (s.ftb.turn = true → s.ftb.req ≠ none → exec c s = .next (respond { q with ftb := { s.ftb with want := some r } } {})) ∧
              (s.ftb.turn = false → s.ftb.asked = false →
                exec c s = .next (respond (ftbControl { q with ftb := { s.ftb with want := some r, asked := true } } 6 false 0) {})) ∧
              (s.ftb.turn = false → s.ftb.asked = true → exec c s = .next (respond { q with ftb := { s.ftb with want := some r } } {}))))))) ∧
    (∀ n, pairOp s = true → fbit s Fld.FTB_CFG_PRIMARY = true → fbit s Fld.FTB_REVERT_EN = true → s.ftb.st = 3 → s.ftb.holder = false →
      fget s Fld.FTB_REVERT_S ≤ s.ftb.steps → s.ftb.req = none → s.ftb.want = none → s.ftb.fbLost = false → tickInProgress s = some n →
      ∃ k, n + 2 ≤ k ∧ k ≤ n + 65536 ∧ exec .revert s = .next (reqMake (drew s) { offer := false, own := true, k := k, revert := true })) ∧
    (∀ q, Free s mid.toNat 0xA00100 → q = asks s mid.toNat 0xA00100 1 true 0 [] →
      (pairOp s = false ∨ s.ftb.st ∉ [1, 4, 5] ∨ s.ftb.listen ≠ none → exec (.ftbJoin mid) s = .next (ended q 0xA00100 7)) ∧
      (pairOp s = true → s.ftb.st ∈ [1, 4, 5] → s.ftb.listen = none →
        (s.ftb.fbLost = true ∨ s.ftb.heard = false → exec (.ftbJoin mid) s = .next (ended q 0xA00100 0x0E)) ∧
        (s.ftb.fbLost = false → s.ftb.heard = true → s.ftb.pstate ∉ [1, 3] ∨ s.ftb.pholder = false → exec (.ftbJoin mid) s = .next (ended q 0xA00100 7)) ∧
        (s.ftb.fbLost = false → s.ftb.heard = true → s.ftb.pstate ∈ [1, 3] → s.ftb.pholder = true →
          (cfgMis q = true ∨ s.ftb.pcfg = none → exec (.ftbJoin mid) s = .next (ended q 0xA00100 8)) ∧
          (cfgMis q = false → s.ftb.pcfg ≠ none → anySettle q = true → exec (.ftbJoin mid) s = .next (ended q 0xA00100 0x0F)) ∧
          (∀ n u, cfgMis q = false → s.ftb.pcfg ≠ none → anySettle q = false → tickInProgress s = some n →
            u = (if s.ftb.holder then ftbXfer q false 1 s.ftb.epoch else q) → exec (.ftbJoin mid) s =
              .next (respond (ftbControl (setJoin (ftbEnter u 2) (some { joiner := true, j0 := systemTick u n })) 0 false 0) {}))))) ∧
    (∀ j late, s.ftb.join = some j → late = (j.waiting.filter fun e => decide (e.2 + 100000 ≤ s.sdl.fab)).map (·.1) →
      exec .joinDataTimeout s = .next (late.foldl latchWithheld (cadd { s with ftb := { s.ftb with join := some { j with
        waiting := j.waiting.filter fun e => !late.contains e.1, todo := j.todo ++ late, retries := j.retries + late.length } } }
        Fld.FTB_JRETRY_COUNT late.length))) ∧
    (Free s mid.toNat 0xA00140 → ∀ (op : Nat) (c : Instr) (x : Option Digest) (f : Digest → List Nat),
      (op, c, x) ∈ [(1, .ftbDigLast mid, s.ftb.digs.getLast?), (2, .ftbDigLastmis mid, s.ftb.mis), (3, .ftbDigLastmisIn mid, s.ftb.mis)] →
      f = (fun d => if op = 3 then digestWords d.inp ++ digestWords d.pIn ++ [d.tick % 2 ^ 32, d.tick / 2 ^ 32]
        else digestWords d.out ++ digestWords d.pOut ++ [d.tick % 2 ^ 32, d.tick / 2 ^ 32, flagBits [d.peer.isSome && d.pOut == d.out, d.peer.isSome], d.nent]) →
      (x = none → exec c s = .next (ended (asks s mid.toNat 0xA00140 op false 0 []) 0xA00140 1)) ∧
      (∀ d, x = some d → exec c s = .next (answered s mid.toNat 0xA00140 op 0 ((f d).map w32))))

/-! ### The Orangery -/

/-- Changes of the metering (R101, R468, R470, R477, R484, R490, R496 to R498, R506): CIRCUIT, CORR_CH, CORR_Q, PULSE and PARAM with the seal open are
held until the next interval boundary with their audit records, each field clamped; they are refused with 0x02 on a closed seal, 0x04 beyond
1536 elements, 0x06 on a full log; at the boundary the parameters take effect and the records are written. -/
def Obligations.MeterChanges : Prop :=
  ∀ s : State,
    (∀ (mid : Mid) (arg : BitVec 16) (d : List Word) (w : Nat → Nat) (i : Nat) (p : OrnParams), Free s mid.toNat 0xB00080 → enabled s 0xB00000 = true →
      bit s.cru.xcReady 1 = true → s.orn.phase = .metering → d.length ≤ 12 → w = word s 0xB00080 d → i = min (arg.toNat % 2 ^ 11) 1535 → p = ornParams s →
      ∀ (c : Instr) (op : Nat) (new : OrnParams) (pin : Option Nat), (c, op, new, pin) ∈ [
          (.ornCircuit mid arg d, 1, { p with circuits := tset p.circuits i {
            conn := min (bits (w 0) 31 30) 2, rev := bit (w 0) 29, amps := clampTo 1 100000000 (w 1)
            elems := [(bits (w 2) 29 16, w 2 % 2 ^ 14), (bits (w 3) 29 16, w 3 % 2 ^ 14), (bits (w 4) 29 16, w 4 % 2 ^ 14)] } }, none),
          (.ornCorrCh mid arg d, 2, { p with
            corr := tset p.corr (arg.toNat % 2 ^ 14) (clampTo 0x3999999A 0x46666666 (w 0), max (-2000000) (min 2000000 (toSigned 32 (w 1)))) }, none),
          (.ornCorrQ mid arg d, 3, { p with corrQ := tset p.corrQ i ⟨clampTo 0x3999999A 0x46666666 (w 0), clampOffset (w 1),
            clampTo 0x3999999A 0x46666666 (w 2), clampOffset (w 3), clampTo 0x3999999A 0x46666666 (w 4), clampOffset (w 5)⟩ }, none),
          (.ornPulseAssign mid arg d, 4, { p with pulses := tset p.pulses (arg.toNat % 4) {
            en := bit (w 0) 31, acc := bits (w 0) 26 24, circuit := min (w 0 % 2 ^ 11) 1535, c := max 1 (w 1), w := clampTo 1 2000 (w 2 % 2 ^ 16) } },
            some (arg.toNat % 4)),
          (.ornParam mid arg d, 5, { p with
            sp := clampTo 1 600 (w 0 % 2 ^ 10), tmo := clampTo 1 1440 (w 1 % 2 ^ 16), role := min (w 2 % 4) 2 }, none)] →
        ∀ (q : State) (r : OrnParams × Nat × List Nat × List Nat) (audit : List (Nat × Nat × Nat × Nat)),
          q = asks (written s d) mid.toNat 0xB00080 op true arg.toNat d → r = ornChange p op arg.toNat w → audit = auditOf op r.2.1 r.2.2.1 r.2.2.2 →
          (sealOpen s = false → exec c s = .next (ended q 0xB00080 2)) ∧
          (sealOpen s = true → op = 1 → 1536 < elementCount new → exec c s = .next (ended q 0xB00080 4)) ∧
          (sealOpen s = true → op ≠ 1 ∨ elementCount new ≤ 1536 → auditFree s < audit.length + 1 → exec c s = .next (ended q 0xB00080 6)) ∧
          (sealOpen s = true → op ≠ 1 ∨ elementCount new ≤ 1536 → audit.length + 1 ≤ auditFree s → exec c s = .next (respond { q with
            orn := { s.orn with change := some ⟨new, audit, pin, timeNow s * 10 / secUnit + 1⟩ } } {}))) ∧
    (∀ (c : OrnChange) (u : State), s.orn.change = some c → c.from_ ≤ timeNow s * 10 / secUnit →
      u = { s with orn := { s.orn with
        change := none, params := ((c.from_, c.params) :: s.orn.params).take 16
        pulses := match c.pin with | some k => tdel s.orn.pulses k | none => s.orn.pulses } } →
      exec .intervalBoundaryApply s = .next (mbxEndIfBusy
        (c.audit.foldl (fun v a => auditAdd v a.1 a.2.1 (c.from_ / 10) a.2.2.1 a.2.2.2) u) 0xB00080 0))

/-- The seal, the firmware and the other writes (R468, R492 to R495, R497, R498, R500, R502, R506): OPEN with the right tag opens the seal while its
pin is low and is recorded, with a wrong one it counts towards the lockout; CLOSE, a rise of the pin and SEAL_TMO close it; FWLOAD stores 32 bytes,
FWACT activates a bank whose digest agrees; KEYLOAD, SAVE and DIAGCLR; the lockout ends after 600 s; the oscillator is trimmed. -/
def Obligations.MeterSeal : Prop :=
  ∀ s : State,
    (∀ (mid : Mid) (arg : BitVec 16) (d : List Word) (w : Nat → Nat) (q : Nat → State) (full : Bool), Free s mid.toNat 0xB00080 →
      enabled s 0xB00000 = true → bit s.cru.xcReady 1 = true → s.orn.phase = .metering → d.length ≤ 12 → w = word s 0xB00080 d →
      q = (fun op => asks (written s d) mid.toNat 0xB00080 op true arg.toNat d) → full = decide (auditFree s < 2) →
      (s.orn.lockAt ≠ none → exec (.ornOpen mid arg d) s = .next (ended { q 6 with orn := { s.orn with nonce := none } } 0xB00080 7)) ∧
      (s.orn.lockAt = none → s.orn.key = none → exec (.ornOpen mid arg d) s = .next (ended { q 6 with orn := { s.orn with nonce := none } } 0xB00080 8)) ∧
      (∀ key tag, s.orn.lockAt = none → s.orn.key = some key → tag = bytesOfWords ((List.range 8).map fun i => w32 (w i)) →
        (full = true → exec (.ornOpen mid arg d) s = .next (ended { q 6 with orn := { s.orn with nonce := none } } 0xB00080 6)) ∧
        (∀ n u, full = false → s.orn.nonce = some n → tag = toBe 32 (Config.hmac key (nonceBytes n ++ [0x4F, 0x50, 0x45, 0x4E])) →
          u = auditAdd { q 6 with orn := { s.orn with nonce := none } } (0x06 * 2 ^ 24) 0 (secOf (timeNow s)) 0 0 → exec (.ornOpen mid arg d) s =
            .next (ended { u with orn := { u.orn with openAt := if s.orn.pinLow then some s.orn.clk else none, fails := 0 } } 0xB00080 0)) ∧
        (full = false → (∀ n, s.orn.nonce = some n → tag ≠ toBe 32 (Config.hmac key (nonceBytes n ++ [0x4F, 0x50, 0x45, 0x4E]))) →
          exec (.ornOpen mid arg d) s = .next (ended { q 6 with orn := { s.orn with
            nonce := none, authFail := satAdd 16 s.orn.authFail 1, fails := s.orn.fails + 1
            lockAt := if 16 ≤ s.orn.fails + 1 then some s.orn.clk else none } } 0xB00080 3))) ∧
      (sealOpen s = false → exec (.ornFwload mid arg d) s = .next (ended (q 8) 0xB00080 2) ∧ exec (.ornFwact mid arg d) s = .next (ended (q 9) 0xB00080 2)) ∧
      (sealOpen s = true → exec (.ornFwload mid arg d) s = .next (ended (setSpare (q 8) { spareBank s with
        chunks := tset (spareBank s).chunks (arg.toNat % 2 ^ 14) (bytesOfWords ((List.range 8).map fun i => w32 (w i))) }) 0xB00080 0)) ∧
      (∀ len want u, sealOpen s = true → len = clampTo 1 524288 (w 9) → want = bytesOfWords ((List.range 8).map fun i => w32 (w i)) →
        (toBe 32 (Config.sha256 (bankBytes (spareBank s) len)) ≠ want → exec (.ornFwact mid arg d) s = .next (ended (q 9) 0xB00080 5)) ∧
        (toBe 32 (Config.sha256 (bankBytes (spareBank s) len)) = want → full = true → exec (.ornFwact mid arg d) s = .next (ended (q 9) 0xB00080 6)) ∧
        (toBe 32 (Config.sha256 (bankBytes (spareBank s) len)) = want → full = false →
          u = ornReset (mbxEnd (setSpare (auditAdd (ornSave (q 9) true) (0x09 * 2 ^ 24 + 0xFFFF) 0 (secOf (timeNow s)) (ornBank s).sha (ofLe (want.take 8)))
            { spareBank s with version := w 8, len := len, sha := ofLe want }) 0xB00080 0) 4 →
          exec (.ornFwact mid arg d) s = .next (respond { u with orn := { u.orn with phase := .activating } } {}))) ∧
      (∀ u code, ornKeyload (q 10) mid.toNat (bytesOfWords ((List.range 8).map fun i => w32 (w i))) = (u, code) → exec (.ornKeyload mid arg d) s =
        .next (ended (setMbx u 0xB00080 { mbxAt (q 10) 0xB00080 with d := [] }) 0xB00080 code)) ∧
      (mid.toNat ≠ 0x5000 → ∀ k, ornKeyload s mid.toNat k = (s, 9)) ∧
      (∀ k, mid.toNat = 0x5000 → sealOpen s = true → s.orn.key = some k → ornKeyload s mid.toNat k = (s, 0)) ∧
      (∀ k o, mid.toNat = 0x5000 → sealOpen s = true ∨ s.orn.key = none ∧ s.orn.pinLow = true → full = false → s.orn.key ≠ some k →
        o = (match s.orn.key with | some k => ofLe ((toBe 32 (Config.sha256 k)).take 8) | none => 0) →
        ornKeyload s mid.toNat k = (auditAdd { s with orn := { s.orn with key := some k } } (0x0A * 2 ^ 24 + 0xFFFE) 0 (secOf (timeNow s)) o
          (ofLe ((toBe 32 (Config.sha256 k)).take 8)), 0))) ∧
    (∀ (mid : Mid), Free s mid.toNat 0xB00080 → enabled s 0xB00000 = true → bit s.cru.xcReady 1 = true → s.orn.phase = .metering →
      exec (.ornClose mid) s = .next (if sealOpen s = true ∨ 2 ≤ auditFree s then ended (auditAdd { asks s mid.toNat 0xB00080 7 true 0 [] with
        orn := { s.orn with openAt := none } } (0x07 * 2 ^ 24) 0 (secOf (timeNow s)) 0 0) 0xB00080 0
        else ended (asks s mid.toNat 0xB00080 7 true 0 []) 0xB00080 6) ∧
      exec (.ornSave mid) s = .next (ended (ornSave (asks s mid.toNat 0xB00080 11 true 0 []) false) 0xB00080 0) ∧
      (∀ (arg : BitVec 16) (q : State) (i : Nat), q = asks s mid.toNat 0xB00080 12 true arg.toNat [] → i = min (arg.toNat % 2 ^ 11) 1535 →
        exec (.ornDiagclr mid arg) s = .next (ended { q with orn := if bit arg.toNat 15
          then { s.orn with
            runs := s.orn.runs.map (fun e => (e.1, { e.2 with diag := [0, 0, 0, 0, 0] })), tapErr := 0, authFail := 0 }
          else { s.orn with runs := s.orn.runs.map fun e => if e.1 = i then (e.1, { e.2 with diag := [0, 0, 0, 0, 0] }) else e } } 0xB00080 0))) ∧
    (∀ low : Bool, low ≠ s.orn.pinLow → bit s.cru.rails 8 = false → ∃ u, u = (if sealOpen s then sealClosed s 0x10 else s) ∧
      exec (.sealPinChange low) s = .next { u with orn := { u.orn with pinLow := low, pinAt := u.orn.clk, openAt := none } }) ∧
    (∀ t, s.orn.openAt = some t → sealPin s = true → t + (ornParams s).tmo * 60000000000 ≤ s.orn.clk → exec .sealTimeout s = .next (sealClosed s 0x10)) ∧
    (∀ t, s.orn.lockAt = some t → t + 600000000000 ≤ s.orn.clk →
      exec .lockoutEnd s = .next { s with orn := { s.orn with lockAt := none, fails := 0 } }) ∧
    (∀ ok, exec (.oscillatorTrim ok) s =
      .next { s with orn := { s.orn with refLost := !ok, trimAt := if ok then s.orn.clk else s.orn.trimAt } })

/-- Reads of the Orangery (R101, R478, R482, R486, R493, R498, R499, R506): each of its mailboxes' read requests answers its words, a challenge
draws the next nonce, and an entry that a log does not hold ends with 0x01; with the page disabled a request ends with 0x0A, and with 0xFE
while the Orangery does not meter or its crossing group is not ready. -/
def Obligations.MeterReads : Prop :=
  ∀ (s : State) (mid : Mid) (b : Bool) (arg : BitVec 16) (a n i : Nat) (r : CircuitRun) (p : OrnParams) (v g : Nat → Nat) (up : Bool),
    a = (if b then 0xB00100 else 0xB000C0) → n = arg.toNat → Free s mid.toNat a → i = min (n % 2 ^ 11) 1535 → r = tat s.orn.runs i {} → p = ornParams s →
    v = (fun k => (r.accs.getD k {}).value) → g = (fun k => (r.accs.getD k {}).wraps) → up = (bit s.cru.xcReady 1 && s.orn.phase == .metering) →
    (enabled s 0xB00000 = false → exec (.ornId mid b) s = .next (ended (asks s mid.toNat a 4 false 0 []) a 0x0A)) ∧
    (enabled s 0xB00000 = true → up = false → exec (.ornId mid b) s = .next (ended (asks s mid.toNat a 4 false 0 []) a 0xFE)) ∧
    (enabled s 0xB00000 = true → up = true →
      (∀ (c : Instr) (op k : Nat) (ws : List Nat), (c, op, k, ws) ∈ [
          (.ornEnergyA mid b arg, 1, n, words64 (v 0) ++ words64 (v 1) ++ words64 (v 6) ++ words64 (v 7) ++
            [g 1 * 2 ^ 16 + g 0, g 7 * 2 ^ 16 + g 6, r.tag, flagBits [r.cfgErr, r.noload, r.doubtful]]),
          (.ornEnergyR mid b arg, 2, n, words64 (v 2) ++ words64 (v 3) ++ words64 (v 4) ++ words64 (v 5) ++
            [g 3 * 2 ^ 16 + g 2, g 5 * 2 ^ 16 + g 4, r.tag, flagBits [r.cfgErr, r.noload, r.doubtful]]),
          (.ornInstant mid b arg, 3, n, r.inst.flatMap (fun x => words64 (ofSigned 64 x)) ++ [r.nel, 0, r.tag]),
          (.ornId mid b, 4, 0, (leWords 8 (ornBank s).sha).map (·.toNat) ++ [(ornBank s).version, s.orn.mevt, p.role]),
          (.ornCircuitRead mid b arg, 6, n, circuitWords (tat p.circuits i {})),
          (.ornCorrRead mid b true arg, 7, 2 ^ 15 + n % 2 ^ 15, corrQWords (tat p.corrQ i {})),
          (.ornCorrRead mid b false arg, 7, n % 2 ^ 15, corrWords (tat p.corr (n % 2 ^ 14) (2 ^ 30, 0))),
          (.ornPulseRead mid b arg, 8, n, pulseWords (tat p.pulses (n % 4) {}) ++ [(tat s.orn.pulses (n % 4) {}).due]),
          (.ornParamRead mid b, 9, 0, [p.sp, p.tmo, p.role]),
          (.ornDiag mid b arg, 13, n, r.diag)] → exec c s = .next (answered s mid.toNat a op k (ws.map w32))) ∧
      (∀ m q, m = (s.orn.challenges + 1) % 2 ^ 64 → q = { asks s mid.toNat a 5 false 0 [] with orn := { s.orn with challenges := m, nonce := some m } } →
        exec (.ornChallenge mid b) s = .next (respond (mbxAnswer q a 0 (wordsOfBytes 4 (leBytes 8 m ++ leBytes 8 (Config.ornIdentity % 2 ^ 64)))) {})) ∧
      (∀ ws, s.orn.audit[n % 2 ^ 15]? = some ws →
        exec (.ornAudit mid b arg) s = .next (answered s mid.toNat a 10 n ((ws ++ [s.orn.audit.length]).map w32))) ∧
      (s.orn.audit[n % 2 ^ 15]? = none → exec (.ornAudit mid b arg) s = .next (ended (asks s mid.toNat a 10 false n []) a 1)) ∧
      (∀ x, s.orn.losses[n % 8]? = some x → exec (.ornLosshdr mid b arg) s = .next (answered s mid.toNat a 11 n
        (([x.kind * 2 ^ 24 + x.cause * 2 ^ 16 + x.group] ++ words64 (x.last / 10) ++ [x.last % 10 * 100000000] ++ words64 (x.next / 10) ++
          [x.next % 10 * 100000000, x.sp, x.count]).map w32))) ∧
      (s.orn.losses[n % 8]? = none → exec (.ornLosshdr mid b arg) s = .next (ended (asks s mid.toNat a 11 false n []) a 1)) ∧
      (∀ x, s.orn.losses[n / 2 ^ 13 % 8]? = some x →
        exec (.ornLosscir mid b arg) s = .next (answered s mid.toNat a 12 n (((tat x.bounds i [0, 0, 0]).flatMap words64).map w32))) ∧
      (s.orn.losses[n / 2 ^ 13 % 8]? = none → exec (.ornLosscir mid b arg) s = .next (ended (asks s mid.toNat a 12 false n []) a 1)))

/-- Metering itself (R90, R473, R474, R476, R484 to R487, R490, R491, R501): a word of the tap joins what waits while the Orangery meters, one that
fails its CRC or whose number does not follow is counted, and a lost one shows by the next alone; a group with an interval to compute, that of the oldest set held first, is computed, with its gap and power records and its save; a pulse output
emits a pulse that is due once its instant has come; the Orangery starts from its newest save, on the other bank where the digest is wrong. -/
def Obligations.MeterIntervals : Prop :=
  ∀ s : State,
    (∀ w, s.svi.toOrn = [] → exec (.tapWordReceive w) s = .next s) ∧
    (∀ w r rs u m, s.svi.toOrn = r :: rs → m = (s.svi.tapNo + 1) % 2 ^ 16 → u = { s with svi := { s.svi with toOrn := rs, tapNo := m } } →
      (s.orn.phase ≠ .metering ∨ w = .lost → exec (.tapWordReceive w) s = .next u) ∧
      (s.orn.phase = .metering → w = .badCrc ∨ w = .good ∧ s.orn.tapNext ≠ none ∧ s.orn.tapNext ≠ some s.svi.tapNo →
        exec (.tapWordReceive w) s = .next { u with orn := { s.orn with tapNext := some m, tapErr := satAdd 16 s.orn.tapErr 1 } }) ∧
      (s.orn.phase = .metering → w = .good → s.orn.tapNext = none ∨ s.orn.tapNext = some s.svi.tapNo →
        ∃ slots, exec (.tapWordReceive w) s = .next { u with orn := { s.orn with tapNext := some m, slots := slots, sets := s.orn.sets ++ [r] } })) ∧
    (∀ g k p f u v, ornDue s = some (g, k) → p = paramsFor s k → f = (match s.orn.sets.find? fun r => r.group == g with | some r => r.hz | none => 4800) →
      u = keepLast ((groupCircuits s p g).foldl (meterCircuit g k ((k + 1) * f / 10 % 2 ^ 32) p) s) g k →
      v = powerRecord (match tget s.orn.next g with | some n => if n < k then gapRecord u g n k else u | none => u) k →
      ∃ w, w = { v with orn := { v.orn with
          next := tset v.orn.next g (k + 1), sets := v.orn.sets.filter fun r => r.group != g || decide (k ≤ r.tick * 10 / r.hz) } } ∧
        exec .intervalCompute s = .next (if k % p.sp = p.sp - 1 ∧ computedTo w k = true then ornSave w false else w)) ∧
    (∀ (k : Fin 4) (x : PulseSet) (y : PulseRun), x = tat (ornParams s).pulses k.val {} → y = tat s.orn.pulses k.val {} → x.en = true → y.left ≠ 0 →
      y.due ≠ 0 → y.at_ ≤ s.orn.clk → y.sent = 0 ∨ y.high + x.w * 100000 ≤ s.orn.clk → exec (.pulseEmit k) s = .next { s with orn := { s.orn with
        pulses := tset s.orn.pulses k.val { y with
          due := y.due - 1, left := y.left - 1, at_ := y.at_ + y.gap, high := s.orn.clk + x.w * 100000, sent := y.sent + 1 } } }) ∧
    (s.orn.held = false → s.orn.phase = .starting → ∃ t, exec (.orangeryStart true) s = .next t ∧ t = { s with orn := t.orn } ∧ t.orn.phase = .metering ∧
      t.orn.active = s.orn.active ∧ t.orn.fallback = false ∧ t.orn.powerDue = true ∧ t.orn.audit = s.orn.audit ∧
      (∀ x, newestSave s = some x → t.orn.loaded = x.until_ ∧ ∀ c, (tat t.orn.runs c {}).accs = (tat x.runs c {}).accs)) ∧
    (s.orn.held = false → s.orn.phase = .starting → ∃ t, exec (.orangeryStart false) s = .next t ∧ t = { s with orn := t.orn } ∧ t.orn.phase = .metering ∧
      t.orn.active = (!s.orn.active) ∧ t.orn.fallback = true ∧ t.orn.audit.length = s.orn.audit.length + (if auditFree s = 0 then 0 else 1))

/-! ### The Belvedere -/

/-- Triggers, captures and rate reduction (R507, R510 to R515, R517, R520 to R523, R526 to R528, R531): a TIMEOUT unit fires once T0 has passed,
counted, and a capture group that selects it records the mark and triggers; a mirrored frame is recorded; a capture that is due gets its header
and the group moves to its next free slot, or is FULL; TRIG triggers a recording group, REL releases held slots; a mask's table is copied from
DRAM; a halving step doubles the DIV of the group with the smallest, a restore step halves the DIV of the group with the largest; a change of
a source entry is refused with 0x05 while the entry is in use, else waits for the next fabric edge, and takes effect at once with the generator
stopped. -/
def Obligations.Captures : Prop :=
  ∀ s : State, s.cru.inReset = false →
    (∀ (u : Fin 64) (t k : Nat), unitOn s u.val = true → fget s (Fld.BLV_TR_CTRL_KIND u.val) = 2 → (unitRun s u.val).last = some t →
      (unitRun s u.val).fired = false → k = t + fget s (Fld.BLV_TR_T0_T u.val) * 1000 → k ≤ nowNs s →
      exec (.triggerTimeout u) s = .next ((List.range 16).foldl (groupFire k u.val)
        (cinc (setUnit s u.val { unitRun s u.val with fired := true }) (Fld.BLV_TR_FIRES_COUNT u.val)))) ∧
    (∀ (t u g : Nat) (v : State), recording v g = false ∨ selects v g u = false → groupFire t u v g = v) ∧
    (∀ (t u g : Nat) (v w : State), recording v g = true → selects v g u = true → (capOf v g).st = .record → fbit v (Fld.BLV_CG_CTRL_MODE g) = false →
      w = storeMark (setCap v g { capOf v g with fires := tset (capOf v g).fires u t }) g t 1 u 0 →
      groupFire t u v g = capTrigger w g t u none false) ∧
    (∀ c f v, nextClass s 19 = some c → headOf s 19 c = some f → v = takeHead s 19 c →
      exec .mirrorFrameRecord s = .next (if blvOn v then blvFrame v f c else v)) ∧
    (∀ (g : Fin 16) (x : CapGroup) (h : List Nat) (b : Nat) (u : State), closeDue s g.val = true → x = capOf s g.val → h = capHeader s g.val true →
      b = slotBase s g.val x.cur →
      u = cinc (setCap (physPut (physPut s 0x3006 b (capHeader s g.val false ++ leBytes 4 (crc32 h))) 0x3006 (b + 0x10) ((h.drop 0x10).take 4)) g.val
        { x with heldSlots := setBit x.heldSlots x.cur }) (Fld.BLV_CG_CAPS_COUNT g.val) →
      (∀ k, freeSlot u g.val ((x.cur + 1) % capSlots u g.val) = some k → exec (.captureClose g) s = .next (capArm u g.val k)) ∧
      (freeSlot u g.val ((x.cur + 1) % capSlots u g.val) = none →
        exec (.captureClose g) s = .next (setCap u g.val { capOf u g.val with st := .full, recs := [] }))) ∧
    (∀ (mid : Mid) (g : Fin 16), mayWrite s mid.toNat (0xC02060 + 0x40 * g.val) = true →
      (∀ (x : CapGroup) (b : State), x = capOf s g.val → b = wscNote s (0xC02060 + 0x40 * g.val) (2 ^ 31) → recording s g.val = true → x.st = .record →
        exec (.blvCgTrig mid g) s = .next (respond (captureEvent (setCap b g.val { x with
          st := .post, seq := (x.seq + 1) % 2 ^ 32, tT := nowNs s, unit := 0, mask := 0, maskStop := false, soft := true
          short := capState s g.val == 1, fin := nowNs s + fget s (Fld.BLV_CG_POST_US g.val) * 1000, edgeAfter := false }) g.val) {})) ∧
      (recording s g.val = false ∨ (capOf s g.val).st ≠ .record → exec (.blvCgTrig mid g) s =
        .next (respond (wscNote s (0xC02060 + 0x40 * g.val) (2 ^ 31)) {})) ∧
      (∀ slots : BitVec 16, exec (.blvCgRel mid g slots) s = .next (respond ((bitsOf slots.toNat 16).foldl (releaseSlot g.val)
        (if slots.toNat = 0 then s else wscNote s (0xC02060 + 0x40 * g.val) slots.toNat)) {}))) ∧
    (∀ (g k : Nat) (v : State), (bit (capOf v g).heldSlots k = false → releaseSlot g v k = wign v 0xC02000) ∧
      (bit (capOf v g).heldSlots k = true → ∀ w, w = setCap v g { capOf v g with heldSlots := clrBit (capOf v g).heldSlots k } →
        releaseSlot g v k = if (capOf v g).st = .full then capArm w g k else w)) ∧
    (∀ (m : Fin 64) (x : MaskRun) (n : Nat) (v : State) (r : Option (List Nat)), x = tat s.blv.masks m.val {} → x.due ≠ none →
      n = fget s (Fld.BLV_MK_CTRL_NPT m.val) + 1 → physRead s 0x3006 (fget s (Fld.BLV_MK_TBL_ADDR m.val) * 4096) (8 * n) = (v, r) →
      exec (.maskTableLoad m) s = .next { v with blv := { v.blv with masks := tset v.blv.masks m.val { x with
        due := none
        new := match r with
          | none => x.new
          | some bs => some ((List.range n).map (fun i =>
              (toSigned 32 (ofLe ((bs.drop (8 * i)).take 4)), toSigned 32 (ofLe ((bs.drop (8 * i + 4)).take 4)))), mainsAt v (nowNs v) / 2 ^ 32) } } }) ∧
    (∀ g : Nat, g < 16 → (∀ h, capPrio s h < 16) → blvOn s = true → reducible s g = true → (capOf s g).div < 128 → 3 * 2 ^ 19 ≤ bufferFill s →
      (∀ t, s.blv.stepAt = some t → t + 10000 ≤ s.sdl.fab) →
      (∀ h, h < 16 → h ≠ g → reducible s h = true → (capOf s h).div < 128 → (capOf s g).div < (capOf s h).div ∨
        (capOf s g).div = (capOf s h).div ∧ (capPrio s h < capPrio s g ∨ capPrio s h = capPrio s g ∧ h < g)) →
      exec .rateHalvingStep s = .next (cinc (setCap (setBlv s { s.blv with stepAt := some s.sdl.fab }) g
        { capOf s g with div := (capOf s g).div * 2 }) Fld.BLV_RREDUCE_COUNT)) ∧
    (∀ g : Nat, g < 16 → (∀ h, capPrio s h < 16 ∧ (capOf s h).div ≤ 128) → blvOn s = true → 1 < (capOf s g).div → bufferFill s < 2 ^ 19 →
      s.blv.lowAt + 1000000 ≤ s.sdl.fab →
      (∀ h, h < 16 → h ≠ g → 1 < (capOf s h).div → (capOf s h).div < (capOf s g).div ∨
        (capOf s h).div = (capOf s g).div ∧ (capPrio s g < capPrio s h ∨ capPrio s g = capPrio s h ∧ g < h)) →
      exec .rateRestoreStep s = .next (setCap (setBlv s { s.blv with lowAt := s.sdl.fab }) g { capOf s g with div := (capOf s g).div / 2 })) ∧
    (∀ (mid : Mid) (e : Fin 1024), Free s mid.toNat 0xC00080 →
      exec (.blvSrcRead mid e) s = .next (answered s mid.toNat 0xC00080 2 e.val [w32 (tat s.blv.srcs e.val 0), w32 (bitAt (tget s.blv.srcs e.val).isSome 31)]) ∧
      (∀ (d : List Word) (v k i : Nat) (c : Instr) (x : Option Nat) (q : State), d.length ≤ 12 → v = word s 0xC00080 d 0 →
        k = (if 1 ≤ v / 2 ^ 28 ∧ v / 2 ^ 28 ≤ 5 then v / 2 ^ 28 else 5) →
        i = (if k = 5 then v % 2 ^ 28 - bits v 13 8 * 256 + clampTo 2 48 (bits v 13 8) * 256 else v % 2 ^ 28) →
        (c, x, q) ∈ [(.blvSrcWrite mid e d, some (k * 2 ^ 28 + i), asks (written s d) mid.toNat 0xC00080 1 true e.val d),
          (.blvSrcDisable mid e, none, asks s mid.toNat 0xC00080 3 true e.val [])] →
        (srcInUse s e.val = true → exec c s = .next (ended q 0xC00080 5)) ∧
        (srcInUse s e.val = false → genActive s = true →
          exec c s = .next (respond { q with blv := { s.blv with src := some (e.val, x) } } {})) ∧
        (srcInUse s e.val = false → genActive s = false → exec c s = .next (respond (capsFollow (mbxEnd { q with blv := { s.blv with
          src := none, srcs := match x with | some w => tset s.blv.srcs e.val w | none => tdel s.blv.srcs e.val } } 0xC00080 0)) {}))))

/-! ### The Herbarium -/

/-- Event records (R536, R538, R541 to R549, R551 to R555): an event is a repeat of the open record, else a new record in staging, or lost where
the page is disabled or staging is full; an event of the same clock with a smaller SRC enters staging before the later ones, closed; the types that
floods never merge start a closed record; the open record closes after REPWIN; each program and erase operation of the flash that ends leads to
the next, a failed one is counted and raises class 18, and a suspended erase does not end; FREEZE is set and cleared; the scan finds an erased flash empty; the mailboxes read a page, write and read
the selections, and log an event of class 14 or 15. -/
def Obligations.EventRecords : Prop :=
  ∀ s : State, s.cru.inReset = false →
    (∀ (type src : BitVec 16) (args : List Word) (t : Nat) (as : List Nat), t = type.toNat % 4096 → as = args.map (·.toNat) →
      (enabled s 0xD00000 = false → exec (.herbariumEvent type src args) s = .next (loseEvent s 3)) ∧
      (enabled s 0xD00000 = true → neverMerged t = false → s.hrb.open_ = some (t, src.toNat, as.getD 0 0) →
        exec (.herbariumEvent type src args) s = .next { s with hrb := { addRepeat s.hrb (nowNs s) with openAt := s.sdl.fab } }) ∧
      (enabled s 0xD00000 = true → (neverMerged t = true ∨ s.hrb.open_ ≠ some (t, src.toNat, as.getD 0 0)) →
        (64 < s.hrb.staging.length + (if s.hrb.loss.isSome then 2 else 1) →
          exec (.herbariumEvent type src args) s = .next (loseEvent s (if fbit s Fld.HRB_CTRL_FREEZE then 2 else 1))) ∧
        (s.hrb.staging.length + (if s.hrb.loss.isSome then 2 else 1) ≤ 64 → ∀ (k : Nat) (pre : List Rec), k = behind s src.toNat →
          pre = (match s.hrb.loss with | some l => [{ lossRec s l with closed := true }] | none => []) →
          (k = 0 → exec (.herbariumEvent type src args) s = .next (hrbPump { s with hrb := { closeOpen s.hrb with
            staging := (closeOpen s.hrb).staging ++ pre ++ [{ compose s t src.toNat as none with closed := neverMerged t }]
            loss := none, open_ := if neverMerged t then none else some (t, src.toNat, as.getD 0 0), openAt := s.sdl.fab } })) ∧
          (k ≠ 0 → exec (.herbariumEvent type src args) s = .next (hrbPump { s with hrb := { s.hrb with
            staging := s.hrb.staging.take (s.hrb.staging.length - k) ++ pre ++ [{ compose s t src.toNat as none with closed := true }] ++
              s.hrb.staging.drop (s.hrb.staging.length - k)
            loss := none } }))))) ∧
    (s.hrb.open_ ≠ none → s.hrb.openAt + fget s Fld.HRB_CTRL_REPWIN * 1000000 ≤ s.sdl.fab →
      exec .recordCloseTimeout s = .next (hrbPump { s with hrb := closeOpen s.hrb })) ∧
    (∀ (p : Nat) (r : Rec) (v : State), v = freezeReached (cinc { s with hrb := { s.hrb with op := none } } Fld.HRB_FLERR_COUNT) →
      (s.hrb.op = some (.body p r) →
        exec (.flashProgramDone true) s = .next { s with hrb := { s.hrb with
          op := some (.valid p r), flash := flashProgram s.hrb.flash (p * 256) (recBytes r ((s.hrb.seq + 1) % 2 ^ 32)) } } ∧
        (r.type = 1 → exec (.flashProgramDone false) s = .next (flashFault (hrbPump (skipSector v (p / 256))) true)) ∧
        (∀ w, r.type ≠ 1 → w = advancePage v p →
          exec (.flashProgramDone false) s = .next (flashFault (hrbPump { w with hrb := { w.hrb with
            staging := if r.type = 2 then w.hrb.staging else r :: w.hrb.staging
            selDone := if r.type = 2 then clrBit w.hrb.selDone (r.args.getD 0 0) else w.hrb.selDone } }) true))) ∧
      (s.hrb.op = some (.valid p r) → ∀ (ok : Bool) (u w x y : State),
        u = cinc { s with hrb := { s.hrb with
          op := none, seq := (s.hrb.seq + 1) % 2 ^ 32
          flash := flashProgram s.hrb.flash (p * 256 + 0xFC) (leBytes 4 0x5A5AA5A5) } } Fld.HRB_RECS_COUNT →
        w = { u with hrb := if r.closed then { u.hrb with closings := u.hrb.closings ++ [(p, r)] } else { u.hrb with openPage := some (p, r) } } →
        x = (if r.type ≠ 1 then advancePage w p
          else if w.hrb.wpage = p / 256 * 256 then enterSector { w with hrb := { w.hrb with erased := w.hrb.erased ++ [p / 256] } } (p / 256)
          else { w with hrb := { w.hrb with erased := w.hrb.erased ++ [p / 256] } }) →
        y = freezeReached x →
        exec (.flashProgramDone ok) s = .next (hrbPump { y with hrb := hrbErase y.hrb })) ∧
      (s.hrb.op = some (.rep p r) → ∀ y : State,
        y = freezeReached { s with hrb := { s.hrb with op := none, flash := flashProgram s.hrb.flash (p * 256 + 0xE0) (repBytes r) } } →
        exec (.flashProgramDone true) s = .next (hrbPump { y with hrb := hrbErase y.hrb }) ∧
        exec (.flashProgramDone false) s = .next (flashFault (hrbPump { v with hrb := hrbErase v.hrb }) true)) ∧
      (∀ (k n : Nat), s.hrb.erasing = some (k, false) →
        n = (if pageValid s.hrb.flash (k * 256) = true ∧ flashLe s.hrb.flash (k * 65536 + 2) 2 = 1 then flashLe s.hrb.flash (k * 65536 + 0x2C) 4
          else s.hrb.maxErase) + 1 →
        exec (.flashEraseDone true) s = .next (hrbPump { s with hrb := { s.hrb with
          erasing := none, flash := flashErase s.hrb.flash (k * 65536) (k * 65536 + 65536), needSector := some (k, n) } }) ∧
        (∀ e, e = cinc s Fld.HRB_FLERR_COUNT →
          exec (.flashEraseDone false) s = .next (flashFault (skipSector { e with hrb := { e.hrb with erasing := none } } k) true))) ∧
      (∀ (k : Nat) (ok : Bool), s.hrb.erasing = some (k, true) → exec (.flashEraseDone ok) s = .next s)) ∧
    (∀ mid : Mid, mayWrite s mid.toNat 0xD00040 = true → locked s 0xD00000 = false → claimedBy s 0xD00000 = none →
      1 ≤ fget s Fld.HRB_CTRL_ERAHEAD → fget s Fld.HRB_CTRL_ERAHEAD ≤ 8 → 1 ≤ fget s Fld.HRB_CTRL_REPWIN → fget s Fld.HRB_CTRL_REPWIN ≤ 60000 →
      ∀ w : Nat → State, w = (fun v => fset (fset (fset s Fld.HRB_CTRL_FREEZE v) Fld.HRB_CTRL_ERAHEAD (fget s Fld.HRB_CTRL_ERAHEAD))
        Fld.HRB_CTRL_REPWIN (fget s Fld.HRB_CTRL_REPWIN)) →
      exec (.hrbFreeze mid) s = .next (respond { w 1 with hrb := { s.hrb with
        frozen := s.hrb.op.isNone, erasing := s.hrb.erasing.map fun e => (e.1, true) } } {}) ∧
      exec (.hrbUnfreeze mid) s = .next (respond (if s.hrb.frozen = true then hrbPump { w 0 with hrb := hrbErase { s.hrb with frozen := false } }
        else w 0) {})) ∧
    (s.hrb.scanning = true → exec .herbariumScan s = .next (hrbScan s) ∧ (s.hrb.flash = [] → ∀ h, h = { s.hrb with
        scanning := false, seq := 0, maxErase := 0, openPage := none, selDone := 0, wpage := 0, osector := 0, erased := []
        eraseQ := (List.range (fget s Fld.HRB_CTRL_ERAHEAD)).map (sectorAhead s.hrb 0) } →
      exec .herbariumScan s = .next (recordExcl { cadd s Fld.HRB_SCANBAD_COUNT 0 with hrb := hrbErase h } 4 0x3007 [s.cru.cause, 0x1280B000, 0, 0]))) ∧
    (∀ (mid : Mid) (part : Fin 8) (n : Nat), Free s mid.toNat 0xD00080 → n = (if part.val = 5 then 16 else 48) →
      exec (.hrbRead mid part) s = .next (if part.val ≤ 5
        then answered s mid.toNat 0xD00080 1 part.val
          (wordsOfBytes (n / 4) (flashRead s.hrb.flash (fget s Fld.HRB_RDADDR_PAGE * 256 + 48 * part.val) n))
        else ended (asks s mid.toNat 0xD00080 1 false part.val []) 0xD00080 0xFF)) ∧
    (∀ (mid : Mid) (arg : BitVec 16) (d : List Word) (k : Nat) (sel : SnapSel) (w : Nat → Nat), Free s mid.toNat 0xD000C0 → d.length ≤ 12 →
      k = arg.toNat % 16 → sel = tat s.hrb.sels k {} → w = word s 0xD000C0 d →
      exec (.hrbSnapRead mid arg) s = .next (answered s mid.toNat 0xD000C0 4 arg.toNat (snapWords sel (bits arg.toNat 5 4))) ∧
      (∀ (part : Nat) (c : Instr) (x : SnapSel) (code : Nat) (q : State),
        (part, c) ∈ [(0, .hrbSnapSet mid arg d), (1, .hrbSnapSethi mid arg d), (2, .hrbSnapSetlast mid arg d)] → snapWrite sel part w = (x, code) →
        q = asks (written s d) mid.toNat 0xD000C0 (part + 1) true arg.toNat d →
        (code ≠ 0 → exec c s = .next (ended q 0xD000C0 code)) ∧
        (code = 0 → exec c s = .next (ended { q with hrb := { s.hrb with
          sels := tset (s.hrb.sels.map fun e => (e.1, { e.2 with draft := if e.1 = k then e.2.draft else none })) k x
          selDone := if x.ver = sel.ver then s.hrb.selDone else clrBit s.hrb.selDone k } } 0xD000C0 0))) ∧
      (∀ n, n = min (w 0 % 32) 30 → n ≤ 11 → snapWrite sel 0 w =
        ({ offs := ((List.range 11).map fun i => w (i + 1) / 4 * 4).take n, ver := (sel.ver + 1) % 65536, draft := none }, 0))) ∧
    (∀ (mid : Mid) (arg : BitVec 16) (d : List Word) (t : Nat) (w : Nat → Nat) (q : State), Free s mid.toNat 0xD00100 → d.length ≤ 12 →
      t = arg.toNat % 4096 → w = word s 0xD00100 d → q = asks (written s d) mid.toNat 0xD00100 1 true arg.toNat d →
      (t / 256 < 14 → exec (.hrbLog mid arg d) s = .next (ended q 0xD00100 2)) ∧
      (∀ u ok, 14 ≤ t / 256 → acceptEvent q t mid.toNat [w 0, w 1, w 2, w 3, w 4, w 5] false none = (u, ok) →
        exec (.hrbLog mid arg d) s = .next (ended u 0xD00100 (if ok then 0 else 1))))

/-! ### The Gatehouse -/

/-- Keys, fuses and tags (R557 to R563, R566, R567, R569 to R575, R578 to R580, R582 to R584, R586, R587): birth of the root, entropy health, the
requests of GTH_KEY with their refusals, the end of an update and the load of the key store, the requests of GTH_REQ with a usable slot and a
buffer, a refused use with its CODE, and the challenge and unlock of the debug port. -/
def Obligations.KeysAndTags : Prop :=
  ∀ s : State, s.cru.inReset = false →
    (∀ b n, s.gth.birth = some (b, n) →
      (s.gth.entErr = true → exec .rootBirthComplete s = .next { s with gth := { s.gth with birth := if n < 3 then some (b, n + 1) else none } }) ∧
      (s.gth.entErr = false → ∀ u, u = setBank (drew s) b (.born (drawn 256 s) true) → exec .rootBirthComplete s = .next (gthRecord { u with
        gth := { u.gth with rootSt := 1, root := drawn 256 s, birth := none } } 0x0401 [b]))) ∧
    exec .entropyHealthFail s = .next { s with gth := { s.gth with entErr := true } } ∧
    exec .entropyHealthPass s = .next { s with gth := { s.gth with entErr := false } } ∧
    (∀ (mid : Mid) (arg : BitVec 16) (d : List Word) (k : Nat) (w : Nat → Nat) (q : Nat → State), Free s mid.toNat 0xE00080 → d.length ≤ 12 →
      k = arg.toNat % 4096 → w = word s 0xE00080 d → q = (fun op => asks (written s d) mid.toNat 0xE00080 op true arg.toNat d) →
      (∀ op c, (op, c) ∈ [(1, Instr.gthKeyWrite mid arg d), (5, .gthKeyLifecycle mid arg d), (7, .gthKeyFusekey mid arg d),
          (8, .gthKeyFuserev mid arg d), (9, .gthKeyBootver mid arg d)] →
        (gthUp s = false → exec c s = .next (ended (q op) 0xE00080 0x0A)) ∧
        (gthUp s = true → tampered s 1 = true → exec c s = .next (ended (q op) 0xE00080 5))) ∧
      (gthUp s = true → tampered s 1 = false →
        (s.gth.rootSt ≠ 1 → exec (.gthKeyWrite mid arg d) s = .next (ended (q 1) 0xE00080 9)) ∧
        (s.gth.rootSt = 1 → s.gth.lc = 3 → exec (.gthKeyWrite mid arg d) s = .next (ended (q 1) 0xE00080 5)) ∧
        (s.gth.rootSt = 1 → s.gth.lc ≠ 3 → k = 4095 → metroOpen s = false → exec (.gthKeyWrite mid arg d) s = .next (ended (q 1) 0xE00080 0x0E)) ∧
        (∀ v r, s.gth.rootSt = 1 → s.gth.lc ≠ 3 → k ≠ 4095 ∨ metroOpen s = true → physRead (q 1) 0x5000 (w 0 + 2 ^ 32 * w 1) 256 = (v, r) →
          (r = none → exec (.gthKeyWrite mid arg d) s = .next (ended v 0xE00080 0x12)) ∧
          (∀ bs code, r = some bs → slotOfBuffer k bs = .inl code → exec (.gthKeyWrite mid arg d) s = .next (ended v 0xE00080 code)) ∧
          (∀ bs x, r = some bs → slotOfBuffer k bs = .inr x →
            (x.type = 2 → exec (.gthKeyWrite mid arg d) s = .next (respond (if depthRefused v k x then mbxEnd v 0xE00080 6
              else startUpdate v k (some x) 1 0) {})) ∧
            (x.type = 3 → exec (.gthKeyWrite mid arg d) s = .next (respond (startUpdate v k (some x) 1 0) {})) ∧
            (x.type = 1 → w 2 % 4 = 0 → exec (.gthKeyWrite mid arg d) s = .next (respond (if 2 ≤ s.gth.lc then mbxEnd v 0xE00080 5
              else startUpdate v k (some { x with key := (bs.drop 0x60).take (algBits x.alg / 8) }) 1 0) {})) ∧
            (x.type = 1 → 2 ≤ w 2 % 4 → exec (.gthKeyWrite mid arg d) s = .next (respond (if s.gth.entErr then mbxEnd v 0xE00080 0x0D
              else startUpdate (drew v) k (some { x with key := leBytes (algBits x.alg / 8) (drawn (8 * (algBits x.alg / 8)) v) }) 1 0) {})))) ∧
        (w 1 ≠ 0x4C435931 → exec (.gthKeyLifecycle mid arg d) s = .next (ended (q 5) 0xE00080 0x0F)) ∧
        (∀ t, w 1 = 0x4C435931 → t = w 0 % 4 →
          (3 ≤ s.gth.lc ∨ t ≠ 3 ∧ (t ≠ s.gth.lc + 1 ∨ 2 < t) ∨ t = 1 ∧ (∀ r < 4, tget s.gth.rows r ≠ none → bit s.gth.rev r = true) →
            exec (.gthKeyLifecycle mid arg d) s = .next (ended (q 5) 0xE00080 5)) ∧
          (s.gth.lc < 3 → t = s.gth.lc + 1 → t = 1 ∨ t = 2 → (t = 1 → ∃ r < 4, tget s.gth.rows r ≠ none ∧ bit s.gth.rev r = false) →
            exec (.gthKeyLifecycle mid arg d) s = .next (ended (gthRecord { q 5 with gth := { s.gth with lc := t } } 0x0404 [s.gth.lc, t, mid.toNat])
              0xE00080 0)) ∧
          (s.gth.lc < 3 → t = 3 → exec (.gthKeyLifecycle mid arg d) s = .next (ended (gthRecord { q 5 with gth := { s.gth with
            lc := 3, bank0 := .partly, bank1 := .partly, rootSt := 3, root := 0, birth := none, slots := [], bad := [], cache := [] } }
            0x0404 [s.gth.lc, 3, mid.toNat]) 0xE00080 0))) ∧
        (∀ r, r = w 0 % 8 → s.gth.lc < 2 →
          (4 < r → exec (.gthKeyFusekey mid arg d) s = .next (ended (q 7) 0xE00080 0x0F)) ∧
          (r ≤ 4 → tget s.gth.rows r ≠ none → exec (.gthKeyFusekey mid arg d) s = .next (ended (q 7) 0xE00080 0x11)) ∧
          (∀ v bs, r ≤ 4 → tget s.gth.rows r = none → physRead (q 7) 0x5000 (w 1 + 2 ^ 32 * w 2) 48 = (v, some bs) →
            exec (.gthKeyFusekey mid arg d) s = .next (ended (gthRecord { v with gth := { v.gth with rows := tset v.gth.rows r bs } } 0x040B [r, 0, 0])
              0xE00080 0))) ∧
        (2 ≤ s.gth.lc → exec (.gthKeyFusekey mid arg d) s = .next (ended (q 7) 0xE00080 5)) ∧
        (s.gth.lc = 0 ∨ s.gth.lc = 3 → exec (.gthKeyFuserev mid arg d) s = .next (ended (q 8) 0xE00080 5) ∧
          exec (.gthKeyBootver mid arg d) s = .next (ended (q 9) 0xE00080 5)) ∧
        (s.gth.lc = 1 ∨ s.gth.lc = 2 →
          (∀ r, r = w 0 % 8 → exec (.gthKeyFuserev mid arg d) s = .next (if 4 < r then ended (q 8) 0xE00080 0x0F
            else ended (gthRecord { q 8 with gth := { s.gth with rev := setBit s.gth.rev r } } 0x040B [r, 1, 0]) 0xE00080 0)) ∧
          (∀ n, n = min (w 0 % 128) 64 → exec (.gthKeyBootver mid arg d) s = .next (if n ≤ s.gth.bootver then ended (q 9) 0xE00080 0x11
            else ended (gthRecord { q 9 with gth := { s.gth with bootver := n } } 0x040B [0, 2, n]) 0xE00080 0))))) ∧
    (∀ (mid : Mid) (arg : BitVec 16) (k : Nat) (q : Nat → State), Free s mid.toNat 0xE00080 → k = arg.toNat % 4096 →
      q = (fun op => asks s mid.toNat 0xE00080 op true arg.toNat []) → gthUp s = true →
      (∀ (x : KeySlot) (m : Nat → Nat), x = (tget s.gth.slots k).getD { type := 0, alg := 0, pavLo := 0, pavHi := 0 } → m = (fun i => x.mids.getD i 0) →
        (arg.toNat < 2 ^ 14 → exec (.gthKeyRead mid arg) s = .next (answered s mid.toNat 0xE00080 2 arg.toNat
          ([slotState s k * 2 ^ 30 + x.type * 2 ^ 16 + x.alg * 2 ^ 8 + x.uses % 64, x.ver, m 1 * 2 ^ 16 + m 0, m 3 * 2 ^ 16 + m 2,
            x.pavHi * 2 ^ 16 + x.pavLo, (if x.type = 2 then slotDepth s 8 k else 0) * 2 ^ 16 + x.parent % 4096, keyCheck s k].map w32))) ∧
        (arg.toNat / 2 ^ 14 = 1 ∨ arg.toNat / 2 ^ 14 = 2 → x.type = 3 → exec (.gthKeyRead mid arg) s = .next (answered s mid.toNat 0xE00080 2 arg.toNat
          (gthWords (if arg.toNat / 2 ^ 14 = 1 then x.key.take 48 else x.key.drop 48))))) ∧
      (tampered s 1 = false → s.gth.rootSt = 1 → s.gth.lc ≠ 3 → k ≠ 4095 ∨ metroOpen s = true →
        (∀ x u, s.gth.bad.contains k = false → tget s.gth.slots k = some x →
          u = purgeCache { q 3 with gth := { s.gth with slots := tset s.gth.slots k { x with revoked := true } } } k →
          exec (.gthKeyRevoke mid arg) s = .next (respond (startUpdate u k (some { x with revoked := true }) 3 (descendants s k).length) {})) ∧
        (s.gth.bad.contains k = false → tget s.gth.slots k = none → exec (.gthKeyRevoke mid arg) s = .next (ended (q 3) 0xE00080 4)) ∧
        exec (.gthKeyErase mid arg) s = .next (respond (if slotState s k = 0 then mbxEnd (q 4) 0xE00080 4 else startUpdate (q 4) k none 4 0) {})) ∧
      (tampered s 1 = false → k ≠ 4095 → exec (.gthKeyMetroload mid arg) s = .next (ended (q 6) 0xE00080 0x0F)) ∧
      (∀ u v key o, tampered s 1 = false → k = 4095 → useKey (q 6) 4095 4 mid.toNat none = (u, 0, key) → (mbxAt u 0xB00080).busy = false →
        o = ornMbx .ORN_REQ 0xB00080 (setMbx u 0xB00080 { mbxAt u 0xB00080 with
          arg := 0, op := 0x0A, wr := true, busy := true, valid := false, mid := 0x5000, d := gthWords key }) →
        v = setMbx o 0xB00080 { mbxAt o 0xB00080 with d := [] } →
        exec (.gthKeyMetroload mid arg) s = .next (respond (mbxAnswer (gthRecord v 0x0409 [(mbxAt v 0xB00080).code,
          match tget v.gth.slots 4095 with | some x => x.ver | none => 0]) 0xE00080 (if (mbxAt v 0xB00080).code = 0 then 0 else 0x10)
          [w32 (mbxAt v 0xB00080).code]) {}))) ∧
    (∀ u v, s.gth.update = some u → u.again = false → u.copy = 0 ∨ s.gth.bad.contains u.slot = false →
      v = purgeCache { s with
        dbg := { s.dbg with flash := flashProgram s.dbg.flash (copyAt s u.slot u.copy + 0xFC) (leBytes 4 0x5A5AA5A5) }
        gth := { s.gth with update := none } } u.slot →
      ∃ w, w = { v with gth := { v.gth with
          bad := v.gth.bad.filter (fun k => k != u.slot)
          slots := match u.next with | some x => tset v.gth.slots u.slot x | none => tdel v.gth.slots u.slot } } ∧
        exec .keyStoreValid s = .next (mbxEndIfBusy (match u.op, u.next with
          | 0x01, some x => gthRecord w 0x0408 [u.slot, u.ver, x.type * 256 + x.alg]
          | 0x03, _ => gthRecord w 0x0407 [u.slot, u.purged, u.ver]
          | _, _ => w) 0xE00080 0)) ∧
    (∀ u, s.gth.loading = true → u = { s with gth := { s.gth with slots := [], bad := [], cache := [], loading := false } } →
      exec .keyStoreLoad s = .next (if s.gth.rootSt = 1 then (storedSlots u).foldl loadSlot u else u)) ∧
    (∀ (mid : Mid) (k : Fin 48) (arg : BitVec 16) (d : List Word) (a : Nat) (w : Nat → Nat) (pav : Option Nat), a = 0xE10040 + 0x1000 * k.val →
      Free s mid.toNat a → d.length ≤ 12 → w = word s a d → pav = (if bit arg.toNat 15 then some (arg.toNat % 1024) else none) →
      ∀ (op use : Nat) (c : Instr) (q : State), (op, use, c) ∈ [(1, 0, .gthReqGmac mid k arg d), (2, 0, .gthReqGmacchk mid k arg d),
          (3, 1, .gthReqHmac mid k arg d), (4, 3, .gthReqVerify mid k arg d), (5, 4, .gthReqSealtag mid k arg d)] →
        q = asks (written s d) mid.toNat a op true arg.toNat d →
        (enabled s (0xE10000 + k.val * 0x1000) = false → exec c s = .next (ended q a 0x0A)) ∧
        (enabled s (0xE10000 + k.val * 0x1000) = true →
          (op = 5 → tampered s 1 = true → exec c s = .next (ended q a 5)) ∧
          (op ≠ 5 ∨ tampered s 1 = false → ∀ u code key, useKey q (w 0 % 4096) use mid.toNat pav = (u, code, key) →
            (code ≠ 0 → exec c s = .next (ended u a code)) ∧
            (code = 0 → op = 5 → exec c s = .next (respond (mbxAnswer u a 0 (gthWords (toBe 32 (Config.hmac key
              (bytesOfWords ((List.range 4).map fun i => w32 (w (4 + i))) ++ ascii "OPEN") % 2 ^ 256)))) {})) ∧
            (∀ n v bs, code = 0 → op ≠ 5 → n = w 3 % 2 ^ 17 → (if op = 4 then n = 144 else 0 < n ∧ n ≤ 65536) →
              gthBuffer u pav (w 1 + 2 ^ 32 * w 2) n = (v, some bs) → ∀ tag m, m = tagBytes (w 0) →
              tag = toBe 16 (Config.gmac key (bytesOfWords [w32 (w 4), w32 (w 5), w32 (w 6)]) bs % 2 ^ 128) →
              exec c s = .next (respond (match op with
                | 1 => mbxAnswer (drew v) a 0 (gthWords (tag.take m ++ leBytes (16 - m) (drawn 64 v)))
                | 2 => mbxEnd v a (if tag.take m = (bytesOfWords ((List.range 4).map fun i => w32 (w (8 + i)))).take m then 0 else 0x0B)
                | 3 => mbxAnswer v a 0 (gthWords (toBe 32 (Config.hmac key bs % 2 ^ 256)))
                | _ => mbxEnd v a (if Config.p384 key (ofBe (bs.take 48)) (bs.drop 48) then 0 else 0x0C)) {}))))) ∧
    (∀ (mid : Mid) (arg : BitVec 16) (d : List Word), Free s mid.toNat 0xE000C0 → d.length ≤ 12 →
      (∀ q, q = asks s mid.toNat 0xE000C0 1 false 0 [] →
        (s.gth.entErr = true → exec (.gthDbgChallenge mid) s = .next (ended q 0xE000C0 0x0D)) ∧
        (s.gth.entErr = false → exec (.gthDbgChallenge mid) s = .next (respond (mbxAnswer { drew q with
          gth := { s.gth with challenge := some (drawn 256 s) } } 0xE000C0 0 (leWords 8 (drawn 256 s) ++ leWords 2 Config.deviceIdentity)) {}))) ∧
      (∀ q u p, q = asks (written s d) mid.toNat 0xE000C0 2 true arg.toNat d → p = arg.toNat % 4 → u = { q with gth := { s.gth with
          unlockParts := tset s.gth.unlockParts p (bytesOfWords ((List.range 12).map fun i => w32 (word s 0xE000C0 d i))) } } →
        (s.gth.lc = 3 ∨ 8 ≤ s.gth.fails → exec (.gthDbgUnlock mid arg d) s = .next (ended q 0xE000C0 5)) ∧
        (s.gth.lc ≠ 3 → s.gth.fails < 8 → (p < 3 → exec (.gthDbgUnlock mid arg d) s = .next (ended u 0xE000C0 0)) ∧
          (p = 3 → unlockGood u = true → exec (.gthDbgUnlock mid arg d) s = .next (ended (gthRecord { q with gth := { s.gth with
            challenge := none, unlockParts := [], unlocked := true } } 0x0405 []) 0xE000C0 0)) ∧
          (p = 3 → unlockGood u = false → exec (.gthDbgUnlock mid arg d) s = .next (ended (cinc { q with gth := { s.gth with
            challenge := none, unlockParts := [], fails := s.gth.fails + 1 } } Fld.GTH_DBGFAIL_COUNT) 0xE000C0 0x0C)))))

/-! ### Integrity and telemetry -/

/-- Memory integrity (R595 to R601, R604 to R607, R613, R614, R616, R626): the patrol scrub reads the next line, a corrected codeword and an
uncorrectable burst have their effects, a poisoned line is noted, and the pass ends with the last line; the on-chip scrub, the register sweep and the compare of the
Gatehouse memories count and report what they find; an activity that misses its bound is reported once; MEM_MARKSET sets and clears marks, an unchanged mark raising nothing;
telemetry is sent in the second's instant, or skipped while frames of the last one are queued; training gives the size of the DRAM. -/
def Obligations.MemoryIntegrity : Prop :=
  ∀ s : State, s.cru.inReset = false →
    (∀ (j : Fin 32) (errs : List (List (Fin 20))) (n : Nat) (u : State), enabled s 0xF00000 = true → fbit s Fld.MEM_SCRUB_EN = true →
      s.integ.gib ≠ 0 → n = s.integ.scrubLine →
      u = (if s.integ.poison.contains n then noteUE s n 0x300C true
        else readLine s j.val n 0x300C true (errs.map fun c => c.map fun p => p.val)) →
      (n + 1 < u.integ.gib * 2 ^ 24 → exec (.dramScrubStep j errs) s = .next { u with integ := { u.integ with scrubLine := n + 1 } }) ∧
      (u.integ.gib * 2 ^ 24 ≤ n + 1 → exec (.dramScrubStep j errs) s = .next { u with integ := { u.integ with
        scrubLine := 0, passes := (u.integ.passes + 1) % 2 ^ 16, implicated := [], passSecs := min ((u.sdl.fab - u.integ.scrubAt) / 10 ^ 9) 0xFFFF
        scrubAt := u.sdl.fab, late := u.integ.late.filter (· != 0) } })) ∧
    (∀ (v : State) (j line mid : Nat) (scrub : Bool) (errs : List (List Nat)), (∀ c ∈ errs.take 4, c = []) → readLine v j line mid scrub errs = v) ∧
    (∀ (v : State) (j line mid d : Nat) (scrub : Bool), tget v.integ.marks j = none →
      readLine v j line mid scrub [[2 * d]] = implicate (raiseFault (cinc v Fld.MEM_CE_COUNT) 8 [j, line / 64 % 2 ^ 32, d, mid]) j line mid d) ∧
    (∀ (v w : State) (j line mid d n : Nat), n = tat v.integ.implicated (16 * j + d) 0 + 1 →
      w = { v with integ := { v.integ with implicated := tset v.integ.implicated (16 * j + d) n } } →
      (n < fget v Fld.MEM_MARKTHR_THR ∨ tget v.integ.marks j ≠ none → implicate v j line mid d = w) ∧
      (fget v Fld.MEM_MARKTHR_THR ≤ n → tget v.integ.marks j = none → implicate v j line mid d =
        raiseFault { w with integ := { w.integ with marks := tset v.integ.marks j d } } 9 [j, line / 64 % 2 ^ 32, d, mid])) ∧
    (∀ (v : State) (j line mid : Nat) (scrub : Bool) (errs : List (List Nat)), decodeBurst (tget v.integ.marks j) errs = .uncorrectable →
      ∀ u, u = cinc (if ueHeld v then v else { v with integ := { v.integ with
          uePage := line / 64 % 2 ^ 32, ueValid := true, ueScrub := scrub, ueLine := line % 64, ueMid := mid } })
        (if scrub then Fld.MEM_SCRUE_COUNT else Fld.MEM_UE_COUNT) →
      readLine v j line mid scrub errs = raiseFault (if u.integ.poison.contains line then u
        else { u with integ := { u.integ with poison := u.integ.poison ++ [line] } }) 10 [j, line / 64 % 2 ^ 32, 0, mid]) ∧
    (∀ (a b : Nat), a < 20 → b < 20 → a / 2 ≠ b / 2 → decodeBurst none [[a, b]] = .uncorrectable) ∧
    (∀ (u : Fin 16) (bank : Byte) (item : Nat) (f : FoundState) (key n : Nat) (v : State), enabled s 0xF01000 = true → 1 ≤ u.val → u.val ≤ 6 →
      key = u.val * 256 + bank.toNat → n = tat s.integ.ocPos key 0 →
      v = (match f with
        | .clean => s
        | .corrected => raiseOpen (cinc s (Fld.MEM_OCCE_COUNT u.val)) (if u.val = 3 then 4 else 11) u.val 0
        | .uncorrectable => raiseOpen (ocLose (cinc s (Fld.MEM_OCUE_COUNT u.val)) u.val bank.toNat (if u.val = 2 then n else item))
            (if u.val = 3 then 4 else 12) u.val 0) →
      (n + 1 < 16384 → exec (.onchipScrubStep u bank item f) s = .next { v with integ := { v.integ with ocPos := tset v.integ.ocPos key (n + 1) } }) ∧
      (16384 ≤ n + 1 → exec (.onchipScrubStep u bank item f) s = .next { v with integ := { v.integ with
        ocPos := tset v.integ.ocPos key 0, ocMs := min ((v.sdl.fab - tat v.integ.ocAt key 0) / 10 ^ 6) 0xFFFF
        ocAt := tset v.integ.ocAt key v.sdl.fab, late := v.integ.late.filter (· != 1) } })) ∧
    (∀ wrong both : List Nat, copiesWrong s wrong both =
      both.foldl (fun v a => raiseOpen (cinc v (Fld.MEM_OCUE_COUNT 8)) 6 (a / 4096) a)
        (wrong.foldl (fun v a => raiseOpen (cinc v (Fld.MEM_OCCE_COUNT 8)) 7 (a / 4096) a) s)) ∧
    (∀ fix lost : List (BitVec 28), exec (.registerSweep fix lost .atUse) s =
      .next (copiesWrong s ((fix.map (·.toNat)).filter inStepAddr) ((lost.map (·.toNat)).filter inStepAddr))) ∧
    (∀ (fix lost : List (BitVec 28)) (romOk : Bool) (v w : State), enabled s 0xF01000 = true → s.integ.sweepAt + 10000000 ≤ s.sdl.fab →
      v = copiesWrong s (fix.map (·.toNat)) (lost.map (·.toNat)) →
      w = (if romOk then { v with cas := { v.cas with romErr := false } }
        else raiseOpen (cinc { v with cas := { v.cas with romErr := true } } (Fld.MEM_OCUE_COUNT 9)) 5 1 0) →
      exec (.registerSweep fix lost (.sweep romOk)) s = .next { drew w with integ := { w.integ with
        sweepAt := w.sdl.fab, sweepUs := drawn 16 w, late := w.integ.late.filter (· != 2) } }) ∧
    (∀ (fixed lost cache : List (Fin 4096)) (u v w : State), enabled s 0xF01000 = true → s.integ.cmpAt + 10000000 ≤ s.sdl.fab →
      u = (fixed.map (·.val)).foldl (fun v k => raiseOpen (cinc v (Fld.MEM_OCCE_COUNT 7)) 17 k 0) s →
      v = (lost.map (·.val)).foldl (fun v k => raiseOpen (cinc (if v.gth.bad.contains k then v
        else { v with gth := { v.gth with bad := v.gth.bad ++ [k] } }) (Fld.MEM_OCUE_COUNT 7)) 17 k 0) u →
      w = (cache.map (·.val)).foldl (fun v k => raiseOpen (cinc v (Fld.MEM_OCUE_COUNT 7)) 17 k 0) v →
      exec (.gatehouseMemoryCompare fixed lost cache) s = .next { w with integ := { w.integ with
        cmpAt := w.sdl.fab, late := w.integ.late.filter (· != 3) } }) ∧
    (∀ n : Fin 5, s.integ.late.contains n.val = false → (match n.val with
        | 0 => s.integ.gib ≠ 0 ∧ s.integ.scrubAt + fget s Fld.MEM_SCRUB_PERIOD * 60 * 10 ^ 9 ≤ s.sdl.fab
        | 1 => s.integ.ocAt = [] ∧ 10 ^ 9 ≤ s.sdl.fab ∨ ∃ e ∈ s.integ.ocAt, e.2 + 10 ^ 9 ≤ s.sdl.fab
        | 2 => s.integ.sweepAt + 10000000 ≤ s.sdl.fab
        | 3 => s.integ.cmpAt + 10000000 ≤ s.sdl.fab
        | _ => s.orn.trimAt + 10 ^ 9 ≤ s.orn.clk) →
      exec (.backgroundLate n) s = .next (raiseFault (drew { s with integ := { s.integ with late := s.integ.late ++ [n.val] } }) 19 [drawn 32 s])) ∧
    (∀ (mid : Mid) (data : Word) (j d x : Nat) (u : State), mayWrite s mid.toNat 0xF00068 = true → j = bits data.toNat 12 8 →
      d = min (data.toNat % 16) 9 → x = bits data.toNat 31 30 * 2 ^ 30 + j * 2 ^ 8 + data.toNat % 16 →
      u = (if x = 0 then s else wscNote s 0xF00068 x) →
      exec (.memMarkset mid data) s = .next (respond (
        if bit data.toNat 30 = false then u
        else if bit data.toNat 31 then (if tget s.integ.marks j = some d then u
          else raiseFault { u with integ := { s.integ with marks := tset s.integ.marks j d } } 9 [j, 0, d])
        else { u with integ := { s.integ with marks := tdel s.integ.marks j } }) {})) ∧
    (∀ at_ u n, enabled s 0xF03000 = true → fbit s Fld.MEM_TELE_CTRL_EN = true → teleInstant s = some at_ →
      u = { s with integ := { s.integ with teleAt := some at_ } } → n = fget s Fld.MEM_TELE_CTRL_COUNT →
      (teleQueued s = true → exec .telemetrySend s = .next (cinc u Fld.MEM_TELE_SKIP_COUNT)) ∧
      (∀ v r, teleQueued s = false → physRead u 0x300C (fget s Fld.MEM_TELE_BASE_ADDR * 4096) (0x20 + 4 * n) = (v, r) →
        (r = none → exec .telemetrySend s = .next v) ∧
        (∀ b len vals w, r = some b → len = b.getD 0x1E 0 →
          vals = (List.range n).map (fun i => peek (drew v) 0x300C (ofLe ((b.drop (0x20 + 4 * i)).take 4))) → w = { drew v with
            integ := { v.integ with teleSeq := (v.integ.teleSeq + 1) % 2 ^ 32, teleSent := [] } } → 1 ≤ n → n ≤ 256 → len = 14 ∨ len = 18 →
          exec .telemetrySend s = .next (teleFrame w (b.take len) (teleBody w 0 w.integ.teleSeq vals))))) ∧
    (∀ gib, exec (.dramTrainingComplete gib) s = .next { s with integ := { s.integ with gib := gib.toNat } })

/-! ### Grotto, pins, boot and test access port -/

/-- The Grotto, the pins, boot and the test access port (R581, R583, R584, R629 to R631, R633 to R638, R644, R645, R648 to R651, R653 to R655): the
calendar and OPSEC count, a low TAMPER_N sets the latch, the Grotto's mailboxes read and write; a pin is sampled and its level accepted after
DEB samples; the boot ROM chooses the image; GO starts waiting pairs; the boot flash is read, programmed and erased; a DOUT command goes to its
channel; each test instruction comes into force, and a private one that is open is a fault (its effect is not given, R650). -/
def Obligations.BoardAndPins : Prop :=
  ∀ s : State,
    (32768 ≤ s.grt.sub → exec .calendarSecond s = .next { s with grt := { s.grt with sub := s.grt.sub - 32768, sec := (s.grt.sec + 1) % 2 ^ 64 } }) ∧
    (32768 ≤ s.grt.opsub →
      exec .opsecIncrement s = .next { s with grt := { s.grt with opsub := s.grt.opsub - 32768, opsec := (s.grt.opsec + 1) % 2 ^ 40 } }) ∧
    exec (.tamperDetect false) s = .next { s with grt := { s.grt with pinLow := false, pinAtEdge := false } } ∧
    (∀ u, u = chanPulse { s with grt := { s.grt with pinLow := true, pinAtEdge := true, tamper := true, tcause := s.grt.tcause ||| 1
                                                     tampCnt := min (s.grt.tampCnt + 1) 65535 } } false →
      exec (.tamperDetect true) s = .next (if s.grt.tamper = false ∧ u.cru.inReset = false then gthTamper u else u)) ∧
    (∀ (mid : Mid) (arg : BitVec 16) (d : List Word), d.length ≤ 12 → enabled s 0x1000000 = true → bit s.cru.xcReady 0 = true →
      (Free s mid.toNat 0x1000080 →
        exec (.grtTimeNow mid) s = .next (answered s mid.toNat 0x1000080 1 0 ([(calendar s).2, (calendar s).1, (calendar s).1 / 2 ^ 32,
          opsecNow s, opsecNow s / 2 ^ 32, s.grt.pcyc].map w32)) ∧
        exec (.grtScrread mid arg) s = .next (respond (mbxAnswer (asks s mid.toNat 0x1000080 2 false arg.toNat []) 0x1000080
          (if parityPart s (arg.toNat % 8) = 0 then 0 else 3)
          (wordsOfBytes 8 (scratchPart s (arg.toNat % 8)) ++ [w32 (parityPart s (arg.toNat % 8))])) {})) ∧
      (Free s mid.toNat 0x10000C0 → ∀ w q, w = word s 0x10000C0 d →
        q = (fun op n (e : List Word) => asks (written s e) mid.toNat 0x10000C0 op true n e) →
        exec (.grtSetcal mid d) s = .next (ended { q 1 0 d with grt := { s.grt with sec := w 0 + 2 ^ 32 * w 1, sub := 0 } } 0x10000C0 0) ∧
        exec (.grtTampclr mid) s = .next (if s.grt.pinLow then ended (q 2 0 []) 0x10000C0 2
          else ended { q 2 0 [] with grt := { s.grt with tamper := false, tampCnt := 0, tcause := 0 } } 0x10000C0 0) ∧
        exec (.grtScrwrite mid arg d) s = .next (ended (scratchWrite (q 3 arg.toNat d) (arg.toNat % 8)
          (bytesOfWords ((mbxAt (q 3 arg.toNat d) 0x10000C0).d.take 8))) 0x10000C0 0) ∧
        exec (.grtRstclr mid) s = .next (ended { q 4 0 [] with grt := { s.grt with grtrst := false } } 0x10000C0 0))) ∧
    (s.cru.inReset = false →
      (∀ (pin : Fin 32) (r : DinRun) (u v : State), r = tat s.dbg.dinRun pin.val {} → dinEn s pin.val = true → r.n ≠ 0 →
        fget s (Fld.DBG_DIN_DEB pin.val) ≤ r.n → bit s.dbg.dinQuiet pin.val = false → enabled s 0x1102000 = true → bit s.cru.rails 8 = false →
        u = { s with dbg := { s.dbg with
          dinLvl := putBit s.dbg.dinLvl pin.val (!bit s.dbg.dinLvl pin.val), dinRun := tset s.dbg.dinRun pin.val { r with n := 0 }
          dinQuiet := clrBit s.dbg.dinQuiet pin.val } } →
        v = (if bit (fget s (Fld.DBG_DIN_EDGE pin.val)) (if bit s.dbg.dinLvl pin.val then 1 else 0)
          then batchOrHold (cinc u Fld.DBG_DIN_EVT_COUNT) .din pin.val { type := 6, queue := fget s (Fld.DBG_DIN_QUEUE pin.val), flow := pin.val
                                                                         src := 0x300B, ns := timePast s.sdl r.first / nsUnit
                                                                         w5 := bitAt (!bit s.dbg.dinLvl pin.val) 8 + pin.val } else u) →
        ∃ lvl, lvl = bit v.dbg.dinLvl pin.val ∧ exec (.dinLevelAccept pin) s =
          .next (if lvl = bit s.dbg.dinLvl pin.val then v else blvDinEdge v pin.val lvl (timePast s.sdl r.first / nsUnit))) ∧
      (∀ (levels : Word) (v : Nat) (u w : State), s.sdl.raw % 1000 = 0 → u = (List.range 32).foldl acceptReport s →
        u.cru.inReset = false → u.sdl.raw % 1000 = 0 → w = (List.range 32).foldl dinAccept u → v = (if bit w.cru.rails 8 then 0 else levels.toNat) →
        ∃ x, x = (List.range 32).foldl (fun y p => dinSampleOne y v p) w ∧
          exec (.dinSample levels) s = .next { x with dbg := { x.dbg with dinPin := v, dinRaw := v } }) ∧
      (∀ (e0 e1 : Bool) (r : Nat → Nat) (pick : Option Nat) (f u v : State), s.dbg.stage = 0 →
        r = (fun i => imgResult s i (if i = 0 then e0 else e1)) →
        pick = (match imgPick s (fun i => r i == 0) with
          | some i => some i
          | none => if s.gth.lcBoot = 0 then imgPick s (fun i => r i != 5 && r i != 1) else none) →
        f = (if 2 ≤ r 0 ∧ r 0 ≤ 4 then gthRecord s 0x0406 [0, r 0 - 1] else s) → u = (if 2 ≤ r 1 ∧ r 1 ≤ 4 then gthRecord f 0x0406 [1, r 1 - 1] else f) →
        v = { u with dbg := { u.dbg with res0 := r 0, res1 := r 1, stage := if pick.isSome then 1 else 0xE, image := pick.getD 0 } } →
        exec (.bootImageSelect e0 e1) s = .next (match pick with
          | none => v
          | some i => physPut v 0x4000 (sramBase + imgLoad v i) (imgPayload v i))) ∧
      (∀ (mid : Mid) (second : Bool) (pairs : Word) (ks : List Nat) (x : Nat) (b u : State) (st : Tbl Nat), mayWrite s mid.toNat (if second then 0x110004C else 0x1100048) = true →
        ks = (if second then (bitsOf pairs.toNat 16).map (32 + ·) else bitsOf pairs.toNat 32) →
        st = (ks.filter fun k => k != 0 && decide (k < 48) && (tget s.dbg.started k).isNone).foldl
          (fun t k => tset t k (fget s Fld.DBG_BOOT_ENTRY_A)) s.dbg.started → x = (if second then pairs.toNat % 65536 else pairs.toNat) →
        b = (if x = 0 then s else wscNote s (if second then 0x110004C else 0x1100048) x) → u = { b with dbg := { s.dbg with started := st } } →
        ((∀ k ∈ ks, k ≠ 0 ∧ k < 48 ∧ tget s.dbg.started k = none) → exec (.dbgBootGo mid second pairs) s = .next (respond u {})) ∧
        ((∃ k ∈ ks, k = 0 ∨ 48 ≤ k ∨ tget s.dbg.started k ≠ none) →
          exec (.dbgBootGo mid second pairs) s = .next (respond (wign u 0x1100000) {}))) ∧
      (∀ (mid : Mid) (d : List Word) (ok : Bool) (a : Nat) (q : Nat → List Word → State), Free s mid.toNat 0x1101080 → midClass mid.toNat ≠ 2 →
        enabled s 0x1101000 = true → d.length ≤ 12 → a = fget s Fld.DBG_BFL_ADDR_ADDR →
        q = (fun op e => asks (written s e) mid.toNat 0x1101080 op true 0 e) →
        exec (.dbgBflRead mid true) s = .next (respond (mbxAnswer (fset (asks s mid.toNat 0x1101080 1 false 0 []) Fld.DBG_BFL_ADDR_ADDR ((a + 48) % 2 ^ 28))
          0x1101080 0 (wordsOfBytes 12 (flashRead s.dbg.flash a 48))) {}) ∧
        exec (.dbgBflRead mid false) s = .next (ended (asks s mid.toNat 0x1101080 1 false 0 []) 0x1101080 1) ∧
        (∀ b, b = a / 32 * 32 →
          (flashProtected s b 32 = true → exec (.dbgBflProgram mid d ok) s = .next (ended (q 2 d) 0x1101080 2)) ∧
          (flashProtected s b 32 = false → exec (.dbgBflProgram mid d ok) s = .next (if ok then ended { q 2 d with dbg := { s.dbg with
              flash := flashProgram s.dbg.flash b (bytesOfWords ((List.range 8).map fun i => w32 (word s 0x1101080 d i))) } } 0x1101080 0
            else ended (cinc (q 2 d) Fld.DBG_BFL_ERR_COUNT) 0x1101080 1))) ∧
        (∀ b, b = a / 4096 * 4096 →
          (flashProtected s b 4096 = true → exec (.dbgBflErase mid ok) s = .next (ended (q 3 []) 0x1101080 2)) ∧
          (flashProtected s b 4096 = false → exec (.dbgBflErase mid ok) s = .next (if ok then ended { q 3 [] with dbg := { s.dbg with
              flash := flashErase s.dbg.flash b (b + 4096) } } 0x1101080 0
            else ended (cinc (q 3 []) Fld.DBG_BFL_ERR_COUNT) 0x1101080 1)))) ∧
      (∀ (mid : Mid) (l m : Word), Free s mid.toNat 0x1102100 →
        exec (.dbgDout mid l m) s = .next (ended (doutCommand (asks (written s [l, m]) mid.toNat 0x1102100 1 true 0 [l, m]) l.toNat m.toNat) 0x1102100 0))) ∧
    (tapUp s = false → ∀ c ∈ [Instr.tapIdcode, .tapBypass, .tapClamp, .tapHighz, .tapPrivate], exec c s = .next s) ∧
    (tapUp s = true → ∀ (pins shift : BitVec 1874) (t : TapInstr → Bool → Tap), t = (fun i drv => { s.tap with
        ir := i, drives := drv, highz := false, acTest := 0 }) →
      exec .tapIdcode s = .next (respond { s with tap := t .idcode false } { data := [0xB1280CB5] }) ∧
      exec .tapBypass s = .next { s with tap := t .bypass false } ∧
      exec .tapClamp s = .next { s with tap := t .clamp true } ∧
      exec .tapHighz s = .next { s with tap := { t .highz true with highz := true } } ∧
      exec (.tapExtest pins shift) s = .next { s with tap := { t .extest true with captured := pins.toNat, boundary := shift.toNat } } ∧
      exec (.tapSamplePreload pins shift) s = .next { s with tap := { t .samplePreload false with captured := pins.toNat, boundary := shift.toNat } } ∧
      exec (.tapExtestPulse pins shift) s =
        .next { s with tap := { t .extestPulse true with captured := pins.toNat, boundary := shift.toNat, acTest := 1 } } ∧
      exec (.tapExtestTrain pins shift) s =
        .next { s with tap := { t .extestTrain true with captured := pins.toNat, boundary := shift.toNat, acTest := 2 } } ∧
      (∀ (addr : BitVec 48) (op : MeshOp) (bad : List BadLine) (u : State), u = { s with tap := t .dbgacc false } →
        exec (.tapDbgacc addr op bad) s = .next (if s.cru.inReset then u
          else meshAccess u (if s.gth.unlocked then 0x6001 else 0x6000) addr.toNat op bad)) ∧
      (s.gth.lc = 3 ∨ s.gth.lc ≠ 0 ∧ s.gth.unlocked = false → exec .tapPrivate s = .next { s with tap := t .bypass false }) ∧
      (s.gth.lc = 0 ∨ s.gth.lc ≠ 3 ∧ s.gth.unlocked = true → exec .tapPrivate s = .fault .privateTestInstruction))
end

