-- ==== Sys2Proof/Laws/MailboxPath.lean ====
section
/-! SUPPORT. A request of a mailbox as one operation: the data words are written, then _CMD, and the block's part runs on the state in which
the mailbox holds the request (R53–R56). -/

set_option Elab.async false

namespace Sys2Proof.Machine

/-! ### Tables -/

theorem tget_tset_same {α : Type} (t : Tbl α) (k : Nat) (v : α) : tget (tset t k v) k = some v := by
  induction t with
  | nil => simp [tset, tget]
  | cons e t ih =>
    obtain ⟨k', v'⟩ := e
    unfold tset
    split
    · simp [tget]
    · split
      · simp [tget]
      · rename_i h _
        simp only [tget, h, if_false, ih]

theorem tset_tset {α : Type} (t : Tbl α) (k : Nat) (v w : α) : tset (tset t k v) k w = tset t k w := by
  induction t with
  | nil => simp [tset]
  | cons e t ih =>
    obtain ⟨k', v'⟩ := e
    by_cases h : k' = k
    · simp [tset, h]
    · by_cases h2 : k < k'
      · simp [tset, h, h2]
      · simp only [tset, h, h2, if_false, ih]

@[simp] theorem mbxAt_setMbx (s : State) (a : Nat) (b : Mbx) : mbxAt (setMbx s a b) a = b := by
  simp [mbxAt, setMbx, tat, tget_tset_same]

@[simp] theorem setMbx_setMbx (s : State) (a : Nat) (b c : Mbx) : setMbx (setMbx s a b) a c = setMbx s a c := by
  simp [setMbx, tset_tset]

@[simp] theorem mbxAt_respond (s : State) (r : Resp) (a : Nat) : mbxAt (respond s r) a = mbxAt s a := rfl

@[simp] theorem setMbx_respond (s : State) (r : Resp) (a : Nat) (b : Mbx) : setMbx (respond s r) a b = respond (setMbx s a b) r := rfl

@[simp] theorem respond_respond (s : State) (r q : Resp) : respond (respond s r) q = respond s q := rfl

theorem unconfined_congr (s t : State) (hf : ∀ p, fenced t p = fenced s p) (hw : ∀ p a n q, inWindow t p a n q = inWindow s p a n q)
    (mid o : Nat) : unconfined t mid o = unconfined s mid o := by
  unfold unconfined guestCheck
  simp only [hf, hw]
  congr 1
  split
  · rfl
  · split
    · rfl
    · split <;> rfl

@[simp] theorem unconfined_setMbx (s : State) (a : Nat) (b : Mbx) (mid o : Nat) : unconfined (setMbx s a b) mid o = unconfined s mid o :=
  unconfined_congr s (setMbx s a b) (fun _ => rfl) (fun _ _ _ _ => rfl) mid o

@[simp] theorem unconfined_respond (s : State) (r : Resp) (mid o : Nat) : unconfined (respond s r) mid o = unconfined s mid o :=
  unconfined_congr s (respond s r) (fun _ => rfl) (fun _ _ _ _ => rfl) mid o

/-! ### Words -/

theorem ofLe_leBytes (n v : Nat) : ofLe (leBytes n v) = v % 256 ^ n := by
  induction n generalizing v with
  | zero => simp [leBytes, ofLe, Nat.mod_one]
  | succ n ih =>
    simp only [leBytes, ofLe, ih]
    rw [Nat.pow_succ', Nat.mod_mul, Nat.mod_mod]

theorem octets_word (v : Nat) : octets ((leBytes 4 v).map (BitVec.ofNat 8)) = leBytes 4 v := by
  simp [octets, leBytes]

/-! ### The path of a write -/

/-- The decode of a mailbox word, and a master's standing towards it. -/
structure Reaches (mid a k : Nat) (l : RegLoc) : Prop where
  page : pageAtOff (a + k) = some l.page
  reg : regIn l.page ((a + k) % 0x1000) = some l
  high : 0x40 ≤ (a + k) % 0x1000
  word : (a + k) % 4 = 0
  low : a + k < 0x10000000
  mbx : l.desc.mbx = true
  addr : l.addr = a
  sub : l.sub = k
  all : allows .all l.page mid = true
  may : allows l.desc.priv l.page mid = true

theorem busWrite_mailbox (s : State) (ok : Bool) (mid a k v : Nat) (l : RegLoc) (r : Reaches mid a k l) :
    busWrite s ok mid (a + k) v = mbxWrite s ok l mid v := by
  have e5 : ¬ (a + k) % 0x1000 < 0x40 := Nat.not_lt.2 r.high
  simp only [busWrite, r.page, r.all, Bool.not_true, Bool.false_eq_true, if_false, e5, r.reg, regWrite, r.may, r.mbx, if_true]

theorem meshWrite_mailbox (s : State) (mid a k v : Nat) (l : RegLoc) (r : Reaches mid a k l) (hu : unconfined s mid (a + k) = true) (hv : v < 2 ^ 32) :
    meshWrite s mid (a + k) v = respond (mbxWrite s true l mid v) {} := by
  have e1 : regBase ≤ regBase + (a + k) ∧ regBase + (a + k) < regBase + 0x10000000 := ⟨by omega, by have := r.low; omega⟩
  have e2 : regBase + (a + k) - regBase = a + k := by omega
  have e3 : ofLe ((leBytes 4 v).take 4) = v := by
    have : (leBytes 4 v).take 4 = leBytes 4 v := by simp [leBytes]
    rw [this, ofLe_leBytes 4 v]
    omega
  have e4 : (leBytes 4 v).length = 4 := by simp [leBytes]
  have e5 : ¬ (a + k) % 0x1000 < 0x40 := Nat.not_lt.2 r.high
  have hg : (if midClass mid = 2 then guestCheck s mid (regBase + (a + k)) (opLen (.write ((leBytes 4 v).map (BitVec.ofNat 8))))
      (opPerm (.write ((leBytes 4 v).map (BitVec.ofNat 8)))) else none) = none := by
    split
    · rename_i h
      have e6 : opLen (.write ((leBytes 4 v).map (BitVec.ofNat 8))) = 4 := by simp [opLen, leBytes]
      rw [e6]
      have h7 : opPerm (.write ((leBytes 4 v).map (BitVec.ofNat 8))) = .write := rfl
      rw [h7]
      simpa [unconfined, h] using hu
    · rfl
  simp only [meshWrite, meshAccess, hg, plainWrite, octets_word, e1, e2, and_self, if_true, regWrites, e4, r.word, beq_self_eq_true,
    Bool.true_or, Bool.not_true, bne_self_eq_false, Bool.or_self, Bool.false_eq_true, e3]
  simp only [busWrite, r.page, r.all, Bool.not_true, Bool.false_eq_true, if_false, e5, r.reg, regWrite, r.may, r.mbx, if_true]
  simp

/-! ### The data words of a request -/

theorem getD_putWord (d : List Word) (i v k : Nat) : (putWord d i v).getD k 0 = if k = i then w32 v else d.getD k 0 := by
  unfold putWord
  by_cases h : k < max d.length (i + 1)
  · rw [List.getD_eq_getElem?_getD, List.getElem?_map, List.getElem?_range h]
    rfl
  · have h1 : ¬ k = i := by omega
    have h2 : d.length ≤ k := by omega
    simp only [h1, if_false, List.getD_eq_getElem?_getD, List.getElem?_map]
    rw [List.getElem?_eq_none (by simpa using h), List.getElem?_eq_none h2]
    rfl

theorem getD_fill (d : List Word) (j n : Nat) (old : List Word) (k : Nat) :
    ((d.zip (List.range' j n)).foldl (fun o e => putWord o e.2 e.1.toNat) old).getD k 0 =
      if j ≤ k ∧ k < j + min d.length n then d.getD (k - j) 0 else old.getD k 0 := by
  induction d generalizing j n old with
  | nil =>
    have h : ¬ (j ≤ k ∧ k < j + min ([] : List Word).length n) := by simp
    rw [if_neg h]
    rfl
  | cons w d ih =>
    cases n with
    | zero =>
      have h : ¬ (j ≤ k ∧ k < j + min (w :: d).length 0) := by simp
      rw [if_neg h]
      rfl
    | succ n =>
      rw [List.range'_succ, List.zip_cons_cons, List.foldl_cons, ih, getD_putWord]
      simp only [List.length_cons]
      by_cases h : k = j
      · subst h
        have h1 : ¬ (k + 1 ≤ k ∧ k < k + 1 + min d.length n) := by omega
        have h2 : k ≤ k ∧ k < k + min (d.length + 1) (n + 1) := by omega
        rw [if_neg h1, if_pos h2, if_pos rfl]
        simp [w32]
      · by_cases h2 : j + 1 ≤ k ∧ k < j + 1 + min d.length n
        · have h3 : j ≤ k ∧ k < j + min (d.length + 1) (n + 1) := by omega
          have h4 : k - j = k - (j + 1) + 1 := by omega
          rw [if_pos h2, if_pos h3, h4]
          rfl
        · have h3 : ¬ (j ≤ k ∧ k < j + min (d.length + 1) (n + 1)) := by omega
          simp only [h2, h3, h, if_false]

/-- Word `i` of a request: of the words that it wrote, else of what the mailbox held. -/
theorem getD_dataAfter (old d : List Word) (hd : d.length ≤ 12) (i : Nat) :
    (dataAfter old d).getD i 0 = if i < d.length then d.getD i 0 else old.getD i 0 := by
  unfold dataAfter
  rw [List.take_of_length_le hd, List.range_eq_range', getD_fill]
  have e : min d.length 12 = d.length := by omega
  simp [e]

/-! ### The request -/

theorem mbxWrite_data (s : State) (mid a i v : Nat) (page : PageLoc) (desc : RegDesc) (j : Nat) (r : Reaches mid a (0x10 + 4 * i) ⟨page, desc, j, 0x10 + 4 * i⟩)
    (hb : (mbxAt s a).busy = false) :
    mbxWrite s true ⟨page, desc, j, 0x10 + 4 * i⟩ mid v = setMbx s a { mbxAt s a with d := putWord (mbxAt s a).d i v } := by
  have ha : RegLoc.addr ⟨page, desc, j, 0x10 + 4 * i⟩ = a := r.addr
  have e : (0x10 + 4 * i) / 4 = i + 4 := by omega
  unfold mbxWrite
  simp only [ha, e]
  split
  · rename_i h
    rw [hb] at h
    cases h
  · simp

theorem mbxData_eq (s : State) (mid a : Nat) (d : List Word) (page : PageLoc) (desc : RegDesc) (j : Nat)
    (r : ∀ i, i < 12 → Reaches mid a (0x10 + 4 * i) ⟨page, desc, j, 0x10 + 4 * i⟩) (hu : ∀ i, i < 12 → unconfined s mid (a + (0x10 + 4 * i)) = true)
    (hb : (mbxAt s a).busy = false) (hd : d ≠ []) : mbxData s mid a d = respond (setMbx s a { mbxAt s a with d := dataAfter (mbxAt s a).d d }) {} := by
  have key : ∀ (d : List Word) (i n : Nat) (s : State), i + n ≤ 12 → (∀ i, i < 12 → unconfined s mid (a + (0x10 + 4 * i)) = true) → (mbxAt s a).busy = false → d ≠ [] → 0 < n →
      (d.zip (List.range' i n)).foldl (fun s e => meshWrite s mid (a + 0x10 + 4 * e.2) e.1.toNat) s =
        respond (setMbx s a { mbxAt s a with d := (d.zip (List.range' i n)).foldl (fun o e => putWord o e.2 e.1.toNat) (mbxAt s a).d }) {} := by
    intro d
    induction d with
    | nil =>
      intro i n s _ _ _ h
      exact absurd rfl h
    | cons w d ih =>
      intro i n s hi hu hb _ hn
      obtain ⟨n, rfl⟩ : ∃ m, n = m + 1 := ⟨n - 1, by omega⟩
      rw [List.range'_succ, List.zip_cons_cons, List.foldl_cons, List.foldl_cons]
      have h1 : meshWrite s mid (a + 0x10 + 4 * i) w.toNat =
          respond (setMbx s a { mbxAt s a with d := putWord (mbxAt s a).d i w.toNat }) {} := by
        have h2 := meshWrite_mailbox s mid a (0x10 + 4 * i) w.toNat _ (r i (by omega)) (hu i (by omega)) w.isLt
        rw [mbxWrite_data s mid a i w.toNat page desc j (r i (by omega)) hb] at h2
        rw [Nat.add_assoc]
        exact h2
      simp only [h1]
      by_cases hd : d = []
      · subst hd
        simp
      · by_cases hn : n = 0
        · subst hn
          simp
        · rw [ih (i + 1) n _ (by omega) (by simpa using hu) (by simpa using hb) hd (by omega)]
          simp
  unfold mbxData
  rw [List.range_eq_range', key (d.take 12) 0 12 s (by omega) hu hb (by cases d <;> simp_all) (by omega)]
  unfold dataAfter
  rw [List.range_eq_range']

/-- A write of _CMD with GO to an idle mailbox. -/
theorem mbxWrite_go (t : State) (ok : Bool) (mid a op arg : Nat) (wr : Bool) (page : PageLoc) (desc : RegDesc) (j : Nat)
    (r0 : Reaches mid a 0 ⟨page, desc, j, 0⟩) (ht : (mbxAt t a).busy = false) (hop : op < 256) :
    mbxWrite t ok ⟨page, desc, j, 0⟩ mid (cmdWord op wr arg) =
      mbxGo ok ⟨page, desc, j, 0⟩ (setMbx t a { mbxAt t a with arg := arg % 2 ^ 16, op := op, wr := wr, busy := true, valid := false, code := 0, mid := mid }) := by
  have ha : RegLoc.addr ⟨page, desc, j, 0⟩ = a := r0.addr
  have b0 : bit (cmdWord op wr arg) 0 = true := by
    unfold bit cmdWord bitAt
    split <;> simp <;> omega
  have b1 : bit (cmdWord op wr arg) 1 = wr := by
    unfold bit cmdWord bitAt
    cases wr <;> simp <;> omega
  have bo : bits (cmdWord op wr arg) 15 8 = op := by
    unfold bits cmdWord bitAt
    have := Nat.mod_lt arg (show 0 < 2 ^ 16 by decide)
    cases wr <;> simp <;> omega
  have ba : cmdWord op wr arg / 2 ^ 16 % 2 ^ 16 = arg % 2 ^ 16 := by
    unfold cmdWord bitAt
    have := Nat.mod_lt arg (show 0 < 2 ^ 16 by decide)
    cases wr <;> simp <;> omega
  unfold mbxWrite
  simp only [ha, Nat.zero_div, ht, Bool.false_eq_true, if_false, b0, b1, bo, ba, Bool.not_true]

/-- A request to an idle mailbox is the block's part, run on the state in which the mailbox holds the request. -/
theorem mbxRequest_eq (s : State) (mid a op arg : Nat) (wr : Bool) (d : List Word) (page : PageLoc) (desc : RegDesc) (j : Nat)
    (r : ∀ i, i < 12 → Reaches mid a (0x10 + 4 * i) ⟨page, desc, j, 0x10 + 4 * i⟩) (r0 : Reaches mid a 0 ⟨page, desc, j, 0⟩)
    (hu : ∀ i, i < 12 → unconfined s mid (a + (0x10 + 4 * i)) = true)
    (hu0 : unconfined s mid (a + 0) = true) (hb : (mbxAt s a).busy = false) (hop : op < 256) :
    mbxRequest s mid a op wr arg d =
      respond (mbxGo true ⟨page, desc, j, 0⟩ (asks (if d = [] then s else respond s {}) mid a op wr arg d)) {} := by
  have hw : cmdWord op wr arg < 2 ^ 32 := by
    unfold cmdWord bitAt
    have := Nat.mod_lt arg (show 0 < 2 ^ 16 by decide)
    split <;> omega
  have h0 : ∀ t : State, unconfined t mid (a + 0) = true → meshWrite t mid a (cmdWord op wr arg) = respond (mbxWrite t true ⟨page, desc, j, 0⟩ mid (cmdWord op wr arg)) {} :=
    fun t h => meshWrite_mailbox t mid a 0 _ _ r0 h hw
  have go := fun t ht => mbxWrite_go t true mid a op arg wr page desc j r0 ht hop
  unfold mbxRequest asks
  by_cases hd : d = []
  · subst hd
    have e : mbxData s mid a [] = s := by simp [mbxData]
    rw [e, h0 _ hu0, go s hb]
    simp [dataAfter]
  · rw [mbxData_eq s mid a d page desc j r hu hb hd, h0 _ (by simpa using hu0), go _ (by simpa using hb)]
    simp [hd]

end Sys2Proof.Machine
end

