-- ==== Sys2Proof/Laws/Fields.lean ====
section
/-! SUPPORT. Stored fields: a read after a write, and what a write of a field leaves alone. -/

set_option Elab.async false

namespace Sys2Proof.Machine

theorem tget_tset_ne' {α : Type} (t : Tbl α) (k j : Nat) (v : α) (h : j ≠ k) : tget (tset t k v) j = tget t j := by
  induction t with
  | nil => simp [tset, tget, Ne.symm h]
  | cons e t ih =>
    obtain ⟨k', v'⟩ := e
    unfold tset
    split
    · rename_i e
      subst e
      simp [tget, Ne.symm h]
    · split
      · simp [tget, Ne.symm h]
      · simp only [tget, ih]

theorem tget_tdel_same {α : Type} (t : Tbl α) (k : Nat) : tget (tdel t k) k = none := by
  induction t with
  | nil => rfl
  | cons e t ih =>
    obtain ⟨k', v'⟩ := e
    by_cases h : k' = k
    · simpa [tdel, h] using ih
    · simp only [tdel, List.filter_cons, h, decide_false, Bool.not_false, if_true, tget, if_false]
      exact ih

theorem tget_tdel_ne {α : Type} (t : Tbl α) (k j : Nat) (h : j ≠ k) : tget (tdel t k) j = tget t j := by
  induction t with
  | nil => rfl
  | cons e t ih =>
    obtain ⟨k', v'⟩ := e
    by_cases h1 : k' = k
    · have h2 : ¬ k' = j := by omega
      have e : tdel ((k', v') :: t) k = tdel t k := by simp [tdel, h1]
      rw [e, ih]
      simp [tget, h2]
    · have e : tdel ((k', v') :: t) k = (k', v') :: tdel t k := by simp [tdel, h1]
      rw [e]
      simp only [tget, ih]

@[simp] theorem tat_tset_same {α : Type} (t : Tbl α) (k : Nat) (v d : α) : tat (tset t k v) k d = v := by
  simp [tat, tget_tset_same]

theorem tat_tset_ne {α : Type} (t : Tbl α) (k j : Nat) (v d : α) (h : j ≠ k) : tat (tset t k v) j d = tat t j d := by
  simp [tat, tget_tset_ne' t k j v h]

theorem tat_tdel_same {α : Type} (t : Tbl α) (k : Nat) (d : α) : tat (tdel t k) k d = d := by
  simp [tat, tget_tdel_same]

/-- A field reads as it was written. -/
@[simp] theorem fget_fset (s : State) (f : FieldRef) (v : Nat) : fget (fset s f v) f = v := by
  unfold fget fset
  dsimp only
  split
  · rename_i h
    rw [tat_tdel_same, h]
  · rw [tat_tset_same]

/-- A write of a field leaves every other field. -/
theorem fget_fset_ne (s : State) (f g : FieldRef) (v : Nat) (h : fkey g ≠ fkey f) : fget (fset s f v) g = fget s g := by
  unfold fget fset
  dsimp only
  split
  · simp only [tat, tget_tdel_ne _ _ _ h]
  · rw [tat_tset_ne _ _ _ _ _ h]

end Sys2Proof.Machine
end

