-- ==== Sys2Proof/Laws/RegisterPath.lean ====
section
/-! SUPPORT. A 32-bit write of a header register and of a block register, by a master that no window stops (R33–R36, R46). -/

set_option Elab.async false

namespace Sys2Proof.Machine

/-- Every word of a page has the page that its first word has. -/
theorem pageAtOff_word (b o : Nat) (hb : b % 0x1000 = 0) (ho : o < 0x1000) : pageAtOff (b + o) = pageAtOff b := by
  have e1 : pageBase (b + o) = pageBase b := by
    unfold pageBase
    omega
  have e2 : blockAt (b + o) = blockAt b := by
    unfold blockAt
    by_cases h : 0x4000000 ≤ b ∧ b < 0x4400000
    · have h1 : 0x4000000 ≤ b + o ∧ b + o < 0x4400000 := by omega
      have h2 : (b + o - 0x4000000) / 0x1000 = (b - 0x4000000) / 0x1000 := by omega
      simp only [h, h1, and_self, if_true, h2]
    · have h1 : ¬ (0x4000000 ≤ b + o ∧ b + o < 0x4400000) := by omega
      have h2 : (b + o) % 0x100000 / 0x1000 = b % 0x100000 / 0x1000 := by omega
      have h3 : (b + o) / 0x100000 = b / 0x100000 := by omega
      simp only [h, h1, if_false, h2, h3]
  simp only [pageAtOff, e1, e2]

theorem meshWrite_bus (s : State) (mid o v : Nat) (hu : unconfined s mid o = true) (h4 : o % 4 = 0) (hlt : o < 0x10000000) :
    meshWrite s mid o v = respond (busWrite s true mid o (v % 2 ^ 32)) {} := by
  have e1 : regBase ≤ regBase + o ∧ regBase + o < regBase + 0x10000000 := ⟨by omega, by omega⟩
  have e2 : regBase + o - regBase = o := by omega
  have e3 : ofLe ((leBytes 4 v).take 4) = v % 2 ^ 32 := by
    have : (leBytes 4 v).take 4 = leBytes 4 v := by simp [leBytes]
    exact (congrArg ofLe this).trans ((ofLe_leBytes 4 v).trans (congrArg (v % ·) (show (256 : Nat) ^ 4 = 2 ^ 32 by decide)))
  have e4 : (leBytes 4 v).length = 4 := by simp [leBytes]
  have hg : (if midClass mid = 2 then guestCheck s mid (regBase + o) (opLen (.write ((leBytes 4 v).map (BitVec.ofNat 8))))
      (opPerm (.write ((leBytes 4 v).map (BitVec.ofNat 8)))) else none) = none := by
    split
    · rename_i h
      have e6 : opLen (.write ((leBytes 4 v).map (BitVec.ofNat 8))) = 4 := by simp [opLen, leBytes]
      have h7 : opPerm (.write ((leBytes 4 v).map (BitVec.ofNat 8))) = .write := rfl
      rw [e6, h7]
      simpa [unconfined, h] using hu
    · rfl
  simp only [meshWrite, meshAccess, hg, plainWrite, octets_word, e1, e2, and_self, if_true, regWrites, e4, h4, beq_self_eq_true,
    Bool.true_or, Bool.not_true, bne_self_eq_false, Bool.or_self, Bool.false_eq_true, e3]
  cases hp : pageAtOff o with
  | none => simp [busWrite, hp]
  | some p => simp

/-- A write of a header register. -/
theorem meshWrite_header (s : State) (mid b o v : Nat) (p : PageLoc) (hp : pageAtOff b = some p) (hb : b % 0x1000 = 0) (ha : allows .all p mid = true)
    (hu : unconfined s mid (b + o) = true) (h4 : o % 4 = 0) (ho : o < 0x40) (hlt : b < 0x10000000) :
    meshWrite s mid (b + o) v = respond (headerWrite s p mid o (v % 2 ^ 32)) {} := by
  have e1 : (b + o) % 0x1000 = o := by omega
  rw [meshWrite_bus s mid (b + o) v hu (by omega) (by omega)]
  simp only [busWrite, pageAtOff_word b o hb (by omega), hp, ha, Bool.not_true, Bool.false_eq_true, if_false, e1, ho, if_true]

/-- A write of a block register. -/
theorem meshWrite_register (s : State) (mid o v : Nat) (l : RegLoc) (hl : regAt o = some l) (ho : 0x40 ≤ o % 0x1000) (ha : allows .all l.page mid = true)
    (hu : unconfined s mid o = true) (h4 : o % 4 = 0) (hlt : o < 0x10000000) :
    meshWrite s mid o v = respond (regWrite s true l mid (v % 2 ^ 32)) {} := by
  rw [meshWrite_bus s mid o v hu h4 hlt]
  unfold regAt at hl
  cases hp : pageAtOff o with
  | none => simp [hp] at hl
  | some p =>
    simp only [hp] at hl
    have e : l.page = p := by
      unfold regIn at hl
      split at hl
      · cases hl
      · cases hl
        rfl
    have e5 : ¬ o % 0x1000 < 0x40 := Nat.not_lt.2 ho
    rw [e] at ha
    simp only [busWrite, hp, ha, Bool.not_true, Bool.false_eq_true, if_false, e5, hl]

/-! ### What a register of the map is -/

theorem findRow_spec (ds : List RegDesc) (o : Nat) (d : RegDesc) (i sub : Nat) (h : findRow ds o = some (d, i, sub)) :
    d ∈ ds ∧ d.off ≤ o ∧ d.off + i * d.stride + sub = o ∧ sub < (if d.mbx then 64 else 4) := by
  induction ds with
  | nil => simp [findRow] at h
  | cons e es ih =>
    simp only [findRow] at h
    generalize hs : (if e.mbx = true then 64 else 4) = span at h
    split at h
    · rename_i c
      cases h
      refine ⟨List.mem_cons_self .., c.1, ?_, by rw [hs]; exact c.2.2.2⟩
      have := Nat.div_add_mod' (o - d.off) d.stride
      omega
    · split at h
      · rename_i c
        cases h
        exact ⟨List.mem_cons_self .., c.2.1, by omega, by rw [hs]; exact c.2.2⟩
      · obtain ⟨h1, h2⟩ := ih h
        exact ⟨List.mem_cons_of_mem _ h1, h2⟩

/-- The page and the row of a register. -/
theorem regAt_spec (a : Nat) (l : RegLoc) (h : regAt a = some l) : pageAtOff a = some l.page ∧ l.page.kind ∈ pageKinds ∧ l.page.base = pageBase a ∧
    l.desc ∈ l.page.kind.regs ∧ l.desc.off ≤ a % 0x1000 ∧ l.addr + l.sub = a ∧ l.sub < (if l.desc.mbx then 64 else 4) := by
  unfold regAt at h
  cases hp : pageAtOff a with
  | none => simp [hp] at h
  | some p =>
    simp only [hp] at h
    unfold regIn at h
    cases hf : findRow p.kind.regs (a % 0x1000) with
    | none => simp [hf] at h
    | some e =>
      obtain ⟨d, i, sub⟩ := e
      simp only [hf, Option.some.injEq] at h
      subst h
      obtain ⟨h1, h2, h3, h4⟩ := findRow_spec _ _ _ _ _ hf
      unfold pageAtOff at hp
      split at hp
      · cases hp
      · split at hp
        · cases hp
        · rename_i b port q _ k hk
          cases hp
          refine ⟨rfl, List.mem_of_find?_eq_some hk, rfl, h1, h2, ?_, h4⟩
          unfold RegLoc.addr pageBase
          dsimp only
          omega

/-- Every row of the register tables stands above the header, and what its fields say of it. -/
theorem rows_ok : (pageKinds.all fun k => k.regs.all fun d => decide (0x40 ≤ d.off) && decide (d.off % 4 = 0) && decide (d.stride % 4 = 0) &&
    (!(k.txn && d.name == .sys .SYS_TX_CLAIM)) && (d.fields.isEmpty == d.mbx) && (d.name != .sys .SYS_TX_CLAIM || d.fields.all fun f => f.acc == .mbx) &&
    (d.fields.all fun f => f.acc != .ctr || (f.dep == .none && !f.prv && d.fields.length == 1))) = true := by
  decide +kernel

/-- A write of a block register by a master that may write it. -/
theorem meshWrite_may (s : State) (mid o v : Nat) (l : RegLoc) (hl : regAt o = some l) (hm : mayWrite s mid o = true) (h4 : o % 4 = 0)
    (hlt : o < 0x10000000) : meshWrite s mid o v = respond (regWrite s true l mid (v % 2 ^ 32)) {} := by
  obtain ⟨h1, h2, h3, h5, h6, h7, h8⟩ := regAt_spec o l hl
  have h9 := List.all_eq_true.1 (List.all_eq_true.1 rows_ok _ h2) _ h5
  simp only [Bool.and_eq_true, decide_eq_true_eq] at h9
  unfold mayWrite at hm
  simp only [hl, Bool.and_eq_true] at hm
  exact meshWrite_register s mid o v l hl (by omega) hm.1.1.1 hm.1.2 h4 hlt

/-- What the map says of a row by its fields. -/
theorem row_facts (a : Nat) (l : RegLoc) (h : regAt a = some l) : 0x40 ≤ l.desc.off ∧ l.desc.off % 4 = 0 ∧ l.desc.stride % 4 = 0 ∧
   ¬ (l.page.kind.txn = true ∧ l.desc.name = .sys .SYS_TX_CLAIM) ∧ (l.desc.fields.isEmpty = l.desc.mbx) ∧
   (l.desc.name = .sys .SYS_TX_CLAIM → ∀ f ∈ l.desc.fields, f.acc = .mbx) ∧
   (∀ f ∈ l.desc.fields, f.acc = .ctr → f.dep = .none ∧ f.prv = false ∧ l.desc.fields.length = 1) := by
  obtain ⟨h1, h2, h3, h5, h6, h7, h8⟩ := regAt_spec a l h
  have h9 := List.all_eq_true.1 (List.all_eq_true.1 rows_ok _ h2) _ h5
  simp only [Bool.and_eq_true, decide_eq_true_eq, Bool.not_eq_true', Bool.and_eq_false_iff, Bool.or_eq_true, List.all_eq_true, bne_iff_ne, beq_iff_eq, ne_eq] at h9
  obtain ⟨⟨⟨⟨⟨⟨a1, a2⟩, a3⟩, a4⟩, a5⟩, a6⟩, a7⟩ := h9
  refine ⟨a1, a2, a3, ?_, a5, ?_, ?_⟩
  · rintro ⟨b1, b2⟩
    rcases a4 with h | h
    · simp_all
    · simp_all
  · intro hn f hf
    rcases a6 with h | h
    · exact absurd hn h
    · exact h f hf
  · intro f hf ha
    have := a7 f hf
    rcases this with h | h
    · exact absurd ha h
    · exact ⟨h.1.1, h.1.2, h.2⟩

/-- A master that may write a register writes all its fields. -/
theorem mayWrite_all (s : State) (l : RegLoc) (mid o v : Nat) (hl : regAt o = some l) (hm : mayWrite s mid o = true) : prvViolation l mid v = false ∧ allows l.desc.priv l.page mid = true := by
  unfold mayWrite at hm
  simp only [hl, Bool.and_eq_true, Bool.or_eq_true, List.all_eq_true, Bool.not_eq_true'] at hm
  refine ⟨?_, hm.1.1.2⟩
  unfold prvViolation
  rcases hm.2 with h | h
  · simp [h]
  · simp only [Bool.and_eq_false_iff, Bool.not_eq_false']
    right
    rw [List.any_eq_false]
    intro f hf
    simp [h f hf]

/-- _ACK of a mailbox that begins at a multiple of 64 stands 8 bytes above it. -/
theorem ack_ok : (pageKinds.all fun k => (List.range 64).all fun j => match findRow k.regs (64 * j) with
    | none => true
    | some (d, i, sub) => !d.mbx || (decide (sub = 0) && decide (0 < j) && decide (findRow k.regs (64 * j + 8) = some (d, i, 8)))) = true := by
  decide +kernel

end Sys2Proof.Machine
end

