-- ==== Sys2Proof/Laws/Batch.lean ====
section
/-! SUPPORT. Values that take effect together, where one register's value does (R60, R73, R78). -/

set_option Elab.async false

namespace Sys2Proof.Machine

/-- The settings of a Bandstand queue are `wbf` fields for every master that may write the register (R333). -/
theorem queue_rows : (pageKinds.all fun k => k.regs.all fun d => (d.name != .bnd .BND_Q_CFG && d.name != .bnd .BND_Q_LIM) || (k.blk == .bnd && d.fields.all fun f => f.acc == .wbf && f.dep == .none && !f.prv)) = true := by decide +kernel

theorem queue_row (a : Nat) (l : RegLoc) (hl : regAt a = some l) (hn : l.desc.name ∈ [Reg.bnd .BND_Q_CFG, .bnd .BND_Q_LIM]) :
    l.page.kind.blk = .bnd ∧ (∀ f ∈ l.desc.fields, f.acc = .wbf ∧ f.dep = .none ∧ f.prv = false) ∧ 0x800000 ≤ a ∧ a < 0x900000 := by
  obtain ⟨h1, h2, h3, h5, h6, h7, h8⟩ := regAt_spec _ _ hl
  have h9 := List.all_eq_true.1 (List.all_eq_true.1 queue_rows _ h2) _ h5
  simp only [List.mem_cons, List.not_mem_nil, or_false] at hn
  have h10 : l.page.kind.blk = .bnd ∧ ∀ f ∈ l.desc.fields, f.acc = .wbf ∧ f.dep = .none ∧ f.prv = false := by
    rcases hn with h | h <;> simp [h] at h9 <;> exact ⟨h9.1, fun f hf => ⟨(h9.2 f hf).1.1, (h9.2 f hf).1.2, (h9.2 f hf).2⟩⟩
  refine ⟨h10.1, h10.2, ?_⟩
  have hk := h10.1
  unfold pageAtOff at h1
  split at h1
  · cases h1
  · split at h1
    · cases h1
    · rename_i b port p hb _ k hf
      simp at h1
      rw [← h1] at hk
      have hkb := List.find?_some hf
      simp at hkb hk
      have hbb : b = .bnd := by rw [← hkb.1.1]; exact hk
      subst hbb
      unfold blockAt at hb
      split at hb
      · cases hb
      · split at hb <;> simp at hb
        omega

/-- A value of a Bandstand queue's register takes effect: each field clamped, nothing else (R12, R60, R64, R73). -/
theorem applyBatch_queue (s : State) (w : Staged) (l : RegLoc) (hl : regAt w.addr = some l) (hn : l.desc.name ∈ [Reg.bnd .BND_Q_CFG, .bnd .BND_Q_LIM])
    (codes : List Acc) (hc : codes.contains .wbf = true) :
    applyBatch s codes [w] = l.desc.fields.foldl (fun t f => fset t (refOf l f) (clampTo f.min f.max (bits w.val f.hi f.lo)))
      (noteApplied s [w.addr]) := by
  obtain ⟨h1, h2, h3, h4⟩ := queue_row _ _ hl hn
  have hw : writable l codes w.mid = l.desc.fields := by
    unfold writable; rw [List.filter_eq_self]; intro f hf
    obtain ⟨a1, a2, a3⟩ := h2 f hf
    simp only [List.contains_eq_mem] at hc; simp [a1, a2, a3, fieldPresent, hc]
  have hd : (l.desc.fields.filter fun f => f.dependent == false && !ftbKeeps s l f) = l.desc.fields := by
    rw [List.filter_eq_self]; intro f hf
    obtain ⟨a1, a2, a3⟩ := h2 f hf
    simp only [List.mem_cons, List.not_mem_nil, or_false] at hn
    rcases hn with h | h <;> simp [FieldDesc.dependent, a2, ftbKeeps, h]
  have hd2 : ∀ t, (l.desc.fields.filter fun f => f.dependent == true && !ftbKeeps t l f) = [] := by
    intro t
    rw [List.filter_eq_nil_iff]; intro f hf
    obtain ⟨a1, a2, a3⟩ := h2 f hf
    simp [FieldDesc.dependent, a2]
  have hi : ∀ ws v, ignores s ws l v = false := by
    intro ws v
    simp only [List.mem_cons, List.not_mem_nil, or_false] at hn
    rcases hn with h | h <;> simp [ignores, h]
  have hk : ∀ t f, ftbKeeps t l f = false := by
    intro t f
    simp only [List.mem_cons, List.not_mem_nil, or_false] at hn
    rcases hn with h | h <;> simp [ftbKeeps, h]
  have hch : ∀ o t, changed o t w = t := by
    intro o t
    simp only [List.mem_cons, List.not_mem_nil, or_false] at hn
    rcases hn with h | h <;> simp [changed, hl, h]
  have hfo : ∀ o t, follow o t (lands [w]) = t := by
    intro o t
    have hz : ∀ c ∈ [Block.sdl, .mac, .svi, .cas, .ltn, .blv, .cyc], lands [w] c = false := by
      intro c hc
      simp only [List.mem_cons, List.not_mem_nil, or_false] at hc
      simp only [lands, List.any_cons, List.any_nil, Bool.or_false, Bool.and_eq_false_iff, decide_eq_false_iff_not]
      rcases hc with rfl | rfl | rfl | rfl | rfl | rfl | rfl <;> simp only [Block.base] <;> omega
    simp only [follow, hz .sdl (by simp), hz .mac (by simp), hz .svi (by simp), hz .cas (by simp), hz .ltn (by simp), hz .blv (by simp), hz .cyc (by simp), Bool.false_and, Bool.or_self, Bool.false_eq_true, if_false]
  have fold : ∀ (fs : List FieldDesc) (t : State), (∀ f ∈ fs, f.dep = .none) →
      fs.foldl (fun s f => fset s (refOf l f) (clampOwn l f (bits w.val f.hi f.lo))) t = fs.foldl (fun t f => fset t (refOf l f) (clampTo f.min f.max (bits w.val f.hi f.lo))) t := by
    intro fs
    induction fs with
    | nil => intro t _; rfl
    | cons f fs ih =>
      intro t hh
      simp only [List.foldl_cons]
      have hd : f.dep = .none := hh f (by simp)
      have : clampOwn l f (bits w.val f.hi f.lo) = clampTo f.min f.max (bits w.val f.hi f.lo) := by simp [clampOwn, hd]
      rw [this, ih _ (fun g hg => hh g (by simp [hg]))]
  simp only [applyBatch, List.filter_cons, hl, hi, List.filter_nil, Bool.not_false, if_true, Bool.false_eq_true, if_false, List.foldl_nil, List.foldl_cons, hk, Bool.false_and, putFields, hw, hch]
  simp only [List.any_eq_true, Bool.false_eq_true, and_false, exists_false, if_false, List.foldl_nil, Bool.and_true]
  have hz : (l.desc.fields.filter fun f => f.dependent == false) = l.desc.fields := by
    rw [List.filter_eq_self]; intro f hf
    obtain ⟨a1, a2, a3⟩ := h2 f hf
    simp [FieldDesc.dependent, a2]
  have hz2 : (l.desc.fields.filter fun f => f.dependent == true) = [] := by
    rw [List.filter_eq_nil_iff]; intro f hf
    obtain ⟨a1, a2, a3⟩ := h2 f hf
    simp [FieldDesc.dependent, a2]
  rw [hz, hz2, List.foldl_nil]
  rw [hfo, fold _ _ (fun f hf => (h2 f hf).2.1), if_pos hc]
  rfl

/-- A value of a register of one field takes effect: clamped, then what follows in the block (R60, R73). -/
theorem applyBatch_one (s : State) (w : Staged) (l : RegLoc) (f : FieldDesc) (codes : List Acc) (hl : regAt w.addr = some l) (hf : l.desc.fields = [f])
    (hc : codes.contains f.acc = true) (hp : f.prv = false ∨ isPriv w.mid = true) (hd : f.dep = .none) (hi : ∀ ws v, ignores s ws l v = false) (hk : ∀ t, ftbKeeps t l f = false) :
    applyBatch s codes [w] = follow s (changed s (fset (if codes.contains .wbf then noteApplied s [w.addr] else s) (refOf l f)
      (clampTo f.min f.max (bits w.val f.hi f.lo))) w) (lands [w]) := by
  have hw : writable l codes w.mid = [f] := by 
    rcases hp with h | h <;> simp [writable, hf, h, fieldPresent, hd] <;> simpa using hc
  have hdp : f.dependent = false := by simp [FieldDesc.dependent, hd]
  have hcl : ∀ v, clampOwn l f v = clampTo f.min f.max v := by intro v; simp [clampOwn, hd]
  simp [applyBatch, hl, hi, hf, hk, putFields, hw, hdp, hcl]

/-- A value outside a block's window does not land there. -/
theorem lands_out (w : Staged) (b : Block) (h : w.addr < b.base ∨ b.base + 0x100000 ≤ w.addr) : lands [w] b = false := by
  simp only [lands, List.any_cons, List.any_nil, Bool.or_false, Bool.and_eq_false_iff, decide_eq_false_iff_not]
  omega

/-- Nothing follows a value of a SYS or CRU register. -/
theorem follow_sys (o t : State) (w : Staged) (h : w.addr < 0x200000) : follow o t (lands [w]) = t := by
  have hz : ∀ c ∈ [Block.sdl, .mac, .svi, .cas, .ltn, .blv, .cyc], lands [w] c = false := by
    intro c hc
    apply lands_out
    left
    simp only [List.mem_cons, List.not_mem_nil, or_false] at hc
    rcases hc with rfl | rfl | rfl | rfl | rfl | rfl | rfl <;> simp only [Block.base] <;> omega
  simp only [follow, hz .sdl (by simp), hz .mac (by simp), hz .svi (by simp), hz .cas (by simp), hz .ltn (by simp), hz .blv (by simp),
    hz .cyc (by simp), Bool.false_and, Bool.or_self, Bool.false_eq_true, if_false]

end Sys2Proof.Machine
end

