-- ==== Sys2Proof/Laws/Bits.lean ====
section
/-! SUPPORT. Bits of numbers: what setting, clearing and replacing one bit does to each bit. -/

set_option Elab.async false

namespace Sys2Proof.Machine

theorem bit_testBit (v i : Nat) : bit v i = v.testBit i := by
  unfold bit
  rw [Nat.testBit_eq_decide_div_mod_eq]
  cases h : (v / 2 ^ i % 2 == 1) <;> simp_all

theorem bit_mod (v n i : Nat) (h : i < n) : bit (v % 2 ^ n) i = bit v i := by
  simp only [bit_testBit, Nat.testBit_mod_two_pow, h, decide_true, Bool.true_and]

theorem bit_setBit (v i j : Nat) : bit (setBit v i) j = (bit v j || decide (i = j)) := by
  simp only [bit_testBit, setBit, Nat.testBit_or, Nat.testBit_two_pow]

theorem bit_add_two_pow (u i j : Nat) (h : u.testBit i = false) (hij : i ≠ j) : (2 ^ i + u).testBit j = u.testBit j := by
  rcases Nat.lt_or_ge j i with hlt | hge
  · exact Nat.testBit_two_pow_add_gt hlt u
  · have hj : j = (j - (i + 1)) + (i + 1) := by omega
    rw [hj, ← Nat.testBit_div_two_pow, ← Nat.testBit_div_two_pow]
    congr 1
    rw [Nat.testBit_eq_decide_div_mod_eq] at h
    have h1 : u / 2 ^ i % 2 = 0 := by
      have := Nat.mod_two_eq_zero_or_one (u / 2 ^ i)
      simp at h
      omega
    have h2 : (2 ^ i + u) / 2 ^ i = u / 2 ^ i + 1 := by
      rw [Nat.add_comm, Nat.add_div_right _ (Nat.two_pow_pos i)]
    rw [Nat.pow_succ, ← Nat.div_div_eq_div_mul, ← Nat.div_div_eq_div_mul, h2]
    omega

theorem bit_clrBit (v i j : Nat) : bit (clrBit v i) j = (bit v j && decide (i ≠ j)) := by
  by_cases h : bit v i = true
  · have hv : 2 ^ i ≤ v := by
      rw [bit_testBit] at h
      exact Nat.ge_two_pow_of_testBit h
    have e : clrBit v i = v - 2 ^ i := by simp [clrBit, h]
    have e2 : v = 2 ^ i + (v - 2 ^ i) := by omega
    have h3 : (v - 2 ^ i).testBit i = false := by
      rw [bit_testBit, e2, Nat.testBit_two_pow_add_eq] at h
      simpa using h
    rw [e]
    simp only [bit_testBit]
    by_cases hj : i = j
    · subst hj
      simpa using h3
    · have h4 := bit_add_two_pow (v - 2 ^ i) i j h3 hj
      rw [← e2] at h4
      simp [hj, h4]
  · have e : clrBit v i = v := by simp [clrBit, h]
    rw [e]
    by_cases hj : i = j
    · subst hj
      simpa using h
    · simp [hj]

theorem bit_putBit (v i j : Nat) (b : Bool) : bit (putBit v i b) j = if i = j then b else bit v j := by
  unfold putBit
  cases b
  · simp only [Bool.false_eq_true, if_false, bit_clrBit]
    by_cases h : i = j <;> simp [h]
  · simp only [if_true, bit_setBit]
    by_cases h : i = j <;> simp [h]

end Sys2Proof.Machine
end

