-- ==== Sys2Proof/Laws/Boxes.lean ====
section
/-! SUPPORT. Where each mailbox stands, and its request as the block's part run on the state in which it holds the request. -/

set_option Elab.async false

namespace Sys2Proof.Machine

@[simp] theorem written_nil (s : State) : written s [] = s := rfl

@[simp] theorem mbxAt_written (s : State) (d : List Word) (a : Nat) : mbxAt (written s d) a = mbxAt s a := by
  unfold written
  split <;> rfl

@[simp] theorem written_pending (s : State) (d : List Word) : (written s d).pending = s.pending := by unfold written; split <;> rfl
@[simp] theorem written_cru (s : State) (d : List Word) : (written s d).cru = s.cru := by unfold written; split <;> rfl
@[simp] theorem written_sdl (s : State) (d : List Word) : (written s d).sdl = s.sdl := by unfold written; split <;> rfl
@[simp] theorem written_ang (s : State) (d : List Word) : (written s d).ang = s.ang := by unfold written; split <;> rfl
@[simp] theorem written_bnd (s : State) (d : List Word) : (written s d).bnd = s.bnd := by unfold written; split <;> rfl
@[simp] theorem written_hrb (s : State) (d : List Word) : (written s d).hrb = s.hrb := by unfold written; split <;> rfl
@[simp] theorem written_integ (s : State) (d : List Word) : (written s d).integ = s.integ := by unfold written; split <;> rfl
@[simp] theorem written_grt (s : State) (d : List Word) : (written s d).grt = s.grt := by unfold written; split <;> rfl
@[simp] theorem written_dbg (s : State) (d : List Word) : (written s d).dbg = s.dbg := by unfold written; split <;> rfl
@[simp] theorem written_tap (s : State) (d : List Word) : (written s d).tap = s.tap := by unfold written; split <;> rfl
@[simp] theorem written_mac (s : State) (d : List Word) : (written s d).mac = s.mac := by unfold written; split <;> rfl
@[simp] theorem written_trl (s : State) (d : List Word) : (written s d).trl = s.trl := by unfold written; split <;> rfl
@[simp] theorem written_svi (s : State) (d : List Word) : (written s d).svi = s.svi := by unfold written; split <;> rfl
@[simp] theorem written_gth (s : State) (d : List Word) : (written s d).gth = s.gth := by unfold written; split <;> rfl
@[simp] theorem written_ftb (s : State) (d : List Word) : (written s d).ftb = s.ftb := by unfold written; split <;> rfl
@[simp] theorem written_cyc (s : State) (d : List Word) : (written s d).cyc = s.cyc := by unfold written; split <;> rfl
@[simp] theorem written_pav (s : State) (d : List Word) : (written s d).pav = s.pav := by unfold written; split <;> rfl
@[simp] theorem written_cas (s : State) (d : List Word) : (written s d).cas = s.cas := by unfold written; split <;> rfl
@[simp] theorem written_orn (s : State) (d : List Word) : (written s d).orn = s.orn := by unfold written; split <;> rfl
@[simp] theorem written_blv (s : State) (d : List Word) : (written s d).blv = s.blv := by unfold written; split <;> rfl
@[simp] theorem written_mem (s : State) (d : List Word) : (written s d).mem = s.mem := by unfold written; split <;> rfl
@[simp] theorem fget_written (s : State) (d : List Word) (f : FieldRef) : fget (written s d) f = fget s f := by unfold written; split <;> rfl

/-- What a mailbox holds of its request. -/
theorem asks_word (s : State) (mid a op arg : Nat) (wr : Bool) (d : List Word) (hd : d.length ≤ 12) (i : Nat) :
    (mbxAt (asks (written s d) mid a op wr arg d) a).w i = word s a d i := by
  unfold asks Mbx.w word
  rw [mbxAt_setMbx]
  dsimp only
  rw [getD_dataAfter _ _ hd, mbxAt_written]

@[simp] theorem asks_op (s : State) (mid a op arg : Nat) (wr : Bool) (d : List Word) : (mbxAt (asks s mid a op wr arg d) a).op = op := by
  simp [asks]

@[simp] theorem asks_wr (s : State) (mid a op arg : Nat) (wr : Bool) (d : List Word) : (mbxAt (asks s mid a op wr arg d) a).wr = wr := by
  simp [asks]

@[simp] theorem asks_arg (s : State) (mid a op arg : Nat) (wr : Bool) (d : List Word) :
    (mbxAt (asks s mid a op wr arg d) a).arg = arg % 2 ^ 16 := by
  simp [asks]

@[simp] theorem asks_mid (s : State) (mid a op arg : Nat) (wr : Bool) (d : List Word) : (mbxAt (asks s mid a op wr arg d) a).mid = mid := by
  simp [asks]

@[simp] theorem asks_busy (s : State) (mid a op arg : Nat) (wr : Bool) (d : List Word) : (mbxAt (asks s mid a op wr arg d) a).busy = true := by
  simp [asks]

/-- The mailbox `n` stands at `a`: _CMD and the 15 words after it decode to it. -/
def boxB (a : Nat) (n : Reg) (port idx j i : Nat) : Bool :=
  match regAt a with
  | none => false
  | some l => decide (l.desc.name = n) && l.desc.mbx && decide (l.page.port = port) && decide (l.page.idx = idx) && decide (l.page.j = j) &&
      decide (l.i = i) && decide (l.sub = 0) && decide (l.addr = a) && decide (a % 4 = 0) && decide (a + 64 ≤ 0x10000000) &&
      (List.range 16).all fun k => decide (pageAtOff (a + 4 * k) = some l.page) && decide (0x40 ≤ (a + 4 * k) % 0x1000) &&
        decide (regIn l.page ((a + 4 * k) % 0x1000) = some { l with sub := 4 * k })

theorem box_reach {a : Nat} {n : Reg} {port idx j i : Nat} (hB : boxB a n port idx j i = true) {s : State} {mid : Nat} (hf : Free s mid a) :
    ∃ l : RegLoc, l.desc.name = n ∧ (l.page.port = port ∧ l.page.idx = idx ∧ l.page.j = j ∧ l.i = i) ∧
      (∀ k, k < 16 → Reaches mid a (4 * k) { l with sub := 4 * k }) ∧ (∀ k, k < 16 → unconfined s mid (a + 4 * k) = true) ∧
      (mbxAt s a).busy = false := by
  obtain ⟨_, hm, hb⟩ := hf
  unfold boxB at hB
  unfold mayAsk at hm
  cases hr : regAt a with
  | none => simp [hr] at hB
  | some l =>
    obtain ⟨page, desc, i', sub⟩ := l
    simp only [hr, Bool.and_eq_true, decide_eq_true_eq, List.all_eq_true, List.mem_range] at hB hm
    obtain ⟨⟨⟨⟨⟨⟨⟨⟨⟨⟨h1, h2⟩, h3⟩, h4⟩, h5⟩, h6⟩, h7⟩, h8⟩, h9⟩, h10⟩, h11⟩ := hB
    obtain ⟨⟨m1, m2⟩, m3⟩ := hm
    subst h7
    refine ⟨⟨page, desc, i', 0⟩, h1, ⟨h3, h4, h5, h6⟩, ?_, m3, hb⟩
    intro k hk
    obtain ⟨⟨e1, e2⟩, e3⟩ := h11 k hk
    exact { page := e1, reg := e3, high := e2, word := by omega, low := by omega, mbx := h2, addr := h8, sub := rfl, all := m1, may := m2 }

theorem request_box {a : Nat} {n : Reg} {port idx j i : Nat} (hB : boxB a n port idx j i = true) (s : State) (mid op arg : Nat) (wr : Bool)
    (d : List Word) (hf : Free s mid a) (hop : op < 256) :
    ∃ l : RegLoc, l.desc.name = n ∧ l.addr = a ∧ l.page.port = port ∧ l.page.idx = idx ∧ l.page.j = j ∧ l.i = i ∧
      mbxRequest s mid a op wr arg d = respond (mbxGo true l (asks (written s d) mid a op wr arg d)) {} := by
  obtain ⟨l, h1, ⟨h3, h4, h5, h6⟩, reach, u, hb⟩ := box_reach hB hf
  obtain ⟨page, desc, i', sub⟩ := l
  have r0 := reach 0 (by omega)
  refine ⟨⟨page, desc, i', 0⟩, h1, r0.addr, h3, h4, h5, h6, ?_⟩
  apply mbxRequest_eq
  · intro k hk
    have e : 0x10 + 4 * k = 4 * (k + 4) := by omega
    rw [e]
    exact reach (k + 4) (by omega)
  · exact r0
  · intro k hk
    have e : 0x10 + 4 * k = 4 * (k + 4) := by omega
    rw [e]
    exact u (k + 4) (by omega)
  · exact u 0 (by omega)
  · exact hb
  · exact hop

/-! ### The mailboxes -/

theorem sdlTime_box : boxB 0x200080 (.sdl .SDL_TIME) 0 0 0 0 = true := by decide +kernel

theorem request_sdlTime (s : State) (mid op arg : Nat) (wr : Bool) (d : List Word) (hf : Free s mid 0x200080) (hop : op < 256) :
    mbxRequest s mid 0x200080 op wr arg d = respond (angleSweep (sdlMbx .SDL_TIME 0x200080 0 (asks (written s d) mid 0x200080 op wr arg d))) {} := by
  obtain ⟨l, h1, h2, _, _, _, h6, h⟩ := request_box sdlTime_box s mid op arg wr d hf hop
  rw [h]
  simp only [mbxGo, h1, h2, h6]

theorem sdlAdj_box : boxB 0x2000C0 (.sdl .SDL_ADJ) 0 0 0 0 = true := by decide +kernel

theorem request_sdlAdj (s : State) (mid op arg : Nat) (wr : Bool) (d : List Word) (hf : Free s mid 0x2000C0) (hop : op < 256) :
    mbxRequest s mid 0x2000C0 op wr arg d = respond (angleSweep (sdlMbx .SDL_ADJ 0x2000C0 0 (asks (written s d) mid 0x2000C0 op wr arg d))) {} := by
  obtain ⟨l, h1, h2, _, _, _, h6, h⟩ := request_box sdlAdj_box s mid op arg wr d hf hop
  rw [h]
  simp only [mbxGo, h1, h2, h6]

theorem sdlAngNow_box : boxB 0x203080 (.sdl .SDL_ANG_NOW) 0 3 0 0 = true := by decide +kernel

theorem request_sdlAngNow (s : State) (mid op arg : Nat) (wr : Bool) (d : List Word) (hf : Free s mid 0x203080) (hop : op < 256) :
    mbxRequest s mid 0x203080 op wr arg d = respond (angleSweep (sdlMbx .SDL_ANG_NOW 0x203080 0 (asks (written s d) mid 0x203080 op wr arg d))) {} := by
  obtain ⟨l, h1, h2, _, _, _, h6, h⟩ := request_box sdlAngNow_box s mid op arg wr d hf hop
  rw [h]
  simp only [mbxGo, h1, h2, h6]

theorem sdlAlmArm_box : boxB 0x204040 (.sdl .SDL_ALM_ARM) 0 4 0 0 = true := by decide +kernel

theorem request_sdlAlmArm (s : State) (mid op arg : Nat) (wr : Bool) (d : List Word) (hf : Free s mid 0x204040) (hop : op < 256) :
    mbxRequest s mid 0x204040 op wr arg d = respond (angleSweep (sdlMbx .SDL_ALM_ARM 0x204040 0 (asks (written s d) mid 0x204040 op wr arg d))) {} := by
  obtain ⟨l, h1, h2, _, _, _, h6, h⟩ := request_box sdlAlmArm_box s mid op arg wr d hf hop
  rw [h]
  simp only [mbxGo, h1, h2, h6]

theorem gpbSlot_box : boxB 0x420080 (.trl .GPB_SLOT) 0 32 0 0 = true := by decide +kernel

theorem request_gpbSlot (s : State) (mid op arg : Nat) (wr : Bool) (d : List Word) (hf : Free s mid 0x420080) (hop : op < 256) :
    mbxRequest s mid 0x420080 op wr arg d = respond (trlMbx .GPB_SLOT 0x420080 (asks (written s d) mid 0x420080 op wr arg d)) {} := by
  obtain ⟨l, h1, h2, _, _, _, _, h⟩ := request_box gpbSlot_box s mid op arg wr d hf hop
  rw [h]
  simp only [mbxGo, h1, h2]

theorem gsbSub_box : boxB 0x421080 (.trl .GSB_SUB) 0 33 0 0 = true := by decide +kernel

theorem request_gsbSub (s : State) (mid op arg : Nat) (wr : Bool) (d : List Word) (hf : Free s mid 0x421080) (hop : op < 256) :
    mbxRequest s mid 0x421080 op wr arg d = respond (trlMbx .GSB_SUB 0x421080 (asks (written s d) mid 0x421080 op wr arg d)) {} := by
  obtain ⟨l, h1, h2, _, _, _, _, h⟩ := request_box gsbSub_box s mid op arg wr d hf hop
  rw [h]
  simp only [mbxGo, h1, h2]

theorem gsbState_box : boxB 0x4210C0 (.trl .GSB_STATE) 0 33 0 0 = true := by decide +kernel

theorem request_gsbState (s : State) (mid op arg : Nat) (wr : Bool) (d : List Word) (hf : Free s mid 0x4210C0) (hop : op < 256) :
    mbxRequest s mid 0x4210C0 op wr arg d = respond (trlMbx .GSB_STATE 0x4210C0 (asks (written s d) mid 0x4210C0 op wr arg d)) {} := by
  obtain ⟨l, h1, h2, _, _, _, _, h⟩ := request_box gsbState_box s mid op arg wr d hf hop
  rw [h]
  simp only [mbxGo, h1, h2]

theorem trlFdb_box : boxB 0x401040 (.trl .TRL_FDB) 0 1 0 0 = true := by decide +kernel

theorem request_trlFdb (s : State) (mid op arg : Nat) (wr : Bool) (d : List Word) (hf : Free s mid 0x401040) (hop : op < 256) :
    mbxRequest s mid 0x401040 op wr arg d = respond (trlMbx .TRL_FDB 0x401040 (asks (written s d) mid 0x401040 op wr arg d)) {} := by
  obtain ⟨l, h1, h2, _, _, _, _, h⟩ := request_box trlFdb_box s mid op arg wr d hf hop
  rw [h]
  simp only [mbxGo, h1, h2]

theorem sviDesc_box : boxB 0x500080 (.svi .SVI_DESC) 0 0 0 0 = true := by decide +kernel

theorem request_sviDesc (s : State) (mid op arg : Nat) (wr : Bool) (d : List Word) (hf : Free s mid 0x500080) (hop : op < 256) :
    mbxRequest s mid 0x500080 op wr arg d = respond (sviMbx .SVI_DESC 0x500080 (asks (written s d) mid 0x500080 op wr arg d)) {} := by
  obtain ⟨l, h1, h2, _, _, _, _, h⟩ := request_box sviDesc_box s mid op arg wr d hf hop
  rw [h]
  simp only [mbxGo, h1, h2]

theorem sviScnt_box : boxB 0x5000C0 (.svi .SVI_SCNT) 0 0 0 0 = true := by decide +kernel

theorem request_sviScnt (s : State) (mid op arg : Nat) (wr : Bool) (d : List Word) (hf : Free s mid 0x5000C0) (hop : op < 256) :
    mbxRequest s mid 0x5000C0 op wr arg d = respond (sviMbx .SVI_SCNT 0x5000C0 (asks (written s d) mid 0x5000C0 op wr arg d)) {} := by
  obtain ⟨l, h1, h2, _, _, _, _, h⟩ := request_box sviScnt_box s mid op arg wr d hf hop
  rw [h]
  simp only [mbxGo, h1, h2]

theorem casResp_box : boxB 0x600080 (.cas .CAS_RESP) 0 0 0 0 = true := by decide +kernel

theorem request_casResp (s : State) (mid op arg : Nat) (wr : Bool) (d : List Word) (hf : Free s mid 0x600080) (hop : op < 256) :
    mbxRequest s mid 0x600080 op wr arg d = respond (casMbx .CAS_RESP 0x600080 (asks (written s d) mid 0x600080 op wr arg d)) {} := by
  obtain ⟨l, h1, h2, _, _, _, _, h⟩ := request_box casResp_box s mid op arg wr d hf hop
  rw [h]
  simp only [mbxGo, h1, h2]

theorem ltnTrip_box : boxB 0x700080 (.ltn .LTN_TRIP) 0 0 0 0 = true := by decide +kernel

theorem request_ltnTrip (s : State) (mid op arg : Nat) (wr : Bool) (d : List Word) (hf : Free s mid 0x700080) (hop : op < 256) :
    mbxRequest s mid 0x700080 op wr arg d = respond (ltnMbx .LTN_TRIP 0x700080 (asks (written s d) mid 0x700080 op wr arg d)) {} := by
  obtain ⟨l, h1, h2, _, _, _, _, h⟩ := request_box ltnTrip_box s mid op arg wr d hf hop
  rw [h]
  simp only [mbxGo, h1, h2]

theorem bndPost_box : boxB 0x800080 (.bnd .BND_POST) 0 0 0 0 = true := by decide +kernel

theorem request_bndPost (s : State) (mid op arg : Nat) (wr : Bool) (d : List Word) (hf : Free s mid 0x800080) (hop : op < 256) :
    mbxRequest s mid 0x800080 op wr arg d = respond (bndMbx 0x800080 (asks (written s d) mid 0x800080 op wr arg d)) {} := by
  obtain ⟨l, h1, h2, _, _, _, _, h⟩ := request_box bndPost_box s mid op arg wr d hf hop
  rw [h]
  simp only [mbxGo, h1, h2]

theorem cycPvcmd_box : boxB 0x900080 (.cyc .CYC_PVCMD) 0 0 0 0 = true := by decide +kernel

theorem request_cycPvcmd (s : State) (mid op arg : Nat) (wr : Bool) (d : List Word) (hf : Free s mid 0x900080) (hop : op < 256) :
    mbxRequest s mid 0x900080 op wr arg d = respond (cycMbx .CYC_PVCMD (asks (written s d) mid 0x900080 op wr arg d)) {} := by
  obtain ⟨l, h1, _, _, _, _, _, h⟩ := request_box cycPvcmd_box s mid op arg wr d hf hop
  rw [h]
  simp only [mbxGo, h1]

theorem cycForce_box : boxB 0x9000C0 (.cyc .CYC_FORCE) 0 0 0 0 = true := by decide +kernel

theorem request_cycForce (s : State) (mid op arg : Nat) (wr : Bool) (d : List Word) (hf : Free s mid 0x9000C0) (hop : op < 256) :
    mbxRequest s mid 0x9000C0 op wr arg d = respond (cycMbx .CYC_FORCE (asks (written s d) mid 0x9000C0 op wr arg d)) {} := by
  obtain ⟨l, h1, _, _, _, _, _, h⟩ := request_box cycForce_box s mid op arg wr d hf hop
  rw [h]
  simp only [mbxGo, h1]

theorem ftbToken_box : boxB 0xA000C0 (.ftb .FTB_TOKEN) 0 0 0 0 = true := by decide +kernel

theorem request_ftbToken (s : State) (mid op arg : Nat) (wr : Bool) (d : List Word) (hf : Free s mid 0xA000C0) (hop : op < 256) :
    mbxRequest s mid 0xA000C0 op wr arg d = respond (ftbTokenReq (asks (written s d) mid 0xA000C0 op wr arg d)) {} := by
  obtain ⟨l, h1, _, _, _, _, _, h⟩ := request_box ftbToken_box s mid op arg wr d hf hop
  rw [h]
  simp only [mbxGo, h1]

theorem ftbJoin_box : boxB 0xA00100 (.ftb .FTB_JOIN) 0 0 0 0 = true := by decide +kernel

theorem request_ftbJoin (s : State) (mid op arg : Nat) (wr : Bool) (d : List Word) (hf : Free s mid 0xA00100) (hop : op < 256) :
    mbxRequest s mid 0xA00100 op wr arg d = respond (joinReq (asks (written s d) mid 0xA00100 op wr arg d)) {} := by
  obtain ⟨l, h1, _, _, _, _, _, h⟩ := request_box ftbJoin_box s mid op arg wr d hf hop
  rw [h]
  simp only [mbxGo, h1]

theorem ftbDig_box : boxB 0xA00140 (.ftb .FTB_DIG) 0 0 0 0 = true := by decide +kernel

theorem request_ftbDig (s : State) (mid op arg : Nat) (wr : Bool) (d : List Word) (hf : Free s mid 0xA00140) (hop : op < 256) :
    mbxRequest s mid 0xA00140 op wr arg d = respond (ftbDigReq (asks (written s d) mid 0xA00140 op wr arg d) 0xA00140) {} := by
  obtain ⟨l, h1, h2, _, _, _, _, h⟩ := request_box ftbDig_box s mid op arg wr d hf hop
  rw [h]
  simp only [mbxGo, h1, h2]

theorem ornReq_box : boxB 0xB00080 (.orn .ORN_REQ) 0 0 0 0 = true := by decide +kernel

theorem request_ornReq (s : State) (mid op arg : Nat) (wr : Bool) (d : List Word) (hf : Free s mid 0xB00080) (hop : op < 256) :
    mbxRequest s mid 0xB00080 op wr arg d = respond (ornMbx .ORN_REQ 0xB00080 (asks (written s d) mid 0xB00080 op wr arg d)) {} := by
  obtain ⟨l, h1, h2, _, _, _, _, h⟩ := request_box ornReq_box s mid op arg wr d hf hop
  rw [h]
  simp only [mbxGo, h1, h2]

theorem ornRes0_box : boxB 0xB000C0 (.orn .ORN_RES0) 0 0 0 0 = true := by decide +kernel

theorem request_ornRes0 (s : State) (mid op arg : Nat) (wr : Bool) (d : List Word) (hf : Free s mid 0xB000C0) (hop : op < 256) :
    mbxRequest s mid 0xB000C0 op wr arg d = respond (ornMbx .ORN_RES0 0xB000C0 (asks (written s d) mid 0xB000C0 op wr arg d)) {} := by
  obtain ⟨l, h1, h2, _, _, _, _, h⟩ := request_box ornRes0_box s mid op arg wr d hf hop
  rw [h]
  simp only [mbxGo, h1, h2]

theorem ornRes1_box : boxB 0xB00100 (.orn .ORN_RES1) 0 0 0 0 = true := by decide +kernel

theorem request_ornRes1 (s : State) (mid op arg : Nat) (wr : Bool) (d : List Word) (hf : Free s mid 0xB00100) (hop : op < 256) :
    mbxRequest s mid 0xB00100 op wr arg d = respond (ornMbx .ORN_RES1 0xB00100 (asks (written s d) mid 0xB00100 op wr arg d)) {} := by
  obtain ⟨l, h1, h2, _, _, _, _, h⟩ := request_box ornRes1_box s mid op arg wr d hf hop
  rw [h]
  simp only [mbxGo, h1, h2]

theorem blvSrc_box : boxB 0xC00080 (.blv .BLV_SRC) 0 0 0 0 = true := by decide +kernel

theorem request_blvSrc (s : State) (mid op arg : Nat) (wr : Bool) (d : List Word) (hf : Free s mid 0xC00080) (hop : op < 256) :
    mbxRequest s mid 0xC00080 op wr arg d = respond (blvMbx .BLV_SRC 0xC00080 (asks (written s d) mid 0xC00080 op wr arg d)) {} := by
  obtain ⟨l, h1, h2, _, _, _, _, h⟩ := request_box blvSrc_box s mid op arg wr d hf hop
  rw [h]
  simp only [mbxGo, h1, h2]

theorem hrbRead_box : boxB 0xD00080 (.hrb .HRB_READ) 0 0 0 0 = true := by decide +kernel

theorem request_hrbRead (s : State) (mid op arg : Nat) (wr : Bool) (d : List Word) (hf : Free s mid 0xD00080) (hop : op < 256) :
    mbxRequest s mid 0xD00080 op wr arg d = respond (hrbMbx .HRB_READ 0xD00080 (asks (written s d) mid 0xD00080 op wr arg d)) {} := by
  obtain ⟨l, h1, h2, _, _, _, _, h⟩ := request_box hrbRead_box s mid op arg wr d hf hop
  rw [h]
  simp only [mbxGo, h1, h2]

theorem hrbSnap_box : boxB 0xD000C0 (.hrb .HRB_SNAP) 0 0 0 0 = true := by decide +kernel

theorem request_hrbSnap (s : State) (mid op arg : Nat) (wr : Bool) (d : List Word) (hf : Free s mid 0xD000C0) (hop : op < 256) :
    mbxRequest s mid 0xD000C0 op wr arg d = respond (hrbMbx .HRB_SNAP 0xD000C0 (asks (written s d) mid 0xD000C0 op wr arg d)) {} := by
  obtain ⟨l, h1, h2, _, _, _, _, h⟩ := request_box hrbSnap_box s mid op arg wr d hf hop
  rw [h]
  simp only [mbxGo, h1, h2]

theorem hrbLog_box : boxB 0xD00100 (.hrb .HRB_LOG) 0 0 0 0 = true := by decide +kernel

theorem request_hrbLog (s : State) (mid op arg : Nat) (wr : Bool) (d : List Word) (hf : Free s mid 0xD00100) (hop : op < 256) :
    mbxRequest s mid 0xD00100 op wr arg d = respond (hrbMbx .HRB_LOG 0xD00100 (asks (written s d) mid 0xD00100 op wr arg d)) {} := by
  obtain ⟨l, h1, h2, _, _, _, _, h⟩ := request_box hrbLog_box s mid op arg wr d hf hop
  rw [h]
  simp only [mbxGo, h1, h2]

theorem gthKey_box : boxB 0xE00080 (.gth .GTH_KEY) 0 0 0 0 = true := by decide +kernel

theorem request_gthKey (s : State) (mid op arg : Nat) (wr : Bool) (d : List Word) (hf : Free s mid 0xE00080) (hop : op < 256) :
    mbxRequest s mid 0xE00080 op wr arg d = respond (gthMbx .GTH_KEY 0xE00080 0 (asks (written s d) mid 0xE00080 op wr arg d)) {} := by
  obtain ⟨l, h1, h2, _, _, h5, _, h⟩ := request_box gthKey_box s mid op arg wr d hf hop
  rw [h]
  simp only [mbxGo, h1, h2, h5]

theorem gthDbg_box : boxB 0xE000C0 (.gth .GTH_DBG) 0 0 0 0 = true := by decide +kernel

theorem request_gthDbg (s : State) (mid op arg : Nat) (wr : Bool) (d : List Word) (hf : Free s mid 0xE000C0) (hop : op < 256) :
    mbxRequest s mid 0xE000C0 op wr arg d = respond (gthMbx .GTH_DBG 0xE000C0 0 (asks (written s d) mid 0xE000C0 op wr arg d)) {} := by
  obtain ⟨l, h1, h2, _, _, h5, _, h⟩ := request_box gthDbg_box s mid op arg wr d hf hop
  rw [h]
  simp only [mbxGo, h1, h2, h5]

theorem grtTime_box : boxB 0x1000080 (.grt .GRT_TIME) 0 0 0 0 = true := by decide +kernel

theorem request_grtTime (s : State) (mid op arg : Nat) (wr : Bool) (d : List Word) (hf : Free s mid 0x1000080) (hop : op < 256) :
    mbxRequest s mid 0x1000080 op wr arg d = respond (grtMbx .GRT_TIME 0x1000080 (asks (written s d) mid 0x1000080 op wr arg d)) {} := by
  obtain ⟨l, h1, h2, _, _, _, _, h⟩ := request_box grtTime_box s mid op arg wr d hf hop
  rw [h]
  simp only [mbxGo, h1, h2]

theorem grtCmd_box : boxB 0x10000C0 (.grt .GRT_CMD) 0 0 0 0 = true := by decide +kernel

theorem request_grtCmd (s : State) (mid op arg : Nat) (wr : Bool) (d : List Word) (hf : Free s mid 0x10000C0) (hop : op < 256) :
    mbxRequest s mid 0x10000C0 op wr arg d = respond (grtMbx .GRT_CMD 0x10000C0 (asks (written s d) mid 0x10000C0 op wr arg d)) {} := by
  obtain ⟨l, h1, h2, _, _, _, _, h⟩ := request_box grtCmd_box s mid op arg wr d hf hop
  rw [h]
  simp only [mbxGo, h1, h2]

theorem dbgDout_box : boxB 0x1102100 (.dbg .DBG_DOUT) 0 2 0 0 = true := by decide +kernel

theorem request_dbgDout (s : State) (mid op arg : Nat) (wr : Bool) (d : List Word) (hf : Free s mid 0x1102100) (hop : op < 256) :
    mbxRequest s mid 0x1102100 op wr arg d = respond (dbgMbx .DBG_DOUT 0x1102100 (asks (written s d) mid 0x1102100 op wr arg d)) {} := by
  obtain ⟨l, h1, h2, _, _, _, _, h⟩ := request_box dbgDout_box s mid op arg wr d hf hop
  rw [h]
  simp only [mbxGo, h1, h2]

theorem sdlTsr_box : ∀ m : Fin 16, boxB (0x202040 + 0x40 * m.val) (.sdl .SDL_TSR) (0) (2) (0) (m.val) = true := by decide +kernel

theorem request_sdlTsr (m : Fin 16) (s : State) (mid op arg : Nat) (wr : Bool) (d : List Word) (hf : Free s mid (0x202040 + 0x40 * m.val)) (hop : op < 256) :
    mbxRequest s mid (0x202040 + 0x40 * m.val) op wr arg d = respond (angleSweep (sdlMbx .SDL_TSR (0x202040 + 0x40 * m.val) m.val (asks (written s d) mid (0x202040 + 0x40 * m.val) op wr arg d))) {} := by
  obtain ⟨l, h1, h2, _, _, _, h6, h⟩ := request_box (sdlTsr_box m) s mid op arg wr d hf hop
  rw [h]
  simp only [mbxGo, h1, h2, h6]

theorem macExact_box : ∀ m : Fin 16, boxB (macPage m.val 0 + 0x80) (.mac .MAC_EXACT) (m.val) (0) (m.val) (0) = true := by decide +kernel

theorem request_macExact (m : Fin 16) (s : State) (mid op arg : Nat) (wr : Bool) (d : List Word) (hf : Free s mid (macPage m.val 0 + 0x80)) (hop : op < 256) :
    mbxRequest s mid (macPage m.val 0 + 0x80) op wr arg d = respond (macMbx .MAC_EXACT m.val (macPage m.val 0 + 0x80) (asks (written s d) mid (macPage m.val 0 + 0x80) op wr arg d)) {} := by
  obtain ⟨l, h1, h2, h3, _, _, _, h⟩ := request_box (macExact_box m) s mid op arg wr d hf hop
  rw [h]
  simp only [mbxGo, h1, h2, h3]

theorem macGclSw_box : ∀ m : Fin 16, boxB (gclMbx m.val) (.mac .MAC_GCL_SW) (m.val) (2) (m.val) (0) = true := by decide +kernel

theorem request_macGclSw (m : Fin 16) (s : State) (mid op arg : Nat) (wr : Bool) (d : List Word) (hf : Free s mid (gclMbx m.val)) (hop : op < 256) :
    mbxRequest s mid (gclMbx m.val) op wr arg d = respond (macMbx .MAC_GCL_SW m.val (gclMbx m.val) (asks (written s d) mid (gclMbx m.val) op wr arg d)) {} := by
  obtain ⟨l, h1, h2, h3, _, _, _, h⟩ := request_box (macGclSw_box m) s mid op arg wr d hf hop
  rw [h]
  simp only [mbxGo, h1, h2, h3]

theorem gthReq_box : ∀ k : Fin 48, boxB (0xE10040 + 0x1000 * k.val) (.gth .GTH_REQ) (0) (k.val + 16) (k.val) (0) = true := by decide +kernel

theorem request_gthReq (k : Fin 48) (s : State) (mid op arg : Nat) (wr : Bool) (d : List Word) (hf : Free s mid (0xE10040 + 0x1000 * k.val)) (hop : op < 256) :
    mbxRequest s mid (0xE10040 + 0x1000 * k.val) op wr arg d = respond (gthMbx .GTH_REQ (0xE10040 + 0x1000 * k.val) k.val (asks (written s d) mid (0xE10040 + 0x1000 * k.val) op wr arg d)) {} := by
  obtain ⟨l, h1, h2, _, _, h5, _, h⟩ := request_box (gthReq_box k) s mid op arg wr d hf hop
  rw [h]
  simp only [mbxGo, h1, h2, h5]

theorem dbgBfl_box : boxB 0x1101080 (.dbg .DBG_BFL) 0 1 0 0 = true := by decide +kernel

/-- A request to the boot flash, with what the flash reports. -/
theorem request_dbgBfl (s : State) (ok : Bool) (mid op : Nat) (wr : Bool) (d : List Word) (hf : Free s mid 0x1101080) (hc : midClass mid ≠ 2)
    (hop : op < 256) : respond (busWrite (mbxData s mid 0x1101080 d) ok mid 0x1101080 (cmdWord op wr 0)) {} =
      respond (bflReq (asks (written s d) mid 0x1101080 op wr 0 d) 0x1101080 ok) {} := by
  obtain ⟨l, h1, h2, r, u, hb⟩ := box_reach dbgBfl_box hf
  obtain ⟨page, desc, j, sub⟩ := l
  have r0 := r 0 (by omega)
  have e0 : busWrite (mbxData s mid 0x1101080 d) ok mid (0x1101080 + 0) (cmdWord op wr 0) =
      mbxWrite (mbxData s mid 0x1101080 d) ok ⟨page, desc, j, 0⟩ mid (cmdWord op wr 0) := busWrite_mailbox _ ok mid _ 0 _ _ r0
  have hd : ∀ i, i < 12 → Reaches mid 0x1101080 (0x10 + 4 * i) ⟨page, desc, j, 0x10 + 4 * i⟩ := by
    intro k hk
    have e : 0x10 + 4 * k = 4 * (k + 4) := by omega
    rw [e]
    exact r (k + 4) (by omega)
  have hu : ∀ i, i < 12 → unconfined s mid (0x1101080 + (0x10 + 4 * i)) = true := by
    intro k hk
    simp [unconfined, hc]
  have ha : RegLoc.addr ⟨page, desc, j, 0⟩ = 0x1101080 := r0.addr
  have hn : ∀ t, mbxGo ok ⟨page, desc, j, 0⟩ t = bflReq t 0x1101080 ok := by
    intro t
    dsimp only at h1
    simp only [mbxGo, h1, ha]
  rw [Nat.add_zero] at e0
  rw [e0]
  unfold asks written
  by_cases h : d = []
  · subst h
    have e : mbxData s mid 0x1101080 [] = s := by simp [mbxData]
    rw [e, mbxWrite_go s ok mid 0x1101080 op 0 wr page desc j r0 hb hop, hn]
    simp [dataAfter]
  · rw [mbxData_eq s mid 0x1101080 d page desc j hd hu hb h, mbxWrite_go _ ok mid 0x1101080 op 0 wr page desc j r0 (by simpa using hb) hop, hn]
    simp [h]

end Sys2Proof.Machine
end

