-- ==== Sys2Proof/Laws/Counters.lean ====
section
/-! SUPPORT. What a move of a `ctr` field does to it, and what it leaves alone (R46, R51, R77). -/

set_option Elab.async false

namespace Sys2Proof.Machine

@[simp] theorem fget_cadd (s : State) (f : FieldRef) (n : Nat) : fget (cadd s f n) f = counted s f n := by
  simp [cadd, ctrMove, counted, satAdd]

@[simp] theorem fget_cinc (s : State) (f : FieldRef) : fget (cinc s f) f = counted s f 1 := fget_cadd s f 1

theorem fget_cadd_ne (s : State) (f g : FieldRef) (n : Nat) (h : fkey g ≠ fkey f) : fget (cadd s f n) g = fget s g := by
  unfold cadd ctrMove
  rw [fget_fset_ne _ _ _ _ h]
  rfl

theorem fget_cinc_ne (s : State) (f g : FieldRef) (h : fkey g ≠ fkey f) : fget (cinc s f) g = fget s g := fget_cadd_ne s f g 1 h

@[simp] theorem fget_csub (s : State) (f : FieldRef) (v : Nat) :
    fget (csub s f v) f = satAdd f.width (ctrMoves s f).1 (ctrMoves s f).2.1 - ((ctrMoves s f).2.2 + v) := by
  simp [csub, ctrMove]

theorem fget_csub_ne (s : State) (f g : FieldRef) (v : Nat) (h : fkey g ≠ fkey f) : fget (csub s f v) g = fget s g := by
  unfold csub ctrMove
  rw [fget_fset_ne _ _ _ _ h]
  rfl

theorem counted_congr {s t : State} (f : FieldRef) (n : Nat) (h : ctrMoves s f = ctrMoves t f) : counted s f n = counted t f n := by
  unfold counted
  rw [h]

theorem counted_cadd_ne (s : State) (f g : FieldRef) (k n : Nat) (h : fkey g ≠ fkey f) : counted (cadd s f k) g n = counted s g n := by
  apply counted_congr
  unfold ctrMoves
  rw [fget_cadd_ne _ _ _ _ h]
  unfold cadd ctrMove fset
  dsimp only
  rw [if_pos rfl, tat_tset_ne _ _ _ _ _ h]
  split
  · rfl
  · simp [tat, tget]

/-- The first move of a fabric clock. -/
theorem counted_first (s : State) (f : FieldRef) (n : Nat) (h : s.reg.ctrClk ≠ s.sdl.fab) :
    counted s f n = min (fget s f + n) (2 ^ f.width - 1) := by
  simp [counted, ctrMoves, h]

end Sys2Proof.Machine
end

