-- ==== Sys2Proof/Laws/Keep.lean ====
section
/-! SUPPORT. Memory keeps its canonical form and reads back what was written; and the relation `Keeps`, which every operation has to the
state it starts from: the queue stands, memory stays canonical, and fuses are only programmed further. One lemma for each operation stands in Laws/Keep<File>.lean. -/

set_option Elab.async false

namespace Sys2Proof.Machine

/-! ### Memory -/

/-- A write keeps the canonical form above any bound below its address. -/
theorem wfFrom_write (m : List Host.Cell) (a : Nat) (b : Byte) (lo : Option Nat) (hlo : ∀ l, lo = some l → l < a)
    (h : Memory.wfFrom lo m = true) : Memory.wfFrom lo (Memory.write m a b) = true := by
  induction m generalizing lo with
  | nil =>
    unfold Memory.write
    split
    · cases lo <;> rfl
    · cases lo with
      | none => simp_all [Memory.wfFrom]
      | some l => simp_all [Memory.wfFrom]
  | cons c m ih =>
    obtain ⟨a', b'⟩ := c
    simp only [Memory.wfFrom, Bool.and_eq_true] at h
    obtain ⟨⟨h1, h2⟩, h3⟩ := h
    have drop : ∀ l', l' ≤ a' → Memory.wfFrom (some l') m = true := by
      intro l' hl
      cases m with
      | nil => rfl
      | cons c m =>
        obtain ⟨a2, b2⟩ := c
        simp only [Memory.wfFrom, Bool.and_eq_true, decide_eq_true_eq] at h3 ⊢
        exact ⟨⟨by omega, h3.1.2⟩, h3.2⟩
    unfold Memory.write
    split
    · rename_i e
      subst e
      split
      · cases lo with
        | none =>
          cases m with
          | nil => rfl
          | cons c m => obtain ⟨a2, b2⟩ := c; simp_all [Memory.wfFrom]
        | some l => exact drop l (Nat.le_of_lt (hlo l rfl))
      · rename_i hb
        simp only [Memory.wfFrom, Bool.and_eq_true]
        exact ⟨⟨h1, by simpa using hb⟩, h3⟩
    · split
      · rename_i hlt
        split
        · simp only [Memory.wfFrom, Bool.and_eq_true]
          exact ⟨⟨h1, h2⟩, h3⟩
        · rename_i hb
          simp only [Memory.wfFrom, Bool.and_eq_true]
          refine ⟨⟨?_, by simpa using hb⟩, ⟨by simpa using hlt, h2⟩, h3⟩
          cases lo with
          | none => rfl
          | some l => simpa using hlo l rfl
      · rename_i hne hlt
        simp only [Memory.wfFrom, Bool.and_eq_true]
        exact ⟨⟨h1, h2⟩, ih (some a') (by intro l hl; cases hl; omega) h3⟩

/-- Every write keeps the canonical form. -/
theorem Memory.write_wf (m : List Host.Cell) (a : Nat) (b : Byte) (h : Memory.wf m = true) : Memory.wf (Memory.write m a b) = true :=
  wfFrom_write m a b none (by intro l hl; cases hl) h

/-- A read after a write of the same byte gives the value written. -/
theorem Memory.read_write_same (m : List Host.Cell) (a : Nat) (b : Byte) (h : Memory.wf m = true) :
    Memory.read (Memory.write m a b) a = b := by
  suffices ∀ lo, Memory.wfFrom lo m = true → Memory.read (Memory.write m a b) a = b from this none h
  clear h
  induction m with
  | nil =>
    intro lo _
    unfold Memory.write
    split <;> simp_all [Memory.read]
  | cons c m ih =>
    obtain ⟨a', b'⟩ := c
    intro lo h
    simp only [Memory.wfFrom, Bool.and_eq_true] at h
    have above : ∀ (m : List Host.Cell) (l : Nat), a ≤ l → Memory.wfFrom (some l) m = true → Memory.read m a = memDefault := by
      intro m
      induction m with
      | nil => intros; rfl
      | cons c m ih2 =>
        obtain ⟨a2, b2⟩ := c
        intro l hl hm
        simp only [Memory.wfFrom, Bool.and_eq_true, decide_eq_true_eq] at hm
        have : ¬ a2 = a := by omega
        simp only [Memory.read, this, if_false]
        exact ih2 a2 (by omega) hm.2
    unfold Memory.write
    split
    · rename_i e
      split
      · rename_i hb
        rw [hb]
        exact above m a' (by omega) h.2
      · simp [Memory.read]
    · split
      · rename_i hne hlt
        split
        · rename_i hb
          rw [hb]
          have : ¬ a' = a := hne
          simp only [Memory.read, this, if_false]
          exact above m a' (by omega) h.2
        · simp [Memory.read]
      · rename_i hne hlt
        simp only [Memory.read, hne, if_false]
        exact ih (some a') h.2

/-- A write leaves every other byte as it was. -/
theorem Memory.read_write_other (m : List Host.Cell) (a a2 : Nat) (b : Byte) (hne : a2 ≠ a) :
    Memory.read (Memory.write m a b) a2 = Memory.read m a2 := by
  induction m with
  | nil =>
    unfold Memory.write
    split <;> simp [Memory.read, Ne.symm hne]
  | cons c m ih =>
    obtain ⟨a', b'⟩ := c
    unfold Memory.write
    split
    · rename_i e
      subst e
      split <;> simp [Memory.read, Ne.symm hne]
    · split
      · split <;> simp [Memory.read, Ne.symm hne]
      · simp only [Memory.read, ih]

/-! ### What a state keeps of another -/

/-- The queue of `s` stands in `t`, where the memory of `s` is canonical so is that of `t`, and the fuses have only grown. -/
structure Keeps (s t : State) : Prop where
  /-- The waiting commands are the same. -/
  queue : t.pending = s.pending
  /-- Canonical memory stays canonical. -/
  mem : Memory.wf s.mem = true → Memory.wf t.mem = true
  /-- The fuses of `s` stand. -/
  fuses : fusesGrow s.gth t.gth

theorem fusesGrow_refl (g : Gatehouse) : fusesGrow g g := ⟨Nat.le_refl _, Nat.le_refl _, fun _ h => h, fun _ _ h => h⟩

theorem fusesGrow_trans {g h k : Gatehouse} (a : fusesGrow g h) (b : fusesGrow h k) : fusesGrow g k :=
  ⟨Nat.le_trans a.1 b.1, Nat.le_trans a.2.1 b.2.1, fun r x => b.2.2.1 r (a.2.2.1 r x), fun r bs x => b.2.2.2 r bs (a.2.2.2 r bs x)⟩

/-- The same of the state that an operation answers beside a value. -/
structure KeepsFst {β : Type} (s : State) (x : State × β) : Prop where
  /-- Of the state. -/
  fst : Keeps s x.1

namespace Keeps

theorem refl (s : State) : Keeps s s := ⟨rfl, id, fusesGrow_refl _⟩

theorem trans {s t u : State} (h : Keeps s t) (k : Keeps t u) : Keeps s u :=
  ⟨k.queue.trans h.queue, fun w => k.mem (h.mem w), fusesGrow_trans h.fuses k.fuses⟩

/-- A state that differs in neither the queue nor memory nor the Gatehouse. -/
theorem mk_iff (s t : State) (reg : Parterre) (cru : Cru) (sdl : Sundial) (ang : Angle) (bnd : Bandstand) (hrb : Herbarium) (integ : Integ)
    (grt : Grotto) (dbg : Dbg) (tap : Tap) (mac : Ports) (trl : Trellis) (svi : Svi) (ftb : Footbridge) (cyc : Cycle) (pav : Pavilions)
    (cas : Cascade) (orn : Orangery) (blv : Belvedere) :
    Keeps s ⟨t.pending, reg, cru, sdl, ang, bnd, hrb, integ, grt, dbg, tap, mac, trl, svi, t.gth, ftb, cyc, pav, cas, orn, blv, t.mem⟩ ↔ Keeps s t :=
  ⟨fun h => ⟨h.queue, h.mem, h.fuses⟩, fun h => ⟨h.queue, h.mem, h.fuses⟩⟩

/-- A state that differs in neither the queue nor memory nor the fuses. -/
theorem gth_iff (s t : State) (reg : Parterre) (cru : Cru) (sdl : Sundial) (ang : Angle) (bnd : Bandstand) (hrb : Herbarium) (integ : Integ)
    (grt : Grotto) (dbg : Dbg) (tap : Tap) (mac : Ports) (trl : Trellis) (svi : Svi) (ftb : Footbridge) (cyc : Cycle) (pav : Pavilions)
    (cas : Cascade) (orn : Orangery) (blv : Belvedere) (lcBoot : Nat) (bank0 bank1 : RootBank) (rootSt root : Nat)
    (birth : Option (Nat × Nat)) (entErr : Bool) (slots : Tbl KeySlot) (bad : List Nat) (loading : Bool) (update : Option KeyUpdate)
    (cache : List Nat) (challenge : Option Nat) (unlockParts : Tbl (List Nat)) (fails : Nat) (unlocked : Bool) :
    Keeps s ⟨t.pending, reg, cru, sdl, ang, bnd, hrb, integ, grt, dbg, tap, mac, trl, svi,
      ⟨t.gth.lc, lcBoot, bank0, bank1, t.gth.rows, t.gth.rev, t.gth.bootver, rootSt, root, birth, entErr, slots, bad, loading, update, cache,
        challenge, unlockParts, fails, unlocked⟩, ftb, cyc, pav, cas, orn, blv, t.mem⟩ ↔ Keeps s t :=
  ⟨fun h => ⟨h.queue, h.mem, h.fuses⟩, fun h => ⟨h.queue, h.mem, h.fuses⟩⟩

theorem ite {c : Prop} [Decidable c] {s a b : State} (ha : Keeps s a) (hb : Keeps s b) : Keeps s (if c then a else b) := by
  split <;> assumption

theorem onPair {β : Type} {s : State} {x : State × β} {f : State → β → State} (hx : KeepsFst s x) (hf : ∀ t b, Keeps t (f t b)) :
    Keeps s (onPair x f) := hx.fst.trans (hf x.1 x.2)

/-- What follows a pair that holds no state. -/
theorem onVal {α β : Type} {s : State} {x : α × β} {f : α → β → State} (hf : ∀ a b, Keeps s (f a b)) : Keeps s (Machine.onPair x f) :=
  hf x.1 x.2

theorem onOpt {β : Type} {s : State} {x : State × Option β} {bad : State → State} {good : State → β → State} (hx : KeepsFst s x)
    (hb : ∀ t, Keeps t (bad t)) (hg : ∀ t b, Keeps t (good t b)) : Keeps s (onOpt x bad good) := by
  obtain ⟨t, b⟩ := x
  cases b
  · exact hx.fst.trans (hb t)
  · exact hx.fst.trans (hg t _)

theorem onOk {s : State} {x : State × Bool} {bad good : State → State} (hx : KeepsFst s x) (hb : ∀ t, Keeps t (bad t))
    (hg : ∀ t, Keeps t (good t)) : Keeps s (onOk x bad good) := by
  obtain ⟨t, b⟩ := x
  cases b
  · exact hx.fst.trans (hb t)
  · exact hx.fst.trans (hg t)

theorem foldl {α : Type} {s t : State} {f : State → α → State} (l : List α) (ht : Keeps s t) (hf : ∀ u x, Keeps u (f u x)) :
    Keeps s (l.foldl f t) := by
  induction l generalizing t with
  | nil => exact ht
  | cons x l ih => exact ih (ht.trans (hf t x))

end Keeps

namespace KeepsFst

theorem pair_iff {β : Type} (s t : State) (b : β) : KeepsFst s (t, b) ↔ Keeps s t := ⟨fun h => h.fst, fun h => ⟨h⟩⟩

theorem trans {β : Type} {s t : State} {x : State × β} (h : Keeps s t) (k : KeepsFst t x) : KeepsFst s x := ⟨h.trans k.fst⟩

theorem ite {β : Type} {c : Prop} [Decidable c] {s : State} {a b : State × β} (ha : KeepsFst s a) (hb : KeepsFst s b) :
    KeepsFst s (if c then a else b) := by split <;> assumption

theorem onPair {β γ : Type} {s : State} {x : State × β} {f : State → β → State × γ} (hx : KeepsFst s x)
    (hf : ∀ t b, KeepsFst t (f t b)) : KeepsFst s (Machine.onPair x f) := trans hx.fst (hf x.1 x.2)

theorem onVal {α β γ : Type} {s : State} {x : α × β} {f : α → β → State × γ} (hf : ∀ a b, KeepsFst s (f a b)) :
    KeepsFst s (Machine.onPair x f) := hf x.1 x.2

theorem onOpt {β γ : Type} {s : State} {x : State × Option β} {bad : State → State × γ} {good : State → β → State × γ}
    (hx : KeepsFst s x) (hb : ∀ t, KeepsFst t (bad t)) (hg : ∀ t b, KeepsFst t (good t b)) : KeepsFst s (Machine.onOpt x bad good) := by
  obtain ⟨t, b⟩ := x
  cases b
  · exact trans hx.fst (hb t)
  · exact trans hx.fst (hg t _)

theorem onOk {γ : Type} {s : State} {x : State × Bool} {bad good : State → State × γ} (hx : KeepsFst s x) (hb : ∀ t, KeepsFst t (bad t))
    (hg : ∀ t, KeepsFst t (good t)) : KeepsFst s (Machine.onOk x bad good) := by
  obtain ⟨t, b⟩ := x
  cases b
  · exact trans hx.fst (hb t)
  · exact trans hx.fst (hg t)

theorem foldl {α β : Type} {s : State} {t : State × β} {f : State × β → α → State × β} (l : List α) (ht : KeepsFst s t)
    (hf : ∀ u x, KeepsFst u.1 (f u x)) : KeepsFst s (l.foldl f t) := by
  induction l generalizing t with
  | nil => exact ht
  | cons x l ih => exact ih (trans ht.fst (hf t x))

/-- A pair keeps its own state. -/
theorem self {β : Type} (x : State × β) : KeepsFst x.1 x := ⟨Keeps.refl _⟩

end KeepsFst

theorem Keeps.foldl_fst {α β : Type} {s : State} {t : State × β} {f : State × β → α → State × β} (l : List α) (ht : KeepsFst s t)
    (hf : ∀ u x, KeepsFst u.1 (f u x)) : Keeps s (l.foldl f t).1 := (KeepsFst.foldl l ht hf).fst

/-! ### Memory writes -/

theorem keeps_wr8 (s : State) (a v : Nat) : Keeps s (wr8 s a v) := ⟨rfl, Memory.write_wf s.mem a _, fusesGrow_refl _⟩

theorem keeps_wrBytes (s : State) (a : Nat) (bs : List Nat) : Keeps s (wrBytes s a bs) := by
  induction bs generalizing s a with
  | nil => exact Keeps.refl s
  | cons b bs ih => exact (keeps_wr8 s a b).trans (ih (wr8 s a b) (a + 1))

end Sys2Proof.Machine
end

