-- ==== Sys2Proof/Laws/KeepOps.lean ====
section
/-! SUPPORT. What the operations of Machine/Ops.lean keep: the queue, memory's canonical form and the fuses. -/

set_option Elab.async false

namespace Sys2Proof.Machine

theorem keeps_drew (s : State) : Keeps s (drew s) := by
  unfold drew
  try dsimp only
  with_reducible repeat' first
    | simp only [Keeps.mk_iff]
    | apply Keeps.refl

theorem keeps_fset (s : State) (f : FieldRef) (v : Nat) : Keeps s (fset s f v) := by
  unfold fset
  try dsimp only
  with_reducible repeat' first
    | simp only [Keeps.mk_iff]
    | apply Keeps.refl

theorem keeps_ctrMove (s : State) (f : FieldRef) (h : Nat) (d : Nat) : Keeps s (ctrMove s f h d) := by
  unfold ctrMove
  try dsimp only
  with_reducible repeat' first
    | apply Keeps.trans ?_ (keeps_fset _ _ _)
    | simp only [Keeps.mk_iff]
    | apply Keeps.refl

theorem keeps_cadd (s : State) (f : FieldRef) (n : Nat) : Keeps s (cadd s f n) := by
  unfold cadd
  try dsimp only
  with_reducible repeat' first
    | apply Keeps.trans ?_ (keeps_ctrMove _ _ _ _)
    | apply Keeps.refl

theorem keeps_cinc (s : State) (f : FieldRef) : Keeps s (cinc s f) := by
  unfold cinc
  try dsimp only
  with_reducible repeat' first
    | apply Keeps.trans ?_ (keeps_cadd _ _ _)
    | apply Keeps.refl

theorem keeps_csub (s : State) (f : FieldRef) (v : Nat) : Keeps s (csub s f v) := by
  unfold csub
  try dsimp only
  with_reducible repeat' first
    | apply Keeps.trans ?_ (keeps_ctrMove _ _ _ _)
    | apply Keeps.refl

theorem keeps_wign (s : State) (page : Nat) : Keeps s (wign s page) := by
  unfold wign
  try dsimp only
  with_reducible repeat' first
    | apply Keeps.trans ?_ (keeps_cinc _ _)
    | apply Keeps.refl

theorem keeps_dropShadows (s : State) (p : Nat → Bool) : Keeps s (dropShadows s p) := by
  unfold dropShadows
  try dsimp only
  with_reducible repeat' first
    | simp only [Keeps.mk_iff]
    | apply Keeps.refl

theorem keeps_holdGroup (s : State) (g : Nat) (n : Nat) : Keeps s (holdGroup s g n) := by
  unfold holdGroup
  try dsimp only
  with_reducible repeat' first
    | simp only [Keeps.mk_iff]
    | apply Keeps.refl

theorem keeps_wrLe (s : State) (a : Nat) (n : Nat) (v : Nat) : Keeps s (wrLe s a n v) := by
  unfold wrLe
  try dsimp only
  with_reducible repeat' first
    | apply Keeps.trans ?_ (keeps_wrBytes _ _ _)
    | apply Keeps.refl

end Sys2Proof.Machine
end

