-- ==== Sys2Proof/Laws/KeepMailbox.lean ====
section
/-! SUPPORT. What the operations of Machine/Mailbox.lean keep: the queue, memory's canonical form and the fuses. -/

set_option Elab.async false

namespace Sys2Proof.Machine

theorem keeps_setMbx (s : State) (a : Nat) (b : Mbx) : Keeps s (setMbx s a b) := by
  unfold setMbx
  try dsimp only
  with_reducible repeat' first
    | simp only [Keeps.mk_iff]
    | apply Keeps.refl

theorem keeps_mbxEnd (s : State) (a : Nat) (code : Nat) : Keeps s (mbxEnd s a code) := by
  unfold mbxEnd
  try dsimp only
  with_reducible repeat' first
    | apply Keeps.trans ?_ (keeps_setMbx _ _ _)
    | apply Keeps.refl

theorem keeps_mbxAnswer (s : State) (a : Nat) (code : Nat) (d : List Word) : Keeps s (mbxAnswer s a code d) := by
  unfold mbxAnswer
  try dsimp only
  with_reducible repeat' first
    | apply Keeps.trans ?_ (keeps_setMbx _ _ _)
    | apply Keeps.refl

theorem keeps_mbxEndIfBusy (s : State) (a : Nat) (code : Nat) : Keeps s (mbxEndIfBusy s a code) := by
  unfold mbxEndIfBusy
  try dsimp only
  with_reducible repeat' first
    | apply Keeps.ite
    | apply Keeps.trans ?_ (keeps_mbxEnd _ _ _)
    | apply Keeps.refl

end Sys2Proof.Machine
end

