-- ==== Sys2Proof/Laws/KeepRecord.lean ====
section
/-! SUPPORT. What the operations of Machine/Record.lean keep: the queue, memory's canonical form and the fuses. -/

set_option Elab.async false

namespace Sys2Proof.Machine

theorem keeps_loseEvent (s : State) (cause : Nat) : Keeps s (loseEvent s cause) := by
  unfold loseEvent
  try dsimp only
  with_reducible repeat' first
    | apply Keeps.trans ?_ (keeps_cinc _ _)
    | simp only [Keeps.mk_iff]
    | apply Keeps.refl

theorem keeps_hrbPump (s : State) : Keeps s (hrbPump s) := by
  unfold hrbPump
  try dsimp only
  with_reducible repeat' first
    | apply Keeps.ite
    | simp only [Keeps.mk_iff]
    | split
    | apply Keeps.refl

theorem keeps_acceptEvent (s : State) (type : Nat) (src : Nat) (args : List Nat) (excl : Bool) (snap : Option (List Nat)) : KeepsFst s (acceptEvent s type src args excl snap) := by
  unfold acceptEvent
  try dsimp only
  with_reducible repeat' first
    | apply KeepsFst.ite
    | apply Keeps.trans ?_ (keeps_loseEvent _ _)
    | apply Keeps.trans ?_ (keeps_hrbPump _)
    | simp only [KeepsFst.pair_iff, Keeps.mk_iff]
    | apply Keeps.refl

theorem keeps_record (s : State) (type : Nat) (src : Nat) (args : List Nat) : Keeps s (record s type src args) := by
  unfold record
  try dsimp only
  with_reducible repeat' first
    | apply Keeps.trans ?_ (keeps_acceptEvent _ _ _ _ _ _).fst
    | apply Keeps.refl

theorem keeps_recordExcl (s : State) (type : Nat) (src : Nat) (args : List Nat) : Keeps s (recordExcl s type src args) := by
  unfold recordExcl
  try dsimp only
  with_reducible repeat' first
    | apply Keeps.trans ?_ (keeps_acceptEvent _ _ _ _ _ _).fst
    | apply Keeps.refl

theorem keeps_recordFixed (s : State) (type : Nat) (src : Nat) (args : List Nat) (snap : List Nat) : Keeps s (recordFixed s type src args snap) := by
  unfold recordFixed
  try dsimp only
  with_reducible repeat' first
    | apply Keeps.trans ?_ (keeps_acceptEvent _ _ _ _ _ _).fst
    | apply Keeps.refl

theorem keeps_enterSector (s : State) (k : Nat) : Keeps s (enterSector s k) := by
  unfold enterSector
  try dsimp only
  with_reducible repeat' first
    | simp only [Keeps.mk_iff]
    | apply Keeps.refl

theorem keeps_advancePage (s : State) (p : Nat) : Keeps s (advancePage s p) := by
  unfold advancePage
  try dsimp only
  with_reducible repeat' first
    | apply Keeps.ite
    | apply Keeps.trans ?_ (keeps_enterSector _ _)
    | simp only [Keeps.mk_iff]
    | apply Keeps.refl

theorem keeps_skipSector (s : State) (k : Nat) : Keeps s (skipSector s k) := by
  unfold skipSector
  try dsimp only
  with_reducible repeat' first
    | apply Keeps.ite
    | apply Keeps.trans ?_ (keeps_enterSector _ _)
    | simp only [Keeps.mk_iff]
    | apply Keeps.refl

theorem keeps_freezeReached (s : State) : Keeps s (freezeReached s) := by
  unfold freezeReached
  try dsimp only
  with_reducible repeat' first
    | apply Keeps.ite
    | simp only [Keeps.mk_iff]
    | apply Keeps.refl

theorem keeps_flashProgramDone (s : State) (ok : Bool) : Keeps s (flashProgramDone s ok) := by
  unfold flashProgramDone
  try dsimp only
  with_reducible repeat' first
    | apply Keeps.ite
    | apply Keeps.trans ?_ (keeps_freezeReached _)
    | apply Keeps.trans ?_ (keeps_cinc _ _)
    | apply Keeps.trans ?_ (keeps_hrbPump _)
    | apply Keeps.trans ?_ (keeps_skipSector _ _)
    | apply Keeps.trans ?_ (keeps_advancePage _ _)
    | apply Keeps.trans ?_ (keeps_enterSector _ _)
    | simp only [Keeps.mk_iff]
    | split
    | apply Keeps.refl

theorem keeps_hrbScan (s : State) : Keeps s (hrbScan s) := by
  unfold hrbScan
  try dsimp only
  with_reducible repeat' first
    | apply Keeps.ite
    | apply Keeps.trans ?_ (keeps_cadd _ _ _)
    | apply Keeps.trans ?_ (keeps_enterSector _ _)
    | apply Keeps.trans ?_ (keeps_recordExcl _ _ _ _)
    | simp only [Keeps.mk_iff]
    | apply Keeps.refl

theorem keeps_flashEraseDone (s : State) (ok : Bool) : Keeps s (flashEraseDone s ok) := by
  unfold flashEraseDone
  try dsimp only
  with_reducible repeat' first
    | apply Keeps.ite
    | apply Keeps.trans ?_ (keeps_hrbPump _)
    | apply Keeps.trans ?_ (keeps_cinc _ _)
    | apply Keeps.trans ?_ (keeps_skipSector _ _)
    | simp only [Keeps.mk_iff]
    | split
    | apply Keeps.refl

theorem keeps_hrbChanged (r : HrbReg) (s : State) : Keeps s (hrbChanged r s) := by
  unfold hrbChanged
  try dsimp only
  with_reducible repeat' first
    | apply Keeps.ite
    | apply Keeps.trans ?_ (keeps_hrbPump _)
    | simp only [Keeps.mk_iff]
    | split
    | apply Keeps.refl

theorem keeps_hrbEnable (on : Bool) (s : State) : Keeps s (hrbEnable on s) := by
  unfold hrbEnable
  try dsimp only
  with_reducible repeat' first
    | apply Keeps.ite
    | simp only [Keeps.mk_iff]
    | apply Keeps.refl

theorem keeps_hrbSrst (s : State) : Keeps s (hrbSrst s) := by
  unfold hrbSrst
  try dsimp only
  with_reducible repeat' first
    | apply Keeps.trans ?_ (keeps_cadd _ _ _)
    | apply Keeps.trans ?_ (keeps_fset _ _ _)
    | simp only [Keeps.mk_iff]
    | apply Keeps.refl

theorem keeps_snapSet (s : State) (a : Nat) (c : Nat) (part : Nat) : Keeps s (snapSet s a c part) := by
  unfold snapSet
  try dsimp only
  with_reducible repeat' first
    | apply Keeps.trans ?_ (keeps_mbxEnd _ _ _)
    | simp only [Keeps.mk_iff]
    | apply Keeps.refl

theorem keeps_hrbMbx (r : HrbReg) (a : Nat) (s : State) : Keeps s (hrbMbx r a s) := by
  unfold hrbMbx
  try dsimp only
  with_reducible repeat' first
    | apply Keeps.ite
    | apply Keeps.trans ?_ (keeps_mbxEnd _ _ _)
    | apply Keeps.trans ?_ (keeps_mbxAnswer _ _ _ _)
    | apply Keeps.trans ?_ (keeps_snapSet _ _ _ _)
    | apply Keeps.trans ?_ (keeps_acceptEvent _ _ _ _ _ _).fst
    | split
    | apply Keeps.refl

end Sys2Proof.Machine
end

