-- ==== Sys2Proof/Laws/KeepPost.lean ====
section
/-! SUPPORT. What the operations of Machine/Post.lean keep: the queue, memory's canonical form and the fuses. -/

set_option Elab.async false

namespace Sys2Proof.Machine

theorem keeps_onPosted {s : State} {x : State × PostResult} {a b : State → State} (hx : KeepsFst s x) (ha : ∀ t, Keeps t (a t))
    (hb : ∀ t, Keeps t (b t)) : Keeps s (onPosted x a b) := by
  unfold onPosted
  split
  · exact hx.fst.trans (ha _)
  · exact hx.fst.trans (hb _)

theorem keepsFst_onPosted {β : Type} {s : State} {x : State × PostResult} {a b : State → State × β} (hx : KeepsFst s x)
    (ha : ∀ t, KeepsFst t (a t)) (hb : ∀ t, KeepsFst t (b t)) : KeepsFst s (onPosted x a b) := by
  unfold onPosted
  split
  · exact KeepsFst.trans hx.fst (ha _)
  · exact KeepsFst.trans hx.fst (hb _)

theorem keeps_ftbSend (s : State) (type : Nat) (body : List Nat) : Keeps s (ftbSend s type body) := by
  unfold ftbSend
  try dsimp only
  with_reducible repeat' first
    | apply Keeps.ite
    | simp only [Keeps.mk_iff]
    | apply Keeps.refl

theorem keeps_ftbControl (s : State) (req : Nat) (confirm : Bool) (k : Nat) : Keeps s (ftbControl s req confirm k) := by
  unfold ftbControl
  try dsimp only
  with_reducible repeat' first
    | apply Keeps.trans ?_ (keeps_ftbSend _ _ _)
    | apply Keeps.refl

theorem keeps_ftbFreeze (s : State) : Keeps s (ftbFreeze s) := by
  unfold ftbFreeze
  try dsimp only
  with_reducible repeat' first
    | apply Keeps.ite
    | apply Keeps.trans ?_ (keeps_ftbControl _ _ _ _)
    | simp only [Keeps.mk_iff]
    | apply Keeps.refl

theorem keeps_raiseFault (s : State) (c : Nat) (args : List Nat) : Keeps s (raiseFault s c args) := by
  unfold raiseFault
  try dsimp only
  with_reducible repeat' first
    | apply Keeps.ite
    | apply Keeps.trans ?_ (keeps_cinc _ _)
    | apply Keeps.trans ?_ (keeps_ftbFreeze _)
    | apply Keeps.trans ?_ (keeps_record _ _ _ _)
    | apply Keeps.refl

theorem keeps_raiseOpen (s : State) (c : Nat) (unit : Nat) (place : Nat) : Keeps s (raiseOpen s c unit place) := by
  unfold raiseOpen
  try dsimp only
  with_reducible repeat' first
    | apply Keeps.trans ?_ (keeps_raiseFault _ _ _)
    | apply Keeps.trans ?_ (keeps_drew _)
    | apply Keeps.refl

theorem keeps_flashFault (s : State) (failed : Bool) : Keeps s (flashFault s failed) := by
  unfold flashFault
  try dsimp only
  with_reducible repeat' first
    | apply Keeps.ite
    | apply Keeps.trans ?_ (keeps_raiseFault _ _ _)
    | apply Keeps.trans ?_ (keeps_drew _)
    | apply Keeps.refl

theorem keeps_bndAdmit (s : State) (e : Ev) (post : Option (Nat × Nat)) : Keeps s (bndAdmit s e post) := by
  unfold bndAdmit
  try dsimp only
  with_reducible repeat' first
    | apply Keeps.trans ?_ (keeps_cinc _ _)
    | simp only [Keeps.mk_iff]
    | apply Keeps.refl

theorem keeps_notePost (s : State) (p : Nat) : Keeps s (notePost s p) := by
  unfold notePost
  try dsimp only
  with_reducible repeat' first
    | simp only [Keeps.mk_iff]
    | apply Keeps.refl

theorem keeps_bndPost (s : State) (e : Ev) : KeepsFst s (bndPost s e) := by
  unfold bndPost
  try dsimp only
  with_reducible repeat' first
    | apply KeepsFst.ite
    | apply Keeps.trans ?_ (keeps_cinc _ _)
    | apply Keeps.trans ?_ (keeps_notePost _ _)
    | apply Keeps.trans ?_ (keeps_bndAdmit _ _ _)
    | simp only [KeepsFst.pair_iff]
    | apply Keeps.refl

theorem keeps_setHeld (s : State) (h : Holder) (unit : Nat) (l : List Ev) : Keeps s (setHeld s h unit l) := by
  unfold setHeld
  try dsimp only
  with_reducible repeat' first
    | simp only [Keeps.mk_iff]
    | apply Keeps.refl

theorem keeps_postOrHold (s : State) (h : Holder) (unit : Nat) (e : Ev) : KeepsFst s (postOrHold s h unit e) := by
  unfold postOrHold
  try dsimp only
  with_reducible repeat' first
    | apply keepsFst_onPosted
    | apply Keeps.trans ?_ (keeps_setHeld _ _ _ _)
    | apply KeepsFst.trans ?_ (keeps_bndPost _ _)
    | simp only [KeepsFst.pair_iff]
    | intro _
    | split
    | apply Keeps.refl

theorem keeps_postCounted (s : State) (h : Holder) (unit : Nat) (e : Ev) (count : FieldRef) : Keeps s (postCounted s h unit e count) := by
  unfold postCounted
  try dsimp only
  with_reducible repeat' first
    | apply Keeps.onOk
    | apply KeepsFst.trans ?_ (keeps_postOrHold _ _ _ _)
    | apply Keeps.trans ?_ (keeps_cinc _ _)
    | intro _
    | apply Keeps.refl

theorem keeps_retryHeld (s : State) (h : Holder) (unit : Nat) : Keeps s (retryHeld s h unit) := by
  unfold retryHeld
  try dsimp only
  with_reducible repeat' first
    | apply keeps_onPosted
    | apply KeepsFst.trans ?_ (keeps_bndPost _ _)
    | apply Keeps.trans ?_ (keeps_setHeld _ _ _ _)
    | intro _
    | split
    | apply Keeps.refl

theorem keeps_retryAlarm (s : State) : Keeps s (retryAlarm s) := by
  unfold retryAlarm
  try dsimp only
  with_reducible repeat' first
    | apply Keeps.trans ?_ (keeps_retryHeld _ _ _)
    | simp only [Keeps.mk_iff]
    | split
    | apply Keeps.refl

theorem keeps_alarmPost (s : State) (k : Nat) (e : Ev) : Keeps s (alarmPost s k e) := by
  unfold alarmPost
  try dsimp only
  with_reducible repeat' first
    | apply Keeps.trans ?_ (keeps_retryAlarm _)
    | apply Keeps.trans ?_ (keeps_setHeld _ _ _ _)
    | apply Keeps.refl

theorem keeps_purgeHead (s : State) (q : Nat) : Keeps s (purgeHead s q) := by
  unfold purgeHead
  try dsimp only
  with_reducible repeat' first
    | apply Keeps.ite
    | apply Keeps.foldl
    | apply Keeps.trans ?_ (keeps_cinc _ _)
    | simp only [Keeps.mk_iff]
    | intro _
    | apply Keeps.refl

theorem keeps_purgeAll (s : State) : Keeps s (purgeAll s) := by
  unfold purgeAll
  try dsimp only
  with_reducible repeat' first
    | apply Keeps.foldl
    | apply Keeps.trans ?_ (keeps_purgeHead _ _)
    | intro _
    | apply Keeps.refl

theorem keeps_completeTaken (s : State) (k : Nat) : Keeps s (completeTaken s k) := by
  unfold completeTaken
  try dsimp only
  with_reducible repeat' first
    | simp only [Keeps.mk_iff]
    | apply Keeps.refl

theorem keeps_setSlot (s : State) (k : Nat) (es : List QEv) : Keeps s (setSlot s k es) := by
  unfold setSlot
  try dsimp only
  with_reducible repeat' first
    | simp only [Keeps.mk_iff]
    | apply Keeps.refl

theorem keeps_purgeSlot (s : State) (k : Nat) : Keeps s (purgeSlot s k) := by
  unfold purgeSlot
  try dsimp only
  with_reducible repeat' first
    | apply Keeps.foldl
    | apply Keeps.trans ?_ (keeps_setSlot _ _ _)
    | apply Keeps.trans ?_ (keeps_cinc _ _)
    | intro _
    | apply Keeps.refl

theorem keeps_returnEntry (s : State) (k : Nat) (t : Nat) : ∀ u', returnEntry s k t = some u' → Keeps s u' := by
  unfold returnEntry
  intro t h
  (repeat' split at h) <;> first | (cases h; done) | (cases h; with_reducible repeat' first
      | apply Keeps.ite
      | apply Keeps.trans ?_ (keeps_setSlot _ _ _)
      | apply Keeps.trans ?_ (keeps_cinc _ _)
      | simp only [Keeps.mk_iff]
      | intro _
      | split
      | apply Keeps.refl
      | assumption)

theorem keeps_takeRead (s : State) (k : Nat) : Keeps s (takeRead s k) := by
  have h0 : Keeps s (purgeSlot (completeTaken s k) k) := (keeps_completeTaken _ _).trans (keeps_purgeSlot _ _)
  unfold takeRead
  dsimp only
  split
  · rename_i h
    split at h
    · exact h0.trans (keeps_returnEntry _ _ _ _ h)
    · cases h
  · simp only [Keeps.mk_iff]
    exact h0

theorem keeps_takeTimeout (s : State) (k : Nat) : Keeps s (takeTimeout s k) := by
  unfold takeTimeout
  try dsimp only
  with_reducible repeat' first
    | apply Keeps.ite
    | apply Keeps.trans ?_ (keeps_cinc _ _)
    | simp only [Keeps.mk_iff]
    | split
    | apply Keeps.refl

theorem keeps_slotServe (s : State) (k : Nat) (q : Nat) (e : QEv) (mig : Bool) : Keeps s (slotServe s k q e mig) := by
  unfold slotServe
  try dsimp only
  with_reducible repeat' first
    | apply Keeps.ite
    | apply Keeps.trans ?_ (keeps_purgeHead _ _)
    | apply Keeps.trans ?_ (keeps_setSlot _ _ _)
    | apply Keeps.trans ?_ (keeps_cinc _ _)
    | simp only [Keeps.mk_iff]
    | apply Keeps.refl

theorem keeps_slotFill (s : State) (k : Nat) : Keeps s (slotFill s k) := by
  unfold slotFill
  try dsimp only
  with_reducible repeat' first
    | apply Keeps.ite
    | apply Keeps.trans ?_ (keeps_purgeAll _)
    | apply Keeps.trans ?_ (keeps_slotServe _ _ _ _ _)
    | apply Keeps.trans ?_ (keeps_purgeSlot _ _)
    | apply Keeps.trans ?_ (keeps_returnEntry _ _ _ _ ‹_›)
    | split
    | apply Keeps.refl

theorem keeps_doneWrite (s : State) (k : Nat) : Keeps s (doneWrite s k) := by
  unfold doneWrite
  try dsimp only
  with_reducible repeat' first
    | apply Keeps.ite
    | apply Keeps.trans ?_ (keeps_completeTaken _ _)
    | apply Keeps.trans ?_ (keeps_wign _ _)
    | apply Keeps.refl

theorem keeps_requeue (s : State) (e : QEv) : Keeps s (requeue s e) := by
  unfold requeue
  try dsimp only
  with_reducible repeat' first
    | simp only [Keeps.mk_iff]
    | apply Keeps.refl

theorem keeps_withdraw (s : State) (k : Nat) : Keeps s (withdraw s k) := by
  unfold withdraw
  try dsimp only
  with_reducible repeat' first
    | apply Keeps.ite
    | apply Keeps.foldl
    | apply Keeps.trans ?_ (keeps_setSlot _ _ _)
    | apply Keeps.trans ?_ (keeps_requeue _ _)
    | apply Keeps.trans ?_ (keeps_cinc _ _)
    | apply Keeps.trans ?_ (keeps_completeTaken _ _)
    | simp only [Keeps.mk_iff]
    | intro _
    | apply Keeps.refl

theorem keeps_bndReset (s : State) : Keeps s (bndReset s) := by
  unfold bndReset
  try dsimp only
  with_reducible repeat' first
    | apply Keeps.trans ?_ (keeps_cadd _ _ _)
    | simp only [Keeps.mk_iff]
    | apply Keeps.refl

end Sys2Proof.Machine
end

