-- ==== Sys2Proof/Laws/KeepParterre.lean ====
section
/-! SUPPORT. What the operations of Machine/Parterre.lean keep: the queue, memory's canonical form and the fuses. -/

set_option Elab.async false

namespace Sys2Proof.Machine

theorem keeps_setTx (s : State) (n : Nat) (t : TxSlot) : Keeps s (setTx s n t) := by
  unfold setTx
  try dsimp only
  with_reducible repeat' first
    | simp only [Keeps.mk_iff]
    | apply Keeps.refl

theorem keeps_closeTx (s : State) (n : Nat) (last : Nat) : Keeps s (closeTx s n last) := by
  unfold closeTx
  try dsimp only
  with_reducible repeat' first
    | apply Keeps.trans ?_ (keeps_setTx _ _ _)
    | apply Keeps.refl

theorem keeps_failTx (s : State) (n : Nat) (err : Option Nat) : Keeps s (failTx s n err) := by
  unfold failTx
  try dsimp only
  with_reducible repeat' first
    | apply Keeps.trans ?_ (keeps_setTx _ _ _)
    | apply Keeps.trans ?_ (keeps_cinc _ _)
    | apply Keeps.trans ?_ (keeps_closeTx _ _ _)
    | split
    | apply Keeps.refl

end Sys2Proof.Machine
end

