-- ==== Sys2Proof/Laws/KeepSundial.lean ====
section
/-! SUPPORT. What the operations of Machine/Sundial.lean keep: the queue, memory's canonical form and the fuses. -/

set_option Elab.async false

namespace Sys2Proof.Machine

theorem keeps_drivePin (s : State) (pin : Nat) (v : Bool) : Keeps s (drivePin s pin v) := by
  unfold drivePin
  try dsimp only
  with_reducible repeat' first
    | apply Keeps.ite
    | simp only [Keeps.mk_iff]
    | apply Keeps.refl

theorem keeps_publishTo (s : State) (c : Nat) : Keeps s (publishTo s c) := by
  unfold publishTo
  try dsimp only
  with_reducible repeat' first
    | simp only [Keeps.mk_iff]
    | apply Keeps.refl

theorem keeps_publish (s : State) : Keeps s (publish s) := by
  unfold publish
  try dsimp only
  with_reducible repeat' first
    | apply Keeps.trans ?_ (keeps_publishTo _ _)
    | apply Keeps.refl

theorem keeps_trackRecord (s : State) (old : TrackState) : Keeps s (trackRecord s old) := by
  unfold trackRecord
  try dsimp only
  with_reducible repeat' first
    | apply Keeps.ite
    | apply Keeps.trans ?_ (keeps_record _ _ _ _)
    | apply Keeps.refl

theorem keeps_setAlarm (s : State) (k : Nat) (a : Alarm) : Keeps s (setAlarm s k a) := by
  unfold setAlarm
  try dsimp only
  with_reducible repeat' first
    | simp only [Keeps.mk_iff]
    | apply Keeps.refl

theorem keeps_abortAlarm (s : State) (k : Nat) : Keeps s (abortAlarm s k) := by
  unfold abortAlarm
  try dsimp only
  with_reducible repeat' first
    | apply Keeps.trans ?_ (keeps_cinc _ _)
    | apply Keeps.trans ?_ (keeps_setAlarm _ _ _)
    | apply Keeps.refl

theorem keeps_abortAll (s : State) : Keeps s (abortAll s) := by
  unfold abortAll
  try dsimp only
  with_reducible repeat' first
    | apply Keeps.foldl
    | apply Keeps.trans ?_ (keeps_abortAlarm _ _)
    | intro _
    | apply Keeps.refl

theorem keeps_ownPulses (s : State) (k : Nat) (pin : Nat) (old : Nat) : Keeps s (ownPulses s k pin old) := by
  unfold ownPulses
  try dsimp only
  with_reducible repeat' first
    | simp only [Keeps.mk_iff]
    | apply Keeps.refl

theorem keeps_alarmDout (s : State) (k : Nat) (a : Alarm) : Keeps s (alarmDout s k a) := by
  unfold alarmDout
  try dsimp only
  with_reducible repeat' first
    | apply Keeps.ite
    | apply Keeps.trans ?_ (keeps_cinc _ _)
    | apply Keeps.trans ?_ (keeps_ownPulses _ _ _ _)
    | apply Keeps.trans ?_ (keeps_drivePin _ _ _)
    | simp only [Keeps.mk_iff]
    | apply Keeps.refl

theorem keeps_fireAlarm (s : State) (k : Nat) : Keeps s (fireAlarm s k) := by
  unfold fireAlarm
  try dsimp only
  with_reducible repeat' first
    | apply Keeps.trans ?_ (keeps_setAlarm _ _ _)
    | apply Keeps.trans ?_ (keeps_alarmDout _ _ _)
    | apply Keeps.trans ?_ (keeps_alarmPost _ _ _)
    | split
    | apply Keeps.refl

theorem keeps_repredict (s : State) (k : Nat) : Keeps s (repredict s k) := by
  unfold repredict
  try dsimp only
  with_reducible repeat' first
    | apply Keeps.ite
    | apply Keeps.trans ?_ (keeps_setAlarm _ _ _)
    | apply Keeps.trans ?_ (keeps_cinc _ _)
    | apply Keeps.trans ?_ (keeps_fireAlarm _ _)
    | apply Keeps.refl

theorem keeps_alarmsHold (s : State) : Keeps s (alarmsHold s) := by
  unfold alarmsHold
  try dsimp only
  with_reducible repeat' first
    | apply Keeps.ite
    | apply Keeps.foldl
    | apply Keeps.trans ?_ (keeps_setAlarm _ _ _)
    | apply Keeps.trans ?_ (keeps_abortAlarm _ _)
    | intro _
    | apply Keeps.refl

theorem keeps_enterAcquire (s : State) : Keeps s (enterAcquire s) := by
  unfold enterAcquire
  try dsimp only
  with_reducible repeat' first
    | apply Keeps.trans ?_ (keeps_publish _)
    | apply Keeps.trans ?_ (keeps_abortAll _)
    | apply Keeps.trans ?_ (keeps_trackRecord _ _)
    | simp only [Keeps.mk_iff]
    | apply Keeps.refl

theorem keeps_trackerAfresh (s : State) : Keeps s (trackerAfresh s) := by
  unfold trackerAfresh
  try dsimp only
  with_reducible repeat' first
    | apply Keeps.trans ?_ (keeps_enterAcquire _)
    | simp only [Keeps.mk_iff]
    | apply Keeps.refl

theorem keeps_trackerOff (s : State) : Keeps s (trackerOff s) := by
  unfold trackerOff
  try dsimp only
  with_reducible repeat' first
    | apply Keeps.trans ?_ (keeps_publish _)
    | apply Keeps.trans ?_ (keeps_abortAll _)
    | apply Keeps.trans ?_ (keeps_trackRecord _ _)
    | simp only [Keeps.mk_iff]
    | apply Keeps.refl

theorem keeps_acquireUpdate (s : State) (u : RefUpdate) : Keeps s (acquireUpdate s u) := by
  unfold acquireUpdate
  try dsimp only
  with_reducible repeat' first
    | apply Keeps.ite
    | apply Keeps.trans ?_ (keeps_cinc _ _)
    | simp only [Keeps.mk_iff]
    | apply Keeps.refl

theorem keeps_trackerEdge (s : State) : Keeps s (trackerEdge s) := by
  unfold trackerEdge
  try dsimp only
  with_reducible repeat' first
    | apply Keeps.ite
    | apply Keeps.foldl
    | apply Keeps.trans ?_ (keeps_publishTo _ _)
    | apply Keeps.trans ?_ (keeps_acquireUpdate _ _)
    | apply Keeps.trans ?_ (keeps_enterAcquire _)
    | apply Keeps.trans ?_ (keeps_trackRecord _ _)
    | apply Keeps.trans ?_ (keeps_cadd _ _ _)
    | apply Keeps.trans ?_ (keeps_alarmsHold _)
    | apply Keeps.trans ?_ (keeps_cinc _ _)
    | simp only [Keeps.mk_iff]
    | intro _
    | split
    | apply Keeps.refl

theorem keeps_alarmsEdge (s : State) : Keeps s (alarmsEdge s) := by
  unfold alarmsEdge
  try dsimp only
  with_reducible repeat' first
    | apply Keeps.ite
    | apply Keeps.foldl
    | apply Keeps.trans ?_ (keeps_repredict _ _)
    | intro _
    | apply Keeps.refl

theorem keeps_trackerReceive (s : State) (u : RefUpdate) : Keeps s (trackerReceive s u) := by
  unfold trackerReceive
  try dsimp only
  with_reducible repeat' first
    | apply Keeps.ite
    | simp only [Keeps.mk_iff]
    | apply Keeps.refl

theorem keeps_armAlarm (s : State) (k : Nat) (a : Alarm) (pav : Option Nat) : KeepsFst s (armAlarm s k a pav) := by
  unfold armAlarm
  try dsimp only
  with_reducible repeat' first
    | apply KeepsFst.ite
    | apply Keeps.trans ?_ (keeps_setAlarm _ _ _)
    | simp only [KeepsFst.pair_iff]
    | apply Keeps.refl

theorem keeps_cancelAlarm (s : State) (k : Nat) (pav : Option Nat) : KeepsFst s (cancelAlarm s k pav) := by
  unfold cancelAlarm
  try dsimp only
  with_reducible repeat' first
    | apply KeepsFst.ite
    | apply Keeps.trans ?_ (keeps_setAlarm _ _ _)
    | simp only [KeepsFst.pair_iff]
    | split
    | apply Keeps.refl

theorem keeps_alarmPulseEnd (s : State) (k : Nat) : Keeps s (alarmPulseEnd s k) := by
  unfold alarmPulseEnd
  try dsimp only
  with_reducible repeat' first
    | apply Keeps.ite
    | apply Keeps.trans ?_ (keeps_drivePin _ _ _)
    | simp only [Keeps.mk_iff]
    | split
    | apply Keeps.refl

theorem keeps_adjTake (s : State) : Keeps s (adjTake s) := by
  unfold adjTake
  try dsimp only
  with_reducible repeat' first
    | apply Keeps.ite
    | apply Keeps.trans ?_ (keeps_mbxEnd _ _ _)
    | apply Keeps.trans ?_ (keeps_record _ _ _ _)
    | apply Keeps.trans ?_ (keeps_cinc _ _)
    | simp only [Keeps.mk_iff]
    | split
    | apply Keeps.refl

theorem keeps_adjApply (s : State) : Keeps s (adjApply s) := by
  unfold adjApply
  try dsimp only
  with_reducible repeat' first
    | apply Keeps.ite
    | apply Keeps.trans ?_ (keeps_mbxEnd _ _ _)
    | apply Keeps.trans ?_ (keeps_record _ _ _ _)
    | apply Keeps.trans ?_ (keeps_cinc _ _)
    | apply Keeps.trans ?_ (keeps_publishTo _ _)
    | simp only [Keeps.mk_iff]
    | split
    | apply Keeps.refl

theorem keeps_genStart (s : State) : Keeps s (genStart s) := by
  unfold genStart
  try dsimp only
  with_reducible repeat' first
    | simp only [Keeps.mk_iff]
    | apply Keeps.refl

theorem keeps_genStop (s : State) : Keeps s (genStop s) := by
  unfold genStop
  try dsimp only
  with_reducible repeat' first
    | apply Keeps.trans ?_ (keeps_record _ _ _ _)
    | simp only [Keeps.mk_iff]
    | apply Keeps.refl

theorem keeps_genFollow (s : State) : Keeps s (genFollow s) := by
  unfold genFollow
  try dsimp only
  with_reducible repeat' first
    | apply Keeps.ite
    | apply Keeps.trans ?_ (keeps_genStart _)
    | apply Keeps.trans ?_ (keeps_genStop _)
    | apply Keeps.refl

theorem keeps_pinsFollow (s : State) : Keeps s (pinsFollow s) := by
  unfold pinsFollow
  try dsimp only
  with_reducible repeat' first
    | simp only [Keeps.mk_iff]
    | apply Keeps.refl

theorem keeps_renumberSlots (s : State) (old : Nat) (new : Nat) : Keeps s (renumberSlots s old new) := by
  unfold renumberSlots
  try dsimp only
  with_reducible repeat' first
    | apply Keeps.ite
    | apply Keeps.foldl
    | apply Keeps.trans ?_ (keeps_setTx _ _ _)
    | intro _
    | split
    | apply Keeps.refl

theorem keeps_renumberSyncs (s : State) (old : Nat) (new : Nat) : Keeps s (renumberSyncs s old new) := by
  unfold renumberSyncs
  try dsimp only
  with_reducible repeat' first
    | simp only [Keeps.mk_iff]
    | apply Keeps.refl

theorem keeps_failLaterSlots (s : State) (n : Nat) : KeepsFst s (failLaterSlots s n) := by
  unfold failLaterSlots
  try dsimp only
  with_reducible repeat' first
    | apply KeepsFst.ite
    | apply KeepsFst.foldl
    | apply Keeps.trans ?_ (keeps_failTx _ _ _)
    | simp only [KeepsFst.pair_iff]
    | intro _
    | split
    | apply Keeps.refl
    | apply KeepsFst.self

theorem keeps_baseRateChange (s : State) : Keeps s (baseRateChange s) := by
  unfold baseRateChange
  try dsimp only
  with_reducible repeat' first
    | apply Keeps.ite
    | apply Keeps.trans ?_ (keeps_failLaterSlots _ _).fst
    | apply Keeps.trans ?_ (keeps_renumberSyncs _ _ _)
    | apply Keeps.trans ?_ (keeps_renumberSlots _ _ _)
    | apply Keeps.trans ?_ (keeps_record _ _ _ _)
    | simp only [Keeps.mk_iff]
    | apply Keeps.refl

theorem keeps_sundialEdge (s : State) : Keeps s (sundialEdge s) := by
  unfold sundialEdge
  try dsimp only
  with_reducible repeat' first
    | apply Keeps.ite
    | apply Keeps.trans ?_ (keeps_baseRateChange _)
    | apply Keeps.trans ?_ (keeps_record _ _ _ _)
    | apply Keeps.trans ?_ (keeps_alarmsEdge _)
    | apply Keeps.trans ?_ (keeps_trackerEdge _)
    | simp only [Keeps.mk_iff]
    | apply Keeps.refl

theorem keeps_storeStamp (s : State) (m : Nat) (tag : Nat) (ns : Nat) (dropped : Bool) : Keeps s (storeStamp s m tag ns dropped) := by
  unfold storeStamp
  try dsimp only
  with_reducible repeat' first
    | apply Keeps.ite
    | apply Keeps.trans ?_ (keeps_cinc _ _)
    | simp only [Keeps.mk_iff]
    | apply Keeps.refl

theorem keeps_sdlMbx (r : SdlReg) (a : Nat) (i : Nat) (s : State) : Keeps s (sdlMbx r a i s) := by
  unfold sdlMbx
  try dsimp only
  with_reducible repeat' first
    | apply Keeps.ite
    | apply Keeps.trans ?_ (keeps_mbxEnd _ _ _)
    | apply Keeps.trans ?_ (keeps_mbxAnswer _ _ _ _)
    | apply Keeps.trans ?_ (keeps_adjTake _)
    | apply Keeps.trans ?_ (keeps_armAlarm _ _ _ _).fst
    | apply Keeps.trans ?_ (keeps_cancelAlarm _ _ _).fst
    | simp only [Keeps.mk_iff]
    | split
    | apply Keeps.refl

theorem keeps_sdlChanged (r : SdlReg) (old : State) (s : State) : Keeps s (sdlChanged r old s) := by
  unfold sdlChanged
  try dsimp only
  with_reducible repeat' first
    | apply Keeps.ite
    | apply Keeps.trans ?_ (keeps_pinsFollow _)
    | apply Keeps.trans ?_ (keeps_genFollow _)
    | apply Keeps.trans ?_ (keeps_trackerAfresh _)
    | simp only [Keeps.mk_iff]
    | split
    | apply Keeps.refl

theorem keeps_sdlEnable (p : Nat) (on : Bool) (s : State) : Keeps s (sdlEnable p on s) := by
  unfold sdlEnable
  try dsimp only
  with_reducible repeat' first
    | apply Keeps.ite
    | apply Keeps.trans ?_ (keeps_pinsFollow _)
    | apply Keeps.trans ?_ (keeps_genFollow _)
    | apply Keeps.trans ?_ (keeps_trackerOff _)
    | apply Keeps.trans ?_ (keeps_abortAll _)
    | simp only [Keeps.mk_iff]
    | split
    | apply Keeps.refl

theorem keeps_sdlSrst (p : Nat) (s : State) : Keeps s (sdlSrst p s) := by
  unfold sdlSrst
  try dsimp only
  with_reducible repeat' first
    | apply Keeps.ite
    | apply Keeps.trans ?_ (keeps_mbxEnd _ _ _)
    | apply Keeps.trans ?_ (keeps_trackerAfresh _)
    | simp only [Keeps.mk_iff]
    | split
    | apply Keeps.refl

end Sys2Proof.Machine
end

