-- ==== Sys2Proof/Laws/KeepMemory.lean ====
section
/-! SUPPORT. What the operations of Machine/Memory.lean keep: the queue, memory's canonical form and the fuses. -/

set_option Elab.async false

namespace Sys2Proof.Machine

/-- A read that answers bytes changes no state. -/
theorem physRead_some (s : State) (mid a n : Nat) : (physRead s mid a n).2.isSome = true → (physRead s mid a n).1 = s := by
  unfold physRead
  split
  · intro h
    cases h
  · split
    · intro h
      cases h
    · intro _
      rfl

theorem keeps_decErr (s : State) (mid : Nat) : Keeps s (decErr s mid) := by
  unfold decErr
  try dsimp only
  with_reducible repeat' first
    | apply Keeps.ite
    | apply Keeps.trans ?_ (keeps_cinc _ _)
    | simp only [Keeps.mk_iff]
    | apply Keeps.refl

theorem keeps_noteUE (s : State) (line : Nat) (mid : Nat) (scrub : Bool) : Keeps s (noteUE s line mid scrub) := by
  unfold noteUE
  try dsimp only
  with_reducible repeat' first
    | apply Keeps.ite
    | apply Keeps.trans ?_ (keeps_cinc _ _)
    | apply Keeps.trans ?_ (keeps_raiseFault _ _ _)
    | apply Keeps.trans ?_ (keeps_drew _)
    | simp only [Keeps.mk_iff]
    | apply Keeps.refl

theorem keeps_physRead (s : State) (mid : Nat) (a : Nat) (n : Nat) : KeepsFst s (physRead s mid a n) := by
  unfold physRead
  try dsimp only
  with_reducible repeat' first
    | apply KeepsFst.ite
    | apply Keeps.trans ?_ (keeps_decErr _ _)
    | apply Keeps.trans ?_ (keeps_noteUE _ _ _ _)
    | simp only [KeepsFst.pair_iff]
    | split
    | apply Keeps.refl

theorem keeps_writeLines (s : State) (a : Nat) (bs : List Nat) : Keeps s (writeLines s a bs) := by
  unfold writeLines
  try dsimp only
  with_reducible repeat' first
    | apply Keeps.ite
    | apply Keeps.foldl
    | apply Keeps.trans ?_ (keeps_cadd _ _ _)
    | apply Keeps.trans ?_ (keeps_wr8 _ _ _)
    | simp only [Keeps.mk_iff]
    | intro _
    | apply Keeps.refl

theorem keeps_physWrite (s : State) (mid : Nat) (a : Nat) (bs : List Nat) : KeepsFst s (physWrite s mid a bs) := by
  unfold physWrite
  try dsimp only
  with_reducible repeat' first
    | apply KeepsFst.ite
    | apply Keeps.trans ?_ (keeps_decErr _ _)
    | apply Keeps.trans ?_ (keeps_wrBytes _ _ _)
    | apply Keeps.trans ?_ (keeps_writeLines _ _ _)
    | simp only [KeepsFst.pair_iff]
    | apply Keeps.refl

theorem keeps_physPut (s : State) (mid : Nat) (a : Nat) (bs : List Nat) : Keeps s (physPut s mid a bs) := by
  unfold physPut
  try dsimp only
  with_reducible repeat' first
    | apply Keeps.trans ?_ (keeps_physWrite _ _ _ _).fst
    | apply Keeps.refl

theorem keeps_setPav (s : State) (p : Nat) (v : Pav) : Keeps s (setPav s p v) := by
  unfold setPav
  try dsimp only
  with_reducible repeat' first
    | simp only [Keeps.mk_iff]
    | apply Keeps.refl

theorem keeps_notifyPair (id : Nat) (s : State) (k : Nat) : Keeps s (notifyPair id s k) := by
  unfold notifyPair
  try dsimp only
  with_reducible repeat' first
    | simp only [Keeps.mk_iff]
    | apply Keeps.refl

theorem keeps_migEnd (s : State) (p : Nat) (code : Nat) : Keeps s (migEnd s p code) := by
  unfold migEnd
  try dsimp only
  with_reducible repeat' first
    | apply Keeps.trans ?_ (keeps_mbxEndIfBusy _ _ _)
    | apply Keeps.trans ?_ (keeps_setPav _ _ _)
    | apply Keeps.refl

theorem keeps_pavReset (s : State) (p : Nat) : Keeps s (pavReset s p) := by
  unfold pavReset
  try dsimp only
  with_reducible repeat' first
    | apply Keeps.ite
    | apply Keeps.foldl
    | apply Keeps.trans ?_ (keeps_migEnd _ _ _)
    | apply Keeps.trans ?_ (keeps_setPav _ _ _)
    | apply Keeps.trans ?_ (keeps_cinc _ _)
    | apply Keeps.trans ?_ (keeps_notifyPair _ _ _)
    | intro _
    | apply Keeps.refl

theorem keeps_askReset (s : State) (p : Nat) : Keeps s (askReset s p) := by
  unfold askReset
  try dsimp only
  with_reducible repeat' first
    | apply Keeps.ite
    | apply Keeps.trans ?_ (keeps_setPav _ _ _)
    | apply Keeps.trans ?_ (keeps_pavReset _ _)
    | apply Keeps.refl

theorem keeps_pavError (s : State) (p : Nat) (kind : Nat) (mid : Nat) (addr : Nat) : Keeps s (pavError s p kind mid addr) := by
  unfold pavError
  try dsimp only
  with_reducible repeat' first
    | apply Keeps.ite
    | apply Keeps.trans ?_ (keeps_setPav _ _ _)
    | apply Keeps.trans ?_ (keeps_cinc _ _)
    | apply Keeps.trans ?_ (keeps_askReset _ _)
    | apply Keeps.refl

theorem keeps_refuseFor (s : State) (p : Nat) (mid : Nat) (a : Nat) (x4 : Verdict) : Keeps s (refuseFor s p mid a x4) := by
  unfold refuseFor
  try dsimp only
  with_reducible repeat' first
    | apply Keeps.trans ?_ (keeps_cinc _ _)
    | apply Keeps.trans ?_ (keeps_pavError _ _ _ _ _)
    | split
    | apply Keeps.refl

theorem keeps_readPieces (mid : Nat) (x1 : List (Nat × Nat)) (x2 : State) : KeepsFst x2 (readPieces mid x1 x2) := by
  induction x1 generalizing x2 with
  | nil => exact KeepsFst.self (x2, some ([] : List Nat))
  | cons e ps ih =>
    unfold readPieces
    refine KeepsFst.onOpt (keeps_physRead _ _ _ _) (fun t => ⟨Keeps.refl t⟩) fun t b => ?_
    exact KeepsFst.onOpt (ih t) (fun u => ⟨Keeps.refl u⟩) fun u c => ⟨Keeps.refl u⟩

theorem keeps_writePieces (mid : Nat) (x1 : List (Nat × Nat)) (x2 : List Nat) (x3 : State) : KeepsFst x3 (writePieces mid x1 x2 x3) := by
  induction x1 generalizing x2 x3 with
  | nil => exact ⟨Keeps.refl _⟩
  | cons e ps ih =>
    unfold writePieces
    exact KeepsFst.onOk (keeps_physWrite _ _ _ _) (fun t => ⟨Keeps.refl t⟩) fun t => ih _ t

theorem keeps_engRead (s : State) (p : Nat) (mid : Nat) (a : Nat) (n : Nat) : KeepsFst s (engRead s p mid a n) := by
  unfold engRead
  try dsimp only
  with_reducible repeat' first
    | apply KeepsFst.trans ?_ (keeps_readPieces _ _ _)
    | apply Keeps.trans ?_ (keeps_refuseFor _ _ _ _ _)
    | simp only [KeepsFst.pair_iff]
    | split
    | apply Keeps.refl

theorem keeps_engWrite (s : State) (p : Nat) (mid : Nat) (a : Nat) (bs : List Nat) : KeepsFst s (engWrite s p mid a bs) := by
  unfold engWrite
  try dsimp only
  with_reducible repeat' first
    | apply KeepsFst.trans ?_ (keeps_writePieces _ _ _ _)
    | apply Keeps.trans ?_ (keeps_refuseFor _ _ _ _ _)
    | simp only [KeepsFst.pair_iff]
    | split
    | apply Keeps.refl

theorem keeps_shareExhausted (s : State) (p : Nat) : Keeps s (shareExhausted s p) := by
  unfold shareExhausted
  try dsimp only
  with_reducible repeat' first
    | apply Keeps.ite
    | apply Keeps.foldl
    | apply Keeps.trans ?_ (keeps_cinc _ _)
    | apply Keeps.trans ?_ (keeps_setPav _ _ _)
    | apply Keeps.trans ?_ (keeps_notifyPair _ _ _)
    | intro _
    | apply Keeps.refl

theorem keeps_wdtExpire (s : State) (p : Nat) : Keeps s (wdtExpire s p) := by
  unfold wdtExpire
  try dsimp only
  with_reducible repeat' first
    | apply Keeps.ite
    | apply Keeps.trans ?_ (keeps_pavError _ _ _ _ _)
    | apply Keeps.trans ?_ (keeps_setPav _ _ _)
    | apply Keeps.refl

theorem keeps_wdtRestart (s : State) (p : Nat) : Keeps s (wdtRestart s p) := by
  unfold wdtRestart
  try dsimp only
  with_reducible repeat' first
    | apply Keeps.trans ?_ (keeps_setPav _ _ _)
    | apply Keeps.refl

theorem keeps_pavResetDone (s : State) (p : Nat) : Keeps s (pavResetDone s p) := by
  unfold pavResetDone
  try dsimp only
  with_reducible repeat' first
    | apply Keeps.ite
    | apply Keeps.trans ?_ (keeps_setPav _ _ _)
    | apply Keeps.refl

theorem keeps_wdtTouch (s : State) (p : Nat) (due : Bool) : Keeps s (wdtTouch s p due) := by
  unfold wdtTouch
  try dsimp only
  with_reducible repeat' first
    | apply Keeps.ite
    | apply Keeps.trans ?_ (keeps_wdtRestart _ _)
    | apply Keeps.trans ?_ (keeps_pavError _ _ _ _ _)
    | apply Keeps.refl

theorem keeps_pavChanged (r : PavReg) (p : Nat) (old : State) (s : State) : Keeps s (pavChanged r p old s) := by
  unfold pavChanged
  try dsimp only
  with_reducible repeat' first
    | apply Keeps.trans ?_ (keeps_wdtTouch _ _ _)
    | split
    | apply Keeps.refl

theorem keeps_pavWsc (r : PavReg) (p : Nat) (v : Nat) (s : State) : Keeps s (pavWsc r p v s) := by
  unfold pavWsc
  try dsimp only
  with_reducible repeat' first
    | apply Keeps.ite
    | apply Keeps.trans ?_ (keeps_pavReset _ _)
    | apply Keeps.trans ?_ (keeps_wdtTouch _ _ _)
    | split
    | apply Keeps.refl

theorem keeps_bndEnable (p : Nat) (on : Bool) (s : State) : Keeps s (bndEnable p on s) := by
  unfold bndEnable
  try dsimp only
  with_reducible repeat' first
    | apply Keeps.ite
    | apply Keeps.trans ?_ (keeps_withdraw _ _)
    | apply Keeps.refl

theorem keeps_bndSrst (p : Nat) (s : State) : Keeps s (bndSrst p s) := by
  unfold bndSrst
  try dsimp only
  with_reducible repeat' first
    | apply Keeps.ite
    | apply Keeps.trans ?_ (keeps_bndReset _)
    | apply Keeps.trans ?_ (keeps_withdraw _ _)
    | apply Keeps.refl

end Sys2Proof.Machine
end

