-- ==== Sys2Proof/Laws/KeepBatch.lean ====
section
/-! SUPPORT. What the operations of Machine/Batch.lean keep: the queue, memory's canonical form and the fuses. -/

set_option Elab.async false

namespace Sys2Proof.Machine

theorem keeps_batchInsert (s : State) (x : BatchEv) : Keeps s (batchInsert s x) := by
  unfold batchInsert
  try dsimp only
  with_reducible repeat' first
    | simp only [Keeps.mk_iff]
    | apply Keeps.refl

theorem keeps_batchOwn (s : State) (x : BatchEv) : KeepsFst s (batchOwn s x) := by
  unfold batchOwn
  try dsimp only
  with_reducible repeat' first
    | apply KeepsFst.ite
    | apply Keeps.trans ?_ (keeps_cinc _ _)
    | apply Keeps.trans ?_ (keeps_batchInsert _ _)
    | apply Keeps.trans ?_ (keeps_ftbSend _ _ _)
    | simp only [KeepsFst.pair_iff]
    | apply Keeps.refl

theorem keeps_batchPost (s : State) (e : Ev) : KeepsFst s (batchPost s e) := by
  unfold batchPost
  try dsimp only
  with_reducible repeat' first
    | apply KeepsFst.ite
    | apply KeepsFst.trans ?_ (keeps_batchOwn _ _)
    | apply KeepsFst.trans ?_ (keeps_bndPost _ _)
    | apply Keeps.refl

theorem keeps_batchOrHold (s : State) (h : Holder) (unit : Nat) (e : Ev) : Keeps s (batchOrHold s h unit e) := by
  unfold batchOrHold
  try dsimp only
  with_reducible repeat' first
    | apply keeps_onPosted
    | apply Keeps.trans ?_ (keeps_setHeld _ _ _ _)
    | apply KeepsFst.trans ?_ (keeps_batchPost _ _)
    | intro _
    | split
    | apply Keeps.refl

theorem keeps_batchRetry (s : State) (h : Holder) (unit : Nat) : Keeps s (batchRetry s h unit) := by
  unfold batchRetry
  try dsimp only
  with_reducible repeat' first
    | apply keeps_onPosted
    | apply KeepsFst.trans ?_ (keeps_batchPost _ _)
    | apply Keeps.trans ?_ (keeps_setHeld _ _ _ _)
    | intro _
    | split
    | apply Keeps.refl

theorem keeps_setSub (s : State) (n : Nat) (x : GsbSub) : Keeps s (setSub s n x) := by
  unfold setSub
  try dsimp only
  with_reducible repeat' first
    | simp only [Keeps.mk_iff]
    | apply Keeps.refl

theorem keeps_subWrite (s : State) (x : GsbSub) (stNum : Nat) (entry : List Nat) : KeepsFst s (subWrite s x stNum entry) := by
  unfold subWrite
  try dsimp only
  with_reducible repeat' first
    | apply KeepsFst.onOk
    | apply Keeps.trans ?_ (keeps_cinc _ _)
    | apply KeepsFst.trans ?_ (keeps_engWrite _ _ _ _ _)
    | simp only [KeepsFst.pair_iff]
    | intro _
    | apply Keeps.refl

theorem keeps_subBack (s : State) (n : Nat) (stNum : Nat) (prev : Option GsbSub) : Keeps s (subBack s n stNum prev) := by
  unfold subBack
  try dsimp only
  with_reducible repeat' first
    | apply Keeps.ite
    | apply Keeps.trans ?_ (keeps_setSub _ _ _)
    | split
    | apply Keeps.refl

theorem keeps_batchEntry (s : State) (x : BatchEv) : KeepsFst s (batchEntry s x) := by
  unfold batchEntry
  try dsimp only
  with_reducible repeat' first
    | apply KeepsFst.ite
    | apply KeepsFst.onOk
    | apply KeepsFst.trans ?_ (keeps_subWrite _ _ _ _)
    | apply Keeps.trans ?_ (keeps_subBack _ _ _ _)
    | simp only [KeepsFst.pair_iff]
    | intro _
    | split
    | apply Keeps.refl

theorem keeps_batchAdmit (s : State) (x : BatchEv) : Keeps s (batchAdmit s x) := by
  unfold batchAdmit
  try dsimp only
  with_reducible repeat' first
    | apply Keeps.ite
    | apply Keeps.onOk
    | apply Keeps.trans ?_ (keeps_cinc _ _)
    | apply KeepsFst.trans ?_ (keeps_batchEntry _ _)
    | apply Keeps.trans ?_ (keeps_bndAdmit _ _ _)
    | simp only [Keeps.mk_iff]
    | intro _
    | apply Keeps.refl

theorem keeps_batchStep (s : State) : Keeps s (batchStep s) := by
  unfold batchStep
  try dsimp only
  with_reducible repeat' first
    | apply Keeps.ite
    | apply Keeps.trans ?_ (keeps_batchAdmit _ _)
    | simp only [Keeps.mk_iff]
    | split
    | apply Keeps.refl

theorem keeps_batchCut (s : State) : Keeps s (batchCut s) := by
  unfold batchCut
  try dsimp only
  with_reducible repeat' first
    | apply Keeps.trans ?_ (keeps_batchStep _)
    | simp only [Keeps.mk_iff]
    | split
    | apply Keeps.refl

theorem keeps_countPost (s : State) (p : Nat) (n : Nat) : Keeps s (countPost s p n) := by
  unfold countPost
  try dsimp only
  with_reducible repeat' first
    | simp only [Keeps.mk_iff]
    | apply Keeps.refl

theorem keeps_countTaken (p : Nat) (n : Nat) (x : State × PostResult) : KeepsFst x.1 (countTaken p n x) := by
  unfold countTaken
  try dsimp only
  with_reducible repeat' first
    | apply KeepsFst.ite
    | apply Keeps.trans ?_ (keeps_countPost _ _ _)
    | simp only [KeepsFst.pair_iff]
    | apply Keeps.refl
    | apply KeepsFst.self

theorem keeps_softPost (s : State) (pav : Option Nat) (e : Ev) : KeepsFst s (softPost s pav e) := by
  unfold softPost
  try dsimp only
  with_reducible repeat' first
    | apply KeepsFst.ite
    | apply KeepsFst.trans ?_ (keeps_bndPost _ _)
    | apply Keeps.trans ?_ (keeps_batchOwn _ _).fst
    | apply KeepsFst.trans ?_ (keeps_batchOwn _ _)
    | apply KeepsFst.trans ?_ (keeps_countTaken _ _ _)
    | split
    | apply Keeps.refl

theorem keeps_postWait (s : State) (a : Nat) : Keeps s (postWait s a) := by
  unfold postWait
  try dsimp only
  with_reducible repeat' first
    | simp only [Keeps.mk_iff]
    | apply Keeps.refl

theorem keeps_pavPost (s : State) (a : Nat) (p : Nat) : Keeps s (pavPost s a p) := by
  unfold pavPost
  try dsimp only
  with_reducible repeat' first
    | apply Keeps.ite
    | apply Keeps.onPair
    | apply Keeps.trans ?_ (keeps_mbxEnd _ _ _)
    | apply Keeps.trans ?_ (keeps_cinc _ _)
    | apply KeepsFst.trans ?_ (keeps_softPost _ _ _)
    | apply Keeps.trans ?_ (keeps_postWait _ _)
    | intro _
    | apply Keeps.refl

theorem keeps_bndMbx (a : Nat) (s : State) : Keeps s (bndMbx a s) := by
  unfold bndMbx
  try dsimp only
  with_reducible repeat' first
    | apply Keeps.ite
    | apply Keeps.onPair
    | apply Keeps.trans ?_ (keeps_mbxEnd _ _ _)
    | apply Keeps.trans ?_ (keeps_cinc _ _)
    | apply KeepsFst.trans ?_ (keeps_softPost _ _ _)
    | apply Keeps.trans ?_ (keeps_postWait _ _)
    | intro _
    | apply Keeps.refl

theorem keeps_postWaits (s : State) : Keeps s (postWaits s) := by
  unfold postWaits
  try dsimp only
  with_reducible repeat' first
    | apply Keeps.ite
    | apply Keeps.foldl
    | apply Keeps.trans ?_ (keeps_bndMbx _ _)
    | apply Keeps.trans ?_ (keeps_pavPost _ _ _)
    | simp only [Keeps.mk_iff]
    | intro _
    | apply Keeps.refl

end Sys2Proof.Machine
end

