-- ==== Sys2Proof/Laws/KeepTrellis.lean ====
section
/-! SUPPORT. What the operations of Machine/Trellis.lean keep: the queue, memory's canonical form and the fuses. -/

set_option Elab.async false

namespace Sys2Proof.Machine

theorem keeps_fdbNote (s : State) (keys : List (Nat × Nat)) : Keeps s (fdbNote s keys) := by
  unfold fdbNote
  try dsimp only
  with_reducible repeat' first
    | simp only [Keeps.mk_iff]
    | apply Keeps.refl

theorem keeps_setFdb (s : State) (t : Tbl FdbEntry) : Keeps s (setFdb s t) := by
  unfold setFdb
  try dsimp only
  with_reducible repeat' first
    | simp only [Keeps.mk_iff]
    | apply Keeps.refl

theorem keeps_fdbLearn (s : State) (q : Nat) (f : Frame) : Keeps s (fdbLearn s q f) := by
  unfold fdbLearn
  try dsimp only
  with_reducible repeat' first
    | apply Keeps.ite
    | apply Keeps.trans ?_ (keeps_setFdb _ _)
    | apply Keeps.trans ?_ (keeps_cinc _ _)
    | split
    | apply Keeps.refl

theorem keeps_fdbMbx (a : Nat) (s : State) : Keeps s (fdbMbx a s) := by
  unfold fdbMbx
  try dsimp only
  with_reducible repeat' first
    | apply Keeps.trans ?_ (keeps_mbxEnd _ _ _)
    | apply Keeps.trans ?_ (keeps_fdbNote _ _)
    | apply Keeps.trans ?_ (keeps_setFdb _ _)
    | apply Keeps.trans ?_ (keeps_mbxAnswer _ _ _ _)
    | split
    | apply Keeps.refl

theorem keeps_fdbAge (s : State) (i : Nat) : Keeps s (fdbAge s i) := by
  unfold fdbAge
  try dsimp only
  with_reducible repeat' first
    | apply Keeps.ite
    | apply Keeps.trans ?_ (keeps_setFdb _ _)
    | split
    | apply Keeps.refl

theorem keeps_stampDrop (s : State) (m : Nat) (f : Frame) : Keeps s (stampDrop s m f) := by
  unfold stampDrop
  try dsimp only
  with_reducible repeat' first
    | apply Keeps.ite
    | apply Keeps.trans ?_ (keeps_storeStamp _ _ _ _ _)
    | apply Keeps.refl

theorem keeps_headArrive (s : State) (m : Nat) (f : Frame) : KeepsFst s (headArrive s m f) := by
  unfold headArrive
  try dsimp only
  with_reducible repeat' first
    | apply KeepsFst.ite
    | apply Keeps.trans ?_ (keeps_stampDrop _ _ _)
    | apply Keeps.trans ?_ (keeps_cinc _ _)
    | simp only [KeepsFst.pair_iff]
    | split
    | apply Keeps.refl

theorem keeps_settleList (m : Nat) (x1 : State) (x2 : List Frame) : KeepsFst x1 (settleList m x1 x2) := by
  induction x2 generalizing x1 with
  | nil => exact ⟨Keeps.refl _⟩
  | cons f l ih =>
    simp only [settleList]
    with_reducible apply KeepsFst.ite
    · exact ⟨Keeps.refl _⟩
    · with_reducible apply KeepsFst.onOpt
      · exact keeps_headArrive _ _ _
      · intro t
        exact ih t
      · intro t b
        exact ⟨Keeps.refl _⟩

theorem keeps_setOut (s : State) (k : Nat) (q : List Frame) : Keeps s (setOut s k q) := by
  unfold setOut
  try dsimp only
  with_reducible repeat' first
    | simp only [Keeps.mk_iff]
    | apply Keeps.refl

theorem keeps_setVoq (s : State) (k : Nat) (q : List Frame) : Keeps s (setVoq s k q) := by
  unfold setVoq
  try dsimp only
  with_reducible repeat' first
    | simp only [Keeps.mk_iff]
    | apply Keeps.refl

theorem keeps_settleHead (s : State) (o : Nat) (c : Nat) : Keeps s (settleHead s o c) := by
  unfold settleHead
  try dsimp only
  with_reducible repeat' first
    | apply Keeps.ite
    | apply Keeps.trans ?_ (keeps_settleList _ _ _).fst
    | apply Keeps.trans ?_ (keeps_setOut _ _ _)
    | apply Keeps.refl

theorem keeps_setStage (s : State) (k : Nat) (l : List Moving) : Keeps s (setStage s k l) := by
  unfold setStage
  try dsimp only
  with_reducible repeat' first
    | simp only [Keeps.mk_iff]
    | apply Keeps.refl

theorem keeps_enterStage (s : State) (k : Nat) (f : Frame) : Keeps s (enterStage s k f) := by
  unfold enterStage
  try dsimp only
  with_reducible repeat' first
    | apply Keeps.trans ?_ (keeps_setStage _ _ _)
    | apply Keeps.refl

theorem keeps_voqPump (x0 : Nat) (x1 : State) : Keeps x1 (voqPump x0 x1) := by
  induction x0 generalizing x1 with
  | zero => exact Keeps.refl _
  | succ n ih =>
    unfold voqPump
    split
    · exact Keeps.refl _
    · dsimp only
      split
      · exact Keeps.refl _
      · refine Keeps.trans ?_ (ih _)
        refine Keeps.trans ?_ (keeps_enterStage _ _ _)
        refine Keeps.trans ?_ (keeps_setVoq _ _ _)
        split
        · exact Keeps.refl _
        · exact keeps_drew _

theorem keeps_trlPump (s : State) : Keeps s (trlPump s) := by
  unfold trlPump
  try dsimp only
  with_reducible repeat' first
    | apply Keeps.ite
    | apply Keeps.trans ?_ (keeps_voqPump _ _)
    | apply Keeps.refl

theorem keeps_setReseq (s : State) (o : Nat) (q : Nat) (r : Reseq) : Keeps s (setReseq s o q r) := by
  unfold setReseq
  try dsimp only
  with_reducible repeat' first
    | simp only [Keeps.mk_iff]
    | apply Keeps.refl

theorem keeps_resequence (s : State) (q : Nat) (o : Nat) (unit : Option Nat) : Keeps s (resequence s q o unit) := by
  unfold resequence
  try dsimp only
  with_reducible repeat' first
    | apply Keeps.ite
    | apply Keeps.foldl
    | apply Keeps.trans ?_ (keeps_setReseq _ _ _ _)
    | apply Keeps.trans ?_ (keeps_trlPump _)
    | apply Keeps.trans ?_ (keeps_raiseFault _ _ _)
    | apply Keeps.trans ?_ (keeps_drew _)
    | apply Keeps.trans ?_ (keeps_cinc _ _)
    | apply Keeps.trans ?_ (keeps_stampDrop _ _ _)
    | simp only [Keeps.mk_iff]
    | intro _
    | apply Keeps.refl

theorem keeps_outQueue (s : State) (k : Nat) (f : Frame) : Keeps s (outQueue s k f) := by
  unfold outQueue
  try dsimp only
  with_reducible repeat' first
    | apply Keeps.trans ?_ (keeps_setOut _ _ _)
    | apply Keeps.trans ?_ (keeps_settleHead _ _ _)
    | simp only [Keeps.mk_iff]
    | apply Keeps.refl

theorem keeps_cellFrame (s : State) (k : Nat) : Keeps s (cellFrame s k) := by
  unfold cellFrame
  try dsimp only
  with_reducible repeat' first
    | apply Keeps.ite
    | apply Keeps.trans ?_ (keeps_setStage _ _ _)
    | apply Keeps.trans ?_ (keeps_trlPump _)
    | apply Keeps.trans ?_ (keeps_outQueue _ _ _)
    | apply Keeps.trans ?_ (keeps_stampDrop _ _ _)
    | split
    | apply Keeps.refl

theorem keeps_cellRelease (q : Nat) (o : Nat) (x2 : Nat) (x3 : State) : Keeps x3 (cellRelease q o x2 x3) := by
  induction x2 generalizing x3 with
  | zero => exact Keeps.refl _
  | succ n ih =>
    unfold cellRelease
    dsimp only
    split
    · exact Keeps.refl _
    · refine Keeps.trans ?_ (ih _)
      refine Keeps.trans ?_ (keeps_cellFrame _ _)
      exact keeps_setReseq _ _ _ _

theorem keeps_cellArrive (s : State) (o : Nat) (c : Cell) : Keeps s (cellArrive s o c) := by
  unfold cellArrive
  try dsimp only
  with_reducible repeat' first
    | apply Keeps.ite
    | apply Keeps.trans ?_ (keeps_resequence _ _ _ _)
    | apply Keeps.trans ?_ (keeps_cellRelease _ _ _ _)
    | apply Keeps.trans ?_ (keeps_setReseq _ _ _ _)
    | apply Keeps.refl

theorem keeps_inputSend (atStart : Tbl Cell) (s : State) (q : Nat) : Keeps s (inputSend atStart s q) := by
  unfold inputSend
  try dsimp only
  with_reducible repeat' first
    | apply Keeps.trans ?_ (keeps_setStage _ _ _)
    | simp only [Keeps.mk_iff]
    | split
    | apply Keeps.refl

theorem keeps_midSend (atStart : Tbl Cell) (s : State) (j : Nat) : Keeps s (midSend atStart s j) := by
  unfold midSend
  try dsimp only
  with_reducible repeat' first
    | apply Keeps.trans ?_ (keeps_cellArrive _ _ _)
    | simp only [Keeps.mk_iff]
    | split
    | apply Keeps.refl

theorem keeps_reseqCheck (s : State) (e : Nat × Reseq) : Keeps s (reseqCheck s e) := by
  unfold reseqCheck
  try dsimp only
  with_reducible repeat' first
    | apply Keeps.ite
    | apply Keeps.trans ?_ (keeps_resequence _ _ _ _)
    | apply Keeps.refl

theorem keeps_trlSlot (s : State) : Keeps s (trlSlot s) := by
  unfold trlSlot
  try dsimp only
  with_reducible repeat' first
    | apply Keeps.ite
    | apply Keeps.foldl
    | apply Keeps.trans ?_ (keeps_midSend _ _ _)
    | apply Keeps.trans ?_ (keeps_inputSend _ _ _)
    | apply Keeps.trans ?_ (keeps_reseqCheck _ _)
    | intro _
    | apply Keeps.refl

theorem keeps_setAdm (s : State) (k : Nat) (q : List Frame) : Keeps s (setAdm s k q) := by
  unfold setAdm
  try dsimp only
  with_reducible repeat' first
    | apply Keeps.ite
    | apply Keeps.trans ?_ (keeps_setVoq _ _ _)
    | apply Keeps.trans ?_ (keeps_setOut _ _ _)
    | apply Keeps.refl

theorem keeps_tailDrop (s : State) (o : Nat) (c : Nat) (f : Frame) : Keeps s (tailDrop s o c f) := by
  unfold tailDrop
  try dsimp only
  with_reducible repeat' first
    | apply Keeps.ite
    | apply Keeps.trans ?_ (keeps_cinc _ _)
    | apply Keeps.trans ?_ (keeps_stampDrop _ _ _)
    | apply Keeps.refl

theorem keeps_ovfWrite (x0 : State) (x1 : List Nat) (x2 : List Nat) : KeepsFst x0 (ovfWrite x0 x1 x2) := by
  induction x1 generalizing x0 x2 with
  | nil => exact ⟨Keeps.refl _⟩
  | cons i cells ih =>
    unfold ovfWrite
    exact KeepsFst.onOk (keeps_physWrite _ _ _ _) (fun t => ⟨Keeps.refl t⟩) fun t => ih t _

theorem keeps_ovfRead (x0 : State) (x1 : List Nat) (x2 : Nat) : KeepsFst x0 (ovfRead x0 x1 x2) := by
  induction x1 generalizing x0 x2 with
  | nil => exact ⟨Keeps.refl _⟩
  | cons i cells ih =>
    unfold ovfRead
    refine KeepsFst.onOpt (keeps_physRead _ _ _ _) (fun t => ⟨Keeps.refl t⟩) fun t b => ?_
    exact KeepsFst.onOpt (ih t _) (fun u => ⟨Keeps.refl u⟩) fun u c => ⟨Keeps.refl u⟩

theorem keeps_spillCopy (s : State) (f : Frame) (o : Nat) (mirror : Bool) : KeepsFst s (spillCopy s f o mirror) := by
  unfold spillCopy
  try dsimp only
  with_reducible repeat' first
    | apply Keeps.ite
    | apply KeepsFst.ite
    | apply KeepsFst.onVal
    | apply KeepsFst.onOk
    | apply KeepsFst.trans ?_ (keeps_ovfWrite _ _ _)
    | apply Keeps.trans ?_ (keeps_tailDrop _ _ _ _)
    | apply Keeps.trans ?_ (keeps_setAdm _ _ _)
    | apply Keeps.trans ?_ (keeps_cinc _ _)
    | simp only [KeepsFst.pair_iff, Keeps.mk_iff]
    | intro _
    | apply Keeps.refl

theorem keeps_queueCopy (s : State) (f : Frame) (o : Nat) (mirror : Bool) (free : Nat) : KeepsFst s (queueCopy s f o mirror free) := by
  unfold queueCopy
  try dsimp only
  with_reducible repeat' first
    | apply Keeps.ite
    | apply KeepsFst.ite
    | apply Keeps.trans ?_ (keeps_trlPump _)
    | apply Keeps.trans ?_ (keeps_setVoq _ _ _)
    | apply Keeps.trans ?_ (keeps_enterStage _ _ _)
    | apply KeepsFst.trans ?_ (keeps_spillCopy _ _ _ _)
    | simp only [KeepsFst.pair_iff]
    | apply Keeps.refl

theorem keeps_spillReadback (s : State) (k : Nat) : Keeps s (spillReadback s k) := by
  unfold spillReadback
  try dsimp only
  with_reducible repeat' first
    | apply Keeps.ite
    | apply Keeps.onVal
    | apply Keeps.onOpt
    | apply Keeps.trans ?_ (keeps_trlPump _)
    | apply Keeps.trans ?_ (keeps_settleHead _ _ _)
    | apply KeepsFst.trans ?_ (keeps_ovfRead _ _ _)
    | apply Keeps.trans ?_ (keeps_cinc _ _)
    | apply Keeps.trans ?_ (keeps_setAdm _ _ _)
    | apply Keeps.trans ?_ (keeps_stampDrop _ _ _)
    | simp only [Keeps.mk_iff]
    | intro _
    | split
    | apply Keeps.refl

theorem keeps_mirrorTo (s : State) (f : Frame) (mask : Nat → FieldRef) (qs : List Nat) (free : Nat) : Keeps s (mirrorTo s f mask qs free) := by
  unfold mirrorTo
  try dsimp only
  with_reducible repeat' first
    | apply Keeps.ite
    | apply Keeps.trans ?_ (keeps_queueCopy _ _ _ _ _).fst
    | split
    | apply Keeps.refl

theorem keeps_setRed (s : State) (l : Nat) (p : RedPair) : Keeps s (setRed s l p) := by
  unfold setRed
  try dsimp only
  with_reducible repeat' first
    | simp only [Keeps.mk_iff]
    | apply Keeps.refl

theorem keeps_redSeq (s : State) (l : Nat) (f : Frame) (k : Nat) : KeepsFst s (redSeq s l f k) := by
  unfold redSeq
  try dsimp only
  with_reducible repeat' first
    | apply KeepsFst.ite
    | apply Keeps.trans ?_ (keeps_setRed _ _ _)
    | simp only [KeepsFst.pair_iff]
    | apply Keeps.refl

theorem keeps_redNumbers (s : State) (f : Frame) (mask : Nat) : KeepsFst s (redNumbers s f mask) := by
  unfold redNumbers
  try dsimp only
  with_reducible repeat' first
    | apply KeepsFst.ite
    | apply KeepsFst.onPair
    | apply KeepsFst.foldl
    | apply KeepsFst.trans ?_ (keeps_redSeq _ _ _ _)
    | simp only [KeepsFst.pair_iff]
    | intro _
    | apply Keeps.refl
    | apply KeepsFst.self

theorem keeps_handCopies (s : State) (f : Frame) (nums : Tbl (Nat × Nat)) (outs : List Nat) (free : Nat) : KeepsFst s (handCopies s f nums outs free) := by
  unfold handCopies
  try dsimp only
  with_reducible repeat' first
    | apply KeepsFst.onPair
    | apply KeepsFst.foldl
    | apply KeepsFst.trans ?_ (keeps_queueCopy _ _ _ _ _)
    | simp only [KeepsFst.pair_iff]
    | intro _
    | apply Keeps.refl

theorem keeps_handForm (free : Nat) (s : State) (x : Frame × Nat) : Keeps s (handForm free s x) := by
  unfold handForm
  try dsimp only
  with_reducible repeat' first
    | apply Keeps.onPair
    | apply KeepsFst.trans ?_ (keeps_redNumbers _ _ _)
    | apply KeepsFst.trans ?_ (keeps_handCopies _ _ _ _ _)
    | apply Keeps.trans ?_ (keeps_mirrorTo _ _ _ _ _)
    | intro _
    | apply Keeps.refl

theorem keeps_neverSent (s : State) (f : Frame) (mask : Nat) : Keeps s (neverSent s f mask) := by
  unfold neverSent
  try dsimp only
  with_reducible repeat' first
    | apply Keeps.foldl
    | apply Keeps.trans ?_ (keeps_stampDrop _ _ _)
    | intro _
    | apply Keeps.refl

theorem keeps_trlHandAll (s : State) (f : Frame) (mask : Nat) (ring : List (Frame × Nat)) : Keeps s (trlHandAll s f mask ring) := by
  unfold trlHandAll
  try dsimp only
  with_reducible repeat' first
    | apply Keeps.ite
    | apply Keeps.foldl
    | apply Keeps.trans ?_ (keeps_neverSent _ _ _)
    | apply Keeps.trans ?_ (keeps_cinc _ _)
    | apply Keeps.trans ?_ (keeps_mirrorTo _ _ _ _ _)
    | apply Keeps.trans ?_ (keeps_handForm _ _ _)
    | simp only [Keeps.mk_iff]
    | intro _
    | apply Keeps.refl

theorem keeps_trlHand (s : State) (f : Frame) (mask : Nat) : Keeps s (trlHand s f mask) := by
  unfold trlHand
  try dsimp only
  with_reducible repeat' first
    | apply Keeps.trans ?_ (keeps_trlHandAll _ _ _ _)
    | apply Keeps.refl

theorem keeps_trlForward (s : State) (f : Frame) (ring : List (Frame × Nat)) : Keeps s (trlForward s f ring) := by
  unfold trlForward
  try dsimp only
  with_reducible repeat' first
    | apply Keeps.ite
    | apply Keeps.trans ?_ (keeps_trlHandAll _ _ _ _)
    | apply Keeps.trans ?_ (keeps_fdbLearn _ _ _)
    | apply Keeps.refl

theorem keeps_takeHead (s : State) (o : Nat) (c : Nat) : Keeps s (takeHead s o c) := by
  unfold takeHead
  try dsimp only
  with_reducible repeat' first
    | apply Keeps.trans ?_ (keeps_trlPump _)
    | apply Keeps.trans ?_ (keeps_settleHead _ _ _)
    | apply Keeps.trans ?_ (keeps_setOut _ _ _)
    | apply Keeps.refl

theorem keeps_angleFrame (m : Nat) (s : State) (f : Frame) : KeepsFst s (angleFrame m s f) := by
  unfold angleFrame
  try dsimp only
  with_reducible repeat' first
    | apply Keeps.trans ?_ (keeps_stampDrop _ _ _)
    | apply Keeps.trans ?_ (keeps_cinc _ _)
    | simp only [KeepsFst.pair_iff]
    | split
    | apply Keeps.refl

theorem keeps_angleHead (s : State) (k : Nat) : Keeps s (angleHead s k) := by
  unfold angleHead
  try dsimp only
  with_reducible repeat' first
    | apply Keeps.ite
    | apply Keeps.onOpt
    | apply KeepsFst.trans ?_ (keeps_angleFrame _ _ _)
    | apply Keeps.trans ?_ (keeps_trlPump _)
    | apply Keeps.trans ?_ (keeps_settleHead _ _ _)
    | apply Keeps.trans ?_ (keeps_setOut _ _ _)
    | intro _
    | split
    | apply Keeps.refl

theorem keeps_angleSweep (s : State) : Keeps s (angleSweep s) := by
  unfold angleSweep
  try dsimp only
  with_reducible repeat' first
    | apply Keeps.foldl
    | apply Keeps.trans ?_ (keeps_angleHead _ _)
    | intro _
    | apply Keeps.refl

theorem keeps_flushStamps (s : State) (e : Nat × List Frame) : Keeps s (flushStamps s e) := by
  unfold flushStamps
  try dsimp only
  with_reducible repeat' first
    | apply Keeps.ite
    | apply Keeps.foldl
    | apply Keeps.trans ?_ (keeps_stampDrop _ _ _)
    | intro _
    | apply Keeps.refl

theorem keeps_trlFlush (s : State) : Keeps s (trlFlush s) := by
  unfold trlFlush
  try dsimp only
  with_reducible repeat' first
    | apply Keeps.foldl
    | apply Keeps.trans ?_ (keeps_cadd _ _ _)
    | apply Keeps.trans ?_ (keeps_flushStamps _ _)
    | simp only [Keeps.mk_iff]
    | intro _
    | apply Keeps.refl

theorem keeps_trlSpeed (old : State) (s : State) : Keeps s (trlSpeed old s) := by
  unfold trlSpeed
  try dsimp only
  with_reducible repeat' first
    | apply Keeps.ite
    | simp only [Keeps.mk_iff]
    | apply Keeps.refl

theorem keeps_ringSize (tx : Bool) (r : Nat) (s : State) : Keeps s (ringSize tx r s) := by
  unfold ringSize
  try dsimp only
  with_reducible repeat' first
    | apply Keeps.ite
    | apply Keeps.trans ?_ (keeps_fset _ _ _)
    | simp only [Keeps.mk_iff]
    | apply Keeps.refl

theorem keeps_trlChanged (r : TrlReg) (i : Nat) (s : State) : Keeps s (trlChanged r i s) := by
  unfold trlChanged
  try dsimp only
  with_reducible repeat' first
    | apply Keeps.trans ?_ (keeps_ringSize _ _ _)
    | split
    | apply Keeps.refl

theorem keeps_trlEnable (p : Nat) (on : Bool) (s : State) : Keeps s (trlEnable p on s) := by
  unfold trlEnable
  try dsimp only
  with_reducible repeat' first
    | apply Keeps.trans ?_ (keeps_trlFlush _)
    | simp only [Keeps.mk_iff]
    | split
    | apply Keeps.refl

theorem keeps_haltTx (s : State) (r : Nat) : Keeps s (haltTx s r) := by
  unfold haltTx
  try dsimp only
  with_reducible repeat' first
    | apply Keeps.trans ?_ (keeps_cinc _ _)
    | simp only [Keeps.mk_iff]
    | apply Keeps.refl

theorem keeps_haltRx (s : State) (c : Nat) : Keeps s (haltRx s c) := by
  unfold haltRx
  try dsimp only
  with_reducible repeat' first
    | apply Keeps.trans ?_ (keeps_cinc _ _)
    | simp only [Keeps.mk_iff]
    | apply Keeps.refl

theorem keeps_shortDrop (s : State) (f : Frame) (mask : Nat) : Keeps s (shortDrop s f mask) := by
  unfold shortDrop
  try dsimp only
  with_reducible repeat' first
    | apply Keeps.ite
    | apply Keeps.foldl
    | apply Keeps.trans ?_ (keeps_stampDrop _ _ _)
    | apply Keeps.trans ?_ (keeps_cinc _ _)
    | intro _
    | apply Keeps.refl

theorem keeps_txTake (s : State) (r : Nat) (ring : Ring) (d : List Nat) (bs : List Nat) : Keeps s (txTake s r ring d bs) := by
  unfold txTake
  try dsimp only
  with_reducible repeat' first
    | apply Keeps.ite
    | apply Keeps.trans ?_ (keeps_cinc _ _)
    | apply Keeps.trans ?_ (keeps_shortDrop _ _ _)
    | apply Keeps.trans ?_ (keeps_trlHand _ _ _)
    | apply Keeps.trans ?_ (keeps_neverSent _ _ _)
    | apply Keeps.trans ?_ (keeps_trlForward _ _ _)
    | simp only [Keeps.mk_iff]
    | apply Keeps.refl

theorem keeps_hostTx (s : State) : Keeps s (hostTx s) := by
  unfold hostTx
  try dsimp only
  with_reducible repeat' first
    | apply Keeps.ite
    | apply Keeps.onOpt
    | apply KeepsFst.trans ?_ (keeps_physRead _ _ _ _)
    | apply Keeps.trans ?_ (keeps_haltTx _ _)
    | apply Keeps.trans ?_ (keeps_txTake _ _ _ _ _)
    | simp only [Keeps.mk_iff]
    | intro _
    | split
    | apply Keeps.refl

theorem keeps_hostRx (s : State) (c : Nat) : Keeps s (hostRx s c) := by
  unfold hostRx
  try dsimp only
  with_reducible repeat' first
    | apply Keeps.ite
    | apply Keeps.onOpt
    | apply Keeps.onOk
    | apply Keeps.trans ?_ (keeps_takeHead _ _ _)
    | apply KeepsFst.trans ?_ (keeps_physRead _ _ _ _)
    | apply Keeps.trans ?_ (keeps_haltRx _ _)
    | apply KeepsFst.trans ?_ (keeps_physWrite _ _ _ _)
    | apply Keeps.trans ?_ (keeps_cinc _ _)
    | simp only [Keeps.mk_iff]
    | intro _
    | split
    | apply Keeps.refl

theorem keeps_trlSrst (p : Nat) (s : State) : Keeps s (trlSrst p s) := by
  unfold trlSrst
  try dsimp only
  with_reducible repeat' first
    | apply Keeps.foldl
    | apply Keeps.trans ?_ (keeps_trlFlush _)
    | apply Keeps.trans ?_ (keeps_setFdb _ _)
    | apply Keeps.trans ?_ (keeps_ringSize _ _ _)
    | intro _
    | split
    | apply Keeps.refl

end Sys2Proof.Machine
end

