-- ==== Sys2Proof/Laws/KeepPorts.lean ====
section
/-! SUPPORT. What the operations of Machine/Ports.lean keep: the queue, memory's canonical form and the fuses. -/

set_option Elab.async false

namespace Sys2Proof.Machine

theorem keeps_setPort (s : State) (m : Nat) (p : Port) : Keeps s (setPort s m p) := by
  unfold setPort
  try dsimp only
  with_reducible repeat' first
    | simp only [Keeps.mk_iff]
    | apply Keeps.refl

theorem keeps_macCount (s : State) (m : Nat) (f : Nat → FieldRef) : Keeps s (macCount s m f) := by
  unfold macCount
  try dsimp only
  with_reducible repeat' first
    | apply Keeps.ite
    | apply Keeps.trans ?_ (keeps_cinc _ _)
    | apply Keeps.refl

theorem keeps_gateChange (s : State) (m : Nat) : Keeps s (gateChange s m) := by
  unfold gateChange
  try dsimp only
  with_reducible repeat' first
    | apply Keeps.ite
    | apply Keeps.trans ?_ (keeps_setPort _ _ _)
    | split
    | apply Keeps.refl

theorem keeps_gclRequest (m : Nat) (s : State) : Keeps s (gclRequest m s) := by
  unfold gclRequest
  try dsimp only
  with_reducible repeat' first
    | apply Keeps.ite
    | apply Keeps.trans ?_ (keeps_mbxEnd _ _ _)
    | apply Keeps.trans ?_ (keeps_setPort _ _ _)
    | apply Keeps.refl

theorem keeps_gclSwitch (s : State) (m : Nat) : Keeps s (gclSwitch s m) := by
  unfold gclSwitch
  try dsimp only
  with_reducible repeat' first
    | apply Keeps.ite
    | apply Keeps.trans ?_ (keeps_mbxEndIfBusy _ _ _)
    | apply Keeps.trans ?_ (keeps_setPort _ _ _)
    | split
    | apply Keeps.refl

theorem keeps_dupSet (s : State) (l : Nat) (e : DupEntry) : Keeps s (dupSet s l e) := by
  unfold dupSet
  try dsimp only
  with_reducible repeat' first
    | apply Keeps.trans ?_ (keeps_setRed _ _ _)
    | apply Keeps.refl

theorem keeps_dupCheck (s : State) (m : Nat) (l : Nat) (src : Nat) (n : Nat) : KeepsFst s (dupCheck s m l src n) := by
  unfold dupCheck
  try dsimp only
  with_reducible repeat' first
    | apply KeepsFst.ite
    | apply Keeps.trans ?_ (keeps_dupSet _ _ _)
    | apply Keeps.trans ?_ (keeps_macCount _ _ _)
    | simp only [KeepsFst.pair_iff]
    | split
    | apply Keeps.refl

theorem keeps_dupForget (s : State) (l : Nat) (src : Nat) : Keeps s (dupForget s l src) := by
  unfold dupForget
  try dsimp only
  with_reducible repeat' first
    | apply Keeps.ite
    | apply Keeps.trans ?_ (keeps_setRed _ _ _)
    | split
    | apply Keeps.refl

theorem keeps_pauseFrame (s : State) (m : Nat) (bs : List Nat) : Keeps s (pauseFrame s m bs) := by
  unfold pauseFrame
  try dsimp only
  with_reducible repeat' first
    | apply Keeps.ite
    | apply Keeps.trans ?_ (keeps_macCount _ _ _)
    | apply Keeps.trans ?_ (keeps_setPort _ _ _)
    | apply Keeps.refl

theorem keeps_pauseExpire (s : State) (m : Nat) : Keeps s (pauseExpire s m) := by
  unfold pauseExpire
  try dsimp only
  with_reducible repeat' first
    | apply Keeps.ite
    | apply Keeps.trans ?_ (keeps_setPort _ _ _)
    | split
    | apply Keeps.refl

theorem keeps_ringHand (s : State) (ring : List (Frame × Nat)) : Keeps s (ringHand s ring) := by
  unfold ringHand
  try dsimp only
  with_reducible repeat' first
    | apply Keeps.foldl
    | apply Keeps.trans ?_ (keeps_trlHand _ _ _)
    | intro _
    | apply Keeps.refl

theorem keeps_rxDeliver (s : State) (m : Nat) (f : Frame) (ring : List (Frame × Nat)) : Keeps s (rxDeliver s m f ring) := by
  unfold rxDeliver
  try dsimp only
  with_reducible repeat' first
    | apply Keeps.ite
    | apply Keeps.trans ?_ (keeps_pauseFrame _ _ _)
    | apply Keeps.trans ?_ (keeps_macCount _ _ _)
    | apply Keeps.trans ?_ (keeps_trlForward _ _ _)
    | apply Keeps.trans ?_ (keeps_ringHand _ _)
    | apply Keeps.refl

theorem keeps_rxPrp (s : State) (m : Nat) (l : Nat) (f : Frame) : Keeps s (rxPrp s m l f) := by
  unfold rxPrp
  try dsimp only
  with_reducible repeat' first
    | apply Keeps.ite
    | apply Keeps.onOk
    | apply Keeps.trans ?_ (keeps_rxDeliver _ _ _ _)
    | apply Keeps.trans ?_ (keeps_macCount _ _ _)
    | apply KeepsFst.trans ?_ (keeps_dupCheck _ _ _ _ _)
    | intro _
    | split
    | apply Keeps.refl

theorem keeps_rxHsr (s : State) (m : Nat) (l : Nat) (f : Frame) : Keeps s (rxHsr s m l f) := by
  unfold rxHsr
  try dsimp only
  with_reducible repeat' first
    | apply Keeps.ite
    | apply Keeps.onOk
    | apply Keeps.trans ?_ (keeps_rxDeliver _ _ _ _)
    | apply Keeps.trans ?_ (keeps_macCount _ _ _)
    | apply KeepsFst.trans ?_ (keeps_dupCheck _ _ _ _ _)
    | intro _
    | split
    | apply Keeps.refl

theorem keeps_frameReceive (s : State) (m : Nat) (bs : List Nat) (fcsOk : Bool) (age : Nat) : Keeps s (frameReceive s m bs fcsOk age) := by
  unfold frameReceive
  try dsimp only
  with_reducible repeat' first
    | apply Keeps.ite
    | apply Keeps.trans ?_ (keeps_macCount _ _ _)
    | apply Keeps.trans ?_ (keeps_cinc _ _)
    | apply Keeps.trans ?_ (keeps_rxDeliver _ _ _ _)
    | apply Keeps.trans ?_ (keeps_rxPrp _ _ _ _)
    | apply Keeps.trans ?_ (keeps_rxHsr _ _ _ _)
    | split
    | apply Keeps.refl

theorem keeps_launchDrop (s : State) (m : Nat) (c : Nat) : Keeps s (launchDrop s m c) := by
  unfold launchDrop
  try dsimp only
  with_reducible repeat' first
    | apply Keeps.ite
    | apply Keeps.trans ?_ (keeps_takeHead _ _ _)
    | apply Keeps.trans ?_ (keeps_stampDrop _ _ _)
    | apply Keeps.trans ?_ (keeps_cinc _ _)
    | split
    | apply Keeps.refl

theorem keeps_headFit (m : Nat) (c : Nat) (x2 : Nat) (x3 : State) : Keeps x3 (headFit m c x2 x3) := by
  induction x2 generalizing x3 with
  | zero => exact Keeps.refl _
  | succ n ih =>
    unfold headFit
    split
    · exact Keeps.refl _
    · dsimp only
      split
      · exact Keeps.trans (keeps_launchDrop _ _ _) (ih _)
      · split
        · refine Keeps.trans ?_ (ih _)
          refine Keeps.trans ?_ (keeps_setOut _ _ _)
          split
          · exact keeps_macCount _ _ _
          · exact Keeps.refl _
        · split
          · refine Keeps.trans ?_ (ih _)
            refine Keeps.trans ?_ (keeps_takeHead _ _ _)
            refine Keeps.trans ?_ (keeps_stampDrop _ _ _)
            exact keeps_macCount _ _ _
          · exact Keeps.refl _

theorem keeps_ptpCorrect (s : State) (m : Nat) (f : Frame) (b : List Nat) (egress : Nat) : KeepsFst s (ptpCorrect s m f b egress) := by
  unfold ptpCorrect
  try dsimp only
  with_reducible repeat' first
    | apply Keeps.ite
    | apply KeepsFst.ite
    | apply Keeps.trans ?_ (keeps_cinc _ _)
    | simp only [KeepsFst.pair_iff]
    | split
    | apply Keeps.refl

theorem keeps_txSend (s : State) (m : Nat) (c : Nat) (f : Frame) : Keeps s (txSend s m c f) := by
  unfold txSend
  try dsimp only
  with_reducible repeat' first
    | apply Keeps.ite
    | apply Keeps.trans ?_ (keeps_takeHead _ _ _)
    | apply Keeps.trans ?_ (keeps_stampDrop _ _ _)
    | apply Keeps.trans ?_ (keeps_cinc _ _)
    | apply Keeps.trans ?_ (keeps_macCount _ _ _)
    | apply Keeps.trans ?_ (keeps_ptpCorrect _ _ _ _ _).fst
    | apply Keeps.trans ?_ (keeps_setPort _ _ _)
    | simp only [Keeps.mk_iff]
    | apply Keeps.refl

theorem keeps_frameTransmit (s : State) (m : Nat) : Keeps s (frameTransmit s m) := by
  unfold frameTransmit
  try dsimp only
  with_reducible repeat' first
    | apply Keeps.ite
    | apply Keeps.foldl
    | apply Keeps.trans ?_ (keeps_headFit _ _ _ _)
    | apply Keeps.trans ?_ (keeps_txSend _ _ _ _)
    | intro _
    | split
    | apply Keeps.refl

theorem keeps_txSettle (s : State) (m : Nat) : Keeps s (txSettle s m) := by
  unfold txSettle
  try dsimp only
  with_reducible repeat' first
    | apply Keeps.ite
    | apply Keeps.trans ?_ (keeps_setPort _ _ _)
    | apply Keeps.trans ?_ (keeps_macCount _ _ _)
    | apply Keeps.trans ?_ (keeps_storeStamp _ _ _ _ _)
    | split
    | apply Keeps.refl

theorem keeps_portClear (s : State) (m : Nat) : Keeps s (portClear s m) := by
  unfold portClear
  try dsimp only
  with_reducible repeat' first
    | apply Keeps.ite
    | apply Keeps.trans ?_ (keeps_macCount _ _ _)
    | apply Keeps.trans ?_ (keeps_storeStamp _ _ _ _ _)
    | apply Keeps.trans ?_ (keeps_drew _)
    | apply Keeps.trans ?_ (keeps_setPort _ _ _)
    | split
    | apply Keeps.refl

theorem keeps_portShadows (s : State) (m : Nat) : Keeps s (portShadows s m) := by
  unfold portShadows
  try dsimp only
  with_reducible repeat' first
    | apply Keeps.trans ?_ (keeps_dropShadows _ _)
    | apply Keeps.refl

theorem keeps_strbDiscard (s : State) (m : Nat) : Keeps s (strbDiscard s m) := by
  unfold strbDiscard
  try dsimp only
  with_reducible repeat' first
    | simp only [Keeps.mk_iff]
    | apply Keeps.refl

theorem keeps_tokenReset (s : State) : Keeps s (tokenReset s) := by
  unfold tokenReset
  try dsimp only
  with_reducible repeat' first
    | apply Keeps.trans ?_ (keeps_holdGroup _ _ _)
    | simp only [Keeps.mk_iff]
    | apply Keeps.refl

theorem keeps_portDown (s : State) (m : Nat) : Keeps s (portDown s m) := by
  unfold portDown
  try dsimp only
  with_reducible repeat' first
    | apply Keeps.ite
    | apply Keeps.trans ?_ (keeps_holdGroup _ _ _)
    | apply Keeps.trans ?_ (keeps_strbDiscard _ _)
    | apply Keeps.trans ?_ (keeps_portShadows _ _)
    | apply Keeps.trans ?_ (keeps_portClear _ _)
    | apply Keeps.trans ?_ (keeps_tokenReset _)
    | simp only [Keeps.mk_iff]
    | apply Keeps.refl

theorem keeps_monForget (s : State) (i : Nat) : Keeps s (monForget s i) := by
  unfold monForget
  try dsimp only
  with_reducible repeat' first
    | simp only [Keeps.mk_iff]
    | apply Keeps.refl

theorem keeps_portPulse (s : State) (m : Nat) : Keeps s (portPulse s m) := by
  unfold portPulse
  try dsimp only
  with_reducible repeat' first
    | apply Keeps.trans ?_ (keeps_portDown _ _)
    | simp only [Keeps.mk_iff]
    | apply Keeps.refl

theorem keeps_macApplied (old : State) (s : State) : Keeps s (macApplied old s) := by
  unfold macApplied
  try dsimp only
  with_reducible repeat' first
    | apply Keeps.foldl
    | apply Keeps.trans ?_ (keeps_trlSpeed _ _)
    | apply Keeps.trans ?_ (keeps_portPulse _ _)
    | intro _
    | apply Keeps.refl

theorem keeps_macMbx (r : MacReg) (m : Nat) (a : Nat) (s : State) : Keeps s (macMbx r m a s) := by
  unfold macMbx
  try dsimp only
  with_reducible repeat' first
    | apply Keeps.trans ?_ (keeps_mbxEnd _ _ _)
    | apply Keeps.trans ?_ (keeps_setPort _ _ _)
    | apply Keeps.trans ?_ (keeps_mbxAnswer _ _ _ _)
    | apply Keeps.trans ?_ (keeps_gclRequest _ _)
    | split
    | apply Keeps.refl

theorem keeps_macEnable (m : Nat) (p : Nat) (on : Bool) (s : State) : Keeps s (macEnable m p on s) := by
  unfold macEnable
  try dsimp only
  with_reducible repeat' first
    | apply Keeps.ite
    | apply Keeps.trans ?_ (keeps_monForget _ _)
    | apply Keeps.trans ?_ (keeps_portDown _ _)
    | apply Keeps.trans ?_ (keeps_setPort _ _ _)
    | split
    | apply Keeps.refl

theorem keeps_macSrst (m : Nat) (p : Nat) (s : State) : Keeps s (macSrst m p s) := by
  unfold macSrst
  try dsimp only
  with_reducible repeat' first
    | apply Keeps.trans ?_ (keeps_portPulse _ _)
    | apply Keeps.trans ?_ (keeps_mbxEndIfBusy _ _ _)
    | apply Keeps.trans ?_ (keeps_setPort _ _ _)
    | split
    | apply Keeps.refl

end Sys2Proof.Machine
end

