-- ==== Sys2Proof/Laws/KeepKeyStore.lean ====
section
/-! SUPPORT. What the operations of Machine/KeyStore.lean keep: the queue, memory's canonical form and the fuses. -/

set_option Elab.async false

namespace Sys2Proof.Machine

theorem keeps_gthRecord (s : State) (type : Nat) (args : List Nat) : Keeps s (gthRecord s type args) := by
  unfold gthRecord
  try dsimp only
  with_reducible repeat' first
    | apply Keeps.trans ?_ (keeps_record _ _ _ _)
    | apply Keeps.refl

theorem keeps_purgeCache (s : State) (k : Nat) : Keeps s (purgeCache s k) := by
  unfold purgeCache
  try dsimp only
  with_reducible repeat' first
    | simp only [Keeps.gth_iff]
    | apply Keeps.refl

theorem keeps_countRefusal (s : State) (code : Nat) : Keeps s (countRefusal s code) := by
  unfold countRefusal
  try dsimp only
  with_reducible repeat' first
    | apply Keeps.ite
    | apply Keeps.trans ?_ (keeps_cinc _ _)
    | apply Keeps.refl

theorem keeps_touchCache (s : State) (k : Nat) : Keeps s (touchCache s k) := by
  unfold touchCache
  try dsimp only
  with_reducible repeat' first
    | apply Keeps.ite
    | simp only [Keeps.gth_iff]
    | apply Keeps.refl

theorem keeps_useKey (s : State) (k : Nat) (use : Nat) (mid : Nat) (pav : Option Nat) : KeepsFst s (useKey s k use mid pav) := by
  unfold useKey
  try dsimp only
  with_reducible repeat' first
    | apply Keeps.trans ?_ (keeps_countRefusal _ _)
    | apply Keeps.trans ?_ (keeps_touchCache _ _)
    | simp only [KeepsFst.pair_iff]
    | split
    | apply Keeps.refl

theorem keeps_lineCheck (s : State) (k : Nat) (mid : Nat) (alg : Nat) (bs : List Nat) : KeepsFst s (lineCheck s k mid alg bs) := by
  unfold lineCheck
  try dsimp only
  with_reducible repeat' first
    | apply KeepsFst.ite
    | apply Keeps.trans ?_ (keeps_countRefusal _ _)
    | apply Keeps.trans ?_ (keeps_cinc _ _)
    | simp only [KeepsFst.pair_iff]
    | split
    | apply Keeps.refl

theorem keeps_authCheck (s : State) (key0 : Nat) (key1 : Nat) (kid0 : Nat) (kid1 : Nat) (mid : Nat) (bs : List Nat) : KeepsFst s (authCheck s key0 key1 kid0 kid1 mid bs) := by
  unfold authCheck
  try dsimp only
  with_reducible repeat' first
    | apply KeepsFst.ite
    | apply KeepsFst.onPair
    | apply KeepsFst.trans ?_ (keeps_lineCheck _ _ _ _ _)
    | simp only [KeepsFst.pair_iff]
    | intro _
    | split
    | apply Keeps.refl

theorem keeps_loadSlot (s : State) (k : Nat) : Keeps s (loadSlot s k) := by
  unfold loadSlot
  try dsimp only
  with_reducible repeat' first
    | apply Keeps.ite
    | apply Keeps.trans ?_ (keeps_gthRecord _ _ _)
    | simp only [Keeps.gth_iff]
    | split
    | apply Keeps.refl

theorem keeps_keyStoreLoad (s : State) : Keeps s (keyStoreLoad s) := by
  unfold keyStoreLoad
  try dsimp only
  with_reducible repeat' first
    | apply Keeps.ite
    | apply Keeps.foldl
    | apply Keeps.trans ?_ (keeps_loadSlot _ _)
    | simp only [Keeps.gth_iff]
    | intro _
    | apply Keeps.refl

theorem keeps_programCopy (s : State) (u : KeyUpdate) : Keeps s (programCopy s u) := by
  unfold programCopy
  try dsimp only
  with_reducible repeat' first
    | simp only [Keeps.gth_iff]
    | apply Keeps.refl

theorem keeps_startUpdate (s : State) (k : Nat) (next : Option KeySlot) (op : Nat) (purged : Nat) : Keeps s (startUpdate s k next op purged) := by
  unfold startUpdate
  try dsimp only
  with_reducible repeat' first
    | apply Keeps.trans ?_ (keeps_programCopy _ _)
    | apply Keeps.refl

theorem keeps_keyStoreValid (s : State) : Keeps s (keyStoreValid s) := by
  unfold keyStoreValid
  try dsimp only
  with_reducible repeat' first
    | apply Keeps.ite
    | apply Keeps.trans ?_ (keeps_purgeCache _ _)
    | apply Keeps.trans ?_ (keeps_programCopy _ _)
    | apply Keeps.trans ?_ (keeps_gthRecord _ _ _)
    | apply Keeps.trans ?_ (keeps_mbxEndIfBusy _ _ _)
    | simp only [Keeps.gth_iff]
    | split
    | apply Keeps.refl

theorem keeps_setBank (s : State) (b : Nat) (x : RootBank) : Keeps s (setBank s b x) := by
  unfold setBank
  try dsimp only
  with_reducible repeat' first
    | simp only [Keeps.gth_iff]
    | split
    | apply Keeps.refl

theorem keeps_rootFrom (s : State) (r : Nat) (ok : Bool) : Keeps s (rootFrom s r ok) := by
  unfold rootFrom
  try dsimp only
  with_reducible repeat' first
    | apply Keeps.ite
    | apply Keeps.trans ?_ (keeps_gthRecord _ _ _)
    | simp only [Keeps.gth_iff]
    | apply Keeps.refl

theorem keeps_rootChoose (s : State) : Keeps s (rootChoose s) := by
  unfold rootChoose
  try dsimp only
  with_reducible repeat' first
    | apply Keeps.ite
    | apply Keeps.trans ?_ (keeps_rootFrom _ _ _)
    | simp only [Keeps.gth_iff]
    | split
    | apply Keeps.refl

theorem keeps_birthCut (s : State) : Keeps s (birthCut s) := by
  unfold birthCut
  try dsimp only
  with_reducible repeat' first
    | apply Keeps.ite
    | apply Keeps.trans ?_ (keeps_setBank _ _ _)
    | split
    | apply Keeps.refl

theorem keeps_rootBirth (s : State) : Keeps s (rootBirth s) := by
  unfold rootBirth
  try dsimp only
  with_reducible repeat' first
    | apply Keeps.ite
    | apply Keeps.trans ?_ (keeps_setBank _ _ _)
    | apply Keeps.trans ?_ (keeps_drew _)
    | apply Keeps.trans ?_ (keeps_gthRecord _ _ _)
    | simp only [Keeps.gth_iff]
    | split
    | apply Keeps.refl

end Sys2Proof.Machine
end

