-- ==== Sys2Proof/Laws/KeepGoose.lean ====
section
/-! SUPPORT. What the operations of Machine/Goose.lean keep: the queue, memory's canonical form and the fuses. -/

set_option Elab.async false

namespace Sys2Proof.Machine

theorem keeps_readBuffer (s : State) (k : Nat) (b : Nat) : KeepsFst s (readBuffer s k b) := by
  unfold readBuffer
  try dsimp only
  with_reducible repeat' first
    | apply KeepsFst.onOpt
    | apply KeepsFst.trans ?_ (keeps_physRead _ _ _ _)
    | simp only [KeepsFst.pair_iff]
    | intro _
    | apply Keeps.refl

theorem keeps_setSlotGpb (s : State) (k : Nat) (x : GpbSlot) : Keeps s (setSlotGpb s k x) := by
  unfold setSlotGpb
  try dsimp only
  with_reducible repeat' first
    | simp only [Keeps.mk_iff]
    | apply Keeps.refl

theorem keeps_gooseSend (s : State) (k : Nat) : Keeps s (gooseSend s k) := by
  unfold gooseSend
  try dsimp only
  with_reducible repeat' first
    | apply Keeps.ite
    | apply Keeps.onOpt
    | apply Keeps.trans ?_ (keeps_setSlotGpb _ _ _)
    | apply Keeps.trans ?_ (keeps_cinc _ _)
    | apply KeepsFst.trans ?_ (keeps_readBuffer _ _ _)
    | apply Keeps.trans ?_ (keeps_trlHand _ _ _)
    | intro _
    | apply Keeps.refl

theorem keeps_gooseState (s : State) (k : Nat) (at_ : Nat) : Keeps s (gooseState s k at_) := by
  unfold gooseState
  try dsimp only
  with_reducible repeat' first
    | apply Keeps.trans ?_ (keeps_gooseSend _ _)
    | apply Keeps.trans ?_ (keeps_setSlotGpb _ _ _)
    | apply Keeps.refl

theorem keeps_gooseRetransmit (s : State) (k : Nat) : Keeps s (gooseRetransmit s k) := by
  unfold gooseRetransmit
  try dsimp only
  with_reducible repeat' first
    | apply Keeps.ite
    | apply Keeps.trans ?_ (keeps_gooseSend _ _)
    | apply Keeps.trans ?_ (keeps_setSlotGpb _ _ _)
    | apply Keeps.refl

theorem keeps_gpbStart (s : State) (k : Nat) : KeepsFst s (gpbStart s k) := by
  unfold gpbStart
  try dsimp only
  with_reducible repeat' first
    | apply KeepsFst.ite
    | apply KeepsFst.onOpt
    | apply KeepsFst.trans ?_ (keeps_physRead _ _ _ _)
    | apply KeepsFst.trans ?_ (keeps_readBuffer _ _ _)
    | apply Keeps.trans ?_ (keeps_gooseSend _ _)
    | apply Keeps.trans ?_ (keeps_setSlotGpb _ _ _)
    | simp only [KeepsFst.pair_iff]
    | intro _
    | apply Keeps.refl

theorem keeps_gpbPublish (s : State) (k : Nat) : KeepsFst s (gpbPublish s k) := by
  unfold gpbPublish
  try dsimp only
  with_reducible repeat' first
    | apply KeepsFst.ite
    | apply KeepsFst.onOpt
    | apply KeepsFst.trans ?_ (keeps_readBuffer _ _ _)
    | apply Keeps.trans ?_ (keeps_gooseState _ _ _)
    | simp only [KeepsFst.pair_iff]
    | intro _
    | apply Keeps.refl

theorem keeps_gooseCommit (s : State) (k : Nat) (p : Nat) (at_ : Nat) (ndat : Nat) (data : List Nat) : KeepsFst s (gooseCommit s k p at_ ndat data) := by
  unfold gooseCommit
  try dsimp only
  with_reducible repeat' first
    | apply KeepsFst.ite
    | apply KeepsFst.onPair
    | apply Keeps.trans ?_ (keeps_cinc _ _)
    | apply KeepsFst.trans ?_ (keeps_physWrite _ _ _ _)
    | apply Keeps.trans ?_ (keeps_gooseState _ _ _)
    | simp only [KeepsFst.pair_iff]
    | intro _
    | apply Keeps.refl

theorem keeps_gpbMbx (a : Nat) (s : State) : Keeps s (gpbMbx a s) := by
  unfold gpbMbx
  try dsimp only
  with_reducible repeat' first
    | apply Keeps.ite
    | apply Keeps.onPair
    | apply KeepsFst.trans ?_ (keeps_gpbStart _ _)
    | apply Keeps.trans ?_ (keeps_mbxEnd _ _ _)
    | apply Keeps.trans ?_ (keeps_setSlotGpb _ _ _)
    | apply KeepsFst.trans ?_ (keeps_gpbPublish _ _)
    | apply Keeps.trans ?_ (keeps_mbxAnswer _ _ _ _)
    | intro _
    | split
    | apply Keeps.refl

theorem keeps_goosePost (s : State) (e : Ev) (entry : List Nat) (fresh : Bool) (prev : Option GsbSub) : Keeps s (goosePost s e entry fresh prev) := by
  unfold goosePost
  try dsimp only
  with_reducible repeat' first
    | apply KeepsFst.ite
    | apply keeps_onPosted
    | apply KeepsFst.trans ?_ (keeps_batchOwn _ _)
    | apply KeepsFst.trans ?_ (keeps_bndPost _ _)
    | simp only [Keeps.mk_iff]
    | intro _
    | apply Keeps.refl

theorem keeps_gooseTake (s : State) (n : Nat) (x : GsbSub) (f : Frame) (p : GoosePdu) : Keeps s (gooseTake s n x f p) := by
  unfold gooseTake
  try dsimp only
  with_reducible repeat' first
    | apply Keeps.ite
    | apply Keeps.onOk
    | apply Keeps.trans ?_ (keeps_cinc _ _)
    | apply Keeps.trans ?_ (keeps_setSub _ _ _)
    | apply Keeps.trans ?_ (keeps_goosePost _ _ _ _ _)
    | apply KeepsFst.trans ?_ (keeps_subWrite _ _ _ _)
    | intro _
    | apply Keeps.refl

theorem keeps_gooseHandle (s : State) (f : Frame) : Keeps s (gooseHandle s f) := by
  unfold gooseHandle
  try dsimp only
  with_reducible repeat' first
    | apply Keeps.ite
    | apply Keeps.onOpt
    | apply Keeps.trans ?_ (keeps_cinc _ _)
    | apply KeepsFst.trans ?_ (keeps_authCheck _ _ _ _ _ _ _)
    | apply Keeps.trans ?_ (keeps_gooseTake _ _ _ _ _)
    | intro _
    | split
    | apply Keeps.refl

theorem keeps_gooseSubFrame (s : State) : Keeps s (gooseSubFrame s) := by
  unfold gooseSubFrame
  try dsimp only
  with_reducible repeat' first
    | apply Keeps.ite
    | apply Keeps.trans ?_ (keeps_gooseHandle _ _)
    | apply Keeps.trans ?_ (keeps_takeHead _ _ _)
    | split
    | apply Keeps.refl

theorem keeps_gooseRetry (s : State) : Keeps s (gooseRetry s) := by
  unfold gooseRetry
  try dsimp only
  with_reducible repeat' first
    | apply Keeps.trans ?_ (keeps_goosePost _ _ _ _ _)
    | simp only [Keeps.mk_iff]
    | split
    | apply Keeps.refl

theorem keeps_expiryPost (s : State) (n : Nat) (e : Ev) : Keeps s (expiryPost s n e) := by
  unfold expiryPost
  try dsimp only
  with_reducible repeat' first
    | apply keeps_onPosted
    | apply Keeps.trans ?_ (keeps_cinc _ _)
    | apply KeepsFst.trans ?_ (keeps_batchPost _ _)
    | simp only [Keeps.mk_iff]
    | intro _
    | split
    | apply Keeps.refl

theorem keeps_expiryRetry (s : State) (n : Nat) : Keeps s (expiryRetry s n) := by
  unfold expiryRetry
  try dsimp only
  with_reducible repeat' first
    | apply keeps_onPosted
    | apply KeepsFst.trans ?_ (keeps_batchPost _ _)
    | simp only [Keeps.mk_iff]
    | intro _
    | split
    | apply Keeps.refl

theorem keeps_gooseExpire (s : State) (n : Nat) : Keeps s (gooseExpire s n) := by
  unfold gooseExpire
  try dsimp only
  with_reducible repeat' first
    | apply Keeps.ite
    | apply Keeps.trans ?_ (keeps_cinc _ _)
    | apply Keeps.trans ?_ (keeps_setSub _ _ _)
    | apply Keeps.trans ?_ (keeps_expiryPost _ _ _)
    | split
    | apply Keeps.refl

theorem keeps_gsbWrite (s : State) (n : Nat) (w : Nat → Nat) : KeepsFst s (gsbWrite s n w) := by
  unfold gsbWrite
  try dsimp only
  with_reducible repeat' first
    | apply KeepsFst.ite
    | apply Keeps.trans ?_ (keeps_setSub _ _ _)
    | simp only [KeepsFst.pair_iff]
    | split
    | apply Keeps.refl

theorem keeps_gsbMbx (r : TrlReg) (a : Nat) (s : State) : Keeps s (gsbMbx r a s) := by
  unfold gsbMbx
  try dsimp only
  with_reducible repeat' first
    | apply Keeps.ite
    | apply Keeps.onPair
    | apply KeepsFst.trans ?_ (keeps_gsbWrite _ _ _)
    | apply Keeps.trans ?_ (keeps_mbxEnd _ _ _)
    | apply Keeps.trans ?_ (keeps_mbxAnswer _ _ _ _)
    | apply Keeps.trans ?_ (keeps_setSub _ _ _)
    | intro _
    | split
    | apply Keeps.refl

theorem keeps_trlMbx (r : TrlReg) (a : Nat) (s : State) : Keeps s (trlMbx r a s) := by
  unfold trlMbx
  try dsimp only
  with_reducible repeat' first
    | apply Keeps.trans ?_ (keeps_fdbMbx _ _)
    | apply Keeps.trans ?_ (keeps_gpbMbx _ _)
    | apply Keeps.trans ?_ (keeps_gsbMbx _ _ _)
    | split
    | apply Keeps.refl

theorem keeps_gooseSrst (p : Nat) (s : State) : Keeps s (gooseSrst p s) := by
  unfold gooseSrst
  try dsimp only
  with_reducible repeat' first
    | simp only [Keeps.mk_iff]
    | split
    | apply Keeps.refl

end Sys2Proof.Machine
end

