-- ==== Sys2Proof/Laws/KeepFootbridge.lean ====
section
/-! SUPPORT. What the operations of Machine/Footbridge.lean keep: the queue, memory's canonical form and the fuses. -/

set_option Elab.async false

namespace Sys2Proof.Machine

theorem keeps_setFtb (s : State) (f : Footbridge) : Keeps s (setFtb s f) := by
  unfold setFtb
  try dsimp only
  with_reducible repeat' first
    | simp only [Keeps.mk_iff]
    | apply Keeps.refl

theorem keeps_stateRecord (s : State) (old : Nat) : Keeps s (stateRecord s old) := by
  unfold stateRecord
  try dsimp only
  with_reducible repeat' first
    | apply Keeps.ite
    | apply Keeps.trans ?_ (keeps_record _ _ _ _)
    | apply Keeps.refl

theorem keeps_ftbEnter (s : State) (new : Nat) : Keeps s (ftbEnter s new) := by
  unfold ftbEnter
  try dsimp only
  with_reducible repeat' first
    | apply Keeps.ite
    | apply Keeps.trans ?_ (keeps_stateRecord _ _)
    | apply Keeps.trans ?_ (keeps_setFtb _ _)
    | apply Keeps.refl

theorem keeps_xferRecord (s : State) (on : Bool) (path : Nat) : Keeps s (xferRecord s on path) := by
  unfold xferRecord
  try dsimp only
  with_reducible repeat' first
    | apply Keeps.trans ?_ (keeps_record _ _ _ _)
    | apply Keeps.refl

theorem keeps_ftbXfer (s : State) (on : Bool) (path : Nat) (epoch : Nat) : Keeps s (ftbXfer s on path epoch) := by
  unfold ftbXfer
  try dsimp only
  with_reducible repeat' first
    | apply Keeps.trans ?_ (keeps_setFtb _ _)
    | apply Keeps.trans ?_ (keeps_xferRecord _ _ _)
    | apply Keeps.trans ?_ (keeps_cinc _ _)
    | apply Keeps.refl

theorem keeps_reqEnd (s : State) (r : TokenReq) (code : Nat) : Keeps s (reqEnd s r code) := by
  unfold reqEnd
  try dsimp only
  with_reducible repeat' first
    | apply Keeps.ite
    | apply Keeps.trans ?_ (keeps_setFtb _ _)
    | apply Keeps.trans ?_ (keeps_mbxEndIfBusy _ _ _)
    | apply Keeps.refl

theorem keeps_reqSend (s : State) : Keeps s (reqSend s) := by
  unfold reqSend
  try dsimp only
  with_reducible repeat' first
    | apply Keeps.ite
    | apply Keeps.trans ?_ (keeps_ftbControl _ _ _ _)
    | apply Keeps.trans ?_ (keeps_setFtb _ _)
    | split
    | apply Keeps.refl

theorem keeps_reqMake (s : State) (r : TokenReq) : Keeps s (reqMake s r) := by
  unfold reqMake
  try dsimp only
  with_reducible repeat' first
    | apply Keeps.trans ?_ (keeps_reqSend _)
    | apply Keeps.trans ?_ (keeps_setFtb _ _)
    | apply Keeps.refl

theorem keeps_reqAnswer (s : State) (offer : Bool) (k : Nat) : Keeps s (reqAnswer s offer k) := by
  unfold reqAnswer
  try dsimp only
  with_reducible repeat' first
    | apply Keeps.trans ?_ (keeps_setFtb _ _)
    | apply Keeps.trans ?_ (keeps_ftbControl _ _ _ _)
    | apply Keeps.refl

theorem keeps_reqAnswered (s : State) (ok : Bool) : Keeps s (reqAnswered s ok) := by
  unfold reqAnswered
  try dsimp only
  with_reducible repeat' first
    | apply Keeps.ite
    | apply Keeps.trans ?_ (keeps_setFtb _ _)
    | apply Keeps.trans ?_ (keeps_reqEnd _ _ _)
    | split
    | apply Keeps.refl

theorem keeps_reqTake (s : State) (r : TokenReq) : Keeps s (reqTake s r) := by
  unfold reqTake
  try dsimp only
  with_reducible repeat' first
    | apply Keeps.trans ?_ (keeps_reqEnd _ _ _)
    | apply Keeps.trans ?_ (keeps_ftbXfer _ _ _ _)
    | apply Keeps.refl

theorem keeps_reqEdge (s : State) (n : Nat) : KeepsFst s (reqEdge s n) := by
  unfold reqEdge
  try dsimp only
  with_reducible repeat' first
    | apply KeepsFst.ite
    | apply Keeps.trans ?_ (keeps_setFtb _ _)
    | apply Keeps.trans ?_ (keeps_reqEnd _ _ _)
    | apply Keeps.trans ?_ (keeps_ftbXfer _ _ _ _)
    | apply Keeps.trans ?_ (keeps_reqTake _ _)
    | simp only [KeepsFst.pair_iff]
    | split
    | apply Keeps.refl

theorem keeps_ftbTokenReq (s : State) : Keeps s (ftbTokenReq s) := by
  unfold ftbTokenReq
  try dsimp only
  with_reducible repeat' first
    | apply Keeps.ite
    | apply Keeps.trans ?_ (keeps_mbxEnd _ _ _)
    | apply Keeps.trans ?_ (keeps_reqMake _ _)
    | split
    | apply Keeps.refl

theorem keeps_ftbRevert (s : State) : Keeps s (ftbRevert s) := by
  unfold ftbRevert
  try dsimp only
  with_reducible repeat' first
    | apply Keeps.ite
    | apply Keeps.trans ?_ (keeps_reqMake _ _)
    | apply Keeps.trans ?_ (keeps_drew _)
    | split
    | apply Keeps.refl

theorem keeps_giveWay (s : State) (pHolder : Bool) (pEpoch : Nat) : Keeps s (giveWay s pHolder pEpoch) := by
  unfold giveWay
  try dsimp only
  with_reducible repeat' first
    | apply Keeps.ite
    | apply Keeps.trans ?_ (keeps_ftbXfer _ _ _ _)
    | apply Keeps.trans ?_ (keeps_ftbEnter _ _)
    | apply Keeps.refl

theorem keeps_ghbSend (s : State) : Keeps s (ghbSend s) := by
  unfold ghbSend
  try dsimp only
  with_reducible repeat' first
    | apply Keeps.ite
    | apply Keeps.onOpt
    | apply Keeps.trans ?_ (keeps_setFtb _ _)
    | apply KeepsFst.trans ?_ (keeps_physRead _ _ _ _)
    | apply Keeps.trans ?_ (keeps_trlHand _ _ _)
    | intro _
    | apply Keeps.refl

theorem keeps_ghbTick (s : State) : Keeps s (ghbTick s) := by
  unfold ghbTick
  try dsimp only
  with_reducible repeat' first
    | apply Keeps.ite
    | apply Keeps.trans ?_ (keeps_ghbSend _)
    | apply Keeps.refl

theorem keeps_lossState (s : State) : Keeps s (lossState s) := by
  unfold lossState
  try dsimp only
  with_reducible repeat' first
    | apply Keeps.ite
    | apply Keeps.trans ?_ (keeps_ftbEnter _ _)
    | apply Keeps.refl

theorem keeps_fbLoss (s : State) : Keeps s (fbLoss s) := by
  unfold fbLoss
  try dsimp only
  with_reducible repeat' first
    | apply Keeps.ite
    | apply Keeps.trans ?_ (keeps_lossState _)
    | apply Keeps.trans ?_ (keeps_setFtb _ _)
    | apply Keeps.refl

theorem keeps_hbLoss (s : State) : Keeps s (hbLoss s) := by
  unfold hbLoss
  try dsimp only
  with_reducible repeat' first
    | apply Keeps.ite
    | apply Keeps.trans ?_ (keeps_lossState _)
    | apply Keeps.trans ?_ (keeps_setFtb _ _)
    | apply Keeps.refl

theorem keeps_ghbLoss (s : State) : Keeps s (ghbLoss s) := by
  unfold ghbLoss
  try dsimp only
  with_reducible repeat' first
    | apply Keeps.ite
    | apply Keeps.trans ?_ (keeps_lossState _)
    | apply Keeps.trans ?_ (keeps_setFtb _ _)
    | apply Keeps.refl

theorem keeps_hbEdge (s : State) : Keeps s (hbEdge s) := by
  unfold hbEdge
  try dsimp only
  with_reducible repeat' first
    | apply Keeps.ite
    | apply Keeps.trans ?_ (keeps_setFtb _ _)
    | apply Keeps.refl

theorem keeps_hbToggle (s : State) : Keeps s (hbToggle s) := by
  unfold hbToggle
  try dsimp only
  with_reducible repeat' first
    | apply Keeps.ite
    | apply Keeps.trans ?_ (keeps_setFtb _ _)
    | apply Keeps.refl

theorem keeps_ghbReceive (s : State) (bs : List Nat) : Keeps s (ghbReceive s bs) := by
  unfold ghbReceive
  try dsimp only
  with_reducible repeat' first
    | apply Keeps.ite
    | apply Keeps.trans ?_ (keeps_giveWay _ _ _)
    | apply Keeps.trans ?_ (keeps_setFtb _ _)
    | split
    | apply Keeps.refl

theorem keeps_msgSeen (s : State) (h : MsgHead) : Keeps s (msgSeen s h) := by
  unfold msgSeen
  try dsimp only
  with_reducible repeat' first
    | apply Keeps.ite
    | apply Keeps.trans ?_ (keeps_setFtb _ _)
    | apply Keeps.trans ?_ (keeps_ftbEnter _ _)
    | apply Keeps.refl

theorem keeps_msgFirst (s : State) (h : MsgHead) : KeepsFst s (msgFirst s h) := by
  unfold msgFirst
  try dsimp only
  with_reducible repeat' first
    | apply KeepsFst.ite
    | apply Keeps.trans ?_ (keeps_setFtb _ _)
    | simp only [KeepsFst.pair_iff]
    | apply Keeps.refl

theorem keeps_msgTake (s : State) (h : MsgHead) : KeepsFst s (msgTake s h) := by
  unfold msgTake
  try dsimp only
  with_reducible repeat' first
    | apply KeepsFst.ite
    | apply KeepsFst.trans ?_ (keeps_msgFirst _ _)
    | apply Keeps.trans ?_ (keeps_msgSeen _ _)
    | simp only [KeepsFst.pair_iff]
    | apply Keeps.refl

theorem keeps_controlConfirm (s : State) (h : MsgHead) (c : Control) : Keeps s (controlConfirm s h c) := by
  unfold controlConfirm
  try dsimp only
  with_reducible repeat' first
    | apply Keeps.ite
    | apply Keeps.trans ?_ (keeps_reqEnd _ _ _)
    | apply Keeps.trans ?_ (keeps_reqTake _ _)
    | apply Keeps.trans ?_ (keeps_setFtb _ _)
    | split
    | apply Keeps.refl

theorem keeps_controlReq (s : State) (c : Control) : Keeps s (controlReq s c) := by
  unfold controlReq
  try dsimp only
  with_reducible repeat' first
    | apply Keeps.ite
    | apply Keeps.trans ?_ (keeps_reqAnswer _ _ _)
    | apply Keeps.trans ?_ (keeps_reqAnswered _ _)
    | apply Keeps.trans ?_ (keeps_setFtb _ _)
    | apply Keeps.trans ?_ (keeps_ftbControl _ _ _ _)
    | split
    | apply Keeps.refl

theorem keeps_controlReceive (s : State) (h : MsgHead) (c : Control) : Keeps s (controlReceive s h c) := by
  unfold controlReceive
  try dsimp only
  with_reducible repeat' first
    | apply Keeps.onOk
    | apply KeepsFst.trans ?_ (keeps_msgTake _ _)
    | apply Keeps.trans ?_ (keeps_setFtb _ _)
    | apply Keeps.trans ?_ (keeps_reqSend _)
    | apply Keeps.trans ?_ (keeps_controlReq _ _)
    | apply Keeps.trans ?_ (keeps_controlConfirm _ _ _)
    | apply Keeps.trans ?_ (keeps_giveWay _ _ _)
    | intro _
    | apply Keeps.refl

theorem keeps_keepAlive (s : State) : Keeps s (keepAlive s) := by
  unfold keepAlive
  try dsimp only
  with_reducible repeat' first
    | apply Keeps.ite
    | apply Keeps.trans ?_ (keeps_ftbControl _ _ _ _)
    | apply Keeps.refl

theorem keeps_takeoverEdge (s : State) : Keeps s (takeoverEdge s) := by
  unfold takeoverEdge
  try dsimp only
  with_reducible repeat' first
    | apply Keeps.ite
    | apply Keeps.trans ?_ (keeps_ftbXfer _ _ _ _)
    | apply Keeps.trans ?_ (keeps_ghbSend _)
    | apply Keeps.trans ?_ (keeps_ftbEnter _ _)
    | apply Keeps.refl

theorem keeps_ftbSundialEdge (s : State) (n : Nat) : Keeps s (ftbSundialEdge s n) := by
  unfold ftbSundialEdge
  try dsimp only
  with_reducible repeat' first
    | apply Keeps.ite
    | apply Keeps.onPair
    | apply KeepsFst.trans ?_ (keeps_reqEdge _ _)
    | apply Keeps.trans ?_ (keeps_ftbControl _ _ _ _)
    | apply Keeps.trans ?_ (keeps_takeoverEdge _)
    | intro _
    | apply Keeps.refl

theorem keeps_spoil (s : State) : Keeps s (spoil s) := by
  unfold spoil
  try dsimp only
  with_reducible repeat' first
    | apply Keeps.trans ?_ (keeps_setFtb _ _)
    | apply Keeps.refl

theorem keeps_diagStart (s : State) (d : Digest) (mismatch : Bool) (missing : Bool) : Keeps s (diagStart s d mismatch missing) := by
  unfold diagStart
  try dsimp only
  with_reducible repeat' first
    | apply Keeps.trans ?_ (keeps_spoil _)
    | apply Keeps.trans ?_ (keeps_setFtb _ _)
    | apply Keeps.refl

theorem keeps_setDig (s : State) (d : Digest) : Keeps s (setDig s d) := by
  unfold setDig
  try dsimp only
  with_reducible repeat' first
    | apply Keeps.trans ?_ (keeps_setFtb _ _)
    | apply Keeps.refl

theorem keeps_digestMeet (s : State) (d : Digest) (out : Nat) (inp : Nat) : Keeps s (digestMeet s d out inp) := by
  unfold digestMeet
  try dsimp only
  with_reducible repeat' first
    | apply Keeps.ite
    | apply Keeps.trans ?_ (keeps_setDig _ _)
    | apply Keeps.trans ?_ (keeps_diagStart _ _ _ _)
    | apply Keeps.trans ?_ (keeps_cinc _ _)
    | apply Keeps.refl

theorem keeps_digestForm (s : State) (n : Nat) : Keeps s (digestForm s n) := by
  unfold digestForm
  try dsimp only
  with_reducible repeat' first
    | apply Keeps.ite
    | apply Keeps.trans ?_ (keeps_setFtb _ _)
    | apply Keeps.trans ?_ (keeps_ftbSend _ _ _)
    | apply Keeps.trans ?_ (keeps_digestMeet _ _ _ _)
    | split
    | apply Keeps.refl

theorem keeps_digestReceive (s : State) (h : MsgHead) (n : Nat) (out : Nat) (inp : Nat) : Keeps s (digestReceive s h n out inp) := by
  unfold digestReceive
  try dsimp only
  with_reducible repeat' first
    | apply Keeps.onOk
    | apply KeepsFst.trans ?_ (keeps_msgTake _ _)
    | apply Keeps.trans ?_ (keeps_setFtb _ _)
    | apply Keeps.trans ?_ (keeps_digestMeet _ _ _ _)
    | intro _
    | split
    | apply Keeps.refl

theorem keeps_digestMissing (s : State) : Keeps s (digestMissing s) := by
  unfold digestMissing
  try dsimp only
  with_reducible repeat' first
    | apply Keeps.ite
    | apply Keeps.trans ?_ (keeps_setDig _ _)
    | apply Keeps.trans ?_ (keeps_diagStart _ _ _ _)
    | apply Keeps.trans ?_ (keeps_cinc _ _)
    | split
    | apply Keeps.refl

theorem keeps_diagRecord (s : State) (n : Nat) (outcome : Nat) (mismatch : Bool) (missing : Bool) (own : Bool) : Keeps s (diagRecord s n outcome mismatch missing own) := by
  unfold diagRecord
  try dsimp only
  with_reducible repeat' first
    | apply Keeps.trans ?_ (keeps_recordFixed _ _ _ _ _)
    | apply Keeps.refl

theorem keeps_diagEnd (s : State) : Keeps s (diagEnd s) := by
  unfold diagEnd
  try dsimp only
  with_reducible repeat' first
    | apply Keeps.ite
    | apply Keeps.trans ?_ (keeps_setFtb _ _)
    | apply Keeps.trans ?_ (keeps_diagRecord _ _ _ _ _ _)
    | apply Keeps.trans ?_ (keeps_ftbEnter _ _)
    | apply Keeps.trans ?_ (keeps_ftbFreeze _)
    | split
    | apply Keeps.refl

theorem keeps_freezeTimeout (s : State) : Keeps s (freezeTimeout s) := by
  unfold freezeTimeout
  try dsimp only
  with_reducible repeat' first
    | apply Keeps.ite
    | apply Keeps.trans ?_ (keeps_ftbEnter _ _)
    | apply Keeps.trans ?_ (keeps_setFtb _ _)
    | split
    | apply Keeps.refl

theorem keeps_ftbFabricEdge (s : State) : Keeps s (ftbFabricEdge s) := by
  unfold ftbFabricEdge
  try dsimp only
  with_reducible repeat' first
    | apply Keeps.ite
    | apply Keeps.trans ?_ (keeps_ftbEnter _ _)
    | apply Keeps.trans ?_ (keeps_spoil _)
    | apply Keeps.trans ?_ (keeps_setFtb _ _)
    | apply Keeps.refl

theorem keeps_ftbDigReq (s : State) (a : Nat) : Keeps s (ftbDigReq s a) := by
  unfold ftbDigReq
  try dsimp only
  with_reducible repeat' first
    | apply Keeps.trans ?_ (keeps_mbxEnd _ _ _)
    | apply Keeps.trans ?_ (keeps_mbxAnswer _ _ _ _)
    | split
    | apply Keeps.refl

theorem keeps_ftbDriveChange (old : State) (s : State) : Keeps s (ftbDriveChange old s) := by
  unfold ftbDriveChange
  try dsimp only
  with_reducible repeat' first
    | apply Keeps.ite
    | apply Keeps.trans ?_ (keeps_xferRecord _ _ _)
    | apply Keeps.trans ?_ (keeps_stateRecord _ _)
    | apply Keeps.refl

theorem keeps_ftbAbandon (s : State) : Keeps s (ftbAbandon s) := by
  unfold ftbAbandon
  try dsimp only
  with_reducible repeat' first
    | apply Keeps.trans ?_ (keeps_setFtb _ _)
    | apply Keeps.trans ?_ (keeps_mbxEndIfBusy _ _ _)
    | apply Keeps.refl

theorem keeps_ftbEnable (on : Bool) (old : State) (s : State) : Keeps s (ftbEnable on old s) := by
  unfold ftbEnable
  try dsimp only
  with_reducible repeat' first
    | apply Keeps.ite
    | apply Keeps.trans ?_ (keeps_ftbAbandon _)
    | apply Keeps.trans ?_ (keeps_setFtb _ _)
    | apply Keeps.trans ?_ (keeps_ftbDriveChange _ _)
    | apply Keeps.refl

theorem keeps_listenEnd (s : State) : Keeps s (listenEnd s) := by
  unfold listenEnd
  try dsimp only
  with_reducible repeat' first
    | apply Keeps.ite
    | apply Keeps.trans ?_ (keeps_setFtb _ _)
    | apply Keeps.trans ?_ (keeps_ftbEnter _ _)
    | apply Keeps.trans ?_ (keeps_ftbXfer _ _ _ _)
    | split
    | apply Keeps.refl

theorem keeps_ftbSrst (s : State) : Keeps s (ftbSrst s) := by
  unfold ftbSrst
  try dsimp only
  with_reducible repeat' first
    | apply Keeps.ite
    | apply Keeps.trans ?_ (keeps_ftbAbandon _)
    | apply Keeps.trans ?_ (keeps_ftbEnter _ _)
    | apply Keeps.refl

end Sys2Proof.Machine
end

