-- ==== Sys2Proof/Laws/KeepIngest.lean ====
section
/-! SUPPORT. What the operations of Machine/Ingest.lean keep: the queue, memory's canonical form and the fuses. -/

set_option Elab.async false

namespace Sys2Proof.Machine

theorem keeps_setStream (s : State) (k : Nat) (x : Stream) : Keeps s (setStream s k x) := by
  unfold setStream
  try dsimp only
  with_reducible repeat' first
    | simp only [Keeps.mk_iff]
    | apply Keeps.refl

theorem keeps_strAdd (s : State) (k : Nat) (i : Nat) (n : Nat) : Keeps s (strAdd s k i n) := by
  unfold strAdd
  try dsimp only
  with_reducible repeat' first
    | apply Keeps.trans ?_ (keeps_setStream _ _ _)
    | apply Keeps.refl

theorem keeps_strInc (s : State) (k : Nat) (i : Nat) : Keeps s (strInc s k i) := by
  unfold strInc
  try dsimp only
  with_reducible repeat' first
    | apply Keeps.trans ?_ (keeps_strAdd _ _ _ _)
    | apply Keeps.refl

theorem keeps_stateEvent (s : State) (k : Nat) : Keeps s (stateEvent s k) := by
  unfold stateEvent
  try dsimp only
  with_reducible repeat' first
    | apply Keeps.ite
    | apply Keeps.trans ?_ (keeps_postCounted _ _ _ _ _)
    | apply Keeps.refl

theorem keeps_frameEvent (s : State) (e : Ev) : Keeps s (frameEvent s e) := by
  unfold frameEvent
  try dsimp only
  with_reducible repeat' first
    | apply keeps_onPosted
    | apply KeepsFst.trans ?_ (keeps_bndPost _ _)
    | simp only [Keeps.mk_iff]
    | intro _
    | apply Keeps.refl

theorem keeps_frameRetry (s : State) : Keeps s (frameRetry s) := by
  unfold frameRetry
  try dsimp only
  with_reducible repeat' first
    | apply Keeps.trans ?_ (keeps_frameEvent _ _)
    | simp only [Keeps.mk_iff]
    | split
    | apply Keeps.refl

theorem keeps_markRejected (s : State) (k : Nat) (a : Int) : Keeps s (markRejected s k a) := by
  unfold markRejected
  try dsimp only
  with_reducible repeat' first
    | apply Keeps.ite
    | simp only [Keeps.mk_iff]
    | apply Keeps.refl

theorem keeps_notePlaced (s : State) (k : Nat) (a : Nat) (peer : Bool) : Keeps s (notePlaced s k a peer) := by
  unfold notePlaced
  try dsimp only
  with_reducible repeat' first
    | apply Keeps.ite
    | apply Keeps.trans ?_ (keeps_setStream _ _ _)
    | apply Keeps.trans ?_ (keeps_strAdd _ _ _ _)
    | apply Keeps.trans ?_ (keeps_stateEvent _ _)
    | split
    | apply Keeps.refl

theorem keeps_place (s : State) (x : Sample) : Keeps s (place s x) := by
  unfold place
  try dsimp only
  with_reducible repeat' first
    | apply Keeps.ite
    | apply Keeps.trans ?_ (keeps_markRejected _ _ _)
    | apply Keeps.trans ?_ (keeps_notePlaced _ _ _ _)
    | simp only [Keeps.mk_iff]
    | apply Keeps.refl

theorem keeps_countLate (s : State) (k : Nat) (g : Nat) : Keeps s (countLate s k g) := by
  unfold countLate
  try dsimp only
  with_reducible repeat' first
    | apply Keeps.trans ?_ (keeps_cinc _ _)
    | apply Keeps.trans ?_ (keeps_strInc _ _ _)
    | apply Keeps.refl

theorem keeps_asduPlace (k : Nat) (t : Nat) (s : State) (a : Asdu) : Keeps s (asduPlace k t s a) := by
  unfold asduPlace
  try dsimp only
  with_reducible repeat' first
    | apply Keeps.ite
    | apply Keeps.trans ?_ (keeps_markRejected _ _ _)
    | apply Keeps.trans ?_ (keeps_strInc _ _ _)
    | apply Keeps.trans ?_ (keeps_cinc _ _)
    | apply Keeps.trans ?_ (keeps_countLate _ _ _)
    | apply Keeps.trans ?_ (keeps_place _ _)
    | apply Keeps.refl

theorem keeps_rejectFrame (s : State) (k : Nat) (f : Frame) : Keeps s (rejectFrame s k f) := by
  unfold rejectFrame
  try dsimp only
  with_reducible repeat' first
    | apply Keeps.ite
    | apply Keeps.foldl
    | apply Keeps.trans ?_ (keeps_markRejected _ _ _)
    | intro _
    | apply Keeps.refl

theorem keeps_frameAccept (s : State) (k : Nat) (f : Frame) (as : List Asdu) : Keeps s (frameAccept s k f as) := by
  unfold frameAccept
  try dsimp only
  with_reducible repeat' first
    | apply Keeps.ite
    | apply Keeps.foldl
    | apply Keeps.trans ?_ (keeps_strInc _ _ _)
    | apply Keeps.trans ?_ (keeps_setStream _ _ _)
    | apply Keeps.trans ?_ (keeps_asduPlace _ _ _ _)
    | apply Keeps.trans ?_ (keeps_frameEvent _ _)
    | intro _
    | apply Keeps.refl

theorem keeps_frameStream (s : State) (k : Nat) (f : Frame) : Keeps s (frameStream s k f) := by
  unfold frameStream
  try dsimp only
  with_reducible repeat' first
    | apply Keeps.ite
    | apply Keeps.onOpt
    | apply Keeps.trans ?_ (keeps_cinc _ _)
    | apply Keeps.trans ?_ (keeps_rejectFrame _ _ _)
    | apply Keeps.trans ?_ (keeps_strInc _ _ _)
    | apply Keeps.trans ?_ (keeps_frameAccept _ _ _ _)
    | apply KeepsFst.trans ?_ (keeps_authCheck _ _ _ _ _ _ _)
    | intro _
    | split
    | apply Keeps.refl

theorem keeps_sviHandle (s : State) (f : Frame) : Keeps s (sviHandle s f) := by
  unfold sviHandle
  try dsimp only
  with_reducible repeat' first
    | apply Keeps.ite
    | apply Keeps.trans ?_ (keeps_cinc _ _)
    | apply Keeps.trans ?_ (keeps_frameStream _ _ _)
    | simp only [Keeps.mk_iff]
    | split
    | apply Keeps.refl

theorem keeps_sviIngest (s : State) : Keeps s (sviIngest s) := by
  unfold sviIngest
  try dsimp only
  with_reducible repeat' first
    | apply Keeps.ite
    | apply Keeps.trans ?_ (keeps_sviHandle _ _)
    | apply Keeps.trans ?_ (keeps_takeHead _ _ _)
    | split
    | apply Keeps.refl

theorem keeps_streamTimeout (s : State) (k : Nat) : Keeps s (streamTimeout s k) := by
  unfold streamTimeout
  try dsimp only
  with_reducible repeat' first
    | apply Keeps.ite
    | apply Keeps.trans ?_ (keeps_stateEvent _ _)
    | apply Keeps.trans ?_ (keeps_setStream _ _ _)
    | split
    | apply Keeps.refl

theorem keeps_setSample (s : State) (k : Nat) (a : Nat) : KeepsFst s (setSample s k a) := by
  unfold setSample
  try dsimp only
  with_reducible repeat' first
    | apply Keeps.ite
    | apply Keeps.trans ?_ (keeps_cinc _ _)
    | apply Keeps.trans ?_ (keeps_setStream _ _ _)
    | apply Keeps.trans ?_ (keeps_strInc _ _ _)
    | simp only [KeepsFst.pair_iff]
    | split
    | apply Keeps.refl

theorem keeps_setStreamOf (s : State) (k : Nat) (n : Nat) (f : Nat) : KeepsFst s (setStreamOf s k n f) := by
  unfold setStreamOf
  try dsimp only
  with_reducible repeat' first
    | apply KeepsFst.onPair
    | apply Keeps.foldl_fst
    | apply KeepsFst.trans ?_ (keeps_setSample _ _ _)
    | simp only [KeepsFst.pair_iff]
    | intro _
    | apply Keeps.refl

theorem keeps_dropReleased (s : State) (g : Nat) : Keeps s (dropReleased s g) := by
  unfold dropReleased
  try dsimp only
  with_reducible repeat' first
    | simp only [Keeps.mk_iff]
    | apply Keeps.refl

theorem keeps_passSet (s : State) (g : Nat) (n : Nat) (f : Nat) : Keeps s (passSet s g n f) := by
  unfold passSet
  try dsimp only
  with_reducible repeat' first
    | apply Keeps.trans ?_ (keeps_dropReleased _ _)
    | simp only [Keeps.mk_iff]
    | apply Keeps.refl

theorem keeps_releaseSet (s : State) (g : Nat) (n : Nat) (f : Nat) : Keeps s (releaseSet s g n f) := by
  unfold releaseSet
  try dsimp only
  with_reducible repeat' first
    | apply Keeps.ite
    | apply KeepsFst.onPair
    | apply Keeps.foldl_fst
    | apply KeepsFst.trans ?_ (keeps_setStreamOf _ _ _ _)
    | apply Keeps.trans ?_ (keeps_passSet _ _ _ _)
    | apply Keeps.trans ?_ (keeps_postCounted _ _ _ _ _)
    | simp only [KeepsFst.pair_iff, Keeps.mk_iff]
    | intro _
    | apply Keeps.refl

theorem keeps_passAll (s : State) (g : Nat) (n : Nat) (f : Nat) : Keeps s (passAll s g n f) := by
  unfold passAll
  try dsimp only
  with_reducible repeat' first
    | apply Keeps.ite
    | apply Keeps.trans ?_ (keeps_passSet _ _ _ _)
    | simp only [Keeps.mk_iff]
    | apply Keeps.refl

theorem keeps_releaseOr (s : State) (g : Nat) (n : Nat) (f : Nat) : Keeps s (releaseOr s g n f) := by
  unfold releaseOr
  try dsimp only
  with_reducible repeat' first
    | apply Keeps.ite
    | apply Keeps.trans ?_ (keeps_releaseSet _ _ _ _)
    | apply Keeps.trans ?_ (keeps_passAll _ _ _ _)
    | apply Keeps.refl

theorem keeps_releaseTo (c : Nat) (s : State) (g : Nat) : Keeps s (releaseTo c s g) := by
  unfold releaseTo
  try dsimp only
  with_reducible repeat' first
    | apply Keeps.ite
    | apply Keeps.foldl
    | apply Keeps.trans ?_ (keeps_releaseOr _ _ _ _)
    | intro _
    | split
    | apply Keeps.refl

theorem keeps_alignRelease (s : State) (g : Nat) : Keeps s (alignRelease s g) := by
  unfold alignRelease
  try dsimp only
  with_reducible repeat' first
    | apply Keeps.ite
    | apply Keeps.foldl
    | apply Keeps.trans ?_ (keeps_releaseOr _ _ _ _)
    | apply Keeps.trans ?_ (keeps_releaseTo _ _ _)
    | intro _
    | split
    | apply Keeps.refl

theorem keeps_stopRelease (s : State) : Keeps s (stopRelease s) := by
  unfold stopRelease
  try dsimp only
  with_reducible repeat' first
    | apply Keeps.ite
    | apply Keeps.foldl
    | apply Keeps.trans ?_ (keeps_releaseOr _ _ _ _)
    | simp only [Keeps.mk_iff]
    | intro _
    | apply Keeps.refl

theorem keeps_lostFollow (s : State) (k : Nat) : Keeps s (lostFollow s k) := by
  unfold lostFollow
  try dsimp only
  with_reducible repeat' first
    | apply Keeps.ite
    | apply Keeps.trans ?_ (keeps_stateEvent _ _)
    | apply Keeps.trans ?_ (keeps_setStream _ _ _)
    | split
    | apply Keeps.refl

theorem keeps_casDrop (s : State) : Keeps s (casDrop s) := by
  unfold casDrop
  try dsimp only
  with_reducible repeat' first
    | simp only [Keeps.mk_iff]
    | apply Keeps.refl

theorem keeps_descApply (s : State) (k : Nat) (d : Option (List Nat)) (since : Nat × Nat) : Keeps s (descApply s k d since) := by
  unfold descApply
  try dsimp only
  with_reducible repeat' first
    | apply Keeps.ite
    | apply Keeps.trans ?_ (keeps_lostFollow _ _)
    | apply Keeps.trans ?_ (keeps_setStream _ _ _)
    | simp only [Keeps.mk_iff]
    | split
    | apply Keeps.refl

theorem keeps_descEdge (s : State) (now : Bool) (since : Nat × Nat) : Keeps s (descEdge s now since) := by
  unfold descEdge
  try dsimp only
  with_reducible repeat' first
    | apply Keeps.ite
    | apply Keeps.trans ?_ (keeps_mbxEndIfBusy _ _ _)
    | apply Keeps.trans ?_ (keeps_casDrop _)
    | apply Keeps.trans ?_ (keeps_descApply _ _ _ _)
    | simp only [Keeps.mk_iff]
    | split
    | apply Keeps.refl

theorem keeps_descTake (s : State) (k : Nat) (d : Option (List Nat)) : Keeps s (descTake s k d) := by
  unfold descTake
  try dsimp only
  with_reducible repeat' first
    | apply Keeps.ite
    | apply Keeps.trans ?_ (keeps_descEdge _ _ _)
    | simp only [Keeps.mk_iff]
    | apply Keeps.refl

theorem keeps_sviDescReq (s : State) : Keeps s (sviDescReq s) := by
  unfold sviDescReq
  try dsimp only
  with_reducible repeat' first
    | apply Keeps.trans ?_ (keeps_mbxEnd _ _ _)
    | apply Keeps.trans ?_ (keeps_descTake _ _ _)
    | apply Keeps.trans ?_ (keeps_mbxAnswer _ _ _ _)
    | split
    | apply Keeps.refl

theorem keeps_sviScntReq (s : State) (a : Nat) : Keeps s (sviScntReq s a) := by
  unfold sviScntReq
  try dsimp only
  with_reducible repeat' first
    | apply Keeps.trans ?_ (keeps_mbxAnswer _ _ _ _)
    | apply Keeps.trans ?_ (keeps_mbxEnd _ _ _)
    | apply Keeps.trans ?_ (keeps_setStream _ _ _)
    | split
    | apply Keeps.refl

theorem keeps_sviMbx (r : SviReg) (a : Nat) (s : State) : Keeps s (sviMbx r a s) := by
  unfold sviMbx
  try dsimp only
  with_reducible repeat' first
    | apply Keeps.trans ?_ (keeps_sviDescReq _)
    | apply Keeps.trans ?_ (keeps_sviScntReq _ _)
    | split
    | apply Keeps.refl

theorem keeps_sviFabricEdge (s : State) (n : Nat) (f : Nat) : Keeps s (sviFabricEdge s n f) := by
  unfold sviFabricEdge
  try dsimp only
  with_reducible repeat' first
    | apply Keeps.trans ?_ (keeps_casDrop _)
    | apply Keeps.trans ?_ (keeps_descEdge _ _ _)
    | simp only [Keeps.mk_iff]
    | apply Keeps.refl

theorem keeps_groupEnabled (s : State) (g : Nat) : Keeps s (groupEnabled s g) := by
  unfold groupEnabled
  try dsimp only
  with_reducible repeat' first
    | apply Keeps.ite
    | apply Keeps.trans ?_ (keeps_passSet _ _ _ _)
    | split
    | apply Keeps.refl

theorem keeps_sviApplied (old : State) (s : State) : Keeps s (sviApplied old s) := by
  unfold sviApplied
  try dsimp only
  with_reducible repeat' first
    | apply Keeps.ite
    | apply Keeps.foldl
    | apply Keeps.trans ?_ (keeps_casDrop _)
    | apply Keeps.trans ?_ (keeps_groupEnabled _ _)
    | intro _
    | apply Keeps.refl

theorem keeps_sviEnable (p : Nat) (on : Bool) (old : State) (s : State) : Keeps s (sviEnable p on old s) := by
  unfold sviEnable
  try dsimp only
  with_reducible repeat' first
    | apply Keeps.ite
    | apply Keeps.foldl
    | apply Keeps.trans ?_ (keeps_groupEnabled _ _)
    | apply Keeps.trans ?_ (keeps_sviApplied _ _)
    | simp only [Keeps.mk_iff]
    | intro _
    | apply Keeps.refl

theorem keeps_loseAll (s : State) : Keeps s (loseAll s) := by
  unfold loseAll
  try dsimp only
  with_reducible repeat' first
    | apply Keeps.ite
    | apply Keeps.foldl
    | apply Keeps.trans ?_ (keeps_setStream _ _ _)
    | apply Keeps.trans ?_ (keeps_stateEvent _ _)
    | intro _
    | apply Keeps.refl

theorem keeps_sviSrst (p : Nat) (s : State) : Keeps s (sviSrst p s) := by
  unfold sviSrst
  try dsimp only
  with_reducible repeat' first
    | apply Keeps.ite
    | apply Keeps.foldl
    | apply Keeps.trans ?_ (keeps_loseAll _)
    | apply Keeps.trans ?_ (keeps_passSet _ _ _ _)
    | simp only [Keeps.mk_iff]
    | intro _
    | split
    | apply Keeps.refl

theorem keeps_mirrorPlace (s : State) (r : MirrorRec) : Keeps s (mirrorPlace s r) := by
  unfold mirrorPlace
  try dsimp only
  with_reducible repeat' first
    | apply Keeps.ite
    | apply Keeps.trans ?_ (keeps_cinc _ _)
    | apply Keeps.trans ?_ (keeps_place _ _)
    | apply Keeps.refl

theorem keeps_sampleReceive (s : State) (h : MsgHead) (rs : List MirrorRec) : Keeps s (sampleReceive s h rs) := by
  unfold sampleReceive
  try dsimp only
  with_reducible repeat' first
    | apply Keeps.onOk
    | apply Keeps.foldl
    | apply KeepsFst.trans ?_ (keeps_msgTake _ _)
    | apply Keeps.trans ?_ (keeps_mirrorPlace _ _)
    | intro _
    | apply Keeps.refl

theorem keeps_sampleSend (s : State) : Keeps s (sampleSend s) := by
  unfold sampleSend
  try dsimp only
  with_reducible repeat' first
    | apply Keeps.ite
    | apply Keeps.trans ?_ (keeps_ftbSend _ _ _)
    | simp only [Keeps.mk_iff]
    | apply Keeps.refl

end Sys2Proof.Machine
end

