-- ==== Sys2Proof/Laws/KeepLantern.lean ====
section
/-! SUPPORT. What the operations of Machine/Lantern.lean keep: the queue, memory's canonical form and the fuses. -/

set_option Elab.async false

namespace Sys2Proof.Machine

theorem keeps_lanesFault (s : State) (f : FieldRef) (unit : Nat) : Keeps s (lanesFault s f unit) := by
  unfold lanesFault
  try dsimp only
  with_reducible repeat' first
    | apply Keeps.trans ?_ (keeps_raiseOpen _ _ _ _)
    | apply Keeps.trans ?_ (keeps_cinc _ _)
    | apply Keeps.refl

theorem keeps_lanesCheck (s : State) (differ : List LaneResult) (r : LaneResult) (f : FieldRef) (unit : Nat) : Keeps s (lanesCheck s differ r f unit) := by
  unfold lanesCheck
  try dsimp only
  with_reducible repeat' first
    | apply Keeps.ite
    | apply Keeps.trans ?_ (keeps_lanesFault _ _ _)
    | apply Keeps.refl

theorem keeps_setChan (s : State) (c : Nat) (x : CasChannel) : Keeps s (setChan s c x) := by
  unfold setChan
  try dsimp only
  with_reducible repeat' first
    | simp only [Keeps.mk_iff]
    | apply Keeps.refl

theorem keeps_feedSample (differ : List LaneResult) (ch : Chain) (ph : Nat) (f : Nat) (n : Nat) (idx : Nat) (v : Int × Nat) (s : State) (c : Nat) : Keeps s (feedSample differ ch ph f n idx v s c) := by
  unfold feedSample
  try dsimp only
  with_reducible repeat' first
    | apply Keeps.foldl
    | apply Keeps.trans ?_ (keeps_cadd _ _ _)
    | apply Keeps.trans ?_ (keeps_setChan _ _ _)
    | apply Keeps.trans ?_ (keeps_lanesFault _ _ _)
    | intro _
    | apply Keeps.refl

theorem keeps_writePoint (s : State) (mid : Nat) (idx : Nat) (v : Nat) (q : Nat) (t : Nat) : Keeps s (writePoint s mid idx v q t) := by
  unfold writePoint
  try dsimp only
  with_reducible repeat' first
    | apply Keeps.trans ?_ (keeps_physPut _ _ _ _)
    | simp only [Keeps.mk_iff]
    | apply Keeps.refl

theorem keeps_tripPoints (differ : List LaneResult) (ps : List Phasor) (s : State) (e : Nat × Triplet) : Keeps s (tripPoints differ ps s e) := by
  unfold tripPoints
  try dsimp only
  with_reducible repeat' first
    | apply Keeps.ite
    | apply Keeps.foldl
    | apply Keeps.trans ?_ (keeps_lanesCheck _ _ _ _ _)
    | apply Keeps.trans ?_ (keeps_cinc _ _)
    | apply Keeps.trans ?_ (keeps_writePoint _ _ _ _ _ _)
    | intro _
    | split
    | apply Keeps.refl

theorem keeps_setLtn (s : State) (g : Nat) (x : LtnGroup) : Keeps s (setLtn s g x) := by
  unfold setLtn
  try dsimp only
  with_reducible repeat' first
    | simp only [Keeps.mk_iff]
    | apply Keeps.refl

theorem keeps_frequencyOf (s : State) (differ : List LaneResult) (g : Nat) (mark : Nat × Nat) (x4 : Nat) (q : Nat) (tr : Nat) (fo : Nat) (k : Nat) : Keeps s (frequencyOf s differ g mark x4 q tr fo k) := by
  unfold frequencyOf
  try dsimp only
  with_reducible repeat' first
    | apply Keeps.ite
    | apply Keeps.trans ?_ (keeps_cinc _ _)
    | apply Keeps.trans ?_ (keeps_setLtn _ _ _)
    | apply Keeps.trans ?_ (keeps_lanesCheck _ _ _ _ _)
    | apply Keeps.trans ?_ (keeps_writePoint _ _ _ _ _ _)
    | apply Keeps.refl

theorem keeps_trackerUpdate (s : State) (g : Nat) (p : Phasor) : Keeps s (trackerUpdate s g p) := by
  unfold trackerUpdate
  try dsimp only
  with_reducible repeat' first
    | apply Keeps.trans ?_ (keeps_trackerReceive _ _)
    | apply Keeps.refl

theorem keeps_feedSet (s : State) (differ : List LaneResult) (r : RelSet) (ph : Nat) : Keeps s (feedSet s differ r ph) := by
  unfold feedSet
  try dsimp only
  with_reducible repeat' first
    | apply Keeps.ite
    | apply Keeps.foldl
    | apply Keeps.trans ?_ (keeps_feedSample _ _ _ _ _ _ _ _ _)
    | intro _
    | split
    | apply Keeps.refl

theorem keeps_pushOutput (s : State) (c : Nat) (y : Int × Nat) (mark : Nat × Nat) : Keeps s (pushOutput s c y mark) := by
  unfold pushOutput
  try dsimp only
  with_reducible repeat' first
    | apply Keeps.trans ?_ (keeps_setChan _ _ _)
    | apply Keeps.refl

theorem keeps_casChannel (differ : List LaneResult) (r : RelSet) (ph : Nat) (f : Nat) (s : State) (c : Nat) : KeepsFst s (casChannel differ r ph f s c) := by
  unfold casChannel
  try dsimp only
  with_reducible repeat' first
    | apply Keeps.ite
    | apply KeepsFst.ite
    | apply Keeps.trans ?_ (keeps_cinc _ _)
    | apply Keeps.trans ?_ (keeps_lanesFault _ _ _)
    | apply Keeps.trans ?_ (keeps_pushOutput _ _ _ _)
    | apply Keeps.trans ?_ (keeps_writePoint _ _ _ _ _ _)
    | apply Keeps.trans ?_ (keeps_lanesCheck _ _ _ _ _)
    | simp only [KeepsFst.pair_iff]
    | split
    | apply Keeps.refl

theorem keeps_ltnChannel (differ : List LaneResult) (g : Nat) (f : Nat) (s : State) (c : Nat) (u0 : Nat) : KeepsFst s (ltnChannel differ g f s c u0) := by
  unfold ltnChannel
  try dsimp only
  with_reducible repeat' first
    | apply KeepsFst.ite
    | apply Keeps.trans ?_ (keeps_cadd _ _ _)
    | apply Keeps.trans ?_ (keeps_lanesCheck _ _ _ _ _)
    | apply Keeps.trans ?_ (keeps_writePoint _ _ _ _ _ _)
    | simp only [KeepsFst.pair_iff]
    | split
    | apply Keeps.refl

theorem keeps_measEvent (s : State) (r : RelSet) (outs : List (Nat × Bool × Nat)) : Keeps s (measEvent s r outs) := by
  unfold measEvent
  try dsimp only
  with_reducible repeat' first
    | apply Keeps.ite
    | apply Keeps.trans ?_ (keeps_postCounted _ _ _ _ _)
    | apply Keeps.refl

theorem keeps_ltnSet (s : State) (differ : List LaneResult) (r : RelSet) (ph : Nat) (f : Nat) (outs : List (Nat × Bool × Nat)) : Keeps s (ltnSet s differ r ph f outs) := by
  unfold ltnSet
  try dsimp only
  with_reducible repeat' first
    | apply Keeps.ite
    | apply KeepsFst.onPair
    | apply Keeps.foldl
    | apply Keeps.foldl_fst
    | apply KeepsFst.trans ?_ (keeps_ltnChannel _ _ _ _ _ _)
    | apply Keeps.trans ?_ (keeps_tripPoints _ _ _ _)
    | apply Keeps.trans ?_ (keeps_frequencyOf _ _ _ _ _ _ _ _ _)
    | apply Keeps.trans ?_ (keeps_writePoint _ _ _ _ _ _)
    | apply Keeps.trans ?_ (keeps_trackerUpdate _ _ _)
    | simp only [KeepsFst.pair_iff]
    | intro _
    | split
    | apply Keeps.refl

theorem keeps_casSet (s : State) (differ : List LaneResult) (r : RelSet) : Keeps s (casSet s differ r) := by
  unfold casSet
  try dsimp only
  with_reducible repeat' first
    | apply Keeps.ite
    | apply KeepsFst.onPair
    | apply Keeps.foldl_fst
    | apply Keeps.trans ?_ (keeps_feedSet _ _ _ _)
    | apply KeepsFst.trans ?_ (keeps_casChannel _ _ _ _ _ _)
    | apply Keeps.trans ?_ (keeps_ltnSet _ _ _ _ _ _)
    | apply Keeps.trans ?_ (keeps_measEvent _ _ _)
    | simp only [KeepsFst.pair_iff]
    | intro _
    | apply Keeps.refl

theorem keeps_casTake (s : State) (differ : List LaneResult) : Keeps s (casTake s differ) := by
  unfold casTake
  try dsimp only
  with_reducible repeat' first
    | apply Keeps.trans ?_ (keeps_casSet _ _ _)
    | simp only [Keeps.mk_iff]
    | split
    | apply Keeps.refl

theorem keeps_syncTake (s : State) (go : Bool) (out : Bool) : Keeps s (syncTake s go out) := by
  unfold syncTake
  try dsimp only
  with_reducible repeat' first
    | simp only [Keeps.mk_iff]
    | apply Keeps.refl

theorem keeps_syncIn (s : State) : Keeps s (syncIn s) := by
  unfold syncIn
  try dsimp only
  with_reducible repeat' first
    | apply Keeps.ite
    | apply Keeps.trans ?_ (keeps_syncTake _ _ _)
    | apply Keeps.refl

theorem keeps_casSundialEdge (s : State) (n : Nat) : Keeps s (casSundialEdge s n) := by
  unfold casSundialEdge
  try dsimp only
  with_reducible repeat' first
    | simp only [Keeps.mk_iff]
    | apply Keeps.refl

theorem keeps_syncOutFall (s : State) : Keeps s (syncOutFall s) := by
  unfold syncOutFall
  try dsimp only
  with_reducible repeat' first
    | apply Keeps.ite
    | simp only [Keeps.mk_iff]
    | apply Keeps.refl

theorem keeps_syncGroup (n : Nat) (hz : Nat) (v : Nat) (s : State) (g : Nat) : Keeps s (syncGroup n hz v s g) := by
  unfold syncGroup
  try dsimp only
  with_reducible repeat' first
    | apply Keeps.ite
    | apply Keeps.trans ?_ (keeps_fset _ _ _)
    | simp only [Keeps.mk_iff]
    | apply Keeps.refl

theorem keeps_syncAct (n : Nat) (hz : Nat) (s : State) (q : SyncReq) : Keeps s (syncAct n hz s q) := by
  unfold syncAct
  try dsimp only
  with_reducible repeat' first
    | apply Keeps.ite
    | apply Keeps.foldl
    | apply Keeps.trans ?_ (keeps_syncGroup _ _ _ _ _)
    | apply Keeps.trans ?_ (keeps_cinc _ _)
    | intro _
    | apply Keeps.refl

theorem keeps_syncEdge (s : State) (n : Nat) : Keeps s (syncEdge s n) := by
  unfold syncEdge
  try dsimp only
  with_reducible repeat' first
    | apply Keeps.foldl
    | apply Keeps.trans ?_ (keeps_syncAct _ _ _ _)
    | simp only [Keeps.mk_iff]
    | intro _
    | apply Keeps.refl

theorem keeps_tripEdge (s : State) : Keeps s (tripEdge s) := by
  unfold tripEdge
  try dsimp only
  with_reducible repeat' first
    | apply Keeps.trans ?_ (keeps_mbxEndIfBusy _ _ _)
    | simp only [Keeps.mk_iff]
    | split
    | apply Keeps.refl

theorem keeps_tripTake (s : State) (t : Nat) (x : Option Triplet) : Keeps s (tripTake s t x) := by
  unfold tripTake
  try dsimp only
  with_reducible repeat' first
    | apply Keeps.ite
    | apply Keeps.trans ?_ (keeps_tripEdge _)
    | simp only [Keeps.mk_iff]
    | apply Keeps.refl

theorem keeps_ltnMbx (r : LtnReg) (a : Nat) (s : State) : Keeps s (ltnMbx r a s) := by
  unfold ltnMbx
  try dsimp only
  with_reducible repeat' first
    | apply Keeps.trans ?_ (keeps_tripTake _ _ _)
    | apply Keeps.trans ?_ (keeps_mbxAnswer _ _ _ _)
    | apply Keeps.trans ?_ (keeps_mbxEnd _ _ _)
    | split
    | apply Keeps.refl

theorem keeps_casMbx (r : CasReg) (a : Nat) (s : State) : Keeps s (casMbx r a s) := by
  unfold casMbx
  try dsimp only
  with_reducible repeat' first
    | apply Keeps.ite
    | apply Keeps.trans ?_ (keeps_mbxEnd _ _ _)
    | apply Keeps.trans ?_ (keeps_mbxAnswer _ _ _ _)
    | split
    | apply Keeps.refl

theorem keeps_casWsc (r : CasReg) (v : Nat) (s : State) : Keeps s (casWsc r v s) := by
  unfold casWsc
  try dsimp only
  with_reducible repeat' first
    | apply Keeps.ite
    | apply Keeps.trans ?_ (keeps_syncTake _ _ _)
    | split
    | apply Keeps.refl

theorem keeps_casApplied (old : State) (s : State) : Keeps s (casApplied old s) := by
  unfold casApplied
  try dsimp only
  with_reducible repeat' first
    | apply Keeps.trans ?_ (keeps_casDrop _)
    | simp only [Keeps.mk_iff]
    | apply Keeps.refl

theorem keeps_casSrst (p : Nat) (s : State) : Keeps s (casSrst p s) := by
  unfold casSrst
  try dsimp only
  with_reducible repeat' first
    | apply Keeps.ite
    | simp only [Keeps.mk_iff]
    | apply Keeps.refl

theorem keeps_dropMeas (s : State) (g : Nat) : Keeps s (dropMeas s g) := by
  unfold dropMeas
  try dsimp only
  with_reducible repeat' first
    | simp only [Keeps.mk_iff]
    | apply Keeps.refl

theorem keeps_ltnSrst (p : Nat) (s : State) : Keeps s (ltnSrst p s) := by
  unfold ltnSrst
  try dsimp only
  with_reducible repeat' first
    | apply Keeps.ite
    | apply Keeps.foldl
    | apply Keeps.trans ?_ (keeps_dropMeas _ _)
    | simp only [Keeps.mk_iff]
    | intro _
    | apply Keeps.refl

end Sys2Proof.Machine
end

