-- ==== Sys2Proof/Laws/KeepOrangery.lean ====
section
/-! SUPPORT. What the operations of Machine/Orangery.lean keep: the queue, memory's canonical form and the fuses. -/

set_option Elab.async false

namespace Sys2Proof.Machine

theorem keeps_setOrn (s : State) (o : Orangery) : Keeps s (setOrn s o) := by
  unfold setOrn
  try dsimp only
  with_reducible repeat' first
    | simp only [Keeps.mk_iff]
    | apply Keeps.refl

theorem keeps_auditAdd (s : State) (d1 : Nat) (d2 : Nat) (sec : Nat) (old : Nat) (new : Nat) : Keeps s (auditAdd s d1 d2 sec old new) := by
  unfold auditAdd
  try dsimp only
  with_reducible repeat' first
    | apply Keeps.trans ?_ (keeps_setOrn _ _)
    | apply Keeps.refl

theorem keeps_sealClosed (s : State) (kind : Nat) : Keeps s (sealClosed s kind) := by
  unfold sealClosed
  try dsimp only
  with_reducible repeat' first
    | apply Keeps.trans ?_ (keeps_auditAdd _ _ _ _ _ _)
    | apply Keeps.trans ?_ (keeps_setOrn _ _)
    | apply Keeps.refl

theorem keeps_ornSave (s : State) (clean : Bool) : Keeps s (ornSave s clean) := by
  unfold ornSave
  try dsimp only
  with_reducible repeat' first
    | apply Keeps.trans ?_ (keeps_setOrn _ _)
    | apply Keeps.refl

theorem keeps_lossAdd (s : State) (r : LossRec) : Keeps s (lossAdd s r) := by
  unfold lossAdd
  try dsimp only
  with_reducible repeat' first
    | apply Keeps.trans ?_ (keeps_setOrn _ _)
    | apply Keeps.refl

theorem keeps_powerRecord (s : State) (k : Nat) : Keeps s (powerRecord s k) := by
  unfold powerRecord
  try dsimp only
  with_reducible repeat' first
    | apply Keeps.ite
    | apply Keeps.trans ?_ (keeps_lossAdd _ _)
    | apply Keeps.trans ?_ (keeps_setOrn _ _)
    | apply Keeps.refl

theorem keeps_gapRecord (s : State) (g : Nat) (from_ : Nat) (k : Nat) : Keeps s (gapRecord s g from_ k) := by
  unfold gapRecord
  try dsimp only
  with_reducible repeat' first
    | apply Keeps.trans ?_ (keeps_lossAdd _ _)
    | apply Keeps.refl

theorem keeps_pulseInterval (p : OrnParams) (c : Nat) (old : List Accum) (new : List Accum) (s : State) (pin : Nat) : Keeps s (pulseInterval p c old new s pin) := by
  unfold pulseInterval
  try dsimp only
  with_reducible repeat' first
    | apply Keeps.ite
    | apply Keeps.trans ?_ (keeps_setOrn _ _)
    | apply Keeps.refl

theorem keeps_pulseEmit (s : State) (pin : Nat) : Keeps s (pulseEmit s pin) := by
  unfold pulseEmit
  try dsimp only
  with_reducible repeat' first
    | apply Keeps.ite
    | apply Keeps.trans ?_ (keeps_setOrn _ _)
    | apply Keeps.refl

theorem keeps_meterCircuit (g : Nat) (k : Nat) (tag : Nat) (p : OrnParams) (s : State) (e : Nat × Circuit) : Keeps s (meterCircuit g k tag p s e) := by
  unfold meterCircuit
  try dsimp only
  with_reducible repeat' first
    | apply Keeps.foldl
    | apply Keeps.trans ?_ (keeps_setOrn _ _)
    | apply Keeps.trans ?_ (keeps_pulseInterval _ _ _ _ _ _)
    | intro _
    | apply Keeps.refl

theorem keeps_keepLast (s : State) (g : Nat) (k : Nat) : Keeps s (keepLast s g k) := by
  unfold keepLast
  try dsimp only
  with_reducible repeat' first
    | apply Keeps.trans ?_ (keeps_setOrn _ _)
    | apply Keeps.refl

theorem keeps_intervalCompute (s : State) : Keeps s (intervalCompute s) := by
  unfold intervalCompute
  try dsimp only
  with_reducible repeat' first
    | apply Keeps.ite
    | apply Keeps.foldl
    | apply Keeps.trans ?_ (keeps_meterCircuit _ _ _ _ _ _)
    | apply Keeps.trans ?_ (keeps_keepLast _ _ _)
    | apply Keeps.trans ?_ (keeps_gapRecord _ _ _ _)
    | apply Keeps.trans ?_ (keeps_powerRecord _ _)
    | apply Keeps.trans ?_ (keeps_setOrn _ _)
    | apply Keeps.trans ?_ (keeps_ornSave _ _)
    | intro _
    | split
    | apply Keeps.refl

theorem keeps_tapReceive (s : State) (w : TapWord) : Keeps s (tapReceive s w) := by
  unfold tapReceive
  try dsimp only
  with_reducible repeat' first
    | apply Keeps.ite
    | apply Keeps.trans ?_ (keeps_setOrn _ _)
    | simp only [Keeps.mk_iff]
    | split
    | apply Keeps.refl

theorem keeps_ornReset (s : State) (cause : Nat) : Keeps s (ornReset s cause) := by
  unfold ornReset
  try dsimp only
  with_reducible repeat' first
    | apply Keeps.foldl
    | apply Keeps.trans ?_ (keeps_setOrn _ _)
    | apply Keeps.trans ?_ (keeps_dropShadows _ _)
    | apply Keeps.trans ?_ (keeps_holdGroup _ _ _)
    | apply Keeps.trans ?_ (keeps_mbxEndIfBusy _ _ _)
    | intro _
    | apply Keeps.refl

theorem keeps_ornStart (s : State) (ok : Bool) : Keeps s (ornStart s ok) := by
  unfold ornStart
  try dsimp only
  with_reducible repeat' first
    | apply Keeps.ite
    | apply Keeps.trans ?_ (keeps_setOrn _ _)
    | apply Keeps.trans ?_ (keeps_auditAdd _ _ _ _ _ _)
    | apply Keeps.refl

theorem keeps_ornTakeChange (s : State) (b : Mbx) : Keeps s (ornTakeChange s b) := by
  unfold ornTakeChange
  try dsimp only
  with_reducible repeat' first
    | apply Keeps.ite
    | apply Keeps.trans ?_ (keeps_mbxEnd _ _ _)
    | apply Keeps.trans ?_ (keeps_setOrn _ _)
    | apply Keeps.refl

theorem keeps_boundaryApply (s : State) : Keeps s (boundaryApply s) := by
  unfold boundaryApply
  try dsimp only
  with_reducible repeat' first
    | apply Keeps.ite
    | apply Keeps.foldl
    | apply Keeps.trans ?_ (keeps_setOrn _ _)
    | apply Keeps.trans ?_ (keeps_auditAdd _ _ _ _ _ _)
    | apply Keeps.trans ?_ (keeps_mbxEndIfBusy _ _ _)
    | intro _
    | split
    | apply Keeps.refl

theorem keeps_ornOpen (s : State) (b : Mbx) : Keeps s (ornOpen s b) := by
  unfold ornOpen
  try dsimp only
  with_reducible repeat' first
    | apply Keeps.ite
    | apply Keeps.trans ?_ (keeps_setOrn _ _)
    | apply Keeps.trans ?_ (keeps_mbxEnd _ _ _)
    | apply Keeps.trans ?_ (keeps_auditAdd _ _ _ _ _ _)
    | split
    | apply Keeps.refl

theorem keeps_ornClose (s : State) : Keeps s (ornClose s) := by
  unfold ornClose
  try dsimp only
  with_reducible repeat' first
    | apply Keeps.ite
    | apply Keeps.trans ?_ (keeps_mbxEnd _ _ _)
    | apply Keeps.trans ?_ (keeps_sealClosed _ _)
    | apply Keeps.refl

theorem keeps_setSpare (s : State) (f : FwBank) : Keeps s (setSpare s f) := by
  unfold setSpare
  try dsimp only
  with_reducible repeat' first
    | apply Keeps.trans ?_ (keeps_setOrn _ _)
    | apply Keeps.refl

theorem keeps_ornFwload (s : State) (b : Mbx) : Keeps s (ornFwload s b) := by
  unfold ornFwload
  try dsimp only
  with_reducible repeat' first
    | apply Keeps.ite
    | apply Keeps.trans ?_ (keeps_mbxEnd _ _ _)
    | apply Keeps.trans ?_ (keeps_setSpare _ _)
    | apply Keeps.refl

theorem keeps_ornFwact (s : State) (b : Mbx) : Keeps s (ornFwact s b) := by
  unfold ornFwact
  try dsimp only
  with_reducible repeat' first
    | apply Keeps.ite
    | apply Keeps.trans ?_ (keeps_mbxEnd _ _ _)
    | apply Keeps.trans ?_ (keeps_ornSave _ _)
    | apply Keeps.trans ?_ (keeps_auditAdd _ _ _ _ _ _)
    | apply Keeps.trans ?_ (keeps_setSpare _ _)
    | apply Keeps.trans ?_ (keeps_ornReset _ _)
    | apply Keeps.trans ?_ (keeps_setOrn _ _)
    | apply Keeps.refl

theorem keeps_ornKeyload (s : State) (mid : Nat) (key : List Nat) : KeepsFst s (ornKeyload s mid key) := by
  unfold ornKeyload
  try dsimp only
  with_reducible repeat' first
    | apply KeepsFst.ite
    | apply Keeps.trans ?_ (keeps_auditAdd _ _ _ _ _ _)
    | apply Keeps.trans ?_ (keeps_setOrn _ _)
    | simp only [KeepsFst.pair_iff]
    | apply Keeps.refl

theorem keeps_ornDiagclr (s : State) (arg : Nat) : Keeps s (ornDiagclr s arg) := by
  unfold ornDiagclr
  try dsimp only
  with_reducible repeat' first
    | apply Keeps.ite
    | apply Keeps.trans ?_ (keeps_setOrn _ _)
    | apply Keeps.refl

theorem keeps_ornWrite (s : State) (b : Mbx) : Keeps s (ornWrite s b) := by
  unfold ornWrite
  try dsimp only
  with_reducible repeat' first
    | apply Keeps.trans ?_ (keeps_ornTakeChange _ _)
    | apply Keeps.trans ?_ (keeps_ornOpen _ _)
    | apply Keeps.trans ?_ (keeps_ornClose _)
    | apply Keeps.trans ?_ (keeps_ornFwload _ _)
    | apply Keeps.trans ?_ (keeps_ornFwact _ _)
    | apply Keeps.trans ?_ (keeps_ornKeyload _ _ _).fst
    | apply Keeps.trans ?_ (keeps_mbxEnd _ _ _)
    | apply Keeps.trans ?_ (keeps_setMbx _ _ _)
    | apply Keeps.trans ?_ (keeps_ornSave _ _)
    | apply Keeps.trans ?_ (keeps_ornDiagclr _ _)
    | split
    | apply Keeps.refl

theorem keeps_ornMbx (r : OrnReg) (a : Nat) (s : State) : Keeps s (ornMbx r a s) := by
  unfold ornMbx
  try dsimp only
  with_reducible repeat' first
    | apply Keeps.ite
    | apply Keeps.trans ?_ (keeps_mbxEnd _ _ _)
    | apply Keeps.trans ?_ (keeps_ornWrite _ _)
    | apply Keeps.trans ?_ (keeps_setOrn _ _)
    | apply Keeps.trans ?_ (keeps_mbxAnswer _ _ _ _)
    | split
    | apply Keeps.refl

theorem keeps_sealPinChange (s : State) (low : Bool) : Keeps s (sealPinChange s low) := by
  unfold sealPinChange
  try dsimp only
  with_reducible repeat' first
    | apply Keeps.ite
    | apply Keeps.trans ?_ (keeps_sealClosed _ _)
    | apply Keeps.trans ?_ (keeps_setOrn _ _)
    | apply Keeps.refl

theorem keeps_sealTimeout (s : State) : Keeps s (sealTimeout s) := by
  unfold sealTimeout
  try dsimp only
  with_reducible repeat' first
    | apply Keeps.ite
    | apply Keeps.trans ?_ (keeps_sealClosed _ _)
    | split
    | apply Keeps.refl

theorem keeps_lockoutEnd (s : State) : Keeps s (lockoutEnd s) := by
  unfold lockoutEnd
  try dsimp only
  with_reducible repeat' first
    | apply Keeps.ite
    | apply Keeps.trans ?_ (keeps_setOrn _ _)
    | split
    | apply Keeps.refl

theorem keeps_oscillatorTrim (s : State) (refOk : Bool) : Keeps s (oscillatorTrim s refOk) := by
  unfold oscillatorTrim
  try dsimp only
  with_reducible repeat' first
    | apply Keeps.trans ?_ (keeps_setOrn _ _)
    | apply Keeps.refl

end Sys2Proof.Machine
end

