-- ==== Sys2Proof/Laws/KeepBelvedere.lean ====
section
/-! SUPPORT. What the operations of Machine/Belvedere.lean keep: the queue, memory's canonical form and the fuses. -/

set_option Elab.async false

namespace Sys2Proof.Machine

theorem keeps_setBlv (s : State) (b : Belvedere) : Keeps s (setBlv s b) := by
  unfold setBlv
  try dsimp only
  with_reducible repeat' first
    | simp only [Keeps.mk_iff]
    | apply Keeps.refl

theorem keeps_setCap (s : State) (g : Nat) (x : CapGroup) : Keeps s (setCap s g x) := by
  unfold setCap
  try dsimp only
  with_reducible repeat' first
    | apply Keeps.trans ?_ (keeps_setBlv _ _)
    | apply Keeps.refl

theorem keeps_placeRecord (s : State) (g : Nat) (ns : Nat) (mark : Bool) (bs : List Nat) : Keeps s (placeRecord s g ns mark bs) := by
  unfold placeRecord
  try dsimp only
  with_reducible repeat' first
    | apply Keeps.ite
    | apply Keeps.trans ?_ (keeps_physPut _ _ _ _)
    | apply Keeps.trans ?_ (keeps_setCap _ _ _)
    | apply Keeps.refl

theorem keeps_bufferAdd (s : State) (n : Nat) : Keeps s (bufferAdd s n) := by
  unfold bufferAdd
  try dsimp only
  with_reducible repeat' first
    | apply Keeps.trans ?_ (keeps_setBlv _ _)
    | apply Keeps.refl

theorem keeps_storeRecord (s : State) (g : Nat) (type : Nat) (idx : Nat) (ns : Nat) (payload : List Nat) : Keeps s (storeRecord s g type idx ns payload) := by
  unfold storeRecord
  try dsimp only
  with_reducible repeat' first
    | apply Keeps.ite
    | apply Keeps.trans ?_ (keeps_cinc _ _)
    | apply Keeps.trans ?_ (keeps_setCap _ _ _)
    | apply Keeps.trans ?_ (keeps_placeRecord _ _ _ _ _)
    | apply Keeps.trans ?_ (keeps_bufferAdd _ _)
    | apply Keeps.refl

theorem keeps_storeMark (s : State) (g : Nat) (ns : Nat) (kind : Nat) (id : Nat) (div : Nat) : Keeps s (storeMark s g ns kind id div) := by
  unfold storeMark
  try dsimp only
  with_reducible repeat' first
    | apply Keeps.trans ?_ (keeps_storeRecord _ _ _ _ _ _)
    | apply Keeps.refl

theorem keeps_capArm (s : State) (g : Nat) (k : Nat) : Keeps s (capArm s g k) := by
  unfold capArm
  try dsimp only
  with_reducible repeat' first
    | apply Keeps.trans ?_ (keeps_setCap _ _ _)
    | apply Keeps.refl

theorem keeps_capFollow (s : State) (g : Nat) : Keeps s (capFollow s g) := by
  unfold capFollow
  try dsimp only
  with_reducible repeat' first
    | apply Keeps.ite
    | apply Keeps.trans ?_ (keeps_setCap _ _ _)
    | apply Keeps.trans ?_ (keeps_capArm _ _ _)
    | split
    | apply Keeps.refl

theorem keeps_capsFollow (s : State) : Keeps s (capsFollow s) := by
  unfold capsFollow
  try dsimp only
  with_reducible repeat' first
    | apply Keeps.foldl
    | apply Keeps.trans ?_ (keeps_capFollow _ _)
    | intro _
    | apply Keeps.refl

theorem keeps_captureEvent (s : State) (g : Nat) : Keeps s (captureEvent s g) := by
  unfold captureEvent
  try dsimp only
  with_reducible repeat' first
    | apply Keeps.ite
    | apply Keeps.trans ?_ (keeps_cinc _ _)
    | apply Keeps.trans ?_ (keeps_batchOrHold _ _ _ _)
    | apply Keeps.refl

theorem keeps_capTrigger (s : State) (g : Nat) (t : Nat) (unit : Nat) (mask : Option Nat) (soft : Bool) : Keeps s (capTrigger s g t unit mask soft) := by
  unfold capTrigger
  try dsimp only
  with_reducible repeat' first
    | apply Keeps.trans ?_ (keeps_setCap _ _ _)
    | apply Keeps.trans ?_ (keeps_captureEvent _ _)
    | apply Keeps.refl

theorem keeps_groupFire (t : Nat) (u : Nat) (s : State) (g : Nat) : Keeps s (groupFire t u s g) := by
  unfold groupFire
  try dsimp only
  with_reducible repeat' first
    | apply Keeps.ite
    | apply Keeps.trans ?_ (keeps_storeMark _ _ _ _ _ _)
    | apply Keeps.trans ?_ (keeps_setCap _ _ _)
    | apply Keeps.trans ?_ (keeps_capTrigger _ _ _ _ _ _)
    | split
    | apply Keeps.refl

theorem keeps_groupViolation (s : State) (t : Nat) (m : Nat) : Keeps s (groupViolation s t m) := by
  unfold groupViolation
  try dsimp only
  with_reducible repeat' first
    | apply Keeps.ite
    | apply Keeps.trans ?_ (keeps_storeMark _ _ _ _ _ _)
    | apply Keeps.trans ?_ (keeps_cinc _ _)
    | apply Keeps.trans ?_ (keeps_setCap _ _ _)
    | apply Keeps.trans ?_ (keeps_capTrigger _ _ _ _ _ _)
    | apply Keeps.refl

theorem keeps_processOne (s : State) (e : Nat × Nat × Nat) : Keeps s (processOne s e) := by
  unfold processOne
  try dsimp only
  with_reducible repeat' first
    | apply Keeps.ite
    | apply Keeps.foldl
    | apply Keeps.trans ?_ (keeps_groupViolation _ _ _)
    | apply Keeps.trans ?_ (keeps_groupFire _ _ _ _)
    | apply Keeps.trans ?_ (keeps_cinc _ _)
    | intro _
    | apply Keeps.refl

theorem keeps_processAll (s : State) (es : List (Nat × Nat × Nat)) : Keeps s (processAll s es) := by
  unfold processAll
  try dsimp only
  with_reducible repeat' first
    | apply Keeps.foldl
    | apply Keeps.trans ?_ (keeps_processOne _ _)
    | intro _
    | apply Keeps.refl

theorem keeps_setUnit (s : State) (u : Nat) (x : UnitRun) : Keeps s (setUnit s u x) := by
  unfold setUnit
  try dsimp only
  with_reducible repeat' first
    | apply Keeps.trans ?_ (keeps_setBlv _ _)
    | apply Keeps.refl

theorem keeps_unitLevel (s : State) (u : Nat) (lvl : Nat) (t : Nat) (edge : Bool) : KeepsFst s (unitLevel s u lvl t edge) := by
  unfold unitLevel
  try dsimp only
  with_reducible repeat' first
    | apply KeepsFst.ite
    | apply Keeps.trans ?_ (keeps_setUnit _ _ _)
    | simp only [KeepsFst.pair_iff]
    | split
    | apply Keeps.refl

theorem keeps_unitSample (s : State) (u : Nat) (v : Int) (q : Nat) (t : Nat) (f : Nat) : KeepsFst s (unitSample s u v q t f) := by
  unfold unitSample
  try dsimp only
  with_reducible repeat' first
    | apply KeepsFst.ite
    | apply Keeps.trans ?_ (keeps_setUnit _ _ _)
    | simp only [KeepsFst.pair_iff]
    | apply Keeps.refl

theorem keeps_unitTimeout (s : State) (u : Nat) : Keeps s (unitTimeout s u) := by
  unfold unitTimeout
  try dsimp only
  with_reducible repeat' first
    | apply Keeps.ite
    | apply Keeps.trans ?_ (keeps_processAll _ _)
    | apply Keeps.trans ?_ (keeps_setUnit _ _ _)
    | split
    | apply Keeps.refl

theorem keeps_maskTable (s : State) (m : Nat) (cycle : Nat) : KeepsFst s (maskTable s m cycle) := by
  unfold maskTable
  try dsimp only
  with_reducible repeat' first
    | apply KeepsFst.ite
    | apply Keeps.trans ?_ (keeps_setBlv _ _)
    | simp only [KeepsFst.pair_iff]
    | split
    | apply Keeps.refl

theorem keeps_maskSample (s : State) (m : Nat) (v : Int) (q : Nat) (t : Nat) : KeepsFst s (maskSample s m v q t) := by
  unfold maskSample
  try dsimp only
  with_reducible repeat' first
    | apply KeepsFst.ite
    | apply Keeps.trans ?_ (keeps_cinc _ _)
    | apply Keeps.trans ?_ (keeps_maskTable _ _ _).fst
    | simp only [KeepsFst.pair_iff]
    | split
    | apply Keeps.refl

theorem keeps_maskLoad (s : State) (m : Nat) : Keeps s (maskLoad s m) := by
  unfold maskLoad
  try dsimp only
  with_reducible repeat' first
    | apply Keeps.onOpt
    | apply KeepsFst.trans ?_ (keeps_physRead _ _ _ _)
    | apply Keeps.trans ?_ (keeps_setBlv _ _)
    | intro _
    | split
    | apply Keeps.refl

theorem keeps_reachAll (kind : Nat) (id : Nat → Bool) (v : Int) (q : Nat) (t : Nat) (acc : State × List (Nat × Nat × Nat)) : KeepsFst acc.1 (reachAll kind id v q t acc) := by
  unfold reachAll
  try dsimp only
  with_reducible repeat' first
    | apply KeepsFst.onPair
    | apply KeepsFst.foldl
    | apply KeepsFst.trans ?_ (keeps_maskSample _ _ _ _ _)
    | apply KeepsFst.trans ?_ (keeps_unitSample _ _ _ _ _ _)
    | simp only [KeepsFst.pair_iff]
    | intro _
    | apply Keeps.refl
    | apply KeepsFst.self

theorem keeps_samplesRecord (r : RelSet) (g : Nat) (t : Nat) (s : State) : Keeps s (samplesRecord r g t s) := by
  unfold samplesRecord
  try dsimp only
  with_reducible repeat' first
    | apply Keeps.ite
    | apply Keeps.trans ?_ (keeps_storeRecord _ _ _ _ _ _)
    | apply Keeps.refl

theorem keeps_noteRelease (s : State) (r : RelSet) : Keeps s (noteRelease s r) := by
  unfold noteRelease
  try dsimp only
  with_reducible repeat' first
    | apply Keeps.trans ?_ (keeps_setBlv _ _)
    | apply Keeps.refl

theorem keeps_blvSet (s : State) (r : RelSet) : Keeps s (blvSet s r) := by
  unfold blvSet
  try dsimp only
  with_reducible repeat' first
    | apply Keeps.ite
    | apply Keeps.foldl
    | apply KeepsFst.foldl
    | apply Keeps.foldl_fst
    | apply Keeps.trans ?_ (keeps_noteRelease _ _)
    | apply Keeps.trans ?_ (keeps_samplesRecord _ _ _ _)
    | apply KeepsFst.trans ?_ (keeps_reachAll _ _ _ _ _ _)
    | apply Keeps.trans ?_ (keeps_processAll _ _)
    | simp only [KeepsFst.pair_iff]
    | intro _
    | apply Keeps.refl
    | apply KeepsFst.self

theorem keeps_blvDrain (s : State) : Keeps s (blvDrain s) := by
  unfold blvDrain
  try dsimp only
  with_reducible repeat' first
    | apply Keeps.foldl
    | apply Keeps.trans ?_ (keeps_blvSet _ _)
    | simp only [Keeps.mk_iff]
    | intro _
    | apply Keeps.refl

theorem keeps_blvPoint (n : Nat) (f : Nat) (s : State) (p : Nat × Nat × Nat × Nat) : Keeps s (blvPoint n f s p) := by
  unfold blvPoint
  try dsimp only
  with_reducible repeat' first
    | apply Keeps.ite
    | apply Keeps.foldl
    | apply Keeps.trans ?_ (keeps_storeRecord _ _ _ _ _ _)
    | apply Keeps.trans ?_ (keeps_reachAll _ _ _ _ _ _).fst
    | apply Keeps.trans ?_ (keeps_processAll _ _)
    | intro _
    | apply Keeps.refl

theorem keeps_blvPoints (s : State) (n : Nat) (f : Nat) : Keeps s (blvPoints s n f) := by
  unfold blvPoints
  try dsimp only
  with_reducible repeat' first
    | apply Keeps.ite
    | apply Keeps.foldl
    | apply Keeps.trans ?_ (keeps_setBlv _ _)
    | apply Keeps.trans ?_ (keeps_blvPoint _ _ _ _)
    | intro _
    | apply Keeps.refl

theorem keeps_reachLevels (kind : Nat) (id : Nat → Bool) (lvl : Nat) (t : Nat) (s : State) : Keeps s (reachLevels kind id lvl t s) := by
  unfold reachLevels
  try dsimp only
  with_reducible repeat' first
    | apply KeepsFst.onPair
    | apply Keeps.foldl_fst
    | apply KeepsFst.trans ?_ (keeps_unitLevel _ _ _ _ _)
    | apply Keeps.trans ?_ (keeps_processAll _ _)
    | simp only [KeepsFst.pair_iff]
    | intro _
    | apply Keeps.refl

theorem keeps_blvDinEdge (s : State) (pin : Nat) (lvl : Bool) (t : Nat) : Keeps s (blvDinEdge s pin lvl t) := by
  unfold blvDinEdge
  try dsimp only
  with_reducible repeat' first
    | apply Keeps.ite
    | apply Keeps.foldl
    | apply Keeps.trans ?_ (keeps_storeRecord _ _ _ _ _ _)
    | apply Keeps.trans ?_ (keeps_reachLevels _ _ _ _ _)
    | intro _
    | apply Keeps.refl

theorem keeps_blvFrame (s : State) (f : Frame) (c : Nat) : Keeps s (blvFrame s f c) := by
  unfold blvFrame
  try dsimp only
  with_reducible repeat' first
    | apply Keeps.ite
    | apply Keeps.foldl
    | apply Keeps.trans ?_ (keeps_storeRecord _ _ _ _ _ _)
    | apply Keeps.trans ?_ (keeps_setUnit _ _ _)
    | intro _
    | apply Keeps.refl

theorem keeps_blvMirror (s : State) : Keeps s (blvMirror s) := by
  unfold blvMirror
  try dsimp only
  with_reducible repeat' first
    | apply Keeps.ite
    | apply Keeps.trans ?_ (keeps_takeHead _ _ _)
    | apply Keeps.trans ?_ (keeps_blvFrame _ _ _)
    | split
    | apply Keeps.refl

theorem keeps_divEdge (n : Nat) (f : Nat) (t : Nat) (s : State) (g : Nat) : Keeps s (divEdge n f t s g) := by
  unfold divEdge
  try dsimp only
  with_reducible repeat' first
    | apply Keeps.ite
    | apply Keeps.trans ?_ (keeps_setCap _ _ _)
    | apply Keeps.trans ?_ (keeps_storeMark _ _ _ _ _ _)
    | apply Keeps.refl

theorem keeps_stateRecord8 (t : Nat) (s : State) (g : Nat) : Keeps s (stateRecord8 t s g) := by
  unfold stateRecord8
  try dsimp only
  with_reducible repeat' first
    | apply Keeps.ite
    | apply Keeps.trans ?_ (keeps_storeRecord _ _ _ _ _ _)
    | apply Keeps.refl

theorem keeps_srcEdge (s : State) : Keeps s (srcEdge s) := by
  unfold srcEdge
  try dsimp only
  with_reducible repeat' first
    | apply Keeps.trans ?_ (keeps_capsFollow _)
    | apply Keeps.trans ?_ (keeps_mbxEndIfBusy _ _ _)
    | apply Keeps.trans ?_ (keeps_setBlv _ _)
    | split
    | apply Keeps.refl

theorem keeps_blvTick (s : State) (n : Nat) (f : Nat) : Keeps s (blvTick s n f) := by
  unfold blvTick
  try dsimp only
  with_reducible repeat' first
    | apply Keeps.ite
    | apply Keeps.foldl
    | apply Keeps.trans ?_ (keeps_srcEdge _)
    | apply Keeps.trans ?_ (keeps_divEdge _ _ _ _ _)
    | apply Keeps.trans ?_ (keeps_reachLevels _ _ _ _ _)
    | apply Keeps.trans ?_ (keeps_stateRecord8 _ _ _)
    | apply Keeps.trans ?_ (keeps_setCap _ _ _)
    | intro _
    | apply Keeps.refl

theorem keeps_capSeal (s : State) (base : Nat) (open_ : List Nat) (body : List Nat) : Keeps s (capSeal s base open_ body) := by
  unfold capSeal
  try dsimp only
  with_reducible repeat' first
    | apply Keeps.trans ?_ (keeps_physPut _ _ _ _)
    | apply Keeps.refl

theorem keeps_capEnd (s : State) (g : Nat) (x : CapGroup) : Keeps s (capEnd s g x) := by
  unfold capEnd
  try dsimp only
  with_reducible repeat' first
    | apply Keeps.trans ?_ (keeps_cinc _ _)
    | apply Keeps.trans ?_ (keeps_setCap _ _ _)
    | apply Keeps.trans ?_ (keeps_capArm _ _ _)
    | split
    | apply Keeps.refl

theorem keeps_captureClose (s : State) (g : Nat) : Keeps s (captureClose s g) := by
  unfold captureClose
  try dsimp only
  with_reducible repeat' first
    | apply Keeps.ite
    | apply Keeps.trans ?_ (keeps_capEnd _ _ _)
    | apply Keeps.trans ?_ (keeps_capSeal _ _ _ _)
    | apply Keeps.refl

theorem keeps_releaseSlot (g : Nat) (s : State) (k : Nat) : Keeps s (releaseSlot g s k) := by
  unfold releaseSlot
  try dsimp only
  with_reducible repeat' first
    | apply Keeps.ite
    | apply Keeps.trans ?_ (keeps_wign _ _)
    | apply Keeps.trans ?_ (keeps_setCap _ _ _)
    | apply Keeps.trans ?_ (keeps_capArm _ _ _)
    | apply Keeps.refl

theorem keeps_commandTrigger (s : State) (g : Nat) : Keeps s (commandTrigger s g) := by
  unfold commandTrigger
  try dsimp only
  with_reducible repeat' first
    | apply Keeps.ite
    | apply Keeps.trans ?_ (keeps_capTrigger _ _ _ _ _ _)
    | apply Keeps.refl

theorem keeps_halvingStep (s : State) : Keeps s (halvingStep s) := by
  unfold halvingStep
  try dsimp only
  with_reducible repeat' first
    | apply Keeps.ite
    | apply Keeps.trans ?_ (keeps_setBlv _ _)
    | apply Keeps.trans ?_ (keeps_cinc _ _)
    | apply Keeps.trans ?_ (keeps_setCap _ _ _)
    | split
    | apply Keeps.refl

theorem keeps_restoreStep (s : State) : Keeps s (restoreStep s) := by
  unfold restoreStep
  try dsimp only
  with_reducible repeat' first
    | apply Keeps.ite
    | apply Keeps.trans ?_ (keeps_setBlv _ _)
    | apply Keeps.trans ?_ (keeps_setCap _ _ _)
    | split
    | apply Keeps.refl

theorem keeps_srcTake (s : State) (e : Nat) (w : Option Nat) : Keeps s (srcTake s e w) := by
  unfold srcTake
  try dsimp only
  with_reducible repeat' first
    | apply Keeps.ite
    | apply Keeps.trans ?_ (keeps_setBlv _ _)
    | apply Keeps.trans ?_ (keeps_srcEdge _)
    | apply Keeps.refl

theorem keeps_blvMbx (r : BlvReg) (a : Nat) (s : State) : Keeps s (blvMbx r a s) := by
  unfold blvMbx
  try dsimp only
  with_reducible repeat' first
    | apply Keeps.ite
    | apply Keeps.trans ?_ (keeps_mbxEnd _ _ _)
    | apply Keeps.trans ?_ (keeps_srcTake _ _ _)
    | apply Keeps.trans ?_ (keeps_mbxAnswer _ _ _ _)
    | split
    | apply Keeps.refl

theorem keeps_blvWsc (r : BlvReg) (g : Nat) (v : Nat) (s : State) : Keeps s (blvWsc r g v s) := by
  unfold blvWsc
  try dsimp only
  with_reducible repeat' first
    | apply Keeps.ite
    | apply Keeps.foldl
    | apply Keeps.trans ?_ (keeps_commandTrigger _ _)
    | apply Keeps.trans ?_ (keeps_releaseSlot _ _ _)
    | intro _
    | split
    | apply Keeps.refl

theorem keeps_maskApplied (s : State) (m : Nat) : Keeps s (maskApplied s m) := by
  unfold maskApplied
  try dsimp only
  with_reducible repeat' first
    | apply Keeps.trans ?_ (keeps_setBlv _ _)
    | apply Keeps.refl

theorem keeps_blvApplied (old : State) (s : State) : Keeps s (blvApplied old s) := by
  unfold blvApplied
  try dsimp only
  with_reducible repeat' first
    | apply Keeps.ite
    | apply Keeps.foldl
    | apply Keeps.trans ?_ (keeps_maskApplied _ _)
    | apply Keeps.trans ?_ (keeps_setBlv _ _)
    | apply Keeps.trans ?_ (keeps_capsFollow _)
    | intro _
    | apply Keeps.refl

theorem keeps_blvChanged (r : BlvReg) (old : State) (s : State) : Keeps s (blvChanged r old s) := by
  unfold blvChanged
  try dsimp only
  with_reducible repeat' first
    | apply Keeps.trans ?_ (keeps_setBlv _ _)
    | split
    | apply Keeps.refl

theorem keeps_blvSrst (p : Nat) (s : State) : Keeps s (blvSrst p s) := by
  unfold blvSrst
  try dsimp only
  with_reducible repeat' first
    | apply Keeps.ite
    | apply Keeps.foldl
    | apply Keeps.trans ?_ (keeps_setCap _ _ _)
    | apply Keeps.trans ?_ (keeps_capArm _ _ _)
    | apply Keeps.trans ?_ (keeps_setBlv _ _)
    | intro _
    | split
    | apply Keeps.refl

end Sys2Proof.Machine
end

