-- ==== Sys2Proof/Laws/KeepGatehouse.lean ====
section
/-! SUPPORT. What the operations of Machine/Gatehouse.lean keep: the queue, memory's canonical form and the fuses. -/

set_option Elab.async false

namespace Sys2Proof.Machine

theorem keeps_onKey {s : State} {x : State × Nat × List Nat} {bad : State → Nat → State} {good : State → List Nat → State}
    (hx : KeepsFst s x) (hb : ∀ t c, Keeps t (bad t c)) (hg : ∀ t k, Keeps t (good t k)) : Keeps s (onKey x bad good) := by
  unfold onKey
  split
  · exact hx.fst.trans (hb _ _)
  · exact hx.fst.trans (hg _ _)

/-- A Gatehouse whose fuses have only grown takes the place of the old one. -/
theorem keeps_gth (s : State) (g : Gatehouse) (h : fusesGrow s.gth g) : Keeps s { s with gth := g } := ⟨rfl, id, h⟩

theorem tget_tset_ne {α : Type} (t : Tbl α) (k j : Nat) (v : α) (h : j ≠ k) : tget (tset t k v) j = tget t j := by
  induction t with
  | nil => simp [tset, tget, Ne.symm h]
  | cons e t ih =>
    obtain ⟨k', v'⟩ := e
    unfold tset
    split
    · rename_i e
      subst e
      simp [tget, Ne.symm h]
    · split
      · simp [tget, Ne.symm h]
      · simp only [tget, ih]

theorem bit_setBit_of_bit (v i r : Nat) (h : bit v r = true) : bit (setBit v i) r = true := by
  have e : ∀ n, bit n r = n.testBit r := by
    intro n
    rw [bit, Nat.testBit_eq_decide_div_mod_eq]
    cases h : decide (n / 2 ^ r % 2 = 1) <;> simp_all
  rw [e] at h ⊢
  simp [setBit, Nat.testBit_or, h]

theorem keeps_gthBuffer (s : State) (pav : Option Nat) (a : Nat) (n : Nat) : KeepsFst s (gthBuffer s pav a n) := by
  unfold gthBuffer
  try dsimp only
  with_reducible repeat' first
    | apply KeepsFst.trans ?_ (keeps_engRead _ _ _ _ _)
    | apply KeepsFst.trans ?_ (keeps_physRead _ _ _ _)
    | split
    | apply Keeps.refl

theorem keeps_gthUse (s : State) (a : Nat) (use : Nat) (fixed : Option Nat) (go : State → List Nat → List Nat → State) (hgo : ∀ t x0 x1, Keeps t (go t x0 x1)) : Keeps s (gthUse s a use fixed go) := by
  unfold gthUse
  try dsimp only
  with_reducible repeat' first
    | apply Keeps.ite
    | apply Keeps.onOpt
    | apply keeps_onKey
    | apply KeepsFst.trans ?_ (keeps_useKey _ _ _ _ _)
    | apply Keeps.trans ?_ (keeps_mbxEnd _ _ _)
    | apply KeepsFst.trans ?_ (keeps_gthBuffer _ _ _ _)
    | apply Keeps.trans ?_ (hgo _ _ _)
    | intro _
    | apply Keeps.refl

theorem keeps_gthReq (s : State) (a : Nat) (k : Nat) : Keeps s (gthReq s a k) := by
  unfold gthReq
  try dsimp only
  with_reducible repeat' first
    | apply Keeps.ite
    | apply keeps_onKey
    | apply Keeps.trans ?_ (keeps_mbxEnd _ _ _)
    | apply Keeps.trans ?_ (keeps_gthUse _ _ _ _ _ ?_)
    | apply Keeps.trans ?_ (keeps_mbxAnswer _ _ _ _)
    | apply Keeps.trans ?_ (keeps_drew _)
    | apply KeepsFst.trans ?_ (keeps_useKey _ _ _ _ _)
    | intro _
    | split
    | apply Keeps.refl

theorem keeps_keyWriteTake (s : State) (k : Nat) (x : KeySlot) (bs : List Nat) : Keeps s (keyWriteTake s k x bs) := by
  unfold keyWriteTake
  try dsimp only
  with_reducible repeat' first
    | apply Keeps.ite
    | apply keeps_onKey
    | apply Keeps.trans ?_ (keeps_mbxEnd _ _ _)
    | apply Keeps.trans ?_ (keeps_startUpdate _ _ _ _ _)
    | apply KeepsFst.trans ?_ (keeps_useKey _ _ _ _ _)
    | apply Keeps.trans ?_ (keeps_drew _)
    | intro _
    | split
    | apply Keeps.refl

theorem keeps_keyWrite (s : State) (k : Nat) : Keeps s (keyWrite s k) := by
  unfold keyWrite
  try dsimp only
  with_reducible repeat' first
    | apply Keeps.ite
    | apply Keeps.onOpt
    | apply Keeps.trans ?_ (keeps_mbxEnd _ _ _)
    | apply KeepsFst.trans ?_ (keeps_physRead _ _ _ _)
    | apply Keeps.trans ?_ (keeps_keyWriteTake _ _ _ _)
    | intro _
    | split
    | apply Keeps.refl

theorem keeps_keyRead (s : State) (k : Nat) (part : Nat) : Keeps s (keyRead s k part) := by
  unfold keyRead
  try dsimp only
  with_reducible repeat' first
    | apply Keeps.ite
    | apply Keeps.trans ?_ (keeps_mbxAnswer _ _ _ _)
    | apply Keeps.trans ?_ (keeps_mbxEnd _ _ _)
    | split
    | apply Keeps.refl

theorem keeps_keyRevoke (s : State) (k : Nat) : Keeps s (keyRevoke s k) := by
  unfold keyRevoke
  try dsimp only
  with_reducible repeat' first
    | apply Keeps.ite
    | apply Keeps.trans ?_ (keeps_mbxEnd _ _ _)
    | apply Keeps.trans ?_ (keeps_purgeCache _ _)
    | apply Keeps.trans ?_ (keeps_startUpdate _ _ _ _ _)
    | simp only [Keeps.gth_iff]
    | split
    | apply Keeps.refl

theorem keeps_keyErase (s : State) (k : Nat) : Keeps s (keyErase s k) := by
  unfold keyErase
  try dsimp only
  with_reducible repeat' first
    | apply Keeps.ite
    | apply Keeps.trans ?_ (keeps_mbxEnd _ _ _)
    | apply Keeps.trans ?_ (keeps_startUpdate _ _ _ _ _)
    | apply Keeps.refl

theorem keeps_keyLifecycle (s : State) : Keeps s (keyLifecycle s) := by
  unfold keyLifecycle
  dsimp only
  with_reducible apply Keeps.ite
  · exact keeps_mbxEnd _ _ _
  · split
    · exact keeps_mbxEnd _ _ _
    · rename_i h
      refine Keeps.trans ?_ (keeps_mbxEnd _ _ _)
      refine Keeps.trans ?_ (keeps_gthRecord _ _ _)
      apply keeps_gth
      have le : s.gth.lc ≤ (mbxAt s gthKeyMbx).w 0 % 4 := by
        simp only [Bool.or_eq_true, Bool.not_eq_true, Bool.not_eq_eq_eq_not, decide_eq_true_eq, not_or] at h
        obtain ⟨⟨h1, _⟩, h2⟩ := h
        simp only [Bool.not_true, Bool.or_eq_false_iff, beq_eq_false_iff_ne, not_and, Bool.and_eq_false_imp, beq_iff_eq, decide_eq_false_iff_not] at h1
        omega
      split
      · exact ⟨le, Nat.le_refl _, fun _ x => x, fun _ _ x => x⟩
      · exact ⟨le, Nat.le_refl _, fun _ x => x, fun _ _ x => x⟩

theorem keeps_keyMetroload (s : State) (k : Nat) : Keeps s (keyMetroload s k) := by
  unfold keyMetroload
  try dsimp only
  with_reducible repeat' first
    | apply Keeps.ite
    | apply keeps_onKey
    | apply Keeps.trans ?_ (keeps_mbxEnd _ _ _)
    | apply KeepsFst.trans ?_ (keeps_useKey _ _ _ _ _)
    | apply Keeps.trans ?_ (keeps_mbxAnswer _ _ _ _)
    | apply Keeps.trans ?_ (keeps_ornMbx _ _ _)
    | apply Keeps.trans ?_ (keeps_setMbx _ _ _)
    | apply Keeps.trans ?_ (keeps_gthRecord _ _ _)
    | intro _
    | apply Keeps.refl

theorem keeps_keyFusekey (s : State) : Keeps s (keyFusekey s) := by
  unfold keyFusekey
  dsimp only
  with_reducible apply Keeps.ite
  · exact keeps_mbxEnd _ _ _
  · with_reducible apply Keeps.ite
    · exact keeps_mbxEnd _ _ _
    · split
      · exact keeps_mbxEnd _ _ _
      · rename_i h
        have same := physRead_some s gthMid ((mbxAt s gthKeyMbx).w2 1) 48
        refine Keeps.trans (keeps_physRead s gthMid ((mbxAt s gthKeyMbx).w2 1) 48).fst ?_
        generalize physRead s gthMid ((mbxAt s gthKeyMbx).w2 1) 48 = x at same
        obtain ⟨t, b⟩ := x
        cases b with
        | none => exact keeps_mbxEnd _ _ _
        | some bs =>
          have e : t = s := same rfl
          subst e
          simp only [onOpt]
          refine Keeps.trans ?_ (keeps_mbxEnd _ _ _)
          refine Keeps.trans ?_ (keeps_gthRecord _ _ _)
          apply keeps_gth
          refine ⟨Nat.le_refl _, Nat.le_refl _, fun _ x => x, fun r cs hr => ?_⟩
          rw [tget_tset_ne _ _ _ _ ?_]
          · exact hr
          · intro e
            rw [e] at hr
            rw [hr] at h
            exact h rfl

theorem keeps_keyFuserev (s : State) : Keeps s (keyFuserev s) := by
  unfold keyFuserev
  dsimp only
  with_reducible apply Keeps.ite
  · exact keeps_mbxEnd _ _ _
  · with_reducible apply Keeps.ite
    · exact keeps_mbxEnd _ _ _
    · refine Keeps.trans ?_ (keeps_mbxEnd _ _ _)
      refine Keeps.trans ?_ (keeps_gthRecord _ _ _)
      apply keeps_gth
      exact ⟨Nat.le_refl _, Nat.le_refl _, fun r x => bit_setBit_of_bit _ _ r x, fun _ _ x => x⟩

theorem keeps_keyBootver (s : State) : Keeps s (keyBootver s) := by
  unfold keyBootver
  dsimp only
  with_reducible apply Keeps.ite
  · exact keeps_mbxEnd _ _ _
  · split
    · exact keeps_mbxEnd _ _ _
    · rename_i h
      refine Keeps.trans ?_ (keeps_mbxEnd _ _ _)
      refine Keeps.trans ?_ (keeps_gthRecord _ _ _)
      apply keeps_gth
      exact ⟨Nat.le_refl _, Nat.le_of_lt (Nat.lt_of_not_le h), fun _ x => x, fun _ _ x => x⟩

theorem keeps_gthKeyReq (s : State) : Keeps s (gthKeyReq s) := by
  unfold gthKeyReq
  try dsimp only
  with_reducible repeat' first
    | apply Keeps.ite
    | apply Keeps.trans ?_ (keeps_mbxEnd _ _ _)
    | apply Keeps.trans ?_ (keeps_keyWrite _ _)
    | apply Keeps.trans ?_ (keeps_keyRead _ _ _)
    | apply Keeps.trans ?_ (keeps_keyRevoke _ _)
    | apply Keeps.trans ?_ (keeps_keyErase _ _)
    | apply Keeps.trans ?_ (keeps_keyLifecycle _)
    | apply Keeps.trans ?_ (keeps_keyMetroload _ _)
    | apply Keeps.trans ?_ (keeps_keyFusekey _)
    | apply Keeps.trans ?_ (keeps_keyFuserev _)
    | apply Keeps.trans ?_ (keeps_keyBootver _)
    | split
    | apply Keeps.refl

theorem keeps_dbgChallenge (s : State) (a : Nat) : Keeps s (dbgChallenge s a) := by
  unfold dbgChallenge
  try dsimp only
  with_reducible repeat' first
    | apply Keeps.ite
    | apply Keeps.trans ?_ (keeps_mbxEnd _ _ _)
    | apply Keeps.trans ?_ (keeps_drew _)
    | apply Keeps.trans ?_ (keeps_mbxAnswer _ _ _ _)
    | simp only [Keeps.gth_iff]
    | apply Keeps.refl

theorem keeps_dbgUnlock (s : State) (a : Nat) : Keeps s (dbgUnlock s a) := by
  unfold dbgUnlock
  try dsimp only
  with_reducible repeat' first
    | apply Keeps.ite
    | apply Keeps.trans ?_ (keeps_mbxEnd _ _ _)
    | apply Keeps.trans ?_ (keeps_gthRecord _ _ _)
    | apply Keeps.trans ?_ (keeps_cinc _ _)
    | simp only [Keeps.gth_iff]
    | apply Keeps.refl

theorem keeps_gthDbgReq (s : State) (a : Nat) : Keeps s (gthDbgReq s a) := by
  unfold gthDbgReq
  try dsimp only
  with_reducible repeat' first
    | apply Keeps.trans ?_ (keeps_dbgChallenge _ _)
    | apply Keeps.trans ?_ (keeps_dbgUnlock _ _)
    | apply Keeps.trans ?_ (keeps_mbxEnd _ _ _)
    | split
    | apply Keeps.refl

theorem keeps_gthMbx (r : GthReg) (a : Nat) (j : Nat) (s : State) : Keeps s (gthMbx r a j s) := by
  unfold gthMbx
  try dsimp only
  with_reducible repeat' first
    | apply Keeps.trans ?_ (keeps_gthKeyReq _)
    | apply Keeps.trans ?_ (keeps_gthDbgReq _ _)
    | apply Keeps.trans ?_ (keeps_gthReq _ _ _)
    | split
    | apply Keeps.refl

theorem keeps_gthEnable (p : Nat) (on : Bool) (s : State) : Keeps s (gthEnable p on s) := by
  unfold gthEnable
  try dsimp only
  with_reducible repeat' first
    | apply Keeps.ite
    | simp only [Keeps.gth_iff]
    | apply Keeps.refl

theorem keeps_gthSrst (p : Nat) (s : State) : Keeps s (gthSrst p s) := by
  unfold gthSrst
  try dsimp only
  with_reducible repeat' first
    | apply Keeps.ite
    | apply Keeps.trans ?_ (keeps_mbxEndIfBusy _ _ _)
    | simp only [Keeps.gth_iff]
    | apply Keeps.refl

theorem keeps_tamperPurge (s : State) : Keeps s (tamperPurge s) := by
  unfold tamperPurge
  try dsimp only
  with_reducible repeat' first
    | apply Keeps.ite
    | simp only [Keeps.gth_iff]
    | apply Keeps.refl

theorem keeps_gthTamper (s : State) : Keeps s (gthTamper s) := by
  unfold gthTamper
  try dsimp only
  with_reducible repeat' first
    | apply Keeps.trans ?_ (keeps_tamperPurge _)
    | apply Keeps.trans ?_ (keeps_gthRecord _ _ _)
    | apply Keeps.refl

theorem keeps_gthChanged (r : GthReg) (s : State) : Keeps s (gthChanged r s) := by
  unfold gthChanged
  try dsimp only
  with_reducible repeat' first
    | apply Keeps.trans ?_ (keeps_tamperPurge _)
    | split
    | apply Keeps.refl

end Sys2Proof.Machine
end

