-- ==== Sys2Proof/Laws/KeepIntegrity.lean ====
section
/-! SUPPORT. What the operations of Machine/Integrity.lean keep: the queue, memory's canonical form and the fuses. -/

set_option Elab.async false

namespace Sys2Proof.Machine

theorem keeps_implicate (s : State) (j : Nat) (line : Nat) (mid : Nat) (d : Nat) : Keeps s (implicate s j line mid d) := by
  unfold implicate
  try dsimp only
  with_reducible repeat' first
    | apply Keeps.ite
    | apply Keeps.trans ?_ (keeps_raiseFault _ _ _)
    | simp only [Keeps.mk_iff]
    | apply Keeps.refl

theorem keeps_countCodeword (s : State) (j : Nat) (line : Nat) (mid : Nat) (ds : List Nat) : Keeps s (countCodeword s j line mid ds) := by
  unfold countCodeword
  try dsimp only
  with_reducible repeat' first
    | apply Keeps.foldl
    | apply Keeps.trans ?_ (keeps_raiseFault _ _ _)
    | apply Keeps.trans ?_ (keeps_cinc _ _)
    | apply Keeps.trans ?_ (keeps_implicate _ _ _ _ _)
    | intro _
    | apply Keeps.refl

theorem keeps_poisonLine (s : State) (line : Nat) : Keeps s (poisonLine s line) := by
  unfold poisonLine
  try dsimp only
  with_reducible repeat' first
    | apply Keeps.ite
    | simp only [Keeps.mk_iff]
    | apply Keeps.refl

theorem keeps_readLine (s : State) (j : Nat) (line : Nat) (mid : Nat) (scrub : Bool) (errs : List (List Nat)) : Keeps s (readLine s j line mid scrub errs) := by
  unfold readLine
  try dsimp only
  with_reducible repeat' first
    | apply Keeps.ite
    | apply Keeps.foldl
    | apply Keeps.trans ?_ (keeps_countCodeword _ _ _ _ _)
    | apply Keeps.trans ?_ (keeps_cinc _ _)
    | apply Keeps.trans ?_ (keeps_raiseFault _ _ _)
    | apply Keeps.trans ?_ (keeps_poisonLine _ _)
    | simp only [Keeps.mk_iff]
    | intro _
    | split
    | apply Keeps.refl

theorem keeps_dramScrub (s : State) (j : Nat) (errs : List (List Nat)) : Keeps s (dramScrub s j errs) := by
  unfold dramScrub
  try dsimp only
  with_reducible repeat' first
    | apply Keeps.ite
    | apply Keeps.trans ?_ (keeps_noteUE _ _ _ _)
    | apply Keeps.trans ?_ (keeps_readLine _ _ _ _ _ _)
    | simp only [Keeps.mk_iff]
    | apply Keeps.refl

theorem keeps_ocLose (s : State) (u : Nat) (bank : Nat) (item : Nat) : Keeps s (ocLose s u bank item) := by
  unfold ocLose
  try dsimp only
  with_reducible repeat' first
    | apply Keeps.ite
    | apply Keeps.foldl
    | apply Keeps.trans ?_ (keeps_poisonLine _ _)
    | apply Keeps.trans ?_ (keeps_flushStamps _ _)
    | apply Keeps.trans ?_ (keeps_cinc _ _)
    | simp only [Keeps.mk_iff]
    | intro _
    | split
    | apply Keeps.refl

theorem keeps_ocFound (s : State) (u : Nat) (bank : Nat) (item : Nat) (f : OcFind) : Keeps s (ocFound s u bank item f) := by
  unfold ocFound
  try dsimp only
  with_reducible repeat' first
    | apply Keeps.trans ?_ (keeps_raiseOpen _ _ _ _)
    | apply Keeps.trans ?_ (keeps_cinc _ _)
    | apply Keeps.trans ?_ (keeps_ocLose _ _ _ _)
    | split
    | apply Keeps.refl

theorem keeps_onchipScrub (s : State) (u : Nat) (bank : Nat) (item : Nat) (f : OcFind) : Keeps s (onchipScrub s u bank item f) := by
  unfold onchipScrub
  try dsimp only
  with_reducible repeat' first
    | apply Keeps.ite
    | apply Keeps.trans ?_ (keeps_ocFound _ _ _ _ _)
    | simp only [Keeps.mk_iff]
    | apply Keeps.refl

theorem keeps_copiesWrong (s : State) (fix : List Nat) (cmp : List Nat) : Keeps s (copiesWrong s fix cmp) := by
  unfold copiesWrong
  try dsimp only
  with_reducible repeat' first
    | apply Keeps.foldl
    | apply Keeps.trans ?_ (keeps_raiseOpen _ _ _ _)
    | apply Keeps.trans ?_ (keeps_cinc _ _)
    | intro _
    | apply Keeps.refl

theorem keeps_copiesAtUse (s : State) (fix : List Nat) (cmp : List Nat) : Keeps s (copiesAtUse s fix cmp) := by
  unfold copiesAtUse
  try dsimp only
  with_reducible repeat' first
    | apply Keeps.trans ?_ (keeps_copiesWrong _ _ _)
    | apply Keeps.refl

theorem keeps_registerSweep (s : State) (fix : List Nat) (cmp : List Nat) (romOk : Bool) : Keeps s (registerSweep s fix cmp romOk) := by
  unfold registerSweep
  try dsimp only
  with_reducible repeat' first
    | apply Keeps.ite
    | apply Keeps.trans ?_ (keeps_copiesWrong _ _ _)
    | apply Keeps.trans ?_ (keeps_raiseOpen _ _ _ _)
    | apply Keeps.trans ?_ (keeps_cinc _ _)
    | apply Keeps.trans ?_ (keeps_drew _)
    | simp only [Keeps.mk_iff]
    | apply Keeps.refl

theorem keeps_gthCompare (s : State) (fixed : List Nat) (lost : List Nat) (cache : List Nat) : Keeps s (gthCompare s fixed lost cache) := by
  unfold gthCompare
  try dsimp only
  with_reducible repeat' first
    | apply Keeps.ite
    | apply Keeps.foldl
    | apply Keeps.trans ?_ (keeps_raiseOpen _ _ _ _)
    | apply Keeps.trans ?_ (keeps_cinc _ _)
    | simp only [Keeps.mk_iff, Keeps.gth_iff]
    | intro _
    | apply Keeps.refl

theorem keeps_bgLate (s : State) (n : Nat) : Keeps s (bgLate s n) := by
  unfold bgLate
  try dsimp only
  with_reducible repeat' first
    | apply Keeps.ite
    | apply Keeps.trans ?_ (keeps_raiseFault _ _ _)
    | apply Keeps.trans ?_ (keeps_drew _)
    | simp only [Keeps.mk_iff]
    | apply Keeps.refl

theorem keeps_markSet (s : State) (v : Nat) : Keeps s (markSet s v) := by
  unfold markSet
  try dsimp only
  with_reducible repeat' first
    | apply Keeps.ite
    | apply Keeps.trans ?_ (keeps_raiseFault _ _ _)
    | simp only [Keeps.mk_iff]
    | apply Keeps.refl

theorem keeps_memWsc (r : MemReg) (v : Nat) (s : State) : Keeps s (memWsc r v s) := by
  unfold memWsc
  try dsimp only
  with_reducible repeat' first
    | apply Keeps.trans ?_ (keeps_markSet _ _)
    | split
    | apply Keeps.refl

theorem keeps_memSrst (p : Nat) (s : State) : Keeps s (memSrst p s) := by
  unfold memSrst
  try dsimp only
  with_reducible repeat' first
    | simp only [Keeps.mk_iff]
    | split
    | apply Keeps.refl

theorem keeps_teleFrame (s : State) (head : List Nat) (body : List Nat) : Keeps s (teleFrame s head body) := by
  unfold teleFrame
  try dsimp only
  with_reducible repeat' first
    | apply Keeps.trans ?_ (keeps_trlHand _ _ _)
    | simp only [Keeps.mk_iff]
    | apply Keeps.refl

theorem keeps_teleNext (s : State) : Keeps s (teleNext s) := by
  unfold teleNext
  try dsimp only
  with_reducible repeat' first
    | simp only [Keeps.mk_iff]
    | apply Keeps.refl

theorem keeps_teleFrames (s : State) (b : List Nat) (n : Nat) : Keeps s (teleFrames s b n) := by
  unfold teleFrames
  try dsimp only
  with_reducible repeat' first
    | apply Keeps.ite
    | apply Keeps.trans ?_ (keeps_drew _)
    | apply Keeps.trans ?_ (keeps_teleNext _)
    | apply Keeps.trans ?_ (keeps_teleFrame _ _ _)
    | apply Keeps.refl

theorem keeps_teleSend (n : Nat) (x : State × Option (List Nat)) : Keeps x.1 (teleSend n x) := by
  unfold teleSend
  try dsimp only
  with_reducible repeat' first
    | apply Keeps.onOpt
    | apply Keeps.trans ?_ (keeps_teleFrames _ _ _)
    | intro _
    | apply Keeps.refl
    | apply KeepsFst.self

theorem keeps_telemetry (s : State) : Keeps s (telemetry s) := by
  unfold telemetry
  try dsimp only
  with_reducible repeat' first
    | apply Keeps.ite
    | apply Keeps.trans ?_ (keeps_cinc _ _)
    | apply Keeps.trans ?_ (keeps_teleSend _ _)
    | apply Keeps.trans ?_ (keeps_physRead _ _ _ _).fst
    | simp only [Keeps.mk_iff]
    | split
    | apply Keeps.refl

end Sys2Proof.Machine
end

