-- ==== Sys2Proof/Laws/KeepReset.lean ====
section
/-! SUPPORT. What the operations of Machine/Reset.lean keep: the queue, memory's canonical form and the fuses. -/

set_option Elab.async false

namespace Sys2Proof.Machine

theorem keeps_afterReset (s : State) : Keeps s (afterReset s) := by
  unfold afterReset
  try dsimp only
  with_reducible repeat' first
    | simp only [Keeps.gth_iff]
    | apply Keeps.refl

theorem keeps_systemReset (s : State) (c : RstCause) : Keeps s (systemReset s c) := by
  unfold systemReset
  try dsimp only
  with_reducible repeat' first
    | apply Keeps.ite
    | apply Keeps.trans ?_ (keeps_afterReset _)
    | simp only [Keeps.mk_iff]
    | apply Keeps.refl

theorem keeps_resetStart (s : State) : Keeps s (resetStart s) := by
  unfold resetStart
  try dsimp only
  with_reducible repeat' first
    | apply Keeps.ite
    | apply Keeps.trans ?_ (keeps_systemReset _ _)
    | split
    | apply Keeps.refl

theorem keeps_resetRelease (s : State) : Keeps s (resetRelease s) := by
  unfold resetRelease
  try dsimp only
  with_reducible repeat' first
    | apply Keeps.ite
    | apply Keeps.trans ?_ (keeps_rootChoose _)
    | simp only [Keeps.gth_iff]
    | apply Keeps.refl

theorem keeps_powerRise (s : State) : Keeps s (powerRise s) := by
  unfold powerRise
  try dsimp only
  with_reducible repeat' first
    | apply Keeps.ite
    | simp only [Keeps.mk_iff]
    | apply Keeps.refl

theorem keeps_powerFall (s : State) : Keeps s (powerFall s) := by
  unfold powerFall
  try dsimp only
  with_reducible repeat' first
    | apply Keeps.trans ?_ (keeps_systemReset _ _)
    | apply Keeps.trans ?_ (keeps_birthCut _)
    | simp only [Keeps.mk_iff]
    | apply Keeps.refl

theorem keeps_porstLow (s : State) : Keeps s (porstLow s) := by
  unfold porstLow
  try dsimp only
  with_reducible repeat' first
    | apply Keeps.trans ?_ (keeps_systemReset _ _)
    | simp only [Keeps.mk_iff]
    | apply Keeps.refl

theorem keeps_porstRise (s : State) : Keeps s (porstRise s) := by
  unfold porstRise
  try dsimp only
  with_reducible repeat' first
    | apply Keeps.ite
    | simp only [Keeps.mk_iff]
    | apply Keeps.refl

theorem keeps_debugReset (s : State) : Keeps s (debugReset s) := by
  unfold debugReset
  try dsimp only
  with_reducible repeat' first
    | apply Keeps.ite
    | apply Keeps.trans ?_ (keeps_systemReset _ _)
    | apply Keeps.refl

theorem keeps_wdtReset (s : State) : Keeps s (wdtReset s) := by
  unfold wdtReset
  try dsimp only
  with_reducible repeat' first
    | apply Keeps.trans ?_ (keeps_systemReset _ _)
    | apply Keeps.trans ?_ (keeps_raiseFault _ _ _)
    | apply Keeps.refl

theorem keeps_sysWdtExpire (s : State) : Keeps s (sysWdtExpire s) := by
  unfold sysWdtExpire
  try dsimp only
  with_reducible repeat' first
    | apply Keeps.ite
    | apply Keeps.trans ?_ (keeps_wdtReset _)
    | apply Keeps.refl

theorem keeps_monRise (s : State) (i : Nat) : Keeps s (monRise s i) := by
  unfold monRise
  try dsimp only
  with_reducible repeat' first
    | apply Keeps.ite
    | apply Keeps.trans ?_ (keeps_raiseFault _ _ _)
    | apply Keeps.trans ?_ (keeps_cinc _ _)
    | apply Keeps.trans ?_ (keeps_systemReset _ _)
    | simp only [Keeps.mk_iff]
    | apply Keeps.refl

theorem keeps_monFall (s : State) (i : Nat) : Keeps s (monFall s i) := by
  unfold monFall
  try dsimp only
  with_reducible repeat' first
    | apply Keeps.ite
    | simp only [Keeps.mk_iff]
    | apply Keeps.refl

theorem keeps_monWindow (s : State) (i : Nat) (out : Bool) : Keeps s (monWindow s i out) := by
  unfold monWindow
  try dsimp only
  with_reducible repeat' first
    | apply Keeps.ite
    | apply Keeps.trans ?_ (keeps_monRise _ _)
    | apply Keeps.trans ?_ (keeps_monFall _ _)
    | simp only [Keeps.mk_iff]
    | apply Keeps.refl

theorem keeps_clockStop (s : State) (i : Nat) : Keeps s (clockStop s i) := by
  unfold clockStop
  try dsimp only
  with_reducible repeat' first
    | apply Keeps.ite
    | apply Keeps.trans ?_ (keeps_monRise _ _)
    | simp only [Keeps.mk_iff]
    | apply Keeps.refl

theorem keeps_monRestart (s : State) (i : Nat) : Keeps s (monRestart s i) := by
  unfold monRestart
  try dsimp only
  with_reducible repeat' first
    | simp only [Keeps.mk_iff]
    | apply Keeps.refl

theorem keeps_pllLoss (s : State) (i : Nat) : Keeps s (pllLoss s i) := by
  unfold pllLoss
  try dsimp only
  with_reducible repeat' first
    | apply Keeps.ite
    | apply Keeps.trans ?_ (keeps_monRestart _ _)
    | apply Keeps.trans ?_ (keeps_raiseFault _ _ _)
    | apply Keeps.trans ?_ (keeps_drew _)
    | simp only [Keeps.mk_iff]
    | apply Keeps.refl

theorem keeps_laneLock (s : State) (m : Nat) : Keeps s (laneLock s m) := by
  unfold laneLock
  try dsimp only
  with_reducible repeat' first
    | apply Keeps.ite
    | simp only [Keeps.mk_iff]
    | apply Keeps.refl

theorem keeps_pllLock (s : State) (i : Nat) : Keeps s (pllLock s i) := by
  unfold pllLock
  try dsimp only
  with_reducible repeat' first
    | apply Keeps.ite
    | simp only [Keeps.mk_iff]
    | apply Keeps.refl

theorem keeps_linkUpEvent (s : State) (m : Nat) : Keeps s (linkUpEvent s m) := by
  unfold linkUpEvent
  try dsimp only
  with_reducible repeat' first
    | apply Keeps.ite
    | apply Keeps.trans ?_ (keeps_setPort _ _ _)
    | apply Keeps.refl

theorem keeps_linkDownEvent (s : State) (m : Nat) : Keeps s (linkDownEvent s m) := by
  unfold linkDownEvent
  try dsimp only
  with_reducible repeat' first
    | apply Keeps.trans ?_ (keeps_setPort _ _ _)
    | apply Keeps.refl

theorem keeps_refreshOpsec (s : State) (a : Nat) : Keeps s (refreshOpsec s a) := by
  unfold refreshOpsec
  try dsimp only
  with_reducible repeat' first
    | apply Keeps.ite
    | simp only [Keeps.mk_iff]
    | apply Keeps.refl

theorem keeps_refresh (s : State) (r : RegLoc) : Keeps s (refresh s r) := by
  unfold refresh
  try dsimp only
  with_reducible repeat' first
    | apply Keeps.trans ?_ (keeps_refreshOpsec _ _)
    | simp only [Keeps.mk_iff]
    | apply Keeps.refl

theorem keeps_ornSeen (s : State) (a : Nat) : Keeps s (ornSeen s a) := by
  unfold ornSeen
  try dsimp only
  with_reducible repeat' first
    | apply Keeps.ite
    | apply Keeps.trans ?_ (keeps_raiseFault _ _ _)
    | apply Keeps.trans ?_ (keeps_drew _)
    | simp only [Keeps.mk_iff]
    | apply Keeps.refl

theorem keeps_shadowRefresh (s : State) (a : Nat) : Keeps s (shadowRefresh s a) := by
  unfold shadowRefresh
  try dsimp only
  with_reducible repeat' first
    | apply Keeps.ite
    | apply Keeps.trans ?_ (keeps_ornSeen _ _)
    | apply Keeps.trans ?_ (keeps_refresh _ _)
    | split
    | apply Keeps.refl

theorem keeps_groupReady (s : State) (g : Nat) : Keeps s (groupReady s g) := by
  unfold groupReady
  try dsimp only
  with_reducible repeat' first
    | apply Keeps.ite
    | apply Keeps.foldl
    | apply Keeps.trans ?_ (keeps_shadowRefresh _ _)
    | simp only [Keeps.mk_iff]
    | intro _
    | apply Keeps.refl

theorem keeps_setEvChan (s : State) (tok : Bool) (c : EventChannel) : Keeps s (setEvChan s tok c) := by
  unfold setEvChan
  try dsimp only
  with_reducible repeat' first
    | simp only [Keeps.mk_iff]
    | apply Keeps.refl

theorem keeps_chanPulse (s : State) (tok : Bool) : Keeps s (chanPulse s tok) := by
  unfold chanPulse
  try dsimp only
  with_reducible repeat' first
    | apply Keeps.ite
    | apply Keeps.trans ?_ (keeps_setEvChan _ _ _)
    | apply Keeps.refl

theorem keeps_chanRequest (s : State) (tok : Bool) : Keeps s (chanRequest s tok) := by
  unfold chanRequest
  try dsimp only
  with_reducible repeat' first
    | apply Keeps.ite
    | apply Keeps.trans ?_ (keeps_setEvChan _ _ _)
    | apply Keeps.refl

theorem keeps_chanDeliver (s : State) (tok : Bool) : Keeps s (chanDeliver s tok) := by
  unfold chanDeliver
  try dsimp only
  with_reducible repeat' first
    | apply Keeps.ite
    | apply Keeps.trans ?_ (keeps_setEvChan _ _ _)
    | apply Keeps.trans ?_ (keeps_cadd _ _ _)
    | apply Keeps.trans ?_ (keeps_cinc _ _)
    | split
    | apply Keeps.refl

theorem keeps_chanAck (s : State) (tok : Bool) : Keeps s (chanAck s tok) := by
  unfold chanAck
  try dsimp only
  with_reducible repeat' first
    | apply Keeps.ite
    | apply Keeps.trans ?_ (keeps_setEvChan _ _ _)
    | apply Keeps.refl

theorem keeps_doutRaise (s : State) : Keeps s (doutRaise s) := by
  unfold doutRaise
  try dsimp only
  with_reducible repeat' first
    | apply Keeps.ite
    | simp only [Keeps.mk_iff]
    | split
    | apply Keeps.refl

theorem keeps_doutCommand (s : State) (levels : Nat) (mask : Nat) : Keeps s (doutCommand s levels mask) := by
  unfold doutCommand
  try dsimp only
  with_reducible repeat' first
    | apply Keeps.ite
    | apply Keeps.trans ?_ (keeps_doutRaise _)
    | simp only [Keeps.mk_iff]
    | apply Keeps.refl

theorem keeps_doutApply (s : State) : Keeps s (doutApply s) := by
  unfold doutApply
  try dsimp only
  with_reducible repeat' first
    | apply Keeps.ite
    | apply Keeps.foldl
    | apply Keeps.trans ?_ (keeps_doutRaise _)
    | apply Keeps.trans ?_ (keeps_drew _)
    | apply Keeps.trans ?_ (keeps_cinc _ _)
    | apply Keeps.trans ?_ (keeps_drivePin _ _ _)
    | apply Keeps.trans ?_ (keeps_cadd _ _ _)
    | simp only [Keeps.mk_iff]
    | intro _
    | split
    | apply Keeps.refl

theorem keeps_calendarSecond (s : State) : Keeps s (calendarSecond s) := by
  unfold calendarSecond
  try dsimp only
  with_reducible repeat' first
    | apply Keeps.ite
    | simp only [Keeps.mk_iff]
    | apply Keeps.refl

theorem keeps_opsecStep (s : State) : Keeps s (opsecStep s) := by
  unfold opsecStep
  try dsimp only
  with_reducible repeat' first
    | apply Keeps.ite
    | simp only [Keeps.mk_iff]
    | apply Keeps.refl

theorem keeps_tamperEdge (s : State) (low : Bool) : Keeps s (tamperEdge s low) := by
  unfold tamperEdge
  try dsimp only
  with_reducible repeat' first
    | apply Keeps.ite
    | apply Keeps.trans ?_ (keeps_chanPulse _ _)
    | apply Keeps.trans ?_ (keeps_gthTamper _)
    | simp only [Keeps.mk_iff]
    | apply Keeps.refl

theorem keeps_grtGroupReset (s : State) : Keeps s (grtGroupReset s) := by
  unfold grtGroupReset
  try dsimp only
  with_reducible repeat' first
    | apply Keeps.trans ?_ (keeps_dropShadows _ _)
    | apply Keeps.trans ?_ (keeps_holdGroup _ _ _)
    | apply Keeps.trans ?_ (keeps_mbxEndIfBusy _ _ _)
    | simp only [Keeps.mk_iff]
    | apply Keeps.refl

theorem keeps_grottoReset (s : State) : Keeps s (grottoReset s) := by
  unfold grottoReset
  try dsimp only
  with_reducible repeat' first
    | apply Keeps.ite
    | apply Keeps.trans ?_ (keeps_grtGroupReset _)
    | apply Keeps.trans ?_ (keeps_gthTamper _)
    | simp only [Keeps.mk_iff]
    | apply Keeps.refl

theorem keeps_grtTimeReq (s : State) (a : Nat) : Keeps s (grtTimeReq s a) := by
  unfold grtTimeReq
  try dsimp only
  with_reducible repeat' first
    | apply Keeps.ite
    | apply Keeps.trans ?_ (keeps_mbxEnd _ _ _)
    | apply Keeps.trans ?_ (keeps_mbxAnswer _ _ _ _)
    | split
    | apply Keeps.refl

theorem keeps_scratchWrite (s : State) (p : Nat) (bs : List Nat) : Keeps s (scratchWrite s p bs) := by
  unfold scratchWrite
  try dsimp only
  with_reducible repeat' first
    | simp only [Keeps.mk_iff]
    | apply Keeps.refl

theorem keeps_grtCmdReq (s : State) (a : Nat) : Keeps s (grtCmdReq s a) := by
  unfold grtCmdReq
  try dsimp only
  with_reducible repeat' first
    | apply Keeps.ite
    | apply Keeps.trans ?_ (keeps_mbxEnd _ _ _)
    | apply Keeps.trans ?_ (keeps_scratchWrite _ _ _)
    | simp only [Keeps.mk_iff]
    | split
    | apply Keeps.refl

theorem keeps_grtMbx (r : GrtReg) (a : Nat) (s : State) : Keeps s (grtMbx r a s) := by
  unfold grtMbx
  try dsimp only
  with_reducible repeat' first
    | apply Keeps.ite
    | apply Keeps.trans ?_ (keeps_mbxEnd _ _ _)
    | apply Keeps.trans ?_ (keeps_grtTimeReq _ _)
    | apply Keeps.trans ?_ (keeps_grtCmdReq _ _)
    | split
    | apply Keeps.refl

theorem keeps_ornPinReset (s : State) : Keeps s (ornPinReset s) := by
  unfold ornPinReset
  try dsimp only
  with_reducible repeat' first
    | apply Keeps.trans ?_ (keeps_ornReset _ _)
    | apply Keeps.refl

theorem keeps_railTrip (s : State) (i : Nat) (absent : Bool) : Keeps s (railTrip s i absent) := by
  unfold railTrip
  try dsimp only
  with_reducible repeat' first
    | apply Keeps.ite
    | apply Keeps.foldl
    | apply Keeps.trans ?_ (keeps_raiseFault _ _ _)
    | apply Keeps.trans ?_ (keeps_drew _)
    | apply Keeps.trans ?_ (keeps_portDown _ _)
    | apply Keeps.trans ?_ (keeps_sealPinChange _ _)
    | apply Keeps.trans ?_ (keeps_ornReset _ _)
    | apply Keeps.trans ?_ (keeps_systemReset _ _)
    | simp only [Keeps.mk_iff]
    | intro _
    | split
    | apply Keeps.refl

theorem keeps_railRestore (s : State) (i : Nat) : Keeps s (railRestore s i) := by
  unfold railRestore
  try dsimp only
  with_reducible repeat' first
    | apply Keeps.ite
    | simp only [Keeps.mk_iff]
    | split
    | apply Keeps.refl

theorem keeps_vbatLevel (s : State) (low : Bool) : Keeps s (vbatLevel s low) := by
  unfold vbatLevel
  try dsimp only
  with_reducible repeat' first
    | apply Keeps.ite
    | simp only [Keeps.mk_iff]
    | apply Keeps.refl

theorem keeps_wdtKick (old : State) (s : State) : Keeps s (wdtKick old s) := by
  unfold wdtKick
  try dsimp only
  with_reducible repeat' first
    | apply Keeps.ite
    | apply Keeps.trans ?_ (keeps_wdtReset _)
    | simp only [Keeps.mk_iff, Keeps.gth_iff]
    | intro _
    | split
    | apply Keeps.refl
    | assumption

theorem keeps_cruWsc (r : CruReg) (v : Nat) (s : State) : Keeps s (cruWsc r v s) := by
  unfold cruWsc
  try dsimp only
  with_reducible repeat' first
    | apply Keeps.ite
    | apply Keeps.foldl
    | apply Keeps.trans ?_ (keeps_wign _ _)
    | apply Keeps.trans ?_ (keeps_portPulse _ _)
    | apply Keeps.trans ?_ (keeps_wdtKick _ _)
    | simp only [Keeps.mk_iff]
    | intro _
    | split
    | apply Keeps.refl

theorem keeps_cruChanged (r : CruReg) (old : State) (s : State) : Keeps s (cruChanged r old s) := by
  unfold cruChanged
  try dsimp only
  with_reducible repeat' first
    | apply Keeps.trans ?_ (keeps_wdtKick _ _)
    | split
    | apply Keeps.refl

end Sys2Proof.Machine
end

