-- ==== Sys2Proof/Laws/KeepBoot.lean ====
section
/-! SUPPORT. What the operations of Machine/Boot.lean keep: the queue, memory's canonical form and the fuses. -/

set_option Elab.async false

namespace Sys2Proof.Machine

theorem keeps_bootSelect (s : State) (err0 : Bool) (err1 : Bool) : Keeps s (bootSelect s err0 err1) := by
  unfold bootSelect
  try dsimp only
  with_reducible repeat' first
    | apply Keeps.ite
    | apply Keeps.trans ?_ (keeps_gthRecord _ _ _)
    | apply Keeps.trans ?_ (keeps_physPut _ _ _ _)
    | simp only [Keeps.mk_iff]
    | split
    | apply Keeps.refl

theorem keeps_bootGo (s : State) (ks : List Nat) : Keeps s (bootGo s ks) := by
  unfold bootGo
  try dsimp only
  with_reducible repeat' first
    | apply Keeps.ite
    | apply Keeps.trans ?_ (keeps_wign _ _)
    | simp only [Keeps.mk_iff]
    | apply Keeps.refl

theorem keeps_dinAccept (s : State) (p : Nat) : Keeps s (dinAccept s p) := by
  unfold dinAccept
  try dsimp only
  with_reducible repeat' first
    | apply Keeps.ite
    | apply Keeps.trans ?_ (keeps_cinc _ _)
    | apply Keeps.trans ?_ (keeps_batchOrHold _ _ _ _)
    | simp only [Keeps.mk_iff]
    | apply Keeps.refl

theorem keeps_dinSampleOne (s : State) (v : Nat) (p : Nat) : Keeps s (dinSampleOne s v p) := by
  unfold dinSampleOne
  try dsimp only
  with_reducible repeat' first
    | apply Keeps.ite
    | simp only [Keeps.mk_iff]
    | apply Keeps.refl

theorem keeps_dinSample (s : State) (v : Nat) : Keeps s (dinSample s v) := by
  unfold dinSample
  try dsimp only
  with_reducible repeat' first
    | apply Keeps.ite
    | apply Keeps.foldl
    | apply Keeps.trans ?_ (keeps_dinAccept _ _)
    | apply Keeps.trans ?_ (keeps_dinSampleOne _ _ _)
    | simp only [Keeps.mk_iff]
    | intro _
    | apply Keeps.refl

theorem keeps_bflReq (s : State) (a : Nat) (ok : Bool) : Keeps s (bflReq s a ok) := by
  unfold bflReq
  try dsimp only
  with_reducible repeat' first
    | apply Keeps.ite
    | apply Keeps.trans ?_ (keeps_mbxEnd _ _ _)
    | apply Keeps.trans ?_ (keeps_cinc _ _)
    | apply Keeps.trans ?_ (keeps_mbxAnswer _ _ _ _)
    | apply Keeps.trans ?_ (keeps_fset _ _ _)
    | simp only [Keeps.mk_iff]
    | split
    | apply Keeps.refl

theorem keeps_dbgMbx (r : DbgReg) (a : Nat) (s : State) : Keeps s (dbgMbx r a s) := by
  unfold dbgMbx
  try dsimp only
  with_reducible repeat' first
    | apply Keeps.ite
    | apply Keeps.trans ?_ (keeps_bflReq _ _ _)
    | apply Keeps.trans ?_ (keeps_mbxEnd _ _ _)
    | apply Keeps.trans ?_ (keeps_doutCommand _ _ _)
    | split
    | apply Keeps.refl

theorem keeps_dbgWsc (r : DbgReg) (v : Nat) (s : State) : Keeps s (dbgWsc r v s) := by
  unfold dbgWsc
  try dsimp only
  with_reducible repeat' first
    | apply Keeps.trans ?_ (keeps_bootGo _ _)
    | split
    | apply Keeps.refl

theorem keeps_dbgSrst (p : Nat) (s : State) : Keeps s (dbgSrst p s) := by
  unfold dbgSrst
  try dsimp only
  with_reducible repeat' first
    | apply Keeps.ite
    | simp only [Keeps.mk_iff]
    | apply Keeps.refl

theorem keeps_tapSet (s : State) (i : TapInstr) (f : Tap → Tap) : Keeps s (tapSet s i f) := by
  unfold tapSet
  try dsimp only
  with_reducible repeat' first
    | apply Keeps.ite
    | simp only [Keeps.mk_iff]
    | apply Keeps.refl

theorem keeps_tapReset (s : State) : Keeps s (tapReset s) := by
  unfold tapReset
  try dsimp only
  with_reducible repeat' first
    | apply Keeps.ite
    | simp only [Keeps.gth_iff]
    | apply Keeps.refl

end Sys2Proof.Machine
end

