-- ==== Sys2Proof/Laws/KeepImage.lean ====
section
/-! SUPPORT. What the operations of Machine/Image.lean keep: the queue, memory's canonical form and the fuses. -/

set_option Elab.async false

namespace Sys2Proof.Machine

theorem keeps_onTarget {s : State} {x : Nat × Nat} {bad good : Nat → State} (hb : ∀ c, Keeps s (bad c)) (hg : ∀ n, Keeps s (good n)) :
    Keeps s (onTarget x bad good) := by
  unfold onTarget
  split
  · exact hg _
  · exact hb _

theorem keeps_setClass (s : State) (c : Nat) (x : ClassRun) : Keeps s (setClass s c x) := by
  unfold setClass
  try dsimp only
  with_reducible repeat' first
    | simp only [Keeps.mk_iff]
    | apply Keeps.refl

theorem keeps_setProg (s : State) (p : Nat) (x : Program) : Keeps s (setProg s p x) := by
  unfold setProg
  try dsimp only
  with_reducible repeat' first
    | simp only [Keeps.mk_iff]
    | apply Keeps.refl

theorem keeps_classStep (s : State) (c : Nat) : Keeps s (classStep s c) := by
  unfold classStep
  try dsimp only
  with_reducible repeat' first
    | apply Keeps.trans ?_ (keeps_setClass _ _ _)
    | split
    | apply Keeps.refl

theorem keeps_classFollow (s : State) : Keeps s (classFollow s) := by
  unfold classFollow
  try dsimp only
  with_reducible repeat' first
    | apply Keeps.foldl
    | apply Keeps.trans ?_ (keeps_classStep _ _)
    | intro _
    | apply Keeps.refl

theorem keeps_readImage (s : State) (p : Nat) (at_ : Nat) : KeepsFst s (readImage s p at_) := by
  unfold readImage
  try dsimp only
  with_reducible repeat' first
    | apply KeepsFst.ite
    | apply KeepsFst.onOpt
    | apply KeepsFst.trans ?_ (keeps_engRead _ _ _ _ _)
    | simp only [KeepsFst.pair_iff]
    | intro _
    | apply Keeps.refl

theorem keeps_readLatchList (s : State) (p : Nat) (a : Nat) : KeepsFst s (readLatchList s p a) := by
  unfold readLatchList
  try dsimp only
  with_reducible repeat' first
    | apply KeepsFst.ite
    | apply KeepsFst.onOpt
    | apply KeepsFst.trans ?_ (keeps_engRead _ _ _ _ _)
    | simp only [KeepsFst.pair_iff]
    | intro _
    | apply Keeps.refl

theorem keeps_imageCheck (s : State) (p : Nat) (x : Image) : KeepsFst s (imageCheck s p x) := by
  unfold imageCheck
  try dsimp only
  with_reducible repeat' first
    | apply KeepsFst.onPair
    | apply Keeps.foldl_fst
    | apply KeepsFst.trans ?_ (keeps_readLatchList _ _ _)
    | simp only [KeepsFst.pair_iff]
    | intro _
    | apply Keeps.refl

theorem keeps_activate (s : State) (p : Nat) : Keeps s (activate s p) := by
  unfold activate
  try dsimp only
  with_reducible repeat' first
    | apply Keeps.onPair
    | apply Keeps.onOpt
    | apply KeepsFst.trans ?_ (keeps_readImage _ _ _)
    | apply Keeps.trans ?_ (keeps_setProg _ _ _)
    | apply KeepsFst.trans ?_ (keeps_imageCheck _ _ _)
    | intro _
    | apply Keeps.refl

theorem keeps_resetHeader (s : State) (p : Nat) (a : Nat) (tick : Nat) : Keeps s (resetHeader s p a tick) := by
  unfold resetHeader
  try dsimp only
  with_reducible repeat' first
    | apply Keeps.onOk
    | apply Keeps.trans ?_ (keeps_engWrite _ _ _ _ _).fst
    | apply KeepsFst.trans ?_ (keeps_engWrite _ _ _ _ _)
    | intro _
    | apply Keeps.refl

theorem keeps_resetEvents (s : State) (p : Nat) (n : Nat) : Keeps s (resetEvents s p n) := by
  unfold resetEvents
  try dsimp only
  with_reducible repeat' first
    | apply Keeps.foldl
    | apply Keeps.trans ?_ (keeps_resetHeader _ _ _ _)
    | intro _
    | apply Keeps.refl

theorem keeps_shadowCopy (s : State) (p : Nat) : Keeps s (shadowCopy s p) := by
  unfold shadowCopy
  try dsimp only
  with_reducible repeat' first
    | apply Keeps.ite
    | apply Keeps.onOpt
    | apply KeepsFst.trans ?_ (keeps_engRead _ _ _ _ _)
    | apply Keeps.trans ?_ (keeps_physPut _ _ _ _)
    | intro _
    | apply Keeps.refl

theorem keeps_restoreRetain (s : State) (p : Nat) (warm : Bool) : Keeps s (restoreRetain s p warm) := by
  unfold restoreRetain
  try dsimp only
  with_reducible repeat' first
    | apply Keeps.ite
    | apply Keeps.onOpt
    | apply KeepsFst.trans ?_ (keeps_physRead _ _ _ _)
    | apply Keeps.trans ?_ (keeps_engWrite _ _ _ _ _).fst
    | apply KeepsFst.trans ?_ (keeps_readImage _ _ _)
    | apply KeepsFst.trans ?_ (keeps_engRead _ _ _ _ _)
    | intro _
    | apply Keeps.refl

theorem keeps_abandonOf (s : State) (p : Nat) : Keeps s (abandonOf s p) := by
  unfold abandonOf
  try dsimp only
  with_reducible repeat' first
    | simp only [Keeps.mk_iff]
    | apply Keeps.refl

theorem keeps_restart (s : State) (p : Nat) (n : Nat) (warm : Bool) (cause : Nat) : Keeps s (restart s p n warm cause) := by
  unfold restart
  try dsimp only
  with_reducible repeat' first
    | apply Keeps.trans ?_ (keeps_resetEvents _ _ _)
    | apply Keeps.trans ?_ (keeps_restoreRetain _ _ _)
    | apply Keeps.trans ?_ (keeps_abandonOf _ _)
    | apply Keeps.trans ?_ (keeps_recordExcl _ _ _ _)
    | apply Keeps.refl

theorem keeps_startProgram (s : State) (p : Nat) (n : Nat) (warm : Bool) (cause : Nat) : Keeps s (startProgram s p n warm cause) := by
  unfold startProgram
  try dsimp only
  with_reducible repeat' first
    | apply Keeps.trans ?_ (keeps_restart _ _ _ _ _)
    | apply Keeps.trans ?_ (keeps_activate _ _)
    | apply Keeps.refl

theorem keeps_setForces (s : State) (fs : List Force) : Keeps s (setForces s fs) := by
  unfold setForces
  try dsimp only
  with_reducible repeat' first
    | simp only [Keeps.mk_iff]
    | apply Keeps.refl

theorem keeps_putForce (s : State) (f : Force) : Keeps s (putForce s f) := by
  unfold putForce
  try dsimp only
  with_reducible repeat' first
    | apply Keeps.trans ?_ (keeps_setForces _ _)
    | apply Keeps.refl

theorem keeps_findSym (s : State) (p : Nat) (id : Nat) : KeepsFst s (findSym s p id) := by
  unfold findSym
  try dsimp only
  with_reducible repeat' first
    | apply KeepsFst.ite
    | apply KeepsFst.onOpt
    | apply KeepsFst.trans ?_ (keeps_readImage _ _ _)
    | simp only [KeepsFst.pair_iff]
    | intro _
    | apply Keeps.refl

theorem keeps_forceReq (s : State) : Keeps s (forceReq s) := by
  unfold forceReq
  try dsimp only
  with_reducible repeat' first
    | apply Keeps.ite
    | apply Keeps.onOpt
    | apply keeps_onTarget
    | apply Keeps.trans ?_ (keeps_mbxEnd _ _ _)
    | apply KeepsFst.trans ?_ (keeps_findSym _ _ _)
    | apply Keeps.trans ?_ (keeps_mbxAnswer _ _ _ _)
    | simp only [Keeps.mk_iff]
    | intro _
    | split
    | apply Keeps.refl

theorem keeps_forceApply (s : State) (n : Nat) : Keeps s (forceApply s n) := by
  unfold forceApply
  try dsimp only
  with_reducible repeat' first
    | apply Keeps.ite
    | apply Keeps.onOpt
    | apply Keeps.trans ?_ (keeps_mbxEndIfBusy _ _ _)
    | apply Keeps.trans ?_ (keeps_setForces _ _)
    | apply KeepsFst.trans ?_ (keeps_findSym _ _ _)
    | apply Keeps.trans ?_ (keeps_putForce _ _)
    | simp only [Keeps.mk_iff]
    | intro _
    | split
    | apply Keeps.refl

theorem keeps_exchangeReq (s : State) : Keeps s (exchangeReq s) := by
  unfold exchangeReq
  try dsimp only
  with_reducible repeat' first
    | apply Keeps.ite
    | apply Keeps.onOpt
    | apply keeps_onTarget
    | apply KeepsFst.trans ?_ (keeps_readImage _ _ _)
    | apply Keeps.trans ?_ (keeps_mbxEnd _ _ _)
    | simp only [Keeps.mk_iff]
    | intro _
    | apply Keeps.refl

theorem keeps_pvcmdReq (s : State) : Keeps s (pvcmdReq s) := by
  unfold pvcmdReq
  try dsimp only
  with_reducible repeat' first
    | apply keeps_onTarget
    | apply Keeps.trans ?_ (keeps_exchangeReq _)
    | apply Keeps.trans ?_ (keeps_mbxEnd _ _ _)
    | simp only [Keeps.mk_iff]
    | intro _
    | split
    | apply Keeps.refl

theorem keeps_forcesMove (s : State) (p : Nat) (n : Nat) (old : Image) (new : Image) : Keeps s (forcesMove s p n old new) := by
  unfold forcesMove
  try dsimp only
  with_reducible repeat' first
    | apply Keeps.foldl
    | apply Keeps.trans ?_ (keeps_setForces _ _)
    | apply Keeps.trans ?_ (keeps_putForce _ _)
    | apply Keeps.trans ?_ (keeps_recordExcl _ _ _ _)
    | intro _
    | split
    | apply Keeps.refl

theorem keeps_dropEvents (s : State) (p : Nat) (n : Nat) : Keeps s (dropEvents s p n) := by
  unfold dropEvents
  try dsimp only
  with_reducible repeat' first
    | apply Keeps.ite
    | apply Keeps.onOpt
    | apply Keeps.foldl
    | apply KeepsFst.trans ?_ (keeps_engRead _ _ _ _ _)
    | apply Keeps.trans ?_ (keeps_cinc _ _)
    | apply Keeps.trans ?_ (keeps_resetHeader _ _ _ _)
    | intro _
    | apply Keeps.refl

theorem keeps_namesOf (s : State) (p : Nat) (w : Nat → Nat) : Keeps s (namesOf s p w) := by
  unfold namesOf
  try dsimp only
  with_reducible repeat' first
    | apply Keeps.trans ?_ (keeps_fset _ _ _)
    | apply Keeps.refl

theorem keeps_exchange (s : State) (p : Nat) (n : Nat) (w : Nat → Nat) : KeepsFst s (exchange s p n w) := by
  unfold exchange
  try dsimp only
  with_reducible repeat' first
    | apply KeepsFst.ite
    | apply KeepsFst.onPair
    | apply KeepsFst.onOpt
    | apply KeepsFst.trans ?_ (keeps_readImage _ _ _)
    | apply KeepsFst.trans ?_ (keeps_engRead _ _ _ _ _)
    | apply Keeps.trans ?_ (keeps_namesOf _ _ _)
    | apply Keeps.trans ?_ (keeps_engWrite _ _ _ _ _).fst
    | apply Keeps.trans ?_ (keeps_shadowCopy _ _)
    | apply KeepsFst.trans ?_ (keeps_imageCheck _ _ _)
    | apply Keeps.trans ?_ (keeps_setProg _ _ _)
    | apply Keeps.trans ?_ (keeps_dropEvents _ _ _)
    | apply Keeps.trans ?_ (keeps_forcesMove _ _ _ _ _)
    | apply Keeps.trans ?_ (keeps_recordExcl _ _ _ _)
    | simp only [KeepsFst.pair_iff]
    | intro _
    | apply Keeps.refl

theorem keeps_pvcmdApply (s : State) (n : Nat) : Keeps s (pvcmdApply s n) := by
  unfold pvcmdApply
  try dsimp only
  with_reducible repeat' first
    | apply Keeps.ite
    | apply Keeps.onPair
    | apply Keeps.trans ?_ (keeps_mbxEndIfBusy _ _ _)
    | apply Keeps.trans ?_ (keeps_restart _ _ _ _ _)
    | apply KeepsFst.trans ?_ (keeps_exchange _ _ _ _)
    | simp only [Keeps.mk_iff]
    | intro _
    | split
    | apply Keeps.refl

end Sys2Proof.Machine
end

