-- ==== Sys2Proof/Laws/KeepMigration.lean ====
section
/-! SUPPORT. What the operations of Machine/Migration.lean keep: the queue, memory's canonical form and the fuses. -/

set_option Elab.async false

namespace Sys2Proof.Machine

theorem keeps_migWait (s : State) (p : Nat) (ph : PavPhase) (r : MigReq) : Keeps s (migWait s p ph r) := by
  unfold migWait
  try dsimp only
  with_reducible repeat' first
    | apply Keeps.trans ?_ (keeps_setPav _ _ _)
    | apply Keeps.refl

theorem keeps_migFreeze (s : State) (p : Nat) (d : List Nat) : Keeps s (migFreeze s p d) := by
  unfold migFreeze
  try dsimp only
  with_reducible repeat' first
    | apply Keeps.ite
    | apply keeps_onTarget
    | apply Keeps.trans ?_ (keeps_mbxEnd _ _ _)
    | apply Keeps.trans ?_ (keeps_migWait _ _ _ _)
    | intro _
    | apply Keeps.refl

theorem keeps_migRestore (s : State) (p : Nat) (d : List Nat) : Keeps s (migRestore s p d) := by
  unfold migRestore
  try dsimp only
  with_reducible repeat' first
    | apply Keeps.ite
    | apply Keeps.onOpt
    | apply keeps_onTarget
    | apply Keeps.trans ?_ (keeps_mbxEnd _ _ _)
    | apply KeepsFst.trans ?_ (keeps_physRead _ _ _ _)
    | apply Keeps.trans ?_ (keeps_migWait _ _ _ _)
    | intro _
    | apply Keeps.refl

theorem keeps_migReq (s : State) (p : Nat) : Keeps s (migReq s p) := by
  unfold migReq
  try dsimp only
  with_reducible repeat' first
    | apply Keeps.ite
    | apply keeps_onTarget
    | apply Keeps.trans ?_ (keeps_mbxEnd _ _ _)
    | apply Keeps.trans ?_ (keeps_migFreeze _ _ _)
    | apply Keeps.trans ?_ (keeps_migWait _ _ _ _)
    | apply Keeps.trans ?_ (keeps_migRestore _ _ _)
    | apply Keeps.trans ?_ (keeps_setPav _ _ _)
    | intro _
    | split
    | apply Keeps.refl

theorem keeps_setEn (s : State) (p : Nat) (v : Nat) : Keeps s (setEn s p v) := by
  unfold setEn
  try dsimp only
  with_reducible repeat' first
    | apply Keeps.trans ?_ (keeps_fset _ _ _)
    | apply Keeps.refl

theorem keeps_runAgain (s : State) (p : Nat) (n : Nat) (cause : Nat) : Keeps s (runAgain s p n cause) := by
  unfold runAgain
  try dsimp only
  with_reducible repeat' first
    | apply Keeps.trans ?_ (keeps_startProgram _ _ _ _ _)
    | apply Keeps.trans ?_ (keeps_wdtRestart _ _)
    | apply Keeps.trans ?_ (keeps_setPav _ _ _)
    | apply Keeps.trans ?_ (keeps_setEn _ _ _)
    | apply Keeps.refl

theorem keeps_restoreForce (p : Nat) (s : State) (r : List Nat) : Keeps s (restoreForce p s r) := by
  unfold restoreForce
  try dsimp only
  with_reducible repeat' first
    | apply Keeps.onOpt
    | apply KeepsFst.trans ?_ (keeps_readImage _ _ _)
    | apply Keeps.trans ?_ (keeps_putForce _ _)
    | intro _
    | split
    | apply Keeps.refl

theorem keeps_restoreChannel (s : State) (ts : Nat) (n : Nat) (bs : List Nat) (groups : List Nat) (r : List Nat) : Keeps s (restoreChannel s ts n bs groups r) := by
  unfold restoreChannel
  try dsimp only
  with_reducible repeat' first
    | apply Keeps.ite
    | apply Keeps.trans ?_ (keeps_setChan _ _ _)
    | split
    | apply Keeps.refl

theorem keeps_restoreChannels (x0 : Nat) (x1 : State) (x2 : Nat) (x3 : Nat) (x4 : List Nat) (x5 : List Nat) : Keeps x1 (restoreChannels x0 x1 x2 x3 x4 x5) := by
  induction x0 generalizing x1 x5 with
  | zero => exact Keeps.refl _
  | succ n ih =>
    unfold restoreChannels
    dsimp only
    split
    · exact Keeps.refl _
    · exact Keeps.trans (keeps_restoreChannel _ _ _ _ _ _) (ih _ _)

theorem keeps_restoreGroups (x0 : Nat) (x1 : State) (x2 : List Nat) : Keeps x1 (restoreGroups x0 x1 x2) := by
  induction x0 generalizing x1 x2 with
  | zero => exact Keeps.refl _
  | succ n ih =>
    unfold restoreGroups
    dsimp only
    split
    · exact Keeps.refl _
    · refine Keeps.trans ?_ (ih _ _)
      split
      · exact Keeps.refl _
      · exact keeps_setLtn _ _ _

theorem keeps_restoreQueues (p : Nat) (x1 : Nat) (x2 : State) (x3 : List Nat) : Keeps x2 (restoreQueues p x1 x2 x3) := by
  induction x1 generalizing x2 x3 with
  | zero => exact Keeps.refl _
  | succ n ih =>
    unfold restoreQueues
    dsimp only
    split
    · exact Keeps.refl _
    · refine Keeps.trans ?_ (ih _ _)
      split
      · exact Keeps.refl _
      · with_reducible apply Keeps.foldl
        · simp only [Keeps.mk_iff]
          exact keeps_cadd _ _ _
        · intro u e
          exact keeps_bndAdmit _ _ _

theorem keeps_applyRestore (s : State) (p : Nat) (n : Nat) (r : MigReq) : Keeps s (applyRestore s p n r) := by
  unfold applyRestore
  try dsimp only
  with_reducible repeat' first
    | apply Keeps.ite
    | apply Keeps.foldl
    | apply Keeps.trans ?_ (keeps_setPav _ _ _)
    | apply Keeps.trans ?_ (keeps_physPut _ _ _ _)
    | apply Keeps.trans ?_ (keeps_setForces _ _)
    | apply Keeps.trans ?_ (keeps_restoreForce _ _ _)
    | apply Keeps.trans ?_ (keeps_restoreChannels _ _ _ _ _ _)
    | apply Keeps.trans ?_ (keeps_restoreGroups _ _ _)
    | apply Keeps.trans ?_ (keeps_restoreQueues _ _ _ _)
    | apply Keeps.trans ?_ (keeps_mbxEndIfBusy _ _ _)
    | apply Keeps.trans ?_ (keeps_runAgain _ _ _ _)
    | intro _
    | apply Keeps.refl

theorem keeps_takeSave (s : State) (p : Nat) (n : Nat) (r : MigReq) : Keeps s (takeSave s p n r) := by
  unfold takeSave
  try dsimp only
  with_reducible repeat' first
    | apply Keeps.ite
    | apply KeepsFst.ite
    | apply Keeps.onPair
    | apply KeepsFst.trans ?_ (keeps_physRead _ _ _ _)
    | apply Keeps.trans ?_ (keeps_setPav _ _ _)
    | simp only [KeepsFst.pair_iff]
    | intro _
    | apply Keeps.refl

theorem keeps_migMissed (s : State) (p : Nat) (r : MigReq) : Keeps s (migMissed s p r) := by
  unfold migMissed
  try dsimp only
  with_reducible repeat' first
    | apply Keeps.ite
    | apply Keeps.trans ?_ (keeps_setPav _ _ _)
    | apply Keeps.trans ?_ (keeps_migEnd _ _ _)
    | apply Keeps.refl

theorem keeps_migStep (n : Nat) (s : State) (p : Nat) : Keeps s (migStep n s p) := by
  unfold migStep
  try dsimp only
  with_reducible repeat' first
    | apply Keeps.ite
    | apply Keeps.trans ?_ (keeps_takeSave _ _ _ _)
    | apply Keeps.trans ?_ (keeps_migMissed _ _ _)
    | apply Keeps.trans ?_ (keeps_migEnd _ _ _)
    | apply Keeps.trans ?_ (keeps_setPav _ _ _)
    | apply Keeps.trans ?_ (keeps_setEn _ _ _)
    | apply Keeps.trans ?_ (keeps_runAgain _ _ _ _)
    | apply Keeps.trans ?_ (keeps_applyRestore _ _ _ _)
    | split
    | apply Keeps.refl

theorem keeps_saveComplete (s : State) (p : Nat) : Keeps s (saveComplete s p) := by
  unfold saveComplete
  try dsimp only
  with_reducible repeat' first
    | apply Keeps.ite
    | apply Keeps.trans ?_ (keeps_physPut _ _ _ _)
    | apply Keeps.trans ?_ (keeps_migEnd _ _ _)
    | apply Keeps.trans ?_ (keeps_setPav _ _ _)
    | split
    | apply Keeps.refl

end Sys2Proof.Machine
end

