-- ==== Sys2Proof/Laws/KeepSequencer.lean ====
section
/-! SUPPORT. What the operations of Machine/Sequencer.lean keep: the queue, memory's canonical form and the fuses. -/

set_option Elab.async false

namespace Sys2Proof.Machine

theorem keeps_countOverrun (s : State) (e : Inst) : Keeps s (countOverrun s e) := by
  unfold countOverrun
  try dsimp only
  with_reducible repeat' first
    | apply Keeps.trans ?_ (keeps_cinc _ _)
    | apply Keeps.refl

theorem keeps_endPeriod (n : Nat) (all : Bool) (s : State) (c : Nat) : Keeps s (endPeriod n all s c) := by
  unfold endPeriod
  try dsimp only
  with_reducible repeat' first
    | apply Keeps.ite
    | apply Keeps.trans ?_ (keeps_classStep _ _)
    | apply Keeps.trans ?_ (keeps_setClass _ _ _)
    | split
    | apply Keeps.refl

theorem keeps_endInstances (s : State) (n : Nat) (all : Bool) : KeepsFst s (endInstances s n all) := by
  unfold endInstances
  try dsimp only
  with_reducible repeat' first
    | apply Keeps.foldl
    | apply Keeps.trans ?_ (keeps_countOverrun _ _)
    | apply Keeps.trans ?_ (keeps_endPeriod _ _ _ _)
    | simp only [KeepsFst.pair_iff, Keeps.mk_iff]
    | intro _
    | apply Keeps.refl

theorem keeps_instanceList (s : State) (e : Inst) : KeepsFst s (instanceList s e) := by
  unfold instanceList
  try dsimp only
  with_reducible repeat' first
    | apply KeepsFst.onOpt
    | apply KeepsFst.trans ?_ (keeps_engRead _ _ _ _ _)
    | simp only [KeepsFst.pair_iff]
    | intro _
    | apply Keeps.refl

theorem keeps_eventListDue (s : State) (p : Nat) (n : Nat) : KeepsFst s (eventListDue s p n) := by
  unfold eventListDue
  try dsimp only
  with_reducible repeat' first
    | apply KeepsFst.ite
    | apply KeepsFst.onOpt
    | apply Keeps.trans ?_ (keeps_engRead _ _ _ _ _).fst
    | apply KeepsFst.trans ?_ (keeps_engRead _ _ _ _ _)
    | apply Keeps.trans ?_ (keeps_resetHeader _ _ _ _)
    | apply Keeps.trans ?_ (keeps_cinc _ _)
    | simp only [KeepsFst.pair_iff]
    | intro _
    | split
    | apply Keeps.refl

theorem keeps_instanceLists (es : List Inst) (a : State × List OutList) : KeepsFst a.1 (instanceLists es a) := by
  unfold instanceLists
  try dsimp only
  with_reducible repeat' first
    | apply KeepsFst.onPair
    | apply KeepsFst.foldl
    | apply KeepsFst.trans ?_ (keeps_instanceList _ _)
    | simp only [KeepsFst.pair_iff]
    | intro _
    | apply Keeps.refl
    | apply KeepsFst.self

theorem keeps_pavLists (done : List Inst) (n : Nat) (a : State × List OutList) (p : Nat) : KeepsFst a.1 (pavLists done n a p) := by
  unfold pavLists
  try dsimp only
  with_reducible repeat' first
    | apply KeepsFst.ite
    | apply KeepsFst.onPair
    | apply Keeps.trans ?_ (keeps_instanceLists _ _).fst
    | apply KeepsFst.trans ?_ (keeps_instanceLists _ _)
    | apply KeepsFst.trans ?_ (keeps_eventListDue _ _ _)
    | simp only [KeepsFst.pair_iff]
    | intro _
    | apply Keeps.refl

theorem keeps_allLists (s : State) (done : List Inst) (n : Nat) : KeepsFst s (allLists s done n) := by
  unfold allLists
  try dsimp only
  with_reducible repeat' first
    | apply KeepsFst.foldl
    | apply KeepsFst.trans ?_ (keeps_pavLists _ _ _ _)
    | simp only [KeepsFst.pair_iff]
    | intro _
    | apply Keeps.refl

theorem keeps_placeDescriptor (s : State) (d : List Nat) : KeepsFst s (placeDescriptor s d) := by
  unfold placeDescriptor
  try dsimp only
  with_reducible repeat' first
    | apply KeepsFst.ite
    | apply KeepsFst.onOk
    | apply KeepsFst.trans ?_ (keeps_physWrite _ _ _ _)
    | apply Keeps.trans ?_ (keeps_fset _ _ _)
    | simp only [KeepsFst.pair_iff]
    | intro _
    | apply Keeps.refl

theorem keeps_commitPoint (s : State) (p : Nat) (idx : Nat) (v : Nat) (q : Nat) (t : Nat) : Keeps s (commitPoint s p idx v q t) := by
  unfold commitPoint
  try dsimp only
  with_reducible repeat' first
    | apply Keeps.trans ?_ (keeps_physPut _ _ _ _)
    | simp only [Keeps.mk_iff]
    | apply Keeps.refl

theorem keeps_writeForced (at_ : Nat) (a : State × List Nat × Nat) (f : Force) : KeepsFst a.1 (writeForced at_ a f) := by
  unfold writeForced
  try dsimp only
  with_reducible repeat' first
    | apply KeepsFst.ite
    | apply Keeps.trans ?_ (keeps_putForce _ _)
    | apply Keeps.trans ?_ (keeps_commitPoint _ _ _ _ _ _)
    | simp only [KeepsFst.pair_iff]
    | apply Keeps.refl

/-- What a pass over the entries keeps. -/
structure KeepsRun (s : State) (r : CommitRun) : Prop where
  /-- Of the state it works on. -/
  run : Keeps s r.s

theorem KeepsRun.trans {s t : State} {r : CommitRun} (h : Keeps s t) (k : KeepsRun t r) : KeepsRun s r := ⟨h.trans k.run⟩

theorem KeepsRun.mk_iff (s t : State) (a : List (Entry × Nat)) (b c : Nat) (d : Bool) : KeepsRun s ⟨t, a, b, c, d⟩ ↔ Keeps s t :=
  ⟨fun h => h.run, fun h => ⟨h⟩⟩

theorem KeepsRun.ite {c : Prop} [Decidable c] {s : State} {a b : CommitRun} (ha : KeepsRun s a) (hb : KeepsRun s b) :
    KeepsRun s (if c then a else b) := by split <;> assumption

theorem KeepsRun.onOpt {β : Type} {s : State} {x : State × Option β} {bad : State → CommitRun} {good : State → β → CommitRun}
    (hx : KeepsFst s x) (hb : ∀ t, KeepsRun t (bad t)) (hg : ∀ t b, KeepsRun t (good t b)) : KeepsRun s (Machine.onOpt x bad good) := by
  obtain ⟨t, b⟩ := x
  cases b
  · exact trans hx.fst (hb t)
  · exact trans hx.fst (hg t _)

theorem KeepsRun.onPair {β : Type} {s : State} {x : State × β} {f : State → β → CommitRun} (hx : KeepsFst s x)
    (hf : ∀ t b, KeepsRun t (f t b)) : KeepsRun s (Machine.onPair x f) := trans hx.fst (hf x.1 x.2)

theorem KeepsRun.foldl {α : Type} {s : State} {r : CommitRun} {f : CommitRun → α → CommitRun} (l : List α) (hr : KeepsRun s r)
    (hf : ∀ u x, KeepsRun u.s (f u x)) : KeepsRun s (l.foldl f r) := by
  induction l generalizing r with
  | nil => exact hr
  | cons x l ih => exact ih (trans hr.run (hf r x))

theorem keeps_putResult (r : CommitRun) (e : Entry) (v : Nat) : KeepsRun r.s (putResult r e v) := by
  unfold putResult
  dsimp only
  simp only [KeepsRun.mk_iff]
  with_reducible apply Keeps.ite
  · refine Keeps.trans ?_ (keeps_pavError _ _ _ _ _)
    with_reducible apply Keeps.ite
    · exact (keeps_engWrite _ _ _ _ _).fst
    · refine Keeps.trans ?_ (keeps_cinc _ _)
      refine Keeps.trans ?_ (keeps_cinc _ _)
      exact (keeps_engWrite _ _ _ _ _).fst
  · with_reducible apply Keeps.ite
    · exact (keeps_engWrite _ _ _ _ _).fst
    · refine Keeps.trans ?_ (keeps_cinc _ _)
      refine Keeps.trans ?_ (keeps_cinc _ _)
      exact (keeps_engWrite _ _ _ _ _).fst

theorem keeps_commitAlarm (r : CommitRun) (e : Entry) : KeepsRun r.s (commitAlarm r e) := by
  unfold commitAlarm
  dsimp only
  split
  · with_reducible apply KeepsRun.ite
    · exact keeps_putResult _ _ _
    · with_reducible apply KeepsRun.onPair
      · exact keeps_armAlarm _ _ _ _
      · intro t c
        exact keeps_putResult { r with s := t } e _
  · with_reducible apply KeepsRun.onPair
    · exact keeps_cancelAlarm _ _ _
    · intro t c
      exact KeepsRun.trans (keeps_angleSweep t) (keeps_putResult { r with s := angleSweep t } e _)
  · exact keeps_putResult _ _ _

theorem keeps_commitDout (r : CommitRun) (e : Entry) : KeepsRun r.s (commitDout r e) := by
  unfold commitDout
  dsimp only
  with_reducible apply KeepsRun.ite
  · exact keeps_putResult _ _ _
  · exact keeps_putResult { r with levels := maskedLevels r.levels (e.w 1) (e.w 2), mask := r.mask ||| e.w 2, any := true } e 0

theorem keeps_pass1 (r : CommitRun) (e : Entry) : KeepsRun r.s (pass1 r e) := by
  unfold pass1
  split
  · exact keeps_commitAlarm _ _
  · exact keeps_commitDout _ _
  · exact ⟨Keeps.refl _⟩

theorem keeps_commitGoose (at_ : Nat) (r : CommitRun) (e : Entry) : KeepsRun r.s (commitGoose at_ r e) := by
  unfold commitGoose
  dsimp only
  with_reducible apply KeepsRun.ite
  · exact keeps_putResult _ _ _
  · with_reducible apply KeepsRun.onOpt
    · exact keeps_engRead _ _ _ _ _
    · intro t
      exact keeps_putResult { r with s := t } e _
    · intro t b
      with_reducible apply KeepsRun.ite
      · exact keeps_putResult { r with s := t } e _
      · with_reducible apply KeepsRun.onPair
        · exact keeps_gooseCommit _ _ _ _ _ _
        · intro u ok
          exact keeps_putResult { r with s := u } e _

theorem keeps_commitFrame (r : CommitRun) (e : Entry) : KeepsRun r.s (commitFrame r e) := by
  unfold commitFrame
  with_reducible apply KeepsRun.onOpt
  · exact keeps_engRead _ _ _ _ _
  · intro t
    exact keeps_putResult { r with s := t } e _
  · intro t b
    split
    · with_reducible apply KeepsRun.onPair
      · exact keeps_placeDescriptor _ _
      · intro u ok
        exact keeps_putResult { r with s := u } e _
    · exact keeps_putResult { r with s := t } e _

theorem keeps_commitRest (at_ : Nat) (r : CommitRun) (e : Entry) : KeepsRun r.s (commitRest at_ r e) := by
  unfold commitRest
  split
  · dsimp only
    with_reducible apply KeepsRun.ite
    · exact keeps_putResult _ _ _
    · split
      · exact KeepsRun.trans (keeps_commitPoint r.s _ _ _ _ _) (keeps_putResult { r with s := commitPoint _ _ _ _ _ _ } e 0)
      · exact KeepsRun.trans (keeps_commitPoint r.s _ _ _ _ _) (keeps_putResult { r with s := commitPoint _ _ _ _ _ _ } e 0)
  · exact ⟨Keeps.refl _⟩
  · exact ⟨Keeps.refl _⟩
  · exact ⟨Keeps.refl _⟩
  · exact ⟨Keeps.refl _⟩
  · exact keeps_putResult _ _ _

theorem keeps_commitLists (s : State) (ls : List OutList) (n : Nat) : Keeps s (commitLists s ls n) := by
  have h1 : Keeps s ((entriesIn ls).foldl pass1 { s := s }).s :=
    (KeepsRun.foldl (s := s) (entriesIn ls) ⟨Keeps.refl _⟩ keeps_pass1).run
  have h2 : ∀ (r : CommitRun) (es1 es2 es3 : List Entry) (t : Nat),
      KeepsRun r.s (es3.foldl (commitRest t) (es2.foldl commitFrame (es1.foldl (commitGoose t) r))) := by
    intro r es1 es2 es3 t
    refine KeepsRun.foldl _ ?_ (keeps_commitRest t)
    refine KeepsRun.foldl _ ?_ keeps_commitFrame
    exact KeepsRun.foldl _ ⟨Keeps.refl _⟩ (keeps_commitGoose t)
  have h3 : ∀ (t n : Nat) (fs : List Force) (u : State), KeepsFst u (fs.foldl (writeForced t) (u, [], n)) := by
    intro t n fs u
    exact KeepsFst.foldl fs ⟨Keeps.refl _⟩ (keeps_writeForced t)
  unfold commitLists
  dsimp only
  simp only [Keeps.mk_iff]
  refine Keeps.trans ?_ (h3 _ _ _ _).fst
  refine Keeps.trans ?_ (h2 _ _ _ _ _).run
  dsimp only
  refine Keeps.trans h1 ?_
  refine Keeps.trans ?_ (keeps_angleSweep _)
  with_reducible apply Keeps.ite
  · exact keeps_doutCommand _ _ _
  · exact Keeps.refl _

theorem keeps_shadowsAfter (s : State) (done : List Inst) : Keeps s (shadowsAfter s done) := by
  unfold shadowsAfter
  try dsimp only
  with_reducible repeat' first
    | apply Keeps.foldl
    | apply Keeps.trans ?_ (keeps_shadowCopy _ _)
    | intro _
    | apply Keeps.refl

theorem keeps_ckptStart (s : State) (n : Nat) : Keeps s (ckptStart s n) := by
  unfold ckptStart
  try dsimp only
  with_reducible repeat' first
    | apply Keeps.ite
    | apply Keeps.trans ?_ (keeps_cinc _ _)
    | apply Keeps.trans ?_ (keeps_physPut _ _ _ _)
    | simp only [Keeps.mk_iff]
    | apply Keeps.refl

theorem keeps_ckptComplete (s : State) : Keeps s (ckptComplete s) := by
  unfold ckptComplete
  try dsimp only
  with_reducible repeat' first
    | simp only [Keeps.mk_iff]
    | split
    | apply Keeps.refl

theorem keeps_enableStep (n : Nat) (s : State) (p : Nat) : Keeps s (enableStep n s p) := by
  unfold enableStep
  try dsimp only
  with_reducible repeat' first
    | apply Keeps.ite
    | apply Keeps.trans ?_ (keeps_startProgram _ _ _ _ _)
    | apply Keeps.trans ?_ (keeps_wdtRestart _ _)
    | apply Keeps.trans ?_ (keeps_setProg _ _ _)
    | split
    | apply Keeps.refl

theorem keeps_resetStep (n : Nat) (s : State) (p : Nat) : Keeps s (resetStep n s p) := by
  unfold resetStep
  try dsimp only
  with_reducible repeat' first
    | apply Keeps.ite
    | apply Keeps.trans ?_ (keeps_setPav _ _ _)
    | apply Keeps.trans ?_ (keeps_wdtRestart _ _)
    | apply Keeps.trans ?_ (keeps_startProgram _ _ _ _ _)
    | apply Keeps.trans ?_ (keeps_restart _ _ _ _ _)
    | split
    | apply Keeps.refl

theorem keeps_dueResets (s : State) : Keeps s (dueResets s) := by
  unfold dueResets
  try dsimp only
  with_reducible repeat' first
    | apply Keeps.foldl
    | apply Keeps.trans ?_ (keeps_pavReset _ _)
    | intro _
    | apply Keeps.refl

theorem keeps_step6 (s : State) (n : Nat) : Keeps s (step6 s n) := by
  unfold step6
  try dsimp only
  with_reducible repeat' first
    | apply Keeps.foldl
    | apply Keeps.trans ?_ (keeps_enableStep _ _ _)
    | apply Keeps.trans ?_ (keeps_resetStep _ _ _)
    | apply Keeps.trans ?_ (keeps_forceApply _ _)
    | apply Keeps.trans ?_ (keeps_pvcmdApply _ _)
    | apply Keeps.trans ?_ (keeps_migStep _ _ _)
    | intro _
    | apply Keeps.refl

theorem keeps_rateReset (s : State) (n : Nat) : Keeps s (rateReset s n) := by
  unfold rateReset
  try dsimp only
  with_reducible repeat' first
    | apply Keeps.foldl
    | apply Keeps.trans ?_ (keeps_resetEvents _ _ _)
    | intro _
    | apply Keeps.refl

theorem keeps_latchDataset (p : Nat) (a : State × LatchEnd) (d : List Nat) : KeepsFst a.1 (latchDataset p a d) := by
  unfold latchDataset
  try dsimp only
  with_reducible repeat' first
    | apply KeepsFst.ite
    | apply KeepsFst.onOpt
    | apply KeepsFst.onOk
    | apply KeepsFst.trans ?_ (keeps_physRead _ _ _ _)
    | apply KeepsFst.trans ?_ (keeps_engWrite _ _ _ _ _)
    | simp only [KeepsFst.pair_iff, Keeps.mk_iff]
    | intro _
    | apply Keeps.refl
    | apply KeepsFst.self

theorem keeps_latchListAt (s : State) (p : Nat) (c : Nat) : KeepsFst s (latchListAt s p c) := by
  unfold latchListAt
  try dsimp only
  with_reducible repeat' first
    | apply KeepsFst.onOpt
    | apply KeepsFst.trans ?_ (keeps_engRead _ _ _ _ _)
    | simp only [KeepsFst.pair_iff]
    | intro _
    | apply Keeps.refl

theorem keeps_latchOf (s : State) (e : Inst) : KeepsFst s (latchOf s e) := by
  unfold latchOf
  try dsimp only
  with_reducible repeat' first
    | apply KeepsFst.onPair
    | apply KeepsFst.onOpt
    | apply KeepsFst.onOk
    | apply KeepsFst.foldl
    | apply KeepsFst.trans ?_ (keeps_latchListAt _ _ _)
    | apply KeepsFst.trans ?_ (keeps_engWrite _ _ _ _ _)
    | apply KeepsFst.trans ?_ (keeps_readLatchList _ _ _)
    | apply KeepsFst.trans ?_ (keeps_latchDataset _ _ _)
    | simp only [KeepsFst.pair_iff]
    | intro _
    | apply Keeps.refl

theorem keeps_release (s : State) (e : Inst) : Keeps s (release s e) := by
  unfold release
  try dsimp only
  with_reducible repeat' first
    | apply Keeps.ite
    | apply Keeps.trans ?_ (keeps_notifyPair _ _ _)
    | simp only [Keeps.mk_iff]
    | apply Keeps.refl

theorem keeps_latchRelease (s : State) (e : Inst) : Keeps s (latchRelease s e) := by
  unfold latchRelease
  try dsimp only
  with_reducible repeat' first
    | apply Keeps.ite
    | apply Keeps.onPair
    | apply KeepsFst.trans ?_ (keeps_latchOf _ _)
    | apply Keeps.trans ?_ (keeps_release _ _)
    | apply Keeps.trans ?_ (keeps_cinc _ _)
    | apply Keeps.trans ?_ (keeps_pavError _ _ _ _ _)
    | simp only [Keeps.mk_iff]
    | intro _
    | split
    | apply Keeps.refl

theorem keeps_beginPeriods (s : State) (n : Nat) : Keeps s (beginPeriods s n) := by
  unfold beginPeriods
  try dsimp only
  with_reducible repeat' first
    | apply Keeps.ite
    | apply Keeps.foldl
    | apply Keeps.trans ?_ (keeps_setClass _ _ _)
    | intro _
    | apply Keeps.refl

theorem keeps_step7 (s : State) (n : Nat) (wait : List Nat) : Keeps s (step7 s n wait) := by
  unfold step7
  try dsimp only
  with_reducible repeat' first
    | apply Keeps.ite
    | apply Keeps.foldl
    | apply Keeps.trans ?_ (keeps_beginPeriods _ _)
    | apply Keeps.trans ?_ (keeps_latchRelease _ _)
    | simp only [Keeps.mk_iff]
    | intro _
    | apply Keeps.refl

theorem keeps_pavEdge (times : List (Nat × Nat)) (s : State) (p : Nat) : Keeps s (pavEdge times s p) := by
  unfold pavEdge
  try dsimp only
  with_reducible repeat' first
    | apply Keeps.trans ?_ (keeps_setPav _ _ _)
    | apply Keeps.refl

theorem keeps_pavsEdge (s : State) (times : List (Nat × Nat)) : Keeps s (pavsEdge s times) := by
  unfold pavsEdge
  try dsimp only
  with_reducible repeat' first
    | apply Keeps.foldl
    | apply Keeps.trans ?_ (keeps_pavEdge _ _ _)
    | intro _
    | apply Keeps.refl

theorem keeps_lateRequests (s : State) (n : Nat) : Keeps s (lateRequests s n) := by
  unfold lateRequests
  try dsimp only
  with_reducible repeat' first
    | apply Keeps.ite
    | apply Keeps.foldl
    | apply Keeps.trans ?_ (keeps_mbxEndIfBusy _ _ _)
    | apply Keeps.trans ?_ (keeps_migMissed _ _ _)
    | simp only [Keeps.mk_iff]
    | intro _
    | split
    | apply Keeps.refl

theorem keeps_steps2to5 (s : State) (n : Nat) : Keeps s (steps2to5 s n) := by
  unfold steps2to5
  try dsimp only
  with_reducible repeat' first
    | apply Keeps.ite
    | apply Keeps.onPair
    | apply Keeps.trans ?_ (keeps_classFollow _)
    | apply KeepsFst.trans ?_ (keeps_endInstances _ _ _)
    | apply Keeps.trans ?_ (keeps_rateReset _ _)
    | apply Keeps.trans ?_ (keeps_instanceLists _ _).fst
    | apply Keeps.trans ?_ (keeps_allLists _ _ _).fst
    | apply Keeps.trans ?_ (keeps_commitLists _ _ _)
    | apply Keeps.trans ?_ (keeps_ckptStart _ _)
    | apply Keeps.trans ?_ (keeps_shadowsAfter _ _)
    | simp only [Keeps.mk_iff]
    | intro _
    | split
    | apply Keeps.refl

theorem keeps_nextRead (s : State) (k : Nat) : KeepsFst s (nextRead s k) := by
  unfold nextRead
  try dsimp only
  with_reducible repeat' first
    | apply KeepsFst.ite
    | simp only [KeepsFst.pair_iff, Keeps.mk_iff]
    | split
    | apply Keeps.refl

theorem keeps_cycDone (s : State) (k : Nat) (v : Nat) : Keeps s (cycDone s k v) := by
  unfold cycDone
  try dsimp only
  with_reducible repeat' first
    | apply Keeps.ite
    | apply Keeps.trans ?_ (keeps_wign _ _)
    | simp only [Keeps.mk_iff]
    | apply Keeps.refl

theorem keeps_pairReset (s : State) (k : Nat) : Keeps s (pairReset s k) := by
  unfold pairReset
  try dsimp only
  with_reducible repeat' first
    | apply Keeps.trans ?_ (keeps_withdraw _ _)
    | simp only [Keeps.mk_iff]
    | apply Keeps.refl

theorem keeps_pairHalts (s : State) (c : Nat) (k : Nat) : Keeps s (pairHalts s c k) := by
  unfold pairHalts
  try dsimp only
  with_reducible repeat' first
    | apply Keeps.ite
    | apply Keeps.trans ?_ (keeps_withdraw _ _)
    | apply Keeps.trans ?_ (keeps_raiseOpen _ _ _ _)
    | simp only [Keeps.mk_iff]
    | apply Keeps.refl

theorem keeps_lockstepMismatch (s : State) (u : LockUnit) : Keeps s (lockstepMismatch s u) := by
  unfold lockstepMismatch
  try dsimp only
  with_reducible repeat' first
    | apply Keeps.trans ?_ (keeps_pairHalts _ _ _)
    | apply Keeps.trans ?_ (keeps_raiseOpen _ _ _ _)
    | apply Keeps.trans ?_ (keeps_cinc _ _)
    | simp only [Keeps.mk_iff]
    | split
    | apply Keeps.refl

theorem keeps_cycWsc (r : CycReg) (k : Nat) (v : Nat) (s : State) : Keeps s (cycWsc r k v s) := by
  unfold cycWsc
  try dsimp only
  with_reducible repeat' first
    | apply Keeps.ite
    | apply Keeps.trans ?_ (keeps_cycDone _ _ _)
    | apply Keeps.trans ?_ (keeps_pairReset _ _)
    | split
    | apply Keeps.refl

theorem keeps_cycMbx (r : CycReg) (s : State) : Keeps s (cycMbx r s) := by
  unfold cycMbx
  try dsimp only
  with_reducible repeat' first
    | apply Keeps.trans ?_ (keeps_pvcmdReq _)
    | apply Keeps.trans ?_ (keeps_forceReq _)
    | split
    | apply Keeps.refl

theorem keeps_cycSrst (p : Nat) (s : State) : Keeps s (cycSrst p s) := by
  unfold cycSrst
  try dsimp only
  with_reducible repeat' first
    | apply Keeps.ite
    | simp only [Keeps.mk_iff]
    | apply Keeps.refl

end Sys2Proof.Machine
end

