-- ==== Sys2Proof/Laws/KeepJoin.lean ====
section
/-! SUPPORT. What the operations of Machine/Join.lean keep: the queue, memory's canonical form and the fuses. -/

set_option Elab.async false

namespace Sys2Proof.Machine

theorem keeps_setJoin (s : State) (j : Option JoinRun) : Keeps s (setJoin s j) := by
  unfold setJoin
  try dsimp only
  with_reducible repeat' first
    | apply Keeps.trans ?_ (keeps_setFtb _ _)
    | apply Keeps.refl

theorem keeps_joinEnd (s : State) (j : JoinRun) (code : Nat) : Keeps s (joinEnd s j code) := by
  unfold joinEnd
  try dsimp only
  with_reducible repeat' first
    | apply Keeps.trans ?_ (keeps_record _ _ _ _)
    | apply Keeps.trans ?_ (keeps_setJoin _ _)
    | apply Keeps.trans ?_ (keeps_mbxEndIfBusy _ _ _)
    | apply Keeps.refl

theorem keeps_joinReq (s : State) : Keeps s (joinReq s) := by
  unfold joinReq
  try dsimp only
  with_reducible repeat' first
    | apply Keeps.ite
    | apply Keeps.trans ?_ (keeps_mbxEnd _ _ _)
    | apply Keeps.trans ?_ (keeps_ftbXfer _ _ _ _)
    | apply Keeps.trans ?_ (keeps_setJoin _ _)
    | apply Keeps.trans ?_ (keeps_ftbEnter _ _)
    | apply Keeps.trans ?_ (keeps_ftbControl _ _ _ _)
    | split
    | apply Keeps.refl

theorem keeps_donorFollow (s : State) (h : MsgHead) : Keeps s (donorFollow s h) := by
  unfold donorFollow
  try dsimp only
  with_reducible repeat' first
    | apply Keeps.ite
    | apply Keeps.trans ?_ (keeps_setJoin _ _)
    | apply Keeps.trans ?_ (keeps_ftbEnter _ _)
    | split
    | apply Keeps.refl

theorem keeps_donorStep (s : State) (j : JoinRun) (n : Nat) : Keeps s (donorStep s j n) := by
  unfold donorStep
  try dsimp only
  with_reducible repeat' first
    | apply Keeps.ite
    | apply Keeps.foldl
    | apply Keeps.trans ?_ (keeps_setJoin _ _)
    | apply Keeps.trans ?_ (keeps_ftbSend _ _ _)
    | intro _
    | apply Keeps.refl

theorem keeps_joinerStep (s : State) (j : JoinRun) (n : Nat) : Keeps s (joinerStep s j n) := by
  unfold joinerStep
  try dsimp only
  with_reducible repeat' first
    | apply Keeps.ite
    | apply Keeps.trans ?_ (keeps_setJoin _ _)
    | apply Keeps.refl

theorem keeps_joinStep6 (s : State) (n : Nat) : Keeps s (joinStep6 s n) := by
  unfold joinStep6
  try dsimp only
  with_reducible repeat' first
    | apply Keeps.ite
    | apply Keeps.trans ?_ (keeps_joinerStep _ _ _)
    | apply Keeps.trans ?_ (keeps_donorStep _ _ _)
    | split
    | apply Keeps.refl

theorem keeps_joinFinish (s : State) : Keeps s (joinFinish s) := by
  unfold joinFinish
  try dsimp only
  with_reducible repeat' first
    | apply Keeps.ite
    | apply Keeps.trans ?_ (keeps_joinEnd _ _ _)
    | apply Keeps.trans ?_ (keeps_ftbEnter _ _)
    | split
    | apply Keeps.refl

theorem keeps_joinAlarms (s : State) (as : List JoinAlarm) : Keeps s (joinAlarms s as) := by
  unfold joinAlarms
  try dsimp only
  with_reducible repeat' first
    | apply Keeps.foldl
    | apply Keeps.trans ?_ (keeps_setAlarm _ _ _)
    | intro _
    | apply Keeps.refl

theorem keeps_joinSlot (s : State) (x : JoinSlot) : Keeps s (joinSlot s x) := by
  unfold joinSlot
  try dsimp only
  with_reducible repeat' first
    | apply Keeps.ite
    | apply Keeps.trans ?_ (keeps_setSlotGpb _ _ _)
    | apply Keeps.refl

theorem keeps_joinForce (s : State) (x : JoinForce) : Keeps s (joinForce s x) := by
  unfold joinForce
  try dsimp only
  with_reducible repeat' first
    | apply Keeps.onOpt
    | apply KeepsFst.trans ?_ (keeps_findSym _ _ _)
    | apply Keeps.trans ?_ (keeps_putForce _ _)
    | intro _
    | split
    | apply Keeps.refl

theorem keeps_joinSystem (s : State) (j : JoinRun) (count : Nat) (epoch : Nat) (angEpoch : Nat) (as : List JoinAlarm) (sl : List JoinSlot) (fs : List JoinForce) : Keeps s (joinSystem s j count epoch angEpoch as sl fs) := by
  unfold joinSystem
  try dsimp only
  with_reducible repeat' first
    | apply Keeps.ite
    | apply Keeps.foldl
    | apply Keeps.trans ?_ (keeps_publish _)
    | apply Keeps.trans ?_ (keeps_joinSlot _ _)
    | apply Keeps.trans ?_ (keeps_angleSweep _)
    | apply Keeps.trans ?_ (keeps_joinAlarms _ _)
    | apply Keeps.trans ?_ (keeps_joinForce _ _)
    | apply Keeps.trans ?_ (keeps_setForces _ _)
    | apply Keeps.trans ?_ (keeps_setFtb _ _)
    | apply Keeps.trans ?_ (keeps_setJoin _ _)
    | apply Keeps.trans ?_ (keeps_joinEnd _ _ _)
    | apply Keeps.trans ?_ (keeps_ftbEnter _ _)
    | simp only [Keeps.mk_iff]
    | intro _
    | apply Keeps.refl

theorem keeps_joinQueues (s : State) (p : Nat) (bs : List Nat) : Keeps s (joinQueues s p bs) := by
  unfold joinQueues
  try dsimp only
  with_reducible repeat' first
    | apply Keeps.trans ?_ (keeps_restoreQueues _ _ _ _)
    | simp only [Keeps.mk_iff]
    | apply Keeps.refl

theorem keeps_latchWithheld (s : State) (p : Nat) : Keeps s (latchWithheld s p) := by
  unfold latchWithheld
  try dsimp only
  with_reducible repeat' first
    | apply Keeps.foldl
    | apply Keeps.trans ?_ (keeps_latchRelease _ _)
    | simp only [Keeps.mk_iff]
    | intro _
    | apply Keeps.refl

theorem keeps_joinPavilion (s : State) (j : JoinRun) (p : Nat) (gen : Nat) (shadow : List Nat) (points : List Nat) (lists : List Nat) (queues : List Nat) : Keeps s (joinPavilion s j p gen shadow points lists queues) := by
  unfold joinPavilion
  try dsimp only
  with_reducible repeat' first
    | apply Keeps.ite
    | apply Keeps.trans ?_ (keeps_setJoin _ _)
    | apply Keeps.trans ?_ (keeps_setPav _ _ _)
    | apply Keeps.trans ?_ (keeps_physPut _ _ _ _)
    | apply Keeps.trans ?_ (keeps_restoreRetain _ _ _)
    | apply Keeps.trans ?_ (keeps_engWrite _ _ _ _ _).fst
    | apply Keeps.trans ?_ (keeps_latchWithheld _ _)
    | apply Keeps.trans ?_ (keeps_joinQueues _ _ _)
    | apply Keeps.refl

theorem keeps_joinData (s : State) (h : FtbHead) (d : JoinData) : Keeps s (joinData s h d) := by
  unfold joinData
  try dsimp only
  with_reducible repeat' first
    | apply Keeps.ite
    | apply Keeps.onOk
    | apply KeepsFst.trans ?_ (keeps_msgTake _ _)
    | apply Keeps.trans ?_ (keeps_joinSystem _ _ _ _ _ _ _ _)
    | apply Keeps.trans ?_ (keeps_joinPavilion _ _ _ _ _ _ _ _)
    | intro _
    | split
    | apply Keeps.refl

theorem keeps_joinTimeout (s : State) : Keeps s (joinTimeout s) := by
  unfold joinTimeout
  try dsimp only
  with_reducible repeat' first
    | apply Keeps.foldl
    | apply Keeps.trans ?_ (keeps_setJoin _ _)
    | apply Keeps.trans ?_ (keeps_latchWithheld _ _)
    | apply Keeps.trans ?_ (keeps_cadd _ _ _)
    | intro _
    | split
    | apply Keeps.refl

theorem keeps_seqEdge (s : State) (n : Nat) : Keeps s (seqEdge s n) := by
  unfold seqEdge
  try dsimp only
  with_reducible repeat' first
    | apply Keeps.trans ?_ (keeps_joinFinish _)
    | apply Keeps.trans ?_ (keeps_joinStep6 _ _)
    | apply Keeps.trans ?_ (keeps_step6 _ _)
    | apply Keeps.trans ?_ (keeps_steps2to5 _ _)
    | apply Keeps.trans ?_ (keeps_dueResets _)
    | apply Keeps.trans ?_ (keeps_digestForm _ _)
    | apply Keeps.trans ?_ (keeps_step7 _ _ _)
    | simp only [Keeps.mk_iff]
    | apply Keeps.refl

end Sys2Proof.Machine
end

