-- ==== Sys2Proof/Laws/KeepAccess.lean ====
section
/-! SUPPORT. What the operations of Machine/Access.lean keep: the queue, memory's canonical form and the fuses. -/

set_option Elab.async false

namespace Sys2Proof.Machine

theorem keeps_putFields (codes : List Acc) (dependent : Bool) (s : State) (w : Staged) : Keeps s (putFields codes dependent s w) := by
  unfold putFields
  try dsimp only
  with_reducible repeat' first
    | apply Keeps.foldl
    | apply Keeps.trans ?_ (keeps_fset _ _ _)
    | intro _
    | split
    | apply Keeps.refl

theorem keeps_changed (old : State) (s : State) (w : Staged) : Keeps s (changed old s w) := by
  unfold changed
  try dsimp only
  with_reducible repeat' first
    | apply Keeps.trans ?_ (keeps_cruChanged _ _ _)
    | apply Keeps.trans ?_ (keeps_sdlChanged _ _ _)
    | apply Keeps.trans ?_ (keeps_trlChanged _ _ _)
    | apply Keeps.trans ?_ (keeps_hrbChanged _ _)
    | apply Keeps.trans ?_ (keeps_gthChanged _ _)
    | apply Keeps.trans ?_ (keeps_blvChanged _ _ _)
    | apply Keeps.trans ?_ (keeps_pavChanged _ _ _ _)
    | split
    | apply Keeps.refl

theorem keeps_stopEnd (s : State) : Keeps s (stopEnd s) := by
  unfold stopEnd
  try dsimp only
  with_reducible repeat' first
    | apply Keeps.ite
    | apply Keeps.trans ?_ (keeps_blvDrain _)
    | apply Keeps.trans ?_ (keeps_srcEdge _)
    | apply Keeps.trans ?_ (keeps_tripEdge _)
    | apply Keeps.trans ?_ (keeps_descEdge _ _ _)
    | apply Keeps.trans ?_ (keeps_stopRelease _)
    | simp only [Keeps.mk_iff]
    | apply Keeps.refl

theorem keeps_follow (old : State) (s : State) (touched : Block → Bool) : Keeps s (follow old s touched) := by
  unfold follow
  try dsimp only
  with_reducible repeat' first
    | apply Keeps.ite
    | apply Keeps.trans ?_ (keeps_angleSweep _)
    | apply Keeps.trans ?_ (keeps_stopEnd _)
    | apply Keeps.trans ?_ (keeps_macApplied _ _)
    | apply Keeps.trans ?_ (keeps_sviApplied _ _)
    | apply Keeps.trans ?_ (keeps_casApplied _ _)
    | apply Keeps.trans ?_ (keeps_blvApplied _ _)
    | apply Keeps.trans ?_ (keeps_classFollow _)
    | apply Keeps.refl

theorem keeps_noteApplied (s : State) (as_ : List Nat) : Keeps s (noteApplied s as_) := by
  unfold noteApplied
  try dsimp only
  with_reducible repeat' first
    | simp only [Keeps.mk_iff]
    | apply Keeps.refl

theorem keeps_applyBatch (s : State) (codes : List Acc) (ws : List Staged) : Keeps s (applyBatch s codes ws) := by
  unfold applyBatch
  try dsimp only
  with_reducible repeat' first
    | apply Keeps.ite
    | apply Keeps.foldl
    | apply Keeps.trans ?_ (keeps_wign _ _)
    | apply Keeps.trans ?_ (keeps_putFields _ _ _ _)
    | apply Keeps.trans ?_ (keeps_noteApplied _ _)
    | apply Keeps.trans ?_ (keeps_follow _ _ _)
    | apply Keeps.trans ?_ (keeps_changed _ _ _)
    | intro _
    | apply Keeps.refl

theorem keeps_sendStrobe (s : State) (hit : PendEntry → Bool) : Keeps s (sendStrobe s hit) := by
  unfold sendStrobe
  try dsimp only
  with_reducible repeat' first
    | simp only [Keeps.mk_iff]
    | apply Keeps.refl

theorem keeps_strobeGroups (s : State) (gs : List Nat) : Keeps s (strobeGroups s gs) := by
  unfold strobeGroups
  try dsimp only
  with_reducible repeat' first
    | apply Keeps.trans ?_ (keeps_applyBatch _ _ _)
    | apply Keeps.trans ?_ (keeps_sendStrobe _ _)
    | apply Keeps.refl

theorem keeps_strobeAck (s : State) (a : Nat) : Keeps s (strobeAck s a) := by
  unfold strobeAck
  try dsimp only
  with_reducible repeat' first
    | apply Keeps.trans ?_ (keeps_applyBatch _ _ _)
    | simp only [Keeps.mk_iff]
    | split
    | apply Keeps.refl

theorem keeps_strobesDue (s : State) : Keeps s (strobesDue s) := by
  unfold strobesDue
  try dsimp only
  with_reducible repeat' first
    | apply Keeps.ite
    | apply Keeps.trans ?_ (keeps_strobeGroups _ _)
    | simp only [Keeps.mk_iff]
    | apply Keeps.refl

theorem keeps_txIgnored (s : State) : Keeps s (txIgnored s) := by
  unfold txIgnored
  try dsimp only
  with_reducible repeat' first
    | apply Keeps.trans ?_ (keeps_wign _ _)
    | apply Keeps.refl

theorem keeps_txClose (s : State) (n : Nat) (done : Nat) : Keeps s (txClose s n done) := by
  unfold txClose
  try dsimp only
  with_reducible repeat' first
    | apply Keeps.trans ?_ (keeps_closeTx _ _ _)
    | apply Keeps.trans ?_ (keeps_setTx _ _ _)
    | apply Keeps.refl

theorem keeps_txCommit (s : State) (n : Nat) : Keeps s (txCommit s n) := by
  unfold txCommit
  try dsimp only
  with_reducible repeat' first
    | apply Keeps.ite
    | apply Keeps.trans ?_ (keeps_txIgnored _)
    | apply Keeps.trans ?_ (keeps_failTx _ _ _)
    | apply Keeps.trans ?_ (keeps_setTx _ _ _)
    | apply Keeps.refl

theorem keeps_txCommitAt (s : State) (n : Nat) : Keeps s (txCommitAt s n) := by
  unfold txCommitAt
  try dsimp only
  with_reducible repeat' first
    | apply Keeps.ite
    | apply Keeps.trans ?_ (keeps_txIgnored _)
    | apply Keeps.trans ?_ (keeps_failTx _ _ _)
    | apply Keeps.trans ?_ (keeps_setTx _ _ _)
    | split
    | apply Keeps.refl

theorem keeps_txRollback (s : State) (n : Nat) : Keeps s (txRollback s n) := by
  unfold txRollback
  try dsimp only
  with_reducible repeat' first
    | apply Keeps.ite
    | apply Keeps.trans ?_ (keeps_txIgnored _)
    | apply Keeps.trans ?_ (keeps_closeTx _ _ _)
    | split
    | apply Keeps.refl

theorem keeps_txBegin (s : State) (n : Nat) (mid : Nat) : Keeps s (txBegin s n mid) := by
  unfold txBegin
  try dsimp only
  with_reducible repeat' first
    | apply Keeps.ite
    | apply Keeps.trans ?_ (keeps_txIgnored _)
    | apply Keeps.trans ?_ (keeps_setTx _ _ _)
    | apply Keeps.refl

theorem keeps_txCmd (s : State) (n : Nat) (mid : Nat) (v : Nat) : Keeps s (txCmd s n mid v) := by
  unfold txCmd
  try dsimp only
  with_reducible repeat' first
    | apply Keeps.ite
    | apply Keeps.trans ?_ (keeps_txIgnored _)
    | apply Keeps.trans ?_ (keeps_txBegin _ _ _)
    | apply Keeps.trans ?_ (keeps_txCommit _ _)
    | apply Keeps.trans ?_ (keeps_txCommitAt _ _)
    | apply Keeps.trans ?_ (keeps_txRollback _ _)
    | apply Keeps.refl

theorem keeps_txClaim (s : State) (n : Nat) (mid : Nat) (page : Nat) : Keeps s (txClaim s n mid page) := by
  unfold txClaim
  try dsimp only
  with_reducible repeat' first
    | apply Keeps.ite
    | apply Keeps.trans ?_ (keeps_txIgnored _)
    | apply Keeps.trans ?_ (keeps_setTx _ _ _)
    | apply Keeps.refl

theorem keeps_stage (s : State) (n : Nat) (a : Nat) (v : Nat) (mid : Nat) : Keeps s (stage s n a v mid) := by
  unfold stage
  try dsimp only
  with_reducible repeat' first
    | apply Keeps.ite
    | apply Keeps.trans ?_ (keeps_setTx _ _ _)
    | apply Keeps.trans ?_ (keeps_wign _ _)
    | apply Keeps.refl

theorem keeps_commitTogether (s : State) (ns : List Nat) (gs : List Nat) (done : Nat) : Keeps s (commitTogether s ns gs done) := by
  unfold commitTogether
  try dsimp only
  with_reducible repeat' first
    | apply Keeps.foldl
    | apply Keeps.trans ?_ (keeps_applyBatch _ _ _)
    | apply Keeps.trans ?_ (keeps_sendStrobe _ _)
    | apply Keeps.trans ?_ (keeps_txClose _ _ _)
    | intro _
    | apply Keeps.refl

theorem keeps_edgeApply (s : State) (n : Nat) : Keeps s (edgeApply s n) := by
  unfold edgeApply
  try dsimp only
  with_reducible repeat' first
    | apply Keeps.ite
    | apply Keeps.trans ?_ (keeps_commitTogether _ _ _ _)
    | simp only [Keeps.mk_iff]
    | apply Keeps.refl

theorem keeps_stoppedApply (s : State) : Keeps s (stoppedApply s) := by
  unfold stoppedApply
  try dsimp only
  with_reducible repeat' first
    | apply Keeps.ite
    | apply Keeps.trans ?_ (keeps_commitTogether _ _ _ _)
    | apply Keeps.refl

theorem keeps_lateSlots (s : State) (n : Nat) : Keeps s (lateSlots s n) := by
  unfold lateSlots
  try dsimp only
  with_reducible repeat' first
    | apply Keeps.ite
    | apply Keeps.foldl
    | apply Keeps.trans ?_ (keeps_failTx _ _ _)
    | intro _
    | split
    | apply Keeps.refl

theorem keeps_bufferWrite (s : State) (l : RegLoc) (mid : Nat) (v : Nat) : Keeps s (bufferWrite s l mid v) := by
  unfold bufferWrite
  try dsimp only
  with_reducible repeat' first
    | apply Keeps.ite
    | simp only [Keeps.mk_iff]
    | apply Keeps.refl

theorem keeps_configWrite (s : State) (l : RegLoc) (mid : Nat) (v : Nat) : Keeps s (configWrite s l mid v) := by
  unfold configWrite
  try dsimp only
  with_reducible repeat' first
    | apply Keeps.ite
    | apply Keeps.trans ?_ (keeps_wign _ _)
    | apply Keeps.trans ?_ (keeps_stage _ _ _ _ _)
    | apply Keeps.trans ?_ (keeps_applyBatch _ _ _)
    | apply Keeps.trans ?_ (keeps_bufferWrite _ _ _ _)
    | split
    | apply Keeps.refl

theorem keeps_counterWrite (s : State) (l : RegLoc) (mid : Nat) (v : Nat) : Keeps s (counterWrite s l mid v) := by
  unfold counterWrite
  try dsimp only
  with_reducible repeat' first
    | apply Keeps.foldl
    | apply Keeps.trans ?_ (keeps_csub _ _ _)
    | intro _
    | apply Keeps.refl

theorem keeps_sysWsc (r : SysReg) (i : Nat) (mid : Nat) (v : Nat) (s : State) : Keeps s (sysWsc r i mid v s) := by
  unfold sysWsc
  try dsimp only
  with_reducible repeat' first
    | apply Keeps.trans ?_ (keeps_txCmd _ _ _ _)
    | simp only [Keeps.mk_iff]
    | split
    | apply Keeps.refl

theorem keeps_wscNote (s : State) (a : Nat) (v : Nat) : Keeps s (wscNote s a v) := by
  unfold wscNote
  try dsimp only
  with_reducible repeat' first
    | simp only [Keeps.mk_iff]
    | apply Keeps.refl

theorem keeps_commandWrite (s : State) (l : RegLoc) (mid : Nat) (v : Nat) : Keeps s (commandWrite s l mid v) := by
  unfold commandWrite
  try dsimp only
  with_reducible repeat' first
    | apply Keeps.ite
    | apply Keeps.trans ?_ (keeps_wscNote _ _ _)
    | apply Keeps.trans ?_ (keeps_sysWsc _ _ _ _ _)
    | apply Keeps.trans ?_ (keeps_cruWsc _ _ _)
    | apply Keeps.trans ?_ (keeps_casWsc _ _ _)
    | apply Keeps.trans ?_ (keeps_doneWrite _ _)
    | apply Keeps.trans ?_ (keeps_cycWsc _ _ _ _)
    | apply Keeps.trans ?_ (keeps_blvWsc _ _ _ _)
    | apply Keeps.trans ?_ (keeps_memWsc _ _ _)
    | apply Keeps.trans ?_ (keeps_dbgWsc _ _ _)
    | apply Keeps.trans ?_ (keeps_pavWsc _ _ _ _)
    | split
    | apply Keeps.refl

theorem keeps_mbxGo (bflOk : Bool) (l : RegLoc) (s : State) : Keeps s (mbxGo bflOk l s) := by
  unfold mbxGo
  try dsimp only
  with_reducible repeat' first
    | apply Keeps.trans ?_ (keeps_angleSweep _)
    | apply Keeps.trans ?_ (keeps_sdlMbx _ _ _ _)
    | apply Keeps.trans ?_ (keeps_macMbx _ _ _ _)
    | apply Keeps.trans ?_ (keeps_trlMbx _ _ _)
    | apply Keeps.trans ?_ (keeps_sviMbx _ _ _)
    | apply Keeps.trans ?_ (keeps_casMbx _ _ _)
    | apply Keeps.trans ?_ (keeps_ltnMbx _ _ _)
    | apply Keeps.trans ?_ (keeps_bndMbx _ _)
    | apply Keeps.trans ?_ (keeps_cycMbx _ _)
    | apply Keeps.trans ?_ (keeps_ftbTokenReq _)
    | apply Keeps.trans ?_ (keeps_joinReq _)
    | apply Keeps.trans ?_ (keeps_ftbDigReq _ _)
    | apply Keeps.trans ?_ (keeps_ornMbx _ _ _)
    | apply Keeps.trans ?_ (keeps_blvMbx _ _ _)
    | apply Keeps.trans ?_ (keeps_hrbMbx _ _ _)
    | apply Keeps.trans ?_ (keeps_gthMbx _ _ _ _)
    | apply Keeps.trans ?_ (keeps_grtMbx _ _ _)
    | apply Keeps.trans ?_ (keeps_bflReq _ _ _)
    | apply Keeps.trans ?_ (keeps_dbgMbx _ _ _)
    | apply Keeps.trans ?_ (keeps_pavPost _ _ _)
    | apply Keeps.trans ?_ (keeps_migReq _ _)
    | split
    | apply Keeps.refl

theorem keeps_mbxWrite (s : State) (bflOk : Bool) (l : RegLoc) (mid : Nat) (v : Nat) : Keeps s (mbxWrite s bflOk l mid v) := by
  unfold mbxWrite
  try dsimp only
  with_reducible repeat' first
    | apply Keeps.ite
    | apply Keeps.trans ?_ (keeps_wign _ _)
    | apply Keeps.trans ?_ (keeps_setMbx _ _ _)
    | apply Keeps.trans ?_ (keeps_mbxGo _ _ _)
    | split
    | apply Keeps.refl

theorem keeps_regWrite (s : State) (bflOk : Bool) (l : RegLoc) (mid : Nat) (v : Nat) : Keeps s (regWrite s bflOk l mid v) := by
  unfold regWrite
  try dsimp only
  with_reducible repeat' first
    | apply Keeps.ite
    | apply Keeps.trans ?_ (keeps_wign _ _)
    | apply Keeps.trans ?_ (keeps_mbxWrite _ _ _ _ _)
    | apply Keeps.trans ?_ (keeps_txClaim _ _ _ _)
    | apply Keeps.trans ?_ (keeps_commandWrite _ _ _ _)
    | apply Keeps.trans ?_ (keeps_counterWrite _ _ _ _)
    | apply Keeps.trans ?_ (keeps_configWrite _ _ _ _)
    | split
    | apply Keeps.refl

theorem keeps_enableFollows (old : State) (s : State) (p : PageLoc) (on : Bool) : Keeps s (enableFollows old s p on) := by
  unfold enableFollows
  try dsimp only
  with_reducible repeat' first
    | apply Keeps.ite
    | apply Keeps.trans ?_ (keeps_sdlEnable _ _ _)
    | apply Keeps.trans ?_ (keeps_macEnable _ _ _ _)
    | apply Keeps.trans ?_ (keeps_trlEnable _ _ _)
    | apply Keeps.trans ?_ (keeps_sviEnable _ _ _ _)
    | apply Keeps.trans ?_ (keeps_bndEnable _ _ _)
    | apply Keeps.trans ?_ (keeps_ftbEnable _ _ _)
    | apply Keeps.trans ?_ (keeps_hrbEnable _ _)
    | apply Keeps.trans ?_ (keeps_gthEnable _ _ _)
    | apply Keeps.trans ?_ (keeps_angleSweep _)
    | apply Keeps.trans ?_ (keeps_follow _ _ _)
    | split
    | apply Keeps.refl

theorem keeps_setEnable (s : State) (p : PageLoc) (on : Bool) : Keeps s (setEnable s p on) := by
  unfold setEnable
  try dsimp only
  with_reducible repeat' first
    | apply Keeps.ite
    | apply Keeps.trans ?_ (keeps_enableFollows _ _ _ _)
    | apply Keeps.trans ?_ (keeps_fset _ _ _)
    | apply Keeps.refl

theorem keeps_softReset (s : State) (p : PageLoc) : Keeps s (softReset s p) := by
  unfold softReset
  try dsimp only
  with_reducible repeat' first
    | apply Keeps.ite
    | apply Keeps.trans ?_ (keeps_angleSweep _)
    | apply Keeps.trans ?_ (keeps_sdlSrst _ _)
    | apply Keeps.trans ?_ (keeps_macSrst _ _ _)
    | apply Keeps.trans ?_ (keeps_gooseSrst _ _)
    | apply Keeps.trans ?_ (keeps_trlSrst _ _)
    | apply Keeps.trans ?_ (keeps_sviSrst _ _)
    | apply Keeps.trans ?_ (keeps_casSrst _ _)
    | apply Keeps.trans ?_ (keeps_ltnSrst _ _)
    | apply Keeps.trans ?_ (keeps_bndSrst _ _)
    | apply Keeps.trans ?_ (keeps_cycSrst _ _)
    | apply Keeps.trans ?_ (keeps_ftbSrst _)
    | apply Keeps.trans ?_ (keeps_blvSrst _ _)
    | apply Keeps.trans ?_ (keeps_hrbSrst _)
    | apply Keeps.trans ?_ (keeps_gthSrst _ _)
    | apply Keeps.trans ?_ (keeps_memSrst _ _)
    | apply Keeps.trans ?_ (keeps_dbgSrst _ _)
    | split
    | apply Keeps.refl

theorem keeps_srstBegin (s : State) (page : Nat) : Keeps s (srstBegin s page) := by
  unfold srstBegin
  try dsimp only
  with_reducible repeat' first
    | simp only [Keeps.mk_iff]
    | apply Keeps.refl

theorem keeps_ctrlWrite (s : State) (p : PageLoc) (mid : Nat) (v : Nat) : Keeps s (ctrlWrite s p mid v) := by
  unfold ctrlWrite
  try dsimp only
  with_reducible repeat' first
    | apply Keeps.ite
    | apply Keeps.trans ?_ (keeps_wign _ _)
    | apply Keeps.trans ?_ (keeps_fset _ _ _)
    | apply Keeps.trans ?_ (keeps_setEnable _ _ _)
    | apply Keeps.trans ?_ (keeps_softReset _ _)
    | apply Keeps.trans ?_ (keeps_wscNote _ _ _)
    | apply Keeps.trans ?_ (keeps_srstBegin _ _)
    | apply Keeps.refl

theorem keeps_lockWrite (s : State) (p : PageLoc) (mid : Nat) (v : Nat) : Keeps s (lockWrite s p mid v) := by
  unfold lockWrite
  try dsimp only
  with_reducible repeat' first
    | apply Keeps.ite
    | apply Keeps.trans ?_ (keeps_wign _ _)
    | apply Keeps.trans ?_ (keeps_fset _ _ _)
    | apply Keeps.refl

theorem keeps_headerWrite (s : State) (p : PageLoc) (mid : Nat) (o : Nat) (v : Nat) : Keeps s (headerWrite s p mid o v) := by
  unfold headerWrite
  try dsimp only
  with_reducible repeat' first
    | apply Keeps.ite
    | apply Keeps.trans ?_ (keeps_ctrlWrite _ _ _ _)
    | apply Keeps.trans ?_ (keeps_fset _ _ _)
    | apply Keeps.trans ?_ (keeps_wign _ _)
    | apply Keeps.trans ?_ (keeps_lockWrite _ _ _ _)
    | apply Keeps.trans ?_ (keeps_csub _ _ _)
    | split
    | apply Keeps.refl

theorem keeps_busWrite (s : State) (bflOk : Bool) (mid : Nat) (a : Nat) (v : Nat) : Keeps s (busWrite s bflOk mid a v) := by
  unfold busWrite
  try dsimp only
  with_reducible repeat' first
    | apply Keeps.ite
    | apply Keeps.trans ?_ (keeps_decErr _ _)
    | apply Keeps.trans ?_ (keeps_wign _ _)
    | apply Keeps.trans ?_ (keeps_headerWrite _ _ _ _ _)
    | apply Keeps.trans ?_ (keeps_regWrite _ _ _ _ _)
    | split
    | apply Keeps.refl

theorem keeps_busRead (s : State) (mid : Nat) (a : Nat) : KeepsFst s (busRead s mid a) := by
  unfold busRead
  try dsimp only
  with_reducible repeat' first
    | apply KeepsFst.ite
    | apply Keeps.trans ?_ (keeps_decErr _ _)
    | apply Keeps.trans ?_ (keeps_drew _)
    | apply Keeps.trans ?_ (keeps_takeRead _ _)
    | apply Keeps.trans ?_ (keeps_nextRead _ _).fst
    | simp only [KeepsFst.pair_iff]
    | split
    | apply Keeps.refl

theorem keeps_respond (s : State) (r : Resp) : Keeps s (respond s r) := by
  unfold respond
  try dsimp only
  with_reducible repeat' first
    | simp only [Keeps.mk_iff]
    | apply Keeps.refl

theorem keeps_errorResp (s : State) : Keeps s (errorResp s) := by
  unfold errorResp
  try dsimp only
  with_reducible repeat' first
    | apply Keeps.trans ?_ (keeps_respond _ _)
    | apply Keeps.refl

theorem keeps_refuse (s : State) (mid : Nat) : Keeps s (refuse s mid) := by
  unfold refuse
  try dsimp only
  with_reducible repeat' first
    | apply Keeps.trans ?_ (keeps_errorResp _)
    | apply Keeps.trans ?_ (keeps_decErr _ _)
    | apply Keeps.refl

theorem keeps_regRead32s (s : State) (mid : Nat) (a : Nat) (n : Nat) : Keeps s (regRead32s s mid a n) := by
  unfold regRead32s
  try dsimp only
  with_reducible repeat' first
    | apply Keeps.ite
    | apply Keeps.onOpt
    | apply Keeps.trans ?_ (keeps_respond _ _)
    | apply Keeps.trans ?_ (keeps_decErr _ _)
    | apply Keeps.trans ?_ (keeps_refuse _ _)
    | apply KeepsFst.trans ?_ (keeps_busRead _ _ _)
    | intro _
    | apply Keeps.refl

theorem keeps_regWrites (s : State) (mid : Nat) (a : Nat) (bs : List Nat) : Keeps s (regWrites s mid a bs) := by
  unfold regWrites
  try dsimp only
  with_reducible repeat' first
    | apply Keeps.ite
    | apply Keeps.trans ?_ (keeps_respond _ _)
    | apply Keeps.trans ?_ (keeps_decErr _ _)
    | apply Keeps.trans ?_ (keeps_refuse _ _)
    | apply Keeps.trans ?_ (keeps_busWrite _ _ _ _ _)
    | apply Keeps.refl

theorem keeps_decodeLines (s : State) (mid : Nat) (a : Nat) (bad : List BadLine) : Keeps s (decodeLines s mid a bad) := by
  unfold decodeLines
  try dsimp only
  with_reducible repeat' first
    | apply Keeps.foldl
    | apply Keeps.trans ?_ (keeps_readLine _ _ _ _ _ _)
    | intro _
    | apply Keeps.refl

theorem keeps_plainRead (s : State) (mid : Nat) (a : Nat) (n : Nat) (fetch : Bool) (bad : List BadLine) : Keeps s (plainRead s mid a n fetch bad) := by
  unfold plainRead
  try dsimp only
  with_reducible repeat' first
    | apply Keeps.ite
    | apply Keeps.onOpt
    | apply Keeps.trans ?_ (keeps_refuse _ _)
    | apply Keeps.trans ?_ (keeps_regRead32s _ _ _ _)
    | apply Keeps.trans ?_ (keeps_respond _ _)
    | apply Keeps.trans ?_ (keeps_drew _)
    | apply Keeps.trans ?_ (keeps_decodeLines _ _ _ _)
    | apply KeepsFst.trans ?_ (keeps_physRead _ _ _ _)
    | apply Keeps.trans ?_ (keeps_errorResp _)
    | intro _
    | apply Keeps.refl

theorem keeps_plainWrite (s : State) (mid : Nat) (a : Nat) (bs : List Nat) : Keeps s (plainWrite s mid a bs) := by
  unfold plainWrite
  try dsimp only
  with_reducible repeat' first
    | apply Keeps.ite
    | apply Keeps.onOk
    | apply Keeps.trans ?_ (keeps_regWrites _ _ _ _)
    | apply KeepsFst.trans ?_ (keeps_physWrite _ _ _ _)
    | apply Keeps.trans ?_ (keeps_errorResp _)
    | apply Keeps.trans ?_ (keeps_respond _ _)
    | intro _
    | apply Keeps.refl

theorem keeps_guestCheck (s : State) (mid : Nat) (a : Nat) (n : Nat) (perm : Perm) : ∀ u', guestCheck s mid a n perm = some u' → Keeps s u' := by
  intro t h
  unfold guestCheck at h
  dsimp only at h
  split at h
  · cases h
    exact keeps_errorResp _
  · split at h
    · cases h
      exact (keeps_refuseFor _ _ _ _ _).trans (keeps_errorResp _)
    · split at h
      · cases h
      · cases h
        exact (keeps_refuseFor _ _ _ _ _).trans (keeps_errorResp _)

theorem keeps_meshAccess (s : State) (mid : Nat) (a : Nat) (op : MeshOp) (bad : List BadLine) : Keeps s (meshAccess s mid a op bad) := by
  unfold meshAccess
  split
  · rename_i h
    split at h
    · exact keeps_guestCheck _ _ _ _ _ _ h
    · cases h
  · split
    · exact keeps_plainRead _ _ _ _ _ _
    · exact keeps_plainRead _ _ _ _ _ _
    · exact keeps_plainWrite _ _ _ _

theorem keeps_meshWrite (s : State) (mid : Nat) (a : Nat) (v : Nat) : Keeps s (meshWrite s mid a v) := by
  unfold meshWrite
  try dsimp only
  with_reducible repeat' first
    | apply Keeps.trans ?_ (keeps_meshAccess _ _ _ _ _)
    | apply Keeps.refl

theorem keeps_meshRead (s : State) (mid : Nat) (a : Nat) : Keeps s (meshRead s mid a) := by
  unfold meshRead
  try dsimp only
  with_reducible repeat' first
    | apply Keeps.trans ?_ (keeps_meshAccess _ _ _ _ _)
    | apply Keeps.refl

theorem keeps_mbxData (s : State) (mid : Nat) (a : Nat) (d : List Word) : Keeps s (mbxData s mid a d) := by
  unfold mbxData
  try dsimp only
  with_reducible repeat' first
    | apply Keeps.foldl
    | apply Keeps.trans ?_ (keeps_meshWrite _ _ _ _)
    | intro _
    | apply Keeps.refl

theorem keeps_mbxRequest (s : State) (mid : Nat) (a : Nat) (op : Nat) (wr : Bool) (arg : Nat) (d : List Word) : Keeps s (mbxRequest s mid a op wr arg d) := by
  unfold mbxRequest
  try dsimp only
  with_reducible repeat' first
    | apply Keeps.trans ?_ (keeps_meshWrite _ _ _ _)
    | apply Keeps.trans ?_ (keeps_mbxData _ _ _ _)
    | apply Keeps.refl

end Sys2Proof.Machine
end

