-- ==== Sys2Proof/Laws/KeepBandstandCommands.lean ====
section
/-! SUPPORT. What the operations of Machine/BandstandCommands.lean keep: the queue, memory's canonical form and the fuses. -/

set_option Elab.async false

namespace Sys2Proof.Machine

theorem keeps_postSoft (s : State) (v : Ev) : Keeps s (postSoft s v) := by
  unfold postSoft
  try dsimp only
  with_reducible repeat' first
    | apply Keeps.ite
    | apply Keeps.trans ?_ (keeps_cinc _ _)
    | apply Keeps.trans ?_ (keeps_softPost _ _ _).fst
    | apply Keeps.refl

theorem keeps_postEvent (s : State) (e : PostedEvent) : Keeps s (postEvent s e) := by
  unfold postEvent
  try dsimp only
  with_reducible repeat' first
    | apply Keeps.ite
    | apply Keeps.trans ?_ (keeps_frameEvent _ _)
    | apply Keeps.trans ?_ (keeps_postCounted _ _ _ _ _)
    | apply Keeps.trans ?_ (keeps_expiryPost _ _ _)
    | apply Keeps.trans ?_ (keeps_goosePost _ _ _ _ _)
    | apply Keeps.trans ?_ (keeps_batchOrHold _ _ _ _)
    | apply Keeps.trans ?_ (keeps_alarmPost _ _ _)
    | apply Keeps.trans ?_ (keeps_postSoft _ _)
    | apply Keeps.trans ?_ (keeps_bndPost _ _).fst
    | split
    | apply Keeps.refl

theorem keeps_retryEvent (s : State) (x1 : HeldBy) : Keeps s (retryEvent s x1) := by
  unfold retryEvent
  try dsimp only
  with_reducible repeat' first
    | apply Keeps.trans ?_ (keeps_retryHeld _ _ _)
    | apply Keeps.trans ?_ (keeps_batchRetry _ _ _)
    | apply Keeps.trans ?_ (keeps_retryAlarm _)
    | apply Keeps.trans ?_ (keeps_frameRetry _)
    | apply Keeps.trans ?_ (keeps_gooseRetry _)
    | apply Keeps.trans ?_ (keeps_expiryRetry _ _)
    | split
    | apply Keeps.refl

end Sys2Proof.Machine
end

