-- ==== Sys2Proof/Laws/KeepBoardCommands.lean ====
section
/-! SUPPORT. What the operations of Machine/BoardCommands.lean keep: the queue, memory's canonical form and the fuses. -/

set_option Elab.async false

namespace Sys2Proof.Machine

theorem keeps_acceptReport (s : State) (p : Nat) : Keeps s (acceptReport s p) := by
  unfold acceptReport
  try dsimp only
  with_reducible repeat' first
    | apply Keeps.ite
    | apply Keeps.trans ?_ (keeps_dinAccept _ _)
    | apply Keeps.trans ?_ (keeps_blvDinEdge _ _ _ _)
    | apply Keeps.refl

theorem keeps_sampleAll (s : State) (v : Nat) : Keeps s (sampleAll s v) := by
  unfold sampleAll
  try dsimp only
  with_reducible repeat' first
    | apply Keeps.ite
    | apply Keeps.foldl
    | apply Keeps.trans ?_ (keeps_dinSample _ _)
    | apply Keeps.trans ?_ (keeps_acceptReport _ _)
    | intro _
    | apply Keeps.refl

theorem keeps_flashRequest (s : State) (ok : Bool) (mid : Nat) (op : Nat) (wr : Bool) (d : List Word) : Keeps s (flashRequest s ok mid op wr d) := by
  unfold flashRequest
  try dsimp only
  with_reducible repeat' first
    | apply Keeps.ite
    | apply Keeps.trans ?_ (keeps_meshWrite _ _ _ _)
    | apply Keeps.trans ?_ (keeps_mbxData _ _ _ _)
    | apply Keeps.trans ?_ (keeps_respond _ _)
    | apply Keeps.trans ?_ (keeps_busWrite _ _ _ _ _)
    | apply Keeps.refl

theorem keeps_acSet (s : State) (i : TapInstr) (kind : Nat) (pins : Nat) (shift : Nat) : Keeps s (acSet s i kind pins shift) := by
  unfold acSet
  try dsimp only
  with_reducible repeat' first
    | apply Keeps.trans ?_ (keeps_tapSet _ _ _)
    | apply Keeps.refl

theorem keeps_dbgAccess (s : State) (a : Nat) (op : MeshOp) (bad : List BadLine) : Keeps s (dbgAccess s a op bad) := by
  unfold dbgAccess
  try dsimp only
  with_reducible repeat' first
    | apply Keeps.ite
    | apply Keeps.trans ?_ (keeps_tapSet _ _ _)
    | apply Keeps.trans ?_ (keeps_meshAccess _ _ _ _ _)
    | apply Keeps.refl

end Sys2Proof.Machine
end

