-- ==== Sys2Proof/Laws/KeepOut.lean ====
section
/-! SUPPORT. What an outcome keeps: the queue and memory's canonical form of the state that it answers. -/

set_option Elab.async false

namespace Sys2Proof.Machine

/-- Where an outcome is a next state, that state keeps what `s` holds. -/
structure KeepsOut (s : State) (o : Out) : Prop where
  /-- Of the next state. -/
  next : ∀ t, o = .next t → Keeps s t

theorem KeepsOut.of_next {s t : State} (h : Keeps s t) : KeepsOut s (.next t) :=
  ⟨fun u hu => by
    cases hu
    exact h⟩

theorem KeepsOut.of_fault (s : State) (f : Fault) : KeepsOut s (.fault f) := ⟨fun _ hu => nomatch hu⟩

theorem KeepsOut.of_act {s : State} {f : State → State} (h : ∀ t, Keeps t (f t)) : KeepsOut s (act s f) := by
  unfold act
  exact of_next (Keeps.ite (Keeps.refl s) (h s))

theorem KeepsOut.ite {c : Prop} [Decidable c] {s : State} {a b : Out} (ha : KeepsOut s a) (hb : KeepsOut s b) :
    KeepsOut s (if c then a else b) := by split <;> assumption

end Sys2Proof.Machine
end

