-- ==== Sys2Proof/Laws/KeepExecBandstand.lean ====
section
/-! SUPPORT. What the commands of Machine/BandstandCommands.lean keep: the queue, memory's canonical form and the fuses. -/

set_option Elab.async false

namespace Sys2Proof.Machine

theorem keeps_execEventPost (e : PostedEvent) (s : State) : KeepsOut s (execEventPost e s) := by
  unfold execEventPost
  with_reducible repeat' first
    | apply KeepsOut.of_act
    | apply Keeps.trans ?_ (keeps_postEvent _ _)
    | intro _
    | apply Keeps.refl

theorem keeps_execHeldEventRetry (h : HeldBy) (s : State) : KeepsOut s (execHeldEventRetry h s) := by
  unfold execHeldEventRetry
  with_reducible repeat' first
    | apply KeepsOut.of_act
    | apply Keeps.trans ?_ (keeps_retryEvent _ _)
    | intro _
    | apply Keeps.refl

theorem keeps_execBndPost (mid : Mid) (q : BitVec 13) (d : List Word) (s : State) : KeepsOut s (execBndPost mid q d s) := by
  unfold execBndPost
  with_reducible repeat' first
    | apply KeepsOut.of_act
    | apply Keeps.trans ?_ (keeps_mbxRequest _ _ _ _ _ _ _)
    | intro _
    | apply Keeps.refl

theorem keeps_execSlotFill (k : Fin 48) (s : State) : KeepsOut s (execSlotFill k s) := by
  unfold execSlotFill
  with_reducible repeat' first
    | apply KeepsOut.of_act
    | apply Keeps.trans ?_ (keeps_slotFill _ _)
    | intro _
    | apply Keeps.refl

theorem keeps_execBndTake (mid : Mid) (k : Fin 48) (s : State) : KeepsOut s (execBndTake mid k s) := by
  unfold execBndTake
  with_reducible repeat' first
    | apply KeepsOut.of_act
    | apply Keeps.trans ?_ (keeps_meshRead _ _ _)
    | intro _
    | apply Keeps.refl

theorem keeps_execTakeTimeout (k : Fin 48) (s : State) : KeepsOut s (execTakeTimeout k s) := by
  unfold execTakeTimeout
  with_reducible repeat' first
    | apply KeepsOut.of_act
    | apply Keeps.trans ?_ (keeps_takeTimeout _ _)
    | intro _
    | apply Keeps.refl

theorem keeps_execBndDone (mid : Mid) (k : Fin 48) (s : State) : KeepsOut s (execBndDone mid k s) := by
  unfold execBndDone
  with_reducible repeat' first
    | apply KeepsOut.of_act
    | apply Keeps.trans ?_ (keeps_meshWrite _ _ _ _)
    | intro _
    | apply Keeps.refl

theorem keeps_execPavPost (mid : Mid) (p : Fin 1024) (q : BitVec 13) (d : List Word) (s : State) : KeepsOut s (execPavPost mid p q d s) := by
  unfold execPavPost
  with_reducible repeat' first
    | apply KeepsOut.of_act
    | apply Keeps.trans ?_ (keeps_mbxRequest _ _ _ _ _ _ _)
    | intro _
    | apply Keeps.refl

end Sys2Proof.Machine
end

