-- ==== Sys2Proof/Laws/KeepExecBelvedere.lean ====
section
/-! SUPPORT. What the commands of Machine/BelvedereCommands.lean keep: the queue, memory's canonical form and the fuses. -/

set_option Elab.async false

namespace Sys2Proof.Machine

theorem keeps_execTriggerTimeout (u : Fin 64) (s : State) : KeepsOut s (execTriggerTimeout u s) := by
  unfold execTriggerTimeout
  with_reducible repeat' first
    | apply KeepsOut.of_act
    | apply Keeps.trans ?_ (keeps_unitTimeout _ _)
    | intro _
    | apply Keeps.refl

theorem keeps_execMirrorFrameRecord (s : State) : KeepsOut s (execMirrorFrameRecord s) := by
  unfold execMirrorFrameRecord
  with_reducible repeat' first
    | apply KeepsOut.of_act
    | apply Keeps.trans ?_ (keeps_blvMirror _)
    | intro _
    | apply Keeps.refl

theorem keeps_execCaptureClose (g : Fin 16) (s : State) : KeepsOut s (execCaptureClose g s) := by
  unfold execCaptureClose
  with_reducible repeat' first
    | apply KeepsOut.of_act
    | apply Keeps.trans ?_ (keeps_captureClose _ _)
    | intro _
    | apply Keeps.refl

theorem keeps_execBlvCgTrig (mid : Mid) (g : Fin 16) (s : State) : KeepsOut s (execBlvCgTrig mid g s) := by
  unfold execBlvCgTrig
  with_reducible repeat' first
    | apply KeepsOut.of_act
    | apply Keeps.trans ?_ (keeps_meshWrite _ _ _ _)
    | intro _
    | apply Keeps.refl

theorem keeps_execBlvCgRel (mid : Mid) (g : Fin 16) (slots : BitVec 16) (s : State) : KeepsOut s (execBlvCgRel mid g slots s) := by
  unfold execBlvCgRel
  with_reducible repeat' first
    | apply KeepsOut.of_act
    | apply Keeps.trans ?_ (keeps_meshWrite _ _ _ _)
    | intro _
    | apply Keeps.refl

theorem keeps_execMaskTableLoad (m : Fin 64) (s : State) : KeepsOut s (execMaskTableLoad m s) := by
  unfold execMaskTableLoad
  with_reducible repeat' first
    | apply KeepsOut.of_act
    | apply Keeps.trans ?_ (keeps_maskLoad _ _)
    | intro _
    | apply Keeps.refl

theorem keeps_execRateHalvingStep (s : State) : KeepsOut s (execRateHalvingStep s) := by
  unfold execRateHalvingStep
  with_reducible repeat' first
    | apply KeepsOut.of_act
    | apply Keeps.trans ?_ (keeps_halvingStep _)
    | intro _
    | apply Keeps.refl

theorem keeps_execRateRestoreStep (s : State) : KeepsOut s (execRateRestoreStep s) := by
  unfold execRateRestoreStep
  with_reducible repeat' first
    | apply KeepsOut.of_act
    | apply Keeps.trans ?_ (keeps_restoreStep _)
    | intro _
    | apply Keeps.refl

theorem keeps_execBlvSrcWrite (mid : Mid) (e : Fin 1024) (d : List Word) (s : State) : KeepsOut s (execBlvSrcWrite mid e d s) := by
  unfold execBlvSrcWrite
  with_reducible repeat' first
    | apply KeepsOut.of_act
    | apply Keeps.trans ?_ (keeps_mbxRequest _ _ _ _ _ _ _)
    | intro _
    | apply Keeps.refl

theorem keeps_execBlvSrcRead (mid : Mid) (e : Fin 1024) (s : State) : KeepsOut s (execBlvSrcRead mid e s) := by
  unfold execBlvSrcRead
  with_reducible repeat' first
    | apply KeepsOut.of_act
    | apply Keeps.trans ?_ (keeps_mbxRequest _ _ _ _ _ _ _)
    | intro _
    | apply Keeps.refl

theorem keeps_execBlvSrcDisable (mid : Mid) (e : Fin 1024) (s : State) : KeepsOut s (execBlvSrcDisable mid e s) := by
  unfold execBlvSrcDisable
  with_reducible repeat' first
    | apply KeepsOut.of_act
    | apply Keeps.trans ?_ (keeps_mbxRequest _ _ _ _ _ _ _)
    | intro _
    | apply Keeps.refl

end Sys2Proof.Machine
end

