-- ==== Sys2Proof/Laws/KeepExecBoard.lean ====
section
/-! SUPPORT. What the commands of Machine/BoardCommands.lean keep: the queue, memory's canonical form and the fuses. -/

set_option Elab.async false

namespace Sys2Proof.Machine

theorem keeps_execCalendarSecond (s : State) : KeepsOut s (execCalendarSecond s) := by
  unfold execCalendarSecond
  with_reducible repeat' first
    | apply KeepsOut.of_next
    | apply Keeps.trans ?_ (keeps_calendarSecond _)
    | apply Keeps.refl

theorem keeps_execOpsecIncrement (s : State) : KeepsOut s (execOpsecIncrement s) := by
  unfold execOpsecIncrement
  with_reducible repeat' first
    | apply KeepsOut.of_next
    | apply Keeps.trans ?_ (keeps_opsecStep _)
    | apply Keeps.refl

theorem keeps_execTamperDetect (low : Bool) (s : State) : KeepsOut s (execTamperDetect low s) := by
  unfold execTamperDetect
  with_reducible repeat' first
    | apply KeepsOut.of_next
    | apply Keeps.trans ?_ (keeps_tamperEdge _ _)
    | apply Keeps.refl

theorem keeps_execGrtTimeNow (mid : Mid) (s : State) : KeepsOut s (execGrtTimeNow mid s) := by
  unfold execGrtTimeNow
  with_reducible repeat' first
    | apply KeepsOut.of_act
    | apply Keeps.trans ?_ (keeps_mbxRequest _ _ _ _ _ _ _)
    | intro _
    | apply Keeps.refl

theorem keeps_execGrtScrread (mid : Mid) (arg : BitVec 16) (s : State) : KeepsOut s (execGrtScrread mid arg s) := by
  unfold execGrtScrread
  with_reducible repeat' first
    | apply KeepsOut.of_act
    | apply Keeps.trans ?_ (keeps_mbxRequest _ _ _ _ _ _ _)
    | intro _
    | apply Keeps.refl

theorem keeps_execGrtSetcal (mid : Mid) (d : List Word) (s : State) : KeepsOut s (execGrtSetcal mid d s) := by
  unfold execGrtSetcal
  with_reducible repeat' first
    | apply KeepsOut.of_act
    | apply Keeps.trans ?_ (keeps_mbxRequest _ _ _ _ _ _ _)
    | intro _
    | apply Keeps.refl

theorem keeps_execGrtTampclr (mid : Mid) (s : State) : KeepsOut s (execGrtTampclr mid s) := by
  unfold execGrtTampclr
  with_reducible repeat' first
    | apply KeepsOut.of_act
    | apply Keeps.trans ?_ (keeps_mbxRequest _ _ _ _ _ _ _)
    | intro _
    | apply Keeps.refl

theorem keeps_execGrtScrwrite (mid : Mid) (arg : BitVec 16) (d : List Word) (s : State) : KeepsOut s (execGrtScrwrite mid arg d s) := by
  unfold execGrtScrwrite
  with_reducible repeat' first
    | apply KeepsOut.of_act
    | apply Keeps.trans ?_ (keeps_mbxRequest _ _ _ _ _ _ _)
    | intro _
    | apply Keeps.refl

theorem keeps_execGrtRstclr (mid : Mid) (s : State) : KeepsOut s (execGrtRstclr mid s) := by
  unfold execGrtRstclr
  with_reducible repeat' first
    | apply KeepsOut.of_act
    | apply Keeps.trans ?_ (keeps_mbxRequest _ _ _ _ _ _ _)
    | intro _
    | apply Keeps.refl

theorem keeps_execDinLevelAccept (pin : Fin 32) (s : State) : KeepsOut s (execDinLevelAccept pin s) := by
  unfold execDinLevelAccept
  with_reducible repeat' first
    | apply KeepsOut.of_act
    | apply Keeps.trans ?_ (keeps_acceptReport _ _)
    | intro _
    | apply Keeps.refl

theorem keeps_execDinSample (levels : Word) (s : State) : KeepsOut s (execDinSample levels s) := by
  unfold execDinSample
  with_reducible repeat' first
    | apply KeepsOut.of_act
    | apply Keeps.trans ?_ (keeps_sampleAll _ _)
    | intro _
    | apply Keeps.refl

theorem keeps_execBootImageSelect (err0 : Bool) (err1 : Bool) (s : State) : KeepsOut s (execBootImageSelect err0 err1 s) := by
  unfold execBootImageSelect
  with_reducible repeat' first
    | apply KeepsOut.of_act
    | apply Keeps.trans ?_ (keeps_bootSelect _ _ _)
    | intro _
    | apply Keeps.refl

theorem keeps_execDbgBootGo (mid : Mid) (second : Bool) (pairs : Word) (s : State) : KeepsOut s (execDbgBootGo mid second pairs s) := by
  unfold execDbgBootGo
  with_reducible repeat' first
    | apply KeepsOut.of_act
    | apply Keeps.trans ?_ (keeps_meshWrite _ _ _ _)
    | intro _
    | apply Keeps.refl

theorem keeps_execDbgBflRead (mid : Mid) (ok : Bool) (s : State) : KeepsOut s (execDbgBflRead mid ok s) := by
  unfold execDbgBflRead
  with_reducible repeat' first
    | apply KeepsOut.of_act
    | apply Keeps.trans ?_ (keeps_flashRequest _ _ _ _ _ _)
    | intro _
    | apply Keeps.refl

theorem keeps_execDbgBflProgram (mid : Mid) (d : List Word) (ok : Bool) (s : State) : KeepsOut s (execDbgBflProgram mid d ok s) := by
  unfold execDbgBflProgram
  with_reducible repeat' first
    | apply KeepsOut.of_act
    | apply Keeps.trans ?_ (keeps_flashRequest _ _ _ _ _ _)
    | intro _
    | apply Keeps.refl

theorem keeps_execDbgBflErase (mid : Mid) (ok : Bool) (s : State) : KeepsOut s (execDbgBflErase mid ok s) := by
  unfold execDbgBflErase
  with_reducible repeat' first
    | apply KeepsOut.of_act
    | apply Keeps.trans ?_ (keeps_flashRequest _ _ _ _ _ _)
    | intro _
    | apply Keeps.refl

theorem keeps_execDbgDout (mid : Mid) (levels : Word) (mask : Word) (s : State) : KeepsOut s (execDbgDout mid levels mask s) := by
  unfold execDbgDout
  with_reducible repeat' first
    | apply KeepsOut.of_act
    | apply Keeps.trans ?_ (keeps_mbxRequest _ _ _ _ _ _ _)
    | intro _
    | apply Keeps.refl

theorem keeps_execTapExtest (pins : BitVec 1874) (shift : BitVec 1874) (s : State) : KeepsOut s (execTapExtest pins shift s) := by
  unfold execTapExtest
  with_reducible repeat' first
    | apply KeepsOut.of_next
    | apply Keeps.trans ?_ (keeps_tapSet _ _ _)
    | apply Keeps.refl

theorem keeps_execTapSamplePreload (pins : BitVec 1874) (shift : BitVec 1874) (s : State) : KeepsOut s (execTapSamplePreload pins shift s) := by
  unfold execTapSamplePreload
  with_reducible repeat' first
    | apply KeepsOut.of_next
    | apply Keeps.trans ?_ (keeps_tapSet _ _ _)
    | apply Keeps.refl

theorem keeps_execTapIdcode (s : State) : KeepsOut s (execTapIdcode s) := by
  unfold execTapIdcode
  with_reducible repeat' first
    | apply KeepsOut.of_next
    | apply Keeps.ite
    | apply Keeps.trans ?_ (keeps_respond _ _)
    | apply Keeps.trans ?_ (keeps_tapSet _ _ _)
    | apply Keeps.refl

theorem keeps_execTapClamp (s : State) : KeepsOut s (execTapClamp s) := by
  unfold execTapClamp
  with_reducible repeat' first
    | apply KeepsOut.of_next
    | apply Keeps.trans ?_ (keeps_tapSet _ _ _)
    | apply Keeps.refl

theorem keeps_execTapHighz (s : State) : KeepsOut s (execTapHighz s) := by
  unfold execTapHighz
  with_reducible repeat' first
    | apply KeepsOut.of_next
    | apply Keeps.trans ?_ (keeps_tapSet _ _ _)
    | apply Keeps.refl

theorem keeps_execTapExtestPulse (pins : BitVec 1874) (shift : BitVec 1874) (s : State) : KeepsOut s (execTapExtestPulse pins shift s) := by
  unfold execTapExtestPulse
  with_reducible repeat' first
    | apply KeepsOut.of_next
    | apply Keeps.trans ?_ (keeps_acSet _ _ _ _ _)
    | apply Keeps.refl

theorem keeps_execTapExtestTrain (pins : BitVec 1874) (shift : BitVec 1874) (s : State) : KeepsOut s (execTapExtestTrain pins shift s) := by
  unfold execTapExtestTrain
  with_reducible repeat' first
    | apply KeepsOut.of_next
    | apply Keeps.trans ?_ (keeps_acSet _ _ _ _ _)
    | apply Keeps.refl

theorem keeps_execTapDbgacc (addr : BitVec 48) (op : MeshOp) (bad : List BadLine) (s : State) : KeepsOut s (execTapDbgacc addr op bad s) := by
  unfold execTapDbgacc
  with_reducible repeat' first
    | apply KeepsOut.of_next
    | apply Keeps.trans ?_ (keeps_dbgAccess _ _ _ _)
    | apply Keeps.refl

theorem keeps_execTapBypass (s : State) : KeepsOut s (execTapBypass s) := by
  unfold execTapBypass
  with_reducible repeat' first
    | apply KeepsOut.of_next
    | apply Keeps.trans ?_ (keeps_tapSet _ _ _)
    | apply Keeps.refl

theorem keeps_execTapPrivate (s : State) : KeepsOut s (execTapPrivate s) := by
  unfold execTapPrivate
  with_reducible repeat' first
    | apply KeepsOut.of_next
    | apply KeepsOut.ite
    | apply KeepsOut.of_fault
    | apply Keeps.trans ?_ (keeps_tapSet _ _ _)
    | apply Keeps.refl

theorem keeps_execDramTrainingComplete (gib : BitVec 9) (s : State) : KeepsOut s (execDramTrainingComplete gib s) := by
  unfold execDramTrainingComplete
  with_reducible repeat' first
    | apply KeepsOut.of_act
    | simp only [Keeps.mk_iff]
    | intro _
    | apply Keeps.refl

end Sys2Proof.Machine
end

