-- ==== Sys2Proof/Laws/KeepExecClock.lean ====
section
/-! SUPPORT. What the commands of Machine/ClockCommands.lean keep: the queue, memory's canonical form and the fuses. -/

set_option Elab.async false

namespace Sys2Proof.Machine

theorem keeps_execClkmonWindow (m : ClkMon) (out : Bool) (s : State) : KeepsOut s (execClkmonWindow m out s) := by
  unfold execClkmonWindow
  with_reducible repeat' first
    | apply KeepsOut.of_next
    | apply Keeps.trans ?_ (keeps_monWindow _ _ _)
    | apply Keeps.refl

theorem keeps_execClockStop (m : ClkMon) (s : State) : KeepsOut s (execClockStop m s) := by
  unfold execClockStop
  with_reducible repeat' first
    | apply KeepsOut.of_next
    | apply Keeps.trans ?_ (keeps_clockStop _ _)
    | apply Keeps.refl

theorem keeps_execPllLockLoss (p : Pll) (s : State) : KeepsOut s (execPllLockLoss p s) := by
  unfold execPllLockLoss
  with_reducible repeat' first
    | apply KeepsOut.of_next
    | apply Keeps.trans ?_ (keeps_pllLoss _ _)
    | apply Keeps.refl

theorem keeps_execPllLocked (p : Pll) (s : State) : KeepsOut s (execPllLocked p s) := by
  unfold execPllLocked
  with_reducible repeat' first
    | apply KeepsOut.of_next
    | apply Keeps.trans ?_ (keeps_laneLock _ _)
    | apply Keeps.trans ?_ (keeps_pllLock _ _)
    | split
    | apply Keeps.refl

theorem keeps_execLanePllLock (m : Fin 16) (s : State) : KeepsOut s (execLanePllLock m s) := by
  unfold execLanePllLock
  with_reducible repeat' first
    | apply KeepsOut.of_next
    | apply Keeps.trans ?_ (keeps_laneLock _ _)
    | apply Keeps.refl

theorem keeps_execPowerGoodRise (s : State) : KeepsOut s (execPowerGoodRise s) := by
  unfold execPowerGoodRise
  with_reducible repeat' first
    | apply KeepsOut.of_next
    | apply Keeps.trans ?_ (keeps_powerRise _)
    | apply Keeps.refl

theorem keeps_execPowerGoodFall (s : State) : KeepsOut s (execPowerGoodFall s) := by
  unfold execPowerGoodFall
  with_reducible repeat' first
    | apply KeepsOut.of_next
    | apply Keeps.trans ?_ (keeps_powerFall _)
    | apply Keeps.refl

theorem keeps_execPorstNLow (s : State) : KeepsOut s (execPorstNLow s) := by
  unfold execPorstNLow
  with_reducible repeat' first
    | apply KeepsOut.of_next
    | apply Keeps.trans ?_ (keeps_porstLow _)
    | apply Keeps.refl

theorem keeps_execPorstNRise (s : State) : KeepsOut s (execPorstNRise s) := by
  unfold execPorstNRise
  with_reducible repeat' first
    | apply KeepsOut.of_next
    | apply Keeps.trans ?_ (keeps_porstRise _)
    | apply Keeps.refl

theorem keeps_execRdSysRelease (s : State) : KeepsOut s (execRdSysRelease s) := by
  unfold execRdSysRelease
  with_reducible repeat' first
    | apply KeepsOut.of_next
    | apply Keeps.trans ?_ (keeps_resetRelease _)
    | apply Keeps.refl

theorem keeps_execCruSysrst (mid : Mid) (key : BitVec 16) (s : State) : KeepsOut s (execCruSysrst mid key s) := by
  unfold execCruSysrst
  with_reducible repeat' first
    | apply KeepsOut.of_act
    | apply Keeps.trans ?_ (keeps_meshWrite _ _ _ _)
    | intro _
    | apply Keeps.refl

theorem keeps_execSystemResetStart (s : State) : KeepsOut s (execSystemResetStart s) := by
  unfold execSystemResetStart
  with_reducible repeat' first
    | apply KeepsOut.of_next
    | apply Keeps.trans ?_ (keeps_resetStart _)
    | apply Keeps.refl

theorem keeps_execSystemWatchdogExpire (s : State) : KeepsOut s (execSystemWatchdogExpire s) := by
  unfold execSystemWatchdogExpire
  with_reducible repeat' first
    | apply KeepsOut.of_next
    | apply Keeps.trans ?_ (keeps_sysWdtExpire _)
    | apply Keeps.refl

theorem keeps_execWatchdogKick (mid : Mid) (s : State) : KeepsOut s (execWatchdogKick mid s) := by
  unfold execWatchdogKick
  with_reducible repeat' first
    | apply KeepsOut.of_act
    | apply Keeps.trans ?_ (keeps_meshWrite _ _ _ _)
    | intro _
    | apply Keeps.refl

theorem keeps_execCruPortRst (mid : Mid) (ports : BitVec 16) (s : State) : KeepsOut s (execCruPortRst mid ports s) := by
  unfold execCruPortRst
  with_reducible repeat' first
    | apply KeepsOut.of_act
    | apply Keeps.trans ?_ (keeps_meshWrite _ _ _ _)
    | intro _
    | apply Keeps.refl

theorem keeps_execLinkUp (m : Fin 16) (s : State) : KeepsOut s (execLinkUp m s) := by
  unfold execLinkUp
  with_reducible repeat' first
    | apply KeepsOut.of_act
    | apply Keeps.trans ?_ (keeps_linkUpEvent _ _)
    | intro _
    | apply Keeps.refl

theorem keeps_execLinkDown (m : Fin 16) (s : State) : KeepsOut s (execLinkDown m s) := by
  unfold execLinkDown
  with_reducible repeat' first
    | apply KeepsOut.of_act
    | apply Keeps.trans ?_ (keeps_linkDownEvent _ _)
    | intro _
    | apply Keeps.refl

theorem keeps_execDebugReset (s : State) : KeepsOut s (execDebugReset s) := by
  unfold execDebugReset
  with_reducible repeat' first
    | apply KeepsOut.of_next
    | apply Keeps.trans ?_ (keeps_debugReset _)
    | apply Keeps.refl

theorem keeps_execSupplyTrip (r : Rail) (absent : Bool) (s : State) : KeepsOut s (execSupplyTrip r absent s) := by
  unfold execSupplyTrip
  with_reducible repeat' first
    | apply KeepsOut.of_next
    | apply Keeps.trans ?_ (keeps_railTrip _ _ _)
    | apply Keeps.refl

theorem keeps_execSupplyRestore (r : Rail) (s : State) : KeepsOut s (execSupplyRestore r s) := by
  unfold execSupplyRestore
  with_reducible repeat' first
    | apply KeepsOut.of_next
    | apply Keeps.trans ?_ (keeps_railRestore _ _)
    | apply Keeps.refl

theorem keeps_execVbatLow (low : Bool) (s : State) : KeepsOut s (execVbatLow low s) := by
  unfold execVbatLow
  with_reducible repeat' first
    | apply KeepsOut.of_next
    | apply Keeps.trans ?_ (keeps_vbatLevel _ _)
    | apply Keeps.refl

theorem keeps_execOrnRstNLow (s : State) : KeepsOut s (execOrnRstNLow s) := by
  unfold execOrnRstNLow
  with_reducible repeat' first
    | apply KeepsOut.of_next
    | apply Keeps.trans ?_ (keeps_ornPinReset _)
    | apply Keeps.refl

theorem keeps_execOrangeryWatchdogExpire (s : State) : KeepsOut s (execOrangeryWatchdogExpire s) := by
  unfold execOrangeryWatchdogExpire
  with_reducible repeat' first
    | apply KeepsOut.of_next
    | apply Keeps.trans ?_ (keeps_ornReset _ _)
    | apply Keeps.refl

theorem keeps_execGrottoReset (s : State) : KeepsOut s (execGrottoReset s) := by
  unfold execGrottoReset
  with_reducible repeat' first
    | apply KeepsOut.of_next
    | apply Keeps.trans ?_ (keeps_grottoReset _)
    | apply Keeps.refl

theorem keeps_execTapReset (s : State) : KeepsOut s (execTapReset s) := by
  unfold execTapReset
  with_reducible repeat' first
    | apply KeepsOut.of_next
    | apply Keeps.trans ?_ (keeps_tapReset _)
    | apply Keeps.refl

theorem keeps_execCrossingGroupReady (g : XGroup) (s : State) : KeepsOut s (execCrossingGroupReady g s) := by
  unfold execCrossingGroupReady
  with_reducible repeat' first
    | apply KeepsOut.of_act
    | apply Keeps.trans ?_ (keeps_groupReady _ _)
    | intro _
    | apply Keeps.refl

theorem keeps_execEventChannelRequest (c : EvChannel) (s : State) : KeepsOut s (execEventChannelRequest c s) := by
  unfold execEventChannelRequest
  with_reducible repeat' first
    | apply KeepsOut.of_act
    | apply Keeps.trans ?_ (keeps_chanRequest _ _)
    | intro _
    | apply Keeps.refl

theorem keeps_execEventChannelDeliver (c : EvChannel) (s : State) : KeepsOut s (execEventChannelDeliver c s) := by
  unfold execEventChannelDeliver
  with_reducible repeat' first
    | apply KeepsOut.of_act
    | apply Keeps.trans ?_ (keeps_chanDeliver _ _)
    | intro _
    | apply Keeps.refl

theorem keeps_execEventChannelAckComplete (c : EvChannel) (s : State) : KeepsOut s (execEventChannelAckComplete c s) := by
  unfold execEventChannelAckComplete
  with_reducible repeat' first
    | apply KeepsOut.of_act
    | apply Keeps.trans ?_ (keeps_chanAck _ _)
    | intro _
    | apply Keeps.refl

theorem keeps_execDoutChannelCommand (levels : Word) (mask : Word) (s : State) : KeepsOut s (execDoutChannelCommand levels mask s) := by
  unfold execDoutChannelCommand
  with_reducible repeat' first
    | apply KeepsOut.of_act
    | apply Keeps.trans ?_ (keeps_doutCommand _ _ _)
    | intro _
    | apply Keeps.refl

theorem keeps_execDoutLatchApply (s : State) : KeepsOut s (execDoutLatchApply s) := by
  unfold execDoutLatchApply
  with_reducible repeat' first
    | apply KeepsOut.of_act
    | apply Keeps.trans ?_ (keeps_doutApply _)
    | intro _
    | apply Keeps.refl

theorem keeps_execShadowRefresh (off : BitVec 26) (s : State) : KeepsOut s (execShadowRefresh off s) := by
  unfold execShadowRefresh
  with_reducible repeat' first
    | apply KeepsOut.of_act
    | apply Keeps.trans ?_ (keeps_shadowRefresh _ _)
    | intro _
    | apply Keeps.refl

end Sys2Proof.Machine
end

