-- ==== Sys2Proof/Laws/KeepExecCycle.lean ====
section
/-! SUPPORT. What the commands of Machine/CycleCommands.lean keep: the queue, memory's canonical form and the fuses. -/

set_option Elab.async false

namespace Sys2Proof.Machine

theorem keeps_execLockstepMismatch (u : LockUnit) (s : State) : KeepsOut s (execLockstepMismatch u s) := by
  unfold execLockstepMismatch
  with_reducible repeat' first
    | apply KeepsOut.of_act
    | apply Keeps.trans ?_ (keeps_lockstepMismatch _ _)
    | intro _
    | apply Keeps.refl

theorem keeps_execCycPairReset (mid : Mid) (k : Fin 48) (s : State) : KeepsOut s (execCycPairReset mid k s) := by
  unfold execCycPairReset
  with_reducible repeat' first
    | apply KeepsOut.of_act
    | apply Keeps.trans ?_ (keeps_meshWrite _ _ _ _)
    | intro _
    | apply Keeps.refl

theorem keeps_execCycNext (mid : Mid) (k : Fin 48) (s : State) : KeepsOut s (execCycNext mid k s) := by
  unfold execCycNext
  with_reducible repeat' first
    | apply KeepsOut.of_act
    | apply Keeps.trans ?_ (keeps_meshRead _ _ _)
    | intro _
    | apply Keeps.refl

theorem keeps_execCycDone (mid : Mid) (k : Fin 48) (c : Fin 16) (p : Fin 1024) (s : State) : KeepsOut s (execCycDone mid k c p s) := by
  unfold execCycDone
  with_reducible repeat' first
    | apply KeepsOut.of_act
    | apply Keeps.trans ?_ (keeps_meshWrite _ _ _ _)
    | intro _
    | apply Keeps.refl

theorem keeps_execCheckpointComplete (s : State) : KeepsOut s (execCheckpointComplete s) := by
  unfold execCheckpointComplete
  with_reducible repeat' first
    | apply KeepsOut.of_act
    | apply Keeps.trans ?_ (keeps_ckptComplete _)
    | intro _
    | apply Keeps.refl

theorem keeps_execCycPvcmdExchange (mid : Mid) (p : Fin 1024) (d : List Word) (s : State) : KeepsOut s (execCycPvcmdExchange mid p d s) := by
  unfold execCycPvcmdExchange
  with_reducible repeat' first
    | apply KeepsOut.of_act
    | apply Keeps.trans ?_ (keeps_mbxRequest _ _ _ _ _ _ _)
    | intro _
    | apply Keeps.refl

theorem keeps_execCycPvcmdRestart (mid : Mid) (p : Fin 1024) (d : List Word) (s : State) : KeepsOut s (execCycPvcmdRestart mid p d s) := by
  unfold execCycPvcmdRestart
  with_reducible repeat' first
    | apply KeepsOut.of_act
    | apply Keeps.trans ?_ (keeps_mbxRequest _ _ _ _ _ _ _)
    | intro _
    | apply Keeps.refl

theorem keeps_execCycForceSet (mid : Mid) (p : Fin 1024) (d : List Word) (s : State) : KeepsOut s (execCycForceSet mid p d s) := by
  unfold execCycForceSet
  with_reducible repeat' first
    | apply KeepsOut.of_act
    | apply Keeps.trans ?_ (keeps_mbxRequest _ _ _ _ _ _ _)
    | intro _
    | apply Keeps.refl

theorem keeps_execCycForceClear (mid : Mid) (p : Fin 1024) (d : List Word) (s : State) : KeepsOut s (execCycForceClear mid p d s) := by
  unfold execCycForceClear
  with_reducible repeat' first
    | apply KeepsOut.of_act
    | apply Keeps.trans ?_ (keeps_mbxRequest _ _ _ _ _ _ _)
    | intro _
    | apply Keeps.refl

theorem keeps_execCycForceRead (mid : Mid) (p : Fin 1024) (d : List Word) (s : State) : KeepsOut s (execCycForceRead mid p d s) := by
  unfold execCycForceRead
  with_reducible repeat' first
    | apply KeepsOut.of_act
    | apply Keeps.trans ?_ (keeps_mbxRequest _ _ _ _ _ _ _)
    | intro _
    | apply Keeps.refl

end Sys2Proof.Machine
end

