-- ==== Sys2Proof/Laws/KeepPortCommands.lean ====
section
/-! SUPPORT. What the operations of Machine/PortCommands.lean keep: the queue, memory's canonical form and the fuses. -/

set_option Elab.async false

namespace Sys2Proof.Machine

theorem keeps_receiveFrame (s : State) (m : Nat) (bs : List Nat) (fcsOk : Bool) (age : Nat) : Keeps s (receiveFrame s m bs fcsOk age) := by
  unfold receiveFrame
  try dsimp only
  with_reducible repeat' first
    | apply Keeps.ite
    | apply Keeps.trans ?_ (keeps_frameReceive _ _ _ _ _)
    | apply Keeps.trans ?_ (keeps_ghbReceive _ _)
    | apply Keeps.refl

end Sys2Proof.Machine
end

