-- ==== Sys2Proof/Laws/KeepFootbridgeCommands.lean ====
section
/-! SUPPORT. What the operations of Machine/FootbridgeCommands.lean keep: the queue, memory's canonical form and the fuses. -/

set_option Elab.async false

namespace Sys2Proof.Machine

theorem keeps_seen (s : State) (type : Nat) (h : FtbHead) (f : State → MsgHead → State) (hf : ∀ t x0, Keeps t (f t x0)) : Keeps s (seen s type h f) := by
  unfold seen
  try dsimp only
  with_reducible repeat' first
    | apply Keeps.trans ?_ (keeps_donorFollow _ _)
    | apply Keeps.trans ?_ (hf _ _)
    | apply Keeps.refl

theorem keeps_control (s : State) (h : FtbHead) (c : FtbCtl) : Keeps s (control s h c) := by
  unfold control
  try dsimp only
  with_reducible repeat' first
    | apply Keeps.ite
    | apply Keeps.trans ?_ (keeps_donorFollow _ _)
    | apply Keeps.trans ?_ (keeps_controlReceive _ _ _)
    | apply Keeps.trans ?_ (keeps_chanPulse _ _)
    | apply Keeps.refl

theorem keeps_eventReceive (s : State) (m : MsgHead) (e : PostedEvent) (key : Nat) (entry : List Nat) : Keeps s (eventReceive s m e key entry) := by
  unfold eventReceive
  try dsimp only
  with_reducible repeat' first
    | apply Keeps.ite
    | apply Keeps.onOk
    | apply KeepsFst.trans ?_ (keeps_msgTake _ _)
    | apply Keeps.trans ?_ (keeps_cinc _ _)
    | apply Keeps.trans ?_ (keeps_batchInsert _ _)
    | intro _
    | apply Keeps.refl

end Sys2Proof.Machine
end

