-- ==== Sys2Proof/Laws/KeepExecFootbridge.lean ====
section
/-! SUPPORT. What the commands of Machine/FootbridgeCommands.lean keep: the queue, memory's canonical form and the fuses. -/

set_option Elab.async false

namespace Sys2Proof.Machine

theorem keeps_execFtbControl (h : FtbHead) (c : FtbCtl) (s : State) : KeepsOut s (execFtbControl h c s) := by
  unfold execFtbControl
  with_reducible repeat' first
    | apply KeepsOut.of_act
    | apply Keeps.trans ?_ (keeps_control _ _ _)
    | intro _
    | apply Keeps.refl

theorem keeps_execFtbDigest (h : FtbHead) (n : BitVec 64) (out : BitVec 128) (inp : BitVec 128) (s : State) : KeepsOut s (execFtbDigest h n out inp s) := by
  unfold execFtbDigest
  with_reducible repeat' first
    | apply KeepsOut.of_act
    | apply Keeps.trans ?_ (keeps_seen _ _ _ _ ?_)
    | apply Keeps.trans ?_ (keeps_digestReceive _ _ _ _ _)
    | intro _
    | apply Keeps.refl

theorem keeps_execFtbSample (h : FtbHead) (recs : List FtbSampleRec) (s : State) : KeepsOut s (execFtbSample h recs s) := by
  unfold execFtbSample
  with_reducible repeat' first
    | apply KeepsOut.of_act
    | apply Keeps.trans ?_ (keeps_seen _ _ _ _ ?_)
    | apply Keeps.trans ?_ (keeps_sampleReceive _ _ _)
    | intro _
    | apply Keeps.refl

theorem keeps_execFtbEvent (h : FtbHead) (e : PostedEvent) (key : BitVec 64) (entry : List Byte) (s : State) : KeepsOut s (execFtbEvent h e key entry s) := by
  unfold execFtbEvent
  with_reducible repeat' first
    | apply KeepsOut.of_act
    | apply Keeps.trans ?_ (keeps_seen _ _ _ _ ?_)
    | apply Keeps.trans ?_ (keeps_eventReceive _ _ _ _ _)
    | intro _
    | apply Keeps.refl

theorem keeps_execFtbJoinData (h : FtbHead) (d : JoinData) (s : State) : KeepsOut s (execFtbJoinData h d s) := by
  unfold execFtbJoinData
  with_reducible repeat' first
    | apply KeepsOut.of_act
    | apply Keeps.trans ?_ (keeps_donorFollow _ _)
    | apply Keeps.trans ?_ (keeps_joinData _ _ _)
    | intro _
    | apply Keeps.refl

theorem keeps_execControlKeepalive (s : State) : KeepsOut s (execControlKeepalive s) := by
  unfold execControlKeepalive
  with_reducible repeat' first
    | apply KeepsOut.of_act
    | apply Keeps.trans ?_ (keeps_keepAlive _)
    | intro _
    | apply Keeps.refl

theorem keeps_execSampleBatchSend (s : State) : KeepsOut s (execSampleBatchSend s) := by
  unfold execSampleBatchSend
  with_reducible repeat' first
    | apply KeepsOut.of_act
    | apply Keeps.trans ?_ (keeps_sampleSend _)
    | intro _
    | apply Keeps.refl

theorem keeps_execPairHbToggle (s : State) : KeepsOut s (execPairHbToggle s) := by
  unfold execPairHbToggle
  with_reducible repeat' first
    | apply KeepsOut.of_act
    | apply Keeps.trans ?_ (keeps_hbToggle _)
    | intro _
    | apply Keeps.refl

theorem keeps_execPairHbInEdge (s : State) : KeepsOut s (execPairHbInEdge s) := by
  unfold execPairHbInEdge
  with_reducible repeat' first
    | apply KeepsOut.of_act
    | apply Keeps.trans ?_ (keeps_hbEdge _)
    | intro _
    | apply Keeps.refl

theorem keeps_execHeartbeatLoss (s : State) : KeepsOut s (execHeartbeatLoss s) := by
  unfold execHeartbeatLoss
  with_reducible repeat' first
    | apply KeepsOut.of_act
    | apply Keeps.trans ?_ (keeps_hbLoss _)
    | intro _
    | apply Keeps.refl

theorem keeps_execFootbridgeLoss (s : State) : KeepsOut s (execFootbridgeLoss s) := by
  unfold execFootbridgeLoss
  with_reducible repeat' first
    | apply KeepsOut.of_act
    | apply Keeps.trans ?_ (keeps_fbLoss _)
    | intro _
    | apply Keeps.refl

theorem keeps_execHeartbeatGooseSend (s : State) : KeepsOut s (execHeartbeatGooseSend s) := by
  unfold execHeartbeatGooseSend
  with_reducible repeat' first
    | apply KeepsOut.of_act
    | apply Keeps.trans ?_ (keeps_ghbTick _)
    | intro _
    | apply Keeps.refl

theorem keeps_execPartnerHeartbeatGoose (m : Fin 16) (bytes : List Byte) (fcsOk : Bool) (age : BitVec 20) (s : State) : KeepsOut s (execPartnerHeartbeatGoose m bytes fcsOk age s) := by
  unfold execPartnerHeartbeatGoose
  with_reducible repeat' first
    | apply KeepsOut.of_act
    | apply Keeps.trans ?_ (keeps_receiveFrame _ _ _ _ _)
    | intro _
    | apply Keeps.refl

theorem keeps_execHeartbeatGooseLoss (s : State) : KeepsOut s (execHeartbeatGooseLoss s) := by
  unfold execHeartbeatGooseLoss
  with_reducible repeat' first
    | apply KeepsOut.of_act
    | apply Keeps.trans ?_ (keeps_ghbLoss _)
    | intro _
    | apply Keeps.refl

theorem keeps_execDigestMissing (s : State) : KeepsOut s (execDigestMissing s) := by
  unfold execDigestMissing
  with_reducible repeat' first
    | apply KeepsOut.of_act
    | apply Keeps.trans ?_ (keeps_digestMissing _)
    | intro _
    | apply Keeps.refl

theorem keeps_execDiagnosisEnd (s : State) : KeepsOut s (execDiagnosisEnd s) := by
  unfold execDiagnosisEnd
  with_reducible repeat' first
    | apply KeepsOut.of_act
    | apply Keeps.trans ?_ (keeps_diagEnd _)
    | intro _
    | apply Keeps.refl

theorem keeps_execBatchCut (s : State) : KeepsOut s (execBatchCut s) := by
  unfold execBatchCut
  with_reducible repeat' first
    | apply KeepsOut.of_act
    | apply Keeps.trans ?_ (keeps_batchCut _)
    | intro _
    | apply Keeps.refl

theorem keeps_execFtbTokenHandover (mid : Mid) (d : List Word) (s : State) : KeepsOut s (execFtbTokenHandover mid d s) := by
  unfold execFtbTokenHandover
  with_reducible repeat' first
    | apply KeepsOut.of_act
    | apply Keeps.trans ?_ (keeps_mbxRequest _ _ _ _ _ _ _)
    | intro _
    | apply Keeps.refl

theorem keeps_execFtbTokenClaim (mid : Mid) (d : List Word) (s : State) : KeepsOut s (execFtbTokenClaim mid d s) := by
  unfold execFtbTokenClaim
  with_reducible repeat' first
    | apply KeepsOut.of_act
    | apply Keeps.trans ?_ (keeps_mbxRequest _ _ _ _ _ _ _)
    | intro _
    | apply Keeps.refl

theorem keeps_execFreezeTimeout (s : State) : KeepsOut s (execFreezeTimeout s) := by
  unfold execFreezeTimeout
  with_reducible repeat' first
    | apply KeepsOut.of_act
    | apply Keeps.trans ?_ (keeps_freezeTimeout _)
    | intro _
    | apply Keeps.refl

theorem keeps_execRevert (s : State) : KeepsOut s (execRevert s) := by
  unfold execRevert
  with_reducible repeat' first
    | apply KeepsOut.of_act
    | apply Keeps.trans ?_ (keeps_ftbRevert _)
    | intro _
    | apply Keeps.refl

theorem keeps_execPairListenEnd (s : State) : KeepsOut s (execPairListenEnd s) := by
  unfold execPairListenEnd
  with_reducible repeat' first
    | apply KeepsOut.of_act
    | apply Keeps.trans ?_ (keeps_listenEnd _)
    | intro _
    | apply Keeps.refl

theorem keeps_execFtbJoin (mid : Mid) (s : State) : KeepsOut s (execFtbJoin mid s) := by
  unfold execFtbJoin
  with_reducible repeat' first
    | apply KeepsOut.of_act
    | apply Keeps.trans ?_ (keeps_mbxRequest _ _ _ _ _ _ _)
    | intro _
    | apply Keeps.refl

theorem keeps_execJoinDataTimeout (s : State) : KeepsOut s (execJoinDataTimeout s) := by
  unfold execJoinDataTimeout
  with_reducible repeat' first
    | apply KeepsOut.of_act
    | apply Keeps.trans ?_ (keeps_joinTimeout _)
    | intro _
    | apply Keeps.refl

theorem keeps_execFtbDigLast (mid : Mid) (s : State) : KeepsOut s (execFtbDigLast mid s) := by
  unfold execFtbDigLast
  with_reducible repeat' first
    | apply KeepsOut.of_act
    | apply Keeps.trans ?_ (keeps_mbxRequest _ _ _ _ _ _ _)
    | intro _
    | apply Keeps.refl

theorem keeps_execFtbDigLastmis (mid : Mid) (s : State) : KeepsOut s (execFtbDigLastmis mid s) := by
  unfold execFtbDigLastmis
  with_reducible repeat' first
    | apply KeepsOut.of_act
    | apply Keeps.trans ?_ (keeps_mbxRequest _ _ _ _ _ _ _)
    | intro _
    | apply Keeps.refl

theorem keeps_execFtbDigLastmisIn (mid : Mid) (s : State) : KeepsOut s (execFtbDigLastmisIn mid s) := by
  unfold execFtbDigLastmisIn
  with_reducible repeat' first
    | apply KeepsOut.of_act
    | apply Keeps.trans ?_ (keeps_mbxRequest _ _ _ _ _ _ _)
    | intro _
    | apply Keeps.refl

end Sys2Proof.Machine
end

