-- ==== Sys2Proof/Laws/KeepExecGatehouse.lean ====
section
/-! SUPPORT. What the commands of Machine/GatehouseCommands.lean keep: the queue, memory's canonical form and the fuses. -/

set_option Elab.async false

namespace Sys2Proof.Machine

theorem keeps_execRootBirthComplete (s : State) : KeepsOut s (execRootBirthComplete s) := by
  unfold execRootBirthComplete
  with_reducible repeat' first
    | apply KeepsOut.of_act
    | apply Keeps.trans ?_ (keeps_rootBirth _)
    | intro _
    | apply Keeps.refl

theorem keeps_execEntropyHealthFail (s : State) : KeepsOut s (execEntropyHealthFail s) := by
  unfold execEntropyHealthFail
  with_reducible repeat' first
    | apply KeepsOut.of_act
    | simp only [Keeps.gth_iff]
    | intro _
    | apply Keeps.refl

theorem keeps_execEntropyHealthPass (s : State) : KeepsOut s (execEntropyHealthPass s) := by
  unfold execEntropyHealthPass
  with_reducible repeat' first
    | apply KeepsOut.of_act
    | simp only [Keeps.gth_iff]
    | intro _
    | apply Keeps.refl

theorem keeps_execGthKeyWrite (mid : Mid) (arg : BitVec 16) (d : List Word) (s : State) : KeepsOut s (execGthKeyWrite mid arg d s) := by
  unfold execGthKeyWrite
  with_reducible repeat' first
    | apply KeepsOut.of_act
    | apply Keeps.trans ?_ (keeps_mbxRequest _ _ _ _ _ _ _)
    | intro _
    | apply Keeps.refl

theorem keeps_execGthKeyRead (mid : Mid) (arg : BitVec 16) (s : State) : KeepsOut s (execGthKeyRead mid arg s) := by
  unfold execGthKeyRead
  with_reducible repeat' first
    | apply KeepsOut.of_act
    | apply Keeps.trans ?_ (keeps_mbxRequest _ _ _ _ _ _ _)
    | intro _
    | apply Keeps.refl

theorem keeps_execGthKeyRevoke (mid : Mid) (arg : BitVec 16) (s : State) : KeepsOut s (execGthKeyRevoke mid arg s) := by
  unfold execGthKeyRevoke
  with_reducible repeat' first
    | apply KeepsOut.of_act
    | apply Keeps.trans ?_ (keeps_mbxRequest _ _ _ _ _ _ _)
    | intro _
    | apply Keeps.refl

theorem keeps_execGthKeyErase (mid : Mid) (arg : BitVec 16) (s : State) : KeepsOut s (execGthKeyErase mid arg s) := by
  unfold execGthKeyErase
  with_reducible repeat' first
    | apply KeepsOut.of_act
    | apply Keeps.trans ?_ (keeps_mbxRequest _ _ _ _ _ _ _)
    | intro _
    | apply Keeps.refl

theorem keeps_execGthKeyLifecycle (mid : Mid) (arg : BitVec 16) (d : List Word) (s : State) : KeepsOut s (execGthKeyLifecycle mid arg d s) := by
  unfold execGthKeyLifecycle
  with_reducible repeat' first
    | apply KeepsOut.of_act
    | apply Keeps.trans ?_ (keeps_mbxRequest _ _ _ _ _ _ _)
    | intro _
    | apply Keeps.refl

theorem keeps_execGthKeyMetroload (mid : Mid) (arg : BitVec 16) (s : State) : KeepsOut s (execGthKeyMetroload mid arg s) := by
  unfold execGthKeyMetroload
  with_reducible repeat' first
    | apply KeepsOut.of_act
    | apply Keeps.trans ?_ (keeps_mbxRequest _ _ _ _ _ _ _)
    | intro _
    | apply Keeps.refl

theorem keeps_execGthKeyFusekey (mid : Mid) (arg : BitVec 16) (d : List Word) (s : State) : KeepsOut s (execGthKeyFusekey mid arg d s) := by
  unfold execGthKeyFusekey
  with_reducible repeat' first
    | apply KeepsOut.of_act
    | apply Keeps.trans ?_ (keeps_mbxRequest _ _ _ _ _ _ _)
    | intro _
    | apply Keeps.refl

theorem keeps_execGthKeyFuserev (mid : Mid) (arg : BitVec 16) (d : List Word) (s : State) : KeepsOut s (execGthKeyFuserev mid arg d s) := by
  unfold execGthKeyFuserev
  with_reducible repeat' first
    | apply KeepsOut.of_act
    | apply Keeps.trans ?_ (keeps_mbxRequest _ _ _ _ _ _ _)
    | intro _
    | apply Keeps.refl

theorem keeps_execGthKeyBootver (mid : Mid) (arg : BitVec 16) (d : List Word) (s : State) : KeepsOut s (execGthKeyBootver mid arg d s) := by
  unfold execGthKeyBootver
  with_reducible repeat' first
    | apply KeepsOut.of_act
    | apply Keeps.trans ?_ (keeps_mbxRequest _ _ _ _ _ _ _)
    | intro _
    | apply Keeps.refl

theorem keeps_execKeyStoreValid (s : State) : KeepsOut s (execKeyStoreValid s) := by
  unfold execKeyStoreValid
  with_reducible repeat' first
    | apply KeepsOut.of_act
    | apply Keeps.trans ?_ (keeps_keyStoreValid _)
    | intro _
    | apply Keeps.refl

theorem keeps_execKeyStoreLoad (s : State) : KeepsOut s (execKeyStoreLoad s) := by
  unfold execKeyStoreLoad
  with_reducible repeat' first
    | apply KeepsOut.of_act
    | apply Keeps.trans ?_ (keeps_keyStoreLoad _)
    | intro _
    | apply Keeps.refl

theorem keeps_execGthReqGmac (mid : Mid) (k : Fin 48) (arg : BitVec 16) (d : List Word) (s : State) : KeepsOut s (execGthReqGmac mid k arg d s) := by
  unfold execGthReqGmac
  with_reducible repeat' first
    | apply KeepsOut.of_act
    | apply Keeps.trans ?_ (keeps_mbxRequest _ _ _ _ _ _ _)
    | intro _
    | apply Keeps.refl

theorem keeps_execGthReqGmacchk (mid : Mid) (k : Fin 48) (arg : BitVec 16) (d : List Word) (s : State) : KeepsOut s (execGthReqGmacchk mid k arg d s) := by
  unfold execGthReqGmacchk
  with_reducible repeat' first
    | apply KeepsOut.of_act
    | apply Keeps.trans ?_ (keeps_mbxRequest _ _ _ _ _ _ _)
    | intro _
    | apply Keeps.refl

theorem keeps_execGthReqHmac (mid : Mid) (k : Fin 48) (arg : BitVec 16) (d : List Word) (s : State) : KeepsOut s (execGthReqHmac mid k arg d s) := by
  unfold execGthReqHmac
  with_reducible repeat' first
    | apply KeepsOut.of_act
    | apply Keeps.trans ?_ (keeps_mbxRequest _ _ _ _ _ _ _)
    | intro _
    | apply Keeps.refl

theorem keeps_execGthReqVerify (mid : Mid) (k : Fin 48) (arg : BitVec 16) (d : List Word) (s : State) : KeepsOut s (execGthReqVerify mid k arg d s) := by
  unfold execGthReqVerify
  with_reducible repeat' first
    | apply KeepsOut.of_act
    | apply Keeps.trans ?_ (keeps_mbxRequest _ _ _ _ _ _ _)
    | intro _
    | apply Keeps.refl

theorem keeps_execGthReqSealtag (mid : Mid) (k : Fin 48) (arg : BitVec 16) (d : List Word) (s : State) : KeepsOut s (execGthReqSealtag mid k arg d s) := by
  unfold execGthReqSealtag
  with_reducible repeat' first
    | apply KeepsOut.of_act
    | apply Keeps.trans ?_ (keeps_mbxRequest _ _ _ _ _ _ _)
    | intro _
    | apply Keeps.refl

theorem keeps_execGthDbgChallenge (mid : Mid) (s : State) : KeepsOut s (execGthDbgChallenge mid s) := by
  unfold execGthDbgChallenge
  with_reducible repeat' first
    | apply KeepsOut.of_act
    | apply Keeps.trans ?_ (keeps_mbxRequest _ _ _ _ _ _ _)
    | intro _
    | apply Keeps.refl

theorem keeps_execGthDbgUnlock (mid : Mid) (arg : BitVec 16) (d : List Word) (s : State) : KeepsOut s (execGthDbgUnlock mid arg d s) := by
  unfold execGthDbgUnlock
  with_reducible repeat' first
    | apply KeepsOut.of_act
    | apply Keeps.trans ?_ (keeps_mbxRequest _ _ _ _ _ _ _)
    | intro _
    | apply Keeps.refl

end Sys2Proof.Machine
end

