-- ==== Sys2Proof/Laws/KeepHerbariumCommands.lean ====
section
/-! SUPPORT. What the operations of Machine/HerbariumCommands.lean keep: the queue, memory's canonical form and the fuses. -/

set_option Elab.async false

namespace Sys2Proof.Machine

theorem keeps_recordClose (s : State) : Keeps s (recordClose s) := by
  unfold recordClose
  try dsimp only
  with_reducible repeat' first
    | apply Keeps.ite
    | apply Keeps.trans ?_ (keeps_hrbPump _)
    | simp only [Keeps.mk_iff]
    | apply Keeps.refl

end Sys2Proof.Machine
end

