-- ==== Sys2Proof/Laws/KeepExecHerbarium.lean ====
section
/-! SUPPORT. What the commands of Machine/HerbariumCommands.lean keep: the queue, memory's canonical form and the fuses. -/

set_option Elab.async false

namespace Sys2Proof.Machine

theorem keeps_execHerbariumEvent (type : BitVec 16) (src : BitVec 16) (args : List Word) (s : State) : KeepsOut s (execHerbariumEvent type src args s) := by
  unfold execHerbariumEvent
  with_reducible repeat' first
    | apply KeepsOut.of_act
    | apply Keeps.ite
    | apply Keeps.trans ?_ (keeps_recordExcl _ _ _ _)
    | apply Keeps.trans ?_ (keeps_record _ _ _ _)
    | dsimp only
    | intro _
    | apply Keeps.refl

theorem keeps_execRecordCloseTimeout (s : State) : KeepsOut s (execRecordCloseTimeout s) := by
  unfold execRecordCloseTimeout
  with_reducible repeat' first
    | apply KeepsOut.of_act
    | apply Keeps.trans ?_ (keeps_recordClose _)
    | intro _
    | apply Keeps.refl

theorem keeps_execFlashProgramDone (ok : Bool) (s : State) : KeepsOut s (execFlashProgramDone ok s) := by
  unfold execFlashProgramDone
  with_reducible repeat' first
    | apply KeepsOut.of_act
    | apply Keeps.trans ?_ (keeps_flashFault _ _)
    | apply Keeps.trans ?_ (keeps_flashProgramDone _ _)
    | intro _
    | apply Keeps.refl

theorem keeps_execFlashEraseDone (ok : Bool) (s : State) : KeepsOut s (execFlashEraseDone ok s) := by
  unfold execFlashEraseDone
  with_reducible repeat' first
    | apply KeepsOut.of_act
    | apply Keeps.trans ?_ (keeps_flashFault _ _)
    | apply Keeps.trans ?_ (keeps_flashEraseDone _ _)
    | intro _
    | apply Keeps.refl

theorem keeps_execHrbFreeze (mid : Mid) (s : State) : KeepsOut s (execHrbFreeze mid s) := by
  unfold execHrbFreeze
  with_reducible repeat' first
    | apply KeepsOut.of_act
    | apply Keeps.trans ?_ (keeps_meshWrite _ _ _ _)
    | intro _
    | apply Keeps.refl

theorem keeps_execHrbUnfreeze (mid : Mid) (s : State) : KeepsOut s (execHrbUnfreeze mid s) := by
  unfold execHrbUnfreeze
  with_reducible repeat' first
    | apply KeepsOut.of_act
    | apply Keeps.trans ?_ (keeps_meshWrite _ _ _ _)
    | intro _
    | apply Keeps.refl

theorem keeps_execHerbariumScan (s : State) : KeepsOut s (execHerbariumScan s) := by
  unfold execHerbariumScan
  with_reducible repeat' first
    | apply KeepsOut.of_act
    | apply Keeps.ite
    | apply Keeps.trans ?_ (keeps_hrbScan _)
    | intro _
    | apply Keeps.refl

theorem keeps_execHrbRead (mid : Mid) (part : Fin 8) (s : State) : KeepsOut s (execHrbRead mid part s) := by
  unfold execHrbRead
  with_reducible repeat' first
    | apply KeepsOut.of_act
    | apply Keeps.trans ?_ (keeps_mbxRequest _ _ _ _ _ _ _)
    | intro _
    | apply Keeps.refl

theorem keeps_execHrbSnapSet (mid : Mid) (arg : BitVec 16) (d : List Word) (s : State) : KeepsOut s (execHrbSnapSet mid arg d s) := by
  unfold execHrbSnapSet
  with_reducible repeat' first
    | apply KeepsOut.of_act
    | apply Keeps.trans ?_ (keeps_mbxRequest _ _ _ _ _ _ _)
    | intro _
    | apply Keeps.refl

theorem keeps_execHrbSnapSethi (mid : Mid) (arg : BitVec 16) (d : List Word) (s : State) : KeepsOut s (execHrbSnapSethi mid arg d s) := by
  unfold execHrbSnapSethi
  with_reducible repeat' first
    | apply KeepsOut.of_act
    | apply Keeps.trans ?_ (keeps_mbxRequest _ _ _ _ _ _ _)
    | intro _
    | apply Keeps.refl

theorem keeps_execHrbSnapSetlast (mid : Mid) (arg : BitVec 16) (d : List Word) (s : State) : KeepsOut s (execHrbSnapSetlast mid arg d s) := by
  unfold execHrbSnapSetlast
  with_reducible repeat' first
    | apply KeepsOut.of_act
    | apply Keeps.trans ?_ (keeps_mbxRequest _ _ _ _ _ _ _)
    | intro _
    | apply Keeps.refl

theorem keeps_execHrbSnapRead (mid : Mid) (arg : BitVec 16) (s : State) : KeepsOut s (execHrbSnapRead mid arg s) := by
  unfold execHrbSnapRead
  with_reducible repeat' first
    | apply KeepsOut.of_act
    | apply Keeps.trans ?_ (keeps_mbxRequest _ _ _ _ _ _ _)
    | intro _
    | apply Keeps.refl

theorem keeps_execHrbLog (mid : Mid) (arg : BitVec 16) (d : List Word) (s : State) : KeepsOut s (execHrbLog mid arg d s) := by
  unfold execHrbLog
  with_reducible repeat' first
    | apply KeepsOut.of_act
    | apply Keeps.trans ?_ (keeps_mbxRequest _ _ _ _ _ _ _)
    | intro _
    | apply Keeps.refl

end Sys2Proof.Machine
end

