-- ==== Sys2Proof/Laws/KeepExecIngest.lean ====
section
/-! SUPPORT. What the commands of Machine/IngestCommands.lean keep: the queue, memory's canonical form and the fuses. -/

set_option Elab.async false

namespace Sys2Proof.Machine

theorem keeps_execSvFrameIngest (s : State) : KeepsOut s (execSvFrameIngest s) := by
  unfold execSvFrameIngest
  with_reducible repeat' first
    | apply KeepsOut.of_act
    | apply Keeps.trans ?_ (keeps_sviIngest _)
    | intro _
    | apply Keeps.refl

theorem keeps_execStreamLostTimeout (k : Fin 2048) (s : State) : KeepsOut s (execStreamLostTimeout k s) := by
  unfold execStreamLostTimeout
  with_reducible repeat' first
    | apply KeepsOut.of_act
    | apply Keeps.trans ?_ (keeps_streamTimeout _ _)
    | intro _
    | apply Keeps.refl

theorem keeps_execAlignmentRelease (g : Fin 256) (s : State) : KeepsOut s (execAlignmentRelease g s) := by
  unfold execAlignmentRelease
  with_reducible repeat' first
    | apply KeepsOut.of_act
    | apply Keeps.trans ?_ (keeps_blvDrain _)
    | apply Keeps.trans ?_ (keeps_alignRelease _ _)
    | intro _
    | apply Keeps.refl

theorem keeps_execSviDescWrite (mid : Mid) (k : Fin 2048) (d : List Word) (s : State) : KeepsOut s (execSviDescWrite mid k d s) := by
  unfold execSviDescWrite
  with_reducible repeat' first
    | apply KeepsOut.of_act
    | apply Keeps.trans ?_ (keeps_mbxRequest _ _ _ _ _ _ _)
    | intro _
    | apply Keeps.refl

theorem keeps_execSviDescRead (mid : Mid) (k : Fin 2048) (s : State) : KeepsOut s (execSviDescRead mid k s) := by
  unfold execSviDescRead
  with_reducible repeat' first
    | apply KeepsOut.of_act
    | apply Keeps.trans ?_ (keeps_mbxRequest _ _ _ _ _ _ _)
    | intro _
    | apply Keeps.refl

theorem keeps_execSviDescDisable (mid : Mid) (k : Fin 2048) (s : State) : KeepsOut s (execSviDescDisable mid k s) := by
  unfold execSviDescDisable
  with_reducible repeat' first
    | apply KeepsOut.of_act
    | apply Keeps.trans ?_ (keeps_mbxRequest _ _ _ _ _ _ _)
    | intro _
    | apply Keeps.refl

theorem keeps_execSviScntRead (mid : Mid) (k : Fin 2048) (s : State) : KeepsOut s (execSviScntRead mid k s) := by
  unfold execSviScntRead
  with_reducible repeat' first
    | apply KeepsOut.of_act
    | apply Keeps.trans ?_ (keeps_mbxRequest _ _ _ _ _ _ _)
    | intro _
    | apply Keeps.refl

theorem keeps_execSviScntSub (mid : Mid) (k : Fin 2048) (d : List Word) (s : State) : KeepsOut s (execSviScntSub mid k d s) := by
  unfold execSviScntSub
  with_reducible repeat' first
    | apply KeepsOut.of_act
    | apply Keeps.trans ?_ (keeps_mbxRequest _ _ _ _ _ _ _)
    | intro _
    | apply Keeps.refl

end Sys2Proof.Machine
end

