-- ==== Sys2Proof/Laws/KeepExecIntegrity.lean ====
section
/-! SUPPORT. What the commands of Machine/IntegrityCommands.lean keep: the queue, memory's canonical form and the fuses. -/

set_option Elab.async false

namespace Sys2Proof.Machine

theorem keeps_execDramScrubStep (j : Fin 32) (errs : List (List (Fin 20))) (s : State) : KeepsOut s (execDramScrubStep j errs s) := by
  unfold execDramScrubStep
  with_reducible repeat' first
    | apply KeepsOut.of_act
    | apply Keeps.trans ?_ (keeps_dramScrub _ _ _)
    | intro _
    | apply Keeps.refl

theorem keeps_execOnchipScrubStep (u : Fin 16) (bank : Byte) (item : Nat) (f : FoundState) (s : State) : KeepsOut s (execOnchipScrubStep u bank item f s) := by
  unfold execOnchipScrubStep
  with_reducible repeat' first
    | apply KeepsOut.of_act
    | apply Keeps.trans ?_ (keeps_onchipScrub _ _ _ _ _)
    | intro _
    | apply Keeps.refl

theorem keeps_execRegisterSweep (fixed : List (BitVec 28)) (lost : List (BitVec 28)) (found : CopyCheck) (s : State) : KeepsOut s (execRegisterSweep fixed lost found s) := by
  unfold execRegisterSweep
  with_reducible repeat' first
    | apply KeepsOut.of_act
    | apply Keeps.trans ?_ (keeps_copiesAtUse _ _ _)
    | apply Keeps.trans ?_ (keeps_registerSweep _ _ _ _)
    | dsimp only
    | intro _
    | split
    | apply Keeps.refl

theorem keeps_execGatehouseMemoryCompare (fixed : List (Fin 4096)) (lost : List (Fin 4096)) (cache : List (Fin 4096)) (s : State) : KeepsOut s (execGatehouseMemoryCompare fixed lost cache s) := by
  unfold execGatehouseMemoryCompare
  with_reducible repeat' first
    | apply KeepsOut.of_act
    | apply Keeps.trans ?_ (keeps_gthCompare _ _ _ _)
    | intro _
    | apply Keeps.refl

theorem keeps_execBackgroundLate (n : Fin 5) (s : State) : KeepsOut s (execBackgroundLate n s) := by
  unfold execBackgroundLate
  with_reducible repeat' first
    | apply KeepsOut.of_act
    | apply Keeps.trans ?_ (keeps_bgLate _ _)
    | intro _
    | apply Keeps.refl

theorem keeps_execMemMarkset (mid : Mid) (data : Word) (s : State) : KeepsOut s (execMemMarkset mid data s) := by
  unfold execMemMarkset
  with_reducible repeat' first
    | apply KeepsOut.of_act
    | apply Keeps.trans ?_ (keeps_meshWrite _ _ _ _)
    | intro _
    | apply Keeps.refl

theorem keeps_execTelemetrySend (s : State) : KeepsOut s (execTelemetrySend s) := by
  unfold execTelemetrySend
  with_reducible repeat' first
    | apply KeepsOut.of_act
    | apply Keeps.trans ?_ (keeps_telemetry _)
    | intro _
    | apply Keeps.refl

end Sys2Proof.Machine
end

