-- ==== Sys2Proof/Laws/KeepLanternCommands.lean ====
section
/-! SUPPORT. What the operations of Machine/LanternCommands.lean keep: the queue, memory's canonical form and the fuses. -/

set_option Elab.async false

namespace Sys2Proof.Machine

theorem keeps_processSet (s : State) : Keeps s (processSet s) := by
  unfold processSet
  try dsimp only
  with_reducible repeat' first
    | apply Keeps.trans ?_ (keeps_blvPoints _ _ _)
    | apply Keeps.trans ?_ (keeps_casTake _ _)
    | simp only [Keeps.mk_iff]
    | split
    | apply Keeps.refl

end Sys2Proof.Machine
end

