-- ==== Sys2Proof/Laws/KeepExecLantern.lean ====
section
/-! SUPPORT. What the commands of Machine/LanternCommands.lean keep: the queue, memory's canonical form and the fuses. -/

set_option Elab.async false

namespace Sys2Proof.Machine

theorem keeps_execCascadeProcessSet (s : State) : KeepsOut s (execCascadeProcessSet s) := by
  unfold execCascadeProcessSet
  with_reducible repeat' first
    | apply KeepsOut.of_act
    | apply Keeps.trans ?_ (keeps_processSet _)
    | intro _
    | apply Keeps.refl

theorem keeps_execCasSyncGo (mid : Mid) (out : Bool) (s : State) : KeepsOut s (execCasSyncGo mid out s) := by
  unfold execCasSyncGo
  with_reducible repeat' first
    | apply KeepsOut.of_act
    | apply Keeps.trans ?_ (keeps_meshWrite _ _ _ _)
    | intro _
    | apply Keeps.refl

theorem keeps_execSyncInEdge (s : State) : KeepsOut s (execSyncInEdge s) := by
  unfold execSyncInEdge
  with_reducible repeat' first
    | apply KeepsOut.of_act
    | apply Keeps.trans ?_ (keeps_syncIn _)
    | intro _
    | apply Keeps.refl

theorem keeps_execSyncOutFall (s : State) : KeepsOut s (execSyncOutFall s) := by
  unfold execSyncOutFall
  with_reducible repeat' first
    | apply KeepsOut.of_act
    | apply Keeps.trans ?_ (keeps_syncOutFall _)
    | intro _
    | apply Keeps.refl

theorem keeps_execCasRespCoef (mid : Mid) (r : Fin 32) (minPhase : Bool) (part : Fin 4) (s : State) : KeepsOut s (execCasRespCoef mid r minPhase part s) := by
  unfold execCasRespCoef
  with_reducible repeat' first
    | apply KeepsOut.of_act
    | apply Keeps.trans ?_ (keeps_mbxRequest _ _ _ _ _ _ _)
    | intro _
    | apply Keeps.refl

theorem keeps_execCasRespInfo (mid : Mid) (r : Fin 32) (minPhase : Bool) (s : State) : KeepsOut s (execCasRespInfo mid r minPhase s) := by
  unfold execCasRespInfo
  with_reducible repeat' first
    | apply KeepsOut.of_act
    | apply Keeps.trans ?_ (keeps_mbxRequest _ _ _ _ _ _ _)
    | intro _
    | apply Keeps.refl

theorem keeps_execLtnTripWrite (mid : Mid) (t : Fin 8192) (d : List Word) (s : State) : KeepsOut s (execLtnTripWrite mid t d s) := by
  unfold execLtnTripWrite
  with_reducible repeat' first
    | apply KeepsOut.of_act
    | apply Keeps.trans ?_ (keeps_mbxRequest _ _ _ _ _ _ _)
    | intro _
    | apply Keeps.refl

theorem keeps_execLtnTripRead (mid : Mid) (t : Fin 8192) (s : State) : KeepsOut s (execLtnTripRead mid t s) := by
  unfold execLtnTripRead
  with_reducible repeat' first
    | apply KeepsOut.of_act
    | apply Keeps.trans ?_ (keeps_mbxRequest _ _ _ _ _ _ _)
    | intro _
    | apply Keeps.refl

theorem keeps_execLtnTripDisable (mid : Mid) (t : Fin 8192) (s : State) : KeepsOut s (execLtnTripDisable mid t s) := by
  unfold execLtnTripDisable
  with_reducible repeat' first
    | apply KeepsOut.of_act
    | apply Keeps.trans ?_ (keeps_mbxRequest _ _ _ _ _ _ _)
    | intro _
    | apply Keeps.refl

end Sys2Proof.Machine
end

