-- ==== Sys2Proof/Laws/KeepExecOrangery.lean ====
section
/-! SUPPORT. What the commands of Machine/OrangeryCommands.lean keep: the queue, memory's canonical form and the fuses. -/

set_option Elab.async false

namespace Sys2Proof.Machine

theorem keeps_execTapWordReceive (w : TapWord) (s : State) : KeepsOut s (execTapWordReceive w s) := by
  unfold execTapWordReceive
  with_reducible repeat' first
    | apply KeepsOut.of_next
    | apply Keeps.trans ?_ (keeps_tapReceive _ _)
    | apply Keeps.refl

theorem keeps_execIntervalCompute (s : State) : KeepsOut s (execIntervalCompute s) := by
  unfold execIntervalCompute
  with_reducible repeat' first
    | apply KeepsOut.of_next
    | apply Keeps.trans ?_ (keeps_intervalCompute _)
    | apply Keeps.refl

theorem keeps_execIntervalBoundaryApply (s : State) : KeepsOut s (execIntervalBoundaryApply s) := by
  unfold execIntervalBoundaryApply
  with_reducible repeat' first
    | apply KeepsOut.of_next
    | apply Keeps.trans ?_ (keeps_boundaryApply _)
    | apply Keeps.refl

theorem keeps_execPulseEmit (k : Fin 4) (s : State) : KeepsOut s (execPulseEmit k s) := by
  unfold execPulseEmit
  with_reducible repeat' first
    | apply KeepsOut.of_next
    | apply Keeps.trans ?_ (keeps_pulseEmit _ _)
    | apply Keeps.refl

theorem keeps_execOrnCircuit (mid : Mid) (arg : BitVec 16) (d : List Word) (s : State) : KeepsOut s (execOrnCircuit mid arg d s) := by
  unfold execOrnCircuit
  with_reducible repeat' first
    | apply KeepsOut.of_act
    | apply Keeps.trans ?_ (keeps_mbxRequest _ _ _ _ _ _ _)
    | intro _
    | apply Keeps.refl

theorem keeps_execOrnCorrCh (mid : Mid) (arg : BitVec 16) (d : List Word) (s : State) : KeepsOut s (execOrnCorrCh mid arg d s) := by
  unfold execOrnCorrCh
  with_reducible repeat' first
    | apply KeepsOut.of_act
    | apply Keeps.trans ?_ (keeps_mbxRequest _ _ _ _ _ _ _)
    | intro _
    | apply Keeps.refl

theorem keeps_execOrnCorrQ (mid : Mid) (arg : BitVec 16) (d : List Word) (s : State) : KeepsOut s (execOrnCorrQ mid arg d s) := by
  unfold execOrnCorrQ
  with_reducible repeat' first
    | apply KeepsOut.of_act
    | apply Keeps.trans ?_ (keeps_mbxRequest _ _ _ _ _ _ _)
    | intro _
    | apply Keeps.refl

theorem keeps_execOrnPulseAssign (mid : Mid) (arg : BitVec 16) (d : List Word) (s : State) : KeepsOut s (execOrnPulseAssign mid arg d s) := by
  unfold execOrnPulseAssign
  with_reducible repeat' first
    | apply KeepsOut.of_act
    | apply Keeps.trans ?_ (keeps_mbxRequest _ _ _ _ _ _ _)
    | intro _
    | apply Keeps.refl

theorem keeps_execOrnParam (mid : Mid) (arg : BitVec 16) (d : List Word) (s : State) : KeepsOut s (execOrnParam mid arg d s) := by
  unfold execOrnParam
  with_reducible repeat' first
    | apply KeepsOut.of_act
    | apply Keeps.trans ?_ (keeps_mbxRequest _ _ _ _ _ _ _)
    | intro _
    | apply Keeps.refl

theorem keeps_execOrnOpen (mid : Mid) (arg : BitVec 16) (d : List Word) (s : State) : KeepsOut s (execOrnOpen mid arg d s) := by
  unfold execOrnOpen
  with_reducible repeat' first
    | apply KeepsOut.of_act
    | apply Keeps.trans ?_ (keeps_mbxRequest _ _ _ _ _ _ _)
    | intro _
    | apply Keeps.refl

theorem keeps_execOrnClose (mid : Mid) (s : State) : KeepsOut s (execOrnClose mid s) := by
  unfold execOrnClose
  with_reducible repeat' first
    | apply KeepsOut.of_act
    | apply Keeps.trans ?_ (keeps_mbxRequest _ _ _ _ _ _ _)
    | intro _
    | apply Keeps.refl

theorem keeps_execOrnFwload (mid : Mid) (arg : BitVec 16) (d : List Word) (s : State) : KeepsOut s (execOrnFwload mid arg d s) := by
  unfold execOrnFwload
  with_reducible repeat' first
    | apply KeepsOut.of_act
    | apply Keeps.trans ?_ (keeps_mbxRequest _ _ _ _ _ _ _)
    | intro _
    | apply Keeps.refl

theorem keeps_execOrnFwact (mid : Mid) (arg : BitVec 16) (d : List Word) (s : State) : KeepsOut s (execOrnFwact mid arg d s) := by
  unfold execOrnFwact
  with_reducible repeat' first
    | apply KeepsOut.of_act
    | apply Keeps.trans ?_ (keeps_mbxRequest _ _ _ _ _ _ _)
    | intro _
    | apply Keeps.refl

theorem keeps_execOrnKeyload (mid : Mid) (arg : BitVec 16) (d : List Word) (s : State) : KeepsOut s (execOrnKeyload mid arg d s) := by
  unfold execOrnKeyload
  with_reducible repeat' first
    | apply KeepsOut.of_act
    | apply Keeps.trans ?_ (keeps_mbxRequest _ _ _ _ _ _ _)
    | intro _
    | apply Keeps.refl

theorem keeps_execOrnSave (mid : Mid) (s : State) : KeepsOut s (execOrnSave mid s) := by
  unfold execOrnSave
  with_reducible repeat' first
    | apply KeepsOut.of_act
    | apply Keeps.trans ?_ (keeps_mbxRequest _ _ _ _ _ _ _)
    | intro _
    | apply Keeps.refl

theorem keeps_execOrnDiagclr (mid : Mid) (arg : BitVec 16) (s : State) : KeepsOut s (execOrnDiagclr mid arg s) := by
  unfold execOrnDiagclr
  with_reducible repeat' first
    | apply KeepsOut.of_act
    | apply Keeps.trans ?_ (keeps_mbxRequest _ _ _ _ _ _ _)
    | intro _
    | apply Keeps.refl

theorem keeps_execOrnEnergyA (mid : Mid) (second : Bool) (arg : BitVec 16) (s : State) : KeepsOut s (execOrnEnergyA mid second arg s) := by
  unfold execOrnEnergyA
  with_reducible repeat' first
    | apply KeepsOut.of_act
    | apply Keeps.trans ?_ (keeps_mbxRequest _ _ _ _ _ _ _)
    | intro _
    | apply Keeps.refl

theorem keeps_execOrnEnergyR (mid : Mid) (second : Bool) (arg : BitVec 16) (s : State) : KeepsOut s (execOrnEnergyR mid second arg s) := by
  unfold execOrnEnergyR
  with_reducible repeat' first
    | apply KeepsOut.of_act
    | apply Keeps.trans ?_ (keeps_mbxRequest _ _ _ _ _ _ _)
    | intro _
    | apply Keeps.refl

theorem keeps_execOrnInstant (mid : Mid) (second : Bool) (arg : BitVec 16) (s : State) : KeepsOut s (execOrnInstant mid second arg s) := by
  unfold execOrnInstant
  with_reducible repeat' first
    | apply KeepsOut.of_act
    | apply Keeps.trans ?_ (keeps_mbxRequest _ _ _ _ _ _ _)
    | intro _
    | apply Keeps.refl

theorem keeps_execOrnId (mid : Mid) (second : Bool) (s : State) : KeepsOut s (execOrnId mid second s) := by
  unfold execOrnId
  with_reducible repeat' first
    | apply KeepsOut.of_act
    | apply Keeps.trans ?_ (keeps_mbxRequest _ _ _ _ _ _ _)
    | intro _
    | apply Keeps.refl

theorem keeps_execOrnChallenge (mid : Mid) (second : Bool) (s : State) : KeepsOut s (execOrnChallenge mid second s) := by
  unfold execOrnChallenge
  with_reducible repeat' first
    | apply KeepsOut.of_act
    | apply Keeps.trans ?_ (keeps_mbxRequest _ _ _ _ _ _ _)
    | intro _
    | apply Keeps.refl

theorem keeps_execOrnCircuitRead (mid : Mid) (second : Bool) (arg : BitVec 16) (s : State) : KeepsOut s (execOrnCircuitRead mid second arg s) := by
  unfold execOrnCircuitRead
  with_reducible repeat' first
    | apply KeepsOut.of_act
    | apply Keeps.trans ?_ (keeps_mbxRequest _ _ _ _ _ _ _)
    | intro _
    | apply Keeps.refl

theorem keeps_execOrnCorrRead (mid : Mid) (second : Bool) (ofCircuit : Bool) (arg : BitVec 16) (s : State) : KeepsOut s (execOrnCorrRead mid second ofCircuit arg s) := by
  unfold execOrnCorrRead
  with_reducible repeat' first
    | apply KeepsOut.of_act
    | apply Keeps.trans ?_ (keeps_mbxRequest _ _ _ _ _ _ _)
    | intro _
    | apply Keeps.refl

theorem keeps_execOrnPulseRead (mid : Mid) (second : Bool) (arg : BitVec 16) (s : State) : KeepsOut s (execOrnPulseRead mid second arg s) := by
  unfold execOrnPulseRead
  with_reducible repeat' first
    | apply KeepsOut.of_act
    | apply Keeps.trans ?_ (keeps_mbxRequest _ _ _ _ _ _ _)
    | intro _
    | apply Keeps.refl

theorem keeps_execOrnParamRead (mid : Mid) (second : Bool) (s : State) : KeepsOut s (execOrnParamRead mid second s) := by
  unfold execOrnParamRead
  with_reducible repeat' first
    | apply KeepsOut.of_act
    | apply Keeps.trans ?_ (keeps_mbxRequest _ _ _ _ _ _ _)
    | intro _
    | apply Keeps.refl

theorem keeps_execOrnAudit (mid : Mid) (second : Bool) (arg : BitVec 16) (s : State) : KeepsOut s (execOrnAudit mid second arg s) := by
  unfold execOrnAudit
  with_reducible repeat' first
    | apply KeepsOut.of_act
    | apply Keeps.trans ?_ (keeps_mbxRequest _ _ _ _ _ _ _)
    | intro _
    | apply Keeps.refl

theorem keeps_execOrnLosshdr (mid : Mid) (second : Bool) (arg : BitVec 16) (s : State) : KeepsOut s (execOrnLosshdr mid second arg s) := by
  unfold execOrnLosshdr
  with_reducible repeat' first
    | apply KeepsOut.of_act
    | apply Keeps.trans ?_ (keeps_mbxRequest _ _ _ _ _ _ _)
    | intro _
    | apply Keeps.refl

theorem keeps_execOrnLosscir (mid : Mid) (second : Bool) (arg : BitVec 16) (s : State) : KeepsOut s (execOrnLosscir mid second arg s) := by
  unfold execOrnLosscir
  with_reducible repeat' first
    | apply KeepsOut.of_act
    | apply Keeps.trans ?_ (keeps_mbxRequest _ _ _ _ _ _ _)
    | intro _
    | apply Keeps.refl

theorem keeps_execOrnDiag (mid : Mid) (second : Bool) (arg : BitVec 16) (s : State) : KeepsOut s (execOrnDiag mid second arg s) := by
  unfold execOrnDiag
  with_reducible repeat' first
    | apply KeepsOut.of_act
    | apply Keeps.trans ?_ (keeps_mbxRequest _ _ _ _ _ _ _)
    | intro _
    | apply Keeps.refl

theorem keeps_execOrangeryStart (bankOk : Bool) (s : State) : KeepsOut s (execOrangeryStart bankOk s) := by
  unfold execOrangeryStart
  with_reducible repeat' first
    | apply KeepsOut.of_next
    | apply Keeps.trans ?_ (keeps_ornStart _ _)
    | apply Keeps.refl

theorem keeps_execSealPinChange (low : Bool) (s : State) : KeepsOut s (execSealPinChange low s) := by
  unfold execSealPinChange
  with_reducible repeat' first
    | apply KeepsOut.of_next
    | apply Keeps.trans ?_ (keeps_sealPinChange _ _)
    | apply Keeps.refl

theorem keeps_execSealTimeout (s : State) : KeepsOut s (execSealTimeout s) := by
  unfold execSealTimeout
  with_reducible repeat' first
    | apply KeepsOut.of_next
    | apply Keeps.trans ?_ (keeps_sealTimeout _)
    | apply Keeps.refl

theorem keeps_execLockoutEnd (s : State) : KeepsOut s (execLockoutEnd s) := by
  unfold execLockoutEnd
  with_reducible repeat' first
    | apply KeepsOut.of_next
    | apply Keeps.trans ?_ (keeps_lockoutEnd _)
    | apply Keeps.refl

theorem keeps_execOscillatorTrim (refOk : Bool) (s : State) : KeepsOut s (execOscillatorTrim refOk s) := by
  unfold execOscillatorTrim
  with_reducible repeat' first
    | apply KeepsOut.of_next
    | apply Keeps.trans ?_ (keeps_oscillatorTrim _ _)
    | apply Keeps.refl

end Sys2Proof.Machine
end

