-- ==== Sys2Proof/Laws/KeepExecParterre.lean ====
section
/-! SUPPORT. What the commands of Machine/ParterreCommands.lean keep: the queue, memory's canonical form and the fuses. -/

set_option Elab.async false

namespace Sys2Proof.Machine

theorem keeps_execRegisterWrite (mid : Mid) (off : BitVec 26) (data : Word) (s : State) : KeepsOut s (execRegisterWrite mid off data s) := by
  unfold execRegisterWrite
  with_reducible repeat' first
    | apply KeepsOut.of_act
    | apply Keeps.trans ?_ (keeps_meshWrite _ _ _ _)
    | intro _
    | apply Keeps.refl

theorem keeps_execPageEnable (mid : Mid) (page : BitVec 16) (on : Bool) (s : State) : KeepsOut s (execPageEnable mid page on s) := by
  unfold execPageEnable
  with_reducible repeat' first
    | apply KeepsOut.of_act
    | apply Keeps.trans ?_ (keeps_meshWrite _ _ _ _)
    | dsimp only
    | intro _
    | apply Keeps.refl

theorem keeps_execBlockSoftReset (mid : Mid) (page : BitVec 16) (s : State) : KeepsOut s (execBlockSoftReset mid page s) := by
  unfold execBlockSoftReset
  with_reducible repeat' first
    | apply KeepsOut.of_act
    | apply Keeps.trans ?_ (keeps_meshWrite _ _ _ _)
    | dsimp only
    | intro _
    | apply Keeps.refl

theorem keeps_execPageLock (mid : Mid) (page : BitVec 16) (s : State) : KeepsOut s (execPageLock mid page s) := by
  unfold execPageLock
  with_reducible repeat' first
    | apply KeepsOut.of_act
    | apply Keeps.trans ?_ (keeps_meshWrite _ _ _ _)
    | intro _
    | apply Keeps.refl

theorem keeps_execPageUnlock (mid : Mid) (page : BitVec 16) (s : State) : KeepsOut s (execPageUnlock mid page s) := by
  unfold execPageUnlock
  with_reducible repeat' first
    | apply KeepsOut.of_act
    | apply Keeps.trans ?_ (keeps_meshWrite _ _ _ _)
    | intro _
    | apply Keeps.refl

theorem keeps_execCounterAcknowledge (mid : Mid) (off : BitVec 26) (seen : Word) (s : State) : KeepsOut s (execCounterAcknowledge mid off seen s) := by
  unfold execCounterAcknowledge
  with_reducible repeat' first
    | apply KeepsOut.of_act
    | apply Keeps.trans ?_ (keeps_meshWrite _ _ _ _)
    | intro _
    | apply Keeps.refl

theorem keeps_execBufferedWrite (mid : Mid) (off : BitVec 26) (data : Word) (s : State) : KeepsOut s (execBufferedWrite mid off data s) := by
  unfold execBufferedWrite
  with_reducible repeat' first
    | apply KeepsOut.of_act
    | apply Keeps.trans ?_ (keeps_meshWrite _ _ _ _)
    | intro _
    | apply Keeps.refl

theorem keeps_execMailboxAck (mid : Mid) (mbx : BitVec 22) (s : State) : KeepsOut s (execMailboxAck mid mbx s) := by
  unfold execMailboxAck
  with_reducible repeat' first
    | apply KeepsOut.of_act
    | apply Keeps.trans ?_ (keeps_meshWrite _ _ _ _)
    | intro _
    | apply Keeps.refl

theorem keeps_execSysStrobe (mid : Mid) (groups : BitVec 16) (s : State) : KeepsOut s (execSysStrobe mid groups s) := by
  unfold execSysStrobe
  with_reducible repeat' first
    | apply KeepsOut.of_act
    | apply Keeps.trans ?_ (keeps_meshWrite _ _ _ _)
    | intro _
    | apply Keeps.refl

theorem keeps_execStrobeApply (s : State) : KeepsOut s (execStrobeApply s) := by
  unfold execStrobeApply
  with_reducible repeat' first
    | apply KeepsOut.of_act
    | apply Keeps.trans ?_ (keeps_strobesDue _)
    | intro _
    | apply Keeps.refl

theorem keeps_execSysStrobeTick (mid : Mid) (groups : BitVec 16) (s : State) : KeepsOut s (execSysStrobeTick mid groups s) := by
  unfold execSysStrobeTick
  with_reducible repeat' first
    | apply KeepsOut.of_act
    | apply Keeps.trans ?_ (keeps_meshWrite _ _ _ _)
    | intro _
    | apply Keeps.refl

theorem keeps_execStrbAcknowledge (off : BitVec 26) (s : State) : KeepsOut s (execStrbAcknowledge off s) := by
  unfold execStrbAcknowledge
  with_reducible repeat' first
    | apply KeepsOut.of_act
    | apply Keeps.trans ?_ (keeps_strobeAck _ _)
    | intro _
    | apply Keeps.refl

theorem keeps_execMeshTransaction (mid : Mid) (addr : BitVec 48) (op : MeshOp) (bad : List BadLine) (s : State) : KeepsOut s (execMeshTransaction mid addr op bad s) := by
  unfold execMeshTransaction
  with_reducible repeat' first
    | apply KeepsOut.of_act
    | apply Keeps.trans ?_ (keeps_meshAccess _ _ _ _ _)
    | intro _
    | apply Keeps.refl

theorem keeps_execTxBegin (mid : Mid) (n : Fin 4) (s : State) : KeepsOut s (execTxBegin mid n s) := by
  unfold execTxBegin
  with_reducible repeat' first
    | apply KeepsOut.of_act
    | apply Keeps.trans ?_ (keeps_meshWrite _ _ _ _)
    | intro _
    | apply Keeps.refl

theorem keeps_execTxClaim (mid : Mid) (n : Fin 4) (page : BitVec 16) (s : State) : KeepsOut s (execTxClaim mid n page s) := by
  unfold execTxClaim
  with_reducible repeat' first
    | apply KeepsOut.of_act
    | apply Keeps.trans ?_ (keeps_meshWrite _ _ _ _)
    | intro _
    | apply Keeps.refl

theorem keeps_execTxStagedWrite (mid : Mid) (off : BitVec 26) (data : Word) (s : State) : KeepsOut s (execTxStagedWrite mid off data s) := by
  unfold execTxStagedWrite
  with_reducible repeat' first
    | apply KeepsOut.of_act
    | apply Keeps.trans ?_ (keeps_meshWrite _ _ _ _)
    | intro _
    | apply Keeps.refl

theorem keeps_execTxCommit (mid : Mid) (n : Fin 4) (s : State) : KeepsOut s (execTxCommit mid n s) := by
  unfold execTxCommit
  with_reducible repeat' first
    | apply KeepsOut.of_act
    | apply Keeps.trans ?_ (keeps_meshWrite _ _ _ _)
    | intro _
    | apply Keeps.refl

theorem keeps_execTxCommitAt (mid : Mid) (n : Fin 4) (tick : Word) (s : State) : KeepsOut s (execTxCommitAt mid n tick s) := by
  unfold execTxCommitAt
  with_reducible repeat' first
    | apply KeepsOut.of_act
    | apply Keeps.trans ?_ (keeps_meshWrite _ _ _ _)
    | intro _
    | apply Keeps.refl

theorem keeps_execTxRollback (mid : Mid) (n : Fin 4) (s : State) : KeepsOut s (execTxRollback mid n s) := by
  unfold execTxRollback
  with_reducible repeat' first
    | apply KeepsOut.of_act
    | apply Keeps.trans ?_ (keeps_meshWrite _ _ _ _)
    | intro _
    | apply Keeps.refl

theorem keeps_execTxStoppedApply (s : State) : KeepsOut s (execTxStoppedApply s) := by
  unfold execTxStoppedApply
  with_reducible repeat' first
    | apply KeepsOut.of_act
    | apply Keeps.trans ?_ (keeps_stoppedApply _)
    | intro _
    | apply Keeps.refl

end Sys2Proof.Machine
end

