-- ==== Sys2Proof/Laws/KeepExecPavilion.lean ====
section
/-! SUPPORT. What the commands of Machine/PavilionCommands.lean keep: the queue, memory's canonical form and the fuses. -/

set_option Elab.async false

namespace Sys2Proof.Machine

theorem keeps_execPavReset (mid : Mid) (p : Fin 1024) (s : State) : KeepsOut s (execPavReset mid p s) := by
  unfold execPavReset
  with_reducible repeat' first
    | apply KeepsOut.of_act
    | apply Keeps.trans ?_ (keeps_meshWrite _ _ _ _)
    | intro _
    | apply Keeps.refl

theorem keeps_execPavilionResetComplete (p : Fin 1024) (s : State) : KeepsOut s (execPavilionResetComplete p s) := by
  unfold execPavilionResetComplete
  with_reducible repeat' first
    | apply KeepsOut.of_act
    | apply Keeps.trans ?_ (keeps_pavResetDone _ _)
    | intro _
    | apply Keeps.refl

theorem keeps_execShareExhausted (p : Fin 1024) (s : State) : KeepsOut s (execShareExhausted p s) := by
  unfold execShareExhausted
  with_reducible repeat' first
    | apply KeepsOut.of_act
    | apply Keeps.trans ?_ (keeps_shareExhausted _ _)
    | intro _
    | apply Keeps.refl

theorem keeps_execPavWdtExpire (p : Fin 1024) (s : State) : KeepsOut s (execPavWdtExpire p s) := by
  unfold execPavWdtExpire
  with_reducible repeat' first
    | apply KeepsOut.of_act
    | apply Keeps.trans ?_ (keeps_wdtExpire _ _)
    | intro _
    | apply Keeps.refl

theorem keeps_execPavKick (mid : Mid) (p : Fin 1024) (s : State) : KeepsOut s (execPavKick mid p s) := by
  unfold execPavKick
  with_reducible repeat' first
    | apply KeepsOut.of_act
    | apply Keeps.trans ?_ (keeps_meshWrite _ _ _ _)
    | intro _
    | apply Keeps.refl

theorem keeps_execPavMigFreeze (mid : Mid) (p : Fin 1024) (d : List Word) (s : State) : KeepsOut s (execPavMigFreeze mid p d s) := by
  unfold execPavMigFreeze
  with_reducible repeat' first
    | apply KeepsOut.of_act
    | apply Keeps.trans ?_ (keeps_mbxRequest _ _ _ _ _ _ _)
    | intro _
    | apply Keeps.refl

theorem keeps_execPavMigSave (mid : Mid) (p : Fin 1024) (d : List Word) (s : State) : KeepsOut s (execPavMigSave mid p d s) := by
  unfold execPavMigSave
  with_reducible repeat' first
    | apply KeepsOut.of_act
    | apply Keeps.trans ?_ (keeps_mbxRequest _ _ _ _ _ _ _)
    | intro _
    | apply Keeps.refl

theorem keeps_execPavMigRestore (mid : Mid) (p : Fin 1024) (d : List Word) (s : State) : KeepsOut s (execPavMigRestore mid p d s) := by
  unfold execPavMigRestore
  with_reducible repeat' first
    | apply KeepsOut.of_act
    | apply Keeps.trans ?_ (keeps_mbxRequest _ _ _ _ _ _ _)
    | intro _
    | apply Keeps.refl

theorem keeps_execPavMigThaw (mid : Mid) (p : Fin 1024) (d : List Word) (s : State) : KeepsOut s (execPavMigThaw mid p d s) := by
  unfold execPavMigThaw
  with_reducible repeat' first
    | apply KeepsOut.of_act
    | apply Keeps.trans ?_ (keeps_mbxRequest _ _ _ _ _ _ _)
    | intro _
    | apply Keeps.refl

theorem keeps_execPavMigDiscard (mid : Mid) (p : Fin 1024) (d : List Word) (s : State) : KeepsOut s (execPavMigDiscard mid p d s) := by
  unfold execPavMigDiscard
  with_reducible repeat' first
    | apply KeepsOut.of_act
    | apply Keeps.trans ?_ (keeps_mbxRequest _ _ _ _ _ _ _)
    | intro _
    | apply Keeps.refl

theorem keeps_execSaveComplete (p : Fin 1024) (s : State) : KeepsOut s (execSaveComplete p s) := by
  unfold execSaveComplete
  with_reducible repeat' first
    | apply KeepsOut.of_act
    | apply Keeps.trans ?_ (keeps_saveComplete _ _)
    | intro _
    | apply Keeps.refl

end Sys2Proof.Machine
end

