-- ==== Sys2Proof/Laws/KeepExecPort.lean ====
section
/-! SUPPORT. What the commands of Machine/PortCommands.lean keep: the queue, memory's canonical form and the fuses. -/

set_option Elab.async false

namespace Sys2Proof.Machine

theorem keeps_execFrameReceive (m : Fin 16) (bytes : List Byte) (fcsOk : Bool) (age : BitVec 20) (s : State) : KeepsOut s (execFrameReceive m bytes fcsOk age s) := by
  unfold execFrameReceive
  with_reducible repeat' first
    | apply KeepsOut.of_act
    | apply Keeps.trans ?_ (keeps_receiveFrame _ _ _ _ _)
    | intro _
    | apply Keeps.refl

theorem keeps_execPauseExpire (m : Fin 16) (s : State) : KeepsOut s (execPauseExpire m s) := by
  unfold execPauseExpire
  with_reducible repeat' first
    | apply KeepsOut.of_act
    | apply Keeps.trans ?_ (keeps_pauseExpire _ _)
    | intro _
    | apply Keeps.refl

theorem keeps_execDupEntryForget (m : Fin 16) (src : BitVec 48) (s : State) : KeepsOut s (execDupEntryForget m src s) := by
  unfold execDupEntryForget
  with_reducible repeat' first
    | apply KeepsOut.of_act
    | apply Keeps.trans ?_ (keeps_dupForget _ _ _)
    | intro _
    | apply Keeps.refl

theorem keeps_execFrameTransmit (m : Fin 16) (s : State) : KeepsOut s (execFrameTransmit m s) := by
  unfold execFrameTransmit
  with_reducible repeat' first
    | apply KeepsOut.of_act
    | apply Keeps.trans ?_ (keeps_frameTransmit _ _)
    | intro _
    | apply Keeps.refl

theorem keeps_execGateChange (m : Fin 16) (s : State) : KeepsOut s (execGateChange m s) := by
  unfold execGateChange
  with_reducible repeat' first
    | apply KeepsOut.of_act
    | apply Keeps.trans ?_ (keeps_gateChange _ _)
    | intro _
    | apply Keeps.refl

theorem keeps_execMacGclSw (mid : Mid) (m : Fin 16) (d : List Word) (s : State) : KeepsOut s (execMacGclSw mid m d s) := by
  unfold execMacGclSw
  with_reducible repeat' first
    | apply KeepsOut.of_act
    | apply Keeps.trans ?_ (keeps_mbxRequest _ _ _ _ _ _ _)
    | intro _
    | apply Keeps.refl

theorem keeps_execGclSwitch (m : Fin 16) (s : State) : KeepsOut s (execGclSwitch m s) := by
  unfold execGclSwitch
  with_reducible repeat' first
    | apply KeepsOut.of_act
    | apply Keeps.trans ?_ (keeps_gclSwitch _ _)
    | intro _
    | apply Keeps.refl

theorem keeps_execMacExactWrite (mid : Mid) (m : Fin 16) (entry : Fin 64) (d : List Word) (s : State) : KeepsOut s (execMacExactWrite mid m entry d s) := by
  unfold execMacExactWrite
  with_reducible repeat' first
    | apply KeepsOut.of_act
    | apply Keeps.trans ?_ (keeps_mbxRequest _ _ _ _ _ _ _)
    | intro _
    | apply Keeps.refl

theorem keeps_execMacExactRead (mid : Mid) (m : Fin 16) (entry : Fin 64) (s : State) : KeepsOut s (execMacExactRead mid m entry s) := by
  unfold execMacExactRead
  with_reducible repeat' first
    | apply KeepsOut.of_act
    | apply Keeps.trans ?_ (keeps_mbxRequest _ _ _ _ _ _ _)
    | intro _
    | apply Keeps.refl

theorem keeps_execGpbStart (mid : Mid) (k : Fin 4096) (s : State) : KeepsOut s (execGpbStart mid k s) := by
  unfold execGpbStart
  with_reducible repeat' first
    | apply KeepsOut.of_act
    | apply Keeps.trans ?_ (keeps_mbxRequest _ _ _ _ _ _ _)
    | intro _
    | apply Keeps.refl

theorem keeps_execGpbStop (mid : Mid) (k : Fin 4096) (s : State) : KeepsOut s (execGpbStop mid k s) := by
  unfold execGpbStop
  with_reducible repeat' first
    | apply KeepsOut.of_act
    | apply Keeps.trans ?_ (keeps_mbxRequest _ _ _ _ _ _ _)
    | intro _
    | apply Keeps.refl

theorem keeps_execGpbPublish (mid : Mid) (k : Fin 4096) (s : State) : KeepsOut s (execGpbPublish mid k s) := by
  unfold execGpbPublish
  with_reducible repeat' first
    | apply KeepsOut.of_act
    | apply Keeps.trans ?_ (keeps_mbxRequest _ _ _ _ _ _ _)
    | intro _
    | apply Keeps.refl

theorem keeps_execGpbRead (mid : Mid) (k : Fin 4096) (s : State) : KeepsOut s (execGpbRead mid k s) := by
  unfold execGpbRead
  with_reducible repeat' first
    | apply KeepsOut.of_act
    | apply Keeps.trans ?_ (keeps_mbxRequest _ _ _ _ _ _ _)
    | intro _
    | apply Keeps.refl

theorem keeps_execGooseRetransmit (k : Fin 4096) (s : State) : KeepsOut s (execGooseRetransmit k s) := by
  unfold execGooseRetransmit
  with_reducible repeat' first
    | apply KeepsOut.of_act
    | apply Keeps.trans ?_ (keeps_gooseRetransmit _ _)
    | intro _
    | apply Keeps.refl

theorem keeps_execGooseSubFrame (s : State) : KeepsOut s (execGooseSubFrame s) := by
  unfold execGooseSubFrame
  with_reducible repeat' first
    | apply KeepsOut.of_act
    | apply Keeps.trans ?_ (keeps_gooseSubFrame _)
    | intro _
    | apply Keeps.refl

theorem keeps_execGooseExpire (n : Fin 4096) (s : State) : KeepsOut s (execGooseExpire n s) := by
  unfold execGooseExpire
  with_reducible repeat' first
    | apply KeepsOut.of_act
    | apply Keeps.trans ?_ (keeps_gooseExpire _ _)
    | intro _
    | apply Keeps.refl

theorem keeps_execGsbSubWrite (mid : Mid) (n : Fin 4096) (d : List Word) (s : State) : KeepsOut s (execGsbSubWrite mid n d s) := by
  unfold execGsbSubWrite
  with_reducible repeat' first
    | apply KeepsOut.of_act
    | apply Keeps.trans ?_ (keeps_mbxRequest _ _ _ _ _ _ _)
    | intro _
    | apply Keeps.refl

theorem keeps_execGsbSubRead (mid : Mid) (n : Fin 4096) (s : State) : KeepsOut s (execGsbSubRead mid n s) := by
  unfold execGsbSubRead
  with_reducible repeat' first
    | apply KeepsOut.of_act
    | apply Keeps.trans ?_ (keeps_mbxRequest _ _ _ _ _ _ _)
    | intro _
    | apply Keeps.refl

theorem keeps_execGsbSubDisable (mid : Mid) (n : Fin 4096) (s : State) : KeepsOut s (execGsbSubDisable mid n s) := by
  unfold execGsbSubDisable
  with_reducible repeat' first
    | apply KeepsOut.of_act
    | apply Keeps.trans ?_ (keeps_mbxRequest _ _ _ _ _ _ _)
    | intro _
    | apply Keeps.refl

theorem keeps_execGsbStateRead (mid : Mid) (n : Fin 4096) (s : State) : KeepsOut s (execGsbStateRead mid n s) := by
  unfold execGsbStateRead
  with_reducible repeat' first
    | apply KeepsOut.of_act
    | apply Keeps.trans ?_ (keeps_mbxRequest _ _ _ _ _ _ _)
    | intro _
    | apply Keeps.refl

end Sys2Proof.Machine
end

