-- ==== Sys2Proof/Laws/KeepSundialCommands.lean ====
section
/-! SUPPORT. What the operations of Machine/SundialCommands.lean keep: the queue, memory's canonical form and the fuses. -/

set_option Elab.async false

namespace Sys2Proof.Machine

theorem keeps_ppsRise (s : State) : Keeps s (ppsRise s) := by
  unfold ppsRise
  try dsimp only
  with_reducible repeat' first
    | apply Keeps.ite
    | simp only [Keeps.mk_iff]
    | apply Keeps.refl

theorem keeps_ppsFall (s : State) : Keeps s (ppsFall s) := by
  unfold ppsFall
  try dsimp only
  with_reducible repeat' first
    | apply Keeps.ite
    | simp only [Keeps.mk_iff]
    | apply Keeps.refl

theorem keeps_tickOutFall (s : State) : Keeps s (tickOutFall s) := by
  unfold tickOutFall
  try dsimp only
  with_reducible repeat' first
    | apply Keeps.ite
    | simp only [Keeps.mk_iff]
    | apply Keeps.refl

theorem keeps_ppsInEdge (s : State) : Keeps s (ppsInEdge s) := by
  unfold ppsInEdge
  try dsimp only
  with_reducible repeat' first
    | apply Keeps.ite
    | apply Keeps.trans ?_ (keeps_cinc _ _)
    | simp only [Keeps.mk_iff]
    | apply Keeps.refl

theorem keeps_tokenLate (s : State) (n : Nat) : Keeps s (tokenLate s n) := by
  unfold tokenLate
  try dsimp only
  with_reducible repeat' first
    | apply Keeps.ite
    | apply Keeps.trans ?_ (keeps_reqEnd _ _ _)
    | apply Keeps.trans ?_ (keeps_mbxEndIfBusy _ _ _)
    | apply Keeps.trans ?_ (keeps_setFtb _ _)
    | split
    | apply Keeps.refl

theorem keeps_tickEdge (s : State) : Keeps s (tickEdge s) := by
  unfold tickEdge
  try dsimp only
  with_reducible repeat' first
    | apply Keeps.ite
    | apply Keeps.trans ?_ (keeps_sundialEdge _)
    | apply Keeps.trans ?_ (keeps_tokenLate _ _)
    | apply Keeps.trans ?_ (keeps_angleSweep _)
    | apply Keeps.trans ?_ (keeps_casSundialEdge _ _)
    | apply Keeps.trans ?_ (keeps_ftbSundialEdge _ _)
    | apply Keeps.refl

theorem keeps_edgeBefore (s : State) (n : Nat) (first : Bool) (times : List (Nat × Nat)) : Keeps s (edgeBefore s n first times) := by
  unfold edgeBefore
  try dsimp only
  with_reducible repeat' first
    | apply Keeps.ite
    | apply Keeps.trans ?_ (keeps_pavsEdge _ _)
    | apply Keeps.trans ?_ (keeps_lateSlots _ _)
    | apply Keeps.trans ?_ (keeps_lateRequests _ _)
    | apply Keeps.refl

theorem keeps_edgeCommit (s : State) (n : Nat) : Keeps s (edgeCommit s n) := by
  unfold edgeCommit
  try dsimp only
  with_reducible repeat' first
    | apply Keeps.trans ?_ (keeps_edgeApply _ _)
    | apply Keeps.trans ?_ (keeps_syncEdge _ _)
    | apply Keeps.trans ?_ (keeps_seqEdge _ _)
    | apply Keeps.refl

theorem keeps_edgeAfter (s : State) (n : Nat) (f : Nat) : Keeps s (edgeAfter s n f) := by
  unfold edgeAfter
  try dsimp only
  with_reducible repeat' first
    | apply Keeps.trans ?_ (keeps_ftbFabricEdge _)
    | apply Keeps.trans ?_ (keeps_tripEdge _)
    | apply Keeps.trans ?_ (keeps_sviFabricEdge _ _ _)
    | apply Keeps.trans ?_ (keeps_blvTick _ _ _)
    | apply Keeps.refl

theorem keeps_edgePassed (s : State) (n : Nat) : Keeps s (edgePassed s n) := by
  unfold edgePassed
  try dsimp only
  with_reducible repeat' first
    | simp only [Keeps.mk_iff]
    | apply Keeps.refl

theorem keeps_fabricEdge (s : State) (times : List (Nat × Nat)) : Keeps s (fabricEdge s times) := by
  unfold fabricEdge
  try dsimp only
  with_reducible repeat' first
    | apply Keeps.ite
    | apply Keeps.trans ?_ (keeps_stopEnd _)
    | apply Keeps.trans ?_ (keeps_edgePassed _ _)
    | apply Keeps.trans ?_ (keeps_edgeAfter _ _ _)
    | apply Keeps.trans ?_ (keeps_edgeCommit _ _)
    | apply Keeps.trans ?_ (keeps_edgeBefore _ _ _ _)
    | simp only [Keeps.mk_iff]
    | split
    | apply Keeps.refl

theorem keeps_trackerTimeout (s : State) : Keeps s (trackerTimeout s) := by
  unfold trackerTimeout
  try dsimp only
  with_reducible repeat' first
    | apply Keeps.ite
    | apply Keeps.trans ?_ (keeps_publish _)
    | apply Keeps.trans ?_ (keeps_angleSweep _)
    | apply Keeps.trans ?_ (keeps_alarmsEdge _)
    | apply Keeps.trans ?_ (keeps_alarmsHold _)
    | apply Keeps.trans ?_ (keeps_trackRecord _ _)
    | apply Keeps.trans ?_ (keeps_cinc _ _)
    | simp only [Keeps.mk_iff]
    | apply Keeps.refl

theorem keeps_holdoverTimeout (s : State) : Keeps s (holdoverTimeout s) := by
  unfold holdoverTimeout
  try dsimp only
  with_reducible repeat' first
    | apply Keeps.ite
    | apply Keeps.trans ?_ (keeps_angleSweep _)
    | apply Keeps.trans ?_ (keeps_enterAcquire _)
    | apply Keeps.refl

end Sys2Proof.Machine
end

