-- ==== Sys2Proof/Laws/KeepExecSundial.lean ====
section
/-! SUPPORT. What the commands of Machine/SundialCommands.lean keep: the queue, memory's canonical form and the fuses. -/

set_option Elab.async false

namespace Sys2Proof.Machine

theorem keeps_execSdlTimeNow (mid : Mid) (s : State) : KeepsOut s (execSdlTimeNow mid s) := by
  unfold execSdlTimeNow
  with_reducible repeat' first
    | apply KeepsOut.of_act
    | apply Keeps.trans ?_ (keeps_mbxRequest _ _ _ _ _ _ _)
    | intro _
    | apply Keeps.refl

theorem keeps_execSdlTimePpsin (mid : Mid) (s : State) : KeepsOut s (execSdlTimePpsin mid s) := by
  unfold execSdlTimePpsin
  with_reducible repeat' first
    | apply KeepsOut.of_act
    | apply Keeps.trans ?_ (keeps_mbxRequest _ _ _ _ _ _ _)
    | intro _
    | apply Keeps.refl

theorem keeps_execSdlAdjSet (mid : Mid) (arg : BitVec 16) (d : List Word) (s : State) : KeepsOut s (execSdlAdjSet mid arg d s) := by
  unfold execSdlAdjSet
  with_reducible repeat' first
    | apply KeepsOut.of_act
    | apply Keeps.trans ?_ (keeps_mbxRequest _ _ _ _ _ _ _)
    | intro _
    | apply Keeps.refl

theorem keeps_execSdlAdjStep (mid : Mid) (arg : BitVec 16) (d : List Word) (s : State) : KeepsOut s (execSdlAdjStep mid arg d s) := by
  unfold execSdlAdjStep
  with_reducible repeat' first
    | apply KeepsOut.of_act
    | apply Keeps.trans ?_ (keeps_mbxRequest _ _ _ _ _ _ _)
    | intro _
    | apply Keeps.refl

theorem keeps_execSdlAdjIncr (mid : Mid) (arg : BitVec 16) (d : List Word) (s : State) : KeepsOut s (execSdlAdjIncr mid arg d s) := by
  unfold execSdlAdjIncr
  with_reducible repeat' first
    | apply KeepsOut.of_act
    | apply Keeps.trans ?_ (keeps_mbxRequest _ _ _ _ _ _ _)
    | intro _
    | apply Keeps.refl

theorem keeps_execAdjustApply (s : State) : KeepsOut s (execAdjustApply s) := by
  unfold execAdjustApply
  with_reducible repeat' first
    | apply KeepsOut.of_act
    | apply Keeps.trans ?_ (keeps_angleSweep _)
    | apply Keeps.trans ?_ (keeps_adjApply _)
    | intro _
    | apply Keeps.refl

theorem keeps_execTickGeneratorStart (mid : Mid) (s : State) : KeepsOut s (execTickGeneratorStart mid s) := by
  unfold execTickGeneratorStart
  with_reducible repeat' first
    | apply KeepsOut.of_act
    | apply Keeps.trans ?_ (keeps_meshWrite _ _ _ _)
    | intro _
    | apply Keeps.refl

theorem keeps_execTickGeneratorStop (mid : Mid) (s : State) : KeepsOut s (execTickGeneratorStop mid s) := by
  unfold execTickGeneratorStop
  with_reducible repeat' first
    | apply KeepsOut.of_act
    | apply Keeps.trans ?_ (keeps_meshWrite _ _ _ _)
    | intro _
    | apply Keeps.refl

theorem keeps_execSundialTickEdge (s : State) : KeepsOut s (execSundialTickEdge s) := by
  unfold execSundialTickEdge
  with_reducible repeat' first
    | apply KeepsOut.of_act
    | apply Keeps.trans ?_ (keeps_tickEdge _)
    | intro _
    | apply Keeps.refl

theorem keeps_execFabricTickEdge (times : List (Fin 1024 × BitVec 20)) (s : State) : KeepsOut s (execFabricTickEdge times s) := by
  unfold execFabricTickEdge
  with_reducible repeat' first
    | apply KeepsOut.of_act
    | apply Keeps.trans ?_ (keeps_fabricEdge _ _)
    | intro _
    | apply Keeps.refl

theorem keeps_execBaseRateChange (s : State) : KeepsOut s (execBaseRateChange s) := by
  unfold execBaseRateChange
  with_reducible repeat' first
    | apply KeepsOut.of_act
    | apply Keeps.trans ?_ (keeps_baseRateChange _)
    | intro _
    | apply Keeps.refl

theorem keeps_execPpsOutRise (s : State) : KeepsOut s (execPpsOutRise s) := by
  unfold execPpsOutRise
  with_reducible repeat' first
    | apply KeepsOut.of_act
    | apply Keeps.trans ?_ (keeps_ppsRise _)
    | intro _
    | apply Keeps.refl

theorem keeps_execPpsOutFall (s : State) : KeepsOut s (execPpsOutFall s) := by
  unfold execPpsOutFall
  with_reducible repeat' first
    | apply KeepsOut.of_act
    | apply Keeps.trans ?_ (keeps_ppsFall _)
    | intro _
    | apply Keeps.refl

theorem keeps_execTickOutFall (s : State) : KeepsOut s (execTickOutFall s) := by
  unfold execTickOutFall
  with_reducible repeat' first
    | apply KeepsOut.of_act
    | apply Keeps.trans ?_ (keeps_tickOutFall _)
    | intro _
    | apply Keeps.refl

theorem keeps_execPpsInEdge (s : State) : KeepsOut s (execPpsInEdge s) := by
  unfold execPpsInEdge
  with_reducible repeat' first
    | apply KeepsOut.of_act
    | apply Keeps.trans ?_ (keeps_ppsInEdge _)
    | intro _
    | apply Keeps.refl

theorem keeps_execTimestampRingPop (mid : Mid) (m : Fin 16) (s : State) : KeepsOut s (execTimestampRingPop mid m s) := by
  unfold execTimestampRingPop
  with_reducible repeat' first
    | apply KeepsOut.of_act
    | apply Keeps.trans ?_ (keeps_mbxRequest _ _ _ _ _ _ _)
    | intro _
    | apply Keeps.refl

theorem keeps_execLaunchLateDrop (m : Fin 16) (c : Fin 8) (s : State) : KeepsOut s (execLaunchLateDrop m c s) := by
  unfold execLaunchLateDrop
  with_reducible repeat' first
    | apply KeepsOut.of_act
    | apply Keeps.trans ?_ (keeps_launchDrop _ _ _)
    | intro _
    | apply Keeps.refl

theorem keeps_execTrackerUpdateTimeout (s : State) : KeepsOut s (execTrackerUpdateTimeout s) := by
  unfold execTrackerUpdateTimeout
  with_reducible repeat' first
    | apply KeepsOut.of_act
    | apply Keeps.trans ?_ (keeps_trackerTimeout _)
    | intro _
    | apply Keeps.refl

theorem keeps_execHoldoverTimeout (s : State) : KeepsOut s (execHoldoverTimeout s) := by
  unfold execHoldoverTimeout
  with_reducible repeat' first
    | apply KeepsOut.of_act
    | apply Keeps.trans ?_ (keeps_holdoverTimeout _)
    | intro _
    | apply Keeps.refl

theorem keeps_execSdlAngNow (mid : Mid) (s : State) : KeepsOut s (execSdlAngNow mid s) := by
  unfold execSdlAngNow
  with_reducible repeat' first
    | apply KeepsOut.of_act
    | apply Keeps.trans ?_ (keeps_mbxRequest _ _ _ _ _ _ _)
    | intro _
    | apply Keeps.refl

theorem keeps_execAlarmArm (mid : Mid) (k : Fin 256) (d : List Word) (s : State) : KeepsOut s (execAlarmArm mid k d s) := by
  unfold execAlarmArm
  with_reducible repeat' first
    | apply KeepsOut.of_act
    | apply Keeps.trans ?_ (keeps_mbxRequest _ _ _ _ _ _ _)
    | intro _
    | apply Keeps.refl

theorem keeps_execAlarmCancel (mid : Mid) (k : Fin 256) (s : State) : KeepsOut s (execAlarmCancel mid k s) := by
  unfold execAlarmCancel
  with_reducible repeat' first
    | apply KeepsOut.of_act
    | apply Keeps.trans ?_ (keeps_mbxRequest _ _ _ _ _ _ _)
    | intro _
    | apply Keeps.refl

theorem keeps_execAlarmRead (mid : Mid) (k : Fin 256) (s : State) : KeepsOut s (execAlarmRead mid k s) := by
  unfold execAlarmRead
  with_reducible repeat' first
    | apply KeepsOut.of_act
    | apply Keeps.trans ?_ (keeps_mbxRequest _ _ _ _ _ _ _)
    | intro _
    | apply Keeps.refl

theorem keeps_execAlarmFire (k : Fin 256) (s : State) : KeepsOut s (execAlarmFire k s) := by
  unfold execAlarmFire
  with_reducible repeat' first
    | apply KeepsOut.of_act
    | apply Keeps.ite
    | apply Keeps.trans ?_ (keeps_angleSweep _)
    | apply Keeps.trans ?_ (keeps_fireAlarm _ _)
    | intro _
    | apply Keeps.refl

theorem keeps_execAlarmPulseEnd (k : Fin 256) (s : State) : KeepsOut s (execAlarmPulseEnd k s) := by
  unfold execAlarmPulseEnd
  with_reducible repeat' first
    | apply KeepsOut.of_act
    | apply Keeps.trans ?_ (keeps_alarmPulseEnd _ _)
    | intro _
    | apply Keeps.refl

end Sys2Proof.Machine
end

