-- ==== Sys2Proof/Laws/KeepExecTrellis.lean ====
section
/-! SUPPORT. What the commands of Machine/TrellisCommands.lean keep: the queue, memory's canonical form and the fuses. -/

set_option Elab.async false

namespace Sys2Proof.Machine

theorem keeps_execFdbAgeOut (i : Fin 16384) (s : State) : KeepsOut s (execFdbAgeOut i s) := by
  unfold execFdbAgeOut
  with_reducible repeat' first
    | apply KeepsOut.of_act
    | apply Keeps.trans ?_ (keeps_fdbAge _ _)
    | intro _
    | apply Keeps.refl

theorem keeps_execSpillReadback (k : Fin 3200) (s : State) : KeepsOut s (execSpillReadback k s) := by
  unfold execSpillReadback
  with_reducible repeat' first
    | apply KeepsOut.of_act
    | apply Keeps.trans ?_ (keeps_spillReadback _ _)
    | intro _
    | apply Keeps.refl

theorem keeps_execResequenceTimeout (input : Fin 20) (output : Fin 20) (unit : Word) (s : State) : KeepsOut s (execResequenceTimeout input output unit s) := by
  unfold execResequenceTimeout
  with_reducible repeat' first
    | apply KeepsOut.of_act
    | apply Keeps.ite
    | apply Keeps.trans ?_ (keeps_resequence _ _ _ _)
    | intro _
    | apply Keeps.refl

theorem keeps_execHostTxFrame (s : State) : KeepsOut s (execHostTxFrame s) := by
  unfold execHostTxFrame
  with_reducible repeat' first
    | apply KeepsOut.of_act
    | apply Keeps.trans ?_ (keeps_hostTx _)
    | intro _
    | apply Keeps.refl

theorem keeps_execHostRxDeliver (c : Fin 8) (s : State) : KeepsOut s (execHostRxDeliver c s) := by
  unfold execHostRxDeliver
  with_reducible repeat' first
    | apply KeepsOut.of_act
    | apply Keeps.trans ?_ (keeps_hostRx _ _)
    | intro _
    | apply Keeps.refl

theorem keeps_execRingSizeWrite (mid : Mid) (tx : Bool) (r : Fin 8) (data : Word) (s : State) : KeepsOut s (execRingSizeWrite mid tx r data s) := by
  unfold execRingSizeWrite
  with_reducible repeat' first
    | apply KeepsOut.of_act
    | apply Keeps.trans ?_ (keeps_meshWrite _ _ _ _)
    | intro _
    | apply Keeps.refl

theorem keeps_execTrlFdbWrite (mid : Mid) (d : List Word) (s : State) : KeepsOut s (execTrlFdbWrite mid d s) := by
  unfold execTrlFdbWrite
  with_reducible repeat' first
    | apply KeepsOut.of_act
    | apply Keeps.trans ?_ (keeps_mbxRequest _ _ _ _ _ _ _)
    | intro _
    | apply Keeps.refl

theorem keeps_execTrlFdbRead (mid : Mid) (i : BitVec 16) (s : State) : KeepsOut s (execTrlFdbRead mid i s) := by
  unfold execTrlFdbRead
  with_reducible repeat' first
    | apply KeepsOut.of_act
    | apply Keeps.trans ?_ (keeps_mbxRequest _ _ _ _ _ _ _)
    | intro _
    | apply Keeps.refl

theorem keeps_execTrlFdbDelete (mid : Mid) (d : List Word) (s : State) : KeepsOut s (execTrlFdbDelete mid d s) := by
  unfold execTrlFdbDelete
  with_reducible repeat' first
    | apply KeepsOut.of_act
    | apply Keeps.trans ?_ (keeps_mbxRequest _ _ _ _ _ _ _)
    | intro _
    | apply Keeps.refl

theorem keeps_execTrlFdbFlush (mid : Mid) (s : State) : KeepsOut s (execTrlFdbFlush mid s) := by
  unfold execTrlFdbFlush
  with_reducible repeat' first
    | apply KeepsOut.of_act
    | apply Keeps.trans ?_ (keeps_mbxRequest _ _ _ _ _ _ _)
    | intro _
    | apply Keeps.refl

end Sys2Proof.Machine
end

