-- ==== Sys2Proof/Laws/KeepIdle.lean ====
section
/-! SUPPORT. What the operations of Machine/Idle.lean keep: the queue, memory's canonical form and the fuses. -/

set_option Elab.async false

namespace Sys2Proof.Machine

theorem keeps_crystal (s : State) : Keeps s (crystal s) := by
  unfold crystal
  try dsimp only
  with_reducible repeat' first
    | apply Keeps.ite
    | simp only [Keeps.mk_iff]
    | apply Keeps.refl

theorem keeps_ornClock (s : State) : Keeps s (ornClock s) := by
  unfold ornClock
  try dsimp only
  with_reducible repeat' first
    | apply Keeps.ite
    | simp only [Keeps.mk_iff]
    | apply Keeps.refl

theorem keeps_sysClock (s : State) : Keeps s (sysClock s) := by
  unfold sysClock
  try dsimp only
  with_reducible repeat' first
    | apply Keeps.ite
    | apply Keeps.foldl
    | apply Keeps.trans ?_ (keeps_txSettle _ _)
    | apply Keeps.trans ?_ (keeps_batchStep _)
    | apply Keeps.trans ?_ (keeps_postWaits _)
    | apply Keeps.trans ?_ (keeps_trlSlot _)
    | simp only [Keeps.mk_iff]
    | intro _
    | apply Keeps.refl

theorem keeps_idle (s : State) : Keeps s (idle s) := by
  unfold idle
  try dsimp only
  with_reducible repeat' first
    | apply Keeps.trans ?_ (keeps_sysClock _)
    | apply Keeps.trans ?_ (keeps_ornClock _)
    | apply Keeps.trans ?_ (keeps_crystal _)
    | apply Keeps.refl

end Sys2Proof.Machine
end

