-- ==== Sys2Proof/Laws/KeepStep.lean ====
section
/-! SUPPORT. Every command, and every step, keeps the queue behind it and memory's canonical form. -/

set_option Elab.async false

namespace Sys2Proof.Machine

theorem keeps_exec (i : Instr) (s : State) : KeepsOut s (exec i s) := by
  cases i with
  | registerWrite => exact keeps_execRegisterWrite _ _ _ _
  | pageEnable => exact keeps_execPageEnable _ _ _ _
  | blockSoftReset => exact keeps_execBlockSoftReset _ _ _
  | pageLock => exact keeps_execPageLock _ _ _
  | pageUnlock => exact keeps_execPageUnlock _ _ _
  | counterAcknowledge => exact keeps_execCounterAcknowledge _ _ _ _
  | bufferedWrite => exact keeps_execBufferedWrite _ _ _ _
  | mailboxAck => exact keeps_execMailboxAck _ _ _
  | sysStrobe => exact keeps_execSysStrobe _ _ _
  | strobeApply => exact keeps_execStrobeApply _
  | sysStrobeTick => exact keeps_execSysStrobeTick _ _ _
  | strbAcknowledge => exact keeps_execStrbAcknowledge _ _
  | meshTransaction => exact keeps_execMeshTransaction _ _ _ _ _
  | txBegin => exact keeps_execTxBegin _ _ _
  | txClaim => exact keeps_execTxClaim _ _ _ _
  | txStagedWrite => exact keeps_execTxStagedWrite _ _ _ _
  | txCommit => exact keeps_execTxCommit _ _ _
  | txCommitAt => exact keeps_execTxCommitAt _ _ _ _
  | txRollback => exact keeps_execTxRollback _ _ _
  | txStoppedApply => exact keeps_execTxStoppedApply _
  | clkmonWindow => exact keeps_execClkmonWindow _ _ _
  | clockStop => exact keeps_execClockStop _ _
  | pllLockLoss => exact keeps_execPllLockLoss _ _
  | lanePllLock => exact keeps_execLanePllLock _ _
  | powerGoodRise => exact keeps_execPowerGoodRise _
  | powerGoodFall => exact keeps_execPowerGoodFall _
  | porstNLow => exact keeps_execPorstNLow _
  | porstNRise => exact keeps_execPorstNRise _
  | rdSysRelease => exact keeps_execRdSysRelease _
  | cruSysrst => exact keeps_execCruSysrst _ _ _
  | systemResetStart => exact keeps_execSystemResetStart _
  | systemWatchdogExpire => exact keeps_execSystemWatchdogExpire _
  | watchdogKick => exact keeps_execWatchdogKick _ _
  | cruPortRst => exact keeps_execCruPortRst _ _ _
  | linkUp => exact keeps_execLinkUp _ _
  | debugReset => exact keeps_execDebugReset _
  | supplyTrip => exact keeps_execSupplyTrip _ _ _
  | ornRstNLow => exact keeps_execOrnRstNLow _
  | orangeryWatchdogExpire => exact keeps_execOrangeryWatchdogExpire _
  | grottoReset => exact keeps_execGrottoReset _
  | tapReset => exact keeps_execTapReset _
  | crossingGroupReady => exact keeps_execCrossingGroupReady _ _
  | eventChannelRequest => exact keeps_execEventChannelRequest _ _
  | eventChannelDeliver => exact keeps_execEventChannelDeliver _ _
  | eventChannelAckComplete => exact keeps_execEventChannelAckComplete _ _
  | doutChannelCommand => exact keeps_execDoutChannelCommand _ _ _
  | doutLatchApply => exact keeps_execDoutLatchApply _
  | sdlTimeNow => exact keeps_execSdlTimeNow _ _
  | sdlTimePpsin => exact keeps_execSdlTimePpsin _ _
  | sdlAdjSet => exact keeps_execSdlAdjSet _ _ _ _
  | sdlAdjStep => exact keeps_execSdlAdjStep _ _ _ _
  | sdlAdjIncr => exact keeps_execSdlAdjIncr _ _ _ _
  | adjustApply => exact keeps_execAdjustApply _
  | tickGeneratorStart => exact keeps_execTickGeneratorStart _ _
  | tickGeneratorStop => exact keeps_execTickGeneratorStop _ _
  | sundialTickEdge => exact keeps_execSundialTickEdge _
  | fabricTickEdge => exact keeps_execFabricTickEdge _ _
  | baseRateChange => exact keeps_execBaseRateChange _
  | ppsOutRise => exact keeps_execPpsOutRise _
  | ppsOutFall => exact keeps_execPpsOutFall _
  | tickOutFall => exact keeps_execTickOutFall _
  | ppsInEdge => exact keeps_execPpsInEdge _
  | timestampRingPop => exact keeps_execTimestampRingPop _ _ _
  | launchLateDrop => exact keeps_execLaunchLateDrop _ _ _
  | trackerUpdateTimeout => exact keeps_execTrackerUpdateTimeout _
  | holdoverTimeout => exact keeps_execHoldoverTimeout _
  | sdlAngNow => exact keeps_execSdlAngNow _ _
  | alarmArm => exact keeps_execAlarmArm _ _ _ _
  | alarmCancel => exact keeps_execAlarmCancel _ _ _
  | alarmRead => exact keeps_execAlarmRead _ _ _
  | alarmFire => exact keeps_execAlarmFire _ _
  | alarmPulseEnd => exact keeps_execAlarmPulseEnd _ _
  | frameReceive => exact keeps_execFrameReceive _ _ _ _ _
  | pauseExpire => exact keeps_execPauseExpire _ _
  | dupEntryForget => exact keeps_execDupEntryForget _ _ _
  | frameTransmit => exact keeps_execFrameTransmit _ _
  | gateChange => exact keeps_execGateChange _ _
  | macGclSw => exact keeps_execMacGclSw _ _ _ _
  | gclSwitch => exact keeps_execGclSwitch _ _
  | macExactWrite => exact keeps_execMacExactWrite _ _ _ _ _
  | macExactRead => exact keeps_execMacExactRead _ _ _ _
  | gpbStart => exact keeps_execGpbStart _ _ _
  | gpbStop => exact keeps_execGpbStop _ _ _
  | gpbPublish => exact keeps_execGpbPublish _ _ _
  | gpbRead => exact keeps_execGpbRead _ _ _
  | gooseRetransmit => exact keeps_execGooseRetransmit _ _
  | gooseSubFrame => exact keeps_execGooseSubFrame _
  | gooseExpire => exact keeps_execGooseExpire _ _
  | gsbSubWrite => exact keeps_execGsbSubWrite _ _ _ _
  | gsbSubRead => exact keeps_execGsbSubRead _ _ _
  | gsbSubDisable => exact keeps_execGsbSubDisable _ _ _
  | gsbStateRead => exact keeps_execGsbStateRead _ _ _
  | fdbAgeOut => exact keeps_execFdbAgeOut _ _
  | spillReadback => exact keeps_execSpillReadback _ _
  | resequenceTimeout => exact keeps_execResequenceTimeout _ _ _ _
  | hostTxFrame => exact keeps_execHostTxFrame _
  | hostRxDeliver => exact keeps_execHostRxDeliver _ _
  | ringSizeWrite => exact keeps_execRingSizeWrite _ _ _ _ _
  | trlFdbWrite => exact keeps_execTrlFdbWrite _ _ _
  | trlFdbRead => exact keeps_execTrlFdbRead _ _ _
  | trlFdbDelete => exact keeps_execTrlFdbDelete _ _ _
  | trlFdbFlush => exact keeps_execTrlFdbFlush _ _
  | svFrameIngest => exact keeps_execSvFrameIngest _
  | streamLostTimeout => exact keeps_execStreamLostTimeout _ _
  | alignmentRelease => exact keeps_execAlignmentRelease _ _
  | sviDescWrite => exact keeps_execSviDescWrite _ _ _ _
  | sviDescRead => exact keeps_execSviDescRead _ _ _
  | sviDescDisable => exact keeps_execSviDescDisable _ _ _
  | sviScntRead => exact keeps_execSviScntRead _ _ _
  | sviScntSub => exact keeps_execSviScntSub _ _ _ _
  | cascadeProcessSet => exact keeps_execCascadeProcessSet _
  | casSyncGo => exact keeps_execCasSyncGo _ _ _
  | syncInEdge => exact keeps_execSyncInEdge _
  | casRespCoef => exact keeps_execCasRespCoef _ _ _ _ _
  | casRespInfo => exact keeps_execCasRespInfo _ _ _ _
  | ltnTripWrite => exact keeps_execLtnTripWrite _ _ _ _
  | ltnTripRead => exact keeps_execLtnTripRead _ _ _
  | ltnTripDisable => exact keeps_execLtnTripDisable _ _ _
  | eventPost => exact keeps_execEventPost _ _
  | heldEventRetry => exact keeps_execHeldEventRetry _ _
  | bndPost => exact keeps_execBndPost _ _ _ _
  | slotFill => exact keeps_execSlotFill _ _
  | bndTake => exact keeps_execBndTake _ _ _
  | takeTimeout => exact keeps_execTakeTimeout _ _
  | bndDone => exact keeps_execBndDone _ _ _
  | pavPost => exact keeps_execPavPost _ _ _ _ _
  | lockstepMismatch => exact keeps_execLockstepMismatch _ _
  | cycPairReset => exact keeps_execCycPairReset _ _ _
  | cycNext => exact keeps_execCycNext _ _ _
  | cycDone => exact keeps_execCycDone _ _ _ _ _
  | checkpointComplete => exact keeps_execCheckpointComplete _
  | cycPvcmdExchange => exact keeps_execCycPvcmdExchange _ _ _ _
  | cycPvcmdRestart => exact keeps_execCycPvcmdRestart _ _ _ _
  | cycForceSet => exact keeps_execCycForceSet _ _ _ _
  | cycForceClear => exact keeps_execCycForceClear _ _ _ _
  | cycForceRead => exact keeps_execCycForceRead _ _ _ _
  | pavReset => exact keeps_execPavReset _ _ _
  | pavilionResetComplete => exact keeps_execPavilionResetComplete _ _
  | shareExhausted => exact keeps_execShareExhausted _ _
  | pavWdtExpire => exact keeps_execPavWdtExpire _ _
  | pavKick => exact keeps_execPavKick _ _ _
  | pavMigFreeze => exact keeps_execPavMigFreeze _ _ _ _
  | pavMigSave => exact keeps_execPavMigSave _ _ _ _
  | pavMigRestore => exact keeps_execPavMigRestore _ _ _ _
  | pavMigThaw => exact keeps_execPavMigThaw _ _ _ _
  | pavMigDiscard => exact keeps_execPavMigDiscard _ _ _ _
  | saveComplete => exact keeps_execSaveComplete _ _
  | ftbControl => exact keeps_execFtbControl _ _ _
  | ftbDigest => exact keeps_execFtbDigest _ _ _ _ _
  | ftbSample => exact keeps_execFtbSample _ _ _
  | ftbEvent => exact keeps_execFtbEvent _ _ _ _ _
  | ftbJoinData => exact keeps_execFtbJoinData _ _ _
  | controlKeepalive => exact keeps_execControlKeepalive _
  | sampleBatchSend => exact keeps_execSampleBatchSend _
  | pairHbToggle => exact keeps_execPairHbToggle _
  | pairHbInEdge => exact keeps_execPairHbInEdge _
  | heartbeatLoss => exact keeps_execHeartbeatLoss _
  | footbridgeLoss => exact keeps_execFootbridgeLoss _
  | heartbeatGooseSend => exact keeps_execHeartbeatGooseSend _
  | partnerHeartbeatGoose => exact keeps_execPartnerHeartbeatGoose _ _ _ _ _
  | heartbeatGooseLoss => exact keeps_execHeartbeatGooseLoss _
  | digestMissing => exact keeps_execDigestMissing _
  | diagnosisEnd => exact keeps_execDiagnosisEnd _
  | batchCut => exact keeps_execBatchCut _
  | ftbTokenHandover => exact keeps_execFtbTokenHandover _ _ _
  | ftbTokenClaim => exact keeps_execFtbTokenClaim _ _ _
  | freezeTimeout => exact keeps_execFreezeTimeout _
  | revert => exact keeps_execRevert _
  | pairListenEnd => exact keeps_execPairListenEnd _
  | ftbJoin => exact keeps_execFtbJoin _ _
  | joinDataTimeout => exact keeps_execJoinDataTimeout _
  | ftbDigLast => exact keeps_execFtbDigLast _ _
  | ftbDigLastmis => exact keeps_execFtbDigLastmis _ _
  | ftbDigLastmisIn => exact keeps_execFtbDigLastmisIn _ _
  | tapWordReceive => exact keeps_execTapWordReceive _ _
  | intervalCompute => exact keeps_execIntervalCompute _
  | intervalBoundaryApply => exact keeps_execIntervalBoundaryApply _
  | pulseEmit => exact keeps_execPulseEmit _ _
  | ornCircuit => exact keeps_execOrnCircuit _ _ _ _
  | ornCorrCh => exact keeps_execOrnCorrCh _ _ _ _
  | ornCorrQ => exact keeps_execOrnCorrQ _ _ _ _
  | ornPulseAssign => exact keeps_execOrnPulseAssign _ _ _ _
  | ornParam => exact keeps_execOrnParam _ _ _ _
  | ornOpen => exact keeps_execOrnOpen _ _ _ _
  | ornClose => exact keeps_execOrnClose _ _
  | ornFwload => exact keeps_execOrnFwload _ _ _ _
  | ornFwact => exact keeps_execOrnFwact _ _ _ _
  | ornKeyload => exact keeps_execOrnKeyload _ _ _ _
  | ornSave => exact keeps_execOrnSave _ _
  | ornDiagclr => exact keeps_execOrnDiagclr _ _ _
  | ornEnergyA => exact keeps_execOrnEnergyA _ _ _ _
  | ornEnergyR => exact keeps_execOrnEnergyR _ _ _ _
  | ornInstant => exact keeps_execOrnInstant _ _ _ _
  | ornId => exact keeps_execOrnId _ _ _
  | ornChallenge => exact keeps_execOrnChallenge _ _ _
  | ornCircuitRead => exact keeps_execOrnCircuitRead _ _ _ _
  | ornCorrRead => exact keeps_execOrnCorrRead _ _ _ _ _
  | ornPulseRead => exact keeps_execOrnPulseRead _ _ _ _
  | ornParamRead => exact keeps_execOrnParamRead _ _ _
  | ornAudit => exact keeps_execOrnAudit _ _ _ _
  | ornLosshdr => exact keeps_execOrnLosshdr _ _ _ _
  | ornLosscir => exact keeps_execOrnLosscir _ _ _ _
  | ornDiag => exact keeps_execOrnDiag _ _ _ _
  | orangeryStart => exact keeps_execOrangeryStart _ _
  | sealPinChange => exact keeps_execSealPinChange _ _
  | sealTimeout => exact keeps_execSealTimeout _
  | lockoutEnd => exact keeps_execLockoutEnd _
  | oscillatorTrim => exact keeps_execOscillatorTrim _ _
  | triggerTimeout => exact keeps_execTriggerTimeout _ _
  | mirrorFrameRecord => exact keeps_execMirrorFrameRecord _
  | captureClose => exact keeps_execCaptureClose _ _
  | blvCgTrig => exact keeps_execBlvCgTrig _ _ _
  | blvCgRel => exact keeps_execBlvCgRel _ _ _ _
  | maskTableLoad => exact keeps_execMaskTableLoad _ _
  | rateHalvingStep => exact keeps_execRateHalvingStep _
  | rateRestoreStep => exact keeps_execRateRestoreStep _
  | blvSrcWrite => exact keeps_execBlvSrcWrite _ _ _ _
  | blvSrcRead => exact keeps_execBlvSrcRead _ _ _
  | blvSrcDisable => exact keeps_execBlvSrcDisable _ _ _
  | herbariumEvent => exact keeps_execHerbariumEvent _ _ _ _
  | recordCloseTimeout => exact keeps_execRecordCloseTimeout _
  | flashProgramDone => exact keeps_execFlashProgramDone _ _
  | flashEraseDone => exact keeps_execFlashEraseDone _ _
  | hrbFreeze => exact keeps_execHrbFreeze _ _
  | hrbUnfreeze => exact keeps_execHrbUnfreeze _ _
  | herbariumScan => exact keeps_execHerbariumScan _
  | hrbRead => exact keeps_execHrbRead _ _ _
  | hrbSnapSet => exact keeps_execHrbSnapSet _ _ _ _
  | hrbSnapSethi => exact keeps_execHrbSnapSethi _ _ _ _
  | hrbSnapSetlast => exact keeps_execHrbSnapSetlast _ _ _ _
  | hrbSnapRead => exact keeps_execHrbSnapRead _ _ _
  | hrbLog => exact keeps_execHrbLog _ _ _ _
  | rootBirthComplete => exact keeps_execRootBirthComplete _
  | entropyHealthFail => exact keeps_execEntropyHealthFail _
  | gthKeyWrite => exact keeps_execGthKeyWrite _ _ _ _
  | gthKeyRead => exact keeps_execGthKeyRead _ _ _
  | gthKeyRevoke => exact keeps_execGthKeyRevoke _ _ _
  | gthKeyErase => exact keeps_execGthKeyErase _ _ _
  | gthKeyLifecycle => exact keeps_execGthKeyLifecycle _ _ _ _
  | gthKeyMetroload => exact keeps_execGthKeyMetroload _ _ _
  | gthKeyFusekey => exact keeps_execGthKeyFusekey _ _ _ _
  | gthKeyFuserev => exact keeps_execGthKeyFuserev _ _ _ _
  | gthKeyBootver => exact keeps_execGthKeyBootver _ _ _ _
  | keyStoreValid => exact keeps_execKeyStoreValid _
  | keyStoreLoad => exact keeps_execKeyStoreLoad _
  | gthReqGmac => exact keeps_execGthReqGmac _ _ _ _ _
  | gthReqGmacchk => exact keeps_execGthReqGmacchk _ _ _ _ _
  | gthReqHmac => exact keeps_execGthReqHmac _ _ _ _ _
  | gthReqVerify => exact keeps_execGthReqVerify _ _ _ _ _
  | gthReqSealtag => exact keeps_execGthReqSealtag _ _ _ _ _
  | gthDbgChallenge => exact keeps_execGthDbgChallenge _ _
  | gthDbgUnlock => exact keeps_execGthDbgUnlock _ _ _ _
  | dramScrubStep => exact keeps_execDramScrubStep _ _ _
  | onchipScrubStep => exact keeps_execOnchipScrubStep _ _ _ _ _
  | registerSweep => exact keeps_execRegisterSweep _ _ _ _
  | gatehouseMemoryCompare => exact keeps_execGatehouseMemoryCompare _ _ _ _
  | backgroundLate => exact keeps_execBackgroundLate _ _
  | memMarkset => exact keeps_execMemMarkset _ _ _
  | telemetrySend => exact keeps_execTelemetrySend _
  | calendarSecond => exact keeps_execCalendarSecond _
  | opsecIncrement => exact keeps_execOpsecIncrement _
  | tamperDetect => exact keeps_execTamperDetect _ _
  | grtTimeNow => exact keeps_execGrtTimeNow _ _
  | grtScrread => exact keeps_execGrtScrread _ _ _
  | grtSetcal => exact keeps_execGrtSetcal _ _ _
  | grtTampclr => exact keeps_execGrtTampclr _ _
  | grtScrwrite => exact keeps_execGrtScrwrite _ _ _ _
  | grtRstclr => exact keeps_execGrtRstclr _ _
  | dinLevelAccept => exact keeps_execDinLevelAccept _ _
  | bootImageSelect => exact keeps_execBootImageSelect _ _ _
  | dbgBootGo => exact keeps_execDbgBootGo _ _ _ _
  | dbgBflRead => exact keeps_execDbgBflRead _ _ _
  | dbgBflProgram => exact keeps_execDbgBflProgram _ _ _ _
  | dbgBflErase => exact keeps_execDbgBflErase _ _ _
  | dbgDout => exact keeps_execDbgDout _ _ _ _
  | tapExtest => exact keeps_execTapExtest _ _ _
  | tapSamplePreload => exact keeps_execTapSamplePreload _ _ _
  | tapIdcode => exact keeps_execTapIdcode _
  | tapClamp => exact keeps_execTapClamp _
  | tapHighz => exact keeps_execTapHighz _
  | tapExtestPulse => exact keeps_execTapExtestPulse _ _ _
  | tapExtestTrain => exact keeps_execTapExtestTrain _ _ _
  | tapDbgacc => exact keeps_execTapDbgacc _ _ _ _
  | tapBypass => exact keeps_execTapBypass _
  | tapPrivate => exact keeps_execTapPrivate _
  | pllLocked => exact keeps_execPllLocked _ _
  | linkDown => exact keeps_execLinkDown _ _
  | supplyRestore => exact keeps_execSupplyRestore _ _
  | vbatLow => exact keeps_execVbatLow _ _
  | entropyHealthPass => exact keeps_execEntropyHealthPass _
  | syncOutFall => exact keeps_execSyncOutFall _
  | shadowRefresh => exact keeps_execShadowRefresh _ _
  | dinSample => exact keeps_execDinSample _ _
  | dramTrainingComplete => exact keeps_execDramTrainingComplete _ _

/-- A step with a command at the front of the queue keeps what stands behind it. -/
theorem keeps_step_cons (i : Instr) (rest : List Instr) (s t : State) (hp : s.pending = i :: rest) (h : step s = .next t) :
    Keeps { s with pending := rest } t := by
  unfold step at h
  rw [hp] at h
  exact (keeps_exec i { s with pending := rest }).next t h

/-- A step on an empty queue keeps it empty. -/
theorem keeps_step_nil (s t : State) (hp : s.pending = []) (h : step s = .next t) : Keeps s t := by
  unfold step at h
  rw [hp] at h
  cases h
  exact keeps_idle s

end Sys2Proof.Machine
end

