-- ==== Sys2Proof/Laws/Pairs.lean ====
section
/-! SUPPORT. What follows an operation that also answers, once its answer is known. The proofs are no bare reflexivity on purpose: `simp` then
rewrites with them and leaves no large definitional equality to the kernel. -/

set_option Elab.async false

namespace Sys2Proof.Machine

@[simp] theorem onPair_mk {α β γ : Type} (a : α) (b : β) (f : α → β → γ) : onPair (a, b) f = f a b := Eq.trans rfl rfl

@[simp] theorem onOpt_none {α β γ : Type} (a : α) (bad : α → γ) (good : α → β → γ) : onOpt (a, none) bad good = bad a := Eq.trans rfl rfl

@[simp] theorem onOpt_some {α β γ : Type} (a : α) (b : β) (bad : α → γ) (good : α → β → γ) : onOpt (a, some b) bad good = good a b :=
  Eq.trans rfl rfl

@[simp] theorem onOk_true {α γ : Type} (a : α) (bad good : α → γ) : onOk (a, true) bad good = good a := Eq.trans rfl rfl

@[simp] theorem onOk_false {α γ : Type} (a : α) (bad good : α → γ) : onOk (a, false) bad good = bad a := Eq.trans rfl rfl

end Sys2Proof.Machine
end

