-- ==== Sys2Proof/Laws/PavBoxes.lean ====
section
/-! SUPPORT. The mailboxes of the pavilion pages: where they stand, and their requests. -/

set_option Elab.async false

namespace Sys2Proof.Machine

/-! ### The mailboxes of the pavilion pages -/

theorem pavPage (p o : Nat) (hp : p < 1024) (ho : o < 0x1000) :
    pageAtOff (0x4000000 + 0x1000 * p + o) = some ⟨0x4000000 + 0x1000 * p, ⟨.pav, 0, 1023, true, regsPav0⟩, 0, p⟩ := by
  have e1 : 0x4000000 ≤ 0x4000000 + 0x1000 * p + o ∧ 0x4000000 + 0x1000 * p + o < 0x4400000 := by omega
  have e2 : (0x4000000 + 0x1000 * p + o - 0x4000000) / 0x1000 = p := by omega
  have e3 : pageBase (0x4000000 + 0x1000 * p + o) = 0x4000000 + 0x1000 * p := by
    unfold pageBase
    omega
  have e4 : (pageKinds.find? fun k => decide (k.blk = Block.pav) && decide (k.first ≤ p) && decide (p ≤ k.last)) =
      some ⟨.pav, 0, 1023, true, regsPav0⟩ := by
    have h : p ≤ 1023 := by omega
    simp [pageKinds, h]
  unfold pageAtOff blockAt
  simp only [e1, and_self, if_true, e2, e4, e3]

theorem pavBox (o : Nat) (n : Reg) (h : ∃ d : RegDesc, d.name = n ∧ d.mbx = true ∧ d.off = o ∧ d.count = 1 ∧ o % 4 = 0 ∧ 0x40 ≤ o ∧ o + 64 ≤ 0x1000 ∧
      ∀ k, k < 16 → findRow regsPav0 (o + 4 * k) = some (d, 0, 4 * k)) (p : Fin 1024) :
    ∃ d : RegDesc, d.name = n ∧ d.mbx = true ∧ d.off = o ∧ d.count = 1 ∧
      regAt (0x4000000 + 0x1000 * p.val + o) = some ⟨⟨0x4000000 + 0x1000 * p.val, ⟨.pav, 0, 1023, true, regsPav0⟩, 0, p.val⟩, d, 0, 0⟩ ∧
      ∀ mid, (∀ k, k < 16 → Reaches mid (0x4000000 + 0x1000 * p.val + o) (4 * k)
          ⟨⟨0x4000000 + 0x1000 * p.val, ⟨.pav, 0, 1023, true, regsPav0⟩, 0, p.val⟩, d, 0, 4 * k⟩) ∨
        allows .all ⟨0x4000000 + 0x1000 * p.val, ⟨.pav, 0, 1023, true, regsPav0⟩, 0, p.val⟩ mid = false ∨
        allows d.priv ⟨0x4000000 + 0x1000 * p.val, ⟨.pav, 0, 1023, true, regsPav0⟩, 0, p.val⟩ mid = false := by
  obtain ⟨d, h1, h2, h3, h4, h5, h6, h7, h8⟩ := h
  have hp := p.isLt
  refine ⟨d, h1, h2, h3, h4, ?_, ?_⟩
  · have e : (0x4000000 + 0x1000 * p.val + o) % 0x1000 = o := by omega
    have e0 := h8 0 (by omega)
    simp only [regAt, pavPage p.val o hp (by omega), regIn, e]
    simp only [Nat.mul_zero, Nat.add_zero] at e0
    rw [e0]
  · intro mid
    by_cases a1 : allows .all ⟨0x4000000 + 0x1000 * p.val, ⟨.pav, 0, 1023, true, regsPav0⟩, 0, p.val⟩ mid = true
    · by_cases a2 : allows d.priv ⟨0x4000000 + 0x1000 * p.val, ⟨.pav, 0, 1023, true, regsPav0⟩, 0, p.val⟩ mid = true
      · left
        intro k hk
        have e : (0x4000000 + 0x1000 * p.val + o + 4 * k) % 0x1000 = o + 4 * k := by omega
        exact {
          page := by
            have := pavPage p.val (o + 4 * k) hp (by omega)
            rw [← Nat.add_assoc] at this
            exact this
          reg := by simp only [regIn, e, h8 k hk]
          high := by omega
          word := by omega
          low := by omega
          mbx := h2
          addr := by simp [RegLoc.addr, h3]
          sub := rfl
          all := a1
          may := a2 }
      · right; right
        simpa using a2
    · right; left
      simpa using a1

theorem request_pavBox {o : Nat} {n : Reg} (h : ∃ d : RegDesc, d.name = n ∧ d.mbx = true ∧ d.off = o ∧ d.count = 1 ∧ o % 4 = 0 ∧ 0x40 ≤ o ∧
      o + 64 ≤ 0x1000 ∧ ∀ k, k < 16 → findRow regsPav0 (o + 4 * k) = some (d, 0, 4 * k)) (p : Fin 1024) (s : State) (mid op arg : Nat)
    (wr : Bool) (d : List Word) (hf : Free s mid (0x4000000 + 0x1000 * p.val + o)) (hop : op < 256) :
    ∃ l : RegLoc, l.desc.name = n ∧ l.addr = 0x4000000 + 0x1000 * p.val + o ∧ l.page.idx = p.val ∧
      mbxRequest s mid (0x4000000 + 0x1000 * p.val + o) op wr arg d =
        respond (mbxGo true l (asks (written s d) mid (0x4000000 + 0x1000 * p.val + o) op wr arg d)) {} := by
  obtain ⟨_, hm, hb⟩ := hf
  obtain ⟨ds, h1, h2, h3, h4, h5, h6⟩ := pavBox o n h p
  simp only [mayAsk, h5, Bool.and_eq_true, List.all_eq_true, List.mem_range] at hm
  obtain ⟨⟨m1, m2⟩, m3⟩ := hm
  have reach := (h6 mid).resolve_right (by simp [m1, m2])
  refine ⟨⟨⟨0x4000000 + 0x1000 * p.val, ⟨.pav, 0, 1023, true, regsPav0⟩, 0, p.val⟩, ds, 0, 0⟩, h1, by simp [RegLoc.addr, h3], rfl, ?_⟩
  apply mbxRequest_eq
  · intro k hk
    have e : 0x10 + 4 * k = 4 * (k + 4) := by omega
    rw [e]
    exact reach (k + 4) (by omega)
  · exact reach 0 (by omega)
  · intro k hk
    have e : 0x10 + 4 * k = 4 * (k + 4) := by omega
    rw [e]
    exact m3 (k + 4) (by omega)
  · exact m3 0 (by omega)
  · exact hb
  · exact hop

theorem pavPost_row : ∃ d : RegDesc, d.name = .pav .PAV_POST ∧ d.mbx = true ∧ d.off = 0xC0 ∧ d.count = 1 ∧ 0xC0 % 4 = 0 ∧ 0x40 ≤ 0xC0 ∧
    0xC0 + 64 ≤ 0x1000 ∧ ∀ k, k < 16 → findRow regsPav0 (0xC0 + 4 * k) = some (d, 0, 4 * k) :=
  ⟨(regsPav0.find? fun r => decide (r.name = .pav .PAV_POST)).getD ⟨0, 0, 0, .all, false, .pav .PAV_POST, []⟩, by decide +kernel⟩

theorem pavMig_row : ∃ d : RegDesc, d.name = .pav .PAV_MIG ∧ d.mbx = true ∧ d.off = 0x100 ∧ d.count = 1 ∧ 0x100 % 4 = 0 ∧ 0x40 ≤ 0x100 ∧
    0x100 + 64 ≤ 0x1000 ∧ ∀ k, k < 16 → findRow regsPav0 (0x100 + 4 * k) = some (d, 0, 4 * k) :=
  ⟨(regsPav0.find? fun r => decide (r.name = .pav .PAV_MIG)).getD ⟨0, 0, 0, .all, false, .pav .PAV_MIG, []⟩, by decide +kernel⟩

theorem request_pavPost (p : Fin 1024) (s : State) (mid op arg : Nat) (wr : Bool) (d : List Word) (hf : Free s mid (0x40000C0 + 0x1000 * p.val))
    (hop : op < 256) : mbxRequest s mid (0x40000C0 + 0x1000 * p.val) op wr arg d =
      respond (pavPost (asks (written s d) mid (0x40000C0 + 0x1000 * p.val) op wr arg d) (0x40000C0 + 0x1000 * p.val) p.val) {} := by
  have e : 0x40000C0 + 0x1000 * p.val = 0x4000000 + 0x1000 * p.val + 0xC0 := by omega
  rw [e] at hf ⊢
  obtain ⟨l, h1, h2, h3, h⟩ := request_pavBox pavPost_row p s mid op arg wr d hf hop
  rw [h]
  simp only [mbxGo, h1, h2, h3]

theorem request_pavMig (p : Fin 1024) (s : State) (mid op arg : Nat) (wr : Bool) (d : List Word) (hf : Free s mid (migMbx p.val))
    (hop : op < 256) : mbxRequest s mid (migMbx p.val) op wr arg d = respond (migReq (asks (written s d) mid (migMbx p.val) op wr arg d) p.val) {} := by
  have e : migMbx p.val = 0x4000000 + 0x1000 * p.val + 0x100 := by
    unfold migMbx
    omega
  rw [e] at hf ⊢
  obtain ⟨l, h1, h2, h3, h⟩ := request_pavBox pavMig_row p s mid op arg wr d hf hop
  rw [h]
  simp only [mbxGo, h1, h3]

end Sys2Proof.Machine
end

