-- ==== Sys2Proof/Laws/Report.lean ====
section
/-! SUPPORT. What an event record and a fault report can change: stored fields (counters) and their moves of this fabric clock, the Herbarium but not its flash, and for a fault
the Footbridge (R547, R609, R611). -/

set_option Elab.async false

namespace Sys2Proof.Machine

/-- Only stored fields, their moves of this clock and the Herbarium differ, and not its flash. -/
structure Records (s t : State) : Prop where
  eq : t = { s with reg := { s.reg with fields := t.reg.fields, ctrClk := t.reg.ctrClk, ctrNow := t.reg.ctrNow }, hrb := t.hrb }
  flash : t.hrb.flash = s.hrb.flash

/-- Only stored fields, their moves of this clock, the Herbarium and the Footbridge differ, and not the flash. -/
structure Reports (s t : State) : Prop where
  eq : t = { s with reg := { s.reg with fields := t.reg.fields, ctrClk := t.reg.ctrClk, ctrNow := t.reg.ctrNow }, hrb := t.hrb, ftb := t.ftb }
  flash : t.hrb.flash = s.hrb.flash

theorem Records.refl (s : State) : Records s s := ⟨rfl, rfl⟩

theorem Records.trans {s t u : State} (h : Records s t) (k : Records t u) : Records s u := by
  obtain ⟨h1, h2⟩ := h
  obtain ⟨k1, k2⟩ := k
  refine ⟨?_, by rw [k2, h2]⟩
  rw [k1, h1]

theorem Reports.refl (s : State) : Reports s s := ⟨rfl, rfl⟩

theorem Reports.trans {s t u : State} (h : Reports s t) (k : Reports t u) : Reports s u := by
  obtain ⟨h1, h2⟩ := h
  obtain ⟨k1, k2⟩ := k
  refine ⟨?_, by rw [k2, h2]⟩
  rw [k1, h1]

theorem Records.reports {s t : State} (h : Records s t) : Reports s t := by
  obtain ⟨h1, h2⟩ := h
  refine ⟨?_, h2⟩
  rw [h1]

theorem records_cinc (s : State) (f : FieldRef) : Records s (cinc s f) := ⟨rfl, rfl⟩

theorem records_hrb (s : State) (h : Herbarium) (e : h.flash = s.hrb.flash) : Records s { s with hrb := h } := ⟨rfl, e⟩

theorem records_pump (s : State) : Records s (hrbPump s) := by
  unfold hrbPump
  dsimp only
  split
  · exact .refl s
  · split
    · exact records_hrb _ _ rfl
    · split
      · exact records_hrb _ _ rfl
      · split
        · exact .refl s
        · split
          · exact .refl s
          · split <;> exact records_hrb _ _ rfl

theorem records_lose (s : State) (c : Nat) : Records s (loseEvent s c) := ⟨rfl, rfl⟩

theorem closeOpen_flash (h : Herbarium) : (closeOpen h).flash = h.flash := by
  unfold closeOpen
  split
  · rfl
  · split <;> rfl

theorem stageRec_flash (s : State) (pre : List Rec) (r : Rec) (excl : Bool) : (stageRec s pre r excl).flash = s.hrb.flash := by
  unfold stageRec
  dsimp only
  split
  · exact closeOpen_flash _
  · rfl

theorem addRepeat_flash (h : Herbarium) (ns : Nat) : (addRepeat h ns).flash = h.flash := by
  unfold addRepeat
  dsimp only
  split <;> rfl

theorem records_accept (s : State) (type src : Nat) (args : List Nat) (excl : Bool) (snap : Option (List Nat)) :
    Records s (acceptEvent s type src args excl snap).1 := by
  unfold acceptEvent
  split
  · exact records_lose s 3
  · split
    · exact records_hrb _ _ (addRepeat_flash _ _)
    · dsimp only
      generalize (if s.hrb.loss.isSome = true then 2 else 1) = need
      split
      · exact records_lose s _
      · exact (records_hrb s _ (stageRec_flash _ _ _ _)).trans (records_pump _)

/-- What a record can change (R547). -/
theorem records_record (s : State) (type src : Nat) (args : List Nat) : Records s (record s type src args) := records_accept s type src args false none

theorem records_recordExcl (s : State) (type src : Nat) (args : List Nat) : Records s (recordExcl s type src args) := records_accept s type src args true none

theorem records_recordFixed (s : State) (type src : Nat) (args snap : List Nat) : Records s (recordFixed s type src args snap) :=
  records_accept s type src args true (some snap)

theorem reports_send (s : State) (type : Nat) (body : List Nat) : Reports s (ftbSend s type body) := by
  unfold ftbSend
  split
  · exact .refl s
  · exact ⟨rfl, rfl⟩

theorem reports_freeze (s : State) : Reports s (ftbFreeze s) := by
  unfold ftbFreeze ftbControl
  split
  · refine Reports.trans (t := { s with ftb := { s.ftb with frozen := some ((tickInProgress s).getD 0) } }) ⟨rfl, rfl⟩ (reports_send _ _ _)
  · exact .refl s

/-- What a report of a fault can change (R609, R611, R612). -/
theorem reports_fault (s : State) (c : Nat) (args : List Nat) : Reports s (raiseFault s c args) := by
  unfold raiseFault
  dsimp only
  have h1 := (records_cinc s (Fld.MEM_FCNT_COUNT (c - 1))).reports
  generalize cinc s (Fld.MEM_FCNT_COUNT (c - 1)) = a at *
  have h2 : Reports s (if bit (fget a Fld.MEM_FXFER_X) (c - 1) then ftbFreeze a else a) := by
    split
    · exact h1.trans (reports_freeze a)
    · exact h1
  generalize (if bit (fget a Fld.MEM_FXFER_X) (c - 1) then ftbFreeze a else a) = b at *
  split
  · exact h2.trans (records_record _ _ _ _).reports
  · exact h2

theorem Reports.pending {s t : State} (h : Reports s t) : t.pending = s.pending := by rw [h.eq]
theorem Reports.cru {s t : State} (h : Reports s t) : t.cru = s.cru := by rw [h.eq]
theorem Reports.sdl {s t : State} (h : Reports s t) : t.sdl = s.sdl := by rw [h.eq]
theorem Reports.ang {s t : State} (h : Reports s t) : t.ang = s.ang := by rw [h.eq]
theorem Reports.bnd {s t : State} (h : Reports s t) : t.bnd = s.bnd := by rw [h.eq]
theorem Reports.integ {s t : State} (h : Reports s t) : t.integ = s.integ := by rw [h.eq]
theorem Reports.grt {s t : State} (h : Reports s t) : t.grt = s.grt := by rw [h.eq]
theorem Reports.dbg {s t : State} (h : Reports s t) : t.dbg = s.dbg := by rw [h.eq]
theorem Reports.tap {s t : State} (h : Reports s t) : t.tap = s.tap := by rw [h.eq]
theorem Reports.mac {s t : State} (h : Reports s t) : t.mac = s.mac := by rw [h.eq]
theorem Reports.trl {s t : State} (h : Reports s t) : t.trl = s.trl := by rw [h.eq]
theorem Reports.svi {s t : State} (h : Reports s t) : t.svi = s.svi := by rw [h.eq]
theorem Reports.gth {s t : State} (h : Reports s t) : t.gth = s.gth := by rw [h.eq]
theorem Reports.cyc {s t : State} (h : Reports s t) : t.cyc = s.cyc := by rw [h.eq]
theorem Reports.pav {s t : State} (h : Reports s t) : t.pav = s.pav := by rw [h.eq]
theorem Reports.cas {s t : State} (h : Reports s t) : t.cas = s.cas := by rw [h.eq]
theorem Reports.orn {s t : State} (h : Reports s t) : t.orn = s.orn := by rw [h.eq]
theorem Reports.blv {s t : State} (h : Reports s t) : t.blv = s.blv := by rw [h.eq]
theorem Reports.mem {s t : State} (h : Reports s t) : t.mem = s.mem := by rw [h.eq]
theorem Records.ftb {s t : State} (h : Records s t) : t.ftb = s.ftb := by rw [h.eq]
theorem Reports.pend {s t : State} (h : Reports s t) : t.reg.pend = s.reg.pend := by rw [h.eq]
theorem Reports.mbx {s t : State} (h : Reports s t) : t.reg.mbx = s.reg.mbx := by rw [h.eq]
theorem Reports.shadow {s t : State} (h : Reports s t) : t.reg.shadow = s.reg.shadow := by rw [h.eq]
theorem Reports.decMid {s t : State} (h : Reports s t) : t.reg.decMid = s.reg.decMid := by rw [h.eq]
theorem Reports.strobes {s t : State} (h : Reports s t) : t.reg.strobes = s.reg.strobes := by rw [h.eq]
theorem Reports.armed {s t : State} (h : Reports s t) : t.reg.armed = s.reg.armed := by rw [h.eq]
theorem Reports.tx {s t : State} (h : Reports s t) : t.reg.tx = s.reg.tx := by rw [h.eq]
theorem Reports.resp {s t : State} (h : Reports s t) : t.reg.resp = s.reg.resp := by rw [h.eq]
theorem Reports.draws {s t : State} (h : Reports s t) : t.reg.draws = s.reg.draws := by rw [h.eq]

end Sys2Proof.Machine
end

