-- ==== Sys2Proof/Laws/Resets.lean ====
section
/-! SUPPORT. What a reset of RD_SYS leaves (R99, R100, R105). -/

set_option Elab.async false

namespace Sys2Proof.Machine

theorem systemReset_resetOf (s : State) (c : RstCause) (h : s.cru.inReset = false) : resetOf s (systemReset s c) c := by
  unfold systemReset
  simp only [h, Bool.false_eq_true, if_false]
  refine ⟨rfl, ?_, fun _ => rfl, rfl, rfl, rfl, rfl, rfl, rfl, rfl, rfl, rfl, rfl, rfl, rfl⟩
  simp [afterReset, bit_setBit]

/-- What a reset keeps of the clock and reset unit. -/
theorem systemReset_cru (s : State) (c : RstCause) (h : s.cru.inReset = false) : (systemReset s c).cru = {
    inReset := true, pwrGood := s.cru.pwrGood, porstN := s.cru.porstN, powerCycle := s.cru.powerCycle, causeNow := setBit s.cru.causeNow c.bit, cause := s.cru.cause, pll := 0,
    mon := s.cru.mon % 2 ^ 16, monOut := s.cru.monOut % 2 ^ 16, monIn := s.cru.monIn % 2 ^ 16, stopped := s.cru.stopped, rails := s.cru.rails } := by
  unfold systemReset
  simp only [h, Bool.false_eq_true, if_false, afterReset]

/-- A reset after a report of a fault. -/
theorem resetOf_report {s t u : State} {c : RstCause} (h : Reports s t) (k : resetOf t u c) : resetOf s u c := by
  unfold resetOf at *
  rw [h.mem, h.grt, h.orn, h.tap, h.pending, h.dbg, h.flash, h.gth, h.sdl] at k
  exact k

/-- A status bit of a monitor that rises, for a monitor that holds RD_SYS and for another (R107, R110). -/
theorem monRise_cru (s : State) (i : Nat) (h : s.cru.inReset = false) (hb : bit s.cru.mon i = false) :
    bit (monRise s i).cru.mon i = true ∧ (monRise s i).cru.stopped = s.cru.stopped ∧ ((monRise s i).cru.inReset = true ↔ i ∈ [0, 2, 3, 4]) := by
  have e : monRise s i = if [0, 2, 3, 4].contains i then systemReset (raiseFault (cinc { s with cru := { s.cru with mon := setBit s.cru.mon i } }
      Fld.CRU_CLKMON_EVT_COUNT) (monClass i) [i]) .clk else raiseFault (cinc { s with cru := { s.cru with mon := setBit s.cru.mon i } }
      Fld.CRU_CLKMON_EVT_COUNT) (monClass i) [i] := by
    unfold monRise
    rw [if_neg (by rw [hb]; decide)]
    dsimp only
    have hn : ¬ s.cru.inReset = true := by simp [h]
    simp only [if_neg hn]
  rw [e]
  have r := reports_fault (cinc { s with cru := { s.cru with mon := setBit s.cru.mon i } } Fld.CRU_CLKMON_EVT_COUNT) (monClass i) [i]
  generalize raiseFault (cinc { s with cru := { s.cru with mon := setBit s.cru.mon i } } Fld.CRU_CLKMON_EVT_COUNT) (monClass i) [i] = t at *
  have hc : t.cru = { s.cru with mon := setBit s.cru.mon i } := r.cru
  by_cases hm : i ∈ [0, 2, 3, 4]
  · have h2 : ([0, 2, 3, 4].contains i) = true := by simpa using hm
    rw [if_pos h2, systemReset_cru t _ (by rw [hc]; exact h), hc]
    refine ⟨?_, rfl, by simpa using hm⟩
    show bit (setBit s.cru.mon i % 2 ^ 16) i = true
    rw [bit_mod _ _ _ (by simp only [List.mem_cons, List.not_mem_nil, or_false] at hm; omega), bit_setBit]
    simp
  · have h2 : ¬ ([0, 2, 3, 4].contains i) = true := by simpa using hm
    rw [if_neg h2, hc]
    refine ⟨by simp [bit_setBit], rfl, ?_⟩
    simp only [hm, iff_false, Bool.not_eq_true]
    exact h

end Sys2Proof.Machine
end

