-- ==== Sys2Proof/Laws/State.lean ====
section
/-! SUPPORT. One lemma for each part of the state and each update that leaves it alone, so that no proof unfolds a record update. -/

set_option Elab.async false

namespace Sys2Proof.Machine

@[simp] theorem respond_pending (s : State) (r : Resp) : (respond s r).pending = s.pending := rfl
@[simp] theorem respond_cru (s : State) (r : Resp) : (respond s r).cru = s.cru := rfl
@[simp] theorem respond_sdl (s : State) (r : Resp) : (respond s r).sdl = s.sdl := rfl
@[simp] theorem respond_ang (s : State) (r : Resp) : (respond s r).ang = s.ang := rfl
@[simp] theorem respond_bnd (s : State) (r : Resp) : (respond s r).bnd = s.bnd := rfl
@[simp] theorem respond_hrb (s : State) (r : Resp) : (respond s r).hrb = s.hrb := rfl
@[simp] theorem respond_integ (s : State) (r : Resp) : (respond s r).integ = s.integ := rfl
@[simp] theorem respond_grt (s : State) (r : Resp) : (respond s r).grt = s.grt := rfl
@[simp] theorem respond_dbg (s : State) (r : Resp) : (respond s r).dbg = s.dbg := rfl
@[simp] theorem respond_tap (s : State) (r : Resp) : (respond s r).tap = s.tap := rfl
@[simp] theorem respond_mac (s : State) (r : Resp) : (respond s r).mac = s.mac := rfl
@[simp] theorem respond_trl (s : State) (r : Resp) : (respond s r).trl = s.trl := rfl
@[simp] theorem respond_svi (s : State) (r : Resp) : (respond s r).svi = s.svi := rfl
@[simp] theorem respond_gth (s : State) (r : Resp) : (respond s r).gth = s.gth := rfl
@[simp] theorem respond_ftb (s : State) (r : Resp) : (respond s r).ftb = s.ftb := rfl
@[simp] theorem respond_cyc (s : State) (r : Resp) : (respond s r).cyc = s.cyc := rfl
@[simp] theorem respond_pav (s : State) (r : Resp) : (respond s r).pav = s.pav := rfl
@[simp] theorem respond_cas (s : State) (r : Resp) : (respond s r).cas = s.cas := rfl
@[simp] theorem respond_orn (s : State) (r : Resp) : (respond s r).orn = s.orn := rfl
@[simp] theorem respond_blv (s : State) (r : Resp) : (respond s r).blv = s.blv := rfl
@[simp] theorem respond_mem (s : State) (r : Resp) : (respond s r).mem = s.mem := rfl
@[simp] theorem fget_respond (s : State) (r : Resp) (fr : FieldRef) : fget (respond s r) fr = fget s fr := rfl

@[simp] theorem setMbx_pending (s : State) (a : Nat) (b : Mbx) : (setMbx s a b).pending = s.pending := rfl
@[simp] theorem setMbx_cru (s : State) (a : Nat) (b : Mbx) : (setMbx s a b).cru = s.cru := rfl
@[simp] theorem setMbx_sdl (s : State) (a : Nat) (b : Mbx) : (setMbx s a b).sdl = s.sdl := rfl
@[simp] theorem setMbx_ang (s : State) (a : Nat) (b : Mbx) : (setMbx s a b).ang = s.ang := rfl
@[simp] theorem setMbx_bnd (s : State) (a : Nat) (b : Mbx) : (setMbx s a b).bnd = s.bnd := rfl
@[simp] theorem setMbx_hrb (s : State) (a : Nat) (b : Mbx) : (setMbx s a b).hrb = s.hrb := rfl
@[simp] theorem setMbx_integ (s : State) (a : Nat) (b : Mbx) : (setMbx s a b).integ = s.integ := rfl
@[simp] theorem setMbx_grt (s : State) (a : Nat) (b : Mbx) : (setMbx s a b).grt = s.grt := rfl
@[simp] theorem setMbx_dbg (s : State) (a : Nat) (b : Mbx) : (setMbx s a b).dbg = s.dbg := rfl
@[simp] theorem setMbx_tap (s : State) (a : Nat) (b : Mbx) : (setMbx s a b).tap = s.tap := rfl
@[simp] theorem setMbx_mac (s : State) (a : Nat) (b : Mbx) : (setMbx s a b).mac = s.mac := rfl
@[simp] theorem setMbx_trl (s : State) (a : Nat) (b : Mbx) : (setMbx s a b).trl = s.trl := rfl
@[simp] theorem setMbx_svi (s : State) (a : Nat) (b : Mbx) : (setMbx s a b).svi = s.svi := rfl
@[simp] theorem setMbx_gth (s : State) (a : Nat) (b : Mbx) : (setMbx s a b).gth = s.gth := rfl
@[simp] theorem setMbx_ftb (s : State) (a : Nat) (b : Mbx) : (setMbx s a b).ftb = s.ftb := rfl
@[simp] theorem setMbx_cyc (s : State) (a : Nat) (b : Mbx) : (setMbx s a b).cyc = s.cyc := rfl
@[simp] theorem setMbx_pav (s : State) (a : Nat) (b : Mbx) : (setMbx s a b).pav = s.pav := rfl
@[simp] theorem setMbx_cas (s : State) (a : Nat) (b : Mbx) : (setMbx s a b).cas = s.cas := rfl
@[simp] theorem setMbx_orn (s : State) (a : Nat) (b : Mbx) : (setMbx s a b).orn = s.orn := rfl
@[simp] theorem setMbx_blv (s : State) (a : Nat) (b : Mbx) : (setMbx s a b).blv = s.blv := rfl
@[simp] theorem setMbx_mem (s : State) (a : Nat) (b : Mbx) : (setMbx s a b).mem = s.mem := rfl
@[simp] theorem fget_setMbx (s : State) (a : Nat) (b : Mbx) (fr : FieldRef) : fget (setMbx s a b) fr = fget s fr := rfl

@[simp] theorem mbxEnd_pending (s : State) (a c : Nat) : (mbxEnd s a c).pending = s.pending := rfl
@[simp] theorem mbxEnd_cru (s : State) (a c : Nat) : (mbxEnd s a c).cru = s.cru := rfl
@[simp] theorem mbxEnd_sdl (s : State) (a c : Nat) : (mbxEnd s a c).sdl = s.sdl := rfl
@[simp] theorem mbxEnd_ang (s : State) (a c : Nat) : (mbxEnd s a c).ang = s.ang := rfl
@[simp] theorem mbxEnd_bnd (s : State) (a c : Nat) : (mbxEnd s a c).bnd = s.bnd := rfl
@[simp] theorem mbxEnd_hrb (s : State) (a c : Nat) : (mbxEnd s a c).hrb = s.hrb := rfl
@[simp] theorem mbxEnd_integ (s : State) (a c : Nat) : (mbxEnd s a c).integ = s.integ := rfl
@[simp] theorem mbxEnd_grt (s : State) (a c : Nat) : (mbxEnd s a c).grt = s.grt := rfl
@[simp] theorem mbxEnd_dbg (s : State) (a c : Nat) : (mbxEnd s a c).dbg = s.dbg := rfl
@[simp] theorem mbxEnd_tap (s : State) (a c : Nat) : (mbxEnd s a c).tap = s.tap := rfl
@[simp] theorem mbxEnd_mac (s : State) (a c : Nat) : (mbxEnd s a c).mac = s.mac := rfl
@[simp] theorem mbxEnd_trl (s : State) (a c : Nat) : (mbxEnd s a c).trl = s.trl := rfl
@[simp] theorem mbxEnd_svi (s : State) (a c : Nat) : (mbxEnd s a c).svi = s.svi := rfl
@[simp] theorem mbxEnd_gth (s : State) (a c : Nat) : (mbxEnd s a c).gth = s.gth := rfl
@[simp] theorem mbxEnd_ftb (s : State) (a c : Nat) : (mbxEnd s a c).ftb = s.ftb := rfl
@[simp] theorem mbxEnd_cyc (s : State) (a c : Nat) : (mbxEnd s a c).cyc = s.cyc := rfl
@[simp] theorem mbxEnd_pav (s : State) (a c : Nat) : (mbxEnd s a c).pav = s.pav := rfl
@[simp] theorem mbxEnd_cas (s : State) (a c : Nat) : (mbxEnd s a c).cas = s.cas := rfl
@[simp] theorem mbxEnd_orn (s : State) (a c : Nat) : (mbxEnd s a c).orn = s.orn := rfl
@[simp] theorem mbxEnd_blv (s : State) (a c : Nat) : (mbxEnd s a c).blv = s.blv := rfl
@[simp] theorem mbxEnd_mem (s : State) (a c : Nat) : (mbxEnd s a c).mem = s.mem := rfl
@[simp] theorem fget_mbxEnd (s : State) (a c : Nat) (fr : FieldRef) : fget (mbxEnd s a c) fr = fget s fr := rfl

@[simp] theorem mbxAnswer_pending (s : State) (a c : Nat) (d : List Word) : (mbxAnswer s a c d).pending = s.pending := rfl
@[simp] theorem mbxAnswer_cru (s : State) (a c : Nat) (d : List Word) : (mbxAnswer s a c d).cru = s.cru := rfl
@[simp] theorem mbxAnswer_sdl (s : State) (a c : Nat) (d : List Word) : (mbxAnswer s a c d).sdl = s.sdl := rfl
@[simp] theorem mbxAnswer_ang (s : State) (a c : Nat) (d : List Word) : (mbxAnswer s a c d).ang = s.ang := rfl
@[simp] theorem mbxAnswer_bnd (s : State) (a c : Nat) (d : List Word) : (mbxAnswer s a c d).bnd = s.bnd := rfl
@[simp] theorem mbxAnswer_hrb (s : State) (a c : Nat) (d : List Word) : (mbxAnswer s a c d).hrb = s.hrb := rfl
@[simp] theorem mbxAnswer_integ (s : State) (a c : Nat) (d : List Word) : (mbxAnswer s a c d).integ = s.integ := rfl
@[simp] theorem mbxAnswer_grt (s : State) (a c : Nat) (d : List Word) : (mbxAnswer s a c d).grt = s.grt := rfl
@[simp] theorem mbxAnswer_dbg (s : State) (a c : Nat) (d : List Word) : (mbxAnswer s a c d).dbg = s.dbg := rfl
@[simp] theorem mbxAnswer_tap (s : State) (a c : Nat) (d : List Word) : (mbxAnswer s a c d).tap = s.tap := rfl
@[simp] theorem mbxAnswer_mac (s : State) (a c : Nat) (d : List Word) : (mbxAnswer s a c d).mac = s.mac := rfl
@[simp] theorem mbxAnswer_trl (s : State) (a c : Nat) (d : List Word) : (mbxAnswer s a c d).trl = s.trl := rfl
@[simp] theorem mbxAnswer_svi (s : State) (a c : Nat) (d : List Word) : (mbxAnswer s a c d).svi = s.svi := rfl
@[simp] theorem mbxAnswer_gth (s : State) (a c : Nat) (d : List Word) : (mbxAnswer s a c d).gth = s.gth := rfl
@[simp] theorem mbxAnswer_ftb (s : State) (a c : Nat) (d : List Word) : (mbxAnswer s a c d).ftb = s.ftb := rfl
@[simp] theorem mbxAnswer_cyc (s : State) (a c : Nat) (d : List Word) : (mbxAnswer s a c d).cyc = s.cyc := rfl
@[simp] theorem mbxAnswer_pav (s : State) (a c : Nat) (d : List Word) : (mbxAnswer s a c d).pav = s.pav := rfl
@[simp] theorem mbxAnswer_cas (s : State) (a c : Nat) (d : List Word) : (mbxAnswer s a c d).cas = s.cas := rfl
@[simp] theorem mbxAnswer_orn (s : State) (a c : Nat) (d : List Word) : (mbxAnswer s a c d).orn = s.orn := rfl
@[simp] theorem mbxAnswer_blv (s : State) (a c : Nat) (d : List Word) : (mbxAnswer s a c d).blv = s.blv := rfl
@[simp] theorem mbxAnswer_mem (s : State) (a c : Nat) (d : List Word) : (mbxAnswer s a c d).mem = s.mem := rfl
@[simp] theorem fget_mbxAnswer (s : State) (a c : Nat) (d : List Word) (fr : FieldRef) : fget (mbxAnswer s a c d) fr = fget s fr := rfl

@[simp] theorem fset_pending (s : State) (f : FieldRef) (v : Nat) : (fset s f v).pending = s.pending := rfl
@[simp] theorem fset_cru (s : State) (f : FieldRef) (v : Nat) : (fset s f v).cru = s.cru := rfl
@[simp] theorem fset_sdl (s : State) (f : FieldRef) (v : Nat) : (fset s f v).sdl = s.sdl := rfl
@[simp] theorem fset_ang (s : State) (f : FieldRef) (v : Nat) : (fset s f v).ang = s.ang := rfl
@[simp] theorem fset_bnd (s : State) (f : FieldRef) (v : Nat) : (fset s f v).bnd = s.bnd := rfl
@[simp] theorem fset_hrb (s : State) (f : FieldRef) (v : Nat) : (fset s f v).hrb = s.hrb := rfl
@[simp] theorem fset_integ (s : State) (f : FieldRef) (v : Nat) : (fset s f v).integ = s.integ := rfl
@[simp] theorem fset_grt (s : State) (f : FieldRef) (v : Nat) : (fset s f v).grt = s.grt := rfl
@[simp] theorem fset_dbg (s : State) (f : FieldRef) (v : Nat) : (fset s f v).dbg = s.dbg := rfl
@[simp] theorem fset_tap (s : State) (f : FieldRef) (v : Nat) : (fset s f v).tap = s.tap := rfl
@[simp] theorem fset_mac (s : State) (f : FieldRef) (v : Nat) : (fset s f v).mac = s.mac := rfl
@[simp] theorem fset_trl (s : State) (f : FieldRef) (v : Nat) : (fset s f v).trl = s.trl := rfl
@[simp] theorem fset_svi (s : State) (f : FieldRef) (v : Nat) : (fset s f v).svi = s.svi := rfl
@[simp] theorem fset_gth (s : State) (f : FieldRef) (v : Nat) : (fset s f v).gth = s.gth := rfl
@[simp] theorem fset_ftb (s : State) (f : FieldRef) (v : Nat) : (fset s f v).ftb = s.ftb := rfl
@[simp] theorem fset_cyc (s : State) (f : FieldRef) (v : Nat) : (fset s f v).cyc = s.cyc := rfl
@[simp] theorem fset_pav (s : State) (f : FieldRef) (v : Nat) : (fset s f v).pav = s.pav := rfl
@[simp] theorem fset_cas (s : State) (f : FieldRef) (v : Nat) : (fset s f v).cas = s.cas := rfl
@[simp] theorem fset_orn (s : State) (f : FieldRef) (v : Nat) : (fset s f v).orn = s.orn := rfl
@[simp] theorem fset_blv (s : State) (f : FieldRef) (v : Nat) : (fset s f v).blv = s.blv := rfl
@[simp] theorem fset_mem (s : State) (f : FieldRef) (v : Nat) : (fset s f v).mem = s.mem := rfl
@[simp] theorem mbxAt_fset (s : State) (f : FieldRef) (v : Nat) (i : Nat) : mbxAt (fset s f v) i = mbxAt s i := rfl

@[simp] theorem cadd_pending (s : State) (f : FieldRef) (n : Nat) : (cadd s f n).pending = s.pending := rfl
@[simp] theorem cadd_cru (s : State) (f : FieldRef) (n : Nat) : (cadd s f n).cru = s.cru := rfl
@[simp] theorem cadd_sdl (s : State) (f : FieldRef) (n : Nat) : (cadd s f n).sdl = s.sdl := rfl
@[simp] theorem cadd_ang (s : State) (f : FieldRef) (n : Nat) : (cadd s f n).ang = s.ang := rfl
@[simp] theorem cadd_bnd (s : State) (f : FieldRef) (n : Nat) : (cadd s f n).bnd = s.bnd := rfl
@[simp] theorem cadd_hrb (s : State) (f : FieldRef) (n : Nat) : (cadd s f n).hrb = s.hrb := rfl
@[simp] theorem cadd_integ (s : State) (f : FieldRef) (n : Nat) : (cadd s f n).integ = s.integ := rfl
@[simp] theorem cadd_grt (s : State) (f : FieldRef) (n : Nat) : (cadd s f n).grt = s.grt := rfl
@[simp] theorem cadd_dbg (s : State) (f : FieldRef) (n : Nat) : (cadd s f n).dbg = s.dbg := rfl
@[simp] theorem cadd_tap (s : State) (f : FieldRef) (n : Nat) : (cadd s f n).tap = s.tap := rfl
@[simp] theorem cadd_mac (s : State) (f : FieldRef) (n : Nat) : (cadd s f n).mac = s.mac := rfl
@[simp] theorem cadd_trl (s : State) (f : FieldRef) (n : Nat) : (cadd s f n).trl = s.trl := rfl
@[simp] theorem cadd_svi (s : State) (f : FieldRef) (n : Nat) : (cadd s f n).svi = s.svi := rfl
@[simp] theorem cadd_gth (s : State) (f : FieldRef) (n : Nat) : (cadd s f n).gth = s.gth := rfl
@[simp] theorem cadd_ftb (s : State) (f : FieldRef) (n : Nat) : (cadd s f n).ftb = s.ftb := rfl
@[simp] theorem cadd_cyc (s : State) (f : FieldRef) (n : Nat) : (cadd s f n).cyc = s.cyc := rfl
@[simp] theorem cadd_pav (s : State) (f : FieldRef) (n : Nat) : (cadd s f n).pav = s.pav := rfl
@[simp] theorem cadd_cas (s : State) (f : FieldRef) (n : Nat) : (cadd s f n).cas = s.cas := rfl
@[simp] theorem cadd_orn (s : State) (f : FieldRef) (n : Nat) : (cadd s f n).orn = s.orn := rfl
@[simp] theorem cadd_blv (s : State) (f : FieldRef) (n : Nat) : (cadd s f n).blv = s.blv := rfl
@[simp] theorem cadd_mem (s : State) (f : FieldRef) (n : Nat) : (cadd s f n).mem = s.mem := rfl
@[simp] theorem mbxAt_cadd (s : State) (f : FieldRef) (n : Nat) (i : Nat) : mbxAt (cadd s f n) i = mbxAt s i := rfl

@[simp] theorem cinc_pending (s : State) (f : FieldRef) : (cinc s f).pending = s.pending := rfl
@[simp] theorem cinc_cru (s : State) (f : FieldRef) : (cinc s f).cru = s.cru := rfl
@[simp] theorem cinc_sdl (s : State) (f : FieldRef) : (cinc s f).sdl = s.sdl := rfl
@[simp] theorem cinc_ang (s : State) (f : FieldRef) : (cinc s f).ang = s.ang := rfl
@[simp] theorem cinc_bnd (s : State) (f : FieldRef) : (cinc s f).bnd = s.bnd := rfl
@[simp] theorem cinc_hrb (s : State) (f : FieldRef) : (cinc s f).hrb = s.hrb := rfl
@[simp] theorem cinc_integ (s : State) (f : FieldRef) : (cinc s f).integ = s.integ := rfl
@[simp] theorem cinc_grt (s : State) (f : FieldRef) : (cinc s f).grt = s.grt := rfl
@[simp] theorem cinc_dbg (s : State) (f : FieldRef) : (cinc s f).dbg = s.dbg := rfl
@[simp] theorem cinc_tap (s : State) (f : FieldRef) : (cinc s f).tap = s.tap := rfl
@[simp] theorem cinc_mac (s : State) (f : FieldRef) : (cinc s f).mac = s.mac := rfl
@[simp] theorem cinc_trl (s : State) (f : FieldRef) : (cinc s f).trl = s.trl := rfl
@[simp] theorem cinc_svi (s : State) (f : FieldRef) : (cinc s f).svi = s.svi := rfl
@[simp] theorem cinc_gth (s : State) (f : FieldRef) : (cinc s f).gth = s.gth := rfl
@[simp] theorem cinc_ftb (s : State) (f : FieldRef) : (cinc s f).ftb = s.ftb := rfl
@[simp] theorem cinc_cyc (s : State) (f : FieldRef) : (cinc s f).cyc = s.cyc := rfl
@[simp] theorem cinc_pav (s : State) (f : FieldRef) : (cinc s f).pav = s.pav := rfl
@[simp] theorem cinc_cas (s : State) (f : FieldRef) : (cinc s f).cas = s.cas := rfl
@[simp] theorem cinc_orn (s : State) (f : FieldRef) : (cinc s f).orn = s.orn := rfl
@[simp] theorem cinc_blv (s : State) (f : FieldRef) : (cinc s f).blv = s.blv := rfl
@[simp] theorem cinc_mem (s : State) (f : FieldRef) : (cinc s f).mem = s.mem := rfl
@[simp] theorem mbxAt_cinc (s : State) (f : FieldRef) (i : Nat) : mbxAt (cinc s f) i = mbxAt s i := rfl

@[simp] theorem csub_pending (s : State) (f : FieldRef) (n : Nat) : (csub s f n).pending = s.pending := rfl
@[simp] theorem csub_cru (s : State) (f : FieldRef) (n : Nat) : (csub s f n).cru = s.cru := rfl
@[simp] theorem csub_sdl (s : State) (f : FieldRef) (n : Nat) : (csub s f n).sdl = s.sdl := rfl
@[simp] theorem csub_ang (s : State) (f : FieldRef) (n : Nat) : (csub s f n).ang = s.ang := rfl
@[simp] theorem csub_bnd (s : State) (f : FieldRef) (n : Nat) : (csub s f n).bnd = s.bnd := rfl
@[simp] theorem csub_hrb (s : State) (f : FieldRef) (n : Nat) : (csub s f n).hrb = s.hrb := rfl
@[simp] theorem csub_integ (s : State) (f : FieldRef) (n : Nat) : (csub s f n).integ = s.integ := rfl
@[simp] theorem csub_grt (s : State) (f : FieldRef) (n : Nat) : (csub s f n).grt = s.grt := rfl
@[simp] theorem csub_dbg (s : State) (f : FieldRef) (n : Nat) : (csub s f n).dbg = s.dbg := rfl
@[simp] theorem csub_tap (s : State) (f : FieldRef) (n : Nat) : (csub s f n).tap = s.tap := rfl
@[simp] theorem csub_mac (s : State) (f : FieldRef) (n : Nat) : (csub s f n).mac = s.mac := rfl
@[simp] theorem csub_trl (s : State) (f : FieldRef) (n : Nat) : (csub s f n).trl = s.trl := rfl
@[simp] theorem csub_svi (s : State) (f : FieldRef) (n : Nat) : (csub s f n).svi = s.svi := rfl
@[simp] theorem csub_gth (s : State) (f : FieldRef) (n : Nat) : (csub s f n).gth = s.gth := rfl
@[simp] theorem csub_ftb (s : State) (f : FieldRef) (n : Nat) : (csub s f n).ftb = s.ftb := rfl
@[simp] theorem csub_cyc (s : State) (f : FieldRef) (n : Nat) : (csub s f n).cyc = s.cyc := rfl
@[simp] theorem csub_pav (s : State) (f : FieldRef) (n : Nat) : (csub s f n).pav = s.pav := rfl
@[simp] theorem csub_cas (s : State) (f : FieldRef) (n : Nat) : (csub s f n).cas = s.cas := rfl
@[simp] theorem csub_orn (s : State) (f : FieldRef) (n : Nat) : (csub s f n).orn = s.orn := rfl
@[simp] theorem csub_blv (s : State) (f : FieldRef) (n : Nat) : (csub s f n).blv = s.blv := rfl
@[simp] theorem csub_mem (s : State) (f : FieldRef) (n : Nat) : (csub s f n).mem = s.mem := rfl
@[simp] theorem mbxAt_csub (s : State) (f : FieldRef) (n : Nat) (i : Nat) : mbxAt (csub s f n) i = mbxAt s i := rfl

@[simp] theorem wign_pending (s : State) (p : Nat) : (wign s p).pending = s.pending := rfl
@[simp] theorem wign_cru (s : State) (p : Nat) : (wign s p).cru = s.cru := rfl
@[simp] theorem wign_sdl (s : State) (p : Nat) : (wign s p).sdl = s.sdl := rfl
@[simp] theorem wign_ang (s : State) (p : Nat) : (wign s p).ang = s.ang := rfl
@[simp] theorem wign_bnd (s : State) (p : Nat) : (wign s p).bnd = s.bnd := rfl
@[simp] theorem wign_hrb (s : State) (p : Nat) : (wign s p).hrb = s.hrb := rfl
@[simp] theorem wign_integ (s : State) (p : Nat) : (wign s p).integ = s.integ := rfl
@[simp] theorem wign_grt (s : State) (p : Nat) : (wign s p).grt = s.grt := rfl
@[simp] theorem wign_dbg (s : State) (p : Nat) : (wign s p).dbg = s.dbg := rfl
@[simp] theorem wign_tap (s : State) (p : Nat) : (wign s p).tap = s.tap := rfl
@[simp] theorem wign_mac (s : State) (p : Nat) : (wign s p).mac = s.mac := rfl
@[simp] theorem wign_trl (s : State) (p : Nat) : (wign s p).trl = s.trl := rfl
@[simp] theorem wign_svi (s : State) (p : Nat) : (wign s p).svi = s.svi := rfl
@[simp] theorem wign_gth (s : State) (p : Nat) : (wign s p).gth = s.gth := rfl
@[simp] theorem wign_ftb (s : State) (p : Nat) : (wign s p).ftb = s.ftb := rfl
@[simp] theorem wign_cyc (s : State) (p : Nat) : (wign s p).cyc = s.cyc := rfl
@[simp] theorem wign_pav (s : State) (p : Nat) : (wign s p).pav = s.pav := rfl
@[simp] theorem wign_cas (s : State) (p : Nat) : (wign s p).cas = s.cas := rfl
@[simp] theorem wign_orn (s : State) (p : Nat) : (wign s p).orn = s.orn := rfl
@[simp] theorem wign_blv (s : State) (p : Nat) : (wign s p).blv = s.blv := rfl
@[simp] theorem wign_mem (s : State) (p : Nat) : (wign s p).mem = s.mem := rfl
@[simp] theorem mbxAt_wign (s : State) (p : Nat) (i : Nat) : mbxAt (wign s p) i = mbxAt s i := rfl

@[simp] theorem setTx_pending (s : State) (n : Nat) (x : TxSlot) : (setTx s n x).pending = s.pending := rfl
@[simp] theorem setTx_cru (s : State) (n : Nat) (x : TxSlot) : (setTx s n x).cru = s.cru := rfl
@[simp] theorem setTx_sdl (s : State) (n : Nat) (x : TxSlot) : (setTx s n x).sdl = s.sdl := rfl
@[simp] theorem setTx_ang (s : State) (n : Nat) (x : TxSlot) : (setTx s n x).ang = s.ang := rfl
@[simp] theorem setTx_bnd (s : State) (n : Nat) (x : TxSlot) : (setTx s n x).bnd = s.bnd := rfl
@[simp] theorem setTx_hrb (s : State) (n : Nat) (x : TxSlot) : (setTx s n x).hrb = s.hrb := rfl
@[simp] theorem setTx_integ (s : State) (n : Nat) (x : TxSlot) : (setTx s n x).integ = s.integ := rfl
@[simp] theorem setTx_grt (s : State) (n : Nat) (x : TxSlot) : (setTx s n x).grt = s.grt := rfl
@[simp] theorem setTx_dbg (s : State) (n : Nat) (x : TxSlot) : (setTx s n x).dbg = s.dbg := rfl
@[simp] theorem setTx_tap (s : State) (n : Nat) (x : TxSlot) : (setTx s n x).tap = s.tap := rfl
@[simp] theorem setTx_mac (s : State) (n : Nat) (x : TxSlot) : (setTx s n x).mac = s.mac := rfl
@[simp] theorem setTx_trl (s : State) (n : Nat) (x : TxSlot) : (setTx s n x).trl = s.trl := rfl
@[simp] theorem setTx_svi (s : State) (n : Nat) (x : TxSlot) : (setTx s n x).svi = s.svi := rfl
@[simp] theorem setTx_gth (s : State) (n : Nat) (x : TxSlot) : (setTx s n x).gth = s.gth := rfl
@[simp] theorem setTx_ftb (s : State) (n : Nat) (x : TxSlot) : (setTx s n x).ftb = s.ftb := rfl
@[simp] theorem setTx_cyc (s : State) (n : Nat) (x : TxSlot) : (setTx s n x).cyc = s.cyc := rfl
@[simp] theorem setTx_pav (s : State) (n : Nat) (x : TxSlot) : (setTx s n x).pav = s.pav := rfl
@[simp] theorem setTx_cas (s : State) (n : Nat) (x : TxSlot) : (setTx s n x).cas = s.cas := rfl
@[simp] theorem setTx_orn (s : State) (n : Nat) (x : TxSlot) : (setTx s n x).orn = s.orn := rfl
@[simp] theorem setTx_blv (s : State) (n : Nat) (x : TxSlot) : (setTx s n x).blv = s.blv := rfl
@[simp] theorem setTx_mem (s : State) (n : Nat) (x : TxSlot) : (setTx s n x).mem = s.mem := rfl
@[simp] theorem fget_setTx (s : State) (n : Nat) (x : TxSlot) (fr : FieldRef) : fget (setTx s n x) fr = fget s fr := rfl
@[simp] theorem mbxAt_setTx (s : State) (n : Nat) (x : TxSlot) (i : Nat) : mbxAt (setTx s n x) i = mbxAt s i := rfl

@[simp] theorem drew_pending (s : State) : (drew s ).pending = s.pending := rfl
@[simp] theorem drew_cru (s : State) : (drew s ).cru = s.cru := rfl
@[simp] theorem drew_sdl (s : State) : (drew s ).sdl = s.sdl := rfl
@[simp] theorem drew_ang (s : State) : (drew s ).ang = s.ang := rfl
@[simp] theorem drew_bnd (s : State) : (drew s ).bnd = s.bnd := rfl
@[simp] theorem drew_hrb (s : State) : (drew s ).hrb = s.hrb := rfl
@[simp] theorem drew_integ (s : State) : (drew s ).integ = s.integ := rfl
@[simp] theorem drew_grt (s : State) : (drew s ).grt = s.grt := rfl
@[simp] theorem drew_dbg (s : State) : (drew s ).dbg = s.dbg := rfl
@[simp] theorem drew_tap (s : State) : (drew s ).tap = s.tap := rfl
@[simp] theorem drew_mac (s : State) : (drew s ).mac = s.mac := rfl
@[simp] theorem drew_trl (s : State) : (drew s ).trl = s.trl := rfl
@[simp] theorem drew_svi (s : State) : (drew s ).svi = s.svi := rfl
@[simp] theorem drew_gth (s : State) : (drew s ).gth = s.gth := rfl
@[simp] theorem drew_ftb (s : State) : (drew s ).ftb = s.ftb := rfl
@[simp] theorem drew_cyc (s : State) : (drew s ).cyc = s.cyc := rfl
@[simp] theorem drew_pav (s : State) : (drew s ).pav = s.pav := rfl
@[simp] theorem drew_cas (s : State) : (drew s ).cas = s.cas := rfl
@[simp] theorem drew_orn (s : State) : (drew s ).orn = s.orn := rfl
@[simp] theorem drew_blv (s : State) : (drew s ).blv = s.blv := rfl
@[simp] theorem drew_mem (s : State) : (drew s ).mem = s.mem := rfl
@[simp] theorem fget_drew (s : State) (fr : FieldRef) : fget (drew s ) fr = fget s fr := rfl
@[simp] theorem mbxAt_drew (s : State) (i : Nat) : mbxAt (drew s ) i = mbxAt s i := rfl

@[simp] theorem asks_pending (s : State) (mid a op : Nat) (wr : Bool) (arg : Nat) (d : List Word) : (asks s mid a op wr arg d).pending = s.pending := rfl
@[simp] theorem asks_cru (s : State) (mid a op : Nat) (wr : Bool) (arg : Nat) (d : List Word) : (asks s mid a op wr arg d).cru = s.cru := rfl
@[simp] theorem asks_sdl (s : State) (mid a op : Nat) (wr : Bool) (arg : Nat) (d : List Word) : (asks s mid a op wr arg d).sdl = s.sdl := rfl
@[simp] theorem asks_ang (s : State) (mid a op : Nat) (wr : Bool) (arg : Nat) (d : List Word) : (asks s mid a op wr arg d).ang = s.ang := rfl
@[simp] theorem asks_bnd (s : State) (mid a op : Nat) (wr : Bool) (arg : Nat) (d : List Word) : (asks s mid a op wr arg d).bnd = s.bnd := rfl
@[simp] theorem asks_hrb (s : State) (mid a op : Nat) (wr : Bool) (arg : Nat) (d : List Word) : (asks s mid a op wr arg d).hrb = s.hrb := rfl
@[simp] theorem asks_integ (s : State) (mid a op : Nat) (wr : Bool) (arg : Nat) (d : List Word) : (asks s mid a op wr arg d).integ = s.integ := rfl
@[simp] theorem asks_grt (s : State) (mid a op : Nat) (wr : Bool) (arg : Nat) (d : List Word) : (asks s mid a op wr arg d).grt = s.grt := rfl
@[simp] theorem asks_dbg (s : State) (mid a op : Nat) (wr : Bool) (arg : Nat) (d : List Word) : (asks s mid a op wr arg d).dbg = s.dbg := rfl
@[simp] theorem asks_tap (s : State) (mid a op : Nat) (wr : Bool) (arg : Nat) (d : List Word) : (asks s mid a op wr arg d).tap = s.tap := rfl
@[simp] theorem asks_mac (s : State) (mid a op : Nat) (wr : Bool) (arg : Nat) (d : List Word) : (asks s mid a op wr arg d).mac = s.mac := rfl
@[simp] theorem asks_trl (s : State) (mid a op : Nat) (wr : Bool) (arg : Nat) (d : List Word) : (asks s mid a op wr arg d).trl = s.trl := rfl
@[simp] theorem asks_svi (s : State) (mid a op : Nat) (wr : Bool) (arg : Nat) (d : List Word) : (asks s mid a op wr arg d).svi = s.svi := rfl
@[simp] theorem asks_gth (s : State) (mid a op : Nat) (wr : Bool) (arg : Nat) (d : List Word) : (asks s mid a op wr arg d).gth = s.gth := rfl
@[simp] theorem asks_ftb (s : State) (mid a op : Nat) (wr : Bool) (arg : Nat) (d : List Word) : (asks s mid a op wr arg d).ftb = s.ftb := rfl
@[simp] theorem asks_cyc (s : State) (mid a op : Nat) (wr : Bool) (arg : Nat) (d : List Word) : (asks s mid a op wr arg d).cyc = s.cyc := rfl
@[simp] theorem asks_pav (s : State) (mid a op : Nat) (wr : Bool) (arg : Nat) (d : List Word) : (asks s mid a op wr arg d).pav = s.pav := rfl
@[simp] theorem asks_cas (s : State) (mid a op : Nat) (wr : Bool) (arg : Nat) (d : List Word) : (asks s mid a op wr arg d).cas = s.cas := rfl
@[simp] theorem asks_orn (s : State) (mid a op : Nat) (wr : Bool) (arg : Nat) (d : List Word) : (asks s mid a op wr arg d).orn = s.orn := rfl
@[simp] theorem asks_blv (s : State) (mid a op : Nat) (wr : Bool) (arg : Nat) (d : List Word) : (asks s mid a op wr arg d).blv = s.blv := rfl
@[simp] theorem asks_mem (s : State) (mid a op : Nat) (wr : Bool) (arg : Nat) (d : List Word) : (asks s mid a op wr arg d).mem = s.mem := rfl
@[simp] theorem fget_asks (s : State) (mid a op : Nat) (wr : Bool) (arg : Nat) (d : List Word) (fr : FieldRef) : fget (asks s mid a op wr arg d) fr = fget s fr := rfl

@[simp] theorem setPav_pending (s : State) (p : Nat) (x : Pav) : (setPav s p x).pending = s.pending := rfl
@[simp] theorem setPav_reg (s : State) (p : Nat) (x : Pav) : (setPav s p x).reg = s.reg := rfl
@[simp] theorem setPav_cru (s : State) (p : Nat) (x : Pav) : (setPav s p x).cru = s.cru := rfl
@[simp] theorem setPav_sdl (s : State) (p : Nat) (x : Pav) : (setPav s p x).sdl = s.sdl := rfl
@[simp] theorem setPav_ang (s : State) (p : Nat) (x : Pav) : (setPav s p x).ang = s.ang := rfl
@[simp] theorem setPav_bnd (s : State) (p : Nat) (x : Pav) : (setPav s p x).bnd = s.bnd := rfl
@[simp] theorem setPav_hrb (s : State) (p : Nat) (x : Pav) : (setPav s p x).hrb = s.hrb := rfl
@[simp] theorem setPav_integ (s : State) (p : Nat) (x : Pav) : (setPav s p x).integ = s.integ := rfl
@[simp] theorem setPav_grt (s : State) (p : Nat) (x : Pav) : (setPav s p x).grt = s.grt := rfl
@[simp] theorem setPav_dbg (s : State) (p : Nat) (x : Pav) : (setPav s p x).dbg = s.dbg := rfl
@[simp] theorem setPav_tap (s : State) (p : Nat) (x : Pav) : (setPav s p x).tap = s.tap := rfl
@[simp] theorem setPav_mac (s : State) (p : Nat) (x : Pav) : (setPav s p x).mac = s.mac := rfl
@[simp] theorem setPav_trl (s : State) (p : Nat) (x : Pav) : (setPav s p x).trl = s.trl := rfl
@[simp] theorem setPav_svi (s : State) (p : Nat) (x : Pav) : (setPav s p x).svi = s.svi := rfl
@[simp] theorem setPav_gth (s : State) (p : Nat) (x : Pav) : (setPav s p x).gth = s.gth := rfl
@[simp] theorem setPav_ftb (s : State) (p : Nat) (x : Pav) : (setPav s p x).ftb = s.ftb := rfl
@[simp] theorem setPav_cyc (s : State) (p : Nat) (x : Pav) : (setPav s p x).cyc = s.cyc := rfl
@[simp] theorem setPav_cas (s : State) (p : Nat) (x : Pav) : (setPav s p x).cas = s.cas := rfl
@[simp] theorem setPav_orn (s : State) (p : Nat) (x : Pav) : (setPav s p x).orn = s.orn := rfl
@[simp] theorem setPav_blv (s : State) (p : Nat) (x : Pav) : (setPav s p x).blv = s.blv := rfl
@[simp] theorem setPav_mem (s : State) (p : Nat) (x : Pav) : (setPav s p x).mem = s.mem := rfl
@[simp] theorem fget_setPav (s : State) (p : Nat) (x : Pav) (fr : FieldRef) : fget (setPav s p x) fr = fget s fr := rfl
@[simp] theorem mbxAt_setPav (s : State) (p : Nat) (x : Pav) (i : Nat) : mbxAt (setPav s p x) i = mbxAt s i := rfl

@[simp] theorem setPort_pending (s : State) (m : Nat) (x : Port) : (setPort s m x).pending = s.pending := rfl
@[simp] theorem setPort_reg (s : State) (m : Nat) (x : Port) : (setPort s m x).reg = s.reg := rfl
@[simp] theorem setPort_cru (s : State) (m : Nat) (x : Port) : (setPort s m x).cru = s.cru := rfl
@[simp] theorem setPort_sdl (s : State) (m : Nat) (x : Port) : (setPort s m x).sdl = s.sdl := rfl
@[simp] theorem setPort_ang (s : State) (m : Nat) (x : Port) : (setPort s m x).ang = s.ang := rfl
@[simp] theorem setPort_bnd (s : State) (m : Nat) (x : Port) : (setPort s m x).bnd = s.bnd := rfl
@[simp] theorem setPort_hrb (s : State) (m : Nat) (x : Port) : (setPort s m x).hrb = s.hrb := rfl
@[simp] theorem setPort_integ (s : State) (m : Nat) (x : Port) : (setPort s m x).integ = s.integ := rfl
@[simp] theorem setPort_grt (s : State) (m : Nat) (x : Port) : (setPort s m x).grt = s.grt := rfl
@[simp] theorem setPort_dbg (s : State) (m : Nat) (x : Port) : (setPort s m x).dbg = s.dbg := rfl
@[simp] theorem setPort_tap (s : State) (m : Nat) (x : Port) : (setPort s m x).tap = s.tap := rfl
@[simp] theorem setPort_trl (s : State) (m : Nat) (x : Port) : (setPort s m x).trl = s.trl := rfl
@[simp] theorem setPort_svi (s : State) (m : Nat) (x : Port) : (setPort s m x).svi = s.svi := rfl
@[simp] theorem setPort_gth (s : State) (m : Nat) (x : Port) : (setPort s m x).gth = s.gth := rfl
@[simp] theorem setPort_ftb (s : State) (m : Nat) (x : Port) : (setPort s m x).ftb = s.ftb := rfl
@[simp] theorem setPort_cyc (s : State) (m : Nat) (x : Port) : (setPort s m x).cyc = s.cyc := rfl
@[simp] theorem setPort_pav (s : State) (m : Nat) (x : Port) : (setPort s m x).pav = s.pav := rfl
@[simp] theorem setPort_cas (s : State) (m : Nat) (x : Port) : (setPort s m x).cas = s.cas := rfl
@[simp] theorem setPort_orn (s : State) (m : Nat) (x : Port) : (setPort s m x).orn = s.orn := rfl
@[simp] theorem setPort_blv (s : State) (m : Nat) (x : Port) : (setPort s m x).blv = s.blv := rfl
@[simp] theorem setPort_mem (s : State) (m : Nat) (x : Port) : (setPort s m x).mem = s.mem := rfl
@[simp] theorem fget_setPort (s : State) (m : Nat) (x : Port) (fr : FieldRef) : fget (setPort s m x) fr = fget s fr := rfl
@[simp] theorem mbxAt_setPort (s : State) (m : Nat) (x : Port) (i : Nat) : mbxAt (setPort s m x) i = mbxAt s i := rfl

@[simp] theorem setFtb_pending (s : State) (x : Footbridge) : (setFtb s x).pending = s.pending := rfl
@[simp] theorem setFtb_reg (s : State) (x : Footbridge) : (setFtb s x).reg = s.reg := rfl
@[simp] theorem setFtb_cru (s : State) (x : Footbridge) : (setFtb s x).cru = s.cru := rfl
@[simp] theorem setFtb_sdl (s : State) (x : Footbridge) : (setFtb s x).sdl = s.sdl := rfl
@[simp] theorem setFtb_ang (s : State) (x : Footbridge) : (setFtb s x).ang = s.ang := rfl
@[simp] theorem setFtb_bnd (s : State) (x : Footbridge) : (setFtb s x).bnd = s.bnd := rfl
@[simp] theorem setFtb_hrb (s : State) (x : Footbridge) : (setFtb s x).hrb = s.hrb := rfl
@[simp] theorem setFtb_integ (s : State) (x : Footbridge) : (setFtb s x).integ = s.integ := rfl
@[simp] theorem setFtb_grt (s : State) (x : Footbridge) : (setFtb s x).grt = s.grt := rfl
@[simp] theorem setFtb_dbg (s : State) (x : Footbridge) : (setFtb s x).dbg = s.dbg := rfl
@[simp] theorem setFtb_tap (s : State) (x : Footbridge) : (setFtb s x).tap = s.tap := rfl
@[simp] theorem setFtb_mac (s : State) (x : Footbridge) : (setFtb s x).mac = s.mac := rfl
@[simp] theorem setFtb_trl (s : State) (x : Footbridge) : (setFtb s x).trl = s.trl := rfl
@[simp] theorem setFtb_svi (s : State) (x : Footbridge) : (setFtb s x).svi = s.svi := rfl
@[simp] theorem setFtb_gth (s : State) (x : Footbridge) : (setFtb s x).gth = s.gth := rfl
@[simp] theorem setFtb_cyc (s : State) (x : Footbridge) : (setFtb s x).cyc = s.cyc := rfl
@[simp] theorem setFtb_pav (s : State) (x : Footbridge) : (setFtb s x).pav = s.pav := rfl
@[simp] theorem setFtb_cas (s : State) (x : Footbridge) : (setFtb s x).cas = s.cas := rfl
@[simp] theorem setFtb_orn (s : State) (x : Footbridge) : (setFtb s x).orn = s.orn := rfl
@[simp] theorem setFtb_blv (s : State) (x : Footbridge) : (setFtb s x).blv = s.blv := rfl
@[simp] theorem setFtb_mem (s : State) (x : Footbridge) : (setFtb s x).mem = s.mem := rfl
@[simp] theorem fget_setFtb (s : State) (x : Footbridge) (fr : FieldRef) : fget (setFtb s x) fr = fget s fr := rfl
@[simp] theorem mbxAt_setFtb (s : State) (x : Footbridge) (i : Nat) : mbxAt (setFtb s x) i = mbxAt s i := rfl

@[simp] theorem setOrn_pending (s : State) (x : Orangery) : (setOrn s x).pending = s.pending := rfl
@[simp] theorem setOrn_reg (s : State) (x : Orangery) : (setOrn s x).reg = s.reg := rfl
@[simp] theorem setOrn_cru (s : State) (x : Orangery) : (setOrn s x).cru = s.cru := rfl
@[simp] theorem setOrn_sdl (s : State) (x : Orangery) : (setOrn s x).sdl = s.sdl := rfl
@[simp] theorem setOrn_ang (s : State) (x : Orangery) : (setOrn s x).ang = s.ang := rfl
@[simp] theorem setOrn_bnd (s : State) (x : Orangery) : (setOrn s x).bnd = s.bnd := rfl
@[simp] theorem setOrn_hrb (s : State) (x : Orangery) : (setOrn s x).hrb = s.hrb := rfl
@[simp] theorem setOrn_integ (s : State) (x : Orangery) : (setOrn s x).integ = s.integ := rfl
@[simp] theorem setOrn_grt (s : State) (x : Orangery) : (setOrn s x).grt = s.grt := rfl
@[simp] theorem setOrn_dbg (s : State) (x : Orangery) : (setOrn s x).dbg = s.dbg := rfl
@[simp] theorem setOrn_tap (s : State) (x : Orangery) : (setOrn s x).tap = s.tap := rfl
@[simp] theorem setOrn_mac (s : State) (x : Orangery) : (setOrn s x).mac = s.mac := rfl
@[simp] theorem setOrn_trl (s : State) (x : Orangery) : (setOrn s x).trl = s.trl := rfl
@[simp] theorem setOrn_svi (s : State) (x : Orangery) : (setOrn s x).svi = s.svi := rfl
@[simp] theorem setOrn_gth (s : State) (x : Orangery) : (setOrn s x).gth = s.gth := rfl
@[simp] theorem setOrn_ftb (s : State) (x : Orangery) : (setOrn s x).ftb = s.ftb := rfl
@[simp] theorem setOrn_cyc (s : State) (x : Orangery) : (setOrn s x).cyc = s.cyc := rfl
@[simp] theorem setOrn_pav (s : State) (x : Orangery) : (setOrn s x).pav = s.pav := rfl
@[simp] theorem setOrn_cas (s : State) (x : Orangery) : (setOrn s x).cas = s.cas := rfl
@[simp] theorem setOrn_blv (s : State) (x : Orangery) : (setOrn s x).blv = s.blv := rfl
@[simp] theorem setOrn_mem (s : State) (x : Orangery) : (setOrn s x).mem = s.mem := rfl
@[simp] theorem fget_setOrn (s : State) (x : Orangery) (fr : FieldRef) : fget (setOrn s x) fr = fget s fr := rfl
@[simp] theorem mbxAt_setOrn (s : State) (x : Orangery) (i : Nat) : mbxAt (setOrn s x) i = mbxAt s i := rfl

@[simp] theorem setBlv_pending (s : State) (x : Belvedere) : (setBlv s x).pending = s.pending := rfl
@[simp] theorem setBlv_reg (s : State) (x : Belvedere) : (setBlv s x).reg = s.reg := rfl
@[simp] theorem setBlv_cru (s : State) (x : Belvedere) : (setBlv s x).cru = s.cru := rfl
@[simp] theorem setBlv_sdl (s : State) (x : Belvedere) : (setBlv s x).sdl = s.sdl := rfl
@[simp] theorem setBlv_ang (s : State) (x : Belvedere) : (setBlv s x).ang = s.ang := rfl
@[simp] theorem setBlv_bnd (s : State) (x : Belvedere) : (setBlv s x).bnd = s.bnd := rfl
@[simp] theorem setBlv_hrb (s : State) (x : Belvedere) : (setBlv s x).hrb = s.hrb := rfl
@[simp] theorem setBlv_integ (s : State) (x : Belvedere) : (setBlv s x).integ = s.integ := rfl
@[simp] theorem setBlv_grt (s : State) (x : Belvedere) : (setBlv s x).grt = s.grt := rfl
@[simp] theorem setBlv_dbg (s : State) (x : Belvedere) : (setBlv s x).dbg = s.dbg := rfl
@[simp] theorem setBlv_tap (s : State) (x : Belvedere) : (setBlv s x).tap = s.tap := rfl
@[simp] theorem setBlv_mac (s : State) (x : Belvedere) : (setBlv s x).mac = s.mac := rfl
@[simp] theorem setBlv_trl (s : State) (x : Belvedere) : (setBlv s x).trl = s.trl := rfl
@[simp] theorem setBlv_svi (s : State) (x : Belvedere) : (setBlv s x).svi = s.svi := rfl
@[simp] theorem setBlv_gth (s : State) (x : Belvedere) : (setBlv s x).gth = s.gth := rfl
@[simp] theorem setBlv_ftb (s : State) (x : Belvedere) : (setBlv s x).ftb = s.ftb := rfl
@[simp] theorem setBlv_cyc (s : State) (x : Belvedere) : (setBlv s x).cyc = s.cyc := rfl
@[simp] theorem setBlv_pav (s : State) (x : Belvedere) : (setBlv s x).pav = s.pav := rfl
@[simp] theorem setBlv_cas (s : State) (x : Belvedere) : (setBlv s x).cas = s.cas := rfl
@[simp] theorem setBlv_orn (s : State) (x : Belvedere) : (setBlv s x).orn = s.orn := rfl
@[simp] theorem setBlv_mem (s : State) (x : Belvedere) : (setBlv s x).mem = s.mem := rfl
@[simp] theorem fget_setBlv (s : State) (x : Belvedere) (fr : FieldRef) : fget (setBlv s x) fr = fget s fr := rfl
@[simp] theorem mbxAt_setBlv (s : State) (x : Belvedere) (i : Nat) : mbxAt (setBlv s x) i = mbxAt s i := rfl

@[simp] theorem setStream_pending (s : State) (k : Nat) (x : Stream) : (setStream s k x).pending = s.pending := rfl
@[simp] theorem setStream_reg (s : State) (k : Nat) (x : Stream) : (setStream s k x).reg = s.reg := rfl
@[simp] theorem setStream_cru (s : State) (k : Nat) (x : Stream) : (setStream s k x).cru = s.cru := rfl
@[simp] theorem setStream_sdl (s : State) (k : Nat) (x : Stream) : (setStream s k x).sdl = s.sdl := rfl
@[simp] theorem setStream_ang (s : State) (k : Nat) (x : Stream) : (setStream s k x).ang = s.ang := rfl
@[simp] theorem setStream_bnd (s : State) (k : Nat) (x : Stream) : (setStream s k x).bnd = s.bnd := rfl
@[simp] theorem setStream_hrb (s : State) (k : Nat) (x : Stream) : (setStream s k x).hrb = s.hrb := rfl
@[simp] theorem setStream_integ (s : State) (k : Nat) (x : Stream) : (setStream s k x).integ = s.integ := rfl
@[simp] theorem setStream_grt (s : State) (k : Nat) (x : Stream) : (setStream s k x).grt = s.grt := rfl
@[simp] theorem setStream_dbg (s : State) (k : Nat) (x : Stream) : (setStream s k x).dbg = s.dbg := rfl
@[simp] theorem setStream_tap (s : State) (k : Nat) (x : Stream) : (setStream s k x).tap = s.tap := rfl
@[simp] theorem setStream_mac (s : State) (k : Nat) (x : Stream) : (setStream s k x).mac = s.mac := rfl
@[simp] theorem setStream_trl (s : State) (k : Nat) (x : Stream) : (setStream s k x).trl = s.trl := rfl
@[simp] theorem setStream_gth (s : State) (k : Nat) (x : Stream) : (setStream s k x).gth = s.gth := rfl
@[simp] theorem setStream_ftb (s : State) (k : Nat) (x : Stream) : (setStream s k x).ftb = s.ftb := rfl
@[simp] theorem setStream_cyc (s : State) (k : Nat) (x : Stream) : (setStream s k x).cyc = s.cyc := rfl
@[simp] theorem setStream_pav (s : State) (k : Nat) (x : Stream) : (setStream s k x).pav = s.pav := rfl
@[simp] theorem setStream_cas (s : State) (k : Nat) (x : Stream) : (setStream s k x).cas = s.cas := rfl
@[simp] theorem setStream_orn (s : State) (k : Nat) (x : Stream) : (setStream s k x).orn = s.orn := rfl
@[simp] theorem setStream_blv (s : State) (k : Nat) (x : Stream) : (setStream s k x).blv = s.blv := rfl
@[simp] theorem setStream_mem (s : State) (k : Nat) (x : Stream) : (setStream s k x).mem = s.mem := rfl
@[simp] theorem fget_setStream (s : State) (k : Nat) (x : Stream) (fr : FieldRef) : fget (setStream s k x) fr = fget s fr := rfl
@[simp] theorem mbxAt_setStream (s : State) (k : Nat) (x : Stream) (i : Nat) : mbxAt (setStream s k x) i = mbxAt s i := rfl

@[simp] theorem setChan_pending (s : State) (c : Nat) (x : CasChannel) : (setChan s c x).pending = s.pending := rfl
@[simp] theorem setChan_reg (s : State) (c : Nat) (x : CasChannel) : (setChan s c x).reg = s.reg := rfl
@[simp] theorem setChan_cru (s : State) (c : Nat) (x : CasChannel) : (setChan s c x).cru = s.cru := rfl
@[simp] theorem setChan_sdl (s : State) (c : Nat) (x : CasChannel) : (setChan s c x).sdl = s.sdl := rfl
@[simp] theorem setChan_ang (s : State) (c : Nat) (x : CasChannel) : (setChan s c x).ang = s.ang := rfl
@[simp] theorem setChan_bnd (s : State) (c : Nat) (x : CasChannel) : (setChan s c x).bnd = s.bnd := rfl
@[simp] theorem setChan_hrb (s : State) (c : Nat) (x : CasChannel) : (setChan s c x).hrb = s.hrb := rfl
@[simp] theorem setChan_integ (s : State) (c : Nat) (x : CasChannel) : (setChan s c x).integ = s.integ := rfl
@[simp] theorem setChan_grt (s : State) (c : Nat) (x : CasChannel) : (setChan s c x).grt = s.grt := rfl
@[simp] theorem setChan_dbg (s : State) (c : Nat) (x : CasChannel) : (setChan s c x).dbg = s.dbg := rfl
@[simp] theorem setChan_tap (s : State) (c : Nat) (x : CasChannel) : (setChan s c x).tap = s.tap := rfl
@[simp] theorem setChan_mac (s : State) (c : Nat) (x : CasChannel) : (setChan s c x).mac = s.mac := rfl
@[simp] theorem setChan_trl (s : State) (c : Nat) (x : CasChannel) : (setChan s c x).trl = s.trl := rfl
@[simp] theorem setChan_svi (s : State) (c : Nat) (x : CasChannel) : (setChan s c x).svi = s.svi := rfl
@[simp] theorem setChan_gth (s : State) (c : Nat) (x : CasChannel) : (setChan s c x).gth = s.gth := rfl
@[simp] theorem setChan_ftb (s : State) (c : Nat) (x : CasChannel) : (setChan s c x).ftb = s.ftb := rfl
@[simp] theorem setChan_cyc (s : State) (c : Nat) (x : CasChannel) : (setChan s c x).cyc = s.cyc := rfl
@[simp] theorem setChan_pav (s : State) (c : Nat) (x : CasChannel) : (setChan s c x).pav = s.pav := rfl
@[simp] theorem setChan_orn (s : State) (c : Nat) (x : CasChannel) : (setChan s c x).orn = s.orn := rfl
@[simp] theorem setChan_blv (s : State) (c : Nat) (x : CasChannel) : (setChan s c x).blv = s.blv := rfl
@[simp] theorem setChan_mem (s : State) (c : Nat) (x : CasChannel) : (setChan s c x).mem = s.mem := rfl
@[simp] theorem fget_setChan (s : State) (c : Nat) (x : CasChannel) (fr : FieldRef) : fget (setChan s c x) fr = fget s fr := rfl
@[simp] theorem mbxAt_setChan (s : State) (c : Nat) (x : CasChannel) (i : Nat) : mbxAt (setChan s c x) i = mbxAt s i := rfl

@[simp] theorem setLtn_pending (s : State) (g : Nat) (x : LtnGroup) : (setLtn s g x).pending = s.pending := rfl
@[simp] theorem setLtn_reg (s : State) (g : Nat) (x : LtnGroup) : (setLtn s g x).reg = s.reg := rfl
@[simp] theorem setLtn_cru (s : State) (g : Nat) (x : LtnGroup) : (setLtn s g x).cru = s.cru := rfl
@[simp] theorem setLtn_sdl (s : State) (g : Nat) (x : LtnGroup) : (setLtn s g x).sdl = s.sdl := rfl
@[simp] theorem setLtn_ang (s : State) (g : Nat) (x : LtnGroup) : (setLtn s g x).ang = s.ang := rfl
@[simp] theorem setLtn_bnd (s : State) (g : Nat) (x : LtnGroup) : (setLtn s g x).bnd = s.bnd := rfl
@[simp] theorem setLtn_hrb (s : State) (g : Nat) (x : LtnGroup) : (setLtn s g x).hrb = s.hrb := rfl
@[simp] theorem setLtn_integ (s : State) (g : Nat) (x : LtnGroup) : (setLtn s g x).integ = s.integ := rfl
@[simp] theorem setLtn_grt (s : State) (g : Nat) (x : LtnGroup) : (setLtn s g x).grt = s.grt := rfl
@[simp] theorem setLtn_dbg (s : State) (g : Nat) (x : LtnGroup) : (setLtn s g x).dbg = s.dbg := rfl
@[simp] theorem setLtn_tap (s : State) (g : Nat) (x : LtnGroup) : (setLtn s g x).tap = s.tap := rfl
@[simp] theorem setLtn_mac (s : State) (g : Nat) (x : LtnGroup) : (setLtn s g x).mac = s.mac := rfl
@[simp] theorem setLtn_trl (s : State) (g : Nat) (x : LtnGroup) : (setLtn s g x).trl = s.trl := rfl
@[simp] theorem setLtn_svi (s : State) (g : Nat) (x : LtnGroup) : (setLtn s g x).svi = s.svi := rfl
@[simp] theorem setLtn_gth (s : State) (g : Nat) (x : LtnGroup) : (setLtn s g x).gth = s.gth := rfl
@[simp] theorem setLtn_ftb (s : State) (g : Nat) (x : LtnGroup) : (setLtn s g x).ftb = s.ftb := rfl
@[simp] theorem setLtn_cyc (s : State) (g : Nat) (x : LtnGroup) : (setLtn s g x).cyc = s.cyc := rfl
@[simp] theorem setLtn_pav (s : State) (g : Nat) (x : LtnGroup) : (setLtn s g x).pav = s.pav := rfl
@[simp] theorem setLtn_orn (s : State) (g : Nat) (x : LtnGroup) : (setLtn s g x).orn = s.orn := rfl
@[simp] theorem setLtn_blv (s : State) (g : Nat) (x : LtnGroup) : (setLtn s g x).blv = s.blv := rfl
@[simp] theorem setLtn_mem (s : State) (g : Nat) (x : LtnGroup) : (setLtn s g x).mem = s.mem := rfl
@[simp] theorem fget_setLtn (s : State) (g : Nat) (x : LtnGroup) (fr : FieldRef) : fget (setLtn s g x) fr = fget s fr := rfl
@[simp] theorem mbxAt_setLtn (s : State) (g : Nat) (x : LtnGroup) (i : Nat) : mbxAt (setLtn s g x) i = mbxAt s i := rfl

@[simp] theorem setAlarm_pending (s : State) (k : Nat) (x : Alarm) : (setAlarm s k x).pending = s.pending := rfl
@[simp] theorem setAlarm_reg (s : State) (k : Nat) (x : Alarm) : (setAlarm s k x).reg = s.reg := rfl
@[simp] theorem setAlarm_cru (s : State) (k : Nat) (x : Alarm) : (setAlarm s k x).cru = s.cru := rfl
@[simp] theorem setAlarm_sdl (s : State) (k : Nat) (x : Alarm) : (setAlarm s k x).sdl = s.sdl := rfl
@[simp] theorem setAlarm_bnd (s : State) (k : Nat) (x : Alarm) : (setAlarm s k x).bnd = s.bnd := rfl
@[simp] theorem setAlarm_hrb (s : State) (k : Nat) (x : Alarm) : (setAlarm s k x).hrb = s.hrb := rfl
@[simp] theorem setAlarm_integ (s : State) (k : Nat) (x : Alarm) : (setAlarm s k x).integ = s.integ := rfl
@[simp] theorem setAlarm_grt (s : State) (k : Nat) (x : Alarm) : (setAlarm s k x).grt = s.grt := rfl
@[simp] theorem setAlarm_dbg (s : State) (k : Nat) (x : Alarm) : (setAlarm s k x).dbg = s.dbg := rfl
@[simp] theorem setAlarm_tap (s : State) (k : Nat) (x : Alarm) : (setAlarm s k x).tap = s.tap := rfl
@[simp] theorem setAlarm_mac (s : State) (k : Nat) (x : Alarm) : (setAlarm s k x).mac = s.mac := rfl
@[simp] theorem setAlarm_trl (s : State) (k : Nat) (x : Alarm) : (setAlarm s k x).trl = s.trl := rfl
@[simp] theorem setAlarm_svi (s : State) (k : Nat) (x : Alarm) : (setAlarm s k x).svi = s.svi := rfl
@[simp] theorem setAlarm_gth (s : State) (k : Nat) (x : Alarm) : (setAlarm s k x).gth = s.gth := rfl
@[simp] theorem setAlarm_ftb (s : State) (k : Nat) (x : Alarm) : (setAlarm s k x).ftb = s.ftb := rfl
@[simp] theorem setAlarm_cyc (s : State) (k : Nat) (x : Alarm) : (setAlarm s k x).cyc = s.cyc := rfl
@[simp] theorem setAlarm_pav (s : State) (k : Nat) (x : Alarm) : (setAlarm s k x).pav = s.pav := rfl
@[simp] theorem setAlarm_cas (s : State) (k : Nat) (x : Alarm) : (setAlarm s k x).cas = s.cas := rfl
@[simp] theorem setAlarm_orn (s : State) (k : Nat) (x : Alarm) : (setAlarm s k x).orn = s.orn := rfl
@[simp] theorem setAlarm_blv (s : State) (k : Nat) (x : Alarm) : (setAlarm s k x).blv = s.blv := rfl
@[simp] theorem setAlarm_mem (s : State) (k : Nat) (x : Alarm) : (setAlarm s k x).mem = s.mem := rfl
@[simp] theorem fget_setAlarm (s : State) (k : Nat) (x : Alarm) (fr : FieldRef) : fget (setAlarm s k x) fr = fget s fr := rfl
@[simp] theorem mbxAt_setAlarm (s : State) (k : Nat) (x : Alarm) (i : Nat) : mbxAt (setAlarm s k x) i = mbxAt s i := rfl

@[simp] theorem setFdb_pending (s : State) (x : Tbl FdbEntry) : (setFdb s x).pending = s.pending := rfl
@[simp] theorem setFdb_reg (s : State) (x : Tbl FdbEntry) : (setFdb s x).reg = s.reg := rfl
@[simp] theorem setFdb_cru (s : State) (x : Tbl FdbEntry) : (setFdb s x).cru = s.cru := rfl
@[simp] theorem setFdb_sdl (s : State) (x : Tbl FdbEntry) : (setFdb s x).sdl = s.sdl := rfl
@[simp] theorem setFdb_ang (s : State) (x : Tbl FdbEntry) : (setFdb s x).ang = s.ang := rfl
@[simp] theorem setFdb_bnd (s : State) (x : Tbl FdbEntry) : (setFdb s x).bnd = s.bnd := rfl
@[simp] theorem setFdb_hrb (s : State) (x : Tbl FdbEntry) : (setFdb s x).hrb = s.hrb := rfl
@[simp] theorem setFdb_integ (s : State) (x : Tbl FdbEntry) : (setFdb s x).integ = s.integ := rfl
@[simp] theorem setFdb_grt (s : State) (x : Tbl FdbEntry) : (setFdb s x).grt = s.grt := rfl
@[simp] theorem setFdb_dbg (s : State) (x : Tbl FdbEntry) : (setFdb s x).dbg = s.dbg := rfl
@[simp] theorem setFdb_tap (s : State) (x : Tbl FdbEntry) : (setFdb s x).tap = s.tap := rfl
@[simp] theorem setFdb_mac (s : State) (x : Tbl FdbEntry) : (setFdb s x).mac = s.mac := rfl
@[simp] theorem setFdb_svi (s : State) (x : Tbl FdbEntry) : (setFdb s x).svi = s.svi := rfl
@[simp] theorem setFdb_gth (s : State) (x : Tbl FdbEntry) : (setFdb s x).gth = s.gth := rfl
@[simp] theorem setFdb_ftb (s : State) (x : Tbl FdbEntry) : (setFdb s x).ftb = s.ftb := rfl
@[simp] theorem setFdb_cyc (s : State) (x : Tbl FdbEntry) : (setFdb s x).cyc = s.cyc := rfl
@[simp] theorem setFdb_pav (s : State) (x : Tbl FdbEntry) : (setFdb s x).pav = s.pav := rfl
@[simp] theorem setFdb_cas (s : State) (x : Tbl FdbEntry) : (setFdb s x).cas = s.cas := rfl
@[simp] theorem setFdb_orn (s : State) (x : Tbl FdbEntry) : (setFdb s x).orn = s.orn := rfl
@[simp] theorem setFdb_blv (s : State) (x : Tbl FdbEntry) : (setFdb s x).blv = s.blv := rfl
@[simp] theorem setFdb_mem (s : State) (x : Tbl FdbEntry) : (setFdb s x).mem = s.mem := rfl
@[simp] theorem fget_setFdb (s : State) (x : Tbl FdbEntry) (fr : FieldRef) : fget (setFdb s x) fr = fget s fr := rfl
@[simp] theorem mbxAt_setFdb (s : State) (x : Tbl FdbEntry) (i : Nat) : mbxAt (setFdb s x) i = mbxAt s i := rfl

@[simp] theorem setClass_pending (s : State) (c : Nat) (x : ClassRun) : (setClass s c x).pending = s.pending := rfl
@[simp] theorem setClass_reg (s : State) (c : Nat) (x : ClassRun) : (setClass s c x).reg = s.reg := rfl
@[simp] theorem setClass_cru (s : State) (c : Nat) (x : ClassRun) : (setClass s c x).cru = s.cru := rfl
@[simp] theorem setClass_sdl (s : State) (c : Nat) (x : ClassRun) : (setClass s c x).sdl = s.sdl := rfl
@[simp] theorem setClass_ang (s : State) (c : Nat) (x : ClassRun) : (setClass s c x).ang = s.ang := rfl
@[simp] theorem setClass_bnd (s : State) (c : Nat) (x : ClassRun) : (setClass s c x).bnd = s.bnd := rfl
@[simp] theorem setClass_hrb (s : State) (c : Nat) (x : ClassRun) : (setClass s c x).hrb = s.hrb := rfl
@[simp] theorem setClass_integ (s : State) (c : Nat) (x : ClassRun) : (setClass s c x).integ = s.integ := rfl
@[simp] theorem setClass_grt (s : State) (c : Nat) (x : ClassRun) : (setClass s c x).grt = s.grt := rfl
@[simp] theorem setClass_dbg (s : State) (c : Nat) (x : ClassRun) : (setClass s c x).dbg = s.dbg := rfl
@[simp] theorem setClass_tap (s : State) (c : Nat) (x : ClassRun) : (setClass s c x).tap = s.tap := rfl
@[simp] theorem setClass_mac (s : State) (c : Nat) (x : ClassRun) : (setClass s c x).mac = s.mac := rfl
@[simp] theorem setClass_trl (s : State) (c : Nat) (x : ClassRun) : (setClass s c x).trl = s.trl := rfl
@[simp] theorem setClass_svi (s : State) (c : Nat) (x : ClassRun) : (setClass s c x).svi = s.svi := rfl
@[simp] theorem setClass_gth (s : State) (c : Nat) (x : ClassRun) : (setClass s c x).gth = s.gth := rfl
@[simp] theorem setClass_ftb (s : State) (c : Nat) (x : ClassRun) : (setClass s c x).ftb = s.ftb := rfl
@[simp] theorem setClass_pav (s : State) (c : Nat) (x : ClassRun) : (setClass s c x).pav = s.pav := rfl
@[simp] theorem setClass_cas (s : State) (c : Nat) (x : ClassRun) : (setClass s c x).cas = s.cas := rfl
@[simp] theorem setClass_orn (s : State) (c : Nat) (x : ClassRun) : (setClass s c x).orn = s.orn := rfl
@[simp] theorem setClass_blv (s : State) (c : Nat) (x : ClassRun) : (setClass s c x).blv = s.blv := rfl
@[simp] theorem setClass_mem (s : State) (c : Nat) (x : ClassRun) : (setClass s c x).mem = s.mem := rfl
@[simp] theorem fget_setClass (s : State) (c : Nat) (x : ClassRun) (fr : FieldRef) : fget (setClass s c x) fr = fget s fr := rfl
@[simp] theorem mbxAt_setClass (s : State) (c : Nat) (x : ClassRun) (i : Nat) : mbxAt (setClass s c x) i = mbxAt s i := rfl

@[simp] theorem setProg_pending (s : State) (p : Nat) (x : Program) : (setProg s p x).pending = s.pending := rfl
@[simp] theorem setProg_reg (s : State) (p : Nat) (x : Program) : (setProg s p x).reg = s.reg := rfl
@[simp] theorem setProg_cru (s : State) (p : Nat) (x : Program) : (setProg s p x).cru = s.cru := rfl
@[simp] theorem setProg_sdl (s : State) (p : Nat) (x : Program) : (setProg s p x).sdl = s.sdl := rfl
@[simp] theorem setProg_ang (s : State) (p : Nat) (x : Program) : (setProg s p x).ang = s.ang := rfl
@[simp] theorem setProg_bnd (s : State) (p : Nat) (x : Program) : (setProg s p x).bnd = s.bnd := rfl
@[simp] theorem setProg_hrb (s : State) (p : Nat) (x : Program) : (setProg s p x).hrb = s.hrb := rfl
@[simp] theorem setProg_integ (s : State) (p : Nat) (x : Program) : (setProg s p x).integ = s.integ := rfl
@[simp] theorem setProg_grt (s : State) (p : Nat) (x : Program) : (setProg s p x).grt = s.grt := rfl
@[simp] theorem setProg_dbg (s : State) (p : Nat) (x : Program) : (setProg s p x).dbg = s.dbg := rfl
@[simp] theorem setProg_tap (s : State) (p : Nat) (x : Program) : (setProg s p x).tap = s.tap := rfl
@[simp] theorem setProg_mac (s : State) (p : Nat) (x : Program) : (setProg s p x).mac = s.mac := rfl
@[simp] theorem setProg_trl (s : State) (p : Nat) (x : Program) : (setProg s p x).trl = s.trl := rfl
@[simp] theorem setProg_svi (s : State) (p : Nat) (x : Program) : (setProg s p x).svi = s.svi := rfl
@[simp] theorem setProg_gth (s : State) (p : Nat) (x : Program) : (setProg s p x).gth = s.gth := rfl
@[simp] theorem setProg_ftb (s : State) (p : Nat) (x : Program) : (setProg s p x).ftb = s.ftb := rfl
@[simp] theorem setProg_pav (s : State) (p : Nat) (x : Program) : (setProg s p x).pav = s.pav := rfl
@[simp] theorem setProg_cas (s : State) (p : Nat) (x : Program) : (setProg s p x).cas = s.cas := rfl
@[simp] theorem setProg_orn (s : State) (p : Nat) (x : Program) : (setProg s p x).orn = s.orn := rfl
@[simp] theorem setProg_blv (s : State) (p : Nat) (x : Program) : (setProg s p x).blv = s.blv := rfl
@[simp] theorem setProg_mem (s : State) (p : Nat) (x : Program) : (setProg s p x).mem = s.mem := rfl
@[simp] theorem fget_setProg (s : State) (p : Nat) (x : Program) (fr : FieldRef) : fget (setProg s p x) fr = fget s fr := rfl
@[simp] theorem mbxAt_setProg (s : State) (p : Nat) (x : Program) (i : Nat) : mbxAt (setProg s p x) i = mbxAt s i := rfl

@[simp] theorem wr8_pending (s : State) (a v : Nat) : (wr8 s a v).pending = s.pending := rfl
@[simp] theorem wr8_reg (s : State) (a v : Nat) : (wr8 s a v).reg = s.reg := rfl
@[simp] theorem wr8_cru (s : State) (a v : Nat) : (wr8 s a v).cru = s.cru := rfl
@[simp] theorem wr8_sdl (s : State) (a v : Nat) : (wr8 s a v).sdl = s.sdl := rfl
@[simp] theorem wr8_ang (s : State) (a v : Nat) : (wr8 s a v).ang = s.ang := rfl
@[simp] theorem wr8_bnd (s : State) (a v : Nat) : (wr8 s a v).bnd = s.bnd := rfl
@[simp] theorem wr8_hrb (s : State) (a v : Nat) : (wr8 s a v).hrb = s.hrb := rfl
@[simp] theorem wr8_integ (s : State) (a v : Nat) : (wr8 s a v).integ = s.integ := rfl
@[simp] theorem wr8_grt (s : State) (a v : Nat) : (wr8 s a v).grt = s.grt := rfl
@[simp] theorem wr8_dbg (s : State) (a v : Nat) : (wr8 s a v).dbg = s.dbg := rfl
@[simp] theorem wr8_tap (s : State) (a v : Nat) : (wr8 s a v).tap = s.tap := rfl
@[simp] theorem wr8_mac (s : State) (a v : Nat) : (wr8 s a v).mac = s.mac := rfl
@[simp] theorem wr8_trl (s : State) (a v : Nat) : (wr8 s a v).trl = s.trl := rfl
@[simp] theorem wr8_svi (s : State) (a v : Nat) : (wr8 s a v).svi = s.svi := rfl
@[simp] theorem wr8_gth (s : State) (a v : Nat) : (wr8 s a v).gth = s.gth := rfl
@[simp] theorem wr8_ftb (s : State) (a v : Nat) : (wr8 s a v).ftb = s.ftb := rfl
@[simp] theorem wr8_cyc (s : State) (a v : Nat) : (wr8 s a v).cyc = s.cyc := rfl
@[simp] theorem wr8_pav (s : State) (a v : Nat) : (wr8 s a v).pav = s.pav := rfl
@[simp] theorem wr8_cas (s : State) (a v : Nat) : (wr8 s a v).cas = s.cas := rfl
@[simp] theorem wr8_orn (s : State) (a v : Nat) : (wr8 s a v).orn = s.orn := rfl
@[simp] theorem wr8_blv (s : State) (a v : Nat) : (wr8 s a v).blv = s.blv := rfl
@[simp] theorem fget_wr8 (s : State) (a v : Nat) (fr : FieldRef) : fget (wr8 s a v) fr = fget s fr := rfl
@[simp] theorem mbxAt_wr8 (s : State) (a v : Nat) (i : Nat) : mbxAt (wr8 s a v) i = mbxAt s i := rfl

@[simp] theorem ctrMove_pending (s : State) (f : FieldRef) (h d : Nat) : (ctrMove s f h d).pending = s.pending := rfl
@[simp] theorem ctrMove_cru (s : State) (f : FieldRef) (h d : Nat) : (ctrMove s f h d).cru = s.cru := rfl
@[simp] theorem ctrMove_sdl (s : State) (f : FieldRef) (h d : Nat) : (ctrMove s f h d).sdl = s.sdl := rfl
@[simp] theorem ctrMove_ang (s : State) (f : FieldRef) (h d : Nat) : (ctrMove s f h d).ang = s.ang := rfl
@[simp] theorem ctrMove_bnd (s : State) (f : FieldRef) (h d : Nat) : (ctrMove s f h d).bnd = s.bnd := rfl
@[simp] theorem ctrMove_hrb (s : State) (f : FieldRef) (h d : Nat) : (ctrMove s f h d).hrb = s.hrb := rfl
@[simp] theorem ctrMove_integ (s : State) (f : FieldRef) (h d : Nat) : (ctrMove s f h d).integ = s.integ := rfl
@[simp] theorem ctrMove_grt (s : State) (f : FieldRef) (h d : Nat) : (ctrMove s f h d).grt = s.grt := rfl
@[simp] theorem ctrMove_dbg (s : State) (f : FieldRef) (h d : Nat) : (ctrMove s f h d).dbg = s.dbg := rfl
@[simp] theorem ctrMove_tap (s : State) (f : FieldRef) (h d : Nat) : (ctrMove s f h d).tap = s.tap := rfl
@[simp] theorem ctrMove_mac (s : State) (f : FieldRef) (h d : Nat) : (ctrMove s f h d).mac = s.mac := rfl
@[simp] theorem ctrMove_trl (s : State) (f : FieldRef) (h d : Nat) : (ctrMove s f h d).trl = s.trl := rfl
@[simp] theorem ctrMove_svi (s : State) (f : FieldRef) (h d : Nat) : (ctrMove s f h d).svi = s.svi := rfl
@[simp] theorem ctrMove_gth (s : State) (f : FieldRef) (h d : Nat) : (ctrMove s f h d).gth = s.gth := rfl
@[simp] theorem ctrMove_ftb (s : State) (f : FieldRef) (h d : Nat) : (ctrMove s f h d).ftb = s.ftb := rfl
@[simp] theorem ctrMove_cyc (s : State) (f : FieldRef) (h d : Nat) : (ctrMove s f h d).cyc = s.cyc := rfl
@[simp] theorem ctrMove_pav (s : State) (f : FieldRef) (h d : Nat) : (ctrMove s f h d).pav = s.pav := rfl
@[simp] theorem ctrMove_cas (s : State) (f : FieldRef) (h d : Nat) : (ctrMove s f h d).cas = s.cas := rfl
@[simp] theorem ctrMove_orn (s : State) (f : FieldRef) (h d : Nat) : (ctrMove s f h d).orn = s.orn := rfl
@[simp] theorem ctrMove_blv (s : State) (f : FieldRef) (h d : Nat) : (ctrMove s f h d).blv = s.blv := rfl
@[simp] theorem ctrMove_mem (s : State) (f : FieldRef) (h d : Nat) : (ctrMove s f h d).mem = s.mem := rfl
@[simp] theorem mbxAt_ctrMove (s : State) (f : FieldRef) (h d : Nat) (i : Nat) : mbxAt (ctrMove s f h d) i = mbxAt s i := rfl

@[simp] theorem wscNote_pending (s : State) (a v : Nat) : (wscNote s a v).pending = s.pending := rfl
@[simp] theorem wscNote_cru (s : State) (a v : Nat) : (wscNote s a v).cru = s.cru := rfl
@[simp] theorem wscNote_sdl (s : State) (a v : Nat) : (wscNote s a v).sdl = s.sdl := rfl
@[simp] theorem wscNote_ang (s : State) (a v : Nat) : (wscNote s a v).ang = s.ang := rfl
@[simp] theorem wscNote_bnd (s : State) (a v : Nat) : (wscNote s a v).bnd = s.bnd := rfl
@[simp] theorem wscNote_hrb (s : State) (a v : Nat) : (wscNote s a v).hrb = s.hrb := rfl
@[simp] theorem wscNote_integ (s : State) (a v : Nat) : (wscNote s a v).integ = s.integ := rfl
@[simp] theorem wscNote_grt (s : State) (a v : Nat) : (wscNote s a v).grt = s.grt := rfl
@[simp] theorem wscNote_dbg (s : State) (a v : Nat) : (wscNote s a v).dbg = s.dbg := rfl
@[simp] theorem wscNote_tap (s : State) (a v : Nat) : (wscNote s a v).tap = s.tap := rfl
@[simp] theorem wscNote_mac (s : State) (a v : Nat) : (wscNote s a v).mac = s.mac := rfl
@[simp] theorem wscNote_trl (s : State) (a v : Nat) : (wscNote s a v).trl = s.trl := rfl
@[simp] theorem wscNote_svi (s : State) (a v : Nat) : (wscNote s a v).svi = s.svi := rfl
@[simp] theorem wscNote_gth (s : State) (a v : Nat) : (wscNote s a v).gth = s.gth := rfl
@[simp] theorem wscNote_ftb (s : State) (a v : Nat) : (wscNote s a v).ftb = s.ftb := rfl
@[simp] theorem wscNote_cyc (s : State) (a v : Nat) : (wscNote s a v).cyc = s.cyc := rfl
@[simp] theorem wscNote_pav (s : State) (a v : Nat) : (wscNote s a v).pav = s.pav := rfl
@[simp] theorem wscNote_cas (s : State) (a v : Nat) : (wscNote s a v).cas = s.cas := rfl
@[simp] theorem wscNote_orn (s : State) (a v : Nat) : (wscNote s a v).orn = s.orn := rfl
@[simp] theorem wscNote_blv (s : State) (a v : Nat) : (wscNote s a v).blv = s.blv := rfl
@[simp] theorem wscNote_mem (s : State) (a v : Nat) : (wscNote s a v).mem = s.mem := rfl
@[simp] theorem fget_wscNote (s : State) (a v : Nat) (fr : FieldRef) : fget (wscNote s a v) fr = fget s fr := rfl
@[simp] theorem mbxAt_wscNote (s : State) (a v : Nat) (i : Nat) : mbxAt (wscNote s a v) i = mbxAt s i := rfl

@[simp] theorem srstBegin_pending (s : State) (page : Nat) : (srstBegin s page).pending = s.pending := rfl
@[simp] theorem srstBegin_cru (s : State) (page : Nat) : (srstBegin s page).cru = s.cru := rfl
@[simp] theorem srstBegin_sdl (s : State) (page : Nat) : (srstBegin s page).sdl = s.sdl := rfl
@[simp] theorem srstBegin_ang (s : State) (page : Nat) : (srstBegin s page).ang = s.ang := rfl
@[simp] theorem srstBegin_bnd (s : State) (page : Nat) : (srstBegin s page).bnd = s.bnd := rfl
@[simp] theorem srstBegin_hrb (s : State) (page : Nat) : (srstBegin s page).hrb = s.hrb := rfl
@[simp] theorem srstBegin_integ (s : State) (page : Nat) : (srstBegin s page).integ = s.integ := rfl
@[simp] theorem srstBegin_grt (s : State) (page : Nat) : (srstBegin s page).grt = s.grt := rfl
@[simp] theorem srstBegin_dbg (s : State) (page : Nat) : (srstBegin s page).dbg = s.dbg := rfl
@[simp] theorem srstBegin_tap (s : State) (page : Nat) : (srstBegin s page).tap = s.tap := rfl
@[simp] theorem srstBegin_mac (s : State) (page : Nat) : (srstBegin s page).mac = s.mac := rfl
@[simp] theorem srstBegin_trl (s : State) (page : Nat) : (srstBegin s page).trl = s.trl := rfl
@[simp] theorem srstBegin_svi (s : State) (page : Nat) : (srstBegin s page).svi = s.svi := rfl
@[simp] theorem srstBegin_gth (s : State) (page : Nat) : (srstBegin s page).gth = s.gth := rfl
@[simp] theorem srstBegin_ftb (s : State) (page : Nat) : (srstBegin s page).ftb = s.ftb := rfl
@[simp] theorem srstBegin_cyc (s : State) (page : Nat) : (srstBegin s page).cyc = s.cyc := rfl
@[simp] theorem srstBegin_pav (s : State) (page : Nat) : (srstBegin s page).pav = s.pav := rfl
@[simp] theorem srstBegin_cas (s : State) (page : Nat) : (srstBegin s page).cas = s.cas := rfl
@[simp] theorem srstBegin_orn (s : State) (page : Nat) : (srstBegin s page).orn = s.orn := rfl
@[simp] theorem srstBegin_blv (s : State) (page : Nat) : (srstBegin s page).blv = s.blv := rfl
@[simp] theorem srstBegin_mem (s : State) (page : Nat) : (srstBegin s page).mem = s.mem := rfl
@[simp] theorem fget_srstBegin (s : State) (page : Nat) (fr : FieldRef) : fget (srstBegin s page) fr = fget s fr := rfl
@[simp] theorem mbxAt_srstBegin (s : State) (page : Nat) (i : Nat) : mbxAt (srstBegin s page) i = mbxAt s i := rfl

@[simp] theorem noteApplied_pending (s : State) (as_ : List Nat) : (noteApplied s as_).pending = s.pending := rfl
@[simp] theorem noteApplied_cru (s : State) (as_ : List Nat) : (noteApplied s as_).cru = s.cru := rfl
@[simp] theorem noteApplied_sdl (s : State) (as_ : List Nat) : (noteApplied s as_).sdl = s.sdl := rfl
@[simp] theorem noteApplied_ang (s : State) (as_ : List Nat) : (noteApplied s as_).ang = s.ang := rfl
@[simp] theorem noteApplied_bnd (s : State) (as_ : List Nat) : (noteApplied s as_).bnd = s.bnd := rfl
@[simp] theorem noteApplied_hrb (s : State) (as_ : List Nat) : (noteApplied s as_).hrb = s.hrb := rfl
@[simp] theorem noteApplied_integ (s : State) (as_ : List Nat) : (noteApplied s as_).integ = s.integ := rfl
@[simp] theorem noteApplied_grt (s : State) (as_ : List Nat) : (noteApplied s as_).grt = s.grt := rfl
@[simp] theorem noteApplied_dbg (s : State) (as_ : List Nat) : (noteApplied s as_).dbg = s.dbg := rfl
@[simp] theorem noteApplied_tap (s : State) (as_ : List Nat) : (noteApplied s as_).tap = s.tap := rfl
@[simp] theorem noteApplied_mac (s : State) (as_ : List Nat) : (noteApplied s as_).mac = s.mac := rfl
@[simp] theorem noteApplied_trl (s : State) (as_ : List Nat) : (noteApplied s as_).trl = s.trl := rfl
@[simp] theorem noteApplied_svi (s : State) (as_ : List Nat) : (noteApplied s as_).svi = s.svi := rfl
@[simp] theorem noteApplied_gth (s : State) (as_ : List Nat) : (noteApplied s as_).gth = s.gth := rfl
@[simp] theorem noteApplied_ftb (s : State) (as_ : List Nat) : (noteApplied s as_).ftb = s.ftb := rfl
@[simp] theorem noteApplied_cyc (s : State) (as_ : List Nat) : (noteApplied s as_).cyc = s.cyc := rfl
@[simp] theorem noteApplied_pav (s : State) (as_ : List Nat) : (noteApplied s as_).pav = s.pav := rfl
@[simp] theorem noteApplied_cas (s : State) (as_ : List Nat) : (noteApplied s as_).cas = s.cas := rfl
@[simp] theorem noteApplied_orn (s : State) (as_ : List Nat) : (noteApplied s as_).orn = s.orn := rfl
@[simp] theorem noteApplied_blv (s : State) (as_ : List Nat) : (noteApplied s as_).blv = s.blv := rfl
@[simp] theorem noteApplied_mem (s : State) (as_ : List Nat) : (noteApplied s as_).mem = s.mem := rfl
@[simp] theorem fget_noteApplied (s : State) (as_ : List Nat) (fr : FieldRef) : fget (noteApplied s as_) fr = fget s fr := rfl
@[simp] theorem mbxAt_noteApplied (s : State) (as_ : List Nat) (i : Nat) : mbxAt (noteApplied s as_) i = mbxAt s i := rfl

@[simp] theorem notePost_pending (s : State) (p : Nat) : (notePost s p).pending = s.pending := rfl
@[simp] theorem notePost_reg (s : State) (p : Nat) : (notePost s p).reg = s.reg := rfl
@[simp] theorem notePost_cru (s : State) (p : Nat) : (notePost s p).cru = s.cru := rfl
@[simp] theorem notePost_sdl (s : State) (p : Nat) : (notePost s p).sdl = s.sdl := rfl
@[simp] theorem notePost_ang (s : State) (p : Nat) : (notePost s p).ang = s.ang := rfl
@[simp] theorem notePost_hrb (s : State) (p : Nat) : (notePost s p).hrb = s.hrb := rfl
@[simp] theorem notePost_integ (s : State) (p : Nat) : (notePost s p).integ = s.integ := rfl
@[simp] theorem notePost_grt (s : State) (p : Nat) : (notePost s p).grt = s.grt := rfl
@[simp] theorem notePost_dbg (s : State) (p : Nat) : (notePost s p).dbg = s.dbg := rfl
@[simp] theorem notePost_tap (s : State) (p : Nat) : (notePost s p).tap = s.tap := rfl
@[simp] theorem notePost_mac (s : State) (p : Nat) : (notePost s p).mac = s.mac := rfl
@[simp] theorem notePost_trl (s : State) (p : Nat) : (notePost s p).trl = s.trl := rfl
@[simp] theorem notePost_svi (s : State) (p : Nat) : (notePost s p).svi = s.svi := rfl
@[simp] theorem notePost_gth (s : State) (p : Nat) : (notePost s p).gth = s.gth := rfl
@[simp] theorem notePost_ftb (s : State) (p : Nat) : (notePost s p).ftb = s.ftb := rfl
@[simp] theorem notePost_cyc (s : State) (p : Nat) : (notePost s p).cyc = s.cyc := rfl
@[simp] theorem notePost_pav (s : State) (p : Nat) : (notePost s p).pav = s.pav := rfl
@[simp] theorem notePost_cas (s : State) (p : Nat) : (notePost s p).cas = s.cas := rfl
@[simp] theorem notePost_orn (s : State) (p : Nat) : (notePost s p).orn = s.orn := rfl
@[simp] theorem notePost_blv (s : State) (p : Nat) : (notePost s p).blv = s.blv := rfl
@[simp] theorem notePost_mem (s : State) (p : Nat) : (notePost s p).mem = s.mem := rfl
@[simp] theorem fget_notePost (s : State) (p : Nat) (fr : FieldRef) : fget (notePost s p) fr = fget s fr := rfl
@[simp] theorem mbxAt_notePost (s : State) (p : Nat) (i : Nat) : mbxAt (notePost s p) i = mbxAt s i := rfl

@[simp] theorem setHeld_pending (s : State) (h : Holder) (unit : Nat) (l : List Ev) : (setHeld s h unit l).pending = s.pending := rfl
@[simp] theorem setHeld_reg (s : State) (h : Holder) (unit : Nat) (l : List Ev) : (setHeld s h unit l).reg = s.reg := rfl
@[simp] theorem setHeld_cru (s : State) (h : Holder) (unit : Nat) (l : List Ev) : (setHeld s h unit l).cru = s.cru := rfl
@[simp] theorem setHeld_sdl (s : State) (h : Holder) (unit : Nat) (l : List Ev) : (setHeld s h unit l).sdl = s.sdl := rfl
@[simp] theorem setHeld_ang (s : State) (h : Holder) (unit : Nat) (l : List Ev) : (setHeld s h unit l).ang = s.ang := rfl
@[simp] theorem setHeld_hrb (s : State) (h : Holder) (unit : Nat) (l : List Ev) : (setHeld s h unit l).hrb = s.hrb := rfl
@[simp] theorem setHeld_integ (s : State) (h : Holder) (unit : Nat) (l : List Ev) : (setHeld s h unit l).integ = s.integ := rfl
@[simp] theorem setHeld_grt (s : State) (h : Holder) (unit : Nat) (l : List Ev) : (setHeld s h unit l).grt = s.grt := rfl
@[simp] theorem setHeld_dbg (s : State) (h : Holder) (unit : Nat) (l : List Ev) : (setHeld s h unit l).dbg = s.dbg := rfl
@[simp] theorem setHeld_tap (s : State) (h : Holder) (unit : Nat) (l : List Ev) : (setHeld s h unit l).tap = s.tap := rfl
@[simp] theorem setHeld_mac (s : State) (h : Holder) (unit : Nat) (l : List Ev) : (setHeld s h unit l).mac = s.mac := rfl
@[simp] theorem setHeld_trl (s : State) (h : Holder) (unit : Nat) (l : List Ev) : (setHeld s h unit l).trl = s.trl := rfl
@[simp] theorem setHeld_svi (s : State) (h : Holder) (unit : Nat) (l : List Ev) : (setHeld s h unit l).svi = s.svi := rfl
@[simp] theorem setHeld_gth (s : State) (h : Holder) (unit : Nat) (l : List Ev) : (setHeld s h unit l).gth = s.gth := rfl
@[simp] theorem setHeld_ftb (s : State) (h : Holder) (unit : Nat) (l : List Ev) : (setHeld s h unit l).ftb = s.ftb := rfl
@[simp] theorem setHeld_cyc (s : State) (h : Holder) (unit : Nat) (l : List Ev) : (setHeld s h unit l).cyc = s.cyc := rfl
@[simp] theorem setHeld_pav (s : State) (h : Holder) (unit : Nat) (l : List Ev) : (setHeld s h unit l).pav = s.pav := rfl
@[simp] theorem setHeld_cas (s : State) (h : Holder) (unit : Nat) (l : List Ev) : (setHeld s h unit l).cas = s.cas := rfl
@[simp] theorem setHeld_orn (s : State) (h : Holder) (unit : Nat) (l : List Ev) : (setHeld s h unit l).orn = s.orn := rfl
@[simp] theorem setHeld_blv (s : State) (h : Holder) (unit : Nat) (l : List Ev) : (setHeld s h unit l).blv = s.blv := rfl
@[simp] theorem setHeld_mem (s : State) (h : Holder) (unit : Nat) (l : List Ev) : (setHeld s h unit l).mem = s.mem := rfl
@[simp] theorem fget_setHeld (s : State) (h : Holder) (unit : Nat) (l : List Ev) (fr : FieldRef) : fget (setHeld s h unit l) fr = fget s fr := rfl
@[simp] theorem mbxAt_setHeld (s : State) (h : Holder) (unit : Nat) (l : List Ev) (i : Nat) : mbxAt (setHeld s h unit l) i = mbxAt s i := rfl

@[simp] theorem setStage_pending (s : State) (k : Nat) (l : List Moving) : (setStage s k l).pending = s.pending := rfl
@[simp] theorem setStage_reg (s : State) (k : Nat) (l : List Moving) : (setStage s k l).reg = s.reg := rfl
@[simp] theorem setStage_cru (s : State) (k : Nat) (l : List Moving) : (setStage s k l).cru = s.cru := rfl
@[simp] theorem setStage_sdl (s : State) (k : Nat) (l : List Moving) : (setStage s k l).sdl = s.sdl := rfl
@[simp] theorem setStage_ang (s : State) (k : Nat) (l : List Moving) : (setStage s k l).ang = s.ang := rfl
@[simp] theorem setStage_bnd (s : State) (k : Nat) (l : List Moving) : (setStage s k l).bnd = s.bnd := rfl
@[simp] theorem setStage_hrb (s : State) (k : Nat) (l : List Moving) : (setStage s k l).hrb = s.hrb := rfl
@[simp] theorem setStage_integ (s : State) (k : Nat) (l : List Moving) : (setStage s k l).integ = s.integ := rfl
@[simp] theorem setStage_grt (s : State) (k : Nat) (l : List Moving) : (setStage s k l).grt = s.grt := rfl
@[simp] theorem setStage_dbg (s : State) (k : Nat) (l : List Moving) : (setStage s k l).dbg = s.dbg := rfl
@[simp] theorem setStage_tap (s : State) (k : Nat) (l : List Moving) : (setStage s k l).tap = s.tap := rfl
@[simp] theorem setStage_mac (s : State) (k : Nat) (l : List Moving) : (setStage s k l).mac = s.mac := rfl
@[simp] theorem setStage_svi (s : State) (k : Nat) (l : List Moving) : (setStage s k l).svi = s.svi := rfl
@[simp] theorem setStage_gth (s : State) (k : Nat) (l : List Moving) : (setStage s k l).gth = s.gth := rfl
@[simp] theorem setStage_ftb (s : State) (k : Nat) (l : List Moving) : (setStage s k l).ftb = s.ftb := rfl
@[simp] theorem setStage_cyc (s : State) (k : Nat) (l : List Moving) : (setStage s k l).cyc = s.cyc := rfl
@[simp] theorem setStage_pav (s : State) (k : Nat) (l : List Moving) : (setStage s k l).pav = s.pav := rfl
@[simp] theorem setStage_cas (s : State) (k : Nat) (l : List Moving) : (setStage s k l).cas = s.cas := rfl
@[simp] theorem setStage_orn (s : State) (k : Nat) (l : List Moving) : (setStage s k l).orn = s.orn := rfl
@[simp] theorem setStage_blv (s : State) (k : Nat) (l : List Moving) : (setStage s k l).blv = s.blv := rfl
@[simp] theorem setStage_mem (s : State) (k : Nat) (l : List Moving) : (setStage s k l).mem = s.mem := rfl
@[simp] theorem fget_setStage (s : State) (k : Nat) (l : List Moving) (fr : FieldRef) : fget (setStage s k l) fr = fget s fr := rfl
@[simp] theorem mbxAt_setStage (s : State) (k : Nat) (l : List Moving) (i : Nat) : mbxAt (setStage s k l) i = mbxAt s i := rfl

@[simp] theorem setReseq_pending (s : State) (o q : Nat) (r : Reseq) : (setReseq s o q r).pending = s.pending := rfl
@[simp] theorem setReseq_reg (s : State) (o q : Nat) (r : Reseq) : (setReseq s o q r).reg = s.reg := rfl
@[simp] theorem setReseq_cru (s : State) (o q : Nat) (r : Reseq) : (setReseq s o q r).cru = s.cru := rfl
@[simp] theorem setReseq_sdl (s : State) (o q : Nat) (r : Reseq) : (setReseq s o q r).sdl = s.sdl := rfl
@[simp] theorem setReseq_ang (s : State) (o q : Nat) (r : Reseq) : (setReseq s o q r).ang = s.ang := rfl
@[simp] theorem setReseq_bnd (s : State) (o q : Nat) (r : Reseq) : (setReseq s o q r).bnd = s.bnd := rfl
@[simp] theorem setReseq_hrb (s : State) (o q : Nat) (r : Reseq) : (setReseq s o q r).hrb = s.hrb := rfl
@[simp] theorem setReseq_integ (s : State) (o q : Nat) (r : Reseq) : (setReseq s o q r).integ = s.integ := rfl
@[simp] theorem setReseq_grt (s : State) (o q : Nat) (r : Reseq) : (setReseq s o q r).grt = s.grt := rfl
@[simp] theorem setReseq_dbg (s : State) (o q : Nat) (r : Reseq) : (setReseq s o q r).dbg = s.dbg := rfl
@[simp] theorem setReseq_tap (s : State) (o q : Nat) (r : Reseq) : (setReseq s o q r).tap = s.tap := rfl
@[simp] theorem setReseq_mac (s : State) (o q : Nat) (r : Reseq) : (setReseq s o q r).mac = s.mac := rfl
@[simp] theorem setReseq_svi (s : State) (o q : Nat) (r : Reseq) : (setReseq s o q r).svi = s.svi := rfl
@[simp] theorem setReseq_gth (s : State) (o q : Nat) (r : Reseq) : (setReseq s o q r).gth = s.gth := rfl
@[simp] theorem setReseq_ftb (s : State) (o q : Nat) (r : Reseq) : (setReseq s o q r).ftb = s.ftb := rfl
@[simp] theorem setReseq_cyc (s : State) (o q : Nat) (r : Reseq) : (setReseq s o q r).cyc = s.cyc := rfl
@[simp] theorem setReseq_pav (s : State) (o q : Nat) (r : Reseq) : (setReseq s o q r).pav = s.pav := rfl
@[simp] theorem setReseq_cas (s : State) (o q : Nat) (r : Reseq) : (setReseq s o q r).cas = s.cas := rfl
@[simp] theorem setReseq_orn (s : State) (o q : Nat) (r : Reseq) : (setReseq s o q r).orn = s.orn := rfl
@[simp] theorem setReseq_blv (s : State) (o q : Nat) (r : Reseq) : (setReseq s o q r).blv = s.blv := rfl
@[simp] theorem setReseq_mem (s : State) (o q : Nat) (r : Reseq) : (setReseq s o q r).mem = s.mem := rfl
@[simp] theorem fget_setReseq (s : State) (o q : Nat) (r : Reseq) (fr : FieldRef) : fget (setReseq s o q r) fr = fget s fr := rfl
@[simp] theorem mbxAt_setReseq (s : State) (o q : Nat) (r : Reseq) (i : Nat) : mbxAt (setReseq s o q r) i = mbxAt s i := rfl

@[simp] theorem fdbNote_pending (s : State) (keys : List (Nat × Nat)) : (fdbNote s keys).pending = s.pending := rfl
@[simp] theorem fdbNote_reg (s : State) (keys : List (Nat × Nat)) : (fdbNote s keys).reg = s.reg := rfl
@[simp] theorem fdbNote_cru (s : State) (keys : List (Nat × Nat)) : (fdbNote s keys).cru = s.cru := rfl
@[simp] theorem fdbNote_sdl (s : State) (keys : List (Nat × Nat)) : (fdbNote s keys).sdl = s.sdl := rfl
@[simp] theorem fdbNote_ang (s : State) (keys : List (Nat × Nat)) : (fdbNote s keys).ang = s.ang := rfl
@[simp] theorem fdbNote_bnd (s : State) (keys : List (Nat × Nat)) : (fdbNote s keys).bnd = s.bnd := rfl
@[simp] theorem fdbNote_hrb (s : State) (keys : List (Nat × Nat)) : (fdbNote s keys).hrb = s.hrb := rfl
@[simp] theorem fdbNote_integ (s : State) (keys : List (Nat × Nat)) : (fdbNote s keys).integ = s.integ := rfl
@[simp] theorem fdbNote_grt (s : State) (keys : List (Nat × Nat)) : (fdbNote s keys).grt = s.grt := rfl
@[simp] theorem fdbNote_dbg (s : State) (keys : List (Nat × Nat)) : (fdbNote s keys).dbg = s.dbg := rfl
@[simp] theorem fdbNote_tap (s : State) (keys : List (Nat × Nat)) : (fdbNote s keys).tap = s.tap := rfl
@[simp] theorem fdbNote_mac (s : State) (keys : List (Nat × Nat)) : (fdbNote s keys).mac = s.mac := rfl
@[simp] theorem fdbNote_svi (s : State) (keys : List (Nat × Nat)) : (fdbNote s keys).svi = s.svi := rfl
@[simp] theorem fdbNote_gth (s : State) (keys : List (Nat × Nat)) : (fdbNote s keys).gth = s.gth := rfl
@[simp] theorem fdbNote_ftb (s : State) (keys : List (Nat × Nat)) : (fdbNote s keys).ftb = s.ftb := rfl
@[simp] theorem fdbNote_cyc (s : State) (keys : List (Nat × Nat)) : (fdbNote s keys).cyc = s.cyc := rfl
@[simp] theorem fdbNote_pav (s : State) (keys : List (Nat × Nat)) : (fdbNote s keys).pav = s.pav := rfl
@[simp] theorem fdbNote_cas (s : State) (keys : List (Nat × Nat)) : (fdbNote s keys).cas = s.cas := rfl
@[simp] theorem fdbNote_orn (s : State) (keys : List (Nat × Nat)) : (fdbNote s keys).orn = s.orn := rfl
@[simp] theorem fdbNote_blv (s : State) (keys : List (Nat × Nat)) : (fdbNote s keys).blv = s.blv := rfl
@[simp] theorem fdbNote_mem (s : State) (keys : List (Nat × Nat)) : (fdbNote s keys).mem = s.mem := rfl
@[simp] theorem fget_fdbNote (s : State) (keys : List (Nat × Nat)) (fr : FieldRef) : fget (fdbNote s keys) fr = fget s fr := rfl
@[simp] theorem mbxAt_fdbNote (s : State) (keys : List (Nat × Nat)) (i : Nat) : mbxAt (fdbNote s keys) i = mbxAt s i := rfl

@[simp] theorem mbxAt_mbxEnd (s : State) (a c : Nat) :
    mbxAt (mbxEnd s a c) a = { mbxAt s a with busy := false, valid := true, seq := ((mbxAt s a).seq + 1) % 256, code := c } := by
  simp [mbxEnd]

@[simp] theorem mbxAt_mbxAnswer (s : State) (a c : Nat) (d : List Word) :
    mbxAt (mbxAnswer s a c d) a =
      { mbxAt s a with busy := false, valid := true, seq := ((mbxAt s a).seq + 1) % 256, code := c, d := d.take 12 } := by
  simp [mbxAnswer]

@[simp] theorem mbxAt_asks (s : State) (mid a op : Nat) (wr : Bool) (arg : Nat) (d : List Word) :
    mbxAt (asks s mid a op wr arg d) a = { mbxAt s a with arg := arg % 2 ^ 16, op := op, wr := wr, busy := true, valid := false, code := 0,
                                                          mid := mid, d := dataAfter (mbxAt s a).d d } := by
  simp [asks]

end Sys2Proof.Machine
end

