-- ==== Sys2Proof/Laws/Tracker.lean ====
section
/-! SUPPORT. The tracker and the alarms leave the Sundial's own state alone. -/

set_option Elab.async false

namespace Sys2Proof.Machine

@[simp] theorem record_sdl (s : State) (type src : Nat) (args : List Nat) : (record s type src args).sdl = s.sdl := by
  rw [(records_record s type src args).eq]

@[simp] theorem trackRecord_sdl (s : State) (old : TrackState) : (trackRecord s old).sdl = s.sdl := by
  unfold trackRecord
  split
  · rfl
  · exact record_sdl _ _ _ _

theorem foldl_sdl {α : Type} (f : State → α → State) (h : ∀ s a, (f s a).sdl = s.sdl) (l : List α) (s : State) : (l.foldl f s).sdl = s.sdl := by
  induction l generalizing s with
  | nil => rfl
  | cons a l ih => rw [List.foldl_cons, ih, h]

@[simp] theorem abortAll_sdl (s : State) : (abortAll s).sdl = s.sdl := foldl_sdl abortAlarm (fun _ _ => rfl) _ _

@[simp] theorem alarmsHold_sdl (s : State) : (alarmsHold s).sdl = s.sdl :=
  foldl_sdl _ (fun s k => by dsimp only; split <;> rfl) _ _

@[simp] theorem enterAcquire_sdl (s : State) : (enterAcquire s).sdl = s.sdl := by
  unfold enterAcquire
  simp [publish, publishTo]

@[simp] theorem acquireUpdate_sdl (s : State) (u : RefUpdate) : (acquireUpdate s u).sdl = s.sdl := by
  unfold acquireUpdate
  split <;> rfl

theorem trackerEdge_sdl (s : State) : (trackerEdge s).sdl = s.sdl := by
  have f : ∀ (us : List RefUpdate) (u : State), (us.foldl acquireUpdate u).sdl = u.sdl := fun us u => foldl_sdl _ acquireUpdate_sdl us u
  have c : ∀ (u : State) (g : FieldRef) (n : Nat), (cadd u g n).sdl = u.sdl := fun _ _ _ => rfl
  have i : ∀ (p : Prop) [Decidable p] (x y : State), x.sdl = s.sdl → y.sdl = s.sdl → (if p then x else y).sdl = s.sdl := by
    intro p _ x y hx hy
    split
    · exact hx
    · exact hy
  unfold trackerEdge
  split
  · rfl
  · dsimp only
    split
    · rw [f, enterAcquire_sdl]; rfl
    · split
      · rw [trackRecord_sdl]; simp only [f]; rfl
      · rw [f]; rfl
    · refine i _ _ _ ?_ rfl
      rw [alarmsHold_sdl, trackRecord_sdl]
      rfl
    · split
      · split
        · rw [trackRecord_sdl]; rfl
        · simp only [enterAcquire_sdl]; rfl
      · split
        · rw [enterAcquire_sdl]; rfl
        · rfl

theorem bndPost_sdl (s : State) (e : Ev) : (bndPost s e).1.sdl = s.sdl := by
  unfold bndPost
  dsimp only
  split
  · rfl
  · repeat' split
    all_goals rfl

theorem retryHeld_sdl (s : State) (h : Holder) (k : Nat) : (retryHeld s h k).sdl = s.sdl := by
  unfold retryHeld
  split
  · rfl
  · unfold onPosted
    split <;> exact bndPost_sdl s _

theorem alarmPost_sdl (s : State) (k : Nat) (e : Ev) : (alarmPost s k e).sdl = s.sdl := by
  unfold alarmPost retryAlarm
  split
  · rfl
  · exact retryHeld_sdl _ _ _

theorem postOrHold_sdl (s : State) (h : Holder) (k : Nat) (e : Ev) : (postOrHold s h k e).1.sdl = s.sdl := by
  unfold postOrHold
  split
  · rfl
  · unfold onPosted
    split <;> exact bndPost_sdl s e

theorem drivePin_sdl (s : State) (p : Nat) (v : Bool) : (drivePin s p v).sdl = s.sdl := by
  unfold drivePin
  dsimp only
  split <;> rfl

theorem ite_sdl {c : Prop} [Decidable c] {s x y : State} (hx : x.sdl = s.sdl) (hy : y.sdl = s.sdl) : (if c then x else y).sdl = s.sdl := by
  split <;> assumption

theorem ownPulses_sdl (s : State) (k p n : Nat) : (ownPulses s k p n).sdl = s.sdl := rfl

theorem alarmDout_sdl (s : State) (k : Nat) (a : Alarm) : (alarmDout s k a).sdl = s.sdl := by
  unfold alarmDout
  refine ite_sdl rfl ?_
  extract_lets raw hit s1 beaten ang1 s2 s3 ang3
  have h1 : s1.sdl = s.sdl := ite_sdl rfl rfl
  have h2 : s2.sdl = s.sdl := h1
  have h3 : s3.sdl = s.sdl := ite_sdl h2 ((ownPulses_sdl _ _ _ _).trans ((drivePin_sdl s2 _ _).trans h2))
  have h4 : ∀ x : Angle, ({ s3 with ang := x } : State).sdl = s.sdl := fun _ => h3
  exact ite_sdl (h4 _) h3

theorem fireAlarm_sdl (s : State) (k : Nat) : (fireAlarm s k).sdl = s.sdl := by
  unfold fireAlarm
  dsimp only
  split
  · rw [alarmDout_sdl]; rfl
  · exact alarmPost_sdl _ _ _
  · rfl

theorem alarmsEdge_sdl (s : State) : (alarmsEdge s).sdl = s.sdl := by
  refine foldl_sdl _ (fun s k => ?_) _ _
  split
  · unfold repredict
    dsimp only
    split
    · rw [fireAlarm_sdl]; split <;> rfl
    · rfl
  · rfl

end Sys2Proof.Machine
end

