-- ==== Sys2Proof/Laws/Writes.lean ====
section
/-! SUPPORT. A register write that a master may make, by the codes of the register's fields: a command register, and a register whose fields
all take their values at once. -/

set_option Elab.async false

namespace Sys2Proof.Machine

theorem writable_none (l : RegLoc) (codes : List Acc) (mid : Nat) (h : ∀ f ∈ l.desc.fields, codes.contains f.acc = false) : writable l codes mid = [] := by
  unfold writable
  rw [List.filter_eq_nil_iff]
  intro f hf
  simp only [h f hf, Bool.false_and, Bool.false_eq_true, not_false_eq_true]

theorem writable_all (l : RegLoc) (codes : List Acc) (mid : Nat) (h : ∀ f ∈ l.desc.fields, codes.contains f.acc = true ∧ f.prv = false ∧ f.dep = .none) :
    writable l codes mid = l.desc.fields := by
  unfold writable
  rw [List.filter_eq_self]
  intro f hf
  obtain ⟨h1, h2, h3⟩ := h f hf
  simp only [h1, h2, fieldPresent, h3, Bool.not_false, Bool.true_or, Bool.and_self]

/-- A 32-bit read of a block register is a read of the register bus. -/
theorem meshRead_may (s : State) (mid o : Nat) (hm : mayRead s mid o = true) (h4 : o % 4 = 0) (hlt : o < 0x10000000) :
    meshRead s mid o = onOpt (busRead s mid o) (fun s => respond s { wait := true }) fun s lo => respond s { data := [w32 lo] } := by
  unfold mayRead at hm
  cases hl : regAt o with
  | none => simp [hl] at hm
  | some l =>
    simp only [hl, Bool.and_eq_true] at hm
    have e1 : regBase ≤ regBase + o ∧ regBase + o < regBase + 0x10000000 := ⟨by omega, by omega⟩
    have e2 : regBase + o - regBase = o := by omega
    have hg : (if midClass mid = 2 then guestCheck s mid (regBase + o) (opLen (.read 4)) (opPerm (.read 4)) else none) = none := by
      split
      · rename_i h
        show guestCheck s mid (regBase + o) 4 .read = none
        simpa [h] using hm.2
      · rfl
    have hp : (pageAtOff o).isNone = false := by rw [(regAt_spec o l hl).1]; rfl
    simp only [hp, meshRead, meshAccess, hg, plainRead, e1, e2, and_self, if_true, regRead32s, h4, Bool.false_eq_true, if_false, beq_self_eq_true,
      Bool.true_or, Bool.not_true, bne_self_eq_false, Bool.or_self]

/-- What a write of a register of `wsc` fields starts. -/
theorem wsc_fields (l : RegLoc) (mid v x : Nat) (h : ∀ f ∈ l.desc.fields, f.acc = .wsc ∧ f.prv = false ∧ f.dep = .none)
    (hv : ((l.desc.fields.map fun f => bits v f.hi f.lo * 2 ^ f.lo)).sum = x) (hx : l.desc.fields ≠ []) :
    (writable l [.wsc] mid).isEmpty = false ∧ ((writable l [.wsc] mid).map fun f => bits v f.hi f.lo * 2 ^ f.lo).sum = x := by
  rw [writable_all l [.wsc] mid fun f hf => by obtain ⟨a, b, c⟩ := h f hf; exact ⟨by rw [a]; rfl, b, c⟩]
  exact ⟨by cases hl : l.desc.fields with | nil => exact absurd hl hx | cons _ _ => rfl, hv⟩

/-- A write of a register that has command fields only. -/
theorem meshWrite_command (s : State) (mid o v : Nat) (l : RegLoc) (hl : regAt o = some l) (hm : mayWrite s mid o = true) (h4 : o % 4 = 0)
    (hlt : o < 0x10000000) (hb : l.desc.mbx = false) (hn : l.desc.name ≠ .sys .SYS_TX_CLAIM)
    (hf : ∀ f ∈ l.desc.fields, f.acc ≠ .rw ∧ f.acc ≠ .wbf ∧ f.acc ≠ .ctr) :
    meshWrite s mid o v = respond (commandWrite s l mid (v % 2 ^ 32)) {} := by
  obtain ⟨pv, al⟩ := mayWrite_all s l mid o (v % 2 ^ 32) hl hm
  rw [meshWrite_may s mid o v l hl hm h4 hlt]
  congr 1
  have w1 : writable l [.rw, .wbf] mid = [] := writable_none _ _ _ fun f h => by
    obtain ⟨a, b, c⟩ := hf f h
    simp [a, b]
  have w2 : writable l [.ctr] mid = [] := writable_none _ _ _ fun f h => by
    obtain ⟨a, b, c⟩ := hf f h
    simp [c]
  unfold regWrite
  rw [if_neg (by simp [al]), if_neg (by simp [hb])]
  split
  · rename_i e
    exact absurd e hn
  · rw [if_neg (by rw [pv]; decide)]
    have c1 : configWrite s l mid (v % 2 ^ 32) = s := by
      unfold configWrite
      rw [w1]
      rfl
    have c2 : counterWrite s l mid (v % 2 ^ 32) = s := by
      unfold counterWrite
      rw [w2]
      rfl
    show commandWrite (counterWrite (configWrite s l mid _) l mid _) l mid _ = _
    rw [c1, c2]

/-- A write of a register whose fields all take their values at once, outside locks and claims. -/
theorem meshWrite_plain (s : State) (mid o v : Nat) (l : RegLoc) (hl : regAt o = some l) (hm : mayWrite s mid o = true) (h4 : o % 4 = 0)
    (hlt : o < 0x10000000) (hb : l.desc.mbx = false) (hn : l.desc.name ≠ .sys .SYS_TX_CLAIM) (ha : l.addr = o)
    (hf : ∀ f ∈ l.desc.fields, f.acc = .rw ∧ f.prv = false ∧ f.dep = .none) (hne : l.desc.fields ≠ [])
    (hc : claimedBy s l.page.base = none) (hk : locked s l.page.base = false)
    (hi : ignores s [⟨o, v % 2 ^ 32, mid⟩] l (v % 2 ^ 32) = false) (hftb : l.desc.name ≠ .ftb .FTB_CFG) :
    meshWrite s mid o v = respond (follow s (changed s (l.desc.fields.foldl
      (fun t f => fset t (refOf l f) (clampTo f.min f.max (bits (v % 2 ^ 32) f.hi f.lo))) s) ⟨o, v % 2 ^ 32, mid⟩) (lands [⟨o, v % 2 ^ 32, mid⟩])) {} := by
  obtain ⟨pv, al⟩ := mayWrite_all s l mid o (v % 2 ^ 32) hl hm
  rw [meshWrite_may s mid o v l hl hm h4 hlt]
  generalize v % 2 ^ 32 = w at *
  congr 1
  have w1 : writable l [.rw, .wbf] mid = l.desc.fields := writable_all _ _ _ fun f h => by
    obtain ⟨a, b, c⟩ := hf f h
    exact ⟨by simp [a], b, c⟩
  have w2 : writable l [.rw] mid = l.desc.fields := writable_all _ _ _ fun f h => by
    obtain ⟨a, b, c⟩ := hf f h
    exact ⟨by simp [a], b, c⟩
  have w3 : writable l [.wbf] mid = [] := writable_none _ _ _ fun f h => by
    obtain ⟨a, b, c⟩ := hf f h
    simp [a]
  have w4 : writable l [.wsc] mid = [] := writable_none _ _ _ fun f h => by
    obtain ⟨a, b, c⟩ := hf f h
    simp [a]
  have w5 : writable l [.ctr] mid = [] := writable_none _ _ _ fun f h => by
    obtain ⟨a, b, c⟩ := hf f h
    simp [a]
  have fe : l.desc.fields.isEmpty = false := by
    cases h : l.desc.fields
    · exact absurd h hne
    · rfl
  have fk : ∀ u f, ftbKeeps u l f = false := by
    intro u f
    unfold ftbKeeps
    rw [beq_eq_false_iff_ne.mpr hftb]
    rfl
  have d1 : ∀ u, (l.desc.fields.filter fun f => f.dependent == false && !ftbKeeps u l f) = l.desc.fields := by
    intro u
    rw [List.filter_eq_self]
    intro f h
    obtain ⟨a, b, c⟩ := hf f h
    simp [FieldDesc.dependent, c, fk]
  have d2 : ∀ u, (l.desc.fields.filter fun f => f.dependent == true && !ftbKeeps u l f) = [] := by
    intro u
    rw [List.filter_eq_nil_iff]
    intro f h
    obtain ⟨a, b, c⟩ := hf f h
    simp [FieldDesc.dependent, c]
  have keep : (l.desc.fields.any fun f => ftbKeeps s l f && bits w f.hi f.lo != fget s (refOf l f)) = false := by
    rw [List.any_eq_false]
    intro f _
    simp [fk]
  have bw : ∀ t : State, bufferWrite t l mid w = t := by
    intro t
    unfold bufferWrite
    rw [w3]
    rfl
  have p1 : putFields [.rw] false s ⟨o, w, mid⟩ = l.desc.fields.foldl (fun t f => fset t (refOf l f) (clampTo f.min f.max (bits w f.hi f.lo))) s := by
    unfold putFields
    simp only [hl, w2, d1]
    have : ∀ (fs : List FieldDesc) (u : State), (∀ f ∈ fs, f.dep = .none) → fs.foldl (fun s f => fset s (refOf l f) (if false = true then clampDep s l f (bits w f.hi f.lo) else clampOwn l f (bits w f.hi f.lo))) u =
        fs.foldl (fun t f => fset t (refOf l f) (clampTo f.min f.max (bits w f.hi f.lo))) u := by
      intro fs
      induction fs with
      | nil => intro u _; rfl
      | cons f fs ih =>
        intro u h
        have e : clampOwn l f (bits w f.hi f.lo) = clampTo f.min f.max (bits w f.hi f.lo) := by
          unfold clampOwn
          rw [h f (by simp)]
        simp only [List.foldl_cons, e, Bool.false_eq_true, if_false]
        exact ih _ fun g hg => h g (by simp [hg])
    exact this _ _ fun f h => (hf f h).2.2
  have p2 : ∀ u : State, putFields [.rw] true u ⟨o, w, mid⟩ = u := by
    intro u
    unfold putFields
    simp only [hl, w2, d2]
    rfl
  have ab : applyBatch s [.rw] [⟨o, w, mid⟩] = follow s (changed s (l.desc.fields.foldl
      (fun t f => fset t (refOf l f) (clampTo f.min f.max (bits w f.hi f.lo))) s) ⟨o, w, mid⟩) (lands [⟨o, w, mid⟩]) := by
    unfold applyBatch
    have nw : [Acc.rw].contains Acc.wbf = false := rfl
    simp only [nw, hl, hi, keep, List.filter_cons, List.filter_nil, Bool.not_false, if_true, Bool.false_eq_true, if_false, List.foldl_nil, List.foldl_cons, p1, p2]
  unfold regWrite
  rw [if_neg (by simp [al]), if_neg (by simp [hb])]
  split
  · rename_i e
    exact absurd e hn
  · rw [if_neg (by rw [pv]; decide)]
    have c1 : configWrite s l mid w = follow s (changed s (l.desc.fields.foldl
        (fun t f => fset t (refOf l f) (clampTo f.min f.max (bits w f.hi f.lo))) s) ⟨o, w, mid⟩) (lands [⟨o, w, mid⟩]) := by
      unfold configWrite
      rw [w1, fe, if_neg (by simp), hc]
      simp only [hk, w2, fe, Bool.false_eq_true, if_false, ha, bw, ab]
    have c2 : ∀ t : State, counterWrite t l mid w = t := by
      intro t
      unfold counterWrite
      rw [w5]
      rfl
    have c3 : ∀ t : State, commandWrite t l mid w = t := by
      intro t
      unfold commandWrite
      rw [w4]
      rfl
    show commandWrite (counterWrite (configWrite s l mid w) l mid w) l mid w = _
    rw [c1, c2, c3]

end Sys2Proof.Machine
end

