-- ==== Sys2Proof/Machine/Interrupts.lean ====
section
/-! DEFINITION. The page interrupts and the wired sources of the APLICs (R41, R222, R360, R401). They are levels, so they are functions of
the state, as the levels of R50 are; what an APLIC makes of a source is set by RISC-V registers that the spec does not map (log 95). -/

namespace Sys2Proof.Machine

/-- The interrupt output of the page at an offset: asserted while its PG_IPEND is not zero (R41). -/
def pageIrq (s : State) (page : Nat) : Bool :=
  match pageAtOff page with
  | none => false
  | some p => pageStat s p &&& fget s (hIen p.base) != 0

/-- The blocks whose sources of APLIC 0 start at 144, sixteen to a block (R360). -/
def wiredBlock : Nat → Block
  | 0 => .cyc | 1 => .ftb | 2 => .orn | 3 => .blv | 4 => .hrb | 5 => .gth | 6 => .mem | 7 => .grt | _ => .dbg

/-- The pages of sources `n` and above, which carry one page each (R360). -/
def blockPages (b : Block) (first count : Nat) : List Nat := (List.range count).map fun i => pageAt b (first + i)

/-- The TRL pages of sources 73 to 79, in their order (R360). -/
def trlWired : List Nat := [0, 1, 2, 3, 4, 16, 32]

/-- The pages whose interrupts, ORed, are source `n` of APLIC 0 (R222, R360). -/
def wiredZero (n : Nat) : List Nat :=
  if n = 0 then []
  else if n ≤ 2 then [pageAt .sys (n - 1)]
  else if n = 3 then [pageAt .cru 0]
  else if n ≤ 8 then [pageAt .sdl (n - 4)]
  else if n ≤ 72 then [macPage ((n - 9) / 4) ((n - 9) % 4)]
  else if n ≤ 79 then [pageAt .trl (trlWired.getD (n - 73) 0)]
  else if n ≤ 85 then [pageAt .svi (n - 80)]
  else if n ≤ 88 then [pageAt .cas (n - 86)]
  else if n = 89 then blockPages .cas 64 64
  else if n ≤ 92 then [pageAt .ltn (n - 90)]
  else if n = 93 then [pageAt .bnd 0]
  else if n = 94 then blockPages .bnd 1 64
  else if n ≤ 142 then [pageAt .bnd (128 + (n - 95))]
  else if n = 143 then [pageAt .trl 33]
  else if n < 288 then
    let b := wiredBlock ((n - 144) / 16)
    if (n - 144) % 16 = 15 then blockPages b 15 241 else [pageAt b ((n - 144) % 16)]
  else []

/-- The pages whose interrupts, ORed, are source `n` of APLIC `k` (R360, R401). -/
def wiredPages (k n : Nat) : List Nat :=
  match k with
  | 0 => wiredZero n
  | 1 => if 1 ≤ n ∧ n ≤ 512 then [pageAt .pav (n - 1)] else []
  | 2 => if 1 ≤ n ∧ n ≤ 512 then [pageAt .pav (n + 511)] else []
  | _ => []

/-- Source `n` of APLIC `k` is asserted (R41, R360). -/
def wiredSource (s : State) (k n : Nat) : Bool := (wiredPages k n).any (pageIrq s)

end Sys2Proof.Machine
end

