-- ==== Sys2Proof/Tests/Slice0.lean ====
section
/-! SUPPORT. Small tests: ill-formed commands are refused, and witnesses that the statements' hypotheses can be met together. -/

set_option Elab.async false

open Sys2Proof Sys2Proof.Machine

/-! ### Ill-formed commands -/

theorem test_wf_twelve_words : (Instr.sdlAdjSet 0 0 (List.replicate 12 0)).wf = true := by decide
theorem test_wf_thirteen_words : (Instr.sdlAdjSet 0 0 (List.replicate 13 0)).wf = false := by decide
theorem test_wf_empty_write : (Instr.meshTransaction 0 0 (.write []) []).wf = false := by decide
theorem test_wf_read_past_end : (Instr.meshTransaction 0 0xFFFFFFFFFFFF (.read 2) []).wf = false := by decide
theorem test_wf_read_to_end : (Instr.meshTransaction 0 0xFFFFFFFFFFFF (.read 1) []).wf = true := by decide
theorem test_wf_symbol_twice : (Instr.meshTransaction 0 0 (.read 1) [⟨0, 0, [[3, 3]]⟩]).wf = false := by decide
theorem test_wf_five_codewords : (Instr.dramScrubStep 0 (List.replicate 5 [])).wf = false := by decide
theorem test_wf_tick_offsets_twice : (Instr.fabricTickEdge [(1, 0), (1, 5)]).wf = false := by decide
theorem test_wf_empty_frame : (Instr.frameReceive 0 [] true 0).wf = false := by decide
theorem test_wf_sample_records : (Instr.ftbSample ⟨false, 0, false, 0, 0⟩ []).wf = true := by decide
theorem test_wf_event_entry : (Instr.ftbEvent ⟨false, 0, false, 0, 0⟩ ⟨0, 0, 0, 0, 0, 0, 0, 0⟩ 0 [0]).wf = false := by decide
theorem test_wf_alarm_twice (x : JoinAlarm) : (Instr.ftbJoinData ⟨false, 0, false, 0, 0⟩ (.system 0 0 0 [x, x] [] [])).wf = false := by
  simp [Instr.wf, joinOk, noTwice]
theorem test_wf_seven_arguments : (Instr.herbariumEvent 0 0 (List.replicate 7 0)).wf = false := by decide
theorem test_wf_type_4096 : (Instr.herbariumEvent 4096 0 []).wf = false := by decide
theorem test_wf_swept_twice : (Instr.registerSweep [1, 1] [] (.sweep true)).wf = false := by decide
theorem test_wf_compared_twice : (Instr.gatehouseMemoryCompare [] [] [2, 2]).wf = false := by decide
theorem test_wf_empty_debug_read : (Instr.tapDbgacc 0 (.read 0) []).wf = false := by decide

/-! ### States for the witnesses -/

/-- A page enabled. -/
def enable (s : State) (p : Nat) : State := fset s (hEn p) 1

/-- A mailbox that holds a request or an answer. -/
def boxed (s : State) (a : Nat) (busy valid : Bool) : State := setMbx s a { mbxAt s a with busy := busy, valid := valid }

/-- The register at an offset is found and has a property. -/
def regIs (a : Nat) (p : RegLoc → Bool) : Bool := match regAt a with | some l => p l | none => false

/-- The page at an offset is found and has a property. -/
def pageIs (a : Nat) (p : PageLoc → Bool) : Bool := match pageAtOff a with | some l => p l | none => false

/-- At a time of the raw and fabric counts. -/
def clocked (s : State) (raw fab : Nat) : State := { s with sdl := { s.sdl with raw := raw, fab := fab } }

/-! ### The wired interrupt sources (R41, R222, R360, R401, and the page descriptions that name a source) -/

theorem test_irq_table : wiredPages 0 143 = [0x421000] ∧ wiredPages 0 208 = [0xD00000] ∧ wiredPages 1 512 = [0x41FF000] ∧
    wiredPages 2 1 = [0x4200000] ∧ wiredPages 0 0 = [] ∧ (wiredPages 0 94).length = 64 := by decide +kernel
theorem test_irq_level :
    let s := fset (fset State.reset (hIen 0) (2 ^ 31)) (hWign 0) 1
    wiredSource s 0 1 = true ∧ wiredSource s 0 2 = false ∧ wiredSource State.reset 0 1 = false := by decide +kernel

/-! ### Witnesses: the machine, pages, strobes, transactions and memory -/

theorem witness_IdleStep : State.reset.pending = [] ∧ State.reset.cru.inReset = false ∧ (∀ m < 16, (portOf State.reset m).sending = none) ∧
    State.reset.bnd.waits = [] ∧ State.reset.ftb.toAdmit = [] ∧ State.reset.trl.stage = [] := by decide
theorem witness_MemoryStaysCanonical : State.reset.Inv ∧ ∃ t, step { State.reset with pending := [.entropyHealthFail] } = .next t :=
  ⟨by unfold State.Inv; decide, _, rfl⟩
theorem witness_FusesOnlyGrow : ∃ t, step { State.reset with pending := [.entropyHealthFail] } = .next t := ⟨_, rfl⟩
theorem witness_QueueShrinks : ∃ t, step { State.reset with pending := [.entropyHealthFail, .tapIdcode] } = .next t ∧ t.pending = [.tapIdcode] := ⟨_, rfl, rfl⟩
theorem witness_HeldInReset : { State.reset with cru := { State.reset.cru with inReset := true } }.cru.inReset = true := rfl
theorem witness_BusyMailbox : mayWrite (boxed State.reset 0x200080 true false) 0 0x200080 = true ∧
    regIs 0x200080 (fun l => l.desc.mbx && l.sub == 0 && l.addr == 0x200080) = true ∧ regIs 0x2000BC (fun l => l.desc.mbx && l.sub == 60) = true ∧
    (mbxAt (boxed State.reset 0x200080 true false) 0x200080).busy = true ∧
    (mbxAt (boxed State.reset 0x200080 false true) 0x200080).valid = true ∧ (mbxAt (boxed State.reset 0x200080 false true) 0x200080).busy = false := by
  decide +kernel
theorem witness_UnprivilegedWrite : regIs 0xD00040 (fun l => l.desc.priv == .prv && allows .all l.page 0x3000) = true ∧ isPriv 0x3000 = false ∧
    unconfined State.reset 0x3000 0xD00040 = true := by decide +kernel
theorem witness_PageHeaderCommands : pageIs 0x200000 (fun p => p.base == 0x200000 && !locked State.reset p.base && (claimedBy State.reset p.base).isNone) = true ∧
    pageIs 0 (fun p => [Block.sys, .cru, .orn].contains p.kind.blk) = true ∧ isPriv 0x3000 = false ∧
    locked (fset State.reset (hLock 0x200000) 1) 0x200000 = true ∧ mayHead State.reset 0x3000 0x200000 = true ∧ mayHead State.reset 0 0x200000 = true ∧ isPriv 0 = true ∧ midClass 0 = 0 := by
  decide +kernel
theorem witness_FieldWrites : Fld.SYS_SCRATCH_V.addr % 4 = 0 ∧ mayWrite State.reset 0 Fld.SYS_SCRATCH_V.addr = true ∧ locked State.reset 0 = false ∧
    claimedBy State.reset 0 = none ∧ mayWrite State.reset 0 Fld.HRB_LOST_COUNT.addr = true ∧
    regIs Fld.HRB_LOST_COUNT.addr (fun l => l.desc.fields.length == 1 && l.desc.fields.all fun f => f.acc == .ctr) = true ∧
    mayWrite State.reset 0 (Fld.BND_Q_CFG_EN 0 0).addr = true ∧ regIs (Fld.BND_Q_CFG_EN 0 0).addr (fun l => !(writable l [.wbf] 0).isEmpty &&
      (writable l [.rw, .wsc, .ctr] 0).isEmpty && !locked State.reset l.page.base && (claimedBy State.reset l.page.base).isNone) = true ∧
    mayAsk State.reset 0 0x200080 = true ∧ regIs 0x200080 (fun l => l.desc.mbx) = true ∧ (mbxAt State.reset 0x200080).busy = false := by decide +kernel
theorem witness_Strobes : mayWrite State.reset 0 0x44 = true ∧ mayWrite State.reset 0 0x48 = true ∧
    regIs (Fld.BND_Q_CFG_EN 0 0).addr (fun l => l.desc.name == .bnd .BND_Q_CFG) = true ∧ regIs (Fld.BND_Q_LIM_DEADLINE 0 0).addr (fun l =>
      l.desc.name == .bnd .BND_Q_LIM) = true ∧ fget State.reset (hGrp (pageBase (Fld.BND_Q_CFG_EN 0 0).addr)) = 0 ∧
    (Fld.MAC_MAXLEN_LEN 15).addr % 4 = 0 ∧ (Fld.MAC_MAXLEN_LEN 15).addr < 2 ^ 28 ∧
    (State.reset.reg.strobes.filter fun e => decide (e.2 ≤ State.reset.sdl.fab)) = [] ∧
    (([(0, 0), (3, 1)] : List (Nat × Nat)).filter fun e => decide (e.2 ≤ State.reset.sdl.fab)).map (·.1) ≠ [] ∧
    strobeInFlight State.reset (Fld.MAC_MAXLEN_LEN 3).addr = none ∧
    strobeInFlight { State.reset with reg := { State.reset.reg with pend := [⟨(Fld.MAC_MAXLEN_LEN 3).addr, 9600, 0, 2⟩, ⟨(Fld.MAC_MAXLEN_LEN 3).addr, 9000, 0, 1⟩] } }
      (Fld.MAC_MAXLEN_LEN 3).addr = some 1 := by decide +kernel
theorem witness_BeginOpensSlot : mayWrite State.reset 0 0x1040 = true ∧ mayWrite State.reset 0 0x10A0 = true ∧ (txSlot State.reset 3).phase = .idle ∧
    (txSlot (setTx State.reset 3 { txSlot State.reset 3 with phase := .opened }) 3).phase ≠ .idle := by decide +kernel

/-- Slot 0 open, owned by master 0, with a page claimed. -/
def opened (ws : List Staged) : State := setTx State.reset 0 { txSlot State.reset 0 with phase := .opened, owner := 0, claims := [0x801], staging := ws }

theorem witness_TransactionCommands : (txSlot (opened []) 0).phase = .opened ∧ (txSlot (opened []) 0).owner = 0 ∧ mayWrite (opened []) 0 0x1044 = true ∧
    pageIs 0x802000 (fun p => p.kind.txn) = true ∧ claimedElsewhere (opened []) 0 0x802 = false ∧ pendCount (opened []) 0x802000 = 0 ∧
    0x802 ∉ (txSlot (opened []) 0).claims ∧ mayWrite (opened []) 0 (Fld.BND_Q_CFG_EN 0 0).addr = true ∧
    regIs (Fld.BND_Q_CFG_EN 0 0).addr (fun l => l.page.kind.txn && claimedBy (opened []) l.page.base == some 0 && !locked (opened []) l.page.base &&
      !(writable l [.rw, .wbf] 0).isEmpty && (writable l [.wsc, .ctr] 0).isEmpty) = true ∧
    (∃ w ∈ (txSlot (opened [⟨(Fld.BND_Q_CFG_EN 0 0).addr, 0, 0⟩]) 0).staging, w.addr = (Fld.BND_Q_CFG_EN 0 0).addr) ∧
    mayWrite (opened []) 0 0x1040 = true ∧ mayWrite (opened []) 0 0x1048 = true ∧ locked (opened []) 0x1000 = false ∧ claimedBy (opened []) 0x1000 = none := by
  decide +kernel
theorem witness_StoppedCommitApplies :
    let s := clocked (setTx State.reset 0 { txSlot State.reset 0 with
      phase := .armed, target := .clock 32, staging := [⟨(Fld.BND_Q_CFG_EN 0 0).addr, 0, 0⟩] }) 32 32
    (∀ k < 4, k ≠ 0 → (txSlot s k).phase ≠ .armed) ∧ (txSlot s 0).phase = .armed ∧ (txSlot s 0).target = .clock 32 ∧ 32 ≤ s.sdl.fab := by decide +kernel
/-- With poisoned lines. -/
def withPoison (ls : List Nat) : State := { State.reset with integ := { State.reset.integ with poison := ls } }

theorem witness_MemoryTransactions : midClass 0 ≠ 2 ∧ State.reset.integ.poison = [] ∧ State.reset.Inv ∧ memExists State.reset sramBase 1 = true ∧
    sramBase + 1 < regBase ∧ memExists State.reset 0xFFFFFFFFFFFF 1 = false ∧ ¬ (romBase ≤ 0xFFFFFFFFFFFF ∧ 0xFFFFFFFFFFFF + 1 ≤ romBase + 0x40000) ∧
    (withPoison [sramBase / 64]).integ.poison ≠ [] ∧ (withPoison [sramBase / 64]).Inv ∧ poisonedIn (withPoison [sramBase / 64]) (sramBase + 63) 1 = some (sramBase / 64) ∧
    poisonedIn (withPoison [sramBase / 64]) (sramBase + 64) 1 = none ∧ pageAtOff 0x0FFFF000 = none ∧ (pageAtOff 0x200040).isSome = true ∧
    regIs 0x200040 (fun l => !([Reg.bnd .BND_TAKE, .cyc .CYC_PR_NEXT].contains l.desc.name)) = true ∧ 0x200040 % 8 = 0 ∧
    regIs Fld.HRB_LOST_COUNT.addr (fun l => !l.desc.mbx && l.desc.fields.length == 1 && l.desc.fields.all (fun f => !f.prv) && allows .all l.page 0 &&
      allows l.desc.priv l.page 0 && regPresent l && fget State.reset (hView l.page.base) == 0) = true ∧ 0x40 ≤ Fld.HRB_LOST_COUNT.addr % 0x1000 ∧
    romBase + 4 ≤ romBase + 0x40000 ∧ midClass 0 = 0 := by
  unfold State.Inv; decide +kernel
theorem witness_GuestConfinement : midClass 0x2000 = 2 ∧ midIndex 0x23FF = 1023 ∧ fenced (setPav State.reset 0 { pavOf State.reset 0 with phase := .reset }) 0 = true ∧
    fenced State.reset 0 = false ∧ inWindow State.reset 0 sramBase 4 .read = false ∧ ownPage 0 sramBase 4 = false := by decide +kernel

/-! ### Witnesses: clocks, resets, crossings, time and alarms -/

/-- Some CRU state. -/
def withCru (f : Cru → Cru) : State := { State.reset with cru := f State.reset.cru }

theorem witness_ClockMonitors : monWorks State.reset 0 = true ∧
    bit (withCru fun c => { c with monOut := 1 }).cru.monOut 0 = true ∧ bit (withCru fun c => { c with monOut := 1 }).cru.mon 0 = false ∧
    bit (withCru fun c => { c with monIn := 1, mon := 1 }).cru.monIn 0 = true ∧ bit (withCru fun c => { c with monIn := 1, mon := 1 }).cru.mon 0 = true ∧
    bit (withCru fun c => { c with pll := 2 ^ 32 - 1 }).cru.pll (pllIndex (.lane 15)) = true ∧ laneMayLock State.reset 15 = true := by decide +kernel
theorem witness_SystemResets : (withCru fun c => { c with sysRst := some 0 }).cru.sysRst = some 0 ∧ (0 : Nat) ≤ State.reset.sdl.fab ∧
    { State.reset with gth := { State.reset.gth with unlocked := true } }.gth.unlocked = true ∧
    fbit (fset State.reset Fld.CRU_WDT_CTRL_EN 1) Fld.CRU_WDT_CTRL_EN = true ∧
    (let s := clocked (fset State.reset Fld.CRU_WDT_CTRL_EN 1) 0 (10 ^ 13); s.cru.wdtAt + fget s Fld.CRU_WDT_CTRL_TIMEOUT * 10 ^ 6 ≤ s.sdl.fab) := by
  decide +kernel
theorem witness_StartAndWatchdog : (withCru fun c => { c with pwrGood := false }).cru.pwrGood = false ∧
    (withCru fun c => { c with porstN := false }).cru.porstN = false ∧
    resetHeld (withCru fun c => { c with inReset := true, startNs := 1000000 }) = false ∧ State.reset.cru.sysRst = none ∧
    mayWrite State.reset 0 0x100050 = true ∧ mayWrite State.reset 0 0x100060 = true ∧
    sysWdtDue State.reset = false ∧ sysWdtDue (clocked (fset State.reset Fld.CRU_WDT_CTRL_EN 1) 0 (10 ^ 13)) = true := by decide +kernel

/-- Port 0 and port 15 enabled with their lanes locked and links up. -/
def linked : State :=
  let s := enable (enable State.reset (macPage 0 0)) (macPage 15 0)
  setPort (setPort { s with cru := { s.cru with pll := 2 ^ 32 - 1, portStat := 0 } } 0 { portOf s 0 with link := true }) 15 { portOf s 15 with link := true }

theorem witness_PortsAndGroups : mayWrite State.reset 0 0x100054 = true ∧ portUp linked 0 = true ∧ portUp linked 15 = true ∧
    bit State.reset.cru.xcReady 0 = false ∧ endpointsUp State.reset 0 = true ∧ holdOver State.reset 0 = true ∧
    holdOver (withCru fun c => { c with xcHold := [(28, 32)] }) 28 = false ∧ holdOver (clocked (withCru fun c => { c with xcHold := [(28, 32)] }) 0 32) 28 = true ∧
    regIs 0x1000044 (fun l => hasShadow l && l.addr == 0x1000044) = true ∧
    regIs 0xB00040 (fun l => hasShadow l && (match groupOf l with | some g => bit (withCru fun c => { c with xcReady := 3 }).cru.xcReady g | none => true)) = true := by
  decide +kernel
theorem witness_SuppliesAndDomains : bit State.reset.cru.rails (railIndex .io18) = false ∧ railIndex .io18 ∈ [0, 1, 2, 5, 6, 7] ∧
    bit (withCru fun c => { c with rails := 2 ^ 12 - 1 }).cru.rails (railIndex .io18) = true ∧
    bit (withCru fun c => { c with rails := 2 ^ 12 - 1 }).cru.rails 7 = true ∧ tapUp State.reset = true := by decide +kernel
theorem witness_EventChannels :
    let s := setEvChan State.reset true { pending := 255, lost := true }
    chanHeld State.reset true = false ∧ chanHeld (withCru fun c => { c with xcHold := [(2, 32)] }) true = true ∧ (evChan s true).busy = false ∧ (evChan s true).pending ≠ 0 ∧
    (evChan (setEvChan State.reset false { flight := some (255, true), busy := true }) false).flight = some (255, true) ∧
    (evChan (setEvChan State.reset false { busy := true }) false).busy = true ∧ (evChan (setEvChan State.reset false { busy := true }) false).flight = none := by
  decide
theorem witness_DoutChannel : (withCru fun c => { c with dout := { flight := some (1, 2 ^ 32 - 1, false) } }).cru.dout.flight = some (1, 2 ^ 32 - 1, false) ∧
    (doutRaise (withCru fun c => { c with dout := { pending := some (1, 2, 3), free := 0 } })).cru.dout.flight = some (1, 2, false) ∧
    (doutRaise (withCru fun c => { c with dout := { flight := some (1, 2 ^ 32 - 1, true), free := 9 } })).cru.dout.flight = some (1, 2 ^ 32 - 1, true) ∧
    doutBusy State.reset = false ∧ doutBusy (withCru fun c => { c with dout := { flight := some (1, 2, false) } }) = true ∧
    frozen State.reset = false ∧ State.reset.ang.lastAlarms = [] := by decide +kernel
theorem witness_TimeReads : Free State.reset 0 0x200080 ∧ State.reset.sdl.ppsIn = none ∧ Free State.reset 0 0x203080 ∧ State.reset.ang.st = .off ∧
    { State.reset with ang := { State.reset.ang with st := .locked } }.ang.st ≠ .off ∧ Free State.reset 0 0x202040 ∧ Free State.reset 0 0x202400 ∧
    tsRing State.reset 15 = [] := by unfold Free; decide +kernel
theorem witness_AdjustmentsTaken : Free State.reset 0 0x2000C0 ∧ (0x0010 : BitVec 16).toNat % 2 = 0 ∧ State.reset.sdl.gen = .stopped ∧
    word State.reset 0x2000C0 [0, 0, 0, 0, 64, 0] 4 + 2 ^ 32 * word State.reset 0x2000C0 [0, 0, 0, 0, 64, 0] 5 = 64 ∧
    word State.reset 0x2000C0 [0, 0, 0, 0, 0, 1] 4 + 2 ^ 32 * word State.reset 0x2000C0 [0, 0, 0, 0, 0, 1] 5 = 2 ^ 32 := by
  unfold Free; decide +kernel

/-- The generator running. -/
def running (s : State) : State := { s with sdl := { s.sdl with gen := .running, last := some 0 } }

theorem witness_AdjustmentsApplied : adjRefusal State.reset 0x10 0 0 = none ∧ adjRefusal (running State.reset) 0x10 0 0 = some 5 ∧
    adjRefusal (running State.reset) 0x11 (2 ^ 31 - 1) 0 = some 2 ∧ (State.reset.sdl.raw + 2 ^ 64 - 0) % 2 ^ 64 < 2 ^ 63 ∧
    0 ≤ (timeAt State.reset.sdl 0 : Int) + stepAmount 0 0 := by decide +kernel
theorem witness_TickGenerator : mayWrite (enable State.reset 0x200000) 0 0x200040 = true ∧ locked (enable State.reset 0x200000) 0x200000 = false ∧
    claimedBy (enable State.reset 0x200000) 0x200000 = none ∧ State.reset.sdl.gen = .stopped ∧ enabled (enable State.reset 0x200000) 0x200000 = true ∧
    (running State.reset).sdl.gen ≠ .stopped := by decide +kernel
theorem witness_TickEdges : tickDue (running State.reset) = true ∧ rateChangeDue (running State.reset) = false ∧
    (let s := fset (running State.reset) Fld.SDL_BASE_RATE_REQ 0; rateChangeDue s = true) ∧
    (let s := clocked { State.reset with sdl := { State.reset.sdl with fabDue := [(0, 0, true)] } } 34 34; s.sdl.fabDue = (0, 0, true) :: []) := by
  decide +kernel
/-- A frame with a launch instant at the head of queue 7 of port 15. -/
def aFrame15 (l : Launch) : Frame := { bytes := List.replicate 60 0, src := 17, tc := 7, launch := l }

/-- That frame in its queue. -/
def waiting (l : Launch) : State := setOut (clocked State.reset (10 ^ 12) (10 ^ 12)) (8 * 15 + 7) [aFrame15 l]

theorem witness_TimePins :
    (let s := fset (enable State.reset 0x200000) Fld.SDL_CTRL_PPS_OUT_EN 1; ppsDriven s = true ∧ s.sdl.ppsMarked = none ∧ enabled s 0x200000 = true) ∧
    (let s := clocked { State.reset with sdl := { State.reset.sdl with pps := true, tickOut := true } } (10 ^ 9) (10 ^ 9)
     s.sdl.ppsRise + fget s Fld.SDL_PPS_WIDTH_US * 1000 * nsUnit ≤ timeNow s ∧ s.sdl.tickOutAt + fget s Fld.SDL_TICKOUT_WIDTH * 100 * nsUnit ≤ timeNow s) ∧
    fromBase 5 5 = true ∧ fromBase 5 4 = false ∧ fromBase 2 (2 ^ 64 - 1) = false ∧ fromBase (2 ^ 64 - 1) 4 = true ∧
    headOf (waiting (.due 0)) 15 7 = some (aFrame15 (.due 0)) ∧ (aFrame15 (.due 0)).launch = .due 0 ∧
    0 + fget (waiting (.due 0)) (Fld.SDL_P_LATE_LIMIT 15) * nsUnit ≤ timeNow (waiting (.due 0)) + fget (waiting (.due 0)) (Fld.SDL_P_LAT_TX_LAT 15) * 2 ^ 28 := by
  decide +kernel
theorem witness_TrackerTimeouts :
    let s := fun st => { enable (clocked State.reset (10 ^ 12) (10 ^ 12)) 0x203000 with ang := { State.reset.ang with st := st } }
    enabled (s .locked) 0x203000 = true ∧ (s .locked).ang.lastRecv + 5000000 ≤ (s .locked).sdl.raw ∧
    (s .holdover).ang.holdAt + fget (s .holdover) Fld.SDL_ANG_CNT_HOLD_MS * 1000000 ≤ (s .holdover).sdl.raw ∧ (s .holdover).ang.updates = [] ∧ (s .locked).sdl.gen ≠ .running := by
  decide +kernel
theorem witness_AlarmRequests : Free (enable State.reset 0x204000) 0 0x204040 ∧ enabled (enable State.reset 0x204000) 0x204000 = true ∧
    (alarm State.reset 255).st ≠ .armed ∧ (alarm State.reset 255).st ≠ .fired ∧ enabled State.reset 0x204000 = false ∧
    (alarm (setAlarm State.reset 255 { alarm State.reset 255 with st := .armed, tf := 5 }) 255).st = .armed ∧ timeNow State.reset < 5 * nsUnit := by
  unfold Free; decide +kernel
theorem witness_AlarmsFire :
    let s := fun k => setAlarm State.reset 0 { alarm State.reset 0 with st := .armed, tf := 0, kind := k }
    (∀ k ∈ [0, 1, 2], (alarm (s k) 0).st = .armed ∧ (alarm (s k) 0).tf * nsUnit ≤ timeNow (s k) ∧ (alarm (s k) 0).kind = k) ∧
    frozen (s 0) = false ∧ (s 0).ang.lastCmd = none ∧ (s 0).ang.lastAlarms = [] ∧
    (([(0, 0, 1, 31), (255, 7, 2, 3)] : List (Nat × Nat × Nat × Nat)).find? fun e => e.1 == 255 && decide (e.2.1 ≤ 7)) = some (255, 7, 2, 3) := by
  decide +kernel

/-! ### Witnesses: frames, queues and the sampled values -/

/-- A frame of 60 octets from the host. -/
def aFrame : Frame := { bytes := List.replicate 60 0, src := 17, tc := 0 }

/-- A frame at the head of queue 0 of a switch port. -/
def framed (s : State) (o : Nat) : State := setOut s (8 * o) [aFrame]

theorem witness_FramesReceived : portUp linked 15 = true ∧ (portOf linked 0).link = true ∧
    fbit (fset linked (Fld.MAC_MODE_RXEN 0) 1) (Fld.MAC_MODE_RXEN 0) = true ∧ pairOp linked = false ∧ pairMode linked 0 = 0 ∧
    60 + 4 ≤ fget linked (Fld.MAC_MAXLEN_LEN 0) ∧ isReserved (dstOf (List.replicate 60 0)) = false ∧
    filterPass (enable linked (macPage 0 1)) 0 (dstOf (List.replicate 60 0)) = true ∧ filterPass linked 0 (dstOf (List.replicate 60 0)) = false ∧
    (portOf (setPort State.reset 15 { paused := some 0 }) 15).paused = some 0 ∧ portUp linked 1 = false ∧
    fbit (fset linked (Fld.MAC_MODE_RXEN 15) 1) (Fld.MAC_MODE_RXEN 15) = true ∧
    ((redOf (setRed (clocked State.reset (10 ^ 12) (10 ^ 12)) 0 { dup := [⟨7, 0, 0, 0⟩] }) 0).dup.find? fun e => e.src == 7) = some ⟨7, 0, 0, 0⟩ := by
  decide +kernel
theorem witness_FramesSent :
    (let s := framed (fset linked (Fld.MAC_MODE_TXEN 0) 1) 0
     txIdle s 0 = true ∧ (∀ k < 8, k ≠ 0 → headOf s 0 k = none) ∧ txMay s 0 0 = some aFrame ∧
       (egressBytes s 0 aFrame).length + 4 ≤ fget s (Fld.MAC_MAXLEN_LEN 0)) ∧
    (let s := fun st => setPort (enable State.reset (macPage 15 2)) 15 { gcl := { start := st, next := some 0 } }
     enabled (s none) (macPage 15 2) = true ∧ (portOf (s none) 15).gcl.next = some 0 ∧
       0 < cycleAfter (s (some 0)) (portOf (s (some 0)) 15).gcl.set_ 0) ∧
    cycleAfter (clocked State.reset (10 ^ 9) 0) {} 0 ≤ timeNow (clocked State.reset (10 ^ 9) 0) ∧
    muting (framed linked 0) = false ∧ frozen (framed linked 0) = false ∧ { aFrame with mutes := true }.mutes = true ∧
    (let s := setPort (enable State.reset (macPage 15 2)) 15 { gcl := { pend := some (⟨false, 1, 1000, 0⟩, 0) } }
     (portOf s 15).gcl.pend = some (⟨false, 1, 1000, 0⟩, 0) ∧ 0 ≤ timeNow s) ∧
    Free State.reset 0 (gclMbx 15) ∧ Free State.reset 0 (macPage 0 0 + 0x80) := by unfold Free; decide +kernel
theorem witness_GoosePublisher : Free State.reset 0 0x420080 ∧ (slotGpb State.reset 4095).running = false ∧
    (let s := { State.reset with mac := { State.reset.mac with goose := { State.reset.mac.goose with slots := [(4095, { running := true })] } } }
     (slotGpb s 4095).running = true ∧ (slotGpb s 4095).due ≤ timeNow s) ∧
    (physRead State.reset gooseMid (slotAddr State.reset 0) 0x280).2 = none ∧ hdrOk (List.replicate 0x280 0) = false ∧ hdrOk (List.replicate 0x280 1) = true := by
  unfold Free; decide +kernel
theorem witness_GooseSubscriber : nextClass (framed State.reset 18) 18 = some 0 ∧ headOf (framed State.reset 18) 18 0 = some aFrame ∧
    enabled (takeHead (framed State.reset 18) 18 0) 0x421000 = false ∧ enabled (takeHead (framed (enable State.reset 0x421000) 18) 18 0) 0x421000 = true ∧
    goosePrefix aFrame.bytes = none ∧ Free State.reset 0 0x421080 ∧ Free State.reset 0 0x4210C0 ∧ subOf State.reset 0 = none ∧
    (let s := setSub (enable State.reset 0x421000) 4095 { d := [0, 0, 0, 0, 2 ^ 26], st := .live }
     (subOf s 4095).map (fun x => x.valid && x.st == .live && bit (x.d.getD 4 0) 26 && decide ((x.ns + x.ttl * 10 ^ 6) * nsUnit ≤ timeNow s)) = some true) := by
  unfold Free; decide +kernel
theorem witness_ForwardingDatabase : Free State.reset 0 0x401040 ∧
    (let s := setFdb (clocked State.reset (10 ^ 15) (10 ^ 15)) [(0, ⟨1, 1, 1, false, 0⟩), (16383, ⟨2, 1, 1, true, 0⟩)]
     tget s.trl.fdb 0 = some ⟨1, 1, 1, false, 0⟩ ∧ fget s Fld.TRL_AGE_S * 10 ^ 9 ≤ s.sdl.fab ∧ tget s.trl.fdb 16383 = some ⟨2, 1, 1, true, 0⟩) := by
  unfold Free; decide +kernel
theorem witness_HostRings :
    (let f := { aFrame with dram := true }
     let s := setAdm State.reset 3199 [f]
     tat (admQueues s) 3199 [] = [] ++ f :: [] ∧ movingTo s 3199 = [] ∧ cellsIn false [f] < 64 ∧ (spillUsed s).2 + 64 * cellsOf f ≤ 25000) ∧
    enabled (enable State.reset 0x400000) 0x400000 = true ∧
    (let s := fset (enable State.reset 0x410000) (Fld.TRL_TXR_TAIL_TAIL 0) 1
     (((List.range 8).map fun i => (s.trl.lastTx + 1 + i) % 8).find? (txReady s)) = some 0) ∧
    (let s := framed (fset (enable State.reset 0x410000) (Fld.TRL_RXR_TAIL_TAIL 0) 1) 17
     (rxRing s 0).halt = false ∧ (rxRing s 0).head ≠ fget s (Fld.TRL_RXR_TAIL_TAIL 0) ∧ headOf s 17 0 = some aFrame) ∧
    locked State.reset 0x410000 = false ∧ claimedBy State.reset 0x410000 = none ∧ mayWrite State.reset 0 (0x410044 + 0x10 * 7) = true ∧
    mayWrite State.reset 0 (0x4100C4 + 0x10 * 7) = true := by decide +kernel
theorem witness_SampledValues : State.reset.svi.hold = none ∧ State.reset.svi.busy ≤ State.reset.sdl.fab ∧ nextClass (framed State.reset 16) 16 = some 0 ∧
    headOf (framed State.reset 16) 16 0 = some aFrame ∧ genActive (takeHead (framed State.reset 16) 16 0) = false ∧
    genActive (takeHead (framed (running (enable State.reset 0x500000)) 16) 16 0) = true ∧
    enabled (takeHead (framed (running (enable State.reset 0x500000)) 16) 16 0) 0x500000 = true ∧ firstSvId aFrame.bytes = none ∧
    (let s := setStream (clocked State.reset (10 ^ 9) (10 ^ 9)) 2047 { valid := true, lost := false, placedAt := some 0 }
     (streamOf s 2047).placedAt = some 0 ∧ 0 + bits ((streamOf s 2047).w 5) 31 24 * 10 ^ 6 ≤ s.sdl.fab) ∧
    (let s := clocked { State.reset with svi := { State.reset.svi with ended := [(0, 4800, 0)] } } (10 ^ 9) (10 ^ 9)
     s.svi.ended.find? (fun e => unreleased s 255 (e.1, e.2.1)) = some (0, 4800, 0) ∧ 0 + groupH s 255 ≤ s.sdl.fab) := by decide +kernel
theorem witness_StreamDescriptors : Free State.reset 0 0x500080 ∧ Free State.reset 0 0x5000C0 ∧ genActive State.reset = false ∧ genActive (running State.reset) = true ∧
    descRefusal State.reset 2047 [] = none ∧
    descRefusal (setStream State.reset 0 { valid := true }) 2047 [] = some 2 := by unfold Free; decide +kernel
theorem witness_FiltersAndPhasors : mayWrite State.reset 0 0x600040 = true ∧ fbit (fset State.reset Fld.CAS_SYNCPIN_PINEN 1) Fld.CAS_SYNCPIN_PINEN = true ∧
    fbit State.reset Fld.CAS_SYNCPIN_PINEN = false ∧ Free State.reset 0 0x600080 ∧ Free State.reset 0 0x700080 ∧
    (let s := clocked { State.reset with cas := { State.reset.cas with syncOut := true } } 1000 1000
     s.cas.syncOut = true ∧ s.cas.syncOutAt + 1000 ≤ s.sdl.raw) ∧ genActive (running State.reset) = true ∧ genActive State.reset = false := by
  unfold Free; decide +kernel

/-! ### Witnesses: events, the cycle, pavilions and the pair -/

/-- An event. -/
def anEv : Ev := { type := 0x10, queue := 8191 }

/-- An admitted event. -/
def aQEv : QEv := { ev := anEv, seq := 0, owner := 0, cls := 0, deadline := 0 }

/-- A queue open with room for an event. -/
def openQueue : State := fset (fset (enable (enable State.reset 0x800000) (qPage 8191)) (Fld.BND_Q_CFG_EN 63 127) 1) (Fld.BND_Q_LIM_LIMIT 63 127) 1


theorem witness_EventPosts : hasPosted openQueue 0 = false ∧
    hasPosted { openQueue with bnd := { openQueue.bnd with posted := [(0, 0)] } } 0 = true ∧ poolFree openQueue ≠ 0 ∧
    (evOf State.reset ⟨7, 0, 0, 0, 0, 0, 0, 0⟩).type = 7 ∧ (evOf State.reset ⟨0x10, 0, 0, 0x2000, 0, 0, 0, 0⟩).type = 0x10 ∧ midClass 0x2000 = 2 ∧
    State.reset.ang.offerAt ≠ some State.reset.sdl.fab ∧
    (∀ t ∈ ([1, 2, 3, 4, 5, 6, 8] : List Byte), (evOf State.reset ⟨t, 0, 0, 0, 0, 0, 0, 0⟩).type = t.toNat) ∧qOpen State.reset 8191 = false ∧ qOpen openQueue 8191 = true ∧ enabled openQueue 0x800000 = true ∧
    (queueOf openQueue 8191).length < qLimit openQueue 8191 ∧ Free State.reset 0 0x800080 ∧ pairOp State.reset = false ∧
    Free State.reset 0 (0x40000C0 + 0x1000 * 1023) ∧ fenced State.reset 1023 = false ∧ fenced (setPav State.reset 1023 { phase := .reset }) 1023 = true ∧
    heldOf { State.reset with bnd := { State.reset.bnd with held := [(Holder.state.key 2047, [anEv])] } } .state 2047 = some anEv ∧
    nextHeldAlarm { State.reset with bnd := { State.reset.bnd with held := [(Holder.alarm.key 255, [anEv])] } } = some 255 ∧
    { State.reset with svi := { State.reset.svi with hold := some anEv } }.svi.hold = some anEv := by unfold Free; decide +kernel
theorem witness_EventDispatch : mayRead State.reset 94 (0x880040 + 0x1000 * 47) = true ∧ mayWrite State.reset 94 (0x880044 + 0x1000 * 47) = true ∧
    slotOf (purgeSlot (completeTaken State.reset 47) 47) 47 = [] ∧
    (let s := enable { State.reset with bnd := { State.reset.bnd with slots := [(47, [aQEv])] } } 0x8AF000
     enabled s (0x880000 + 0x1000 * 47) = true ∧ slotOf (purgeSlot (completeTaken s 47) 47) 47 = [aQEv]) ∧
    (let s := clocked { State.reset with bnd := { State.reset.bnd with waiting := [(0, 0, 0, 0)] } } 1 1
     tget s.bnd.waiting 0 = some (0, 0, 0) ∧ 0 + 0 ≤ s.sdl.fab) ∧
    (let s := { State.reset with bnd := { State.reset.bnd with taken := [(47, aQEv)] } }; takenOf s 47 = some aQEv) := by decide +kernel
theorem witness_SlotFills :
    let s := fset (fset (enable { openQueue with bnd := { openQueue.bnd with queues := [(8191, [aQEv])] } } 0x880000) (Fld.BND_PSETS0_MASK 0) 1)
      (Fld.BND_Q_CFG_SET 63 127) 0
    enabled s 0x800000 = true ∧ (slotOf s 0).length < 2 ∧ pairUp s 0 = true ∧ qLimit s 8191 ≤ (queueOf s 8191).length ∧
    ((serveOrder (purgeAll s)).findSome? fun q => (eligibleFor (purgeAll s) 0 q).map fun r => (q, r)) = some (8191, aQEv, false) := by decide +kernel

/-- An instance on pair 47. -/
def anInst (st : InstState) : Inst := ⟨1023, 15, 0, 8, 0, 47, st, []⟩

/-- A pavilion watchdog that is due, and one that is not. -/
theorem witness_PavilionWatchdog :
    let s := fset (fset (enable (setPav State.reset 1023 { wdt := 65535 }) 0x92F000) (Fld.CYC_PV_CTRL_EN 31 31) 1) (Fld.PAV_WDT_EN 1023) 1
    wdtDue s 1023 = true ∧ wdtDue State.reset 1023 = false := by decide +kernel
theorem witness_CycleSequencer :
    let s := fun st => { running (enable State.reset 0x9AF000) with cyc := { State.reset.cyc with insts := [anInst st] } }
    47 ∉ State.reset.cyc.halted ∧ mayWrite State.reset 0 (0x980050 + 0x1000 * 47) = true ∧ mayRead State.reset 94 (0x980040 + 0x1000 * 47) = true ∧
    mayWrite State.reset 94 (0x980048 + 0x1000 * 47) = true ∧ enabled (s .ready) (0x980000 + 0x1000 * 47) = true ∧ nextInstance (s .ready) 47 = some (anInst .ready) ∧
    nextInstance State.reset 47 = none ∧ ((s .running).cyc.insts.any fun e => e.pair == 47 && e.st == .running && e.pav == 1023 && e.cls == 15) = true ∧
    Free (s .ready) 0 0x900080 ∧ Free (s .ready) 0 0x9000C0 ∧ (readImage State.reset 1023 0).2.isSome = false ∧ seqTarget State.reset 0 = (3, 0) ∧
    seqTarget (s .ready) 0x10000 = (0, 0x10000) ∧ seqTarget (s .ready) 0x10001 = (4, 0) ∧ forceOf State.reset 0 0 = none := by unfold Free; decide +kernel
theorem witness_PavilionLife : mayWrite State.reset 0 (0x4000048 + 0x1000 * 1023) = true ∧ mayWrite State.reset 0 (0x4000058 + 0x1000 * 1023) = true ∧
    (pavOf (setPav State.reset 1023 { phase := .reset }) 1023).phase = .reset ∧ (pavOf (setPav State.reset 1023 { share := 1 }) 1023).share ≠ 0 ∧
    (let s := fset (fset (enable (setPav State.reset 1023 { wdt := 65535 }) 0x92F000) (Fld.CYC_PV_CTRL_EN 31 31) 1) (Fld.PAV_WDT_EN 1023) 1
     fbit s (Fld.PAV_WDT_EN 1023) = true ∧ pavState s 1023 = 1 ∧ (pavOf s 1023).wdtDone = false ∧ fget s (Fld.PAV_WDT_TICKS 1023) ≤ (pavOf s 1023).wdt ∧
       anyError s 1023 = false ∧ bit (fget s (Fld.PAV_CTRL_ERRACT 1023)) 3 = false) := by decide +kernel
theorem witness_PavilionMigration : Free State.reset 0 (migMbx 1023) ∧ pavState State.reset 1023 = 0 ∧
    pavState (setPav State.reset 1023 { phase := .frozen }) 1023 = 4 ∧
    pavState (fset (enable State.reset 0x92F000) (Fld.CYC_PV_CTRL_EN 31 31) 1) 1023 = 1 ∧ (physRead State.reset cycMid 0 0x40).2 = none ∧
    (let r : MigReq := { op := 2, tick := 0, d := [0, 0], taken := true }
     (pavOf (setPav State.reset 1023 { phase := .saving, mig := some r }) 1023).mig = some r) := by unfold Free; decide +kernel

/-- Pair operation, 1 s after the start. -/
def paired (f : Footbridge → Footbridge) : State :=
  let s := running (clocked (fset (enable State.reset 0xA00000) Fld.FTB_CFG_PAIR 1) (10 ^ 10) (10 ^ 10))
  { s with ftb := f s.ftb }

theorem witness_PairMessages : (paired id).cru.inReset = false ∧ pairOp (paired id) = true ∧ (paired id).ftb.sentAt + 10000 ≤ (paired id).sdl.raw ∧
    (paired id).ftb.seen.contains (1, 0) = false ∧ (paired fun f => { f with seen := [(1, 0)] }).ftb.seen.contains (1, 0) = true ∧
    (paired fun f => { f with gather := [⟨0, 0, [], false, 0, 0, false⟩] }).ftb.gather ≠ [] ∧ (paired id).ftb.gatherAt + 1000 ≤ (paired id).sdl.fab ∧
    dueBatch (paired fun f => { f with batch := [{ ev := anEv, key := 0, side := 0, tick := 0 }] }) = some 0 ∧ (paired id).ftb.admitFab ≠ some (paired id).sdl.fab ∧
    (paired fun f => { f with toAdmit := [{ ev := anEv, key := 0, side := 0, tick := 0 }] }).ftb.toAdmit ≠ [] ∧
    frozen (paired fun f => { f with frozen := some 0 }) = true := by decide +kernel

/-- The partner's heartbeat GOOSE, and a state that takes it on port 0. -/
def aBeat : List Nat := gooseOctets (List.replicate 0x280 1) (utcTime (paired id) 0) 2000 1 0 4 (ghbData (paired id))

/-- Pair operation, port 0 receiving and the partner's heartbeat known. -/
def hearing : State :=
  let s := fset (fset (fset (paired id) Fld.FTB_PGHB0_A (addrD0 (dstOf aBeat))) Fld.FTB_PGHB1_A (addrD1 (dstOf aBeat))) Fld.FTB_PGHB1_APPID (be aBeat (appAt aBeat) 2)
  let s := fset (enable s (macPage 0 0)) (Fld.MAC_MODE_RXEN 0) 1
  setPort { s with cru := { s.cru with pll := 2 ^ 32 - 1, portStat := 0 } } 0 { portOf s 0 with link := true }

theorem witness_PartnerHeartbeat : takesFrame hearing 0 aBeat true = true ∧ pairOp hearing = true ∧ (ghbParse hearing aBeat).isSome = true := by
  decide +kernel
theorem witness_PairContact :
    let s := paired id
    s.ftb.hbOutAt + 10000 ≤ s.sdl.raw ∧ s.ftb.hbLost = false ∧ s.ftb.hbAt + fget s Fld.FTB_LOSS_HB_US * 1000 ≤ s.sdl.fab ∧ s.ftb.fbLost = false ∧
    s.ftb.link0.getD s.ftb.upAt + fget s Fld.FTB_LOSS_FB_US * 1000 ≤ s.sdl.fab ∧ s.ftb.ghbLost = false ∧
    s.ftb.ghbAt + fget s Fld.FTB_GHB_N * fget s Fld.FTB_GHB_PER_US * 1000 ≤ s.sdl.fab ∧ s.ftb.ghbOutAt + fget s Fld.FTB_GHB_PER_US * 1000 ≤ s.sdl.raw ∧
    (let d : Digest := ⟨0, 0, 0, 0, 0, none, false⟩
     let s := paired fun f => { f with st := 3, digs := [d] }
     (s.ftb.digs.find? fun d => d.peer.isNone && !d.missed && decide (d.at_ + fget s Fld.FTB_GUARD_DIGWAIT * 1000 ≤ s.sdl.fab)) = some d ∧ s.ftb.st = 3) ∧
    (let s := paired fun f => { f with frozen := some 0, listen := some 0, diag := [(0, false, true)] }
     let t := { s with sdl := { s.sdl with last := some 2, fabLast := some 2 } }
     tickInProgress t = some 2 ∧ (t.ftb.diag.find? fun e => (match t.sdl.fabLast with | some l => decide (e.1 + 2 ≤ l) | none => false)) = some (0, false, true)) := by
  decide +kernel
theorem witness_PairRequests : Free (paired id) 0 0xA000C0 ∧ Free (paired id) 0 0xA00100 ∧ Free (paired id) 0 0xA00140 ∧
    tickInProgress (paired id) = some 0 ∧ (paired fun f => { f with st := 3, turn := true }).ftb.turn = true ∧ (paired id).ftb.req = none ∧ pairOp (paired id) = true ∧
    (let s := fset (fset (paired fun f => { f with st := 3, steps := 2 ^ 40 }) Fld.FTB_CFG_PRIMARY 1) Fld.FTB_REVERT_EN 1
     fbit s Fld.FTB_CFG_PRIMARY = true ∧ fbit s Fld.FTB_REVERT_EN = true ∧ pairOp s = true ∧ fget s Fld.FTB_REVERT_S ≤ s.ftb.steps) ∧
    (let s := paired fun f => { f with st := 4, heard := true, pstate := 3, pholder := true, pcfg := some 0 }
     s.ftb.st ∈ [1, 4, 5] ∧ s.ftb.pstate ∈ [1, 3] ∧ anySettle s = false) := by unfold Free; decide +kernel

/-! ### Witnesses: metering, captures, records, keys, integrity and the board -/

/-- The Orangery metering with its page and crossing group ready. -/
def metering (f : Orangery → Orangery) : State :=
  let s := enable (withCru fun c => { c with xcReady := 3 }) 0xB00000
  { s with orn := f { s.orn with phase := .metering } }

theorem witness_MeterChanges : Free (metering id) 0 0xB00080 ∧ enabled (metering id) 0xB00000 = true ∧ bit (metering id).cru.xcReady 1 = true ∧
    sealOpen (metering id) = false ∧ sealOpen (metering fun o => { o with pinLow := true, pinAt := 0, clk := 10 ^ 9, openAt := some (10 ^ 9) }) = true ∧
    auditFree (metering id) = 32768 ∧
    (let p : OrnParams := {}
     let s := metering fun o => { o with change := some ⟨p, [], none, 0⟩ }
     s.orn.change.map (fun c => decide (c.from_ ≤ timeNow s * 10 / secUnit)) = some true) := by unfold Free; decide +kernel
theorem witness_MeterSeal : (metering fun o => { o with lockAt := some 0 }).orn.lockAt ≠ none ∧ (metering id).orn.lockAt = none ∧ (metering id).orn.key = none ∧
    (metering fun o => { o with key := some [1], nonce := some 2 }).orn.nonce = some 2 ∧ true ≠ (metering id).orn.pinLow ∧
    bit (metering id).cru.rails 8 = false ∧
    (let s := metering fun o => { o with openAt := some 0, pinLow := true, pinAt := 0, clk := 10 ^ 15 }
     sealPin s = true ∧ 0 + (ornParams s).tmo * 60000000000 ≤ s.orn.clk) ∧ (0 : Nat) + 600000000000 ≤ 10 ^ 15 ∧ (0x5000 : Mid).toNat = 0x5000 := by
  decide +kernel
theorem witness_MeterReads : Free (metering id) 0 0xB000C0 ∧ Free (metering id) 0 0xB00100 ∧ enabled State.reset 0xB00000 = false ∧
    (metering fun o => { o with audit := [[1]] }).orn.audit[0x8000 % 2 ^ 15]? = some [1] ∧ (metering id).orn.audit[0xFFFF % 2 ^ 15]? = none ∧
    (metering id).orn.losses[0xFFFF / 2 ^ 13 % 8]? = none := by unfold Free; decide +kernel

/-- A released set of group 255. -/
def aSet : RelSet := ⟨255, 4800, 4800, [], 0⟩

theorem witness_MeterIntervals : { State.reset with svi := { State.reset.svi with toOrn := [aSet] } }.svi.toOrn = aSet :: [] ∧
    State.reset.orn.phase ≠ .metering ∧ State.reset.orn.held = false ∧ State.reset.orn.phase = .starting ∧
    ornDue (metering fun o => { o with sets := [{ aSet with tick := 0 }, aSet], next := [(255, 0)] }) = some (255, 0) ∧
    (let s := metering fun o => { o with pulses := [(3, { due := 1, left := 1 })], params := [(0, { pulses := [(3, { en := true })] })] }
     (tat (ornParams s).pulses 3 {}).en = true ∧ (tat s.orn.pulses 3 {}).left ≠ 0 ∧ (tat s.orn.pulses 3 {}).due ≠ 0 ∧
       (tat s.orn.pulses 3 {}).at_ ≤ s.orn.clk ∧ (tat s.orn.pulses 3 {}).sent = 0) ∧
    (metering id).orn.tapNext = none ∧ (metering fun o => { o with tapNext := some 65535 }).orn.tapNext = some 65535 ∧
    ((metering fun o => { o with sets := [aSet] }).orn.sets.find? fun r => r.group == 255) = some aSet := by decide +kernel

/-- The Belvedere on, with group 0 recording and unit 63 on a tap of source 0. -/
def capturing (f : CapGroup → CapGroup) : State :=
  let s := fset (fset (fset (enable (enable (enable State.reset 0xC00000) 0xC01000) 0xC02000) (Fld.BLV_CG_CTRL_EN 0) 1) (Fld.BLV_TR_CTRL_EN 63) 1)
    (Fld.BLV_TR_CTRL_KIND 63) 2
  let s := clocked s (10 ^ 10) (10 ^ 10)
  setUnit (setCap (setBlv s { s.blv with srcs := [(0, 2 ^ 28)] }) 0 (f { capOf s 0 with st := .record })) 63 { last := some 0 }

theorem witness_Captures :
    (let s := capturing id
     unitOn s 63 = true ∧ fget s (Fld.BLV_TR_CTRL_KIND 63) = 2 ∧ (unitRun s 63).last = some 0 ∧ (unitRun s 63).fired = false ∧
       0 + fget s (Fld.BLV_TR_T0_T 63) * 1000 ≤ nowNs s ∧ recording s 0 = true ∧ selects s 0 63 = false ∧ reducible s 0 = true ∧
       (capOf s 0).div < 128 ∧ s.blv.lowAt + 1000000 ≤ s.sdl.fab ∧ bufferFill s < 2 ^ 19) ∧
    1 < (capOf (capturing fun x => { x with div := 2 }) 0).div ∧ (∀ h, h < 16 → h ≠ 0 → ¬ 1 < (capOf (capturing id) h).div) ∧
    3 * 2 ^ 19 ≤ bufferFill (let s := capturing id; setBlv s { s.blv with fill := 2 ^ 21, fillAt := s.sdl.fab }) ∧
    nextClass (framed State.reset 19) 19 = some 0 ∧ recording State.reset 15 = false ∧ mayWrite State.reset 0 (0xC02060 + 0x40 * 15) = true ∧
    closeDue (let s := setCap (capturing id) 0 { capOf (capturing id) 0 with st := .post, edgeAfter := true }; setBlv s { s.blv with srcs := [] }) 0 = true ∧
    bit (capOf (setCap State.reset 15 { heldSlots := 2 ^ 15 }) 15).heldSlots 15 = true ∧ (tat State.reset.blv.masks 63 { due := some 0 }).due ≠ none ∧
    Free State.reset 0 0xC00080 ∧ srcInUse State.reset 1023 = false ∧ srcInUse (capturing id) 0 = true := by unfold Free; decide +kernel

/-- The Herbarium in some state. -/
def recorder (f : Herbarium → Herbarium) : State := let s := enable State.reset 0xD00000; { s with hrb := f s.hrb }

/-- A record of some source, staged in the first clock. -/
def aRec (src : Nat) : Rec := { type := 1, src := src, ptpv := false, snapver := 0, opsec := 0, pcyc := 0, ns := 0, args := [], snap := [] }

theorem witness_EventRecords : enabled (fset State.reset (hEn 0xD00000) 0) 0xD00000 = false ∧ enabled (recorder id) 0xD00000 = true ∧
    (recorder fun h => { h with open_ := some (4095, 0, 0) }).hrb.open_ = some (4095, 0, 0) ∧ (recorder id).hrb.staging.length + 2 ≤ 64 ∧
    (let s := recorder fun h => { h with open_ := some (0, 0, 0) }
     s.hrb.openAt + fget s Fld.HRB_CTRL_REPWIN * 1000000 ≤ (clocked s (10 ^ 12) (10 ^ 12)).sdl.fab) ∧
    (recorder fun h => { h with erasing := some (0, false) }).hrb.erasing = some (0, false) ∧ mayWrite State.reset 0 0xD00040 = true ∧
    locked State.reset 0xD00000 = false ∧ claimedBy State.reset 0xD00000 = none ∧ 1 ≤ fget State.reset Fld.HRB_CTRL_ERAHEAD ∧
    fget State.reset Fld.HRB_CTRL_ERAHEAD ≤ 8 ∧ 1 ≤ fget State.reset Fld.HRB_CTRL_REPWIN ∧ fget State.reset Fld.HRB_CTRL_REPWIN ≤ 60000 ∧
    State.reset.hrb.scanning = true ∧ State.reset.hrb.flash = [] ∧ Free State.reset 0 0xD00080 ∧ Free State.reset 0 0xD000C0 ∧ Free State.reset 0 0xD00100 ∧
    (4095 : Nat) / 256 ≥ 14 ∧ 0xDFF / 256 < 14 ∧
    neverMerged 0x0303 = true ∧ neverMerged 0x0304 = false ∧ neverMerged 0xFFF = false ∧
    behind (recorder fun h => { h with staging := [aRec 5, aRec 9] }) 7 = 1 ∧ behind (recorder fun h => { h with staging := [aRec 5] }) 5 = 0 ∧
    behind (recorder fun h => { h with staging := List.replicate 62 (aRec 0) }) 0 = 0 ∧
    (∀ o ∈ [FlashOp.body 0 (aRec 1), .valid 0 (aRec 1), .rep 0 (aRec 1)], (recorder fun h => { h with op := some o }).hrb.op = some o) ∧
    (recorder fun h => { h with erasing := some (255, true) }).hrb.erasing = some (255, true) ∧
    pageValid (recorder id).hrb.flash 0 = false ∧ (recorder fun h => { h with frozen := true }).hrb.frozen = true := by unfold Free; decide +kernel

/-- The Gatehouse up, in some state. -/
def keyed (f : Gatehouse → Gatehouse) : State :=
  let s := enable State.reset 0xE00000
  { s with gth := f { s.gth with loading := false, rootSt := 1 }, grt := { s.grt with tamper := false } }

theorem witness_KeysAndTags : State.reset.gth.birth = some (0, 0) ∧ State.reset.gth.entErr = false ∧ Free State.reset 0 0xE00080 ∧ Free State.reset 0 0xE000C0 ∧
    gthUp State.reset = false ∧ gthUp (keyed id) = true ∧ tampered (keyed id) 1 = false ∧
    tampered (fset (enable State.reset 0xE00000) Fld.GTH_CFG_TAMPACT 1) 1 = true ∧ (keyed id).gth.lc < 2 ∧ (keyed fun g => { g with lc := 3 }).gth.lc = 3 ∧
    (physRead (keyed id) 0x5000 0 256).2 = none ∧ slotOfBuffer 0 [] = .inl 0x0F ∧ metroOpen (keyed id) = true ∧
    (∃ r < 4, tget (keyed fun g => { g with rows := [(3, [])] }).gth.rows r ≠ none ∧ bit (keyed id).gth.rev r = false) ∧
    (keyed fun g => { g with loading := true }).gth.loading = true ∧ (keyed id).gth.bad.contains 4095 = false ∧ tget (keyed id).gth.slots 4095 = none ∧
    Free State.reset 94 (0xE10040 + 0x1000 * 47) ∧ enabled State.reset (0xE10000 + 47 * 0x1000) = false ∧
    enabled (enable State.reset 0xE3F000) (0xE10000 + 47 * 0x1000) = true ∧ (useKey (keyed id) 0 0 0 none).2.1 ≠ 0 ∧ (keyed id).gth.fails < 8 := by
  unfold Free; decide +kernel
theorem witness_MemoryIntegrity :
    (let s := fset (enable { State.reset with integ := { State.reset.integ with gib := 1 } } 0xF00000) Fld.MEM_SCRUB_EN 1
     enabled s 0xF00000 = true ∧ fbit s Fld.MEM_SCRUB_EN = true ∧ s.integ.gib ≠ 0 ∧ s.integ.poison.contains s.integ.scrubLine = false ∧
       s.integ.scrubLine + 1 < s.integ.gib * 2 ^ 24) ∧
    (withPoison [0]).integ.poison.contains 0 = true ∧ decodeBurst (tget State.reset.integ.marks 31) [[0, 18]] = .uncorrectable ∧ tget State.reset.integ.marks 31 = none ∧ enabled (enable State.reset 0xF01000) 0xF01000 = true ∧
    (let s := clocked State.reset (10 ^ 15) (10 ^ 15)
     s.integ.sweepAt + 10000000 ≤ s.sdl.fab ∧ s.integ.cmpAt + 10000000 ≤ s.sdl.fab ∧ s.integ.late.contains 2 = false ∧ s.integ.ocAt = [] ∧
       teleInstant s = some (false, 10 ^ 15) ∧ teleQueued s = false) ∧
    mayWrite State.reset 0 0xF00068 = true ∧ (physRead State.reset 0x300C 0 0x20).2 = none ∧
    fbit (fset (enable State.reset 0xF03000) Fld.MEM_TELE_CTRL_EN 1) Fld.MEM_TELE_CTRL_EN = true := by decide +kernel
theorem witness_BoardAndPins : 32768 ≤ { State.reset with grt := { State.reset.grt with sub := 32768 } }.grt.sub ∧
    32768 ≤ { State.reset with grt := { State.reset.grt with opsub := 32768 } }.grt.opsub ∧
    (let s := enable (withCru fun c => { c with xcReady := 3 }) 0x1000000
     enabled s 0x1000000 = true ∧ bit s.cru.xcReady 0 = true ∧ Free s 0 0x1000080 ∧ Free s 0 0x10000C0) ∧
    (let s := fset (enable { State.reset with dbg := { State.reset.dbg with dinRun := [(31, { n := 2 ^ 16 })] } } 0x1102000) (Fld.DBG_DIN_EN 31) 1
     dinEn s 31 = true ∧ (tat s.dbg.dinRun 31 {}).n ≠ 0 ∧ fget s (Fld.DBG_DIN_DEB 31) ≤ (tat s.dbg.dinRun 31 {}).n ∧ enabled s 0x1102000 = true) ∧
    State.reset.sdl.raw % 1000 = 0 ∧ State.reset.gth.lcBoot = 0 ∧ bit State.reset.dbg.dinQuiet 31 = false ∧ State.reset.dbg.stage = 0 ∧ mayWrite State.reset 0 0x110004C = true ∧ mayWrite State.reset 0 0x1100048 = true ∧
    Free State.reset 0 0x1101080 ∧ Free State.reset 0 0x1102100 ∧ tapUp State.reset = true ∧ tapUp (withCru fun c => { c with rails := 2 ^ 7 }) = false ∧
    State.reset.gth.lc = 0 := by unfold Free; decide +kernel
end

section
/-! Proofs of the family 01_architecture.md: the invariant of memory, the transactions of masters on the mesh, and the confinement of guests. -/

namespace Sys2Proof.Machine

/-! ### Transactions on the mesh (R20, R98) -/

/-- Out of reset, a transaction of a master is the access that it asks for. -/
theorem exec_meshTransaction (s : State) (mid : Mid) (addr : BitVec 48) (op : MeshOp) (bad : List BadLine) (h : s.cru.inReset = false) :
    exec (.meshTransaction mid addr op bad) s = .next (meshAccess s mid.toNat addr.toNat op bad) := by
  have e : exec (.meshTransaction mid addr op bad) s = act s fun s => meshAccess s mid.toNat addr.toNat op bad := rfl
  simp only [e, act, h, Bool.false_eq_true, if_false]

/-- Out of reset, a register write is the write on the mesh of its word. -/
theorem exec_registerWrite (s : State) (mid : Mid) (r : BitVec 26) (v : Word) (h : s.cru.inReset = false) :
    exec (.registerWrite mid r v) s = .next (meshWrite s mid.toNat (4 * r.toNat) v.toNat) := by
  have e : exec (.registerWrite mid r v) s = act s fun s => meshWrite s mid.toNat (4 * r.toNat) v.toNat := rfl
  simp only [e, act, h, Bool.false_eq_true, if_false]

/-- What stops a guest is its answer. -/
theorem meshAccess_stopped {s t : State} {mid a : Nat} {op : MeshOp} (bad : List BadLine) (hc : midClass mid = 2)
    (h : guestCheck s mid a (opLen op) (opPerm op) = some t) : meshAccess s mid a op bad = t := by
  simp only [meshAccess, hc, if_true, h]

section
variable {s : State} {mid : Nat} (hc : midClass mid ≠ 2)
include hc

theorem meshAccess_read (a n : Nat) (bad : List BadLine) : meshAccess s mid a (.read n) bad = plainRead s mid a n false bad := by
  simp only [meshAccess, hc, if_false]

theorem meshAccess_fetch (a n : Nat) (bad : List BadLine) : meshAccess s mid a (.fetch n) bad = plainRead s mid a n true bad := by
  simp only [meshAccess, hc, if_false]

/-- Reads and fetches are the reads of a master that no window confines. -/
theorem meshAccess_reads (a n : Nat) (bad : List BadLine) {op : MeshOp} (hop : op ∈ [MeshOp.read n, .fetch n]) :
    ∃ fetch, meshAccess s mid a op bad = plainRead s mid a n fetch bad := by
  simp only [List.mem_cons, List.not_mem_nil, or_false] at hop
  rcases hop with rfl | rfl
  · exact ⟨false, meshAccess_read hc a n bad⟩
  · exact ⟨true, meshAccess_fetch hc a n bad⟩

theorem meshAccess_write (a : Nat) (bs : List Byte) (bad : List BadLine) :
    meshAccess s mid a (.write bs) bad = plainWrite s mid a (octets bs) := by
  simp only [meshAccess, hc, if_false]

end

/-! ### Guests (R20, R398, R663) -/

theorem guestCheck_fenced {s : State} {mid : Nat} (a n : Nat) (perm : Perm) (hi : midIndex mid < 1024) (hf : fenced s (midIndex mid) = true) :
    guestCheck s mid a n perm = some (errorResp (cinc s (Fld.PAV_FENCED_COUNT (midIndex mid)))) := by
  simp only [guestCheck, Nat.not_le.2 hi, if_false, hf, if_true, refuseFor]

/-- Outside its windows, and outside its page or for a fetch, an access of a guest that no fence holds is refused by the window. -/
theorem guestCheck_outside {s : State} {mid a n : Nat} {perm : Perm} (hi : midIndex mid < 1024) (hf : fenced s (midIndex mid) = false)
    (hw : inWindow s (midIndex mid) a n perm = false) (ho : perm = .fetch ∨ ownPage (midIndex mid) a n = false) :
    guestCheck s mid a n perm = some (errorResp (pavError s (midIndex mid) 0 mid a)) := by
  have own : (perm != .fetch && ownPage (midIndex mid) a n) = false := by
    rcases ho with h | h <;> simp [h]
  simp only [guestCheck, Nat.not_le.2 hi, if_false, hf, own, hw, Bool.or_self, Bool.false_eq_true, refuseFor]

/-! ### Bytes written to memory (R22, R23) -/

theorem ofNat_getD_octets (bs : List Byte) (i : Nat) : BitVec.ofNat 8 ((octets bs).getD i 0) = bs.getD i 0 := by
  simp only [octets, List.getD_eq_getElem?_getD, List.getElem?_map]
  cases bs[i]? <;> simp

@[simp] theorem octets_length (bs : List Byte) : (octets bs).length = bs.length := by simp [octets]

/-- Bytes written from `a`, but not at the addresses that `skip` picks. -/
def wrBytesBut (skip : Nat → Bool) (s : State) (a : Nat) : List Nat → State
  | [] => s
  | b :: bs => wrBytesBut skip (if skip a then s else wr8 s a b) (a + 1) bs

theorem wrBytesBut_none (s : State) (a : Nat) (bs : List Nat) : wrBytesBut (fun _ => false) s a bs = wrBytes s a bs := by
  induction bs generalizing s a with
  | nil => rfl
  | cons b bs ih => exact ih (wr8 s a b) (a + 1)

/-- Bytes written one at a time, each with its distance from `a`. -/
theorem foldl_wr8_eq (skip : Nat → Bool) (s : State) (a k : Nat) (bs : List Nat) :
    (bs.zip (List.range' k bs.length)).foldl (fun s e => if skip (a + e.2) then s else wr8 s (a + e.2) e.1) s = wrBytesBut skip s (a + k) bs := by
  induction bs generalizing s k with
  | nil => rfl
  | cons b bs ih => exact ih _ (k + 1)

theorem wrBytesBut_eq (skip : Nat → Bool) (s : State) (a : Nat) (bs : List Nat) :
    wrBytesBut skip s a bs = { s with mem := (wrBytesBut skip s a bs).mem } := by
  induction bs generalizing s a with
  | nil => rfl
  | cons b bs ih =>
    rw [wrBytesBut, ih]
    split <;> rfl

/-- What memory reads after one byte is written. -/
theorem read_wr8 (s : State) (a b : Nat) (h : s.Inv) (x : Nat) :
    Memory.read (wr8 s a b).mem x = if x = a then BitVec.ofNat 8 b else Memory.read s.mem x := by
  split
  · next e => exact e ▸ Memory.read_write_same s.mem a _ h
  · next ne => exact Memory.read_write_other s.mem a x _ ne

/-- What memory reads after one byte is written or skipped. -/
theorem read_byteBut (skip : Nat → Bool) (s : State) (a b : Nat) (h : s.Inv) (x : Nat) :
    Memory.read (State.mem (if skip a then s else wr8 s a b)) x =
      if x = a ∧ skip x = false then BitVec.ofNat 8 b else Memory.read s.mem x := by
  cases hs : skip a with
  | true =>
    have no : ¬ (x = a ∧ skip x = false) := by
      rintro ⟨rfl, hx⟩
      rw [hs] at hx
      cases hx
    rw [if_neg no]
    rfl
  | false =>
    have same : (x = a ∧ skip x = false) ↔ x = a := ⟨And.left, fun e => ⟨e, e ▸ hs⟩⟩
    simp only [same, Bool.false_eq_true, if_false]
    exact read_wr8 s a b h x

/-- What memory reads after such a write. -/
theorem read_wrBytesBut (skip : Nat → Bool) (s : State) (a : Nat) (bs : List Nat) (h : s.Inv) (x : Nat) :
    Memory.read (wrBytesBut skip s a bs).mem x =
      if (a ≤ x ∧ x < a + bs.length) ∧ skip x = false then BitVec.ofNat 8 (bs.getD (x - a) 0) else Memory.read s.mem x := by
  induction bs generalizing s a with
  | nil => rw [if_neg fun c => Nat.not_lt.2 c.1.1 c.1.2]; rfl
  | cons b bs ih =>
    have inv : State.Inv (if skip a then s else wr8 s a b) := by
      split
      · exact h
      · exact (keeps_wr8 s a b).mem h
    rw [wrBytesBut, ih _ _ inv, read_byteBut skip s a b h]
    rcases Nat.lt_trichotomy x a with lt | rfl | gt
    · have out : ¬ a + 1 ≤ x ∧ ¬ a ≤ x ∧ x ≠ a := by omega
      simp only [out, false_and, if_false]
    · have out : ¬ x + 1 ≤ x ∧ x < x + (bs.length + 1) := by omega
      simp only [out, false_and, if_false, Nat.le_refl, List.length_cons, true_and, Nat.sub_self, List.getD_cons_zero]
    · have at_ : x ≠ a ∧ a ≤ x ∧ a + 1 ≤ x ∧ x - a = x - (a + 1) + 1 ∧ (x < a + 1 + bs.length ↔ x < a + (bs.length + 1)) := by omega
      obtain ⟨ne, le, le1, pos, range⟩ := at_
      simp only [ne, le, le1, pos, range, false_and, if_false, true_and, List.length_cons, List.getD_cons_succ]

/-! ### Poisoned lines (R598) -/

/-- The lines of a span are those from that of its first byte to that of its last. -/
theorem div_mem_linesOf {a n x : Nat} (h1 : a ≤ x) (h2 : x < a + n) : x / 64 ∈ linesOf a n := by
  have pos : n ≠ 0 := by omega
  have le : a / 64 ≤ x / 64 := Nat.div_le_div_right h1
  have last : x / 64 ≤ (a + n - 1) / 64 := Nat.div_le_div_right (by omega)
  simp only [linesOf, pos, if_false, List.mem_map, List.mem_range]
  exact ⟨x / 64 - a / 64, by omega, by omega⟩

/-- The poisoned lines that a span covers in part. -/
def partLines (s : State) (a n : Nat) : List Nat :=
  (linesOf a n).filter fun l => s.integ.poison.contains l && !(wholeLines a n).contains l

theorem div_mem_partLines (s : State) {a n x : Nat} (h1 : a ≤ x) (h2 : x < a + n) :
    (partLines s a n).contains (x / 64) = true ↔ x / 64 ∈ s.integ.poison ∧ x / 64 ∉ wholeLines a n := by
  simp [partLines, div_mem_linesOf h1 h2]

/-- The poisoned lines of a write counted where it covers them in part, cleared where it covers them whole. -/
def poisonSettled (s : State) (a n : Nat) : State :=
  let s := cadd s Fld.MEM_POISONW_COUNT (partLines s a n).length
  { s with integ := { s.integ with poison := s.integ.poison.filter fun l => !(wholeLines a n).contains l } }

theorem writeLines_eq (s : State) (a : Nat) (bs : List Nat) : writeLines s a bs =
    wrBytesBut (fun x => (partLines s a bs.length).contains (x / 64)) (poisonSettled s a bs.length) a bs := by
  rw [← Nat.add_zero a, ← foldl_wr8_eq, ← List.range_eq_range']
  rfl

/-! ### Memory as a master sees it (R22, R23, R598) -/

section
variable {s : State} {a : Nat}

/-- A write of memory that lies below the register space, where memory exists. -/
theorem plainWrite_mem (mid : Nat) {bs : List Nat} (hm : memExists s a bs.length = true) (hr : a + bs.length < regBase) :
    plainWrite s mid a bs = respond (if s.integ.poison.isEmpty then wrBytes s a bs else writeLines s a bs) {} := by
  have low : ¬ (regBase ≤ a ∧ a < regBase + 0x10000000) := by omega
  simp only [plainWrite, low, if_false, physWrite, hm, Bool.not_true, Bool.false_eq_true]
  split <;> simp only [onOk_true]

/-- Without a poisoned line, a write stores its bytes and nothing else. -/
theorem write_clean (mid : Nat) {bs : List Byte} (hi : s.Inv) (hm : memExists s a bs.length = true) (hr : a + bs.length < regBase)
    (hp : s.integ.poison = []) :
    ∃ t, plainWrite s mid a (octets bs) = t ∧ t = { s with mem := t.mem, reg := { s.reg with resp := {} } } ∧
      ∀ x, Memory.read t.mem x = if a ≤ x ∧ x < a + bs.length then bs.getD (x - a) 0 else Memory.read s.mem x := by
  have e : plainWrite s mid a (octets bs) = respond (wrBytesBut (fun _ => false) s a (octets bs)) {} := by
    rw [plainWrite_mem mid (by rw [octets_length]; exact hm) (by rw [octets_length]; exact hr), hp, wrBytesBut_none]
    rfl
  refine ⟨_, e, ?_, fun x => ?_⟩
  · rw [wrBytesBut_eq]
    rfl
  · rw [respond_mem, read_wrBytesBut _ _ _ _ hi, ofNat_getD_octets, octets_length]
    simp only [and_true]

/-- With a poisoned line, a write clears the lines that it covers whole and leaves, and counts, those that it covers in part. -/
theorem write_poisoned (mid : Nat) {bs : List Byte} (hi : s.Inv) (hm : memExists s a bs.length = true) (hr : a + bs.length < regBase)
    (hp : s.integ.poison ≠ []) :
    ∃ t, plainWrite s mid a (octets bs) = respond t {} ∧
      t.integ.poison = s.integ.poison.filter (fun l => !(wholeLines a bs.length).contains l) ∧
      (∀ x, Memory.read t.mem x = if a ≤ x ∧ x < a + bs.length ∧ ¬ (x / 64 ∈ s.integ.poison ∧ x / 64 ∉ wholeLines a bs.length)
        then bs.getD (x - a) 0 else Memory.read s.mem x) ∧
      t.reg = (cadd s Fld.MEM_POISONW_COUNT (partLines s a bs.length).length).reg := by
  have e : plainWrite s mid a (octets bs) = respond (writeLines s a (octets bs)) {} := by
    rw [plainWrite_mem mid (by rw [octets_length]; exact hm) (by rw [octets_length]; exact hr), if_neg (by simpa using hp)]
  refine ⟨_, e, ?_, fun x => ?_, ?_⟩
  · rw [writeLines_eq, wrBytesBut_eq, octets_length]
    rfl
  · have settled : (poisonSettled s a bs.length).mem = s.mem := rfl
    have settledInv : (poisonSettled s a bs.length).Inv := hi
    have stored : ((a ≤ x ∧ x < a + bs.length) ∧ (partLines s a bs.length).contains (x / 64) = false) ↔
        a ≤ x ∧ x < a + bs.length ∧ ¬ (x / 64 ∈ s.integ.poison ∧ x / 64 ∉ wholeLines a bs.length) := by
      refine and_assoc.trans (and_congr_right fun h1 => and_congr_right fun h2 => ?_)
      rw [← div_mem_partLines s h1 h2, Bool.not_eq_true]
    rw [writeLines_eq, octets_length, read_wrBytesBut _ _ _ _ settledInv, ofNat_getD_octets, octets_length, settled]
    simp only [stored]
  · rw [writeLines_eq, wrBytesBut_eq, octets_length]
    rfl

end

/-! ### Lines decoded before a read (R595–R598) -/

/-- Memory and the extent of the DRAM are the same. -/
structure SameMemory (s t : State) : Prop where
  mem : t.mem = s.mem
  gib : t.integ.gib = s.integ.gib

namespace SameMemory

theorem refl (s : State) : SameMemory s s := ⟨rfl, rfl⟩

theorem trans {s t u : State} (h : SameMemory s t) (k : SameMemory t u) : SameMemory s u := ⟨k.mem.trans h.mem, k.gib.trans h.gib⟩

theorem foldl {α : Type} {f : State → α → State} (hf : ∀ u x, SameMemory u (f u x)) (l : List α) (s : State) : SameMemory s (l.foldl f s) := by
  induction l generalizing s with
  | nil => exact refl s
  | cons x l ih => exact (hf s x).trans (ih (f s x))

/-- A state that differs in what the Integrity block holds, but for the extent of the DRAM. -/
theorem integ (s : State) (i : Integ) (h : i.gib = s.integ.gib) : SameMemory s { s with integ := i } := ⟨rfl, h⟩

theorem raiseFault (s : State) (c : Nat) (args : List Nat) : SameMemory s (raiseFault s c args) :=
  ⟨(reports_fault s c args).mem, congrArg Integ.gib (reports_fault s c args).integ⟩

theorem rdBytes {s t : State} (h : SameMemory s t) (a n : Nat) : rdBytes t a n = rdBytes s a n := by
  induction n generalizing a with
  | zero => rfl
  | succ n ih => simp only [Machine.rdBytes, rd8, h.mem, ih]

theorem memExists {s t : State} (h : SameMemory s t) (a n : Nat) : memExists t a n = memExists s a n := by
  simp only [Machine.memExists, h.gib]

end SameMemory

theorem sameMemory_implicate (s : State) (j line mid d : Nat) : SameMemory s (implicate s j line mid d) := by
  unfold implicate
  dsimp only
  split
  · refine .trans ?_ (.raiseFault _ _ _)
    exact ⟨rfl, rfl⟩
  · exact ⟨rfl, rfl⟩

theorem sameMemory_countCodeword (s : State) (j line mid : Nat) (ds : List Nat) : SameMemory s (countCodeword s j line mid ds) :=
  .trans (.trans (t := cinc s Fld.MEM_CE_COUNT) ⟨rfl, rfl⟩ (.raiseFault _ _ _)) (.foldl (fun u d => sameMemory_implicate u j line mid d) ds _)

theorem sameMemory_poisonLine (s : State) (line : Nat) : SameMemory s (poisonLine s line) := by
  unfold poisonLine
  split
  · exact .refl s
  · exact .integ s _ rfl

theorem sameMemory_readLine (s : State) (j line mid : Nat) (scrub : Bool) (errs : List (List Nat)) : SameMemory s (readLine s j line mid scrub errs) := by
  unfold readLine
  split
  · exact .refl s
  · exact .foldl (fun u ds => sameMemory_countCodeword u j line mid ds) _ s
  · dsimp only
    refine .trans (.trans ?_ (sameMemory_poisonLine _ line)) (.raiseFault _ _ _)
    split <;> exact ⟨rfl, rfl⟩

theorem sameMemory_decodeLines (s : State) (mid a : Nat) (bad : List BadLine) : SameMemory s (decodeLines s mid a bad) :=
  .foldl (fun _ _ => sameMemory_readLine _ _ _ _ _ _) bad s

/-! ### Reads and fetches of memory and of no target (R22, R23, R597, R598) -/

theorem physRead_clean {t : State} {a n : Nat} (mid : Nat) (hm : memExists t a n = true) (hp : poisonedIn t a n = none) :
    physRead t mid a n = (t, some (rdBytes t a n)) := by
  simp only [physRead, hm, hp, Bool.not_true, Bool.false_eq_true, if_false]

theorem physRead_poisoned {t : State} {a n l : Nat} (mid : Nat) (hm : memExists t a n = true) (hp : poisonedIn t a n = some l) :
    physRead t mid a n = (noteUE t l mid false, none) := by
  simp only [physRead, hm, hp, Bool.not_true, Bool.false_eq_true, if_false]

theorem physRead_undecoded {t : State} {a n : Nat} (mid : Nat) (hm : memExists t a n = false) : physRead t mid a n = (decErr t mid, none) := by
  simp only [physRead, hm, Bool.not_false, if_true]

/-- The state in which a read of memory finds its lines: those of DRAM that the operand gives wrong symbols are decoded. -/
def readState (s : State) (mid a n : Nat) (bad : List BadLine) : State :=
  if a < sramBase then decodeLines s mid a (bad.filter fun b => decide (a / 64 + b.line ≤ (a + n - 1) / 64)) else s

theorem sameMemory_readState (s : State) (mid a n : Nat) (bad : List BadLine) : SameMemory s (readState s mid a n bad) := by
  unfold readState
  split
  · exact sameMemory_decodeLines s mid a _
  · exact .refl s

/-- A read or fetch of memory that lies below the register space, where memory exists. -/
theorem plainRead_mem {s : State} {a n : Nat} (mid : Nat) (fetch : Bool) (bad : List BadLine) (hm : memExists s a n = true) (hr : a + n < regBase) :
    plainRead s mid a n fetch bad = onOpt (physRead (readState s mid a n bad) mid a n) (fun s => errorResp s) fun s bs =>
      respond s { data := respWords bs } := by
  have reg : ¬ (regBase ≤ a ∧ a < regBase + 0x10000000) := by omega
  have rom : ¬ (romBase ≤ a ∧ a + n ≤ romBase + 0x40000 ∧ (midClass mid = 0 ∨ midClass mid = 4)) := by
    have : regBase ≤ romBase := by decide
    omega
  simp only [plainRead, reg, rom, if_false, hm, true_and, readState]

theorem read_clean {s : State} {a n : Nat} (mid : Nat) (fetch : Bool) (bad : List BadLine) (hm : memExists s a n = true) (hr : a + n < regBase)
    (hp : poisonedIn (readState s mid a n bad) a n = none) :
    plainRead s mid a n fetch bad = respond (readState s mid a n bad) { data := respWords (rdBytes s a n) } := by
  have same := sameMemory_readState s mid a n bad
  rw [plainRead_mem mid fetch bad hm hr, physRead_clean mid ((same.memExists a n).trans hm) hp, onOpt_some, same.rdBytes]

theorem read_poisoned {s : State} {a n l : Nat} (mid : Nat) (fetch : Bool) (bad : List BadLine) (hm : memExists s a n = true) (hr : a + n < regBase)
    (hp : poisonedIn (readState s mid a n bad) a n = some l) :
    plainRead s mid a n fetch bad = errorResp (noteUE (readState s mid a n bad) l mid false) := by
  have same := sameMemory_readState s mid a n bad
  rw [plainRead_mem mid fetch bad hm hr, physRead_poisoned mid ((same.memExists a n).trans hm) hp, onOpt_none]

theorem plainRead_undecoded {s : State} {a n : Nat} (mid : Nat) (fetch : Bool) (bad : List BadLine) (hm : memExists s a n = false)
    (hreg : ¬ (regBase ≤ a ∧ a < regBase + 0x10000000)) (hrom : ¬ (romBase ≤ a ∧ a + n ≤ romBase + 0x40000)) :
    plainRead s mid a n fetch bad = errorResp (decErr s mid) := by
  have rom : ¬ (romBase ≤ a ∧ a + n ≤ romBase + 0x40000 ∧ (midClass mid = 0 ∨ midClass mid = 4)) := fun h => hrom ⟨h.1, h.2.1⟩
  simp only [plainRead, hreg, rom, if_false, hm, Bool.false_eq_true, false_and, physRead_undecoded mid hm, onOpt_none]

theorem plainWrite_undecoded {s : State} {a : Nat} {bs : List Nat} (mid : Nat) (hm : memExists s a bs.length = false)
    (hreg : ¬ (regBase ≤ a ∧ a < regBase + 0x10000000)) : plainWrite s mid a bs = errorResp (decErr s mid) := by
  simp only [plainWrite, hreg, if_false, physWrite, hm, Bool.not_false, if_true, onOk_false]

/-- What nothing decodes is refused, whatever the operation. -/
theorem meshAccess_undecoded {s : State} {mid a : Nat} {op : MeshOp} (bad : List BadLine) (hc : midClass mid ≠ 2)
    (hm : memExists s a (opLen op) = false) (hreg : ¬ (regBase ≤ a ∧ a < regBase + 0x10000000))
    (hrom : ¬ (romBase ≤ a ∧ a + opLen op ≤ romBase + 0x40000)) : meshAccess s mid a op bad = errorResp (decErr s mid) := by
  cases op with
  | read n => rw [meshAccess_read hc]; exact plainRead_undecoded mid false bad hm hreg hrom
  | fetch n => rw [meshAccess_fetch hc]; exact plainRead_undecoded mid true bad hm hreg hrom
  | write bs => rw [meshAccess_write hc]; exact plainWrite_undecoded mid (by rw [octets_length]; exact hm) hreg

/-! ### The boot ROM (R22; log 70) -/

theorem plainRead_rom {s : State} {mid a n : Nat} (fetch : Bool) (bad : List BadLine) (h1 : romBase ≤ a) (h2 : a + n ≤ romBase + 0x40000)
    (hc : midClass mid = 0 ∨ midClass mid = 4) :
    plainRead s mid a n fetch bad = respond (drew s) { data := leWords ((n + 3) / 4) (drawn (8 * n) s) } := by
  have reg : ¬ (regBase ≤ a ∧ a < regBase + 0x10000000) := by
    have : regBase + 0x10000000 ≤ romBase := by decide
    omega
  simp only [plainRead, reg, if_false, h1, h2, hc, and_self, if_true]

/-! ### The register space (R26, R33, R46) -/

section
variable {s : State} {mid off : Nat} (ho : off < 0x10000000)
include ho

theorem plainRead_reg (n : Nat) (bad : List BadLine) : plainRead s mid (regBase + off) n false bad = regRead32s s mid off n := by
  have h : regBase ≤ regBase + off ∧ regBase + off < regBase + 0x10000000 := by omega
  simp only [plainRead, h, and_self, if_true, Bool.false_eq_true, if_false, Nat.add_sub_cancel_left]

theorem plainRead_regFetch (n : Nat) (bad : List BadLine) : plainRead s mid (regBase + off) n true bad = errorResp (decErr s mid) := by
  have h : regBase ≤ regBase + off ∧ regBase + off < regBase + 0x10000000 := by omega
  simp only [plainRead, h, and_self, if_true, refuse]

theorem plainWrite_reg (bs : List Nat) : plainWrite s mid (regBase + off) bs = regWrites s mid off bs := by
  have h : regBase ≤ regBase + off ∧ regBase + off < regBase + 0x10000000 := by omega
  simp only [plainWrite, h, and_self, if_true, Nat.add_sub_cancel_left]

/-- Another width, or an access that is not aligned, is refused. -/
theorem meshAccess_width (bad : List BadLine) (hc : midClass mid ≠ 2) (hp : pageAtOff off ≠ none) {op : MeshOp}
    (hw : ¬ ((opLen op = 4 ∨ opLen op = 8) ∧ off % opLen op = 0)) :
    meshAccess s mid (regBase + off) op bad = errorResp (decErr s mid) := by
  have page : (pageAtOff off).isNone = false := Option.isNone_eq_false_iff.2 (Option.isSome_iff_ne_none.2 hp)
  have width : (!(opLen op == 4 || opLen op == 8) || off % opLen op != 0) = true := by
    by_cases legal : opLen op = 4 ∨ opLen op = 8
    · have odd : off % opLen op ≠ 0 := fun aligned => hw ⟨legal, aligned⟩
      rw [bne_iff_ne.2 odd, Bool.or_true]
    · obtain ⟨no4, no8⟩ := not_or.1 legal
      rw [beq_eq_false_iff_ne.2 no4, beq_eq_false_iff_ne.2 no8]
      rfl
  cases op with
  | read n =>
    rw [meshAccess_read hc, plainRead_reg ho]
    exact (if_neg (by rw [page]; exact Bool.false_ne_true)).trans (if_pos width)
  | fetch n => rw [meshAccess_fetch hc, plainRead_regFetch ho]
  | write bs =>
    have len : opLen (.write bs) = (octets bs).length := (octets_length bs).symm
    rw [len] at width
    rw [meshAccess_write hc, plainWrite_reg ho]
    exact (if_neg (by rw [page]; exact Bool.false_ne_true)).trans (if_pos width)

end

/-- A read acts at two registers only; any other word reads as its registers show. -/
theorem busRead_plain {s : State} {mid off : Nat} (hp : pageAtOff off ≠ none)
    (hn : ∀ l, regAt off = some l → l.desc.name ∉ [Reg.bnd .BND_TAKE, .cyc .CYC_PR_NEXT]) :
    busRead s mid off = (drew s, some (peek s mid off)) := by
  obtain ⟨p, hp⟩ := Option.ne_none_iff_exists'.1 hp
  have at_ : regAt off = regIn p (off % 0x1000) := by simp only [regAt, hp]
  unfold busRead
  simp only [hp]
  split
  · rfl
  · next l hl =>
    have name := hn l (at_.trans hl)
    split
    · rfl
    · split
      · next e => simp [e] at name
      · next e => simp [e] at name
      · rfl

theorem regRead32s_nowhere {s : State} {mid off : Nat} (n : Nat) (hp : pageAtOff off = none) :
    regRead32s s mid off n = respond (decErr s mid) { data := leWords ((n + 3) / 4) 0 } := by
  simp only [regRead32s, hp, Option.isNone_none, if_true]

theorem regWrites_nowhere {s : State} {mid off : Nat} (bs : List Nat) (hp : pageAtOff off = none) :
    regWrites s mid off bs = respond (decErr s mid) {} := by
  simp only [regWrites, hp, Option.isNone_none, if_true]

theorem regRead32s_word {s : State} {mid off : Nat} (hp : pageAtOff off ≠ none) (h4 : off % 4 = 0)
    (hn : ∀ l, regAt off = some l → l.desc.name ∉ [Reg.bnd .BND_TAKE, .cyc .CYC_PR_NEXT]) :
    regRead32s s mid off 4 = respond (drew s) { data := [w32 (peek s mid off)] } := by
  have page : (pageAtOff off).isNone = false := Option.isNone_eq_false_iff.2 (Option.isSome_iff_ne_none.2 hp)
  simp only [regRead32s, page, Bool.false_eq_true, ↓reduceIte, BEq.rfl, Nat.reduceBEq, Bool.or_false, Bool.not_true, h4, bne_self_eq_false,
    Bool.or_self, busRead_plain hp hn, onOpt_some]

theorem regRead32s_pair {s : State} {mid off : Nat} (hp : pageAtOff off ≠ none) (h8 : off % 8 = 0)
    (hn : ∀ l, regAt off = some l → l.desc.name ∉ [Reg.bnd .BND_TAKE, .cyc .CYC_PR_NEXT])
    (hn' : ∀ l, regAt (off + 4) = some l → l.desc.name ∉ [Reg.bnd .BND_TAKE, .cyc .CYC_PR_NEXT]) :
    regRead32s s mid off 8 = respond (drew (drew s)) { data := [w32 (peek s mid off), w32 (peek (drew s) mid (off + 4))] } := by
  have page : (pageAtOff off).isNone = false := Option.isNone_eq_false_iff.2 (Option.isSome_iff_ne_none.2 hp)
  have same : pageAtOff (off + 4) = pageAtOff off := by
    have b : pageBase off % 0x1000 = 0 := Nat.mul_mod_left _ _
    have e : off = pageBase off + off % 0x1000 := (Nat.div_add_mod' off 0x1000).symm
    have e' : off + 4 = pageBase off + (off % 0x1000 + 4) := by omega
    rw [e', pageAtOff_word _ _ b (by omega), ← pageAtOff_word _ (off % 0x1000) b (by omega), ← e]
  have second : busRead (drew s) mid (off + 4) = (drew (drew s), some (peek (drew s) mid (off + 4))) :=
    busRead_plain (fun h => hp (same.symm.trans h)) hn'
  simp only [regRead32s, page, Bool.false_eq_true, ↓reduceIte, Nat.reduceBEq, BEq.rfl, Bool.or_true, Bool.not_true, h8, bne_self_eq_false,
    Bool.or_self, busRead_plain hp hn, Nat.reduceEqDiff, onOpt_some, second]

/-- The value of a field as a read shows it, by its access code (R46, R51, R52). -/
def shownBy (s : State) (off : Nat) (l : RegLoc) (f : FieldDesc) : Nat :=
  match f.acc with
  | .rw | .wbf => fget s (refOf l f)
  | .ctr => (ctrMoves s (refOf l f)).1 - (ctrMoves s (refOf l f)).2.2
  | .ro => bits (hwWord l.desc.name l.page.j l.i s) f.hi f.lo
  | .rsh => bits (shadowRead s off (f.reset * 2 ^ f.lo)) f.hi f.lo
  | .wsc => bits (wscRead s off) f.hi f.lo
  | .mbx | .zero => 0

/-- The offset of an aligned word of a register is the register's own. -/
theorem regAt_addr {off : Nat} {l : RegLoc} (hl : regAt off = some l) (h4 : off % 4 = 0) (hm : l.desc.mbx = false) : l.addr = off := by
  obtain ⟨_, _, base, _, _, place, sub⟩ := regAt_spec off l hl
  obtain ⟨_, aligned, stride, _⟩ := row_facts off l hl
  have page : l.page.base % 4 = 0 := by
    rw [base, pageBase]
    omega
  have copies : (l.i * l.desc.stride) % 4 = 0 := by rw [Nat.mul_mod, stride, Nat.mul_zero, Nat.zero_mod]
  have word : l.addr % 4 = 0 := by
    rw [RegLoc.addr]
    omega
  simp only [hm, Bool.false_eq_true, if_false] at sub
  omega

theorem fieldRead_active {s : State} {l : RegLoc} {f : FieldDesc} (priv : Bool) (hf : f.prv = false) :
    fieldRead s l f false priv = shownBy s l.addr l f := by
  unfold fieldRead shownBy
  rw [hf, Bool.false_and, if_neg Bool.false_ne_true]
  cases f.acc <;> rfl

/-- A register of one field, as a master that may read it sees it with VIEW = 0. -/
theorem peek_field {s : State} {mid off : Nat} {l : RegLoc} {f : FieldDesc} (hl : regAt off = some l) (h4 : off % 4 = 0)
    (ho : 0x40 ≤ off % 0x1000) (hm : l.desc.mbx = false) (hf : l.desc.fields = [f]) (hprv : f.prv = false)
    (ha : allows .all l.page mid = true) (hr : allows l.desc.priv l.page mid = true) (hp : regPresent l = true)
    (hv : fget s (hView l.page.base) = 0) : peek s mid off = kpRead s off (kpMask [f]) + 2 ^ f.lo * shownBy s off l f := by
  have page := (regAt_spec off l hl).1
  have reg : regIn l.page (off % 0x1000) = some l := by simpa only [regAt, page] using hl
  have addr := regAt_addr hl h4 hm
  have active : fbit s (hView l.page.base) = false := by rw [fbit, hv]; rfl
  have shown := fieldRead_active (s := s) (l := l) (isPriv mid) hprv
  simp only [peek, page, ha, Nat.not_lt.2 ho, reg, regRead, hr, hp, hm, hf, active, shown, addr, Bool.not_true, Bool.or_self,
    Bool.false_eq_true, if_false, List.map_cons, List.map_nil, List.sum_cons, List.sum_nil, Nat.add_zero]
  rw [Nat.add_comm, Nat.mul_comm]

/-- A write of a word of the register space is the register command of its word. -/
theorem meshAccess_registerWrite {s : State} {mid : Nat} (r v : Nat) (bad : List BadLine) :
    meshAccess s mid (regBase + 4 * r) (.write ((leBytes 4 v).map (BitVec.ofNat 8))) bad = meshWrite s mid (4 * r) v := rfl

/-! ### The statements -/

/-- Settles O2: after reset no cell of memory is listed. -/
theorem resetInvariant : Obligations.ResetInvariant := rfl

/-- Settles O5: a command at the front keeps memory canonical, and so does the nanosecond that passes on an empty queue. -/
theorem memoryStaysCanonical : Obligations.MemoryStaysCanonical := by
  intro s t inv h
  cases hp : s.pending with
  | nil => exact (keeps_step_nil s t hp h).mem inv
  | cons i rest => exact (keeps_step_cons i rest s t hp h).mem inv

/-- Settles O18: the check of a guest transaction stops at the fence, then at the windows and the page. -/
theorem guestConfinement : Obligations.GuestConfinement := by
  intro s mid addr op bad hr hc hi
  rw [exec_meshTransaction s mid addr op bad hr]
  refine ⟨fun hf => ?_, fun hf hw ho => ?_⟩
  · rw [meshAccess_stopped bad hc (guestCheck_fenced addr.toNat (opLen op) (opPerm op) hi hf)]
  · rw [meshAccess_stopped bad hc (guestCheck_outside hi hf hw ho)]

/-- Settles O17: a transaction by where its address lies, in memory, nowhere, in the register space or in the boot ROM. -/
theorem memoryTransactions : Obligations.MemoryTransactions := by
  intro s mid addr bad hr hc inv
  simp only [exec_meshTransaction s mid addr _ bad hr]
  refine ⟨fun bs hm hlow hp => ?_, fun bs hm hlow hp => ?_, ?_, fun op hm hreg hrom => ?_, ?_, ?_⟩
  · obtain ⟨t, ht, h⟩ := write_clean mid.toNat inv hm hlow hp
    exact ⟨t, by rw [meshAccess_write hc, ht], h⟩
  · obtain ⟨t, ht, h⟩ := write_poisoned mid.toNat inv hm hlow hp
    exact ⟨t, by rw [meshAccess_write hc, ht], h⟩
  · rintro n hm hlow op hop t rfl
    obtain ⟨fetch, e⟩ := meshAccess_reads hc addr.toNat n bad hop
    rw [e]
    exact ⟨fun hp => congrArg _ (read_clean mid.toNat fetch bad hm hlow hp), fun l hp => congrArg _ (read_poisoned mid.toNat fetch bad hm hlow hp)⟩
  · rw [meshAccess_undecoded bad hc hm hreg hrom]
  · intro off ha ho
    rw [ha]
    refine ⟨fun n => ?_, fun hp => ⟨fun n => ?_, fun bs => ?_⟩, fun hp op hw => ?_, fun hp h4 hn => ⟨?_, fun h8 hn' => ?_⟩, ?_, fun r v e => ?_⟩
    · rw [meshAccess_fetch hc, plainRead_regFetch ho]
    · rw [meshAccess_read hc, plainRead_reg ho, regRead32s_nowhere n hp]
    · rw [meshAccess_write hc, plainWrite_reg ho, regWrites_nowhere _ hp]
    · rw [meshAccess_width ho bad hc hp hw]
    · rw [meshAccess_read hc, plainRead_reg ho, regRead32s_word hp h4 hn]
    · rw [meshAccess_read hc, plainRead_reg ho, regRead32s_pair hp h8 hn hn']
    · intro l f hl h4 h40 hm hf hprv hall hpriv hpres hview
      exact peek_field hl h4 h40 hm hf hprv hall hpriv hpres hview
    · rw [exec_registerWrite s mid r v hr, e, meshAccess_registerWrite]
  · intro n h1 h2 hrom op hop
    obtain ⟨fetch, e⟩ := meshAccess_reads hc addr.toNat n bad hop
    rw [e, plainRead_rom fetch bad h1 h2 hrom]

end Sys2Proof.Machine
end

section
/-! Proofs of the family 03_clocks_resets_crossings.md: resets of RD_SYS and of the domains beside it, supplies, the event and DOUT channels, and the
Orangery behind its crossing group. -/

namespace Sys2Proof.Machine

/-! ### Commands of RD_SYS (R98, log 71) -/

/-- While RD_SYS is in reset, a command that acts in it changes nothing. -/
theorem act_held {s : State} (h : s.cru.inReset = true) (f : State → State) : act s f = .next s := by
  simp only [act, h, if_true]

/-- Out of reset, a command acts. -/
theorem act_up {s : State} (h : s.cru.inReset = false) (f : State → State) : act s f = .next (f s) := by
  simp only [act, h, Bool.false_eq_true, if_false]

/-- Settles O8: each of the commands acts in RD_SYS only, and does nothing while that is in reset (the model's choice, log 71). -/
theorem heldInReset : Obligations.HeldInReset := by
  intro s mid off page arg v addr op bad d h c hc
  simp only [List.mem_cons, List.not_mem_nil, or_false] at hc
  rcases hc with rfl | rfl | rfl | rfl | rfl | rfl | rfl | rfl | rfl <;> apply act_held h

/-! ### Resets of RD_SYS (R99, R100, R105) -/

/-- A birth that is cut short programs a bank only, and no reset asks what the banks held. -/
theorem resetOf_birthCut {s t : State} {c : RstCause} (h : resetOf (birthCut s) t c) : resetOf s t c := by
  unfold birthCut setBank at h
  split at h
  · split at h
    · exact h
    · split at h <;> exact h
  · exact h

/-- The expiry of the system watchdog resets RD_SYS, whatever its report changed (R113, R608). -/
theorem wdtReset_resetOf {s : State} (h : s.cru.inReset = false) : resetOf s (wdtReset s) .wdt := by
  have report := reports_fault s 16 []
  exact resetOf_report report (systemReset_resetOf _ .wdt (by rw [report.cru, h]))

theorem birthCut_cru (s : State) : (birthCut s).cru = s.cru := by
  unfold birthCut
  split
  · split <;> rfl
  · rfl

/-- A loss of PWR_GOOD resets RD_SYS with cause POR, the pin low. -/
theorem powerFall_resetOf {s : State} (h : s.cru.inReset = false) : (powerFall s).cru.pwrGood = false ∧ resetOf s (powerFall s) .por := by
  have up : (birthCut { s with cru := { s.cru with pwrGood := false } }).cru.inReset = false := by rw [birthCut_cru]; exact h
  refine ⟨?_, resetOf_birthCut (s := { s with cru := { s.cru with pwrGood := false } }) (systemReset_resetOf _ .por up)⟩
  rw [powerFall, systemReset_cru _ _ up, birthCut_cru]

/-- Settles O20: each source begins the reset of RD_SYS with its own cause. That memory, the flashes and the pins keep theirs is the model's
choice (log 54). -/
theorem systemResets : Obligations.SystemResets := by
  intro s up
  refine ⟨⟨_, rfl, powerFall_resetOf up⟩, ⟨_, rfl, ?_, systemReset_resetOf _ .pin up⟩, fun c hc due => ⟨_, rfl, ?_⟩, fun unlocked => ⟨_, rfl, ?_⟩,
    fun en due => ⟨_, rfl, ?_⟩⟩
  · rw [porstLow, systemReset_cru]
    exact up
  · simp only [resetStart, hc, Nat.not_lt.2 due, if_false]
    exact systemReset_resetOf s .sw up
  · simp only [debugReset, unlocked, up, Bool.not_false, Bool.and_self, if_true]
    exact systemReset_resetOf s .dbg up
  · simp only [sysWdtExpire, sysWdtDue, up, en, due, decide_true, Bool.not_false, Bool.and_self, if_true]
    exact wdtReset_resetOf up

/-! ### The command registers of the CRU page (R46, R112, R113) -/

/-- At `o` stands the register `r` of the CRU page, with the fields `fs`. -/
def CruRegAt (o : Nat) (r : CruReg) (fs : List FieldDesc) : Prop :=
  ∃ l, regAt o = some l ∧ l.desc.name = .cru r ∧ l.desc.mbx = false ∧ l.addr = o ∧ l.desc.fields = fs

theorem cruRegAt_rstCmd : CruRegAt 0x100050 .CRU_RST_CMD [⟨31, 16, .wsc, false, 0, 0, 65535, .none⟩, ⟨0, 0, .wsc, false, 0, 0, 1, .none⟩] :=
  ⟨_, rfl, rfl, rfl, rfl, rfl⟩

theorem cruRegAt_wdtKick : CruRegAt 0x100060 .CRU_WDT_KICK [⟨0, 0, .wsc, false, 0, 0, 1, .none⟩] := ⟨_, rfl, rfl, rfl, rfl, rfl⟩

/-- A write that sets bits of a command register of the CRU page notes them and starts what they command. -/
theorem meshWrite_cruCommand {o : Nat} {r : CruReg} {fs : List FieldDesc} (hr : CruRegAt o r fs) (h4 : o % 4 = 0) (hlt : o < 0x10000000)
    (hf : ∀ f ∈ fs, f.acc = .wsc ∧ f.prv = false ∧ f.dep = .none) (hne : fs ≠ []) {s : State} {mid v x : Nat} (hm : mayWrite s mid o = true)
    (hv : v < 2 ^ 32) (hx : (fs.map fun f => bits v f.hi f.lo * 2 ^ f.lo).sum = x) (h0 : x ≠ 0) :
    meshWrite s mid o v = respond (cruWsc r x (wscNote s o x)) {} := by
  obtain ⟨l, hl, name, mbx, addr, rfl⟩ := hr
  obtain ⟨listed, sum⟩ := wsc_fields l mid v x hf hx hne
  rw [meshWrite_command s mid o v l hl hm h4 hlt mbx (by simp [name]) (fun f h => by simp [(hf f h).1]), Nat.mod_eq_of_lt hv]
  simp only [commandWrite, listed, sum, h0, name, addr, Bool.false_eq_true, if_false]

theorem meshWrite_rstCmd {s : State} {mid : Nat} {key : BitVec 16} (hm : mayWrite s mid 0x100050 = true) :
    meshWrite s mid 0x100050 (key.toNat * 2 ^ 16 + 1) =
      respond (cruWsc .CRU_RST_CMD (key.toNat * 2 ^ 16 + 1) (wscNote s 0x100050 (key.toNat * 2 ^ 16 + 1))) {} := by
  have range := key.isLt
  refine meshWrite_cruCommand cruRegAt_rstCmd (by decide) (by decide) (by simp) (by simp) hm (by omega) ?_ (by omega)
  simp only [bits, List.map_cons, List.map_nil, List.sum_cons, List.sum_nil]
  omega

theorem meshWrite_wdtKick {s : State} {mid : Nat} (hm : mayWrite s mid 0x100060 = true) :
    meshWrite s mid 0x100060 1 = respond (cruWsc .CRU_WDT_KICK 1 (wscNote s 0x100060 1)) {} :=
  meshWrite_cruCommand cruRegAt_wdtKick (by decide) (by decide) (by simp) (by simp) hm (by decide) (by decide) (by decide)

/-- SYSRST schedules a reset with the right KEY, where none is scheduled; with another KEY it is ignored and counted (R112). -/
theorem cruWsc_rstCmd {s : State} (key : BitVec 16) (h : s.cru.sysRst = none) : cruWsc .CRU_RST_CMD (key.toNat * 2 ^ 16 + 1) s =
    if key = 0x5A17 then { s with cru := { s.cru with sysRst := some (s.sdl.fab + 32) } } else wign s 0x100000 := by
  have range := key.isLt
  have sysrst : bit (key.toNat * 2 ^ 16 + 1) 0 = true := by
    simp only [bit, beq_iff_eq]
    omega
  have field : (key.toNat * 2 ^ 16 + 1) / 2 ^ 16 % 2 ^ 16 = key.toNat := by omega
  have same : key.toNat = 0x5A17 ↔ key = 0x5A17 := by rw [← BitVec.toNat_inj]; rfl
  simp only [cruWsc, sysrst, field, h, ne_eq, ite_not, same, Bool.not_true, Bool.false_eq_true, if_false, Option.isSome_none]

/-! ### The release of RD_SYS (R557, R626) -/

/-- A root taken from a bank, or found bad and recorded, touches the Gatehouse and its record only. -/
theorem rootFrom_reports (s : State) (r : Nat) (ok : Bool) : ∃ g, Reports { s with gth := g } (rootFrom s r ok) := by
  cases ok with
  | true => exact ⟨_, .refl _⟩
  | false => exact ⟨_, (records_record _ 0x0402 gthMid [2]).reports⟩

theorem rootChoose_reports (s : State) : ∃ g, Reports { s with gth := g } (rootChoose s) := by
  unfold rootChoose
  dsimp only
  split
  · exact ⟨_, .refl _⟩
  · split
    · exact rootFrom_reports s _ _
    · exact ⟨_, .refl _⟩
    · exact rootFrom_reports s _ _
    · exact ⟨_, .refl _⟩
    · exact ⟨_, .refl _⟩

/-- The release of RD_SYS: the causes of the reset are latched, and PCYC counts where PWR_GOOD rose (R105, R626, R634). -/
theorem resetRelease_spec {s : State} (h : s.cru.inReset = true) (free : resetHeld s = false) (due : 1000000 ≤ s.cru.startNs) :
    (resetRelease s).cru = { s.cru with
      inReset := false, startNs := 0, cause := s.cru.causeNow, causeNow := 0, powerCycle := false, pll := 0xFC } ∧
    (resetRelease s).sdl = s.sdl ∧ (resetRelease s).grt = if s.cru.powerCycle then { s.grt with pcyc := satAdd 32 s.grt.pcyc 1 } else s.grt := by
  simp only [resetRelease, h, free, Nat.not_lt.2 due, decide_false, Bool.not_true, Bool.or_self, Bool.false_eq_true, if_false]
  obtain ⟨g, root⟩ := rootChoose_reports { s with
    cru := { s.cru with inReset := false, startNs := 0, cause := s.cru.causeNow, causeNow := 0, powerCycle := false, pll := 0xFC }
    grt := if s.cru.powerCycle then { s.grt with pcyc := satAdd 32 s.grt.pcyc 1 } else s.grt
    gth := { s.gth with lcBoot := s.gth.lc } }
  exact ⟨root.cru, root.sdl, root.grt⟩

/-! ### The kick of the system watchdog (R113) -/

theorem wdtKick_late {s : State} (h : sysWdtDue s = true) : wdtKick s s = wdtReset s := by
  simp only [wdtKick, h, if_true]

theorem wdtKick_early {s : State} (h : sysWdtDue s = false) : wdtKick s s = { s with cru := { s.cru with wdtAt := s.sdl.fab } } := by
  simp only [wdtKick, h, Bool.false_eq_true, if_false]

theorem cruWsc_wdtKick (s : State) : cruWsc .CRU_WDT_KICK 1 s = wdtKick s s := rfl

/-- Settles O21: the rises, the release, SYSRST and the kick, each by its own operation. -/
theorem startAndWatchdog : Obligations.StartAndWatchdog := by
  intro s
  refine ⟨fun low => ?_, fun low => ?_, fun held free due => ?_, fun mid key up idle may => ?_, fun mid up may => ⟨fun early => ?_, fun late => ?_⟩⟩
  · have e : exec .powerGoodRise s = .next (powerRise s) := rfl
    rw [e, powerRise, if_neg (by simp [low])]
  · have e : exec .porstNRise s = .next (porstRise s) := rfl
    rw [e, porstRise, if_neg (by simp [low])]
  · obtain ⟨cru, sdl, grt⟩ := resetRelease_spec held free due
    exact ⟨_, rfl, by rw [cru], by rw [cru], by rw [cru], sdl, grt⟩
  · have e : exec (.cruSysrst mid key) s = act s fun s => meshWrite s mid.toNat 0x100050 (key.toNat * 2 ^ 16 + 1) := rfl
    rw [e, act_up up, meshWrite_rstCmd may, cruWsc_rstCmd key (by rw [wscNote_cru]; exact idle)]
    rfl
  · have e : exec (.watchdogKick mid) s = act s fun s => meshWrite s mid.toNat 0x100060 1 := rfl
    rw [e, act_up up, meshWrite_wdtKick may, cruWsc_wdtKick, wdtKick_early]
    · rfl
    · exact early
  · have e : exec (.watchdogKick mid) s = act s fun s => meshWrite s mid.toNat 0x100060 1 := rfl
    rw [e, act_up up, meshWrite_wdtKick may, cruWsc_wdtKick, wdtKick_late (s := wscNote s 0x100060 1) late]
    exact ⟨_, rfl, wdtReset_resetOf (s := wscNote s 0x100060 1) up⟩

/-! ### Requests that a reset ends (R101) -/

/-- Only mailboxes differ. -/
structure EndsRequests (s t : State) : Prop where
  eq : t = { s with reg := { s.reg with mbx := t.reg.mbx } }

namespace EndsRequests

theorem refl (s : State) : EndsRequests s s := ⟨rfl⟩

theorem trans {s t u : State} (h : EndsRequests s t) (k : EndsRequests t u) : EndsRequests s u := by
  obtain ⟨h⟩ := h
  obtain ⟨k⟩ := k
  exact ⟨by rw [k, h]⟩

theorem ended (s : State) (a code : Nat) : EndsRequests s (mbxEndIfBusy s a code) := by
  unfold mbxEndIfBusy
  split
  · exact ⟨rfl⟩
  · exact refl s

theorem all (f : Nat → Nat) (code : Nat) (l : List Nat) (s : State) :
    EndsRequests s (l.foldl (fun s m => mbxEndIfBusy s (f m) code) s) := by
  induction l generalizing s with
  | nil => exact refl s
  | cons m l ih => exact (ended s (f m) code).trans (ih _)

variable {s t : State} (h : EndsRequests s t)
include h

theorem cru : t.cru = s.cru := by rw [h.eq]
theorem grt : t.grt = s.grt := by rw [h.eq]
theorem orn : t.orn = s.orn := by rw [h.eq]
theorem mem : t.mem = s.mem := by rw [h.eq]
theorem fget (f : FieldRef) : fget t f = fget s f := by rw [h.eq]; rfl

end EndsRequests

/-! ### The resets of RD_ORN and RD_GRT (R99–R101, R636) -/

/-- RD_ORN in reset, its crossing group held, the requests of its page not yet ended. -/
def ornStopped (s : State) (cause : Nat) : State :=
  dropShadows (holdGroup (setOrn s { s.orn with
    phase := .starting, cause := cause, change := none, sets := [], next := [], slots := [], openAt := none, nonce := none, pulses := []
    tapErr := 0, tapNext := none, authFail := 0 }) 1 20) fun a => a / 0x1000 == 0xB00

theorem ornReset_ends (s : State) (cause : Nat) : EndsRequests (ornStopped s cause) (ornReset s cause) :=
  .all (0xB00000 + ·) 0xFE [0x80, 0xC0, 0x100] _

theorem holdGroup_notReady (s : State) (g n : Nat) : bit (holdGroup s g n).cru.xcReady g = false := by
  simp only [holdGroup, bit_clrBit, ne_eq, not_true, decide_false, Bool.and_false]

/-- A reset of RD_ORN stops the metering, closes the seal and holds its crossing group, and leaves memory, the Grotto and every field. -/
theorem ornReset_spec (s : State) (cause : Nat) : (ornReset s cause).orn.phase = .starting ∧ (ornReset s cause).orn.cause = cause ∧
    (ornReset s cause).orn.openAt = none ∧ bit (ornReset s cause).cru.xcReady 1 = false ∧ (ornReset s cause).mem = s.mem ∧
    (ornReset s cause).grt = s.grt ∧ ∀ f, fget (ornReset s cause) f = fget s f := by
  have ends := ornReset_ends s cause
  rw [ends.orn, ends.cru, ends.mem, ends.grt]
  exact ⟨rfl, rfl, rfl, holdGroup_notReady _ 1 20, rfl, rfl, ends.fget⟩

/-- The crossing group GRT held, its requests not yet ended. -/
def grtGroupHeld (s : State) : State :=
  dropShadows (holdGroup { s with cru := { s.cru with grte := {} }, grt := { s.grt with opShadow := 0 } } 0 122071) fun a => a / 0x1000 == 0x1000

theorem grtGroupReset_ends (s : State) : EndsRequests (grtGroupHeld s) (grtGroupReset s) :=
  (EndsRequests.ended _ 0x1000080 0xFE).trans (.ended _ 0x10000C0 0xFE)

/-- The set of the tamper latch touches the Gatehouse and its record, not the Grotto. -/
theorem gthTamper_grt (s : State) : (gthTamper s).grt = s.grt := by
  have noted : (gthRecord s 0x040A [fget s Fld.GTH_CFG_TAMPACT]).grt = s.grt := (records_record _ _ _ _).reports.grt
  unfold gthTamper tamperPurge
  split <;> exact noted

/-- The Grotto as a loss of VBAT leaves it (R636). -/
def grottoLost (g : Grotto) : Grotto :=
  { g with sec := 0, sub := 0, opsec := 0, opsub := 0, pcyc := 0, tampCnt := 0, scratch := [], badParity := [], tamper := true, tcause := 2, grtrst := true }

theorem grottoReset_spec {s : State} (h : bit s.cru.rails 7 = true) :
    (grottoReset s).grt = { grottoLost s.grt with opShadow := 0 } ∧ bit (grottoReset s).cru.xcReady 0 = false := by
  have e : grottoReset s = grtGroupReset
      (if s.grt.tamper || s.cru.inReset then { s with grt := grottoLost s.grt } else gthTamper { s with grt := grottoLost s.grt }) := by
    simp only [grottoReset, h, Bool.not_true, Bool.false_eq_true, if_false]
    rfl
  rw [e]
  generalize hu : (if s.grt.tamper || s.cru.inReset then { s with grt := grottoLost s.grt } else gthTamper { s with grt := grottoLost s.grt }) = u
  have grt : u.grt = grottoLost s.grt := by
    rw [← hu]
    split
    · rfl
    · exact gthTamper_grt _
  have ends := grtGroupReset_ends u
  rw [ends.grt, ends.cru, ← grt]
  exact ⟨rfl, holdGroup_notReady _ 0 122071⟩

/-! ### Supplies (R624, R625) -/

/-- A rail of RD_SYS tripped, the fault reported, RD_SYS not yet in reset. -/
def railOut (s : State) (i : Nat) (absent : Bool) : State :=
  let u := raiseFault (drew s) 15 [drawn 32 s]
  { u with cru := { u.cru with rails := setBit u.cru.rails i }, grt := if i = 7 then { u.grt with onBat := absent } else u.grt }

theorem railOut_cru (s : State) (i : Nat) (absent : Bool) : (railOut s i absent).cru = { s.cru with rails := setBit s.cru.rails i } := by
  have report := reports_fault (drew s) 15 [drawn 32 s]
  simp only [railOut, report.cru, drew_cru]

theorem railOut_mem (s : State) (i : Nat) (absent : Bool) : (railOut s i absent).mem = s.mem := (reports_fault (drew s) 15 [drawn 32 s]).mem

/-- A trip of a rail that supplies RD_SYS resets it with cause POR. -/
theorem railTrip_sys {s : State} {i : Nat} (absent : Bool) (hi : i ∈ [0, 1, 2, 5, 6, 7]) (good : bit s.cru.rails i = false)
    (up : s.cru.inReset = false) : railTrip s i absent = systemReset (railOut s i absent) .por := by
  have out : sysSupplyOut (railOut s i absent) = true := by
    simp only [sysSupplyOut, railOut_cru, List.any_eq_true]
    exact ⟨i, hi, by simp [bit_setBit]⟩
  have e : railTrip s i absent = if sysSupplyOut (railOut s i absent) then systemReset (railOut s i absent) .por else railOut s i absent := by
    simp only [railTrip, good, up, Bool.false_eq_true, if_false]
    simp only [List.mem_cons, List.not_mem_nil, or_false] at hi
    rcases hi with rfl | rfl | rfl | rfl | rfl | rfl <;> rfl
  rw [e, if_pos out]

/-- What a rail of R620's table held ends as it returns: the Grotto's battery supply with VDD_IO18, the Orangery with its own. -/
theorem railRestore_eq {s : State} (r : Rail) (h : bit s.cru.rails (railIndex r) = true) : railRestore s (railIndex r) = { s with
    cru := { s.cru with rails := clrBit s.cru.rails (railIndex r), startNs := if s.cru.inReset then 0 else s.cru.startNs }
    grt := { s.grt with onBat := if r = .io18 then false else s.grt.onBat }, orn := { s.orn with held := if r = .orn then false else s.orn.held } } := by
  simp only [railRestore, h, Bool.not_true, Bool.false_eq_true, if_false]
  cases r <;> rfl

/-- Settles O23: each rail, VBAT and the resets of the three domains outside RD_SYS, by their operations. That memory keeps its contents over a
trip is log 54, and what the Grotto's reset leaves in its tamper cause is log 53. -/
theorem suppliesAndDomains : Obligations.SuppliesAndDomains := by
  intro s
  refine ⟨fun r absent good up hi => ?_, fun r out => ⟨_, rfl, railRestore_eq r out⟩, fun low on => ?_, ⟨_, rfl, ornReset_spec s 1⟩,
    ⟨_, rfl, ornReset_spec s 3⟩, fun lost => ?_, fun on => ?_⟩
  · have still : (railOut s (railIndex r) absent).cru.inReset = false := by rw [railOut_cru]; exact up
    obtain ⟨inReset, cause, fields, mem, _⟩ := systemReset_resetOf _ .por still
    refine ⟨_, congrArg Host.Outcome.next (railTrip_sys absent hi good up), inReset, cause, ?_, mem.trans (railOut_mem s _ absent), fields⟩
    rw [systemReset_cru _ _ still, railOut_cru]
    simp [bit_setBit]
  · have e : exec (.vbatLow low) s = .next (vbatLevel s low) := rfl
    rw [e, vbatLevel, if_neg (by simp [on])]
  · obtain ⟨grt, group⟩ := grottoReset_spec lost
    refine ⟨_, rfl, ?_⟩
    rw [grt]
    exact ⟨rfl, rfl, rfl, rfl, rfl, rfl, rfl, rfl, rfl, group⟩
  · have e : exec .tapReset s = .next (tapReset s) := rfl
    rw [e, tapReset, if_pos on]

/-! ### Counters that an overflow flag raises (R94, R95) -/

/-- A counter raised where a flag is set. -/
def cincIf (s : State) (b : Bool) (f : FieldRef) : State := if b then cinc s f else s

theorem cincIf_cru (s : State) (b : Bool) (f : FieldRef) : (cincIf s b f).cru = s.cru := by cases b <;> rfl

theorem fget_cincIf (s : State) (b : Bool) (f : FieldRef) : fget (cincIf s b f) f = if b then counted s f 1 else fget s f := by
  cases b with
  | false => rfl
  | true => exact fget_cinc s f

theorem fget_cincIf_ne (s : State) (b : Bool) {f g : FieldRef} (h : fkey g ≠ fkey f) : fget (cincIf s b f) g = fget s g := by
  cases b with
  | false => rfl
  | true => exact fget_cinc_ne s f g h

theorem counted_cincIf_ne (s : State) (b : Bool) {f g : FieldRef} (n : Nat) (h : fkey g ≠ fkey f) : counted (cincIf s b f) g n = counted s g n := by
  cases b with
  | false => rfl
  | true => exact counted_cadd_ne s f g 1 n h

/-! ### Event channels (R93, R94) -/

@[simp] theorem evChan_setEvChan (s : State) (tok : Bool) (c : EventChannel) : evChan (setEvChan s tok c) tok = c := by cases tok <;> rfl

theorem evChan_congr {s t : State} (h : t.cru = s.cru) (tok : Bool) : evChan t tok = evChan s tok := by rw [evChan, evChan, h]

@[simp] theorem fget_setEvChan (s : State) (tok : Bool) (c : EventChannel) (f : FieldRef) : fget (setEvChan s tok c) f = fget s f := rfl

@[simp] theorem counted_setEvChan (s : State) (tok : Bool) (c : EventChannel) (f : FieldRef) (n : Nat) : counted (setEvChan s tok c) f n = counted s f n := rfl

/-- A request of GRTE that is taken raises GRT_TAMPEVT by its count. -/
theorem chanDeliver_grte {s : State} {n : Nat} {ovf : Bool} (h : (evChan s false).flight = some (n, ovf)) : chanDeliver s false =
    cincIf (cadd (setEvChan s false { evChan s false with flight := none }) Fld.GRT_TAMPEVT_COUNT n) ovf Fld.CRU_XCOVF_GRTE_COUNT := by
  simp only [chanDeliver, h, Bool.false_eq_true, if_false, cincIf]

theorem chanDeliver_token {s : State} {n : Nat} {ovf : Bool} (h : (evChan s true).flight = some (n, ovf)) : chanDeliver s true =
    cincIf (setEvChan s true { evChan s true with flight := none }) ovf Fld.CRU_XCOVF_TOKEN_COUNT := by
  simp only [chanDeliver, h, if_true, cincIf]

/-- What a request that is taken leaves of its channel, and what it counts. -/
theorem chanDeliver_spec {s : State} {tok : Bool} {n : Nat} {ovf : Bool} (h : (evChan s tok).flight = some (n, ovf)) :
    evChan (chanDeliver s tok) tok = { evChan s tok with flight := none } ∧
    fget (chanDeliver s tok) Fld.GRT_TAMPEVT_COUNT = (if tok then fget s Fld.GRT_TAMPEVT_COUNT else counted s Fld.GRT_TAMPEVT_COUNT n) ∧
    fget (chanDeliver s tok) Fld.CRU_XCOVF_TOKEN_COUNT =
      (if tok && ovf then counted s Fld.CRU_XCOVF_TOKEN_COUNT 1 else fget s Fld.CRU_XCOVF_TOKEN_COUNT) ∧
    fget (chanDeliver s tok) Fld.CRU_XCOVF_GRTE_COUNT =
      (if !tok && ovf then counted s Fld.CRU_XCOVF_GRTE_COUNT 1 else fget s Fld.CRU_XCOVF_GRTE_COUNT) := by
  cases tok with
  | false =>
    rw [chanDeliver_grte h]
    refine ⟨?_, ?_, ?_, ?_⟩
    · rw [evChan_congr (cincIf_cru _ _ _), evChan_congr (cadd_cru _ _ _), evChan_setEvChan]
    · rw [fget_cincIf_ne _ _ (by decide), fget_cadd]
      rfl
    · rw [fget_cincIf_ne _ _ (by decide), fget_cadd_ne _ _ _ _ (by decide)]
      rfl
    · rw [fget_cincIf, counted_cadd_ne _ _ _ _ _ (by decide), fget_cadd_ne _ _ _ _ (by decide)]
      rfl
  | true =>
    rw [chanDeliver_token h]
    refine ⟨?_, ?_, ?_, ?_⟩
    · rw [evChan_congr (cincIf_cru _ _ _), evChan_setEvChan]
    · rw [fget_cincIf_ne _ _ (by decide)]
      rfl
    · rw [fget_cincIf]
      rfl
    · rw [fget_cincIf_ne _ _ (by decide)]
      rfl

/-- Settles O24: the three commands of a channel, each by its operation. -/
theorem eventChannels : Obligations.EventChannels := by
  intro s c up
  have request : exec (.eventChannelRequest c) s = act s fun s => chanRequest s (isToken c) := rfl
  have deliver : exec (.eventChannelDeliver c) s = act s fun s => chanDeliver s (isToken c) := rfl
  have ack : exec (.eventChannelAckComplete c) s = act s fun s => chanAck s (isToken c) := rfl
  simp only [request, deliver, ack, act_up up]
  refine ⟨fun held => ?_, fun free idle waiting => ?_, fun n ovf flight => ⟨_, rfl, chanDeliver_spec flight⟩, fun busy taken => ?_⟩
  · simp only [chanRequest, held, Bool.true_or, if_true]
  · simp only [chanRequest, free, idle, beq_eq_false_iff_ne.2 waiting, Bool.or_self, Bool.false_eq_true, if_false]
  · simp only [chanAck, busy, taken, Option.isNone_none, Bool.and_self, if_true]

/-! ### The DOUT channel (R95, R170, R448) -/

/-- Nothing is raised where the channel is busy, or where no command pends. -/
theorem doutRaise_busy {s : State} (h : doutBusy s = true) : doutRaise s = s := by
  unfold doutRaise
  dsimp only
  split
  · next l m n flight pending =>
    have wait : ¬ s.cru.dout.free ≤ s.sdl.fab := by
      simp only [doutBusy, flight, Option.isSome_none, Bool.false_or, decide_eq_true_eq] at h
      omega
    rw [if_neg wait]
  · rfl

theorem doutRaise_none {s : State} (h : s.cru.dout.pending = none) : doutRaise s = s := by
  unfold doutRaise
  dsimp only
  split
  · next pending => rw [h] at pending; cases pending
  · rfl

/-- A pending command is raised once the channel is idle. -/
theorem doutRaise_idle {s : State} {l m n : Nat} (h : doutBusy s = false) (p : s.cru.dout.pending = some (l, m, n)) : doutRaise s =
    { s with cru := { s.cru with dout := { s.cru.dout with flight := some (l, m, s.cru.dout.lost), pending := none, lost := false } } } := by
  simp only [doutBusy, Bool.or_eq_false_iff, Option.isSome_eq_false_iff, Option.isNone_iff_eq_none, decide_eq_false_iff_not, Nat.not_lt] at h
  obtain ⟨flight, free⟩ := h
  simp only [doutRaise, flight, p, free, if_true]

theorem doutRaise_eq (s : State) : doutRaise s = { s with cru := { s.cru with dout := (doutRaise s).cru.dout } } := by
  unfold doutRaise
  dsimp only
  split
  · split <;> rfl
  · rfl

/-- A command enters the channel: sent, pending, or merged (R95). -/
theorem doutCommand_eq {s : State} (up : s.cru.inReset = false) (levels mask : Nat) : doutCommand s levels mask =
    { s with cru := { s.cru with dout := match doutBusy s, s.cru.dout.pending with
      | false, none => { s.cru.dout with flight := some (levels, mask, false) }
      | false, some (l, m, _) => { s.cru.dout with flight := some (l, m, s.cru.dout.lost), pending := some (levels, mask, 1), lost := false }
      | true, none => { s.cru.dout with pending := some (levels, mask, 1) }
      | true, some (l, m, n) => { s.cru.dout with
          pending := some (maskedLevels l levels mask, m ||| mask, min (n + 1) 255), lost := s.cru.dout.lost || n == 255 } } } := by
  unfold doutCommand
  rw [if_neg (by simp [up])]
  cases busy : doutBusy s with
  | true =>
    rw [doutRaise_busy busy]
    cases pending : s.cru.dout.pending <;> simp only [busy, pending, if_true]
  | false =>
    cases pending : s.cru.dout.pending with
    | none =>
      rw [doutRaise_none pending]
      simp only [busy, Bool.false_eq_true, if_false]
    | some p =>
      obtain ⟨l, m, n⟩ := p
      rw [doutRaise_idle busy pending]
      simp only [doutBusy, Option.isSome_some, Bool.true_or, if_true]

/-- Only the levels of the DOUT pins and the record of their drives differ. -/
structure Drives (s t : State) : Prop where
  eq : t = { s with dbg := { s.dbg with dout := t.dbg.dout, drives := t.dbg.drives, doutSeq := t.dbg.doutSeq } }

theorem drivePin_drives {s : State} (h : frozen s = false) (p : Nat) (v : Bool) :
    Drives s (drivePin s p v) ∧ (drivePin s p v).dbg.dout = putBit s.dbg.dout p v := by
  unfold drivePin
  rw [if_neg (by simp [h])]
  exact ⟨⟨rfl⟩, rfl⟩

theorem Drives.frozen {s t : State} (h : Drives s t) : frozen t = frozen s := by rw [h.eq]; rfl

theorem Drives.trans {s t u : State} (h : Drives s t) (k : Drives t u) : Drives s u := by
  obtain ⟨h⟩ := h
  obtain ⟨k⟩ := k
  exact ⟨by rw [k, h]⟩

/-- Pins driven to the levels of a word, one after another. -/
theorem foldl_drivePin (levels : Nat) (pins : List Nat) {s : State} (h : frozen s = false) :
    Drives s (pins.foldl (fun s p => drivePin s p (bit levels p)) s) ∧
    ∀ i, bit (pins.foldl (fun s p => drivePin s p (bit levels p)) s).dbg.dout i = if i ∈ pins then bit levels i else bit s.dbg.dout i := by
  induction pins generalizing s with
  | nil => exact ⟨⟨rfl⟩, fun i => by simp⟩
  | cons p pins ih =>
    obtain ⟨first, level⟩ := drivePin_drives h p (bit levels p)
    obtain ⟨rest, levelsAfter⟩ := ih (first.frozen.trans h)
    refine ⟨first.trans rest, fun i => ?_⟩
    rw [List.foldl_cons, levelsAfter, level, bit_putBit]
    by_cases here : p = i
    · subst here
      simp
    · simp [here, Ne.symm here]

/-- The request in flight taken, its overflow flag counted, the pins not yet driven (R95). -/
def doutTaken (s : State) (ovf : Bool) : State :=
  cincIf (drew { s with cru := { s.cru with dout := { (doutRaise s).cru.dout with flight := none, free := s.sdl.fab + doutAckTime s } } })
    ovf Fld.CRU_XCOVF_DOUT_COUNT

/-- The pins of a mask on which an alarm acted at this Sundial edge (R170). -/
def alarmsHere (s : State) (mask : Nat) : List (Nat × Nat × Nat) := s.ang.lastAlarms.filter fun e => e.1 == s.sdl.raw && bit mask e.2.2

/-- The levels and the mask applied, but for the pins on which an alarm acted (R95, R170). -/
def doutLatched (s : State) (levels mask : Nat) : State :=
  let pins := (bitsOf mask 32).filter fun p => !(alarmsHere s mask).any fun e => e.2.2 == p
  let t := cadd (pins.foldl (fun s p => drivePin s p (bit levels p)) s) Fld.SDL_ANG_DCOL_COUNT (alarmsHere s mask).length
  { t with ang := { t.ang with lastCmd := some (s.sdl.raw, mask) } }

theorem doutTaken_eq (s : State) (ovf : Bool) : doutTaken s ovf = { s with
    cru := { s.cru with dout := { (doutRaise s).cru.dout with flight := none, free := s.sdl.fab + doutAckTime s } }
    reg := (doutTaken s ovf).reg } := by cases ovf <;> rfl

theorem fget_doutTaken (s : State) (ovf : Bool) : fget (doutTaken s ovf) Fld.CRU_XCOVF_DOUT_COUNT =
    if ovf then counted s Fld.CRU_XCOVF_DOUT_COUNT 1 else fget s Fld.CRU_XCOVF_DOUT_COUNT := fget_cincIf _ _ _

theorem fget_doutTaken_ne (s : State) (ovf : Bool) {f : FieldRef} (h : fkey f ≠ fkey Fld.CRU_XCOVF_DOUT_COUNT) :
    fget (doutTaken s ovf) f = fget s f := fget_cincIf_ne _ _ h

theorem frozen_doutTaken (s : State) (ovf : Bool) : frozen (doutTaken s ovf) = frozen s := by
  have pair : fget (doutTaken s ovf) Fld.FTB_CFG_PAIR = fget s Fld.FTB_CFG_PAIR := fget_doutTaken_ne s ovf (by decide)
  have page : fget (doutTaken s ovf) (hEn 0xA00000) = fget s (hEn 0xA00000) := fget_doutTaken_ne s ovf (by decide)
  have ftb : (doutTaken s ovf).ftb = s.ftb := by rw [doutTaken_eq]
  simp only [frozen, pairOp, fbit, enabled, pair, page, ftb]

theorem doutApply_eq {s : State} {l m : Nat} {ovf : Bool} (h : (doutRaise s).cru.dout.flight = some (l, m, ovf)) :
    doutApply s = if frozen s then doutTaken s ovf else doutLatched (doutTaken s ovf) l m := by
  have e : doutApply s = if frozen (doutTaken s ovf) then doutTaken s ovf else doutLatched (doutTaken s ovf) l m := by
    unfold doutApply
    simp only [h]
    rw [doutRaise_eq]
    rfl
  rw [e, frozen_doutTaken]

/-- A pin of the mask is driven unless an alarm acted on it. -/
theorem mem_drivenPins (s : State) {m i : Nat} (hi : i < 32) :
    i ∈ (bitsOf m 32).filter (fun p => !(alarmsHere s m).any fun e => e.2.2 == p) ↔
      (bit m i && !(s.ang.lastAlarms.any fun e => e.1 == s.sdl.raw && e.2.2 == i)) = true := by
  simp only [bitsOf, alarmsHere, List.mem_filter, List.mem_range, hi, true_and, Bool.and_eq_true, Bool.not_eq_true', List.any_eq_false,
    List.any_filter, beq_iff_eq, not_and]
  refine and_congr_right fun set => forall₂_congr fun e _ => ⟨fun clear raw pin => clear ⟨raw, ?_⟩ pin, fun clear both => clear both.1⟩
  rw [pin, set]

/-- What the latches show after a request, and the collisions that it counts. -/
theorem doutLatched_spec {s : State} (h : frozen s = false) (l m : Nat) :
    doutLatched s l m = { s with
      dbg := { s.dbg with dout := (doutLatched s l m).dbg.dout, drives := (doutLatched s l m).dbg.drives, doutSeq := (doutLatched s l m).dbg.doutSeq }
      ang := { s.ang with lastCmd := some (s.sdl.raw, m) }, reg := (doutLatched s l m).reg } ∧
    (∀ i < 32, bit (doutLatched s l m).dbg.dout i =
      if bit m i && !(s.ang.lastAlarms.any fun e => e.1 == s.sdl.raw && e.2.2 == i) then bit l i else bit s.dbg.dout i) ∧
    fget (doutLatched s l m) Fld.SDL_ANG_DCOL_COUNT = counted s Fld.SDL_ANG_DCOL_COUNT (alarmsHere s m).length ∧
    ∀ f, fkey f ≠ fkey Fld.SDL_ANG_DCOL_COUNT → fget (doutLatched s l m) f = fget s f := by
  obtain ⟨⟨driven⟩, levels⟩ := foldl_drivePin l ((bitsOf m 32).filter fun p => !(alarmsHere s m).any fun e => e.2.2 == p) h
  unfold doutLatched
  dsimp only
  generalize ((bitsOf m 32).filter fun p => !(alarmsHere s m).any fun e => e.2.2 == p).foldl (fun s p => drivePin s p (bit l p)) s = t at *
  refine ⟨?_, fun i hi => ?_, ?_, fun f hf => ?_⟩
  · rw [driven]
    rfl
  · rw [cadd_dbg, levels i]
    simp only [mem_drivenPins s hi]
  · refine (fget_cadd t _ _).trans ?_
    rw [driven]
    rfl
  · refine (fget_cadd_ne t _ f _ hf).trans ?_
    rw [driven]
    rfl

/-- Settles O25: a command by the state of the channel; the latches frozen, or driven but for the pins of alarms. -/
theorem doutChannel : Obligations.DoutChannel := by
  intro s up
  refine ⟨fun levels mask => ?_, fun l m ovf flight => ?_⟩
  · have e : exec (.doutChannelCommand levels mask) s = act s fun s => doutCommand s levels.toNat mask.toNat := rfl
    rw [e, act_up up]
    exact congrArg Host.Outcome.next (doutCommand_eq up levels.toNat mask.toNat)
  have e : exec .doutLatchApply s = act s doutApply := rfl
  rw [e, act_up up]
  refine ⟨_, rfl, ?_⟩
  rw [doutApply_eq flight]
  have taken := doutTaken_eq s ovf
  cases ice : frozen s with
  | true =>
    rw [if_pos rfl]
    refine ⟨by rw [taken], fget_doutTaken s ovf, fun _ => ?_, fun no => absurd no (by decide), taken.trans ?_, fun f _ other => fget_doutTaken_ne s ovf other⟩
    · rw [taken]
      exact ⟨rfl, rfl⟩
    · rw [taken]
  | false =>
    rw [if_neg (by decide)]
    obtain ⟨frame, levels, collisions, others⟩ := doutLatched_spec ((frozen_doutTaken s ovf).trans ice) l m
    have alarms : alarmsHere (doutTaken s ovf) m = alarmsHere s m := by rw [taken]; rfl
    have count (n : Nat) : counted (doutTaken s ovf) Fld.SDL_ANG_DCOL_COUNT n = counted s Fld.SDL_ANG_DCOL_COUNT n :=
      counted_cincIf_ne _ _ _ (by decide)
    refine ⟨?_, (others _ (by decide)).trans (fget_doutTaken s ovf), fun no => absurd no (by decide), fun _ => ⟨fun i hi => ?_, ?_, ?_⟩, ?_,
      fun f dcol other => (others f dcol).trans (fget_doutTaken_ne s ovf other)⟩
    · rw [frame, taken]
    · rw [levels i hi, taken]
    · rw [collisions, alarms, count]
      rfl
    · rw [frame, taken]
    · rw [frame, taken]

/-! ### Reads of the Orangery (R101, R482, R486, R493, R498, R499, R506) -/

/-- The Orangery answers: its page is enabled, its crossing group ready, and it meters. -/
structure OrnAnswers (s : State) : Prop where
  page : enabled s 0xB00000 = true
  group : bit s.cru.xcReady 1 = true
  phase : s.orn.phase = .metering

/-- ORN_RES0 and ORN_RES1. -/
def resReg (b : Bool) : OrnReg := if b then .ORN_RES1 else .ORN_RES0

/-- A request without data to ORN_RES0 or ORN_RES1 is that of the block, run on the state in which the mailbox holds it. -/
theorem request_res {s : State} {mid : Nat} (b : Bool) (op arg : Nat) (h : Free s mid (resMbx b)) (hop : op < 256) :
    mbxRequest s mid (resMbx b) op false arg [] = respond (ornMbx (resReg b) (resMbx b) (asks s mid (resMbx b) op false arg [])) {} := by
  cases b with
  | false => exact request_ornRes0 s mid op arg false [] h hop
  | true => exact request_ornRes1 s mid op arg false [] h hop

theorem ornMbx_disabled {r : OrnReg} {a : Nat} {u : State} (h : enabled u 0xB00000 = false) : ornMbx r a u = mbxEnd u a 0x0A := by
  simp only [ornMbx, h, Bool.not_false, if_true]

/-- A request ends with 0xFE while the group is not ready or the Orangery does not meter (R101). -/
theorem ornMbx_notUp {r : OrnReg} {a : Nat} {u : State} (h : enabled u 0xB00000 = true) (up : (bit u.cru.xcReady 1 && u.orn.phase == .metering) = false) :
    ornMbx r a u = mbxEnd u a 0xFE := by
  have down : (!bit u.cru.xcReady 1 || u.orn.phase != .metering) = true := by
    rw [Bool.and_eq_false_iff, beq_eq_false_iff_ne] at up
    rcases up with group | phase
    · rw [group]; rfl
    · rw [bne_iff_ne.2 phase, Bool.or_true]
  simp only [ornMbx, h, Bool.not_true, Bool.false_eq_true, if_false, down, if_true]

/-- A read request that the Orangery answers: with its words, or with a CODE. -/
theorem ornMbx_read {s : State} {mid a op arg : Nat} (b : Bool) (up : OrnAnswers s) (h5 : op ≠ 5) :
    ornMbx (resReg b) a (asks s mid a op false arg []) = Sum.elim (fun c => mbxEnd (asks s mid a op false arg []) a c)
      (fun ws => mbxAnswer (asks s mid a op false arg []) a 0 (ws.map w32)) (ornRead s op (arg % 2 ^ 16)) := by
  have page : enabled (asks s mid a op false arg []) 0xB00000 = true := up.page
  have same : ornRead (asks s mid a op false arg []) op (arg % 2 ^ 16) = ornRead s op (arg % 2 ^ 16) := rfl
  have read : ornMbx (resReg b) a (asks s mid a op false arg []) = ornMbx .ORN_RES0 a (asks s mid a op false arg []) := by
    cases b <;> simp only [ornMbx, resReg, asks_wr, Bool.false_eq_true, if_false, if_true]
  rw [read]
  cases answer : ornRead s op (arg % 2 ^ 16) <;> simp only [ornMbx, page, asks_cru, asks_orn, up.group, up.phase, asks_wr, asks_op, asks_arg, h5,
    same, answer, Sum.elim_inl, Sum.elim_inr, bne_self_eq_false, Bool.not_true, Bool.or_self, Bool.false_eq_true, if_false]

section
variable {s : State} {mid op arg : Nat} {b : Bool} (free : Free s mid (resMbx b)) (up : OrnAnswers s) (small : op < 256) (h5 : op ≠ 5)
  {c : Instr} (e : exec c s = act s fun s => mbxRequest s mid (resMbx b) op false arg [])
include free up small h5 e

/-- A read command that the Orangery can answer. -/
theorem exec_answered {ws : List Nat} (h : ornRead s op (arg % 2 ^ 16) = .inr ws) :
    exec c s = .next (answered s mid (resMbx b) op arg (ws.map w32)) := by
  rw [e, act_up free.1, request_res b op arg free small, ornMbx_read b up h5, h]
  rfl

/-- A read command of an entry that the Orangery does not hold. -/
theorem exec_refused {code : Nat} (h : ornRead s op (arg % 2 ^ 16) = .inl code) :
    exec c s = .next (ended (asks s mid (resMbx b) op false arg []) (resMbx b) code) := by
  rw [e, act_up free.1, request_res b op arg free small, ornMbx_read b up h5, h]
  rfl

end

/-- A challenge draws the next nonce and answers it with the identity of the Orangery (R493). -/
theorem ornMbx_challenge {s : State} {mid a m : Nat} (b : Bool) (up : OrnAnswers s) (hm : m = (s.orn.challenges + 1) % 2 ^ 64) :
    ornMbx (resReg b) a (asks s mid a 5 false 0 []) =
      mbxAnswer { asks s mid a 5 false 0 [] with orn := { s.orn with challenges := m, nonce := some m } } a 0 (wordsOfBytes 4 (nonceBytes m)) := by
  have page : enabled (asks s mid a 5 false 0 []) 0xB00000 = true := up.page
  subst hm
  cases b <;> simp only [ornMbx, resReg, page, asks_cru, asks_orn, up.group, up.phase, asks_wr, asks_op, bne_self_eq_false, Bool.not_true,
    Bool.or_self, Bool.false_eq_true, if_false, if_true, setOrn]

/-! #### Where an entry stands -/

/-- The audit log's word count follows the record; there is none beyond its end (R498). -/
theorem ornRead_audit (s : State) (n : Nat) : ornRead s 0x0A n =
    (s.orn.audit[n % 2 ^ 15]?).elim (.inl 1) fun ws => .inr (ws ++ [s.orn.audit.length]) := by
  cases h : s.orn.audit[n % 2 ^ 15]? <;> simp only [ornRead, h, Option.elim_none, Option.elim_some]

/-- The words of a loss record's header (R486). -/
def lossWords (x : LossRec) : List Nat :=
  [x.kind * 2 ^ 24 + x.cause * 2 ^ 16 + x.group] ++ words64 (x.last / 10) ++ [x.last % 10 * 100000000] ++ words64 (x.next / 10) ++
    [x.next % 10 * 100000000, x.sp, x.count]

theorem ornRead_lossHeader (s : State) (n : Nat) : ornRead s 0x0B n = (s.orn.losses[n % 8]?).elim (.inl 1) fun x => .inr (lossWords x) := by
  cases h : s.orn.losses[n % 8]? <;> simp only [ornRead, h, Option.elim_none, Option.elim_some, lossWords]

theorem ornRead_lossCircuit (s : State) (n : Nat) : ornRead s 0x0C n = (s.orn.losses[n / 2 ^ 13 % 8]?).elim (.inl 1)
    fun x => .inr ((tat x.bounds (min (n % 2 ^ 11) 1535) [0, 0, 0]).flatMap words64) := by
  cases h : s.orn.losses[n / 2 ^ 13 % 8]? <;> simp only [ornRead, h, Option.elim_none, Option.elim_some]

/-- Bit 15 of ARG picks the corrections of a circuit, else those of a slot (R506). -/
theorem ornRead_corrQ (s : State) (n : Nat) : ornRead s 7 ((2 ^ 15 + n % 2 ^ 15) % 2 ^ 16) =
    .inr (corrQWords (tat (ornParams s).corrQ (min (n % 2 ^ 11) 1535) {})) := by
  have arg : (2 ^ 15 + n % 2 ^ 15) % 2 ^ 16 = 2 ^ 15 + n % 2 ^ 15 := by omega
  have circuit : (2 ^ 15 + n % 2 ^ 15) % 2 ^ 11 = n % 2 ^ 11 := by omega
  have top : bit (2 ^ 15 + n % 2 ^ 15) 15 = true := by
    simp only [bit, beq_iff_eq]
    omega
  simp only [ornRead, arg, circuit, top, if_true]

theorem ornRead_corr (s : State) (n : Nat) : ornRead s 7 (n % 2 ^ 15 % 2 ^ 16) =
    .inr (corrWords (tat (ornParams s).corr (n % 2 ^ 14) (2 ^ 30, 0))) := by
  have arg : n % 2 ^ 15 % 2 ^ 16 = n % 2 ^ 15 := by omega
  have slot : n % 2 ^ 15 % 2 ^ 14 = n % 2 ^ 14 := by omega
  have top : bit (n % 2 ^ 15) 15 = false := by
    simp only [bit, beq_eq_false_iff_ne]
    omega
  simp only [ornRead, arg, slot, top, corrOf, Bool.false_eq_true, if_false]

/-- Settles O54: each read by the words of its table, or by the CODE of an entry that a log does not hold. -/
theorem meterReads : Obligations.MeterReads := by
  rintro s mid b arg a n i r p v g up ha hn free hi hr hp hv hg hup
  obtain rfl : a = resMbx b := ha
  subst hn hi hr hp hv hg hup
  have full : arg.toNat % 2 ^ 16 = arg.toNat := Nat.mod_eq_of_lt arg.isLt
  have ident : exec (.ornId mid b) s = act s fun s => mbxRequest s mid.toNat (resMbx b) 4 false 0 [] := rfl
  refine ⟨fun off => ?_, fun on down => ?_, fun on answers => ?_⟩
  · rw [ident, act_up free.1, request_res b 4 0 free (by decide), ornMbx_disabled (u := asks s mid.toNat (resMbx b) 4 false 0 []) off]
    rfl
  · rw [ident, act_up free.1, request_res b 4 0 free (by decide), ornMbx_notUp (u := asks s mid.toNat (resMbx b) 4 false 0 []) on down]
    rfl
  rw [Bool.and_eq_true, beq_iff_eq] at answers
  have up : OrnAnswers s := ⟨on, answers.1, answers.2⟩
  refine ⟨fun c op k ws hc => ?_, fun m q hm hq => ?_, fun ws h => ?_, fun h => ?_, fun x h => ?_, fun h => ?_, fun x h => ?_, fun h => ?_⟩
  · simp only [List.mem_cons, List.not_mem_nil, or_false, Prod.mk.injEq] at hc
    rcases hc with ⟨rfl, rfl, rfl, rfl⟩ | ⟨rfl, rfl, rfl, rfl⟩ | ⟨rfl, rfl, rfl, rfl⟩ | ⟨rfl, rfl, rfl, rfl⟩ | ⟨rfl, rfl, rfl, rfl⟩ |
      ⟨rfl, rfl, rfl, rfl⟩ | ⟨rfl, rfl, rfl, rfl⟩ | ⟨rfl, rfl, rfl, rfl⟩ | ⟨rfl, rfl, rfl, rfl⟩ | ⟨rfl, rfl, rfl, rfl⟩
    · exact exec_answered free up (by decide) (by decide) rfl (by rw [full]; rfl)
    · exact exec_answered free up (by decide) (by decide) rfl (by rw [full]; rfl)
    · exact exec_answered free up (by decide) (by decide) rfl (by rw [full]; rfl)
    · exact exec_answered free up (by decide) (by decide) rfl rfl
    · exact exec_answered free up (by decide) (by decide) rfl (by rw [full]; rfl)
    · exact exec_answered free up (by decide) (by decide) rfl (ornRead_corrQ s arg.toNat)
    · refine exec_answered free up (by decide) (by decide) ?_ (ornRead_corr s arg.toNat)
      rw [← Nat.zero_add (arg.toNat % 2 ^ 15)]
      rfl
    · exact exec_answered free up (by decide) (by decide) rfl (by rw [full]; rfl)
    · exact exec_answered free up (by decide) (by decide) rfl rfl
    · exact exec_answered free up (by decide) (by decide) rfl (by rw [full]; rfl)
  · have e : exec (.ornChallenge mid b) s = act s fun s => mbxRequest s mid.toNat (resMbx b) 5 false 0 [] := rfl
    rw [e, act_up free.1, request_res b 5 0 free (by decide), ornMbx_challenge b up hm, hq]
    rfl
  · exact exec_answered free up (by decide) (by decide) rfl (by rw [full, ornRead_audit, h]; rfl)
  · exact exec_refused free up (by decide) (by decide) rfl (by rw [full, ornRead_audit, h]; rfl)
  · exact exec_answered free up (by decide) (by decide) rfl (by rw [full, ornRead_lossHeader, h]; rfl)
  · exact exec_refused free up (by decide) (by decide) rfl (by rw [full, ornRead_lossHeader, h]; rfl)
  · exact exec_answered free up (by decide) (by decide) rfl (by rw [full, ornRead_lossCircuit, h]; rfl)
  · exact exec_refused free up (by decide) (by decide) rfl (by rw [full, ornRead_lossCircuit, h]; rfl)

/-! ### Changes of the metering (R468, R470, R477, R496–R498) -/

section
variable {s t : State} (h : t.orn = s.orn)
include h

theorem ornParams_congr : ornParams t = ornParams s := by rw [ornParams, ornParams, h]

theorem sealOpen_congr : sealOpen t = sealOpen s := by simp only [sealOpen, sealPin, ornParams_congr h, h]

theorem auditFree_congr : auditFree t = auditFree s := by rw [auditFree, auditFree, h]

end

/-- A write request that the Orangery answers. -/
theorem ornMbx_write {s u : State} {mid a op arg : Nat} {d : List Word} (up : OrnAnswers s) (cru : u.cru = s.cru) (orn : u.orn = s.orn)
    (field : ∀ f, fget u f = fget s f) : ornMbx .ORN_REQ a (asks u mid a op true arg d) =
      ornWrite (asks u mid a op true arg d) (mbxAt (asks u mid a op true arg d) a) := by
  have page : enabled (asks u mid a op true arg d) 0xB00000 = true := by
    rw [enabled, fbit, fget_asks, field]
    exact up.page
  simp only [ornMbx, page, asks_cru, cru, asks_orn, orn, up.group, up.phase, asks_wr, bne_self_eq_false, Bool.not_true, Bool.or_self,
    Bool.false_eq_true, if_false]

/-- The requests of numbers 1 to 5 are changes. -/
theorem ornWrite_change (s : State) {b : Mbx} (h : b.op ∈ [1, 2, 3, 4, 5]) : ornWrite s b = ornTakeChange s b := by
  simp only [List.mem_cons, List.not_mem_nil, or_false] at h
  rcases h with h | h | h | h | h <;> simp only [ornWrite, h]

/-- The command `c` asks for the change of number `op`, which would give the parameters `new` and clear the pulses of the output `pin`. -/
structure ChangeAsked (s : State) (mid : Nat) (arg : BitVec 16) (d : List Word) (c : Instr) (op : Nat) (new : OrnParams) (pin : Option Nat) : Prop where
  command : exec c s = act s fun s => mbxRequest s mid ornReqMbx op true arg.toNat d
  number : op ∈ [1, 2, 3, 4, 5]
  params : (ornChange (ornParams s) op arg.toNat (word s 0xB00080 d)).1 = new
  output : (if op = 4 then some (arg.toNat % 4) else none) = pin

section
variable {s : State} {mid : Nat} {arg : BitVec 16} {d : List Word} {c : Instr} {op : Nat} {new : OrnParams} {pin : Option Nat}
  (asked : ChangeAsked s mid arg d c op new pin) (free : Free s mid 0xB00080) (up : OrnAnswers s)
include asked free up

/-- A change that is asked for is taken or refused by the mailbox's request. -/
theorem exec_change : exec c s = .next (respond (ornTakeChange (asks (written s d) mid 0xB00080 op true arg.toNat d)
    (mbxAt (asks (written s d) mid 0xB00080 op true arg.toNat d) 0xB00080)) {}) := by
  have small : op < 256 := by
    have := asked.number
    simp only [List.mem_cons, List.not_mem_nil, or_false] at this
    omega
  rw [asked.command, act_up free.1, ornReqMbx, request_ornReq s mid op arg.toNat true d free small,
    ornMbx_write up (written_cru s d) (written_orn s d) (fget_written s d), ornWrite_change _ (by rw [asks_op]; exact asked.number)]

/-- The tests of a change, in their order, and what it leaves to the next interval boundary (R468, R470, R477, R498). -/
theorem change_outcomes (hd : d.length ≤ 12) {q : State} {r : OrnParams × Nat × List Nat × List Nat} {audit : List (Nat × Nat × Nat × Nat)}
    (hq : q = asks (written s d) mid 0xB00080 op true arg.toNat d) (hr : r = ornChange (ornParams s) op arg.toNat (word s 0xB00080 d))
    (ha : audit = auditOf op r.2.1 r.2.2.1 r.2.2.2) :
    (sealOpen s = false → exec c s = .next (ended q 0xB00080 2)) ∧
    (sealOpen s = true → op = 1 → 1536 < elementCount new → exec c s = .next (ended q 0xB00080 4)) ∧
    (sealOpen s = true → op ≠ 1 ∨ elementCount new ≤ 1536 → auditFree s < audit.length + 1 → exec c s = .next (ended q 0xB00080 6)) ∧
    (sealOpen s = true → op ≠ 1 ∨ elementCount new ≤ 1536 → audit.length + 1 ≤ auditFree s → exec c s = .next (respond { q with
      orn := { s.orn with change := some ⟨new, audit, pin, timeNow s * 10 / secUnit + 1⟩ } } {})) := by
  have orn : q.orn = s.orn := by rw [hq, asks_orn, written_orn]
  have sdl : q.sdl = s.sdl := by rw [hq, asks_sdl, written_sdl]
  have words : (mbxAt q 0xB00080).w = word s 0xB00080 d := by rw [hq]; exact funext fun i => asks_word s mid 0xB00080 op arg.toNat true d hd i
  have number : (mbxAt q 0xB00080).op = op := by rw [hq, asks_op]
  have index : (mbxAt q 0xB00080).arg = arg.toNat := by rw [hq, asks_arg]; exact Nat.mod_eq_of_lt arg.isLt
  have now : intervalNow q = timeNow s * 10 / secUnit := by rw [intervalNow, timeNow, sdl]; rfl
  have taken : exec c s = .next (respond (if !sealOpen s then mbxEnd q 0xB00080 2
      else if op = 1 ∧ 1536 < elementCount new then mbxEnd q 0xB00080 4
      else if auditFree s < audit.length + 1 then mbxEnd q 0xB00080 6
      else { q with orn := { s.orn with change := some ⟨new, audit, pin, timeNow s * 10 / secUnit + 1⟩ } }) {}) := by
    rw [exec_change asked free up, ← hq]
    simp only [ornTakeChange, words, number, index, ornParams_congr orn, ← hr, ← ha, sealOpen_congr orn, logFull, auditFree_congr orn, now,
      asked.output, decide_eq_true_eq, orn, setOrn, ornReqMbx, show r.1 = new by rw [hr, asked.params]]
  rw [taken]
  have fits : op ≠ 1 ∨ elementCount new ≤ 1536 ↔ ¬ (op = 1 ∧ 1536 < elementCount new) := by omega
  refine ⟨fun closed => ?_, fun opened one many => ?_, fun opened few full => ?_, fun opened few room => ?_⟩
  · rw [if_pos (by rw [closed]; rfl)]
    rfl
  · rw [if_neg (by rw [opened]; decide), if_pos ⟨one, many⟩]
    rfl
  · rw [if_neg (by rw [opened]; decide), if_neg (fits.1 few), if_pos full]
    rfl
  · rw [if_neg (by rw [opened]; decide), if_neg (fits.1 few), if_neg (Nat.not_lt.2 room)]

end

/-- The change that waits takes effect at its boundary, with its audit records (R477, R491, R497). -/
theorem boundaryApply_due {s : State} {c : OrnChange} (h : s.orn.change = some c) (due : c.from_ ≤ timeNow s * 10 / secUnit) :
    boundaryApply s = mbxEndIfBusy (c.audit.foldl (fun v a => auditAdd v a.1 a.2.1 (c.from_ / 10) a.2.2.1 a.2.2.2)
      { s with orn := { s.orn with
        change := none, params := ((c.from_, c.params) :: s.orn.params).take 16
        pulses := c.pin.elim s.orn.pulses (tdel s.orn.pulses) } }) 0xB00080 0 := by
  have now : ¬ intervalNow s < c.from_ := Nat.not_lt.2 due
  simp only [boundaryApply, h, now, if_false]
  cases c.pin <;> rfl

/-- Settles O52: the five changes by one argument over what each asks for, and the boundary. The instant of the boundary and the 16 versions kept
are the model's choice (log 49). -/
theorem meterChanges : Obligations.MeterChanges := by
  intro s
  refine ⟨fun mid arg d w i p free on group phase hd hw hi hp c op new pin hc q r audit hq hr ha => ?_, fun c u waits due hu => ?_⟩
  · subst hw hi hp
    have asked : ChangeAsked s mid.toNat arg d c op new pin := by
      simp only [List.mem_cons, List.not_mem_nil, or_false, Prod.mk.injEq] at hc
      rcases hc with ⟨rfl, rfl, rfl, rfl⟩ | ⟨rfl, rfl, rfl, rfl⟩ | ⟨rfl, rfl, rfl, rfl⟩ | ⟨rfl, rfl, rfl, rfl⟩ | ⟨rfl, rfl, rfl, rfl⟩ <;>
        exact ⟨rfl, by decide, rfl, rfl⟩
    exact change_outcomes asked free ⟨on, group, phase⟩ hd hq hr ha
  · have e : exec .intervalBoundaryApply s = .next (boundaryApply s) := rfl
    rw [e, boundaryApply_due waits due, hu]
    cases c.pin <;> rfl

/-! ### Metering itself (R90, R473, R474, R476, R484 to R487, R490, R491, R501) -/

/-- The state once a set has left for the tap under the number of its word (R90). -/
def tapSent (s : State) (rs : List RelSet) : State := { s with svi := { s.svi with toOrn := rs, tapNo := (s.svi.tapNo + 1) % 2 ^ 16 } }

section
variable {s : State} {w : TapWord} {r : RelSet} {rs : List RelSet} (h : s.svi.toOrn = r :: rs)
include h

/-- A word that is lost, or that finds the Orangery not metering, leaves no trace there. -/
theorem tapReceive_gone (gone : s.orn.phase ≠ .metering ∨ w = .lost) : tapReceive s w = tapSent s rs := by
  simp only [tapReceive, h, gone, if_true, tapSent]

/-- A word that fails its CRC, or whose number does not follow, is counted. -/
theorem tapReceive_bad (on : s.orn.phase = .metering)
    (bad : w = .badCrc ∨ w = .good ∧ s.orn.tapNext ≠ none ∧ s.orn.tapNext ≠ some s.svi.tapNo) :
    tapReceive s w = { tapSent s rs with orn := { s.orn with
      tapNext := some ((s.svi.tapNo + 1) % 2 ^ 16), tapErr := satAdd 16 s.orn.tapErr 1 } } := by
  have arrives : ¬ (s.orn.phase ≠ .metering ∨ w = .lost) := by
    rintro (off | rfl)
    · exact off on
    · rcases bad with e | ⟨e, _⟩ <;> cases e
  have counts : w = .badCrc ∨ (s.orn.tapNext.any fun k => k != s.svi.tapNo) = true := by
    refine bad.imp_right fun ⟨_, seen, other⟩ => ?_
    obtain ⟨k, hk⟩ := Option.ne_none_iff_exists'.1 seen
    rw [hk] at other ⊢
    exact bne_iff_ne.2 fun e => other (congrArg _ e)
  simp only [tapReceive, h, arrives, counts, if_true, if_false, tapSent, setOrn]

/-- A good word whose number follows, or the first, joins what waits. -/
theorem tapReceive_good (on : s.orn.phase = .metering) (first : s.orn.tapNext = none ∨ s.orn.tapNext = some s.svi.tapNo) :
    ∃ slots, tapReceive s .good = { tapSent s rs with orn := { s.orn with
      tapNext := some ((s.svi.tapNo + 1) % 2 ^ 16), slots := slots, sets := s.orn.sets ++ [r] } } := by
  have arrives : ¬ (s.orn.phase ≠ .metering ∨ TapWord.good = .lost) := by
    rintro (off | e)
    · exact off on
    · cases e
  have fine : ¬ (TapWord.good = .badCrc ∨ (s.orn.tapNext.any fun k => k != s.svi.tapNo) = true) := by
    rintro (e | gap)
    · cases e
    · rcases first with e | e <;> simp [e] at gap
  simp only [tapReceive, h, arrives, fine, if_false, tapSent, setOrn]
  exact ⟨_, rfl⟩

end

/-- One interval of one group, before its save: its circuits metered, its last values kept, and its gap and the loss of power recorded (R476, R486,
R487). -/
def groupComputed (s : State) (g k : Nat) : State :=
  let p := paramsFor s k
  let hz := match s.orn.sets.find? fun r => r.group == g with | some r => r.hz | none => 4800
  let u := keepLast ((groupCircuits s p g).foldl (meterCircuit g k ((k + 1) * hz / 10 % 2 ^ 32) p) s) g k
  let v := powerRecord (match tget s.orn.next g with | some n => if n < k then gapRecord u g n k else u | none => u) k
  { v with orn := { v.orn with
      next := tset v.orn.next g (k + 1), sets := v.orn.sets.filter fun r => r.group != g || decide (k ≤ r.tick * 10 / r.hz) } }

theorem intervalCompute_due {s : State} {g k : Nat} (h : ornDue s = some (g, k)) : intervalCompute s =
    if k % (paramsFor s k).sp = (paramsFor s k).sp - 1 ∧ computedTo (groupComputed s g k) k = true then ornSave (groupComputed s g k) false
    else groupComputed s g k := by
  simp only [intervalCompute, h]
  rfl

/-- A pulse that is due is emitted once its instant has come and the last one is over (R490, R491). -/
theorem pulseEmit_due {s : State} {k : Nat} {x : PulseSet} {y : PulseRun} (hx : x = tat (ornParams s).pulses k {}) (hy : y = tat s.orn.pulses k {})
    (en : x.en = true) (left : y.left ≠ 0) (due : y.due ≠ 0) (instant : y.at_ ≤ s.orn.clk) (low : y.sent = 0 ∨ y.high + x.w * 100000 ≤ s.orn.clk) :
    pulseEmit s k = { s with orn := { s.orn with pulses := tset s.orn.pulses k { y with
      due := y.due - 1, left := y.left - 1, at_ := y.at_ + y.gap, high := s.orn.clk + x.w * 100000, sent := y.sent + 1 } } } := by
  have free : ¬ (y.sent ≠ 0 ∧ s.orn.clk < y.high + x.w * 100000) := by omega
  simp only [pulseEmit, ← hx, ← hy, en, left, due, Nat.not_lt.2 instant, free, decide_false, Bool.not_true, Bool.or_self, Bool.false_eq_true,
    if_false, setOrn]

/-! ### The start of the Orangery (R485, R501) -/

/-- Peaks cleared leave the accumulators of every circuit. -/
theorem accs_clearPeaks (t : Tbl CircuitRun) (c : Nat) : (tat (t.map fun (e : Nat × CircuitRun) => (e.1, { e.2 with peak := [0, 0, 0] })) c {}).accs = (tat t c {}).accs := by
  induction t with
  | nil => rfl
  | cons e t ih =>
    simp only [tat, List.map_cons, tget] at ih ⊢
    split
    · rfl
    · exact ih

/-- A start with the active bank's digest right goes on from the newest save. -/
theorem ornStart_good {s : State} (held : s.orn.held = false) (phase : s.orn.phase = .starting) :
    ornStart s true = { s with orn := (ornStart s true).orn } ∧ (ornStart s true).orn.phase = .metering ∧
    (ornStart s true).orn.active = s.orn.active ∧ (ornStart s true).orn.fallback = false ∧ (ornStart s true).orn.powerDue = true ∧
    (ornStart s true).orn.audit = s.orn.audit ∧ ∀ x, newestSave s = some x → (ornStart s true).orn.loaded = x.until_ ∧
      ∀ c, (tat (ornStart s true).orn.runs c {}).accs = (tat x.runs c {}).accs := by
  have off : ¬ (s.orn.held || s.orn.phase == .metering) = true := by rw [held, phase]; decide
  have still : s.orn.phase ≠ .activating := by rw [phase]; decide
  simp only [ornStart, off, still, if_true, if_false, Bool.true_or]
  refine ⟨rfl, rfl, rfl, rfl, rfl, rfl, fun x hx => ?_⟩
  simp only [setOrn, hx, Bool.false_eq_true, if_false]
  exact ⟨trivial, accs_clearPeaks x.runs⟩

/-- A start with a wrong digest takes the other bank, and records it where the log has room. -/
theorem ornStart_bad {s : State} (held : s.orn.held = false) (phase : s.orn.phase = .starting) :
    ornStart s false = { s with orn := (ornStart s false).orn } ∧ (ornStart s false).orn.phase = .metering ∧
    (ornStart s false).orn.active = (!s.orn.active) ∧ (ornStart s false).orn.fallback = true ∧
    (ornStart s false).orn.audit.length = s.orn.audit.length + if auditFree s = 0 then 0 else 1 := by
  have off : ¬ (s.orn.held || s.orn.phase == .metering) = true := by rw [held, phase]; decide
  have still : s.orn.phase ≠ .activating := by rw [phase]; decide
  simp only [ornStart, off, still, if_false, Bool.false_or, Bool.false_eq_true, beq_iff_eq, auditFree, setOrn]
  by_cases full : 32768 - s.orn.audit.length = 0
  · simp only [full, if_true, and_self, Nat.add_zero]
  · simp only [full, if_false, auditAdd, setOrn, List.length_append, List.length_cons, List.length_nil, Nat.zero_add, and_self]

/-- Settles O55: a word by what befell it, an interval, a pulse, and the start on either bank. The order of the groups and the numbers of the
tap's words are the model's choice (log 49). -/
theorem meterIntervals : Obligations.MeterIntervals := by
  intro s
  refine ⟨fun w empty => ?_, fun w r rs u m sent hm hu => ?_, fun g k p f u v due hp hf hu hv => ?_, fun k x y hx hy en left due instant low => ?_,
    fun held phase => ⟨_, rfl, ornStart_good held phase⟩, fun held phase => ⟨_, rfl, ornStart_bad held phase⟩⟩
  · have e : exec (.tapWordReceive w) s = .next (tapReceive s w) := rfl
    rw [e, tapReceive, empty]
  · have e : exec (.tapWordReceive w) s = .next (tapReceive s w) := rfl
    subst hm hu
    rw [e]
    refine ⟨fun gone => ?_, fun on bad => ?_, fun on good first => ?_⟩
    · rw [tapReceive_gone sent gone, tapSent]
    · rw [tapReceive_bad sent on bad, tapSent]
    · subst good
      obtain ⟨slots, joined⟩ := tapReceive_good sent on first
      exact ⟨slots, congrArg Host.Outcome.next joined⟩
  · have e : exec .intervalCompute s = .next (intervalCompute s) := rfl
    subst hp hf hu hv
    exact ⟨groupComputed s g k, rfl, e.trans (congrArg Host.Outcome.next (intervalCompute_due due))⟩
  · have e : exec (.pulseEmit k) s = .next (pulseEmit s k.val) := rfl
    rw [e, pulseEmit_due hx hy en left due instant low]

end Sys2Proof.Machine
end

section
/-! Proofs of the family 04_sundial_time.md: the time, its adjustments and the tick generator, the time pins, frames at a port and the migration of
a pavilion. -/

namespace Sys2Proof.Machine

/-! ### Reads of the time, of the angle and of a timestamp ring (R144, R152, R154, R161) -/

section
variable {u : State} {a i : Nat} (read : (mbxAt u a).wr = false)
include read

theorem sdlMbx_now (op : (mbxAt u a).op = 1) : sdlMbx .SDL_TIME a i u = mbxAnswer u a 0 (timeNowWords u) := by
  simp only [sdlMbx, read, op, Bool.false_eq_true, if_false]

theorem sdlMbx_ppsin (op : (mbxAt u a).op = 2) : sdlMbx .SDL_TIME a i u = u.sdl.ppsIn.elim (mbxEnd u a 1) fun e => mbxAnswer u a 0
    [w32 (nsOf e.2), w32 (fracOf e.2), w32 (secOf e.2), w32 (secOf e.2 / 2 ^ 32), w32 e.1, w32 (e.1 / 2 ^ 32), w32 u.sdl.ppsSeq] := by
  simp only [sdlMbx, read, op, Bool.false_eq_true, if_false]
  cases u.sdl.ppsIn <;> rfl

theorem sdlMbx_angNow (op : (mbxAt u a).op = 1) : sdlMbx .SDL_ANG_NOW a i u = mbxAnswer u a 0 (angNowWords u) := by
  simp only [sdlMbx, read, op, bne_self_eq_false, Bool.or_self, Bool.false_eq_true, if_false]

theorem sdlMbx_ringEmpty (op : (mbxAt u a).op = 1) (empty : tsRing u i = []) : sdlMbx .SDL_TSR a i u = mbxEnd u a 1 := by
  simp only [sdlMbx, read, op, empty, bne_self_eq_false, Bool.or_self, Bool.false_eq_true, if_false]

theorem sdlMbx_ringOldest (op : (mbxAt u a).op = 1) {e : TsEntry} {es : List TsEntry} (oldest : tsRing u i = e :: es) :
    sdlMbx .SDL_TSR a i u = mbxAnswer { u with sdl := { u.sdl with rings := tset u.sdl.rings i es } } a 0
      [w32 (bitAt e.gap 31 + bitAt e.dropped 30 + e.tag), w32 (e.ns % 1000000000), w32 (e.ns / 1000000000), w32 (e.ns / 1000000000 / 2 ^ 32)] := by
  simp only [sdlMbx, read, op, oldest, bne_self_eq_false, Bool.or_self, Bool.false_eq_true, if_false]

end

section
variable {s : State} {mid op : Nat} (small : op < 256)
include small

theorem act_sdlTime (free : Free s mid 0x200080) : act s (fun s => mbxRequest s mid 0x200080 op false 0 []) =
    .next (respond (angleSweep (sdlMbx .SDL_TIME 0x200080 0 (asks s mid 0x200080 op false 0 []))) {}) := by
  rw [act_up free.1, request_sdlTime s mid op 0 false [] free small, written_nil]

theorem act_sdlAngNow (free : Free s mid 0x203080) : act s (fun s => mbxRequest s mid 0x203080 op false 0 []) =
    .next (respond (angleSweep (sdlMbx .SDL_ANG_NOW 0x203080 0 (asks s mid 0x203080 op false 0 []))) {}) := by
  rw [act_up free.1, request_sdlAngNow s mid op 0 false [] free small, written_nil]

theorem act_sdlTsr (m : Fin 16) (free : Free s mid (0x202040 + 0x40 * m.val)) :
    act s (fun s => mbxRequest s mid (0x202040 + 0x40 * m.val) op false 0 []) = .next (respond (angleSweep
      (sdlMbx .SDL_TSR (0x202040 + 0x40 * m.val) m.val (asks s mid (0x202040 + 0x40 * m.val) op false 0 []))) {}) := by
  rw [act_up free.1, request_sdlTsr m s mid op 0 false [] free small, written_nil]

end

/-- Settles O26: each read by its mailbox's request. -/
theorem timeReads : Obligations.TimeReads := by
  intro s mid
  refine ⟨fun free => ⟨?_, fun never => ?_, fun c t edge => ?_⟩, fun free => ⟨fun off => ?_, fun on => ?_⟩,
    fun m free => ⟨fun empty => ?_, fun e es oldest => ?_⟩⟩
  · refine (act_sdlTime (op := 1) (by decide) free).trans ?_
    rw [sdlMbx_now (asks_wr ..) (asks_op ..)]
    rfl
  · refine (act_sdlTime (op := 2) (by decide) free).trans ?_
    rw [sdlMbx_ppsin (asks_wr ..) (asks_op ..), asks_sdl, never]
    rfl
  · refine (act_sdlTime (op := 2) (by decide) free).trans ?_
    rw [sdlMbx_ppsin (asks_wr ..) (asks_op ..), asks_sdl, edge]
    rfl
  · refine (act_sdlAngNow (op := 1) (by decide) free).trans ?_
    rw [sdlMbx_angNow (asks_wr ..) (asks_op ..), angNowWords, asks_ang, if_pos off]
  · refine (act_sdlAngNow (op := 1) (by decide) free).trans ?_
    rw [sdlMbx_angNow (asks_wr ..) (asks_op ..), angNowWords, asks_ang, if_neg on]
    rfl
  · refine (act_sdlTsr (op := 1) (by decide) m free).trans ?_
    rw [sdlMbx_ringEmpty (asks_wr ..) (asks_op ..) empty]
  · refine (act_sdlTsr (op := 1) (by decide) m free).trans ?_
    rw [sdlMbx_ringOldest (asks_wr ..) (asks_op ..) oldest]
    rfl

/-! ### Adjustments requested (R118–R124) -/

theorem adjRefusal_congr {s u : State} (sdl : u.sdl = s.sdl) (field : ∀ f, fget u f = fget s f) (op d0 d1 : Nat) :
    adjRefusal u op d0 d1 = adjRefusal s op d0 d1 := by
  rw [adjRefusal, adjRefusal, genActive, genActive, sdl, field]

section
variable {s : State} {op d0 d1 : Nat}

/-- The test passes while no ticks are produced, for an INCR, and for a STEP within its bound. -/
theorem adjRefusal_none (h : s.sdl.gen = .stopped ∨ op = 0x12 ∨ op = 0x11 ∧ (stepAmount d0 d1).natAbs ≤ fget s Fld.SDL_STEP_MAX_NS * 2 ^ 32) :
    adjRefusal s op d0 d1 = none := by
  rcases h with still | rfl | ⟨rfl, within⟩
  · simp [adjRefusal, genActive, still]
  · simp [adjRefusal]
  · have fits : ¬ (0x11 = 0x11 ∧ fget s Fld.SDL_STEP_MAX_NS * 2 ^ 32 < (stepAmount d0 d1).natAbs) := fun h => Nat.not_lt.2 within h.2
    rw [adjRefusal, if_neg (by decide : ¬ (0x11 = 0x10)), if_neg fits, ite_self]

/-- While ticks are produced a SET is refused, and a STEP beyond its bound. -/
theorem adjRefusal_some {code : Nat} (on : s.sdl.gen ≠ .stopped) (h : op = 0x10 ∧ code = 0x05 ∨
    op = 0x11 ∧ fget s Fld.SDL_STEP_MAX_NS * 2 ^ 32 < (stepAmount d0 d1).natAbs ∧ code = 0x02) : adjRefusal s op d0 d1 = some code := by
  have active : ¬ (!genActive s) = true := by simp [genActive, on]
  rcases h with ⟨rfl, rfl⟩ | ⟨rfl, beyond, rfl⟩
  · rw [adjRefusal, if_neg active, if_pos rfl]
  · rw [adjRefusal, if_neg active, if_neg (by decide), if_pos ⟨rfl, beyond⟩]

end

/-- A request refused: recorded, and ended with its CODE (R124). -/
def adjRefused (u : State) (b : Mbx) (code : Nat) : State :=
  mbxEnd (record u 0x0502 0x300D [b.op, code, b.w 0, u.sdl.raw % 2 ^ 32, u.sdl.raw / 2 ^ 32]) sdlAdjMbx code

/-- The tests of a request, in their order, and what it leaves. -/
theorem adjTake_eq {u : State} {b : Mbx} {at_ gap : Nat} (hb : mbxAt u sdlAdjMbx = b) (wr : b.wr = true) (op : b.op ∈ [0x10, 0x11, 0x12])
    (hat : at_ = if b.arg % 2 = 1 then (u.sdl.raw + 64) % 2 ^ 64 else b.w2 4) (hgap : gap = (at_ + 2 ^ 64 - u.sdl.raw) % 2 ^ 64) :
    adjTake u = if gap < 64 then adjRefused u b 0x03 else if 2 ^ 32 < gap then adjRefused u b 0x04
      else (adjRefusal u b.op (b.w 0) (b.w 1)).elim { u with sdl := { u.sdl with adj := some ⟨b.op, at_, b.w 0, b.w 1, b.w 2, b.w 3⟩ } }
        fun code => adjRefused (cinc u Fld.SDL_STEP_REJ_COUNT) b code := by
  have known : (b.op == 0x10 || b.op == 0x11 || b.op == 0x12) = true := by
    simp only [List.mem_cons, List.not_mem_nil, or_false] at op
    rcases op with e | e | e <;> rw [e] <;> rfl
  subst hat hgap
  unfold adjTake
  rw [hb]
  simp only [wr, known, Bool.not_true, Bool.or_self, Bool.false_eq_true, if_false]
  cases adjRefusal u b.op (b.w 0) (b.w 1) <;> rfl

/-- Settles O27: the three requests by one argument. -/
theorem adjustmentsTaken : Obligations.AdjustmentsTaken := by
  intro s mid arg d c op free few hc at_ gap q hat hgap hq
  have command : op ∈ [0x10, 0x11, 0x12] ∧ exec c s = act s fun s => mbxRequest s mid.toNat 0x2000C0 op true arg.toNat d := by
    simp only [List.mem_cons, List.not_mem_nil, or_false, Prod.mk.injEq] at hc
    rcases hc with ⟨rfl, rfl⟩ | ⟨rfl, rfl⟩ | ⟨rfl, rfl⟩ <;> exact ⟨by decide, rfl⟩
  obtain ⟨known, command⟩ := command
  have small : op < 256 := by
    simp only [List.mem_cons, List.not_mem_nil, or_false] at known
    omega
  have sdl : q.sdl = s.sdl := by rw [hq, asks_sdl, written_sdl]
  have field (f : FieldRef) : fget q f = fget s f := by rw [hq, fget_asks, fget_written]
  have number : (mbxAt q sdlAdjMbx).op = op := by rw [hq, sdlAdjMbx, asks_op]
  have words (i : Nat) : (mbxAt q sdlAdjMbx).w i = word s 0x2000C0 d i := by
    rw [hq]
    exact asks_word s mid.toNat 0x2000C0 op arg.toNat true d few i
  have index : (mbxAt q sdlAdjMbx).arg = arg.toNat := by
    rw [hq, sdlAdjMbx, asks_arg]
    exact Nat.mod_eq_of_lt arg.isLt
  have taken := adjTake_eq (u := q) (gap := gap) rfl (by rw [hq, sdlAdjMbx, asks_wr]) (by rw [number]; exact known)
    (at_ := at_) (by rw [index, sdl, Mbx.w2, words, words]; exact hat) (by rw [sdl]; exact hgap)
  have done : exec c s = .next (respond (angleSweep (adjTake q)) {}) := by
    rw [command, act_up free.1, request_sdlAdj s mid.toNat op arg.toNat true d free small, ← hq]
    rfl
  simp only [adjRefused, number, words, sdl, cinc_sdl, adjRefusal_congr sdl field] at taken
  rw [done, taken]
  refine ⟨fun near far pass => ?_, fun code wrong => ?_, fun code near far on wrong => ?_⟩
  · rw [if_neg (Nat.not_lt.2 near), if_neg (Nat.not_lt.2 far), adjRefusal_none pass]
    rfl
  · rcases wrong with ⟨near, rfl⟩ | ⟨far, rfl⟩
    · rw [if_pos near]
      rfl
    · rw [if_neg (by omega), if_pos far]
      rfl
  · rw [if_neg (Nat.not_lt.2 near), if_neg (Nat.not_lt.2 far), adjRefusal_some on wrong]
    rfl

/-! ### Adjustments at their application count (R118–R120, R123, R124, R131) -/

/-- The time computation that an adjustment leaves: T is set, stepped, or continues under a new increment (R118–R120, R131). -/
def adjusted (d : Sundial) (j : Adjust) : Sundial :=
  if j.op = 0x10 then { d with
    adj := none, rawBase := j.at_, past := (d.base, d.rawBase, d.inc) :: d.past, base := setValue j.d0 j.d1 j.d2 j.d3,
    ppsMarked := secondsPast (setValue j.d0 j.d1 j.d2 j.d3) }
  else if j.op = 0x11 then { d with
    adj := none, rawBase := j.at_, past := (d.base, d.rawBase, d.inc) :: d.past, base := ((timeAt d j.at_ : Int) + stepAmount j.d0 j.d1).toNat }
  else { d with
    adj := none, rawBase := j.at_, past := (d.base, d.rawBase, d.inc) :: d.past, base := timeAt d j.at_,
    inc := clampTo 0xFFBE76C9 0x100418937 (j.d0 + 2 ^ 32 * j.d1) }

section
variable {s : State} {j : Adjust} (held : s.sdl.adj = some j) (due : (s.sdl.raw + 2 ^ 64 - j.at_) % 2 ^ 64 < 2 ^ 63)
include held due

/-- What the test at c_A refuses, or a STEP below zero, ends counted and recorded (R124). -/
theorem adjApply_refused {code : Nat} (h : adjRefusal s j.op j.d0 j.d1 = some code ∨
    (adjRefusal s j.op j.d0 j.d1 = none ∧ j.op = 0x11 ∧ (timeAt s.sdl j.at_ : Int) + stepAmount j.d0 j.d1 < 0 ∧ code = 0x07)) :
    adjApply s = mbxEnd (record (cinc { s with sdl := { s.sdl with adj := none } } Fld.SDL_STEP_REJ_COUNT) 0x0502 0x300D
      [j.op, code, j.d0, j.at_ % 2 ^ 32, j.at_ / 2 ^ 32]) sdlAdjMbx code := by
  unfold adjApply
  simp only [held, ge_iff_le, Nat.not_le.2 due, if_false]
  rcases h with refused | ⟨pass, step, below, rfl⟩
  · simp only [refused]
  · simp only [pass, if_pos (And.intro step below)]

/-- What passes the test is applied, recorded, and ends with 0x00. -/
theorem adjApply_applied (pass : adjRefusal s j.op j.d0 j.d1 = none)
    (above : j.op = 0x11 → 0 ≤ (timeAt s.sdl j.at_ : Int) + stepAmount j.d0 j.d1) :
    adjApply s = mbxEnd (record { publishTo s j.at_ with sdl := adjusted s.sdl j } 0x0501 0x300D
      [j.op, j.d0, j.d1, j.at_ % 2 ^ 32, j.at_ / 2 ^ 32, if j.op = 0x10 then j.d2 else 0]) sdlAdjMbx 0 := by
  have stays : ¬ (j.op = 0x11 ∧ (timeAt s.sdl j.at_ : Int) + stepAmount j.d0 j.d1 < 0) := fun h => Int.not_lt.2 (above h.1) h.2
  unfold adjApply adjusted
  simp only [held, ge_iff_le, Nat.not_le.2 due, pass, stays, if_false]
  by_cases set : j.op = 0x10
  · simp only [set, if_true]
    rfl
  by_cases step : j.op = 0x11
  · simp only [step, if_true]
    rfl
  · simp only [set, step, if_false]
    rfl

end

/-- Settles O28: what passes the test at c_A and what does not. That the values before c_A stay for the counts before it is log 90. -/
theorem adjustmentsApplied : Obligations.AdjustmentsApplied := by
  intro s j up held due
  have e : exec .adjustApply s = act s fun s => angleSweep (adjApply s) := rfl
  rw [e, act_up up]
  refine ⟨fun pass above => ?_, fun code h => ?_⟩
  · rw [adjApply_applied held due pass above]
    rfl
  · rw [adjApply_refused held due h]
    rfl

/-! ### The tick generator (R125, R128, R131, R132, R658) -/

/-- The fields of SDL_CTRL written: PPS_OUT_EN, TICK_OUT_EN and TICK_RUN. -/
def ctrlWritten (s : State) (p q r : Nat) : State := fset (fset (fset s Fld.SDL_CTRL_PPS_OUT_EN p) Fld.SDL_CTRL_TICK_OUT_EN q) Fld.SDL_CTRL_TICK_RUN r

section
variable (s : State) (p q r : Nat)

theorem ctrlWritten_eq : ctrlWritten s p q r = { s with reg := { s.reg with fields := (ctrlWritten s p q r).reg.fields } } := rfl

theorem fget_ctrlWritten_run : fget (ctrlWritten s p q r) Fld.SDL_CTRL_TICK_RUN = r := fget_fset _ _ _

theorem fget_ctrlWritten_tick : fget (ctrlWritten s p q r) Fld.SDL_CTRL_TICK_OUT_EN = q := by
  rw [ctrlWritten, fget_fset_ne _ _ _ _ (by decide), fget_fset]

theorem fget_ctrlWritten_pps : fget (ctrlWritten s p q r) Fld.SDL_CTRL_PPS_OUT_EN = p := by
  rw [ctrlWritten, fget_fset_ne _ _ _ _ (by decide), fget_fset_ne _ _ _ _ (by decide), fget_fset]

theorem fget_ctrlWritten_ne {f : FieldRef} (h : fkey f ∉ [fkey Fld.SDL_CTRL_TICK_RUN, fkey Fld.SDL_CTRL_PPS_OUT_EN, fkey Fld.SDL_CTRL_TICK_OUT_EN]) :
    fget (ctrlWritten s p q r) f = fget s f := by
  simp only [List.mem_cons, List.not_mem_nil, or_false, not_or] at h
  obtain ⟨run, pps, tick⟩ := h
  rw [ctrlWritten, fget_fset_ne _ _ _ _ run, fget_fset_ne _ _ _ _ tick, fget_fset_ne _ _ _ _ pps]

end

/-- A value of an SDL register is followed by the end of a run that waits for it, and by the frames that wait for alarms. -/
theorem follow_sdl (o t : State) (w : Staged) (h : 0x200000 ≤ w.addr ∧ w.addr < 0x300000) : follow o t (lands [w]) = angleSweep (stopEnd t) := by
  have here : lands [w] .sdl = true := by
    simp only [lands, List.any_cons, List.any_nil, Bool.or_false, Block.base, Bool.and_eq_true]
    exact ⟨decide_eq_true h.1, decide_eq_true (by omega)⟩
  have out (c : Block) (hc : c ∈ [Block.mac, .svi, .cas, .ltn, .blv, .cyc]) : lands [w] c = false := by
    refine lands_out w c (.inl ?_)
    simp only [List.mem_cons, List.not_mem_nil, or_false] at hc
    rcases hc with rfl | rfl | rfl | rfl | rfl | rfl <;> simp only [Block.base] <;> omega
  simp only [follow, here, out .mac (by simp), out .svi (by simp), out .cas (by simp), out .ltn (by simp), out .blv (by simp), out .cyc (by simp),
    Bool.or_self, Bool.false_eq_true, if_true, if_false]

theorem clampTo_flag {v : Nat} (h : v < 2) : clampTo 0 1 v = v := by
  unfold clampTo
  omega

theorem bits_flag (v i : Nat) : bits v i i < 2 := by
  unfold bits
  rw [Nat.sub_self, Nat.zero_add, Nat.pow_one]
  omega

theorem regAt_sdlCtrl : ∃ l, regAt 0x200040 = some l ∧ l.desc.name = .sdl .SDL_CTRL ∧ l.desc.mbx = false ∧ l.addr = 0x200040 ∧
    l.page.base = 0x200000 ∧ l.desc.fields =
      [⟨2, 2, .rw, false, 0, 0, 1, .none⟩, ⟨1, 1, .rw, false, 0, 0, 1, .none⟩, ⟨0, 0, .rw, false, 0, 0, 1, .none⟩] :=
  ⟨_, rfl, rfl, rfl, rfl, rfl, rfl⟩

/-- A write of SDL_CTRL: the generator follows TICK_RUN, and the pins their enables. -/
theorem meshWrite_sdlCtrl {s : State} {mid : Nat} (v : Nat) (may : mayWrite s mid 0x200040 = true) (unlocked : locked s 0x200000 = false)
    (unclaimed : claimedBy s 0x200000 = none) : meshWrite s mid 0x200040 v = respond (angleSweep (stopEnd (pinsFollow (genFollow
      (ctrlWritten s (bits (v % 2 ^ 32) 2 2) (bits (v % 2 ^ 32) 1 1) (bits (v % 2 ^ 32) 0 0)))))) {} := by
  obtain ⟨l, hl, name, mbx, addr, base, fields⟩ := regAt_sdlCtrl
  have here : 0x200000 ≤ 0x200040 ∧ 0x200040 < 0x300000 := by decide
  have written : l.desc.fields.foldl (fun t f => fset t (refOf l f) (clampTo f.min f.max (bits (v % 2 ^ 32) f.hi f.lo))) s =
      ctrlWritten s (bits (v % 2 ^ 32) 2 2) (bits (v % 2 ^ 32) 1 1) (bits (v % 2 ^ 32) 0 0) := by
    simp only [fields, List.foldl_cons, List.foldl_nil, clampTo_flag (bits_flag _ _), refOf, addr, fieldReset]
    rfl
  rw [meshWrite_plain s mid 0x200040 v l hl may (by decide) (by decide) mbx (by simp [name]) addr (by simp [fields]) (by simp [fields])
    (by rw [base]; exact unclaimed) (by rw [base]; exact unlocked) (by simp only [ignores, name]) (by simp [name]),
    follow_sdl _ _ _ here, written]
  simp only [changed, hl, name, sdlChanged]

theorem genFollow_start {s : State} (run : fget s Fld.SDL_CTRL_TICK_RUN = 1) (page : enabled s 0x200000 = true) (still : s.sdl.gen = .stopped) :
    genFollow s = genStart s := by
  simp only [genFollow, fbit, run, page, still, beq_self_eq_true, Bool.and_self, if_true]

theorem genFollow_stop {s : State} (run : fget s Fld.SDL_CTRL_TICK_RUN = 0) (on : s.sdl.gen ≠ .stopped) : genFollow s = genStop s := by
  simp [genFollow, fbit, run, on]

/-- The fields of SDL_CTRL with TICK_RUN set, and the generator started with it: at the first second at least 1 µs ahead, the pins only where they
are enabled. -/
def ctrlStarted (s : State) (p q : Nat) : State := { ctrlWritten s p q 1 with sdl := { s.sdl with
  gen := .starting, startSec := (timeNow s + 1000 * nsUnit + secUnit - 1) / secUnit, startRate := fget s Fld.SDL_BASE_RATE_REQ
  next := (timeNow s + 1000 * nsUnit + secUnit - 1) / secUnit * rateHz (fget s Fld.SDL_BASE_RATE_REQ)
  nextSec := (timeNow s + 1000 * nsUnit + secUnit - 1) / secUnit, nextN := 0
  pps := s.sdl.pps && fbit (ctrlWritten s p q 1) Fld.SDL_CTRL_PPS_OUT_EN
  tickOut := s.sdl.tickOut && fbit (ctrlWritten s p q 1) Fld.SDL_CTRL_TICK_OUT_EN } }

/-- The fields of SDL_CTRL with TICK_RUN cleared, and the generator stopped with it. -/
def ctrlStopped (s : State) (p q : Nat) : State := { ctrlWritten s p q 0 with sdl := { s.sdl with gen := .stopped, stopDue := true } }

section
variable {s : State} (p q : Nat)

/-- TICK_RUN set while no ticks are produced. -/
theorem sdlCtrl_starts (page : enabled s 0x200000 = true) (still : s.sdl.gen = .stopped) :
    pinsFollow (genFollow (ctrlWritten s p q 1)) = ctrlStarted s p q := by
  have rate : fget (ctrlWritten s p q 1) Fld.SDL_BASE_RATE_REQ = fget s Fld.SDL_BASE_RATE_REQ := fget_ctrlWritten_ne s p q 1 (by decide)
  have written : enabled (ctrlWritten s p q 1) 0x200000 = true := by
    rw [enabled, fbit, fget_ctrlWritten_ne s p q 1 (by decide)]
    exact page
  have started : enabled (genStart (ctrlWritten s p q 1)) 0x200000 = true := written
  rw [genFollow_start (fget_ctrlWritten_run s p q 1) written still]
  simp only [pinsFollow, started, Bool.and_true]
  simp only [genStart, rate]
  rfl

/-- TICK_RUN cleared while ticks are produced: the generator stops with its record, and the pins follow their enables. -/
theorem sdlCtrl_stops (on : s.sdl.gen ≠ .stopped) : pinsFollow (genFollow (ctrlWritten s p q 0)) =
    pinsFollow (record (ctrlStopped s p q) 0x0503 0x300D [0, s.sdl.last.getD 0 % 2 ^ 32, s.sdl.last.getD 0 / 2 ^ 32, s.sdl.rateAct]) := by
  rw [genFollow_stop (fget_ctrlWritten_run s p q 0) on]
  rfl

end

/-- Settles O29: a write of SDL_CTRL with TICK_RUN = 1, and with 0. -/
theorem tickGenerator : Obligations.TickGenerator := by
  intro s mid up may unlocked unclaimed
  have start : exec (.tickGeneratorStart mid) s = act s fun s => meshWrite s mid.toNat 0x200040
    (fget s Fld.SDL_CTRL_PPS_OUT_EN * 4 + fget s Fld.SDL_CTRL_TICK_OUT_EN * 2 + 1) := rfl
  have stop : exec (.tickGeneratorStop mid) s = act s fun s => meshWrite s mid.toNat 0x200040
    (fget s Fld.SDL_CTRL_PPS_OUT_EN * 4 + fget s Fld.SDL_CTRL_TICK_OUT_EN * 2) := rfl
  rw [start, stop, act_up up, act_up up, meshWrite_sdlCtrl _ may unlocked unclaimed, meshWrite_sdlCtrl _ may unlocked unclaimed]
  generalize fget s Fld.SDL_CTRL_PPS_OUT_EN = a
  generalize fget s Fld.SDL_CTRL_TICK_OUT_EN = b
  refine ⟨fun still page => ?_, fun on => ?_⟩
  · have run : bits ((a * 4 + b * 2 + 1) % 2 ^ 32) 0 0 = 1 := by simp only [bits]; omega
    have keep (h : a ≤ 1) (k : b ≤ 1) : bits ((a * 4 + b * 2 + 1) % 2 ^ 32) 2 2 = a ∧ bits ((a * 4 + b * 2 + 1) % 2 ^ 32) 1 1 = b := by
      simp only [bits]
      omega
    rw [run]
    generalize bits ((a * 4 + b * 2 + 1) % 2 ^ 32) 2 2 = p at keep ⊢
    generalize bits ((a * 4 + b * 2 + 1) % 2 ^ 32) 1 1 = q at keep ⊢
    refine ⟨ctrlStarted s p q, _, by rw [sdlCtrl_starts p q page still], rfl, fget_ctrlWritten_run s p q 1, rfl, fun h k => ?_, rfl,
      fun f hf => fget_ctrlWritten_ne s p q 1 hf⟩
    obtain ⟨hp, hq⟩ := keep h k
    exact ⟨(fget_ctrlWritten_pps s p q 1).trans hp, (fget_ctrlWritten_tick s p q 1).trans hq⟩
  · have run : bits ((a * 4 + b * 2) % 2 ^ 32) 0 0 = 0 := by simp only [bits]; omega
    rw [run]
    generalize bits ((a * 4 + b * 2) % 2 ^ 32) 2 2 = p
    generalize bits ((a * 4 + b * 2) % 2 ^ 32) 1 1 = q
    refine ⟨_, ctrlStopped s p q, by rw [sdlCtrl_stops p q on], fget_ctrlWritten_run s p q 0, rfl, fun f hf => fget_ctrlWritten_ne s p q 0 hf, ?_⟩
    simp only [pinsFollow, record_sdl]

/-! ### The time pins and launches (R119, R120, R131–R133, R146, R149, R151) -/

/-- PPS_OUT rises at a second that no rise has marked. -/
theorem ppsRise_due {s : State} (driven : ppsDriven s = true) (fresh : ∀ m, s.sdl.ppsMarked = some m → m < timeNow s / secUnit) :
    ppsRise s = { s with sdl := { s.sdl with pps := true, ppsMarked := some (timeNow s / secUnit), ppsRise := timeNow s } } := by
  unfold ppsRise
  cases marked : s.sdl.ppsMarked with
  | none => simp only [driven, Bool.and_self, if_true]
  | some m => simp only [driven, decide_eq_true (fresh m marked), Bool.and_self, if_true]

theorem ppsFall_due {s : State} (high : s.sdl.pps = true) (due : s.sdl.ppsRise + fget s Fld.SDL_PPS_WIDTH_US * 1000 * nsUnit ≤ timeNow s) :
    ppsFall s = { s with sdl := { s.sdl with pps := false } } := by
  simp only [ppsFall, high, due, decide_true, Bool.and_self, if_true]

theorem tickOutFall_due {s : State} (high : s.sdl.tickOut = true)
    (due : s.sdl.tickOutAt + fget s Fld.SDL_TICKOUT_WIDTH * 100 * nsUnit ≤ timeNow s) :
    tickOutFall s = { s with sdl := { s.sdl with tickOut := false } } := by
  simp only [tickOutFall, high, due, decide_true, Bool.and_self, if_true]

theorem ppsInEdge_taken {s : State} (page : enabled s 0x200000 = true) : ppsInEdge s = cinc { s with sdl := { s.sdl with
    ppsIn := some ((s.sdl.raw + 2 ^ 64 - 3) % 2 ^ 64, timePast s.sdl ((s.sdl.raw + 2 ^ 64 - 3) % 2 ^ 64)), ppsSeq := (s.sdl.ppsSeq + 1) % 2 ^ 32 } }
    Fld.SDL_PPSIN_EVT_COUNT := by
  simp only [ppsInEdge, page, Bool.not_true, Bool.false_eq_true, if_false]

/-- A count from the base on is timed by the values in force. -/
theorem timeUnderAny_newest {e : Nat × Nat × Nat} (es : List (Nat × Nat × Nat)) {c : Nat} (h : fromBase e.2.1 c = true) :
    timeUnderAny e es c = e.1 + (c + 2 ^ 64 - e.2.1) % 2 ^ 64 * e.2.2 := by
  cases es <;> simp only [timeUnderAny, timeUnder, h, if_true]

/-- A count before the base is timed by the values before. -/
theorem timeUnderAny_before (e e' : Nat × Nat × Nat) (es : List (Nat × Nat × Nat)) {c : Nat} (h : fromBase e.2.1 c = false) :
    timeUnderAny e (e' :: es) c = timeUnderAny e' es c := by
  simp only [timeUnderAny, h, Bool.false_eq_true, if_false]

theorem launchDrop_late {s : State} {m c : Nat} {f : Frame} {l : Nat} (head : headOf s m c = some f) (launch : f.launch = .due l)
    (late : enabled s 0x201000 = false ∨ l + fget s (Fld.SDL_P_LATE_LIMIT m) * nsUnit ≤ timeNow s + fget s (Fld.SDL_P_LAT_TX_LAT m) * 2 ^ 28) :
    launchDrop s m c = takeHead (stampDrop (cinc s (Fld.SDL_P_LTLATE_COUNT m)) m f) m c := by
  have drops : launchLate s m f = true := by
    rcases late with off | closed
    · simp only [launchLate, launch, off, Bool.not_false, Bool.true_or]
    · simp only [launchLate, launch, closed, decide_true, Bool.or_true]
  simp only [launchDrop, head, drops, if_true]

/-- Settles O31: each pin, the time of a count that has passed (by the values then in force, log 90), and the launch, by their operations. -/
theorem timePins : Obligations.TimePins := by
  intro s up
  have rise : exec .ppsOutRise s = act s ppsRise := rfl
  have fall : exec .ppsOutFall s = act s ppsFall := rfl
  have tick : exec .tickOutFall s = act s tickOutFall := rfl
  have edge : exec .ppsInEdge s = act s ppsInEdge := rfl
  have drop (m : Fin 16) (c : Fin 8) : exec (.launchLateDrop m c) s = act s fun s => launchDrop s m.val c.val := rfl
  simp only [rise, fall, tick, edge, drop, act_up up]
  refine ⟨fun driven fresh => ?_, fun high due => ?_, fun high due => ?_, fun page => ?_, fun c now => ?_, fun c e es before past was => ?_,
    fun m c f l head launch late => ?_⟩
  · rw [ppsRise_due driven fresh]
  · rw [ppsFall_due high due]
  · rw [tickOutFall_due high due]
  · rw [ppsInEdge_taken page]
  · exact timeUnderAny_newest s.sdl.past now
  · rw [timePast, past, timeUnderAny_before _ e es before, timeUnderAny_newest es was]
  · rw [launchDrop_late head launch late]

/-! ### Frames received (R135, R180, R182–R192, R199, R200, R224, R430) -/

theorem fget_macCount_ne (s : State) (m : Nat) {f : Nat → FieldRef} {g : FieldRef} (h : fkey g ≠ fkey (f m)) : fget (macCount s m f) g = fget s g := by
  unfold macCount
  split
  · exact fget_cinc_ne s (f m) g h
  · rfl

theorem macCount_cru (s : State) (m : Nat) (f : Nat → FieldRef) : (macCount s m f).cru = s.cru := by
  unfold macCount
  split <;> rfl

/-- A count of good frames leaves the PHY mode in force as it is. -/
theorem phyAct_macCount_ok (s : State) (m j : Nat) : phyAct (macCount s m Fld.MAC_RX_OK_COUNT) j = phyAct s j := by
  have page : fkey (hEn (macPage j 0)) ≠ fkey (Fld.MAC_RX_OK_COUNT m) := by
    simp only [fkey, hEn, macPage, Fld.MAC_RX_OK_COUNT]
    omega
  have phy : fkey (Fld.MAC_MODE_PHY j) ≠ fkey (Fld.MAC_RX_OK_COUNT m) := by
    simp only [fkey, Fld.MAC_MODE_PHY, Fld.MAC_RX_OK_COUNT]
    omega
  have up : portUp (macCount s m Fld.MAC_RX_OK_COUNT) j = portUp s j := by
    rw [portUp, portUp, portEnabled, portEnabled, enabled, enabled, fbit, fbit, fget_macCount_ne s m page, macCount_cru]
  rw [phyAct, phyAct, up, phyOf, phyOf, fget_macCount_ne s m phy]

/-- A count of good frames leaves the mode of a pair as it is. -/
theorem pairMode_macCount_ok (s : State) (m k : Nat) : pairMode (macCount s m Fld.MAC_RX_OK_COUNT) k = pairMode s k := by
  have mode (j : Nat) : fkey (Fld.MAC_PAIR_MODE j) ≠ fkey (Fld.MAC_RX_OK_COUNT m) := by
    simp only [fkey, Fld.MAC_PAIR_MODE, Fld.MAC_RX_OK_COUNT]
    omega
  unfold pairMode
  cases pairLow k with
  | none => rfl
  | some l => simp only [phyAct_macCount_ok, fget_macCount_ne s m (mode l)]

/-- A frame that the port does not take whole is not looked at for the partner's heartbeat. -/
theorem receiveFrame_untaken {s : State} {m : Nat} {bs : List Nat} {ok : Bool} (age : Nat) (h : takesFrame s m bs ok = false) :
    receiveFrame s m bs ok age = frameReceive s m bs ok age := by
  simp only [receiveFrame, h, Bool.false_eq_true, if_false]

/-- A port that is not up or has no link takes nothing. -/
theorem receiveFrame_down {s : State} {m : Nat} (bs : List Nat) (ok : Bool) (age : Nat) (h : portUp s m = false ∨ (portOf s m).link = false) :
    receiveFrame s m bs ok age = s := by
  have down : (portUp s m && (portOf s m).link) = false := by rcases h with h | h <;> simp [h]
  have still : (!portUp s m || !(portOf s m).link) = true := by rcases h with h | h <;> simp [h]
  rw [receiveFrame_untaken age (by simp only [takesFrame, down, Bool.false_and]), frameReceive, if_pos still]

/-- A whole frame on a port in no redundant pair, as the port hands it on. -/
def receivedFrame (q : State) (m : Nat) (bs : List Nat) (age : Nat) : Frame := {
  bytes := bs, src := m, tc := classFor q m (prioOf q m bs), prio := prioOf q m bs, fcs := some (crc32 bs), ts := rxStamp q m age,
  lanb := decide (m < 12) && m % 2 == 1 }

section
variable {s : State} {m : Nat} (up : portUp s m = true) (link : (portOf s m).link = true)
include up link

theorem receiveFrame_mx0 (bs : List Nat) (ok : Bool) (age : Nat) (h : m = 15) : receiveFrame s m bs ok age = macCount s m Fld.MAC_RX_FILT_COUNT := by
  subst h
  rw [receiveFrame_untaken age (by simp [takesFrame])]
  simp only [frameReceive, up, link, Bool.not_true, Bool.or_self, Bool.false_eq_true, if_false, if_true]

theorem receiveFrame_rxOff (bs : List Nat) (ok : Bool) (age : Nat) (h : m ≠ 15) (off : fbit s (Fld.MAC_MODE_RXEN m) = false) :
    receiveFrame s m bs ok age = s := by
  rw [receiveFrame_untaken age (by simp [takesFrame, off])]
  simp only [frameReceive, up, link, h, off, Bool.not_true, Bool.not_false, Bool.or_self, Bool.false_eq_true, if_false, if_true]

section
variable (on : fbit s (Fld.MAC_MODE_RXEN m) = true)
include on

/-- A Footbridge port of a pair in operation takes the pair's own frames, and counts the others. -/
theorem receiveFrame_pair (age : Nat) {bs : List Nat} (pair : pairOp s = true) (h : m = 12 ∨ m = 13) (whole : 60 ≤ bs.length)
    (fits : bs.length + 4 ≤ 9600) : receiveFrame s m bs true age = if etherType bs = 0x88B5 then macCount s m Fld.MAC_RX_OK_COUNT
      else cinc (macCount s m Fld.MAC_RX_OK_COUNT) Fld.FTB_FOREIGN_COUNT := by
  have here : (m == 12 || m == 13) = true := by simpa using h
  have other : m ≠ 15 := by omega
  have long : ¬ bs.length + 4 < 64 := by omega
  rw [receiveFrame_untaken age (by simp [takesFrame, pair, here])]
  simp only [frameReceive, up, link, on, other, pair, here, long, fits, Nat.not_lt.2 fits, Bool.not_true, Bool.or_self, Bool.and_self, Bool.and_false,
    Bool.false_eq_true, if_false, if_true, decide_false]

section
variable (ext : m ≠ 15) {bs : List Nat} (age : Nat)
include ext

theorem receiveFrame_runt (ok : Bool) (short : bs.length + 4 < 64) : receiveFrame s m bs ok age = macCount s m Fld.MAC_RX_RUNT_COUNT := by
  have less : ¬ 60 ≤ bs.length := by omega
  rw [receiveFrame_untaken age (by simp [takesFrame, less])]
  simp only [frameReceive, up, link, on, ext, short, Bool.not_true, Bool.or_self, Bool.false_eq_true, if_false, if_true]

variable (alone : pairOp s = false) (long : 64 ≤ bs.length + 4) (fits : bs.length + 4 ≤ fget s (Fld.MAC_MAXLEN_LEN m))
include alone long fits

theorem receiveFrame_badFcs : receiveFrame s m bs false age = macCount s m Fld.MAC_RX_FCS_COUNT := by
  rw [receiveFrame_untaken age (by simp [takesFrame])]
  simp only [frameReceive, up, link, on, ext, alone, Nat.not_lt.2 long, fits, Bool.false_and, Bool.not_true, Bool.not_false, Bool.or_self, Bool.and_self,
    Bool.false_eq_true, if_false, if_true, decide_true]

theorem receiveFrame_whole (single : pairMode s m = 0) : receiveFrame s m bs true age =
    ghbReceive (rxDeliver (macCount s m Fld.MAC_RX_OK_COUNT) m (receivedFrame (macCount s m Fld.MAC_RX_OK_COUNT) m bs age) []) bs := by
  have octets : 60 ≤ bs.length := by omega
  have taken : takesFrame s m bs true = true := by simp [takesFrame, up, link, on, ext, alone, octets, fits]
  have delivered : frameReceive s m bs true age =
      rxDeliver (macCount s m Fld.MAC_RX_OK_COUNT) m (receivedFrame (macCount s m Fld.MAC_RX_OK_COUNT) m bs age) [] := by
    simp only [frameReceive, up, link, on, ext, alone, Nat.not_lt.2 long, fits, Nat.not_lt.2 fits, Bool.false_and, Bool.not_true, Bool.or_self,
      Bool.and_false, Bool.false_eq_true, if_false, decide_true, decide_false, pairMode_macCount_ok, single]
    rfl
  simp only [receiveFrame, taken, delivered, if_true]

end
end
end

/-- An address passes by its hash bin alone (R188). -/
def passesByHash (q : State) (m a : Nat) : Bool :=
  isGroup a && a != 0xFFFFFFFFFFFF && hashHit q m a && !exactHit q m a && !fbit q (Fld.MAC_RXF_ALLMC m)

/-- Rules 2 to 4 of R188: a frame that is not for rule 1 is handed to the switch where the filter passes its address, else counted. -/
theorem rxDeliver_filtered {q : State} {m : Nat} {f : Frame} (plain : isReserved (dstOf f.bytes) = false) : rxDeliver q m f [] =
    if filterPass q m (dstOf f.bytes) then trlForward q { f with hashed := passesByHash q m (dstOf f.bytes) } []
    else macCount q m Fld.MAC_RX_FILT_COUNT := by
  simp only [rxDeliver, plain, Bool.false_eq_true, if_false, ringHand, List.foldl_nil, passesByHash]

theorem pauseExpire_due {s : State} {m t : Nat} (paused : (portOf s m).paused = some t) (due : t ≤ s.sdl.raw) :
    pauseExpire s m = setPort s m { portOf s m with paused := none } := by
  simp only [pauseExpire, paused, Nat.not_lt.2 due, if_false]

theorem dupForget_due {s : State} {l src : Nat} {e : DupEntry} (held : ((redOf s l).dup.find? fun e => e.src == src) = some e)
    (due : e.at_ + fget s (Fld.MAC_PAIR_FORGET l) * 10 ^ 6 ≤ s.sdl.raw) :
    dupForget s l src = setRed s l { redOf s l with dup := (redOf s l).dup.filter fun x => x.src != src } := by
  simp only [dupForget, held, Nat.not_lt.2 due, if_false]

/-- Settles O35: a frame by the state of its port, its length, its FCS and its address; the end of a pause and of a duplicate entry. That RXEN = 0
comes behind the tests of the port is log 28, and the resolution of a receive stamp log 34. -/
theorem framesReceived : Obligations.FramesReceived := by
  intro s m up
  have receive (bytes : List Byte) (ok : Bool) (age : BitVec 20) : exec (.frameReceive m bytes ok age) s =
    act s fun s => receiveFrame s m.val (octets bytes) ok age.toNat := rfl
  have expire : exec (.pauseExpire m) s = act s fun s => pauseExpire s m.val := rfl
  have forget (src : BitVec 48) : exec (.dupEntryForget m src) s = act s fun s => dupForget s (m.val / 2 * 2) src.toNat := rfl
  simp only [receive, expire, forget, act_up up]
  refine ⟨fun bytes ok age => ⟨fun down => ?_, fun runs link => ⟨fun mx0 => ?_, fun ext off => ?_, fun on pair ftb good whole fits => ?_⟩⟩,
    fun bytes ok age bs ext runs link on alone hb => ⟨fun short => ?_, fun long fits bad => ?_, fun f q long fits good single hq plain hf => ?_⟩,
    fun t paused due => ?_, fun src e held due => ?_⟩
  · rw [receiveFrame_down _ ok _ down]
  · rw [receiveFrame_mx0 runs link _ ok _ mx0]
  · rw [receiveFrame_rxOff runs link _ ok _ ext off]
  · rw [good, receiveFrame_pair runs link on _ pair ftb whole fits]
  · rw [← hb, receiveFrame_runt runs link on ext _ ok short]
  · rw [← hb, bad, receiveFrame_badFcs runs link on ext _ alone long fits]
  · have delivered : receiveFrame s m.val (octets bytes) ok age.toNat =
        ghbReceive (if filterPass q m.val (dstOf bs) then trlForward q f [] else macCount q m.val Fld.MAC_RX_FILT_COUNT) bs := by
      rw [← hb, good, receiveFrame_whole runs link on ext _ alone long fits single, ← hq, rxDeliver_filtered (f := receivedFrame q m.val bs age.toNat) plain, hf]
      rfl
    exact ⟨fun pass => by rw [delivered, if_pos pass], fun stop => by rw [delivered, if_neg (by rw [stop]; decide)]⟩
  · rw [pauseExpire_due paused due]
  · rw [dupForget_due held due]

/-! ### Frames sent (R142, R182, R186, R187, R193) -/

theorem headFit_none {s : State} {m c : Nat} (n : Nat) (h : headOf s m c = none) : headFit m c n s = s := by
  cases n with
  | zero => rfl
  | succ n => simp only [headFit, h]

theorem txMay_head {s : State} {m c : Nat} {f : Frame} (h : txMay s m c = some f) : headOf s m c = some f := by
  cases head : headOf s m c with
  | none => simp only [txMay, head, reduceCtorEq] at h
  | some g =>
    simp only [txMay, head, Option.ite_none_right_eq_some] at h
    exact h.2

theorem txMay_none {s : State} {m c : Nat} (h : headOf s m c = none) : txMay s m c = none := by
  simp only [txMay, h]

/-- A frame without a launch time that fits and is not to be cut stays at the head. -/
theorem headFit_fits {s : State} {m c : Nat} {f : Frame} (n : Nat) (head : headOf s m c = some f) (untimed : f.launch = .none) (whole : f.seg = none)
    (fits : (egressBytes s m f).length + 4 ≤ fget s (Fld.MAC_MAXLEN_LEN m)) : headFit m c n s = s := by
  have due : launchLate s m f = false := by simp only [launchLate, untimed]
  cases n with
  | zero => rfl
  | succ n => simp only [headFit, head, due, whole, Nat.not_lt.2 fits, decide_false, Bool.false_eq_true, if_false]

/-- Frames are made fit for a port whose only head frame is fit: nothing changes. -/
theorem foldl_headFit_self {s : State} {m : Nat} {cs : List Nat} (h : ∀ c ∈ cs, ∀ n, headFit m c n s = s) :
    cs.foldl (fun s c => headFit m c (fitBound (outQ s m c)) s) s = s := by
  induction cs with
  | nil => rfl
  | cons c cs ih =>
    rw [List.foldl_cons, h c (List.mem_cons_self ..)]
    exact ih fun d hd => h d (List.mem_cons_of_mem _ hd)

/-- The only class that passes a test is the first that does. -/
theorem head?_filter_only {p : Nat → Bool} {c : Nat} {cs : List Nat} (mem : c ∈ cs) (here : p c = true) (only : ∀ k ∈ cs, p k = true → k = c) :
    (cs.filter p).head? = some c := by
  cases e : (cs.filter p).head? with
  | none => exact absurd here (List.filter_eq_nil_iff.1 (List.head?_eq_none_iff.1 e) c mem)
  | some k =>
    obtain ⟨listed, passes⟩ := List.mem_filter.1 (List.mem_of_mem_head? e)
    rw [only k listed passes]

/-- An idle port with one head frame, which fits and may be sent, sends it. -/
theorem frameTransmit_sends {s : State} {m c : Nat} {f : Frame} (hc : c < 8) (idle : txIdle s m = true) (alone : ∀ k < 8, k ≠ c → headOf s m k = none)
    (may : txMay s m c = some f) (untimed : f.launch = .none) (whole : f.seg = none)
    (fits : (egressBytes s m f).length + 4 ≤ fget s (Fld.MAC_MAXLEN_LEN m)) : frameTransmit s m = txSend s m c f := by
  have fit : (List.range 8).foldl (fun s c => headFit m c (fitBound (outQ s m c)) s) s = s := by
    refine foldl_headFit_self fun k hk n => ?_
    by_cases e : k = c
    · rw [e, headFit_fits n (txMay_head may) untimed whole fits]
    · exact headFit_none n (alone k (List.mem_range.1 hk) e)
  have chosen : ([7, 6, 5, 4, 3, 2, 1, 0].filter fun c => (txMay s m c).isSome).head? = some c := by
    have classes {k : Nat} : k ∈ [7, 6, 5, 4, 3, 2, 1, 0] ↔ k < 8 := by
      simp only [List.mem_cons, List.not_mem_nil, or_false]
      omega
    refine head?_filter_only (classes.2 hc) (by rw [may]; rfl) fun k hk sends => ?_
    refine Decidable.byContradiction fun other => ?_
    rw [txMay_none (alone k (classes.1 hk) other)] at sends
    cases sends
  simp only [frameTransmit, idle, fit, chosen, may, Bool.not_true, Bool.false_eq_true, if_false]

section
variable {s u : State} {m c : Nat} {f : Frame} (hu : u = takeHead s m c)
include hu

theorem txSend_muted (mutes : f.mutes = true) (quiet : (muting u || frozen u) = true) :
    txSend s m c f = stampDrop (cinc u Fld.FTB_MUTED_COUNT) m f := by
  simp only [txSend, ← hu, mutes, quiet, Bool.and_self, if_true]

/-- A frame on the wire: padded, corrected, with its FCS, and its egress time kept. -/
theorem txSend_sent {b : List Nat} {egress : Nat} (hb : b = egressBytes u m f) (he : egress = timeNow u + fget u (Fld.SDL_P_LAT_TX_LAT m) * 2 ^ 28)
    (loud : (f.mutes && (muting u || frozen u)) = false) {v : State} {w : List Nat}
    (hv : (v, w) = ptpCorrect (if needsPad u m f then macCount u m Fld.MAC_TX_PAD_COUNT else u) m f (padTo 60 b) egress) :
    txSend s m c f = { v with mac := { v.mac with
      tbl := tset v.mac.tbl m { portOf v m with
        sending := some ⟨v.sdl.raw + bitTimes (phyOf v m) ((w.length + 4 + 20) * 8), egress, f.tsreq, f.tag⟩ }
      wire := v.mac.wire ++ [(m, w ++ leBytes 4 (fcsOf f w))] } } := by
  simp only [txSend, ← hu, loud, ← hb, ← he, ← hv, Bool.false_eq_true, if_false]
  rfl

end

/-! ### Gates, list switches and exact addresses (R194–R196, R225, R227) -/

section
variable {s : State} {m t : Nat} (on : enabled s (macPage m 2) = true) (next : (portOf s m).gcl.next = some t) (due : t ≤ timeNow s)
include on next due

/-- A cycle starts, where none runs or the one that ran is at its end. -/
theorem gateChange_starts (h : ∀ st, (portOf s m).gcl.start = some st → cycleAfter s (portOf s m).gcl.set_ st ≤ t) :
    gateChange s m = setPort s m { portOf s m with gcl := { (portOf s m).gcl with
      start := some t, entry := 0, next := some (gateNext s m (portOf s m).gcl t 0) } } := by
  simp only [gateChange, next, on, Nat.not_lt.2 due, Bool.not_true, decide_false, Bool.or_self, Bool.false_eq_true, if_false]
  cases start : (portOf s m).gcl.start with
  | none => rfl
  | some st => exact if_neg (Nat.not_lt.2 (h st start))

/-- The cycle that runs goes on to its next entry. -/
theorem gateChange_goesOn {st : Nat} (start : (portOf s m).gcl.start = some st) (more : t < cycleAfter s (portOf s m).gcl.set_ st) :
    gateChange s m = setPort s m { portOf s m with gcl := { (portOf s m).gcl with
      entry := (portOf s m).gcl.entry + 1, next := some (gateNext s m (portOf s m).gcl st ((portOf s m).gcl.entry + 1)) } } := by
  simp only [gateChange, next, on, Nat.not_lt.2 due, start, more, Bool.not_true, decide_false, Bool.or_self, Bool.false_eq_true, if_false, if_true]

end

/-- The settings of a list switch, from its words (R196, R227). -/
def gclOfWords (x : Nat → Nat) : GclSet := {
  tick := bit (x 0) 0, len := clampTo 1 256 (x 1 % 512), cycle := if bit (x 0) 0 then clampTo 1 255 (x 2 % 256) else clampTo 1000 (10 ^ 9) (x 2),
  base := (x 4 + 2 ^ 32 * x 5) * secUnit + x 3 * nsUnit }

/-- A list switch is refused where its first cycle start is too far, else held until then (R196). -/
theorem gclRequest_eq {u : State} {m w : Nat} {g : GclSet} (wr : (mbxAt u (gclMbx m)).wr = true) (op : (mbxAt u (gclMbx m)).op = 1)
    (hg : g = gclOfWords (mbxAt u (gclMbx m)).w) (hw : w = cycleAfter u g (timeNow u + 1000 * nsUnit - 1)) :
    gclRequest m u = if timeNow u + 2 ^ 32 * nsUnit < w then mbxEnd u (gclMbx m) 0x04
      else setPort u m { portOf u m with gcl := { (portOf u m).gcl with pend := some (g, w) } } := by
  subst hw hg
  simp only [gclRequest, wr, op, Bool.not_true, bne_self_eq_false, Bool.or_self, Bool.false_eq_true, if_false]
  rfl

/-- A list switch whose cycle start has come takes effect. -/
theorem gclSwitch_due {s : State} {m w : Nat} {x : GclSet} {g : Gcl} (on : enabled s (macPage m 2) = true)
    (pend : (portOf s m).gcl.pend = some (x, w)) (due : w ≤ timeNow s)
    (hg : g = { (portOf s m).gcl with listB := !(portOf s m).gcl.listB, set_ := x, entry := 0, pend := none, start := some w }) :
    gclSwitch s m = mbxEndIfBusy (setPort s m { portOf s m with gcl := { g with next := some (gateNext s m g w 0) } }) (gclMbx m) 0 := by
  simp only [gclSwitch, pend, on, Nat.not_lt.2 due, if_true, if_false, hg]

section
variable {u : State} {m a : Nat}

theorem macMbx_exactWrite (wr : (mbxAt u a).wr = true) (op : (mbxAt u a).op = 1) : macMbx .MAC_EXACT m a u =
    mbxEnd (setPort u m { portOf u m with
      exact := tset (portOf u m).exact ((mbxAt u a).arg % 64) (addrOfWords ((mbxAt u a).w 0) ((mbxAt u a).w 1 % 2 ^ 16), bit ((mbxAt u a).w 1) 31) }) a 0 := by
  simp only [macMbx, wr, op]

theorem macMbx_exactRead (wr : (mbxAt u a).wr = false) (op : (mbxAt u a).op = 2) {adr : Nat} {v : Bool}
    (entry : tat (portOf u m).exact ((mbxAt u a).arg % 64) (0, false) = (adr, v)) :
    macMbx .MAC_EXACT m a u = mbxAnswer u a 0 [w32 (addrD0 adr), w32 (bitAt v 31 + addrD1 adr)] := by
  simp only [macMbx, wr, op, entry]

end

/-- Settles O36: a transmission of the only head frame; a gate change; a list switch, requested and due; an exact entry written and read.
That a frame that mutes is discarded while the outputs are frozen too is R448 (log 43). -/
theorem framesSent : Obligations.FramesSent := by
  intro s m up
  have transmit : exec (.frameTransmit m) s = act s fun s => frameTransmit s m.val := rfl
  have gate : exec (.gateChange m) s = act s fun s => gateChange s m.val := rfl
  have switch : exec (.gclSwitch m) s = act s fun s => gclSwitch s m.val := rfl
  refine ⟨fun c f u b egress idle alone may untimed whole fits hu hb he => ?_, fun t g on hg next due => ?_, fun mid d g w x q free few hx hg hw hq => ?_,
    fun x w g on pend due hg => ?_, fun mid k a ha free => ⟨fun d few => ?_, fun adr v entry => ?_⟩⟩
  · rw [transmit, act_up up, frameTransmit_sends c.isLt idle alone may untimed whole fits]
    exact ⟨fun mutes quiet => by rw [txSend_muted hu mutes quiet], fun loud v w hv => by rw [txSend_sent hu hb he loud hv]⟩
  · subst hg
    rw [gate, act_up up]
    refine ⟨fun start => ?_, fun st start more => ?_, fun st start ended => ?_⟩
    · rw [gateChange_starts on next due fun st other => by rw [start] at other; cases other]
    · rw [gateChange_goesOn on next due start more]
    · rw [gateChange_starts on next due fun st' other => by rw [start] at other; cases other; exact ended]
  · have command : exec (.macGclSw mid m d) s = act s fun s => mbxRequest s mid.toNat (gclMbx m.val) 1 true 0 d := rfl
    have words : (mbxAt q (gclMbx m.val)).w = x := by
      rw [hx, hq]
      exact funext fun i => asks_word s mid.toNat (gclMbx m.val) 1 0 true d few i
    have sdl : q.sdl = s.sdl := by rw [hq, asks_sdl, written_sdl]
    have mac : q.mac = s.mac := by rw [hq, asks_mac, written_mac]
    have now : timeNow q = timeNow s := by rw [timeNow, timeNow, sdl]
    have port : portOf q m.val = portOf s m.val := by rw [portOf, portOf, mac]
    have cycle : w = cycleAfter q g (timeNow q + 1000 * nsUnit - 1) := by
      rw [hw, now, cycleAfter, cycleAfter, baseHz, baseHz, sdl]
    rw [command, act_up up, request_macGclSw m s mid.toNat 1 0 true d free (by decide), ← hq]
    have taken := gclRequest_eq (u := q) (by rw [hq, asks_wr]) (by rw [hq, asks_op]) (by rw [words, hg]; rfl) cycle
    rw [now, port] at taken
    rw [← taken]
    rfl
  · rw [switch, act_up up, gclSwitch_due on pend due hg]
  · have command : exec (.macExactWrite mid m k d) s = act s fun s => mbxRequest s mid.toNat (macPage m.val 0 + 0x80) 1 true k.val d := rfl
    have words (i : Nat) : (mbxAt (asks (written s d) mid.toNat a 1 true k.val d) a).w i = word s a d i :=
      asks_word s mid.toNat a 1 k.val true d few i
    have index : k.val % 2 ^ 16 % 64 = k.val := by omega
    have port : portOf (asks (written s d) mid.toNat a 1 true k.val d) m.val = portOf s m.val := by rw [portOf, portOf, asks_mac, written_mac]
    subst ha
    rw [command, act_up up, request_macExact m s mid.toNat 1 k.val true d free (by decide), macMbx_exactWrite (asks_wr ..) (asks_op ..), asks_arg, index,
      words, words, port]
    rfl
  · have command : exec (.macExactRead mid m k) s = act s fun s => mbxRequest s mid.toNat (macPage m.val 0 + 0x80) 2 false k.val [] := rfl
    have index : k.val % 2 ^ 16 % 64 = k.val := by omega
    subst ha
    rw [command, act_up up, request_macExact m s mid.toNat 2 k.val false [] free (by decide),
      macMbx_exactRead (asks_wr ..) (asks_op ..) (adr := adr) (v := v) (by rw [asks_arg, index]; exact entry)]
    rfl

/-! ### Migration of a pavilion (R129, R417–R422) -/

/-- What neither a mailbox nor the response shows is, with a request in its mailbox, as it was before. -/
theorem asks_written_congr {α : Type} (f : State → α) (box : ∀ s a b, f (setMbx s a b) = f s) (resp : ∀ s r, f (respond s r) = f s)
    (s : State) (mid a op arg : Nat) (wr : Bool) (d : List Word) : f (asks (written s d) mid a op wr arg d) = f s := by
  rw [asks, box, written]
  split
  · rfl
  · exact resp s {}

theorem onTarget_eq {γ : Type} {x : Nat × Nat} {c n : Nat} (h : x = (c, n)) (bad good : Nat → γ) :
    onTarget x bad good = if c ≠ 0 then bad c else good n := by
  rw [h, onTarget, ite_not]

/-- Of the six words that a migration request keeps, the buffer's address and the tick. -/
theorem getD_six (w : Nat → Nat) : ((List.range 6).map w).getD 0 0 = w 0 ∧ ((List.range 6).map w).getD 4 0 = w 4 := ⟨rfl, rfl⟩

/-- In `u` the mailbox of pavilion `p` holds the request `op` with the words `w`; what a request asks of the state is as it is in `s`. -/
structure MigAsked (s u : State) (p op : Nat) (w : Nat → Nat) : Prop where
  wr : (mbxAt u (migMbx p)).wr = true
  number : (mbxAt u (migMbx p)).op = op
  words : (mbxAt u (migMbx p)).w = w
  sdl : u.sdl = s.sdl
  pav : pavOf u p = pavOf s p
  state : pavState u p = pavState s p
  target : ∀ low, seqTarget u low = seqTarget s low
  begins : ∀ n, bounds u (progOf u p).classes n = bounds s (progOf s p).classes n

theorem migAsked_asks (s : State) (mid p op : Nat) {d : List Word} (few : d.length ≤ 12) :
    MigAsked s (asks (written s d) mid (migMbx p) op true 0 d) p op (word s (migMbx p) d) where
  wr := asks_wr ..
  number := asks_op ..
  words := funext fun i => asks_word s mid (migMbx p) op 0 true d few i
  sdl := asks_written_congr (·.sdl) (fun _ _ _ => rfl) (fun _ _ => rfl) ..
  pav := asks_written_congr (pavOf · p) (fun _ _ _ => rfl) (fun _ _ => rfl) ..
  state := asks_written_congr (pavState · p) (fun _ _ _ => rfl) (fun _ _ => rfl) ..
  target low := asks_written_congr (seqTarget · low) (fun _ _ _ => rfl) (fun _ _ => rfl) ..
  begins n := asks_written_congr (fun u => bounds u (progOf u p).classes n) (fun _ _ _ => rfl) (fun _ _ => rfl) ..

namespace MigAsked

variable {s u : State} {p : Nat} {w : Nat → Nat}

theorem freeze (h : MigAsked s u p 1 w) : migReq u p = if pavState s p ≠ 1 then mbxEnd u (migMbx p) 7
    else onTarget (seqTarget s (w 4)) (fun c => mbxEnd u (migMbx p) c) fun n => if bounds s (progOf s p).classes n
      then migWait u p .normal { op := 1, tick := n, d := (List.range 6).map w } else mbxEnd u (migMbx p) 5 := by
  simp only [migReq, h.wr, h.number, h.words, migFreeze, (getD_six w).2, h.state, h.target, h.begins, Bool.not_true, Bool.false_eq_true, if_false]

theorem save (h : MigAsked s u p 2 w) : migReq u p = if pavState s p ≠ 4 then mbxEnd u (migMbx p) 7
    else migWait u p .saving { op := 2, tick := s.sdl.fab, d := (List.range 6).map w } := by
  simp only [migReq, h.wr, h.number, h.words, h.state, h.sdl, Bool.not_true, Bool.false_eq_true, if_false]

theorem restore (h : MigAsked s u p 3 w) : migReq u p = migRestore u p ((List.range 6).map w) := by
  simp only [migReq, h.wr, h.number, h.words, Bool.not_true, Bool.false_eq_true, if_false]

theorem thaw (h : MigAsked s u p 4 w) : migReq u p = if pavState s p ≠ 4 then mbxEnd u (migMbx p) 7
    else onTarget (seqTarget s (w 4)) (fun c => mbxEnd u (migMbx p) c)
      fun n => migWait u p .frozen { op := 4, tick := n, d := (List.range 6).map w } := by
  simp only [migReq, h.wr, h.number, h.words, (getD_six w).2, h.state, h.target, Bool.not_true, Bool.false_eq_true, if_false]

theorem discard (h : MigAsked s u p 5 w) : migReq u p = if pavState s p ≠ 4 then mbxEnd u (migMbx p) 7
    else mbxEnd (setPav u p { pavOf s p with phase := .normal, gen := (genOf s p + 1) % 256 }) (migMbx p) 0 := by
  simp only [migReq, h.wr, h.number, h.state, genOf, h.pav, Bool.not_true, Bool.false_eq_true, if_false]

end MigAsked

section
variable {s u : State} {p : Nat} {d : List Nat} {h : Option (List Nat)} (st : pavState s p = 0 ∨ pavState s p = 4)
  (header : physRead s cycMid (d.getD 0 0 * 4096) 0x40 = (u, h))
include st header

/-- RESTORE from a buffer whose header cannot be read (R421). -/
theorem migRestore_noHeader (unread : h = none) : migRestore s p d = mbxEnd u (migMbx p) 2 := by
  have may : ¬ (pavState s p ≠ 0 ∧ pavState s p ≠ 4) := by omega
  simp only [migRestore, may, if_false, header, unread, onOpt_none]

section
variable {v : State} {hd : List Nat} {bs : Option (List Nat)} (found : h = some hd)
  (image : physRead u cycMid (d.getD 0 0 * 4096) (max 0x40 (leAt hd 0x20 4)) = (v, bs))
include found image

/-- RESTORE once the whole image has been read (R421). -/
theorem migRestore_read : migRestore s p d = onOpt (v, bs) (fun s => mbxEnd s (migMbx p) 2) fun v b =>
    if !imageOk p b then mbxEnd v (migMbx p) 2 else if !configAgrees v p b || !itemsAgree v p b then mbxEnd v (migMbx p) 8
    else onTarget (seqTarget v (d.getD 4 0)) (fun c => mbxEnd v (migMbx p) c)
      fun n => migWait v p .restoring { op := 3, tick := n, d := d, img := b, wasFrozen := pavState s p == 4 } := by
  have may : ¬ (pavState s p ≠ 0 ∧ pavState s p ≠ 4) := by omega
  simp only [migRestore, may, if_false, header, found, onOpt_some, image]

theorem migRestore_badImage (bad : bs = none ∨ ∃ b, bs = some b ∧ imageOk p b = false) : migRestore s p d = mbxEnd v (migMbx p) 2 := by
  rw [migRestore_read st header found image]
  rcases bad with rfl | ⟨b, rfl, wrong⟩
  · rw [onOpt_none]
  · rw [onOpt_some, wrong]
    rfl

section
variable {b : List Nat} (whole : bs = some b) (ok : imageOk p b = true)
include whole ok

theorem migRestore_disagrees (other : configAgrees v p b = false ∨ itemsAgree v p b = false) : migRestore s p d = mbxEnd v (migMbx p) 8 := by
  have differs : (!configAgrees v p b || !itemsAgree v p b) = true := by rcases other with h | h <;> simp [h]
  rw [migRestore_read st header found image, whole, onOpt_some, ok, if_neg (by decide), if_pos differs]

theorem migRestore_waits (config : configAgrees v p b = true) (items : itemsAgree v p b = true) {c n : Nat}
    (target : seqTarget v (d.getD 4 0) = (c, n)) : migRestore s p d = if c ≠ 0 then mbxEnd v (migMbx p) c
      else migWait v p .restoring { op := 3, tick := n, d := d, img := b, wasFrozen := pavState s p == 4 } := by
  rw [migRestore_read st header found image, whole, onOpt_some, ok, config, items, onTarget_eq target]
  rfl

end
end
end

/-- A SAVE that has its contents writes the image, or the part that fits, and the pavilion is frozen again (R418). -/
theorem saveComplete_taken {s v : State} {p size : Nat} {r : MigReq} (mig : (pavOf s p).mig = some r) (op : r.op = 2) (taken : r.taken = true)
    (hs : size = r.d.getD 1 0 * 4096)
    (hv : v = physPut s cycMid (r.d.getD 0 0 * 4096) (if r.img.length ≤ size then r.img else r.img.take (min 0x40 size))) :
    saveComplete s p = migEnd (setPav v p { pavOf v p with phase := .frozen }) p (if r.img.length ≤ size then 0 else 6) := by
  subst hv hs
  unfold saveComplete
  simp only [mig, op, taken, decide_eq_true_eq]
  rfl

theorem act_pavMig {s : State} {mid op : Nat} {p : Fin 1024} {d : List Word} (free : Free s mid (migMbx p.val)) (small : op < 256) :
    act s (fun s => mbxRequest s mid (migMbx p.val) op true 0 d) =
      .next (respond (migReq (asks (written s d) mid (migMbx p.val) op true 0 d) p.val) {}) := by
  rw [act_up free.1, request_pavMig p s mid op 0 true d free small]

/-- Settles O48: the requests by the state of the pavilion, the target tick and the image; the end of a SAVE. The order of the tests of RESTORE is
log 59, and SAVING from the acceptance on, with the header alone in a buffer too small, log 61. -/
theorem pavilionMigration : Obligations.PavilionMigration := by
  intro s mid p up
  refine ⟨fun a d ds q waits ha free few hds hq hwaits => ?_, fun r size v mig op taken hs hv => ?_⟩
  · obtain rfl : a = migMbx p.val := ha
    have asked (op : Nat) : MigAsked s (q op) p.val op (word s (migMbx p.val) d) := by
      rw [hq]
      exact migAsked_asks s mid.toNat p.val op few
    have request (op : Nat) (small : op < 256) : act s (fun s => mbxRequest s mid.toNat (migMbx p.val) op true 0 d) =
        .next (respond (migReq (q op) p.val) {}) := by rw [act_pavMig free small, hq]
    have freeze : exec (.pavMigFreeze mid p d) s = .next (respond (migReq (q 1) p.val) {}) := request 1 (by decide)
    have save : exec (.pavMigSave mid p d) s = .next (respond (migReq (q 2) p.val) {}) := request 2 (by decide)
    have restore : exec (.pavMigRestore mid p d) s = .next (respond (migReq (q 3) p.val) {}) := request 3 (by decide)
    have thaw : exec (.pavMigThaw mid p d) s = .next (respond (migReq (q 4) p.val) {}) := request 4 (by decide)
    have discard : exec (.pavMigDiscard mid p d) s = .next (respond (migReq (q 5) p.val) {}) := request 5 (by decide)
    rw [freeze, save, restore, thaw, discard, (asked 1).freeze, (asked 2).save, (asked 3).restore, (asked 4).thaw, (asked 5).discard]
    subst hds hwaits
    refine ⟨fun other => ?_, fun runs c n aim => ?_, fun other => ?_, fun frozen => ⟨?_, fun c n aim => ?_, ?_⟩, fun on other => ?_,
      fun rest u h header => ?_⟩
    · rw [if_pos other]
      rfl
    · rw [if_neg (by rw [runs]; decide), onTarget_eq aim, apply_ite (respond · {}), apply_ite (respond · {})]
      rfl
    · rw [if_pos other, if_pos other, if_pos other]
      exact ⟨rfl, rfl, rfl⟩
    · rw [if_neg (by rw [frozen]; decide)]
      rfl
    · rw [if_neg (by rw [frozen]; decide), onTarget_eq aim, apply_ite (respond · {})]
      rfl
    · rw [if_neg (by rw [frozen]; decide)]
      rfl
    · rw [migRestore, (asked 3).state, if_pos ⟨on, other⟩]
      rfl
    · rw [← (asked 3).state] at rest
      rw [← (getD_six (word s (migMbx p.val) d)).1] at header
      refine ⟨fun unread => ?_, fun hd v bs readable image => ?_⟩
      · rw [migRestore_noHeader rest header unread]
        rfl
      rw [← (getD_six (word s (migMbx p.val) d)).1] at image
      refine ⟨fun bad => ?_, fun b whole ok => ⟨fun other => ?_, fun config items c n aim => ?_⟩⟩
      · rw [migRestore_badImage rest header readable image bad]
        rfl
      · rw [migRestore_disagrees rest header readable image whole ok other]
        rfl
      · rw [← (getD_six (word s (migMbx p.val) d)).2] at aim
        rw [migRestore_waits rest header readable image whole ok config items aim, (asked 3).state, apply_ite (respond · {})]
        rfl
  · have e : exec (.saveComplete p) s = act s fun s => saveComplete s p.val := rfl
    rw [e, act_up up, saveComplete_taken mig op taken hs hv]

end Sys2Proof.Machine
end

section
/-! Proofs of the family 05_angle_timebase.md: the tracker's timeouts, the requests about alarms, and what alarms do when they fire. -/

namespace Sys2Proof.Machine

/-! ### The tracker's timeouts (R161, R162, R167, R661, R662; log 76) -/

/-- The tracker in HOLDOVER from LOCKED: the estimate in force stays, with ρ = 0 (R161). -/
def heldOver (s : State) : State := { s with ang := { s.ang with
  pub := pubNow s, pubAt := s.sdl.raw + 1, st := .holdover, holdAt := s.sdl.raw, est := { s.ang.est with rho := 0 } } }

/-- The tracker in ACQUIRE, with the estimate of R662. -/
def acquiring (s : State) : State := { s with ang := { s.ang with
  pub := pubNow s, pubAt := s.sdl.raw + 1, st := .acquire, run := 0, misses := 0, acqGood := false, est := ⟨pubNow s, fnom s, 0, timeNow s⟩ } }

theorem enterAcquire_eq (s : State) : enterAcquire s = abortAll (trackRecord (acquiring s) s.ang.st) := rfl

theorem lastThat_isNone {us : List RefUpdate} {p : RefUpdate → Bool} (h : ∀ u ∈ us, p u = false) : (lastThat us p).isNone = true := by
  rw [lastThat, List.filter_eq_nil_iff.2 fun u hu => Bool.not_eq_true _ ▸ h u hu]
  rfl

section
variable {s : State} (page : enabled s 0x203000 = true) (still : s.sdl.gen ≠ .running)
include page still

theorem trackerTimeout_due (locked : s.ang.st = .locked) (due : s.ang.lastRecv + 5000000 ≤ s.sdl.raw) : trackerTimeout s =
    angleSweep (alarmsEdge (alarmsHold (trackRecord (cinc (heldOver s) Fld.SDL_ANG_HOLD_COUNT) .locked))) := by
  rw [trackerTimeout, if_pos ⟨still, locked, page, due⟩]
  rfl

theorem holdoverTimeout_due (held : s.ang.st = .holdover) (due : s.ang.holdAt + fget s Fld.SDL_ANG_CNT_HOLD_MS * 1000000 ≤ s.sdl.raw)
    (undecided : ∀ u ∈ s.ang.updates, goodApartTol s u = false) :
    holdoverTimeout s = angleSweep (abortAll (trackRecord (acquiring s) .holdover)) := by
  rw [holdoverTimeout, if_pos ⟨still, held, page, due, lastThat_isNone undecided⟩, enterAcquire_eq, held]

end

/-- Settles O32: each timeout where it is due. That they act apart from an edge only while there are none is log 76. -/
theorem trackerTimeouts : Obligations.TrackerTimeouts := by
  intro s up page still
  have update : exec .trackerUpdateTimeout s = act s trackerTimeout := rfl
  have hold : exec .holdoverTimeout s = act s holdoverTimeout := rfl
  rw [update, hold, act_up up, act_up up]
  refine ⟨fun locked due => ?_, fun held due undecided => ?_⟩
  · rw [trackerTimeout_due page still locked due]
    rfl
  · rw [holdoverTimeout_due page still held due undecided]
    rfl

/-! ### Requests about alarms (R163–R168, R178) -/

/-- The CODE of an ARM that names no pavilion (R165). -/
def armCode (s : State) (k : Nat) (x : Alarm) : Nat :=
  if enabled s 0x204000 = false then 0x0A
  else if s.ang.st ≠ .locked then 0x02
  else if (alarm s k).st = .armed then 0x08
  else if fireInstant s x * nsUnit < timeNow s + 2000 * nsUnit then 0x03
  else if pubNow s + 65536 * 2 ^ 32 < x.k * 2 ^ 32 + x.a then 0x04
  else 0

/-- The alarm that an accepted ARM leaves: armed, predicted from the estimate in force (R164, R165). -/
def armedAs (s : State) (x : Alarm) : Alarm := { x with st := .armed, tf := fireInstant s x, hold := false, late := false }

theorem armAlarm_eq (s : State) (k : Nat) (x : Alarm) : armAlarm s k x none =
    if armCode s k x = 0 then (setAlarm s k (armedAs s x), 0) else (s, armCode s k x) := by
  unfold armAlarm armCode armedAs
  dsimp only
  cases enabled s 0x204000 with
  | false => rfl
  | true =>
    simp only [Bool.false_eq_true, Bool.not_true, if_false, Bool.true_eq_false]
    -- The tests of the two stand in one order, and the CODE of a refusal is never 0.
    repeat' split
    all_goals trivial

/-- A CANCEL that names no pavilion: an armed alarm that is not yet due is cancelled; one that is due, or has fired, is too late (R168). -/
theorem cancelAlarm_eq (s : State) (k : Nat) : cancelAlarm s k none =
    if (alarm s k).st = .armed ∧ timeNow s < (alarm s k).tf * nsUnit then (setAlarm s k { alarm s k with st := .cancelled }, 0)
    else (s, if (alarm s k).st = .armed ∨ (alarm s k).st = .fired then 0x07 else 0) := by
  unfold cancelAlarm
  cases st : (alarm s k).st with
  | armed =>
    by_cases early : timeNow s < (alarm s k).tf * nsUnit
    · simp only [st, Int.not_le.2 early, early, Bool.false_eq_true, if_false, and_self, if_true]
    · simp only [st, Int.not_lt.1 early, early, Bool.false_eq_true, if_false, and_false, true_or, if_true]
  | idle | fired | cancelled | aborted => simp only [st, reduceCtorEq, false_and, or_false, or_true, Bool.false_eq_true, if_false, if_true]

section
variable {s : State} {k : Nat} {x : Alarm}

theorem armCode_accepts (page : enabled s 0x204000 = true) (locked : s.ang.st = .locked) (idle : (alarm s k).st ≠ .armed)
    (ahead : timeNow s + 2000 * nsUnit ≤ fireInstant s x * nsUnit) (near : x.k * 2 ^ 32 + x.a ≤ pubNow s + 65536 * 2 ^ 32) :
    armCode s k x = 0 := by
  rw [armCode, if_neg (by simp [page]), if_neg fun other => other locked, if_neg idle, if_neg (Int.not_lt.2 ahead), if_neg (Nat.not_lt.2 near)]

/-- The CODE of a refused ARM is that of the first test that fails. -/
theorem armCode_refuses {code : Nat} (h : enabled s 0x204000 = false ∧ code = 0x0A ∨ enabled s 0x204000 = true ∧
    (s.ang.st ≠ .locked ∧ code = 0x02 ∨ s.ang.st = .locked ∧ ((alarm s k).st = .armed ∧ code = 0x08 ∨ (alarm s k).st ≠ .armed ∧
      (fireInstant s x * nsUnit < timeNow s + 2000 * nsUnit ∧ code = 0x03 ∨
        (timeNow s + 2000 * nsUnit ≤ fireInstant s x * nsUnit ∧ pubNow s + 65536 * 2 ^ 32 < x.k * 2 ^ 32 + x.a) ∧ code = 0x04)))) :
    armCode s k x = code ∧ code ≠ 0 := by
  unfold armCode
  rcases h with ⟨off, rfl⟩ | ⟨page, h⟩
  · exact ⟨if_pos off, by decide⟩
  rw [if_neg (by simp [page])]
  rcases h with ⟨other, rfl⟩ | ⟨locked, h⟩
  · exact ⟨if_pos other, by decide⟩
  rw [if_neg fun other => other locked]
  rcases h with ⟨armed, rfl⟩ | ⟨idle, h⟩
  · exact ⟨if_pos armed, by decide⟩
  rw [if_neg idle]
  rcases h with ⟨late, rfl⟩ | ⟨⟨ahead, far⟩, rfl⟩
  · exact ⟨if_pos late, by decide⟩
  · rw [if_neg (Int.not_lt.2 ahead)]
    exact ⟨if_pos far, by decide⟩

end

section
variable {u : State} {a i k : Nat} (arg : (mbxAt u a).arg % 256 = k)
include arg

theorem sdlMbx_arm (wr : (mbxAt u a).wr = true) (op : (mbxAt u a).op = 1) : sdlMbx .SDL_ALM_ARM a i u =
    onPair (armAlarm u k (alarmOfWords (mbxAt u a).w) none) fun t c => mbxEnd t a c := by
  simp only [sdlMbx, wr, op, arg]
  rfl

theorem sdlMbx_cancel (wr : (mbxAt u a).wr = true) (op : (mbxAt u a).op = 2) : sdlMbx .SDL_ALM_ARM a i u =
    onPair (cancelAlarm u k none) fun t c => mbxEnd t a c := by
  simp only [sdlMbx, wr, op, arg]
  rfl

theorem sdlMbx_alarmRead (wr : (mbxAt u a).wr = false) (op : (mbxAt u a).op = 3) : sdlMbx .SDL_ALM_ARM a i u =
    mbxAnswer u a 0 (wordsOfAlarm (alarm u k)) := by
  simp only [sdlMbx, wr, op, arg]

end

/-- ARG of a request names one of the 256 alarms. -/
theorem asks_arg_fin (s : State) (mid a op : Nat) (wr : Bool) (k : Fin 256) (d : List Word) :
    (mbxAt (asks s mid a op wr k.val d) a).arg % 256 = k.val := by
  rw [asks_arg]
  omega

section
variable {s : State} {mid : Mid} {k : Fin 256} (free : Free s mid.toNat 0x204040)
include free

theorem act_sdlAlm {op : Nat} {wr : Bool} (d : List Word) (small : op < 256) :
    act s (fun s => mbxRequest s mid.toNat 0x204040 op wr k.val d) = .next (respond (angleSweep
      (sdlMbx .SDL_ALM_ARM 0x204040 0 (asks (written s d) mid.toNat 0x204040 op wr k.val d))) {}) := by
  rw [act_up free.1, request_sdlAlmArm s mid.toNat op k.val wr d free small]

/-- An ARM sets the alarm, or ends with the CODE that says why not. -/
theorem exec_alarmArm {d : List Word} (few : d.length ≤ 12) {x : Alarm} (hx : x = alarmOfWords (word s 0x204040 d)) {q : State}
    (hq : q = asks (written s d) mid.toNat 0x204040 1 true k.val d) : exec (.alarmArm mid k d) s = .next (respond (angleSweep
      (if armCode s k.val x = 0 then mbxEnd (setAlarm q k.val (armedAs s x)) 0x204040 0 else mbxEnd q 0x204040 (armCode s k.val x))) {}) := by
  have code : armCode q k.val x = armCode s k.val x :=
    hq ▸ asks_written_congr (armCode · k.val x) (fun _ _ _ => rfl) (fun _ _ => rfl) ..
  have set : armedAs q x = armedAs s x := hq ▸ asks_written_congr (armedAs · x) (fun _ _ _ => rfl) (fun _ _ => rfl) ..
  have words : (mbxAt q 0x204040).w = word s 0x204040 d :=
    hq ▸ funext fun i => asks_word s mid.toNat 0x204040 1 k.val true d few i
  refine (act_sdlAlm free d (op := 1) (by decide)).trans ?_
  rw [sdlMbx_arm (asks_arg_fin ..) (asks_wr ..) (asks_op ..), ← hq, words, ← hx, armAlarm_eq, code, set]
  split <;> rfl

/-- A CANCEL cancels the alarm, or ends with its CODE. -/
theorem exec_alarmCancel {q : State} (hq : q = asks s mid.toNat 0x204040 2 true k.val []) : exec (.alarmCancel mid k) s = .next (respond (angleSweep
      (if (alarm s k.val).st = .armed ∧ timeNow s < (alarm s k.val).tf * nsUnit
        then mbxEnd (setAlarm q k.val { alarm s k.val with st := .cancelled }) 0x204040 0
        else mbxEnd q 0x204040 (if (alarm s k.val).st = .armed ∨ (alarm s k.val).st = .fired then 0x07 else 0))) {}) := by
  subst hq
  refine (act_sdlAlm free [] (op := 2) (by decide)).trans ?_
  rw [sdlMbx_cancel (asks_arg_fin ..) (asks_wr ..) (asks_op ..), cancelAlarm_eq, apply_ite (onPair · _)]
  rfl

theorem exec_alarmRead : exec (.alarmRead mid k) s = .next (respond (angleSweep (mbxAnswer (asks s mid.toNat 0x204040 3 false k.val []) 0x204040 0
    (wordsOfAlarm (alarm s k.val)))) {}) := by
  refine (act_sdlAlm free [] (op := 3) (by decide)).trans ?_
  rw [sdlMbx_alarmRead (asks_arg_fin ..) (asks_wr ..) (asks_op ..)]
  rfl

end

/-- Settles O33: the three requests, each by its tests in their order. -/
theorem alarmRequests : Obligations.AlarmRequests := by
  intro s mid k d w x a q free few hw ha hx hq
  subst hw ha
  rw [exec_alarmArm free few hx hq, exec_alarmCancel free rfl, exec_alarmRead free]
  refine ⟨fun page locked idle ahead near => ?_, fun code wrong => ?_, fun armed early => ?_, fun code h => ?_, rfl⟩
  · rw [if_pos (armCode_accepts page locked idle ahead near)]
    rfl
  · obtain ⟨rfl, refused⟩ := armCode_refuses wrong
    rw [if_neg refused]
  · rw [if_pos ⟨armed, early⟩]
  · rcases h with ⟨⟨armed, due⟩ | fired, rfl⟩ | ⟨⟨unarmed, unfired⟩, rfl⟩
    · rw [if_neg fun h => Int.not_lt.2 due h.2, if_pos (.inl armed)]
    · rw [if_neg (by simp [fired]), if_pos (.inr fired)]
    · rw [if_neg fun h => unarmed h.1, if_neg (not_or.2 ⟨unarmed, unfired⟩)]

/-! ### Alarms fire (R166, R169–R171, R173, R448) -/

/-- An alarm FIRED, with its firing time (R166). -/
def fired (s : State) (k : Nat) : State := setAlarm s k { alarm s k with st := .fired, firedAt := timeNow s }

theorem frozen_fired (s : State) (k : Nat) : frozen (fired s k) = frozen s := rfl

/-- What an alarm does is what its KIND says (R169, R173). -/
theorem fireAlarm_eq (s : State) (k : Nat) : fireAlarm s k =
    if (alarm s k).kind = 0 then alarmDout (fired s k) k (alarm s k)
    else if (alarm s k).kind = 2 then alarmPost (fired s k) k {
      type := 7, queue := (alarm s k).d5 % 8192, flow := k, src := 0x300D,
      ns := if pairOp s then (alarm s k).tf.toNat else timeNow s / nsUnit, w5 := k, w6 := (alarm s k).payload }
    else fired s k := by
  unfold fireAlarm
  dsimp only
  split
  case h_1 kind => rw [if_pos kind]; rfl
  case h_2 kind => rw [if_neg (show (alarm s k).kind ≠ 0 by omega), if_pos kind]; rfl
  case h_3 pin event => rw [if_neg pin, if_neg event]; rfl

/-- The mask of a command that acts at the latches at this raw count has the pin (R170). -/
def commandHits (s : State) (pin : Nat) : Bool :=
  match s.ang.lastCmd with
  | some (r, m) => r == s.sdl.raw && bit m pin
  | none => false

/-- A higher alarm acted on the pin at this raw count (R170). -/
def beatenOn (s : State) (k pin : Nat) : Bool := s.ang.lastAlarms.any fun e => e.1 == s.sdl.raw && e.2.2 == pin && decide (k < e.2.1)

/-- The latch of a pin driven, with the number of its drive. -/
def driven (d : Dbg) (pin : Nat) (v : Bool) : Dbg := { d with
  dout := putBit d.dout pin v, drives := d.drives + 1, doutSeq := tset d.doutSeq pin (d.drives + 1) }

theorem drivePin_free {s : State} (h : frozen s = false) (pin : Nat) (v : Bool) : drivePin s pin v = { s with dbg := driven s.dbg pin v } := by
  rw [drivePin, if_neg (by simp [h])]
  rfl

/-- The pulses of alarm `k` on a pin that nothing else has driven since take the number of its next drive (R171). -/
def renewed (s : State) (k pin : Nat) : List (Nat × Nat × Nat × Nat) := s.ang.pulses.map fun e =>
  if e.1 == k && e.2.2.2 == pin && e.2.2.1 == tat s.dbg.doutSeq pin 0 then (e.1, e.2.1, s.dbg.drives + 1, pin) else e

/-- An alarm drives its pin anew: its own pulses there go on. -/
theorem ownPulses_drivePin {s : State} (h : frozen s = false) (k pin : Nat) (v : Bool) :
    ownPulses (drivePin s pin v) k pin (tat s.dbg.doutSeq pin 0) =
      { s with ang := { s.ang with pulses := renewed s k pin }, dbg := driven s.dbg pin v } := by
  rw [drivePin_free h]
  rfl

/-- An alarm acts on a pin: it drives the latch unless a higher alarm has acted there at the same raw count (R170). -/
def tookPin (s : State) (k pin : Nat) (v : Bool) : State := { s with
  ang := { s.ang with
    lastAlarms := (s.ang.lastAlarms.filter fun e => e.1 == s.sdl.raw) ++ [(s.sdl.raw, k, pin)]
    pulses := if beatenOn s k pin then s.ang.pulses else renewed s k pin }
  dbg := if beatenOn s k pin then s.dbg else driven s.dbg pin v }

/-- The pulse of an alarm with DOP = PULSE, to end with the drive that it began with; drive 0 for one that drove nothing (R169, R171). -/
def pulseOf (s : State) (k : Nat) (a : Alarm) : List (Nat × Nat × Nat × Nat) :=
  if a.dop = 2 then [(k, s.sdl.raw + clampTo 1 65535 (a.d5 % 65536) * 1000, if beatenOn s k a.pin then 0 else s.dbg.drives + 1, a.pin)] else []

/-- The DOUT action of an alarm (R169–R171). -/
def pinAction (s : State) (k : Nat) (a : Alarm) : State :=
  let t := tookPin s k a.pin (a.dop != 1)
  { t with ang := { t.ang with pulses := t.ang.pulses ++ pulseOf s k a } }

theorem cincIf_sdl (s : State) (b : Bool) (f : FieldRef) : (cincIf s b f).sdl = s.sdl := by cases b <;> rfl

theorem frozen_cincIf (s : State) (b : Bool) : frozen (cincIf s b Fld.SDL_ANG_DCOL_COUNT) = frozen s := by
  have pair : fget (cincIf s b Fld.SDL_ANG_DCOL_COUNT) Fld.FTB_CFG_PAIR = fget s Fld.FTB_CFG_PAIR := fget_cincIf_ne _ _ (by decide)
  have page : fget (cincIf s b Fld.SDL_ANG_DCOL_COUNT) (hEn 0xA00000) = fget s (hEn 0xA00000) := fget_cincIf_ne _ _ (by decide)
  have ftb : (cincIf s b Fld.SDL_ANG_DCOL_COUNT).ftb = s.ftb := by cases b <;> rfl
  simp only [frozen, pairOp, fbit, enabled, pair, page, ftb]

/-- Outputs that are not frozen take the action, after a collision with a command is counted. -/
theorem alarmDout_free {s : State} (h : frozen s = false) (k : Nat) (a : Alarm) :
    alarmDout s k a = pinAction (cincIf s (commandHits s a.pin) Fld.SDL_ANG_DCOL_COUNT) k a := by
  have free := (frozen_cincIf s (commandHits s a.pin)).trans h
  unfold alarmDout
  rw [if_neg (by simp [h])]
  extract_lets raw hit u beaten ang v w
  have counted : u = cincIf s (commandHits s a.pin) Fld.SDL_ANG_DCOL_COUNT := rfl
  have now : raw = u.sdl.raw := by rw [counted, cincIf_sdl]
  rw [← counted] at free ⊢
  clear_value u hit raw
  subst now
  obtain ⟨taken, drive⟩ : w = tookPin u k a.pin (a.dop != 1) ∧
      (if beaten then 0 else w.dbg.drives) = if beatenOn u k a.pin then 0 else u.dbg.drives + 1 := by
    have same : beatenOn u k a.pin = beaten := rfl
    clear_value beaten
    cases beaten with
    | true => simp only [w, tookPin, same, if_true, v, ang, and_self]
    | false =>
      simp only [w, tookPin, same, Bool.false_eq_true, if_false, ownPulses_drivePin (s := v) free]
      exact ⟨rfl, rfl⟩
  rw [drive]
  clear_value w
  subst taken
  split
  case isTrue pulse =>
    rw [pinAction, pulseOf, if_pos pulse]
  case isFalse level =>
    rw [pinAction, pulseOf, if_neg level, List.append_nil]

/-- A pulse of alarm `k` taken from those in progress. -/
def withoutPulse (s : State) (e : Nat × Nat × Nat × Nat) : State :=
  { s with ang := { s.ang with pulses := s.ang.pulses.filter fun x => !(x == e) } }

/-- A pulse ends; its pin falls where its own drive is the last (R171). -/
theorem alarmPulseEnd_due {s : State} {k t n pin : Nat}
    (ended : (s.ang.pulses.find? fun e => e.1 == k && decide (e.2.1 ≤ s.sdl.raw)) = some (k, t, n, pin)) :
    alarmPulseEnd s k = { withoutPulse s (k, t, n, pin) with
      dbg := if tat s.dbg.doutSeq pin 0 = n ∧ frozen s = false then driven s.dbg pin false else s.dbg } := by
  have e : alarmPulseEnd s k = if tat s.dbg.doutSeq pin 0 = n ∧ frozen s = false then drivePin (withoutPulse s (k, t, n, pin)) pin false
      else withoutPulse s (k, t, n, pin) := by
    rw [alarmPulseEnd, ended]
    rfl
  rw [e]
  split
  case isTrue own => exact drivePin_free (s := withoutPulse s (k, t, n, pin)) own.2 pin false
  case isFalse => rfl

/-- Settles O34: what fires does what its KIND says; a KIND 0 on its pin, with the collision counted before; a pulse's end by its last drive. -/
theorem alarmsFire : Obligations.AlarmsFire := by
  intro s k a q up ha hq
  have fire : exec (.alarmFire k) s = act s fun s => if alarmDue s k.val then angleSweep (fireAlarm s k.val) else s := rfl
  have pulse : exec (.alarmPulseEnd k) s = act s fun s => alarmPulseEnd s k.val := rfl
  subst ha
  obtain rfl : q = fired s k.val := hq
  rw [fire, pulse, act_up up, act_up up, fireAlarm_eq]
  refine ⟨fun armed due => ?_, fun t n pin ended => ?_⟩
  · rw [if_pos (by simp [alarmDue, armed, due])]
    refine ⟨fun kind => ?_, fun kind => ?_, fun kind held => ?_, fun kind free hit beaten u hhit hbeaten hu => ?_⟩
    · rw [if_neg (by omega), if_neg (by omega)]
    · rw [if_neg (by omega), if_pos kind]
    · rw [if_pos kind, alarmDout, if_pos ((frozen_fired s k.val).trans held)]
    · rw [if_pos kind, alarmDout_free ((frozen_fired s k.val).trans free)]
      obtain rfl : hit = commandHits (fired s k.val) (alarm s k.val).pin := hhit
      subst hbeaten hu
      unfold cincIf
      cases commandHits (fired s k.val) (alarm s k.val).pin <;> rfl
  · rw [alarmPulseEnd_due ended]
    rfl

end Sys2Proof.Machine
end

section
/-! Proofs of the family 06_ports_and_macs.md: the GOOSE publisher and subscriber, the queues and host rings, and the messages of a pair. -/

namespace Sys2Proof.Machine

/-! ### Publication slots (R206–R212, R229) -/

/-- ARG of a request names one of the 4096 slots or subscriptions. -/
theorem asks_arg_slot (s : State) (mid a op : Nat) (wr : Bool) (k : Fin 4096) (d : List Word) :
    (mbxAt (asks s mid a op wr k.val d) a).arg % 4096 = k.val := by
  rw [asks_arg]
  omega

section
variable {u : State} {a k : Nat} (arg : (mbxAt u a).arg % 4096 = k)
include arg

theorem gpbMbx_start (wr : (mbxAt u a).wr = true) (op : (mbxAt u a).op = 1) : gpbMbx a u = onPair (gpbStart u k) fun t c => mbxEnd t a c := by
  simp only [gpbMbx, wr, op, arg]

theorem gpbMbx_stop (wr : (mbxAt u a).wr = true) (op : (mbxAt u a).op = 2) : gpbMbx a u =
    if (slotGpb u k).running then mbxEnd (setSlotGpb u k { slotGpb u k with running := false }) a 0 else mbxEnd u a 0x07 := by
  simp only [gpbMbx, wr, op, arg]

theorem gpbMbx_publish (wr : (mbxAt u a).wr = true) (op : (mbxAt u a).op = 3) :
    gpbMbx a u = onPair (gpbPublish u k) fun t c => mbxEnd t a c := by
  simp only [gpbMbx, wr, op, arg]

theorem gpbMbx_read (wr : (mbxAt u a).wr = false) (op : (mbxAt u a).op = 4) : gpbMbx a u = mbxAnswer u a 0
    [w32 (slotGpb u k).stNum, w32 (slotGpb u k).sqNum, w32 ((slotGpb u k).active * 2 + b2n (slotGpb u k).running), w32 (nsOf (slotGpb u k).at_),
      w32 (secOf (slotGpb u k).at_), w32 (secOf (slotGpb u k).at_ / 2 ^ 32)] := by
  simp only [gpbMbx, wr, op, arg]

end

theorem gpbStart_running {s : State} {k : Nat} (on : (slotGpb s k).running = true) : gpbStart s k = (s, 0x08) := by
  rw [gpbStart, if_pos on]

section
variable {s u : State} {k : Nat} {h : Option (List Nat)} (off : (slotGpb s k).running = false)
  (header : physRead s gooseMid (slotAddr s k) 0x280 = (u, h))
include off header

theorem gpbStart_unreadHeader (none : h = none) : gpbStart s k = (u, 0x06) := by
  rw [gpbStart, if_neg (by simp [off]), header, none, onOpt_none]

/-- START once its header and the active buffer are read: the strings are tested, then the size (R206, R212). -/
theorem gpbStart_read {v : State} {hd data : List Nat} {n : Nat} {y : GpbSlot} (found : h = some hd)
    (buffer : readBuffer u k (slotGpb u k).active = (v, some (n, data))) (hy : y = gpbFresh v k hd) :
    gpbStart s k = if hdrOk hd = false then (v, 0x06) else if gooseFits v hd (slotOctets v y n data) = false then (v, 0x05)
      else (gooseSend (setSlotGpb v k y) k, 0) := by
  rw [gpbStart, if_neg (by simp [off]), header, found, onOpt_some, buffer, onOpt_some, ← hy]
  simp only [Bool.not_eq_true']

end

theorem gpbPublish_stopped {s : State} {k : Nat} (off : (slotGpb s k).running = false) : gpbPublish s k = (s, 0x07) := by
  simp only [gpbPublish, off, Bool.not_false, if_true]

section
variable {s u : State} {k : Nat} {d : Option (Nat × List Nat)} {x : GpbSlot} (hx : slotGpb s k = x) (on : x.running = true)
  (buffer : readBuffer s k (1 - x.active) = (u, d))
include hx on buffer

theorem gpbPublish_unread (none : d = none) : gpbPublish s k = (u, 0x06) := by
  simp only [gpbPublish, hx, on, buffer, none, onOpt_none, Bool.not_true, Bool.false_eq_true, if_false]

/-- PUBLISH of a state that fits, with outputs that are not frozen, takes it from the other buffer at once (R209, R212). -/
theorem gpbPublish_taken {n : Nat} {data : List Nat} (found : d = some (n, data))
    (fits : gooseFits u x.head (slotOctets u { x with stNum := goNext x.stNum, sqNum := 0, at_ := timeNow u } n data) = true)
    (free : frozen u = false) (kept : slotGpb u k = x) : gpbPublish s k = (gooseSend (setSlotGpb u k
      { x with stNum := goNext x.stNum, sqNum := 0, active := 1 - x.active, at_ := timeNow u, due := timeNow u }) k, 0) := by
  rw [gpbPublish, hx]
  dsimp only
  rw [if_neg (by simp [on]), buffer, found, onOpt_some, if_neg (by simp [fits]), if_neg (by simp [free]), gooseState, kept]

end

theorem gooseRetransmit_due {s : State} {k : Nat} (on : (slotGpb s k).running = true) (due : (slotGpb s k).due ≤ timeNow s) :
    gooseRetransmit s k = gooseSend (setSlotGpb s k { slotGpb s k with sqNum := goNext (slotGpb s k).sqNum }) k := by
  simp only [gooseRetransmit, on, due, decide_true, Bool.and_self, if_true]

theorem slotGpb_asks (s : State) (mid a op arg k : Nat) (wr : Bool) (d : List Word) : slotGpb (asks s mid a op wr arg d) k = slotGpb s k := rfl

section
variable {s : State} {mid : Mid} {k : Fin 4096} (free : Free s mid.toNat 0x420080)
include free

theorem act_gpbSlot {op : Nat} {wr : Bool} (small : op < 256) : act s (fun s => mbxRequest s mid.toNat 0x420080 op wr k.val []) =
    .next (respond (gpbMbx 0x420080 (asks s mid.toNat 0x420080 op wr k.val [])) {}) := by
  rw [act_up free.1, request_gpbSlot s mid.toNat op k.val wr [] free small, written_nil]
  rfl

theorem exec_gpbStart {t : State} {c : Nat} (h : gpbStart (asks s mid.toNat 0x420080 1 true k.val []) k.val = (t, c)) :
    exec (.gpbStart mid k) s = .next (ended t 0x420080 c) := by
  refine (act_gpbSlot free (op := 1) (by decide)).trans ?_
  rw [gpbMbx_start (asks_arg_slot ..) (asks_wr ..) (asks_op ..), h]
  rfl

theorem exec_gpbStop : exec (.gpbStop mid k) s = .next (if (slotGpb s k.val).running
    then ended (setSlotGpb (asks s mid.toNat 0x420080 2 true k.val []) k.val { slotGpb s k.val with running := false }) 0x420080 0
    else ended (asks s mid.toNat 0x420080 2 true k.val []) 0x420080 0x07) := by
  refine (act_gpbSlot free (op := 2) (by decide)).trans ?_
  rw [gpbMbx_stop (asks_arg_slot ..) (asks_wr ..) (asks_op ..), slotGpb_asks]
  split <;> rfl

theorem exec_gpbPublish {t : State} {c : Nat} (h : gpbPublish (asks s mid.toNat 0x420080 3 true k.val []) k.val = (t, c)) :
    exec (.gpbPublish mid k) s = .next (ended t 0x420080 c) := by
  refine (act_gpbSlot free (op := 3) (by decide)).trans ?_
  rw [gpbMbx_publish (asks_arg_slot ..) (asks_wr ..) (asks_op ..), h]
  rfl

theorem exec_gpbRead {x : GpbSlot} (hx : slotGpb s k.val = x) : exec (.gpbRead mid k) s = .next (answered s mid.toNat 0x420080 4 k.val
    [w32 x.stNum, w32 x.sqNum, w32 (x.active * 2 + b2n x.running), w32 (nsOf x.at_), w32 (secOf x.at_), w32 (secOf x.at_ / 2 ^ 32)]) := by
  refine (act_gpbSlot free (op := 4) (by decide)).trans ?_
  rw [gpbMbx_read (asks_arg_slot ..) (asks_wr ..) (asks_op ..), slotGpb_asks, hx]
  rfl

end

/-- Settles O37: a retransmission, and the four requests, each by its tests in their order. That a header or a buffer which cannot be read answers
0x06, and the order of the tests of START, are log 45. -/
theorem goosePublisher : Obligations.GoosePublisher := by
  intro s mid k x up hx
  subst hx
  have retransmit : exec (.gooseRetransmit k) s = act s fun s => gooseRetransmit s k.val := rfl
  refine ⟨fun on due => by rw [retransmit, act_up up, gooseRetransmit_due on due], fun free => ⟨fun on => ?_, fun u h off header => ⟨fun none => ?_,
    fun v hd n data y found buffer hy => ?_⟩, exec_gpbStop free, fun off => ?_, fun u d on buffer => ⟨fun none => ?_,
    fun n data found fits unfrozen kept => ?_⟩, exec_gpbRead free rfl⟩⟩
  · exact exec_gpbStart free (gpbStart_running on)
  · exact exec_gpbStart free (gpbStart_unreadHeader off header none)
  · have tests := gpbStart_read (s := asks s mid.toNat 0x420080 1 true k.val []) off header found buffer hy
    refine ⟨fun bad => ?_, fun ok large => ?_, fun ok fits => ?_⟩
    · exact exec_gpbStart free (tests.trans (if_pos bad))
    · exact exec_gpbStart free (tests.trans ((if_neg (by simp [ok])).trans (if_pos large)))
    · exact exec_gpbStart free (tests.trans ((if_neg (by simp [ok])).trans (if_neg (by simp [fits]))))
  · exact exec_gpbPublish free (gpbPublish_stopped off)
  · exact exec_gpbPublish free (gpbPublish_unread rfl on buffer none)
  · exact exec_gpbPublish free (gpbPublish_taken rfl on buffer found fits unfrozen kept)

/-! ### Subscriptions: frames and expiry (R214, R217, R219, R220) -/

/-- A frame of port 18 is handled unless an event is held (R214, R219). -/
theorem gooseSubFrame_next {s : State} {c : Nat} {f : Frame} (unheld : s.mac.goose.hold = none) (class_ : nextClass s 18 = some c)
    (head : headOf s 18 c = some f) : gooseSubFrame s = gooseHandle (takeHead s 18 c) f := by
  simp only [gooseSubFrame, unheld, class_, head, Option.isSome_none, Bool.false_eq_true, if_false]

theorem gooseHandle_stopped {s : State} (f : Frame) (off : enabled s 0x421000 = false) : gooseHandle s f = cinc s Fld.GSB_STOPPED_COUNT := by
  rw [gooseHandle, if_pos (by simp [off])]

section
variable {s : State} {f : Frame} (on : enabled s 0x421000 = true)
include on

theorem gooseHandle_malformed (bad : (f.oversize || f.fcsBad) = true ∨ goosePrefix f.bytes = none) :
    gooseHandle s f = cinc s Fld.GSB_FORMAT_COUNT := by
  rw [gooseHandle, if_neg (by simp [on])]
  split
  · rfl
  · next whole =>
    rw [bad.resolve_left whole]

section
variable {gocb rest : List Nat} (whole : (f.oversize || f.fcsBad) = false) (named : goosePrefix f.bytes = some (gocb, rest))
include whole named

theorem gooseHandle_unmatched (other : gsbMatch s f.bytes gocb = none) : gooseHandle s f = cinc s Fld.GSB_NOMATCH_COUNT := by
  rw [gooseHandle, if_neg (by simp [on]), if_neg (by simp [whole]), named]
  simp only [other]

/-- A frame without a tag that passes steps 4 to 8 of R214 goes to the state test. -/
theorem gooseHandle_accepted {k : Nat} {x : GsbSub} {p : GoosePdu} (own : gsbMatch s f.bytes gocb = some k) (sub : subOf s k = some x)
    (sim : simOk (bits (x.d.getD 4 0) 29 28) (bit (be f.bytes (appAt f.bytes + 4) 2) 15) = true) (parsed : pduRest rest = some p)
    (rev : p.confRev = x.d.getD 3 0) (plain : bit (x.d.getD 4 0) 30 = false) : gooseHandle s f = gooseTake s k x f p := by
  rw [gooseHandle, if_neg (by simp [on]), if_neg (by simp [whole]), named]
  simp only [own, sub, sim, parsed, rev, plain, Bool.not_true, Bool.false_eq_true, if_false, ne_eq, not_true]

end
end

/-- A new state outside pair operation, once its entry is written, is kept and posted (R217–R219). -/
theorem gooseTake_new {s u : State} {k : Nat} {x : GsbSub} {f : Frame} {p : GoosePdu} (new : x.st ≠ .live ∨ p.stNum ≠ x.stNum)
    (alone : pairOp s = false)
    (entered : subWrite s x p.stNum (bufferEntry p.stNum p.sqNum (f.ts / nsUnit) p.ndat p.data) = (u, true)) :
    gooseTake s k x f p = goosePost
      (setSub u k { x with st := .live, stNum := p.stNum, sqNum := p.sqNum, ns := f.ts / nsUnit, ttl := p.ttl, nds := p.nds })
      (gooseEvent k x p.stNum p.sqNum (f.ts / nsUnit) p.nds false) (bufferEntry p.stNum p.sqNum (f.ts / nsUnit) p.ndat p.data) true none := by
  have changes : (x.st != .live || p.stNum != x.stNum) = true := by simpa using new
  simp only [gooseTake, changes, alone, entered, onOk_true, Bool.not_true, Bool.false_and, Bool.false_eq_true, if_false]

/-- A LIVE subscription that watches its time expires once that is over (R220). -/
theorem gooseExpire_due {s : State} {n : Nat} {x : GsbSub} (sub : subOf s n = some x) (on : enabled s 0x421000 = true) (valid : x.valid = true)
    (live : x.st = .live) (watched : bit (x.d.getD 4 0) 26 = true) (past : (x.ns + x.ttl * 10 ^ 6) * nsUnit ≤ timeNow s) :
    gooseExpire s n = expiryPost (cinc (setSub s n { x with st := .expired }) Fld.GSB_EXPIRE_COUNT) n
      (gooseEvent n x x.stNum x.sqNum (x.ns + x.ttl * 10 ^ 6) x.nds true) := by
  rw [gooseExpire, sub]
  dsimp only
  rw [if_neg (by simp only [on, valid, live, watched, Nat.not_lt.2 past, decide_false, bne_self_eq_false, Bool.not_true, Bool.or_self,
    Bool.false_eq_true, not_false_eq_true])]

/-! ### Subscriptions: their mailboxes (R215, R217, R223) -/

/-- Another valid subscription has the key (R215). -/
def keyTaken (s : State) (n : Nat) (x : GsbSub) : Bool := s.mac.goose.subs.any fun e => e.1 != n && e.2.valid && e.2.key == x.key

section
variable {s : State} {n : Nat} {w : Nat → Nat} {x : GsbSub} (hx : x = { d := subWords w })
include hx

theorem gsbWrite_otherKey {o : GsbSub} (sub : subOf s n = some o) (valid : o.valid = true) (other : o.key ≠ x.key) : gsbWrite s n w = (s, 0x05) := by
  subst hx
  simp only [gsbWrite, sub, Option.filter_some, valid, if_true, bne_iff_ne.2 other]

/-- With no valid subscription there, a new one is written, unless another has its key. -/
theorem gsbWrite_first (unused : ∀ o, subOf s n = some o → o.valid = false) :
    gsbWrite s n w = if keyTaken s n x then (s, 0x02) else (setSub s n x, 0) := by
  have old : (subOf s n).filter (·.valid) = none := Option.filter_eq_none_iff.2 fun o sub => by simp [unused o sub]
  subst hx
  simp only [gsbWrite, old, Bool.false_eq_true, if_false]
  rfl

/-- A valid subscription under the same key takes the new words, unless another has its key. -/
theorem gsbWrite_renews {o : GsbSub} (sub : subOf s n = some o) (valid : o.valid = true) (same : o.key = x.key) :
    gsbWrite s n w = if keyTaken s n x then (s, 0x02) else (setSub s n { o with d := x.d }, 0) := by
  subst hx
  simp only [gsbWrite, sub, Option.filter_some, valid, if_true, same, bne_self_eq_false, Bool.false_eq_true, if_false]
  rfl

theorem gsbWrite_dupKey (same : ∀ o, subOf s n = some o → o.valid = true → o.key = x.key) (taken : keyTaken s n x = true) :
    gsbWrite s n w = (s, 0x02) := by
  by_cases unused : ∀ o, subOf s n = some o → o.valid = false
  · rw [gsbWrite_first hx unused, if_pos taken]
  · simp only [Classical.not_forall, Bool.not_eq_false] at unused
    obtain ⟨o, sub, valid⟩ := unused
    rw [gsbWrite_renews hx sub valid (same o sub valid), if_pos taken]

end

section
variable {u : State} {a n : Nat} (arg : (mbxAt u a).arg % 4096 = n)
include arg

theorem gsbMbx_write (wr : (mbxAt u a).wr = true) (op : (mbxAt u a).op = 1) :
    gsbMbx .GSB_SUB a u = onPair (gsbWrite u n (mbxAt u a).w) fun t c => mbxEnd t a c := by
  simp only [gsbMbx, wr, op, arg]

theorem gsbMbx_read {x : GsbSub} (wr : (mbxAt u a).wr = false) (op : (mbxAt u a).op = 2) (sub : subOf u n = some x) : gsbMbx .GSB_SUB a u =
    mbxAnswer u a 0 ((List.range 9).map fun i => w32 (x.d.getD i 0 + (if i = 4 then bitAt x.valid 31 else 0))) := by
  simp only [gsbMbx, wr, op, arg, sub]

theorem gsbMbx_disable {x : GsbSub} (wr : (mbxAt u a).wr = true) (op : (mbxAt u a).op = 3) (sub : subOf u n = some x) :
    gsbMbx .GSB_SUB a u = mbxEnd (setSub u n { x with valid := false }) a 0 := by
  simp only [gsbMbx, wr, op, arg, sub]

theorem gsbMbx_state {x : GsbSub} (wr : (mbxAt u a).wr = false) (op : (mbxAt u a).op = 1) (sub : subOf u n = some x) :
    gsbMbx .GSB_STATE a u = mbxAnswer u a 0 [w32 x.stNum, w32 x.sqNum, w32 (x.ns % 10 ^ 9), w32 (x.ns / 10 ^ 9), w32 (x.ns / 10 ^ 9 / 2 ^ 32),
      w32 (bitAt x.valid 31 + x.st.code), w32 x.ttl] := by
  simp only [gsbMbx, wr, op, arg, sub, bne_self_eq_false, Bool.or_self, Bool.false_eq_true, if_false]

end

theorem subOf_congr {s u : State} (mac : u.mac = s.mac) (n : Nat) : subOf u n = subOf s n := by rw [subOf, subOf, mac]

theorem keyTaken_congr {s u : State} (mac : u.mac = s.mac) (n : Nat) (x : GsbSub) : keyTaken u n x = keyTaken s n x := by
  rw [keyTaken, keyTaken, mac]

section
variable {s : State} {mid : Mid} {n : Fin 4096}

section
variable (free : Free s mid.toNat 0x421080)
include free

theorem act_gsbSub {op : Nat} {wr : Bool} (d : List Word) (small : op < 256) :
    act s (fun s => mbxRequest s mid.toNat 0x421080 op wr n.val d) =
      .next (respond (gsbMbx .GSB_SUB 0x421080 (asks (written s d) mid.toNat 0x421080 op wr n.val d)) {}) := by
  rw [act_up free.1, request_gsbSub s mid.toNat op n.val wr d free small]
  rfl

theorem exec_gsbSubWrite {d : List Word} {q t : State} {c : Nat} (few : d.length ≤ 12)
    (hq : q = asks (written s d) mid.toNat 0x421080 1 true n.val d) (h : gsbWrite q n.val (word s 0x421080 d) = (t, c)) :
    exec (.gsbSubWrite mid n d) s = .next (ended t 0x421080 c) := by
  have words : (mbxAt q 0x421080).w = word s 0x421080 d :=
    hq ▸ funext fun i => asks_word s mid.toNat 0x421080 1 n.val true d few i
  refine (act_gsbSub free d (op := 1) (by decide)).trans ?_
  rw [gsbMbx_write (asks_arg_slot ..) (asks_wr ..) (asks_op ..), ← hq, words, h]
  rfl

theorem exec_gsbSubRead {x : GsbSub} (sub : subOf s n.val = some x) : exec (.gsbSubRead mid n) s = .next (answered s mid.toNat 0x421080 2 n.val
    ((List.range 9).map fun i => w32 (x.d.getD i 0 + (if i = 4 then bitAt x.valid 31 else 0)))) := by
  refine (act_gsbSub free [] (op := 2) (by decide)).trans ?_
  rw [written_nil, gsbMbx_read (asks_arg_slot ..) (asks_wr ..) (asks_op ..) ((subOf_congr (asks_mac ..) n.val).trans sub)]
  rfl

theorem exec_gsbSubDisable {x : GsbSub} (sub : subOf s n.val = some x) : exec (.gsbSubDisable mid n) s =
    .next (ended (setSub (asks s mid.toNat 0x421080 3 true n.val []) n.val { x with valid := false }) 0x421080 0) := by
  refine (act_gsbSub free [] (op := 3) (by decide)).trans ?_
  rw [written_nil, gsbMbx_disable (asks_arg_slot ..) (asks_wr ..) (asks_op ..) ((subOf_congr (asks_mac ..) n.val).trans sub)]
  rfl

end

theorem exec_gsbStateRead (free : Free s mid.toNat 0x4210C0) {x : GsbSub} (sub : subOf s n.val = some x) :
    exec (.gsbStateRead mid n) s = .next (answered s mid.toNat 0x4210C0 1 n.val [w32 x.stNum, w32 x.sqNum, w32 (x.ns % 10 ^ 9),
      w32 (x.ns / 10 ^ 9), w32 (x.ns / 10 ^ 9 / 2 ^ 32), w32 (bitAt x.valid 31 + x.st.code), w32 x.ttl]) := by
  have command : exec (.gsbStateRead mid n) s = act s fun s => mbxRequest s mid.toNat 0x4210C0 1 false n.val [] := rfl
  have asked : trlMbx .GSB_STATE 0x4210C0 (asks s mid.toNat 0x4210C0 1 false n.val []) =
    gsbMbx .GSB_STATE 0x4210C0 (asks s mid.toNat 0x4210C0 1 false n.val []) := rfl
  rw [command, act_up free.1, request_gsbState s mid.toNat 1 n.val false [] free (by decide), written_nil, asked,
    gsbMbx_state (asks_arg_slot ..) (asks_wr ..) (asks_op ..) ((subOf_congr (asks_mac ..) n.val).trans sub)]
  rfl

end

/-- Settles O38: a frame by the step of R214 that it comes to, an expiry, and the requests. That INUSE comes before DUPKEY is the model's choice. -/
theorem gooseSubscriber : Obligations.GooseSubscriber := by
  intro s mid n up
  have frame : exec .gooseSubFrame s = act s gooseSubFrame := rfl
  have expire : exec (.gooseExpire n) s = act s fun s => gooseExpire s n.val := rfl
  refine ⟨fun c f q unheld class_ head hq => ?_, fun x sub on valid live watched past => ?_,
    fun free => ⟨fun d x q few hx hq => ?_, fun x sub => ⟨exec_gsbSubRead free sub, exec_gsbSubDisable free sub⟩⟩,
    fun x free sub => exec_gsbStateRead free sub⟩
  · rw [frame, act_up up, gooseSubFrame_next unheld class_ head, ← hq]
    refine ⟨fun off => ?_, fun on bad => ?_, fun gocb rest on whole named => ⟨fun other => ?_,
      fun k x p u own sub sim parsed rev plain new alone entered => ?_⟩⟩
    · rw [gooseHandle_stopped f off]
    · rw [gooseHandle_malformed on bad]
    · rw [gooseHandle_unmatched on whole named other]
    · rw [gooseHandle_accepted on whole named own sub sim parsed rev plain, gooseTake_new new alone entered]
  · rw [expire, act_up up, gooseExpire_due sub on valid live watched past]
  · have mac : q.mac = s.mac := by rw [hq, asks_mac, written_mac]
    have subs := subOf_congr mac n.val
    have keys : keyTaken q n.val x = s.mac.goose.subs.any fun e => e.1 != n.val && e.2.valid && e.2.key == x.key := keyTaken_congr mac n.val x
    rw [← keys, ← subs]
    refine ⟨fun o sub valid other => ?_, fun same => ⟨fun taken => ?_, fun unique => ⟨fun o sub valid => ?_, fun unused => ?_⟩⟩⟩
    · exact exec_gsbSubWrite free few hq (gsbWrite_otherKey hx sub valid other)
    · exact exec_gsbSubWrite free few hq (gsbWrite_dupKey hx same taken)
    · exact exec_gsbSubWrite free few hq ((gsbWrite_renews hx sub valid (same o sub valid)).trans (if_neg (by simp [unique])))
    · exact exec_gsbSubWrite free few hq ((gsbWrite_first hx unused).trans (if_neg (by simp [unique])))

/-! ### Spilled frames read back (R245, R246) -/

theorem stampDrop_trl (s : State) (m : Nat) (f : Frame) : (stampDrop s m f).trl = s.trl := by
  unfold stampDrop
  split
  · unfold storeStamp
    dsimp only
    split <;> rfl
  · rfl

theorem setAdm_full (s : State) (k : Nat) (q : List Frame) : (setAdm s k q).trl.full = s.trl.full := by
  unfold setAdm
  split <;> rfl

/-- The queues move on after a change of the queue `k` (R243, R245). -/
def queueMoves (k : Nat) (s : State) : State := if s.trl.full then trlPump s else settleHead s (k / 8) (k % 8)

theorem queueMoves_of_full {k : Nat} {s : State} {full : Bool} (h : s.trl.full = full) :
    queueMoves k s = if full then trlPump s else settleHead s (k / 8) (k % 8) := by
  rw [queueMoves, h]

/-- A spilled frame that cannot be read back leaves its queue, counted (R142, R597). -/
def spillLost (s : State) (k : Nat) (rest : List Frame) (f : Frame) : State :=
  if k % 160 < 128 then stampDrop (cinc (setAdm s k rest) Fld.TRL_ECC_DROP_COUNT) (k % 160 / 8) f
  else cinc (setAdm s k rest) Fld.TRL_ECC_DROP_COUNT

theorem spillLost_full (s : State) (k : Nat) (rest : List Frame) (f : Frame) : (spillLost s k rest f).trl.full = s.trl.full := by
  unfold spillLost
  split
  · rw [stampDrop_trl, cinc_trl, setAdm_full]
  · rw [cinc_trl, setAdm_full]

/-- A spilled frame takes its place behind the frames on chip (R245). -/
def spillBack (s : State) (k : Nat) (pre post : List Frame) (f : Frame) (bs : List Nat) : State :=
  setAdm { s with trl := { s.trl with queued := s.trl.queued + 1 } } k
    (pre ++ { f with bytes := bs, dram := false, dcells := [], queued := s.trl.queued } :: post)

theorem spillBack_full (s : State) (k : Nat) (pre post : List Frame) (f : Frame) (bs : List Nat) :
    (spillBack s k pre post f bs).trl.full = s.trl.full := setAdm_full ..

/-- The frames on chip stand before the first that is not. -/
theorem first_dram {pre post : List Frame} {f : Frame} (chip : ∀ g ∈ pre, g.dram = false) (dram : f.dram = true) :
    (pre ++ f :: post).find? (fun g => g.dram) = some f ∧ (pre ++ f :: post).takeWhile (fun g => !g.dram) = pre := by
  induction pre with
  | nil => simp [dram]
  | cons g pre ih =>
    obtain ⟨found, before⟩ := ih fun x hx => chip x (List.mem_cons_of_mem _ hx)
    have here := chip g (List.mem_cons_self ..)
    simp only [List.cons_append, List.find?_cons, List.takeWhile_cons, here, Bool.not_false, if_true, found, before, and_self]

/-- The first spilled frame of a queue is read where the queue has room on chip, and the window bytes (R245, R246). -/
theorem spillReadback_reads {s v : State} {k : Nat} {pre post : List Frame} {f : Frame} (queue : tat (admQueues s) k [] = pre ++ f :: post)
    (chip : ∀ g ∈ pre, g.dram = false) (dram : f.dram = true) (few : cellsIn false (pre ++ f :: post) < 64)
    (window : (spillUsed s).2 + 64 * cellsOf f ≤ 25000) (still : s.trl.full = true ∨ movingTo s k = [])
    (hv : v = { s with trl := { s.trl with spill := (s.sdl.fab / 1000, (spillUsed s).1, (spillUsed s).2 + 64 * cellsOf f) } }) :
    spillReadback s k = onOpt (ovfRead v f.dcells f.bytes.length) (fun u => queueMoves k (spillLost u k (pre ++ post) f))
      fun u bs => queueMoves k (spillBack u k pre post f bs) := by
  obtain ⟨found, before⟩ := first_dram (post := post) chip dram
  have behind : (pre ++ f :: post).drop (pre.length + 1) = post := by simp
  have free : (!s.trl.full && !(movingTo s k).isEmpty) = false := by rcases still with h | h <;> simp [h]
  subst hv
  simp only [spillReadback, onPair, queue, found, before, behind, free, Nat.not_le.2 few, Nat.not_lt.2 window]
  rfl

/-! ### Transmit rings (R252, R253, R255) -/

section
variable {s q u : State} {r : Nat} {b : Option (List Nat)} (on : enabled s 0x410000 = true)
  (ready : (((List.range 8).map fun i => (s.trl.lastTx + 1 + i) % 8).find? (txReady s)) = some r)
  (hq : q = { s with trl := { s.trl with lastTx := r } })
  (desc : physRead q dmaMid (fget s (Fld.TRL_TXR_BASE_ADDR r) * 4096 + (txRing s r).head * 32) 32 = (u, b))
include on ready hq desc

/-- The next ready ring's descriptor is read, then its frame (R253, R255). -/
theorem hostTx_next : hostTx s = onOpt (u, b) (fun u => haltTx u r) fun u d =>
    onOpt (physRead u dmaMid (ofLe (d.take 8)) (ofLe ((d.drop 8).take 2))) (fun v => haltTx v r) fun v bs => txTake v r (txRing s r) d bs := by
  rw [← desc, hq, hostTx, if_neg (by simp [on]), ready]
  rfl

theorem hostTx_badDescriptor (none : b = none) : hostTx s = haltTx u r := by
  rw [hostTx_next on ready hq desc, none, onOpt_none]

section
variable {v : State} {d : List Nat} {b' : Option (List Nat)} (found : b = some d)
  (frame : physRead u dmaMid (ofLe (d.take 8)) (ofLe ((d.drop 8).take 2)) = (v, b'))
include found frame

theorem hostTx_badFrame (none : b' = none) : hostTx s = haltTx v r := by
  rw [hostTx_next on ready hq desc, found, onOpt_some, frame, none, onOpt_none]

theorem hostTx_takes {bs : List Nat} (whole : b' = some bs) : hostTx s = txTake v r (txRing s r) d bs := by
  rw [hostTx_next on ready hq desc, found, onOpt_some, frame, whole, onOpt_some]

end
end

/-- A whole host frame goes to the port that its descriptor names, or by table where it names none (R201, R237, R253). -/
theorem txTake_whole {s w : State} {r : Nat} {ring : Ring} {d bs : List Nat} {f : Frame} (whole : 14 ≤ bs.length)
    (hw : w = cinc { s with trl := { s.trl with
      tx := tset s.trl.tx r { ring with head := (ring.head + 1) % 2 ^ fget s (Fld.TRL_TXR_SIZE_LOG r) } } } (Fld.TRL_TXC_COUNT r))
    (hf : f = { frameOfDesc s r d with
      bytes := bs, prio := match outerTag bs with | some t => t / 8192 | none => (frameOfDesc s r d).tc })
    {port mask : Nat} (hport : port = bits (ofLe ((d.drop 8).take 4)) 31 27) (hmask : mask = if f.asIs then 2 ^ port else widenPairs w (2 ^ port)) :
    txTake s r ring d bs = if port < 16 then trlHand (neverSent w f (mask - openPorts w mask)) f (openPorts w mask)
      else trlForward w { f with asIs := false } [] := by
  subst hmask hport hw hf
  simp only [txTake, Nat.not_lt.2 whole, if_false] <;> rfl

/-! ### Receive rings (R250, R254, R255) -/

section
variable {s u : State} {c at_ cap : Nat} {g : Ring} {f : Frame} {b : Option (List Nat)} (on : enabled s 0x410000 = true) (hg : g = rxRing s c)
  (runs : g.halt = false) (room : g.head ≠ fget s (Fld.TRL_RXR_TAIL_TAIL c)) (head : headOf s 17 c = some f)
  (hat : at_ = fget s (Fld.TRL_RXR_BASE_ADDR c) * 4096 + g.head * 32) (hcap : cap = fget s (Fld.TRL_RXR_SIZE_BUFLEN c))
  (desc : physRead (takeHead s 17 c) dmaMid at_ 8 = (u, b))
include on hg runs room head hat hcap desc

/-- The head frame of class `c` is taken, and its buffer's address read; then the frame is written, then its descriptor (R254, R255). -/
theorem hostRx_next : hostRx s c = onOpt (u, b) (fun u => haltRx u c) fun u a =>
    onOk (physWrite u dmaMid (ofLe a) (f.bytes.take cap)) (fun v => haltRx v c) fun v =>
      onOk (physWrite v dmaMid (at_ + 8) (rxDesc f (f.bytes.take cap).length)) (fun w => haltRx w c) fun w =>
        let x := if cap < f.bytes.length then cinc w Fld.TRL_DMA_TRUNC_COUNT else w
        cinc { x with trl := { x.trl with
          rx := tset x.trl.rx c { g with head := (g.head + 1) % 2 ^ fget x (Fld.TRL_RXR_SIZE_LOG c) } } } (Fld.TRL_RXC_COUNT c) := by
  have ready : ¬ (!enabled s 0x410000 || g.halt || g.head == fget s (Fld.TRL_RXR_TAIL_TAIL c)) = true := by simp [on, runs, room]
  rw [← desc, hat, hcap, hostRx, ← hg, if_neg ready, head]

theorem hostRx_badDescriptor (none : b = none) : hostRx s c = haltRx u c := by
  rw [hostRx_next on hg runs room head hat hcap desc, none, onOpt_none]

theorem hostRx_delivers {a : List Nat} {v w x : State} (found : b = some a)
    (data : physWrite u dmaMid (ofLe a) (f.bytes.take cap) = (v, true))
    (status : physWrite v dmaMid (at_ + 8) (rxDesc f (f.bytes.take cap).length) = (w, true))
    (hx : x = if cap < f.bytes.length then cinc w Fld.TRL_DMA_TRUNC_COUNT else w) : hostRx s c = cinc { x with trl := { x.trl with
      rx := tset x.trl.rx c { g with head := (g.head + 1) % 2 ^ fget x (Fld.TRL_RXR_SIZE_LOG c) } } } (Fld.TRL_RXC_COUNT c) := by
  rw [hostRx_next on hg runs room head hat hcap desc, found, onOpt_some, data, onOk_true, status, onOk_true, hx]

end

/-! ### A write of a ring's SIZE (R252) -/

/-- At `o` stands the register `n` of ring `i`, with the fields `fs`. -/
def ringRegB (o : Nat) (n : TrlReg) (i : Nat) (fs : List FieldDesc) : Bool := (regAt o).any fun l => decide (l.desc.name = .trl n ∧ l.i = i ∧
  l.desc.mbx = false ∧ l.addr = o ∧ l.page.base = 0x410000 ∧ l.desc.fields = fs)

/-- The field of TRL_TXRr_SIZE. -/
def txSizeFields : List FieldDesc := [⟨3, 0, .rw, false, 4, 4, 14, .none⟩]

/-- The fields of TRL_RXRr_SIZE. -/
def rxSizeFields : List FieldDesc := [⟨29, 16, .rw, false, 1536, 64, 16383, .none⟩, ⟨3, 0, .rw, false, 4, 4, 14, .none⟩]

theorem ringRegB_tx : ∀ r : Fin 8, ringRegB (0x410044 + 0x10 * r.val) .TRL_TXR_SIZE r.val txSizeFields = true := by decide +kernel

theorem ringRegB_rx : ∀ r : Fin 8, ringRegB (0x4100C4 + 0x10 * r.val) .TRL_RXR_SIZE r.val rxSizeFields = true := by decide +kernel

/-- No block but the Trellis follows a value of a TRL register. -/
theorem follow_trl (o t : State) (w : Staged) (h : 0x400000 ≤ w.addr ∧ w.addr < 0x500000) : follow o t (lands [w]) = t := by
  have out (c : Block) (hc : c ∈ [Block.sdl, .mac, .svi, .cas, .ltn, .blv, .cyc]) : lands [w] c = false := by
    refine lands_out w c ?_
    simp only [List.mem_cons, List.not_mem_nil, or_false] at hc
    rcases hc with rfl | rfl | rfl | rfl | rfl | rfl | rfl <;> simp only [Block.base] <;> omega
  simp only [follow, out .sdl (by simp), out .mac (by simp), out .svi (by simp), out .cas (by simp), out .ltn (by simp), out .blv (by simp),
    out .cyc (by simp), Bool.or_self, Bool.false_eq_true, if_false]

/-- The reference of a field of the register at `o`. -/
def fieldAt (o : Nat) (f : FieldDesc) : FieldRef := ⟨o, f.lo, f.hi - f.lo + 1, f.reset⟩

/-- A write of a ring's SIZE: each field clamped, then what follows in the Trellis (R252). -/
theorem meshWrite_ringSize {s : State} {mid o i : Nat} {n : TrlReg} {fs : List FieldDesc} (v : Word) (here : ringRegB o n i fs = true)
    (size : n = .TRL_TXR_SIZE ∨ n = .TRL_RXR_SIZE) (plain : ∀ f ∈ fs, f.acc = .rw ∧ f.prv = false ∧ f.dep = .none) (some_ : fs ≠ [])
    (low : 0x410000 ≤ o) (high : o < 0x411000) (aligned : o % 4 = 0) (may : mayWrite s mid o = true) (unlocked : locked s 0x410000 = false)
    (unclaimed : claimedBy s 0x410000 = none) : meshWrite s mid o v.toNat = respond (trlChanged n i
      (fs.foldl (fun t f => fset t (fieldAt o f) (clampTo f.min f.max (bits v.toNat f.hi f.lo))) s)) {} := by
  obtain ⟨l, hl, row⟩ := (Option.any_eq_true ..).1 here
  obtain ⟨name, index, mbx, addr, base, rfl⟩ := of_decide_eq_true row
  have word : v.toNat % 2 ^ 32 = v.toNat := Nat.mod_eq_of_lt v.isLt
  have fields : l.desc.fields.foldl (fun t f => fset t (refOf l f) (clampTo f.min f.max (bits v.toNat f.hi f.lo))) s =
      l.desc.fields.foldl (fun t f => fset t (fieldAt o f) (clampTo f.min f.max (bits v.toNat f.hi f.lo))) s := by
    refine List.foldl_rel (r := Eq) rfl fun f hf t _ same => ?_
    obtain ⟨_, _, free⟩ := plain f hf
    subst same
    simp only [refOf, fieldReset, free, addr, fieldAt]
  rw [meshWrite_plain s mid o v.toNat l hl may aligned (by omega) mbx (by simp [name]) addr plain some_ (by rw [base]; exact unclaimed)
    (by rw [base]; exact unlocked) (by rcases size with rfl | rfl <;> simp only [ignores, name]) (by simp [name]),
    follow_trl _ _ _ ⟨by dsimp only; omega, by dsimp only; omega⟩, word, fields]
  simp only [changed, hl, name, index]

/-- From `s` to `u` only stored fields have changed. -/
def OnlyFields (s u : State) : Prop := ∃ fields, u = { s with reg := { s.reg with fields := fields } }

theorem onlyFields_refl (s : State) : OnlyFields s s := ⟨s.reg.fields, rfl⟩

theorem OnlyFields.fset {s u : State} (h : OnlyFields s u) (f : FieldRef) (v : Nat) : OnlyFields s (fset u f v) := by
  obtain ⟨fields, rfl⟩ := h
  exact ⟨_, rfl⟩

theorem respond_ringSize {s u : State} (r : Nat) (tx : Bool) (h : OnlyFields s u) : respond (ringSize tx r u) {} = { s with
    trl := if tx then { s.trl with tx := tdel s.trl.tx r } else { s.trl with rx := tdel s.trl.rx r }
    reg := { s.reg with fields := (ringSize tx r u).reg.fields, resp := {} } } := by
  obtain ⟨fields, rfl⟩ := h
  cases tx <;> rfl

/-- A transmit ring with its new SIZE: empty, with TAIL cleared (R252). -/
def txResized (s : State) (r : Nat) (v : Word) : State := ringSize true r (fset s (Fld.TRL_TXR_SIZE_LOG r) (clampTo 4 14 (bits v.toNat 3 0)))

/-- A receive ring with its new SIZE: empty, with TAIL cleared (R252). -/
def rxResized (s : State) (r : Nat) (v : Word) : State := ringSize false r (fset (fset s (Fld.TRL_RXR_SIZE_BUFLEN r)
  (clampTo 64 16383 (bits v.toNat 29 16))) (Fld.TRL_RXR_SIZE_LOG r) (clampTo 4 14 (bits v.toNat 3 0)))

section
variable {s : State} {mid : Mid} {r : Fin 8} (v : Word) (up : s.cru.inReset = false) (unlocked : locked s 0x410000 = false)
  (unclaimed : claimedBy s 0x410000 = none)
include up unlocked unclaimed

theorem exec_txSizeWrite (may : mayWrite s mid.toNat (0x410044 + 0x10 * r.val) = true) :
    exec (.ringSizeWrite mid true r v) s = .next (respond (txResized s r.val v) {}) := by
  have command : exec (.ringSizeWrite mid true r v) s = act s fun s => meshWrite s mid.toNat (0x410044 + 0x10 * r.val) v.toNat := rfl
  rw [command, act_up up, meshWrite_ringSize v (ringRegB_tx r) (.inl rfl) (by decide) (by decide) (by omega) (by omega) (by omega) may unlocked unclaimed,
    Nat.mul_comm]
  rfl

theorem exec_rxSizeWrite (may : mayWrite s mid.toNat (0x4100C4 + 0x10 * r.val) = true) :
    exec (.ringSizeWrite mid false r v) s = .next (respond (rxResized s r.val v) {}) := by
  have command : exec (.ringSizeWrite mid false r v) s = act s fun s => meshWrite s mid.toNat (0x4100C4 + 0x10 * r.val) v.toNat := rfl
  rw [command, act_up up, meshWrite_ringSize v (ringRegB_rx r) (.inr rfl) (by decide) (by decide) (by omega) (by omega) (by omega) may unlocked unclaimed,
    Nat.mul_comm]
  rfl

end

section
variable (s : State) (r : Nat) (v : Word)

theorem respond_txResized : respond (txResized s r v) {} = { s with
    trl := { s.trl with tx := tdel s.trl.tx r }, reg := { s.reg with fields := (txResized s r v).reg.fields, resp := {} } } :=
  respond_ringSize r true ((onlyFields_refl s).fset _ _)

theorem respond_rxResized : respond (rxResized s r v) {} = { s with
    trl := { s.trl with rx := tdel s.trl.rx r }, reg := { s.reg with fields := (rxResized s r v).reg.fields, resp := {} } } :=
  respond_ringSize r false (((onlyFields_refl s).fset _ _).fset _ _)

theorem fget_txResized_tail : fget (txResized s r v) (Fld.TRL_TXR_TAIL_TAIL r) = 0 := fget_fset _ _ _

theorem fget_rxResized_tail : fget (rxResized s r v) (Fld.TRL_RXR_TAIL_TAIL r) = 0 := fget_fset _ _ _

theorem fget_txResized_ne {f : FieldRef} (size : fkey f ≠ fkey (Fld.TRL_TXR_SIZE_LOG r)) (tail : fkey f ≠ fkey (Fld.TRL_TXR_TAIL_TAIL r)) :
    fget (txResized s r v) f = fget s f := (fget_fset_ne _ _ _ _ tail).trans (fget_fset_ne _ _ _ _ size)

theorem fget_txResized_log : fget (txResized s r v) (Fld.TRL_TXR_SIZE_LOG r) = clampTo 4 14 (bits v.toNat 3 0) := by
  have tail : fkey (Fld.TRL_TXR_SIZE_LOG r) ≠ fkey (Fld.TRL_TXR_TAIL_TAIL r) := by simp only [fkey, Fld.TRL_TXR_SIZE_LOG, Fld.TRL_TXR_TAIL_TAIL]; omega
  exact (fget_fset_ne _ _ _ _ tail).trans (fget_fset _ _ _)

theorem fget_rxResized_log : fget (rxResized s r v) (Fld.TRL_RXR_SIZE_LOG r) = clampTo 4 14 (bits v.toNat 3 0) := by
  have tail : fkey (Fld.TRL_RXR_SIZE_LOG r) ≠ fkey (Fld.TRL_RXR_TAIL_TAIL r) := by simp only [fkey, Fld.TRL_RXR_SIZE_LOG, Fld.TRL_RXR_TAIL_TAIL]; omega
  exact (fget_fset_ne _ _ _ _ tail).trans (fget_fset _ _ _)

theorem fget_rxResized_buflen : fget (rxResized s r v) (Fld.TRL_RXR_SIZE_BUFLEN r) = clampTo 64 16383 (bits v.toNat 29 16) := by
  have tail : fkey (Fld.TRL_RXR_SIZE_BUFLEN r) ≠ fkey (Fld.TRL_RXR_TAIL_TAIL r) := by
    simp only [fkey, Fld.TRL_RXR_SIZE_BUFLEN, Fld.TRL_RXR_TAIL_TAIL]
    omega
  have log : fkey (Fld.TRL_RXR_SIZE_BUFLEN r) ≠ fkey (Fld.TRL_RXR_SIZE_LOG r) := by
    simp only [fkey, Fld.TRL_RXR_SIZE_BUFLEN, Fld.TRL_RXR_SIZE_LOG]
    omega
  exact (fget_fset_ne _ _ _ _ tail).trans ((fget_fset_ne _ _ _ _ log).trans (fget_fset _ _ _))

theorem txRing_txResized : txRing (txResized s r v) r = {} := tat_tdel_same s.trl.tx r {}

theorem rxRing_rxResized : rxRing (rxResized s r v) r = {} := tat_tdel_same s.trl.rx r {}

end

/-- Settles O40: a spilled frame read back or lost, a resequencer's timeout, a transmit and a receive ring by what memory answers, and a write of a
ring's SIZE. That a frame whose cells cannot be read is lost, counted in TRL_ECC_DROP, is log 102. -/
theorem hostRings : Obligations.HostRings := by
  intro s up
  have spill (k : Fin 3200) : exec (.spillReadback k) s = act s fun s => spillReadback s k.val := rfl
  have timeout (i o : Fin 20) (unit : Word) : exec (.resequenceTimeout i o unit) s =
    act s fun s => if enabled s 0x400000 then resequence s i.val o.val (some unit.toNat) else s := rfl
  have tx : exec .hostTxFrame s = act s hostTx := rfl
  have rx (c : Fin 8) : exec (.hostRxDeliver c) s = act s fun s => hostRx s c.val := rfl
  simp only [spill, timeout, tx, rx, act_up up]
  refine ⟨fun k q pre post f v u b next hq split chip dram few window still hnext hv read full => ?_,
    fun i o unit mine begun r on hmine hbegun hr => ?_, fun r q u b on ready hq desc => ⟨fun none => ?_,
      fun d v b' found frame => ⟨fun none => ?_, fun bs w f whole long hw hf => ⟨fun table => ?_, fun mask hmask port => ?_⟩⟩⟩,
    fun c g f at_ cap u b on hg runs room head hat hcap desc => ⟨fun none => ?_, fun a v w x found data status hx => ?_⟩,
    fun mid r v unlocked unclaimed => ⟨fun may => ?_, fun may => ?_⟩⟩
  · subst split hnext
    rw [spillReadback_reads hq chip dram few window still hv, read]
    refine ⟨fun bs back => ?_, fun none => ?_⟩
    · rw [back, onOpt_some, queueMoves_of_full ((spillBack_full ..).trans full)]
      rfl
    · rw [none, onOpt_none, queueMoves_of_full ((spillLost_full ..).trans full)]
      rfl
  · subst hmine hbegun hr
    rw [if_pos on]
    rfl
  · rw [hostTx_badDescriptor on ready hq desc none]
  · rw [hostTx_badFrame on ready hq desc found frame none]
  · rw [hostTx_takes on ready hq desc found frame whole, txTake_whole long hw hf rfl rfl, if_neg (Nat.not_lt.2 table)]
  · rw [hostTx_takes on ready hq desc found frame whole, txTake_whole long hw hf rfl hmask, if_pos port]
  · rw [hostRx_badDescriptor on hg runs room head hat hcap desc none]
  · rw [hostRx_delivers on hg runs room head hat hcap desc found data status hx]
  · exact ⟨_, exec_txSizeWrite v up unlocked unclaimed may, fget_txResized_log s r.val v, fget_txResized_tail s r.val v, txRing_txResized s r.val v,
      fun f size tail => fget_txResized_ne s r.val v size tail, respond_txResized s r.val v⟩
  · exact ⟨_, exec_rxSizeWrite v up unlocked unclaimed may, fget_rxResized_log s r.val v, fget_rxResized_buflen s r.val v,
      fget_rxResized_tail s r.val v, rxRing_rxResized s r.val v, respond_rxResized s r.val v⟩

/-! ### Messages of a pair (R221, R427, R428, R433, R437, R442, R449–R451, R460) -/

/-- The first copy of a message is noted, so that a later one is known (R427; log 46). -/
def msgNoted (s : State) (h : MsgHead) : State :=
  setFtb (msgSeen s h) { (msgSeen s h).ftb with seen := ((h.type, h.seq) :: (msgSeen s h).ftb.seen).take 1024 }

section
variable {s : State} (pair : pairOp s = true)
include pair

/-- A second copy of a message shows the partner only; the first has its effect (R427). -/
theorem onOk_msgTake (h : MsgHead) {γ : Type} (bad good : State → γ) : onOk (msgTake s h) bad good =
    if (msgSeen s h).ftb.seen.contains (h.type, h.seq) then bad (msgSeen s h) else good (msgNoted s h) := by
  rw [msgTake, if_neg (by simp [pair]), msgFirst]
  split
  · rw [onOk_false]
  · rw [onOk_true]
    rfl

section
variable {h : MsgHead} (again : (msgSeen s h).ftb.seen.contains (h.type, h.seq) = true)
include again

theorem controlReceive_again (c : Control) : controlReceive s h c = msgSeen s h := by
  rw [controlReceive, onOk_msgTake pair h, if_pos again]

theorem digestReceive_again (n out inp : Nat) : digestReceive s h n out inp = msgSeen s h := by
  rw [digestReceive, onOk_msgTake pair h, if_pos again]

end

section
variable {h : MsgHead} (first : (msgSeen s h).ftb.seen.contains (h.type, h.seq) = false)
include first

theorem controlReceive_first (c : Control) : controlReceive s h c = reqSend (controlReq (controlConfirm (giveWay
    (setFtb (msgNoted s h) { (msgNoted s h).ftb with phealth := c.health, pcfg := some c.cfg }) h.holder c.epoch) h c) c) := by
  rw [controlReceive, onOk_msgTake pair h, if_neg (Bool.eq_false_iff.1 first)]

/-- A DIGEST of a tick whose own digest is kept meets it (R442). -/
theorem digestReceive_meets {n : Nat} {d : Digest} (own : ((msgNoted s h).ftb.digs.find? fun d => d.tick == n) = some d) (out inp : Nat) :
    digestReceive s h n out inp = digestMeet (msgNoted s h) d out inp := by
  rw [digestReceive, onOk_msgTake pair h, if_neg (Bool.eq_false_iff.1 first), own]

/-- A DIGEST that comes before this module's own waits for it (R442). -/
theorem digestReceive_waits {n : Nat} (early : ((msgNoted s h).ftb.digs.find? fun d => d.tick == n) = none) (out inp : Nat) :
    digestReceive s h n out inp = setFtb (msgNoted s h) { (msgNoted s h).ftb with
      early := ((msgNoted s h).ftb.early ++ [(n, out, inp)]).drop ((msgNoted s h).ftb.early.length + 1 - 16) } := by
  rw [digestReceive, onOk_msgTake pair h, if_neg (Bool.eq_false_iff.1 first), early]

end

theorem sampleReceive_eq (h : MsgHead) (rs : List MirrorRec) : sampleReceive s h rs =
    if (msgSeen s h).ftb.seen.contains (h.type, h.seq) then msgSeen s h else rs.foldl mirrorPlace (msgNoted s h) := by
  rw [sampleReceive, onOk_msgTake pair h]

/-- An EVENT message joins its batch, or comes behind its cut (R437). -/
theorem eventReceive_eq (h : MsgHead) (e : PostedEvent) (key : Nat) (entry : List Nat) {q : State} (hq : q = msgNoted s h) : eventReceive s h e key entry =
    if (msgSeen s h).ftb.seen.contains (h.type, h.seq) then msgSeen s h
    else if cutOf q (tickOfNs q e.ns.toNat) ≤ timeNow q then cinc q Fld.FTB_EVLOST_COUNT
    else batchInsert q { ev := rawEv e, key := key, side := 1 - ownSide q, tick := tickOfNs q e.ns.toNat, entry := entry,
                         fresh := newState q (rawEv e) entry } := by
  rw [eventReceive, onOk_msgTake pair h, hq]
  rfl

/-- A JOIN_DATA message brings a joining module the system's part, once, and a pavilion's (R460, R461). -/
theorem joinData_eq (x : FtbHead) (d : JoinData) {q : State} (hq : q = msgNoted s (headOf' 5 x)) : joinData s x d =
    if (msgSeen s (headOf' 5 x)).ftb.seen.contains (5, x.seq.toNat) then msgSeen s (headOf' 5 x)
    else match q.ftb.join, d with
      | none, _ => q
      | some j, .system count epoch ang as sl fs =>
        if j.joiner && !j.started then joinSystem q j count.toNat epoch.toNat ang.toNat as sl fs else q
      | some j, .pavilion p gen sh pts ls qs =>
        if j.joiner then joinPavilion q j p.val gen.toNat (octets sh) (octets pts) (octets ls) (octets qs) else q := by
  rw [joinData, onOk_msgTake pair (headOf' 5 x), ← hq]
  congr 1
  cases q.ftb.join with
  | none => rfl
  | some j =>
    cases d with
    | system count epoch ang as sl fs =>
      dsimp only
      cases j.joiner with
      | false => rfl
      | true => cases j.started <;> rfl
    | pavilion p gen sh pts ls qs =>
      dsimp only
      cases j.joiner <;> rfl

end

/-! ### What goes out, and the cut of a batch (R428, R438) -/

theorem keepAlive_due {s : State} {n : Nat} (pair : pairOp s = true) (silent : s.ftb.sentAt + 10000 ≤ s.sdl.raw) (hn : n = tat s.ftb.seqs 1 0) :
    keepAlive s = { s with ftb := { s.ftb with
      seqs := tset s.ftb.seqs 1 ((n + 1) % 2 ^ 32), sentAt := s.sdl.raw
      sent := s.ftb.sent ++ [⟨1, n, ftbState s, tokenHeld s, (tickInProgress s).getD 0,
        [s.ftb.epoch, 0, 0, ftbHealth s, 0, 0] ++ digestWords (cfgDigest s) ++ [s.ftb.steps]⟩] } } := by
  rw [keepAlive, if_pos (by simp [pair, silent]), ftbControl, ftbSend, if_neg (by simp [pair]), hn]
  rfl

theorem sampleSend_due {s : State} {bs : List Nat} (pair : pairOp s = true) (hbs : bs = s.ftb.gather.flatMap (mirrorBytes s))
    (some_ : s.ftb.gather ≠ []) (due : 8000 ≤ bs.length ∨ s.ftb.gatherAt + 1000 ≤ s.sdl.fab) : sampleSend s =
    ftbSend { s with ftb := { s.ftb with gather := [] } } 3 (s.ftb.gather.length :: wordsOf bs) := by
  have sends : ¬ (s.ftb.gather.isEmpty || !pairOp s || (bs.length < 8000 && decide (s.sdl.fab < s.ftb.gatherAt + 1000))) = true := by
    simp [pair, some_]
    omega
  rw [sampleSend, ← hbs, if_neg sends]

/-- No event of a batch can be admitted in this fabric clock (R438). -/
theorem batchStep_waits {s : State} (h : s.ftb.toAdmit = [] ∨ s.ftb.admitFab = some s.sdl.fab) : batchStep s = s := by
  rw [batchStep]
  split
  · rfl
  · next x xs more => rw [if_pos (h.resolve_left (by simp [more]))]

/-- The next event of a batch is admitted, the first in its fabric clock (R438). -/
theorem batchStep_admits {s : State} {x : BatchEv} {xs : List BatchEv} (more : s.ftb.toAdmit = x :: xs) (free : s.ftb.admitFab ≠ some s.sdl.fab) :
    batchStep s = batchAdmit { s with ftb := { s.ftb with toAdmit := xs, admitFab := some s.sdl.fab } } x := by
  simp only [batchStep, more, free, if_false]

/-- Batch `n` cut, with `xs` to be admitted, the last one admitted at the fabric clock `c` (R438). -/
def batchTaken (s : State) (n : Nat) (xs : List BatchEv) (c : Option Nat) : State := { s with ftb := { s.ftb with
  toAdmit := xs, admitFab := c, batch := s.ftb.batch.filter (fun x => x.tick != n)
  past := s.ftb.past.filter (fun x => decide (n ≤ x.tick + 2)), cut := some n } }

theorem batchCut_due {s : State} {n : Nat} (pair : pairOp s = true) (due : dueBatch s = some n) : batchCut s = batchStep
    (batchTaken s n (s.ftb.toAdmit ++ sortedBy batchBefore (s.ftb.batch.filter fun x => x.tick == n)) s.ftb.admitFab) := by
  rw [batchCut, if_pos pair, due]
  rfl

/-! ### The commands -/

/-- The effect of a CONTROL, and the TOKEN pulse of one that asks or answers (R428, log 55). -/
theorem control_eq {s v : State} {h : FtbHead} {x : FtbCtl} {k : Control} (pair : pairOp s = true)
    (hk : k = { epoch := x.epoch.toNat, req := x.req.val, confirm := x.confirm, health := x.health.toNat, k := x.k.toNat, cfg := x.cfg.toNat })
    (hv : v = donorFollow (controlReceive s (headOf' 1 h) k) (headOf' 1 h)) : control s h x = if k.req ≠ 0 then chanPulse v true else v := by
  subst hk hv
  simp only [control, pair, Bool.true_and, decide_eq_true_eq]

/-- A frame that the port takes whole, and that parses as the partner's heartbeat GOOSE, shows its holder and EPOCH (R430, R451). -/
theorem receiveFrame_heartbeat {s q : State} {m : Nat} {bs : List Nat} {ok : Bool} {age : Nat} {hold : Bool} {e : Nat}
    (taken : takesFrame s m bs ok = true) (hq : q = frameReceive s m bs ok age) (pair : pairOp q = true) (beat : ghbParse q bs = some (hold, e)) :
    receiveFrame s m bs ok age = giveWay (setFtb q { q.ftb with ghbAt := q.sdl.fab, ghbLost := false, heard := true, pholder := hold }) hold e := by
  subst hq
  simp only [receiveFrame, taken, ghbReceive, pair, beat, Bool.not_true, Bool.false_eq_true, if_false, if_true]

/-- Settles O49: each message by whether it is a first copy, what goes out, a batch at its cut, and the heartbeat GOOSE. That a copy behind its cut
is counted in FTB_EVLOST is log 44, and the 1024 messages remembered are log 46. -/
theorem pairMessages : Obligations.PairMessages := by
  intro s up pair
  have control_ (h : FtbHead) (x : FtbCtl) : exec (.ftbControl h x) s = act s fun s => control s h x := rfl
  have digest (h : FtbHead) (n : BitVec 64) (out inp : BitVec 128) : exec (.ftbDigest h n out inp) s =
    act s fun s => seen s 2 h fun s m => digestReceive s m n.toNat out.toNat inp.toNat := rfl
  have sample (h : FtbHead) (rs : List FtbSampleRec) : exec (.ftbSample h rs) s =
    act s fun s => seen s 3 h fun s m => sampleReceive s m (rs.map mirrorRec) := rfl
  have event (h : FtbHead) (e : PostedEvent) (key : BitVec 64) (entry : List Byte) : exec (.ftbEvent h e key entry) s =
    act s fun s => seen s 4 h fun s m => eventReceive s m e key.toNat (octets entry) := rfl
  have join (h : FtbHead) (d : JoinData) : exec (.ftbJoinData h d) s = act s fun s => donorFollow (joinData s h d) (headOf' 5 h) := rfl
  have keep : exec .controlKeepalive s = act s keepAlive := rfl
  have send : exec .sampleBatchSend s = act s sampleSend := rfl
  have cut : exec .batchCut s = act s batchCut := rfl
  have beat (m : Fin 16) (bytes : List Byte) (age : BitVec 20) : exec (.partnerHeartbeatGoose m bytes true age) s =
    act s fun s => receiveFrame s m.val (octets bytes) true age.toNat := rfl
  simp only [control_, digest, sample, event, join, keep, send, cut, beat, act_up up, seen]
  refine ⟨fun h first hfirst => ?_, fun n silent hn => ?_, fun bs hbs some_ due => ?_, fun n xs f due hxs hf => ?_,
    fun m bytes age q hold e taken hq paired parsed => ?_⟩
  · obtain rfl : first = fun ty => msgNoted s (headOf' ty h) := hfirst
    refine ⟨fun x v again hv => ?_, fun x k u v once hk hu hv => ?_, fun n out inp => ⟨fun again => ?_, fun once =>
      ⟨fun d own => ?_, fun early => ?_⟩⟩, fun rs => ?_, fun e key entry q hq => ?_, fun d q hq => ?_⟩
    · rw [control_eq pair rfl (hv.trans (by rw [controlReceive_again pair again]))]
    · rw [control_eq pair hk (hv.trans (by rw [hu, controlReceive_first pair once]; rfl))]
    · rw [digestReceive_again pair again]
    · rw [digestReceive_meets pair once own]
    · rw [digestReceive_waits pair once early]
    · rw [sampleReceive_eq pair]
      rfl
    · rw [eventReceive_eq pair (headOf' 4 h) e key.toNat (octets entry) hq]
      rfl
    · rw [joinData_eq pair h d hq] <;> rfl
  · rw [keepAlive_due pair silent hn]
  · rw [sampleSend_due pair hbs some_ due]
  · obtain rfl : f = batchTaken s n := hf
    rw [batchCut_due pair due, ← hxs]
    refine ⟨fun waits => ?_, fun x t more free => ?_⟩
    · rw [batchStep_waits waits]
    · rw [batchStep_admits (s := batchTaken s n xs s.ftb.admitFab) more free]
      rfl
  · rw [receiveFrame_heartbeat taken hq paired parsed]

end Sys2Proof.Machine
end

section
/-! Proofs of the family 07_trellis_switch.md: the forwarding database. -/

namespace Sys2Proof.Machine

/-! ### Ageing (R239) -/

section
variable {s : State} {i : Nat} {e : FdbEntry} (entry : tget s.trl.fdb i = some e)
include entry

theorem fdbAge_expired (learned : e.static = false) (old : e.at_ + fget s Fld.TRL_AGE_S * 10 ^ 9 ≤ s.sdl.fab) :
    fdbAge s i = setFdb s (tdel s.trl.fdb i) := by
  simp only [fdbAge, entry, learned, old, Bool.not_false, decide_true, Bool.and_self, if_true]

theorem fdbAge_kept (stays : e.static = true ∨ s.sdl.fab < e.at_ + fget s Fld.TRL_AGE_S * 10 ^ 9) : fdbAge s i = s := by
  have fresh : (!e.static && decide (e.at_ + fget s Fld.TRL_AGE_S * 10 ^ 9 ≤ s.sdl.fab)) = false := by
    rcases stays with static | young
    · rw [static, Bool.not_true, Bool.false_and]
    · rw [decide_eq_false (Nat.not_le.2 young), Bool.and_false]
  simp only [fdbAge, entry, fresh, Bool.false_eq_true, if_false]

end

/-! ### The requests of TRL_FDB (R240, R259) -/

/-- Where WRITE puts the entry of a key: over the key's own, in a free way, or over the oldest learned one (R259). -/
def fdbPlace (s : State) (mac vid : Nat) : Option Nat :=
  ((fdbFind s mac vid).orElse fun _ => fdbFree s (fdbBucket mac vid)).orElse fun _ => fdbOldest s (fdbBucket mac vid)

theorem fdbFind_congr {s u : State} (trl : u.trl = s.trl) (mac vid : Nat) : fdbFind u mac vid = fdbFind s mac vid := by
  rw [fdbFind, fdbFind, trl]

theorem fdbPlace_congr {s u : State} (trl : u.trl = s.trl) (mac vid : Nat) : fdbPlace u mac vid = fdbPlace s mac vid := by
  rw [fdbPlace, fdbPlace, fdbFind_congr trl, fdbFree, fdbFree, fdbOldest, fdbOldest, trl]

/-- The mailbox at `a` names the key of an address and a VID in its words D0 and D1 (R259). -/
def FdbKey (u : State) (a mac vid : Nat) : Prop :=
  addrOfWords ((mbxAt u a).w 0) ((mbxAt u a).w 1 % 2 ^ 16) = mac ∧ bits ((mbxAt u a).w 1) 27 16 = vid

section
variable {u : State} {a mac vid : Nat}

section
variable (wr : (mbxAt u a).wr = true)
include wr

section
variable (op : (mbxAt u a).op = 1) (key : FdbKey u a mac vid)
include op key

theorem fdbMbx_write_placed {i : Nat} (place : fdbPlace u mac vid = some i) : fdbMbx a u = mbxEnd (fdbNote (setFdb u
    (tset u.trl.fdb i ⟨mac, vid, (mbxAt u a).w 2 % 2 ^ 20, true, u.sdl.fab⟩)) [(mac, vid)]) a 0 := by
  obtain ⟨rfl, rfl⟩ := key
  rw [fdbPlace] at place
  simp only [fdbMbx, op, wr, place]

theorem fdbMbx_write_full (full : fdbPlace u mac vid = none) : fdbMbx a u = mbxEnd u a 0x02 := by
  obtain ⟨rfl, rfl⟩ := key
  rw [fdbPlace] at full
  simp only [fdbMbx, op, wr, full]

end

section
variable (op : (mbxAt u a).op = 3) (key : FdbKey u a mac vid)
include op key

theorem fdbMbx_delete_found {i : Nat} (found : fdbFind u mac vid = some i) :
    fdbMbx a u = mbxEnd (fdbNote (setFdb u (tdel u.trl.fdb i)) [(mac, vid)]) a 0 := by
  obtain ⟨rfl, rfl⟩ := key
  simp only [fdbMbx, op, wr, found]

theorem fdbMbx_delete_absent (absent : fdbFind u mac vid = none) : fdbMbx a u = mbxEnd u a 0x01 := by
  obtain ⟨rfl, rfl⟩ := key
  simp only [fdbMbx, op, wr, absent]

end

theorem fdbMbx_flush (op : (mbxAt u a).op = 4) : fdbMbx a u = mbxEnd (fdbNote (setFdb u (u.trl.fdb.filter fun e => e.2.static))
    ((u.trl.fdb.filter fun e => !e.2.static).map fun e => (e.2.mac, e.2.vid))) a 0 := by
  simp only [fdbMbx, op, wr]

end

section
variable (wr : (mbxAt u a).wr = false) (op : (mbxAt u a).op = 2)
include wr op

theorem fdbMbx_read_entry {e : FdbEntry} (entry : tget u.trl.fdb ((mbxAt u a).arg % 2 ^ 14) = some e) : fdbMbx a u =
    mbxAnswer u a 0 [w32 (addrD0 e.mac), w32 (2 ^ 31 + bitAt e.static 30 + e.vid * 2 ^ 16 + addrD1 e.mac), w32 e.mask] := by
  simp only [fdbMbx, op, wr, entry]

theorem fdbMbx_read_empty (empty : tget u.trl.fdb ((mbxAt u a).arg % 2 ^ 14) = none) : fdbMbx a u = mbxAnswer u a 0 [] := by
  simp only [fdbMbx, op, wr, empty]

end

end

theorem asks_written_trl (s : State) (mid a op arg : Nat) (wr : Bool) (d : List Word) : (asks (written s d) mid a op wr arg d).trl = s.trl := by
  rw [asks_trl, written_trl]

theorem asks_written_sdl (s : State) (mid a op arg : Nat) (wr : Bool) (d : List Word) : (asks (written s d) mid a op wr arg d).sdl = s.sdl := by
  rw [asks_sdl, written_sdl]

/-- A request names in its mailbox the key that its words name. -/
theorem fdbKey_asks {s : State} {mid a op arg mac vid : Nat} {wr : Bool} {d : List Word} (few : d.length ≤ 12)
    (hmac : mac = addrOfWords (word s a d 0) (word s a d 1 % 2 ^ 16)) (hvid : vid = bits (word s a d 1) 27 16) :
    FdbKey (asks (written s d) mid a op wr arg d) a mac vid := by
  rw [FdbKey, asks_word _ _ _ _ _ _ _ few, asks_word _ _ _ _ _ _ _ few]
  exact ⟨hmac.symm, hvid.symm⟩

/-- READ names one of the 16,384 entries in the low bits of ARG. -/
theorem asks_arg_fdb (s : State) (mid a op : Nat) (wr : Bool) (i : BitVec 16) (d : List Word) :
    (mbxAt (asks s mid a op wr i.toNat d) a).arg % 2 ^ 14 = i.toNat % 2 ^ 14 := by
  rw [asks_arg]
  omega

section
variable {s : State} {mid : Mid} (free : Free s mid.toNat 0x401040)
include free

theorem act_trlFdb {op : Nat} {wr : Bool} (arg : Nat) (d : List Word) (small : op < 256) :
    act s (fun s => mbxRequest s mid.toNat 0x401040 op wr arg d) =
      .next (respond (fdbMbx 0x401040 (asks (written s d) mid.toNat 0x401040 op wr arg d)) {}) := by
  rw [act_up free.1, request_trlFdb s mid.toNat op arg wr d free small]
  rfl

section
variable {d : List Word} {mac vid : Nat} (few : d.length ≤ 12)
  (hmac : mac = addrOfWords (word s 0x401040 d 0) (word s 0x401040 d 1 % 2 ^ 16)) (hvid : vid = bits (word s 0x401040 d 1) 27 16)
include few hmac hvid

theorem exec_trlFdbWrite_placed {i : Nat} (place : fdbPlace s mac vid = some i) : exec (.trlFdbWrite mid d) s =
    .next (ended (fdbNote (setFdb (asks (written s d) mid.toNat 0x401040 1 true 0 d)
      (tset s.trl.fdb i ⟨mac, vid, word s 0x401040 d 2 % 2 ^ 20, true, s.sdl.fab⟩)) [(mac, vid)]) 0x401040 0) := by
  refine (act_trlFdb free 0 d (op := 1) (by decide)).trans ?_
  rw [fdbMbx_write_placed (asks_wr ..) (asks_op ..) (fdbKey_asks few hmac hvid) ((fdbPlace_congr (asks_written_trl ..) ..).trans place),
    asks_word _ _ _ _ _ _ _ few, asks_written_trl, asks_written_sdl, ended]

theorem exec_trlFdbWrite_full (full : fdbPlace s mac vid = none) :
    exec (.trlFdbWrite mid d) s = .next (ended (asks (written s d) mid.toNat 0x401040 1 true 0 d) 0x401040 0x02) := by
  refine (act_trlFdb free 0 d (op := 1) (by decide)).trans ?_
  rw [fdbMbx_write_full (asks_wr ..) (asks_op ..) (fdbKey_asks few hmac hvid) ((fdbPlace_congr (asks_written_trl ..) ..).trans full), ended]

theorem exec_trlFdbDelete_found {i : Nat} (found : fdbFind s mac vid = some i) : exec (.trlFdbDelete mid d) s =
    .next (ended (fdbNote (setFdb (asks (written s d) mid.toNat 0x401040 3 true 0 d) (tdel s.trl.fdb i)) [(mac, vid)]) 0x401040 0) := by
  refine (act_trlFdb free 0 d (op := 3) (by decide)).trans ?_
  rw [fdbMbx_delete_found (asks_wr ..) (asks_op ..) (fdbKey_asks few hmac hvid) ((fdbFind_congr (asks_written_trl ..) ..).trans found),
    asks_written_trl, ended]

theorem exec_trlFdbDelete_absent (absent : fdbFind s mac vid = none) :
    exec (.trlFdbDelete mid d) s = .next (ended (asks (written s d) mid.toNat 0x401040 3 true 0 d) 0x401040 0x01) := by
  refine (act_trlFdb free 0 d (op := 3) (by decide)).trans ?_
  rw [fdbMbx_delete_absent (asks_wr ..) (asks_op ..) (fdbKey_asks few hmac hvid) ((fdbFind_congr (asks_written_trl ..) ..).trans absent), ended]

end

section
variable {i : BitVec 16}

theorem exec_trlFdbRead_entry {e : FdbEntry} (entry : tget s.trl.fdb (i.toNat % 2 ^ 14) = some e) : exec (.trlFdbRead mid i) s =
    .next (answered s mid.toNat 0x401040 2 i.toNat
      [w32 (addrD0 e.mac), w32 (2 ^ 31 + bitAt e.static 30 + e.vid * 2 ^ 16 + addrD1 e.mac), w32 e.mask]) := by
  refine (act_trlFdb free i.toNat [] (op := 2) (by decide)).trans ?_
  rw [fdbMbx_read_entry (asks_wr ..) (asks_op ..) (by rw [asks_arg_fdb, asks_written_trl]; exact entry), written_nil, answered]

theorem exec_trlFdbRead_empty (empty : tget s.trl.fdb (i.toNat % 2 ^ 14) = none) :
    exec (.trlFdbRead mid i) s = .next (answered s mid.toNat 0x401040 2 i.toNat []) := by
  refine (act_trlFdb free i.toNat [] (op := 2) (by decide)).trans ?_
  rw [fdbMbx_read_empty (asks_wr ..) (asks_op ..) (by rw [asks_arg_fdb, asks_written_trl]; exact empty), written_nil, answered]

end

theorem exec_trlFdbFlush : exec (.trlFdbFlush mid) s =
    .next (ended (fdbNote (setFdb (asks s mid.toNat 0x401040 4 true 0 []) (s.trl.fdb.filter fun e => e.2.static))
      ((s.trl.fdb.filter fun e => !e.2.static).map fun e => (e.2.mac, e.2.vid))) 0x401040 0) := by
  refine (act_trlFdb free 0 [] (op := 4) (by decide)).trans ?_
  rw [fdbMbx_flush (asks_wr ..) (asks_op ..), written_nil, asks_trl, ended]

end

/-- Settles O39: an entry by its age, and each request by what it finds: WRITE by the place for its key, DELETE and READ by the entry there. -/
theorem forwardingDatabase : Obligations.ForwardingDatabase := by
  intro s mid up
  have age (i : Fin 16384) : exec (.fdbAgeOut i) s = act s fun s => fdbAge s i.val := rfl
  simp only [age, act_up up]
  refine ⟨fun i e entry learned old => ?_, fun i e entry stays => ?_,
    fun free => ⟨fun d mac vid q few hq hmac hvid => ⟨?_, ?_⟩, fun i => ?_, exec_trlFdbFlush free⟩⟩
  · rw [fdbAge_expired entry learned old, setFdb]
  · rw [fdbAge_kept entry stays]
  · subst hq
    rw [← fdbPlace]
    cases place : fdbPlace s mac vid with
    | some i => exact exec_trlFdbWrite_placed free few hmac hvid place
    | none => exact exec_trlFdbWrite_full free few hmac hvid place
  · subst hq
    cases found : fdbFind s mac vid with
    | some i => exact exec_trlFdbDelete_found free few hmac hvid found
    | none => exact exec_trlFdbDelete_absent free few hmac hvid found
  · cases entry : tget s.trl.fdb (i.toNat % 2 ^ 14) with
    | some e => exact exec_trlFdbRead_entry free entry
    | none => exact exec_trlFdbRead_empty free entry

end Sys2Proof.Machine
end

section
/-! Proofs of the family 08_sv_ingest_alignment.md: frames and sets of SV ingest, its mailboxes, and the requests of the Cascade and the Lantern. -/

namespace Sys2Proof.Machine

/-! ### Frames turned away or placed (R264, R266 to R268, R271, R288) -/

/-- A frame of `n` channel samples occupies SV ingest for as many clocks, 16 at least (R264). -/
def occupied (n : Nat) (s : State) : State := { s with svi := { s.svi with busy := s.sdl.fab + max 16 n } }

theorem exec_svFrameIngest {s t : State} (up : s.cru.inReset = false) (h : sviIngest s = t) : exec .svFrameIngest s = .next t :=
  h ▸ act_up up sviIngest

/-- SV ingest takes the frame at the head of port 16, unless an event is held or a frame occupies it. -/
theorem sviIngest_next {s : State} {c : Nat} {f : Frame} (unheld : s.svi.hold = none) (idle : s.svi.busy ≤ s.sdl.fab)
    (class_ : nextClass s 16 = some c) (head : headOf s 16 c = some f) : sviIngest s = sviHandle (takeHead s 16 c) f := by
  simp only [sviIngest, unheld, Nat.not_lt.2 idle, class_, head, Option.isSome_none, decide_false, Bool.or_self, Bool.false_eq_true, if_false]

section
variable {s : State} {f : Frame}

theorem sviHandle_oversize (long : f.oversize = true) : sviHandle s f = occupied 0 (cinc s Fld.SVI_OVERSIZE_COUNT) := if_pos long

section
variable (whole : f.oversize = false)
include whole

theorem sviHandle_stopped (off : genActive s = false ∨ enabled s 0x500000 = false) :
    sviHandle s f = occupied 0 (cinc s Fld.SVI_STOPPED_COUNT) :=
  (if_neg (by simp [whole])).trans (if_pos (by simpa using off))

section
variable (ticks : genActive s = true) (on : enabled s 0x500000 = true)
include ticks on

theorem sviHandle_malformed (bad : firstSvId f.bytes = none) : sviHandle s f = occupied 0 (cinc s Fld.SVI_FORMAT_COUNT) := by
  rw [sviHandle, if_neg (by simp [whole]), if_neg (by simp [ticks, on]), bad]
  rfl

section
variable {id : List Nat} (named : firstSvId f.bytes = some id)
include named

theorem sviHandle_unmatched (other : sviMatch s f.bytes id = none) : sviHandle s f = occupied 0 (cinc s Fld.SVI_NOMATCH_COUNT) := by
  rw [sviHandle, if_neg (by simp [whole]), if_neg (by simp [ticks, on]), named]
  simp only [other, occupied]

theorem sviHandle_matched {k : Nat} (own : sviMatch s f.bytes id = some k) :
    sviHandle s f = occupied ((streamOf s k).nasdu * (streamOf s k).nch) (frameStream s k f) := by
  rw [sviHandle, if_neg (by simp [whole]), if_neg (by simp [ticks, on]), named]
  simp only [own, occupied]

end
end
end

/-! #### A frame of a known stream -/

/-- Whether the frame is simulated as the stream accepts (R266 step 6). -/
def simFits (x : Stream) (f : Frame) : Bool := simOk (bits (x.w 4) 14 13) (bit (be f.bytes (appAt f.bytes + 4) 2) 15)

variable {k : Nat}

theorem frameStream_off (off : groupOn s (streamOf s k).group = false) : frameStream s k f = cinc s Fld.SVI_STOPPED_COUNT :=
  if_pos (by rw [off]; rfl)

section
variable (on : groupOn s (streamOf s k).group = true)
include on

theorem frameStream_simulated (no : simFits (streamOf s k) f = false) : frameStream s k f = rejectFrame (strInc s k 4) k f :=
  (if_neg (by rw [on]; decide)).trans (if_pos (by rw [← simFits, no]; rfl))

section
variable (fits : simFits (streamOf s k) f = true)
include fits

theorem frameStream_misfit (bad : layoutOk (streamOf s k) f.bytes = none) :
    frameStream s k f = rejectFrame (strInc (cinc s Fld.SVI_FORMAT_COUNT) k 3) k f := by
  refine (if_neg (by rw [on]; decide)).trans ((if_neg (by rw [← simFits, fits]; decide)).trans ?_)
  simp only [bad]

theorem frameStream_plain {as : List Asdu} (good : layoutOk (streamOf s k) f.bytes = some as) (plain : (streamOf s k).auth = false) :
    frameStream s k f = frameAccept s k f as := by
  refine (if_neg (by rw [on]; decide)).trans ((if_neg (by rw [← simFits, fits]; decide)).trans ?_)
  simp only [good, plain, Bool.not_false, if_true]

end
end
end

/-! ### Lost streams (R279) -/

/-- A valid stream becomes lost once TMO has passed since its last placement. -/
theorem streamTimeout_due {s : State} {k t : Nat} (placed : (streamOf s k).placedAt = some t) (valid : (streamOf s k).valid = true)
    (fresh : (streamOf s k).lost = false) (due : t + bits ((streamOf s k).w 5) 31 24 * 10 ^ 6 ≤ s.sdl.fab) :
    streamTimeout s k = stateEvent (setStream s k { streamOf s k with lost := true }) k := by
  simp only [streamTimeout, placed]
  exact if_neg (by rw [valid, fresh, decide_eq_false (Nat.not_lt.2 due)]; decide)

/-! ### The release of sets (R280) -/

theorem exec_alignmentRelease {s : State} (up : s.cru.inReset = false) (g : Fin 256) :
    exec (.alignmentRelease g) s = .next (blvDrain (alignRelease s g.val)) :=
  act_up up fun s => blvDrain (alignRelease s g.val)

section
variable {s : State} {g : Nat}

theorem alignRelease_none (none_ : s.svi.ended.find? (fun e => unreleased s g (e.1, e.2.1)) = none) : alignRelease s g = s := by
  simp only [alignRelease, dueSet, none_, Option.map_none]

section
variable {n f c : Nat} (oldest : s.svi.ended.find? (fun e => unreleased s g (e.1, e.2.1)) = some (n, f, c))
include oldest

theorem alignRelease_early (early : s.sdl.fab < c + groupH s g) : alignRelease s g = s := by
  simp only [alignRelease, dueSet, oldest, Option.map_some, early, if_true]

/-- A due set follows the sets of lower-numbered groups that are due by its release clock. -/
theorem alignRelease_due (due : c + groupH s g ≤ s.sdl.fab) :
    alignRelease s g = releaseOr ((List.range g).foldl (releaseTo (c + groupH s g)) s) g n f := by
  simp only [alignRelease, dueSet, oldest, Option.map_some, Nat.not_lt.2 due, if_false]

end
end

/-- Settles O41: a frame by the first step of R266 that turns it away, an accepted one, a timeout, and the oldest unreleased set of a group. How
long a frame occupies ingest is R264; the 64 ticks kept are log 47, a sample without room log 104. -/
theorem sampledValues : Obligations.SampledValues := by
  intro s up
  refine ⟨fun c f q busy unheld idle class_ head hq hbusy => ?_, fun k t x hx placed valid fresh due => ?_,
    fun g n f c oldest => ⟨fun early => ?_, fun due u hu => ?_⟩, fun g none_ => ?_⟩
  · obtain rfl : busy = occupied := hbusy
    have ingest {t : State} (h : sviHandle q f = t) : exec .svFrameIngest s = .next t :=
      exec_svFrameIngest up ((sviIngest_next unheld idle class_ head).trans (hq ▸ h))
    refine ⟨fun long => ingest (sviHandle_oversize long), fun whole off => ingest (sviHandle_stopped whole off), fun whole ticks on =>
      ⟨fun bad => ingest (sviHandle_malformed whole ticks on bad), fun id named =>
        ⟨fun other => ingest (sviHandle_unmatched whole ticks on named other), ?_⟩⟩⟩
    rintro k x sim n own rfl rfl rfl
    have stream {t : State} (h : frameStream q k f = t) :
        exec .svFrameIngest s = .next (occupied ((streamOf q k).nasdu * (streamOf q k).nch) t) :=
      h ▸ ingest (sviHandle_matched whole ticks on named own)
    refine ⟨fun off => stream (frameStream_off off), fun on no => stream (frameStream_simulated on no),
      fun on fits bad => stream (frameStream_misfit on fits bad), ?_⟩
    rintro as u on fits good plain rfl
    exact stream (frameStream_plain on fits good plain)
  · subst hx
    exact (act_up up fun s => streamTimeout s k.val).trans (congrArg _ (streamTimeout_due placed valid fresh due))
  · rw [exec_alignmentRelease up, alignRelease_early oldest early]
  · rw [exec_alignmentRelease up, alignRelease_due oldest due, hu, releaseOr]
  · rw [exec_alignmentRelease up, alignRelease_none none_]

/-! ### Requests that wait for an edge -/

theorem mbxEndIfBusy_busy {s : State} {a : Nat} (busy : (mbxAt s a).busy = true) (code : Nat) : mbxEndIfBusy s a code = mbxEnd s a code :=
  if_pos busy

theorem asks_written_svi (s : State) (mid a op arg : Nat) (wr : Bool) (d : List Word) : (asks (written s d) mid a op wr arg d).svi = s.svi := by
  rw [asks_svi, written_svi]

/-! ### Descriptors (R269, R279, R289, R290, R293) -/

/-- ARG of a request names one of the 2048 streams. -/
theorem asks_arg_stream (s : State) (mid a op : Nat) (wr : Bool) (k : Fin 2048) (d : List Word) :
    (mbxAt (asks s mid a op wr k.val d) a).arg % 2048 = k.val := by
  rw [asks_arg]
  omega

/-- The state with no request of SVI_DESC that waits for an edge. -/
def unpended (s : State) : State := { s with svi := { s.svi with pend := none } }

section
variable {u : State} {k : Nat}

theorem descTake_waiting (d : Option (List Nat)) (ticks : genActive u = true) :
    descTake u k d = { u with svi := { u.svi with pend := some (k, d, u.sdl.fab) } } := if_pos ticks

/-- While no edge will come, a change of a descriptor acts at once. -/
theorem descTake_atOnce (d : Option (List Nat)) (stopped : genActive u = false) :
    descTake u k d = mbxEndIfBusy (casDrop (descApply (unpended u) k d (0, 1))) sviDescMbx 0 :=
  if_neg (Bool.eq_false_iff.1 stopped)

section
variable (arg : (mbxAt u sviDescMbx).arg % 2048 = k)
include arg

section
variable (wr : (mbxAt u sviDescMbx).wr = true)
include wr

section
variable (op : (mbxAt u sviDescMbx).op = 1) {ds : List Nat} (words : descWords (mbxAt u sviDescMbx).w = ds)
include op words

theorem sviDescReq_refused {c : Nat} (refused : descRefusal u k ds = some c) : sviDescReq u = mbxEnd u sviDescMbx c := by
  simp only [sviDescReq, op, wr, arg, words, refused]

theorem sviDescReq_write (accepted : descRefusal u k ds = none) : sviDescReq u = descTake u k (some ds) := by
  simp only [sviDescReq, op, wr, arg, words, accepted]

end

theorem sviDescReq_disable (op : (mbxAt u sviDescMbx).op = 3) : sviDescReq u = descTake u k none := by
  simp only [sviDescReq, op, wr, arg]

end

theorem sviDescReq_read (wr : (mbxAt u sviDescMbx).wr = false) (op : (mbxAt u sviDescMbx).op = 2) : sviDescReq u = mbxAnswer u sviDescMbx 0
    ((List.range 10).map fun i => w32 ((streamOf u k).w i + (if i = 4 then bitAt (streamOf u k).valid 31 else 0))) := by
  simp only [sviDescReq, op, wr, arg]

end
end

section
variable {s : State} {mid : Mid} {k : Fin 2048} (free : Free s mid.toNat 0x500080)
include free

theorem act_sviDesc {op : Nat} {wr : Bool} (d : List Word) (small : op < 256) {t : State}
    (h : sviDescReq (asks (written s d) mid.toNat sviDescMbx op wr k.val d) = t) :
    act s (fun s => mbxRequest s mid.toNat sviDescMbx op wr k.val d) = .next (respond t {}) :=
  h ▸ (act_up free.1 _).trans (congrArg _ (request_sviDesc s mid.toNat op k.val wr d free small))

section
variable {d : List Word} {ds : List Nat} {q : State} (few : d.length ≤ 12) (hds : ds = descWords (word s 0x500080 d))
  (hq : q = asks (written s d) mid.toNat 0x500080 1 true k.val d)
include few hds hq

/-- A WRITE is refused, or taken as the words that it gives with every field clamped. -/
theorem exec_sviDescWrite : exec (.sviDescWrite mid k d) s =
    .next (respond ((descRefusal s k.val ds).elim (descTake q k.val (some ds)) fun c => mbxEnd q 0x500080 c) {}) := by
  have words : descWords (mbxAt q sviDescMbx).w = ds :=
    hq ▸ hds ▸ congrArg descWords (funext fun i => asks_word s mid.toNat 0x500080 1 k.val true d few i)
  have refusal : descRefusal q k.val ds = descRefusal s k.val ds :=
    hq ▸ asks_written_congr (descRefusal · k.val ds) (fun _ _ _ => rfl) (fun _ _ => rfl) ..
  have arg : (mbxAt q sviDescMbx).arg % 2048 = k.val := hq ▸ asks_arg_stream ..
  have wr : (mbxAt q sviDescMbx).wr = true := hq ▸ asks_wr ..
  have op : (mbxAt q sviDescMbx).op = 1 := hq ▸ asks_op ..
  refine act_sviDesc free d (op := 1) (by decide) ?_
  rw [sviDescMbx, ← hq]
  cases h : descRefusal s k.val ds with
  | some c => exact sviDescReq_refused arg wr op words (refusal.trans h)
  | none => exact sviDescReq_write arg wr op words (refusal.trans h)

end

theorem exec_sviDescRead {x : Stream} (hx : x = streamOf s k.val) : exec (.sviDescRead mid k) s = .next (answered s mid.toNat 0x500080 2 k.val
    ((List.range 10).map fun i => w32 (x.w i + (if i = 4 then bitAt x.valid 31 else 0)))) := by
  subst hx
  exact act_sviDesc free [] (by decide) (sviDescReq_read (asks_arg_stream ..) (asks_wr ..) (asks_op ..))

theorem exec_sviDescDisable : exec (.sviDescDisable mid k) s =
    .next (respond (descTake (asks s mid.toNat 0x500080 3 true k.val []) k.val none) {}) :=
  act_sviDesc free [] (by decide) (sviDescReq_disable (asks_arg_stream ..) (asks_wr ..) (asks_op ..))

end

/-! ### The counts of a stream (R77, R289, R293) -/

/-- Count `i` of a table less `v`, with a floor of zero; 99 stands for no count. -/
def subCount (t : Tbl Nat) (i v : Nat) : Tbl Nat := if i = 99 then t else tset t i (tat t i 0 - v)

/-- What SUB takes from each count, by its data words (R293). -/
def scntAmounts (w : Nat → Nat) : List (Nat × Nat) :=
  (0, w 0) :: (scntPairs.zip (List.range 7)).flatMap fun e => [(e.1.1, w (e.2 + 1) / 2 ^ 16), (e.1.2, w (e.2 + 1) % 2 ^ 16)]

/-- A table of counts less each of some amounts, one after the other. -/
def subCounts (t : Tbl Nat) (l : List (Nat × Nat)) : Tbl Nat := l.foldl (fun t e => subCount t e.1 e.2) t

theorem tat_subCount_same (t : Tbl Nat) {i : Nat} (v : Nat) (count : i ≠ 99) : tat (subCount t i v) i 0 = tat t i 0 - v := by
  rw [subCount, if_neg count, tat_tset_same]

theorem tat_subCount_ne (t : Tbl Nat) {i j : Nat} (v : Nat) (other : j ≠ i) : tat (subCount t i v) j 0 = tat t j 0 := by
  unfold subCount
  split
  · rfl
  · exact tat_tset_ne _ _ _ _ _ other

theorem tat_subCounts_ne (t : Tbl Nat) {l : List (Nat × Nat)} {i : Nat} (other : ∀ e ∈ l, i ≠ e.1) : tat (subCounts t l) i 0 = tat t i 0 := by
  induction l generalizing t with
  | nil => rfl
  | cons a l ih =>
    obtain ⟨head, tail⟩ := List.forall_mem_cons.1 other
    exact (ih _ tail).trans (tat_subCount_ne t a.2 head)

/-- Amounts for counts that all differ are each taken from its own. -/
theorem tat_subCounts (t : Tbl Nat) {l : List (Nat × Nat)} (distinct : (l.map (·.1)).Nodup) {e : Nat × Nat} (he : e ∈ l) (count : e.1 ≠ 99) :
    tat (subCounts t l) e.1 0 = tat t e.1 0 - e.2 := by
  induction l generalizing t with
  | nil => cases he
  | cons a l ih =>
    obtain ⟨fresh, distinct⟩ := List.nodup_cons.1 distinct
    have other {b : Nat × Nat} (hb : b ∈ l) : a.1 ≠ b.1 := fun same => fresh (List.mem_map.2 ⟨b, hb, same.symm⟩)
    rcases List.mem_cons.1 he with rfl | he
    · exact (tat_subCounts_ne _ fun b hb => other hb).trans (tat_subCount_same t e.2 count)
    · exact (ih _ distinct he).trans (by rw [tat_subCount_ne t a.2 (other he).symm])

/-- SUB takes its amounts word by word, from the high half and then the low half. -/
theorem subCounts_scntAmounts (t : Tbl Nat) (w : Nat → Nat) : subCounts t (scntAmounts w) = (scntPairs.zip (List.range 7)).foldl
    (fun t e => subCount (subCount t e.1.1 (w (e.2 + 1) / 2 ^ 16)) e.1.2 (w (e.2 + 1) % 2 ^ 16)) (subCount t 0 (w 0)) := by
  simp only [subCounts, scntAmounts, List.foldl_cons, List.foldl_flatMap, List.foldl_nil]

theorem scntAmounts_nodup (w : Nat → Nat) : ((scntAmounts w).map (·.1)).Nodup := by
  have keys : (scntAmounts w).map (·.1) = (scntAmounts fun _ => 0).map (·.1) := rfl
  rw [keys]
  decide

section
variable {u : State} {a k : Nat} (arg : (mbxAt u a).arg % 2048 = k)
include arg

theorem sviScntReq_read (wr : (mbxAt u a).wr = false) (op : (mbxAt u a).op = 1) {x : Stream} (hx : streamOf u k = x) {c : Nat → Nat}
    (hc : c = fun i => tat x.cnt i 0) : sviScntReq u a = mbxAnswer u a 0
      (([c 0] ++ scntPairs.map (fun (p : Nat × Nat) => c p.1 * 2 ^ 16 + c p.2) ++
        [b2n (x.lost && x.valid) * 2 + b2n x.valid, x.kLast.getD 0, x.lastNs % 10 ^ 9]).map w32) := by
  subst hc
  simp only [sviScntReq, wr, op, arg, hx]

theorem sviScntReq_sub (wr : (mbxAt u a).wr = true) (op : (mbxAt u a).op = 2) {x : Stream} (hx : streamOf u k = x) {w : Nat → Nat}
    (words : (mbxAt u a).w = w) :
    sviScntReq u a = mbxEnd (setStream u k { x with cnt := subCounts x.cnt (scntAmounts w) }) a 0 := by
  simp only [sviScntReq, wr, op, arg, hx, words, subCounts_scntAmounts, subCount]

end

section
variable {s : State} {mid : Mid} {k : Fin 2048} (free : Free s mid.toNat 0x5000C0) {x : Stream} (hx : x = streamOf s k.val)
include free

theorem act_sviScnt {op : Nat} {wr : Bool} (d : List Word) (small : op < 256) {t : State}
    (h : sviScntReq (asks (written s d) mid.toNat 0x5000C0 op wr k.val d) 0x5000C0 = t) :
    act s (fun s => mbxRequest s mid.toNat 0x5000C0 op wr k.val d) = .next (respond t {}) :=
  h ▸ (act_up free.1 _).trans (congrArg _ (request_sviScnt s mid.toNat op k.val wr d free small))

include hx

theorem exec_sviScntRead {c : Nat → Nat} (hc : c = fun i => tat x.cnt i 0) :
    exec (.sviScntRead mid k) s = .next (answered s mid.toNat 0x5000C0 1 k.val
      ([c 0, c 1 * 2 ^ 16 + c 2, c 3 * 2 ^ 16 + c 4, c 5 * 2 ^ 16 + c 6, c 7 * 2 ^ 16 + c 8, c 9 * 2 ^ 16 + c 10, c 11 * 2 ^ 16 + c 99,
        c 12 * 2 ^ 16 + c 13, b2n (x.lost && x.valid) * 2 + b2n x.valid, x.kLast.getD 0, x.lastNs % 10 ^ 9].map w32)) :=
  act_sviScnt free [] (by decide) (sviScntReq_read (asks_arg_stream ..) (asks_wr ..) (asks_op ..) hx.symm hc)

theorem exec_sviScntSub {d : List Word} (few : d.length ≤ 12) : exec (.sviScntSub mid k d) s =
    .next (ended (setStream (asks (written s d) mid.toNat 0x5000C0 2 true k.val d) k.val
      { x with cnt := subCounts x.cnt (scntAmounts (word s 0x5000C0 d)) }) 0x5000C0 0) := by
  have same : streamOf (asks (written s d) mid.toNat 0x5000C0 2 true k.val d) k.val = x :=
    hx ▸ asks_written_congr (streamOf · k.val) (fun _ _ _ => rfl) (fun _ _ => rfl) ..
  exact act_sviScnt free d (by decide) (sviScntReq_sub (asks_arg_stream ..) (asks_wr ..) (asks_op ..) same
    (funext fun i => asks_word _ _ _ _ _ _ _ few i))

end

/-- Settles O42: WRITE by its test and by the tick generator, DISABLE by the generator; READ, the counts, and what SUB takes from each. -/
theorem streamDescriptors : Obligations.StreamDescriptors := by
  intro s mid k x hx
  refine ⟨fun free => ⟨fun d ds q few hds hq => ?_, exec_sviDescRead free hx, fun q hq => ?_⟩,
    fun free => ⟨fun c hc => exec_sviScntRead free hx hc, fun d w few hw => ?_⟩⟩
  · have ticks : genActive q = genActive s := hq ▸ asks_written_congr genActive (fun _ _ _ => rfl) (fun _ _ => rfl) ..
    have svi : q.svi = s.svi := hq ▸ asks_written_svi ..
    have sdl : q.sdl = s.sdl := hq ▸ asks_written_sdl ..
    rw [exec_sviDescWrite free few hds hq]
    refine ⟨fun c refused => ?_, fun accepted active => ?_, fun accepted stopped => ?_⟩
    · rw [refused]
      rfl
    · rw [accepted, Option.elim_none, descTake_waiting _ (ticks.trans active), svi, sdl]
    · rw [accepted, Option.elim_none, descTake_atOnce _ (ticks.trans stopped), unpended, svi, hx]
      rfl
  · have ticks : genActive q = genActive s := by rw [hq]; rfl
    rw [exec_sviDescDisable free, ← hq]
    refine ⟨fun active => ?_, fun stopped => ?_⟩
    · rw [descTake_waiting _ (ticks.trans active), hq]
      rfl
    · have busy : (mbxAt (casDrop (descApply (unpended q) k.val none (0, 1))) sviDescMbx).busy = true := hq ▸ asks_busy ..
      rw [descTake_atOnce _ (ticks.trans stopped), mbxEndIfBusy_busy busy, hx, hq]
      rfl
  · subst hw
    refine ⟨_, exec_sviScntSub free hx few, fun e he => ?_⟩
    obtain ⟨listed, count⟩ := List.mem_filter.1 (show e ∈ (scntAmounts (word s 0x5000C0 d)).filter (·.1 != 99) from he)
    exact tat_subCounts x.cnt (scntAmounts_nodup _) listed (bne_iff_ne.1 count)

/-! ### A released set in the Cascade (R287, R297, R508) -/

theorem casSet_off {s : State} (off : enabled s 0x600000 = false) (differ : List LaneResult) (r : RelSet) : casSet s differ r = s :=
  if_pos (by rw [off]; rfl)

/-- The oldest released set leaves its queue, is filtered where the Cascade is enabled, and its points go to the Belvedere. -/
theorem processSet_next {s v : State} {r : RelSet} {rs : List RelSet} (waits : s.svi.toCas = r :: rs)
    (hv : v = { s with svi := { s.svi with toCas := rs }, cas := { s.cas with differ := [] } }) :
    processSet s = blvPoints (if enabled s 0x600000 then casSet v s.cas.differ r else v) r.tick r.hz := by
  have same : enabled v 0x600000 = enabled s 0x600000 := hv ▸ rfl
  have taken : processSet s = blvPoints (casSet v s.cas.differ r) r.tick r.hz := by
    simp only [processSet, casTake, waits, hv]
  cases on : enabled s 0x600000 with
  | true => exact taken
  | false => exact taken.trans (by rw [casSet_off (same.trans on)]; rfl)

/-! ### Syncs (R301) -/

theorem add_b2n_false (n : Nat) : n + b2n false = n := by rw [b2n, if_neg Bool.false_ne_true, Nat.add_zero]

/-- A sync by GO acts one tick later than one by the pin would (R301). -/
theorem syncTake_go (s : State) (out : Bool) : syncTake s true out = { s with cas := { s.cas with
    syncs := s.cas.syncs ++ [⟨true, out, syncGroups s, s.sdl.fab, if s.sdl.gen = .running then some (firstSyncTick s + 1) else none⟩] } } := by
  simp only [syncTake, b2n, Bool.true_and, if_true]

theorem syncTake_pin (s : State) : syncTake s false false = { s with cas := { s.cas with
    syncs := s.cas.syncs ++ [⟨false, false, syncGroups s, s.sdl.fab, if s.sdl.gen = .running then some (firstSyncTick s) else none⟩] } } := by
  simp only [syncTake, add_b2n_false, Bool.and_self]

theorem syncGroups_wscNote (s : State) (a v : Nat) : syncGroups (wscNote s a v) = syncGroups s := rfl

theorem firstSyncTick_wscNote (s : State) (a v : Nat) : firstSyncTick (wscNote s a v) = firstSyncTick s := rfl

theorem casSync_fields : ∃ l, regAt 0x600040 = some l ∧ l.desc.name = .cas .CAS_SYNC ∧ l.desc.mbx = false ∧ l.addr = 0x600040 ∧
    l.desc.fields = [⟨1, 1, .wsc, false, 0, 0, 1, .none⟩, ⟨0, 0, .wsc, false, 0, 0, 1, .none⟩] := ⟨_, rfl, rfl, rfl, rfl, rfl⟩

/-- A write of CAS_SYNC with GO = 1 takes a sync, which pulses SYNC_OUT where OUT = 1. -/
theorem meshWrite_casSync {s : State} {mid : Nat} (out : Bool) (may : mayWrite s mid 0x600040 = true) :
    meshWrite s mid 0x600040 (bitAt out 1 + 1) = respond (syncTake (wscNote s 0x600040 (b2n out * 2 + 1)) true out) {} := by
  obtain ⟨l, hl, name, mbx, addr, fields⟩ := casSync_fields
  obtain ⟨listed, sum⟩ := wsc_fields l mid (bitAt out 1 + 1) (b2n out * 2 + 1) (by simp [fields]) (by rw [fields]; cases out <;> decide)
    (by simp [fields])
  have small : (bitAt out 1 + 1) % 2 ^ 32 = bitAt out 1 + 1 := by cases out <;> decide
  have written : b2n out * 2 + 1 ≠ 0 := by omega
  have go : bit (b2n out * 2 + 1) 0 = true := by cases out <;> decide
  have pulse : bit (b2n out * 2 + 1) 1 = out := by cases out <;> decide
  rw [meshWrite_command s mid 0x600040 _ l hl may (by decide) (by decide) mbx (by simp [name]) (by simp [fields]), small]
  simp only [commandWrite, listed, sum, written, name, addr, casWsc, go, pulse, Bool.false_eq_true, if_false, if_true]

theorem exec_casSyncGo {s : State} {mid : Mid} (up : s.cru.inReset = false) (out : Bool) (may : mayWrite s mid.toNat 0x600040 = true) :
    exec (.casSyncGo mid out) s = .next (respond (syncTake (wscNote s 0x600040 (b2n out * 2 + 1)) true out) {}) :=
  (act_up up fun s => meshWrite s mid.toNat 0x600040 (bitAt out 1 + 1)).trans (congrArg _ (meshWrite_casSync out may))

theorem syncIn_enabled {s : State} (on : fbit s Fld.CAS_SYNCPIN_PINEN = true) : syncIn s = syncTake s false false := if_pos on

theorem syncIn_disabled {s : State} (off : fbit s Fld.CAS_SYNCPIN_PINEN = false) : syncIn s = s := if_neg (Bool.eq_false_iff.1 off)

theorem syncOutFall_due {s : State} (high : s.cas.syncOut = true) (due : s.cas.syncOutAt + 1000 ≤ s.sdl.raw) :
    syncOutFall s = { s with cas := { s.cas with syncOut := false } } := if_pos (by rw [high, decide_eq_true due]; rfl)

/-! ### Responses (R324) -/

/-- What ARG of a CAS_RESP request names: a response, its form and a part of it. -/
structure RespArg (arg part : Nat) (mp : Bool) (r : Nat) : Prop where
  resp : arg % 32 = r
  form : bits arg 5 5 = b2n mp
  part : bits arg 7 6 = part

theorem respArg_asks (s : State) (mid a op : Nat) (wr mp : Bool) (r : Fin 32) (part : Fin 4) (d : List Word) :
    RespArg (mbxAt (asks s mid a op wr (part.val * 64 + bitAt mp 5 + r.val) d) a).arg part.val mp r.val := by
  have arg : (mbxAt (asks s mid a op wr (part.val * 64 + bitAt mp 5 + r.val) d) a).arg = part.val * 64 + b2n mp * 32 + r.val := by
    rw [asks_arg]
    cases mp <;> simp only [bitAt, b2n, if_true, Bool.false_eq_true, if_false] <;> omega
  have form : b2n mp < 2 := by cases mp <;> decide
  rw [arg]
  refine ⟨by omega, ?_, ?_⟩ <;> rw [bits] <;> omega

/-- ARG of an INFO request names part 0. -/
theorem respArg_info (s : State) (mid a op : Nat) (wr mp : Bool) (r : Fin 32) (d : List Word) :
    RespArg (mbxAt (asks s mid a op wr (bitAt mp 5 + r.val) d) a).arg 0 mp r.val := by
  simpa using respArg_asks s mid a op wr mp r 0 d

section
variable {u : State} {a part r : Nat} {mp : Bool} (wr : (mbxAt u a).wr = false) (arg : RespArg (mbxAt u a).arg part mp r)
include wr arg

theorem casMbx_absent (none_ : 23 < r) : casMbx .CAS_RESP a u = mbxEnd u a 0xFF := by
  simp only [casMbx, wr, arg.resp, none_, decide_true, Bool.or_true, if_true]

section
variable (listed : r ≤ 23)
include listed

theorem casMbx_coef (op : (mbxAt u a).op = 1) {c : Nat → Nat}
    (hc : c = fun i => if i < romTaps r then ofSigned 16 (coefOf (b2n mp) r i) else 0) : casMbx .CAS_RESP a u = mbxAnswer u a 0
      ((List.range 12).map fun i => w32 (c (24 * part + 2 * i) + 2 ^ 16 * c (24 * part + 2 * i + 1))) := by
  subst hc
  simp only [casMbx, wr, op, arg.resp, arg.form, arg.part, Nat.not_lt.2 listed, decide_false, Bool.or_self, Bool.false_eq_true, if_false]

theorem casMbx_info (op : (mbxAt u a).op = 2) :
    casMbx .CAS_RESP a u = mbxAnswer u a 0 ([romTaps r, romD r, dcDelay (b2n mp) r, (romRow r).2.2].map w32) := by
  simp only [casMbx, wr, op, arg.resp, arg.form, Nat.not_lt.2 listed, decide_false, Bool.or_self, Bool.false_eq_true, if_false]

end
end

section
variable {s : State} {mid : Mid} {r : Fin 32} {mp : Bool} (free : Free s mid.toNat 0x600080)
include free

theorem act_casResp {op arg : Nat} (small : op < 256) {t : State} (h : casMbx .CAS_RESP 0x600080 (asks s mid.toNat 0x600080 op false arg []) = t) :
    act s (fun s => mbxRequest s mid.toNat 0x600080 op false arg []) = .next (respond t {}) :=
  h ▸ (act_up free.1 _).trans (congrArg _ (request_casResp s mid.toNat op arg false [] free small))

theorem exec_casRespCoef (listed : r.val ≤ 23) (part : Fin 4) {c : Nat → Nat}
    (hc : c = fun i => if i < romTaps r.val then ofSigned 16 (coefOf (b2n mp) r.val i) else 0) : exec (.casRespCoef mid r mp part) s =
      .next (answered s mid.toNat 0x600080 1 (part.val * 64 + bitAt mp 5 + r.val)
        ((List.range 12).map fun i => w32 (c (24 * part.val + 2 * i) + 2 ^ 16 * c (24 * part.val + 2 * i + 1)))) :=
  act_casResp free (by decide) (casMbx_coef (asks_wr ..) (respArg_asks ..) listed (asks_op ..) hc)

theorem exec_casRespInfo (listed : r.val ≤ 23) : exec (.casRespInfo mid r mp) s = .next (answered s mid.toNat 0x600080 2 (bitAt mp 5 + r.val)
    ([romTaps r.val, romD r.val, dcDelay (b2n mp) r.val, (romRow r.val).2.2].map w32)) :=
  act_casResp free (by decide) (casMbx_info (asks_wr ..) (respArg_info ..) listed (asks_op ..))

theorem exec_casRespInfo_absent (none_ : 23 < r.val) :
    exec (.casRespInfo mid r mp) s = .next (ended (asks s mid.toNat 0x600080 2 false (bitAt mp 5 + r.val) []) 0x600080 0xFF) :=
  act_casResp free (by decide) (casMbx_absent (asks_wr ..) (respArg_info ..) none_)

end

/-! ### Triplets (R316, R328) -/

/-- ARG of a request names one of the 8192 triplets. -/
theorem asks_arg_triplet (s : State) (mid a op : Nat) (wr : Bool) (t : Fin 8192) (d : List Word) :
    (mbxAt (asks s mid a op wr t.val d) a).arg % 2 ^ 13 = t.val := by
  rw [asks_arg]
  omega

/-- A triplet as a change leaves it: as written, or no longer valid. -/
def tripChanged (s : State) (t : Nat) (x : Option Triplet) : Triplet := x.getD { tat s.cas.trips t ⟨0, 0, 0, false⟩ with valid := false }

section
variable {u : State} {t : Nat} (x : Option Triplet)

theorem tripTake_waiting (ticks : genActive u = true) : tripTake u t x = { u with cas := { u.cas with trip := some (t, x) } } := if_pos ticks

/-- While no edge will come, a change of a triplet acts at once, and its request completes (log 48). -/
theorem tripTake_atOnce (stopped : genActive u = false) (busy : (mbxAt u ltnTripMbx).busy = true) : tripTake u t x =
    mbxEnd { u with cas := { u.cas with trip := none, trips := tset u.cas.trips t (tripChanged u t x) } } ltnTripMbx 0 := by
  have taken : tripTake u t x = tripEdge { u with cas := { u.cas with trip := some (t, x) } } := if_neg (Bool.eq_false_iff.1 stopped)
  rw [taken]
  cases x <;> exact if_pos busy

section
variable {x} {a : Nat} (arg : (mbxAt u a).arg % 2 ^ 13 = t)
include arg

theorem ltnMbx_write (wr : (mbxAt u a).wr = true) (op : (mbxAt u a).op = 1) {w : Nat → Nat} (words : (mbxAt u a).w = w) :
    ltnMbx .LTN_TRIP a u = tripTake u t (some ⟨w 0 % 2 ^ 14, w 1 % 2 ^ 14, w 2 % 2 ^ 14, true⟩) := by
  simp only [ltnMbx, wr, op, arg, words]

theorem ltnMbx_read (wr : (mbxAt u a).wr = false) (op : (mbxAt u a).op = 2) {y : Triplet} (hy : tat u.cas.trips t ⟨0, 0, 0, false⟩ = y) :
    ltnMbx .LTN_TRIP a u = mbxAnswer u a 0 [w32 y.a, w32 y.b, w32 y.c, w32 (bitAt y.valid 31 + b2n (tripErr u y))] := by
  simp only [ltnMbx, wr, op, arg, hy]

theorem ltnMbx_disable (wr : (mbxAt u a).wr = true) (op : (mbxAt u a).op = 3) : ltnMbx .LTN_TRIP a u = tripTake u t none := by
  simp only [ltnMbx, wr, op, arg]

end
end

/-- A change of a triplet waits for an edge while ticks are produced, and else completes at once. -/
theorem tripTake_asked {s q : State} {mid : Mid} {t : Fin 8192} {d : List Word} {op : Nat}
    (hq : q = asks (written s d) mid.toNat 0x700080 op true t.val d) (x : Option Triplet) :
    (genActive s = true → tripTake q t.val x = { q with cas := { s.cas with trip := some (t.val, x) } }) ∧
    (genActive s = false → tripTake q t.val x =
      mbxEnd { q with cas := { s.cas with trip := none, trips := tset s.cas.trips t.val (tripChanged s t.val x) } } 0x700080 0) := by
  have ticks : genActive q = genActive s := hq ▸ asks_written_congr genActive (fun _ _ _ => rfl) (fun _ _ => rfl) ..
  have cas : q.cas = s.cas := by rw [hq, asks_cas, written_cas]
  have busy : (mbxAt q ltnTripMbx).busy = true := hq ▸ asks_busy ..
  refine ⟨fun active => ?_, fun stopped => ?_⟩
  · rw [tripTake_waiting x (ticks.trans active), cas]
  · rw [tripTake_atOnce x (ticks.trans stopped) busy, tripChanged, cas]
    rfl

section
variable {s : State} {mid : Mid} {t : Fin 8192} (free : Free s mid.toNat 0x700080)
include free

theorem act_ltnTrip {op : Nat} {wr : Bool} (d : List Word) (small : op < 256) {v : State}
    (h : ltnMbx .LTN_TRIP 0x700080 (asks (written s d) mid.toNat 0x700080 op wr t.val d) = v) :
    act s (fun s => mbxRequest s mid.toNat ltnTripMbx op wr t.val d) = .next (respond v {}) :=
  h ▸ (act_up free.1 _).trans (congrArg _ (request_ltnTrip s mid.toNat op t.val wr d free small))

theorem exec_ltnTripWrite {d : List Word} (few : d.length ≤ 12) {w : Nat → Nat} (hw : w = word s 0x700080 d) :
    exec (.ltnTripWrite mid t d) s = .next (respond (tripTake (asks (written s d) mid.toNat 0x700080 1 true t.val d) t.val
      (some ⟨w 0 % 2 ^ 14, w 1 % 2 ^ 14, w 2 % 2 ^ 14, true⟩)) {}) :=
  act_ltnTrip free d (by decide) (ltnMbx_write (asks_arg_triplet ..) (asks_wr ..) (asks_op ..)
    (hw ▸ funext fun i => asks_word s mid.toNat 0x700080 1 t.val true d few i))

theorem exec_ltnTripRead {x : Triplet} (hx : x = tat s.cas.trips t.val ⟨0, 0, 0, false⟩) : exec (.ltnTripRead mid t) s =
    .next (answered s mid.toNat 0x700080 2 t.val [w32 x.a, w32 x.b, w32 x.c, w32 (bitAt x.valid 31 + b2n (tripErr s x))]) := by
  have err : tripErr (asks s mid.toNat 0x700080 2 false t.val []) x = tripErr s x := rfl
  rw [← err]
  exact act_ltnTrip free [] (by decide) (ltnMbx_read (asks_arg_triplet ..) (asks_wr ..) (asks_op ..) hx.symm)

theorem exec_ltnTripDisable : exec (.ltnTripDisable mid t) s =
    .next (respond (tripTake (asks s mid.toNat 0x700080 3 true t.val []) t.val none) {}) :=
  act_ltnTrip free [] (by decide) (ltnMbx_disable (asks_arg_triplet ..) (asks_wr ..) (asks_op ..))

end

/-- Settles O43: the oldest released set (R287, R297, R508); the two ways a sync is taken and the fall of SYNC_OUT; a response by its number; a
triplet by the tick generator. That a triplet change acts at once while no edge will come, and the figures of a response, are log 48. -/
theorem filtersAndPhasors : Obligations.FiltersAndPhasors := by
  intro s mid up
  refine ⟨fun r rs v waits hv => ?_, fun out may => ?_, fun on => ?_, fun off => ?_, fun high due => ?_, fun r mp free => ⟨fun listed =>
    ⟨fun part c hc => exec_casRespCoef free listed part hc, exec_casRespInfo free listed⟩, fun none_ => exec_casRespInfo_absent free none_⟩,
    fun t free => ⟨fun d w y q few hw hy hq => ?_, fun x q hx hq => ⟨exec_ltnTripRead free hx, ?_⟩⟩⟩
  · exact (act_up up processSet).trans (congrArg _ (processSet_next waits hv))
  · rw [exec_casSyncGo up out may, syncTake_go, syncGroups_wscNote, firstSyncTick_wscNote]
    rfl
  · exact (act_up up syncIn).trans (congrArg _ ((syncIn_enabled on).trans (syncTake_pin s)))
  · exact (act_up up syncIn).trans (congrArg _ (syncIn_disabled off))
  · exact (act_up up syncOutFall).trans (congrArg _ (syncOutFall_due high due))
  · obtain ⟨waiting, atOnce⟩ := tripTake_asked hq (some y)
    rw [exec_ltnTripWrite free few hw, ← hy, ← hq]
    exact ⟨fun active => by rw [waiting active], fun stopped => by rw [atOnce stopped]; rfl⟩
  · obtain ⟨waiting, atOnce⟩ := tripTake_asked (d := []) hq none
    rw [exec_ltnTripDisable free, ← hq, hx]
    exact ⟨fun active => by rw [waiting active], fun stopped => by rw [atOnce stopped]; rfl⟩

end Sys2Proof.Machine
end

section
/-! Proofs of the family 09_cascade_lantern.md, the cycle: the pairs and their mismatches, NEXT and DONE, checkpoints and the requests of the cycle page. -/

namespace Sys2Proof.Machine

/-! ### A pair halts (R355, R356) -/

theorem pairHalts_halted {s : State} {c k : Nat} (halted : k ∈ s.cyc.halted) : pairHalts s c k = s :=
  if_pos (List.contains_iff_mem.2 halted)

theorem pairHalts_running {s : State} {c k : Nat} (running : k ∉ s.cyc.halted) : pairHalts s c k =
    withdraw (raiseOpen { s with cyc := { s.cyc with halted := s.cyc.halted ++ [k] } } c k 0) k :=
  if_neg (running ∘ List.contains_iff_mem.1)

theorem exec_lockstepMismatch {s : State} (up : s.cru.inReset = false) (u : LockUnit) : exec (.lockstepMismatch u) s = .next (lockstepMismatch s u) :=
  act_up up fun s => lockstepMismatch s u

/-! ### The command registers of a pair's page (R46, R358, R369) -/

/-- At `o` stands the register `n` of the page of pair `k`, with the fields `fs`. -/
def pairRegB (o : Nat) (n : CycReg) (k : Nat) (fs : List FieldDesc) : Bool := (regAt o).any fun l => decide (l.desc.name = .cyc n ∧ l.page.j = k ∧
  l.desc.mbx = false ∧ l.addr = o ∧ l.desc.fields = fs)

/-- The field of CYC_PRk_CTRL. -/
def pairCtrlFields : List FieldDesc := [⟨0, 0, .wsc, false, 0, 0, 1, .none⟩]

/-- The fields of CYC_PRk_DONE. -/
def pairDoneFields : List FieldDesc := [⟨19, 16, .wsc, false, 0, 0, 15, .none⟩, ⟨9, 0, .wsc, false, 0, 0, 1023, .none⟩]

theorem pairRegB_ctrl : ∀ k : Fin 48, pairRegB (0x980050 + 0x1000 * k.val) .CYC_PR_CTRL k.val pairCtrlFields = true := by decide +kernel

theorem pairRegB_done : ∀ k : Fin 48, pairRegB (0x980048 + 0x1000 * k.val) .CYC_PR_DONE k.val pairDoneFields = true := by decide +kernel

/-- A write of a command register of a pair's page notes the bits that it sets and starts what they command. -/
theorem meshWrite_pairCommand {s : State} {mid o k v x : Nat} {n : CycReg} {fs : List FieldDesc} (here : pairRegB o n k fs = true)
    (plain : ∀ f ∈ fs, f.acc = .wsc ∧ f.prv = false ∧ f.dep = .none) (some_ : fs ≠ []) (may : mayWrite s mid o = true) (aligned : o % 4 = 0)
    (low : o < 0x10000000) (word : v < 2 ^ 32) (sum : (fs.map fun f => bits v f.hi f.lo * 2 ^ f.lo).sum = x) :
    meshWrite s mid o v = respond (cycWsc n k x (if x = 0 then s else wscNote s o x)) {} := by
  obtain ⟨l, hl, row⟩ := (Option.any_eq_true ..).1 here
  obtain ⟨name, page, mbx, addr, rfl⟩ := of_decide_eq_true row
  obtain ⟨listed, total⟩ := wsc_fields l mid v x plain sum some_
  rw [meshWrite_command s mid o v l hl may aligned low mbx (by simp [name]) (fun f h => by simp [(plain f h).1]), Nat.mod_eq_of_lt word]
  simp only [commandWrite, listed, total, name, page, addr, Bool.false_eq_true, if_false]

theorem exec_cycPairReset {s : State} {mid : Mid} {k : Fin 48} (up : s.cru.inReset = false) (may : mayWrite s mid.toNat (0x980050 + 0x1000 * k.val) = true) :
    exec (.cycPairReset mid k) s = .next (respond (pairReset (wscNote s (0x980050 + 0x1000 * k.val) 1) k.val) {}) :=
  (act_up up fun s => meshWrite s mid.toNat (0x980050 + 0x1000 * k.val) 1).trans (congrArg _
    (meshWrite_pairCommand (pairRegB_ctrl k) (v := 1) (x := 1) (by decide) (by decide) may (by omega) (by omega) (by decide) (by decide)))

/-- The state in which a write of `v` to the command register at `o` starts what it commands. -/
def commanded (s : State) (o v : Nat) : State := if v = 0 then s else wscNote s o v

theorem exec_cycDone {s : State} {mid : Mid} {k : Fin 48} {c : Fin 16} {p : Fin 1024} (up : s.cru.inReset = false)
    (may : mayWrite s mid.toNat (0x980048 + 0x1000 * k.val) = true) : exec (.cycDone mid k c p) s =
      .next (respond (cycDone (commanded s (0x980048 + 0x1000 * k.val) (c.val * 2 ^ 16 + p.val)) k.val (c.val * 2 ^ 16 + p.val)) {}) := by
  have sum : (pairDoneFields.map fun f => bits (c.val * 2 ^ 16 + p.val) f.hi f.lo * 2 ^ f.lo).sum = c.val * 2 ^ 16 + p.val := by
    simp only [pairDoneFields, bits, List.map_cons, List.map_nil, List.sum_cons, List.sum_nil]
    omega
  exact (act_up up fun s => meshWrite s mid.toNat (0x980048 + 0x1000 * k.val) (c.val * 2 ^ 16 + p.val)).trans (congrArg _
    (meshWrite_pairCommand (pairRegB_done k) (by decide) (by decide) may (by omega) (by omega) (by omega) sum))

/-! ### NEXT and DONE (R368, R369) -/

theorem commanded_cyc (s : State) (o v : Nat) : (commanded s o v).cyc = s.cyc := by unfold commanded; split <;> rfl

theorem commanded_listAddr (s : State) (o v p c h : Nat) : listAddr (commanded s o v) p c h = listAddr s p c h := by unfold commanded; split <;> rfl

theorem sameMemory_commanded (s : State) (o v : Nat) : SameMemory s (commanded s o v) := by unfold commanded; split <;> exact ⟨rfl, rfl⟩

/-- DONE ends what runs under its name, with its list as it stands, or is ignored and counted. -/
theorem cycDone_commanded (s : State) (o k : Nat) (c : Fin 16) (p : Fin 1024) {named : Inst → Bool}
    (hn : named = fun e => e.pair == k && e.st == .running && e.pav == p.val && e.cls == c.val) {b : State}
    (hb : b = commanded s o (c.val * 2 ^ 16 + p.val)) : cycDone b k (c.val * 2 ^ 16 + p.val) =
      if s.cyc.insts.any named then { b with cyc := { s.cyc with
        insts := s.cyc.insts.map fun e => if named e then { e with st := .done, list := rdBytes s (listAddr s e.pav e.cls e.half) 4096 } else e } }
      else wign b (0x980000 + 0x1000 * k) := by
  subst hn hb
  have pav : (c.val * 2 ^ 16 + p.val) % 1024 = p.val := by omega
  have cls : bits (c.val * 2 ^ 16 + p.val) 19 16 = c.val := by rw [bits]; omega
  simp only [cycDone, pav, cls, commanded_cyc, commanded_listAddr, (sameMemory_commanded s o _).rdBytes, Nat.mul_comm k]

theorem regAt_pairNext : ∀ k : Fin 48, (regAt (0x980040 + 0x1000 * k.val)).map (fun l => (l.desc.name, l.page.j)) =
    some (.cyc .CYC_PR_NEXT, k.val) := by decide +kernel

/-- A read of CYC_PRk_NEXT acts in the read itself. -/
theorem busRead_pairNext {s : State} {mid : Nat} {k : Fin 48} (may : mayRead s mid (0x980040 + 0x1000 * k.val) = true) :
    busRead s mid (0x980040 + 0x1000 * k.val) = ((nextRead s k.val).1, some (nextRead s k.val).2) := by
  obtain ⟨l, hl, row⟩ := Option.map_eq_some_iff.1 (regAt_pairNext k)
  obtain ⟨name, page⟩ := Prod.mk.inj row
  have onPage := (regAt_spec _ l hl).1
  have reg : regIn l.page ((0x980040 + 0x1000 * k.val) % 0x1000) = some l := by simpa only [regAt, onPage] using hl
  have block : ¬ (0x980040 + 0x1000 * k.val) % 0x1000 < 0x40 := by omega
  have allowed : allows l.desc.priv l.page mid = true := by
    simp only [mayRead, hl, Bool.and_eq_true] at may
    exact may.1.2
  simp only [busRead, onPage, reg, block, allowed, name, page, decide_false, Bool.not_true, Bool.or_self, Bool.false_eq_true, if_false]

theorem exec_cycNext {s t : State} {mid : Mid} {k : Fin 48} {w : Nat} (up : s.cru.inReset = false)
    (may : mayRead s mid.toNat (0x980040 + 0x1000 * k.val) = true) (h : nextRead s k.val = (t, w)) :
    exec (.cycNext mid k) s = .next (respond t { data := [w32 w] }) := by
  refine (act_up up fun s => meshRead s mid.toNat (0x980040 + 0x1000 * k.val)).trans (congrArg _ ?_)
  rw [meshRead_may s _ _ may (by omega) (by omega), busRead_pairNext may, onOpt_some, h]

section
variable {s : State} {k : Nat}

theorem nextRead_released {e : Inst} (on : enabled s (0x980000 + 0x1000 * k) = true) (next : nextInstance s k = some e) : nextRead s k =
    ({ s with cyc := { s.cyc with insts := s.cyc.insts.map fun x => if x = e then { x with st := .running } else x
                                  ntick := tset s.cyc.ntick k (e.start % 2 ^ 32) } }, 2 ^ 31 + e.cls * 2 ^ 16 + e.pav) := by
  rw [Nat.mul_comm] at on
  simp only [nextRead, on, next, Bool.not_true, Bool.false_eq_true, if_false]

theorem nextRead_nothing (h : enabled s (0x980000 + 0x1000 * k) = false ∨ nextInstance s k = none) : nextRead s k = (s, 0) := by
  rw [Nat.mul_comm] at h
  rcases h with off | none_
  · exact if_pos (by rw [off]; rfl)
  · simp only [nextRead, none_, ite_self]

end

/-! ### Checkpoints (R383) -/

theorem ckptComplete_programmed {s : State} {c : Ckpt} (h : s.cyc.ckpt = some c) : ckptComplete s = { s with
    dbg := { s.dbg with flash := flashProgram (flashProgram s.dbg.flash (ckptSlot s c.seq).1 c.bytes) ((ckptSlot s c.seq).1 + 0x1C) (leBytes 4 0x5A5AA5A5) }
    cyc := { s.cyc with ckpt := none, ckptSeq := c.seq } } := by
  simp only [ckptComplete, h]

/-! ### The requests of the cycle page (R129, R382, R385, R388, R392) -/

/-- In `t` the mailbox at `a` holds the request `op` for pavilion `p` with the words `w`; what a request asks of the sequencer is as it is in `s`. -/
structure CycAsked (s t : State) (a p op : Nat) (wr : Bool) (w : Nat → Nat) : Prop where
  wr : (mbxAt t a).wr = wr
  number : (mbxAt t a).op = op
  pav : (mbxAt t a).arg % 1024 = p
  words : (mbxAt t a).w = w
  cyc : t.cyc = s.cyc
  target : ∀ low, seqTarget t low = seqTarget s low

theorem cycAsked_asks (s : State) (mid a op : Nat) (wr : Bool) (p : Fin 1024) {d : List Word} (few : d.length ≤ 12) :
    CycAsked s (asks (written s d) mid a op wr p.val d) a p.val op wr (word s a d) where
  wr := asks_wr ..
  number := asks_op ..
  pav := by rw [asks_arg]; omega
  words := funext fun i => asks_word s mid a op p.val wr d few i
  cyc := by rw [asks_cyc, written_cyc]
  target low := asks_written_congr (seqTarget · low) (fun _ _ _ => rfl) (fun _ _ => rfl) ..

/-- A request with a target tick waits for it, or ends at once with the CODE that refuses the tick. -/
theorem respond_onTarget {s : State} {low c n : Nat} (h : seqTarget s low = (c, n)) (u : State) (a : Nat) (good : Nat → State) :
    respond (onTarget (seqTarget s low) (fun c => mbxEnd u a c) good) {} = if c = 0 then respond (good n) {} else ended u a c := by
  rw [h, onTarget, apply_ite (respond · {})]
  rfl

section
variable {s t u : State} {p : Nat} {w : Nat → Nat}

section
variable (h : CycAsked s t pvcmdMbx p 1 true w)
include h

theorem pvcmdReq_exchange : pvcmdReq t = exchangeReq t := by
  simp only [pvcmdReq, h.wr, h.number]

section
variable {x : Option Image} (image : readImage t p (w 0 * 4096) = (u, x))
include image

theorem exchangeReq_unread (none_ : x = none) : exchangeReq t = mbxEnd u pvcmdMbx 2 := by
  simp only [exchangeReq, h.pav, h.words, image, none_, onOpt_none]

section
variable {y : Image} {c n : Nat} (found : x = some y) (target : seqTarget u (w 4) = (c, n))
include found target

/-- An exchange to an image that can be read: its target tick first, then what the pavilion needs there (R385). -/
theorem exchangeReq_read : exchangeReq t = if c ≠ 0 then mbxEnd u pvcmdMbx c
    else if !bounds u (y.classes ||| (progOf u p).classes) n then mbxEnd u pvcmdMbx 5
    else if min (w 3 % 128) 64 * 4096 < y.stateSize then mbxEnd u pvcmdMbx 6
    else if !pavEn u p then mbxEnd u pvcmdMbx 7
    else { u with cyc := { u.cyc with pvcmd := some ⟨1, p, n, (mbxAt t pvcmdMbx).d.map (·.toNat)⟩ } } := by
  simp only [exchangeReq, h.pav, h.words, image, found, onOpt_some, onTarget_eq target]

theorem exchangeReq_untimed (bad : c ≠ 0) : exchangeReq t = mbxEnd u pvcmdMbx c := by
  rw [exchangeReq_read h image found target, if_pos bad]

section
variable (timed : c = 0)
include timed

theorem exchangeReq_unbound (off : bounds u (y.classes ||| (progOf u p).classes) n = false) : exchangeReq t = mbxEnd u pvcmdMbx 5 := by
  rw [exchangeReq_read h image found target, if_neg (· timed), off]
  rfl

section
variable (begins : bounds u (y.classes ||| (progOf u p).classes) n = true)
include begins

theorem exchangeReq_large (large : min (w 3 % 128) 64 * 4096 < y.stateSize) : exchangeReq t = mbxEnd u pvcmdMbx 6 := by
  rw [exchangeReq_read h image found target, if_neg (· timed), begins, if_neg (by decide), if_pos large]

section
variable (fits : y.stateSize ≤ min (w 3 % 128) 64 * 4096)
include fits

theorem exchangeReq_disabled (off : pavEn u p = false) : exchangeReq t = mbxEnd u pvcmdMbx 7 := by
  rw [exchangeReq_read h image found target, if_neg (· timed), begins, if_neg (by decide), if_neg (Nat.not_lt.2 fits), off]
  rfl

theorem exchangeReq_waits (on : pavEn u p = true) : exchangeReq t =
    { u with cyc := { u.cyc with pvcmd := some ⟨1, p, n, (mbxAt t pvcmdMbx).d.map (·.toNat)⟩ } } := by
  rw [exchangeReq_read h image found target, if_neg (· timed), begins, if_neg (by decide), if_neg (Nat.not_lt.2 fits), on]
  rfl

end
end
end
end
end
end

theorem pvcmdReq_restart (h : CycAsked s t pvcmdMbx p 2 true w) : pvcmdReq t = onTarget (seqTarget s (w 4)) (fun c => mbxEnd t pvcmdMbx c)
    fun n => { t with cyc := { s.cyc with pvcmd := some ⟨2, p, n, (mbxAt t pvcmdMbx).d.map (·.toNat)⟩ } } := by
  simp only [pvcmdReq, h.wr, h.number, h.pav, h.words, h.target, h.cyc]

section
variable (h : CycAsked s t forceMbx p 1 true w) {x : Option Sym} (symbol : findSym t p (w 0 + 2 ^ 32 * w 1) = (u, x))
include h symbol

theorem forceReq_set_unknown (none_ : x = none) : forceReq t = mbxEnd u forceMbx 2 := by
  simp only [forceReq, Mbx.w2, h.wr, h.number, h.pav, h.words, Nat.zero_add, symbol, none_, onOpt_none]

section
variable {y : Sym} (found : x = some y)
include found

/-- SET of a known symbol: room in the table first, then the target tick (R388). -/
theorem forceReq_set_found : forceReq t = if (forceOf u p (w 0 + 2 ^ 32 * w 1)).isNone && decide (4096 ≤ u.cyc.forces.length) then mbxEnd u forceMbx 1
    else onTarget (seqTarget u (w 5)) (fun c => mbxEnd u forceMbx c)
      fun n => { u with cyc := { u.cyc with force := some ⟨1, p, n, (mbxAt t forceMbx).d.map (·.toNat)⟩ } } := by
  simp only [forceReq, Mbx.w2, h.wr, h.number, h.pav, h.words, Nat.zero_add, symbol, found, onOpt_some]

theorem forceReq_set_full (new : forceOf u p (w 0 + 2 ^ 32 * w 1) = none) (full : 4096 ≤ u.cyc.forces.length) : forceReq t = mbxEnd u forceMbx 1 := by
  rw [forceReq_set_found h symbol found, new, decide_eq_true full]
  rfl

theorem forceReq_set_waits (room : forceOf u p (w 0 + 2 ^ 32 * w 1) ≠ none ∨ u.cyc.forces.length < 4096) : forceReq t =
    onTarget (seqTarget u (w 5)) (fun c => mbxEnd u forceMbx c)
      fun n => { u with cyc := { u.cyc with force := some ⟨1, p, n, (mbxAt t forceMbx).d.map (·.toNat)⟩ } } := by
  rw [forceReq_set_found h symbol found]
  refine if_neg fun full => ?_
  obtain ⟨new, much⟩ := Bool.and_eq_true_iff.1 full
  exact room.elim (fun old => old (Option.isNone_iff_eq_none.1 new)) (Nat.not_lt.2 (of_decide_eq_true much))

end
end

theorem forceOf_congr (cyc : t.cyc = s.cyc) (p y : Nat) : forceOf t p y = forceOf s p y := by
  rw [forceOf, forceOf, cyc]

section
variable (h : CycAsked s t forceMbx p 2 true w)
include h

theorem forceReq_clear_absent (none_ : forceOf s p (w 0 + 2 ^ 32 * w 1) = none) : forceReq t = mbxEnd t forceMbx 5 := by
  simp only [forceReq, Mbx.w2, h.wr, h.number, h.pav, h.words, forceOf_congr h.cyc, Nat.zero_add, none_, Option.isNone_none, if_true]

theorem forceReq_clear_waits {f : Force} (forced : forceOf s p (w 0 + 2 ^ 32 * w 1) = some f) : forceReq t =
    onTarget (seqTarget s (w 5)) (fun c => mbxEnd t forceMbx c)
      fun n => { t with cyc := { s.cyc with force := some ⟨2, p, n, (mbxAt t forceMbx).d.map (·.toNat)⟩ } } := by
  simp only [forceReq, Mbx.w2, h.wr, h.number, h.pav, h.words, forceOf_congr h.cyc, Nat.zero_add, forced, h.target, h.cyc, Option.isNone_some,
    Bool.false_eq_true, if_false]

end

section
variable (h : CycAsked s t forceMbx p 3 false w)
include h

theorem forceReq_read_absent (none_ : forceOf s p (w 0 + 2 ^ 32 * w 1) = none) : forceReq t = mbxEnd t forceMbx 5 := by
  simp only [forceReq, Mbx.w2, h.wr, h.number, h.pav, h.words, forceOf_congr h.cyc, Nat.zero_add, none_]

theorem forceReq_read_forced {f : Force} (forced : forceOf s p (w 0 + 2 ^ 32 * w 1) = some f) : forceReq t =
    mbxAnswer t forceMbx 0 [w32 (w 0), w32 (w 1), w32 f.value, w32 (f.value / 2 ^ 32), w32 f.quality] := by
  have kept (i : Nat) : (mbxAt t forceMbx).d.getD i 0 = w32 (w i) := by rw [← h.words, w32, Mbx.w, BitVec.ofNat_toNat, BitVec.setWidth_eq]
  simp only [forceReq, Mbx.w2, h.wr, h.number, h.pav, h.words, forceOf_congr h.cyc, Nat.zero_add, forced, kept]

end
end

theorem act_cycPvcmd {s u : State} {mid : Mid} {op : Nat} {p : Fin 1024} {d : List Word} (free : Free s mid.toNat 0x900080) (small : op < 256)
    (h : pvcmdReq (asks (written s d) mid.toNat 0x900080 op true p.val d) = u) :
    act s (fun s => mbxRequest s mid.toNat pvcmdMbx op true p.val d) = .next (respond u {}) :=
  h ▸ (act_up free.1 _).trans (congrArg _ (request_cycPvcmd s mid.toNat op p.val true d free small))

theorem act_cycForce {s u : State} {mid : Mid} {op : Nat} {wr : Bool} {p : Fin 1024} {d : List Word} (free : Free s mid.toNat 0x9000C0)
    (small : op < 256) (h : forceReq (asks (written s d) mid.toNat 0x9000C0 op wr p.val d) = u) :
    act s (fun s => mbxRequest s mid.toNat forceMbx op wr p.val d) = .next (respond u {}) :=
  h ▸ (act_up free.1 _).trans (congrArg _ (request_cycForce s mid.toNat op p.val wr d free small))

/-- Settles O46: a mismatch by what differs, NEXT and DONE by what they find, a checkpoint, and each request by its tests in their order. That
order is the model's choice (log 59), as are LATE while no tick is in progress (log 58), the list taken at DONE (log 62), and the number of an engine and
the lanes noted for the next set (log 105). -/
theorem cycleSequencer : Obligations.CycleSequencer := by
  intro s mid up
  refine ⟨fun k => ⟨fun halted => ?_, fun running => ?_, fun f => ?_, fun e => exec_lockstepMismatch up _, fun d => exec_lockstepMismatch up _,
      exec_cycPairReset up, fun may => ⟨fun e on next => exec_cycNext up may (nextRead_released on next),
        fun nothing => exec_cycNext up may (nextRead_nothing nothing)⟩, fun c p named may hn b hb => ?_⟩,
    fun c programming => ?_, fun p d w q few => ⟨fun free hw hq => ⟨fun u x image => ?_, fun c n target => ?_⟩,
      fun free hw hq => ⟨fun u x symbol => ?_, fun none_ => ⟨?_, ?_⟩, fun f forced => ⟨fun c n target => ?_, ?_⟩⟩⟩⟩
  · exact (exec_lockstepMismatch up _).trans (congrArg _ (pairHalts_halted halted))
  · exact (exec_lockstepMismatch up _).trans (congrArg _ (pairHalts_running running))
  · rw [exec_lockstepMismatch up]
    cases f <;> rfl
  · rw [exec_cycDone up may, ← show b = commanded s _ _ from hb, cycDone_commanded s _ k.val c p hn hb]
  · exact (act_up up ckptComplete).trans (congrArg _ (ckptComplete_programmed programming))
  · subst hw hq
    have asked := cycAsked_asks s mid.toNat 0x900080 1 true p few
    have exchange {v : State} (h : exchangeReq (asks (written s d) mid.toNat 0x900080 1 true p.val d) = v) :
        exec (.cycPvcmdExchange mid p d) s = .next (respond v {}) :=
      act_cycPvcmd free (by decide) ((pvcmdReq_exchange asked).trans h)
    refine ⟨fun none_ => exchange (exchangeReq_unread asked image none_), fun y c n found target =>
      ⟨fun bad => exchange (exchangeReq_untimed asked image found target bad), fun timed code refused => ?_,
        fun timed begins fits on => exchange (exchangeReq_waits asked image found target timed begins fits on)⟩⟩
    rcases refused with ⟨off, rfl⟩ | ⟨begins, ⟨large, rfl⟩ | ⟨fits, off, rfl⟩⟩
    · exact exchange (exchangeReq_unbound asked image found target timed off)
    · exact exchange (exchangeReq_large asked image found target timed begins large)
    · exact exchange (exchangeReq_disabled asked image found target timed begins fits off)
  · subst hw hq
    exact (act_cycPvcmd free (by decide) (pvcmdReq_restart (cycAsked_asks s mid.toNat 0x900080 2 true p few))).trans
      (congrArg _ (respond_onTarget target ..))
  · subst hw hq
    have asked := cycAsked_asks s mid.toNat 0x9000C0 1 true p few
    have set {v : State} (h : forceReq (asks (written s d) mid.toNat 0x9000C0 1 true p.val d) = v) :
        exec (.cycForceSet mid p d) s = .next (respond v {}) := act_cycForce free (by decide) h
    exact ⟨fun none_ => set (forceReq_set_unknown asked symbol none_), fun y found =>
      ⟨fun new full => set (forceReq_set_full asked symbol found new full), fun c n room target =>
        (set (forceReq_set_waits asked symbol found room)).trans (congrArg _ (respond_onTarget target ..))⟩⟩
  · subst hw hq
    exact act_cycForce free (by decide) (forceReq_clear_absent (cycAsked_asks s mid.toNat 0x9000C0 2 true p few) none_)
  · subst hw hq
    exact act_cycForce free (by decide) (forceReq_read_absent (cycAsked_asks s mid.toNat 0x9000C0 3 false p few) none_)
  · subst hw hq
    exact (act_cycForce free (by decide) (forceReq_clear_waits (cycAsked_asks s mid.toNat 0x9000C0 2 true p few) forced)).trans
      (congrArg _ (respond_onTarget target ..))
  · subst hw hq
    exact act_cycForce free (by decide) (forceReq_read_forced (cycAsked_asks s mid.toNat 0x9000C0 3 false p few) forced)

end Sys2Proof.Machine
end

section
/-! Proofs of the family 10_bandstand_dispatch.md: what purging stale events leaves alone, the next event of a pair, TAKE and its timeout, and DONE. -/

namespace Sys2Proof.Machine

/-! ### What purging stale events leaves alone (R346) -/

/-- `t` is `s` but for the events in its queues and the counters of the pavilion pages. -/
structure QueuesPurged (s t : State) : Prop where
  sdl : t.sdl = s.sdl
  cyc : t.cyc = s.cyc
  slots : t.bnd.slots = s.bnd.slots
  waiting : t.bnd.waiting = s.bnd.waiting
  enabled : ∀ page < 0x4000000, enabled t page = enabled s page

namespace QueuesPurged

theorem refl (s : State) : QueuesPurged s s := ⟨rfl, rfl, rfl, rfl, fun _ _ => rfl⟩

theorem trans {s t u : State} (h : QueuesPurged s t) (g : QueuesPurged t u) : QueuesPurged s u :=
  ⟨g.sdl.trans h.sdl, g.cyc.trans h.cyc, g.slots.trans h.slots, g.waiting.trans h.waiting,
    fun p low => (g.enabled p low).trans (h.enabled p low)⟩

theorem foldl {α : Type} {f : State → α → State} (h : ∀ s a, QueuesPurged s (f s a)) (l : List α) (s : State) : QueuesPurged s (l.foldl f s) := by
  induction l generalizing s with
  | nil => exact refl s
  | cons a l ih => exact (h s a).trans (ih _)

theorem slotOf {s t : State} (h : QueuesPurged s t) (k : Nat) : slotOf t k = slotOf s k := congrArg (tat · k []) h.slots

theorem pairUp {s t : State} (h : QueuesPurged s t) {k : Nat} (small : k < 48) : pairUp t k = pairUp s k := by
  rw [Machine.pairUp, Machine.pairUp, h.enabled _ (by omega), h.cyc]

end QueuesPurged

/-- A stale event is counted in a pavilion page, above every page that enables a function. -/
theorem queuesPurged_staleCount (s : State) (p : Nat) : QueuesPurged s (cinc s (Fld.PAV_STALE_COUNT p)) := by
  refine ⟨rfl, rfl, rfl, rfl, fun page low => ?_⟩
  have apart : fkey (hEn page) ≠ fkey (Fld.PAV_STALE_COUNT p) := by simp only [fkey, hEn, Fld.PAV_STALE_COUNT]; omega
  rw [enabled, enabled, fbit, fbit, fget_cinc_ne _ _ _ apart]

theorem queuesPurged_staleCounts (s : State) (es : List QEv) :
    QueuesPurged s (es.foldl (fun s e => cinc s (Fld.PAV_STALE_COUNT e.owner)) s) := by
  apply QueuesPurged.foldl
  exact fun s e => queuesPurged_staleCount s e.owner

theorem queuesPurged_purgeHead (s : State) (q : Nat) : QueuesPurged s (purgeHead s q) := by
  unfold purgeHead
  extract_lets gone rest b t
  split
  · exact .refl s
  · have cut : QueuesPurged s t := ⟨rfl, rfl, rfl, rfl, fun _ _ => rfl⟩
    exact cut.trans (queuesPurged_staleCounts t gone)

theorem queuesPurged_purgeAll (s : State) : QueuesPurged s (purgeAll s) := .foldl queuesPurged_purgeHead _ s

theorem enabled_purgeSlot (s : State) (k : Nat) {page : Nat} (low : page < 0x4000000) : enabled (purgeSlot s k) page = enabled s page :=
  (queuesPurged_staleCounts (setSlot s k _) _).enabled page low

/-! ### An event moves into a slot (R341, R342) -/

theorem rememberPair_frame (b : Bandstand) (e : QEv) (k : Nat) : (rememberPair b e k).waiting = b.waiting ∧
    (rememberPair b e k).slots = b.slots ∧ (rememberPair b e k).lastServed = b.lastServed := by
  unfold rememberPair
  split <;> exact ⟨rfl, rfl, rfl⟩

theorem setSlot_append (s : State) (k : Nat) (es : List QEv) (e : QEv) :
    setSlot s k (es ++ [e]) = { s with bnd := { s.bnd with slots := tset s.bnd.slots k (es ++ [e]) } } := by
  have filled : (es ++ [e]).isEmpty = false := by simp
  simp only [setSlot, filled, Bool.false_eq_true, if_false]

/-- The state in which the event `e` of queue `q` stands in the slot of pair `k`, before the head of the queue is looked at again. -/
def moved (s : State) (k q : Nat) (e : QEv) : State :=
  { s with bnd := { rememberPair (dequeue s.bnd q e.seq) e k with
      lastServed := tset s.bnd.lastServed (qPrio s q) q, slots := tset s.bnd.slots k (slotOf s k ++ [e]) } }

theorem slotServe_moved (s : State) (k q : Nat) (e : QEv) (mig : Bool) :
    slotServe s k q e mig = cincIf (purgeHead (moved s k q e) q) mig Fld.BND_MIGR_COUNT := by
  obtain ⟨-, slots, last⟩ := rememberPair_frame (dequeue s.bnd q e.seq) e k
  have slot (l : Tbl Nat) : slotOf { s with bnd := { rememberPair (dequeue s.bnd q e.seq) e k with lastServed := l } } k = slotOf s k :=
    congrArg (tat · k []) slots
  rw [slotServe, setSlot_append, slot, slots, last]
  rfl

theorem slotServe_waiting (s : State) (k q : Nat) (e : QEv) (mig : Bool) : (slotServe s k q e mig).bnd.waiting = s.bnd.waiting := by
  have moves : (moved s k q e).bnd.waiting = s.bnd.waiting := (rememberPair_frame _ e k).1
  rw [slotServe_moved, ← moves, ← (queuesPurged_purgeHead (moved s k q e) q).waiting]
  cases mig <;> rfl

theorem slotServe_sdl (s : State) (k q : Nat) (e : QEv) (mig : Bool) : (slotServe s k q e mig).sdl = s.sdl := by
  rw [slotServe_moved, cincIf_sdl, (queuesPurged_purgeHead (moved s k q e) q).sdl]
  rfl

/-- The entry that has entered the slot of pair `k` goes to a TAKE that waits and has not timed out, unless it is stale. -/
def answerTake (s : State) (k : Nat) : State :=
  match tget s.bnd.waiting k with
  | none => s
  | some (a, tmo, t) => if s.sdl.fab < a + tmo then (returnEntry (purgeSlot s k) k t).getD (purgeSlot s k) else s

section
variable {s : State} {k : Nat}

theorem answerTake_unawaited (h : tget s.bnd.waiting k = none) : answerTake s k = s := by
  simp only [answerTake, h]

theorem answerTake_timedOut {a tmo t : Nat} (h : tget s.bnd.waiting k = some (a, tmo, t)) (late : a + tmo ≤ s.sdl.fab) : answerTake s k = s := by
  simp only [answerTake, h, Nat.not_lt.2 late, if_false]

theorem answerTake_inTime {a tmo t : Nat} (h : tget s.bnd.waiting k = some (a, tmo, t)) (inTime : s.sdl.fab < a + tmo) :
    answerTake s k = (returnEntry (purgeSlot s k) k t).getD (purgeSlot s k) := by
  simp only [answerTake, h, inTime, if_true]

variable (on : enabled s 0x800000 = true) (small : k < 48)
include on small

theorem slotFill_noRoom (h : 2 ≤ (slotOf s k).length ∨ pairUp s k = false) : slotFill s k = purgeAll s := by
  have purged := queuesPurged_purgeAll s
  have noRoom : (decide (2 ≤ (slotOf (purgeAll s) k).length) || !pairUp (purgeAll s) k) = true := by
    rw [purged.slotOf, purged.pairUp small]
    simpa using h
  simp only [slotFill, on, noRoom, Bool.not_true, Bool.false_eq_true, if_false, if_true]

theorem slotFill_next {q : Nat} {e : QEv} {mig : Bool} (room : (slotOf s k).length < 2) (up : pairUp s k = true)
    (next : (serveOrder (purgeAll s)).findSome? (fun q => (eligibleFor (purgeAll s) k q).map fun r => (q, r)) = some (q, e, mig)) :
    slotFill s k = answerTake (slotServe (purgeAll s) k q e mig) k := by
  have purged := queuesPurged_purgeAll s
  have free : (decide (2 ≤ (slotOf (purgeAll s) k).length) || !pairUp (purgeAll s) k) = false := by
    rw [purged.slotOf, purged.pairUp small, up]
    simpa using room
  simp only [slotFill, on, free, next, Bool.not_true, Bool.false_eq_true, if_false, answerTake]
  rcases tget (slotServe (purgeAll s) k q e mig).bnd.waiting k with _ | ⟨a, tmo, t⟩
  · rfl
  · rcases answer : returnEntry (purgeSlot (slotServe (purgeAll s) k q e mig) k) k t with _ | u <;>
      simp only [answer] <;> rfl

end

/-! ### TAKE (R343, R345) -/

theorem regAt_take : ∀ k : Fin 48, (regAt (0x880040 + 0x1000 * k.val)).map (fun l => (l.desc.name, l.page.j)) =
    some (.bnd .BND_TAKE, k.val) := by decide +kernel

/-- A read of BND_TAKE acts in the read itself. -/
theorem busRead_take {s t : State} {mid : Nat} {k : Fin 48} (may : mayRead s mid (0x880040 + 0x1000 * k.val) = true) (h : takeRead s k.val = t) :
    busRead s mid (0x880040 + 0x1000 * k.val) = (t, if t.reg.resp.wait then none else some (t.reg.resp.data.getD 0 0).toNat) := by
  obtain ⟨l, hl, row⟩ := Option.map_eq_some_iff.1 (regAt_take k)
  obtain ⟨name, page⟩ := Prod.mk.inj row
  have onPage := (regAt_spec _ l hl).1
  have reg : regIn l.page ((0x880040 + 0x1000 * k.val) % 0x1000) = some l := by simpa only [regAt, onPage] using hl
  have block : ¬ (0x880040 + 0x1000 * k.val) % 0x1000 < 0x40 := by omega
  have allowed : allows l.desc.priv l.page mid = true := by
    simp only [mayRead, hl, Bool.and_eq_true] at may
    exact may.1.2
  simp only [busRead, onPage, reg, block, allowed, name, page, h, decide_false, Bool.not_true, Bool.or_self, Bool.false_eq_true, if_false]

section
variable {s t : State} {mid : Mid} {k : Fin 48} (up : s.cru.inReset = false) (may : mayRead s mid.toNat (0x880040 + 0x1000 * k.val) = true)
include up may

theorem exec_bndTake_answers {w : Word} (h : takeRead s k.val = respond t { data := [w] }) :
    exec (.bndTake mid k) s = .next (respond t { data := [w] }) := by
  refine (act_up up fun s => meshRead s mid.toNat (0x880040 + 0x1000 * k.val)).trans (congrArg _ ?_)
  have word : w32 w.toNat = w := by rw [w32, BitVec.ofNat_toNat, BitVec.setWidth_eq]
  calc meshRead s mid.toNat (0x880040 + 0x1000 * k.val)
    _ = respond (respond t { data := [w] }) { data := [w32 w.toNat] } := by
      rw [meshRead_may s _ _ may (by omega) (by omega), busRead_take may h]
      rfl
    _ = respond t { data := [w] } := by rw [respond_respond, word]

theorem exec_bndTake_waits (h : takeRead s k.val = respond t { wait := true }) : exec (.bndTake mid k) s = .next (respond t { wait := true }) := by
  refine (act_up up fun s => meshRead s mid.toNat (0x880040 + 0x1000 * k.val)).trans (congrArg _ ?_)
  rw [meshRead_may s _ _ may (by omega) (by omega), busRead_take may h]
  rfl

end

/-- The state in which a TAKE accepted at PTP time `t` has returned the entry `e`, before its answer: taken, shown, and counted. -/
def taken (s : State) (k : Nat) (e : QEv) (late : Bool) : State :=
  cincIf (cinc { s with bnd := { s.bnd with
    taken := tset s.bnd.taken k e, words := tset s.bnd.words k (evWords e.ev), waiting := tdel s.bnd.waiting k } } (Fld.BND_PTAKE_COUNT k))
    late Fld.BND_LATE_COUNT

theorem returnEntry_oldest {s : State} {k : Nat} {e : QEv} {es : List QEv} (t : Nat) (h : slotOf s k = e :: es) :
    returnEntry s k t = some (respond (taken (setSlot s k es) k e (isLate e t))
      { data := [w32 (2 ^ 31 + bitAt (isLate e t) 30 + e.ev.type * 2 ^ 16 + e.ev.queue)] }) := by
  simp only [returnEntry, h]
  rfl

section
variable {s : State} {k : Nat} (small : k < 48)
include small

theorem enabled_takes : enabled (purgeSlot (completeTaken s k) k) (0x880000 + k * 0x1000) = enabled s (0x880000 + 0x1000 * k) := by
  rw [enabled_purgeSlot _ _ (by omega), Nat.mul_comm k]
  rfl

theorem takeRead_oldest {e : QEv} {es : List QEv} (on : enabled s (0x880000 + 0x1000 * k) = true)
    (h : slotOf (purgeSlot (completeTaken s k) k) k = e :: es) {late : Bool} (hl : late = isLate e (timeNow (purgeSlot (completeTaken s k) k))) :
    takeRead s k = respond (taken (setSlot (purgeSlot (completeTaken s k) k) k es) k e late)
      { data := [w32 (2 ^ 31 + bitAt late 30 + e.ev.type * 2 ^ 16 + e.ev.queue)] } := by
  simp only [takeRead, enabled_takes small, on, if_true, returnEntry_oldest _ h, ← hl]

theorem takeRead_waits {q : State} (hq : q = purgeSlot (completeTaken s k) k) (h : enabled s (0x880000 + 0x1000 * k) = false ∨ slotOf q k = []) :
    takeRead s k = respond { q with bnd := { q.bnd with
      waiting := tset q.bnd.waiting k (q.sdl.fab, fget q (Fld.BND_TMO_NS k), timeNow q) } } { wait := true } := by
  subst hq
  have nothing : (if enabled s (0x880000 + 0x1000 * k) then
      returnEntry (purgeSlot (completeTaken s k) k) k (timeNow (purgeSlot (completeTaken s k) k)) else none) = none := by
    rcases h with off | empty
    · simp only [off, Bool.false_eq_true, if_false]
    · simp only [returnEntry, empty, ite_self]
  simp only [takeRead, enabled_takes small, nothing, respond]

end

theorem takeTimeout_due {s : State} {k a tmo t : Nat} (waits : tget s.bnd.waiting k = some (a, tmo, t)) (due : a + tmo ≤ s.sdl.fab) :
    takeTimeout s k =
      cinc (respond { s with bnd := { s.bnd with waiting := tdel s.bnd.waiting k } } { data := [0] }) (Fld.BND_PEMPTY_COUNT k) := by
  simp only [takeTimeout, waits, Nat.not_lt.2 due, if_false, respond]

/-! ### DONE (R46, R344) -/

/-- At `o` stands BND_DONE of pair `k`. -/
def doneRegB (o k : Nat) : Bool := (regAt o).any fun l => decide (l.desc.name = .bnd .BND_DONE ∧ l.page.j = k ∧ l.desc.mbx = false ∧ l.addr = o ∧
  l.desc.fields = [⟨0, 0, .wsc, false, 0, 0, 1, .none⟩])

theorem doneRegB_done : ∀ k : Fin 48, doneRegB (0x880044 + 0x1000 * k.val) k.val = true := by decide +kernel

theorem exec_bndDone {s : State} {mid : Mid} {k : Fin 48} (up : s.cru.inReset = false) (may : mayWrite s mid.toNat (0x880044 + 0x1000 * k.val) = true) :
    exec (.bndDone mid k) s = .next (respond (doneWrite (wscNote s (0x880044 + 0x1000 * k.val) 1) k.val) {}) := by
  obtain ⟨l, hl, row⟩ := (Option.any_eq_true ..).1 (doneRegB_done k)
  obtain ⟨name, page, mbx, addr, fields⟩ := of_decide_eq_true row
  obtain ⟨listed, total⟩ := wsc_fields l mid.toNat 1 1 (by rw [fields]; decide) (by rw [fields]; rfl) (by rw [fields]; exact List.cons_ne_nil _ _)
  refine (act_up up fun s => meshWrite s mid.toNat (0x880044 + 0x1000 * k.val) 1).trans (congrArg _ ?_)
  rw [meshWrite_command s _ _ 1 l hl may (by omega) (by omega) mbx (by simp [name]) (by rw [fields]; decide), Nat.mod_eq_of_lt (by decide)]
  simp only [commandWrite, listed, total, name, page, addr, Bool.false_eq_true, if_false, Nat.one_ne_zero, if_true, Nat.one_mod]

theorem doneWrite_noted (s : State) (o k v : Nat) : doneWrite (wscNote s o v) k = match takenOf s k with
    | some _ => { wscNote s o v with bnd := { s.bnd with taken := tdel s.bnd.taken k } }
    | none => wign (wscNote s o v) (0x880000 + 0x1000 * k) := by
  have same : takenOf (wscNote s o v) k = takenOf s k := rfl
  rw [doneWrite, same, Nat.mul_comm k]
  cases takenOf s k <;> rfl

/-- Settles O45: filling a slot by its room and by the TAKE that waits, TAKE by the oldest entry that is not stale, its timeout, and DONE by the event
taken. That a second TAKE replaces one that waits is deduced (log 18). -/
theorem eventDispatch : Obligations.EventDispatch := by
  intro s mid k up
  have fill {t : State} (h : slotFill s k.val = t) : exec (.slotFill k) s = .next t := (act_up up fun s => slotFill s k.val).trans (congrArg _ h)
  refine ⟨fun on h => fill (slotFill_noRoom on k.isLt h), fun u v w q e mig on room serving hu next hv hw => ?_,
    fun q may hq => ⟨fun e es late v on oldest hl hv => ?_, fun h => exec_bndTake_waits up may (takeRead_waits k.isLt hq h)⟩,
    fun a tmo t waits due => (act_up up fun s => takeTimeout s k.val).trans (congrArg _ (takeTimeout_due waits due)), fun may b hb => ?_⟩
  · subst hu
    have served : w = slotServe (purgeAll s) k.val q e mig := by
      rw [slotServe_moved, hw, hv]
      rfl
    have waiting : w.bnd.waiting = s.bnd.waiting := by rw [served, slotServe_waiting, (queuesPurged_purgeAll s).waiting]
    have clock : w.sdl = s.sdl := by rw [served, slotServe_sdl, (queuesPurged_purgeAll s).sdl]
    have filled : slotFill s k.val = answerTake w k.val := served ▸ slotFill_next on k.isLt room serving next
    rw [← waiting, ← clock]
    exact ⟨fun none_ => fill (filled.trans (answerTake_unawaited none_)), fun a tmo t waits =>
      ⟨fun late => fill (filled.trans (answerTake_timedOut waits late)), fun inTime => fill (filled.trans (answerTake_inTime waits inTime))⟩⟩
  · subst hq hv
    exact exec_bndTake_answers up may (takeRead_oldest k.isLt on oldest hl)
  · subst hb
    exact (exec_bndDone up may).trans (congrArg (fun u => Host.Outcome.next (respond u {})) (doneWrite_noted ..))

end Sys2Proof.Machine
end

section
/-! Proofs of the family 12_pavilions.md, the life of a pavilion: its command registers, its reset, its share and its watchdog. -/

namespace Sys2Proof.Machine

/-! ### The command registers of a pavilion page (R46, R409, R410, R425) -/

/-- The row of a register at `o` in a pavilion page whose one field is bit 0, a command. -/
def pavCommandRow (o : Nat) (priv : Priv) (r : PavReg) : RegDesc := ⟨o, 1, 4, priv, false, .pav r, [⟨0, 0, .wsc, false, 0, 0, 1, .none⟩]⟩

/-- The place of such a register in the page of pavilion `p`. -/
def pavCommandLoc (p o : Nat) (priv : Priv) (r : PavReg) : RegLoc :=
  ⟨⟨0x4000000 + 0x1000 * p, ⟨.pav, 0, 1023, true, regsPav0⟩, 0, p⟩, pavCommandRow o priv r, 0, 0⟩

theorem regAt_pavCommand {p o : Nat} {priv : Priv} {r : PavReg} (listed : findRow regsPav0 o = some (pavCommandRow o priv r, 0, 0))
    (small : p < 1024) (inPage : o < 0x1000) : regAt (0x4000000 + 0x1000 * p + o) = some (pavCommandLoc p o priv r) := by
  have offset : (0x4000000 + 0x1000 * p + o) % 0x1000 = o := by omega
  simp only [regAt, pavPage p o small inPage, regIn, offset, listed, pavCommandLoc]

/-- A write of 1 to a command register of a pavilion page notes the bit and starts what it commands. -/
theorem meshWrite_pavCommand {s : State} {mid a o : Nat} {p : Fin 1024} {priv : Priv} {r : PavReg}
    (listed : findRow regsPav0 o = some (pavCommandRow o priv r, 0, 0)) (place : a = 0x4000000 + 0x1000 * p.val + o) (inPage : o < 0x1000)
    (aligned : o % 4 = 0) (may : mayWrite s mid a = true) : meshWrite s mid a 1 = respond (pavWsc r p.val 1 (wscNote s a 1)) {} := by
  subst place
  have here := regAt_pavCommand listed p.isLt inPage
  obtain ⟨command, total⟩ := wsc_fields (pavCommandLoc p.val o priv r) mid 1 1 (by simp [pavCommandLoc, pavCommandRow]) rfl (List.cons_ne_nil _ _)
  rw [meshWrite_command s mid _ 1 _ here may (by omega) (by omega) rfl nofun (by simp [pavCommandLoc, pavCommandRow]), Nat.mod_eq_of_lt (by decide)]
  simp only [commandWrite, command, total, Bool.false_eq_true, if_false, Nat.one_ne_zero]
  rfl

section
variable {s : State} {mid : Mid} {p : Fin 1024} (up : s.cru.inReset = false)
include up

theorem exec_pavReset (may : mayWrite s mid.toNat (0x4000048 + 0x1000 * p.val) = true) :
    exec (.pavReset mid p) s = .next (respond (pavReset (wscNote s (0x4000048 + 0x1000 * p.val) 1) p.val) {}) :=
  (act_up up fun s => meshWrite s mid.toNat (0x4000048 + 0x1000 * p.val) 1).trans (congrArg _
    (meshWrite_pavCommand (o := 0x48) (r := .PAV_CMD) rfl (by omega) (by decide) (by decide) may))

theorem exec_pavKick (may : mayWrite s mid.toNat (0x4000058 + 0x1000 * p.val) = true) : exec (.pavKick mid p) s =
    .next (respond (wdtTouch (wscNote s (0x4000058 + 0x1000 * p.val) 1) p.val (wdtDue s p.val)) {}) :=
  (act_up up fun s => meshWrite s mid.toNat (0x4000058 + 0x1000 * p.val) 1).trans (congrArg _
    (meshWrite_pavCommand (o := 0x58) (r := .PAV_KICK) rfl (by omega) (by decide) (by decide) may))

end

/-! ### A pavilion replaced -/

@[simp] theorem pavOf_setPav (s : State) (p : Nat) (v : Pav) : pavOf (setPav s p v) p = v := tat_tset_same ..

@[simp] theorem setPav_setPav (s : State) (p : Nat) (v w : Pav) : setPav (setPav s p v) p w = setPav s p w := by
  simp only [setPav, tset_tset]

@[simp] theorem anyError_setPav (s : State) (p q : Nat) (v : Pav) : anyError (setPav s p v) q = anyError s q := rfl

/-- A field other than the counter reads, after a count for a replaced pavilion, as it read before. -/
theorem fget_pavCounted (s : State) (p : Nat) (v : Pav) {c f : FieldRef} (other : fkey f ≠ fkey c) : fget (cinc (setPav s p v) c) f = fget s f :=
  fget_cinc_ne _ _ _ other

/-! ### A reset of a pavilion (R410, R413) -/

/-- A reset ends the request of migration, raises GEN, is counted and notifies the pairs that run the pavilion and its home pair. -/
theorem pavReset_eq {s v u : State} {p : Nat} (hv : v = if (pavOf s p).mig.isSome then migEnd s p 0xFE else s)
    (hu : u = cinc (setPav v p { pavOf v p with
      gen := (genOf v p + 1) % 256, phase := .reset, resetTick := tickInProgress v, resetAt := v.sdl.fab, resetDue := false }) (Fld.PAV_RESETS_COUNT p)) :
    pavReset s p = (if (pairsRunning u p).contains (homeOf u p) then pairsRunning u p else pairsRunning u p ++ [homeOf u p]).foldl
      (notifyPair (fget v (Fld.PAV_CTRL_EIID p))) u := by
  have sameId : fget u (Fld.PAV_CTRL_EIID p) = fget v (Fld.PAV_CTRL_EIID p) :=
    hu ▸ fget_pavCounted _ _ _ (by simp only [fkey, Fld.PAV_RESETS_COUNT, Fld.PAV_CTRL_EIID]; omega)
  rw [← sameId, hu, hv]
  rfl

theorem pavResetDone_inReset {s : State} {p : Nat} (inReset : (pavOf s p).phase = .reset) :
    pavResetDone s p = setPav s p { pavOf s p with phase := .wait } := if_pos inReset

/-! ### The share (R403, R404) -/

/-- A share that is reached for the first time in a tick is counted and notified to the pairs that run the pavilion. -/
theorem shareExhausted_first {s u : State} {p : Nat} (limited : (pavOf s p).share ≠ 0) (first : (pavOf s p).exhausted = false)
    (hu : u = cinc (setPav s p { pavOf s p with exhausted := true }) (Fld.PAV_SHAREX_COUNT p)) :
    shareExhausted s p = (pairsRunning u p).foldl (notifyPair (fget s (Fld.PAV_CTRL_EIID p))) u := by
  have sameId : fget u (Fld.PAV_CTRL_EIID p) = fget s (Fld.PAV_CTRL_EIID p) :=
    hu ▸ fget_pavCounted _ _ _ (by simp only [fkey, Fld.PAV_SHAREX_COUNT, Fld.PAV_CTRL_EIID]; omega)
  simp only [shareExhausted, limited, first, decide_false, Bool.or_self, Bool.false_eq_true, if_false, ← hu, sameId]

/-! ### The watchdog (R407, R408, R409) -/

theorem wdtDue_iff (s : State) (p : Nat) : wdtDue s p = true ↔ fbit s (Fld.PAV_WDT_EN p) = true ∧ pavState s p = 1 ∧ (pavOf s p).wdtDone = false ∧
    fget s (Fld.PAV_WDT_TICKS p) ≤ (pavOf s p).wdt := by
  simp [wdtDue, and_assoc]

/-- The pavilion `v` after a watchdog error: its first error of those counted stays noted. -/
def wdtNoted (v : Pav) (earlier : Bool) : Pav := if earlier then v else { v with errValid := true, errKind := 3, errMid := 0, errPage := 0 }

/-- A watchdog error is noted and counted, and ERRACT may ask for a reset. -/
theorem pavError_wdt {s x : State} {p : Nat} {v : Pav} (hx : x = cinc (setPav s p (wdtNoted v (anyError s p))) (Fld.PAV_EWDT_COUNT p)) :
    pavError (setPav s p v) p 3 0 0 = if bit (fget s (Fld.PAV_CTRL_ERRACT p)) 3 then askReset x p else x := by
  have noted : (if anyError s p then setPav s p v else setPav s p { v with errValid := true, errKind := 3, errMid := 0, errPage := 0 }) =
      setPav s p (wdtNoted v (anyError s p)) := (apply_ite (setPav s p) ..).symm
  have sameAct : fget x (Fld.PAV_CTRL_ERRACT p) = fget s (Fld.PAV_CTRL_ERRACT p) :=
    hx ▸ fget_pavCounted _ _ _ (by simp only [fkey, Fld.PAV_EWDT_COUNT, Fld.PAV_CTRL_ERRACT]; omega)
  simp only [pavError, anyError_setPav, pavOf_setPav, setPav_setPav, errCounter, Nat.reduceEqDiff, if_false, Nat.zero_div, Nat.zero_mod, noted, ← hx, sameAct]

theorem wdtExpire_due {s : State} {p : Nat} (due : wdtDue s p = true) :
    wdtExpire s p = pavError (setPav s p { pavOf s p with wdtDone := true }) p 3 0 0 := if_pos due

/-- Settles O47: RESET and its completion, the share, the watchdog, and a kick by whether the watchdog is due. Which pairs run a pavilion, that an
expired watchdog waits for a restart and that a reset ends a waiting request with 0xFE are deduced (logs 23, 24 and 26). -/
theorem pavilionLife : Obligations.PavilionLife := by
  intro s mid p up
  refine ⟨fun b v u ks may hb hv hu hks => ?_,
    fun inReset => (act_up up fun s => pavResetDone s p.val).trans (congrArg _ (pavResetDone_inReset inReset)),
    fun u limited first hu => (act_up up fun s => shareExhausted s p.val).trans (congrArg _ (shareExhausted_first limited first hu)),
    fun u x on runs waits late hu hx => ?_, fun may b hb => ⟨fun early => ?_, fun due => ?_⟩⟩
  · subst hb hks
    rw [exec_pavReset up may, pavReset_eq hv hu]
  · have noted : u = wdtNoted { pavOf s p.val with wdtDone := true } (anyError s p.val) := hu
    have expired := (wdtExpire_due ((wdtDue_iff ..).2 ⟨on, runs, waits, late⟩)).trans (pavError_wdt (noted ▸ hx))
    exact (act_up up fun s => wdtExpire s p.val).trans (congrArg _ expired)
  · subst hb
    rw [exec_pavKick up may, early]
    rfl
  · subst hb
    rw [exec_pavKick up may, due]
    rfl

end Sys2Proof.Machine
end

section
/-! Proofs about the machine as a whole: the state after reset, and fuses that no step takes back. -/

namespace Sys2Proof.Machine

/-- The pages that start enabled are those of SYS, CRU, HRB, MEM, GRT and DBG (R39). -/
theorem enReset_eq_one (page : Nat) : enReset page = 1 ↔ page / 0x100000 ∈ [0, 1, 0xD, 0xF, 0x10, 0x11] := by
  simp only [enReset, List.mem_cons, List.not_mem_nil, or_false]
  split <;> omega

/-- After reset a page is enabled where its EN resets to 1. -/
theorem enabled_reset (page : Nat) : enabled State.reset page = true ↔ enReset page = 1 := beq_iff_eq

/-- Settles O1: what the state after reset stores is empty, so every field, mailbox and slot reads its default. -/
theorem resetState : Obligations.ResetState :=
  ⟨fun _ => rfl, fun _ => ⟨rfl, rfl, rfl, rfl, rfl⟩, fun _ => rfl, rfl, rfl, rfl, rfl, rfl, rfl,
    fun page => (enabled_reset page).trans (enReset_eq_one page)⟩

/-- Settles O6: a command at the front only programs fuses further, and so does the nanosecond that passes on an empty queue. -/
theorem fusesOnlyGrow : Obligations.FusesOnlyGrow := by
  intro s t h
  cases hp : s.pending with
  | nil => exact (keeps_step_nil s t hp h).fuses
  | cons i rest => exact (keeps_step_cons i rest s t hp h).fuses

end Sys2Proof.Machine
end

section
/-! Proofs of the family 13_footbridge_pair.md: the contact of a pair and its requests. -/

namespace Sys2Proof.Machine

/-! ### Contact and its loss (R429, R430, R452, R457) -/

/-- What a loss does to STATE, as a choice between propositions (R452, R457). -/
theorem lossState_eq (u : State) : lossState u =
    if (u.ftb.st = 3 ∨ u.ftb.st = 4) ∧ u.ftb.holder ∧ u.ftb.fbLost ∧ u.ftb.hbLost ∧ u.ftb.ghbLost then ftbEnter u 1
    else if u.ftb.st = 3 ∧ u.ftb.fbLost then ftbEnter u 4 else u := by
  simp only [lossState, allLost, Bool.and_eq_true, Bool.or_eq_true, beq_iff_eq, and_assoc]

section
variable {s : State} (pair : pairOp s = true)
include pair

theorem hbToggle_due (due : s.ftb.hbOutAt + 10000 ≤ s.sdl.raw) :
    hbToggle s = { s with ftb := { s.ftb with hbOut := !s.ftb.hbOut, hbOutAt := s.sdl.raw } } := by
  simp only [hbToggle, pair, due, decide_true, Bool.and_self, if_true, setFtb]

theorem hbEdge_pair : hbEdge s = { s with ftb := { s.ftb with hbAt := s.sdl.fab, hbLost := false, heard := true } } := by
  simp only [hbEdge, pair, if_true, setFtb]

theorem hbLoss_due (seen : s.ftb.hbLost = false) (due : s.ftb.hbAt + fget s Fld.FTB_LOSS_HB_US * 1000 ≤ s.sdl.fab) :
    hbLoss s = lossState { s with ftb := { s.ftb with hbLost := true } } := by
  simp only [hbLoss, pair, seen, due, decide_true, Bool.not_false, Bool.and_self, if_true, setFtb]

theorem fbLoss_due (seen : s.ftb.fbLost = false) (due0 : s.ftb.link0.getD s.ftb.upAt + fget s Fld.FTB_LOSS_FB_US * 1000 ≤ s.sdl.fab)
    (due1 : s.ftb.link1.getD s.ftb.upAt + fget s Fld.FTB_LOSS_FB_US * 1000 ≤ s.sdl.fab) :
    fbLoss s = lossState { s with ftb := { s.ftb with fbLost := true } } := by
  simp only [fbLoss, linkAt, pair, seen, due0, due1, decide_true, Bool.not_false, Bool.and_self, if_true, setFtb]

theorem ghbLoss_due (seen : s.ftb.ghbLost = false)
    (due : s.ftb.ghbAt + fget s Fld.FTB_GHB_N * fget s Fld.FTB_GHB_PER_US * 1000 ≤ s.sdl.fab) :
    ghbLoss s = lossState { s with ftb := { s.ftb with ghbLost := true } } := by
  simp only [ghbLoss, pair, seen, due, decide_true, Bool.not_false, Bool.and_self, if_true, setFtb]

/-! ### The heartbeat GOOSE (R430) -/

/-- HOLDER or EPOCH differs from what the last heartbeat GOOSE showed (R430). -/
def ghbChanged (s : State) : Bool := match s.ftb.ghbLast with | some p => p != (s.ftb.holder, s.ftb.epoch) | none => false

/-- The numbers of the heartbeat GOOSE that goes out (R430). -/
def ghbNumbered (s : State) : State := { s with ftb := { s.ftb with
  ghbOutAt := s.sdl.raw, ghbLast := some (s.ftb.holder, s.ftb.epoch), ghbSt := if ghbChanged s then goNext s.ftb.ghbSt else s.ftb.ghbSt
  ghbSq := goNext s.ftb.ghbSq, ghbT := if ghbChanged s || s.ftb.ghbLast.isNone then timeNow s else s.ftb.ghbT } }

theorem ghbTick_due (due : s.ftb.ghbOutAt + fget s Fld.FTB_GHB_PER_US * 1000 ≤ s.sdl.raw) : ghbTick s =
    onOpt (physRead (ghbNumbered s) ftbMid (slotAddr (ghbNumbered s) (fget (ghbNumbered s) Fld.FTB_CFG_GHBSLOT)) 0x280) (fun v => v) fun v x =>
      if hdrOk x = false then v
      else trlHand v (gooseFrame x (gooseOctets x (utcTime v v.ftb.ghbT) ((2 * fget v Fld.FTB_GHB_PER_US + 999) / 1000) v.ftb.ghbSt s.ftb.ghbSq 4
        (ghbData v)) false) (openPorts v (widenPairs v (hdrMask x))) := by
  simp only [ghbTick, pair, due, decide_true, Bool.and_self, if_true, ghbSend, setFtb, Bool.not_eq_true']
  rfl

end

/-! ### Diagnoses (R442, R443) -/

/-- The digest `d` is marked missing (R442). -/
def digMissed (s : State) (d : Digest) : State :=
  { s with ftb := { s.ftb with digs := s.ftb.digs.map fun x => if x.tick = d.tick then { d with missed := true } else x } }

section
variable {s : State} {d : Digest}
  (next : (s.ftb.digs.find? fun d => d.peer.isNone && !d.missed && decide (d.at_ + fget s Fld.FTB_GUARD_DIGWAIT * 1000 ≤ s.sdl.fab)) = some d)
include next

/-- Out of step, a missing digest is only marked. -/
theorem digestMissing_apart (apart : s.ftb.st ≠ 3 ∨ s.ftb.fbLost = true) : digestMissing s = digMissed s d := by
  have idle : comparing (digMissed s d) = false := by
    have : (s.ftb.st == 3 && !s.ftb.fbLost) = false := by
      rcases apart with h | h <;> simp [h]
    simp only [comparing, Bool.and_assoc]
    exact Bool.and_eq_false_iff.2 (.inr this)
  simp only [digestMissing, next]
  exact if_pos (congrArg (!·) idle)

/-- In step, a missing digest is counted and starts a diagnosis. -/
theorem digestMissing_inStep (pair : pairOp s = true) (step : s.ftb.st = 3) (linked : s.ftb.fbLost = false) : digestMissing s =
    { cinc (digMissed s d) Fld.FTB_DIGMISS_COUNT with ftb := { (digMissed s d).ftb with
      mis := some { d with missed := true }, diag := (digMissed s d).ftb.diag ++ [(d.tick, false, true)], steps := 0, spoilt := true } } := by
  have live : comparing (digMissed s d) = true := by
    have : (s.ftb.st == 3 && !s.ftb.fbLost) = true := by simp [step, linked]
    simp only [comparing, Bool.and_assoc]
    exact Bool.and_eq_true_iff.2 ⟨pair, this⟩
  simp only [digestMissing, next]
  exact if_neg fun h => Bool.false_ne_true ((congrArg (!·) live).symm.trans h)

end

/-- The diagnosis whose edge has come (R443). -/
def diagDue (s : State) : Option (Nat × Bool × Bool) :=
  s.ftb.diag.find? fun e => (match s.sdl.fabLast with | some l => decide (e.1 + 2 ≤ l) | none => false)

/-- The end of the diagnosis of tick `n`, from the state without it (R443). -/
def diagDecide (u : State) (n : Nat) (mm ms : Bool) : State :=
  let own := faultAsserted u
  let outcome := if own then (if bit u.ftb.phealth 0 then 4 else 2) else if bit u.ftb.phealth 0 then 3 else 1
  let r := diagRecord u n outcome mm ms own
  if outcome = 1 then (if r.ftb.holder then r else ftbEnter r 5) else if outcome = 2 then ftbFreeze (ftbEnter r 6)
  else if outcome = 3 then r else ftbEnter r 6

/-- A diagnosis whose edge has come decides STATE by which modules are at fault (R443). -/
theorem diagEnd_due {s : State} {n : Nat} {mm ms : Bool} (due : diagDue s = some (n, mm, ms)) :
    diagEnd s = diagDecide { s with ftb := { s.ftb with diag := s.ftb.diag.filter fun e => e.1 != n } } n mm ms := by
  unfold diagEnd
  split
  next h => cases due.symm.trans h
  next _ _ _ h =>
    cases due.symm.trans h
    change _ = diagDecide (setFtb s _) n mm ms
    generalize setFtb s { s.ftb with diag := s.ftb.diag.filter fun e => e.1 != n } = u
    cases own : faultAsserted u <;> cases partner : bit u.ftb.phealth 0 <;> simp only [diagDecide, own, partner] <;> rfl

/-! ### Freeze and listening (R448, R456) -/

theorem freezeTimeout_due {s : State} {n k : Nat} (pair : pairOp s = true) (frozen : s.ftb.frozen = some n) (now : tickInProgress s = some k)
    (late : n + 2 ≤ k) : freezeTimeout s = ftbEnter { s with ftb := { s.ftb with frozen := none } } 6 := by
  simp only [freezeTimeout, frozen, now, pair, late, decide_true, Bool.and_self, if_true, setFtb]

/-- The second of listening ends: alone where nothing was heard, or no holder by the PRIMARY module, else DIVERGED (R456). -/
theorem listenEnd_due {s u : State} {t : Nat} (pair : pairOp s = true) (listens : s.ftb.listen = some t) (ended : t ≤ s.sdl.raw)
    (hu : u = { s with ftb := { s.ftb with listen := none } }) : listenEnd s =
      if s.ftb.heard = false ∨ s.ftb.pholder = false ∧ fbit s Fld.FTB_CFG_PRIMARY then ftbEnter (ftbXfer u true 5 (s.ftb.epoch + 1)) 1
      else ftbEnter u 5 := by
  subst hu
  have ends : (decide (s.sdl.raw < t) || !pairOp s) = false := by simp [pair, ended]
  have primary : fbit { s with ftb := { s.ftb with listen := none } } Fld.FTB_CFG_PRIMARY = fbit s Fld.FTB_CFG_PRIMARY := rfl
  simp only [listenEnd, listens, ends, Bool.false_eq_true, if_false, setFtb, primary]
  cases s.ftb.heard <;> cases s.ftb.pholder <;> cases fbit s Fld.FTB_CFG_PRIMARY <;> rfl

/-- Settles O50: each heartbeat and loss, the heartbeat GOOSE, a diagnosis at its start and its end, a freeze and the end of listening. The time
allowed to live of the heartbeat GOOSE is log 45, its first numbers and a listening module's state are logs 42 and 46. -/
theorem pairContact : Obligations.PairContact := by
  intro s loss up pair hloss
  have lost (u : State) : loss u = lossState u := by rw [hloss, lossState_eq]
  have toggle : exec .pairHbToggle s = act s hbToggle := rfl
  have edge : exec .pairHbInEdge s = act s hbEdge := rfl
  have hb : exec .heartbeatLoss s = act s hbLoss := rfl
  have fb : exec .footbridgeLoss s = act s fbLoss := rfl
  have ghb : exec .heartbeatGooseLoss s = act s ghbLoss := rfl
  have send : exec .heartbeatGooseSend s = act s ghbTick := rfl
  have missing : exec .digestMissing s = act s digestMissing := rfl
  have diag : exec .diagnosisEnd s = act s diagEnd := rfl
  have freeze : exec .freezeTimeout s = act s freezeTimeout := rfl
  have listen : exec .pairListenEnd s = act s listenEnd := rfl
  simp only [toggle, edge, hb, fb, ghb, send, missing, diag, freeze, listen, act_up up, lost]
  refine ⟨fun due => ?_, ?_, fun seen due => ?_, fun seen due0 due1 => ?_, fun seen due => ?_, fun changed u v h due hc hu hv => ?_,
    fun d u next hu => ?_, fun n mm ms u own outcome r due hu hown hout hr => ?_, fun n k frozen now late => ?_, fun t u listens ended hu => ?_⟩
  · rw [hbToggle_due pair due]
  · rw [hbEdge_pair pair]
  · rw [hbLoss_due pair seen due]
  · rw [fbLoss_due pair seen due0 due1]
  · rw [ghbLoss_due pair seen due]
  · obtain rfl : changed = ghbChanged s := hc
    obtain rfl : u = ghbNumbered s := hu
    rw [ghbTick_due pair due, hv]
    refine ⟨fun none_ => ?_, fun x some_ => ?_⟩
    · rw [none_, onOpt_none]
    · rw [some_, onOpt_some]
  · obtain rfl : u = digMissed s d := hu
    refine ⟨fun apart => ?_, fun step linked => ?_⟩
    · rw [digestMissing_apart next apart]
    · rw [digestMissing_inStep next pair step linked]
  · subst hu hown hout hr
    rw [diagEnd_due due]
    rfl
  · rw [freezeTimeout_due pair frozen now late]
  · rw [listenEnd_due pair listens ended hu]

/-! ### Requests for the token (R449, R450) -/

theorem pairOp_congr {s t : State} (field : ∀ f, fget t f = fget s f) : pairOp t = pairOp s := by
  simp only [pairOp, enabled, fbit, field]

theorem tickInProgress_congr {s t : State} (sdl : t.sdl = s.sdl) : tickInProgress t = tickInProgress s := by
  rw [tickInProgress, tickInProgress, sdl]

/-- A request of FTB_TOKEN stands in its mailbox: an offer or a claim of the token at tick `k` (R464). -/
structure TokenAsked (q : State) (offer : Bool) (k : Nat) : Prop where
  write : (mbxAt q ftbTokenMbx).wr = true
  number : (mbxAt q ftbTokenMbx).op = if offer then 1 else 2
  tick : (mbxAt q ftbTokenMbx).w2 4 = k

section
variable {q : State} {offer : Bool} {k : Nat} (asked : TokenAsked q offer k)
include asked

theorem ftbTokenReq_eq : ftbTokenReq q =
    if !pairOp q || q.ftb.st ≠ 3 || q.ftb.holder != offer then mbxEnd q ftbTokenMbx 0x07
    else if q.ftb.fbLost then mbxEnd q ftbTokenMbx 0x0E
    else (tickInProgress q).elim (mbxEnd q ftbTokenMbx 0x03) fun n =>
      if k < n + 2 then mbxEnd q ftbTokenMbx 0x03
      else if n + 65536 < k then mbxEnd q ftbTokenMbx 0x04
      else reqMake q { offer := offer, own := true, k := k, mbx := true } := by
  obtain ⟨write, number, tick⟩ := asked
  cases offer <;> cases h : tickInProgress q <;> simp only [ftbTokenReq, write, number, tick, h] <;> rfl

theorem ftbTokenReq_state (state : pairOp q = false ∨ q.ftb.st ≠ 3 ∨ q.ftb.holder ≠ offer) : ftbTokenReq q = mbxEnd q ftbTokenMbx 0x07 := by
  rw [ftbTokenReq_eq asked, if_pos]
  simpa [or_assoc] using state

variable (pair : pairOp q = true) (step : q.ftb.st = 3) (holder : q.ftb.holder = offer)
include pair step holder

theorem ftbTokenReq_inStep : ftbTokenReq q = if q.ftb.fbLost then mbxEnd q ftbTokenMbx 0x0E
    else (tickInProgress q).elim (mbxEnd q ftbTokenMbx 0x03) fun n =>
      if k < n + 2 then mbxEnd q ftbTokenMbx 0x03
      else if n + 65536 < k then mbxEnd q ftbTokenMbx 0x04
      else reqMake q { offer := offer, own := true, k := k, mbx := true } := by
  rw [ftbTokenReq_eq asked, if_neg]
  simp [pair, step, holder]

variable (linked : q.ftb.fbLost = false)
include linked

theorem ftbTokenReq_stopped (stopped : tickInProgress q = none) : ftbTokenReq q = mbxEnd q ftbTokenMbx 0x03 := by
  rw [ftbTokenReq_inStep asked pair step holder, linked, stopped]
  rfl

variable {n : Nat} (now : tickInProgress q = some n)
include now

theorem ftbTokenReq_late (late : k < n + 2) : ftbTokenReq q = mbxEnd q ftbTokenMbx 0x03 := by
  rw [ftbTokenReq_inStep asked pair step holder, linked, now]
  exact if_pos late

theorem ftbTokenReq_far (far : n + 65536 < k) : ftbTokenReq q = mbxEnd q ftbTokenMbx 0x04 := by
  have soon : ¬ k < n + 2 := by omega
  rw [ftbTokenReq_inStep asked pair step holder, linked, now]
  exact (if_neg soon).trans (if_pos far)

theorem ftbTokenReq_made (soon : n + 2 ≤ k) (near : k ≤ n + 65536) :
    ftbTokenReq q = reqMake q { offer := offer, own := true, k := k, mbx := true } := by
  rw [ftbTokenReq_inStep asked pair step holder, linked, now]
  exact (if_neg (Nat.not_lt.2 soon)).trans (if_neg (Nat.not_lt.2 near))

end

section
variable {q : State} (r : TokenReq)

/-- With the turn and no request in progress, a request is sent at once. -/
theorem reqMake_sent (turn : q.ftb.turn = true) (none_ : q.ftb.req = none) : reqMake q r =
    ftbControl { q with ftb := { q.ftb with want := none, asked := false, req := some r } } (if r.offer then 1 else 2) false r.k := by
  simp only [reqMake, reqSend, setFtb, turn, none_, Option.isNone_none, Bool.and_self, if_true]

/-- With the turn, a request waits for the one in progress. -/
theorem reqMake_queued (turn : q.ftb.turn = true) (other : q.ftb.req ≠ none) : reqMake q r = { q with ftb := { q.ftb with want := some r } } := by
  obtain ⟨x, hx⟩ := Option.ne_none_iff_exists'.1 other
  simp only [reqMake, reqSend, setFtb, turn, hx, Option.isNone_some, Bool.and_false, Bool.false_eq_true, if_false, Bool.true_or, if_true]

/-- Without the turn, a request asks for it. -/
theorem reqMake_asks (turn : q.ftb.turn = false) (first : q.ftb.asked = false) : reqMake q r =
    ftbControl { q with ftb := { q.ftb with want := some r, asked := true } } 6 false 0 := by
  simp only [reqMake, reqSend, setFtb, turn, first, Bool.false_and, Bool.or_self, Bool.false_eq_true, if_false]

/-- Once the turn is asked for, a request waits for it. -/
theorem reqMake_waits (turn : q.ftb.turn = false) (again : q.ftb.asked = true) : reqMake q r = { q with ftb := { q.ftb with want := some r } } := by
  simp only [reqMake, reqSend, setFtb, turn, again, Bool.false_and, Bool.or_true, Bool.false_eq_true, if_false, if_true]

end

/-- In step the PRIMARY module claims the token back, at a tick from two to 65,536 ahead (R455; log 2). -/
theorem ftbRevert_due {s : State} {n : Nat} (pair : pairOp s = true) (primary : fbit s Fld.FTB_CFG_PRIMARY = true)
    (reverts : fbit s Fld.FTB_REVERT_EN = true) (step : s.ftb.st = 3) (holder : s.ftb.holder = false)
    (long : fget s Fld.FTB_REVERT_S ≤ s.ftb.steps) (req : s.ftb.req = none) (want : s.ftb.want = none) (linked : s.ftb.fbLost = false)
    (now : tickInProgress s = some n) : ∃ k, n + 2 ≤ k ∧ k ≤ n + 65536 ∧
      ftbRevert s = reqMake (drew s) { offer := false, own := true, k := k, revert := true } := by
  refine ⟨n + 2 + drawn 32 s % 65535, by omega, by omega, ?_⟩
  simp only [ftbRevert, pair, primary, reverts, step, holder, long, req, want, linked, now, decide_true, Option.isNone_none, Bool.not_false,
    beq_self_eq_true, Bool.and_self, if_true]

/-! ### Joining (R460, R461) -/

/-- A request of FTB_JOIN stands in its mailbox (R464). -/
structure JoinAsked (q : State) : Prop where
  write : (mbxAt q ftbJoinMbx).wr = true
  number : (mbxAt q ftbJoinMbx).op = 1

section
variable {q : State} (asked : JoinAsked q)
include asked

theorem joinReq_state (state : pairOp q = false ∨ q.ftb.st ∉ [1, 4, 5] ∨ q.ftb.listen ≠ none) : joinReq q = mbxEnd q ftbJoinMbx 0x07 := by
  have refused : (!pairOp q || !(q.ftb.st == 1 || q.ftb.st == 4 || q.ftb.st == 5) || q.ftb.listen.isSome) = true := by
    rcases state with h | h | h
    · simp [h]
    · simp only [List.mem_cons, List.not_mem_nil, or_false, not_or] at h
      simp [h]
    · simp [Option.isSome_iff_ne_none.2 h]
  simp only [joinReq, asked.write, asked.number, refused, if_true]
  rfl

variable (pair : pairOp q = true) (state : q.ftb.st ∈ [1, 4, 5]) (listens : q.ftb.listen = none)
include pair state listens

theorem joinReq_admitted : joinReq q =
    if q.ftb.fbLost || !q.ftb.heard then mbxEnd q ftbJoinMbx 0x0E
    else if !(q.ftb.pstate == 3 || q.ftb.pstate == 1) || !q.ftb.pholder then mbxEnd q ftbJoinMbx 0x07
    else if cfgMis q || q.ftb.pcfg.isNone then mbxEnd q ftbJoinMbx 0x08
    else if anySettle q then mbxEnd q ftbJoinMbx 0x0F
    else (tickInProgress q).elim (mbxEnd q ftbJoinMbx 0x07) fun n =>
      let u := if q.ftb.holder then ftbXfer q false 1 q.ftb.epoch else q
      ftbControl (setJoin (ftbEnter u 2) (some { joiner := true, j0 := systemTick u n })) 0 false 0 := by
  have passes : (!pairOp q || !(q.ftb.st == 1 || q.ftb.st == 4 || q.ftb.st == 5) || q.ftb.listen.isSome) = false := by
    simp only [List.mem_cons, List.not_mem_nil, or_false] at state
    simp [pair, listens]
    omega
  cases h : tickInProgress q <;> simp only [joinReq, asked.write, asked.number, passes, h] <;> rfl

theorem joinReq_unheard (lost : q.ftb.fbLost = true ∨ q.ftb.heard = false) : joinReq q = mbxEnd q ftbJoinMbx 0x0E := by
  rw [joinReq_admitted asked pair state listens, if_pos]
  rcases lost with h | h <;> simp [h]

variable (linked : q.ftb.fbLost = false) (heard : q.ftb.heard = true)
include linked heard

theorem joinReq_noDonor (partner : q.ftb.pstate ∉ [1, 3] ∨ q.ftb.pholder = false) : joinReq q = mbxEnd q ftbJoinMbx 0x07 := by
  rw [joinReq_admitted asked pair state listens, if_neg (by simp [linked, heard]), if_pos]
  rcases partner with h | h
  · simp only [List.mem_cons, List.not_mem_nil, or_false, not_or] at h
    simp [h]
  · simp [h]

variable (partner : q.ftb.pstate ∈ [1, 3]) (drives : q.ftb.pholder = true)
include partner drives

theorem joinReq_donor : joinReq q =
    if cfgMis q || q.ftb.pcfg.isNone then mbxEnd q ftbJoinMbx 0x08
    else if anySettle q then mbxEnd q ftbJoinMbx 0x0F
    else (tickInProgress q).elim (mbxEnd q ftbJoinMbx 0x07) fun n =>
      let u := if q.ftb.holder then ftbXfer q false 1 q.ftb.epoch else q
      ftbControl (setJoin (ftbEnter u 2) (some { joiner := true, j0 := systemTick u n })) 0 false 0 := by
  have known : ¬ (!(q.ftb.pstate == 3 || q.ftb.pstate == 1) || !q.ftb.pholder) = true := by
    simp only [List.mem_cons, List.not_mem_nil, or_false] at partner
    simp [drives]
    omega
  rw [joinReq_admitted asked pair state listens, if_neg (by simp [linked, heard]), if_neg known]

theorem joinReq_differs (differs : cfgMis q = true ∨ q.ftb.pcfg = none) : joinReq q = mbxEnd q ftbJoinMbx 0x08 := by
  rw [joinReq_donor asked pair state listens linked heard partner drives, if_pos]
  rcases differs with h | h <;> simp [h]

variable (same : cfgMis q = false) (known : q.ftb.pcfg ≠ none)
include same known

theorem joinReq_settles (settles : anySettle q = true) : joinReq q = mbxEnd q ftbJoinMbx 0x0F := by
  rw [joinReq_donor asked pair state listens linked heard partner drives, if_neg (by simp [same, known]), if_pos settles]

theorem joinReq_begins (settled : anySettle q = false) {n : Nat} (now : tickInProgress q = some n) {u : State}
    (hu : u = if q.ftb.holder then ftbXfer q false 1 q.ftb.epoch else q) :
    joinReq q = ftbControl (setJoin (ftbEnter u 2) (some { joiner := true, j0 := systemTick u n })) 0 false 0 := by
  rw [joinReq_donor asked pair state listens linked heard partner drives, if_neg (by simp [same, known]), if_neg (by simp [settled]), now, hu]
  rfl

end

/-- Join data that are late are tried again, and the pavilions latch their own state (R461; log 66). -/
theorem joinTimeout_running {s : State} {j : JoinRun} {late : List Nat} (running : s.ftb.join = some j)
    (hl : late = (j.waiting.filter fun e => decide (e.2 + 100000 ≤ s.sdl.fab)).map (·.1)) : joinTimeout s =
      late.foldl latchWithheld (cadd { s with ftb := { s.ftb with join := some { j with
        waiting := j.waiting.filter fun e => !late.contains e.1, todo := j.todo ++ late, retries := j.retries + late.length } } }
        Fld.FTB_JRETRY_COUNT late.length) := by
  simp only [joinTimeout, running, hl, setJoin, setFtb]

/-! ### Reads of the digests (R464) -/

/-- The words of a read of FTB_DIG: of the OUT digests, or for LASTMIS_IN of the IN digests (R464). -/
def digWords (op : Nat) (d : Digest) : List Nat :=
  if op = 3 then digestWords d.inp ++ digestWords d.pIn ++ [d.tick % 2 ^ 32, d.tick / 2 ^ 32]
  else digestWords d.out ++ digestWords d.pOut ++ [d.tick % 2 ^ 32, d.tick / 2 ^ 32, flagBits [d.peer.isSome && d.pOut == d.out, d.peer.isSome], d.nent]

/-- The digest that a read of FTB_DIG asks for: of the last tick, or of the last mismatch (R464). -/
def digAsked (s : State) (op : Nat) : Option Digest := if op = 1 then s.ftb.digs.getLast? else s.ftb.mis

theorem ftbDigReq_eq {q : State} {a op : Nat} (read : (mbxAt q a).wr = false) (number : (mbxAt q a).op = op) (listed : op ∈ [1, 2, 3]) :
    ftbDigReq q a = (digAsked q op).elim (mbxEnd q a 0x01) fun d => mbxAnswer q a 0 ((digWords op d).map w32) := by
  simp only [List.mem_cons, List.not_mem_nil, or_false] at listed
  rcases listed with rfl | rfl | rfl <;> simp only [ftbDigReq, read, number]
  · cases h : q.ftb.digs.getLast? <;> simp [digAsked, h, digAnswer, digWords]
  · cases h : q.ftb.mis <;> simp [digAsked, h, digAnswer, digWords]
  · cases h : q.ftb.mis <;> simp [digAsked, h, digWords]

/-- Settles O51: the tests of a request of the token in their order, a claim back, the tests of JOIN in theirs, late data, and the reads. The order of
the tests, a stopped generator as LATE and the tick of a claim back are log 46; the order of JOIN's tests is log 66. -/
theorem pairRequests : Obligations.PairRequests := by
  intro s mid up
  refine ⟨fun d offer c q k free few hc hq hk => ?_, fun n pair primary reverts step holder long req want linked now => ?_, fun q free hq => ?_,
    fun j late running hl => ?_, fun free op c x f hc hf => ?_⟩
  · have ftb : q.ftb = s.ftb := by rw [hq, asks_ftb, written_ftb]
    have field (f : FieldRef) : fget q f = fget s f := by rw [hq, fget_asks, fget_written]
    have tick : tickInProgress q = tickInProgress s := tickInProgress_congr (by rw [hq, asks_sdl, written_sdl])
    have asked : TokenAsked q offer k := ⟨by rw [hq]; exact asks_wr .., by rw [hq]; exact asks_op .., by
      rw [hq, hk, ftbTokenMbx, Mbx.w2, asks_word _ _ _ _ _ _ _ few, asks_word _ _ _ _ _ _ _ few]⟩
    have run : exec c s = .next (respond (ftbTokenReq q) {}) := by
      have e : exec c s = act s fun s => mbxRequest s mid.toNat 0xA000C0 (if offer then 1 else 2) true 0 d := by rw [hc]; cases offer <;> rfl
      rw [e, act_up up, request_ftbToken s mid.toNat _ 0 true d free (by cases offer <;> decide), hq]
    rw [run, ← pairOp_congr field, ← tick, ← ftb]
    refine ⟨fun state => ?_, fun pair step holder => ⟨fun lost => ?_, fun linked => ⟨fun stopped => ?_, fun n now => ⟨fun late => ?_, fun far => ?_,
      fun r soon near hr => ?_⟩⟩⟩⟩
    · rw [ftbTokenReq_state asked state]; rfl
    · rw [ftbTokenReq_inStep asked pair step holder, if_pos lost]; rfl
    · rw [ftbTokenReq_stopped asked pair step holder linked stopped]; rfl
    · rw [ftbTokenReq_late asked pair step holder linked now late]; rfl
    · rw [ftbTokenReq_far asked pair step holder linked now far]; rfl
    · subst hr
      rw [ftbTokenReq_made asked pair step holder linked now soon near]
      refine ⟨fun turn none_ => ?_, fun turn other => ?_, fun turn first => ?_, fun turn again => ?_⟩
      · rw [reqMake_sent _ turn none_]
      · rw [reqMake_queued _ turn other]
      · rw [reqMake_asks _ turn first]
      · rw [reqMake_waits _ turn again]
  · obtain ⟨k, soon, near, made⟩ := ftbRevert_due pair primary reverts step holder long req want linked now
    exact ⟨k, soon, near, (act_up up ftbRevert).trans (congrArg _ made)⟩
  · have ftb : q.ftb = s.ftb := by rw [hq, asks_ftb]
    have pairs : pairOp q = pairOp s := pairOp_congr fun f => by rw [hq, fget_asks]
    have tick : tickInProgress q = tickInProgress s := tickInProgress_congr (by rw [hq, asks_sdl])
    have asked : JoinAsked q := ⟨by rw [hq]; exact asks_wr .., by rw [hq]; exact asks_op ..⟩
    have run : exec (.ftbJoin mid) s = .next (respond (joinReq q) {}) := by
      have e : exec (.ftbJoin mid) s = act s fun s => mbxRequest s mid.toNat 0xA00100 1 true 0 [] := rfl
      rw [e, act_up up, request_ftbJoin s mid.toNat 1 0 true [] free (by decide), written_nil, hq]
    rw [run, ← pairs, ← tick, ← ftb]
    refine ⟨fun state => ?_, fun pair state listens => ⟨fun lost => ?_, fun linked heard partner => ?_, fun linked heard partner drives =>
      ⟨fun differs => ?_, fun same known settles => ?_, fun n u same known settled now hu => ?_⟩⟩⟩
    · rw [joinReq_state asked state]; rfl
    · rw [joinReq_unheard asked pair state listens lost]; rfl
    · rw [joinReq_noDonor asked pair state listens linked heard partner]; rfl
    · rw [joinReq_differs asked pair state listens linked heard partner drives differs]; rfl
    · rw [joinReq_settles asked pair state listens linked heard partner drives same known settles]; rfl
    · rw [joinReq_begins asked pair state listens linked heard partner drives same known settled now hu]
  · exact (act_up up joinTimeout).trans (congrArg _ (joinTimeout_running running hl))
  · obtain ⟨run, listed, hx⟩ : exec c s = (act s fun s => mbxRequest s mid.toNat 0xA00140 op false 0 []) ∧ op ∈ [1, 2, 3] ∧ x = digAsked s op := by
      simp only [List.mem_cons, List.not_mem_nil, or_false, Prod.mk.injEq] at hc
      rcases hc with ⟨rfl, rfl, rfl⟩ | ⟨rfl, rfl, rfl⟩ | ⟨rfl, rfl, rfl⟩ <;> exact ⟨rfl, by decide, rfl⟩
    have small : op < 256 := by
      simp only [List.mem_cons, List.not_mem_nil, or_false] at listed
      omega
    have words : f = digWords op := hf
    rw [run, act_up up, request_ftbDig s mid.toNat op 0 false [] free small, written_nil, ftbDigReq_eq (asks_wr ..) (asks_op ..) listed, words]
    have same : digAsked (asks s mid.toNat 0xA00140 op false 0 []) op = x := hx.symm
    rw [same]
    refine ⟨fun none_ => ?_, fun d some_ => ?_⟩
    · rw [none_]; rfl
    · rw [some_]; rfl

end Sys2Proof.Machine
end

section
/-! Proofs of the family 14_orangery_metering.md: the seal of the meter and what it guards. -/

namespace Sys2Proof.Machine

/-! ### Requests of ORN_REQ (R101, R506) -/

/-- A write request to an Orangery that answers is carried out on the state in which the mailbox holds it. -/
theorem exec_ornReq {s : State} {mid op arg : Nat} {d : List Word} {c : Instr} (e : exec c s = act s fun s => mbxRequest s mid ornReqMbx op true arg d)
    (free : Free s mid 0xB00080) (up : OrnAnswers s) (small : op < 256) : exec c s = .next (respond
      (ornWrite (asks (written s d) mid 0xB00080 op true arg d) (mbxAt (asks (written s d) mid 0xB00080 op true arg d) 0xB00080)) {}) := by
  rw [e, act_up free.1, ornReqMbx, request_ornReq s mid op arg true d free small,
    ornMbx_write up (written_cru s d) (written_orn s d) (fget_written s d)]

section
variable (v : State) {b : Mbx}

theorem ornWrite_open (h : b.op = 6) : ornWrite v b = ornOpen v b := by simp only [ornWrite, h]
theorem ornWrite_close (h : b.op = 7) : ornWrite v b = ornClose v := by simp only [ornWrite, h]
theorem ornWrite_fwload (h : b.op = 8) : ornWrite v b = ornFwload v b := by simp only [ornWrite, h]
theorem ornWrite_fwact (h : b.op = 9) : ornWrite v b = ornFwact v b := by simp only [ornWrite, h]
theorem ornWrite_save (h : b.op = 11) : ornWrite v b = mbxEnd (ornSave v false) ornReqMbx 0 := by simp only [ornWrite, h]
theorem ornWrite_diagclr (h : b.op = 12) : ornWrite v b = mbxEnd (ornDiagclr v b.arg) ornReqMbx 0 := by simp only [ornWrite, h]

/-- The 32 bytes of data words D0 to D7. -/
def bytes32 (w : Nat → Nat) : List Nat := bytesOfWords ((List.range 8).map fun i => w32 (w i))

theorem ornWrite_keyload (h : b.op = 10) {u : State} {code : Nat} (loaded : ornKeyload v b.mid (bytes32 b.w) = (u, code)) :
    ornWrite v b = mbxEnd (setMbx u ornReqMbx { b with d := [] }) ornReqMbx code := by
  rw [bytes32] at loaded
  simp only [ornWrite, h, loaded]

end

/-! ### The seal (R492–R494, R498) -/

/-- The tag that opens the seal under the challenge `n` (R493). -/
def openTag (key : List Nat) (n : Nat) : List Nat := toBe 32 (Config.hmac key (nonceBytes n ++ [0x4F, 0x50, 0x45, 0x4E]))

theorem auditFull_iff (s : State) : logFull s 1 = true ↔ auditFree s < 2 := by rw [logFull, decide_eq_true_eq]

section
variable {s v : State} (orn : v.orn = s.orn) (sdl : v.sdl = s.sdl) {b : Mbx}

/-- The state in which OPEN has taken the challenge (R493). -/
def nonceTaken (s v : State) : State := { v with orn := { s.orn with nonce := none } }

include orn

theorem ornOpen_locked (locked : s.orn.lockAt ≠ none) : ornOpen v b = mbxEnd (nonceTaken s v) ornReqMbx 7 := by
  have some_ : s.orn.lockAt.isSome = true := Option.isSome_iff_ne_none.2 locked
  simp only [ornOpen, setOrn, orn, some_, if_true, nonceTaken]

theorem ornOpen_unlocked (free : s.orn.lockAt = none) : ornOpen v b = s.orn.key.elim (mbxEnd (nonceTaken s v) ornReqMbx 8) fun key =>
    if logFull s 1 then mbxEnd (nonceTaken s v) ornReqMbx 6
    else if (s.orn.nonce.any fun n => bytes32 b.w == openTag key n) then
      let u := auditAdd (nonceTaken s v) (0x06 * 2 ^ 24) 0 (secOf (timeNow v)) 0 0
      mbxEnd { u with orn := { u.orn with openAt := if s.orn.pinLow then some s.orn.clk else none, fails := 0 } } ornReqMbx 0
    else mbxEnd { v with orn := { s.orn with
      nonce := none, authFail := satAdd 16 s.orn.authFail 1, fails := s.orn.fails + 1
      lockAt := if 16 ≤ s.orn.fails + 1 then some s.orn.clk else none } } ornReqMbx 3 := by
  rw [nonceTaken]
  cases hk : s.orn.key with
  | none => simp only [ornOpen, setOrn, orn, free, hk, Option.isSome_none, Bool.false_eq_true, if_false, Option.elim_none]
  | some key =>
    simp only [ornOpen, setOrn, orn, free, hk, Option.isSome_none, Bool.false_eq_true, if_false, Option.elim_some]
    cases s.orn.nonce <;> rfl

theorem ornClose_eq : ornClose v = if sealOpen s = true ∨ 2 ≤ auditFree s
    then mbxEnd (auditAdd { v with orn := { s.orn with openAt := none } } (0x07 * 2 ^ 24) 0 (secOf (timeNow v)) 0 0) ornReqMbx 0
    else mbxEnd v ornReqMbx 6 := by
  have tests : (sealOpen v || !logFull v 1) = true ↔ sealOpen s = true ∨ 2 ≤ auditFree s := by
    rw [Bool.or_eq_true, Bool.not_eq_true', ← Bool.not_eq_true, auditFull_iff, sealOpen_congr orn, auditFree_congr orn, Nat.not_lt]
  simp only [ornClose, tests, sealClosed, setOrn, orn, ornReqMbx]

/-! ### Firmware and key (R495, R498, R500) -/

theorem spareBank_congr : spareBank v = spareBank s := by rw [spareBank, spareBank, orn]

theorem ornBank_congr : ornBank v = ornBank s := by rw [ornBank, ornBank, orn]

theorem ornFwload_closed (closed : sealOpen s = false) : ornFwload v b = mbxEnd v ornReqMbx 2 := by
  simp only [ornFwload, sealOpen_congr orn, closed, Bool.not_false, if_true]

theorem ornFwload_open (opened : sealOpen s = true) : ornFwload v b =
    mbxEnd (setSpare v { spareBank s with chunks := tset (spareBank s).chunks (b.arg % 2 ^ 14) (bytes32 b.w) }) ornReqMbx 0 := by
  simp only [ornFwload, sealOpen_congr orn, opened, Bool.not_true, Bool.false_eq_true, if_false, spareBank_congr orn, bytes32]

theorem ornFwact_closed (closed : sealOpen s = false) : ornFwact v b = mbxEnd v ornReqMbx 2 := by
  simp only [ornFwact, sealOpen_congr orn, closed, Bool.not_false, if_true]

/-- FWACT with the seal open: the digest of the bank, room in the log, then the save, the record and the reset that activates the bank. -/
theorem ornFwact_open (opened : sealOpen s = true) : ornFwact v b =
    if toBe 32 (Config.sha256 (bankBytes (spareBank s) (clampTo 1 524288 (b.w 9)))) ≠ bytes32 b.w then mbxEnd v ornReqMbx 5
    else if logFull s 1 then mbxEnd v ornReqMbx 6
    else
      let u := ornReset (mbxEnd (setSpare (auditAdd (ornSave v true) (0x09 * 2 ^ 24 + 0xFFFF) 0 (secOf (timeNow v)) (ornBank s).sha
        (ofLe ((bytes32 b.w).take 8))) { spareBank s with version := b.w 8, len := clampTo 1 524288 (b.w 9), sha := ofLe (bytes32 b.w) }) ornReqMbx 0) 4
      { u with orn := { u.orn with phase := .activating } } := by
  have log : logFull v 1 = logFull s 1 := by rw [logFull, logFull, auditFree_congr orn]
  simp only [ornFwact, sealOpen_congr orn, opened, Bool.not_true, Bool.false_eq_true, if_false, spareBank_congr orn, ornBank_congr orn, log]
  rfl

end

section
variable {s : State} {mid : Nat} {k : List Nat}

theorem ornKeyload_stranger (stranger : mid ≠ 0x5000) : ornKeyload s mid k = (s, 9) := by
  simp only [ornKeyload, stranger, ne_eq, not_false_eq_true, true_or, if_true]

variable (owner : mid = 0x5000)
include owner

theorem ornKeyload_same (opened : sealOpen s = true) (held : s.orn.key = some k) : ornKeyload s mid k = (s, 0) := by
  simp only [ornKeyload, owner, opened, held, ne_eq, not_true_eq_false, Bool.true_or, Bool.not_true, Bool.false_eq_true, or_self, if_false, if_true]

/-- The eight bytes that a KEYLOAD record shows of a key (R497). -/
def keyMark (k : List Nat) : Nat := ofLe ((toBe 32 (Config.sha256 k)).take 8)

theorem ornKeyload_new (opened : sealOpen s = true ∨ s.orn.key = none ∧ s.orn.pinLow = true) (room : logFull s 1 = false)
    (differs : s.orn.key ≠ some k) : ornKeyload s mid k = (auditAdd { s with orn := { s.orn with key := some k } } (0x0A * 2 ^ 24 + 0xFFFE) 0
      (secOf (timeNow s)) (s.orn.key.elim 0 keyMark) (keyMark k), 0) := by
  have admitted : ¬ (mid ≠ 0x5000 ∨ (!(sealOpen s || (s.orn.key.isNone && s.orn.pinLow))) = true) := by
    rcases opened with h | ⟨h, l⟩
    · simp [owner, h]
    · simp [owner, h, l]
  rw [ornKeyload, if_neg admitted, if_neg differs, if_neg (by simp [room])]
  cases s.orn.key <;> rfl

end

/-! ### The seal's pin and times (R492, R494) -/

theorem sealPinChange_moved {s : State} {low : Bool} (moved : low ≠ s.orn.pinLow) : sealPinChange s low =
    { (if sealOpen s then sealClosed s 0x10 else s) with orn := { (if sealOpen s then sealClosed s 0x10 else s).orn with
      pinLow := low, pinAt := (if sealOpen s then sealClosed s 0x10 else s).orn.clk, openAt := none } } := by
  simp only [sealPinChange, moved, if_false, setOrn]

theorem sealTimeout_due {s : State} {t : Nat} (opened : s.orn.openAt = some t) (pin : sealPin s = true)
    (due : t + (ornParams s).tmo * 60000000000 ≤ s.orn.clk) : sealTimeout s = sealClosed s 0x10 := by
  simp only [sealTimeout, opened, pin, due, decide_true, Bool.and_self, if_true]

theorem lockoutEnd_due {s : State} {t : Nat} (locked : s.orn.lockAt = some t) (due : t + 600000000000 ≤ s.orn.clk) :
    lockoutEnd s = { s with orn := { s.orn with lockAt := none, fails := 0 } } := by
  simp only [lockoutEnd, locked, due, if_true, setOrn]

/-- Settles O53: OPEN by its tests in their order, CLOSE, the firmware by its bank's digest, KEYLOAD, SAVE and DIAGCLR, and the seal's pin and times.
The order of OPEN's tests, the zero fields of the records and the one record of FWACT are log 49. -/
theorem meterSeal : Obligations.MeterSeal := by
  intro s
  refine ⟨fun mid arg d w q full free on group phase few hw hq hfull => ?_, fun mid free on group phase => ⟨?_, ?_, fun arg q i hq hi => ?_⟩,
    fun low moved rail => ⟨_, rfl, ?_⟩, fun t opened pin due => ?_, fun t locked due => ?_, fun ok => ?_⟩
  · have up : OrnAnswers s := ⟨on, group, phase⟩
    have orn (op : Nat) : (q op).orn = s.orn := by rw [hq]; exact (asks_orn ..).trans (written_orn ..)
    have sdl (op : Nat) : (q op).sdl = s.sdl := by rw [hq]; exact (asks_sdl ..).trans (written_sdl ..)
    have now (op : Nat) : timeNow (q op) = timeNow s := by rw [timeNow, timeNow, sdl]
    have number (op : Nat) : (mbxAt (q op) 0xB00080).op = op := by rw [hq]; exact asks_op ..
    have master (op : Nat) : (mbxAt (q op) 0xB00080).mid = mid.toNat := by rw [hq]; exact asks_mid ..
    have index (op : Nat) : (mbxAt (q op) 0xB00080).arg = arg.toNat := by rw [hq]; exact (asks_arg ..).trans (Nat.mod_eq_of_lt arg.isLt)
    have words (op : Nat) : (mbxAt (q op) 0xB00080).w = w := by
      rw [hq, hw]
      exact funext fun i => asks_word s mid.toNat 0xB00080 op arg.toNat true d few i
    have run (c : Instr) (op : Nat) (small : op < 256) (e : exec c s = act s fun s => mbxRequest s mid.toNat ornReqMbx op true arg.toNat d) :
        exec c s = .next (respond (ornWrite (q op) (mbxAt (q op) 0xB00080)) {}) := by
      rw [exec_ornReq e free up small, hq]
    have log : logFull s 1 = full := by rw [hfull]; rfl
    rw [run (.ornOpen mid arg d) 6 (by decide) rfl, run (.ornFwload mid arg d) 8 (by decide) rfl, run (.ornFwact mid arg d) 9 (by decide) rfl,
      run (.ornKeyload mid arg d) 10 (by decide) rfl, ornWrite_open _ (number 6), ornWrite_fwload _ (number 8), ornWrite_fwact _ (number 9)]
    refine ⟨fun locked => ?_, fun unlocked none_ => ?_, fun key tag unlocked key_ htag => ?_, fun closed => ⟨?_, ?_⟩, fun opened => ?_,
      fun len want u opened hlen hwant => ?_, fun u code loaded => ?_, fun stranger k => ornKeyload_stranger stranger,
      fun k owner opened held => ornKeyload_same owner opened held, fun k o owner opened room differs ho => ?_⟩
    · rw [ornOpen_locked (orn 6) locked]; rfl
    · rw [ornOpen_unlocked (orn 6) unlocked, none_]; rfl
    · obtain rfl : tag = bytes32 w := htag
      rw [ornOpen_unlocked (orn 6) unlocked, key_, Option.elim_some, log, words, now]
      refine ⟨fun fullLog => ?_, fun n u room challenge right hu => ?_, fun room wrong => ?_⟩
      · rw [if_pos fullLog]; rfl
      · have good : (s.orn.nonce.any fun n => bytes32 w == openTag key n) = true := by
          rw [challenge]
          exact beq_iff_eq.2 right
        rw [if_neg (by simp [room]), if_pos good, hu]; rfl
      · have bad : ¬ (s.orn.nonce.any fun n => bytes32 w == openTag key n) = true := by
          cases h : s.orn.nonce with
          | none => simp
          | some n => exact fun same => wrong n h (beq_iff_eq.1 same)
        rw [if_neg (by simp [room]), if_neg bad]; rfl
    · rw [ornFwload_closed (orn 8) closed]; rfl
    · rw [ornFwact_closed (orn 9) closed]; rfl
    · rw [ornFwload_open (orn 8) opened, index, words]; rfl
    · obtain rfl : want = bytes32 w := hwant
      rw [ornFwact_open (orn 9) opened, words, now, ← hlen, log]
      refine ⟨fun differs => ?_, fun agrees fullLog => ?_, fun agrees room hu => ?_⟩
      · rw [if_pos differs]; rfl
      · rw [if_neg (not_not_intro agrees), if_pos fullLog]; rfl
      · rw [if_neg (not_not_intro agrees), if_neg (by simp [room]), hu]; rfl
    · rw [ornWrite_keyload (u := u) (code := code) _ (number 10) (by rw [master, words]; exact loaded)]; rfl
    · rw [ornKeyload_new owner opened (log.trans room) differs, ho]
      cases s.orn.key <;> rfl
  · have up : OrnAnswers s := ⟨on, group, phase⟩
    rw [exec_ornReq (op := 7) (arg := 0) (d := []) rfl free up (by decide), ornWrite_close _ (asks_op ..), written_nil, ornClose_eq (s := s) (v := asks s mid.toNat 0xB00080 7 true 0 []) rfl]
    split <;> rfl
  · have up : OrnAnswers s := ⟨on, group, phase⟩
    rw [exec_ornReq (op := 11) (arg := 0) (d := []) rfl free up (by decide), ornWrite_save _ (asks_op ..), written_nil]; rfl
  · have up : OrnAnswers s := ⟨on, group, phase⟩
    subst hq hi
    rw [exec_ornReq (op := 12) (arg := arg.toNat) (d := []) rfl free up (by decide), ornWrite_diagclr _ (asks_op ..), written_nil, asks_arg,
      Nat.mod_eq_of_lt arg.isLt, ornDiagclr]
    split <;> rfl
  · have e : exec (.sealPinChange low) s = .next (sealPinChange s (low && !bit s.cru.rails 8)) := rfl
    rw [e, rail, Bool.not_false, Bool.and_true, sealPinChange_moved moved]
  · exact congrArg Host.Outcome.next (sealTimeout_due opened pin due)
  · exact congrArg Host.Outcome.next (lockoutEnd_due locked due)
  · rfl

end Sys2Proof.Machine
end

section
/-! Proofs of the family 15_belvedere_capture.md: triggers, captures, masks, rate reduction and source entries. -/

namespace Sys2Proof.Machine

/-! ### Command registers (R46) -/

/-- At `o` stands copy `i` of the register `n`, whose fields are `fs`. -/
def commandAt (o : Nat) (n : Reg) (i : Nat) (fs : List FieldDesc) : Bool :=
  match regAt o with
  | none => false
  | some l => decide (l.desc.name = n) && decide (l.i = i) && decide (l.addr = o) && !l.desc.mbx && decide (l.desc.fields = fs)

/-- The bits of a written value that a field takes. -/
def fieldBits (v : Nat) (f : FieldDesc) : Nat := bits v f.hi f.lo * 2 ^ f.lo

theorem fieldBits_mk (v hi lo reset min max : Nat) (acc : Acc) (prv : Bool) (dep : Dep) :
    fieldBits v ⟨hi, lo, acc, prv, reset, min, max, dep⟩ = bits v hi lo * 2 ^ lo := rfl

/-- A write of a register of `wsc` fields notes the bits set and starts what they command. -/
theorem meshWrite_commandAt {o i : Nat} {n : Reg} {fs : List FieldDesc} (here : commandAt o n i fs = true) (h4 : o % 4 = 0) (low : o < 0x10000000)
    (wsc : ∀ f ∈ fs, f.acc = .wsc ∧ f.prv = false ∧ f.dep = .none) (listed : fs ≠ []) (other : n ≠ .sys .SYS_TX_CLAIM) {s : State} {mid v x : Nat}
    (may : mayWrite s mid o = true) (small : v < 2 ^ 32) (sum : (fs.map (fieldBits v)).sum = x) :
    ∃ l : RegLoc, l.desc.name = n ∧ l.i = i ∧ l.addr = o ∧ meshWrite s mid o v = respond (commandWrite s l mid v) {} ∧
      (writable l [.wsc] mid).isEmpty = false ∧ ((writable l [.wsc] mid).map fun f => bits v f.hi f.lo * 2 ^ f.lo).sum = x := by
  unfold commandAt at here
  split at here
  next => cases here
  next l hl =>
    simp only [Bool.and_eq_true, decide_eq_true_eq, Bool.not_eq_true'] at here
    obtain ⟨⟨⟨⟨name, copy⟩, addr⟩, box⟩, fields⟩ := here
    subst fields
    obtain ⟨some_, total⟩ := wsc_fields l mid v x wsc sum listed
    refine ⟨l, name, copy, addr, ?_, some_, total⟩
    rw [meshWrite_command s mid o v l hl may h4 low box (by rw [name]; exact other) (fun f hf => by simp [(wsc f hf).1]), Nat.mod_eq_of_lt small]

/-! ### Fields that a write of memory leaves (R22, R598) -/

/-- Fields are part of the registers. -/
theorem fget_of_reg {s t : State} (h : s.reg = t.reg) (f : FieldRef) : fget s f = fget t f := by rw [fget, h, fget]

theorem wrBytesBut_reg (skip : Nat → Bool) (s : State) (a : Nat) (bs : List Nat) : (wrBytesBut skip s a bs).reg = s.reg := by
  rw [wrBytesBut_eq]

theorem poisonSettled_reg (s : State) (a n : Nat) : (poisonSettled s a n).reg = (cadd s Fld.MEM_POISONW_COUNT (partLines s a n).length).reg := rfl

theorem setCap_reg (s : State) (g : Nat) (x : CapGroup) : (setCap s g x).reg = s.reg := rfl

theorem bufferAdd_reg (s : State) (n : Nat) : (bufferAdd s n).reg = s.reg := rfl

section
variable {f : FieldRef} (high : f.lo % 32 ≠ 0)
include high

/-- A count in bit 0 of its register leaves a field that does not begin there. -/
theorem fget_cadd_high (s : State) {c : FieldRef} (n : Nat) (low : c.lo = 0) : fget (cadd s c n) f = fget s f :=
  fget_cadd_ne _ _ _ _ (by simp only [fkey, low]; omega)

theorem fget_decErr_high (s : State) (mid : Nat) : fget (decErr s mid) f = fget s f := by
  unfold decErr
  dsimp only
  rw [cinc, fget_cadd_high high _ _ rfl]
  split <;> rfl

/-- A write of memory counts where nothing decodes, or where it covers a poisoned line in part, and changes no other field. -/
theorem fget_physPut_high (s : State) (mid a : Nat) (bs : List Nat) : fget (physPut s mid a bs) f = fget s f := by
  unfold physPut physWrite
  split
  · exact fget_decErr_high high s mid
  · split
    · rw [← wrBytesBut_none, fget_of_reg (wrBytesBut_reg _ s a bs)]
    · rw [writeLines_eq, fget_of_reg ((wrBytesBut_reg _ _ a bs).trans (poisonSettled_reg s a bs.length)), fget_cadd_high high _ _ rfl]

theorem fget_placeRecord_high (s : State) (g ns : Nat) (mark : Bool) (bs : List Nat) : fget (placeRecord s g ns mark bs) f = fget s f := by
  unfold placeRecord
  dsimp only
  rw [fget_of_reg (setCap_reg _ _ _), fget_physPut_high]
  split
  · rw [fget_physPut_high]
    exact high
  · rfl
  · exact high

theorem fget_storeRecord_high (s : State) (g type idx ns : Nat) (payload : List Nat) : fget (storeRecord s g type idx ns payload) f = fget s f := by
  unfold storeRecord
  dsimp only
  split
  · rfl
  · split
    · rw [cinc, fget_cadd_high high _ _ rfl, fget_of_reg (setCap_reg _ _ _)]
    · rw [fget_placeRecord_high, fget_of_reg (bufferAdd_reg _ _)]
      · split
        · rfl
        · rw [fget_placeRecord_high, fget_of_reg (bufferAdd_reg _ _), fget_of_reg (setCap_reg _ _ _)]
          exact high
      · exact high

end

/-! ### Triggers (R510, R511, R514) -/

/-- A fire that is alone is processed by every group. -/
theorem processAll_fire (s : State) (t u : Nat) :
    processAll s [(t, 1, u)] = (List.range 16).foldl (groupFire t u) (cinc s (Fld.BLV_TR_FIRES_COUNT u)) := by
  have one : (1 : Nat) ≠ 0 := by decide
  have alone : sortedBy happensBefore [(t, 1, u)] = [(t, 1, u)] := rfl
  rw [processAll, alone, List.foldl_cons, List.foldl_nil, processOne]
  dsimp only
  rw [if_neg one]

theorem unitTimeout_due {s : State} {u t k : Nat} (on : unitOn s u = true) (kind : fget s (Fld.BLV_TR_CTRL_KIND u) = 2)
    (last : (unitRun s u).last = some t) (fresh : (unitRun s u).fired = false) (hk : k = t + fget s (Fld.BLV_TR_T0_T u) * 1000) (due : k ≤ nowNs s) :
    unitTimeout s u = (List.range 16).foldl (groupFire k u)
      (cinc (setUnit s u { unitRun s u with fired := true }) (Fld.BLV_TR_FIRES_COUNT u)) := by
  subst hk
  have fires : (!unitOn s u || fget s (Fld.BLV_TR_CTRL_KIND u) != 2 || (unitRun s u).fired ||
      decide (nowNs s < t + fget s (Fld.BLV_TR_T0_T u) * 1000)) = false := by
    simp [on, kind, fresh, due]
  simp only [unitTimeout, last, fires, Bool.false_eq_true, if_false]
  exact processAll_fire _ _ _

theorem groupFire_apart {t u g : Nat} {v : State} (apart : recording v g = false ∨ selects v g u = false) : groupFire t u v g = v := by
  have out : (!recording v g || !selects v g u) = true := by
    rcases apart with h | h <;> simp [h]
  simp only [groupFire, out, if_true]

/-- A group that fires on any one unit records the mark and triggers. -/
theorem groupFire_any {t u g : Nat} {v w : State} (live : recording v g = true) (sel : selects v g u = true) (waits : (capOf v g).st = .record)
    (any : fbit v (Fld.BLV_CG_CTRL_MODE g) = false)
    (hw : w = storeMark (setCap v g { capOf v g with fires := tset (capOf v g).fires u t }) g t 1 u 0) :
    groupFire t u v g = capTrigger w g t u none false := by
  have mode : fbit w (Fld.BLV_CG_CTRL_MODE g) = false := by
    rw [fbit, hw, storeMark, fget_storeRecord_high (by decide : 30 % 32 ≠ 0), fget_of_reg (setCap_reg _ _ _)]
    exact any
  have fires : (!recording v g || !selects v g u) = false := by rw [live, sel]; rfl
  rw [groupFire]
  dsimp only
  rw [fires, if_neg Bool.false_ne_true, ← hw, mode, Bool.not_false, Bool.true_or, if_pos rfl]
  split
  next post => rw [waits] at post; cases post
  next => rfl

/-! ### Captures (R507, R515, R517) -/

theorem blvMirror_next {s : State} {c : Nat} {f : Frame} (next : nextClass s 19 = some c) (head : headOf s 19 c = some f) :
    blvMirror s = if blvOn (takeHead s 19 c) then blvFrame (takeHead s 19 c) f c else takeHead s 19 c := by
  simp only [blvMirror, next, head]

theorem captureClose_due {s : State} {g : Nat} (due : closeDue s g = true) : captureClose s g =
    capEnd (capSeal s (slotBase s g (capOf s g).cur) (capHeader s g false) (capHeader s g true)) g (capOf s g) := by
  simp only [captureClose, due, Bool.not_true, Bool.false_eq_true, if_false]

theorem capEnd_next {s u : State} {g k : Nat} {x : CapGroup}
    (hu : u = cinc (setCap s g { x with heldSlots := setBit x.heldSlots x.cur }) (Fld.BLV_CG_CAPS_COUNT g))
    (free : freeSlot u g ((x.cur + 1) % capSlots u g) = some k) : capEnd s g x = capArm u g k := by
  simp only [capEnd, ← hu, free]

theorem capEnd_full {s u : State} {g : Nat} {x : CapGroup}
    (hu : u = cinc (setCap s g { x with heldSlots := setBit x.heldSlots x.cur }) (Fld.BLV_CG_CAPS_COUNT g))
    (full : freeSlot u g ((x.cur + 1) % capSlots u g) = none) : capEnd s g x = setCap u g { capOf u g with st := .full, recs := [] } := by
  simp only [capEnd, ← hu, full]

theorem releaseSlot_free {g k : Nat} {v : State} (free : bit (capOf v g).heldSlots k = false) : releaseSlot g v k = wign v 0xC02000 := by
  simp only [releaseSlot, free, Bool.not_false, if_true]

theorem releaseSlot_held {g k : Nat} {v w : State} (held : bit (capOf v g).heldSlots k = true)
    (hw : w = setCap v g { capOf v g with heldSlots := clrBit (capOf v g).heldSlots k }) :
    releaseSlot g v k = if (capOf v g).st = .full then capArm w g k else w := by
  simp only [releaseSlot, held, Bool.not_true, Bool.false_eq_true, if_false, ← hw]

/-! ### The command register of a capture group (R514, R517) -/

theorem capCommand_at : ∀ g : Fin 16, commandAt (0xC02060 + 0x40 * g.val) (.blv .BLV_CG_CMD) g.val
    [⟨31, 31, .wsc, false, 0, 0, 1, .none⟩, ⟨15, 0, .wsc, false, 0, 0, 65535, .none⟩] = true := by decide +kernel

/-- A write of BLV_CGg_CMD whose bits are TRIG and REL. -/
theorem meshWrite_capCommand {s : State} {mid v : Nat} {g : Fin 16} (may : mayWrite s mid (0xC02060 + 0x40 * g.val) = true) (small : v < 2 ^ 32)
    (hv : v / 2 ^ 31 * 2 ^ 31 + v % 2 ^ 16 = v) : meshWrite s mid (0xC02060 + 0x40 * g.val) v = respond
      (blvWsc .BLV_CG_CMD g.val v (if v = 0 then s else wscNote s (0xC02060 + 0x40 * g.val) v)) {} := by
  have sum : ([⟨31, 31, .wsc, false, 0, 0, 1, .none⟩, ⟨15, 0, .wsc, false, 0, 0, 65535, .none⟩].map
      (fieldBits v)).sum = v := by
    have top : v / 2 ^ 31 < 2 := by omega
    simp only [List.map_cons, List.map_nil, List.sum_cons, List.sum_nil, fieldBits_mk, bits, Nat.sub_self, Nat.sub_zero, Nat.pow_zero, Nat.div_one,
      Nat.mul_one, Nat.zero_add, Nat.pow_one, Nat.mod_eq_of_lt top, Nat.add_zero]
    exact hv
  obtain ⟨l, name, copy, addr, written, some_, total⟩ :=
    meshWrite_commandAt (capCommand_at g) (by omega) (by omega) (by simp) (by simp) (by simp) may small sum
  rw [written]
  simp only [commandWrite, some_, total, name, copy, addr, Bool.false_eq_true, if_false]

/-- TRIG commands a trigger, and releases nothing. -/
theorem blvWsc_trig (g : Nat) (s : State) : blvWsc .BLV_CG_CMD g (2 ^ 31) s = commandTrigger s g := by
  have none_ : bitsOf (2 ^ 31) 16 = [] := by decide
  have trig : bit (2 ^ 31) 31 = true := by decide
  simp only [blvWsc, none_, trig, if_true, List.foldl_nil]

theorem blvWsc_rel (g : Nat) (s : State) {v : Nat} (small : v < 2 ^ 16) :
    blvWsc .BLV_CG_CMD g v s = (bitsOf v 16).foldl (releaseSlot g) s := by
  have trig : bit v 31 = false := by
    simp only [bit, beq_eq_false_iff_ne]
    omega
  simp only [blvWsc, trig, Bool.false_eq_true, if_false]

/-- A group as a command triggers it, at the time of the command and without a unit or a mask (R514). -/
def capCommanded (s : State) (g : Nat) : CapGroup :=
  { capOf s g with
    st := .post, seq := ((capOf s g).seq + 1) % 2 ^ 32, tT := nowNs s, unit := 0, mask := 0, maskStop := false, soft := true
    short := capState s g == 1, fin := nowNs s + fget s (Fld.BLV_CG_POST_US g) * 1000, edgeAfter := false }

theorem commandTrigger_waits {s : State} {g : Nat} (live : recording s g = true) (waits : (capOf s g).st = .record) :
    commandTrigger s g = captureEvent (setCap s g (capCommanded s g)) g := by
  have waiting : (recording s g && (capOf s g).st == .record) = true := by rw [live, waits]; rfl
  rw [commandTrigger, if_pos waiting]
  simp only [capTrigger, Option.isSome_none, Bool.false_eq_true, if_false, Option.getD_none, capCommanded]

theorem commandTrigger_apart {s : State} {g : Nat} (apart : recording s g = false ∨ (capOf s g).st ≠ .record) : commandTrigger s g = s := by
  have out : (recording s g && (capOf s g).st == .record) = false := by
    rcases apart with h | h <;> simp [h]
  simp only [commandTrigger, out, Bool.false_eq_true, if_false]

/-! ### Masks (R521) -/

/-- A mask once its table has been read: the new table with the mains cycle, or none where the read failed. -/
def maskRead (v : State) (x : MaskRun) (n : Nat) (r : Option (List Nat)) : MaskRun :=
  { x with
    due := none
    new := match r with
      | none => x.new
      | some bs => some ((List.range n).map (fun i =>
          (toSigned 32 (ofLe ((bs.drop (8 * i)).take 4)), toSigned 32 (ofLe ((bs.drop (8 * i + 4)).take 4)))), mainsAt v (nowNs v) / 2 ^ 32) }

theorem maskLoad_due {s v : State} {m n : Nat} {r : Option (List Nat)} (due : (tat s.blv.masks m {}).due ≠ none)
    (hn : n = fget s (Fld.BLV_MK_CTRL_NPT m) + 1) (read : physRead s 0x3006 (fget s (Fld.BLV_MK_TBL_ADDR m) * 4096) (8 * n) = (v, r)) :
    maskLoad s m = { v with blv := { v.blv with masks := tset v.blv.masks m (maskRead v (tat s.blv.masks m {}) n r) } } := by
  subst hn
  obtain ⟨k, hk⟩ := Option.ne_none_iff_exists'.1 due
  have mid : blvMid = 0x3006 := rfl
  simp only [maskLoad, hk, mid, read]
  cases r <;> rfl

/-! ### Rate reduction (R522, R523) -/

/-- A step of choosing the group with the smallest key. -/
def pickStep (key : Nat → Nat) (a : Option Nat) (g : Nat) : Option Nat :=
  match a with
  | none => some g
  | some b => if key g < key b then some g else some b

theorem pickStep_or (key : Nat → Nat) (a : Option Nat) (x : Nat) : pickStep key a x = some x ∨ pickStep key a x = a := by
  cases a with
  | none => exact .inl rfl
  | some b =>
    simp only [pickStep]
    split
    · exact .inl rfl
    · exact .inr rfl

section
variable {key : Nat → Nat} {g : Nat}

/-- The group with the smallest key, once chosen, stays. -/
theorem foldl_pickStep_some (gs : List Nat) (least : ∀ h ∈ gs, h ≠ g → key g < key h) : gs.foldl (pickStep key) (some g) = some g := by
  induction gs with
  | nil => rfl
  | cons x xs ih =>
    have stays : pickStep key (some g) x = some g := by
      by_cases same : x = g
      · subst same
        exact if_neg (lt_irrefl _)
      · exact if_neg (Nat.lt_asymm (least x List.mem_cons_self same))
    rw [List.foldl_cons, stays]
    exact ih fun h hh => least h (List.mem_cons_of_mem _ hh)

/-- The group with the smallest key is chosen, whichever one stood before. -/
theorem foldl_pickStep (gs : List Nat) (a : Option Nat) (listed : g ∈ gs) (before : ∀ b, a = some b → b ≠ g → key g < key b)
    (least : ∀ h ∈ gs, h ≠ g → key g < key h) : gs.foldl (pickStep key) a = some g := by
  induction gs generalizing a with
  | nil => cases listed
  | cons x xs ih =>
    have rest : ∀ h ∈ xs, h ≠ g → key g < key h := fun h hh => least h (List.mem_cons_of_mem _ hh)
    rw [List.foldl_cons]
    by_cases same : x = g
    · subst same
      have chosen : pickStep key a x = some x := by
        cases a with
        | none => rfl
        | some b =>
          by_cases first : b = x
          · subst first
            exact ite_self _
          · exact if_pos (before b rfl first)
      rw [chosen]
      exact foldl_pickStep_some xs rest
    · refine ih _ ((List.mem_cons.1 listed).resolve_left (Ne.symm same)) (fun b hb other => ?_) rest
      rcases pickStep_or key a x with h | h
      · rw [h, Option.some.injEq] at hb
        exact least b (hb ▸ List.mem_cons_self) other
      · exact before b (h ▸ hb) other

theorem pickGroup_least {gs : List Nat} (listed : g ∈ gs) (least : ∀ h ∈ gs, h ≠ g → key g < key h) :
    pickGroup (fun a b => decide (key a < key b)) gs = some g := by
  have fold : pickGroup (fun a b => decide (key a < key b)) gs = gs.foldl (pickStep key) none := by
    unfold pickGroup
    congr 1
    funext a x
    cases a with
    | none => rfl
    | some b => simp only [pickStep, decide_eq_true_eq]
  rw [fold]
  exact foldl_pickStep gs none listed (fun b hb => by cases hb) least

end

/-- A halving step doubles the DIV of the group with the smallest one: among equals the higher PRIO, then the higher number (R522). -/
theorem halvingStep_picks {s : State} {g : Nat} (few : g < 16) (prio : ∀ h, capPrio s h < 16) (on : blvOn s = true) (part : reducible s g = true)
    (room : (capOf s g).div < 128) (full : 3 * 2 ^ 19 ≤ bufferFill s) (rested : ∀ t, s.blv.stepAt = some t → t + 10000 ≤ s.sdl.fab)
    (first : ∀ h, h < 16 → h ≠ g → reducible s h = true → (capOf s h).div < 128 → (capOf s g).div < (capOf s h).div ∨
      (capOf s g).div = (capOf s h).div ∧ (capPrio s h < capPrio s g ∨ capPrio s h = capPrio s g ∧ h < g)) :
    halvingStep s = cinc (setCap (setBlv s { s.blv with stepAt := some s.sdl.fab }) g { capOf s g with div := (capOf s g).div * 2 })
      Fld.BLV_RREDUCE_COUNT := by
  have picked := pickGroup_least (key := fun g => (capOf s g).div * 256 + (15 - capPrio s g) * 16 + (15 - g)) (g := g)
    (gs := (List.range 16).filter fun g => reducible s g && decide ((capOf s g).div < 128))
    (by simp only [List.mem_filter, List.mem_range, part, room, decide_true, Bool.and_self, and_true]; exact few) (fun h hh other => by
      simp only [List.mem_filter, List.mem_range, Bool.and_eq_true, decide_eq_true_eq] at hh
      obtain ⟨small, takes, under⟩ := hh
      have order := first h small other takes under
      have hp := prio h
      have gp := prio g
      omega)
  have act : (decide (bufferFill s < 3 * 2 ^ 19) || false || !blvOn s) = false := by simp only [on, Nat.not_lt.2 full, decide_false]; rfl
  unfold halvingStep
  cases h : s.blv.stepAt with
  | none => dsimp only; rw [act, if_neg Bool.false_ne_true, picked]
  | some t => dsimp only; rw [decide_eq_false (Nat.not_lt.2 (rested t h)), act, if_neg Bool.false_ne_true, picked]

/-- A restore step halves the DIV of the group with the largest one: among equals the lower PRIO, then the lower number (R523). -/
theorem restoreStep_picks {s : State} {g : Nat} (few : g < 16) (caps : ∀ h, capPrio s h < 16 ∧ (capOf s h).div ≤ 128) (on : blvOn s = true)
    (reduced : 1 < (capOf s g).div) (low : bufferFill s < 2 ^ 19) (rested : s.blv.lowAt + 1000000 ≤ s.sdl.fab)
    (first : ∀ h, h < 16 → h ≠ g → 1 < (capOf s h).div → (capOf s h).div < (capOf s g).div ∨
      (capOf s h).div = (capOf s g).div ∧ (capPrio s g < capPrio s h ∨ capPrio s g = capPrio s h ∧ g < h)) :
    restoreStep s = setCap (setBlv s { s.blv with lowAt := s.sdl.fab }) g { capOf s g with div := (capOf s g).div / 2 } := by
  have picked := pickGroup_least (key := fun g => (128 - (capOf s g).div) * 256 + capPrio s g * 16 + g) (g := g)
    (gs := (List.range 16).filter fun g => decide (1 < (capOf s g).div))
    (by simp only [List.mem_filter, List.mem_range, reduced, decide_true, and_true]; exact few) (fun h hh other => by
      simp only [List.mem_filter, List.mem_range, decide_eq_true_eq] at hh
      obtain ⟨small, halved⟩ := hh
      have order := first h small other halved
      obtain ⟨hp, hd⟩ := caps h
      obtain ⟨gp, gd⟩ := caps g
      omega)
  have act : (decide (2 ^ 19 ≤ bufferFill s) || decide (s.sdl.fab < s.blv.lowAt + 1000000) || !blvOn s) = false := by
    simp only [on, Nat.not_le.2 low, Nat.not_lt.2 rested, decide_false]; rfl
  unfold restoreStep
  dsimp only
  rw [act, if_neg Bool.false_ne_true, picked]

/-! ### Source entries (R507, R531) -/

/-- The KIND that a write of a source entry sets: an undefined one reads 5 (R507). -/
def srcKindOf (v : Nat) : Nat := if 1 ≤ v / 2 ^ 28 ∧ v / 2 ^ 28 ≤ 5 then v / 2 ^ 28 else 5

/-- The ID that goes with it, its HARMONIC clamped where the KIND has one. -/
def srcIdOf (k v : Nat) : Nat := if k = 5 then v % 2 ^ 28 - bits v 13 8 * 256 + clampTo 2 48 (bits v 13 8) * 256 else v % 2 ^ 28

/-- A change of a source entry: refused while the entry is in use. -/
def srcChange (q : State) (a e : Nat) (x : Option Nat) : State := if srcInUse q e then mbxEnd q a 0x05 else srcTake q e x

section
variable {q : State} {a : Nat} {e : Nat} (arg : (mbxAt q a).arg % 1024 = e)
include arg

theorem blvMbx_write {v : Nat} (op : (mbxAt q a).op = 1) (wr : (mbxAt q a).wr = true) (w : (mbxAt q a).w 0 = v) :
    blvMbx .BLV_SRC a q = srcChange q a e (some (srcKindOf v * 2 ^ 28 + srcIdOf (srcKindOf v) v)) := by
  have harmonic : bits (v % 2 ^ 28) 13 8 = bits v 13 8 := by
    unfold bits
    omega
  simp only [blvMbx, arg, op, wr, w, harmonic]
  rfl

theorem blvMbx_disable (op : (mbxAt q a).op = 3) (wr : (mbxAt q a).wr = true) : blvMbx .BLV_SRC a q = srcChange q a e none := by
  simp only [blvMbx, arg, op, wr]
  rfl

theorem blvMbx_read (op : (mbxAt q a).op = 2) (wr : (mbxAt q a).wr = false) : blvMbx .BLV_SRC a q =
    mbxAnswer q a 0 [w32 (tat q.blv.srcs e 0), w32 (bitAt (tget q.blv.srcs e).isSome 31)] := by
  simp only [blvMbx, arg, op, wr]

end

/-- While fabric edges come, a change waits for the next one. -/
theorem srcTake_waits {q : State} {e : Nat} {x : Option Nat} (runs : genActive q = true) :
    srcTake q e x = { q with blv := { q.blv with src := some (e, x) } } := by
  have still : genActive (setBlv q { q.blv with src := some (e, x) }) = true := runs
  rw [srcTake, if_pos still]
  rfl

/-- With the generator stopped it takes effect at once. -/
theorem srcTake_now {q : State} {e : Nat} {x : Option Nat} (stopped : genActive q = false) (busy : (mbxAt q 0xC00080).busy = true) :
    srcTake q e x = capsFollow (mbxEnd { q with blv := { q.blv with
      src := none, srcs := match x with | some w => tset q.blv.srcs e w | none => tdel q.blv.srcs e } } 0xC00080 0) := by
  have still : genActive (setBlv q { q.blv with src := some (e, x) }) = false := stopped
  have ends (b : Belvedere) : mbxEndIfBusy (setBlv q b) 0xC00080 0 = mbxEnd (setBlv q b) 0xC00080 0 := if_pos busy
  rw [srcTake, still, if_neg Bool.false_ne_true]
  cases x <;> exact congrArg capsFollow (ends _)

/-- A change of a source entry after a request: refused with 0x05 while the entry is in use, held for the next fabric edge, or at once (R531). -/
theorem srcChange_cases {s q : State} {e : Nat} {x : Option Nat} (blv : q.blv = s.blv) (sdl : q.sdl = s.sdl) (field : ∀ f, fget q f = fget s f)
    (busy : (mbxAt q 0xC00080).busy = true) :
    (srcInUse s e = true → srcChange q 0xC00080 e x = mbxEnd q 0xC00080 5) ∧
    (srcInUse s e = false → genActive s = true → srcChange q 0xC00080 e x = { q with blv := { s.blv with src := some (e, x) } }) ∧
    (srcInUse s e = false → genActive s = false → srcChange q 0xC00080 e x = capsFollow (mbxEnd { q with blv := { s.blv with
      src := none, srcs := match x with | some w => tset s.blv.srcs e w | none => tdel s.blv.srcs e } } 0xC00080 0)) := by
  have used : srcInUse q e = srcInUse s e := by simp only [srcInUse, fbit, field, capSources]
  have runs : genActive q = genActive s := by rw [genActive, sdl, genActive]
  rw [← used, ← runs, ← blv]
  refine ⟨fun use => ?_, fun use run => ?_, fun use stopped => ?_⟩
  · rw [srcChange, if_pos use]
  · rw [srcChange, use, if_neg Bool.false_ne_true, srcTake_waits run]
  · rw [srcChange, use, if_neg Bool.false_ne_true, srcTake_now stopped busy]

/-- Settles O56: the effect of each command, with the orders of R522 and R523 shown to pick the group named. That a source entry changes at once with
the generator stopped is log 50. -/
theorem captures : Obligations.Captures := by
  intro s up
  refine ⟨fun u t k on kind last fresh hk due => ?_, fun t u g v => groupFire_apart, fun t u g v w => groupFire_any, fun c f v next head hv => ?_,
    fun g x h b u due hx hh hb hu => ?_, fun mid g may => ⟨fun x b hx hb live waits => ?_, fun apart => ?_, fun slots => ?_⟩,
    fun g k v => ⟨releaseSlot_free, fun held w => releaseSlot_held held⟩, fun m x n v r hx due hn read => ?_,
    fun g few prio on part room full rested first => ?_, fun g few caps on reduced low rested first => ?_,
    fun mid e free => ⟨?_, fun d v k i c x q few hv hk hi hc => ?_⟩⟩
  · exact (act_up up fun s => unitTimeout s u.val).trans (congrArg _ (unitTimeout_due on kind last fresh hk due))
  · subst hv
    exact (act_up up blvMirror).trans (congrArg _ (blvMirror_next next head))
  · subst hx hh hb
    have run : exec (.captureClose g) s = .next (capEnd (capSeal s (slotBase s g.val (capOf s g.val).cur) (capHeader s g.val false)
        (capHeader s g.val true)) g.val (capOf s g.val)) :=
      (act_up up fun s => captureClose s g.val).trans (congrArg _ (captureClose_due due))
    rw [run]
    exact ⟨fun k free => congrArg _ (capEnd_next hu free), fun full => congrArg _ (capEnd_full hu full)⟩
  · have run : exec (.blvCgTrig mid g) s = .next (respond (commandTrigger b g.val) {}) := by
      have e : exec (.blvCgTrig mid g) s = act s fun s => meshWrite s mid.toNat (0xC02060 + 0x40 * g.val) (2 ^ 31) := rfl
      rw [e, act_up up, meshWrite_capCommand may (by decide) (by decide), if_neg (by decide), blvWsc_trig, hb]
    have b_live : recording b g.val = true := by rw [hb]; exact live
    have b_waits : (capOf b g.val).st = .record := by rw [hb]; exact hx ▸ waits
    rw [run, commandTrigger_waits b_live b_waits]
    subst hb hx
    rfl
  · have run : exec (.blvCgTrig mid g) s = .next (respond (commandTrigger (wscNote s (0xC02060 + 0x40 * g.val) (2 ^ 31)) g.val) {}) := by
      have e : exec (.blvCgTrig mid g) s = act s fun s => meshWrite s mid.toNat (0xC02060 + 0x40 * g.val) (2 ^ 31) := rfl
      rw [e, act_up up, meshWrite_capCommand may (by decide) (by decide), if_neg (by decide), blvWsc_trig]
    have still : recording (wscNote s (0xC02060 + 0x40 * g.val) (2 ^ 31)) g.val = false ∨
      (capOf (wscNote s (0xC02060 + 0x40 * g.val) (2 ^ 31)) g.val).st ≠ .record := apart
    rw [run, commandTrigger_apart still]
  · have e : exec (.blvCgRel mid g slots) s = act s fun s => meshWrite s mid.toNat (0xC02060 + 0x40 * g.val) slots.toNat := rfl
    have small := slots.isLt
    rw [e, act_up up, meshWrite_capCommand may (by omega) (by omega), blvWsc_rel _ _ small]
  · subst hx
    exact (act_up up fun s => maskLoad s m.val).trans (congrArg _ (maskLoad_due due hn read))
  · exact (act_up up halvingStep).trans (congrArg _ (halvingStep_picks few prio on part room full rested first))
  · exact (act_up up restoreStep).trans (congrArg _ (restoreStep_picks few caps on reduced low rested first))
  · have at_ : exec (.blvSrcRead mid e) s = act s fun s => mbxRequest s mid.toNat 0xC00080 2 false e.val [] := rfl
    have arg : (mbxAt (asks s mid.toNat 0xC00080 2 false e.val []) 0xC00080).arg % 1024 = e.val := by
      rw [asks_arg]
      omega
    rw [at_, act_up up, request_blvSrc s mid.toNat 2 e.val false [] free (by decide), written_nil, blvMbx_read arg (asks_op ..) (asks_wr ..)]
    rfl
  · obtain ⟨run, blv, sdl, field, busy⟩ : exec c s = .next (respond (srcChange q 0xC00080 e.val x) {}) ∧ q.blv = s.blv ∧ q.sdl = s.sdl ∧
        (∀ f, fget q f = fget s f) ∧ (mbxAt q 0xC00080).busy = true := by
      simp only [List.mem_cons, List.not_mem_nil, or_false, Prod.mk.injEq] at hc
      rcases hc with ⟨rfl, rfl, rfl⟩ | ⟨rfl, rfl, rfl⟩
      · refine ⟨?_, by rw [asks_blv, written_blv], by rw [asks_sdl, written_sdl], fun f => by rw [fget_asks, fget_written], asks_busy ..⟩
        have at_ : exec (.blvSrcWrite mid e d) s = act s fun s => mbxRequest s mid.toNat 0xC00080 1 true e.val d := rfl
        have arg : (mbxAt (asks (written s d) mid.toNat 0xC00080 1 true e.val d) 0xC00080).arg % 1024 = e.val := by
          rw [asks_arg]
          omega
        rw [at_, act_up up, request_blvSrc s mid.toNat 1 e.val true d free (by decide), blvMbx_write arg (asks_op ..) (asks_wr ..)
          ((asks_word _ _ _ _ _ _ _ few _).trans hv.symm), hi, hk]
        rfl
      · refine ⟨?_, asks_blv .., asks_sdl .., fun f => fget_asks .., asks_busy ..⟩
        have at_ : exec (.blvSrcDisable mid e) s = act s fun s => mbxRequest s mid.toNat 0xC00080 3 true e.val [] := rfl
        have arg : (mbxAt (asks s mid.toNat 0xC00080 3 true e.val []) 0xC00080).arg % 1024 = e.val := by
          rw [asks_arg]
          omega
        rw [at_, act_up up, request_blvSrc s mid.toNat 3 e.val true [] free (by decide), written_nil, blvMbx_disable arg (asks_op ..) (asks_wr ..)]
    obtain ⟨used, waits, now⟩ := srcChange_cases (e := e.val) (x := x) blv sdl field busy
    rw [run]
    exact ⟨fun use => by rw [used use]; rfl, fun use runs => by rw [waits use runs], fun use stopped =>
      congrArg (fun u => Host.Outcome.next (respond u {})) (now use stopped)⟩

end Sys2Proof.Machine
end

section
/-! Proofs of the family 16_herbarium_recorder.md: event records, flash operations, the freeze, the scan and the mailboxes. -/

namespace Sys2Proof.Machine

/-! ### Acceptance of an event (R544, R545, R547, R554) -/

/-- The LOSS record that goes before the next record, where events have been lost (R547). -/
def lossBefore (s : State) : List Rec := s.hrb.loss.elim [] fun l => [{ lossRec s l with closed := true }]

section
variable {s : State} {type src : Nat} {args : List Nat} {excl : Bool} {snap : Option (List Nat)}

theorem acceptEvent_off (off : enabled s 0xD00000 = false) : acceptEvent s type src args excl snap = (loseEvent s 3, false) := by
  have page : enabled s hrbPage = false := off
  simp only [acceptEvent, page, Bool.not_false, if_true]

variable (on : enabled s 0xD00000 = true)
include on

theorem acceptEvent_repeat (same : s.hrb.open_ = some (type, src, args.getD 0 0)) :
    acceptEvent s type src args false snap = ({ s with hrb := { addRepeat s.hrb (nowNs s) with openAt := s.sdl.fab } }, true) := by
  have page : enabled s hrbPage = true := on
  simp only [acceptEvent, page, same, Bool.not_true, Bool.false_eq_true, if_false, Bool.not_false, beq_self_eq_true, Bool.and_self, if_true]

theorem acceptEvent_new (new : excl = true ∨ s.hrb.open_ ≠ some (type, src, args.getD 0 0)) : acceptEvent s type src args excl snap =
    if 64 < s.hrb.staging.length + (if s.hrb.loss.isSome then 2 else 1) then (loseEvent s (if fbit s Fld.HRB_CTRL_FREEZE then 2 else 1), false)
    else (hrbPump { s with hrb := stageRec s (lossBefore s) (compose s type src args snap) excl }, true) := by
  have page : enabled s hrbPage = true := on
  have differs : (!excl && s.hrb.open_ == some (type, src, args.getD 0 0)) = false := by
    rcases new with h | h
    · rw [h]; rfl
    · rw [beq_false_of_ne h, Bool.and_false]
  simp only [acceptEvent, page, differs, Bool.not_true, Bool.false_eq_true, if_false]
  cases h : s.hrb.loss <;> simp only [lossBefore, h, Option.elim]

end

/-- A record that stands behind no later one of its clock closes the last one composed. -/
theorem stageRec_last {s : State} {pre : List Rec} {r : Rec} {excl : Bool} (last : behind s r.src = 0) : stageRec s pre r excl =
    { closeOpen s.hrb with
      staging := (closeOpen s.hrb).staging ++ pre ++ [{ r with closed := excl }], loss := none
      open_ := if excl then none else some (r.type, r.src, r.args.getD 0 0), openAt := s.sdl.fab } := by
  simp only [stageRec, last, if_true]

/-- A record of a smaller SRC enters before the later ones of its clock, closed. -/
theorem stageRec_before {s : State} {pre : List Rec} {r : Rec} {excl : Bool} (later : behind s r.src ≠ 0) : stageRec s pre r excl =
    { s.hrb with
      staging := s.hrb.staging.take (s.hrb.staging.length - behind s r.src) ++ pre ++ [{ r with closed := true }] ++
        s.hrb.staging.drop (s.hrb.staging.length - behind s r.src), loss := none } := by
  simp only [stageRec, later, if_false]

/-- An event of the board or of a block is accepted as its type says (R540, R543, R390). -/
theorem exec_herbariumEvent {s : State} (up : s.cru.inReset = false) (type src : BitVec 16) (args : List Word) :
    exec (.herbariumEvent type src args) s = .next (acceptEvent s (type.toNat % 4096) src.toNat (args.map (·.toNat))
      (neverMerged (type.toNat % 4096)) none).1 := by
  have e : exec (.herbariumEvent type src args) s = act s fun s => if neverMerged (type.toNat % 4096) then
      recordExcl s (type.toNat % 4096) src.toNat (args.map fun w => w.toNat) else record s (type.toNat % 4096) src.toNat (args.map fun w => w.toNat) := rfl
  rw [e, act_up up]
  cases neverMerged (type.toNat % 4096) <;> rfl

theorem recordClose_due {s : State} (some_ : s.hrb.open_ ≠ none) (due : s.hrb.openAt + fget s Fld.HRB_CTRL_REPWIN * 1000000 ≤ s.sdl.fab) :
    recordClose s = hrbPump { s with hrb := closeOpen s.hrb } := by
  have closes : (s.hrb.open_.isNone || decide (s.sdl.fab < s.hrb.openAt + fget s Fld.HRB_CTRL_REPWIN * 1000000)) = false := by
    rw [decide_eq_false (Nat.not_lt.2 due), Option.isNone_eq_false_iff.2 (Option.isSome_iff_ne_none.2 some_)]
    rfl
  rw [recordClose, closes, if_neg Bool.false_ne_true]

/-! ### The operations of the flash (R536, R545, R551, R553) -/

/-- The state once a program operation has failed: counted, none in progress, and a freeze that waits for it reached. -/
def programFailed (s : State) : State := freezeReached (cinc { s with hrb := { s.hrb with op := none } } Fld.HRB_FLERR_COUNT)

section
variable {s : State} {p : Nat} {r : Rec}

theorem flashProgramDone_body (op : s.hrb.op = some (.body p r)) : flashProgramDone s true = { s with hrb := { s.hrb with
    op := some (.valid p r), flash := flashProgram s.hrb.flash (p * 256) (recBytes r ((s.hrb.seq + 1) % 2 ^ 32)) } } := by
  simp only [flashProgramDone, op, if_true]

/-- A SECTOR record that cannot be programmed gives up its sector. -/
theorem flashProgramDone_sectorFails (op : s.hrb.op = some (.body p r)) (sector : r.type = 1) :
    flashProgramDone s false = hrbPump (skipSector (programFailed s) (p / 256)) := by
  simp only [flashProgramDone, op, sector, Bool.false_eq_true, if_false, if_true, programFailed]

/-- Any other record that cannot be programmed is written again at the next page, a SNAPSEL record when it is next needed. -/
theorem flashProgramDone_recordFails (op : s.hrb.op = some (.body p r)) (other : r.type ≠ 1) {w : State} (hw : w = advancePage (programFailed s) p) :
    flashProgramDone s false = hrbPump { w with hrb := { w.hrb with
      staging := if r.type = 2 then w.hrb.staging else r :: w.hrb.staging
      selDone := if r.type = 2 then clrBit w.hrb.selDone (r.args.getD 0 0) else w.hrb.selDone } } := by
  subst hw
  simp only [flashProgramDone, op, other, Bool.false_eq_true, if_false, programFailed]

/-- VALID has been programmed: the record is counted and its REPEAT waits, or stays open. -/
def validCounted (s : State) (p : Nat) (r : Rec) : State :=
  let u := cinc { s with hrb := { s.hrb with
    op := none, seq := (s.hrb.seq + 1) % 2 ^ 32, flash := flashProgram s.hrb.flash (p * 256 + 0xFC) (leBytes 4 0x5A5AA5A5) } } Fld.HRB_RECS_COUNT
  { u with hrb := if r.closed then { u.hrb with closings := u.hrb.closings ++ [(p, r)] } else { u.hrb with openPage := some (p, r) } }

/-- Writing goes on after a record: a sector whose SECTOR record stands is erased, and entered where writing waits for it. -/
def writeOn (w : State) (p : Nat) (r : Rec) : State :=
  if r.type ≠ 1 then advancePage w p
  else if w.hrb.wpage = p / 256 * 256 then enterSector { w with hrb := { w.hrb with erased := w.hrb.erased ++ [p / 256] } } (p / 256)
  else { w with hrb := { w.hrb with erased := w.hrb.erased ++ [p / 256] } }

/-- The operation that ends lets a waiting freeze be reached, and the next operations begin. -/
def flashGoesOn (s : State) : State := hrbPump { freezeReached s with hrb := hrbErase (freezeReached s).hrb }

theorem flashProgramDone_valid (op : s.hrb.op = some (.valid p r)) (ok : Bool) :
    flashProgramDone s ok = flashGoesOn (writeOn (validCounted s p r) p r) := by
  have closed : validCounted s p r =
      (let u := cinc { s with hrb := { s.hrb with
        op := none, seq := (s.hrb.seq + 1) % 2 ^ 32, flash := flashProgram s.hrb.flash (p * 256 + 0xFC) (leBytes 4 0x5A5AA5A5) } } Fld.HRB_RECS_COUNT
      if r.closed then { u with hrb := { u.hrb with closings := u.hrb.closings ++ [(p, r)] } }
        else { u with hrb := { u.hrb with openPage := some (p, r) } }) := by
    unfold validCounted
    cases r.closed <;> rfl
  rw [closed]
  by_cases sector : r.type = 1 <;> simp only [flashProgramDone, op, writeOn, flashGoesOn, sector, ne_eq, not_true_eq_false, not_false_eq_true,
    if_true, if_false]

theorem flashProgramDone_rep (op : s.hrb.op = some (.rep p r)) : flashProgramDone s true = flashGoesOn { s with hrb := { s.hrb with
    op := none, flash := flashProgram s.hrb.flash (p * 256 + 0xE0) (repBytes r) } } := by
  simp only [flashProgramDone, op, if_true, flashGoesOn]

theorem flashProgramDone_repFails (op : s.hrb.op = some (.rep p r)) :
    flashProgramDone s false = hrbPump { programFailed s with hrb := hrbErase (programFailed s).hrb } := by
  simp only [flashProgramDone, op, Bool.false_eq_true, if_false, programFailed]

end

/-- The erase count of a sector's next SECTOR record: one more than that of its last one, else than the highest found. -/
def eraseCount (s : State) (k : Nat) : Nat :=
  (if pageValid s.hrb.flash (k * 256) = true ∧ flashLe s.hrb.flash (k * 65536 + 2) 2 = 1 then flashLe s.hrb.flash (k * 65536 + 0x2C) 4
    else s.hrb.maxErase) + 1

theorem flashEraseDone_ends {s : State} {k : Nat} (runs : s.hrb.erasing = some (k, false)) : flashEraseDone s true = hrbPump { s with
    hrb := { s.hrb with
      erasing := none, flash := flashErase s.hrb.flash (k * 65536) (k * 65536 + 65536), needSector := some (k, eraseCount s k) } } := by
  simp only [flashEraseDone, runs, if_true, eraseCount, Bool.and_eq_true, beq_iff_eq]

theorem flashEraseDone_fails {s : State} {k : Nat} (runs : s.hrb.erasing = some (k, false)) : flashEraseDone s false =
    skipSector { cinc s Fld.HRB_FLERR_COUNT with hrb := { (cinc s Fld.HRB_FLERR_COUNT).hrb with erasing := none } } k := by
  simp only [flashEraseDone, runs, Bool.false_eq_true, if_false]

theorem flashEraseDone_suspended {s : State} {k : Nat} (waits : s.hrb.erasing = some (k, true)) (ok : Bool) : flashEraseDone s ok = s := by
  simp only [flashEraseDone, waits]

theorem exec_flashProgramDone {s : State} (up : s.cru.inReset = false) (ok : Bool) :
    exec (.flashProgramDone ok) s = .next (flashFault (flashProgramDone s ok) (!ok && programCounts s)) :=
  act_up up fun s => flashFault (flashProgramDone s ok) (!ok && programCounts s)

theorem exec_flashEraseDone {s : State} (up : s.cru.inReset = false) (ok : Bool) :
    exec (.flashEraseDone ok) s = .next (flashFault (flashEraseDone s ok) (!ok && eraseRuns s)) :=
  act_up up fun s => flashFault (flashEraseDone s ok) (!ok && eraseRuns s)

/-! ### HRB_CTRL (R548, R549) -/

theorem regAt_hrbCtrl : ∃ l, regAt 0xD00040 = some l ∧ l.desc.name = .hrb .HRB_CTRL ∧ l.desc.mbx = false ∧ l.addr = 0xD00040 ∧
    l.page.base = 0xD00000 ∧ l.desc.fields =
      [⟨31, 31, .rw, false, 0, 0, 1, .none⟩, ⟨19, 16, .rw, false, 2, 1, 8, .none⟩, ⟨15, 0, .rw, false, 1000, 1, 60000, .none⟩] :=
  ⟨_, rfl, rfl, rfl, rfl, rfl, rfl⟩

/-- The stored fields after a write of HRB_CTRL. -/
def hrbCtrlWritten (s : State) (freeze ahead win : Nat) : State :=
  fset (fset (fset s Fld.HRB_CTRL_FREEZE freeze) Fld.HRB_CTRL_ERAHEAD ahead) Fld.HRB_CTRL_REPWIN win

theorem fget_hrbCtrlWritten_freeze (s : State) (freeze ahead win : Nat) : fget (hrbCtrlWritten s freeze ahead win) Fld.HRB_CTRL_FREEZE = freeze := by
  rw [hrbCtrlWritten, fget_fset_ne _ _ _ _ (by decide), fget_fset_ne _ _ _ _ (by decide), fget_fset]

/-- No block follows values that land in the Herbarium. -/
theorem follow_hrb (o t : State) (w : Staged) (h : 0xD00000 ≤ w.addr ∧ w.addr < 0xE00000) : follow o t (lands [w]) = t := by
  have apart (b : Block) (out : b.base + 0x100000 ≤ 0xD00000 ∨ 0xE00000 ≤ b.base) : lands [w] b = false := by
    simp only [lands, List.any_cons, List.any_nil, Bool.or_false, Bool.and_eq_false_iff, decide_eq_false_iff_not]
    omega
  simp only [follow, apart .sdl (by decide), apart .mac (by decide), apart .svi (by decide), apart .cas (by decide), apart .ltn (by decide),
    apart .blv (by decide), apart .cyc (by decide), Bool.false_eq_true, if_false, Bool.or_self]

theorem meshWrite_hrbCtrl {s : State} {mid freeze : Nat} (may : mayWrite s mid 0xD00040 = true) (unlocked : locked s 0xD00000 = false)
    (unclaimed : claimedBy s 0xD00000 = none) (a1 : 1 ≤ fget s Fld.HRB_CTRL_ERAHEAD) (a8 : fget s Fld.HRB_CTRL_ERAHEAD ≤ 8)
    (w1 : 1 ≤ fget s Fld.HRB_CTRL_REPWIN) (w2 : fget s Fld.HRB_CTRL_REPWIN ≤ 60000) (flag : freeze < 2) :
    meshWrite s mid 0xD00040 (ctrlWord s freeze) = respond (hrbChanged .HRB_CTRL
      (hrbCtrlWritten s freeze (fget s Fld.HRB_CTRL_ERAHEAD) (fget s Fld.HRB_CTRL_REPWIN))) {} := by
  obtain ⟨l, hl, name, mbx, addr, base, fields⟩ := regAt_hrbCtrl
  obtain ⟨small, top, ahead, win⟩ : ctrlWord s freeze % 2 ^ 32 = ctrlWord s freeze ∧ clampTo 0 1 (bits (ctrlWord s freeze) 31 31) = freeze ∧
      clampTo 1 8 (bits (ctrlWord s freeze) 19 16) = fget s Fld.HRB_CTRL_ERAHEAD ∧
      clampTo 1 60000 (bits (ctrlWord s freeze) 15 0) = fget s Fld.HRB_CTRL_REPWIN := by
    unfold ctrlWord bits clampTo
    omega
  have written : l.desc.fields.foldl (fun t f => fset t (refOf l f) (clampTo f.min f.max (bits (ctrlWord s freeze) f.hi f.lo))) s =
      hrbCtrlWritten s freeze (fget s Fld.HRB_CTRL_ERAHEAD) (fget s Fld.HRB_CTRL_REPWIN) := by
    simp only [fields, List.foldl_cons, List.foldl_nil, top, ahead, win, refOf, addr, fieldReset]
    rfl
  rw [meshWrite_plain s mid 0xD00040 _ l hl may (by decide) (by decide) mbx (by simp [name]) addr (by simp [fields]) (by simp [fields])
    (by rw [base]; exact unclaimed) (by rw [base]; exact unlocked) (by simp only [ignores, name]) (by simp [name]),
    follow_hrb _ _ _ ⟨show 0xD00000 ≤ 0xD00040 by decide, show 0xD00040 < 0xE00000 by decide⟩, small, written]
  simp only [changed, hl, name]

theorem hrbChanged_freezes {u : State} (freeze : fget u Fld.HRB_CTRL_FREEZE = 1) : hrbChanged .HRB_CTRL u = { u with hrb := { u.hrb with
    frozen := u.hrb.op.isNone, erasing := u.hrb.erasing.map fun e => (e.1, true) } } := by
  simp only [hrbChanged, fbit, freeze, beq_self_eq_true, if_true]

theorem hrbChanged_thaws {u : State} (freeze : fget u Fld.HRB_CTRL_FREEZE = 0) : hrbChanged .HRB_CTRL u =
    if u.hrb.frozen then hrbPump { u with hrb := hrbErase { u.hrb with frozen := false } } else u := by
  have off : fbit u Fld.HRB_CTRL_FREEZE = false := by rw [fbit, freeze]; rfl
  simp only [hrbChanged, off, Bool.false_eq_true, if_false]

/-! ### The scan (R552) -/

theorem nextSector_congr {a b : Herbarium} (same : a.skipped = b.skipped) (k : Nat) : nextSector a k = nextSector b k := by
  rw [nextSector, same, nextSector]

theorem sectorAhead_congr {a b : Herbarium} (same : a.skipped = b.skipped) (k n : Nat) : sectorAhead a k n = sectorAhead b k n := by
  induction n generalizing k with
  | zero => rfl
  | succ n ih =>
    unfold sectorAhead
    have next : nextSector a k = nextSector b k := nextSector_congr same k
    rw [next]
    exact ih _

/-- What the scan of an erased flash leaves: nothing written, and the first sectors to be erased. -/
def scannedBlank (s : State) : Herbarium :=
  { s.hrb with
    scanning := false, seq := 0, maxErase := 0, openPage := none, selDone := 0, wpage := 0, osector := 0, erased := []
    eraseQ := (List.range (fget s Fld.HRB_CTRL_ERAHEAD)).map (sectorAhead s.hrb 0) }

theorem hrbScan_blank {s : State} (blank : s.hrb.flash = []) : hrbScan s =
    recordExcl { cadd s Fld.HRB_SCANBAD_COUNT 0 with hrb := hrbErase (scannedBlank s) } 4 0x3007 [s.cru.cause, 0x1280B000, 0, 0] := by
  have ahead : fget (cadd s Fld.HRB_SCANBAD_COUNT 0) Fld.HRB_CTRL_ERAHEAD = fget s Fld.HRB_CTRL_ERAHEAD := fget_cadd_ne _ _ _ _ (by decide)
  have order : sectorAhead { (cadd s Fld.HRB_SCANBAD_COUNT 0).hrb with scanning := false, seq := 0, maxErase := 0, openPage := none, selDone := 0 } 0 =
      sectorAhead s.hrb 0 := funext fun n => sectorAhead_congr (by rfl) 0 n
  simp only [hrbScan, blank, usedSectors, List.map_nil, List.eraseDups_nil, List.filter_nil, List.foldl_nil, List.length_nil, Nat.add_zero, ahead, order]
  rfl

/-! ### The mailboxes (R555) -/

section
variable {q : State} {a : Nat}

theorem hrbMbx_read {p n : Nat} (op : (mbxAt q a).op = 1) (wr : (mbxAt q a).wr = false) (arg : (mbxAt q a).arg % 8 = p)
    (hn : n = if p = 5 then 16 else 48) : hrbMbx .HRB_READ a q = if p ≤ 5 then
      mbxAnswer q a 0 (wordsOfBytes (n / 4) (flashRead q.hrb.flash (fget q Fld.HRB_RDADDR_PAGE * 256 + 48 * p) n)) else mbxEnd q a 0xFF := by
  have asked : ((mbxAt q a).wr || (mbxAt q a).op != 1) = false := by rw [wr, op]; rfl
  simp only [hrbMbx, asked, arg, Bool.false_eq_true, if_false, ← hn]
  by_cases h : p ≤ 5
  · rw [if_pos h, if_neg (Nat.not_lt.2 h)]
  · rw [if_neg h, if_pos (Nat.not_le.1 h)]

theorem hrbMbx_snapRead (op : (mbxAt q a).op = 4) (wr : (mbxAt q a).wr = false) : hrbMbx .HRB_SNAP a q =
    mbxAnswer q a 0 (snapWords (tat q.hrb.sels ((mbxAt q a).arg % 16) {}) (bits (mbxAt q a).arg 5 4)) := by
  simp only [hrbMbx, op, wr]

/-- A part of a selection is written by the operation of its number, from 1 on. -/
theorem hrbMbx_snapSet {part : Nat} (small : part < 3) (op : (mbxAt q a).op = part + 1) (wr : (mbxAt q a).wr = true) :
    hrbMbx .HRB_SNAP a q = snapSet q a ((mbxAt q a).arg % 16) part := by
  have parts : part = 0 ∨ part = 1 ∨ part = 2 := by omega
  rcases parts with rfl | rfl | rfl <;> simp only [hrbMbx, op, wr]

theorem hrbMbx_log (op : (mbxAt q a).op = 1) (wr : (mbxAt q a).wr = true) : hrbMbx .HRB_LOG a q =
    if (mbxAt q a).arg % 4096 / 256 < 14 then mbxEnd q a 2
    else
      let x := acceptEvent q ((mbxAt q a).arg % 4096) (mbxAt q a).mid
        [(mbxAt q a).w 0, (mbxAt q a).w 1, (mbxAt q a).w 2, (mbxAt q a).w 3, (mbxAt q a).w 4, (mbxAt q a).w 5] false none
      mbxEnd x.1 a (if x.2 then 0 else 1) := by
  have asked : (!(mbxAt q a).wr || (mbxAt q a).op != 1) = false := by rw [wr, op]; rfl
  simp only [hrbMbx, asked, Bool.false_eq_true, if_false]

end

/-- A part that is refused leaves the selection as it is. -/
theorem snapWrite_refused {sel x : SnapSel} {part code : Nat} {w : Nat → Nat} (h : snapWrite sel part w = (x, code)) (refused : code ≠ 0) : x = sel := by
  unfold snapWrite at h
  dsimp only at h
  split at h
  · split at h <;> (rw [Prod.mk.injEq] at h; exact absurd h.2.symm refused)
  · split at h
    · exact (Prod.mk.inj h).1.symm
    next n offs _ =>
      by_cases bad : offs.length ≠ (if part = 1 then 11 else 23) ∨ partsOf n ≤ part
      · rw [if_pos bad] at h
        exact (Prod.mk.inj h).1.symm
      · rw [if_neg bad] at h
        split at h <;> (rw [Prod.mk.injEq] at h; exact absurd h.2.symm refused)

/-- A selection of at most 11 offsets is whole with its first part. -/
theorem snapWrite_whole (sel : SnapSel) {w : Nat → Nat} {n : Nat} (hn : n = min (w 0 % 32) 30) (few : n ≤ 11) : snapWrite sel 0 w =
    ({ offs := ((List.range 11).map fun i => w (i + 1) / 4 * 4).take n, ver := (sel.ver + 1) % 65536, draft := none }, 0) := by
  subst hn
  have one : partsOf (min (w 0 % 32) 30) = 1 := if_pos few
  simp only [snapWrite, one, if_true]

section
variable {q : State} {a k part code : Nat} {x : SnapSel} (out : snapWrite (tat q.hrb.sels k {}) part (mbxAt q a).w = (x, code))
include out

theorem snapSet_refused (refused : code ≠ 0) : snapSet q a k part = mbxEnd q a code := by
  have same := snapWrite_refused out refused
  simp only [snapSet, out, refused, same, if_true, if_false]

theorem snapSet_done (done : code = 0) : snapSet q a k part = mbxEnd { q with hrb := { q.hrb with
    sels := tset (q.hrb.sels.map fun e => (e.1, { e.2 with draft := if e.1 = k then e.2.draft else none })) k x
    selDone := if x.ver = (tat q.hrb.sels k {}).ver then q.hrb.selDone else clrBit q.hrb.selDone k } } a 0 := by
  subst done
  simp only [snapSet, out, if_true]

end

/-- Settles O57: acceptance, the close of the open record, each ending of the flash, the freeze, the scan of an erased flash and the mailboxes. That an
event behind a LOSS counts as lost with one free entry is log 15, a count over 30 taken as 30 is log 17, and the program of VALID with the closing of
the records of one clock is log 106. -/
theorem eventRecords : Obligations.EventRecords := by
  intro s up
  refine ⟨fun type src args t as ht has => ?_, fun some_ due => ?_, fun p r v hv => ⟨fun op => ?_, fun op ok u w x y hu hw hx hy => ?_, fun op y hy => ?_,
    fun k n runs hn => ?_, fun k ok waits => ?_⟩, fun mid may unlocked unclaimed a1 a8 w1 w2 w hw => ?_, fun scanning => ?_,
    fun mid part n free hn => ?_, fun mid arg d k sel w free few hk hsel hw => ?_, fun mid arg d t w q free few ht hw hq => ?_⟩
  · subst ht has
    rw [exec_herbariumEvent up]
    generalize type.toNat % 4096 = t
    generalize args.map (·.toNat) = as
    refine ⟨fun off => ?_, fun on merges same => ?_, fun on new => ⟨fun full => ?_, fun room k pre hk hpre => ?_⟩⟩
    · rw [acceptEvent_off off]
    · rw [merges, acceptEvent_repeat on same]
    · rw [acceptEvent_new on new, if_pos full]
    · have before : pre = lossBefore s := by
        rw [hpre, lossBefore]
        cases s.hrb.loss <;> rfl
      rw [acceptEvent_new on new, if_neg (Nat.not_lt.2 room), before, hk]
      refine ⟨fun last => ?_, fun later => ?_⟩
      · rw [stageRec_last last]
        rfl
      · rw [stageRec_before later]
        rfl
  · exact (act_up up recordClose).trans (congrArg _ (recordClose_due some_ due))
  · have counts : programCounts s = true := by rw [programCounts, op]
    rw [exec_flashProgramDone up, exec_flashProgramDone up, counts]
    refine ⟨?_, fun sector => ?_, fun w other hw => ?_⟩
    · rw [flashProgramDone_body op]
      rfl
    · rw [flashProgramDone_sectorFails op sector, hv]
      rfl
    · rw [flashProgramDone_recordFails op other (hw.trans (by rw [hv]; rfl))]
      rfl
  · have counts : programCounts s = false := by rw [programCounts, op]
    rw [exec_flashProgramDone up, counts, flashProgramDone_valid op]
    subst hy hx hw hu
    rw [Bool.and_false]
    rfl
  · have counts : programCounts s = true := by rw [programCounts, op]
    rw [exec_flashProgramDone up, exec_flashProgramDone up, counts, flashProgramDone_rep op, flashProgramDone_repFails op, hy, hv]
    exact ⟨rfl, rfl⟩
  · have runs_ : eraseRuns s = true := by rw [eraseRuns, runs]
    rw [exec_flashEraseDone up, exec_flashEraseDone up, runs_, flashEraseDone_ends runs, flashEraseDone_fails runs, hn]
    refine ⟨rfl, fun e he => ?_⟩
    rw [he]
    rfl
  · have still : eraseRuns s = false := by rw [eraseRuns, waits]
    rw [exec_flashEraseDone up, flashEraseDone_suspended waits, still, Bool.and_false]
    rfl
  · have writes (v : Nat) : w v = hrbCtrlWritten s v (fget s Fld.HRB_CTRL_ERAHEAD) (fget s Fld.HRB_CTRL_REPWIN) := by rw [hw]; rfl
    have freezes : exec (.hrbFreeze mid) s = act s fun s => meshWrite s mid.toNat 0xD00040 (ctrlWord s 1) := rfl
    have thaws : exec (.hrbUnfreeze mid) s = act s fun s => meshWrite s mid.toNat 0xD00040 (ctrlWord s 0) := rfl
    rw [freezes, thaws, act_up up, act_up up, meshWrite_hrbCtrl may unlocked unclaimed a1 a8 w1 w2 (by decide),
      meshWrite_hrbCtrl may unlocked unclaimed a1 a8 w1 w2 (by decide), ← writes, ← writes]
    have set_ : fget (w 1) Fld.HRB_CTRL_FREEZE = 1 := by rw [writes, fget_hrbCtrlWritten_freeze]
    have clear : fget (w 0) Fld.HRB_CTRL_FREEZE = 0 := by rw [writes, fget_hrbCtrlWritten_freeze]
    have hrb (v : Nat) : (w v).hrb = s.hrb := by rw [writes]; rfl
    rw [hrbChanged_freezes set_, hrbChanged_thaws clear, hrb, hrb]
    exact ⟨rfl, rfl⟩
  · have e : exec .herbariumScan s = act s fun s => if s.hrb.scanning then hrbScan s else s := rfl
    rw [e, act_up up, if_pos scanning]
    refine ⟨rfl, fun blank h hh => ?_⟩
    rw [hrbScan_blank blank, hh]
    rfl
  · have e : exec (.hrbRead mid part) s = act s fun s => mbxRequest s mid.toNat 0xD00080 1 false part.val [] := rfl
    have arg : (mbxAt (asks s mid.toNat 0xD00080 1 false part.val []) 0xD00080).arg % 8 = part.val := by
      rw [asks_arg]
      omega
    rw [e, act_up up, request_hrbRead s mid.toNat 1 part.val false [] free (by decide), written_nil, hrbMbx_read (asks_op ..) (asks_wr ..) arg hn]
    split <;> rfl
  · refine ⟨?_, fun part c x code q hc out hq => ?_, fun n hn small => snapWrite_whole sel hn small⟩
    · have e : exec (.hrbSnapRead mid arg) s = act s fun s => mbxRequest s mid.toNat 0xD000C0 4 false arg.toNat [] := rfl
      have word : arg.toNat % 2 ^ 16 = arg.toNat := Nat.mod_eq_of_lt arg.isLt
      rw [e, act_up up, request_hrbSnap s mid.toNat 4 arg.toNat false [] free (by decide), written_nil, hrbMbx_snapRead (asks_op ..) (asks_wr ..),
        asks_arg, word, hsel, hk]
      rfl
    · obtain ⟨small, run⟩ : part < 3 ∧ exec c s = act s fun s => mbxRequest s mid.toNat 0xD000C0 (part + 1) true arg.toNat d := by
        simp only [List.mem_cons, List.not_mem_nil, or_false, Prod.mk.injEq] at hc
        rcases hc with ⟨rfl, rfl⟩ | ⟨rfl, rfl⟩ | ⟨rfl, rfl⟩ <;> exact ⟨by decide, rfl⟩
      have word : arg.toNat % 2 ^ 16 = arg.toNat := Nat.mod_eq_of_lt arg.isLt
      have hrb : q.hrb = s.hrb := by rw [hq, asks_hrb, written_hrb]
      have ask : (mbxAt q 0xD000C0).op = part + 1 ∧ (mbxAt q 0xD000C0).wr = true ∧ (mbxAt q 0xD000C0).arg % 16 = k := by
        rw [hq, asks_op, asks_wr, asks_arg, word, hk]
        exact ⟨rfl, rfl, rfl⟩
      obtain ⟨op, wr, class_⟩ := ask
      have data : (mbxAt q 0xD000C0).w = w := by
        rw [hw, hq]
        exact funext fun i => asks_word _ _ _ _ _ _ _ few i
      have written : snapWrite (tat q.hrb.sels k {}) part (mbxAt q 0xD000C0).w = (x, code) := by rw [data, hrb, ← hsel]; exact out
      rw [run, act_up up, request_hrbSnap s mid.toNat _ _ true d free (by omega), ← hq, hrbMbx_snapSet small op wr, class_]
      refine ⟨fun refused => ?_, fun done => ?_⟩
      · rw [snapSet_refused written refused]
        rfl
      · rw [snapSet_done written done, hrb, hsel]
        rfl
  · have e : exec (.hrbLog mid arg d) s = act s fun s => mbxRequest s mid.toNat 0xD00100 1 true arg.toNat d := rfl
    have word : arg.toNat % 2 ^ 16 = arg.toNat := Nat.mod_eq_of_lt arg.isLt
    have ask : (mbxAt q 0xD00100).op = 1 ∧ (mbxAt q 0xD00100).wr = true ∧ (mbxAt q 0xD00100).arg % 4096 = t ∧ (mbxAt q 0xD00100).mid = mid.toNat := by
      rw [hq, asks_op, asks_wr, asks_arg, asks_mid, word, ht]
      exact ⟨rfl, rfl, rfl, rfl⟩
    obtain ⟨op, wr, type, mid_⟩ := ask
    have data : (mbxAt q 0xD00100).w = w := by
      rw [hw, hq]
      exact funext fun i => asks_word _ _ _ _ _ _ _ few i
    rw [e, act_up up, request_hrbLog s mid.toNat 1 _ true d free (by decide), ← hq, hrbMbx_log op wr, type, mid_, data]
    refine ⟨fun low => ?_, fun u ok high out => ?_⟩
    · rw [if_pos low]
      rfl
    · rw [if_neg (Nat.not_lt.2 high), out]
      rfl

end Sys2Proof.Machine
end

section
/-! Proofs of the family 17_gatehouse_keys.md: the root, the key slots, the fuses, the tags and the debug unlock. -/

namespace Sys2Proof.Machine

/-! ### What depends on the keys alone (R571, R572, R587) -/

section
variable {a b : State} (same : a.gth = b.gth)
include same

theorem slotDepth_congr (n k : Nat) : slotDepth a n k = slotDepth b n k := by
  induction n generalizing k with
  | zero => rfl
  | succ n ih => simp only [slotDepth, same, ih]

theorem keyValue_congr (n k : Nat) : keyValue a n k = keyValue b n k := by
  induction n generalizing k with
  | zero => rfl
  | succ n ih => simp only [keyValue, same, ih, slotDepth_congr same]

theorem ancestorsValid_congr (n k : Nat) : ancestorsValid a n k = ancestorsValid b n k := by
  induction n generalizing k with
  | zero => rfl
  | succ n ih => simp only [ancestorsValid, slotValid, same, ih]

theorem slotState_congr (k : Nat) : slotState a k = slotState b k := by simp only [slotState, same]

theorem keyCheck_congr (k : Nat) : keyCheck a k = keyCheck b k := by
  simp only [keyCheck, same, ancestorsValid_congr same, keyValue_congr same]

theorem descendants_congr (k : Nat) : descendants a k = descendants b k := by
  have under (n j : Nat) : descendants.under a k n j = descendants.under b k n j := by
    induction n generalizing j with
    | zero => rfl
    | succ n ih => simp only [descendants.under, same, ih]
  simp only [descendants, same, under]

end

/-! ### The root secret (R557–R559) -/

theorem rootBirth_fails {s : State} {b n : Nat} (birth : s.gth.birth = some (b, n)) (err : s.gth.entErr = true) :
    rootBirth s = { s with gth := { s.gth with birth := if n < 3 then some (b, n + 1) else none } } := by
  simp only [rootBirth, birth, err, if_true]

theorem rootBirth_completes {s u : State} {b n : Nat} (birth : s.gth.birth = some (b, n)) (healthy : s.gth.entErr = false)
    (hu : u = setBank (drew s) b (.born (drawn 256 s) true)) :
    rootBirth s = gthRecord { u with gth := { u.gth with rootSt := 1, root := drawn 256 s, birth := none } } 0x0401 [b] := by
  simp only [rootBirth, birth, healthy, hu, Bool.false_eq_true, if_false]

/-! ### Requests of GTH_KEY (R584, R586, R587) -/

/-- From `s`, a request of GTH_KEY stands in its mailbox: `q`. -/
structure KeyAsked (s q : State) (op arg mid : Nat) (wr : Bool) (w : Nat → Nat) : Prop where
  number : (mbxAt q gthKeyMbx).op = op
  write : (mbxAt q gthKeyMbx).wr = wr
  operand : (mbxAt q gthKeyMbx).arg = arg
  master : (mbxAt q gthKeyMbx).mid = mid
  word : ∀ i, (mbxAt q gthKeyMbx).w i = w i
  gth : q.gth = s.gth
  grt : q.grt = s.grt
  field : ∀ f, fget q f = fget s f
  shadow : q.reg.shadow = s.reg.shadow

theorem keyAsked_asks (s : State) (mid op : Nat) (wr : Bool) (arg : BitVec 16) {d : List Word} (few : d.length ≤ 12) :
    KeyAsked s (asks (written s d) mid gthKeyMbx op wr arg.toNat d) op arg.toNat mid wr (Machine.word s gthKeyMbx d) where
  number := asks_op ..
  write := asks_wr ..
  operand := (asks_arg ..).trans (Nat.mod_eq_of_lt arg.isLt)
  master := asks_mid ..
  word := asks_word _ _ _ _ _ _ _ few
  gth := (asks_gth ..).trans (written_gth ..)
  grt := (asks_grt ..).trans (written_grt ..)
  field f := (fget_asks ..).trans (fget_written ..)
  shadow := by unfold written; split <;> rfl

theorem exec_gthKey {s : State} {c : Instr} {mid op arg : Nat} {wr : Bool} {d : List Word}
    (e : exec c s = act s fun s => mbxRequest s mid gthKeyMbx op wr arg d) (free : Free s mid gthKeyMbx) (small : op < 256) :
    exec c s = .next (respond (gthKeyReq (asks (written s d) mid gthKeyMbx op wr arg d)) {}) := by
  rw [e, act_up free.1, gthKeyMbx, request_gthKey s mid op arg wr d free small]
  rfl

/-- What a request of GTH_KEY does once it is admitted (R587). -/
def keyEffect (q : State) (k part op : Nat) : State :=
  match op with
  | 1 => keyWrite q k
  | 2 => keyRead q k part
  | 3 => keyRevoke q k
  | 4 => keyErase q k
  | 5 => keyLifecycle q
  | 6 => keyMetroload q k
  | 7 => keyFusekey q
  | 8 => keyFuserev q
  | _ => keyBootver q

section
variable {s q : State} {op arg mid : Nat} {wr : Bool} {w : Nat → Nat} (asked : KeyAsked s q op arg mid wr w)
include asked

theorem KeyAsked.up : gthUp q = gthUp s := by simp only [gthUp, enabled, fbit, asked.field, asked.gth]

theorem KeyAsked.tampered (n : Nat) : Machine.tampered q n = Machine.tampered s n := by simp only [Machine.tampered, asked.field, asked.grt]

theorem KeyAsked.metro : metroOpen q = metroOpen s := by simp only [metroOpen, asked.shadow]

/-- The tests before every request: the page and the load, then TAMPACT for a write (R584, R586). -/
theorem gthKeyReq_eq (low : 1 ≤ op) (high : op ≤ 9) (kind : wr = (op != 2)) : gthKeyReq q =
    if gthUp s = false then mbxEnd q gthKeyMbx 0x0A
    else if wr = true ∧ Machine.tampered s 1 = true then mbxEnd q gthKeyMbx 5
    else keyEffect q (arg % 4096) (arg / 2 ^ 14) op := by
  have valid : ¬ (op = 0 ∨ 9 < op ∨ wr = (op == 2)) := by
    rw [kind]
    cases h : op == 2 <;> simp [bne, h] <;> omega
  simp only [gthKeyReq, asked.number, asked.write, asked.operand, valid, asked.up, asked.tampered, if_false, Bool.not_eq_true', Bool.and_eq_true]
  rfl

/-! ### WRITE (R560, R563, R566) -/

theorem keyWrite_rootless {k : Nat} (root : s.gth.rootSt ≠ 1) : keyWrite q k = mbxEnd q gthKeyMbx 9 := by
  simp only [keyWrite, asked.gth, root, ne_eq, not_false_eq_true, if_true]

theorem keyWrite_dead {k : Nat} (root : s.gth.rootSt = 1) (dead : s.gth.lc = 3) : keyWrite q k = mbxEnd q gthKeyMbx 5 := by
  simp only [keyWrite, asked.gth, root, dead, ne_eq, not_true_eq_false, if_true, if_false]

theorem keyWrite_sealed {k : Nat} (root : s.gth.rootSt = 1) (alive : s.gth.lc ≠ 3) (metro : k = 4095) (closed : metroOpen s = false) :
    keyWrite q k = mbxEnd q gthKeyMbx 0x0E := by
  simp only [keyWrite, asked.gth, asked.metro, root, alive, metro, closed, ne_eq, not_true_eq_false, if_true, if_false, Bool.not_false, and_self]

/-- The buffer of a WRITE that the slot admits is read, and describes the slot or gives a CODE. -/
theorem keyWrite_reads {k : Nat} (root : s.gth.rootSt = 1) (alive : s.gth.lc ≠ 3) (slot : k ≠ 4095 ∨ metroOpen s = true) {v : State}
    {r : Option (List Nat)} (read : physRead q 0x5000 (w 0 + 2 ^ 32 * w 1) 256 = (v, r)) :
    keyWrite q k = r.elim (mbxEnd v gthKeyMbx 0x12) fun bs => (slotOfBuffer k bs).elim (mbxEnd v gthKeyMbx) fun x => keyWriteTake v k x bs := by
  have open_ : ¬ (k = 4095 ∧ (!metroOpen s) = true) := by
    rcases slot with h | h
    · exact fun c => h c.1
    · rw [h]; exact fun c => Bool.false_ne_true c.2
  have at_ : physRead q gthMid ((mbxAt q gthKeyMbx).w2 0) 256 = (v, r) := by rw [Mbx.w2, asked.word, asked.word]; exact read
  simp only [keyWrite, asked.gth, asked.metro, root, alive, open_, at_, ne_eq, not_true_eq_false, if_false]
  cases r with
  | none => rfl
  | some bs => cases h : slotOfBuffer k bs <;> simp only [onOpt, h, Option.elim, Sum.elim]

omit asked in
theorem keyWriteTake_derived {k : Nat} {x : KeySlot} {bs : List Nat} (derived : x.type = 2) :
    keyWriteTake q k x bs = if depthRefused q k x then mbxEnd q gthKeyMbx 6 else startUpdate q k (some x) 1 0 := by
  simp only [keyWriteTake, derived, if_true]

omit asked in
theorem keyWriteTake_public {k : Nat} {x : KeySlot} {bs : List Nat} (public_ : x.type = 3) :
    keyWriteTake q k x bs = startUpdate q k (some x) 1 0 := by
  have other : ¬ (3 = 2) := by decide
  simp only [keyWriteTake, public_, other, if_true, if_false]

theorem keyWriteTake_plain {k : Nat} {x : KeySlot} {bs : List Nat} (stored : x.type = 1) (mode : w 2 % 4 = 0) : keyWriteTake q k x bs =
    if 2 ≤ s.gth.lc then mbxEnd q gthKeyMbx 5 else startUpdate q k (some { x with key := (bs.drop 0x60).take (algBits x.alg / 8) }) 1 0 := by
  have other : ¬ (1 = 2) ∧ ¬ (1 = 3) := by decide
  have zero : min 0 2 = 0 := rfl
  simp only [keyWriteTake, stored, other, asked.word, mode, zero, asked.gth, if_false]

theorem keyWriteTake_generated {k : Nat} {x : KeySlot} {bs : List Nat} (stored : x.type = 1) (mode : 2 ≤ w 2 % 4) : keyWriteTake q k x bs =
    if s.gth.entErr then mbxEnd q gthKeyMbx 0x0D
    else startUpdate (drew q) k (some { x with key := leBytes (algBits x.alg / 8) (drawn (8 * (algBits x.alg / 8)) q) }) 1 0 := by
  have other : ¬ (1 = 2) ∧ ¬ (1 = 3) := by decide
  have two : min (w 2 % 4) 2 = 2 := Nat.min_eq_right mode
  simp only [keyWriteTake, stored, other, asked.word, two, asked.gth, if_false]

/-! ### LIFECYCLE (R561, R562) -/

/-- A step of the lifecycle to `t` is refused. -/
def lcRefused (s : State) (t : Nat) : Bool :=
  !(t == 3 || (t == s.gth.lc + 1 && decide (t ≤ 2))) || (t == 1 && !((List.range 4).any fun r => (tget s.gth.rows r).isSome && !bit s.gth.rev r)) ||
    decide (3 ≤ s.gth.lc)

omit asked in
theorem lcRefused_iff (s : State) (t : Nat) : lcRefused s t = true ↔ 3 ≤ s.gth.lc ∨ t ≠ 3 ∧ (t ≠ s.gth.lc + 1 ∨ 2 < t) ∨
    t = 1 ∧ (∀ r < 4, tget s.gth.rows r ≠ none → bit s.gth.rev r = true) := by
  have rows : ((List.range 4).any fun r => (tget s.gth.rows r).isSome && !bit s.gth.rev r) = false ↔
      ∀ r < 4, tget s.gth.rows r ≠ none → bit s.gth.rev r = true := by
    simp only [List.any_eq_false, List.mem_range, Bool.and_eq_true, Bool.not_eq_true', Option.isSome_iff_ne_none, not_and, Bool.not_eq_false]
  simp only [lcRefused, Bool.or_eq_true, Bool.and_eq_true, Bool.not_eq_true', rows, decide_eq_true_eq, beq_iff_eq, Bool.or_eq_false_iff,
    Bool.and_eq_false_iff, decide_eq_false_iff_not, beq_eq_false_iff_ne, Nat.not_le, ne_eq]
  tauto

theorem keyLifecycle_unkeyed (key : w 1 ≠ 0x4C435931) : keyLifecycle q = mbxEnd q gthKeyMbx 0x0F := by
  simp only [keyLifecycle, asked.word, key, ne_eq, not_false_eq_true, if_true]

theorem keyLifecycle_refused (key : w 1 = 0x4C435931) (refused : lcRefused s (w 0 % 4) = true) : keyLifecycle q = mbxEnd q gthKeyMbx 5 := by
  rw [lcRefused] at refused
  simp only [keyLifecycle, asked.word, asked.gth, key, refused, ne_eq, not_true_eq_false, if_true, if_false]

theorem keyLifecycle_steps (key : w 1 = 0x4C435931) (admitted : lcRefused s (w 0 % 4) = false) (alive : w 0 % 4 ≠ 3) : keyLifecycle q =
    mbxEnd (gthRecord { q with gth := { s.gth with lc := w 0 % 4 } } 0x0404 [s.gth.lc, w 0 % 4, mid]) gthKeyMbx 0 := by
  rw [lcRefused] at admitted
  simp only [keyLifecycle, asked.word, asked.master, asked.gth, key, admitted, alive, ne_eq, not_true_eq_false, Bool.false_eq_true, if_false]

theorem keyLifecycle_dies (key : w 1 = 0x4C435931) (admitted : lcRefused s (w 0 % 4) = false) (dies : w 0 % 4 = 3) : keyLifecycle q =
    mbxEnd (gthRecord { q with gth := { s.gth with
      lc := 3, bank0 := .partly, bank1 := .partly, rootSt := 3, root := 0, birth := none, slots := [], bad := [], cache := [] } }
      0x0404 [s.gth.lc, 3, mid]) gthKeyMbx 0 := by
  rw [lcRefused] at admitted
  rw [dies] at admitted
  simp only [keyLifecycle, asked.word, asked.master, asked.gth, key, dies, admitted, ne_eq, not_true_eq_false, Bool.false_eq_true, if_false, if_true]

/-! ### FUSEKEY, FUSEREV and BOOTVER (R582) -/

theorem keyFusekey_late (late : 2 ≤ s.gth.lc) : keyFusekey q = mbxEnd q gthKeyMbx 5 := by
  simp only [keyFusekey, asked.gth, late, if_true]

theorem keyFusekey_noRow (early : s.gth.lc < 2) (row : 4 < w 0 % 8) : keyFusekey q = mbxEnd q gthKeyMbx 0x0F := by
  simp only [keyFusekey, asked.gth, asked.word, Nat.not_le.2 early, row, if_true, if_false]

theorem keyFusekey_programmed (early : s.gth.lc < 2) (row : w 0 % 8 ≤ 4) (full : tget s.gth.rows (w 0 % 8) ≠ none) :
    keyFusekey q = mbxEnd q gthKeyMbx 0x11 := by
  simp only [keyFusekey, asked.gth, asked.word, Nat.not_le.2 early, Nat.not_lt.2 row, Option.isSome_iff_ne_none.2 full, if_true, if_false]

theorem keyFusekey_programs (early : s.gth.lc < 2) (row : w 0 % 8 ≤ 4) (free : tget s.gth.rows (w 0 % 8) = none) {v : State} {bs : List Nat}
    (read : physRead q 0x5000 (w 1 + 2 ^ 32 * w 2) 48 = (v, some bs)) : keyFusekey q =
      mbxEnd (gthRecord { v with gth := { v.gth with rows := tset v.gth.rows (w 0 % 8) bs } } 0x040B [w 0 % 8, 0, 0]) gthKeyMbx 0 := by
  have at_ : physRead q gthMid ((mbxAt q gthKeyMbx).w2 1) 48 = (v, some bs) := by rw [Mbx.w2, asked.word, asked.word]; exact read
  simp only [keyFusekey, asked.gth, asked.word, Nat.not_le.2 early, Nat.not_lt.2 row, free, at_, onOpt, Option.isSome_none, Bool.false_eq_true,
    if_false]

theorem keyFuserev_apart (apart : s.gth.lc = 0 ∨ s.gth.lc = 3) : keyFuserev q = mbxEnd q gthKeyMbx 5 := by
  simp only [keyFuserev, asked.gth, apart, if_true]

theorem keyFuserev_revokes (fused : s.gth.lc = 1 ∨ s.gth.lc = 2) : keyFuserev q = if 4 < w 0 % 8 then mbxEnd q gthKeyMbx 0x0F
    else mbxEnd (gthRecord { q with gth := { s.gth with rev := setBit s.gth.rev (w 0 % 8) } } 0x040B [w 0 % 8, 1, 0]) gthKeyMbx 0 := by
  have apart : ¬ (s.gth.lc = 0 ∨ s.gth.lc = 3) := by omega
  simp only [keyFuserev, asked.gth, asked.word, apart, if_false]

theorem keyBootver_apart (apart : s.gth.lc = 0 ∨ s.gth.lc = 3) : keyBootver q = mbxEnd q gthKeyMbx 5 := by
  simp only [keyBootver, asked.gth, apart, if_true]

theorem keyBootver_counts (fused : s.gth.lc = 1 ∨ s.gth.lc = 2) {n : Nat} (hn : n = min (w 0 % 128) 64) : keyBootver q =
    if n ≤ s.gth.bootver then mbxEnd q gthKeyMbx 0x11
    else mbxEnd (gthRecord { q with gth := { s.gth with bootver := n } } 0x040B [0, 2, n]) gthKeyMbx 0 := by
  have apart : ¬ (s.gth.lc = 0 ∨ s.gth.lc = 3) := by omega
  simp only [keyBootver, asked.gth, asked.word, apart, ← hn, if_false]

/-! ### READ, REVOKE, ERASE and METROLOAD (R574, R575, R580, R587) -/

/-- The words of a READ of a slot (R587). -/
def slotWords (s : State) (k : Nat) (x : KeySlot) : List Word :=
  [slotState s k * 2 ^ 30 + x.type * 2 ^ 16 + x.alg * 2 ^ 8 + x.uses % 64, x.ver, x.mids.getD 1 0 * 2 ^ 16 + x.mids.getD 0 0,
    x.mids.getD 3 0 * 2 ^ 16 + x.mids.getD 2 0, x.pavHi * 2 ^ 16 + x.pavLo, (if x.type = 2 then slotDepth s 8 k else 0) * 2 ^ 16 + x.parent % 4096,
    keyCheck s k].map w32

/-- What a READ finds in a slot. -/
def slotRead (s : State) (k : Nat) : KeySlot := (tget s.gth.slots k).getD { type := 0, alg := 0, pavLo := 0, pavHi := 0 }

theorem keyRead_slot (k : Nat) : keyRead q k 0 = mbxAnswer q gthKeyMbx 0 (slotWords s k (slotRead s k)) := by
  simp only [keyRead, slotWords, slotRead, asked.gth, slotState_congr asked.gth, slotDepth_congr asked.gth, keyCheck_congr asked.gth]
  rfl

theorem keyRead_public {k part : Nat} (parts : part = 1 ∨ part = 2) (public_ : (slotRead s k).type = 3) : keyRead q k part =
    mbxAnswer q gthKeyMbx 0 (gthWords (if part = 1 then (slotRead s k).key.take 48 else (slotRead s k).key.drop 48)) := by
  rw [slotRead] at public_
  rcases parts with rfl | rfl <;> simp only [keyRead, asked.gth, public_, slotRead, if_true]

section
variable {k : Nat} (root : s.gth.rootSt = 1) (alive : s.gth.lc ≠ 3) (slot : k ≠ 4095 ∨ metroOpen s = true)
include root alive slot

theorem keyRevoke_admitted : keyRevoke q k =
    if s.gth.bad.contains k then mbxEnd q gthKeyMbx 3
    else (tget s.gth.slots k).elim (mbxEnd q gthKeyMbx 4) fun x =>
      startUpdate (purgeCache { q with gth := { s.gth with slots := tset s.gth.slots k { x with revoked := true } } } k) k
        (some { x with revoked := true }) 3 (descendants s k).length := by
  have open_ : ¬ (k = 4095 ∧ (!metroOpen s) = true) := by
    rcases slot with h | h
    · exact fun c => h c.1
    · rw [h]; exact fun c => Bool.false_ne_true c.2
  simp only [keyRevoke, asked.gth, asked.metro, root, alive, open_, ne_eq, not_true_eq_false, if_false, descendants_congr asked.gth]
  cases tget s.gth.slots k <;> rfl

theorem keyErase_admitted : keyErase q k = if slotState s k = 0 then mbxEnd q gthKeyMbx 4 else startUpdate q k none 4 0 := by
  have open_ : ¬ (k = 4095 ∧ (!metroOpen s) = true) := by
    rcases slot with h | h
    · exact fun c => h c.1
    · rw [h]; exact fun c => Bool.false_ne_true c.2
  simp only [keyErase, asked.gth, asked.metro, root, alive, open_, ne_eq, not_true_eq_false, if_false, slotState_congr asked.gth]

end

omit asked in
theorem keyMetroload_other {k : Nat} (other : k ≠ 4095) : keyMetroload q k = mbxEnd q gthKeyMbx 0x0F := by
  simp only [keyMetroload, other, ne_eq, not_false_eq_true, if_true]

/-- The VERSION of slot 4095. -/
def metroVersion (s : State) : Nat := (tget s.gth.slots 4095).elim 0 fun x => x.ver

theorem keyMetroload_loads {u v o : State} {key : List Nat} (used : useKey q 4095 4 mid none = (u, 0, key))
    (free : (mbxAt u ornReqMbx).busy = false) (ho : o = ornMbx .ORN_REQ ornReqMbx (setMbx u ornReqMbx { mbxAt u ornReqMbx with
      arg := 0, op := 0x0A, wr := true, busy := true, valid := false, mid := gthMid, d := gthWords key }))
    (hv : v = setMbx o ornReqMbx { mbxAt o ornReqMbx with d := [] }) : keyMetroload q 4095 =
      mbxAnswer (gthRecord v 0x0409 [(mbxAt v ornReqMbx).code, metroVersion v]) gthKeyMbx (if (mbxAt v ornReqMbx).code = 0 then 0 else 0x10)
        [w32 (mbxAt v ornReqMbx).code] := by
  simp only [keyMetroload, asked.master, used, onKey, free, ← ho, ← hv, ne_eq, not_true_eq_false, if_false, Bool.false_eq_true]
  rw [metroVersion]
  cases tget v.gth.slots 4095 <;> rfl

end

/-! ### The key store (R566, R567, R569) -/

/-- The contents of an update take effect in key memory. -/
def updated (v : State) (u : KeyUpdate) : State :=
  { v with gth := { v.gth with
      bad := v.gth.bad.filter (fun k => k != u.slot)
      slots := u.next.elim (tdel v.gth.slots u.slot) fun x => tset v.gth.slots u.slot x } }

theorem keyStoreValid_last {s v : State} {u : KeyUpdate} (update : s.gth.update = some u) (last : u.again = false)
    (one : u.copy = 0 ∨ s.gth.bad.contains u.slot = false) (hv : v = purgeCache { s with
      dbg := { s.dbg with flash := flashProgram s.dbg.flash (copyAt s u.slot u.copy + 0xFC) (leBytes 4 0x5A5AA5A5) }
      gth := { s.gth with update := none } } u.slot) : keyStoreValid s = mbxEndIfBusy (match u.op, u.next with
        | 0x01, some x => gthRecord (updated v u) 0x0408 [u.slot, u.ver, x.type * 256 + x.alg]
        | 0x03, _ => gthRecord (updated v u) 0x0407 [u.slot, u.purged, u.ver]
        | _, _ => updated v u) 0xE00080 0 := by
  subst hv
  have takes : (false || decide (u.copy = 0) || !s.gth.bad.contains u.slot) = true := by
    rcases one with h | h
    · rw [decide_eq_true h]; rfl
    · rw [h, Bool.not_false, Bool.or_true]
  simp only [keyStoreValid, update, last, takes, if_true, Bool.false_eq_true, if_false, updated]
  cases u.next <;> rfl

theorem keyStoreLoad_loads {s u : State} (loading : s.gth.loading = true)
    (hu : u = { s with gth := { s.gth with slots := [], bad := [], cache := [], loading := false } }) :
    keyStoreLoad s = if s.gth.rootSt = 1 then (storedSlots u).foldl loadSlot u else u := by
  subst hu
  simp only [keyStoreLoad, loading, Bool.not_true, Bool.false_eq_true, if_false, ne_eq, ite_not]

/-! ### GTH_REQ (R578–R580) -/

/-- The pavilion that a request names. -/
def reqPav (arg : Nat) : Option Nat := if bit arg 15 then some (arg % 1024) else none

/-- The answer to a request with a key and a buffer. -/
def tagAnswer (b : Mbx) (a op : Nat) (s : State) (key bs : List Nat) : State :=
  match op with
  | 1 => mbxAnswer (drew s) a 0 (gthWords ((gmacTag b key bs).take (tagBytes (b.w 0)) ++ leBytes (16 - tagBytes (b.w 0)) (drawn 64 s)))
  | 2 => mbxEnd s a (if (gmacTag b key bs).take (tagBytes (b.w 0)) =
      (bytesOfWords ((List.range 4).map fun i => w32 (b.w (8 + i)))).take (tagBytes (b.w 0)) then 0 else 0x0B)
  | 3 => mbxAnswer s a 0 (gthWords (toBe 32 (Config.hmac key bs % 2 ^ 256)))
  | _ => mbxEnd s a (if Config.p384 key (ofBe (bs.take 48)) (bs.drop 48) then 0 else 0x0C)

/-- The answer to SEALTAG. -/
def sealAnswer (b : Mbx) (a : Nat) (s : State) (key : List Nat) : State :=
  mbxAnswer s a 0 (gthWords (toBe 32 (Config.hmac key (bytesOfWords ((List.range 4).map fun i => w32 (b.w (4 + i))) ++ ascii "OPEN") % 2 ^ 256)))

section
variable {q u : State} {a code : Nat} {key : List Nat}

theorem gthReq_off {k : Nat} (off : enabled q (0xE10000 + k * 0x1000) = false) : gthReq q a k = mbxEnd q a 0x0A := by
  simp only [gthReq, off, Bool.not_false, if_true]

section
variable {k op : Nat} (on : enabled q (0xE10000 + k * 0x1000) = true) (wr : (mbxAt q a).wr = true) (number : (mbxAt q a).op = op)
include on wr number

/-- A request with a buffer uses its slot, a VERIFY with 144 bytes. -/
theorem gthReq_buffer {use : Nat} (listed : (op, use) ∈ [(1, 0), (2, 0), (3, 1), (4, 3)]) : gthReq q a k =
    gthUse q a use (if op = 4 then some 144 else none) (tagAnswer (mbxAt q a) a op) := by
  simp only [List.mem_cons, List.not_mem_nil, or_false, Prod.mk.injEq] at listed
  rcases listed with ⟨rfl, rfl⟩ | ⟨rfl, rfl⟩ | ⟨rfl, rfl⟩ | ⟨rfl, rfl⟩ <;> simp only [gthReq, on, wr, number, Bool.not_true, Bool.false_eq_true, if_false] <;>
    rfl

theorem gthReq_seal (seal_ : op = 5) : gthReq q a k =
    if Machine.tampered q 1 then mbxEnd q a 5
    else onKey (useKey q ((mbxAt q a).w 0 % 4096) 4 (mbxAt q a).mid (reqPav (mbxAt q a).arg)) (fun s code => mbxEnd s a code)
      (sealAnswer (mbxAt q a) a) := by
  subst seal_
  simp only [gthReq, on, wr, number, Bool.not_true, Bool.false_eq_true, if_false]
  rfl

end

section
variable {use : Nat} {fixed : Option Nat} {go : State → List Nat → List Nat → State}
  (used : useKey q ((mbxAt q a).w 0 % 4096) use (mbxAt q a).mid (reqPav (mbxAt q a).arg) = (u, code, key))
include used

theorem gthUse_refused (refused : code ≠ 0) : gthUse q a use fixed go = mbxEnd u a code := by
  rw [reqPav] at used
  simp only [gthUse, used, onKey, refused, ne_eq, not_false_eq_true, if_true]

theorem gthUse_goes (usable : code = 0) {n : Nat} (hn : n = (mbxAt q a).w 3 % 2 ^ 17)
    (size : fixed.elim (0 < n ∧ n ≤ 65536) (n = ·)) {v : State} {bs : List Nat}
    (read : gthBuffer u (reqPav (mbxAt q a).arg) ((mbxAt q a).w2 1) n = (v, some bs)) : gthUse q a use fixed go = go v key bs := by
  subst hn usable
  rw [reqPav] at used read
  cases fixed with
  | none =>
    obtain ⟨some_, few⟩ : _ ∧ _ := size
    have fits : ((mbxAt q a).w 3 % 2 ^ 17 == 0 || decide (65536 < (mbxAt q a).w 3 % 2 ^ 17)) = false := by
      rw [decide_eq_false (Nat.not_lt.2 few), Bool.or_false]
      exact beq_false_of_ne (Nat.ne_of_gt some_)
    simp only [gthUse, used, onKey, read, onOpt, ne_eq, not_true_eq_false, if_false, fits, Bool.false_eq_true]
  | some m =>
    have fits : ((mbxAt q a).w 3 % 2 ^ 17 != m) = false := bne_eq_false_iff_eq.2 size
    simp only [gthUse, used, onKey, read, onOpt, ne_eq, not_true_eq_false, if_false, fits, Bool.false_eq_true]

end

end

/-! ### GTH_DBG (R583) -/

section
variable {q : State} {a : Nat}

theorem gthDbgReq_challenge (op : (mbxAt q a).op = 1) (wr : (mbxAt q a).wr = false) : gthDbgReq q a =
    if q.gth.entErr then mbxEnd q a 0x0D
    else mbxAnswer { drew q with gth := { q.gth with challenge := some (drawn 256 q) } } a 0 (leWords 8 (drawn 256 q) ++ leWords 2 Config.deviceIdentity) := by
  simp only [gthDbgReq, op, wr, dbgChallenge, drew]

theorem gthDbgReq_unlock (op : (mbxAt q a).op = 2) (wr : (mbxAt q a).wr = true) : gthDbgReq q a = dbgUnlock q a := by
  simp only [gthDbgReq, op, wr]

theorem dbgUnlock_barred (barred : q.gth.lc = 3 ∨ 8 ≤ q.gth.fails) : dbgUnlock q a = mbxEnd q a 5 := by
  simp only [dbgUnlock, barred, if_true]

/-- A part of an unlock is kept. -/
def partKept (q : State) (p : Nat) (w : Nat → Nat) : State :=
  { q with gth := { q.gth with unlockParts := tset q.gth.unlockParts p (bytesOfWords ((List.range 12).map fun i => w32 (w i))) } }

section
variable (alive : q.gth.lc ≠ 3) (tries : q.gth.fails < 8) {p : Nat} (hp : (mbxAt q a).arg % 4 = p)
include alive tries hp

theorem dbgUnlock_part (more : p < 3) : dbgUnlock q a = mbxEnd (partKept q p (mbxAt q a).w) a 0 := by
  have free : ¬ (q.gth.lc = 3 ∨ 8 ≤ q.gth.fails) := by omega
  simp only [dbgUnlock, free, hp, more, if_true, if_false, partKept]

theorem dbgUnlock_last (last : p = 3) : dbgUnlock q a =
    if unlockGood (partKept q p (mbxAt q a).w) then
      mbxEnd (gthRecord { q with gth := { q.gth with challenge := none, unlockParts := [], unlocked := true } } 0x0405 []) a 0
    else mbxEnd (cinc { q with gth := { q.gth with challenge := none, unlockParts := [], fails := q.gth.fails + 1 } } Fld.GTH_DBGFAIL_COUNT) a 0x0C := by
  have free : ¬ (q.gth.lc = 3 ∨ 8 ≤ q.gth.fails) := by omega
  have whole : ¬ (p < 3) := by omega
  simp only [dbgUnlock, free, hp, whole, if_false, partKept]
  rfl

end

end

/-- Settles O58: each request by the lemma on it. The order of the tests, the CODE 0x12 for a buffer that cannot be read and the NOROOT of WRITE are
log 51; the tries of a birth are log 38. -/
theorem keysAndTags : Obligations.KeysAndTags := by
  intro s up
  refine ⟨fun b n birth => ⟨fun err => ?_, fun healthy u hu => ?_⟩, ?_, ?_, fun mid arg d k w q free few hk hw hq => ?_,
    fun mid arg k q free hk hq page => ?_, fun u v update last one hv => ?_, fun u loading hu => ?_,
    fun mid k arg d a w pav ha free few hw hpav op use c q hc hq => ?_, fun mid arg d free few => ?_⟩
  · exact (act_up up rootBirth).trans (congrArg _ (rootBirth_fails birth err))
  · exact (act_up up rootBirth).trans (congrArg _ (rootBirth_completes birth healthy hu))
  · exact act_up up fun s => { s with gth := { s.gth with entErr := true } }
  · exact act_up up fun s => { s with gth := { s.gth with entErr := false } }
  · have asked (op : Nat) : KeyAsked s (q op) op arg.toNat mid.toNat true w := by
      rw [hq, hw]
      exact keyAsked_asks s mid.toNat op true arg few
    have run {op : Nat} {c : Instr} (e : exec c s = act s fun s => mbxRequest s mid.toNat gthKeyMbx op true arg.toNat d) (low : 1 ≤ op) (high : op ≤ 9)
        (other : op ≠ 2) : exec c s = .next (respond (if gthUp s = false then mbxEnd (q op) gthKeyMbx 0x0A
          else if Machine.tampered s 1 = true then mbxEnd (q op) gthKeyMbx 5 else keyEffect (q op) k (arg.toNat / 2 ^ 14) op) {}) := by
      have kind : true = (op != 2) := by simp [other]
      have here : asks (written s d) mid.toNat gthKeyMbx op true arg.toNat d = q op := by rw [hq]; rfl
      rw [exec_gthKey e free (by omega), here, gthKeyReq_eq (asked op) low high kind, ← hk]
      simp only [true_and]
    refine ⟨fun op c hc => ?_, fun page safe => ?_⟩
    · have listed : (op = 1 ∨ op = 5 ∨ op = 7 ∨ op = 8 ∨ op = 9) ∧
          exec c s = act s fun s => mbxRequest s mid.toNat gthKeyMbx op true arg.toNat d := by
        simp only [List.mem_cons, List.not_mem_nil, or_false, Prod.mk.injEq] at hc
        rcases hc with ⟨rfl, rfl⟩ | ⟨rfl, rfl⟩ | ⟨rfl, rfl⟩ | ⟨rfl, rfl⟩ | ⟨rfl, rfl⟩ <;> exact ⟨by decide, rfl⟩
      obtain ⟨ops, e⟩ := listed
      rw [run e (by omega) (by omega) (by omega)]
      refine ⟨fun down => ?_, fun page hit => ?_⟩
      · rw [if_pos down]; rfl
      · rw [page, if_neg Bool.true_eq_false_eq_False.elim, if_pos hit]; rfl
    · have go (op : Nat) {c : Instr} (e : exec c s = act s fun s => mbxRequest s mid.toNat gthKeyMbx op true arg.toNat d) (low : 1 ≤ op)
          (high : op ≤ 9) (other : op ≠ 2) : exec c s = .next (respond (keyEffect (q op) k (arg.toNat / 2 ^ 14) op) {}) := by
        have on : ¬ gthUp s = false := by rw [page]; exact Bool.noConfusion
        have calm : ¬ Machine.tampered s 1 = true := by rw [safe]; exact Bool.noConfusion
        rw [run e low high other, if_neg on, if_neg calm]
      have write : exec (.gthKeyWrite mid arg d) s = .next (respond (keyWrite (q 1) k) {}) := go 1 rfl (by decide) (by decide) (by decide)
      have life : exec (.gthKeyLifecycle mid arg d) s = .next (respond (keyLifecycle (q 5)) {}) := go 5 rfl (by decide) (by decide) (by decide)
      have fusekey : exec (.gthKeyFusekey mid arg d) s = .next (respond (keyFusekey (q 7)) {}) := go 7 rfl (by decide) (by decide) (by decide)
      have fuserev : exec (.gthKeyFuserev mid arg d) s = .next (respond (keyFuserev (q 8)) {}) := go 8 rfl (by decide) (by decide) (by decide)
      have bootver : exec (.gthKeyBootver mid arg d) s = .next (respond (keyBootver (q 9)) {}) := go 9 rfl (by decide) (by decide) (by decide)
      rw [write, life, fusekey, fuserev, bootver]
      refine ⟨fun root => ?_, fun root dead => ?_, fun root alive metro closed => ?_, fun v r root alive slot read => ?_, fun key => ?_,
        fun t key ht => ⟨fun refused => ?_, fun alive next step rows => ?_, fun alive dies => ?_⟩,
        fun r hr early => ⟨fun row => ?_, fun row full => ?_, fun v bs row none_ read => ?_⟩, fun late => ?_, fun apart => ⟨?_, ?_⟩,
        fun fused => ⟨fun r hr => ?_, fun n hn => ?_⟩⟩
      · rw [keyWrite_rootless (asked 1) root]; rfl
      · rw [keyWrite_dead (asked 1) root dead]; rfl
      · rw [keyWrite_sealed (asked 1) root alive metro closed]; rfl
      · rw [keyWrite_reads (asked 1) root alive slot read]
        refine ⟨fun none_ => ?_, fun bs code some_ bad => ?_, fun bs x some_ good => ?_⟩
        · rw [none_]; rfl
        · rw [some_, Option.elim_some, bad]; rfl
        · have same : v = q 1 := by
            have := physRead_some (q 1) 0x5000 (w 0 + 2 ^ 32 * w 1) 256
            rw [read, some_] at this
            exact this rfl
          rw [some_, Option.elim_some, good, same]
          refine ⟨fun derived => ?_, fun public_ => ?_, fun stored mode => ?_, fun stored mode => ?_⟩
          · exact congrArg (fun u => Host.Outcome.next (respond u {})) (keyWriteTake_derived derived)
          · exact congrArg (fun u => Host.Outcome.next (respond u {})) (keyWriteTake_public public_)
          · exact congrArg (fun u => Host.Outcome.next (respond u {})) (keyWriteTake_plain (asked 1) stored mode)
          · exact congrArg (fun u => Host.Outcome.next (respond u {})) (keyWriteTake_generated (asked 1) stored mode)
      · rw [keyLifecycle_unkeyed (asked 5) key]; rfl
      · rw [keyLifecycle_refused (asked 5) key ((lcRefused_iff s _).2 (ht ▸ refused))]; rfl
      · have admitted : lcRefused s t = false := by
          rw [← Bool.not_eq_true, lcRefused_iff]
          rintro (dead | ⟨_, out⟩ | ⟨one, none_⟩)
          · omega
          · omega
          · obtain ⟨r, few, full, ok⟩ := rows one
            exact Bool.false_ne_true (ok.symm.trans (none_ r few full))
        rw [keyLifecycle_steps (asked 5) key (ht ▸ admitted) (by omega), ← ht]; rfl
      · have admitted : lcRefused s t = false := by
          rw [← Bool.not_eq_true, lcRefused_iff]
          omega
        rw [keyLifecycle_dies (asked 5) key (ht ▸ admitted) (ht.symm.trans dies)]; rfl
      · rw [keyFusekey_noRow (asked 7) early (hr ▸ row)]; rfl
      · rw [keyFusekey_programmed (asked 7) early (hr ▸ row) (hr ▸ full)]; rfl
      · rw [keyFusekey_programs (asked 7) early (hr ▸ row) (hr ▸ none_) read, ← hr]; rfl
      · rw [keyFusekey_late (asked 7) late]; rfl
      · rw [keyFuserev_apart (asked 8) apart]; rfl
      · rw [keyBootver_apart (asked 9) apart]; rfl
      · rw [keyFuserev_revokes (asked 8) fused, ← hr]
        split <;> rfl
      · rw [keyBootver_counts (asked 9) fused hn]
        split <;> rfl
  · have none_ (op : Nat) (wr : Bool) : KeyAsked s (asks s mid.toNat gthKeyMbx op wr arg.toNat []) op arg.toNat mid.toNat wr (Machine.word s gthKeyMbx []) :=
      keyAsked_asks s mid.toNat op wr arg (d := []) (Nat.zero_le _)
    have asked (op : Nat) : KeyAsked s (q op) op arg.toNat mid.toNat true (Machine.word s gthKeyMbx []) := by
      rw [hq]
      exact none_ op true
    have on : ¬ gthUp s = false := by rw [page]; exact Bool.noConfusion
    have go (op : Nat) {c : Instr} (e : exec c s = act s fun s => mbxRequest s mid.toNat gthKeyMbx op true arg.toNat []) (low : 1 ≤ op)
        (high : op ≤ 9) (other : op ≠ 2) (safe : Machine.tampered s 1 = false) :
        exec c s = .next (respond (keyEffect (q op) k (arg.toNat / 2 ^ 14) op) {}) := by
      have kind : true = (op != 2) := by simp [other]
      have here : asks (written s []) mid.toNat gthKeyMbx op true arg.toNat [] = q op := by rw [hq]; rfl
      have calm : ¬ (true = true ∧ Machine.tampered s 1 = true) := by rw [safe]; exact fun h => Bool.noConfusion h.2
      rw [exec_gthKey e free (by omega), here, gthKeyReq_eq (asked op) low high kind, ← hk, if_neg on, if_neg calm]
    refine ⟨fun x m hx hm => ?_, fun safe root alive slot => ⟨fun x u good some_ hu => ?_, fun good empty => ?_, ?_⟩, fun safe other => ?_,
      fun u v key o safe metro used idle ho hv => ?_⟩
    · have slot : x = slotRead s k := hx
      have read : exec (.gthKeyRead mid arg) s = .next (respond (keyRead (asks s mid.toNat gthKeyMbx 2 false arg.toNat []) k (arg.toNat / 2 ^ 14)) {}) := by
        have e : exec (.gthKeyRead mid arg) s = act s fun s => mbxRequest s mid.toNat gthKeyMbx 2 false arg.toNat [] := rfl
        rw [exec_gthKey e free (by decide), written_nil, gthKeyReq_eq (none_ 2 false) (by decide) (by decide) rfl, ← hk, if_neg on,
          if_neg (fun h => Bool.false_ne_true h.1)]
        rfl
      rw [read]
      refine ⟨fun low => ?_, fun part public_ => ?_⟩
      · rw [Nat.div_eq_of_lt low, keyRead_slot (none_ 2 false), ← slot, hm]
        rfl
      · rw [keyRead_public (none_ 2 false) part (slot ▸ public_), ← slot]
        rfl
    · have e : exec (.gthKeyRevoke mid arg) s = .next (respond (keyRevoke (q 3) k) {}) := go 3 rfl (by decide) (by decide) (by decide) safe
      rw [e, keyRevoke_admitted (asked 3) root alive slot, good, some_, hu]
      rfl
    · have e : exec (.gthKeyRevoke mid arg) s = .next (respond (keyRevoke (q 3) k) {}) := go 3 rfl (by decide) (by decide) (by decide) safe
      rw [e, keyRevoke_admitted (asked 3) root alive slot, good, empty]
      rfl
    · have e : exec (.gthKeyErase mid arg) s = .next (respond (keyErase (q 4) k) {}) := go 4 rfl (by decide) (by decide) (by decide) safe
      rw [e, keyErase_admitted (asked 4) root alive slot]
      rfl
    · have e : exec (.gthKeyMetroload mid arg) s = .next (respond (keyMetroload (q 6) k) {}) := go 6 rfl (by decide) (by decide) (by decide) safe
      rw [e, keyMetroload_other other]
      rfl
    · have e : exec (.gthKeyMetroload mid arg) s = .next (respond (keyMetroload (q 6) k) {}) := go 6 rfl (by decide) (by decide) (by decide) safe
      have ver : (match tget v.gth.slots 4095 with | some x => x.ver | none => 0) = metroVersion v := by
        rw [metroVersion]
        cases tget v.gth.slots 4095 <;> rfl
      rw [e, metro, keyMetroload_loads (asked 6) used idle ho hv, ← ver]
      rfl
  · refine ⟨updated v u, ?_, ?_⟩
    · unfold updated
      cases u.next <;> rfl
    · exact (act_up up keyStoreValid).trans (congrArg _ (keyStoreValid_last update last one hv))
  · exact (act_up up keyStoreLoad).trans (congrArg _ (keyStoreLoad_loads loading hu))
  · subst ha
    generalize at_ : 0xE10040 + 0x1000 * k.val = a at *
    have page (p : Nat) : enabled q p = enabled s p := by
      simp only [enabled, fbit, hq, fget_asks, fget_written]
    have calm : Machine.tampered q 1 = Machine.tampered s 1 := by
      simp only [Machine.tampered, hq, fget_asks, fget_written, asks_grt, written_grt]
    have wr : (mbxAt q a).wr = true := by rw [hq, asks_wr]
    have number : (mbxAt q a).op = op := by rw [hq, asks_op]
    have master : (mbxAt q a).mid = mid.toNat := by rw [hq, asks_mid]
    have names : reqPav (mbxAt q a).arg = pav := by
      rw [hq, asks_arg, Nat.mod_eq_of_lt arg.isLt, hpav, reqPav]
    have data : (mbxAt q a).w = w := by
      rw [hq, hw]
      exact funext fun i => asks_word _ _ _ _ _ _ _ few i
    obtain ⟨e, kinds⟩ : (exec c s = act s fun s => mbxRequest s mid.toNat a op true arg.toNat d) ∧
        (op = 5 ∧ use = 4 ∨ op ≠ 5 ∧ (op, use) ∈ [(1, 0), (2, 0), (3, 1), (4, 3)]) := by
      subst at_
      simp only [List.mem_cons, List.not_mem_nil, or_false, Prod.mk.injEq] at hc
      rcases hc with ⟨rfl, rfl, rfl⟩ | ⟨rfl, rfl, rfl⟩ | ⟨rfl, rfl, rfl⟩ | ⟨rfl, rfl, rfl⟩ | ⟨rfl, rfl, rfl⟩ <;> exact ⟨rfl, by decide⟩
    have small : op < 256 := by
      simp only [List.mem_cons, List.not_mem_nil, or_false, Prod.mk.injEq] at kinds
      omega
    have run : exec c s = .next (respond (gthReq q a k.val) {}) := by
      subst at_
      rw [e, act_up up, request_gthReq k s mid.toNat op _ true d free small, ← hq]
      rfl
    rw [run]
    refine ⟨fun off => ?_, fun on => ⟨fun seal_ hit => ?_, fun safe u code key used => ?_⟩⟩
    · rw [gthReq_off ((page _).trans off)]
      rfl
    · rw [gthReq_seal ((page _).trans on) wr number seal_, calm, if_pos hit]
      rfl
    · have used_ : useKey q ((mbxAt q a).w 0 % 4096) use (mbxAt q a).mid (reqPav (mbxAt q a).arg) = (u, code, key) := by
        rw [data, master, names]
        exact used
      rcases kinds with ⟨rfl, rfl⟩ | ⟨other, listed⟩
      · have quiet : ¬ Machine.tampered s 1 = true := by
          rw [safe.resolve_left (fun h => h rfl)]
          exact Bool.noConfusion
        rw [gthReq_seal ((page _).trans on) wr number rfl, calm, if_neg quiet, used_]
        refine ⟨fun refused => ?_, fun done _ => ?_, fun n v bs _ other => absurd rfl other⟩
        · rw [onKey, if_pos refused]
          rfl
        · rw [onKey, if_neg (not_not.2 done), sealAnswer, data]
      · rw [gthReq_buffer ((page _).trans on) wr number listed]
        refine ⟨fun refused => ?_, fun _ seal_ => absurd seal_ other, fun n v bs done _ hn size read tag m hm htag => ?_⟩
        · rw [gthUse_refused used_ refused]
          rfl
        · have fits : (if op = 4 then some 144 else none : Option Nat).elim (0 < n ∧ n ≤ 65536) (n = ·) := by
            split at size
            next four => rw [if_pos four]; exact size
            next four => rw [if_neg four]; exact size
          have tags : gmacTag (mbxAt q a) key bs = tag := by rw [gmacTag, data, htag]
          rw [gthUse_goes used_ done (by rw [data, hn]) fits (by rw [names, Mbx.w2, data]; exact read)]
          simp only [List.mem_cons, List.not_mem_nil, or_false, Prod.mk.injEq] at listed
          rcases listed with ⟨rfl, rfl⟩ | ⟨rfl, rfl⟩ | ⟨rfl, rfl⟩ | ⟨rfl, rfl⟩ <;> simp only [tagAnswer, tags, data, hm]
  · refine ⟨fun q hq => ?_, fun q u p hq hp hu => ?_⟩
    · have e : exec (.gthDbgChallenge mid) s = act s fun s => mbxRequest s mid.toNat 0xE000C0 1 false 0 [] := rfl
      have run : exec (.gthDbgChallenge mid) s = .next (respond (gthDbgReq q 0xE000C0) {}) := by
        rw [e, act_up up, request_gthDbg s mid.toNat 1 0 false [] free (by decide), written_nil, hq]
        rfl
      have gth : q.gth = s.gth := by rw [hq, asks_gth]
      have draws : drawn 256 q = drawn 256 s := by rw [hq]; rfl
      rw [run, gthDbgReq_challenge (by rw [hq, asks_op]) (by rw [hq, asks_wr]), gth, draws]
      refine ⟨fun err => ?_, fun healthy => ?_⟩
      · rw [err, if_pos rfl]; rfl
      · rw [healthy, if_neg Bool.false_ne_true]
    · have e : exec (.gthDbgUnlock mid arg d) s = act s fun s => mbxRequest s mid.toNat 0xE000C0 2 true arg.toNat d := rfl
      have gth : q.gth = s.gth := by rw [hq, asks_gth, written_gth]
      have run : exec (.gthDbgUnlock mid arg d) s = .next (respond (dbgUnlock q 0xE000C0) {}) := by
        rw [e, act_up up, request_gthDbg s mid.toNat 2 _ true d free (by decide), ← hq]
        exact congrArg (fun u => Host.Outcome.next (respond u {})) (gthDbgReq_unlock (by rw [hq, asks_op]) (by rw [hq, asks_wr]))
      have part : (mbxAt q 0xE000C0).arg % 4 = p := by
        rw [hq, asks_arg, hp]
        omega
      have data : (mbxAt q 0xE000C0).w = word s 0xE000C0 d := by
        rw [hq]
        exact funext fun i => asks_word _ _ _ _ _ _ _ few i
      have kept : partKept q p (mbxAt q 0xE000C0).w = u := by rw [partKept, data, hu, gth]
      rw [run, ← gth]
      refine ⟨fun barred => ?_, fun alive tries => ⟨fun more => ?_, fun last good => ?_, fun last bad => ?_⟩⟩
      · rw [dbgUnlock_barred barred]; rfl
      · rw [dbgUnlock_part alive tries part more, kept]; rfl
      · rw [dbgUnlock_last alive tries part last, kept, good, if_pos rfl]; rfl
      · rw [dbgUnlock_last alive tries part last, kept, bad, if_neg Bool.false_ne_true]; rfl

end Sys2Proof.Machine
end

section
/-! Proofs of the family 18_integrity_background.md: bursts and scrubs, sweeps, marks, late activities and telemetry. -/

namespace Sys2Proof.Machine

/-! ### Bursts (R595, R596, R598) -/

/-- A burst whose codewords are without a wrong symbol is clean. -/
theorem decodeBurst_clean {mark : Option Nat} {errs : List (List Nat)} (none_ : ∀ c ∈ errs.take 4, c = []) : decodeBurst mark errs = .clean := by
  have bad : (((errs.take 4).map fun c => c.eraseDups.map deviceAt).filter fun c => !c.isEmpty) = [] := by
    rw [List.filter_eq_nil_iff]
    intro c hc
    obtain ⟨e, he, rfl⟩ := List.mem_map.1 hc
    rw [none_ e he]
    decide
  simp only [decodeBurst, bad, List.isEmpty_nil, if_true]

/-- A single wrong symbol is corrected, and implicates its device. -/
theorem decodeBurst_single (d : Nat) : decodeBurst none [[2 * d]] = .corrected [[d]] := by
  have one : ([2 * d].eraseDups).map deviceAt = [d] := by simp [deviceAt, List.eraseDups_cons]
  have device : [d].eraseDups = [d] := by simp [List.eraseDups_cons]
  simp [decodeBurst, one, device, allEqual]

/-- Two wrong symbols of different devices in one codeword are beyond the code. -/
theorem decodeBurst_two {a b : Nat} (apart : a / 2 ≠ b / 2) : decodeBurst none [[a, b]] = .uncorrectable := by
  have ne : a ≠ b := fun h => apart (by rw [h])
  have two : ([a, b].eraseDups).map deviceAt = [a / 2, b / 2] := by simp [List.eraseDups_cons, Ne.symm ne, deviceAt]
  simp [decodeBurst, two, allEqual, Ne.symm apart]

section
variable {v : State} {j line mid : Nat} {scrub : Bool}

theorem readLine_clean {errs : List (List Nat)} (none_ : ∀ c ∈ errs.take 4, c = []) : readLine v j line mid scrub errs = v := by
  simp only [readLine, decodeBurst_clean none_]

theorem readLine_single {d : Nat} (unmarked : tget v.integ.marks j = none) : readLine v j line mid scrub [[2 * d]] =
    implicate (raiseFault (cinc v Fld.MEM_CE_COUNT) 8 [j, line / 64 % 2 ^ 32, d, mid]) j line mid d := by
  simp only [readLine, unmarked, decodeBurst_single, List.foldl_cons, List.foldl_nil, countCodeword, List.headD_cons]

theorem readLine_uncorrectable {errs : List (List Nat)} (beyond : decodeBurst (tget v.integ.marks j) errs = .uncorrectable) {u : State}
    (hu : u = cinc (if ueHeld v then v else { v with integ := { v.integ with
        uePage := line / 64 % 2 ^ 32, ueValid := true, ueScrub := scrub, ueLine := line % 64, ueMid := mid } })
      (if scrub then Fld.MEM_SCRUE_COUNT else Fld.MEM_UE_COUNT)) :
    readLine v j line mid scrub errs = raiseFault (poisonLine u line) 10 [j, line / 64 % 2 ^ 32, 0, mid] := by
  subst hu
  simp only [readLine, beyond]

/-- A device implicated once more. -/
def implicated (v : State) (j d : Nat) : State :=
  { v with integ := { v.integ with implicated := tset v.integ.implicated (16 * j + d) (tat v.integ.implicated (16 * j + d) 0 + 1) } }

theorem implicate_counts {d : Nat} (held : tat v.integ.implicated (16 * j + d) 0 + 1 < fget v Fld.MEM_MARKTHR_THR ∨ tget v.integ.marks j ≠ none) :
    implicate v j line mid d = implicated v j d := by
  have below : ¬ (fget (implicated v j d) Fld.MEM_MARKTHR_THR ≤ tat v.integ.implicated (16 * j + d) 0 + 1 ∧ (tget v.integ.marks j).isNone = true) := by
    rintro ⟨reached, free⟩
    rcases held with h | h
    · exact Nat.not_le.2 h reached
    · exact h (Option.isNone_iff_eq_none.1 free)
  exact if_neg below

theorem implicate_marks {d : Nat} (reached : fget v Fld.MEM_MARKTHR_THR ≤ tat v.integ.implicated (16 * j + d) 0 + 1)
    (free : tget v.integ.marks j = none) : implicate v j line mid d = raiseFault { implicated v j d with
      integ := { (implicated v j d).integ with marks := tset v.integ.marks j d } } 9 [j, line / 64 % 2 ^ 32, d, mid] := by
  have now : fget (implicated v j d) Fld.MEM_MARKTHR_THR ≤ tat v.integ.implicated (16 * j + d) 0 + 1 ∧ (tget v.integ.marks j).isNone = true :=
    ⟨reached, Option.isNone_iff_eq_none.2 free⟩
  exact if_pos now

end

/-! ### Scrubs, sweep and compare (R599–R601, R604, R606) -/

/-- The next line is read by the patrol scrub: a poisoned one is noted. -/
def scrubbed (s : State) (j : Nat) (errs : List (List Nat)) : State :=
  if s.integ.poison.contains s.integ.scrubLine then noteUE s s.integ.scrubLine 0x300C true else readLine s j s.integ.scrubLine 0x300C true errs

theorem dramScrub_reads {s : State} {j : Nat} {errs : List (List Nat)} (page : enabled s 0xF00000 = true) (on : fbit s Fld.MEM_SCRUB_EN = true)
    (size : s.integ.gib ≠ 0) {u : State} (hu : u = scrubbed s j errs) : dramScrub s j errs =
      if s.integ.scrubLine + 1 < u.integ.gib * 2 ^ 24 then { u with integ := { u.integ with scrubLine := s.integ.scrubLine + 1 } }
      else { u with integ := { u.integ with
        scrubLine := 0, passes := (u.integ.passes + 1) % 2 ^ 16, implicated := [], passSecs := min ((u.sdl.fab - u.integ.scrubAt) / 10 ^ 9) 0xFFFF
        scrubAt := u.sdl.fab, late := u.integ.late.filter (· != 0) } } := by
  subst hu
  have runs : (!enabled s (memPage 0) || !fbit s Fld.MEM_SCRUB_EN || s.integ.gib == 0) = false := by
    have page_ : enabled s (memPage 0) = true := page
    rw [page_, on, beq_false_of_ne size]
    rfl
  rw [dramScrub, runs, if_neg Bool.false_ne_true]
  rfl

theorem onchipScrub_reads {s : State} {u bank item : Nat} {f : OcFind} (page : enabled s 0xF01000 = true) (low : 1 ≤ u) (high : u ≤ 6)
    {key n : Nat} {v : State} (hk : key = u * 256 + bank % 256) (hn : n = tat s.integ.ocPos key 0)
    (hv : v = ocFound s u bank (if u = 2 then n else item) f) : onchipScrub s u bank item f =
      if n + 1 < 16384 then { v with integ := { v.integ with ocPos := tset v.integ.ocPos key (n + 1) } }
      else { v with integ := { v.integ with
        ocPos := tset v.integ.ocPos key 0, ocMs := min ((v.sdl.fab - tat v.integ.ocAt key 0) / 10 ^ 6) 0xFFFF
        ocAt := tset v.integ.ocAt key v.sdl.fab, late := v.integ.late.filter (· != 1) } } := by
  have runs : (!enabled s (memPage 1) || u == 0 || decide (7 ≤ u)) = false := by
    have page_ : enabled s (memPage 1) = true := page
    rw [page_, beq_false_of_ne (by omega), decide_eq_false (by omega)]
    rfl
  subst hv hn hk
  rw [onchipScrub, runs, if_neg Bool.false_ne_true]
  rfl

theorem registerSweep_runs {s v w : State} {fix cmp : List Nat} {romOk : Bool} (page : enabled s 0xF01000 = true)
    (due : s.integ.sweepAt + 10000000 ≤ s.sdl.fab) (hv : v = copiesWrong s fix cmp)
    (hw : w = if romOk then { v with cas := { v.cas with romErr := false } }
      else raiseOpen (cinc { v with cas := { v.cas with romErr := true } } (Fld.MEM_OCUE_COUNT 9)) 5 1 0) :
    registerSweep s fix cmp romOk = { drew w with integ := { w.integ with
      sweepAt := w.sdl.fab, sweepUs := drawn 16 w, late := w.integ.late.filter (· != 2) } } := by
  have runs : (!enabled s (memPage 1) || !tenMs s s.integ.sweepAt) = false := by
    have page_ : enabled s (memPage 1) = true := page
    have due_ : tenMs s s.integ.sweepAt = true := decide_eq_true due
    rw [page_, due_]
    rfl
  subst hw hv
  rw [registerSweep, runs, if_neg Bool.false_ne_true]
  rfl

/-- A key slot of which both copies were wrong is BAD. -/
def keySlotLost (v : State) (k : Nat) : State :=
  raiseOpen (cinc (if v.gth.bad.contains k then v else { v with gth := { v.gth with bad := v.gth.bad ++ [k] } }) (Fld.MEM_OCUE_COUNT 7)) 17 k 0

theorem gthCompare_runs {s w : State} {fixed lost cache : List Nat} (page : enabled s 0xF01000 = true) (due : s.integ.cmpAt + 10000000 ≤ s.sdl.fab)
    (hw : w = cache.foldl (fun v k => raiseOpen (cinc v (Fld.MEM_OCUE_COUNT 7)) 17 k 0) (lost.foldl keySlotLost
      (fixed.foldl (fun v k => raiseOpen (cinc v (Fld.MEM_OCCE_COUNT 7)) 17 k 0) s))) :
    gthCompare s fixed lost cache = { w with integ := { w.integ with cmpAt := w.sdl.fab, late := w.integ.late.filter (· != 3) } } := by
  have runs : (!enabled s (memPage 1) || !tenMs s s.integ.cmpAt) = false := by
    have page_ : enabled s (memPage 1) = true := page
    have due_ : tenMs s s.integ.cmpAt = true := decide_eq_true due
    rw [page_, due_]
    rfl
  subst hw
  rw [gthCompare, runs, if_neg Bool.false_ne_true]
  rfl

/-! ### Late activities (R607) -/

theorem bgLate_once {s : State} {n : Nat} (missed : bgMissed s n = true) (first : s.integ.late.contains n = false) :
    bgLate s n = raiseFault (drew { s with integ := { s.integ with late := s.integ.late ++ [n] } }) 19 [drawn 32 s] := by
  simp only [bgLate, missed, first, Bool.not_true, Bool.or_self, Bool.false_eq_true, if_false]

/-- The on-chip scrub is late with its first pass, or with one of a bank. -/
def ocLate (s : State) : Prop := s.integ.ocAt = [] ∧ 10 ^ 9 ≤ s.sdl.fab ∨ ∃ e ∈ s.integ.ocAt, e.2 + 10 ^ 9 ≤ s.sdl.fab

/-- The bound of an activity has passed, whichever it is. -/
theorem bgMissed_due {s : State} {n : Nat} (few : n < 5)
    (scrub : n = 0 → s.integ.gib ≠ 0 ∧ s.integ.scrubAt + fget s Fld.MEM_SCRUB_PERIOD * 60 * 10 ^ 9 ≤ s.sdl.fab) (onchip : n = 1 → ocLate s)
    (sweep : n = 2 → s.integ.sweepAt + 10000000 ≤ s.sdl.fab) (compare : n = 3 → s.integ.cmpAt + 10000000 ≤ s.sdl.fab)
    (trim : n = 4 → s.orn.trimAt + 10 ^ 9 ≤ s.orn.clk) : bgMissed s n = true := by
  unfold bgMissed
  split
  next =>
    obtain ⟨size, due⟩ := scrub rfl
    rw [decide_eq_true due, Bool.and_true]
    exact bne_iff_ne.2 size
  next =>
    rcases onchip rfl with ⟨none_, due⟩ | ⟨e, he, due⟩
    · rw [none_, List.isEmpty_nil, if_pos rfl, decide_eq_true due]
    · rw [List.isEmpty_eq_false_iff.2 (List.ne_nil_of_mem he), if_neg Bool.false_ne_true]
      exact List.any_eq_true.2 ⟨e, he, decide_eq_true due⟩
  next => exact decide_eq_true (sweep rfl)
  next => exact decide_eq_true (compare rfl)
  next => exact decide_eq_true (trim rfl)
  next not0 not1 not2 not3 not4 =>
    have which : n = 0 ∨ n = 1 ∨ n = 2 ∨ n = 3 ∨ n = 4 := by omega
    rcases which with h | h | h | h | h
    · exact (not0 h).elim
    · exact (not1 h).elim
    · exact (not2 h).elim
    · exact (not3 h).elim
    · exact (not4 h).elim

/-! ### MEM_MARKSET (R596, R616) -/

theorem markSet_at : commandAt 0xF00068 (.mem .MEM_MARKSET) 0
    [⟨31, 31, .wsc, false, 0, 0, 1, .none⟩, ⟨30, 30, .wsc, false, 0, 0, 1, .none⟩, ⟨12, 8, .wsc, false, 0, 0, 31, .none⟩,
     ⟨3, 0, .wsc, false, 0, 0, 15, .none⟩] = true := by decide +kernel

/-- The bits of a write of MEM_MARKSET that its fields take. -/
def markBits (v : Nat) : Nat := bits v 31 30 * 2 ^ 30 + bits v 12 8 * 2 ^ 8 + v % 16

/-- A write of MEM_MARKSET with the mark and the device that its fields name. -/
theorem meshWrite_markSet {s : State} {mid v : Nat} (may : mayWrite s mid 0xF00068 = true) (small : v < 2 ^ 32) :
    meshWrite s mid 0xF00068 v = respond (markSet (if markBits v = 0 then s else wscNote s 0xF00068 (markBits v)) (markBits v)) {} := by
  have sum : ([⟨31, 31, .wsc, false, 0, 0, 1, .none⟩, ⟨30, 30, .wsc, false, 0, 0, 1, .none⟩, ⟨12, 8, .wsc, false, 0, 0, 31, .none⟩,
      ⟨3, 0, .wsc, false, 0, 0, 15, .none⟩].map (fieldBits v)).sum = markBits v := by
    have top : bits v 31 30 = 2 * bits v 31 31 + bits v 30 30 := by
      simp only [bits, Nat.reduceSub, Nat.reduceAdd, Nat.reducePow]
      omega
    have device : bits v 3 0 = v % 16 := by
      simp only [bits, Nat.reduceSub, Nat.reduceAdd, Nat.reducePow, Nat.div_one]
    rw [List.map_cons, List.map_cons, List.map_cons, List.map_cons, List.map_nil, List.sum_cons, List.sum_cons, List.sum_cons, List.sum_cons,
      List.sum_nil, fieldBits_mk, fieldBits_mk, fieldBits_mk, fieldBits_mk, markBits, top, device]
    ring
  obtain ⟨l, name, copy, addr, written, some_, total⟩ :=
    meshWrite_commandAt markSet_at (by decide) (by decide) (by simp) (by simp) (by simp) may small sum
  rw [written]
  simp only [commandWrite, some_, total, name, addr, Bool.false_eq_true, if_false, memWsc]

theorem markSet_bits {u : State} {v : Nat} : markSet u (markBits v) =
    if bit v 30 = false then u
    else if bit v 31 then (if tget u.integ.marks (bits v 12 8) = some (min (v % 16) 9) then u
      else raiseFault { u with integ := { u.integ with marks := tset u.integ.marks (bits v 12 8) (min (v % 16) 9) } } 9
        [bits v 12 8, 0, min (v % 16) 9])
    else { u with integ := { u.integ with marks := tdel u.integ.marks (bits v 12 8) } } := by
  obtain ⟨set_, enable, place, device⟩ : bit (markBits v) 31 = bit v 31 ∧ bit (markBits v) 30 = bit v 30 ∧ bits (markBits v) 12 8 = bits v 12 8 ∧
      markBits v % 16 = v % 16 := by
    have low : v / 256 % 32 * 256 + v % 16 < 1073741824 := by omega
    have halves (x : Nat) : x / 2147483648 = x / 1073741824 / 2 := by rw [Nat.div_div_eq_div_mul]
    simp only [bit, bits, markBits, Nat.reducePow, Nat.reduceSub, Nat.reduceAdd, halves]
    refine ⟨congrArg (· == 1) ?_, congrArg (· == 1) ?_, ?_, ?_⟩ <;> omega
  simp only [markSet, set_, enable, place, device, Bool.not_eq_true']

/-! ### Telemetry (R613, R614) -/

section
variable {s u : State} {at_ : Bool × Nat}

theorem telemetry_due (page : enabled s 0xF03000 = true) (on : fbit s Fld.MEM_TELE_CTRL_EN = true) (instant : teleInstant s = some at_)
    (hu : u = { s with integ := { s.integ with teleAt := some at_ } }) : telemetry s =
      if teleQueued s then cinc u Fld.MEM_TELE_SKIP_COUNT
      else teleSend (fget s Fld.MEM_TELE_CTRL_COUNT) (physRead u 0x300C (fget s Fld.MEM_TELE_BASE_ADDR * 4096) (0x20 + 4 * fget s Fld.MEM_TELE_CTRL_COUNT)) := by
  have runs : (!enabled s (memPage 3) || !fbit s Fld.MEM_TELE_CTRL_EN) = false := by
    have page_ : enabled s (memPage 3) = true := page
    rw [page_, on]
    rfl
  subst hu
  rw [telemetry, runs, if_neg Bool.false_ne_true, instant]
  rfl

end

/-- One frame carries up to 256 values. -/
theorem teleFrames_one {v w : State} {b : List Nat} {n len : Nat} (hl : len = b.getD 0x1E 0) (some_ : 1 ≤ n) (few : n ≤ 256)
    (head : len = 14 ∨ len = 18) {vals : List Nat}
    (hv : vals = (List.range n).map fun i => peek (drew v) 0x300C (ofLe ((b.drop (0x20 + 4 * i)).take 4))) (hw : w = teleNext (drew v)) :
    teleFrames v b n = teleFrame w (b.take len) (teleBody w 0 w.integ.teleSeq vals) := by
  have whole : vals.take 256 = vals := by
    rw [List.take_of_length_le]
    rw [hv, List.length_map, List.length_range]
    exact few
  have positive : 0 < n := some_
  have one : ¬ 256 < n := Nat.not_lt.2 few
  have mid : scrubMid = 0x300C := rfl
  simp only [teleFrames, ← hl, mid, ← hv, ← hw, head, if_true, positive, one, if_false, whole]

/-- Settles O59: each step of the background work by the lemma on it. The 16,384 lines of a bank, SEQ before the frame, the unit that the record of a late
activity names and the operand of a frame's subchannel are log 52. -/
theorem memoryIntegrity : Obligations.MemoryIntegrity := by
  intro s up
  refine ⟨fun j errs n u page on size hn hu => ?_, fun v j line mid scrub errs none_ => readLine_clean none_,
    fun v j line mid d scrub unmarked => readLine_single unmarked, fun v w j line mid d n hn hw => ?_,
    fun v j line mid scrub errs beyond u hu => readLine_uncorrectable beyond hu, fun a b _ _ apart => decodeBurst_two apart,
    fun u bank item f key n v page low high hk hn hv => ?_, fun wrong both => rfl, fun fix lost => ?_,
    fun fix lost romOk v w page due hv hw => ?_, fun fixed lost cache u v w page due hu hv hw => ?_, fun n first due => ?_,
    fun mid data j d x u may hj hd hx hu => ?_, fun at_ u n page on instant hu hn => ?_, fun gib => ?_⟩
  · subst hn
    have e : exec (.dramScrubStep j errs) s = act s fun s => dramScrub s j.val (errs.map fun c => c.map fun p => p.val) := rfl
    rw [e, act_up up, dramScrub_reads page on size hu]
    exact ⟨fun more => by rw [if_pos more], fun last => by rw [if_neg (Nat.not_lt.2 last)]⟩
  · subst hn hw
    refine ⟨fun held => implicate_counts held, fun reached free => implicate_marks reached free⟩
  · have e : exec (.onchipScrubStep u bank item f) s = act s fun s => onchipScrub s u.val bank.toNat item (findOf f) := rfl
    have place : key = u.val * 256 + bank.toNat % 256 := by rw [hk, Nat.mod_eq_of_lt bank.isLt]
    have found : v = ocFound s u.val bank.toNat (if u.val = 2 then n else item) (findOf f) := by
      rw [hv]
      cases f <;> rfl
    rw [e, act_up up, onchipScrub_reads page low high place hn found]
    exact ⟨fun more => by rw [if_pos more], fun last => by rw [if_neg (Nat.not_lt.2 last)]⟩
  · exact act_up up fun s => copiesAtUse s (fix.map fun a => a.toNat) (lost.map fun a => a.toNat)
  · have e : exec (.registerSweep fix lost (.sweep romOk)) s =
        act s fun s => registerSweep s (fix.map fun a => a.toNat) (lost.map fun a => a.toNat) romOk := rfl
    rw [e, act_up up, registerSweep_runs page due hv hw]
  · have e : exec (.gatehouseMemoryCompare fixed lost cache) s =
        act s fun s => gthCompare s (fixed.map fun k => k.val) (lost.map fun k => k.val) (cache.map fun k => k.val) := rfl
    subst hu
    rw [e, act_up up, gthCompare_runs page due (hv ▸ hw)]
  · have missed : bgMissed s n.val = true := by
      refine bgMissed_due n.isLt ?_ ?_ ?_ ?_ ?_ <;>
      · intro which
        rw [which] at due
        exact due
    have e : exec (.backgroundLate n) s = act s fun s => bgLate s n.val := rfl
    rw [e, act_up up, bgLate_once missed first]
  · have e : exec (.memMarkset mid data) s = act s fun s => meshWrite s mid.toNat 0xF00068 data.toNat := rfl
    have value : x = markBits data.toNat := by rw [hx, hj, markBits]
    have marks : u.integ = s.integ := by
      rw [hu]
      split <;> rfl
    rw [e, act_up up, meshWrite_markSet may data.isLt, ← value, ← hu, value, markSet_bits, marks, ← hj, ← hd]
  · have e : exec .telemetrySend s = act s telemetry := rfl
    rw [e, act_up up, telemetry_due page on instant hu]
    refine ⟨fun queued => ?_, fun v r idle read => ⟨fun none_ => ?_, fun b len vals w some_ hl hv hw one few head => ?_⟩⟩
    · rw [if_pos queued]
    · rw [idle, if_neg Bool.false_ne_true, ← hn, read, none_]
      rfl
    · rw [idle, if_neg Bool.false_ne_true, ← hn, read, some_]
      exact congrArg _ (teleFrames_one hl one few head hv hw)
  · exact act_up up fun s => { s with integ := { s.integ with gib := gib.toNat } }

end Sys2Proof.Machine
end

section
/-! Proofs of the families 17_gatehouse_keys.md and 19_power_boot_pins_test.md: the Grotto, the digital pins, boot, the boot flash and the test access
port. -/

namespace Sys2Proof.Machine

/-! ### The Grotto (R584, R633–R638) -/

theorem calendarSecond_wraps {s : State} (full : 32768 ≤ s.grt.sub) :
    calendarSecond s = { s with grt := { s.grt with sub := s.grt.sub - 32768, sec := (s.grt.sec + 1) % 2 ^ 64 } } := if_neg (Nat.not_lt.2 full)

theorem opsecStep_counts {s : State} (full : 32768 ≤ s.grt.opsub) :
    opsecStep s = { s with grt := { s.grt with opsub := s.grt.opsub - 32768, opsec := (s.grt.opsec + 1) % 2 ^ 40 } } := if_neg (Nat.not_lt.2 full)

theorem tamperEdge_high (s : State) : tamperEdge s false = { s with grt := { s.grt with pinLow := false, pinAtEdge := false } } := by
  simp only [tamperEdge, Bool.not_false, if_true]

/-- The Grotto with its tamper latch set by the pin. -/
def latched (s : State) : State :=
  { s with grt := { s.grt with
      pinLow := true, pinAtEdge := true, tamper := true, tcause := s.grt.tcause ||| 1, tampCnt := min (s.grt.tampCnt + 1) 65535 } }

theorem tamperEdge_low {s u : State} (hu : u = chanPulse (latched s) false) :
    tamperEdge s true = if s.grt.tamper = false ∧ u.cru.inReset = false then gthTamper u else u := by
  have first : tamperEdge s true = if (!s.grt.tamper && !u.cru.inReset) = true then gthTamper u else u := by
    rw [hu]
    rfl
  rw [first]
  simp only [Bool.and_eq_true, Bool.not_eq_true']

/-! ### The Grotto's mailboxes (R633, R635–R638) -/

/-- The page is enabled and its crossing group is ready (R101, R102). -/
structure GrottoAnswers (q : State) : Prop where
  page : enabled q 0x1000000 = true
  ready : bit q.cru.xcReady 0 = true

theorem grottoAnswers_asks {s : State} (page : enabled s 0x1000000 = true) (ready : bit s.cru.xcReady 0 = true) (mid a op arg : Nat) (wr : Bool)
    (d : List Word) : GrottoAnswers (asks (written s d) mid a op wr arg d) where
  page := by
    rw [← page]
    simp only [enabled, fbit, fget_asks, fget_written]
  ready := by rw [asks_cru, written_cru, ready]

section
variable {q : State} {a : Nat}

section
variable (up : GrottoAnswers q)
include up

theorem grtMbx_time : grtMbx .GRT_TIME a q = grtTimeReq q a := by
  simp only [grtMbx, up.page, up.ready, Bool.not_true, Bool.false_eq_true, if_false]

theorem grtMbx_cmd : grtMbx .GRT_CMD a q = grtCmdReq q a := by
  simp only [grtMbx, up.page, up.ready, Bool.not_true, Bool.false_eq_true, if_false]

end

theorem grtTimeReq_now (op : (mbxAt q a).op = 1) (wr : (mbxAt q a).wr = false) : grtTimeReq q a = mbxAnswer q a 0 ([(calendar q).2, (calendar q).1,
    (calendar q).1 / 2 ^ 32, opsecNow q, opsecNow q / 2 ^ 32, q.grt.pcyc].map w32) := by
  simp only [grtTimeReq, op, wr, Bool.false_eq_true, if_false, List.map_cons, List.map_nil]

theorem grtTimeReq_scratch {p : Nat} (op : (mbxAt q a).op = 2) (wr : (mbxAt q a).wr = false) (arg : (mbxAt q a).arg % 8 = p) : grtTimeReq q a =
    mbxAnswer q a (if parityPart q p = 0 then 0 else 3) (wordsOfBytes 8 (scratchPart q p) ++ [w32 (parityPart q p)]) := by
  simp only [grtTimeReq, op, wr, arg, Bool.false_eq_true, if_false]

section
variable (wr : (mbxAt q a).wr = true)
include wr

theorem grtCmdReq_setcal (op : (mbxAt q a).op = 1) :
    grtCmdReq q a = mbxEnd { q with grt := { q.grt with sec := (mbxAt q a).w2 0, sub := 0 } } a 0 := by
  simp only [grtCmdReq, op, wr, Bool.not_true, Bool.false_eq_true, if_false]

theorem grtCmdReq_tampclr (op : (mbxAt q a).op = 2) : grtCmdReq q a = if q.grt.pinLow then mbxEnd q a 2
    else mbxEnd { q with grt := { q.grt with tamper := false, tampCnt := 0, tcause := 0 } } a 0 := by
  simp only [grtCmdReq, op, wr, Bool.not_true, Bool.false_eq_true, if_false]

theorem grtCmdReq_scrwrite {p : Nat} (op : (mbxAt q a).op = 3) (arg : (mbxAt q a).arg % 8 = p) :
    grtCmdReq q a = mbxEnd (scratchWrite q p (bytesOfWords ((mbxAt q a).d.take 8))) a 0 := by
  simp only [grtCmdReq, op, wr, arg, Bool.not_true, Bool.false_eq_true, if_false]

theorem grtCmdReq_rstclr (op : (mbxAt q a).op = 4) : grtCmdReq q a = mbxEnd { q with grt := { q.grt with grtrst := false } } a 0 := by
  simp only [grtCmdReq, op, wr, Bool.not_true, Bool.false_eq_true, if_false]

end

end

/-- The tests before a request of either mailbox have been passed. -/
theorem exec_grtTime {s : State} {mid op arg : Nat} {c : Instr} (e : exec c s = act s fun s => mbxRequest s mid 0x1000080 op false arg [])
    (free : Free s mid 0x1000080) (page : enabled s 0x1000000 = true) (ready : bit s.cru.xcReady 0 = true) (small : op < 256) :
    exec c s = .next (respond (grtTimeReq (asks s mid 0x1000080 op false arg []) 0x1000080) {}) := by
  rw [e, act_up free.1, request_grtTime s mid op arg false [] free small, grtMbx_time (grottoAnswers_asks page ready ..), written_nil]

theorem exec_grtCmd {s : State} {mid op arg : Nat} {d : List Word} {c : Instr} (e : exec c s = act s fun s => mbxRequest s mid 0x10000C0 op true arg d)
    (free : Free s mid 0x10000C0) (page : enabled s 0x1000000 = true) (ready : bit s.cru.xcReady 0 = true) (small : op < 256) :
    exec c s = .next (respond (grtCmdReq (asks (written s d) mid 0x10000C0 op true arg d) 0x10000C0) {}) := by
  rw [e, act_up free.1, request_grtCmd s mid op arg true d free small, grtMbx_cmd (grottoAnswers_asks page ready ..)]

/-! ### The DIN pins (R645) -/

/-- A pin's level is accepted: the debounced run ends. -/
def levelTaken (s : State) (p : Nat) : State :=
  { s with dbg := { s.dbg with
      dinLvl := putBit s.dbg.dinLvl p (!bit s.dbg.dinLvl p), dinRun := tset s.dbg.dinRun p { tat s.dbg.dinRun p {} with n := 0 }
      dinQuiet := clrBit s.dbg.dinQuiet p } }

/-- The event of a pin's edge. -/
def dinEvent (s : State) (p : Nat) : Ev :=
  { type := 6, queue := fget s (Fld.DBG_DIN_QUEUE p), flow := p, src := 0x300B, ns := timePast s.sdl (tat s.dbg.dinRun p {}).first / nsUnit
    w5 := bitAt (!bit s.dbg.dinLvl p) 8 + p }

section
variable {s : State} {p : Nat} (on : dinEn s p = true) (runs : (tat s.dbg.dinRun p {}).n ≠ 0)
  (long : fget s (Fld.DBG_DIN_DEB p) ≤ (tat s.dbg.dinRun p {}).n) (quiet : bit s.dbg.dinQuiet p = false) (page : enabled s 0x1102000 = true)
  (rail : bit s.cru.rails 8 = false)
include on runs long quiet page rail

/-- A level that has stood for DEB samples is accepted, with an event where the edge matches. -/
theorem dinAccept_takes : dinAccept s p =
    if bit (fget s (Fld.DBG_DIN_EDGE p)) (if bit s.dbg.dinLvl p then 1 else 0)
      then batchOrHold (cinc (levelTaken s p) Fld.DBG_DIN_EVT_COUNT) .din p (dinEvent s p) else levelTaken s p := by
  have ends : (!dinEn s p || (tat s.dbg.dinRun p {}).n == 0 || decide ((tat s.dbg.dinRun p {}).n < fget s (Fld.DBG_DIN_DEB p))) = false := by
    rw [on, beq_false_of_ne runs, decide_eq_false (Nat.not_lt.2 long)]
    rfl
  have queue : fget (cinc (levelTaken s p) Fld.DBG_DIN_EVT_COUNT) (Fld.DBG_DIN_QUEUE p) = fget s (Fld.DBG_DIN_QUEUE p) :=
    fget_cinc_ne _ _ _ (by simp only [fkey, Fld.DBG_DIN_QUEUE, Fld.DBG_DIN_EVT_COUNT]; omega)
  have page_ : enabled (levelTaken s p) 0x1102000 = true := page
  have edges : (if (!bit s.dbg.dinLvl p) = true then bit (fget s (Fld.DBG_DIN_EDGE p)) 0 else bit (fget s (Fld.DBG_DIN_EDGE p)) 1) =
      bit (fget s (Fld.DBG_DIN_EDGE p)) (if bit s.dbg.dinLvl p then 1 else 0) := by
    cases bit s.dbg.dinLvl p <;> rfl
  have accepts : dinAccept s p = if (bit s.dbg.dinQuiet p || !enabled (levelTaken s p) 0x1102000 || bit s.cru.rails 8 || !(if
        (!bit s.dbg.dinLvl p) = true then bit (fget s (Fld.DBG_DIN_EDGE p)) 0 else bit (fget s (Fld.DBG_DIN_EDGE p)) 1)) = true
      then levelTaken s p
      else batchOrHold (cinc (levelTaken s p) Fld.DBG_DIN_EVT_COUNT) .din p
        { dinEvent s p with queue := fget (cinc (levelTaken s p) Fld.DBG_DIN_EVT_COUNT) (Fld.DBG_DIN_QUEUE p) } := by
    unfold dinAccept
    dsimp only
    rw [ends, if_neg Bool.false_ne_true, quiet, if_neg Bool.false_ne_true]
    rfl
  rw [accepts, quiet, page_, rail, edges, queue]
  cases bit (fget s (Fld.DBG_DIN_EDGE p)) (if bit s.dbg.dinLvl p then 1 else 0) <;> rfl

end

/-- An accepted level that differs from the one before reaches the Belvedere (R507). -/
theorem acceptReport_loud {s v : State} {p : Nat} (quiet : bit s.dbg.dinQuiet p = false) (page : enabled s 0x1102000 = true) (hv : v = dinAccept s p) :
    acceptReport s p = if bit v.dbg.dinLvl p = bit s.dbg.dinLvl p then v
      else blvDinEdge v p (bit v.dbg.dinLvl p) (timePast s.sdl (tat s.dbg.dinRun p {}).first / nsUnit) := by
  subst hv
  simp only [acceptReport, quiet, page, Bool.not_true, Bool.false_or, beq_iff_eq]

/-- At a sample the runs that have ended are accepted first. -/
theorem sampleAll_now {s u w : State} {levels v : Nat} (now : s.sdl.raw % 1000 = 0) (hu : u = (List.range 32).foldl acceptReport s)
    (up : u.cru.inReset = false) (still : u.sdl.raw % 1000 = 0) (hw : w = (List.range 32).foldl dinAccept u)
    (hv : v = if bit w.cru.rails 8 then 0 else levels) {x : State} (hx : x = (List.range 32).foldl (fun y p => dinSampleOne y v p) w) :
    sampleAll s levels = { x with dbg := { x.dbg with dinPin := v, dinRaw := v } } := by
  have samples : (u.cru.inReset || u.sdl.raw % 1000 != 0) = false := by rw [up, still]; rfl
  have taken : dinSample u levels = { (List.range 32).foldl (fun y p => dinSampleOne y v p) w with dbg :=
      { ((List.range 32).foldl (fun y p => dinSampleOne y v p) w).dbg with dinPin := v, dinRaw := v } } := by
    rw [dinSample, samples, if_neg Bool.false_ne_true, hv, hw]
  rw [sampleAll, if_pos now, ← hu, taken, hx]

/-! ### The boot ROM (R581, R629, R630) -/

/-- The choice looks at the two images only. -/
theorem imgPick_congr (s : State) {f g : Nat → Bool} (zero : f 0 = g 0) (one : f 1 = g 1) : imgPick s f = imgPick s g := by
  simp only [imgPick, zero, one]

/-- The image that the boot ROM enters: a good one, or before the lifecycle closes one that is not unreadable or malformed. -/
def bootPick (s : State) (r : Nat → Nat) : Option Nat :=
  (imgPick s fun i => r i == 0).or (if s.gth.lcBoot = 0 then imgPick s (fun i => r i != 5 && r i != 1) else none)

/-- A failed image is recorded. -/
def bootFailed (s : State) (i r : Nat) : State := if 2 ≤ r ∧ r ≤ 4 then gthRecord s 0x0406 [i, r - 1] else s

theorem bootSelect_first {s : State} {e0 e1 : Bool} (up : s.cru.inReset = false) (stage : s.dbg.stage = 0) {r : Nat → Nat}
    (hr : r = fun i => imgResult s i (if i = 0 then e0 else e1)) {pick : Option Nat} (hp : pick = bootPick s r) {u v : State}
    (hu : u = bootFailed (bootFailed s 0 (r 0)) 1 (r 1))
    (hv : v = { u with dbg := { u.dbg with res0 := r 0, res1 := r 1, stage := if pick.isSome then 1 else 0xE, image := pick.getD 0 } }) :
    bootSelect s e0 e1 = pick.elim v fun i => physPut v 0x4000 (sramBase + imgLoad v i) (imgPayload v i) := by
  have starts : (s.cru.inReset || s.dbg.stage != 0) = false := by rw [up, stage]; rfl
  have zero : imgResult s 0 e0 = r 0 := by rw [hr]; rfl
  have one : imgResult s 1 e1 = r 1 := by rw [hr]; rfl
  have good : imgPick s (fun i => (if i = 0 then r 0 else r 1) == 0) = imgPick s fun i => r i == 0 := imgPick_congr s rfl rfl
  have readable : imgPick s (fun i => (if i = 0 then r 0 else r 1) != 5 && (if i = 0 then r 0 else r 1) != 1) =
      imgPick s fun i => r i != 5 && r i != 1 := imgPick_congr s rfl rfl
  subst hv hu
  rw [bootSelect, starts, if_neg Bool.false_ne_true]
  simp only [zero, one, good, readable]
  rw [bootPick] at hp
  cases first : imgPick s fun i => r i == 0 with
  | none =>
    rw [first, Option.none_or] at hp
    simp only [← hp]
    cases pick <;> rfl
  | some i =>
    rw [first, Option.some_or] at hp
    subst hp
    rfl

/-! ### GO (R631) -/

/-- A pair waits to be started. -/
def waitsToStart (s : State) (k : Nat) : Bool := k != 0 && decide (k < 48) && (tget s.dbg.started k).isNone

theorem waitsToStart_iff (s : State) (k : Nat) : waitsToStart s k = true ↔ k ≠ 0 ∧ k < 48 ∧ tget s.dbg.started k = none := by
  simp only [waitsToStart, Bool.and_eq_true, bne_iff_ne, ne_eq, decide_eq_true_eq, Option.isNone_iff_eq_none, and_assoc]

/-- The pairs started once GO has named `ks`. -/
def startedBy (s : State) (ks : List Nat) : Tbl Nat :=
  (ks.filter (waitsToStart s)).foldl (fun t k => tset t k (fget s Fld.DBG_BOOT_ENTRY_A)) s.dbg.started

section
variable {b : State} {ks : List Nat}

theorem bootGo_all (all : ∀ k ∈ ks, waitsToStart b k = true) : bootGo b ks = { b with dbg := { b.dbg with started := startedBy b ks } } :=
  if_pos (List.all_eq_true.2 all)

theorem bootGo_some (ignored : ∃ k ∈ ks, waitsToStart b k = false) :
    bootGo b ks = wign { b with dbg := { b.dbg with started := startedBy b ks } } 0x1100000 :=
  if_neg (by
    obtain ⟨k, hk, no⟩ := ignored
    exact fun all => Bool.false_ne_true (no.symm.trans (List.all_eq_true.1 all k hk)))

end

theorem go0_at : commandAt 0x1100048 (.dbg .DBG_BOOT_GO0) 0 [⟨31, 0, .wsc, false, 0, 0, 4294967295, .none⟩] = true := by decide +kernel

theorem go1_at : commandAt 0x110004C (.dbg .DBG_BOOT_GO1) 0 [⟨15, 0, .wsc, false, 0, 0, 65535, .none⟩] = true := by decide +kernel

theorem bits_low (v h : Nat) : bits v h 0 = v % 2 ^ (h + 1) := by rw [bits, Nat.pow_zero, Nat.div_one, Nat.sub_zero]

/-- One field from bit 0 takes the low bits. -/
theorem sum_lowField (v h reset min max : Nat) (acc : Acc) (prv : Bool) (dep : Dep) :
    ([⟨h, 0, acc, prv, reset, min, max, dep⟩].map (fieldBits v)).sum = v % 2 ^ (h + 1) := by
  rw [List.map_cons, List.map_nil, List.sum_cons, List.sum_nil, fieldBits_mk, bits_low, Nat.pow_zero, Nat.mul_one, Nat.add_zero]

theorem bitsOf_mod (v n : Nat) : bitsOf (v % 2 ^ n) n = bitsOf v n :=
  List.filter_congr fun i hi => bit_mod v n i (List.mem_range.1 hi)

/-- A write of DBG_BOOT_GO0 starts the pairs 0 to 31 that it names. -/
theorem meshWrite_go0 {s : State} {mid v : Nat} (may : mayWrite s mid 0x1100048 = true) (small : v < 2 ^ 32) :
    meshWrite s mid 0x1100048 v = respond (bootGo (if v = 0 then s else wscNote s 0x1100048 v) (bitsOf v 32)) {} := by
  have sum := (sum_lowField v 31 0 0 4294967295 .wsc false .none).trans (Nat.mod_eq_of_lt small)
  obtain ⟨l, name, copy, addr, written, some_, total⟩ :=
    meshWrite_commandAt go0_at (by decide) (by decide) (by simp) (by simp) (by simp) may small sum
  rw [written]
  simp only [commandWrite, some_, total, name, addr, Bool.false_eq_true, if_false, dbgWsc]

/-- A write of DBG_BOOT_GO1 starts the pairs 32 to 47 that it names. -/
theorem meshWrite_go1 {s : State} {mid v x : Nat} (may : mayWrite s mid 0x110004C = true) (small : v < 2 ^ 32) (hx : x = v % 65536) :
    meshWrite s mid 0x110004C v = respond (bootGo (if x = 0 then s else wscNote s 0x110004C x) ((bitsOf v 16).map (32 + ·))) {} := by
  have sum := (sum_lowField v 15 0 0 65535 .wsc false .none).trans hx.symm
  have named : bitsOf x 16 = bitsOf v 16 := by rw [hx]; exact bitsOf_mod v 16
  obtain ⟨l, name, copy, addr, written, some_, total⟩ :=
    meshWrite_commandAt go1_at (by decide) (by decide) (by simp) (by simp) (by simp) may small sum
  rw [written, ← named]
  simp only [commandWrite, some_, total, name, addr, Bool.false_eq_true, if_false, dbgWsc]

/-! ### The boot flash (R654) -/

section
variable {q : State} {a : Nat} (page : enabled q 0x1101000 = true)
include page

theorem bflReq_read (op : (mbxAt q a).op = 1) (wr : (mbxAt q a).wr = false) : bflReq q a true =
    mbxAnswer (fset q Fld.DBG_BFL_ADDR_ADDR ((fget q Fld.DBG_BFL_ADDR_ADDR + 48) % 2 ^ 28)) a 0
      (wordsOfBytes 12 (flashRead q.dbg.flash (fget q Fld.DBG_BFL_ADDR_ADDR) 48)) := by
  simp only [bflReq, page, op, wr, Bool.not_true, Bool.false_eq_true, if_false]

theorem bflReq_readFails (op : (mbxAt q a).op = 1) (wr : (mbxAt q a).wr = false) : bflReq q a false = mbxEnd q a 1 := by
  simp only [bflReq, page, op, wr, Bool.not_true, Bool.not_false, Bool.false_eq_true, if_false, if_true]

theorem bflReq_program {ok : Bool} {b : Nat} (op : (mbxAt q a).op = 2) (wr : (mbxAt q a).wr = true)
    (hb : b = fget q Fld.DBG_BFL_ADDR_ADDR / 32 * 32) : bflReq q a ok =
      if flashProtected q b 32 then mbxEnd q a 2
      else if ok then mbxEnd { q with dbg := { q.dbg with
        flash := flashProgram q.dbg.flash b (bytesOfWords ((List.range 8).map fun i => w32 ((mbxAt q a).w i))) } } a 0
      else mbxEnd (cinc q Fld.DBG_BFL_ERR_COUNT) a 1 := by
  subst hb
  cases ok <;> simp only [bflReq, page, op, wr, Bool.not_true, Bool.not_false, Bool.false_eq_true, if_false, if_true]

theorem bflReq_erase {ok : Bool} {b : Nat} (op : (mbxAt q a).op = 3) (wr : (mbxAt q a).wr = true)
    (hb : b = fget q Fld.DBG_BFL_ADDR_ADDR / 4096 * 4096) : bflReq q a ok =
      if flashProtected q b 4096 then mbxEnd q a 2
      else if ok then mbxEnd { q with dbg := { q.dbg with flash := flashErase q.dbg.flash b (b + 4096) } } a 0
      else mbxEnd (cinc q Fld.DBG_BFL_ERR_COUNT) a 1 := by
  subst hb
  cases ok <;> simp only [bflReq, page, op, wr, Bool.not_true, Bool.not_false, Bool.false_eq_true, if_false, if_true]

end

theorem exec_bfl {s : State} {mid op : Nat} {wr ok : Bool} {d : List Word} {c : Instr} (e : exec c s = act s fun s => flashRequest s ok mid op wr d)
    (free : Free s mid 0x1101080) (notPav : midClass mid ≠ 2) (small : op < 256) :
    exec c s = .next (respond (bflReq (asks (written s d) mid 0x1101080 op wr 0 d) 0x1101080 ok) {}) := by
  rw [e, act_up free.1, flashRequest, if_neg notPav, request_dbgBfl s ok mid op wr d free notPav small]

theorem flashProtected_congr {q s : State} (field : ∀ f, fget q f = fget s f) (a n : Nat) : flashProtected q a n = flashProtected s a n := by
  simp only [flashProtected, field]

theorem dbgMbx_dout {q : State} {a : Nat} (op : (mbxAt q a).op = 1) (wr : (mbxAt q a).wr = true) :
    dbgMbx .DBG_DOUT a q = mbxEnd (doutCommand q ((mbxAt q a).w 0) ((mbxAt q a).w 1)) a 0 := by
  simp only [dbgMbx, op, wr, beq_self_eq_true, Bool.and_self, if_true]

/-! ### The test access port (R560, R648–R651) -/

theorem tapSet_down {s : State} (down : tapUp s = false) (i : TapInstr) (f : Tap → Tap) : tapSet s i f = s := by
  simp only [tapSet, down, Bool.not_false, if_true]

/-- The port with an instruction in force. -/
def tapWith (s : State) (i : TapInstr) (drives : Bool) : Tap := { s.tap with ir := i, drives := drives, highz := false, acTest := 0 }

/-- The test instructions drive the pins (R651). -/
def tapDrives : TapInstr → Bool
  | .extest | .clamp | .highz | .extestPulse | .extestTrain => true
  | _ => false

theorem tapSet_up {s : State} (up : tapUp s = true) (i : TapInstr) (f : Tap → Tap) :
    tapSet s i f = { s with tap := f { tapWith s i (tapDrives i) with highz := i == .highz } } := by
  unfold tapSet
  rw [up, Bool.not_true, if_neg Bool.false_ne_true]
  cases i <;> rfl

theorem tapScan_eq (pins shift : BitVec 1874) (t : Tap) :
    tapScan pins.toNat shift.toNat t = { t with captured := pins.toNat, boundary := shift.toNat } := by
  rw [tapScan, boundaryCells, Nat.mod_eq_of_lt pins.isLt, Nat.mod_eq_of_lt shift.isLt]

theorem privOpen_iff (s : State) : privOpen s = true ↔ s.gth.lc = 0 ∨ s.gth.lc ≠ 3 ∧ s.gth.unlocked = true := by
  simp only [privOpen, Bool.or_eq_true, beq_iff_eq, Bool.and_eq_true, bne_iff_ne, ne_eq]

/-- Settles O60: the Grotto, the pins, the boot ROM, GO, the boot flash, DOUT and the test instructions, each by the lemma on it. The cause that the
latch accumulates is log 53, the choice of images in every lifecycle state log 56, and that TAP_PRIVATE stops the model where it is open log 85. -/
theorem boardAndPins : Obligations.BoardAndPins := by
  intro s
  refine ⟨fun full => congrArg Host.Outcome.next (calendarSecond_wraps full), fun full => congrArg Host.Outcome.next (opsecStep_counts full),
    congrArg Host.Outcome.next (tamperEdge_high s), fun u hu => congrArg Host.Outcome.next (tamperEdge_low hu),
    fun mid arg d few page ready => ⟨fun free => ⟨?_, ?_⟩, fun free w q hw hq => ⟨?_, ?_, ?_, ?_⟩⟩, fun up => ⟨?_, ?_, ?_, ?_, ?_, ?_⟩,
    fun down c hc => ?_, fun up pins shift t ht => ?_⟩
  · rw [exec_grtTime (op := 1) (arg := 0) rfl free page ready (by decide), grtTimeReq_now (asks_op ..) (asks_wr ..)]
    rfl
  · have part : (mbxAt (asks s mid.toNat 0x1000080 2 false arg.toNat []) 0x1000080).arg % 8 = arg.toNat % 8 := by
      rw [asks_arg]
      omega
    rw [exec_grtTime (op := 2) (arg := arg.toNat) rfl free page ready (by decide), grtTimeReq_scratch (asks_op ..) (asks_wr ..) part]
    rfl
  · have run : exec (.grtSetcal mid d) s = .next (respond (grtCmdReq (q 1 0 d) 0x10000C0) {}) := by
      rw [hq]
      exact exec_grtCmd (op := 1) rfl free page ready (by decide)
    have seconds : (mbxAt (q 1 0 d) 0x10000C0).w2 0 = w 0 + 2 ^ 32 * w 1 := by
      rw [hq, hw, Mbx.w2, asks_word _ _ _ _ _ _ _ few, asks_word _ _ _ _ _ _ _ few]
    have grt : (q 1 0 d).grt = s.grt := by rw [hq, asks_grt, written_grt]
    rw [run, grtCmdReq_setcal (by rw [hq, asks_wr]) (by rw [hq, asks_op]), seconds, grt]
    rfl
  · have run : exec (.grtTampclr mid) s = .next (respond (grtCmdReq (q 2 0 []) 0x10000C0) {}) := by
      rw [hq]
      exact exec_grtCmd (op := 2) rfl free page ready (by decide)
    have grt : (q 2 0 []).grt = s.grt := by rw [hq, asks_grt, written_grt]
    rw [run, grtCmdReq_tampclr (by rw [hq, asks_wr]) (by rw [hq, asks_op]), grt]
    split <;> rfl
  · have run : exec (.grtScrwrite mid arg d) s = .next (respond (grtCmdReq (q 3 arg.toNat d) 0x10000C0) {}) := by
      rw [hq]
      exact exec_grtCmd (op := 3) rfl free page ready (by decide)
    have part : (mbxAt (q 3 arg.toNat d) 0x10000C0).arg % 8 = arg.toNat % 8 := by
      rw [hq, asks_arg]
      omega
    rw [run, grtCmdReq_scrwrite (by rw [hq, asks_wr]) (by rw [hq, asks_op]) part]
    rfl
  · have run : exec (.grtRstclr mid) s = .next (respond (grtCmdReq (q 4 0 []) 0x10000C0) {}) := by
      rw [hq]
      exact exec_grtCmd (op := 4) rfl free page ready (by decide)
    have grt : (q 4 0 []).grt = s.grt := by rw [hq, asks_grt, written_grt]
    rw [run, grtCmdReq_rstclr (by rw [hq, asks_wr]) (by rw [hq, asks_op]), grt]
    rfl
  · intro pin r u v hr on runs long quiet page rail hu hv
    subst hr
    have accepted : v = dinAccept s pin.val := by
      rw [hv, hu, dinAccept_takes on runs long quiet page rail]
      rfl
    have e : exec (.dinLevelAccept pin) s = act s fun s => acceptReport s pin.val := rfl
    exact ⟨_, rfl, by rw [e, act_up up, acceptReport_loud quiet page accepted]⟩
  · intro levels v u w now hu up_ still hw hv
    have e : exec (.dinSample levels) s = act s fun s => sampleAll s levels.toNat := rfl
    exact ⟨_, rfl, by rw [e, act_up up, sampleAll_now now hu up_ still hw hv rfl]⟩
  · intro e0 e1 r pick f u v stage hr hp hf hu hv
    have chosen : pick = bootPick s r := by
      rw [hp, bootPick]
      cases imgPick s fun i => r i == 0 <;> rfl
    have failed : u = bootFailed (bootFailed s 0 (r 0)) 1 (r 1) := by
      rw [hu, hf]
      rfl
    have e : exec (.bootImageSelect e0 e1) s = act s fun s => bootSelect s e0 e1 := rfl
    rw [e, act_up up, bootSelect_first up stage hr chosen failed hv]
    cases pick <;> rfl
  · intro mid second pairs ks x b u st may hks hst hx hb hu
    have e : exec (.dbgBootGo mid second pairs) s = act s fun s => meshWrite s mid.toNat (if second then 0x110004C else 0x1100048) pairs.toNat := rfl
    have run : exec (.dbgBootGo mid second pairs) s = .next (respond (bootGo b ks) {}) := by
      cases second
      · rw [e, act_up up, if_neg Bool.false_ne_true, meshWrite_go0 may pairs.isLt, hks, hb, hx]
        rfl
      · rw [e, act_up up, if_pos rfl, meshWrite_go1 may pairs.isLt hx, hks, hb]
        rfl
    have dbg : b.dbg = s.dbg := by
      rw [hb]
      split <;> rfl
    have entry : fget b Fld.DBG_BOOT_ENTRY_A = fget s Fld.DBG_BOOT_ENTRY_A := by
      rw [hb]
      split <;> rfl
    have waits (k : Nat) : waitsToStart b k = waitsToStart s k := by rw [waitsToStart, dbg, waitsToStart]
    have started : startedBy b ks = st := by
      have same : waitsToStart b = waitsToStart s := funext waits
      rw [hst, startedBy, same, dbg, entry]
      rfl
    rw [run]
    refine ⟨fun all => ?_, fun ignored => ?_⟩
    · rw [bootGo_all fun k hk => (waits k).trans ((waitsToStart_iff s k).2 (all k hk)), started, dbg, hu]
    · have some_ : ∃ k ∈ ks, waitsToStart b k = false := by
        obtain ⟨k, hk, no⟩ := ignored
        refine ⟨k, hk, ?_⟩
        rw [waits, ← Bool.not_eq_true, waitsToStart_iff]
        rintro ⟨nonzero, low, idle⟩
        rcases no with h | h | h
        · exact nonzero h
        · exact Nat.not_lt.2 h low
        · exact h idle
      rw [bootGo_some some_, started, dbg, hu]
  · intro mid d ok a q free notPav page few ha hq
    have page_ (op : Nat) (wr : Bool) (e : List Word) : enabled (asks (written s e) mid.toNat 0x1101080 op wr 0 e) 0x1101000 = true := by
      rw [← page]
      simp only [enabled, fbit, fget_asks, fget_written]
    have field (op : Nat) (e : List Word) (f : FieldRef) : fget (q op e) f = fget s f := by rw [hq, fget_asks, fget_written]
    have dbg (op : Nat) (e : List Word) : (q op e).dbg = s.dbg := by rw [hq, asks_dbg, written_dbg]
    have on : enabled (asks s mid.toNat 0x1101080 1 false 0 []) 0x1101000 = true := page_ 1 false []
    refine ⟨?_, ?_, fun b hb => ?_, fun b hb => ?_⟩
    · rw [exec_bfl (op := 1) (wr := false) (d := []) rfl free notPav (by decide), written_nil, bflReq_read on (asks_op ..) (asks_wr ..),
        fget_asks, asks_dbg, ha]
    · rw [exec_bfl (op := 1) (wr := false) (d := []) rfl free notPav (by decide), written_nil,
        bflReq_readFails on (asks_op ..) (asks_wr ..)]
      rfl
    · have run : exec (.dbgBflProgram mid d ok) s = .next (respond (bflReq (q 2 d) 0x1101080 ok) {}) := by
        rw [hq]
        exact exec_bfl (op := 2) rfl free notPav (by decide)
      have data : (mbxAt (q 2 d) 0x1101080).w = word s 0x1101080 d := by
        rw [hq]
        exact funext fun i => asks_word _ _ _ _ _ _ _ few i
      have place : b = fget (q 2 d) Fld.DBG_BFL_ADDR_ADDR / 32 * 32 := by rw [field, ← ha, hb]
      have on : enabled (q 2 d) 0x1101000 = true := by rw [hq]; exact page_ 2 true d
      rw [run, bflReq_program on (by rw [hq, asks_op]) (by rw [hq, asks_wr]) place, flashProtected_congr (field 2 d), data, dbg]
      refine ⟨fun guarded => ?_, fun open_ => ?_⟩
      · rw [if_pos guarded]
        rfl
      · rw [open_, if_neg Bool.false_ne_true]
        cases ok <;> rfl
    · have run : exec (.dbgBflErase mid ok) s = .next (respond (bflReq (q 3 []) 0x1101080 ok) {}) := by
        rw [hq]
        exact exec_bfl (op := 3) rfl free notPav (by decide)
      have place : b = fget (q 3 []) Fld.DBG_BFL_ADDR_ADDR / 4096 * 4096 := by rw [field, ← ha, hb]
      have on : enabled (q 3 []) 0x1101000 = true := by rw [hq]; exact page_ 3 true []
      rw [run, bflReq_erase on (by rw [hq, asks_op]) (by rw [hq, asks_wr]) place, flashProtected_congr (field 3 []), dbg]
      refine ⟨fun guarded => ?_, fun open_ => ?_⟩
      · rw [if_pos guarded]
        rfl
      · rw [open_, if_neg Bool.false_ne_true]
        cases ok <;> rfl
  · intro mid l m free
    have e : exec (.dbgDout mid l m) s = act s fun s => mbxRequest s mid.toNat 0x1102100 1 true 0 [l, m] := rfl
    have words (i : Nat) : (mbxAt (asks (written s [l, m]) mid.toNat 0x1102100 1 true 0 [l, m]) 0x1102100).w i = word s 0x1102100 [l, m] i :=
      asks_word s mid.toNat 0x1102100 1 0 true [l, m] (Nat.le_add_right 2 10) i
    rw [e, act_up up, request_dbgDout s mid.toNat 1 0 true [l, m] free (by decide), dbgMbx_dout (asks_op ..) (asks_wr ..), words, words]
    rfl
  · have stays : exec .tapPrivate s = .next (tapSet s .bypass id) := by
      have e : exec .tapPrivate s = if tapUp s && privOpen s then .fault .privateTestInstruction else .next (tapSet s .bypass id) := rfl
      rw [e, down, Bool.false_and, if_neg Bool.false_ne_true]
    have idcode : exec .tapIdcode s = .next s := by
      have e : exec .tapIdcode s = .next (if tapUp s then respond (tapSet s .idcode id) { data := [0xB1280CB5] } else s) := rfl
      rw [e, down, if_neg Bool.false_ne_true]
    simp only [List.mem_cons, List.not_mem_nil, or_false] at hc
    rcases hc with rfl | rfl | rfl | rfl | rfl
    · exact idcode
    · exact congrArg Host.Outcome.next (tapSet_down down .bypass id)
    · exact congrArg Host.Outcome.next (tapSet_down down .clamp id)
    · exact congrArg Host.Outcome.next (tapSet_down down .highz id)
    · rw [stays, tapSet_down down]
  · have set_ (i : TapInstr) (f : Tap → Tap) := tapSet_up up i f
    subst ht
    refine ⟨?_, congrArg Host.Outcome.next (set_ .bypass id), congrArg Host.Outcome.next (set_ .clamp id), congrArg Host.Outcome.next (set_ .highz id),
      ?_, ?_, ?_, ?_, fun addr op bad u hu => ?_, fun shut => ?_, fun open_ => ?_⟩
    · have e : exec .tapIdcode s = .next (if tapUp s then respond (tapSet s .idcode id) { data := [0xB1280CB5] } else s) := rfl
      rw [e, up, if_pos rfl, set_]
      rfl
    · have e : exec (.tapExtest pins shift) s = .next (tapSet s .extest (tapScan pins.toNat shift.toNat)) := rfl
      rw [e, set_, tapScan_eq]
      rfl
    · have e : exec (.tapSamplePreload pins shift) s = .next (tapSet s .samplePreload (tapScan pins.toNat shift.toNat)) := rfl
      rw [e, set_, tapScan_eq]
      rfl
    · have e : exec (.tapExtestPulse pins shift) s = .next (acSet s .extestPulse 1 pins.toNat shift.toNat) := rfl
      rw [e, acSet, set_, tapScan_eq]
      rfl
    · have e : exec (.tapExtestTrain pins shift) s = .next (acSet s .extestTrain 2 pins.toNat shift.toNat) := rfl
      rw [e, acSet, set_, tapScan_eq]
      rfl
    · have e : exec (.tapDbgacc addr op bad) s = .next (dbgAccess s addr.toNat op bad) := rfl
      have inForce : tapSet s .dbgacc id = u := by
        rw [set_, hu]
        rfl
      rw [e, dbgAccess, up, Bool.not_true, if_neg Bool.false_ne_true, inForce, hu]
    · have e : exec .tapPrivate s = if tapUp s && privOpen s then .fault .privateTestInstruction else .next (tapSet s .bypass id) := rfl
      have closed : privOpen s = false := by
        rw [← Bool.not_eq_true, privOpen_iff]
        rintro (zero | ⟨alive, unlocked⟩)
        · rcases shut with h | ⟨h, _⟩
          · omega
          · exact h zero
        · rcases shut with h | ⟨_, h⟩
          · exact alive h
          · rw [unlocked] at h
            cases h
      rw [e, closed, Bool.and_false, if_neg Bool.false_ne_true, set_]
      rfl
    · have e : exec .tapPrivate s = if tapUp s && privOpen s then .fault .privateTestInstruction else .next (tapSet s .bypass id) := rfl
      rw [e, up, (privOpen_iff s).2 open_, Bool.true_and, if_pos rfl]

end Sys2Proof.Machine
end

section
/-! Proofs about the command queue, and about writes of mailboxes and of block registers by the codes of their fields (02_parterre_registers.md). -/

namespace Sys2Proof.Machine

/-! ### The queue (log 1) -/

/-- Settles O3, by the definition of a step. That the front of a queue is what a step takes is the model's choice (log 1). -/
theorem stepRunsFront : Obligations.StepRunsFront := fun _ _ _ => rfl

/-- Settles O7: what a step keeps of a state says that the commands behind the front one stand, and that an empty queue stays empty. The queue
itself is the model's choice (log 1). -/
theorem queueShrinks : Obligations.QueueShrinks := by
  intro s t h
  cases queue : s.pending with
  | nil => exact (keeps_step_nil s t queue h).queue.trans queue
  | cons i rest => exact (keeps_step_cons i rest s t queue h).queue

/-! ### The path of a command that writes a word (R46, R49) -/

/-- Every register stands above the header of its page. -/
theorem regAt_high {a : Nat} {l : RegLoc} (here : regAt a = some l) : 0x40 ≤ a % 0x1000 :=
  Nat.le_trans (row_facts a l here).1 (regAt_spec a l here).2.2.2.2.1

/-- An aligned offset meets a register or mailbox at an aligned offset in it. -/
theorem sub_aligned {a : Nat} {l : RegLoc} (here : regAt a = some l) (h4 : a % 4 = 0) : l.sub % 4 = 0 := by
  obtain ⟨_, _, base, _, _, place, _⟩ := regAt_spec a l here
  obtain ⟨_, row, stride, _⟩ := row_facts a l here
  have copies : l.i * l.desc.stride % 4 = 0 := by rw [Nat.mul_mod, stride, Nat.mul_zero, Nat.zero_mod]
  rw [RegLoc.addr, base, pageBase] at place
  omega

/-- A register with a field is no mailbox. -/
theorem mbx_of_field {a : Nat} {l : RegLoc} (here : regAt a = some l) (listed : l.desc.fields ≠ []) : l.desc.mbx = false := by
  obtain ⟨_, _, _, _, box, _⟩ := row_facts a l here
  rw [← box, List.isEmpty_eq_false_iff]
  exact listed

section
variable {s : State} {mid : Nat} {off : BitVec 26} {v : Word} {l : RegLoc}

theorem meshWrite_word (may : mayWrite s mid (4 * off.toNat) = true) (here : regAt (4 * off.toNat) = some l) :
    meshWrite s mid (4 * off.toNat) v.toNat = respond (regWrite s true l mid v.toNat) {} := by
  have range := off.isLt
  rw [meshWrite_may s mid (4 * off.toNat) v.toNat l here may (by omega) (by omega), Nat.mod_eq_of_lt v.isLt]

theorem regWrite_mailbox (may : mayWrite s mid (4 * off.toNat) = true) (here : regAt (4 * off.toNat) = some l) (box : l.desc.mbx = true) (v : Nat) :
    regWrite s true l mid v = mbxWrite s true l mid v := by
  have allowed := (mayWrite_all s l mid _ v here may).2
  rw [regWrite, allowed, Bool.not_true, if_neg Bool.false_ne_true, if_pos box]

/-- A write of a register that is no claim register goes to its fields by their codes. -/
theorem regWrite_fields (may : mayWrite s mid (4 * off.toNat) = true) (here : regAt (4 * off.toNat) = some l) (listed : l.desc.fields ≠ [])
    (other : l.desc.name ≠ .sys .SYS_TX_CLAIM) (v : Nat) :
    regWrite s true l mid v = commandWrite (counterWrite (configWrite s l mid v) l mid v) l mid v := by
  obtain ⟨owned, allowed⟩ := mayWrite_all s l mid _ v here may
  rw [regWrite, allowed, mbx_of_field here listed, owned, Bool.not_true, if_neg Bool.false_ne_true, if_neg Bool.false_ne_true,
    if_neg Bool.false_ne_true]
  split
  · next claim => exact absurd claim other
  · rfl

/-- The write of a master without privilege to a register qualified `prv` is ignored and counted. -/
theorem regWrite_unprivileged (qualified : l.desc.priv = .prv) (low : isPriv mid = false) (v : Nat) : regWrite s true l mid v = wign s l.page.base := by
  rw [regWrite, qualified, allows, low, Bool.not_false, if_pos rfl]

end

/-- Settles O10: the write comes to the register, whose qualification refuses it. -/
theorem unprivilegedWrite : Obligations.UnprivilegedWrite := by
  intro s mid off v l up here qualified low reach free
  have range := off.isLt
  rw [exec_registerWrite s mid off v up,
    meshWrite_register s mid.toNat (4 * off.toNat) v.toNat l here (regAt_high here) reach free (by omega) (by omega), regWrite_unprivileged qualified low]

/-! ### Words of a mailbox (R53–R56, R656) -/

/-- A busy mailbox takes no write to _CMD, _ACK or a data word. -/
theorem mbxWrite_busy {s : State} {l : RegLoc} (busy : (mbxAt s l.addr).busy = true) (stat : l.sub / 4 ≠ 1) (spare : l.sub / 4 ≠ 3) (ok : Bool)
    (mid v : Nat) : mbxWrite s ok l mid v = wign s l.page.base := by
  simp only [mbxWrite, busy, if_true]
  split
  next => rfl
  next h => exact absurd h stat
  next h => exact absurd h spare
  next => rfl
  next => rfl

/-- A write of _CMD with GO to an idle mailbox puts the request in it and starts it. -/
theorem mbxWrite_start {s : State} {l : RegLoc} (idle : (mbxAt s l.addr).busy = false) (first : l.sub = 0) (ok : Bool) (mid : Nat) {v : Nat}
    (go : bit v 0 = true) : mbxWrite s ok l mid v = mbxGo ok l (setMbx s l.addr { mbxAt s l.addr with
      arg := v / 2 ^ 16 % 2 ^ 16, op := bits v 15 8, wr := bit v 1, busy := true, valid := false, code := 0, mid := mid }) := by
  simp only [mbxWrite, first, Nat.zero_div, idle, go, Bool.not_true, Bool.false_eq_true, if_false]

/-- A write of _ACK with bit 0 set acknowledges the answer of an idle mailbox. -/
theorem mbxWrite_ack {s : State} {l : RegLoc} (ack : l.sub = 8) (ok : Bool) (mid : Nat) : mbxWrite s ok l mid 1 =
    if (mbxAt s l.addr).busy = true then wign s l.page.base else setMbx s l.addr { mbxAt s l.addr with valid := false } := by
  have set : bit 1 0 = true := by decide
  simp only [mbxWrite, ack, Nat.reduceDiv, set, if_true]

/-- Settles O9: a write of a word of a busy mailbox, and GO on an answer that stands. That CODE is 0 from GO on is log 74. -/
theorem busyMailbox : Obligations.BusyMailbox := by
  intro s mid off v l up may here box
  have aligned : l.sub % 4 = 0 := sub_aligned here (Nat.mul_mod_right 4 _)
  have arg : v.toNat / 2 ^ 16 % 2 ^ 16 = v.toNat / 2 ^ 16 := by
    have := v.isLt
    omega
  rw [exec_registerWrite s mid off v up, meshWrite_word may here, regWrite_mailbox may here box]
  refine ⟨fun busy stat spare => ?_, fun idle _ first go => ?_⟩
  · rw [mbxWrite_busy busy (by omega) (by omega)]
  · rw [mbxWrite_start idle first true mid.toNat go, arg]

/-! ### Fields by their codes (R43, R46, R50, R59) -/

section
variable {s : State} {l : RegLoc} {mid : Nat}

/-- Fields picked by fewer codes are fewer. -/
theorem writable_nil_of_subset {cs ds : List Acc} (none_ : writable l ds mid = []) (sub : ∀ c ∈ cs, c ∈ ds) : writable l cs mid = [] := by
  simp only [writable, List.filter_eq_nil_iff, Bool.and_eq_true, List.contains_iff_mem, not_and] at none_ ⊢
  exact fun f hf hc => none_ f hf ⟨sub _ hc.1, hc.2⟩

theorem writable_ne_nil {cs : List Acc} (some_ : writable l cs mid ≠ []) : ∃ f ∈ l.desc.fields, f.acc ∈ cs := by
  obtain ⟨f, hf⟩ := List.exists_mem_of_ne_nil _ some_
  simp only [writable, List.mem_filter, Bool.and_eq_true, List.contains_iff_mem] at hf
  exact ⟨f, hf.1, hf.2.1.1⟩

theorem counterWrite_none (none_ : writable l [.ctr] mid = []) (v : Nat) : counterWrite s l mid v = s := by rw [counterWrite, none_, List.foldl_nil]

theorem commandWrite_none (none_ : writable l [.wsc] mid = []) (v : Nat) : commandWrite s l mid v = s := by
  rw [commandWrite, none_, List.isEmpty_nil, if_pos rfl]

theorem configWrite_none (none_ : writable l [.rw, .wbf] mid = []) (v : Nat) : configWrite s l mid v = s := by
  rw [configWrite, none_, List.isEmpty_nil, if_pos rfl]

/-- A page that is locked and not claimed takes no configuration. -/
theorem configWrite_locked (some_ : writable l [.rw, .wbf] mid ≠ []) (free : claimedBy s l.page.base = none) (lock : locked s l.page.base = true)
    (v : Nat) : configWrite s l mid v = wign s l.page.base := by
  rw [configWrite, List.isEmpty_eq_false_iff.2 some_, if_neg Bool.false_ne_true, free]
  exact if_pos lock

/-- Elsewhere what is written to `wbf` fields alone pends, in place of an unsent value. -/
theorem configWrite_pends (some_ : writable l [.wbf] mid ≠ []) (plain : writable l [.rw] mid = []) (free : claimedBy s l.page.base = none)
    (open_ : locked s l.page.base = false) (v : Nat) : configWrite s l mid v = { s with reg := { s.reg with
      pend := (s.reg.pend.filter fun x => x.addr != l.addr || x.sent != 0) ++ [{ addr := l.addr, val := pendWord s l mid v, acc := s.sdl.fab }] } } := by
  have both : writable l [.rw, .wbf] mid ≠ [] := fun none_ => some_ (writable_nil_of_subset none_ (by simp))
  rw [configWrite, List.isEmpty_eq_false_iff.2 both, if_neg Bool.false_ne_true, free]
  simp only [open_, plain, List.isEmpty_nil, if_true, Bool.false_eq_true, if_false]
  rw [bufferWrite, List.isEmpty_eq_false_iff.2 some_, if_neg Bool.false_ne_true]

end

/-- A claim register has no field that a write changes. -/
theorem not_claim_of_field {a : Nat} {l : RegLoc} (here : regAt a = some l) {f : FieldDesc} (hf : f ∈ l.desc.fields) (code : f.acc ≠ .mbx) :
    l.desc.name ≠ .sys .SYS_TX_CLAIM := by
  obtain ⟨_, _, _, _, _, claim, _⟩ := row_facts a l here
  exact fun name => code (claim name f hf)

/-- The one field of a SYS register that is a plain word. -/
def plainWord : FieldDesc := ⟨31, 0, .rw, false, 0, 0, 4294967295, .none⟩

/-- A write of a SYS register that is a plain word, outside locks and claims: the word takes the value, and nothing follows. -/
theorem meshWrite_plainWord {s : State} {mid o : Nat} {l : RegLoc} {r : SysReg} (here : regAt o = some l) (name : l.desc.name = .sys r)
    (fields : l.desc.fields = [plainWord]) (low : o < 0x200000) (h4 : o % 4 = 0) (may : mayWrite s mid o = true)
    (free : claimedBy s l.page.base = none) (open_ : locked s l.page.base = false) (v : Word) :
    meshWrite s mid o v.toNat = respond (fset s ⟨o, 0, 32, 0⟩ v.toNat) {} := by
  have box : l.desc.mbx = false := mbx_of_field here (by rw [fields]; exact List.cons_ne_nil _ _)
  have other : l.desc.name ≠ .sys .SYS_TX_CLAIM := not_claim_of_field here (f := plainWord) (by simp [fields]) (by decide)
  have addr : l.addr = o := regAt_addr here h4 box
  have clamped : clampTo 0 4294967295 (bits v.toNat 31 0) = v.toNat := by
    have := v.isLt
    simp only [clampTo, bits]
    omega
  rw [meshWrite_plain s mid o v.toNat l here may h4 (by omega) box other addr (by simp [fields, plainWord]) (by simp [fields]) free open_
    (by simp only [ignores, name]) (by simp [name]), Nat.mod_eq_of_lt v.isLt, follow_sys _ _ _ low]
  simp only [changed, here, name, fields, plainWord, List.foldl_cons, List.foldl_nil, clamped, refOf, fieldReset, addr, Nat.reduceSub, Nat.reduceAdd]

theorem regAt_scratch : ∃ l, regAt 0x58 = some l ∧ l.desc.name = .sys .SYS_SCRATCH ∧ l.page.base = 0 ∧ l.desc.fields = [plainWord] :=
  ⟨_, rfl, rfl, rfl, rfl⟩

/-- A write of the scratch word, on a page that may be locked. -/
theorem meshWrite_scratch {s : State} {mid : Nat} (may : mayWrite s mid 0x58 = true) (free : claimedBy s 0 = none) (v : Word) :
    meshWrite s mid 0x58 v.toNat = respond (if locked s 0 = true then wign s 0 else fset s Fld.SYS_SCRATCH_V v.toNat) {} := by
  obtain ⟨l, here, name, base, fields⟩ := regAt_scratch
  rw [← base] at free ⊢
  cases lock : locked s l.page.base with
  | false => exact meshWrite_plainWord here name fields (by decide) (by decide) may free lock v
  | true =>
    have listed : writable l [.rw, .wbf] mid ≠ [] := by simp [writable, fields, plainWord, fieldPresent]
    have written : regWrite s true l mid v.toNat = _ :=
      regWrite_fields (off := 0x16) may here (by simp [fields]) (by simp [name]) v.toNat
    rw [meshWrite_may s mid 0x58 v.toNat l here may (by decide) (by decide), Nat.mod_eq_of_lt v.isLt, written, configWrite_locked listed free lock,
      counterWrite_none (writable_none _ _ _ (by simp [fields, plainWord])), commandWrite_none (writable_none _ _ _ (by simp [fields, plainWord]))]
    rfl

section
variable {s : State} {mid : Nat} {off : BitVec 26} {v : Word} {l : RegLoc} (may : mayWrite s mid (4 * off.toNat) = true)
  (here : regAt (4 * off.toNat) = some l)
include may here

/-- A write of a `ctr` field takes the amount off. -/
theorem meshWrite_counter {f : FieldDesc} (fields : l.desc.fields = [f]) (code : f.acc = .ctr) :
    meshWrite s mid (4 * off.toNat) v.toNat = respond (csub s (refOf l f) (bits v.toNat f.hi f.lo)) {} := by
  obtain ⟨_, _, _, _, _, _, counter⟩ := row_facts _ l here
  obtain ⟨dep, prv, _⟩ := counter f (by simp [fields]) code
  have taken : writable l [.ctr] mid = [f] := by rw [writable_all l [.ctr] mid (by simp [fields, code, prv, dep]), fields]
  have other := not_claim_of_field here (f := f) (by simp [fields]) (by simp [code])
  rw [meshWrite_word may here, regWrite_fields may here (by simp [fields]) other,
    configWrite_none (writable_none _ _ _ (by simp [fields, code])), commandWrite_none (writable_none _ _ _ (by simp [fields, code])), counterWrite, taken,
    List.foldl_cons, List.foldl_nil]

/-- A write of a register of `wbf` fields that no transaction has claimed. -/
theorem meshWrite_buffered (some_ : writable l [.wbf] mid ≠ []) (only : writable l [.rw, .wsc, .ctr] mid = []) (free : claimedBy s l.page.base = none) :
    meshWrite s mid (4 * off.toNat) v.toNat = respond (if locked s l.page.base = true then wign s l.page.base else
      { s with reg := { s.reg with pend := (s.reg.pend.filter fun x => x.addr != l.addr || x.sent != 0) ++
        [{ addr := l.addr, val := pendWord s l mid v.toNat, acc := s.sdl.fab }] } }) {} := by
  obtain ⟨f, hf, code⟩ := writable_ne_nil some_
  rw [List.mem_singleton] at code
  have other := not_claim_of_field here hf (by simp [code])
  have counters : writable l [.ctr] mid = [] := writable_nil_of_subset only (by simp)
  have commands : writable l [.wsc] mid = [] := writable_nil_of_subset only (by simp)
  rw [meshWrite_word may here, regWrite_fields may here (List.ne_nil_of_mem hf) other, counterWrite_none counters, commandWrite_none commands]
  cases lock : locked s l.page.base with
  | false => rw [configWrite_pends some_ (writable_nil_of_subset only (by simp)) free lock, if_neg Bool.false_ne_true]
  | true => rw [configWrite_locked (fun none_ => some_ (writable_nil_of_subset none_ (by simp))) free lock, if_pos rfl]

end

/-- A mailbox at a multiple of 64 in its page stands above the header, and 8 bytes on is its _ACK. -/
theorem regIn_ack {p : PageLoc} (kind : p.kind ∈ pageKinds) {j : Nat} (hj : j < 64) {l : RegLoc} (here : regIn p (64 * j) = some l)
    (box : l.desc.mbx = true) : l.sub = 0 ∧ 0 < j ∧ regIn p (64 * j + 8) = some { l with sub := 8 } := by
  have row := List.all_eq_true.1 (List.all_eq_true.1 ack_ok _ kind) j (List.mem_range.2 hj)
  unfold regIn at here ⊢
  cases found : findRow p.kind.regs (64 * j) with
  | none => simp [found] at here
  | some e =>
    obtain ⟨d, i, sub⟩ := e
    simp only [found, Option.some.injEq] at here
    subst here
    simp only [found, show d.mbx = true from box, Bool.not_true, Bool.false_or, Bool.and_eq_true, decide_eq_true_eq] at row
    obtain ⟨⟨first, above⟩, ack⟩ := row
    exact ⟨first, above, by rw [ack]⟩

/-- _ACK of the mailbox at a multiple of 64 is the word 8 above it. -/
theorem ack_reaches {s : State} {mid : Nat} {a : BitVec 22} {l : RegLoc} (may : mayAsk s mid (64 * a.toNat) = true)
    (here : regAt (64 * a.toNat) = some l) (box : l.desc.mbx = true) :
    Reaches mid (64 * a.toNat) 8 { l with sub := 8 } ∧ unconfined s mid (64 * a.toNat + 8) = true := by
  have range := a.isLt
  obtain ⟨page, kind, base, _, _, place, _⟩ := regAt_spec _ l here
  have offset : 64 * a.toNat % 0x1000 = 64 * (a.toNat % 64) := by omega
  have next : (64 * a.toNat + 8) % 0x1000 = 64 * (a.toNat % 64) + 8 := by omega
  have found : regIn l.page (64 * (a.toNat % 64)) = some l := by simpa only [regAt, page, offset] using here
  obtain ⟨sub, above, ack⟩ := regIn_ack kind (Nat.mod_lt _ (by decide)) found box
  simp only [mayAsk, here, Bool.and_eq_true, List.all_eq_true, List.mem_range] at may
  obtain ⟨⟨reach, allowed⟩, free⟩ := may
  have same : pageAtOff (64 * a.toNat + 8) = some l.page := by
    have split_ : pageBase (64 * a.toNat) + 64 * a.toNat % 0x1000 = 64 * a.toNat := by
      rw [pageBase]
      omega
    have start : pageBase (64 * a.toNat) % 0x1000 = 0 := Nat.mul_mod_left _ _
    rw [← page, ← split_, pageAtOff_word _ _ start (by omega), Nat.add_assoc, pageAtOff_word _ _ start (by omega)]
  refine ⟨?_, free 2 (by decide)⟩
  exact { page := same, reg := by rw [next]; exact ack, high := by omega, word := by omega, low := by omega, mbx := box,
          addr := by rw [← place, sub]; rfl, sub := rfl, all := reach, may := allowed }

section
variable {s : State} (up : s.cru.inReset = false) (mid : Mid) (off : BitVec 26) (v : Word)
include up

theorem exec_counterAcknowledge : exec (.counterAcknowledge mid off v) s = .next (meshWrite s mid.toNat (4 * off.toNat) v.toNat) :=
  act_up up fun u => meshWrite u mid.toNat (4 * off.toNat) v.toNat

theorem exec_bufferedWrite : exec (.bufferedWrite mid off v) s = .next (meshWrite s mid.toNat (4 * off.toNat) v.toNat) :=
  act_up up fun u => meshWrite u mid.toNat (4 * off.toNat) v.toNat

theorem exec_mailboxAck (a : BitVec 22) : exec (.mailboxAck mid a) s = .next (meshWrite s mid.toNat (64 * a.toNat + 8) 1) :=
  act_up up fun u => meshWrite u mid.toNat (64 * a.toNat + 8) 1

end

/-- Settles O12: a write of a `rw` word, of a `ctr` field, of `wbf` fields, and of _ACK, each by its path. -/
theorem fieldWrites : Obligations.FieldWrites := by
  intro s mid up
  refine ⟨fun off v place may free => ?_, fun off v l f may here fields code => ⟨?_, fget_csub s _ _, fun g other => fget_csub_ne s _ g _ other⟩,
    fun off v l may here some_ only free => ?_, fun a l may here box => ?_⟩
  · have at_ : 4 * off.toNat = 0x58 := place
    rw [at_] at may
    rw [exec_registerWrite s mid off v up, at_, meshWrite_scratch may free]
  · rw [exec_counterAcknowledge up, meshWrite_counter may here fields code]
  · rw [exec_bufferedWrite up, meshWrite_buffered may here some_ only free]
  · obtain ⟨reach, free⟩ := ack_reaches may here box
    have written := meshWrite_mailbox s mid.toNat (64 * a.toNat) 8 1 _ reach free (by decide)
    rw [exec_mailboxAck up, written, mbxWrite_ack rfl, reach.addr]

end Sys2Proof.Machine
end

section
/-! Proofs about strobes and about the transaction unit (02_parterre_registers.md). -/

namespace Sys2Proof.Machine

/-! ### Commands of the SYS pages (R46, R61, R79) -/

/-- A write of a command register of a SYS page notes the bits set, and does what they command. -/
theorem meshWrite_sysCommand {o i : Nat} {r : SysReg} {fs : List FieldDesc} (here : commandAt o (.sys r) i fs = true) (h4 : o % 4 = 0)
    (low : o < 0x10000000) (wsc : ∀ f ∈ fs, f.acc = .wsc ∧ f.prv = false ∧ f.dep = .none) (listed : fs ≠ []) (other : r ≠ .SYS_TX_CLAIM) {s : State}
    {mid v : Nat} (may : mayWrite s mid o = true) (small : v < 2 ^ 32) (sum : (fs.map (fieldBits v)).sum = v) :
    meshWrite s mid o v = respond (sysWsc r i mid v (if v = 0 then s else wscNote s o v)) {} := by
  obtain ⟨l, name, copy, addr, written, some_, total⟩ :=
    meshWrite_commandAt here h4 low wsc listed (fun e => other (Reg.sys.inj e)) may small sum
  rw [written]
  simp only [commandWrite, some_, total, name, copy, addr, Bool.false_eq_true, if_false]

theorem strobe_at : commandAt 0x44 (.sys .SYS_STROBE) 0 [⟨15, 0, .wsc, false, 0, 0, 65535, .none⟩] = true := by decide +kernel

theorem strobeTick_at : commandAt 0x48 (.sys .SYS_STROBE_TICK) 0 [⟨15, 0, .wsc, false, 0, 0, 65535, .none⟩] = true := by decide +kernel

section
variable {s : State} (up : s.cru.inReset = false) {mid : Mid} (gs : BitVec 16)
include up

theorem exec_sysStrobe (may : mayWrite s mid.toNat 0x44 = true) :
    exec (.sysStrobe mid gs) s = .next (respond (sysWsc .SYS_STROBE 0 mid.toNat gs.toNat (if gs.toNat = 0 then s else wscNote s 0x44 gs.toNat)) {}) := by
  have sum := (sum_lowField gs.toNat 15 0 0 65535 .wsc false .none).trans (Nat.mod_eq_of_lt gs.isLt)
  have range := gs.isLt
  refine (act_up up fun u => meshWrite u mid.toNat 0x44 gs.toNat).trans (congrArg _ ?_)
  exact meshWrite_sysCommand strobe_at (by decide) (by decide) (by simp) (by simp) (by decide) may (by omega) sum

theorem exec_sysStrobeTick (may : mayWrite s mid.toNat 0x48 = true) : exec (.sysStrobeTick mid gs) s =
    .next (respond (sysWsc .SYS_STROBE_TICK 0 mid.toNat gs.toNat (if gs.toNat = 0 then s else wscNote s 0x48 gs.toNat)) {}) := by
  have sum := (sum_lowField gs.toNat 15 0 0 65535 .wsc false .none).trans (Nat.mod_eq_of_lt gs.isLt)
  have range := gs.isLt
  refine (act_up up fun u => meshWrite u mid.toNat 0x48 gs.toNat).trans (congrArg _ ?_)
  exact meshWrite_sysCommand strobeTick_at (by decide) (by decide) (by simp) (by simp) (by decide) may (by omega) sum

end

/-! ### Strobes that apply (R60–R63, R96, R97) -/

/-- The groups of the strobes whose clock has come. -/
def groupsDue (s : State) : List Nat := (s.reg.strobes.filter fun e => decide (e.2 ≤ s.sdl.fab)).map (·.1)

theorem strobesDue_none {s : State} (none_ : groupsDue s = []) : strobesDue s = s := if_pos (List.isEmpty_iff.2 none_)

theorem strobesDue_some {s : State} (some_ : groupsDue s ≠ []) : strobesDue s =
    strobeGroups { s with reg := { s.reg with strobes := s.reg.strobes.filter fun e => !decide (e.2 ≤ s.sdl.fab) } } (groupsDue s) :=
  if_neg fun none_ => some_ (List.isEmpty_iff.1 none_)

theorem strobeAck_none {s : State} {a : Nat} (none_ : strobeInFlight s a = none) : strobeAck s a = s := by rw [strobeAck, none_]

theorem strobeAck_some {s : State} {a k : Nat} (flight : strobeInFlight s a = some k) : strobeAck s a =
    applyBatch { s with reg := { s.reg with pend := s.reg.pend.filter fun e => !(sameDomain a e.addr && e.sent == k) } } [.wbf]
      ((s.reg.pend.filter fun e => sameDomain a e.addr && e.sent == k).map PendEntry.write) := by
  rw [strobeAck, flight]

/-! ### The frame length limit of a port (R180, R225) -/

/-- The one field of MAC_MAXLEN. -/
def maxLenField : FieldDesc := ⟨13, 0, .wbf, false, 1522, 1518, 9600, .none⟩

/-- MAC_MAXLEN of port `m` stands at `o`. -/
def maxLenB (o m : Nat) : Bool :=
  (regAt o).any fun l => decide (l.desc.name = .mac .MAC_MAXLEN ∧ l.desc.fields = [maxLenField] ∧ refOf l maxLenField = Fld.MAC_MAXLEN_LEN m)

theorem maxLenB_port : ∀ m : Fin 16, maxLenB (Fld.MAC_MAXLEN_LEN m.val).addr m.val = true := by decide +kernel

/-- The ports follow a value of a MAC register. -/
theorem follow_mac (o t : State) (w : Staged) (h : 0x300000 ≤ w.addr ∧ w.addr < 0x400000) : follow o t (lands [w]) = macApplied o t := by
  have here : lands [w] .mac = true := by
    simp only [lands, List.any_cons, List.any_nil, Bool.or_false, Block.base, Bool.and_eq_true]
    exact ⟨decide_eq_true h.1, decide_eq_true (by omega)⟩
  have out (c : Block) (hc : c ∈ [Block.sdl, .svi, .cas, .ltn, .blv, .cyc]) : lands [w] c = false := by
    refine lands_out w c ?_
    simp only [List.mem_cons, List.not_mem_nil, or_false] at hc
    rcases hc with rfl | rfl | rfl | rfl | rfl | rfl <;> simp only [Block.base] <;> omega
  simp only [follow, here, out .sdl (by simp), out .svi (by simp), out .cas (by simp), out .ltn (by simp), out .blv (by simp), out .cyc (by simp),
    Bool.or_self, Bool.false_eq_true, if_true, if_false]

/-- Where PHY, FEC and AN of every port stand, nothing follows in the ports. -/
theorem macApplied_same {o t : State} (phy : ∀ m, phyOf o m = phyOf t m) (fec : ∀ m, fget o (Fld.MAC_MODE_FEC m) = fget t (Fld.MAC_MODE_FEC m))
    (an : ∀ m, fget o (Fld.MAC_MODE_AN m) = fget t (Fld.MAC_MODE_AN m)) : macApplied o t = t := by
  simp only [macApplied, trlSpeed, phy, fec, an, bne_self_eq_false, Bool.or_self, List.filter_false, List.foldl_nil, List.isEmpty_nil, if_true]

/-- A value of MAC_MAXLEN takes effect clamped, and nothing follows. -/
theorem applyBatch_maxLen (t : State) (m : Fin 16) {w : Staged} (place : w.addr = (Fld.MAC_MAXLEN_LEN m.val).addr) :
    applyBatch t [.wbf] [w] = fset (noteApplied t [w.addr]) (Fld.MAC_MAXLEN_LEN m.val) (clampTo 1518 9600 (bits w.val 13 0)) := by
  obtain ⟨l, here, row⟩ := (Option.any_eq_true ..).1 (maxLenB_port m)
  obtain ⟨name, fields, ref⟩ := of_decide_eq_true row
  rw [← place] at here
  have inside : 0x300000 ≤ w.addr ∧ w.addr < 0x400000 := by
    have := m.isLt
    rw [place, Fld.MAC_MAXLEN_LEN]
    dsimp only
    omega
  have same (v k lo width reset : Nat) (low : lo < 32) : fget t ⟨0x300040 + k * 0x10000, lo, width, reset⟩ =
      fget (fset (noteApplied t [w.addr]) (Fld.MAC_MAXLEN_LEN m.val) v) ⟨0x300040 + k * 0x10000, lo, width, reset⟩ := by
    refine (fget_fset_ne _ _ _ _ ?_).symm
    simp only [Fld.MAC_MAXLEN_LEN, fkey]
    omega
  rw [applyBatch_one t w l maxLenField [.wbf] here fields (by decide) (.inl rfl) rfl (fun _ _ => by simp only [ignores, name])
    (fun _ => by simp [ftbKeeps, name]), follow_mac _ _ _ inside, ref]
  simp only [changed, here, name, List.contains_cons, BEq.rfl, Bool.true_or, if_true]
  exact macApplied_same (fun k => same _ k 0 3 _ (by decide)) (fun k => same _ k 4 2 _ (by decide)) fun k => same _ k 6 1 _ (by decide)

/-- Settles O13: the two command registers, the strobes that are due, a value of a Bandstand queue, the strobe in flight, and a value of a port. Which
pages belong to a slower domain is log 68. -/
theorem strobes : Obligations.Strobes := by
  intro s up
  refine ⟨fun mid gs may => ?_, fun mid gs may => ?_, fun none_ => ?_, fun gs due some_ => ?_, fun t e l here name => ?_, fun off none_ => ?_,
    fun off k flight => ?_, fun t m e place => applyBatch_maxLen t m (w := e.write) place⟩
  · rw [exec_sysStrobe up gs may]
    split <;> rfl
  · rw [exec_sysStrobeTick up gs may]
    split <;> rfl
  · refine (act_up up strobesDue).trans (congrArg _ (strobesDue_none ?_))
    rw [groupsDue, none_, List.map_nil]
  · subst due
    exact (act_up up strobesDue).trans (congrArg _ (strobesDue_some some_))
  · exact applyBatch_queue t e.write l here name [.wbf] rfl
  · exact (act_up up fun u => strobeAck u (4 * off.toNat)).trans (congrArg _ (strobeAck_none none_))
  · exact (act_up up fun u => strobeAck u (4 * off.toNat)).trans (congrArg _ (strobeAck_some flight))

end Sys2Proof.Machine
end

section
/-! Proofs about the transaction unit (R65–R76, R79). -/

namespace Sys2Proof.Machine

/-! ### The commands of a slot (R65, R79) -/

/-- The fields of SYS_TXn_CMD: ROLLBACK, COMMIT_AT, COMMIT and BEGIN. -/
def txCmdFields : List FieldDesc :=
  [⟨3, 3, .wsc, false, 0, 0, 1, .none⟩, ⟨2, 2, .wsc, false, 0, 0, 1, .none⟩, ⟨1, 1, .wsc, false, 0, 0, 1, .none⟩, ⟨0, 0, .wsc, false, 0, 0, 1, .none⟩]

theorem txCmd_at : ∀ n : Fin 4, commandAt (0x1040 + 0x20 * n.val) (.sys .SYS_TX_CMD) n.val txCmdFields = true := by decide +kernel

/-- A write of SYS_TXn_CMD notes the bits set and acts on slot `n`. -/
theorem meshWrite_txCmd {s : State} {mid : Nat} (n : Fin 4) (may : mayWrite s mid (0x1040 + 0x20 * n.val) = true) {v : Nat}
    (single : v ∈ [1, 2, 4, 8]) :
    meshWrite s mid (0x1040 + 0x20 * n.val) v = respond (txCmd (wscNote s (0x1040 + 0x20 * n.val) v) n.val mid v) {} := by
  have known : v ≠ 0 ∧ v < 2 ^ 32 ∧ (txCmdFields.map (fieldBits v)).sum = v := by
    simp only [List.mem_cons, List.not_mem_nil, or_false] at single
    rcases single with rfl | rfl | rfl | rfl <;> decide
  obtain ⟨set_, small, sum⟩ := known
  have range := n.isLt
  rw [meshWrite_sysCommand (txCmd_at n) (by omega) (by omega) (by simp [txCmdFields]) (by simp [txCmdFields]) (by decide) may small sum, if_neg set_]
  rfl

theorem txSlot_wscNote (s : State) (a v n : Nat) : txSlot (wscNote s a v) n = txSlot s n := rfl

theorem txCmd_begin (s : State) (n mid : Nat) : txCmd s n mid 1 = txBegin s n mid := by
  rw [txCmd, if_neg (by decide), if_pos (by decide)]

/-- The owner's commands to a slot that it has opened. -/
theorem txCmd_owner {s : State} {n mid v : Nat} (open_ : (txSlot s n).phase = .opened) (owner : (txSlot s n).owner = mid) (single : v ∈ [2, 4, 8]) :
    txCmd s n mid v = if bit v 1 then txCommit s n else if bit v 2 then txCommitAt s n else txRollback s n := by
  have known : ¬ 1 < popcount v 4 ∧ ¬ bit v 0 = true ∧ ¬ v % 16 = 0 := by
    simp only [List.mem_cons, List.not_mem_nil, or_false] at single
    rcases single with rfl | rfl | rfl <;> decide
  obtain ⟨one, begin_, some_⟩ := known
  rw [txCmd, if_neg one, if_neg begin_, if_neg some_, if_neg]
  simp [open_, owner]

theorem txBegin_idle {s : State} {n : Nat} (idle : (txSlot s n).phase = .idle) (mid : Nat) : txBegin s n mid = setTx s n { txSlot s n with
    phase := .opened, owner := mid, err := 0, nstaged := 0, claims := [], staging := [], overflow := false } := if_neg (not_not.2 idle)

theorem txBegin_other {s : State} {n : Nat} (other : (txSlot s n).phase ≠ .idle) (mid : Nat) : txBegin s n mid = wign s 0x1000 := if_pos other

/-- Settles O14: BEGIN by the state of the slot. -/
theorem beginOpensSlot : Obligations.BeginOpensSlot := by
  intro s mid n up may
  have begun : exec (.txBegin mid n) s = .next (respond (txBegin (wscNote s (0x1040 + 0x20 * n.val) 1) n.val mid.toNat) {}) := by
    refine (act_up up fun u => meshWrite u mid.toNat (0x1040 + 0x20 * n.val) 1).trans (congrArg _ ?_)
    rw [meshWrite_txCmd n may (by simp), txCmd_begin]
  refine ⟨fun idle => ?_, fun other => ?_⟩
  · rw [begun, txBegin_idle (s := wscNote s _ 1) idle, txSlot_wscNote]
  · rw [begun, txBegin_other (s := wscNote s _ 1) other]

/-! ### Claims and staging (R68–R70) -/

/-- SYS_TXn_CLAIM of slot `n` stands at `o`. -/
def txClaimB (o n : Nat) : Bool := (regAt o).any fun l => decide (l.desc.name = .sys .SYS_TX_CLAIM ∧ l.desc.mbx = false ∧ l.i = n)

theorem txClaimB_slot : ∀ n : Fin 4, txClaimB (0x1044 + 0x20 * n.val) n.val = true := by decide +kernel

theorem meshWrite_txClaim {s : State} {mid : Nat} (n : Fin 4) (may : mayWrite s mid (0x1044 + 0x20 * n.val) = true) (page : BitVec 16) :
    meshWrite s mid (0x1044 + 0x20 * n.val) page.toNat = respond (txClaim s n.val mid page.toNat) {} := by
  obtain ⟨l, here, row⟩ := (Option.any_eq_true ..).1 (txClaimB_slot n)
  obtain ⟨name, box, copy⟩ := of_decide_eq_true row
  have range := n.isLt
  have small := page.isLt
  rw [meshWrite_may s mid _ page.toNat l here may (by omega) (by omega), regWrite, (mayWrite_all s l mid _ page.toNat here may).2, box,
    Bool.not_true, if_neg Bool.false_ne_true, if_neg Bool.false_ne_true, name]
  dsimp only
  rw [copy, Nat.mod_eq_of_lt (show page.toNat < 2 ^ 32 by omega), Nat.mod_eq_of_lt small]

/-- A page that a slot may claim enters its claims. -/
theorem txClaim_taken {s : State} {n mid page : Nat} {p : PageLoc} (open_ : (txSlot s n).phase = .opened) (owner : (txSlot s n).owner = mid)
    (new : page ∉ (txSlot s n).claims) (apart : claimedElsewhere s n page = false) (clean : pendCount s (page * 0x1000) = 0)
    (here : pageAtOff (page * 0x1000) = some p) (txn : p.kind.txn = true) (room : (txSlot s n).claims.length < 512) :
    txClaim s n mid page = setTx s n { txSlot s n with claims := (txSlot s n).claims ++ [page] } := by
  have fits : ¬ 512 ≤ (txSlot s n).claims.length := by omega
  simp only [txClaim, open_, owner, ne_eq, not_true_eq_false, or_self, if_false, List.contains_iff_mem, new, apart, clean, here, Option.any_some, txn,
    Bool.not_true, Bool.false_eq_true, fits]

theorem stage_first {s : State} {n a : Nat} (new : ∀ w ∈ (txSlot s n).staging, w.addr ≠ a) (room : (txSlot s n).staging.length < 4096) (v mid : Nat) :
    stage s n a v mid = setTx s n { txSlot s n with
      staging := (txSlot s n).staging ++ [⟨a, v, mid⟩], nstaged := (txSlot s n).staging.length + 1 } := by
  have none_ : ¬ ((txSlot s n).staging.any fun w => w.addr == a) = true := by
    simpa only [List.any_eq_true, beq_iff_eq, not_exists, not_and] using new
  exact (if_neg none_).trans (if_neg (Nat.not_le.2 room))

theorem stage_again {s : State} {n a : Nat} (old : ∃ w ∈ (txSlot s n).staging, w.addr = a) (v mid : Nat) : stage s n a v mid =
    setTx s n { txSlot s n with staging := (txSlot s n).staging.map fun w => if w.addr = a then ⟨a, v, mid⟩ else w } :=
  if_pos (by simpa only [List.any_eq_true, beq_iff_eq] using old)

/-- On a page that a master has claimed by an open slot, its write is staged. -/
theorem configWrite_staged {s : State} {l : RegLoc} {n mid : Nat} (some_ : writable l [.rw, .wbf] mid ≠ [])
    (claimed : claimedBy s l.page.base = some n) (open_ : (txSlot s n).phase = .opened) (owner : (txSlot s n).owner = mid)
    (unlocked : locked s l.page.base = false) (v : Nat) : configWrite s l mid v = stage s n l.addr v mid := by
  rw [configWrite, List.isEmpty_eq_false_iff.2 some_, if_neg Bool.false_ne_true, claimed]
  exact if_neg (by simp [open_, owner, unlocked])

/-- A write of a register of claimed configuration, by the owner of the claim. -/
theorem meshWrite_staged {s : State} {mid n : Nat} {off : BitVec 26} {v : Word} {l : RegLoc} (may : mayWrite s mid (4 * off.toNat) = true)
    (here : regAt (4 * off.toNat) = some l) (claimed : claimedBy s l.page.base = some n) (open_ : (txSlot s n).phase = .opened)
    (owner : (txSlot s n).owner = mid) (unlocked : locked s l.page.base = false) (some_ : writable l [.rw, .wbf] mid ≠ [])
    (only : writable l [.wsc, .ctr] mid = []) : meshWrite s mid (4 * off.toNat) v.toNat = respond (stage s n l.addr v.toNat mid) {} := by
  obtain ⟨f, hf, code⟩ := writable_ne_nil some_
  have other := not_claim_of_field here hf (by rcases List.mem_cons.1 code with h | h <;> simp_all)
  rw [meshWrite_word may here, regWrite_fields may here (List.ne_nil_of_mem hf) other, configWrite_staged some_ claimed open_ owner unlocked,
    counterWrite_none (writable_nil_of_subset only (by simp)), commandWrite_none (writable_nil_of_subset only (by simp))]

/-! ### The ends of an open slot (R72–R75) -/

theorem txCommit_opened {s : State} {n : Nat} (open_ : (txSlot s n).phase = .opened) : txCommit s n =
    if (txSlot s n).overflow then failTx s n (some 5) else setTx s n { txSlot s n with
      phase := .armed, target := if genActive s then .edge (s.sdl.fab + 1000) else .clock (s.sdl.fab + 32) } := by
  simp only [txCommit, open_, ne_eq, not_true_eq_false, if_false]
  cases (txSlot s n).overflow <;> cases genActive s <;> rfl

theorem txRollback_opened {s : State} {n : Nat} (open_ : (txSlot s n).phase = .opened) : txRollback s n = closeTx s n 2 := by
  simp only [txRollback, open_]

/-- The distance from tick `k` to the tick that COMMIT_AT names, by its low 32 bits. -/
def ticksAhead (tick k : Nat) : Nat := (tick + 2 ^ 32 - k % 2 ^ 32) % 2 ^ 32

/-- The next edges are part of the Sundial. -/
theorem clocksToEdge_congr {s t : State} (h : t.sdl = s.sdl) (d : Nat) : clocksToEdge t d = clocksToEdge s d := by
  unfold clocksToEdge countsUntil timeNow nextHz
  rw [h]

theorem wscNote_respond (s : State) (r : Resp) (a v : Nat) : wscNote (respond s r) a v = respond (wscNote s a v) r := rfl

theorem setTx_respond (s : State) (r : Resp) (n : Nat) (t : TxSlot) : setTx (respond s r) n t = respond (setTx s n t) r := rfl

theorem failTx_respond (s : State) (r : Resp) (n : Nat) (e : Option Nat) : failTx (respond s r) n e = respond (failTx s n e) r := by
  cases e <;> rfl

/-- COMMIT_AT of an open slot whose staging has not overflowed, at a tick that is stopped. -/
theorem txCommitAt_stopped {s : State} {n : Nat} (open_ : (txSlot s n).phase = .opened) (fits : (txSlot s n).overflow = false)
    (stopped : tickInProgress s = none) : txCommitAt s n = failTx s n (some 8) := by
  simp only [txCommitAt, open_, fits, stopped, ne_eq, not_true_eq_false, Bool.false_eq_true, if_false]

/-- COMMIT_AT of an open slot whose staging has not overflowed, in tick `k` and `d` ticks before the one that SYS_TXn_AT names. -/
theorem txCommitAt_ticking {s : State} {n k tick d : Nat} (open_ : (txSlot s n).phase = .opened) (fits : (txSlot s n).overflow = false)
    (now : tickInProgress s = some k) (at_ : fget s (Fld.SYS_TX_AT_TICK n) = tick) (ahead : d = (tick + 2 ^ 32 - k % 2 ^ 32) % 2 ^ 32) : txCommitAt s n =
      if d = 0 ∨ 2 ^ 31 < d ∨ clocksToEdge s (d - 1) < 1000 then failTx s n (some 6)
      else setTx s n { txSlot s n with phase := .armed, target := .tick (k + d) } := by
  subst ahead
  simp only [txCommitAt, open_, fits, now, at_, edgeFar, ne_eq, not_true_eq_false, Bool.false_eq_true, if_false, Bool.not_eq_true',
    decide_eq_false_iff_not, Nat.not_le]

/-- A master of a register qualified `prv` may write it in any state. -/
theorem mayWrite_prv {s : State} {mid o : Nat} {l : RegLoc} (may : mayWrite s mid o = true) (here : regAt o = some l) (qualified : l.desc.priv = .prv)
    (t : State) : mayWrite t mid o = true := by
  have high : isPriv mid = true := by simpa only [qualified, allows] using (mayWrite_all s l mid o 0 here may).2
  have free (u : State) : unconfined u mid o = true := by
    simp only [unconfined, Bool.or_eq_true, bne_iff_ne]
    left
    intro guest
    simp [isPriv, guest] at high
  simpa only [mayWrite, here, free] using may

theorem regAt_txAt : ∀ n : Fin 4, ((regAt (0x1048 + 0x20 * n.val)).any fun l =>
    decide (l.desc.name = .sys .SYS_TX_AT ∧ l.page.base = 0x1000 ∧ l.desc.fields = [plainWord])) = true := by decide +kernel

theorem regAt_txCmd : ∀ n : Fin 4, ((regAt (0x1040 + 0x20 * n.val)).any fun l => decide (l.desc.priv = .prv)) = true := by decide +kernel

/-- A write of SYS_TXn_AT holds the tick. -/
theorem meshWrite_txAt {s : State} {mid : Nat} (n : Fin 4) (may : mayWrite s mid (0x1048 + 0x20 * n.val) = true) (unlocked : locked s 0x1000 = false)
    (free : claimedBy s 0x1000 = none) (tick : Word) :
    meshWrite s mid (0x1048 + 0x20 * n.val) tick.toNat = respond (fset s (Fld.SYS_TX_AT_TICK n.val) tick.toNat) {} := by
  obtain ⟨l, here, row⟩ := (Option.any_eq_true ..).1 (regAt_txAt n)
  obtain ⟨name, base, fields⟩ := of_decide_eq_true row
  have range := n.isLt
  rw [← base] at unlocked free
  rw [meshWrite_plainWord here name fields (by omega) (by omega) may free unlocked, Fld.SYS_TX_AT_TICK, Nat.mul_comm]

section
variable {s : State} (up : s.cru.inReset = false) {mid : Mid} (n : Fin 4)
include up

/-- COMMIT and ROLLBACK by the owner of an open slot. -/
theorem exec_txCommit (may : mayWrite s mid.toNat (0x1040 + 0x20 * n.val) = true) (open_ : (txSlot s n.val).phase = .opened)
    (owner : (txSlot s n.val).owner = mid.toNat) :
    exec (.txCommit mid n) s = .next (respond (txCommit (wscNote s (0x1040 + 0x20 * n.val) 2) n.val) {}) := by
  refine (act_up up fun u => meshWrite u mid.toNat (0x1040 + 0x20 * n.val) 2).trans (congrArg _ ?_)
  rw [meshWrite_txCmd n may (by simp), txCmd_owner (s := wscNote s _ 2) open_ owner (by simp), if_pos (by decide)]

theorem exec_txRollback (may : mayWrite s mid.toNat (0x1040 + 0x20 * n.val) = true) (open_ : (txSlot s n.val).phase = .opened)
    (owner : (txSlot s n.val).owner = mid.toNat) :
    exec (.txRollback mid n) s = .next (respond (txRollback (wscNote s (0x1040 + 0x20 * n.val) 8) n.val) {}) := by
  refine (act_up up fun u => meshWrite u mid.toNat (0x1040 + 0x20 * n.val) 8).trans (congrArg _ ?_)
  rw [meshWrite_txCmd n may (by simp), txCmd_owner (s := wscNote s _ 8) open_ owner (by simp), if_neg (by decide), if_neg (by decide)]

/-- COMMIT_AT by the owner of an open slot: the tick is held, then the command acts. -/
theorem exec_txCommitAt (mayCmd : mayWrite s mid.toNat (0x1040 + 0x20 * n.val) = true) (mayAt : mayWrite s mid.toNat (0x1048 + 0x20 * n.val) = true)
    (unlocked : locked s 0x1000 = false) (free : claimedBy s 0x1000 = none) (open_ : (txSlot s n.val).phase = .opened)
    (owner : (txSlot s n.val).owner = mid.toNat) (tick : Word) : exec (.txCommitAt mid n tick) s = .next (respond (txCommitAt (wscNote
      (respond (fset s (Fld.SYS_TX_AT_TICK n.val) tick.toNat) {}) (0x1040 + 0x20 * n.val) 4) n.val) {}) := by
  obtain ⟨l, here, row⟩ := (Option.any_eq_true ..).1 (regAt_txCmd n)
  refine (act_up up fun u => meshWrite (meshWrite u mid.toNat (0x1048 + 0x20 * n.val) tick.toNat) mid.toNat (0x1040 + 0x20 * n.val) 4).trans
    (congrArg _ ?_)
  rw [meshWrite_txAt n mayAt unlocked free, meshWrite_txCmd n (mayWrite_prv mayCmd here (of_decide_eq_true row) _) (by simp),
    txCmd_owner (s := wscNote (respond (fset s _ _) {}) _ 4) open_ owner (by simp), if_neg (by decide), if_pos (by decide)]

end

/-- Settles O15: a claim, a write to a claimed page, and the three ends of an open slot. That an edge lies 1 µs away when 1000 fabric clocks do is
log 72, and at least how many clocks off it lies log 10. -/
theorem transactionCommands : Obligations.TransactionCommands := by
  intro s mid n up open_ owner
  refine ⟨fun page p may here txn apart clean new room => ?_, fun off v l may here _ claimed unlocked some_ only => ?_, fun may => ⟨?_, ?_⟩,
    fun tick mayCmd mayAt unlocked free fits => ?_⟩
  · refine (act_up up fun u => meshWrite u mid.toNat (0x1044 + 0x20 * n.val) page.toNat).trans (congrArg _ ?_)
    rw [meshWrite_txClaim n may, txClaim_taken open_ owner new apart clean here txn room]
  · have staged : exec (.txStagedWrite mid off v) s = .next (respond (stage s n.val l.addr v.toNat mid.toNat) {}) :=
      (act_up up fun u => meshWrite u mid.toNat (4 * off.toNat) v.toNat).trans
        (congrArg _ (meshWrite_staged may here claimed open_ owner unlocked some_ only))
    exact ⟨fun first room => by rw [staged, stage_first first room], fun again => by rw [staged, stage_again again]⟩
  · rw [exec_txCommit up n may open_ owner, txCommit_opened (s := wscNote s _ 2) open_]
    rfl
  · rw [exec_txRollback up n may open_ owner, txRollback_opened (s := wscNote s _ 8) open_]
  · rw [exec_txCommitAt up n mayCmd mayAt unlocked free open_ owner]
    have held := wscNote_respond (fset s (Fld.SYS_TX_AT_TICK n.val) tick.toNat) {} (0x1040 + 0x20 * n.val) 4
    generalize written : wscNote (fset s (Fld.SYS_TX_AT_TICK n.val) tick.toNat) (0x1040 + 0x20 * n.val) 4 = u at held
    have slot : txSlot (respond u {}) n.val = txSlot s n.val := by rw [← written]; rfl
    have sdl : (respond u {}).sdl = s.sdl := by rw [← written]; rfl
    have at_ : fget (respond u {}) (Fld.SYS_TX_AT_TICK n.val) = tick.toNat := by rw [← written]; exact fget_fset s _ _
    rw [← slot] at open_ fits
    rw [held]
    cases now : tickInProgress s with
    | none => rw [txCommitAt_stopped open_ fits ((tickInProgress_congr sdl).trans now), failTx_respond, respond_respond]
    | some k =>
      rw [txCommitAt_ticking open_ fits ((tickInProgress_congr sdl).trans now) at_ rfl, failTx_respond, setTx_respond, slot, clocksToEdge_congr sdl]
      dsimp only
      split
      · rw [respond_respond]
      · rw [respond_respond]

/-! ### A commit while the generator is stopped (R72, R73) -/

theorem strobeHits_none (s : State) : strobeHits s [] = fun _ => false := by
  funext e
  rfl

/-- A strobe of no group sends nothing. -/
theorem sendStrobe_none (s : State) : sendStrobe s (fun _ => false) = { s with reg := { s.reg with strbNo := s.reg.strbNo + 1 } } := by
  simp only [sendStrobe, Bool.false_and, Bool.not_false, List.filter_true, Bool.false_eq_true, if_false, List.map_id']

/-- One slot applies, and no strobe group with it. -/
theorem commitTogether_slot (s : State) (n done : Nat) : commitTogether s [n] [] done =
    txClose (applyBatch { s with reg := { s.reg with strbNo := s.reg.strbNo + 1 } } [.rw, .wbf] (txSlot s n).staging) n done := by
  have none_ : strobeNow s [] = [] := by simp only [strobeNow, strobeHits_none, Bool.false_and, List.filter_false]
  simp only [commitTogether, none_, strobeHits_none, sendStrobe_none, List.flatMap_cons, List.flatMap_nil, List.map_nil, List.append_nil, List.foldl_cons,
    List.foldl_nil]

theorem txSlot_setTx (s : State) (n : Nat) (t : TxSlot) : txSlot (setTx s n t) n = t := tat_tset_same _ _ _ _

theorem setTx_setTx (s : State) (n : Nat) (t u : TxSlot) : setTx (setTx s n t) n u = setTx s n u := by simp only [setTx, tset_tset]

/-- A slot whose staging has been applied is IDLE again. -/
theorem txClose_eq (s : State) (n done : Nat) : txClose s n done = setTx s n { txSlot s n with
    phase := .idle, last := 1, claims := [], staging := [], overflow := false, done := done % 2 ^ 32 } := by
  rw [txClose, closeTx, txSlot_setTx, setTx_setTx]

/-- Fields that take values leave the slots. -/
theorem txSlot_foldl_fset (ref : FieldDesc → FieldRef) (val : FieldDesc → Nat) (fs : List FieldDesc) (s : State) (n : Nat) :
    txSlot (fs.foldl (fun t f => fset t (ref f) (val f)) s) n = txSlot s n := by
  induction fs generalizing s with
  | nil => rfl
  | cons f fs ih => exact ih _

/-- Where slot `n` alone is armed, and for a clock that has come, it alone applies. -/
theorem stoppedApply_slot {s : State} {n : Fin 4} {c : Nat} (others : ∀ k < 4, k ≠ n.val → (txSlot s k).phase ≠ .armed)
    (armed : (txSlot s n.val).phase = .armed) (target : (txSlot s n.val).target = .clock c) (due : c ≤ s.sdl.fab) :
    stoppedApply s = commitTogether s [n.val] [] 0xFFFFFFFF := by
  have only : ∀ n : Fin 4, ((List.range 4).filter fun k => decide (k = n.val)) = [n.val] := by decide
  unfold stoppedApply
  extract_lets slots
  have one : slots = [n.val] := by
    rw [← only n]
    refine List.filter_congr fun k hk => ?_
    by_cases same : k = n.val
    · subst same
      simp [armed, target, due]
    · simp [others k (List.mem_range.1 hk) same, same]
  rw [one]
  rfl

/-- Settles O16: the slot is the only one whose clock has come, its one value takes effect clamped, and it closes. -/
theorem stoppedCommitApplies : Obligations.StoppedCommitApplies := by
  intro s n c w l up others armed target due staging here name
  refine (act_up up stoppedApply).trans (congrArg _ ?_)
  rw [stoppedApply_slot others armed target due, commitTogether_slot, staging, applyBatch_queue _ w l here name _ rfl, txClose_eq, txSlot_foldl_fset]
  rfl

end Sys2Proof.Machine
end

section
/-! Proofs about tick edges and the change of the base rate (04_sundial_time.md, R126, R130, R364). -/

namespace Sys2Proof.Machine

/-! ### The Sundial edge (R126, R129, R132, R159) -/

theorem baseRateChange_idle {s : State} (still : rateChangeDue s = false) : baseRateChange s = s := by
  rw [baseRateChange, still, Bool.not_false, if_pos rfl]

/-- TICK_OUT rises at this edge: it is enabled, and DIV divides the number of the edge in its second. -/
def tickOutRises (s : State) : Bool := fbit s Fld.SDL_CTRL_TICK_OUT_EN && s.sdl.nextN % fget s Fld.SDL_TICKOUT_DIV == 0

/-- The edge of N_next taken: its tick is in progress, and its fabric edge is due. -/
def edgeTaken (s : State) : State := { s with sdl := { s.sdl with
  gen := .running, rateAct := if s.sdl.gen = .starting then s.sdl.startRate else s.sdl.rateAct
  last := some s.sdl.next, curN := s.sdl.nextN, next := s.sdl.next + 1
  nextSec := if s.sdl.nextN + 1 = nextHz s then s.sdl.nextSec + 1 else s.sdl.nextSec
  nextN := if s.sdl.nextN + 1 = nextHz s then 0 else s.sdl.nextN + 1
  fabDue := s.sdl.fabDue ++ [(s.sdl.next, s.sdl.fab, s.sdl.gen == .starting)]
  tickOut := s.sdl.tickOut || tickOutRises s, tickOutAt := if tickOutRises s then timeNow s else s.sdl.tickOutAt } }

/-- The edge of a start is recorded with its rate. -/
def edgeRecorded (s : State) : State := record (edgeTaken s) 0x0503 0x300D [1, s.sdl.next % 2 ^ 32, s.sdl.next / 2 ^ 32, s.sdl.startRate]

section
variable {s : State} (due : tickDue s = true) (still : rateChangeDue s = false)
include due still

theorem sundialEdge_running (run : s.sdl.gen = .running) : sundialEdge s = alarmsEdge (trackerEdge (edgeTaken s)) := by
  simp only [sundialEdge, due, baseRateChange_idle still, edgeTaken, tickOutRises, run]
  simp

theorem sundialEdge_starting (start : s.sdl.gen = .starting) : sundialEdge s = alarmsEdge (trackerEdge (edgeRecorded s)) := by
  simp only [sundialEdge, due, baseRateChange_idle still, edgeRecorded, edgeTaken, tickOutRises, start]
  simp

end

/-- What the blocks do at the Sundial edge of a generator that runs. -/
theorem tickEdge_running {s : State} (due : tickDue s = true) (still : rateChangeDue s = false) (run : s.sdl.gen = .running) : tickEdge s =
    angleSweep (casSundialEdge (ftbSundialEdge (alarmsEdge (trackerEdge (edgeTaken s))) s.sdl.next) s.sdl.next) := by
  have last : (alarmsEdge (trackerEdge (edgeTaken s))).sdl.last = some s.sdl.next := by
    rw [alarmsEdge_sdl, trackerEdge_sdl]
    rfl
  have later : (s.sdl.gen == .starting) = false := by rw [run]; rfl
  rw [tickEdge, due, Bool.not_true, if_neg Bool.false_ne_true]
  simp only [sundialEdge_running due still run, last, later, Option.getD_some, Bool.false_eq_true, if_false]

/-- What they do at the first edge of a start. -/
theorem tickEdge_starting {s : State} (due : tickDue s = true) (still : rateChangeDue s = false) (start : s.sdl.gen = .starting) : tickEdge s =
    angleSweep (casSundialEdge (ftbSundialEdge (tokenLate (alarmsEdge (trackerEdge (edgeRecorded s))) s.sdl.next) s.sdl.next) s.sdl.next) := by
  have last : (alarmsEdge (trackerEdge (edgeRecorded s))).sdl.last = some s.sdl.next := by
    rw [alarmsEdge_sdl, trackerEdge_sdl, edgeRecorded, record_sdl]
    rfl
  have first : (s.sdl.gen == .starting) = true := by rw [start]; rfl
  rw [tickEdge, due, Bool.not_true, if_neg Bool.false_ne_true]
  simp only [sundialEdge_starting due still start, last, first, Option.getD_some, if_true]

/-! ### The fabric edge and the base rate (R130, R364) -/

/-- The fabric edge of the oldest Sundial edge, once 34 clocks have passed since it. -/
theorem fabricEdge_due {s : State} {n c : Nat} {first : Bool} {rest : List (Nat × Nat × Bool)} (oldest : s.sdl.fabDue = (n, c, first) :: rest)
    (due : c + 34 ≤ s.sdl.fab) (times : List (Nat × Nat)) {w : State}
    (committed : w = edgeCommit (edgeBefore { s with sdl := { s.sdl with fabDue := rest } } n first times) n) :
    fabricEdge s times = stopEnd (edgePassed (edgeAfter w n (baseHz w)) n) := by
  rw [fabricEdge, oldest, committed]
  exact if_neg (Nat.not_lt.2 due)

theorem exec_fabricTickEdge {s : State} (up : s.cru.inReset = false) (times : List (Fin 1024 × BitVec 20)) :
    exec (.fabricTickEdge times) s = .next (fabricEdge s (times.map fun e => (e.1.val, e.2.toNat))) := by
  have arm : exec (.fabricTickEdge times) s = execFabricTickEdge times s := rfl
  rw [arm]
  exact act_up up _

/-- The change of the base rate, once the later slots have failed. -/
theorem baseRateChange_due {s : State} (due : rateChangeDue s = true) {n : Nat} (first : n = s.sdl.nextSec * rateHz (fget s Fld.SDL_BASE_RATE_REQ))
    {x : State × Nat} (failed : x = failLaterSlots { s with sdl := { s.sdl with
      rateAct := fget s Fld.SDL_BASE_RATE_REQ, next := n, rateAt := none } } (s.sdl.next + 1)) :
    baseRateChange s = record (renumberSyncs (renumberSlots x.1 s.sdl.next n) s.sdl.next n) 0x0504 0x300D
      [s.sdl.rateAct, fget s Fld.SDL_BASE_RATE_REQ, n % 2 ^ 32, n / 2 ^ 32, x.2] := by
  subst first failed
  rw [baseRateChange, due, Bool.not_true, if_neg Bool.false_ne_true]

/-- Settles O30: the Sundial edge of a run and of a start, the fabric edge with its parts in their order, and the change of the base rate. That the
fabric edge comes 34 clocks after the Sundial edge is log 10. -/
theorem tickEdges : Obligations.TickEdges := by
  intro s up
  refine ⟨fun rise hz e _ due still rate rises taken => ?_, fun times n c first rest u v w oldest due before late committed => ?_, fun due => ?_⟩
  · subst rate rises taken
    exact ⟨fun run => (act_up up tickEdge).trans (congrArg _ (tickEdge_running due still run)),
      fun start => (act_up up tickEdge).trans (congrArg _ (tickEdge_starting due still start))⟩
  · subst before late
    refine ⟨_, rfl, ?_⟩
    rw [exec_fabricTickEdge up, fabricEdge_due oldest due _ committed]
    rfl
  · exact ⟨_, (failLaterSlots _ _).1, (failLaterSlots _ _).2, rfl, rfl,
      (act_up up baseRateChange).trans (congrArg _ (baseRateChange_due due rfl rfl))⟩

end Sys2Proof.Machine
end

section
/-! Proofs about port resets, links, crossing groups and shadows (03_clocks_resets_crossings.md, R52, R99–R102, R112, R180, R659). -/

namespace Sys2Proof.Machine

/-! ### The reset of a port (R99–R101, R112) -/

/-- Ports, the CRU and the fabric count are the same. -/
structure SamePorts (s t : State) : Prop where
  mac : t.mac = s.mac
  cru : t.cru = s.cru
  fab : t.sdl.fab = s.sdl.fab

theorem SamePorts.refl (s : State) : SamePorts s s := ⟨rfl, rfl, rfl⟩

theorem SamePorts.trans {s t u : State} (h : SamePorts s t) (k : SamePorts t u) : SamePorts s u :=
  ⟨k.mac.trans h.mac, k.cru.trans h.cru, k.fab.trans h.fab⟩

theorem samePorts_macCount (s : State) (m : Nat) (f : Nat → FieldRef) : SamePorts s (macCount s m f) := by
  unfold macCount
  split
  · exact ⟨rfl, rfl, rfl⟩
  · exact .refl s

theorem samePorts_storeStamp (s : State) (m tag ns : Nat) (dropped : Bool) : SamePorts s (storeStamp s m tag ns dropped) := by
  unfold storeStamp
  dsimp only
  split <;> exact ⟨rfl, rfl, rfl⟩

/-- A port that has been cleared is down and sends nothing; what is counted and stamped for it touches no port. -/
theorem portClear_eq (s : State) (m : Nat) :
    ∃ u, SamePorts s u ∧ portClear s m = setPort u m { portOf u m with link := false, paused := none, sending := none } := by
  unfold portClear
  extract_lets p aborted sent part drew_ received
  have first : SamePorts s sent := by
    dsimp only [sent, aborted]
    split
    · exact .refl s
    · split
      · exact (samePorts_macCount s m _).trans (samePorts_storeStamp _ _ _ _ _)
      · exact samePorts_macCount s m _
  have drawn_ : SamePorts sent drew_ := ⟨rfl, rfl, rfl⟩
  refine ⟨received, ?_, rfl⟩
  dsimp only [received]
  split
  · split
    · exact (first.trans drawn_).trans (samePorts_macCount drew_ m _)
    · exact first.trans drawn_
  · exact first

/-- A crossing group held until a clock. -/
def groupHeld (c : Cru) (g until_ : Nat) : Cru := { c with xcReady := clrBit c.xcReady g, xcHold := tset c.xcHold g until_ }

/-- The crossing groups held by a reset of port `m` at a clock, the TOKEN group with either Footbridge port (log 91). -/
def groupsHeld (c : Cru) (m fab : Nat) : Cru :=
  if m = 12 ∨ m = 13 then groupHeld { groupHeld c (16 + m) (fab + 32) with token := {} } 2 (fab + 11) else groupHeld c (16 + m) (fab + 32)

theorem portPulse_cru (s : State) (m : Nat) : (portPulse s m).cru = { groupsHeld s.cru m s.sdl.fab with
    pll := clrBit s.cru.pll (16 + m), portStat := setBit s.cru.portStat m, portPulse := tset (tdel s.cru.portPulse m) m (s.sdl.fab + 1000) } := by
  obtain ⟨u, ⟨_, cru, fab⟩, cleared⟩ := portClear_eq s m
  rw [← cru, ← fab]
  unfold portPulse portDown groupsHeld
  rw [cleared]
  split <;> rfl

theorem portPulse_fab (s : State) (m : Nat) : (portPulse s m).sdl.fab = s.sdl.fab := by
  obtain ⟨u, ⟨_, _, fab⟩, cleared⟩ := portClear_eq s m
  rw [← fab]
  unfold portPulse portDown
  rw [cleared]
  split <;> rfl

theorem portPulse_mac (s : State) (m : Nat) :
    (portPulse s m).mac = (setPort s m { portOf s m with link := false, paused := none, sending := none }).mac := by
  obtain ⟨u, ⟨mac, _, _⟩, cleared⟩ := portClear_eq s m
  unfold setPort portOf
  dsimp only
  rw [← mac]
  unfold portPulse portDown
  rw [cleared]
  split <;> rfl

/-- Port `m` is in the reset that began at a clock: its link is down, its lane unlocked, its crossing group held. -/
structure PortHeld (t : State) (fab m : Nat) : Prop where
  link : (portOf t m).link = false
  sending : (portOf t m).sending = none
  stat : bit t.cru.portStat m = true
  pll : bit t.cru.pll (16 + m) = false
  pulse : tget t.cru.portPulse m = some (fab + 1000)
  ready : bit t.cru.xcReady (16 + m) = false
  hold : tget t.cru.xcHold (16 + m) = some (fab + 32)
  token : m = 12 ∨ m = 13 → t.cru.token = {}

theorem portHeld_portPulse (s : State) (m : Nat) : PortHeld (portPulse s m) s.sdl.fab m := by
  have port : portOf (portPulse s m) m = { portOf s m with link := false, paused := none, sending := none } := by
    rw [portOf, portPulse_mac]
    exact tat_tset_same _ _ _ _
  have other : 16 + m ≠ 2 := by omega
  refine ⟨by rw [port], by rw [port], ?stat, ?pll, ?pulse, ?ready, ?hold, ?token⟩ <;> rw [portPulse_cru]
  case stat => simp [bit_setBit]
  case pll => simp [bit_clrBit]
  case pulse => exact tget_tset_same _ _ _
  case ready => unfold groupsHeld groupHeld; split <;> simp [bit_clrBit]
  case hold => unfold groupsHeld groupHeld; split <;> simp [tget_tset_same, tget_tset_ne' _ _ _ _ other]
  case token => intro fb; simp [groupsHeld, groupHeld, fb]

/-- The reset of another port leaves a port in its own. -/
theorem PortHeld.other {s : State} {fab k m : Nat} (h : PortHeld s fab k) (ne : k ≠ m) : PortHeld (portPulse s m) fab k := by
  have port : portOf (portPulse s m) k = portOf s k := by
    rw [portOf, portPulse_mac]
    exact tat_tset_ne _ _ _ _ _ ne
  have apart : 16 + k ≠ 16 + m := by omega
  have two : 16 + k ≠ 2 := by omega
  refine ⟨by rw [port, h.link], by rw [port, h.sending], ?stat, ?pll, ?pulse, ?ready, ?hold, ?token⟩ <;> rw [portPulse_cru]
  case stat => simp [bit_setBit, h.stat]
  case pll => simp [bit_clrBit, h.pll]
  case pulse => rw [tget_tset_ne' _ _ _ _ ne, tget_tdel_ne _ _ _ ne, h.pulse]
  case ready => unfold groupsHeld groupHeld; split <;> simp [bit_clrBit, h.ready]
  case hold => unfold groupsHeld groupHeld; split <;> simp [tget_tset_ne' _ _ _ _ apart, tget_tset_ne' _ _ _ _ two, h.hold]
  case token => intro fb; unfold groupsHeld groupHeld; split <;> simp [h.token fb]

theorem foldl_portPulse_fab (ms : List Nat) (s : State) : (ms.foldl portPulse s).sdl.fab = s.sdl.fab := by
  induction ms generalizing s with
  | nil => rfl
  | cons m ms ih => rw [List.foldl_cons, ih, portPulse_fab]

/-- Each port that is reset in a clock is in its reset after the last of them. -/
theorem foldl_portPulse_held (ms : List Nat) (s : State) : ∀ m ∈ ms, PortHeld (ms.foldl portPulse s) s.sdl.fab m := by
  induction ms using List.reverseRecOn with
  | nil => simp
  | append_singleton ms k ih =>
    intro m hm
    rw [List.foldl_append, List.foldl_cons, List.foldl_nil]
    by_cases same : m = k
    · rw [same, ← foldl_portPulse_fab ms s]
      exact portHeld_portPulse _ k
    · refine PortHeld.other (ih m ?_) same
      simpa [same] using hm

theorem portRst_at : commandAt 0x100054 (.cru .CRU_PORT_RST) 0 [⟨15, 0, .wsc, false, 0, 0, 65535, .none⟩] = true := by decide +kernel

/-- A write of CRU_PORT_RST resets each port that it names. -/
theorem exec_cruPortRst {s : State} (up : s.cru.inReset = false) {mid : Mid} (ports : BitVec 16) (may : mayWrite s mid.toNat 0x100054 = true) :
    exec (.cruPortRst mid ports) s = .next (respond ((bitsOf ports.toNat 16).foldl portPulse
      (if ports.toNat = 0 then s else wscNote s 0x100054 ports.toNat)) {}) := by
  have range := ports.isLt
  have sum := (sum_lowField ports.toNat 15 0 0 65535 .wsc false .none).trans (Nat.mod_eq_of_lt range)
  obtain ⟨l, name, copy, addr, written, some_, total⟩ :=
    meshWrite_commandAt portRst_at (by decide) (by decide) (by simp) (by simp) (by simp) may (by omega) sum
  refine (act_up up fun u => meshWrite u mid.toNat 0x100054 ports.toNat).trans (congrArg _ ?_)
  rw [written]
  simp only [commandWrite, some_, total, name, addr, Bool.false_eq_true, if_false, cruWsc]

/-! ### Shadows (R52, R101, R538) -/

/-- From `s` to `t` only shadows have been refreshed. -/
structure OnlyShadows (s t : State) : Prop where
  eq : t = { s with
    reg := { s.reg with shadow := t.reg.shadow, shadowOld := t.reg.shadowOld }, grt := { s.grt with opShadow := t.grt.opShadow } }

theorem OnlyShadows.refl (s : State) : OnlyShadows s s := ⟨rfl⟩

theorem OnlyShadows.trans {s t u : State} (h : OnlyShadows s t) (k : OnlyShadows t u) : OnlyShadows s u := by
  refine ⟨?_⟩
  rw [k.eq, h.eq]

theorem onlyShadows_refreshOpsec (s : State) (a : Nat) : OnlyShadows s (refreshOpsec s a) := by
  unfold refreshOpsec
  split <;> exact ⟨rfl⟩

theorem onlyShadows_refresh (s : State) (l : RegLoc) : OnlyShadows s (refresh s l) := (onlyShadows_refreshOpsec s l.addr).trans ⟨rfl⟩

/-- The words of the Grotto, the Orangery and the ports show no shadow. -/
def shownLive : Reg → Bool
  | .grt _ | .orn _ | .mac _ => true
  | _ => false

theorem OnlyShadows.hwWord {s t : State} (h : OnlyShadows s t) {n : Reg} (live : shownLive n = true) (j i : Nat) :
    hwWord n j i t = hwWord n j i s := by
  rw [h.eq]
  cases n with
  | grt r => rfl
  | orn r => rfl
  | mac r => rfl
  | _ => cases live

/-- Seeing a restart or a fallback of the Orangery reports it, and changes neither what a shadow holds nor what the Grotto and the Orangery are. -/
structure SeenOnly (s t : State) : Prop where
  mem : t.mem = s.mem
  cru : t.cru = s.cru
  grt : t.grt = s.grt
  orn : t.orn = s.orn
  shadow : t.reg.shadow = s.reg.shadow

theorem ornSeen_other (s : State) {a : Nat} (other : a ≠ 0xB00040) : ornSeen s a = s := if_pos other

theorem seenOnly_ornSeen (s : State) (a : Nat) : SeenOnly s (ornSeen s a) := by
  unfold ornSeen
  split
  · exact ⟨rfl, rfl, rfl, rfl, rfl⟩
  · extract_lets w up old integ seen
    split
    · have fault := reports_fault (drew seen) 20 [drawn 32 seen]
      exact ⟨fault.mem, fault.cru, fault.grt, fault.orn, fault.shadow⟩
    · exact ⟨rfl, rfl, rfl, rfl, rfl⟩

/-- The word of the Orangery shows the Orangery alone. -/
theorem hwWord_orn {s t : State} (h : t.orn = s.orn) (r : OrnReg) (j i : Nat) : hwWord (.orn r) j i t = hwWord (.orn r) j i s := by
  have bank : ornBank t = ornBank s := by rw [ornBank, ornBank, h]
  cases r <;> simp only [hwWord, ornRo, sealPin, ornParams_congr h, sealOpen_congr h, auditFree_congr h, bank, h]

/-- A refresh of a shadow that is no group's, or of a group that is ready. -/
theorem shadowRefresh_ready {s : State} {a : Nat} {l : RegLoc} (here : regAt a = some l) (listed : hasShadow l = true)
    (up : s.cru.inReset = false) (ready : ∀ g, groupOf l = some g → bit s.cru.xcReady g = true) : shadowRefresh s a = ornSeen (refresh s l) a := by
  simp only [shadowRefresh, here, listed, Bool.true_and]
  cases group : groupOf l with
  | none => simp [up]
  | some g => simp [ready g group]

/-- A refresh is made and seen, or is none. -/
theorem shadowRefresh_cases (s : State) (a : Nat) :
    shadowRefresh s a = s ∨ ∃ l, regAt a = some l ∧ shadowRefresh s a = ornSeen (refresh s l) a := by
  unfold shadowRefresh
  split
  next => exact .inl rfl
  next l here =>
    extract_lets ready
    split
    · exact .inr ⟨l, here, rfl⟩
    · exact .inl rfl

theorem onlyShadows_shadowRefresh (s : State) {a : Nat} (other : a ≠ 0xB00040) : OnlyShadows s (shadowRefresh s a) := by
  rcases shadowRefresh_cases s a with same | ⟨l, _, made⟩
  · rw [same]
    exact .refl s
  · rw [made, ornSeen_other _ other]
    exact onlyShadows_refresh s l

theorem shadowRefresh_orn (s : State) (a : Nat) : (shadowRefresh s a).orn = s.orn := by
  rcases shadowRefresh_cases s a with same | ⟨l, _, made⟩
  · rw [same]
  · rw [made, (seenOnly_ornSeen _ a).orn, (onlyShadows_refresh s l).eq]

theorem shadowRefresh_cru (s : State) (a : Nat) : (shadowRefresh s a).cru = s.cru := by
  rcases shadowRefresh_cases s a with same | ⟨l, _, made⟩
  · rw [same]
  · rw [made, (seenOnly_ornSeen _ a).cru, (onlyShadows_refresh s l).eq]

/-- A refresh of a register's shadow leaves the shadow of another. -/
theorem shadowRefresh_shadow_ne (s : State) {a b : Nat} {l : RegLoc} (here : regAt b = some l) (addr : l.addr = b) (ne : a ≠ b) :
    tget (shadowRefresh s b).reg.shadow a = tget s.reg.shadow a := by
  rcases shadowRefresh_cases s b with same | ⟨k, there, made⟩
  · rw [same]
  · obtain rfl : l = k := Option.some.inj (here.symm.trans there)
    have shadow : (refreshOpsec s l.addr).reg.shadow = s.reg.shadow := by
      unfold refreshOpsec
      split <;> rfl
    rw [made, (seenOnly_ornSeen _ b).shadow, refresh]
    dsimp only
    rw [tget_tset_ne' _ _ _ _ (by rw [addr]; exact ne), shadow]

/-- What a refreshed shadow takes. -/
theorem ornSeen_refresh_shadow (s : State) (l : RegLoc) (a : Nat) : tget (ornSeen (refresh s l) a).reg.shadow l.addr =
    some (hwWord l.desc.name l.page.j l.i (refreshOpsec s l.addr) % 2 ^ 32) := by
  rw [(seenOnly_ornSeen _ a).shadow]
  exact tget_tset_same _ _ _

/-! ### Crossing groups (R100–R102, R659) -/

/-- A register of the Orangery. -/
def ornReg : Reg → Bool
  | .orn _ => true
  | _ => false

/-- At `a` stands a register whose shadow group `g` carries: the Orangery's are those of group 1. -/
def carries (g a : Nat) : Bool :=
  (regAt a).any fun l => hasShadow l && shownLive l.desc.name && (ornReg l.desc.name == decide (g = 1)) &&
    decide (l.addr = a ∧ groupOf l = some g ∧ (a = 0xB00040 → g = 1))

theorem shadowsOf_carried (g : XGroup) : ∀ a ∈ shadowsOf (xgroupIndex g), carries (xgroupIndex g) a = true := by
  rw [← List.all_eq_true]
  cases g with
  | grt => decide +kernel
  | orn => decide +kernel
  | token => rfl
  | port m =>
    have ports : ∀ m : Fin 16, ((shadowsOf (16 + m.val)).all (carries (16 + m.val))) = true := by decide +kernel
    exact ports m

/-- What the map says of a register whose shadow a group carries. -/
structure Carried (g a : Nat) (l : RegLoc) : Prop where
  listed : hasShadow l = true
  live : shownLive l.desc.name = true
  addr : l.addr = a
  group : groupOf l = some g
  stat : a = 0xB00040 → g = 1
  orn : g = 1 → ∃ r, l.desc.name = .orn r

theorem carried_of_carries {g a : Nat} (h : carries g a = true) : ∃ l, regAt a = some l ∧ Carried g a l := by
  obtain ⟨l, here, row⟩ := (Option.any_eq_true ..).1 h
  simp only [Bool.and_eq_true, beq_iff_eq, decide_eq_true_eq] at row
  obtain ⟨⟨⟨listed, live⟩, orn⟩, addr, group, stat⟩ := row
  refine ⟨l, here, listed, live, addr, group, stat, fun one => ?_⟩
  rw [decide_eq_true one] at orn
  cases name : l.desc.name with
  | orn r => exact ⟨r, rfl⟩
  | _ => simp [name, ornReg] at orn

/-- The word that a shadow of a group takes is the same after a refresh of the group. -/
theorem Carried.word {g a b : Nat} {l k : RegLoc} (h : Carried g a l) (other : Carried g b k) (s : State) (j i : Nat) :
    hwWord l.desc.name j i (shadowRefresh s b) = hwWord l.desc.name j i s := by
  by_cases one : g = 1
  · obtain ⟨r, name⟩ := h.orn one
    rw [name, hwWord_orn (shadowRefresh_orn s b)]
  · exact (onlyShadows_shadowRefresh s fun e => one (other.stat e)).hwWord h.live j i

theorem foldl_shadowRefresh_cru (as_ : List Nat) (s : State) : (as_.foldl shadowRefresh s).cru = s.cru := by
  induction as_ generalizing s with
  | nil => rfl
  | cons a as_ ih => rw [List.foldl_cons, ih, shadowRefresh_cru]

theorem foldl_shadowRefresh_only (as_ : List Nat) (other : ∀ a ∈ as_, a ≠ 0xB00040) (s : State) : OnlyShadows s (as_.foldl shadowRefresh s) := by
  induction as_ generalizing s with
  | nil => exact .refl s
  | cons a as_ ih =>
    rw [List.forall_mem_cons] at other
    exact (onlyShadows_shadowRefresh s other.1).trans (ih other.2 _)

/-- After the refreshes of a group that is ready, each of its shadows holds what its source shows. -/
theorem foldl_shadowRefresh_word {g : Nat} {s : State} (up : s.cru.inReset = false) (ready : bit s.cru.xcReady g = true) (as_ : List Nat)
    (carried : ∀ a ∈ as_, carries g a = true) : ∀ a ∈ as_, ∀ l, regAt a = some l →
      tget (as_.foldl shadowRefresh s).reg.shadow a = some (hwWord l.desc.name l.page.j l.i (as_.foldl shadowRefresh s) % 2 ^ 32) := by
  induction as_ using List.reverseRecOn with
  | nil => simp
  | append_singleton as_ b ih =>
    intro a ha l here
    have cru := foldl_shadowRefresh_cru as_ s
    rw [List.foldl_append, List.foldl_cons, List.foldl_nil]
    generalize as_.foldl shadowRefresh s = u at ih cru
    obtain ⟨k, there, last⟩ := carried_of_carries (carried b (by simp))
    obtain ⟨_, found, own⟩ := carried_of_carries (carried a ha)
    obtain rfl := Option.some.inj (here.symm.trans found)
    rw [own.word last u]
    by_cases same : a = b
    · subst same
      have made := shadowRefresh_ready (s := u) here own.listed (by rw [cru]; exact up)
        (fun g' h => by rw [cru, ← Option.some.inj (own.group.symm.trans h)]; exact ready)
      have word := ornSeen_refresh_shadow u l a
      rw [own.addr, (onlyShadows_refreshOpsec u a).hwWord own.live] at word
      rw [made, word]
    · rw [shadowRefresh_shadow_ne u there last.addr same]
      exact ih (fun c hc => carried c (by simp [hc])) a (by simpa [same] using ha) l here

section
variable {s : State} {g : Nat}

/-- A group whose endpoints are up and whose hold has ended makes its refreshes, and is ready. -/
theorem groupReady_made (idle : bit s.cru.xcReady g = false) (ends : endpointsUp s g = true) (passed : holdOver s g = true) :
    groupReady s g = (shadowsOf g).foldl shadowRefresh { s with cru := { s.cru with xcReady := setBit s.cru.xcReady g } } :=
  if_neg (by simp [idle, ends, passed])

theorem groupReady_held (held : holdOver s g = false) : groupReady s g = s := if_pos (by simp [held])

end

theorem linkUpEvent_up {s : State} {m : Nat} (up : portUp s m = true) : linkUpEvent s m = setPort s m { portOf s m with link := true } := if_pos up

/-- A register with a shadow stands at its own offset. -/
theorem addr_of_shadow {off : BitVec 26} {l : RegLoc} (here : regAt (4 * off.toNat) = some l) (listed : hasShadow l = true) : l.addr = 4 * off.toNat := by
  obtain ⟨f, hf, _⟩ := List.any_eq_true.1 listed
  exact regAt_addr here (Nat.mul_mod_right 4 _) (mbx_of_field here (List.ne_nil_of_mem hf))

/-- Settles O22: the reset of ports, the links, a group that becomes ready or is held, and a refresh. That OPSEC's shadow goes with GRT_PCYC's is
log 16, and that the TOKEN group resets with either Footbridge port log 91. -/
theorem portsAndGroups : Obligations.PortsAndGroups := by
  intro s up
  refine ⟨fun mid ports may => ?_, fun m linked => ?_, fun m => act_up up fun q => linkDownEvent q m.val, fun g idle ends passed => ?_, fun g held => ?_,
    fun off l here listed ready => ?_⟩
  · refine ⟨_, exec_cruPortRst up ports may, fun m hm named => ?_⟩
    have held := foldl_portPulse_held (bitsOf ports.toNat 16) (if ports.toNat = 0 then s else wscNote s 0x100054 ports.toNat) m
      (List.mem_filter.2 ⟨List.mem_range.2 hm, named⟩)
    have fab : (if ports.toNat = 0 then s else wscNote s 0x100054 ports.toNat).sdl.fab = s.sdl.fab := by split <;> rfl
    rw [fab] at held
    exact ⟨held.link, held.sending, held.stat, held.pll, held.pulse, held.ready, held.hold, held.token⟩
  · exact (act_up up fun q => linkUpEvent q m.val).trans (congrArg _ (linkUpEvent_up linked))
  · refine ⟨_, (act_up up fun q => groupReady q (xgroupIndex g)).trans (congrArg _ (groupReady_made idle ends passed)), foldl_shadowRefresh_cru _ _,
      foldl_shadowRefresh_word (s := { s with cru := { s.cru with xcReady := setBit s.cru.xcReady (xgroupIndex g) } }) up (by simp [bit_setBit]) _
        (shadowsOf_carried g), fun other => ?_⟩
    have apart : ∀ a ∈ shadowsOf (xgroupIndex g), a ≠ 0xB00040 := fun a ha stat => by
      obtain ⟨_, _, carried⟩ := carried_of_carries (shadowsOf_carried g a ha)
      exact other (carried.stat stat)
    rw [foldl_shadowRefresh_cru]
    exact (foldl_shadowRefresh_only _ apart _).eq
  · exact (act_up up fun q => groupReady q (xgroupIndex g)).trans (congrArg _ (groupReady_held held))
  · have addr := addr_of_shadow here listed
    have made : exec (.shadowRefresh off) s = .next (ornSeen (refresh s l) (4 * off.toNat)) := by
      refine (act_up up fun q => shadowRefresh q (4 * off.toNat)).trans (congrArg _ (shadowRefresh_ready here listed up fun g group => ?_))
      simpa only [group] using ready
    have seen := seenOnly_ornSeen (refresh s l) (4 * off.toNat)
    refine ⟨fun opsec orn => ?_, _, made, ?_, ?_, ornSeen_refresh_shadow s l _, ?_⟩
    · rw [made, ornSeen_other _ orn, refresh, refreshOpsec, if_neg opsec]
    · rw [seen.mem, (onlyShadows_refresh s l).eq]
    · rw [seen.cru, (onlyShadows_refresh s l).eq]
    · rw [seen.grt, refresh, refreshOpsec]
      split <;> rfl

end Sys2Proof.Machine
end
